-- ==== Sys2Proof/Word.lean ====
section
/-! DEFINITION. The word types of the block: a register (R5), a byte of memory, a 64-bit quantity. -/
namespace Sys2Proof

/-- A register of 32 bits, little-endian in memory (R5). -/
abbrev Word := BitVec 32

/-- One byte of memory. -/
abbrev Byte := BitVec 8

/-- A quantity of 64 bits, which occupies two registers (R5). -/
abbrev Quad := BitVec 64

end Sys2Proof
end

