-- ==== Sys2Proof/Syntax.lean ====
section
/-! DEFINITION. The commands: one constructor of Instr per row of the operation table, and the operands they carry. -/
namespace Sys2Proof

/-- The two control halves (R18). -/
inductive Half where
  | a | b
  deriving DecidableEq, Repr

/-- The other half. -/
def Half.other : Half → Half
  | .a => .b
  | .b => .a

/-- The register views through which a master reaches a half (R24). -/
inductive View where
  | active | a | b
  deriving DecidableEq, Repr

/-- The masters (R406): K16, K32, PCI Express, the service port and the cores of both halves. -/
inductive Master where
  | k16 | k32 | pcie | service
  | core (h : Half) (k : Fin 24)
  deriving DecidableEq, Repr

/-- How a master reaches a register of a half: the master and the view it uses (R25, R406). -/
structure Via where
  m : Master
  v : View
  deriving DecidableEq, Repr

/-- The moves field of an instruction (R322). -/
structure Moves where
  yc : Bool
  xe : Bool
  xs : Bool
  xd : Fin 64
  xp : Fin 4
  xm : Fin 4
  ye : Bool
  ys : Bool
  yd : Fin 64
  yp : Fin 4
  ym : Fin 4
  deriving DecidableEq, Repr

/-- The count operand of LOOP: a D register or the immediate (R323). -/
inductive LoopCount where
  | reg (d : Fin 64)
  | imm (c : BitVec 16)
  deriving DecidableEq, Repr

/-- What the protocol engine and the receive hardware took from a PTP message (R343 to R349). -/
inductive PtpMsg where
  /-- A Sync sample: reference minus base in 2^-16 ns, its receive stamp in TB0 ns, the grandmaster's identity. -/
  | sync (offset : Int) (stamp : Nat) (gm : BitVec 64)
  /-- What the best master clock algorithm and the Announce message gave: grandmaster, steps removed, UTC offset and
  its validity, the port states of X14 and X15, and whether this module is grandmaster. -/
  | announce (gm : BitVec 64) (steps : BitVec 8) (utc : BitVec 16) (utcValid : Bool) (ps14 ps15 : BitVec 4) (isGm : Bool)
  /-- A link delay measured on X14 (port 0) or X15 (port 1), in ns. -/
  | linkDelay (port : Fin 2) (ns : Nat)
  /-- A message that uses an unsupported option (R348). -/
  | unsupported
  deriving DecidableEq, Repr

/-- The channels of the safety island (R191). -/
inductive IslCh where
  | x | y
  deriving DecidableEq, Repr

/-- What a fault of channel X adds to what it computes for one arm (R192, R234): to the speeds in 10^-6 mm/s and to the
distances in 10^-9 mm. -/
structure IslandErr where
  speed : Int
  tool : Int
  dist : Int
  deriving DecidableEq, Repr

/-- A CAN frame as a channel receives it (R385, R389): the identifier as TX.ID holds it, its kind bits, DLC and data. -/
structure CanFrame where
  id : BitVec 29
  ide : Bool
  rtr : Bool
  fdf : Bool
  brs : Bool
  esi : Bool
  dlc : BitVec 4
  data : List Byte
  deriving DecidableEq, Repr

/-- How a transmit attempt ended (R381). -/
inductive CanEnd where
  | sent | lost | error
  deriving DecidableEq, Repr

/-- A bus error as ISO 11898-1 counts it: of a transmitter, of a receiver, a receiver's dominant bit after its error
flag, and a missing acknowledgement, exempt for an error-passive transmitter that saw no dominant bit (R391). -/
inductive CanErr where
  | tx | rx | rxFlag | ack (exempt : Bool)
  deriving DecidableEq, Repr


/-- A pair-link frame by its type, with the fields R374 gives it; the layout of the payloads is open. LINK: module number,
CL, rack pennant held, image CRC. RING_DN: ring, launch offset, ring frame. RING_UP: ring, channel, arrival stamp on servo
time in ns, ring frame. MIRROR: record number, fragment index and count, bytes. CTRL: the pairing values, or a handshake. -/
inductive PairFrame where
  | link (num : BitVec 10) (cl : BitVec 4) (rack : Bool) (crc : Word)
  | ringDn (ring : Fin 8) (off : Nat) (bytes : List Byte)
  | ringUp (ring : Fin 8) (chB : Bool) (stamp : Nat) (bytes : List Byte)
  | mirror (num idx count : Nat) (bytes : List Byte)
  | safe (bytes : List Byte)
  | health (report : List Byte)
  | pairing (num : BitVec 10) (cl : BitVec 4) (crc : Word)
  | handshake
  | reserved
  deriving DecidableEq, Repr

/-- What the host has configured in the endpoint: BARs, Bus Master Enable, MSI-X and its function mask. -/
structure PcieSetup where
  bars : Bool
  bme : Bool
  msix : Bool
  fnMask : Bool
  deriving DecidableEq, Repr


/-- The commands, one constructor per row of the operation table, in its order. -/
inductive Instr where
  /-- POWER_GOOD (R457): The higher supply input exceeds 18 V with the hold-up bank charged; a power-on reset latches the straps and the start sequence begins. -/
  | powerGood (straps : BitVec 14) (passA : Bool) (passB : Bool) (vX17 : BitVec 8) (vP3 : BitVec 8) (revX17 : Bool) (revP3 : Bool)
  /-- KEY_INSERTED (R438): A key is inserted into X20; event 11 is raised, and a start waiting for a key continues. -/
  | keyInserted (id : BitVec 64) (cells : List (Nat × Byte))
  /-- KEY_REMOVED (R438): The key is removed from X20; event 11 is raised and nothing that runs changes. -/
  | keyRemoved
  /-- HOST_GO (R447): Writing HOST_GO makes the reader take the host image in Half A DRAM as the boot image. -/
  | hostGo
  /-- MODULE_RESET (R9): Writing RESET in MOD.CMD resets the whole module except the strap latches. -/
  | moduleReset (passA : Bool) (passB : Bool)
  /-- HALF_RESET (R9): A commanded half reset, a takeover of the half's role or a failed half self-test resets one control half. -/
  | halfReset (h : Half)
  /-- STRAP_CHECK (R433): Once per second the strap contacts are compared with the latched values, and a difference is logged once. -/
  | strapCheck (contacts : BitVec 14)
  /-- SYNC_INSTANT (R356): TB3 reaches n × P; event 40 is raised, S_n is reported, the rail is steered, and the path generator samples for T_{n+2}. -/
  | syncInstant (h : Half)
  /-- RAIL_LOWER (R45): After 1,024 consecutive periods with S_n ≥ 2M, the rail is lowered by 5 mV. -/
  | railLower (h : Half)
  /-- GOVERNOR_LATE_RAMP (R49): At the third tick without a result, σ ramps toward 0 and the governor-late event is raised. -/
  | governorLateRamp (h : Half)
  /-- FEEDBACK_PHASE_END (R112): At t_fb the momentum observer of each arm is released as required work. -/
  | feedbackPhaseEnd (h : Half)
  /-- COMPUTE_WINDOW_OPEN (R43): At t_cw_start the control engine latches feedback, set-points, tagged blocks and live parameters and starts computing. -/
  | computeWindowOpen (h : Half)
  /-- FEED_FORWARD_LATE (R47): After three consecutive stale or flagged periods of an arm, the feed-forward-late event is raised. -/
  | feedForwardLate (h : Half) (j : Fin 16)
  /-- KINEMATICS_LATE (R48): After three consecutive extrapolated periods, the arm's path is aborted with a joint-space stop. -/
  | kinematicsLate (h : Half) (j : Fin 16)
  /-- LOSS_OF_FEEDBACK (R122): After LOF_CNT consecutive missing replies the axis loop is switched off and LOF is set. -/
  | lossOfFeedback (h : Half) (k : Fin 128)
  /-- BLEND_END (R124): After BLEND_N periods the hand-over blend ends and BLENDING clears. -/
  | blendEnd (h : Half) (k : Fin 128)
  /-- GAIN_BLEND_END (R129): After 8 blend periods the working gain set equals the region entry. -/
  | gainBlendEnd (h : Half) (k : Fin 128)
  /-- BRAKE_ENGAGE_TIME_EXPIRY (R126): BRK_T_ENG periods after entering hold, the integrators stop and the torque blends to 0. -/
  | brakeEngageTimeExpiry (h : Half) (k : Fin 128)
  /-- BRAKE_RELEASE_TIME_EXPIRY (R126): BRK_T_REL periods after the brake request clears, the frozen set-point is released to the profile unit. -/
  | brakeReleaseTimeExpiry (h : Half) (k : Fin 128)
  /-- HOME_TORQUE_REACHED (R80): After HOME_TQ_TIME consecutive periods at HOME_TQ, hard-stop homing freezes the set-point and captures p_ref. -/
  | homeTorqueReached (h : Half) (k : Fin 128)
  /-- CE_COMPLETE (R114): The control engine has written every torque of the period into the SET frame buffers. -/
  | ceComplete (h : Half) (dt : Nat)
  /-- MIRROR_RECORD_APPLY (R360): A complete mirror record is applied in the standby half. -/
  | mirrorRecordApply (h : Half)
  /-- MOVE_ABS (R59): Starts a point-to-point move to TARGET_POS on a referenced axis. -/
  | moveAbs (via : Via) (k : Fin 128) (tag : BitVec 8)
  /-- MOVE_REL (R59): Adds TARGET_POS to the present target or commanded position and moves there. -/
  | moveRel (via : Via) (k : Fin 128) (tag : BitVec 8)
  /-- VELOCITY (R57): Starts a jerk-limited change to TARGET_VEL, then constant velocity. -/
  | velocity (via : Via) (k : Fin 128) (tag : BitVec 8)
  /-- GEAR (R62): Couples the axis to its master by the rational ratio GEAR_NUM/GEAR_DEN. -/
  | gear (via : Via) (k : Fin 128) (tag : BitVec 8)
  /-- CAM (R64): Couples the axis to its master through the cam table at CAM_BASE. -/
  | cam (via : Via) (k : Fin 128) (tag : BitVec 8)
  /-- PATH_FOLLOW (R67): Makes the profile unit follow the arm's joint set-point blocks. -/
  | pathFollow (via : Via) (k : Fin 128) (tag : BitVec 8)
  /-- PRF_STOP (R57): Brakes the axis to standstill with D_MAX, or starts the arm's path stop. -/
  | prfStop (via : Via) (k : Fin 128) (tag : BitVec 8)
  /-- PRF_QUICK_STOP (R57): Brakes the axis to standstill with QS_DEC, or starts the arm's path quick stop. -/
  | prfQuickStop (via : Via) (k : Fin 128) (tag : BitVec 8)
  /-- HOME (R77): Starts the homing method selected in HOME_CFG. -/
  | home (via : Via) (k : Fin 128) (tag : BitVec 8)
  /-- LIM_CLEAR (R74): Releases a latched limit at standstill and sets the away restriction. -/
  | limClear (via : Via) (k : Fin 128) (tag : BitVec 8)
  /-- LOCAL_INPUT_EDGE (R70): A raw edge on a standard local input is stamped and begins debouncing; event 204 is raised. -/
  | localInputEdge (i : Fin 44) (level : Bool)
  /-- FAST_INPUT_EDGE (R70): An edge on a fast input is captured with a 10 ns stamp and event 200 to 203 is raised. -/
  | fastInputEdge (i : Fin 4) (level : Bool)
  /-- DEBOUNCE_QUALIFY (R71): An input that has held its new level for the debounce time qualifies the edge with its raw stamp. -/
  | debounceQualify (h : Half) (k : Fin 128) (inp : Fin 3)
  /-- START (R102): ARM.CMD START begins the arm's path from its queue. -/
  | start (via : Via) (j : Fin 16) (tag : BitVec 8)
  /-- ARM_STOP (R101): ARM.CMD STOP brings the arm to a resumable path stop. -/
  | armStop (via : Via) (j : Fin 16) (tag : BitVec 8)
  /-- ARM_QUICK_STOP (R101): ARM.CMD QUICK_STOP brings the arm to a resumable path quick stop. -/
  | armQuickStop (via : Via) (j : Fin 16) (tag : BitVec 8)
  /-- RESUME (R102): Moves σ_stop back to 1.0 and continues a stopped path. -/
  | resume (via : Via) (j : Fin 16) (tag : BitVec 8)
  /-- ARM_ABORT (R101): Quick-stops a moving arm and flushes its queue to idle. -/
  | armAbort (via : Via) (j : Fin 16) (tag : BitVec 8)
  /-- CLEAR_ERR (R92): Clears the arm's queue error and counters so descriptors are accepted again. -/
  | clearErr (via : Via) (j : Fin 16) (tag : BitVec 8)
  /-- Q_WR_WRITE (R92): Advancing Q_WR makes the module check the new descriptors and advance Q_ACK or set Q_ERR. -/
  | qWrWrite (via : Via) (j : Fin 16) (idx : BitVec 7)
  /-- ZONE_SCAN_COMPLETE (R186): The background scan of an accepted segment records its shared-zone intervals. -/
  | zoneScanComplete (h : Half) (j : Fin 16) (seg : Fin 128) (dt : Nat)
  /-- HOIST_GO (R99): Writing the high word of HOIST.GO_PERIOD arms a hoist or refuses it with a RESULT code. -/
  | hoistGo (via : Via) (period : BitVec 64)
  /-- HOIST_LIST_READ (R100): Reading a started or cancelled HOIST.LIST entry frees it. -/
  | hoistListRead (via : Via) (i : Fin 8)
  /-- OBSERVER_HOLD_EXPIRY (R113): After OBS_HOLD periods the momentum observer resumes collision detection. -/
  | observerHoldExpiry (h : Half) (j : Fin 16)
  /-- MODE_REQ_WRITE (R123): A write to CE.MODE requests a control mode, latched at the next window. -/
  | modeReqWrite (via : Via) (k : Fin 128) (req : BitVec 3)
  /-- GT_RELOAD (R130): Blends the working gain set to the present region's entry. -/
  | gtReload (via : Via) (k : Fin 128)
  /-- RC_CLEAR (R135): Starts clearing the axis's learning memory. -/
  | rcClear (via : Via) (k : Fin 128)
  /-- RC_CLEAR_COMPLETE (R135): Every learning point of the axis is 0 and u_rc resumes. -/
  | rcClearComplete (h : Half) (k : Fin 128)
  /-- LEARNING_MEMORY_WRITE (R135): A write to the learning-memory window is accepted only while RC_LEARN is 0. -/
  | learningMemoryWrite (via : Via) (off : Fin 524288) (value : Word)
  /-- CLR_MIN (R44): Sets SLACK_MIN to 0x7F_FFFF. -/
  | clrMin (via : Via)
  /-- SYS_CLR_CNT (R47): Clears the late counters in SYS.LATE_CNT0 and SYS.LATE_CNT1. -/
  | sysClrCnt (via : Via)
  /-- SOLVER_SUBMIT (R140): A write to SOLV.SUBMIT copies the descriptor into a channel queue or refuses it with a port code. -/
  | solverSubmit (via : Via) (port : Fin 32) (value : Word)
  /-- SOLVER_PROBLEM_COMPLETE (R144): A channel writes a problem's outputs and result record and raises its completion event. -/
  | solverProblemComplete (h : Half) (k : Fin 18)
  /-- CHANNEL_RESET (R166): CH.CTRL RESET abandons the channel's work with refusal code 12 and clears its queue. -/
  | channelReset (via : Via) (k : Fin 18)
  /-- CH_CLR_CNT (R166): Clears the solver channel counters CH.CNT0 to CH.CNT2. -/
  | chClrCnt (via : Via) (k : Fin 18)
  /-- SP_LOAD (R161): SP.LOAD_CMD GO starts loading a sparse schedule into a slot, or refuses it. -/
  | spLoad (via : Via) (slot : Fin 8) (chan : Bool)
  /-- SP_LOAD_COMPLETE (R161): A schedule load finishes its copy and check and raises event 148. -/
  | spLoadComplete (h : Half) (chan : Bool) (slot : Fin 8)
  /-- BOUNDARY_MESSAGE_RECEIVE (R181): A boundary message part is received, de-duplicated and stored as the sender's newest message. -/
  | boundaryMessageReceive (h : Half) (src : Word) (datagram : List Byte)
  /-- PEER_SILENT (R180): A member's newest message grows older than H/4 ticks and it is marked silent. -/
  | peerSilent (h : Half) (i : Fin 8)
  /-- ADMISSION_REFUSED (R179): A cell not listed 16 ticks after its first message sets ADMIT_REFUSED. -/
  | admissionRefused (h : Half)
  /-- DROP (R180): GOV.CMD DROP removes a silent member from the coordinator's list. -/
  | drop (via : Via) (num : BitVec 10)
  /-- GOV_CLR_CNT (R176): Clears GOV.CNT0 and GOV.CNT1. -/
  | govClrCnt (via : Via)
  /-- SAFETY_CYCLE (R191): Every 500 µs both island channels evaluate every safety function, cross-compare and drive the outputs. -/
  | safetyCycle (xNs : Nat) (errX : List IslandErr) (errY : List IslandErr) (read : BitVec 24)
  /-- SS1_TIME_EXPIRY (R203): t_SS1 after the decision, STO is sent and the group's STO and OSSD pairs go off. -/
  | ss1TimeExpiry (g : Fin 16)
  /-- DWELL_EXPIRY (R238): A stop outcome held for DWELL with all conditions true is released. -/
  | dwellExpiry (a : Fin 16)
  /-- UNLOCK_DELAY_EXPIRY (R207): UNLOCK_DELAY after the safe state is reached, the guard lock is released. -/
  | unlockDelayExpiry (f : Fin 32)
  /-- TWO_HAND_WINDOW_EXPIRY (R208): Both pairs not actuated within 500 ms blocks enabling until both are released. -/
  | twoHandWindowExpiry (f : Fin 32)
  /-- SAFETY_CONTACT_QUALIFY (R197): A safety contact that held a level for its filter time qualifies it, and the pair demands or releases. -/
  | safetyContactQualify (ch : IslCh) (c : Fin 24) (level : Bool)
  /-- DISCREPANCY_TIMEOUT (R198): The contacts of a pair differ longer than the discrepancy time, and a pair fault is latched. -/
  | discrepancyTimeout (p : Fin 12)
  /-- TEST_PULSE (R198): A test output pulses low for 200 µs and the contacts assigned to it are checked for shorts. -/
  | testPulse (t : Fin 4) (low : BitVec 24)
  /-- OUTPUT_TEST_PULSE (R200): An output of an on pair is switched off for 200 µs and its readback checked. -/
  | outputTestPulse (o : Fin 24) (read : BitVec 24)
  /-- RESET_INPUT_RELEASE (R206): Release of a reset input after a valid press resets the functions it serves, or is rejected. -/
  | resetInputRelease (c : Fin 24)
  /-- ISLAND_RESET (R193): Release of the island reset input leaves the fault state and starts the island self-test. -/
  | islandReset (c : Fin 24)
  /-- ISLAND_SELF_TEST_COMPLETE (R193): The island self-test completes and the island returns to normal operation. -/
  | islandSelfTestComplete (pass : Bool)
  /-- SWITCH_CHANGE (R213): A change of an S1 switch takes effect in the next cycle, or sets ADDR_CHANGED for the address. -/
  | switchChange (x : BitVec 12) (y : BitVec 12)
  /-- LOAD (R215): ISL.CMD LOAD puts every group into category 0 and checks the staged safety section. -/
  | load (m : Master)
  /-- LOAD_COMPLETE (R215): The staged section becomes the loaded section, or LOAD_FAIL is set. -/
  | loadComplete
  /-- FP_ACCEPT (R217): A write of FP_LOADED to ISL.FP_ACCEPT accepts the fingerprint, otherwise ACCEPT_FAIL is set. -/
  | fpAccept (m : Master) (value : Word)
  /-- SECTION_STAGING_WRITE (R215): A write into the section staging window, accepted only while SEAL_WE is open. -/
  | sectionStagingWrite (m : Master) (off : Fin 262144) (value : Word)
  /-- ISL_STATUS_READ (R215): A read of ISL.STATUS clears WR_REFUSED. -/
  | islStatusRead (m : Master)
  /-- SSM_TEST_GO (R230): SSM.TEST GO demands the arm's stop as a distance stop and measures its stopping time and distance. -/
  | ssmTestGo (m : Master) (a : BitVec 4)
  /-- SMSG_CLR_CNT (R253): Clears every safe-connection counter and sets every WD_MIN to 0xFFFF. -/
  | smsgClrCnt (m : Master)
  /-- SAFE_PDU_RECEIVE (R253): A safe PDU is checked for CRC, sequence and time and advances or resets its connection. -/
  | safePduReceive (c : Fin 64) (pdu : List Byte)
  /-- SAFE_WATCHDOG_EXPIRY (R252): No PDU accepted by the connection deadline drives it to its safe state. -/
  | safeWatchdogExpiry (c : Fin 64) (ch : IslCh)
  /-- SAFE_PDU_SEND (R245): The island sends a new safe PDU at the connection's send opportunity. -/
  | safePduSend (c : Fin 64)
  /-- ISLAND_OVERTEMP (R460): The island's own sensor reaches 115 °C and the island enters its fault state. -/
  | islandOvertemp
  /-- SCHEDULE_ENTRY_LAUNCH (R272): The ring controller launches an active schedule entry's frame at its offset, inserting any safe PDU. -/
  | scheduleEntryLaunch (h : Half) (r : Fin 8) (e : Fin 192)
  /-- REPLY_RECEIVE (R276): A REPLY copy is accepted or discarded, and positions, status and margins are updated. -/
  | replyReceive (h : Half) (r : Fin 8) (chB : Bool) (ns : Nat) (frame : List Byte)
  /-- SLOT_VIOLATION (R288): A frame or signal outside the windows is counted, and 4 in 64 periods mark the channel unusable. -/
  | slotViolation (h : Half) (r : Fin 8) (chB : Bool) (node : Option (Fin 32))
  /-- NODE_MISSING (R284): A node without an accepted REPLY for the largest LOF_CNT of its axes is marked missing. -/
  | nodeMissing (h : Half) (r : Fin 8) (node : Fin 24)
  /-- RING_LOST (R286): No REPLY accepted for 16 periods, or both channels unusable, stops the ring. -/
  | ringLost (h : Half) (r : Fin 8)
  /-- RING_AUTO_RESTART (R286): Once per second a lost ring with AUTO_RESTART is started again. -/
  | ringAutoRestart (h : Half) (r : Fin 8)
  /-- RING_LINK_DOWN (R289): The link at one end drops and the channel received there is marked unusable. -/
  | ringLinkDown (h : Half) (r : Fin 8) (end2 : Bool)
  /-- RING_LINK_UP (R281): A ring end's link comes up, advancing ring start or beginning the channel's return. -/
  | ringLinkUp (h : Half) (r : Fin 8) (end2 : Bool) (cable : Bool)
  /-- CHANNEL_RETURN (R289): A channel whose link returned and showed no violation for 64 periods returns to use. -/
  | channelReturn (h : Half) (r : Fin 8) (chB : Bool)
  /-- NODE_READMIT (R285): A node that regained logic power is re-admitted through MBX entries for node 0x1F. -/
  | nodeReadmit (h : Half) (r : Fin 8) (node : Fin 24) (launchA : Nat) (launchB : Nat) (frame : List Byte)
  /-- RING_START (R281): RING.CTRL START, or the start sequence, begins the ring start with CLAIM. -/
  | ringStart (via : Via) (r : Fin 8) (auto : Bool)
  /-- RING_STOP (R281): RING.CTRL STOP ends sending on the ring. -/
  | ringStop (via : Via) (r : Fin 8) (auto : Bool)
  /-- RESTART (R281): Stops the ring and starts it again with a new epoch. -/
  | restart (via : Via) (r : Fin 8) (auto : Bool)
  /-- RING_CLR_CNT (R277): Clears the ring counters and smallest margins. -/
  | ringClrCnt (via : Via) (r : Fin 8) (auto : Bool)
  /-- CH_CLR (R288): Returns both ring channels to use. -/
  | chClr (via : Via) (r : Fin 8) (auto : Bool)
  /-- CLAIM_RECEIVE (R282): A returning or foreign CLAIM resolves the claim, withdraws, reclaims or backs off. -/
  | claimReceive (h : Half) (r : Fin 8) (own : Bool) (valid : Bool) (pennant : Bool) (epoch : BitVec 8)
  /-- CLAIM_TIMEOUT (R282): An own CLAIM not returned within D_max,k + 20 µs starts the backoff rule. -/
  | claimTimeout (h : Half) (r : Fin 8)
  /-- CLAIM_BACKOFF_EXPIRY (R282): At the end of the backoff without a foreign CLAIM, the claimant sends CLAIM again. -/
  | claimBackoffExpiry (h : Half) (r : Fin 8)
  /-- ENUM_RETURN (R281): The ENUM frame returns at end 2, and its HOPS count is checked against the schedule. -/
  | enumReturn (h : Half) (r : Fin 8) (hops : BitVec 5)
  /-- MEASURE_RETURN (R274): A MEASURE frame returns, giving D_A or D_B. -/
  | measureReturn (h : Half) (r : Fin 8) (chB : Bool) (launch : Nat) (delay : Nat)
  /-- REPORT_RECEIVE (R283): A node's REPORT gives identity, level, axes and delays, checked against the schedule. -/
  | reportReceive (h : Half) (r : Fin 8) (frame : List Byte)
  /-- START_STEP_TIMEOUT (R283): A ring start step exceeding its bound fails the start with its FAIL_CODE. -/
  | startStepTimeout (h : Half) (r : Fin 8)
  /-- RING_RUNNING (R281): Every node's REPLY accepted in 16 consecutive periods with margin puts the ring into running. -/
  | ringRunning (h : Half) (r : Fin 8)
  /-- MBX_SEND (R270): RING.MBX_CTRL SEND queues the transmit buffer to a node. -/
  | mbxSend (via : Via) (r : Fin 8) (node : BitVec 5) (len : BitVec 8)
  /-- RX_ACK (R270): Releases the mailbox receive buffer. -/
  | rxAck (via : Via) (r : Fin 8)
  /-- MBX_RECEIVE (R270): An uplink MBX frame delivers a message or acknowledgement. -/
  | mbxReceive (h : Half) (r : Fin 8) (frame : List Byte)
  /-- MBX_TX_FAIL (R270): After 64 unacknowledged repetitions the mailbox sets TX_FAIL. -/
  | mbxTxFail (h : Half) (r : Fin 8)
  /-- NOP (R323): Issues the instruction's moves only. -/
  | nop (h : Half) (k : Fin 24) (mv : Moves)
  /-- MAC (R306): Adds one exact product to an accumulator. -/
  | mac (h : Half) (k : Fin 24) (aa : Fin 4) (sa : Fin 64) (sb : Fin 64) (mv : Moves)
  /-- MAC2 (R306): Adds two exact products to two accumulators. -/
  | mac2 (h : Half) (k : Fin 24) (aa : Fin 4) (ab : Fin 4) (sa : Fin 64) (sb : Fin 64) (sc : Fin 64) (sd : Fin 64) (mv : Moves)
  /-- MSU2 (R306): Subtracts two exact products from two accumulators. -/
  | msu2 (h : Half) (k : Fin 24) (aa : Fin 4) (ab : Fin 4) (sa : Fin 64) (sb : Fin 64) (sc : Fin 64) (sd : Fin 64) (mv : Moves)
  /-- MPY2 (R306): Sets two accumulators to two exact products. -/
  | mpy2 (h : Half) (k : Fin 24) (aa : Fin 4) (ab : Fin 4) (sa : Fin 64) (sb : Fin 64) (sc : Fin 64) (sd : Fin 64) (mv : Moves)
  /-- MACF2 (R306): Adds two fractional products shifted left by 1. -/
  | macf2 (h : Half) (k : Fin 24) (aa : Fin 4) (ab : Fin 4) (sa : Fin 64) (sb : Fin 64) (sc : Fin 64) (sd : Fin 64) (mv : Moves)
  /-- MSUF2 (R306): Subtracts two fractional products shifted left by 1. -/
  | msuf2 (h : Half) (k : Fin 24) (aa : Fin 4) (ab : Fin 4) (sa : Fin 64) (sb : Fin 64) (sc : Fin 64) (sd : Fin 64) (mv : Moves)
  /-- MACSU2 (R306): Adds two signed-by-unsigned products. -/
  | macsu2 (h : Half) (k : Fin 24) (aa : Fin 4) (ab : Fin 4) (sa : Fin 64) (sb : Fin 64) (sc : Fin 64) (sd : Fin 64) (mv : Moves)
  /-- FMA (R310): binary32 fused multiply-add into Dd. -/
  | fma (h : Half) (k : Fin 24) (t : Fin 32) (sa : Fin 64) (sb : Fin 64) (mv : Moves)
  /-- FMA2 (R310): Two binary32 fused multiply-adds. -/
  | fma2 (h : Half) (k : Fin 24) (t : Fin 32) (sa : Fin 64) (sb : Fin 64) (sc : Fin 64) (sd : Fin 64) (mv : Moves)
  /-- FMS2 (R310): Two binary32 fused multiply-subtracts. -/
  | fms2 (h : Half) (k : Fin 24) (t : Fin 32) (sa : Fin 64) (sb : Fin 64) (sc : Fin 64) (sd : Fin 64) (mv : Moves)
  /-- FMUL2 (R310): Two binary32 products. -/
  | fmul2 (h : Half) (k : Fin 24) (t : Fin 32) (sa : Fin 64) (sb : Fin 64) (sc : Fin 64) (sd : Fin 64) (mv : Moves)
  /-- FADD2 (R310): Two binary32 sums. -/
  | fadd2 (h : Half) (k : Fin 24) (t : Fin 32) (sa : Fin 64) (sb : Fin 64) (sc : Fin 64) (sd : Fin 64) (mv : Moves)
  /-- FSUB2 (R310): Two binary32 differences. -/
  | fsub2 (h : Half) (k : Fin 24) (t : Fin 32) (sa : Fin 64) (sb : Fin 64) (sc : Fin 64) (sd : Fin 64) (mv : Moves)
  /-- MOVD (R323): Copies a data register. -/
  | movd (h : Half) (k : Fin 24) (dd : Fin 64) (sa : Fin 64) (mv : Moves)
  /-- ADD (R305): Wrapping integer addition. -/
  | add (h : Half) (k : Fin 24) (dd : Fin 64) (sa : Fin 64) (sb : Fin 64) (mv : Moves)
  /-- SUB (R305): Wrapping integer subtraction. -/
  | sub (h : Half) (k : Fin 24) (dd : Fin 64) (sa : Fin 64) (sb : Fin 64) (mv : Moves)
  /-- ADDS (R305): Saturating integer addition. -/
  | adds (h : Half) (k : Fin 24) (dd : Fin 64) (sa : Fin 64) (sb : Fin 64) (mv : Moves)
  /-- SUBS (R305): Saturating integer subtraction. -/
  | subs (h : Half) (k : Fin 24) (dd : Fin 64) (sa : Fin 64) (sb : Fin 64) (mv : Moves)
  /-- AND (R323): Bitwise AND. -/
  | and (h : Half) (k : Fin 24) (dd : Fin 64) (sa : Fin 64) (sb : Fin 64) (mv : Moves)
  /-- OR (R323): Bitwise OR. -/
  | or (h : Half) (k : Fin 24) (dd : Fin 64) (sa : Fin 64) (sb : Fin 64) (mv : Moves)
  /-- XOR (R323): Bitwise XOR. -/
  | xor (h : Half) (k : Fin 24) (dd : Fin 64) (sa : Fin 64) (sb : Fin 64) (mv : Moves)
  /-- ANDN (R323): Sa AND NOT Sb. -/
  | andn (h : Half) (k : Fin 24) (dd : Fin 64) (sa : Fin 64) (sb : Fin 64) (mv : Moves)
  /-- SHL (R323): Left shift by Sb[4:0]. -/
  | shl (h : Half) (k : Fin 24) (dd : Fin 64) (sa : Fin 64) (sb : Fin 64) (mv : Moves)
  /-- SHR (R323): Logical right shift. -/
  | shr (h : Half) (k : Fin 24) (dd : Fin 64) (sa : Fin 64) (sb : Fin 64) (mv : Moves)
  /-- SRA (R323): Arithmetic right shift. -/
  | sra (h : Half) (k : Fin 24) (dd : Fin 64) (sa : Fin 64) (sb : Fin 64) (mv : Moves)
  /-- SHLS (R305): Saturating left shift. -/
  | shls (h : Half) (k : Fin 24) (dd : Fin 64) (sa : Fin 64) (sb : Fin 64) (mv : Moves)
  /-- MIN (R323): Signed minimum. -/
  | min (h : Half) (k : Fin 24) (dd : Fin 64) (sa : Fin 64) (sb : Fin 64) (mv : Moves)
  /-- MAX (R323): Signed maximum. -/
  | max (h : Half) (k : Fin 24) (dd : Fin 64) (sa : Fin 64) (sb : Fin 64) (mv : Moves)
  /-- MINU (R323): Unsigned minimum. -/
  | minu (h : Half) (k : Fin 24) (dd : Fin 64) (sa : Fin 64) (sb : Fin 64) (mv : Moves)
  /-- MAXU (R323): Unsigned maximum. -/
  | maxu (h : Half) (k : Fin 24) (dd : Fin 64) (sa : Fin 64) (sb : Fin 64) (mv : Moves)
  /-- ABS (R305): Saturating absolute value. -/
  | abs (h : Half) (k : Fin 24) (dd : Fin 64) (sa : Fin 64) (mv : Moves)
  /-- NEG (R305): Saturating negation. -/
  | neg (h : Half) (k : Fin 24) (dd : Fin 64) (sa : Fin 64) (mv : Moves)
  /-- CMP (R309): Signed compare setting the conditions. -/
  | cmp (h : Half) (k : Fin 24) (sa : Fin 64) (sb : Fin 64) (mv : Moves)
  /-- CMPU (R309): Unsigned compare setting the conditions. -/
  | cmpu (h : Half) (k : Fin 24) (sa : Fin 64) (sb : Fin 64) (mv : Moves)
  /-- SEL (R323): Selects Sa or Sb by the condition code. -/
  | sel (h : Half) (k : Fin 24) (cond : BitVec 4) (dd : Fin 64) (sa : Fin 64) (sb : Fin 64) (mv : Moves)
  /-- MUL (R323): Low 32 bits of the product. -/
  | mul (h : Half) (k : Fin 24) (dd : Fin 64) (sa : Fin 64) (sb : Fin 64) (mv : Moves)
  /-- MULH (R323): Signed high 32 bits of the product. -/
  | mulh (h : Half) (k : Fin 24) (dd : Fin 64) (sa : Fin 64) (sb : Fin 64) (mv : Moves)
  /-- MULQ (R305): Rounded saturating Q31 product. -/
  | mulq (h : Half) (k : Fin 24) (dd : Fin 64) (sa : Fin 64) (sb : Fin 64) (mv : Moves)
  /-- CLS (R323): Counts leading sign bits. -/
  | cls (h : Half) (k : Fin 24) (dd : Fin 64) (sa : Fin 64) (mv : Moves)
  /-- FADD (R310): binary32 addition. -/
  | fadd (h : Half) (k : Fin 24) (dd : Fin 64) (sa : Fin 64) (sb : Fin 64) (mv : Moves)
  /-- FSUB (R310): binary32 subtraction. -/
  | fsub (h : Half) (k : Fin 24) (dd : Fin 64) (sa : Fin 64) (sb : Fin 64) (mv : Moves)
  /-- FMUL (R310): binary32 multiplication. -/
  | fmul (h : Half) (k : Fin 24) (dd : Fin 64) (sa : Fin 64) (sb : Fin 64) (mv : Moves)
  /-- FMIN (R310): binary32 minimum. -/
  | fmin (h : Half) (k : Fin 24) (dd : Fin 64) (sa : Fin 64) (sb : Fin 64) (mv : Moves)
  /-- FMAX (R310): binary32 maximum. -/
  | fmax (h : Half) (k : Fin 24) (dd : Fin 64) (sa : Fin 64) (sb : Fin 64) (mv : Moves)
  /-- FABS (R323): Clears the sign bit. -/
  | fabs (h : Half) (k : Fin 24) (dd : Fin 64) (sa : Fin 64) (mv : Moves)
  /-- FNEG (R323): Inverts the sign bit. -/
  | fneg (h : Half) (k : Fin 24) (dd : Fin 64) (sa : Fin 64) (mv : Moves)
  /-- FCMP (R309): binary32 compare setting the conditions. -/
  | fcmp (h : Half) (k : Fin 24) (sa : Fin 64) (sb : Fin 64) (mv : Moves)
  /-- FRCPE (R310): Reciprocal estimate. -/
  | frcpe (h : Half) (k : Fin 24) (dd : Fin 64) (sa : Fin 64) (mv : Moves)
  /-- FRSQE (R310): Reciprocal square-root estimate. -/
  | frsqe (h : Half) (k : Fin 24) (dd : Fin 64) (sa : Fin 64) (mv : Moves)
  /-- FTOI (R310): binary32 to int32, rounded and saturated. -/
  | ftoi (h : Half) (k : Fin 24) (dd : Fin 64) (sa : Fin 64) (mv : Moves)
  /-- ITOF (R323): int32 to binary32. -/
  | itof (h : Half) (k : Fin 24) (dd : Fin 64) (sa : Fin 64) (mv : Moves)
  /-- FTOQ (R310): binary32 to Q31, rounded and saturated. -/
  | ftoq (h : Half) (k : Fin 24) (dd : Fin 64) (sa : Fin 64) (mv : Moves)
  /-- QTOF (R323): Q31 to binary32. -/
  | qtof (h : Half) (k : Fin 24) (dd : Fin 64) (sa : Fin 64) (mv : Moves)
  /-- CLRA (R308): Clears an accumulator and its AOV bit. -/
  | clra (h : Half) (k : Fin 24) (an : Fin 4) (mv : Moves)
  /-- MOVA (R308): Loads an accumulator with a shifted register value. -/
  | mova (h : Half) (k : Fin 24) (an : Fin 4) (sa : Fin 64) (sb : Fin 64) (mv : Moves)
  /-- ADDA (R308): Adds one accumulator to another. -/
  | adda (h : Half) (k : Fin 24) (an : Fin 4) (am : Fin 4) (mv : Moves)
  /-- SUBA (R308): Subtracts one accumulator from another. -/
  | suba (h : Half) (k : Fin 24) (an : Fin 4) (am : Fin 4) (mv : Moves)
  /-- NEGA (R308): Negates an accumulator. -/
  | nega (h : Half) (k : Fin 24) (an : Fin 4) (mv : Moves)
  /-- SACR (R307): Shifts, rounds and saturates an accumulator into a register. -/
  | sacr (h : Half) (k : Fin 24) (dd : Fin 64) (an : Fin 4) (sb : Fin 64) (mv : Moves)
  /-- ADDP (R300): Modifies an address register by a register value. -/
  | addp (h : Half) (k : Fin 24) (pn : Fin 12) (sa : Fin 64) (mv : Moves)
  /-- LDI (R323): Loads an immediate into a register. -/
  | ldi (h : Half) (k : Fin 24) (r : BitVec 8) (imm : Word)
  /-- ADDI (R323): Adds an immediate, wrapping. -/
  | addi (h : Half) (k : Fin 24) (dd : Fin 64) (imm : Word)
  /-- ANDI (R323): AND with an immediate. -/
  | andi (h : Half) (k : Fin 24) (dd : Fin 64) (imm : Word)
  /-- ORI (R323): OR with an immediate. -/
  | ori (h : Half) (k : Fin 24) (dd : Fin 64) (imm : Word)
  /-- XORI (R323): XOR with an immediate. -/
  | xori (h : Half) (k : Fin 24) (dd : Fin 64) (imm : Word)
  /-- CMPI (R309): Signed compare with an immediate. -/
  | cmpi (h : Half) (k : Fin 24) (sa : Fin 64) (imm : Word)
  /-- SHLI (R323): Left shift by an immediate. -/
  | shli (h : Half) (k : Fin 24) (dd : Fin 64) (imm : Word)
  /-- SHRI (R323): Logical right shift by an immediate. -/
  | shri (h : Half) (k : Fin 24) (dd : Fin 64) (imm : Word)
  /-- SRAI (R323): Arithmetic right shift by an immediate. -/
  | srai (h : Half) (k : Fin 24) (dd : Fin 64) (imm : Word)
  /-- ADDPI (R300): Modifies an address register by an immediate. -/
  | addpi (h : Half) (k : Fin 24) (pn : Fin 12) (imm : Word)
  /-- BR (R323): Conditional branch with two delay slots. -/
  | br (h : Half) (k : Fin 24) (cond : BitVec 4) (tgt : BitVec 13)
  /-- JR (R323): Conditional jump to an address register. -/
  | jr (h : Half) (k : Fin 24) (cond : BitVec 4) (pn : Fin 12)
  /-- CALL (R323): Sets P10 to the return index and branches. -/
  | call (h : Half) (k : Fin 24) (cond : BitVec 4) (tgt : BitVec 13)
  /-- RET (R323): Jumps to P10. -/
  | ret (h : Half) (k : Fin 24)
  /-- LOOP (R311): Sets up a hardware loop with optional register rotation. -/
  | loop (h : Half) (k : Fin 24) (count : LoopCount) (n : BitVec 7) (rot : Bool)
  /-- END (R315): Ends the work item after its delay slots. -/
  | endItem (h : Half) (k : Fin 24)
  /-- RTI (R319): Returns from an urgent item, restoring IE, LOOPACT and the conditions. -/
  | rti (h : Half) (k : Fin 24)
  /-- EI (R323): Enables urgent interrupts. -/
  | ei (h : Half) (k : Fin 24)
  /-- DI (R323): Disables urgent interrupts. -/
  | di (h : Half) (k : Fin 24)
  /-- SAVELP (R320): Stores the loop state block. -/
  | savelp (h : Half) (k : Fin 24) (pn : Fin 12)
  /-- RESTLP (R320): Reloads the loop state block with the repeat-cache tag check. -/
  | restlp (h : Half) (k : Fin 24) (pn : Fin 12)
  /-- CLRF (R299): Clears the sticky STAT bits named by the mask. -/
  | clrf (h : Half) (k : Fin 24) (mask : BitVec 16)
  /-- MOVR (R323): Copies any register to any register. -/
  | movr (h : Half) (k : Fin 24) (r1 : BitVec 8) (r2 : BitVec 8)
  /-- FLD (R316): Loads one word from a module address and stalls until done. -/
  | fld (h : Half) (k : Fin 24) (dd : Fin 64) (dp : Fin 64)
  /-- FST (R316): Stores one word to a module address and stalls until done. -/
  | fst (h : Half) (k : Fin 24) (dp : Fin 64) (ds : Fin 64)
  /-- COPY (R317): Starts a block copy between local memory and module space. -/
  | copy (h : Half) (k : Fin 24) (dp : Fin 64) (pn : Fin 12) (count : BitVec 13) (mem : BitVec 2) (outbound : Bool)
  /-- WAITC (R317): Stalls until at most k copies remain outstanding. -/
  | waitc (h : Half) (k : Fin 24) (n : BitVec 3)
  /-- HALTD (R323): Halts the core for a debugger breakpoint. -/
  | haltd (h : Half) (k : Fin 24)
  /-- ILLEGAL_INSTRUCTION (R321): A reserved opcode, format, condition, register or field ends the item with a fault. -/
  | illegalInstruction (h : Half) (k : Fin 24) (word : BitVec 64)
  /-- FAR_ACCESS_COMPLETE (R316): An FLD or FST access completes at its target and the core resumes. -/
  | farAccessComplete (h : Half) (k : Fin 24) (lost : Nat)
  /-- COPY_COMPLETE (R317): An outstanding COPY completes in issue order. -/
  | copyComplete (h : Half) (k : Fin 24) (lost : Nat)
  /-- URGENT_INTERRUPT_ENTRY (R318): A core takes an urgent item at an allowed slot boundary and enters its handler. -/
  | urgentInterruptEntry (h : Half) (k : Fin 24)
  /-- WORK_ITEM_END (R315): An item completes once results and copies have landed; it is stamped and the next item starts. -/
  | workItemEnd (h : Half) (k : Fin 24) (dt : Nat)
  /-- ARG_PREFETCH_COMPLETE (R331): The argument prefetch of a next-slot item finishes. -/
  | argPrefetchComplete (h : Half) (k : Fin 24) (lost : Nat)
  /-- HALT (R323): CORE.CTRL HALT stops or resumes issuing. -/
  | halt (via : Via) (k : Fin 24) (on : Bool)
  /-- STEP (R323): Issues one instruction of a halted core. -/
  | coreStep (via : Via) (k : Fin 24)
  /-- CORE_REG_ACCESS (R323): CORE.REG reads and writes are accepted only while the core is halted. -/
  | coreRegAccess (via : Via) (k : Fin 24) (r : BitVec 8) (write : Option Word)
  /-- POST (R327): A write to SCHED.POST releases, merges, re-posts or refuses a work item. -/
  | post (via : Via) (value : Word)
  /-- DEADLINE_ABANDON (R333): An item not started by its deadline with DROP_LATE or REQ is abandoned. -/
  | deadlineAbandon (h : Half) (item : Fin 4096)
  /-- TRACE_FREEZE (R334): 256 entries after the freeze event the trace stops and event 152 is raised. -/
  | traceFreeze (h : Half)
  /-- TR_CLEAR (R334): Empties and restarts the decision trace. -/
  | trClear (via : Via) (freezeEn : Bool) (freezeEvt : BitVec 8)
  /-- DESCRIPTOR_WRITE (R325): A write to a work-item descriptor, discarded when not idle or invalid for a REQ item. -/
  | descriptorWrite (via : Via) (item : Fin 4096) (word : Fin 8) (value : Word)
  /-- EVT_LOST_READ (R336): A read of EVT.LOST clears the count. -/
  | evtLostRead (via : Via) (evt : Fin 256)
  /-- PTP_MESSAGE_RECEIVE (R347): A PTP message is handled by the protocol engine or discarded as unsupported. -/
  | ptpMessageReceive (h : Half) (dom : Fin 2) (msg : PtpMsg)
  /-- TB_LOCK_LOSS (R345): No in-time sample for LOSS_CNT sync intervals unlocks TB1 or TB2. -/
  | tbLockLoss (h : Half) (dom : Fin 2)
  /-- OFS_IN_SAMPLE (R346): The high-word write of TB.OFS_IN gives a software sample to the servo. -/
  | ofsInSample (via : Via) (dom : Fin 2) (value : BitVec 64)
  /-- TB_SET (R346): TB.CMD SET applies the staged value to TB1 or TB2. -/
  | tbSet (via : Via) (dom : Fin 2)
  /-- TB_STAMP (R346): TB.CMD STAMP latches TB0 for the next OFS_IN. -/
  | tbStamp (via : Via) (dom : Fin 2)
  /-- TB_RATE_WRITE (R346): The high-word write of TB.RATE sets a free base's rate. -/
  | tbRateWrite (via : Via) (dom : Fin 2) (value : BitVec 64)
  /-- ALIGN (R355): Sets TB3 to its source and leaves the far state, or is refused. -/
  | align (via : Via)
  /-- RETURN_TO_PRIMARY (R350): TB1 locked for RETURN_S makes TB3 take TB1 as its input again. -/
  | returnToPrimary (h : Half)
  /-- START_WAIT_EXPIRY (R354): With no base locked in START_WAIT, TB3 is set from TB1 in holdover. -/
  | startWaitExpiry (h : Half)
  /-- TIME_ALARM (R359): An alarm's base reaches ALARM_T; its event is raised and a periodic alarm advances. -/
  | timeAlarm (h : Half) (i : Fin 16)
  /-- ALARM_ENABLE (R359): Enabling an alarm whose time has passed fires it at once and sets LATE. -/
  | alarmEnable (via : Via) (i : Fin 16) (base : BitVec 2)
  /-- REFERENCE_SWITCH_TO_MONITOR (R30): The OCXO stops or deviates for 10 ms and both time units switch to the monitor oscillator. -/
  | referenceSwitchToMonitor
  /-- SELF_TEST_CYCLE (R363): Every 10 ms the standby half runs its known-answer tests and writes a health report. -/
  | selfTestCycle (h : Half) (tested : BitVec 12) (failed : BitVec 12) (cores : BitVec 24) (detail : Word) (temp : BitVec 16)
  /-- HEARTBEAT_MISSING (R366): The active half's heartbeat is absent at T_{n+1} and the pennant moves. -/
  | heartbeatMissing (h : Half)
  /-- RAIL_FAULT (R366): The active half's rail leaves range or its regulator faults, and the pennant moves at once. -/
  | railFault (h : Half)
  /-- FATAL_FAULT (R366): The active half reports a fatal fault and the pennant moves at once. -/
  | fatalFault (h : Half)
  /-- ACTIVE_VIEW_HOLD_RELEASE (R25): Resolved accesses drain, and held active-view accesses go to the new active half. -/
  | activeViewHoldRelease
  /-- ARBITER_SELF_CHECK_FAIL (R21): The pennant arbiter's self-check fails and the selector closes for both halves. -/
  | arbiterSelfCheckFail
  /-- SWAP (R366): PEN.CMD SWAP requests a commanded swap of the half or module. -/
  | swap (target : Bool)
  /-- REHEARSE (R376): PEN.CMD REHEARSE requests a rehearsal swap. -/
  | rehearse (target : Bool)
  /-- PEN_CLR_CNT (R376): Clears PEN.CNT and PAIR.CNT. -/
  | penClrCnt
  /-- COMMANDED_SWAP_DUE (R366): The first sync instant at least 2 periods after a swap write moves the pennant. -/
  | commandedSwapDue
  /-- REHEARSAL_END (R376): REH_TIME expires and the pennant returns unless REH_STAY is set. -/
  | rehearsalEnd
  /-- RACK_PENNANT_TAKE (R372): At T_m the standby module holds the lines, claims the split rings with KEEP and bridges. -/
  | rackPennantTake (released : Bool)
  /-- PAIR_LINK_FRAME_RECEIVE (R374): A pair-link frame of any type is received and dispatched, or discarded. -/
  | pairLinkFrameReceive (lane : Fin 2) (crcOk : Bool) (frame : PairFrame)
  /-- PAIR_LANE_DOWN (R374): A lane without a valid LINK frame for 100 µs is down. -/
  | pairLaneDown (lane : Fin 2)
  /-- TX_REQUEST (R380): Writing REQ makes a CAN transmit buffer pending, or aborts it at once if its deadline passed. -/
  | txRequest (via : Via) (c : Fin 4) (b : Fin 3) (ctrl : Word)
  /-- TX_ABORT (R383): ABORT ends a pending buffer that is not sending. -/
  | txAbort (via : Via) (c : Fin 4) (b : Fin 3) (sending : Bool)
  /-- CAN_TX_ATTEMPT_END (R383): A transmit attempt ends in success, lost arbitration or error. -/
  | canTxAttemptEnd (h : Half) (c : Fin 4) (b : Fin 3) (sof : Nat) (result : CanEnd)
  /-- TX_DEADLINE_ABORT (R382): TB0 passes a buffer's deadline while it is not sending, and it ends with DL_ABORT. -/
  | txDeadlineAbort (h : Half) (c : Fin 4) (b : Fin 3)
  /-- CAN_FRAME_RECEIVE (R385): A received frame is filtered and stored in a mailbox, overflow slot or queue. -/
  | canFrameReceive (h : Half) (c : Fin 4) (frame : CanFrame) (stamp : Word)
  /-- CAN_ERROR (R390): A bus error changes TEC or REC and possibly the error state. -/
  | canError (h : Half) (c : Fin 4) (err : CanErr)
  /-- ALONE (R391): 16 consecutive acknowledgement errors set ALONE. -/
  | alone (h : Half) (c : Fin 4)
  /-- INTEGRATION_COMPLETE (R379): 11 recessive bits make an integrating channel error active. -/
  | integrationComplete (h : Half) (c : Fin 4)
  /-- RECOVERY_COMPLETE (R390): 128 recessive sequences end bus-off recovery with the error counters at 0. -/
  | recoveryComplete (h : Half) (c : Fin 4)
  /-- RECOVER (R390): Starts recovery from bus-off. -/
  | recover (via : Via) (c : Fin 4)
  /-- RELEASE_MB (R386): Releases a locked mailbox. -/
  | releaseMb (via : Via) (c : Fin 4) (m : Fin 32)
  /-- CAN_CLR_CNT (R390): Clears CAN.CNT0 to CAN.CNT2. -/
  | canClrCnt (via : Via) (c : Fin 4)
  /-- CAN_MODE_REQUEST (R379): A MODE_REQ write enters configuration or starts integration. -/
  | canModeRequest (via : Via) (c : Fin 4) (ctrl : Word)
  /-- MAILBOX_HEAD_READ (R386): Reading MB.HEAD of a full mailbox locks it. -/
  | mailboxHeadRead (via : Via) (c : Fin 4) (m : Fin 32)
  /-- MAILBOX_LAST_WORD_READ (R386): Reading a locked mailbox's last word releases it and moves in any overflow frame. -/
  | mailboxLastWordRead (via : Via) (c : Fin 4) (m : Fin 32) (off : Fin 76)
  /-- CQ_ACK (R388): Returns a compatibility-queue entry to the queue. -/
  | cqAck (via : Via) (c : Fin 4) (idx : Fin 64)
  /-- POLARITY_SWAPPED (R392): 64 reversed dominant bits set SWAPPED and optionally invert the transceiver. -/
  | polaritySwapped (h : Half) (c : Fin 4)
  /-- STUCK_DOM (R392): A bus dominant for 5 ms sets STUCK_DOM and forces the driver recessive. -/
  | stuckDom (h : Half) (c : Fin 4)
  /-- ARM_RECORD (R398): ACQ.REC ARM arms a record at a sync instant or refuses it. -/
  | armRecord (via : Via) (r : Fin 256)
  /-- DISARM (R403): ACQ.REC DISARM requests the record to stop at the next sync instant. -/
  | disarm (via : Via) (r : Fin 256)
  /-- DISARM_TAKE_EFFECT (R403): At the next sync instant the disarm takes effect. -/
  | disarmTakeEffect (h : Half) (r : Fin 256)
  /-- FORCE (R399): Triggers an armed record at the instant of the write. -/
  | force (via : Via) (r : Fin 256)
  /-- CLEAR (R402): Returns a captured record to idle. -/
  | clear (via : Via) (r : Fin 256)
  /-- RECORD_REARM (R402): The record named by NEXT is armed within 3 periods of a capture. -/
  | recordRearm (h : Half) (r : Fin 256)
  /-- CLR_LOG (R403): Empties the missed-trigger log. -/
  | clrLog (via : Via)
  /-- ACQ_CLR_CNT (R403): Clears ACQ.CNT. -/
  | acqClrCnt (via : Via)
  /-- TRIGGER_INPUT_EDGE (R399): An edge on TRIG0 or TRIG1 is stamped and triggers records that select it. -/
  | triggerInputEdge (t : Fin 2) (rising : Bool)
  /-- HALYARD_EDGE (R425): A qualified halyard-line edge is stamped and raises event 198. -/
  | halyardEdge (line : Fin 8) (low : Bool)
  /-- HALYARD_PULSE_END (R425): A 2 µs halyard drive pulse ends. -/
  | halyardPulseEnd (line : Fin 8)
  /-- HL_PULSE (R425): Pulses halyard lines claimed for user use. -/
  | hlPulse (mask : BitVec 8)
  /-- REMOTE_TRIGGER_RECEIVE (R401): A remote trigger message is de-duplicated and triggers records with its ID. -/
  | remoteTriggerReceive (h : Half) (message : List Byte)
  /-- K16_SLAVE_CYCLE (R412): A K16 memory or I/O cycle addressed to the module is executed and acknowledged. -/
  | k16SlaveCycle (io : Bool) (addr : BitVec 16) (write : Option (BitVec 16))
  /-- K32_SLAVE_CYCLE (R414): A single K32 cycle in the module's windows is executed. -/
  | k32SlaveCycle (addr : Word) (write : Option Word)
  /-- K32_BLOCK_BEAT (R414): One beat of a K32 block transfer is executed or ended with XBERR. -/
  | k32BlockBeat (first : Bool) (addr : Word) (write : Option Word)
  /-- K16_IACK_CYCLE (R424): An acknowledge on a K16 level returns K16_IVEC. -/
  | k16IackCycle (level : Fin 4)
  /-- K32_IACK_CYCLE (R415): An acknowledge on a K32 line returns the lowest pending vector or passes on. -/
  | k32IackCycle (line : Fin 8)
  /-- OUTBOUND_ACCESS (R416): An access to an outbound window requests the bus and runs K16 or K32 cycles. -/
  | outboundAccess (m : Master) (off : BitVec 28) (write : Option Word)
  /-- BUS_GRANT_TIMEOUT (R417): No grant within 100 µs fails the outbound access. -/
  | busGrantTimeout
  /-- BUS_REQUEST (R419): BREQ asserted with BBSY released makes the arbiter grant the bus. -/
  | busRequest (breq : Bool) (bbsy : Bool)
  /-- GRANT_LOST (R419): No BBSY within 2 µs of a grant withdraws and repeats it. -/
  | grantLost
  /-- BUS_TIMER_EXPIRY (R420): No acknowledge within BUS_TIMER asserts BERR or XBERR and records the cycle. -/
  | busTimerExpiry (k32 : Bool) (iosp : Bool) (wrt : Bool) (addr : Word)
  /-- FOREIGN_ARBITER_DETECTED (R421): A grant or BBSY not caused by the module within 10 ms of start stops arbitration. -/
  | foreignArbiterDetected
  /-- INTERRUPT_ASSERTED (R422): Another card asserts a handled level or line and event 242 or 243 is raised. -/
  | interruptAsserted (k32 : Bool) (line : Fin 8) (on : Bool)
  /-- IACK (R422): A write to BPI.IACK runs an acknowledge cycle and stores the vector. -/
  | iack (sel : BitVec 4) (answer : Option (BitVec 16))
  /-- IACK_REASSERT (R422): A line still asserted 10 µs after an acknowledge raises the event again. -/
  | iackReassert
  /-- SYSRST_RECEIVE (R423): SYSRST asserted for 10 µs resets the module or raises event 245. -/
  | sysrstReceive (passA : Bool) (passB : Bool)
  /-- SYSRST_OUT (R418): Drives SYSRST for 100 ms as system controller. -/
  | sysrstOut
  /-- BPI_CLR_CNT (R419): Clears BPI.CNT. -/
  | bpiClrCnt
  /-- DOORBELL (R424): Any write to BPI.DOORBELL raises event 246. -/
  | doorbell (value : Word)
  /-- VEC_PEND_CLEAR (R424): A W1C write clears vector pending bits not set by later events. -/
  | vecPendClear (mask : BitVec 64)
  /-- PCIE_REQUEST (R427): A PCI Express request to a BAR is executed or discarded. -/
  | pcieRequest (bar : Fin 3) (off : Word) (en : List Bool) (data : Option (List Byte)) (poisoned : Bool)
  /-- PCIE_RESET (R427): PERST#, hot reset, FLR or D3hot resets the endpoint only and raises event 244. -/
  | pcieReset (perst : Bool) (d3hot : Bool)
  /-- SERVICE_REQUEST (R429): A service-port datagram is executed word by word, repeated, or answered busy. -/
  | serviceRequest (src : BitVec 48) (datagram : List Byte)
  /-- SNAPSHOT_READ (R409): A read of a multi-part quantity's lowest part snapshots the rest for that master. -/
  | snapshotRead (m : Master) (addr : BitVec 40)
  /-- REGISTER_WRITE (R409): A write to a register without a row of its own is staged or committed and takes effect by R43. -/
  | registerWrite (m : Master) (addr : BitVec 40) (value : Word)
  /-- STAGE_DONE (R439): Starts the check of the image staged in the other key slot. -/
  | stageDone
  /-- STAGE_CHECK_COMPLETE (R439): The staging check ends, writing GEN and READY if every check passed. -/
  | stageCheckComplete
  /-- COMMIT (R440): Starts writing a new image from the present values into the other key slot, or is refused. -/
  | commit
  /-- COMMIT_COMPLETE (R440): The commit writes GEN and READY last and raises event 12. -/
  | commitComplete (ok : Bool)
  /-- STAGE_CANCEL (R439): Clears READY of the other slot if its GEN is higher. -/
  | stageCancel
  /-- KEY_WINDOW_WRITE (R439): A write through the key window is accepted into the other slot or refused. -/
  | keyWindowWrite (off : BitVec 24) (value : Word)
  /-- BROWN_OUT (R458): The supply below 16 V for 2 ms starts hold-up: stops, MRAM writes and refused staging. -/
  | brownOut (vX17 : BitVec 8) (vP3 : BitVec 8)
  /-- HOLDUP_STANDBY_OFF (R458): 0.1 ms into hold-up the standby rail switches off and acquisition stops. -/
  | holdupStandbyOff
  /-- HOLDUP_OUTPUTS_OFF (R458): 6 ms into hold-up the local outputs switch off and CAN stops. -/
  | holdupOutputsOff
  /-- HOLDUP_SAFE_OUTPUTS_OFF (R195): 20 ms into hold-up every OSSD pair and STO pair is off. -/
  | holdupSafeOutputsOff
  /-- HOLDUP_END (R458): 25 ms into hold-up the module switches off or makes a power-on reset. -/
  | holdupEnd (vX17 : BitVec 8) (vP3 : BitVec 8) (straps : BitVec 14) (passA : Bool) (passB : Bool)
  /-- SUPPLY_RETURN (R458): The supply returns during hold-up and event 1 is raised. -/
  | supplyReturn (vX17 : BitVec 8) (vP3 : BitVec 8)
  /-- SUPPLY_REVERSED (R456): An input is reversed and the module runs from the other. -/
  | supplyReversed (p3 : Bool)
  /-- IO_SUPPLY_LOW (R462): The I/O supply falls below 18 V and the local and X10 outputs go off. -/
  | ioSupplyLow
  /-- OUTPUT_OVERLOAD (R462): A local output in current limit or thermal shut-off is latched off. -/
  | outputOverload (j : Fin 16)
  /-- OPEN_WIRE (R462): Input current below 0.35 mA for 100 ms sets OPEN_WIRE. -/
  | openWire (g : Fin 6)
  /-- TEMP_WARNING (R460): Junction temperature reaches 105 °C and event 3 is raised once. -/
  | tempWarning (h : Half)
  /-- TEMP_FATAL (R460): Junction temperature reaches 112 °C and the half reports a fatal fault. -/
  | tempFatal (h : Half)
  /-- IO_SUPPLY_RETURN (R462): The I/O supply L+ returns above 18 V, IO_LOW clears, and the stop groups wait for their resets. -/
  | ioSupplyReturn
  /-- TEMPERATURE_FALL (R460): A half's junction temperature falls below 100 °C, re-arming the warning event and the fatal-fault report and ending the ineligibility. -/
  | temperatureFall (h : Half)
  /-- BUS_RECESSIVE_AGAIN (R392): A CAN bus that was stuck dominant turns recessive again, and the channel's own driver is no longer forced recessive. -/
  | busRecessiveAgain (h : Half) (c : Fin 4)
  /-- PCIE_LINK_STATE_CHANGE (R426): The PCI Express link trains to L0 or leaves it, PCIE_UP changes, and event 244 is raised. -/
  | pcieLinkStateChange (up : Bool) (width : BitVec 3) (speed : BitVec 3) (setup : PcieSetup)
  /-- BUS_GRANT_AT_BGIN (R419): A bus grant arrives at the module's BGIN; the module takes it for its pending outbound access or passes it on BGOUT. -/
  | busGrantAtBgin (answer : Option Word)
  deriving DecidableEq, Repr

end Sys2Proof
end

