-- ==== Sys2Proof/Decode.lean ====
section
/-! DEFINITION. The decoder over the operation table's bits. The table gives no row any bits, so no word spells a command. -/
namespace Sys2Proof

/-- The command a table word spells: none, since the operation table gives its rows no bits. -/
def decodeTableWord (_nbits _w : Nat) : Option Instr := none

end Sys2Proof
end

