-- ==== Sys2Proof/Config.lean ====
section
/-! DEFINITION. What the spec leaves open: free values and uninterpreted functions, none with a body. -/
namespace Sys2Proof

/-- A value the spec does not state; the n-th one taken. State.freeIdx counts them. -/
opaque Config.freeValue : Nat → BitVec 64

/-- The value a register field marked "key" takes from a configuration image: a function of the image's bytes and of
the register's address (in the Half A view for a register of a half). R437 leaves the section bodies to Deulate. -/
opaque Config.keyRegister : List (Nat × BitVec 8) → Nat → BitVec 32

/-- The value a register field marked "section" takes from the loaded safety section's bytes. -/
opaque Config.sectionRegister : List (Nat × BitVec 8) → Nat → BitVec 32

/-- The estimate FRCPE returns before its bound is applied (R310): a function of the operand. -/
opaque Config.frcpe : BitVec 32 → BitVec 32

/-- The estimate FRSQE returns before its bound is applied (R310): a function of the operand. -/
opaque Config.frsqe : BitVec 32 → BitVec 32

/-- The estimated steps of a dense problem R164 does not list: a function of OP, M, N and K. -/
opaque Config.solverSteps : Nat → Nat → Nat → Nat → BitVec 32

/-- The order in which a sparse schedule eliminates the rows of its matrix: a function of the image's bytes, whose program is
Deulate's own (R158). -/
opaque Config.elimOrder : List (BitVec 8) → List Nat

/-- The serial number of the unit (MOD.SERIAL has no stated value). -/
opaque Config.serial : BitVec 64

/-- Prangadan's PCI vendor ID (BPI.PCIE states no value). -/
opaque Config.vendorId : BitVec 16

end Sys2Proof
end

