-- ==== Sys2Proof/Machine/Bits.lean ====
section
/-! DEFINITION. Numbers and bit fields: extraction and insertion in a word, two's complement, rounding and saturation, used by
every unit. -/
namespace Sys2Proof.Machine

/-- Bits hi to lo of x. -/
def bitsOf (x hi lo : Nat) : Nat := (x / 2 ^ lo) % 2 ^ (hi + 1 - lo)

/-- x with bits hi to lo replaced by v (v's higher bits dropped). -/
def setBits (x hi lo v : Nat) : Nat :=
  x - 2 ^ lo * bitsOf x hi lo + 2 ^ lo * (v % 2 ^ (hi + 1 - lo))

/-- Bit i of x. -/
def bitOf (x i : Nat) : Bool := decide ((x / 2 ^ i) % 2 = 1)

/-- x with bit i set or cleared. -/
def setBit (x i : Nat) (b : Bool) : Nat := setBits x i i b.toNat

/-- An n-bit pattern read as a two's-complement number. -/
def toS (n x : Nat) : Int := if x % 2 ^ n < 2 ^ (n - 1) then ((x % 2 ^ n : Nat) : Int) else ((x % 2 ^ n : Nat) : Int) - (2 ^ n : Nat)

/-- The n-bit two's-complement pattern of i, modulo 2^n. -/
def ofS (n : Nat) (i : Int) : Nat := (i % ((2 ^ n : Nat) : Int)).toNat

/-- i held between lo and hi. -/
def clampI (lo hi i : Int) : Int := if i < lo then lo else if hi < i then hi else i

/-- i saturated to n bits, signed. -/
def satS (n : Nat) (i : Int) : Int := clampI (-((2 ^ (n - 1) : Nat) : Int)) (((2 ^ (n - 1) : Nat) : Int) - 1) i

/-- i does not fit n bits, signed. -/
def ovfS (n : Nat) (i : Int) : Bool := decide (satS n i ≠ i)

/-- A value saturated to n bits, and whether it was. -/
def satF (n : Nat) (x : Int) : Int × Bool := (satS n x, ovfS n x)

/-- x saturated to n bits, unsigned. -/
def satU (n x : Nat) : Nat := if 2 ^ n ≤ x then 2 ^ n - 1 else x

/-- a / b rounded to nearest, ties to even (b > 0). -/
def divEven (a b : Int) : Int :=
  let q := a / b
  let r := a % b
  if r * 2 < b then q else if b < r * 2 then q + 1 else if q % 2 = 0 then q else q + 1

/-- a / b rounded to nearest, ties upward (b > 0): add half and take the floor. -/
def divUp (a b : Int) : Int := (a * 2 + b) / (2 * b)

/-- a / b rounded up, natural numbers (b > 0). -/
def divCeil (a b : Nat) : Nat := (a + b - 1) / b

/-- -1, 0 or 1. -/
def sgn (i : Int) : Int := if i < 0 then -1 else if i = 0 then 0 else 1

/-- A Bool as a bit. -/
def b2n (b : Bool) : Nat := if b then 1 else 0

/-- The smallest set bit of x below n, if any. -/
def lowestBit (x : Nat) : Nat → Nat → Option Nat
  | _, 0 => none
  | i, k + 1 => if bitOf x i then some i else lowestBit x (i + 1) k

/-- How many of the low n bits of x are set. -/
def popCount (x : Nat) : Nat → Nat
  | 0 => 0
  | n + 1 => popCount x n + b2n (bitOf x n)

/-- The signed value of a 32-bit word. -/
def sw (w : Word) : Int := w.toInt

/-- The word that holds an integer modulo 2^32. -/
def iw (i : Int) : Word := BitVec.ofInt 32 i

end Sys2Proof.Machine
end

