-- ==== Sys2Proof/Machine/Float32.lean ====
section
/-! DEFINITION. binary32 by exact integers: values m * 2^e, one rounding (nearest, ties to even), subnormals flushed. The rules
that differ between the cores (R310) and the solver array (R146) are applied by their callers. -/
namespace Sys2Proof.Machine

/-- A binary32 datum: NaN (signaling or quiet), infinity, zero, or a nonzero number (-1)^neg * m * 2^e. -/
inductive F32 where
  | nan (sig : Bool)
  | inf (neg : Bool)
  | zero (neg : Bool)
  | fin (neg : Bool) (m : Nat) (e : Int)
  deriving DecidableEq, Repr

/-- The sign of a datum. -/
def F32.neg : F32 → Bool
  | .nan _ => false
  | .inf n => n
  | .zero n => n
  | .fin n _ _ => n

/-- The datum of a pattern; a subnormal reads as zero of its sign, and the Bool says so. -/
def f32Of (w : Nat) : F32 × Bool :=
  let s := bitOf w 31
  let ex := bitsOf w 30 23
  let fr := bitsOf w 22 0
  if ex = 255 then (if fr = 0 then (.inf s, false) else (.nan (!bitOf w 22), false))
  else if ex = 0 then (if fr = 0 then (.zero s, false) else (.zero s, true))
  else (.fin s (2 ^ 23 + fr) ((ex : Int) - 150), false)

/-- The exact value of a pattern with subnormals kept: mantissa and exponent, none for NaN and infinity. -/
def f32Exact (w : Nat) : Option (Int × Int) :=
  let sg : Int := if bitOf w 31 then -1 else 1
  let ex := bitsOf w 30 23
  let fr := bitsOf w 22 0
  if ex = 255 then none
  else if ex = 0 then some (sg * fr, -149)
  else some (sg * ((2 ^ 23 + fr : Nat) : Int), (ex : Int) - 150)

/-- Patterns. -/
def f32Nan : Nat := 0x7FC00000
def f32Inf (neg : Bool) : Nat := if neg then 0xFF800000 else 0x7F800000
def f32Zero (neg : Bool) : Nat := if neg then 0x80000000 else 0
def f32Max (neg : Bool) : Nat := if neg then 0xFF7FFFFF else 0x7F7FFFFF

/-- m / 2^k rounded to nearest, ties to even. -/
def shiftEven (m k : Nat) : Nat :=
  let q := m / 2 ^ k
  let r := m % 2 ^ k
  let half := 2 ^ k / 2
  if k = 0 then m
  else if r < half then q else if half < r then q + 1 else if q % 2 = 0 then q else q + 1

/-- What rounding gives: the pattern, whether a nonzero result below the normal range was flushed to zero, and whether it
overflowed. -/
structure Rounded where
  pat : Nat
  under : Bool
  exceeds : Bool
  deriving DecidableEq, Repr

/-- (-1)^neg * m * 2^e (m > 0) as binary32: nearest, ties to even; what IEEE 754 would give as a subnormal becomes zero
of its sign; overflow gives infinity. -/
def roundF32 (neg : Bool) (m : Nat) (e : Int) : Rounded :=
  if m = 0 then ⟨f32Zero neg, false, false⟩
  else
    let top : Int := e + (Nat.log2 m : Int)
    let quantum : Int := if top < -126 then -149 else top - 23
    let q : Nat := if quantum ≤ e then m * 2 ^ (e - quantum).toNat else shiftEven m (quantum - e).toNat
    let sgn := if neg then 2 ^ 31 else 0
    if q < 2 ^ 23 then ⟨f32Zero neg, true, false⟩
    else
      let (q, quantum) := if q = 2 ^ 24 then (2 ^ 23, quantum + 1) else (q, quantum)
      if 104 < quantum then ⟨f32Inf neg, false, true⟩
      else ⟨sgn + (quantum + 150).toNat * 2 ^ 23 + (q - 2 ^ 23), false, false⟩

/-- (-1)^neg * (num / den) * 2^e as binary32: the quotient carried to 32 bits more than needed with a sticky bit, then
rounded once. -/
def roundRat (neg : Bool) (num den : Nat) (e : Int) : Rounded :=
  let k := 64 + Nat.log2 den
  let q := num * 2 ^ k / den
  let r := num * 2 ^ k % den
  roundF32 neg (2 * q + (if r = 0 then 0 else 1)) (e - k - 1)

/-- The sum of two numbers m * 2^e with signed m. -/
def addExact (a b : Int × Int) : Int × Int :=
  if a.2 ≤ b.2 then (a.1 + b.1 * ((2 ^ (b.2 - a.2).toNat : Nat) : Int), a.2)
  else (a.1 * ((2 ^ (a.2 - b.2).toNat : Nat) : Int) + b.1, b.2)

/-- A result of a binary32 operation and the sticky conditions it raises: invalid, divide by zero, overflow, underflow
or a flushed input. -/
structure FRes where
  pat : Nat
  inv : Bool
  dz : Bool
  ovf : Bool
  unf : Bool
  deriving DecidableEq, Repr

/-- A result without conditions. -/
def FRes.plain (p : Nat) : FRes := ⟨p, false, false, false, false⟩

/-- The NaN result; inv says whether the operation was invalid. -/
def FRes.nan (inv : Bool) : FRes := ⟨f32Nan, inv, false, false, false⟩

/-- A rounded result. -/
def FRes.ofRounded (r : Rounded) : FRes := ⟨r.pat, false, false, r.exceeds, r.under⟩

/-- The result of a signed exact value m * 2^e; an exact zero takes sign negZero. -/
def FRes.ofExact (x : Int × Int) (negZero : Bool) : FRes :=
  if x.1 = 0 then .plain (f32Zero negZero) else .ofRounded (roundF32 (decide (x.1 < 0)) x.1.natAbs x.2)

/-- Add the flushed-input condition of the operands. DESIGN CHOICE (log entry 12). -/
def FRes.flushed (r : FRes) (f : Bool) : FRes := { r with unf := r.unf || f }

/-- Signed mantissa of a nonzero number. -/
def sgnM (neg : Bool) (m : Nat) : Int := if neg then -(m : Int) else (m : Int)

/-- The sum of two data. -/
def addF (x y : F32) : FRes :=
  match x, y with
  | .nan s, .nan t => .nan (s || t)
  | .nan s, _ => .nan s
  | _, .nan t => .nan t
  | .inf s, .inf t => if s = t then .plain (f32Inf s) else .nan true
  | .inf s, _ => .plain (f32Inf s)
  | _, .inf t => .plain (f32Inf t)
  | .zero s, .zero t => .plain (f32Zero (s && t))
  | .zero _, .fin t m e => .ofExact (sgnM t m, e) false
  | .fin s m e, .zero _ => .ofExact (sgnM s m, e) false
  | .fin s m e, .fin t n f => .ofExact (addExact (sgnM s m, e) (sgnM t n, f)) false

/-- The negative of a datum. -/
def negF : F32 → F32
  | .nan s => .nan s
  | .inf s => .inf (!s)
  | .zero s => .zero (!s)
  | .fin s m e => .fin (!s) m e

/-- The exact product of two data. -/
def mulExact (x y : F32) : F32 × Bool :=
  match x, y with
  | .nan s, .nan t => (.nan (s || t), s || t)
  | .nan s, _ => (.nan s, s)
  | _, .nan t => (.nan t, t)
  | .inf _, .zero _ => (.nan false, true)
  | .zero _, .inf _ => (.nan false, true)
  | .inf s, y => (.inf (s != y.neg), false)
  | x, .inf t => (.inf (x.neg != t), false)
  | .zero s, y => (.zero (s != y.neg), false)
  | x, .zero t => (.zero (x.neg != t), false)
  | .fin s m e, .fin t n f => (.fin (s != t) (m * n) (e + f), false)

/-- The product of two data. -/
def mulF (x y : F32) : FRes :=
  match mulExact x y with
  | (.nan _, inv) => .nan inv
  | (.inf s, _) => .plain (f32Inf s)
  | (.zero s, _) => .plain (f32Zero s)
  | (.fin s m e, _) => .ofRounded (roundF32 s m e)

/-- x * y + z rounded once. -/
def fmaF (x y z : F32) : FRes :=
  match mulExact x y with
  | (.nan _, inv) => .nan (inv || (match z with | .nan t => t | _ => false))
  | (p, _) => addF p z

/-- x < y and x = y of two data that are not NaN. -/
def ltF (x y : F32) : Bool :=
  match x, y with
  | .inf s, .inf t => s && !t
  | .inf s, _ => s
  | _, .inf t => !t
  | .zero _, .zero _ => false
  | .zero _, .fin t _ _ => !t
  | .fin s _ _, .zero _ => s
  | .fin s m e, .fin t n f => decide ((addExact (sgnM s m, e) (-(sgnM t n), f)).1 < 0)
  | _, _ => false

/-- Equality of two data that are not NaN: zeros are equal whatever their sign. -/
def eqF (x y : F32) : Bool :=
  match x, y with
  | .inf s, .inf t => s == t
  | .zero _, .zero _ => true
  | .fin s m e, .fin t n f => decide ((addExact (sgnM s m, e) (-(sgnM t n), f)).1 = 0)
  | _, _ => false

/-- m * 2^e rounded to an integer, nearest, ties to even. -/
def toIntEven (m e : Int) : Int :=
  if 0 ≤ e then m * ((2 ^ e.toNat : Nat) : Int) else divEven m ((2 ^ (-e).toNat : Nat) : Int)

/-- 1 / x rounded correctly: infinity of its sign at zero. DESIGN CHOICE (log entry 5). -/
def recipF (x : F32) : FRes :=
  match x with
  | .nan s => .nan s
  | .inf s => .plain (f32Zero s)
  | .zero s => { FRes.plain (f32Inf s) with dz := true }
  | .fin s m e => .ofRounded (roundRat s 1 m (-e))

/-- The integer square root by Newton's steps from above; the fuel exceeds the steps a 256-bit number needs. -/
def isqrtStep (n : Nat) : Nat → Nat → Nat
  | 0, x => x
  | k + 1, x =>
    let y := (x + n / x) / 2
    if y < x then isqrtStep n k y else x

/-- The integer square root of n < 2^512. -/
def isqrt (n : Nat) : Nat := if n = 0 then 0 else isqrtStep n 600 (2 ^ (Nat.log2 n / 2 + 1))

/-- m * 2^e as an even exponent: the same value with e even and m scaled. -/
def evenExp (m : Nat) (e : Int) : Nat × Int := if e % 2 = 0 then (m, e) else (2 * m, e - 1)

/-- The square root of m * 2^e rounded once, with a sticky bit. -/
def sqrtRound (m : Nat) (e : Int) : Rounded :=
  let (m, e) := evenExp m e
  let big := m * 2 ^ 128
  let r := isqrt big
  roundF32 false (2 * r + (if r * r = big then 0 else 1)) ((e - 128) / 2 - 1)

/-- The reciprocal square root of m * 2^e rounded once: sqrt of the quotient 2^k / m carried far enough. -/
def rsqrtRound (m : Nat) (e : Int) : Rounded :=
  let (m, e) := evenExp m e
  let big := 2 ^ (192 + 2 * (Nat.log2 m / 2)) / m
  let r := isqrt big
  roundF32 false (2 * r + 1) ((-e - ((192 + 2 * (Nat.log2 m / 2) : Nat) : Int)) / 2 - 1)

/-- 1 / sqrt x rounded correctly: infinity of its sign at zero, invalid below zero. -/
def rsqrtF (x : F32) : FRes :=
  match x with
  | .nan s => .nan s
  | .inf true => .nan true
  | .inf false => .plain 0
  | .zero s => { FRes.plain (f32Inf s) with dz := true }
  | .fin true _ _ => .nan true
  | .fin false m e => .ofRounded (rsqrtRound m e)

/-- |x - y| < 2^-12 * |y| for two patterns of nonzero numbers of one sign. DESIGN CHOICE (log entry 5). -/
def withinEstimate (x y : Nat) : Bool :=
  match f32Of x, f32Of y with
  | (.fin s m e, _), (.fin t n f, _) =>
    let d := addExact (sgnM s m, e) (-(sgnM t n), f)
    let b := addExact ((d.1.natAbs : Int) * 4096, d.2) (-((n : Int)), f)
    decide (s = t) && decide (b.1 < 0)
  | _, _ => false

/-- An estimate held to the relative error of R310: the open value where it lies within the bound, the correctly rounded
one elsewhere and where the exact result is no number. DESIGN CHOICE (log entry 5). -/
def estimateF (exact : FRes) (open_ : Nat) : FRes :=
  if withinEstimate open_ exact.pat then { exact with pat := open_ } else exact

end Sys2Proof.Machine
end

