-- ==== Sys2Proof/Machine/Crc.lean ====
section
/-! DEFINITION. The cyclic redundancy checks the spec names: CRC-32C of records and images, and CRC-32 of ring frames. -/
namespace Sys2Proof.Machine

/-- One bit of a reflected CRC with polynomial p. -/
def crcBitR (p c : Nat) : Nat := if c % 2 = 1 then (c / 2) ^^^ p else c / 2

/-- n bits of a reflected CRC. -/
def crcBitsR (p : Nat) : Nat → Nat → Nat
  | 0, c => c
  | n + 1, c => crcBitsR p n (crcBitR p c)

/-- Bytes through a reflected CRC with polynomial p and starting register c. -/
def crcBytesR (p : Nat) : List Byte → Nat → Nat
  | [], c => c
  | b :: t, c => crcBytesR p t (crcBitsR p 8 (c ^^^ b.toNat))

/-- CRC-32C (Castagnoli): reflected 0x1EDC6F41, register and result inverted. -/
def crc32c (l : List Byte) : Nat := crcBytesR 0x82F63B78 l 0xFFFFFFFF ^^^ 0xFFFFFFFF

/-- CRC-32 (IEEE 802.3): reflected 0x04C11DB7, register and result inverted. -/
def crc32 (l : List Byte) : Nat := crcBytesR 0xEDB88320 l 0xFFFFFFFF ^^^ 0xFFFFFFFF

end Sys2Proof.Machine
end

