-- ==== Sys2Proof/Machine/Store.lean ====
section
/-! DEFINITION. The one form of sparse storage, used for memory and for registers: a list of (address, value) pairs with
strictly rising addresses. -/
namespace Sys2Proof.Machine

/-- The value at an address; an unlisted address reads as d. -/
def storeGet {n : Nat} (d : BitVec n) : List (Nat × BitVec n) → Nat → BitVec n
  | [], _ => d
  | (b, w) :: t, a => if a < b then d else if a = b then w else storeGet d t a

/-- The listed value at an address, none where the address is not listed. -/
def storeFind {n : Nat} : List (Nat × BitVec n) → Nat → Option (BitVec n)
  | [], _ => none
  | (b, w) :: t, a => if a < b then none else if a = b then some w else storeFind t a

/-- List value v at address a, in its place. -/
def storePut {n : Nat} : List (Nat × BitVec n) → Nat → BitVec n → List (Nat × BitVec n)
  | [], a, v => [(a, v)]
  | (b, w) :: t, a, v =>
    if a < b then (a, v) :: (b, w) :: t
    else if a = b then (a, v) :: t
    else (b, w) :: storePut t a v

/-- List nothing at address a. -/
def storeDrop {n : Nat} : List (Nat × BitVec n) → Nat → List (Nat × BitVec n)
  | [], _ => []
  | (b, w) :: t, a =>
    if a < b then (b, w) :: t
    else if a = b then t
    else (b, w) :: storeDrop t a

/-- Write v at address a, where an unlisted address reads as d: writing d removes the entry. -/
def storeSet {n : Nat} (d : BitVec n) (m : List (Nat × BitVec n)) (a : Nat) (v : BitVec n) : List (Nat × BitVec n) :=
  if v = d then storeDrop m a else storePut m a v

/-- Every address of the list is above the bound. -/
def storeAbove {n : Nat} (lo : Nat) : List (Nat × BitVec n) → Bool
  | [] => true
  | (b, _) :: t => decide (lo ≤ b) && storeAbove (b + 1) t

/-- The addresses rise strictly. -/
def storeSorted {n : Nat} (m : List (Nat × BitVec n)) : Bool := storeAbove 0 m

/-- The canonical form of a store whose unlisted addresses read as d: addresses strictly rising, no entry equal to d. -/
def storeWf {n : Nat} (d : BitVec n) (m : List (Nat × BitVec n)) : Bool :=
  storeSorted m && m.all (fun c => decide (c.2 ≠ d))

/-- Remove every entry whose address lies in [lo, lo + len). -/
def storeClear {n : Nat} (m : List (Nat × BitVec n)) (lo len : Nat) : List (Nat × BitVec n) :=
  m.filter (fun c => !(decide (lo ≤ c.1) && decide (c.1 < lo + len)))

/-- The entries of [lo, lo + len), with addresses counted from lo. -/
def storeSlice {n : Nat} (m : List (Nat × BitVec n)) (lo len : Nat) : List (Nat × BitVec n) :=
  (m.filter (fun c => decide (lo ≤ c.1) && decide (c.1 < lo + len))).map (fun c => (c.1 - lo, c.2))

end Sys2Proof.Machine
end

