-- ==== Sys2Proof/Machine/Regs.lean ====
section
/-! DEFINITION. The register map: one name per block, register and field of the spec's register tables, and the table
from which a read or a write of any register takes its access codes (R6) and its value at reset (R11). -/
namespace Sys2Proof.Machine

/-- A field of a register: the register's offset from its block's base and the field's bits (R5). A field of a
64-bit quantity is written with bits up to 63 and the offset of its low word. -/
structure Fld where
  off : Nat
  hi : Nat
  lo : Nat
  deriving DecidableEq, Repr

/-- The same field of element i of an array of registers that stand stride bytes apart. -/
def Fld.nth (f : Fld) (i : Nat) (stride : Nat := 4) : Fld := { f with off := f.off + i * stride }

/-- One register of a block, or an array of equal registers: access masks by the codes of R6, the value at reset, and
the bits that come from the configuration image (key) or from the safety section (sect); part is 1 for the low word of a
64-bit quantity, 2 for its high word and 0 for a register of one word. -/
structure RegRow where
  off : Nat
  stride : Nat
  count : Nat
  rw : Nat
  w1c : Nat
  rc : Nat
  rws : Nat
  wo : Nat
  reset : Nat
  key : Nat
  sect : Nat
  part : Nat
  deriving DecidableEq, Repr

/-- One block of registers: its offset in a half view or in the common view (R24), and how often it is repeated. -/
structure BlockRow where
  half : Bool
  base : Nat
  stride : Nat
  count : Nat
  stride2 : Nat
  count2 : Nat
  rows : List RegRow
  deriving DecidableEq, Repr

/-- The base of a half's view (R24). -/
def viewBase (h : Half) : Nat :=
  match h with
  | .a => 0x1010000000
  | .b => 0x1020000000

/-- The base of the active view (R24). -/
def activeBase : Nat := 0x1000000000

/-- The base of the common view (R24). -/
def commonBase : Nat := 0x1030000000

/-! Block SYS (02_servo_period.md). -/
def SYS.addr (h : Half) : Nat := viewBase h + 0x0
def SYS.PERIOD : Fld := ⟨0x100, 2, 0⟩
def SYS.TICK_LOG2 : Fld := ⟨0x100, 10, 8⟩
def SYS.PERIOD_NUM : Fld := ⟨0x108, 63, 0⟩
def SYS.CW_START : Fld := ⟨0x110, 19, 0⟩
def SYS.CW_END : Fld := ⟨0x114, 19, 0⟩
def SYS.SLACK_LAST : Fld := ⟨0x118, 23, 0⟩
def SYS.LAST_SRC : Fld := ⟨0x118, 27, 24⟩
def SYS.SLACK_MIN : Fld := ⟨0x11C, 23, 0⟩
def SYS.MIN_SRC : Fld := ⟨0x11C, 27, 24⟩
def SYS.CLR_MIN : Fld := ⟨0x120, 0, 0⟩
def SYS.CLR_CNT : Fld := ⟨0x120, 1, 1⟩
def SYS.FF_LATE_CNT : Fld := ⟨0x124, 15, 0⟩
def SYS.IK_LATE_CNT : Fld := ⟨0x124, 31, 16⟩
def SYS.GOV_LATE_CNT : Fld := ⟨0x128, 15, 0⟩
def SYS.SLACK_LOW_CNT : Fld := ⟨0x128, 31, 16⟩
def SYS.FF_STALE : Fld := ⟨0x130, 15, 0⟩
def SYS.IK_STALE : Fld := ⟨0x130, 31, 16⟩
def SYS.GOV_STATE : Fld := ⟨0x134, 1, 0⟩
def SYS.HOLD_TICKS : Fld := ⟨0x134, 3, 2⟩
def SYS.rows : List RegRow := [
  ⟨0x100, 4, 1, 0x0, 0x0, 0x0, 0x0, 0x0, 0x0, 0x707, 0x0, 0⟩,
  ⟨0x108, 4, 1, 0x0, 0x0, 0x0, 0x0, 0x0, 0x0, 0x0, 0x0, 1⟩,
  ⟨0x10C, 4, 1, 0x0, 0x0, 0x0, 0x0, 0x0, 0x0, 0x0, 0x0, 2⟩,
  ⟨0x110, 4, 1, 0x0, 0x0, 0x0, 0x0, 0x0, 0x0, 0xFFFFF, 0x0, 0⟩,
  ⟨0x114, 4, 1, 0x0, 0x0, 0x0, 0x0, 0x0, 0x0, 0xFFFFF, 0x0, 0⟩,
  ⟨0x118, 4, 1, 0x0, 0x0, 0x0, 0x0, 0x0, 0x0, 0x0, 0x0, 0⟩,
  ⟨0x11C, 4, 1, 0x0, 0x0, 0x0, 0x0, 0x0, 0x7FFFFF, 0x0, 0x0, 0⟩,
  ⟨0x120, 4, 1, 0x0, 0x0, 0x0, 0x0, 0x3, 0x0, 0x0, 0x0, 0⟩,
  ⟨0x124, 4, 1, 0x0, 0x0, 0x0, 0x0, 0x0, 0x0, 0x0, 0x0, 0⟩,
  ⟨0x128, 4, 1, 0x0, 0x0, 0x0, 0x0, 0x0, 0x0, 0x0, 0x0, 0⟩,
  ⟨0x130, 4, 1, 0x0, 0xFFFFFFFF, 0x0, 0x0, 0x0, 0x0, 0x0, 0x0, 0⟩,
  ⟨0x134, 4, 1, 0x0, 0x0, 0x0, 0x0, 0x0, 0x0, 0x0, 0x0, 0⟩]

/-! Block HPWR (02_servo_period.md). -/
def HPWR.addr (h : Half) : Nat := viewBase h + 0x3700000
def HPWR.RAIL_MV : Fld := ⟨0x0, 9, 0⟩
def HPWR.AT_MAX : Fld := ⟨0x0, 10, 10⟩
def HPWR.MARGIN_PCT : Fld := ⟨0x4, 5, 0⟩
def HPWR.FIX_MAX : Fld := ⟨0x8, 0, 0⟩
def HPWR.PACE : Fld := ⟨0xC, 15, 0⟩
def HPWR.rows : List RegRow := [
  ⟨0x0, 4, 1, 0x0, 0x0, 0x0, 0x0, 0x0, 0x384, 0x0, 0x0, 0⟩,
  ⟨0x4, 4, 1, 0x3F, 0x0, 0x0, 0x0, 0x0, 0xF, 0x0, 0x0, 0⟩,
  ⟨0x8, 4, 1, 0x1, 0x0, 0x0, 0x0, 0x0, 0x0, 0x0, 0x0, 0⟩,
  ⟨0xC, 4, 1, 0x0, 0x0, 0x0, 0x0, 0x0, 0x100, 0x0, 0x0, 0⟩]

/-! Block PRF (03_axis_motion.md). -/
def PRF.addr (h : Half) (i : Nat) : Nat := viewBase h + 0x400000 + i * 0x100
def PRF.CODE : Fld := ⟨0x0, 3, 0⟩
def PRF.CMD_TAG : Fld := ⟨0x0, 15, 8⟩
def PRF.RESULT : Fld := ⟨0x4, 3, 0⟩
def PRF.TAG : Fld := ⟨0x4, 15, 8⟩
def PRF.BUSY : Fld := ⟨0x4, 16, 16⟩
def PRF.MODE_ACT : Fld := ⟨0x8, 2, 0⟩
def PRF.PHASE : Fld := ⟨0x8, 4, 3⟩
def PRF.REF : Fld := ⟨0x8, 5, 5⟩
def PRF.LIM_P_LAT : Fld := ⟨0x8, 6, 6⟩
def PRF.LIM_N_LAT : Fld := ⟨0x8, 7, 7⟩
def PRF.AWAY_P : Fld := ⟨0x8, 8, 8⟩
def PRF.AWAY_N : Fld := ⟨0x8, 9, 9⟩
def PRF.LIM_P_IN : Fld := ⟨0x8, 10, 10⟩
def PRF.LIM_N_IN : Fld := ⟨0x8, 11, 11⟩
def PRF.HOME_IN : Fld := ⟨0x8, 12, 12⟩
def PRF.DEFER : Fld := ⟨0x8, 13, 13⟩
def PRF.SYNC : Fld := ⟨0x8, 14, 14⟩
def PRF.LOOP_ON : Fld := ⟨0x8, 15, 15⟩
def PRF.HOME_STEP : Fld := ⟨0x8, 19, 16⟩
def PRF.CLAMP : Fld := ⟨0xC, 0, 0⟩
def PRF.SOFT_OVERRUN : Fld := ⟨0xC, 1, 1⟩
def PRF.SYNC_LOST : Fld := ⟨0xC, 2, 2⟩
def PRF.LIM_DIR_ERR : Fld := ⟨0xC, 3, 3⟩
def PRF.HOME_ABORT : Fld := ⟨0xC, 4, 4⟩
def PRF.SS_SKIP : Fld := ⟨0xC, 5, 5⟩
def PRF.PARAM_ERR : Fld := ⟨0xC, 6, 6⟩
def PRF.PATH_CLAMP : Fld := ⟨0xC, 7, 7⟩
def PRF.RET_LOST : Fld := ⟨0xC, 8, 8⟩
def PRF.INDEX_MISS : Fld := ⟨0xC, 9, 9⟩
def PRF.TARGET_POS : Fld := ⟨0x10, 63, 0⟩
def PRF.TARGET_VEL : Fld := ⟨0x18, 31, 0⟩
def PRF.V_MAX : Fld := ⟨0x1C, 31, 0⟩
def PRF.A_MAX : Fld := ⟨0x20, 31, 0⟩
def PRF.D_MAX : Fld := ⟨0x24, 31, 0⟩
def PRF.J_MAX : Fld := ⟨0x28, 31, 0⟩
def PRF.QS_DEC : Fld := ⟨0x2C, 31, 0⟩
def PRF.SOFT_POS : Fld := ⟨0x30, 63, 0⟩
def PRF.SOFT_NEG : Fld := ⟨0x38, 63, 0⟩
def PRF.SP_POS : Fld := ⟨0x40, 63, 0⟩
def PRF.SP_VEL : Fld := ⟨0x48, 31, 0⟩
def PRF.SP_ACC : Fld := ⟨0x4C, 31, 0⟩
def PRF.LAG : Fld := ⟨0x50, 63, 0⟩
def PRF.LAG_TOL : Fld := ⟨0x58, 31, 0⟩
def PRF.MASTER : Fld := ⟨0x5C, 6, 0⟩
def PRF.SRC_ACT : Fld := ⟨0x5C, 7, 7⟩
def PRF.ENGAGE_REL : Fld := ⟨0x5C, 8, 8⟩
def PRF.GEAR_NUM : Fld := ⟨0x60, 31, 0⟩
def PRF.GEAR_DEN : Fld := ⟨0x64, 31, 0⟩
def PRF.GEAR_OFFSET : Fld := ⟨0x68, 63, 0⟩
def PRF.CAM_BASE : Fld := ⟨0x70, 63, 0⟩
def PRF.CAM_ORIGIN : Fld := ⟨0x78, 63, 0⟩
def PRF.LIM_P_SRC : Fld := ⟨0x80, 7, 0⟩
def PRF.LIM_N_SRC : Fld := ⟨0x80, 15, 8⟩
def PRF.HOME_SRC : Fld := ⟨0x80, 23, 16⟩
def PRF.LIM_P_HARD : Fld := ⟨0x80, 24, 24⟩
def PRF.LIM_N_HARD : Fld := ⟨0x80, 25, 25⟩
def PRF.SOFT_EN : Fld := ⟨0x80, 26, 26⟩
def PRF.DB_LIM : Fld := ⟨0x84, 7, 0⟩
def PRF.DB_HOME : Fld := ⟨0x84, 15, 8⟩
def PRF.LIM_P_EDGE : Fld := ⟨0x88, 63, 0⟩
def PRF.LIM_N_EDGE : Fld := ⟨0x90, 63, 0⟩
def PRF.HOME_EDGE : Fld := ⟨0x98, 63, 0⟩
def PRF.METHOD : Fld := ⟨0xA0, 2, 0⟩
def PRF.HOME_DIR : Fld := ⟨0xA0, 3, 3⟩
def PRF.FAST : Fld := ⟨0xA0, 4, 4⟩
def PRF.HOME_V_FAST : Fld := ⟨0xA4, 31, 0⟩
def PRF.HOME_V_CREEP : Fld := ⟨0xA8, 31, 0⟩
def PRF.HOME_IDX_MAX : Fld := ⟨0xAC, 31, 0⟩
def PRF.HOME_POS : Fld := ⟨0xB0, 63, 0⟩
def PRF.HOME_TQ : Fld := ⟨0xB8, 31, 0⟩
def PRF.HOME_TQ_TIME : Fld := ⟨0xBC, 15, 0⟩
def PRF.REF_POS : Fld := ⟨0xC0, 63, 0⟩
def PRF.POS_OFFSET : Fld := ⟨0xC8, 63, 0⟩
def PRF.RET_TOL : Fld := ⟨0xD0, 31, 0⟩
def PRF.RET_CAUSE : Fld := ⟨0xD4, 1, 0⟩
def PRF.RET_DIFF : Fld := ⟨0xD8, 63, 0⟩
def PRF.SS_V : Fld := ⟨0xE0, 31, 0⟩
def PRF.SS_MAX : Fld := ⟨0xE4, 31, 0⟩
def PRF.HOLD_POS : Fld := ⟨0xE8, 63, 0⟩
def PRF.HOME_BACKOFF : Fld := ⟨0xF0, 31, 0⟩
def PRF.rows0 : List RegRow := [
  ⟨0x0, 4, 1, 0x0, 0x0, 0x0, 0x0, 0xFF0F, 0x0, 0x0, 0x0, 0⟩,
  ⟨0x4, 4, 1, 0x0, 0x0, 0x0, 0x0, 0x0, 0x0, 0x0, 0x0, 0⟩,
  ⟨0x8, 4, 1, 0x0, 0x0, 0x0, 0x0, 0x0, 0x0, 0x0, 0x0, 0⟩,
  ⟨0xC, 4, 1, 0x0, 0x3FF, 0x0, 0x0, 0x0, 0x0, 0x0, 0x0, 0⟩,
  ⟨0x10, 4, 1, 0xFFFFFFFF, 0x0, 0x0, 0x0, 0x0, 0x0, 0x0, 0x0, 1⟩,
  ⟨0x14, 4, 1, 0xFFFFFFFF, 0x0, 0x0, 0x0, 0x0, 0x0, 0x0, 0x0, 2⟩,
  ⟨0x18, 4, 1, 0xFFFFFFFF, 0x0, 0x0, 0x0, 0x0, 0x0, 0x0, 0x0, 0⟩,
  ⟨0x1C, 4, 1, 0xFFFFFFFF, 0x0, 0x0, 0x0, 0x0, 0x0, 0xFFFFFFFF, 0x0, 0⟩,
  ⟨0x20, 4, 1, 0xFFFFFFFF, 0x0, 0x0, 0x0, 0x0, 0x0, 0xFFFFFFFF, 0x0, 0⟩,
  ⟨0x24, 4, 1, 0xFFFFFFFF, 0x0, 0x0, 0x0, 0x0, 0x0, 0xFFFFFFFF, 0x0, 0⟩,
  ⟨0x28, 4, 1, 0xFFFFFFFF, 0x0, 0x0, 0x0, 0x0, 0x0, 0xFFFFFFFF, 0x0, 0⟩,
  ⟨0x2C, 4, 1, 0xFFFFFFFF, 0x0, 0x0, 0x0, 0x0, 0x0, 0xFFFFFFFF, 0x0, 0⟩,
  ⟨0x30, 4, 1, 0xFFFFFFFF, 0x0, 0x0, 0x0, 0x0, 0x0, 0xFFFFFFFF, 0x0, 1⟩,
  ⟨0x34, 4, 1, 0xFFFFFFFF, 0x0, 0x0, 0x0, 0x0, 0x0, 0xFFFFFFFF, 0x0, 2⟩,
  ⟨0x38, 4, 1, 0xFFFFFFFF, 0x0, 0x0, 0x0, 0x0, 0x0, 0xFFFFFFFF, 0x0, 1⟩,
  ⟨0x3C, 4, 1, 0xFFFFFFFF, 0x0, 0x0, 0x0, 0x0, 0x0, 0xFFFFFFFF, 0x0, 2⟩,
  ⟨0x40, 4, 1, 0x0, 0x0, 0x0, 0x0, 0x0, 0x0, 0x0, 0x0, 1⟩,
  ⟨0x44, 4, 1, 0x0, 0x0, 0x0, 0x0, 0x0, 0x0, 0x0, 0x0, 2⟩,
  ⟨0x48, 4, 1, 0x0, 0x0, 0x0, 0x0, 0x0, 0x0, 0x0, 0x0, 0⟩,
  ⟨0x4C, 4, 1, 0x0, 0x0, 0x0, 0x0, 0x0, 0x0, 0x0, 0x0, 0⟩]
def PRF.rows1 : List RegRow := [
  ⟨0x50, 4, 1, 0x0, 0x0, 0x0, 0x0, 0x0, 0x0, 0x0, 0x0, 1⟩,
  ⟨0x54, 4, 1, 0x0, 0x0, 0x0, 0x0, 0x0, 0x0, 0x0, 0x0, 2⟩,
  ⟨0x58, 4, 1, 0xFFFFFFFF, 0x0, 0x0, 0x0, 0x0, 0x0, 0xFFFFFFFF, 0x0, 0⟩,
  ⟨0x5C, 4, 1, 0x1FF, 0x0, 0x0, 0x0, 0x0, 0x0, 0x1FF, 0x0, 0⟩,
  ⟨0x60, 4, 1, 0xFFFFFFFF, 0x0, 0x0, 0x0, 0x0, 0x0, 0xFFFFFFFF, 0x0, 0⟩,
  ⟨0x64, 4, 1, 0xFFFFFFFF, 0x0, 0x0, 0x0, 0x0, 0x0, 0xFFFFFFFF, 0x0, 0⟩,
  ⟨0x68, 4, 1, 0xFFFFFFFF, 0x0, 0x0, 0x0, 0x0, 0x0, 0xFFFFFFFF, 0x0, 1⟩,
  ⟨0x6C, 4, 1, 0xFFFFFFFF, 0x0, 0x0, 0x0, 0x0, 0x0, 0xFFFFFFFF, 0x0, 2⟩,
  ⟨0x70, 4, 1, 0xFFFFFFFF, 0x0, 0x0, 0x0, 0x0, 0x0, 0xFFFFFFFF, 0x0, 1⟩,
  ⟨0x74, 4, 1, 0xFFFFFFFF, 0x0, 0x0, 0x0, 0x0, 0x0, 0xFFFFFFFF, 0x0, 2⟩,
  ⟨0x78, 4, 1, 0xFFFFFFFF, 0x0, 0x0, 0x0, 0x0, 0x0, 0xFFFFFFFF, 0x0, 1⟩,
  ⟨0x7C, 4, 1, 0xFFFFFFFF, 0x0, 0x0, 0x0, 0x0, 0x0, 0xFFFFFFFF, 0x0, 2⟩,
  ⟨0x80, 4, 1, 0x7FFFFFF, 0x0, 0x0, 0x0, 0x0, 0x0, 0x7FFFFFF, 0x0, 0⟩,
  ⟨0x84, 4, 1, 0xFFFF, 0x0, 0x0, 0x0, 0x0, 0x0, 0xFFFF, 0x0, 0⟩,
  ⟨0x88, 4, 1, 0x0, 0x0, 0x0, 0x0, 0x0, 0x0, 0x0, 0x0, 1⟩,
  ⟨0x8C, 4, 1, 0x0, 0x0, 0x0, 0x0, 0x0, 0x0, 0x0, 0x0, 2⟩,
  ⟨0x90, 4, 1, 0x0, 0x0, 0x0, 0x0, 0x0, 0x0, 0x0, 0x0, 1⟩,
  ⟨0x94, 4, 1, 0x0, 0x0, 0x0, 0x0, 0x0, 0x0, 0x0, 0x0, 2⟩,
  ⟨0x98, 4, 1, 0x0, 0x0, 0x0, 0x0, 0x0, 0x0, 0x0, 0x0, 1⟩,
  ⟨0x9C, 4, 1, 0x0, 0x0, 0x0, 0x0, 0x0, 0x0, 0x0, 0x0, 2⟩]
def PRF.rows2 : List RegRow := [
  ⟨0xA0, 4, 1, 0x1F, 0x0, 0x0, 0x0, 0x0, 0x0, 0x1F, 0x0, 0⟩,
  ⟨0xA4, 4, 1, 0xFFFFFFFF, 0x0, 0x0, 0x0, 0x0, 0x0, 0xFFFFFFFF, 0x0, 0⟩,
  ⟨0xA8, 4, 1, 0xFFFFFFFF, 0x0, 0x0, 0x0, 0x0, 0x0, 0xFFFFFFFF, 0x0, 0⟩,
  ⟨0xAC, 4, 1, 0xFFFFFFFF, 0x0, 0x0, 0x0, 0x0, 0x0, 0xFFFFFFFF, 0x0, 0⟩,
  ⟨0xB0, 4, 1, 0xFFFFFFFF, 0x0, 0x0, 0x0, 0x0, 0x0, 0xFFFFFFFF, 0x0, 1⟩,
  ⟨0xB4, 4, 1, 0xFFFFFFFF, 0x0, 0x0, 0x0, 0x0, 0x0, 0xFFFFFFFF, 0x0, 2⟩,
  ⟨0xB8, 4, 1, 0xFFFFFFFF, 0x0, 0x0, 0x0, 0x0, 0x0, 0xFFFFFFFF, 0x0, 0⟩,
  ⟨0xBC, 4, 1, 0xFFFF, 0x0, 0x0, 0x0, 0x0, 0x0, 0xFFFF, 0x0, 0⟩,
  ⟨0xC0, 4, 1, 0x0, 0x0, 0x0, 0x0, 0x0, 0x0, 0x0, 0x0, 1⟩,
  ⟨0xC4, 4, 1, 0x0, 0x0, 0x0, 0x0, 0x0, 0x0, 0x0, 0x0, 2⟩,
  ⟨0xC8, 4, 1, 0x0, 0x0, 0x0, 0x0, 0x0, 0x0, 0x0, 0x0, 1⟩,
  ⟨0xCC, 4, 1, 0x0, 0x0, 0x0, 0x0, 0x0, 0x0, 0x0, 0x0, 2⟩,
  ⟨0xD0, 4, 1, 0xFFFFFFFF, 0x0, 0x0, 0x0, 0x0, 0x0, 0xFFFFFFFF, 0x0, 0⟩,
  ⟨0xD4, 4, 1, 0x0, 0x0, 0x0, 0x0, 0x0, 0x3, 0x0, 0x0, 0⟩,
  ⟨0xD8, 4, 1, 0x0, 0x0, 0x0, 0x0, 0x0, 0x0, 0x0, 0x0, 1⟩,
  ⟨0xDC, 4, 1, 0x0, 0x0, 0x0, 0x0, 0x0, 0x0, 0x0, 0x0, 2⟩,
  ⟨0xE0, 4, 1, 0xFFFFFFFF, 0x0, 0x0, 0x0, 0x0, 0x0, 0xFFFFFFFF, 0x0, 0⟩,
  ⟨0xE4, 4, 1, 0xFFFFFFFF, 0x0, 0x0, 0x0, 0x0, 0x0, 0xFFFFFFFF, 0x0, 0⟩,
  ⟨0xE8, 4, 1, 0x0, 0x0, 0x0, 0x0, 0x0, 0x0, 0x0, 0x0, 1⟩,
  ⟨0xEC, 4, 1, 0x0, 0x0, 0x0, 0x0, 0x0, 0x0, 0x0, 0x0, 2⟩]
def PRF.rows3 : List RegRow := [
  ⟨0xF0, 4, 1, 0xFFFFFFFF, 0x0, 0x0, 0x0, 0x0, 0x0, 0xFFFFFFFF, 0x0, 0⟩]
def PRF.rows : List RegRow := PRF.rows0 ++ PRF.rows1 ++ PRF.rows2 ++ PRF.rows3

/-! Block PRFMAP (03_axis_motion.md). -/
def PRFMAP.addr (h : Half) (i : Nat) : Nat := viewBase h + 0x408000 + i * 0x4
def PRFMAP.REF_MAP : Fld := ⟨0x0, 31, 0⟩
def PRFMAP.LIM_MAP : Fld := ⟨0x10, 31, 0⟩
def PRFMAP.rows : List RegRow := [
  ⟨0x0, 4, 1, 0x0, 0x0, 0x0, 0x0, 0x0, 0x0, 0x0, 0x0, 0⟩,
  ⟨0x10, 4, 1, 0x0, 0x0, 0x0, 0x0, 0x0, 0x0, 0x0, 0x0, 0⟩]

/-! Block ARM (04_arm_paths_dynamics.md). -/
def ARM.addr (h : Half) (i : Nat) : Nat := viewBase h + 0x420000 + i * 0x2000
def ARM.CODE : Fld := ⟨0x0, 3, 0⟩
def ARM.CMD_TAG : Fld := ⟨0x0, 15, 8⟩
def ARM.RESULT : Fld := ⟨0x4, 3, 0⟩
def ARM.TAG : Fld := ⟨0x4, 15, 8⟩
def ARM.STATE : Fld := ⟨0x8, 2, 0⟩
def ARM.PAYLOAD_ACT : Fld := ⟨0x8, 5, 3⟩
def ARM.GUARD_ACT : Fld := ⟨0x8, 6, 6⟩
def ARM.COMPLIANCE : Fld := ⟨0x8, 7, 7⟩
def ARM.HOIST_WAIT : Fld := ⟨0x8, 15, 8⟩
def ARM.FF_SAT : Fld := ⟨0xC, 0, 0⟩
def ARM.IK_FAIL : Fld := ⟨0xC, 1, 1⟩
def ARM.Q_LIMIT : Fld := ⟨0xC, 2, 2⟩
def ARM.CLAMP_STOP : Fld := ⟨0xC, 3, 3⟩
def ARM.OBS_TRIP : Fld := ⟨0xC, 4, 4⟩
def ARM.SEG_REFUSED : Fld := ⟨0xC, 5, 5⟩
def ARM.SOLVER_FLAG : Fld := ⟨0xC, 6, 6⟩
def ARM.Q_WR : Fld := ⟨0x10, 6, 0⟩
def ARM.Q_RD : Fld := ⟨0x14, 6, 0⟩
def ARM.Q_ACK : Fld := ⟨0x14, 14, 8⟩
def ARM.ERR_IDX : Fld := ⟨0x14, 22, 16⟩
def ARM.ERR_CODE : Fld := ⟨0x14, 27, 24⟩
def ARM.SIGMA_EFF : Fld := ⟨0x18, 15, 0⟩
def ARM.SIGMA_GOV : Fld := ⟨0x18, 31, 16⟩
def ARM.KAPPA : Fld := ⟨0x1C, 15, 0⟩
def ARM.SIGMA_STOP : Fld := ⟨0x1C, 31, 16⟩
def ARM.OVERRIDE : Fld := ⟨0x20, 15, 0⟩
def ARM.PAYLOAD_SEL : Fld := ⟨0x24, 2, 0⟩
def ARM.PSTOP_RATE : Fld := ⟨0x28, 15, 0⟩
def ARM.PQSTOP_RATE : Fld := ⟨0x28, 31, 16⟩
def ARM.GUARD : Fld := ⟨0x2C, 7, 0⟩
def ARM.SEG_TAG : Fld := ⟨0x30, 31, 0⟩
def ARM.S : Fld := ⟨0x34, 31, 0⟩
def ARM.CYCLE_PHASE : Fld := ⟨0x38, 63, 0⟩
def ARM.OBS_RES : Fld := ⟨0x40, 31, 0⟩
def ARM.OBS_THR : Fld := ⟨0x70, 31, 0⟩
def ARM.COMP_KP : Fld := ⟨0xA0, 31, 0⟩
def ARM.COMP_KD : Fld := ⟨0xB8, 31, 0⟩
def ARM.IK_INEXACT : Fld := ⟨0xD0, 15, 0⟩
def ARM.FLY_MISS : Fld := ⟨0xD0, 31, 16⟩
def ARM.SOLVER_FLAG_CNT : Fld := ⟨0xD4, 15, 0⟩
def ARM.OBS_LATE : Fld := ⟨0xD4, 31, 16⟩
def ARM.PAYLOAD : Fld := ⟨0x400, 31, 0⟩
def ARM.HEADER : Fld := ⟨0x800, 31, 0⟩
def ARM.JOINT : Fld := ⟨0x870, 31, 0⟩
def ARM.QUEUE : Fld := ⟨0x1000, 31, 0⟩
def ARM.rows0 : List RegRow := [
  ⟨0x0, 4, 1, 0x0, 0x0, 0x0, 0x0, 0xFF0F, 0x0, 0x0, 0x0, 0⟩,
  ⟨0x4, 4, 1, 0x0, 0x0, 0x0, 0x0, 0x0, 0x0, 0x0, 0x0, 0⟩,
  ⟨0x8, 4, 1, 0x0, 0x0, 0x0, 0x0, 0x0, 0x0, 0x38, 0x0, 0⟩,
  ⟨0xC, 4, 1, 0x0, 0x7F, 0x0, 0x0, 0x0, 0x0, 0x0, 0x0, 0⟩,
  ⟨0x10, 4, 1, 0x7F, 0x0, 0x0, 0x0, 0x0, 0x0, 0x0, 0x0, 0⟩,
  ⟨0x14, 4, 1, 0x0, 0x0, 0x0, 0x0, 0x0, 0x0, 0x0, 0x0, 0⟩,
  ⟨0x18, 4, 1, 0x0, 0x0, 0x0, 0x0, 0x0, 0x80008000, 0x0, 0x0, 0⟩,
  ⟨0x1C, 4, 1, 0x0, 0x0, 0x0, 0x0, 0x0, 0x80008000, 0x0, 0x0, 0⟩,
  ⟨0x20, 4, 1, 0xFFFF, 0x0, 0x0, 0x0, 0x0, 0x8000, 0x0, 0x0, 0⟩,
  ⟨0x24, 4, 1, 0x7, 0x0, 0x0, 0x0, 0x0, 0x0, 0x7, 0x0, 0⟩,
  ⟨0x28, 4, 1, 0xFFFFFFFF, 0x0, 0x0, 0x0, 0x0, 0x0, 0xFFFFFFFF, 0x0, 0⟩,
  ⟨0x2C, 4, 1, 0xFF, 0x0, 0x0, 0x0, 0x0, 0x0, 0xFF, 0x0, 0⟩,
  ⟨0x30, 4, 1, 0x0, 0x0, 0x0, 0x0, 0x0, 0x0, 0x0, 0x0, 0⟩,
  ⟨0x34, 4, 1, 0x0, 0x0, 0x0, 0x0, 0x0, 0x0, 0x0, 0x0, 0⟩,
  ⟨0x38, 4, 1, 0x0, 0x0, 0x0, 0x0, 0x0, 0x0, 0x0, 0x0, 1⟩,
  ⟨0x3C, 4, 1, 0x0, 0x0, 0x0, 0x0, 0x0, 0x0, 0x0, 0x0, 2⟩,
  ⟨0x40, 4, 9, 0x0, 0x0, 0x0, 0x0, 0x0, 0x0, 0x0, 0x0, 0⟩,
  ⟨0x70, 4, 9, 0xFFFFFFFF, 0x0, 0x0, 0x0, 0x0, 0x0, 0xFFFFFFFF, 0x0, 0⟩,
  ⟨0xA0, 4, 6, 0xFFFFFFFF, 0x0, 0x0, 0x0, 0x0, 0x0, 0xFFFFFFFF, 0x0, 0⟩,
  ⟨0xB8, 4, 6, 0xFFFFFFFF, 0x0, 0x0, 0x0, 0x0, 0x0, 0xFFFFFFFF, 0x0, 0⟩]
def ARM.rows1 : List RegRow := [
  ⟨0xD0, 4, 1, 0x0, 0x0, 0x0, 0x0, 0x0, 0x0, 0x0, 0x0, 0⟩,
  ⟨0xD4, 4, 1, 0x0, 0x0, 0x0, 0x0, 0x0, 0x0, 0x0, 0x0, 0⟩,
  ⟨0x400, 4, 96, 0xFFFFFFFF, 0x0, 0x0, 0x0, 0x0, 0x0, 0xFFFFFFFF, 0x0, 0⟩,
  ⟨0x800, 4, 28, 0x0, 0x0, 0x0, 0x0, 0x0, 0x0, 0xFFFFFFFF, 0x0, 0⟩,
  ⟨0x870, 4, 252, 0x0, 0x0, 0x0, 0x0, 0x0, 0x0, 0xFFFFFFFF, 0x0, 0⟩,
  ⟨0x1000, 4, 1024, 0xFFFFFFFF, 0x0, 0x0, 0x0, 0x0, 0x0, 0x0, 0x0, 0⟩]
def ARM.rows : List RegRow := ARM.rows0 ++ ARM.rows1

/-! Block HOIST (04_arm_paths_dynamics.md). -/
def HOIST.addr (h : Half) : Nat := viewBase h + 0x440000
def HOIST.MASK : Fld := ⟨0x0, 15, 0⟩
def HOIST.ID : Fld := ⟨0x0, 23, 16⟩
def HOIST.GO_PERIOD : Fld := ⟨0x8, 63, 0⟩
def HOIST.RESULT : Fld := ⟨0x10, 2, 0⟩
def HOIST.rows : List RegRow := [
  ⟨0x0, 4, 1, 0xFFFFFF, 0x0, 0x0, 0x0, 0x0, 0x0, 0x0, 0x0, 0⟩,
  ⟨0x8, 4, 1, 0xFFFFFFFF, 0x0, 0x0, 0x0, 0x0, 0x0, 0x0, 0x0, 1⟩,
  ⟨0xC, 4, 1, 0xFFFFFFFF, 0x0, 0x0, 0x0, 0x0, 0x0, 0x0, 0x0, 2⟩,
  ⟨0x10, 4, 1, 0x0, 0x0, 0x0, 0x0, 0x0, 0x0, 0x0, 0x0, 0⟩]

/-! Block HLIST (04_arm_paths_dynamics.md). -/
def HLIST.addr (h : Half) (i : Nat) : Nat := viewBase h + 0x440020 + i * 0x8
def HLIST.L_MASK : Fld := ⟨0x0, 15, 0⟩
def HLIST.L_ID : Fld := ⟨0x0, 23, 16⟩
def HLIST.H_STATE : Fld := ⟨0x0, 25, 24⟩
def HLIST.LATE : Fld := ⟨0x0, 26, 26⟩
def HLIST.START_LO : Fld := ⟨0x0, 63, 32⟩
def HLIST.rows : List RegRow := [
  ⟨0x0, 4, 1, 0x0, 0x0, 0x0, 0x0, 0x0, 0x0, 0x0, 0x0, 1⟩,
  ⟨0x4, 4, 1, 0x0, 0x0, 0x0, 0x0, 0x0, 0x0, 0x0, 0x0, 2⟩]

/-! Block CE (05_control_engine.md). -/
def CE.addr (h : Half) (i : Nat) : Nat := viewBase h + 0x800000 + i * 0x100
def CE.MODE_REQ : Fld := ⟨0x0, 2, 0⟩
def CE.MODE_ACT : Fld := ⟨0x0, 6, 4⟩
def CE.BLENDING : Fld := ⟨0x0, 7, 7⟩
def CE.BLEND_LEFT : Fld := ⟨0x0, 14, 8⟩
def CE.SAT_EP : Fld := ⟨0x4, 0, 0⟩
def CE.SAT_VCMD : Fld := ⟨0x4, 1, 1⟩
def CE.SAT_IP : Fld := ⟨0x4, 2, 2⟩
def CE.SAT_EV : Fld := ⟨0x4, 3, 3⟩
def CE.SAT_IV : Fld := ⟨0x4, 4, 4⟩
def CE.SAT_FLT0 : Fld := ⟨0x4, 5, 5⟩
def CE.SAT_FLT1 : Fld := ⟨0x4, 6, 6⟩
def CE.SAT_NOTCH : Fld := ⟨0x4, 7, 7⟩
def CE.SAT_SUM : Fld := ⟨0x4, 8, 8⟩
def CE.TQ_LIM_P_HIT : Fld := ⟨0x4, 9, 9⟩
def CE.TQ_LIM_N_HIT : Fld := ⟨0x4, 10, 10⟩
def CE.SAT_RC : Fld := ⟨0x4, 11, 11⟩
def CE.BLEND_SAT : Fld := ⟨0x4, 12, 12⟩
def CE.FE_TRIP : Fld := ⟨0x4, 13, 13⟩
def CE.FB_MISS : Fld := ⟨0x4, 14, 14⟩
def CE.LOF : Fld := ⟨0x4, 15, 15⟩
def CE.RC_BEYOND : Fld := ⟨0x4, 16, 16⟩
def CE.LM_REFUSED : Fld := ⟨0x4, 17, 17⟩
def CE.PARAM_ERR : Fld := ⟨0x4, 18, 18⟩
def CE.SAT_PI : Fld := ⟨0x4, 19, 19⟩
def CE.REGION : Fld := ⟨0x8, 3, 0⟩
def CE.IB : Fld := ⟨0x8, 5, 4⟩
def CE.SB : Fld := ⟨0x8, 7, 6⟩
def CE.GBLEND_LEFT : Fld := ⟨0x8, 11, 8⟩
def CE.BRAKE_REQ : Fld := ⟨0x8, 12, 12⟩
def CE.GT_RELOAD : Fld := ⟨0xC, 0, 0⟩
def CE.RC_CLEAR : Fld := ⟨0xC, 1, 1⟩
def CE.HYST_PCT : Fld := ⟨0x10, 4, 0⟩
def CE.IB_FIX : Fld := ⟨0x10, 6, 5⟩
def CE.IB_SRC : Fld := ⟨0x10, 7, 7⟩
def CE.IB_EDGE : Fld := ⟨0x14, 31, 0⟩
def CE.SB_EDGE : Fld := ⟨0x20, 31, 0⟩
def CE.VCMD_MAX : Fld := ⟨0x2C, 31, 0⟩
def CE.FE_MAX : Fld := ⟨0x30, 31, 0⟩
def CE.TQ_CMD : Fld := ⟨0x34, 31, 0⟩
def CE.BLEND_N : Fld := ⟨0x38, 6, 0⟩
def CE.LOF_CNT : Fld := ⟨0x38, 11, 8⟩
def CE.BRK_EN : Fld := ⟨0x3C, 0, 0⟩
def CE.BRK_T_ENG : Fld := ⟨0x3C, 15, 8⟩
def CE.BRK_T_REL : Fld := ⟨0x3C, 23, 16⟩
def CE.EP : Fld := ⟨0x40, 31, 0⟩
def CE.VCMD : Fld := ⟨0x44, 31, 0⟩
def CE.EV : Fld := ⟨0x48, 31, 0⟩
def CE.IP : Fld := ⟨0x4C, 31, 0⟩
def CE.IV : Fld := ⟨0x50, 31, 0⟩
def CE.TQ_PI : Fld := ⟨0x54, 31, 0⟩
def CE.TQ_FF : Fld := ⟨0x58, 31, 0⟩
def CE.U_RC : Fld := ⟨0x5C, 31, 0⟩
def CE.TQ_OUT : Fld := ⟨0x60, 31, 0⟩
def CE.IM : Fld := ⟨0x64, 31, 0⟩
def CE.RC_EN : Fld := ⟨0x70, 0, 0⟩
def CE.RC_LEARN : Fld := ⟨0x70, 1, 1⟩
def CE.RC_ARM : Fld := ⟨0x70, 7, 4⟩
def CE.RC_LEN : Fld := ⟨0x74, 14, 0⟩
def CE.RC_STEP : Fld := ⟨0x78, 31, 0⟩
def CE.RC_L : Fld := ⟨0x7C, 31, 0⟩
def CE.RC_Q0 : Fld := ⟨0x80, 31, 0⟩
def CE.RC_Q1 : Fld := ⟨0x84, 31, 0⟩
def CE.RC_Q2 : Fld := ⟨0x88, 31, 0⟩
def CE.RC_TOL : Fld := ⟨0x8C, 15, 0⟩
def CE.RC_DELTA : Fld := ⟨0x8C, 21, 16⟩
def CE.RC_LIM : Fld := ⟨0x90, 31, 0⟩
def CE.RC_CYC : Fld := ⟨0x94, 15, 0⟩
def CE.RC_ACTIVE : Fld := ⟨0x94, 16, 16⟩
def CE.RC_UPDATED : Fld := ⟨0x94, 17, 17⟩
def CE.FREEZE_WHY : Fld := ⟨0x94, 20, 18⟩
def CE.REGION_CHG : Fld := ⟨0x98, 15, 0⟩
def CE.FB_MISS_CNT : Fld := ⟨0x98, 31, 16⟩
def CE.rows0 : List RegRow := [
  ⟨0x0, 4, 1, 0x7, 0x0, 0x0, 0x0, 0x0, 0x0, 0x0, 0x0, 0⟩,
  ⟨0x4, 4, 1, 0x0, 0xFFFFF, 0x0, 0x0, 0x0, 0x0, 0x0, 0x0, 0⟩,
  ⟨0x8, 4, 1, 0x0, 0x0, 0x0, 0x0, 0x0, 0x0, 0x3F, 0x0, 0⟩,
  ⟨0xC, 4, 1, 0x0, 0x0, 0x0, 0x0, 0x3, 0x0, 0x0, 0x0, 0⟩,
  ⟨0x10, 4, 1, 0xFF, 0x0, 0x0, 0x0, 0x0, 0x0, 0xFF, 0x0, 0⟩,
  ⟨0x14, 4, 3, 0xFFFFFFFF, 0x0, 0x0, 0x0, 0x0, 0x0, 0xFFFFFFFF, 0x0, 0⟩,
  ⟨0x20, 4, 3, 0xFFFFFFFF, 0x0, 0x0, 0x0, 0x0, 0x0, 0xFFFFFFFF, 0x0, 0⟩,
  ⟨0x2C, 4, 1, 0xFFFFFFFF, 0x0, 0x0, 0x0, 0x0, 0x0, 0xFFFFFFFF, 0x0, 0⟩,
  ⟨0x30, 4, 1, 0xFFFFFFFF, 0x0, 0x0, 0x0, 0x0, 0x0, 0xFFFFFFFF, 0x0, 0⟩,
  ⟨0x34, 4, 1, 0xFFFFFFFF, 0x0, 0x0, 0x0, 0x0, 0x0, 0x0, 0x0, 0⟩,
  ⟨0x38, 4, 1, 0xF7F, 0x0, 0x0, 0x0, 0x0, 0x0, 0xF7F, 0x0, 0⟩,
  ⟨0x3C, 4, 1, 0xFFFF01, 0x0, 0x0, 0x0, 0x0, 0x0, 0xFFFF01, 0x0, 0⟩,
  ⟨0x40, 4, 1, 0x0, 0x0, 0x0, 0x0, 0x0, 0x0, 0x0, 0x0, 0⟩,
  ⟨0x44, 4, 1, 0x0, 0x0, 0x0, 0x0, 0x0, 0x0, 0x0, 0x0, 0⟩,
  ⟨0x48, 4, 1, 0x0, 0x0, 0x0, 0x0, 0x0, 0x0, 0x0, 0x0, 0⟩,
  ⟨0x4C, 4, 1, 0x0, 0x0, 0x0, 0x0, 0x0, 0x0, 0x0, 0x0, 0⟩,
  ⟨0x50, 4, 1, 0x0, 0x0, 0x0, 0x0, 0x0, 0x0, 0x0, 0x0, 0⟩,
  ⟨0x54, 4, 1, 0x0, 0x0, 0x0, 0x0, 0x0, 0x0, 0x0, 0x0, 0⟩,
  ⟨0x58, 4, 1, 0x0, 0x0, 0x0, 0x0, 0x0, 0x0, 0x0, 0x0, 0⟩,
  ⟨0x5C, 4, 1, 0x0, 0x0, 0x0, 0x0, 0x0, 0x0, 0x0, 0x0, 0⟩]
def CE.rows1 : List RegRow := [
  ⟨0x60, 4, 1, 0x0, 0x0, 0x0, 0x0, 0x0, 0x0, 0x0, 0x0, 0⟩,
  ⟨0x64, 4, 1, 0x0, 0x0, 0x0, 0x0, 0x0, 0x0, 0x0, 0x0, 0⟩,
  ⟨0x70, 4, 1, 0xF3, 0x0, 0x0, 0x0, 0x0, 0x0, 0xF3, 0x0, 0⟩,
  ⟨0x74, 4, 1, 0x7FFF, 0x0, 0x0, 0x0, 0x0, 0x0, 0x7FFF, 0x0, 0⟩,
  ⟨0x78, 4, 1, 0xFFFFFFFF, 0x0, 0x0, 0x0, 0x0, 0x0, 0xFFFFFFFF, 0x0, 0⟩,
  ⟨0x7C, 4, 1, 0xFFFFFFFF, 0x0, 0x0, 0x0, 0x0, 0x0, 0xFFFFFFFF, 0x0, 0⟩,
  ⟨0x80, 4, 1, 0xFFFFFFFF, 0x0, 0x0, 0x0, 0x0, 0x0, 0xFFFFFFFF, 0x0, 0⟩,
  ⟨0x84, 4, 1, 0xFFFFFFFF, 0x0, 0x0, 0x0, 0x0, 0x0, 0xFFFFFFFF, 0x0, 0⟩,
  ⟨0x88, 4, 1, 0xFFFFFFFF, 0x0, 0x0, 0x0, 0x0, 0x0, 0xFFFFFFFF, 0x0, 0⟩,
  ⟨0x8C, 4, 1, 0x3FFFFF, 0x0, 0x0, 0x0, 0x0, 0x0, 0x3FFFFF, 0x0, 0⟩,
  ⟨0x90, 4, 1, 0xFFFFFFFF, 0x0, 0x0, 0x0, 0x0, 0x0, 0xFFFFFFFF, 0x0, 0⟩,
  ⟨0x94, 4, 1, 0x0, 0x0, 0x0, 0x0, 0x0, 0x0, 0x0, 0x0, 0⟩,
  ⟨0x98, 4, 1, 0x0, 0x0, 0x0, 0x0, 0x0, 0x0, 0x0, 0x0, 0⟩]
def CE.rows : List RegRow := CE.rows0 ++ CE.rows1

/-! Block CEMAP (05_control_engine.md). -/
def CEMAP.addr (h : Half) (i : Nat) : Nat := viewBase h + 0x808000 + i * 0x4
def CEMAP.FLAG_MAP : Fld := ⟨0x0, 31, 0⟩
def CEMAP.rows : List RegRow := [
  ⟨0x0, 4, 1, 0x0, 0x0, 0x0, 0x0, 0x0, 0x0, 0x0, 0x0, 0⟩]

/-! Block CELM (05_control_engine.md). -/
def CELM.addr (h : Half) : Nat := viewBase h + 0x808010
def CELM.LM_PAGE : Fld := ⟨0x0, 1, 0⟩
def CELM.rows : List RegRow := [
  ⟨0x0, 4, 1, 0x3, 0x0, 0x0, 0x0, 0x0, 0x0, 0x0, 0x0, 0⟩]

/-! Block GT (05_control_engine.md). -/
def GT.addr (h : Half) (i : Nat) (j : Nat) : Nat := viewBase h + 0xC00000 + i * 0x600 + j * 0x60
def GT.GT : Fld := ⟨0x0, 31, 0⟩
def GT.rows : List RegRow := [
  ⟨0x0, 4, 24, 0xFFFFFFFF, 0x0, 0x0, 0x0, 0x0, 0x0, 0xFFFFFFFF, 0x0, 0⟩]

/-! Block SOLV (06_solver_array.md). -/
def SOLV.addr (h : Half) : Nat := viewBase h + 0x1000000
def SOLV.CHANNEL : Fld := ⟨0x0, 5, 0⟩
def SOLV.DESC : Fld := ⟨0x0, 30, 6⟩
def SOLV.PORT_CODE : Fld := ⟨0x80, 3, 0⟩
def SOLV.PLACED : Fld := ⟨0x80, 8, 4⟩
def SOLV.TAU_EXP : Fld := ⟨0x100, 7, 0⟩
def SOLV.FLAGGED : Fld := ⟨0x104, 17, 0⟩
def SOLV.HDR : Fld := ⟨0x3000, 31, 0⟩
def SOLV.SLOT_STATE : Fld := ⟨0x3400, 1, 0⟩
def SOLV.LOAD_ADDR : Fld := ⟨0x3480, 30, 0⟩
def SOLV.GO : Fld := ⟨0x3484, 0, 0⟩
def SOLV.SLOT : Fld := ⟨0x3484, 3, 1⟩
def SOLV.CHAN : Fld := ⟨0x3484, 4, 4⟩
def SOLV.LOAD_RESULT : Fld := ⟨0x3488, 1, 0⟩
def SOLV.rows : List RegRow := [
  ⟨0x0, 4, 32, 0x0, 0x0, 0x0, 0x0, 0x7FFFFFFF, 0x0, 0x0, 0x0, 0⟩,
  ⟨0x80, 4, 32, 0x0, 0x0, 0x0, 0x0, 0x0, 0x0, 0x0, 0x0, 0⟩,
  ⟨0x100, 4, 1, 0xFF, 0x0, 0x0, 0x0, 0x0, 0x0, 0xFF, 0x0, 0⟩,
  ⟨0x104, 4, 1, 0x0, 0x3FFFF, 0x0, 0x0, 0x0, 0x0, 0x0, 0x0, 0⟩,
  ⟨0x3000, 4, 256, 0x0, 0x0, 0x0, 0x0, 0x0, 0x0, 0x0, 0x0, 0⟩,
  ⟨0x3400, 4, 16, 0x0, 0x0, 0x0, 0x0, 0x0, 0x0, 0x3, 0x0, 0⟩,
  ⟨0x3480, 4, 1, 0x7FFFFFFF, 0x0, 0x0, 0x0, 0x0, 0x0, 0x0, 0x0, 0⟩,
  ⟨0x3484, 4, 1, 0x0, 0x0, 0x0, 0x0, 0x1F, 0x0, 0x0, 0x0, 0⟩,
  ⟨0x3488, 4, 1, 0x0, 0x0, 0x0, 0x0, 0x0, 0x0, 0x0, 0x0, 0⟩]

/-! Block CH (06_solver_array.md). -/
def CH.addr (h : Half) (i : Nat) : Nat := viewBase h + 0x1001000 + i * 0x100
def CH.QUEUED : Fld := ⟨0x0, 5, 0⟩
def CH.CBUSY : Fld := ⟨0x0, 6, 6⟩
def CH.RUN_CLASS : Fld := ⟨0x0, 7, 7⟩
def CH.SPARSE : Fld := ⟨0x0, 8, 8⟩
def CH.FACT_VALID : Fld := ⟨0x0, 9, 9⟩
def CH.FACT_SLOT : Fld := ⟨0x0, 12, 10⟩
def CH.RESET : Fld := ⟨0x4, 0, 0⟩
def CH.CLR_CNT : Fld := ⟨0x4, 1, 1⟩
def CH.DONE_CNT : Fld := ⟨0x8, 15, 0⟩
def CH.FLAG_CNT : Fld := ⟨0x8, 31, 16⟩
def CH.WARM_REJECT_CNT : Fld := ⟨0xC, 15, 0⟩
def CH.REFUSE_CNT : Fld := ⟨0xC, 31, 16⟩
def CH.REG_CNT : Fld := ⟨0x10, 15, 0⟩
def CH.OVF_CNT : Fld := ⟨0x10, 31, 16⟩
def CH.STEPS_QUEUED : Fld := ⟨0x14, 31, 0⟩
def CH.LAST_DESC : Fld := ⟨0x18, 30, 0⟩
def CH.rows : List RegRow := [
  ⟨0x0, 4, 1, 0x0, 0x0, 0x0, 0x0, 0x0, 0x0, 0x0, 0x0, 0⟩,
  ⟨0x4, 4, 1, 0x0, 0x0, 0x0, 0x0, 0x3, 0x0, 0x0, 0x0, 0⟩,
  ⟨0x8, 4, 1, 0x0, 0x0, 0x0, 0x0, 0x0, 0x0, 0x0, 0x0, 0⟩,
  ⟨0xC, 4, 1, 0x0, 0x0, 0x0, 0x0, 0x0, 0x0, 0x0, 0x0, 0⟩,
  ⟨0x10, 4, 1, 0x0, 0x0, 0x0, 0x0, 0x0, 0x0, 0x0, 0x0, 0⟩,
  ⟨0x14, 4, 1, 0x0, 0x0, 0x0, 0x0, 0x0, 0x0, 0x0, 0x0, 0⟩,
  ⟨0x18, 4, 1, 0x0, 0x0, 0x0, 0x0, 0x0, 0x0, 0x0, 0x0, 0⟩]

/-! Block GOV (07_coordination.md). -/
def GOV.addr (h : Half) : Nat := viewBase h + 0x460000
def GOV.H : Fld := ⟨0x0, 4, 0⟩
def GOV.ARMS : Fld := ⟨0x0, 12, 8⟩
def GOV.SLOT : Fld := ⟨0x0, 18, 16⟩
def GOV.ITER : Fld := ⟨0x4, 3, 0⟩
def GOV.SLACK_NOW : Fld := ⟨0x4, 4, 4⟩
def GOV.CEIL_STALE : Fld := ⟨0x4, 5, 5⟩
def GOV.ROLE : Fld := ⟨0x4, 7, 6⟩
def GOV.MEMBERS : Fld := ⟨0x4, 11, 8⟩
def GOV.GROUP_CL : Fld := ⟨0x4, 15, 12⟩
def GOV.SLACK_USED : Fld := ⟨0x8, 0, 0⟩
def GOV.PROJECTED : Fld := ⟨0x8, 1, 1⟩
def GOV.FLAGGED_RESULT : Fld := ⟨0x8, 2, 2⟩
def GOV.PEER_SILENT : Fld := ⟨0x8, 3, 3⟩
def GOV.ADMIT_REFUSED : Fld := ⟨0x8, 4, 4⟩
def GOV.ZONE_OVERRUN : Fld := ⟨0x8, 5, 5⟩
def GOV.ZONE_DEADLOCK : Fld := ⟨0x8, 6, 6⟩
def GOV.ZONE_SPLIT : Fld := ⟨0x8, 7, 7⟩
def GOV.DROP : Fld := ⟨0xC, 0, 0⟩
def GOV.CLR_CNT : Fld := ⟨0xC, 1, 1⟩
def GOV.DROP_NUM : Fld := ⟨0xC, 25, 16⟩
def GOV.CLEAR : Fld := ⟨0x10, 31, 0⟩
def GOV.CLEAR_X : Fld := ⟨0x14, 31, 0⟩
def GOV.SMOOTH : Fld := ⟨0x18, 31, 0⟩
def GOV.ZONE_LEAD : Fld := ⟨0x1C, 15, 0⟩
def GOV.SLACK_TICKS : Fld := ⟨0x20, 15, 0⟩
def GOV.PROJ_TICKS : Fld := ⟨0x20, 31, 16⟩
def GOV.FAST_DEC : Fld := ⟨0x24, 15, 0⟩
def GOV.ZONE_WAITS : Fld := ⟨0x24, 31, 16⟩
def GOV.COORD_NUM : Fld := ⟨0x28, 9, 0⟩
def GOV.Z_STATE : Fld := ⟨0x400, 1, 0⟩
def GOV.HOLDER : Fld := ⟨0x400, 13, 4⟩
def GOV.REQ : Fld := ⟨0x800, 31, 0⟩
def GOV.rows : List RegRow := [
  ⟨0x0, 4, 1, 0x0, 0x0, 0x0, 0x0, 0x0, 0x0, 0x71F1F, 0x0, 0⟩,
  ⟨0x4, 4, 1, 0x0, 0x0, 0x0, 0x0, 0x0, 0x0, 0x0, 0x0, 0⟩,
  ⟨0x8, 4, 1, 0x0, 0xFF, 0x0, 0x0, 0x0, 0x0, 0x0, 0x0, 0⟩,
  ⟨0xC, 4, 1, 0x0, 0x0, 0x0, 0x0, 0x3FF0003, 0x0, 0x0, 0x0, 0⟩,
  ⟨0x10, 4, 1, 0xFFFFFFFF, 0x0, 0x0, 0x0, 0x0, 0x0, 0xFFFFFFFF, 0x0, 0⟩,
  ⟨0x14, 4, 1, 0xFFFFFFFF, 0x0, 0x0, 0x0, 0x0, 0x0, 0xFFFFFFFF, 0x0, 0⟩,
  ⟨0x18, 4, 1, 0xFFFFFFFF, 0x0, 0x0, 0x0, 0x0, 0x0, 0xFFFFFFFF, 0x0, 0⟩,
  ⟨0x1C, 4, 1, 0xFFFF, 0x0, 0x0, 0x0, 0x0, 0x0, 0xFFFF, 0x0, 0⟩,
  ⟨0x20, 4, 1, 0x0, 0x0, 0x0, 0x0, 0x0, 0x0, 0x0, 0x0, 0⟩,
  ⟨0x24, 4, 1, 0x0, 0x0, 0x0, 0x0, 0x0, 0x0, 0x0, 0x0, 0⟩,
  ⟨0x28, 4, 1, 0x0, 0x0, 0x0, 0x0, 0x0, 0x3FF, 0x0, 0x0, 0⟩,
  ⟨0x400, 4, 256, 0x0, 0x0, 0x0, 0x0, 0x0, 0x3FF0, 0x0, 0x0, 0⟩,
  ⟨0x800, 4, 64, 0x0, 0x0, 0x0, 0x0, 0x0, 0x0, 0x0, 0x0, 0⟩]

/-! Block GOVARM (07_coordination.md). -/
def GOVARM.addr (h : Half) (i : Nat) : Nat := viewBase h + 0x460040 + i * 0x10
def GOVARM.W : Fld := ⟨0x0, 31, 0⟩
def GOVARM.SIG_RATE : Fld := ⟨0x4, 15, 0⟩
def GOVARM.CEIL : Fld := ⟨0x8, 31, 0⟩
def GOVARM.SIG_PUB : Fld := ⟨0xC, 15, 0⟩
def GOVARM.U1 : Fld := ⟨0xC, 31, 16⟩
def GOVARM.rows : List RegRow := [
  ⟨0x0, 4, 1, 0xFFFFFFFF, 0x0, 0x0, 0x0, 0x0, 0x0, 0xFFFFFFFF, 0x0, 0⟩,
  ⟨0x4, 4, 1, 0xFFFF, 0x0, 0x0, 0x0, 0x0, 0x0, 0xFFFF, 0x0, 0⟩,
  ⟨0x8, 4, 1, 0x0, 0x0, 0x0, 0x0, 0x0, 0x0, 0x0, 0x0, 0⟩,
  ⟨0xC, 4, 1, 0x0, 0x0, 0x0, 0x0, 0x0, 0x8000, 0x0, 0x0, 0⟩]

/-! Block GOVPEER (07_coordination.md). -/
def GOVPEER.addr (h : Half) (i : Nat) : Nat := viewBase h + 0x460200 + i * 0x8
def GOVPEER.PEER_NUM : Fld := ⟨0x0, 9, 0⟩
def GOVPEER.AGE : Fld := ⟨0x0, 23, 16⟩
def GOVPEER.P_STATE : Fld := ⟨0x0, 25, 24⟩
def GOVPEER.P_CL : Fld := ⟨0x4, 3, 0⟩
def GOVPEER.P_H : Fld := ⟨0x4, 12, 8⟩
def GOVPEER.rows : List RegRow := [
  ⟨0x0, 4, 1, 0x0, 0x0, 0x0, 0x0, 0x0, 0xFF03FF, 0x0, 0x0, 0⟩,
  ⟨0x4, 4, 1, 0x0, 0x0, 0x0, 0x0, 0x0, 0x0, 0x0, 0x0, 0⟩]

/-! Block ISL (08_safety_island.md). -/
def ISL.addr : Nat := commonBase + 0x1000000
def ISL.ISL_ID : Fld := ⟨0x0, 31, 0⟩
def ISL.STATE : Fld := ⟨0x4, 1, 0⟩
def ISL.FP_MISMATCH : Fld := ⟨0x4, 2, 2⟩
def ISL.COMM_ACT : Fld := ⟨0x4, 3, 3⟩
def ISL.WR_REFUSED : Fld := ⟨0x4, 4, 4⟩
def ISL.LOAD_FAIL : Fld := ⟨0x4, 5, 5⟩
def ISL.ACCEPT_FAIL : Fld := ⟨0x4, 6, 6⟩
def ISL.ADDR_CHANGED : Fld := ⟨0x4, 7, 7⟩
def ISL.LOADING : Fld := ⟨0x4, 8, 8⟩
def ISL.ADDR : Fld := ⟨0x8, 9, 0⟩
def ISL.ADDR_NOW : Fld := ⟨0x8, 19, 10⟩
def ISL.SEAL_WE : Fld := ⟨0x8, 20, 20⟩
def ISL.COMMISSION : Fld := ⟨0x8, 21, 21⟩
def ISL.LOAD : Fld := ⟨0xC, 0, 0⟩
def ISL.FP_LOADED : Fld := ⟨0x10, 31, 0⟩
def ISL.FP_ACCEPTED : Fld := ⟨0x14, 31, 0⟩
def ISL.FP_ACCEPT : Fld := ⟨0x18, 31, 0⟩
def ISL.REFUSED_ADDR : Fld := ⟨0x1C, 23, 0⟩
def ISL.LEVEL : Fld := ⟨0x20, 23, 0⟩
def ISL.PAIR_FAULT : Fld := ⟨0x24, 23, 0⟩
def ISL.OSSD_ON : Fld := ⟨0x28, 3, 0⟩
def ISL.STO_ON : Fld := ⟨0x28, 11, 4⟩
def ISL.OUT_FAULT : Fld := ⟨0x2C, 23, 0⟩
def ISL.XY_DIFF_CNT : Fld := ⟨0x30, 7, 0⟩
def ISL.RESET_REJ_CNT : Fld := ⟨0x30, 15, 8⟩
def ISL.WR_REFUSED_CNT : Fld := ⟨0x30, 23, 16⟩
def ISL.KIND : Fld := ⟨0x40, 3, 0⟩
def ISL.DEMAND : Fld := ⟨0x40, 4, 4⟩
def ISL.F_WAIT_RESET : Fld := ⟨0x40, 5, 5⟩
def ISL.GROUPS : Fld := ⟨0x40, 21, 6⟩
def ISL.G_STATE : Fld := ⟨0x100, 3, 0⟩
def ISL.MANUAL : Fld := ⟨0x100, 4, 4⟩
def ISL.G_WAIT_RESET : Fld := ⟨0x100, 5, 5⟩
def ISL.FAULT_LOG : Fld := ⟨0x200, 31, 0⟩
def ISL.rows : List RegRow := [
  ⟨0x0, 4, 1, 0x0, 0x0, 0x0, 0x0, 0x0, 0x0, 0x0, 0x0, 0⟩,
  ⟨0x4, 4, 1, 0x0, 0x0, 0x10, 0x0, 0x0, 0x0, 0x0, 0x0, 0⟩,
  ⟨0x8, 4, 1, 0x0, 0x0, 0x0, 0x0, 0x0, 0x0, 0x0, 0x0, 0⟩,
  ⟨0xC, 4, 1, 0x0, 0x0, 0x0, 0x1, 0x0, 0x0, 0x0, 0x0, 0⟩,
  ⟨0x10, 4, 1, 0x0, 0x0, 0x0, 0x0, 0x0, 0x0, 0x0, 0xFFFFFFFF, 0⟩,
  ⟨0x14, 4, 1, 0x0, 0x0, 0x0, 0x0, 0x0, 0x0, 0x0, 0x0, 0⟩,
  ⟨0x18, 4, 1, 0x0, 0x0, 0x0, 0xFFFFFFFF, 0x0, 0x0, 0x0, 0x0, 0⟩,
  ⟨0x1C, 4, 1, 0x0, 0x0, 0x0, 0x0, 0x0, 0x0, 0x0, 0x0, 0⟩,
  ⟨0x20, 4, 1, 0x0, 0x0, 0x0, 0x0, 0x0, 0x0, 0x0, 0x0, 0⟩,
  ⟨0x24, 4, 1, 0x0, 0x0, 0x0, 0x0, 0x0, 0x0, 0x0, 0x0, 0⟩,
  ⟨0x28, 4, 1, 0x0, 0x0, 0x0, 0x0, 0x0, 0x0, 0x0, 0x0, 0⟩,
  ⟨0x2C, 4, 1, 0x0, 0x0, 0x0, 0x0, 0x0, 0x0, 0x0, 0x0, 0⟩,
  ⟨0x30, 4, 1, 0x0, 0x0, 0x0, 0x0, 0x0, 0x0, 0x0, 0x0, 0⟩,
  ⟨0x40, 4, 32, 0x0, 0x0, 0x0, 0x0, 0x0, 0x0, 0x0, 0x3FFFCF, 0⟩,
  ⟨0x100, 4, 16, 0x0, 0x0, 0x0, 0x0, 0x0, 0x0, 0x0, 0x0, 0⟩,
  ⟨0x200, 4, 64, 0x0, 0x0, 0x0, 0x0, 0x0, 0x0, 0x0, 0x0, 0⟩]

/-! Block SSM (09_separation_monitoring.md). -/
def SSM.addr : Nat := commonBase + 0x1001000
def SSM.OBJ_COUNT : Fld := ⟨0x0, 6, 0⟩
def SSM.SENS_OK : Fld := ⟨0x0, 15, 8⟩
def SSM.TEST_BUSY : Fld := ⟨0x0, 16, 16⟩
def SSM.STOP_CNT : Fld := ⟨0x4, 7, 0⟩
def SSM.SENS_FAULT_CNT : Fld := ⟨0x4, 15, 8⟩
def SSM.BEYOND_CNT : Fld := ⟨0x4, 23, 16⟩
def SSM.TEST_ARM : Fld := ⟨0x8, 3, 0⟩
def SSM.GO : Fld := ⟨0x8, 4, 4⟩
def SSM.T_S : Fld := ⟨0xC, 15, 0⟩
def SSM.V_DEC : Fld := ⟨0xC, 31, 16⟩
def SSM.S_S : Fld := ⟨0x10, 15, 0⟩
def SSM.MEAS_ARM : Fld := ⟨0x10, 19, 16⟩
def SSM.MEAS_VALID : Fld := ⟨0x10, 20, 20⟩
def SSM.rows : List RegRow := [
  ⟨0x0, 4, 1, 0x0, 0x0, 0x0, 0x0, 0x0, 0x0, 0x0, 0x0, 0⟩,
  ⟨0x4, 4, 1, 0x0, 0x0, 0x0, 0x0, 0x0, 0x0, 0x0, 0x0, 0⟩,
  ⟨0x8, 4, 1, 0x0, 0x0, 0x0, 0x1F, 0x0, 0x0, 0x0, 0x0, 0⟩,
  ⟨0xC, 4, 1, 0x0, 0x0, 0x0, 0x0, 0x0, 0x0, 0x0, 0x0, 0⟩,
  ⟨0x10, 4, 1, 0x0, 0x0, 0x0, 0x0, 0x0, 0x0, 0x0, 0x0, 0⟩]

/-! Block SSMARM (09_separation_monitoring.md). -/
def SSMARM.addr (i : Nat) : Nat := commonBase + 0x1001100 + i * 0x10
def SSMARM.OUTCOME : Fld := ⟨0x0, 1, 0⟩
def SSMARM.CAUSE : Fld := ⟨0x0, 4, 2⟩
def SSMARM.BAND : Fld := ⟨0x0, 7, 5⟩
def SSMARM.CLASS : Fld := ⟨0x0, 10, 8⟩
def SSMARM.CL_WORST : Fld := ⟨0x0, 11, 11⟩
def SSMARM.DWELL_RUN : Fld := ⟨0x0, 12, 12⟩
def SSMARM.CEIL_BAND : Fld := ⟨0x0, 15, 13⟩
def SSMARM.CEIL : Fld := ⟨0x0, 31, 16⟩
def SSMARM.V_R : Fld := ⟨0x4, 15, 0⟩
def SSMARM.D_MIN : Fld := ⟨0x4, 31, 16⟩
def SSMARM.M_BAND : Fld := ⟨0x8, 15, 0⟩
def SSMARM.OBJ : Fld := ⟨0x8, 21, 16⟩
def SSMARM.SP : Fld := ⟨0xC, 15, 0⟩
def SSMARM.rows : List RegRow := [
  ⟨0x0, 4, 1, 0x0, 0x0, 0x0, 0x0, 0x0, 0x3, 0x0, 0x0, 0⟩,
  ⟨0x4, 4, 1, 0x0, 0x0, 0x0, 0x0, 0x0, 0xFFFF0000, 0x0, 0x0, 0⟩,
  ⟨0x8, 4, 1, 0x0, 0x0, 0x0, 0x0, 0x0, 0x7FFF, 0x0, 0x0, 0⟩,
  ⟨0xC, 4, 1, 0x0, 0x0, 0x0, 0x0, 0x0, 0x0, 0x0, 0x0, 0⟩]

/-! Block SSMSENS (09_separation_monitoring.md). -/
def SSMSENS.addr (i : Nat) : Nat := commonBase + 0x1001200 + i * 0x8
def SSMSENS.S_STATE : Fld := ⟨0x0, 1, 0⟩
def SSMSENS.COUNT : Fld := ⟨0x0, 7, 4⟩
def SSMSENS.AGE : Fld := ⟨0x0, 31, 16⟩
def SSMSENS.PDU_CNT : Fld := ⟨0x4, 15, 0⟩
def SSMSENS.rows : List RegRow := [
  ⟨0x0, 4, 1, 0x0, 0x0, 0x0, 0x0, 0x0, 0xFFFF0000, 0x0, 0x0, 0⟩,
  ⟨0x4, 4, 1, 0x0, 0x0, 0x0, 0x0, 0x0, 0x0, 0x0, 0x0, 0⟩]

/-! Block SMSG (10_safe_messaging.md). -/
def SMSG.addr : Nat := commonBase + 0x1002000
def SMSG.RUN_COUNT : Fld := ⟨0x0, 6, 0⟩
def SMSG.CONF_COUNT : Fld := ⟨0x0, 14, 8⟩
def SMSG.SAFE_MAP : Fld := ⟨0x8, 31, 0⟩
def SMSG.CLR_CNT : Fld := ⟨0x10, 0, 0⟩
def SMSG.rows : List RegRow := [
  ⟨0x0, 4, 1, 0x0, 0x0, 0x0, 0x0, 0x0, 0x0, 0x0, 0x7F00, 0⟩,
  ⟨0x8, 4, 2, 0x0, 0x0, 0x0, 0x0, 0x0, 0x0, 0x0, 0x0, 0⟩,
  ⟨0x10, 4, 1, 0x0, 0x0, 0x0, 0x1, 0x0, 0x0, 0x0, 0x0, 0⟩]

/-! Block CONN (10_safe_messaging.md). -/
def CONN.addr (i : Nat) : Nat := commonBase + 0x1002100 + i * 0x10
def CONN.C_STATE : Fld := ⟨0x0, 1, 0⟩
def CONN.TYPE : Fld := ⟨0x0, 4, 2⟩
def CONN.CAUSE : Fld := ⟨0x0, 7, 5⟩
def CONN.TRANSPORT : Fld := ⟨0x0, 9, 8⟩
def CONN.RING : Fld := ⟨0x0, 12, 10⟩
def CONN.NODE : Fld := ⟨0x0, 17, 13⟩
def CONN.SEQ_RX : Fld := ⟨0x4, 15, 0⟩
def CONN.SEQ_TX : Fld := ⟨0x4, 31, 16⟩
def CONN.CRC_FAIL_CNT : Fld := ⟨0x8, 15, 0⟩
def CONN.SEQ_FAIL_CNT : Fld := ⟨0x8, 31, 16⟩
def CONN.WD_CNT : Fld := ⟨0xC, 15, 0⟩
def CONN.WD_MIN : Fld := ⟨0xC, 31, 16⟩
def CONN.rows : List RegRow := [
  ⟨0x0, 4, 1, 0x0, 0x0, 0x0, 0x0, 0x0, 0x0, 0x0, 0x3FF1C, 0⟩,
  ⟨0x4, 4, 1, 0x0, 0x0, 0x0, 0x0, 0x0, 0x0, 0x0, 0x0, 0⟩,
  ⟨0x8, 4, 1, 0x0, 0x0, 0x0, 0x0, 0x0, 0x0, 0x0, 0x0, 0⟩,
  ⟨0xC, 4, 1, 0x0, 0x0, 0x0, 0x0, 0x0, 0xFFFF0000, 0x0, 0x0, 0⟩]

/-! Block RING (11_drive_rings.md). -/
def RING.addr (h : Half) (i : Nat) : Nat := viewBase h + 0x3000000 + i * 0x10000
def RING.START : Fld := ⟨0x0, 0, 0⟩
def RING.STOP : Fld := ⟨0x0, 1, 1⟩
def RING.RESTART : Fld := ⟨0x0, 2, 2⟩
def RING.CLR_CNT : Fld := ⟨0x0, 3, 3⟩
def RING.CH_CLR : Fld := ⟨0x0, 4, 4⟩
def RING.AUTO_RESTART : Fld := ⟨0x0, 8, 8⟩
def RING.STATE : Fld := ⟨0x4, 2, 0⟩
def RING.CH_A_OK : Fld := ⟨0x4, 3, 3⟩
def RING.CH_B_OK : Fld := ⟨0x4, 4, 4⟩
def RING.SPLIT : Fld := ⟨0x4, 5, 5⟩
def RING.ASYM : Fld := ⟨0x4, 6, 6⟩
def RING.EPOCH : Fld := ⟨0x4, 15, 8⟩
def RING.NODES : Fld := ⟨0x4, 20, 16⟩
def RING.FAIL_CODE : Fld := ⟨0x4, 27, 24⟩
def RING.FOUND_RING : Fld := ⟨0x4, 30, 28⟩
def RING.D_A : Fld := ⟨0x8, 15, 0⟩
def RING.D_B : Fld := ⟨0x8, 31, 16⟩
def RING.D_MAX : Fld := ⟨0xC, 15, 0⟩
def RING.CRC_ERR_A : Fld := ⟨0x10, 15, 0⟩
def RING.VIOL_A : Fld := ⟨0x10, 31, 16⟩
def RING.CRC_ERR_B : Fld := ⟨0x14, 15, 0⟩
def RING.VIOL_B : Fld := ⟨0x14, 31, 16⟩
def RING.STALE_EP : Fld := ⟨0x18, 15, 0⟩
def RING.COPY_DIFF : Fld := ⟨0x18, 31, 16⟩
def RING.BAB_A : Fld := ⟨0x1C, 4, 0⟩
def RING.BAB_B : Fld := ⟨0x1C, 12, 8⟩
def RING.A_UNUSABLE : Fld := ⟨0x1C, 16, 16⟩
def RING.B_UNUSABLE : Fld := ⟨0x1C, 17, 17⟩
def RING.MIN_MARGIN : Fld := ⟨0x20, 10, 0⟩
def RING.MIN_NODE : Fld := ⟨0x20, 20, 16⟩
def RING.N_ENTRIES : Fld := ⟨0x40, 7, 0⟩
def RING.SET_IDX : Fld := ⟨0x40, 15, 8⟩
def RING.MBX_ENTRIES : Fld := ⟨0x40, 23, 16⟩
def RING.SEND : Fld := ⟨0x400, 0, 0⟩
def RING.RX_ACK : Fld := ⟨0x400, 1, 1⟩
def RING.MBX_NODE : Fld := ⟨0x400, 12, 8⟩
def RING.MBX_LEN : Fld := ⟨0x400, 23, 16⟩
def RING.TX_BUSY : Fld := ⟨0x404, 0, 0⟩
def RING.RX_READY : Fld := ⟨0x404, 1, 1⟩
def RING.RX_NODE : Fld := ⟨0x404, 6, 2⟩
def RING.RX_LEN : Fld := ⟨0x404, 15, 8⟩
def RING.TX_FAIL : Fld := ⟨0x404, 16, 16⟩
def RING.TXBUF : Fld := ⟨0x500, 31, 0⟩
def RING.RXBUF : Fld := ⟨0x600, 31, 0⟩
def RING.SCHED : Fld := ⟨0x1000, 31, 0⟩
def RING.rows : List RegRow := [
  ⟨0x0, 4, 1, 0x100, 0x0, 0x0, 0x0, 0x1F, 0x0, 0x100, 0x0, 0⟩,
  ⟨0x4, 4, 1, 0x0, 0x0, 0x0, 0x0, 0x0, 0x0, 0x20, 0x0, 0⟩,
  ⟨0x8, 4, 1, 0x0, 0x0, 0x0, 0x0, 0x0, 0x0, 0x0, 0x0, 0⟩,
  ⟨0xC, 4, 1, 0x0, 0x0, 0x0, 0x0, 0x0, 0x0, 0xFFFF, 0x0, 0⟩,
  ⟨0x10, 4, 1, 0x0, 0x0, 0x0, 0x0, 0x0, 0x0, 0x0, 0x0, 0⟩,
  ⟨0x14, 4, 1, 0x0, 0x0, 0x0, 0x0, 0x0, 0x0, 0x0, 0x0, 0⟩,
  ⟨0x18, 4, 1, 0x0, 0x0, 0x0, 0x0, 0x0, 0x0, 0x0, 0x0, 0⟩,
  ⟨0x1C, 4, 1, 0x0, 0x0, 0x0, 0x0, 0x0, 0x0, 0x0, 0x0, 0⟩,
  ⟨0x20, 4, 1, 0x0, 0x0, 0x0, 0x0, 0x0, 0x3E8, 0x0, 0x0, 0⟩,
  ⟨0x40, 4, 1, 0x0, 0x0, 0x0, 0x0, 0x0, 0x0, 0xFFFFFF, 0x0, 0⟩,
  ⟨0x400, 4, 1, 0x0, 0x0, 0x0, 0x0, 0xFF1F03, 0x0, 0x0, 0x0, 0⟩,
  ⟨0x404, 4, 1, 0x0, 0x0, 0x0, 0x0, 0x0, 0x0, 0x0, 0x0, 0⟩,
  ⟨0x500, 4, 64, 0xFFFFFFFF, 0x0, 0x0, 0x0, 0x0, 0x0, 0x0, 0x0, 0⟩,
  ⟨0x600, 4, 64, 0x0, 0x0, 0x0, 0x0, 0x0, 0x0, 0x0, 0x0, 0⟩,
  ⟨0x1000, 4, 384, 0xFFFFFFFF, 0x0, 0x0, 0x0, 0x0, 0x0, 0xFFFFFFFF, 0x0, 0⟩]

/-! Block NODE (11_drive_rings.md). -/
def NODE.addr (h : Half) (i : Nat) (j : Nat) : Nat := viewBase h + 0x3000100 + i * 0x10000 + j * 0x10
def NODE.N_STATE : Fld := ⟨0x0, 1, 0⟩
def NODE.LEVEL : Fld := ⟨0x0, 3, 2⟩
def NODE.AXES : Fld := ⟨0x0, 7, 4⟩
def NODE.CLK_FLAG : Fld := ⟨0x0, 8, 8⟩
def NODE.LOC : Fld := ⟨0x0, 9, 9⟩
def NODE.PU : Fld := ⟨0x0, 10, 10⟩
def NODE.F_NS : Fld := ⟨0x0, 31, 16⟩
def NODE.D_A_NODE : Fld := ⟨0x4, 15, 0⟩
def NODE.D_B_NODE : Fld := ⟨0x4, 31, 16⟩
def NODE.MARGIN : Fld := ⟨0x8, 10, 0⟩
def NODE.MARGIN_MIN : Fld := ⟨0x8, 26, 16⟩
def NODE.MISS_A : Fld := ⟨0xC, 15, 0⟩
def NODE.MISS_B : Fld := ⟨0xC, 31, 16⟩
def NODE.rows : List RegRow := [
  ⟨0x0, 4, 1, 0x0, 0x0, 0x0, 0x0, 0x0, 0x0, 0x0, 0x0, 0⟩,
  ⟨0x4, 4, 1, 0x0, 0x0, 0x0, 0x0, 0x0, 0x0, 0x0, 0x0, 0⟩,
  ⟨0x8, 4, 1, 0x0, 0x0, 0x0, 0x0, 0x0, 0x3E803E8, 0x0, 0x0, 0⟩,
  ⟨0xC, 4, 1, 0x0, 0x0, 0x0, 0x0, 0x0, 0x0, 0x0, 0x0, 0⟩]

/-! Block CORE (12_control_cores.md). -/
def CORE.addr (h : Half) (i : Nat) : Nat := viewBase h + 0x2030000 + i * 0x40000
def CORE.HALT : Fld := ⟨0x0, 0, 0⟩
def CORE.STEP : Fld := ⟨0x0, 1, 1⟩
def CORE.STATE : Fld := ⟨0x4, 1, 0⟩
def CORE.IN_URGENT : Fld := ⟨0x4, 2, 2⟩
def CORE.LOOPACT : Fld := ⟨0x4, 3, 3⟩
def CORE.COPIES : Fld := ⟨0x4, 6, 4⟩
def CORE.ITEM : Fld := ⟨0x4, 27, 16⟩
def CORE.AOV : Fld := ⟨0x8, 3, 0⟩
def CORE.SSAT : Fld := ⟨0x8, 4, 4⟩
def CORE.ISAT : Fld := ⟨0x8, 5, 5⟩
def CORE.FINV : Fld := ⟨0x8, 6, 6⟩
def CORE.FDZ : Fld := ⟨0x8, 7, 7⟩
def CORE.FOVF : Fld := ⟨0x8, 8, 8⟩
def CORE.FUNF : Fld := ⟨0x8, 9, 9⟩
def CORE.FAULT : Fld := ⟨0x8, 10, 10⟩
def CORE.ARGW : Fld := ⟨0x8, 11, 11⟩
def CORE.CODE : Fld := ⟨0xC, 3, 0⟩
def CORE.FAULT_IDX : Fld := ⟨0xC, 28, 16⟩
def CORE.PC : Fld := ⟨0x10, 12, 0⟩
def CORE.ICNT : Fld := ⟨0x18, 63, 0⟩
def CORE.STALLS : Fld := ⟨0x20, 31, 0⟩
def CORE.rows : List RegRow := [
  ⟨0x0, 4, 1, 0x1, 0x0, 0x0, 0x0, 0x2, 0x0, 0x0, 0x0, 0⟩,
  ⟨0x4, 4, 1, 0x0, 0x0, 0x0, 0x0, 0x0, 0x0, 0x0, 0x0, 0⟩,
  ⟨0x8, 4, 1, 0x0, 0xFFF, 0x0, 0x0, 0x0, 0x0, 0x0, 0x0, 0⟩,
  ⟨0xC, 4, 1, 0x0, 0x0, 0x0, 0x0, 0x0, 0x0, 0x0, 0x0, 0⟩,
  ⟨0x10, 4, 1, 0x0, 0x0, 0x0, 0x0, 0x0, 0x0, 0x0, 0x0, 0⟩,
  ⟨0x18, 4, 1, 0x0, 0x0, 0x0, 0x0, 0x0, 0x0, 0x0, 0x0, 1⟩,
  ⟨0x1C, 4, 1, 0x0, 0x0, 0x0, 0x0, 0x0, 0x0, 0x0, 0x0, 2⟩,
  ⟨0x20, 4, 1, 0x0, 0x0, 0x0, 0x0, 0x0, 0x0, 0x0, 0x0, 0⟩]

/-! Block SCHED (13_work_scheduling.md). -/
def SCHED.addr (h : Half) : Nat := viewBase h + 0x200000
def SCHED.ITEM : Fld := ⟨0x0, 11, 0⟩
def SCHED.IDLE : Fld := ⟨0x4, 4, 0⟩
def SCHED.URG_WAIT : Fld := ⟨0x4, 10, 5⟩
def SCHED.PARAM_ERR : Fld := ⟨0x4, 16, 16⟩
def SCHED.TBL_ERR : Fld := ⟨0x4, 17, 17⟩
def SCHED.LATE_CNT : Fld := ⟨0x8, 15, 0⟩
def SCHED.ABANDON_CNT : Fld := ⟨0x8, 31, 16⟩
def SCHED.MERGED : Fld := ⟨0xC, 15, 0⟩
def SCHED.OVERRUN_CNT : Fld := ⟨0xC, 31, 16⟩
def SCHED.POST_REF : Fld := ⟨0x10, 15, 0⟩
def SCHED.WR_IDX : Fld := ⟨0x14, 13, 0⟩
def SCHED.FROZEN : Fld := ⟨0x14, 14, 14⟩
def SCHED.FREEZE_EN : Fld := ⟨0x14, 15, 15⟩
def SCHED.FREEZE_EVT : Fld := ⟨0x14, 23, 16⟩
def SCHED.TR_CLEAR : Fld := ⟨0x14, 24, 24⟩
def SCHED.WEIGHT : Fld := ⟨0x44, 7, 0⟩
def SCHED.READY : Fld := ⟨0x44, 19, 8⟩
def SCHED.rows : List RegRow := [
  ⟨0x0, 4, 1, 0x0, 0x0, 0x0, 0x0, 0xFFF, 0x0, 0x0, 0x0, 0⟩,
  ⟨0x4, 4, 1, 0x0, 0x30000, 0x0, 0x0, 0x0, 0x0, 0x0, 0x0, 0⟩,
  ⟨0x8, 4, 1, 0x0, 0x0, 0x0, 0x0, 0x0, 0x0, 0x0, 0x0, 0⟩,
  ⟨0xC, 4, 1, 0x0, 0x0, 0x0, 0x0, 0x0, 0x0, 0x0, 0x0, 0⟩,
  ⟨0x10, 4, 1, 0x0, 0x0, 0x0, 0x0, 0x0, 0x0, 0x0, 0x0, 0⟩,
  ⟨0x14, 4, 1, 0xFF8000, 0x0, 0x0, 0x0, 0x1000000, 0x0, 0x0, 0x0, 0⟩,
  ⟨0x44, 4, 15, 0xFF, 0x0, 0x0, 0x0, 0x0, 0x0, 0xFF, 0x0, 0⟩]

/-! Block DESC (13_work_scheduling.md). -/
def DESC.addr (h : Half) (i : Nat) : Nat := viewBase h + 0x210000 + i * 0x20
def DESC.ENTRY : Fld := ⟨0x0, 12, 0⟩
def DESC.GROUP : Fld := ⟨0x0, 19, 16⟩
def DESC.URGENT : Fld := ⟨0x0, 20, 20⟩
def DESC.DROP_LATE : Fld := ⟨0x0, 21, 21⟩
def DESC.REQ : Fld := ⟨0x0, 22, 22⟩
def DESC.ARG_WORDS : Fld := ⟨0x0, 31, 24⟩
def DESC.AFFINITY : Fld := ⟨0x4, 23, 0⟩
def DESC.ARG_PTR : Fld := ⟨0x8, 39, 0⟩
def DESC.EST_RUN : Fld := ⟨0x10, 31, 0⟩
def DESC.DEADLINE : Fld := ⟨0x14, 31, 0⟩
def DESC.D_STATE : Fld := ⟨0x18, 7, 0⟩
def DESC.rows : List RegRow := [
  ⟨0x0, 4, 1, 0xFF3F1FFF, 0x0, 0x0, 0x0, 0x0, 0x0, 0xFF7F1FFF, 0x0, 0⟩,
  ⟨0x4, 4, 1, 0xFFFFFF, 0x0, 0x0, 0x0, 0x0, 0x0, 0xFFFFFF, 0x0, 0⟩,
  ⟨0x8, 4, 1, 0xFFFFFFFF, 0x0, 0x0, 0x0, 0x0, 0x0, 0xFFFFFFFF, 0x0, 1⟩,
  ⟨0xC, 4, 1, 0xFF, 0x0, 0x0, 0x0, 0x0, 0x0, 0xFF, 0x0, 2⟩,
  ⟨0x10, 4, 1, 0xFFFFFFFF, 0x0, 0x0, 0x0, 0x0, 0x0, 0xFFFFFFFF, 0x0, 0⟩,
  ⟨0x14, 4, 1, 0xFFFFFFFF, 0x0, 0x0, 0x0, 0x0, 0x0, 0xFFFFFFFF, 0x0, 0⟩,
  ⟨0x18, 4, 1, 0x0, 0x0, 0x0, 0x0, 0x0, 0x0, 0x0, 0x0, 0⟩]

/-! Block TRC (13_work_scheduling.md). -/
def TRC.addr (h : Half) (i : Nat) : Nat := viewBase h + 0x240000 + i * 0x10
def TRC.TS : Fld := ⟨0x0, 63, 0⟩
def TRC.ITEM : Fld := ⟨0x8, 11, 0⟩
def TRC.GROUP : Fld := ⟨0x8, 15, 12⟩
def TRC.CORE : Fld := ⟨0x8, 20, 16⟩
def TRC.REASON : Fld := ⟨0x8, 31, 24⟩
def TRC.DETAIL : Fld := ⟨0xC, 31, 0⟩
def TRC.rows : List RegRow := [
  ⟨0x0, 4, 1, 0x0, 0x0, 0x0, 0x0, 0x0, 0x0, 0x0, 0x0, 1⟩,
  ⟨0x4, 4, 1, 0x0, 0x0, 0x0, 0x0, 0x0, 0x0, 0x0, 0x0, 2⟩,
  ⟨0x8, 4, 1, 0x0, 0x0, 0x0, 0x0, 0x0, 0x0, 0x0, 0x0, 0⟩,
  ⟨0xC, 4, 1, 0x0, 0x0, 0x0, 0x0, 0x0, 0x0, 0x0, 0x0, 0⟩]

/-! Block EVT (13_work_scheduling.md). -/
def EVT.addr (h : Half) : Nat := viewBase h + 0x100000
def EVT.PEND : Fld := ⟨0x0, 31, 0⟩
def EVT.ACTION : Fld := ⟨0x400, 1, 0⟩
def EVT.TITEM : Fld := ⟨0x400, 13, 2⟩
def EVT.HOST : Fld := ⟨0x400, 14, 14⟩
def EVT.VEC : Fld := ⟨0x400, 20, 15⟩
def EVT.LOST : Fld := ⟨0x800, 15, 0⟩
def EVT.rows : List RegRow := [
  ⟨0x0, 4, 8, 0x0, 0xFFFFFFFF, 0x0, 0x0, 0x0, 0x0, 0x0, 0x0, 0⟩,
  ⟨0x400, 4, 256, 0x1FFFFF, 0x0, 0x0, 0x0, 0x0, 0x0, 0x1FFFFF, 0x0, 0⟩,
  ⟨0x800, 4, 256, 0x0, 0x0, 0xFFFF, 0x0, 0x0, 0x0, 0x0, 0x0, 0⟩]

/-! Block EVTST (13_work_scheduling.md). -/
def EVTST.addr (h : Half) (i : Nat) : Nat := viewBase h + 0x101000 + i * 0x8
def EVTST.STAMP : Fld := ⟨0x0, 63, 0⟩
def EVTST.rows : List RegRow := [
  ⟨0x0, 4, 1, 0x0, 0x0, 0x0, 0x0, 0x0, 0x0, 0x0, 0x0, 1⟩,
  ⟨0x4, 4, 1, 0x0, 0x0, 0x0, 0x0, 0x0, 0x0, 0x0, 0x0, 2⟩]

/-! Block TB (14_time_bases.md). -/
def TB.addr (h : Half) (i : Nat) : Nat := viewBase h + 0x300000 + i * 0x100
def TB.SEC : Fld := ⟨0x0, 63, 0⟩
def TB.NS : Fld := ⟨0x8, 31, 0⟩
def TB.FRAC : Fld := ⟨0xC, 15, 0⟩
def TB.RATE : Fld := ⟨0x10, 63, 0⟩
def TB.OFS_IN : Fld := ⟨0x18, 63, 0⟩
def TB.KP : Fld := ⟨0x20, 31, 0⟩
def TB.KI : Fld := ⟨0x24, 31, 0⟩
def TB.SRC : Fld := ⟨0x28, 1, 0⟩
def TB.LOSS_CNT : Fld := ⟨0x28, 7, 4⟩
def TB.RATE_LIM : Fld := ⟨0x28, 15, 8⟩
def TB.LOCK_THR : Fld := ⟨0x28, 31, 16⟩
def TB.STEP_THR : Fld := ⟨0x2C, 31, 0⟩
def TB.LOCKED : Fld := ⟨0x30, 0, 0⟩
def TB.STEPPED : Fld := ⟨0x30, 1, 1⟩
def TB.GM_CHANGED : Fld := ⟨0x30, 2, 2⟩
def TB.SAMPLES : Fld := ⟨0x30, 31, 16⟩
def TB.LAST_OFS : Fld := ⟨0x34, 31, 0⟩
def TB.SET : Fld := ⟨0x38, 0, 0⟩
def TB.STAMP : Fld := ⟨0x38, 1, 1⟩
def TB.rows : List RegRow := [
  ⟨0x0, 4, 1, 0x0, 0x0, 0x0, 0x0, 0x0, 0x0, 0x0, 0x0, 1⟩,
  ⟨0x4, 4, 1, 0x0, 0x0, 0x0, 0x0, 0x0, 0x0, 0x0, 0x0, 2⟩,
  ⟨0x8, 4, 1, 0x0, 0x0, 0x0, 0x0, 0x0, 0x0, 0x0, 0x0, 0⟩,
  ⟨0xC, 4, 1, 0x0, 0x0, 0x0, 0x0, 0x0, 0x0, 0x0, 0x0, 0⟩,
  ⟨0x10, 4, 1, 0x0, 0x0, 0x0, 0x0, 0x0, 0x0, 0x0, 0x0, 1⟩,
  ⟨0x14, 4, 1, 0x0, 0x0, 0x0, 0x0, 0x0, 0x0, 0x0, 0x0, 2⟩,
  ⟨0x18, 4, 1, 0x0, 0x0, 0x0, 0x0, 0xFFFFFFFF, 0x0, 0x0, 0x0, 1⟩,
  ⟨0x1C, 4, 1, 0x0, 0x0, 0x0, 0x0, 0xFFFFFFFF, 0x0, 0x0, 0x0, 2⟩,
  ⟨0x20, 4, 1, 0xFFFFFFFF, 0x0, 0x0, 0x0, 0x0, 0x0, 0xFFFFFFFF, 0x0, 0⟩,
  ⟨0x24, 4, 1, 0xFFFFFFFF, 0x0, 0x0, 0x0, 0x0, 0x0, 0xFFFFFFFF, 0x0, 0⟩,
  ⟨0x28, 4, 1, 0xFFFFFFF3, 0x0, 0x0, 0x0, 0x0, 0x0, 0xFFFFFFF3, 0x0, 0⟩,
  ⟨0x2C, 4, 1, 0xFFFFFFFF, 0x0, 0x0, 0x0, 0x0, 0x0, 0xFFFFFFFF, 0x0, 0⟩,
  ⟨0x30, 4, 1, 0x0, 0x6, 0x0, 0x0, 0x0, 0x0, 0x0, 0x0, 0⟩,
  ⟨0x34, 4, 1, 0x0, 0x0, 0x0, 0x0, 0x0, 0x0, 0x0, 0x0, 0⟩,
  ⟨0x38, 4, 1, 0x0, 0x0, 0x0, 0x0, 0x3, 0x0, 0x0, 0x0, 0⟩]

/-! Block TB0X (14_time_bases.md). -/
def TB0X.addr (h : Half) : Nat := viewBase h + 0x300000
def TB0X.MONO : Fld := ⟨0x40, 63, 0⟩
def TB0X.rows : List RegRow := [
  ⟨0x40, 4, 1, 0x0, 0x0, 0x0, 0x0, 0x0, 0x0, 0x0, 0x0, 1⟩,
  ⟨0x44, 4, 1, 0x0, 0x0, 0x0, 0x0, 0x0, 0x0, 0x0, 0x0, 2⟩]

/-! Block TB3X (14_time_bases.md). -/
def TB3X.addr (h : Half) : Nat := viewBase h + 0x300300
def TB3X.STATE : Fld := ⟨0x48, 2, 0⟩
def TB3X.ALIGN_REF : Fld := ⟨0x48, 3, 3⟩
def TB3X.ALIGN : Fld := ⟨0x4C, 0, 0⟩
def TB3X.D : Fld := ⟨0x50, 63, 0⟩
def TB3X.RETURN_S : Fld := ⟨0x58, 15, 0⟩
def TB3X.START_WAIT : Fld := ⟨0x58, 23, 16⟩
def TB3X.FAR_THR : Fld := ⟨0x5C, 31, 0⟩
def TB3X.D_TAU : Fld := ⟨0x60, 15, 0⟩
def TB3X.rows : List RegRow := [
  ⟨0x48, 4, 1, 0x0, 0x8, 0x0, 0x0, 0x0, 0x0, 0x0, 0x0, 0⟩,
  ⟨0x4C, 4, 1, 0x0, 0x0, 0x0, 0x0, 0x1, 0x0, 0x0, 0x0, 0⟩,
  ⟨0x50, 4, 1, 0x0, 0x0, 0x0, 0x0, 0x0, 0x0, 0x0, 0x0, 1⟩,
  ⟨0x54, 4, 1, 0x0, 0x0, 0x0, 0x0, 0x0, 0x0, 0x0, 0x0, 2⟩,
  ⟨0x58, 4, 1, 0xFFFFFF, 0x0, 0x0, 0x0, 0x0, 0x0, 0xFFFFFF, 0x0, 0⟩,
  ⟨0x5C, 4, 1, 0xFFFFFFFF, 0x0, 0x0, 0x0, 0x0, 0x0, 0xFFFFFFFF, 0x0, 0⟩,
  ⟨0x60, 4, 1, 0xFFFF, 0x0, 0x0, 0x0, 0x0, 0x0, 0xFFFF, 0x0, 0⟩]

/-! Block ALARM (14_time_bases.md). -/
def ALARM.addr (h : Half) (i : Nat) : Nat := viewBase h + 0x300800 + i * 0x10
def ALARM.ALARM_T : Fld := ⟨0x0, 63, 0⟩
def ALARM.ALARM_PER : Fld := ⟨0x8, 31, 0⟩
def ALARM.EN : Fld := ⟨0xC, 0, 0⟩
def ALARM.BASE : Fld := ⟨0xC, 2, 1⟩
def ALARM.LATE : Fld := ⟨0xC, 3, 3⟩
def ALARM.SKIP : Fld := ⟨0xC, 15, 8⟩
def ALARM.rows : List RegRow := [
  ⟨0x0, 4, 1, 0xFFFFFFFF, 0x0, 0x0, 0x0, 0x0, 0x0, 0x0, 0x0, 1⟩,
  ⟨0x4, 4, 1, 0xFFFFFFFF, 0x0, 0x0, 0x0, 0x0, 0x0, 0x0, 0x0, 2⟩,
  ⟨0x8, 4, 1, 0xFFFFFFFF, 0x0, 0x0, 0x0, 0x0, 0x0, 0x0, 0x0, 0⟩,
  ⟨0xC, 4, 1, 0x7, 0x8, 0x0, 0x0, 0x0, 0x0, 0x0, 0x0, 0⟩]

/-! Block PTP (14_time_bases.md). -/
def PTP.addr (h : Half) (i : Nat) : Nat := viewBase h + 0x3508000 + i * 0x40
def PTP.DOMAIN_NUM : Fld := ⟨0x0, 7, 0⟩
def PTP.PROFILE : Fld := ⟨0x0, 9, 8⟩
def PTP.TRANSPORT : Fld := ⟨0x0, 10, 10⟩
def PTP.ONE_STEP : Fld := ⟨0x0, 11, 11⟩
def PTP.GM_CAPABLE : Fld := ⟨0x0, 12, 12⟩
def PTP.PRIORITY1 : Fld := ⟨0x0, 23, 16⟩
def PTP.CLOCK_CLASS : Fld := ⟨0x0, 31, 24⟩
def PTP.LOG_SYNC : Fld := ⟨0x4, 7, 0⟩
def PTP.LOG_ANN : Fld := ⟨0x4, 15, 8⟩
def PTP.LOG_DREQ : Fld := ⟨0x4, 23, 16⟩
def PTP.PS_X14 : Fld := ⟨0x8, 3, 0⟩
def PTP.PS_X15 : Fld := ⟨0x8, 7, 4⟩
def PTP.IS_GM : Fld := ⟨0x8, 8, 8⟩
def PTP.STEPS : Fld := ⟨0x8, 23, 16⟩
def PTP.GM_ID : Fld := ⟨0xC, 63, 0⟩
def PTP.UTC_OFS : Fld := ⟨0x14, 15, 0⟩
def PTP.UTC_VALID : Fld := ⟨0x14, 16, 16⟩
def PTP.LINK_DLY_X14 : Fld := ⟨0x18, 31, 0⟩
def PTP.LINK_DLY_X15 : Fld := ⟨0x1C, 31, 0⟩
def PTP.PTP_DISC : Fld := ⟨0x20, 15, 0⟩
def PTP.rows : List RegRow := [
  ⟨0x0, 4, 1, 0x0, 0x0, 0x0, 0x0, 0x0, 0x0, 0xFFFF1FFF, 0x0, 0⟩,
  ⟨0x4, 4, 1, 0x0, 0x0, 0x0, 0x0, 0x0, 0x0, 0xFFFFFF, 0x0, 0⟩,
  ⟨0x8, 4, 1, 0x0, 0x0, 0x0, 0x0, 0x0, 0x11, 0x0, 0x0, 0⟩,
  ⟨0xC, 4, 1, 0x0, 0x0, 0x0, 0x0, 0x0, 0x0, 0x0, 0x0, 1⟩,
  ⟨0x10, 4, 1, 0x0, 0x0, 0x0, 0x0, 0x0, 0x0, 0x0, 0x0, 2⟩,
  ⟨0x14, 4, 1, 0x0, 0x0, 0x0, 0x0, 0x0, 0x0, 0x0, 0x0, 0⟩,
  ⟨0x18, 4, 1, 0x0, 0x0, 0x0, 0x0, 0x0, 0x0, 0x0, 0x0, 0⟩,
  ⟨0x1C, 4, 1, 0x0, 0x0, 0x0, 0x0, 0x0, 0x0, 0x0, 0x0, 0⟩,
  ⟨0x20, 4, 1, 0x0, 0x0, 0x0, 0x0, 0x0, 0x0, 0x0, 0x0, 0⟩]

/-! Block PEN (15_takeover.md). -/
def PEN.addr : Nat := commonBase + 0x1000
def PEN.CMD_HOLDER : Fld := ⟨0x0, 0, 0⟩
def PEN.CMD_VALID : Fld := ⟨0x0, 1, 1⟩
def PEN.ARB_FAIL : Fld := ⟨0x0, 2, 2⟩
def PEN.RACK_HELD : Fld := ⟨0x0, 3, 3⟩
def PEN.PAIRED : Fld := ⟨0x0, 4, 4⟩
def PEN.REH_STATE : Fld := ⟨0x0, 9, 8⟩
def PEN.SWAP : Fld := ⟨0x4, 0, 0⟩
def PEN.REHEARSE : Fld := ⟨0x4, 1, 1⟩
def PEN.TARGET : Fld := ⟨0x4, 2, 2⟩
def PEN.CLR_CNT : Fld := ⟨0x4, 3, 3⟩
def PEN.REH_TIME : Fld := ⟨0x8, 9, 0⟩
def PEN.REH_STAY : Fld := ⟨0x8, 10, 10⟩
def PEN.CAUSE : Fld := ⟨0xC, 3, 0⟩
def PEN.KIND : Fld := ⟨0xC, 4, 4⟩
def PEN.PERIOD : Fld := ⟨0xC, 31, 8⟩
def PEN.RESULT : Fld := ⟨0x10, 1, 0⟩
def PEN.FAIL : Fld := ⟨0x10, 7, 4⟩
def PEN.TAKEOVERS : Fld := ⟨0x14, 7, 0⟩
def PEN.REFUSED : Fld := ⟨0x14, 15, 8⟩
def PEN.REHEARSALS : Fld := ⟨0x14, 23, 16⟩
def PEN.MIRROR_GAP : Fld := ⟨0x14, 31, 24⟩
def PEN.ELIGIBLE : Fld := ⟨0x20, 0, 0⟩
def PEN.ROLE : Fld := ⟨0x20, 1, 1⟩
def PEN.MIRROR_AGE : Fld := ⟨0x20, 3, 2⟩
def PEN.HR_OK : Fld := ⟨0x20, 4, 4⟩
def PEN.HR_AGE : Fld := ⟨0x20, 15, 8⟩
def PEN.P_STATE : Fld := ⟨0x40, 2, 0⟩
def PEN.LANE0_UP : Fld := ⟨0x40, 3, 3⟩
def PEN.LANE1_UP : Fld := ⟨0x40, 4, 4⟩
def PEN.PEER_ELIGIBLE : Fld := ⟨0x40, 5, 5⟩
def PEN.PEER_NUM : Fld := ⟨0x44, 9, 0⟩
def PEN.PEER_CL : Fld := ⟨0x44, 15, 12⟩
def PEN.PEER_RACK : Fld := ⟨0x44, 16, 16⟩
def PEN.CRC_ERR : Fld := ⟨0x48, 15, 0⟩
def PEN.LANE_FAIL : Fld := ⟨0x48, 31, 16⟩
def PEN.HR : Fld := ⟨0x100, 31, 0⟩
def PEN.rows : List RegRow := [
  ⟨0x0, 4, 1, 0x0, 0x0, 0x0, 0x0, 0x0, 0x0, 0x0, 0x0, 0⟩,
  ⟨0x4, 4, 1, 0x0, 0x0, 0x0, 0x0, 0xF, 0x0, 0x0, 0x0, 0⟩,
  ⟨0x8, 4, 1, 0x7FF, 0x0, 0x0, 0x0, 0x0, 0x0, 0x7FF, 0x0, 0⟩,
  ⟨0xC, 4, 1, 0x0, 0x0, 0x0, 0x0, 0x0, 0x0, 0x0, 0x0, 0⟩,
  ⟨0x10, 4, 1, 0x0, 0x0, 0x0, 0x0, 0x0, 0x0, 0x0, 0x0, 0⟩,
  ⟨0x14, 4, 1, 0x0, 0x0, 0x0, 0x0, 0x0, 0x0, 0x0, 0x0, 0⟩,
  ⟨0x20, 4, 2, 0x0, 0x0, 0x0, 0x0, 0x0, 0xFF0C, 0x0, 0x0, 0⟩,
  ⟨0x40, 4, 1, 0x0, 0x0, 0x0, 0x0, 0x0, 0x0, 0x0, 0x0, 0⟩,
  ⟨0x44, 4, 1, 0x0, 0x0, 0x0, 0x0, 0x0, 0x3FF, 0x0, 0x0, 0⟩,
  ⟨0x48, 4, 1, 0x0, 0x0, 0x0, 0x0, 0x0, 0x0, 0x0, 0x0, 0⟩,
  ⟨0x100, 4, 32, 0x0, 0x0, 0x0, 0x0, 0x0, 0x0, 0x0, 0x0, 0⟩]

/-! Block CAN (16_can_channels.md). -/
def CAN.addr (h : Half) (i : Nat) : Nat := viewBase h + 0x3400000 + i * 0x1000
def CAN.MODE_REQ : Fld := ⟨0x0, 2, 0⟩
def CAN.RX_MODE : Fld := ⟨0x0, 3, 3⟩
def CAN.TX_ORDER : Fld := ⟨0x0, 4, 4⟩
def CAN.FD_EN : Fld := ⟨0x0, 5, 5⟩
def CAN.PEX : Fld := ⟨0x0, 6, 6⟩
def CAN.AUTO_REC : Fld := ⟨0x0, 7, 7⟩
def CAN.TERM : Fld := ⟨0x0, 8, 8⟩
def CAN.SWAP_AUTO : Fld := ⟨0x0, 9, 9⟩
def CAN.SELF_RX : Fld := ⟨0x0, 10, 10⟩
def CAN.STATE : Fld := ⟨0x4, 2, 0⟩
def CAN.EWARN : Fld := ⟨0x4, 3, 3⟩
def CAN.ALONE : Fld := ⟨0x4, 4, 4⟩
def CAN.SWAPPED : Fld := ⟨0x4, 5, 5⟩
def CAN.SWAP_ON : Fld := ⟨0x4, 6, 6⟩
def CAN.STUCK_DOM : Fld := ⟨0x4, 7, 7⟩
def CAN.PARAM_ERR : Fld := ⟨0x4, 8, 8⟩
def CAN.REC_SEQ : Fld := ⟨0x4, 23, 16⟩
def CAN.N_BRP : Fld := ⟨0x8, 5, 0⟩
def CAN.N_TSEG1 : Fld := ⟨0x8, 13, 6⟩
def CAN.N_TSEG2 : Fld := ⟨0x8, 20, 14⟩
def CAN.N_SJW : Fld := ⟨0x8, 27, 21⟩
def CAN.D_BRP : Fld := ⟨0xC, 5, 0⟩
def CAN.D_TSEG1 : Fld := ⟨0xC, 13, 6⟩
def CAN.D_TSEG2 : Fld := ⟨0xC, 20, 14⟩
def CAN.D_SJW : Fld := ⟨0xC, 27, 21⟩
def CAN.TDC_EN : Fld := ⟨0x10, 0, 0⟩
def CAN.SSP_OFS : Fld := ⟨0x10, 14, 8⟩
def CAN.TEC : Fld := ⟨0x14, 8, 0⟩
def CAN.REC : Fld := ⟨0x14, 23, 16⟩
def CAN.RECOVER : Fld := ⟨0x18, 0, 0⟩
def CAN.RELEASE_MB : Fld := ⟨0x18, 1, 1⟩
def CAN.CLR_CNT : Fld := ⟨0x18, 2, 2⟩
def CAN.MB_NUM : Fld := ⟨0x18, 12, 8⟩
def CAN.RX_OK : Fld := ⟨0x1C, 15, 0⟩
def CAN.TX_OK : Fld := ⟨0x1C, 31, 16⟩
def CAN.LOST : Fld := ⟨0x20, 15, 0⟩
def CAN.NO_MATCH : Fld := ⟨0x20, 31, 16⟩
def CAN.CQ_OVF : Fld := ⟨0x24, 15, 0⟩
def CAN.ACK_ERR : Fld := ⟨0x24, 31, 16⟩
def CAN.CQ_WR : Fld := ⟨0x28, 5, 0⟩
def CAN.CQ_OWNED : Fld := ⟨0x28, 14, 8⟩
def CAN.ACK_IDX : Fld := ⟨0x2C, 5, 0⟩
def CAN.FULL_MAP : Fld := ⟨0x30, 31, 0⟩
def CAN.rows : List RegRow := [
  ⟨0x0, 4, 1, 0x7FF, 0x0, 0x0, 0x0, 0x0, 0x0, 0x7FF, 0x0, 0⟩,
  ⟨0x4, 4, 1, 0x0, 0x100, 0x0, 0x0, 0x0, 0x0, 0x0, 0x0, 0⟩,
  ⟨0x8, 4, 1, 0xFFFFFFF, 0x0, 0x0, 0x0, 0x0, 0x0, 0xFFFFFFF, 0x0, 0⟩,
  ⟨0xC, 4, 1, 0xFFFFFFF, 0x0, 0x0, 0x0, 0x0, 0x0, 0xFFFFFFF, 0x0, 0⟩,
  ⟨0x10, 4, 1, 0x7F01, 0x0, 0x0, 0x0, 0x0, 0x0, 0x7F01, 0x0, 0⟩,
  ⟨0x14, 4, 1, 0x0, 0x0, 0x0, 0x0, 0x0, 0x0, 0x0, 0x0, 0⟩,
  ⟨0x18, 4, 1, 0x0, 0x0, 0x0, 0x0, 0x1F07, 0x0, 0x0, 0x0, 0⟩,
  ⟨0x1C, 4, 1, 0x0, 0x0, 0x0, 0x0, 0x0, 0x0, 0x0, 0x0, 0⟩,
  ⟨0x20, 4, 1, 0x0, 0x0, 0x0, 0x0, 0x0, 0x0, 0x0, 0x0, 0⟩,
  ⟨0x24, 4, 1, 0x0, 0x0, 0x0, 0x0, 0x0, 0x0, 0x0, 0x0, 0⟩,
  ⟨0x28, 4, 1, 0x0, 0x0, 0x0, 0x0, 0x0, 0x0, 0x0, 0x0, 0⟩,
  ⟨0x2C, 4, 1, 0x0, 0x0, 0x0, 0x0, 0x3F, 0x0, 0x0, 0x0, 0⟩,
  ⟨0x30, 4, 1, 0x0, 0x0, 0x0, 0x0, 0x0, 0x0, 0x0, 0x0, 0⟩]

/-! Block TXB (16_can_channels.md). -/
def TXB.addr (h : Half) (i : Nat) (j : Nat) : Nat := viewBase h + 0x3400100 + i * 0x1000 + j * 0x80
def TXB.ID : Fld := ⟨0x0, 28, 0⟩
def TXB.IDE : Fld := ⟨0x0, 29, 29⟩
def TXB.RTR : Fld := ⟨0x0, 30, 30⟩
def TXB.DLC : Fld := ⟨0x4, 3, 0⟩
def TXB.FDF : Fld := ⟨0x4, 4, 4⟩
def TXB.BRS : Fld := ⟨0x4, 5, 5⟩
def TXB.DL_EN : Fld := ⟨0x4, 6, 6⟩
def TXB.SINGLE : Fld := ⟨0x4, 7, 7⟩
def TXB.REQ : Fld := ⟨0x4, 8, 8⟩
def TXB.ABORT : Fld := ⟨0x4, 9, 9⟩
def TXB.DEADLINE : Fld := ⟨0x8, 31, 0⟩
def TXB.PENDING : Fld := ⟨0xC, 0, 0⟩
def TXB.DONE : Fld := ⟨0xC, 1, 1⟩
def TXB.DL_ABORT : Fld := ⟨0xC, 2, 2⟩
def TXB.ABORTED : Fld := ⟨0xC, 3, 3⟩
def TXB.SINGLE_FAIL : Fld := ⟨0xC, 4, 4⟩
def TXB.PENDING_AT_BUSOFF : Fld := ⟨0xC, 5, 5⟩
def TXB.TX_STAMP : Fld := ⟨0x10, 31, 0⟩
def TXB.DATA : Fld := ⟨0x40, 31, 0⟩
def TXB.rows : List RegRow := [
  ⟨0x0, 4, 1, 0x7FFFFFFF, 0x0, 0x0, 0x0, 0x0, 0x0, 0x0, 0x0, 0⟩,
  ⟨0x4, 4, 1, 0x1FF, 0x0, 0x0, 0x0, 0x200, 0x0, 0x0, 0x0, 0⟩,
  ⟨0x8, 4, 1, 0xFFFFFFFF, 0x0, 0x0, 0x0, 0x0, 0x0, 0x0, 0x0, 0⟩,
  ⟨0xC, 4, 1, 0x0, 0x3E, 0x0, 0x0, 0x0, 0x0, 0x0, 0x0, 0⟩,
  ⟨0x10, 4, 1, 0x0, 0x0, 0x0, 0x0, 0x0, 0x0, 0x0, 0x0, 0⟩,
  ⟨0x40, 4, 16, 0xFFFFFFFF, 0x0, 0x0, 0x0, 0x0, 0x0, 0x0, 0x0, 0⟩]

/-! Block FLT (16_can_channels.md). -/
def FLT.addr (h : Half) (i : Nat) (j : Nat) : Nat := viewBase h + 0x3400300 + i * 0x1000 + j * 0x8
def FLT.FLT_ID : Fld := ⟨0x0, 28, 0⟩
def FLT.F_IDE : Fld := ⟨0x0, 29, 29⟩
def FLT.EN : Fld := ⟨0x0, 30, 30⟩
def FLT.FLT_MASK : Fld := ⟨0x4, 28, 0⟩
def FLT.KIND : Fld := ⟨0x4, 30, 29⟩
def FLT.rows : List RegRow := [
  ⟨0x0, 4, 1, 0x7FFFFFFF, 0x0, 0x0, 0x0, 0x0, 0x0, 0x7FFFFFFF, 0x0, 0⟩,
  ⟨0x4, 4, 1, 0x7FFFFFFF, 0x0, 0x0, 0x0, 0x0, 0x0, 0x7FFFFFFF, 0x0, 0⟩]

/-! Block MB (16_can_channels.md). -/
def MB.addr (h : Half) (i : Nat) (j : Nat) : Nat := viewBase h + 0x3400400 + i * 0x1000 + j * 0x50
def MB.ID : Fld := ⟨0x0, 28, 0⟩
def MB.IDE : Fld := ⟨0x0, 29, 29⟩
def MB.RTR : Fld := ⟨0x0, 30, 30⟩
def MB.FULL : Fld := ⟨0x0, 31, 31⟩
def MB.STAMP : Fld := ⟨0x4, 31, 0⟩
def MB.DLC : Fld := ⟨0x8, 3, 0⟩
def MB.FDF : Fld := ⟨0x8, 4, 4⟩
def MB.BRS : Fld := ⟨0x8, 5, 5⟩
def MB.ESI : Fld := ⟨0x8, 6, 6⟩
def MB.LEN : Fld := ⟨0x8, 14, 8⟩
def MB.LOCKED : Fld := ⟨0x8, 16, 16⟩
def MB.OVF_HELD : Fld := ⟨0x8, 17, 17⟩
def MB.DATA : Fld := ⟨0xC, 31, 0⟩
def MB.rows : List RegRow := [
  ⟨0x0, 4, 1, 0x0, 0x0, 0x0, 0x0, 0x0, 0x0, 0x0, 0x0, 0⟩,
  ⟨0x4, 4, 1, 0x0, 0x0, 0x0, 0x0, 0x0, 0x0, 0x0, 0x0, 0⟩,
  ⟨0x8, 4, 1, 0x0, 0x0, 0x0, 0x0, 0x0, 0x0, 0x0, 0x0, 0⟩,
  ⟨0xC, 4, 16, 0x0, 0x0, 0x0, 0x0, 0x0, 0x0, 0x0, 0x0, 0⟩]

/-! Block CQE (16_can_channels.md). -/
def CQE.addr (h : Half) (i : Nat) (j : Nat) : Nat := viewBase h + 0x3440000 + i * 0x2000 + j * 0x80
def CQE.ID : Fld := ⟨0x0, 28, 0⟩
def CQE.IDE : Fld := ⟨0x0, 29, 29⟩
def CQE.RTR : Fld := ⟨0x0, 30, 30⟩
def CQE.FULL : Fld := ⟨0x0, 31, 31⟩
def CQE.STAMP : Fld := ⟨0x4, 31, 0⟩
def CQE.DLC : Fld := ⟨0x8, 3, 0⟩
def CQE.FDF : Fld := ⟨0x8, 4, 4⟩
def CQE.BRS : Fld := ⟨0x8, 5, 5⟩
def CQE.ESI : Fld := ⟨0x8, 6, 6⟩
def CQE.LEN : Fld := ⟨0x8, 14, 8⟩
def CQE.DATA : Fld := ⟨0xC, 31, 0⟩
def CQE.rows : List RegRow := [
  ⟨0x0, 4, 1, 0x0, 0x0, 0x0, 0x0, 0x0, 0x0, 0x0, 0x0, 0⟩,
  ⟨0x4, 4, 1, 0x0, 0x0, 0x0, 0x0, 0x0, 0x0, 0x0, 0x0, 0⟩,
  ⟨0x8, 4, 1, 0x0, 0x0, 0x0, 0x0, 0x0, 0x0, 0x0, 0x0, 0⟩,
  ⟨0xC, 4, 16, 0x0, 0x0, 0x0, 0x0, 0x0, 0x0, 0x0, 0x0, 0⟩]

/-! Block ACQ (17_acquisition.md). -/
def ACQ.addr (h : Half) : Nat := viewBase h + 0x3600000
def ACQ.CLR_LOG : Fld := ⟨0x0, 0, 0⟩
def ACQ.CLR_CNT : Fld := ⟨0x0, 1, 1⟩
def ACQ.ARMED : Fld := ⟨0x4, 8, 0⟩
def ACQ.PARAM_ERR : Fld := ⟨0x4, 16, 16⟩
def ACQ.MISSED_TRIG : Fld := ⟨0x8, 15, 0⟩
def ACQ.STREAM_DROP : Fld := ⟨0x8, 31, 16⟩
def ACQ.MISS_TRIG : Fld := ⟨0x40, 63, 0⟩
def ACQ.MISS_REC : Fld := ⟨0x48, 7, 0⟩
def ACQ.MISS_SRC : Fld := ⟨0x48, 11, 8⟩
def ACQ.USER : Fld := ⟨0x1400, 31, 0⟩
def ACQ.rows : List RegRow := [
  ⟨0x0, 4, 1, 0x0, 0x0, 0x0, 0x0, 0x3, 0x0, 0x0, 0x0, 0⟩,
  ⟨0x4, 4, 1, 0x0, 0x10000, 0x0, 0x0, 0x0, 0x0, 0x0, 0x0, 0⟩,
  ⟨0x8, 4, 1, 0x0, 0x0, 0x0, 0x0, 0x0, 0x0, 0x0, 0x0, 0⟩,
  ⟨0x40, 16, 16, 0x0, 0x0, 0x0, 0x0, 0x0, 0x0, 0x0, 0x0, 1⟩,
  ⟨0x44, 16, 16, 0x0, 0x0, 0x0, 0x0, 0x0, 0x0, 0x0, 0x0, 2⟩,
  ⟨0x48, 16, 16, 0x0, 0x0, 0x0, 0x0, 0x0, 0x0, 0x0, 0x0, 0⟩,
  ⟨0x1400, 4, 64, 0xFFFFFFFF, 0x0, 0x0, 0x0, 0x0, 0x0, 0x0, 0x0, 0⟩]

/-! Block STREAM (17_acquisition.md). -/
def STREAM.addr (h : Half) (i : Nat) : Nat := viewBase h + 0x3600200 + i * 0x20
def STREAM.BASE : Fld := ⟨0x0, 63, 0⟩
def STREAM.SIZE : Fld := ⟨0x8, 31, 0⟩
def STREAM.WR_PTR : Fld := ⟨0xC, 31, 0⟩
def STREAM.RD_PTR : Fld := ⟨0x10, 31, 0⟩
def STREAM.rows : List RegRow := [
  ⟨0x0, 4, 1, 0xFFFFFFFF, 0x0, 0x0, 0x0, 0x0, 0x0, 0x0, 0x0, 1⟩,
  ⟨0x4, 4, 1, 0xFFFFFFFF, 0x0, 0x0, 0x0, 0x0, 0x0, 0x0, 0x0, 2⟩,
  ⟨0x8, 4, 1, 0xFFFFFFFF, 0x0, 0x0, 0x0, 0x0, 0x0, 0x0, 0x0, 0⟩,
  ⟨0xC, 4, 1, 0x0, 0x0, 0x0, 0x0, 0x0, 0x0, 0x0, 0x0, 0⟩,
  ⟨0x10, 4, 1, 0xFFFFFFFF, 0x0, 0x0, 0x0, 0x0, 0x0, 0x0, 0x0, 0⟩]

/-! Block ACH (17_acquisition.md). -/
def ACH.addr (h : Half) (i : Nat) : Nat := viewBase h + 0x3601000 + i * 0x8
def ACH.SIGNO : Fld := ⟨0x0, 15, 0⟩
def ACH.INST : Fld := ⟨0x0, 27, 20⟩
def ACH.CLASS : Fld := ⟨0x0, 31, 28⟩
def ACH.RED0 : Fld := ⟨0x4, 2, 0⟩
def ACH.RED1 : Fld := ⟨0x4, 5, 3⟩
def ACH.RED2 : Fld := ⟨0x4, 8, 6⟩
def ACH.RED3 : Fld := ⟨0x4, 11, 9⟩
def ACH.rows : List RegRow := [
  ⟨0x0, 4, 1, 0xFFF0FFFF, 0x0, 0x0, 0x0, 0x0, 0x0, 0xFFF0FFFF, 0x0, 0⟩,
  ⟨0x4, 4, 1, 0xFFF, 0x0, 0x0, 0x0, 0x0, 0x0, 0xFFF, 0x0, 0⟩]

/-! Block REC (17_acquisition.md). -/
def REC.addr (h : Half) (i : Nat) : Nat := viewBase h + 0x3604000 + i * 0x40
def REC.CH_MASK : Fld := ⟨0x0, 63, 0⟩
def REC.BASE : Fld := ⟨0x8, 27, 0⟩
def REC.SIZE : Fld := ⟨0xC, 27, 0⟩
def REC.DECIM : Fld := ⟨0x10, 15, 0⟩
def REC.LATE_ROWS : Fld := ⟨0x10, 31, 16⟩
def REC.PRE : Fld := ⟨0x14, 23, 0⟩
def REC.POST : Fld := ⟨0x18, 31, 0⟩
def REC.SRC : Fld := ⟨0x1C, 2, 0⟩
def REC.SEL : Fld := ⟨0x1C, 10, 3⟩
def REC.EDGE : Fld := ⟨0x1C, 12, 11⟩
def REC.HL_DRIVE : Fld := ⟨0x1C, 13, 13⟩
def REC.HL_LINE : Fld := ⟨0x1C, 16, 14⟩
def REC.LEVEL : Fld := ⟨0x20, 31, 0⟩
def REC.HYST : Fld := ⟨0x24, 31, 0⟩
def REC.REMOTE_ID : Fld := ⟨0x28, 15, 0⟩
def REC.SEND_ID : Fld := ⟨0x28, 31, 16⟩
def REC.STREAM : Fld := ⟨0x2C, 1, 0⟩
def REC.STREAM_NUM : Fld := ⟨0x2C, 4, 2⟩
def REC.NEXT : Fld := ⟨0x2C, 15, 8⟩
def REC.NEXT_EN : Fld := ⟨0x2C, 16, 16⟩
def REC.ARM : Fld := ⟨0x30, 0, 0⟩
def REC.DISARM : Fld := ⟨0x30, 1, 1⟩
def REC.FORCE : Fld := ⟨0x30, 2, 2⟩
def REC.CLEAR : Fld := ⟨0x30, 3, 3⟩
def REC.R_STATE : Fld := ⟨0x34, 2, 0⟩
def REC.ARM_RESULT : Fld := ⟨0x34, 10, 8⟩
def REC.rows : List RegRow := [
  ⟨0x0, 4, 1, 0xFFFFFFFF, 0x0, 0x0, 0x0, 0x0, 0x0, 0xFFFFFFFF, 0x0, 1⟩,
  ⟨0x4, 4, 1, 0xFFFFFFFF, 0x0, 0x0, 0x0, 0x0, 0x0, 0xFFFFFFFF, 0x0, 2⟩,
  ⟨0x8, 4, 1, 0xFFFFFFF, 0x0, 0x0, 0x0, 0x0, 0x0, 0xFFFFFFF, 0x0, 0⟩,
  ⟨0xC, 4, 1, 0xFFFFFFF, 0x0, 0x0, 0x0, 0x0, 0x0, 0xFFFFFFF, 0x0, 0⟩,
  ⟨0x10, 4, 1, 0xFFFFFFFF, 0x0, 0x0, 0x0, 0x0, 0x0, 0xFFFFFFFF, 0x0, 0⟩,
  ⟨0x14, 4, 1, 0xFFFFFF, 0x0, 0x0, 0x0, 0x0, 0x0, 0xFFFFFF, 0x0, 0⟩,
  ⟨0x18, 4, 1, 0xFFFFFFFF, 0x0, 0x0, 0x0, 0x0, 0x0, 0xFFFFFFFF, 0x0, 0⟩,
  ⟨0x1C, 4, 1, 0x1FFFF, 0x0, 0x0, 0x0, 0x0, 0x0, 0x1FFFF, 0x0, 0⟩,
  ⟨0x20, 4, 1, 0xFFFFFFFF, 0x0, 0x0, 0x0, 0x0, 0x0, 0xFFFFFFFF, 0x0, 0⟩,
  ⟨0x24, 4, 1, 0xFFFFFFFF, 0x0, 0x0, 0x0, 0x0, 0x0, 0xFFFFFFFF, 0x0, 0⟩,
  ⟨0x28, 4, 1, 0xFFFFFFFF, 0x0, 0x0, 0x0, 0x0, 0x0, 0xFFFFFFFF, 0x0, 0⟩,
  ⟨0x2C, 4, 1, 0x1FF1F, 0x0, 0x0, 0x0, 0x0, 0x0, 0x1FF1F, 0x0, 0⟩,
  ⟨0x30, 4, 1, 0x0, 0x0, 0x0, 0x0, 0xF, 0x0, 0x0, 0x0, 0⟩,
  ⟨0x34, 4, 1, 0x0, 0x0, 0x0, 0x0, 0x0, 0x0, 0x0, 0x0, 0⟩]

/-! Block BPI (18_rack_and_host.md). -/
def BPI.addr : Nat := commonBase + 0x200000
def BPI.SYSCTL : Fld := ⟨0x0, 0, 0⟩
def BPI.SC_CONFLICT : Fld := ⟨0x0, 1, 1⟩
def BPI.K32_PRESENT : Fld := ⟨0x0, 2, 2⟩
def BPI.PCIE_UP : Fld := ⟨0x0, 3, 3⟩
def BPI.BUS_TIMER : Fld := ⟨0x4, 7, 0⟩
def BPI.SYSRST_ACT : Fld := ⟨0x4, 8, 8⟩
def BPI.SYSRST_OUT : Fld := ⟨0x8, 0, 0⟩
def BPI.CLR_CNT : Fld := ⟨0x8, 1, 1⟩
def BPI.ERR_ADDR : Fld := ⟨0xC, 63, 0⟩
def BPI.KIND : Fld := ⟨0x14, 3, 0⟩
def BPI.MASTER : Fld := ⟨0x14, 7, 4⟩
def BPI.ECORE : Fld := ⟨0x14, 12, 8⟩
def BPI.ERR_IOSP : Fld := ⟨0x14, 13, 13⟩
def BPI.ERR_WRT : Fld := ⟨0x14, 14, 14⟩
def BPI.DOORBELL : Fld := ⟨0x18, 31, 0⟩
def BPI.GRANT_LOST : Fld := ⟨0x1C, 15, 0⟩
def BPI.STAGE_DROP : Fld := ⟨0x1C, 31, 16⟩
def BPI.K16_EN : Fld := ⟨0x20, 0, 0⟩
def BPI.K16_BASE : Fld := ⟨0x20, 1, 1⟩
def BPI.K16_IO : Fld := ⟨0x20, 15, 6⟩
def BPI.PAGE : Fld := ⟨0x40, 27, 0⟩
def BPI.K32_EN : Fld := ⟨0x80, 0, 0⟩
def BPI.K32_BUS : Fld := ⟨0x80, 15, 8⟩
def BPI.K32_MOD_BASE : Fld := ⟨0x84, 39, 24⟩
def BPI.K32_OUT : Fld := ⟨0x8C, 31, 19⟩
def BPI.HANDLE16 : Fld := ⟨0x90, 3, 0⟩
def BPI.HANDLE32 : Fld := ⟨0x90, 15, 8⟩
def BPI.ASSERTED16 : Fld := ⟨0x90, 19, 16⟩
def BPI.ASSERTED32 : Fld := ⟨0x90, 31, 24⟩
def BPI.IACK_SEL : Fld := ⟨0x94, 3, 0⟩
def BPI.IACK_VEC : Fld := ⟨0x94, 15, 8⟩
def BPI.IACK_GA : Fld := ⟨0x94, 20, 16⟩
def BPI.IACK_DONE : Fld := ⟨0x94, 24, 24⟩
def BPI.IACK_ERR : Fld := ⟨0x94, 25, 25⟩
def BPI.K16_IVEC : Fld := ⟨0x98, 31, 0⟩
def BPI.HL_LEVEL : Fld := ⟨0xA0, 7, 0⟩
def BPI.HL_USER : Fld := ⟨0xA0, 15, 8⟩
def BPI.HL_PULSE : Fld := ⟨0xA0, 23, 16⟩
def BPI.VENDOR : Fld := ⟨0xB0, 15, 0⟩
def BPI.WIDTH : Fld := ⟨0xB0, 18, 16⟩
def BPI.SPEED : Fld := ⟨0xB0, 21, 19⟩
def BPI.BME : Fld := ⟨0xB0, 22, 22⟩
def BPI.MSIX_ON : Fld := ⟨0xB0, 23, 23⟩
def BPI.MSIX_EN : Fld := ⟨0x100, 0, 0⟩
def BPI.LVL16 : Fld := ⟨0x100, 3, 1⟩
def BPI.LINE32 : Fld := ⟨0x100, 7, 4⟩
def BPI.VEC_PEND : Fld := ⟨0x200, 63, 0⟩
def BPI.rows0 : List RegRow := [
  ⟨0x0, 4, 1, 0x0, 0x0, 0x0, 0x0, 0x0, 0x0, 0x0, 0x0, 0⟩,
  ⟨0x4, 4, 1, 0x1FF, 0x0, 0x0, 0x0, 0x0, 0x0, 0x1FF, 0x0, 0⟩,
  ⟨0x8, 4, 1, 0x0, 0x0, 0x0, 0x0, 0x3, 0x0, 0x0, 0x0, 0⟩,
  ⟨0xC, 4, 1, 0x0, 0x0, 0x0, 0x0, 0x0, 0x0, 0x0, 0x0, 1⟩,
  ⟨0x10, 4, 1, 0x0, 0x0, 0x0, 0x0, 0x0, 0x0, 0x0, 0x0, 2⟩,
  ⟨0x14, 4, 1, 0x0, 0x0, 0x0, 0x0, 0x0, 0x0, 0x0, 0x0, 0⟩,
  ⟨0x18, 4, 1, 0xFFFFFFFF, 0x0, 0x0, 0x0, 0x0, 0x0, 0x0, 0x0, 0⟩,
  ⟨0x1C, 4, 1, 0x0, 0x0, 0x0, 0x0, 0x0, 0x0, 0x0, 0x0, 0⟩,
  ⟨0x20, 4, 1, 0xFFC3, 0x0, 0x0, 0x0, 0x0, 0x0, 0xFFC3, 0x0, 0⟩,
  ⟨0x40, 4, 16, 0xFFFFFFF, 0x0, 0x0, 0x0, 0x0, 0x0, 0xFFFFFFF, 0x0, 0⟩,
  ⟨0x80, 4, 1, 0xFF01, 0x0, 0x0, 0x0, 0x0, 0x0, 0xFF01, 0x0, 0⟩,
  ⟨0x84, 4, 1, 0xFF000000, 0x0, 0x0, 0x0, 0x0, 0x0, 0xFF000000, 0x0, 1⟩,
  ⟨0x88, 4, 1, 0xFF, 0x0, 0x0, 0x0, 0x0, 0x0, 0xFF, 0x0, 2⟩,
  ⟨0x8C, 4, 1, 0xFFF80000, 0x0, 0x0, 0x0, 0x0, 0x0, 0x0, 0x0, 0⟩,
  ⟨0x90, 4, 1, 0xFF0F, 0x0, 0x0, 0x0, 0x0, 0x0, 0xFF0F, 0x0, 0⟩,
  ⟨0x94, 4, 1, 0xF, 0x0, 0x0, 0x0, 0x0, 0x0, 0x0, 0x0, 0⟩,
  ⟨0x98, 4, 1, 0xFFFFFFFF, 0x0, 0x0, 0x0, 0x0, 0x0, 0xFFFFFFFF, 0x0, 0⟩,
  ⟨0xA0, 4, 1, 0x0, 0x0, 0x0, 0x0, 0xFF0000, 0x0, 0xFF00, 0x0, 0⟩,
  ⟨0xB0, 4, 1, 0x0, 0x0, 0x0, 0x0, 0x0, 0x0, 0x0, 0x0, 0⟩,
  ⟨0x100, 4, 64, 0xFF, 0x0, 0x0, 0x0, 0x0, 0x0, 0xFF, 0x0, 0⟩]
def BPI.rows1 : List RegRow := [
  ⟨0x200, 4, 1, 0x0, 0xFFFFFFFF, 0x0, 0x0, 0x0, 0x0, 0x0, 0x0, 1⟩,
  ⟨0x204, 4, 1, 0x0, 0xFFFFFFFF, 0x0, 0x0, 0x0, 0x0, 0x0, 0x0, 2⟩]
def BPI.rows : List RegRow := BPI.rows0 ++ BPI.rows1

/-! Block MOD (19_start_and_configuration.md). -/
def MOD.addr : Nat := commonBase + 0x0
def MOD.CARD : Fld := ⟨0x0, 15, 0⟩
def MOD.CL_NOW : Fld := ⟨0x0, 19, 16⟩
def MOD.CL_MAX : Fld := ⟨0x0, 23, 20⟩
def MOD.SERIAL : Fld := ⟨0x4, 63, 0⟩
def MOD.STRAPS : Fld := ⟨0xC, 13, 0⟩
def MOD.NUM : Fld := ⟨0x10, 9, 0⟩
def MOD.OVERRIDDEN : Fld := ⟨0x10, 10, 10⟩
def MOD.STEP : Fld := ⟨0x14, 3, 0⟩
def MOD.STATE : Fld := ⟨0x14, 6, 4⟩
def MOD.N_CONFLICT : Fld := ⟨0x14, 15, 8⟩
def MOD.KEY_FALLBACK : Fld := ⟨0x14, 16, 16⟩
def MOD.START_MS : Fld := ⟨0x18, 15, 0⟩
def MOD.RESET : Fld := ⟨0x1C, 0, 0⟩
def MOD.HOST_GO : Fld := ⟨0x1C, 1, 1⟩
def MOD.CONFLICT : Fld := ⟨0x400, 31, 0⟩
def MOD.rows : List RegRow := [
  ⟨0x0, 4, 1, 0x0, 0x0, 0x0, 0x0, 0x0, 0x204A80, 0x0, 0x0, 0⟩,
  ⟨0x4, 4, 1, 0x0, 0x0, 0x0, 0x0, 0x0, 0x0, 0x0, 0x0, 1⟩,
  ⟨0x8, 4, 1, 0x0, 0x0, 0x0, 0x0, 0x0, 0x0, 0x0, 0x0, 2⟩,
  ⟨0xC, 4, 1, 0x0, 0x0, 0x0, 0x0, 0x0, 0x0, 0x0, 0x0, 0⟩,
  ⟨0x10, 4, 1, 0x0, 0x0, 0x0, 0x0, 0x0, 0x0, 0x0, 0x0, 0⟩,
  ⟨0x14, 4, 1, 0x0, 0x0, 0x0, 0x0, 0x0, 0x0, 0x0, 0x0, 0⟩,
  ⟨0x18, 4, 1, 0x0, 0x0, 0x0, 0x0, 0x0, 0x0, 0x0, 0x0, 0⟩,
  ⟨0x1C, 4, 1, 0x0, 0x0, 0x0, 0x0, 0x3, 0x0, 0x0, 0x0, 0⟩,
  ⟨0x400, 4, 256, 0x0, 0x0, 0x0, 0x0, 0x0, 0x0, 0x0, 0x0, 0⟩]

/-! Block KEY (19_start_and_configuration.md). -/
def KEY.addr : Nat := commonBase + 0x2000000
def KEY.PRESENT : Fld := ⟨0x0, 0, 0⟩
def KEY.SAME : Fld := ⟨0x0, 1, 1⟩
def KEY.IN_USE : Fld := ⟨0x0, 2, 2⟩
def KEY.OTHER_READY : Fld := ⟨0x0, 3, 3⟩
def KEY.BUSY : Fld := ⟨0x0, 4, 4⟩
def KEY.WR_REFUSED : Fld := ⟨0x0, 5, 5⟩
def KEY.STAGE_RESULT : Fld := ⟨0x0, 11, 8⟩
def KEY.COMMIT_RESULT : Fld := ⟨0x0, 15, 12⟩
def KEY.STAGE_DONE : Fld := ⟨0x4, 0, 0⟩
def KEY.COMMIT : Fld := ⟨0x4, 1, 1⟩
def KEY.STAGE_CANCEL : Fld := ⟨0x4, 2, 2⟩
def KEY.PAGE : Fld := ⟨0x8, 3, 0⟩
def KEY.KEY_ID : Fld := ⟨0xC, 63, 0⟩
def KEY.GEN : Fld := ⟨0x14, 31, 0⟩
def KEY.rows : List RegRow := [
  ⟨0x0, 4, 1, 0x0, 0x20, 0x0, 0x0, 0x0, 0x0, 0x0, 0x0, 0⟩,
  ⟨0x4, 4, 1, 0x0, 0x0, 0x0, 0x0, 0x7, 0x0, 0x0, 0x0, 0⟩,
  ⟨0x8, 4, 1, 0xF, 0x0, 0x0, 0x0, 0x0, 0x0, 0x0, 0x0, 0⟩,
  ⟨0xC, 4, 1, 0x0, 0x0, 0x0, 0x0, 0x0, 0x0, 0x0, 0x0, 1⟩,
  ⟨0x10, 4, 1, 0x0, 0x0, 0x0, 0x0, 0x0, 0x0, 0x0, 0x0, 2⟩,
  ⟨0x14, 4, 1, 0x0, 0x0, 0x0, 0x0, 0x0, 0x0, 0x0, 0x0, 0⟩]

/-! Block PWR (20_connectors_and_faults.md). -/
def PWR.addr : Nat := commonBase + 0x100000
def PWR.V_X17 : Fld := ⟨0x0, 7, 0⟩
def PWR.V_P3 : Fld := ⟨0x0, 15, 8⟩
def PWR.REV_X17 : Fld := ⟨0x0, 16, 16⟩
def PWR.REV_P3 : Fld := ⟨0x0, 17, 17⟩
def PWR.HOLDUP : Fld := ⟨0x0, 18, 18⟩
def PWR.IO_LOW : Fld := ⟨0x0, 19, 19⟩
def PWR.rows : List RegRow := [
  ⟨0x0, 4, 1, 0x0, 0x0, 0x0, 0x0, 0x0, 0x0, 0x0, 0x0, 0⟩]

/-! Block LIO (20_connectors_and_faults.md). -/
def LIO.addr : Nat := commonBase + 0x300000
def LIO.IN : Fld := ⟨0x0, 47, 0⟩
def LIO.OUT : Fld := ⟨0x8, 15, 0⟩
def LIO.OUT_FAULT : Fld := ⟨0xC, 15, 0⟩
def LIO.OPEN_WIRE : Fld := ⟨0xC, 21, 16⟩
def LIO.TYPE1 : Fld := ⟨0x10, 5, 0⟩
def LIO.OW_EN : Fld := ⟨0x10, 11, 6⟩
def LIO.TRIG_TERM : Fld := ⟨0x10, 13, 12⟩
def LIO.rows : List RegRow := [
  ⟨0x0, 4, 1, 0x0, 0x0, 0x0, 0x0, 0x0, 0x0, 0x0, 0x0, 1⟩,
  ⟨0x4, 4, 1, 0x0, 0x0, 0x0, 0x0, 0x0, 0x0, 0x0, 0x0, 2⟩,
  ⟨0x8, 4, 1, 0xFFFF, 0x0, 0x0, 0x0, 0x0, 0x0, 0x0, 0x0, 0⟩,
  ⟨0xC, 4, 1, 0x0, 0x3FFFFF, 0x0, 0x0, 0x0, 0x0, 0x0, 0x0, 0⟩,
  ⟨0x10, 4, 1, 0x3FFF, 0x0, 0x0, 0x0, 0x0, 0x0, 0x3FFF, 0x0, 0⟩]

/-- Every register block of the spec. -/
def blockRows : List BlockRow := [
  ⟨true, 0x0, 0x0, 1, 0x0, 1, SYS.rows⟩,
  ⟨true, 0x3700000, 0x0, 1, 0x0, 1, HPWR.rows⟩,
  ⟨true, 0x400000, 0x100, 128, 0x0, 1, PRF.rows⟩,
  ⟨true, 0x408000, 0x4, 4, 0x0, 1, PRFMAP.rows⟩,
  ⟨true, 0x420000, 0x2000, 16, 0x0, 1, ARM.rows⟩,
  ⟨true, 0x440000, 0x0, 1, 0x0, 1, HOIST.rows⟩,
  ⟨true, 0x440020, 0x8, 8, 0x0, 1, HLIST.rows⟩,
  ⟨true, 0x800000, 0x100, 128, 0x0, 1, CE.rows⟩,
  ⟨true, 0x808000, 0x4, 4, 0x0, 1, CEMAP.rows⟩,
  ⟨true, 0x808010, 0x0, 1, 0x0, 1, CELM.rows⟩,
  ⟨true, 0xC00000, 0x600, 128, 0x60, 16, GT.rows⟩,
  ⟨true, 0x1000000, 0x0, 1, 0x0, 1, SOLV.rows⟩,
  ⟨true, 0x1001000, 0x100, 18, 0x0, 1, CH.rows⟩,
  ⟨true, 0x460000, 0x0, 1, 0x0, 1, GOV.rows⟩,
  ⟨true, 0x460040, 0x10, 16, 0x0, 1, GOVARM.rows⟩,
  ⟨true, 0x460200, 0x8, 8, 0x0, 1, GOVPEER.rows⟩,
  ⟨false, 0x1000000, 0x0, 1, 0x0, 1, ISL.rows⟩,
  ⟨false, 0x1001000, 0x0, 1, 0x0, 1, SSM.rows⟩,
  ⟨false, 0x1001100, 0x10, 16, 0x0, 1, SSMARM.rows⟩,
  ⟨false, 0x1001200, 0x8, 8, 0x0, 1, SSMSENS.rows⟩,
  ⟨false, 0x1002000, 0x0, 1, 0x0, 1, SMSG.rows⟩,
  ⟨false, 0x1002100, 0x10, 64, 0x0, 1, CONN.rows⟩,
  ⟨true, 0x3000000, 0x10000, 8, 0x0, 1, RING.rows⟩,
  ⟨true, 0x3000100, 0x10000, 8, 0x10, 24, NODE.rows⟩] ++ [
  ⟨true, 0x2030000, 0x40000, 24, 0x0, 1, CORE.rows⟩,
  ⟨true, 0x200000, 0x0, 1, 0x0, 1, SCHED.rows⟩,
  ⟨true, 0x210000, 0x20, 4096, 0x0, 1, DESC.rows⟩,
  ⟨true, 0x240000, 0x10, 16384, 0x0, 1, TRC.rows⟩,
  ⟨true, 0x100000, 0x0, 1, 0x0, 1, EVT.rows⟩,
  ⟨true, 0x101000, 0x8, 256, 0x0, 1, EVTST.rows⟩,
  ⟨true, 0x300000, 0x100, 4, 0x0, 1, TB.rows⟩,
  ⟨true, 0x300000, 0x0, 1, 0x0, 1, TB0X.rows⟩,
  ⟨true, 0x300300, 0x0, 1, 0x0, 1, TB3X.rows⟩,
  ⟨true, 0x300800, 0x10, 16, 0x0, 1, ALARM.rows⟩,
  ⟨true, 0x3508000, 0x40, 2, 0x0, 1, PTP.rows⟩,
  ⟨false, 0x1000, 0x0, 1, 0x0, 1, PEN.rows⟩,
  ⟨true, 0x3400000, 0x1000, 4, 0x0, 1, CAN.rows⟩,
  ⟨true, 0x3400100, 0x1000, 4, 0x80, 3, TXB.rows⟩,
  ⟨true, 0x3400300, 0x1000, 4, 0x8, 32, FLT.rows⟩,
  ⟨true, 0x3400400, 0x1000, 4, 0x50, 32, MB.rows⟩,
  ⟨true, 0x3440000, 0x2000, 4, 0x80, 64, CQE.rows⟩,
  ⟨true, 0x3600000, 0x0, 1, 0x0, 1, ACQ.rows⟩,
  ⟨true, 0x3600200, 0x20, 8, 0x0, 1, STREAM.rows⟩,
  ⟨true, 0x3601000, 0x8, 64, 0x0, 1, ACH.rows⟩,
  ⟨true, 0x3604000, 0x40, 256, 0x0, 1, REC.rows⟩,
  ⟨false, 0x200000, 0x0, 1, 0x0, 1, BPI.rows⟩,
  ⟨false, 0x0, 0x0, 1, 0x0, 1, MOD.rows⟩,
  ⟨false, 0x2000000, 0x0, 1, 0x0, 1, KEY.rows⟩,
  ⟨false, 0x100000, 0x0, 1, 0x0, 1, PWR.rows⟩,
  ⟨false, 0x300000, 0x0, 1, 0x0, 1, LIO.rows⟩]

/-- The row that a byte offset inside one block names, if any. -/
def findRow (off : Nat) : List RegRow → Option RegRow
  | [] => none
  | r :: rest =>
    if r.off ≤ off ∧ (off - r.off) % r.stride = 0 ∧ (off - r.off) / r.stride < r.count then some r else findRow off rest

/-- The offset inside one copy of a block of an offset d from the block's base, if d is inside the block's copies. -/
def BlockRow.inner (b : BlockRow) (d : Nat) : Option Nat :=
  if b.count ≤ 1 ∧ b.count2 ≤ 1 then some d
  else
    let i := if b.stride = 0 then 0 else d / b.stride
    let r := if b.stride = 0 then d else d % b.stride
    if b.count ≤ i then none
    else if b.count2 ≤ 1 then some r
    else if b.count2 ≤ r / b.stride2 then none
    else some (r % b.stride2)

/-- The row of the register at offset off of a half view (isHalf) or of the common view. -/
def lookupRow (isHalf : Bool) (off : Nat) : List BlockRow → Option RegRow
  | [] => none
  | b :: rest =>
    if b.half = isHalf ∧ b.base ≤ off then
      match b.inner (off - b.base) with
      | some d =>
        match findRow d b.rows with
        | some r => some r
        | none => lookupRow isHalf off rest
      | none => lookupRow isHalf off rest
    else lookupRow isHalf off rest

/-- The register row at a 40-bit module address inside a half view or the common view (the active view is resolved to
a half before this is asked, R25). -/
def regRowAt (addr : Nat) : Option RegRow :=
  if addr < 0x1010000000 then none
  else if addr < 0x1020000000 then lookupRow true (addr - 0x1010000000) blockRows
  else if addr < 0x1030000000 then lookupRow true (addr - 0x1020000000) blockRows
  else if addr < 0x1040000000 then lookupRow false (addr - 0x1030000000) blockRows
  else none

end Sys2Proof.Machine
end

