-- ==== Sys2Proof/Machine/StateAcq.lean ====
section
/-! DEFINITION. State of the acquisition engine of one half beside its registers, and of the halyard lines (R394 to R405,
R425). -/
namespace Sys2Proof.Machine

/-- A record that is armed, collects, or waits to be re-armed: its number; the period a it was armed at; the instant its
disarm acts; triggers stamped in the future (stamp, source, forced); its trigger; the trigger row and the oldest row then
held; rows complete; the channel values of the running row's periods; the value before the present one of its threshold
channel with the directions armed; EXTRA_TRIG; STREAM_GAP; POST_OVERRUN; the header sent to the stream; the end of the
last row of the record that named it NEXT. -/
structure AcqRec where
  num : Nat
  a : Nat
  disarm : Option Nat
  held : List (Nat × Nat × Bool)
  trig : Option (Nat × Nat × Bool)
  row : Nat
  oldest : Nat
  done : Nat
  vals : List (List Nat)
  prev : Option Nat
  upArmed : Bool
  downArmed : Bool
  extra : Nat
  gap : Bool
  exceeds : Bool
  hdr : Bool
  after : Option Nat
  deriving DecidableEq, Repr

/-- The engine: its records; the remote triggers taken (module and SEQ, newest first); the SEQ of its own messages and the
last of them; a missed trigger whose event is to be raised; writing stopped by hold-up; the safety copy of each
arm at T_n (OUTCOME, CEIL, V_R, D_MIN, M_BAND). -/
structure AcqUnit where
  recs : List AcqRec
  seen : List (Nat × Nat)
  seq : Nat
  sent : Option (List Byte)
  miss : Bool
  stopped : Bool
  safe : List (List Nat)
  deriving DecidableEq, Repr

def AcqUnit.reset : AcqUnit := { recs := [], seen := [], seq := 0, sent := none, miss := false, stopped := false, safe := [] }

end Sys2Proof.Machine
end

