-- ==== Sys2Proof/Machine/StateBoot.lean ====
section
/-! DEFINITION. State of the start sequence, the configuration key and the supply (R431 to R447, R456 to R462). -/
namespace Sys2Proof.Machine

/-- What the supply monitor finds (R456, R462): the inputs in 0.25 V units, whether each is reversed, and the I/O supply low. -/
structure Supply where
  vX17 : Nat
  vP3 : Nat
  revX17 : Bool
  revP3 : Bool
  ioLow : Bool
  deriving DecidableEq, Repr

def Supply.reset : Supply := { vX17 := 0, vP3 := 0, revX17 := false, revP3 := false, ioLow := false }

/-- The identity of the key in X20; the TB0 instant at which the present start began; whether each half passed its
self-test of step 3; the straps whose change has been logged; a staging check that runs; the image a commit is writing;
the last step of hold-up taken (0 none, 1 to 4 the rows of R458 from brown-out to the safe outputs); the module switched off; the local outputs latched off (R462); the supply, which no reset of the module changes. -/
structure BootUnit where
  key : Option Nat
  startAt : Nat
  passA : Bool
  passB : Bool
  strapLogged : Nat
  checking : Bool
  commit : Option (List (Nat × Byte))
  holdup : Nat
  off : Bool
  outLatched : Nat
  supply : Supply
  deriving DecidableEq, Repr

def BootUnit.reset : BootUnit :=
  { key := none, startAt := 0, passA := false, passB := false, strapLogged := 0, checking := false, commit := none,
    holdup := 0, off := false, outLatched := 0, supply := .reset }

end Sys2Proof.Machine
end

