-- ==== Sys2Proof/Machine/StateBus.lean ====
section
/-! DEFINITION. State of the backplane interface and of the service port beside their registers (R406 to R429). -/
namespace Sys2Proof.Machine

/-- The buffers of one master (R409): the snapshot's quantity (address and bytes) with its value, and the quantity that has
staged parts, each by its offset in bytes, its bytes and its value. -/
structure PortBuf where
  snap : Option (Nat × Nat × Nat)
  stage : Option (Nat × List (Nat × Nat × Nat))
  deriving DecidableEq, Repr

def PortBuf.reset : PortBuf := { snap := none, stage := none }

/-- An access to an outbound window that waits for the bus (R416): its master, the module address, the value of a
write, and the TB0 instant of its BREQ. -/
structure OutAcc where
  m : Master
  addr : Nat
  write : Option Word
  at_ : Nat
  deriving DecidableEq, Repr

/-- The service request that runs or was answered last (R429): its source, SEQ, and its reply: STATUS and the words read. -/
structure SvcRun where
  src : Nat
  seq : Nat
  op : Nat
  status : Nat
  data : List Word
  deriving DecidableEq, Repr

/-- The backplane interface: the buffers per master; the accesses that wait for the bus; the TB0 instant of a grant that no
card has taken yet; the bus cycles of the last outbound access (whether K32, the address, which for K16 is the word and
2^16 more in I/O space, and the value of a write); a K32 block with its start and its beats; whether the module asserted
BERR or XBERR in the last cycle, and whether it left the last slave cycle unanswered; the level (1 to 4) or line (8 to 15)
last acknowledged with its TB0 instant; the TB0 end of a SYSRST drive; the last service request executed or running, the
words it still has to run, whether it runs, and the last reply sent; whether BGOUT or an acknowledge was passed on. -/
structure BusUnit where
  ports : List PortBuf
  outs : List OutAcc
  grant : Option Nat
  cycles : List (Bool × Nat × Option Nat)
  block : Option (Nat × Nat)
  berr : Bool
  silent : Bool
  acked : Option (Nat × Nat)
  sysrst : Option Nat
  svc : Option SvcRun
  svcTodo : List (Nat × Option Word)
  svcBusy : Bool
  svcReply : Option SvcRun
  passed : Bool
  deriving DecidableEq, Repr

def BusUnit.reset : BusUnit :=
  { ports := List.replicate 52 .reset, outs := [], grant := none, cycles := [], block := none, berr := false, silent := false,
    acked := none, sysrst := none, svc := none, svcTodo := [], svcBusy := false, svcReply := none, passed := false }

end Sys2Proof.Machine
end

