-- ==== Sys2Proof/Machine/StateCan.lean ====
section
/-! DEFINITION. State of one CAN channel of a half beside its registers (R377 to R393). -/
namespace Sys2Proof.Machine

/-- A channel: per transmit buffer the TB0 instant of its request and an abort that waits for the end of an attempt
(R383); the overflow slot of each mailbox with its stamp (R387); the queue entries software owns, one bit each (R388); the run of
acknowledgement errors (R391). -/
structure CanCh where
  reqAt : List Nat
  abortReq : List Bool
  ovf : List (Option CanFrame)
  ovfAt : List Nat
  owned : Nat
  ackRun : Nat
  deriving DecidableEq, Repr

def CanCh.reset : CanCh :=
  { reqAt := [0, 0, 0], abortReq := [false, false, false], ovf := List.replicate 32 none, ovfAt := List.replicate 32 0, owned := 0, ackRun := 0 }

end Sys2Proof.Machine
end

