-- ==== Sys2Proof/Machine/StateCfg.lean ====
section
/-! DEFINITION. What the configuration image says that no register shows (R437: the body layouts are Deulate's own). -/
namespace Sys2Proof.Machine

/-- A node of a ring as the schedule expects it (R271): its address, identity, level, axis numbers, and whether it carries
safe PDUs. -/
structure NodeCfg where
  addr : Nat
  devId : Nat
  level : Nat
  axes : List Nat
  safe : Bool
  deriving DecidableEq, Repr, Inhabited

/-- A planning capsule (R171): its arm and number, its link, whether it is sent to neighbour cells, and P0, P1 and RADIUS as
binary32. -/
structure GovCapsule where
  arm : Nat
  num : Nat
  link : Nat
  boundary : Bool
  words : List Nat
  deriving DecidableEq, Repr, Inhabited

/-- A shared zone (R186): its number, and its minimum and maximum corner as binary32. -/
structure ZoneBox where
  num : Nat
  words : List Nat
  deriving DecidableEq, Repr, Inhabited

/-- What the configuration image says beside the registers: the expected nodes of each ring, the descriptors of the
required work per arm and of the governor; the planning capsules, the arm pairs that have distance rows, the declared
neighbour cells, XMARGIN and the sparse channels of the governor and of background estimation (R142, R171 to R174, R184); the cell group with the pose of the cell in
it, its zones and their CRC (R178, R186); the acquisition records the image claims, each with its
ON_ACTIVE (R398, R405), and whether it switches service access off (R429). -/
structure ModuleCfg where
  rings : List (List NodeCfg)
  ikItems : List Nat
  dynItems : List Nat
  obsItems : List Nat
  govItem : Nat
  govCaps : List GovCapsule
  govPairs : List (Nat × Nat)
  govPeers : List Nat
  govMargin : Nat
  govChan : Nat
  bgChan : Nat
  govGroup : Option Nat
  govPose : List Nat
  govZones : List ZoneBox
  govZoneCrc : Nat
  acqRecs : List (Nat × Bool)
  svcOff : Bool
  deriving DecidableEq, Repr, Inhabited

/-- No configuration. -/
def ModuleCfg.none : ModuleCfg :=
  { rings := [], ikItems := [], dynItems := [], obsItems := [], govItem := 4096, govCaps := [], govPairs := [],
    govPeers := [], govMargin := 0, govChan := 16, bgChan := 17, govGroup := .none, govPose := [], govZones := [], govZoneCrc := 0, acqRecs := [], svcOff := false }

/-- The configuration an image's bytes describe: uninterpreted, since R437 leaves the section bodies to Deulate. -/
opaque moduleCfgOf : List (Nat × Byte) → ModuleCfg

end Sys2Proof.Machine
end

