-- ==== Sys2Proof/Machine/StateCore.lean ====
section
/-! DEFINITION. State of the cores, of the work scheduler and of the time unit of one half, beside their registers. -/
namespace Sys2Proof.Machine

/-- Where a result of a core lands (R301): a physical data register, an accumulator or another register of R297. -/
inductive LandTgt where
  | nowhere
  | d (phys : Nat)
  | acc (n : Nat)
  | p (n : Nat)
  | o (n : Nat)
  | l (n : Nat)
  | lc | ls | le | rb | stat | istat | ira | conds | ie | clrf
  | loopState
  deriving DecidableEq, Repr

/-- A result in flight: slots left until it is visible, its place, its value (for an accumulator with its AOV bit),
and the sticky bits of STAT that rise with it. seq counts the writes to the accumulators in issue order. -/
structure Landing where
  left : Nat
  tgt : LandTgt
  val : Int
  aov : Bool
  sticky : Nat
  deriving DecidableEq, Repr

/-- What a pending control transfer does after its two delay slots (R301). -/
inductive Xfer where
  | jump (target : Nat)
  | endItem
  | rti
  deriving DecidableEq, Repr

/-- An outstanding COPY (R317). -/
structure CopyOp where
  addr : Nat
  idx : Nat
  count : Nat
  mem : Nat
  outbound : Bool
  at_ : Nat
  deriving DecidableEq, Repr

/-- A far access that stalls its core (R316): the address, the word of a store, the physical register of a load, and the
index of the instruction. -/
structure FarAcc where
  addr : Nat
  store : Option Word
  dest : Nat
  at_ : Nat
  deriving DecidableEq, Repr

/-- Why a core does not issue although it has an item (R304). -/
inductive Stall where
  | none
  | waitc (k : Nat)
  | copy (c : CopyOp)
  | args
  | ending (fault : Option Nat)
  deriving DecidableEq, Repr

/-- One control core (R293 to R323). Data registers are held by physical number. acc holds the visible accumulators
and accNow the accumulators in issue order (R301), each with its AOV bit. -/
structure CoreUnit where
  d : List Word
  acc : List Int
  aov : List Bool
  accNow : List Int
  aovNow : List Bool
  p : List Nat
  o : List Nat
  l : List Nat
  lc : Nat
  ls : Nat
  le : Nat
  rb : Nat
  stat : Nat
  istat : Nat
  ira : Nat
  rptv : Bool
  iarg : Nat
  iargh : Nat
  pc : Nat
  rot : Bool
  rptTag : Nat
  rptBody : List (BitVec 64)
  inFlight : List Landing
  xfers : List (Nat × Xfer)
  stall : Stall
  far : Option FarAcc
  copies : List CopyOp
  unseen : List CopyOp
  item : Option Nat
  area : Bool
  slots : Nat
  urgPend : Option Nat
  urgItem : Option Nat
  urgOnIdle : Bool
  urgSlots : Nat
  halted : Bool
  nextItem : Option Nat
  nextReady : Bool
  deriving DecidableEq, Repr

/-- A core at reset. -/
def CoreUnit.reset : CoreUnit :=
  { d := List.replicate 64 0, acc := List.replicate 4 0, aov := List.replicate 4 false,
    accNow := List.replicate 4 0, aovNow := List.replicate 4 false,
    p := List.replicate 12 0, o := List.replicate 8 0, l := List.replicate 8 0,
    lc := 0, ls := 0, le := 0, rb := 0, stat := 0, istat := 0, ira := 0, rptv := false, iarg := 0, iargh := 0,
    pc := 0, rot := false, rptTag := 0, rptBody := [], inFlight := [], xfers := [], stall := .none, far := none, copies := [],
    unseen := [], item := none, area := false, slots := 0, urgPend := none, urgItem := none, urgOnIdle := false,
    urgSlots := 0, halted := false, nextItem := none, nextReady := false }

/-- D_STATE of a descriptor that is not idle (R324, R327). -/
inductive ItemSt where
  | ready
  | nextSlot (core : Nat)
  | running (core : Nat)
  | reposted (core : Nat)
  deriving DecidableEq, Repr

/-- A released item: its number, state, release instant and deadline on servo time (ns), the order of its release, a
mark for one that returned to the head of its list (R332), and the stamp and cause of a post taken while it runs. -/
structure LiveItem where
  num : Nat
  st : ItemSt
  release : Nat
  deadline : Option Nat
  seq : Nat
  front : Bool
  startedLate : Bool
  repostAt : Nat
  repostDeadline : Option Nat
  deriving DecidableEq, Repr

/-- The scheduler of one half: released items, the urgent list in order of release, the deficit counters of groups 1
to 15 and the pointer (R329), the entries left until the trace freezes (R334), and what arms event 150 (R333). -/
structure SchedUnit where
  live : List LiveItem
  urgent : List Nat
  deficits : List Nat
  pointer : Nat
  seq : Nat
  freezeLeft : Option Nat
  lateArmed : Bool
  lateNow : Bool
  deriving DecidableEq, Repr

/-- The scheduler at reset. -/
def SchedUnit.reset : SchedUnit :=
  { live := [], urgent := [], deficits := List.replicate 15 0, pointer := 1, seq := 0, freezeLeft := none,
    lateArmed := true, lateNow := false }

/-- One of TB1 to TB3 (R339, R341, R343): its value in units of 2^-48 ns, the integral I_k in units of
1 / (10^18 * 2^200), the rate in force in units of 2^-48, the TB0 instant of the last sample, the runs of samples
within and beyond the lock threshold, the grandmaster, the staging words (R466) and the latched stamp (R346). -/
structure TimeBase where
  val : Nat
  integ : Int
  rate : Int
  lastSample : Option Nat
  goodRun : Nat
  badRun : Nat
  gm : Nat
  stSec : Nat
  stNs : Nat
  stFrac : Nat
  stamp : Nat
  rateLow : Nat
  ofsLow : Nat
  deriving DecidableEq, Repr

/-- A time base at reset. -/
def TimeBase.reset : TimeBase :=
  { val := 0, integ := 0, rate := 0, lastSample := none, goodRun := 0, badRun := 0, gm := 0, stSec := 0, stNs := 0,
    stFrac := 0, stamp := 0, rateLow := 0, ofsLow := 0 }

/-- The time unit of one half beside TB0: the three steered bases, the number of the last sync instant marked, the
servo time of that instant, the TB0 instant since which TB1 has been locked, the TB0 end of the start wait (R354),
the rate TB3 holds from its source (R350), and the input TB3 is to take at the next sync instant (R351). -/
structure TimeUnit where
  tb1 : TimeBase
  tb2 : TimeBase
  tb3 : TimeBase
  marked : Option Nat
  tn : Nat
  tb1LockedAt : Option Nat
  startWait : Option Nat
  srcRate : Int
  wantState : Option Nat
  deriving DecidableEq, Repr

/-- The time unit at reset. -/
def TimeUnit.reset : TimeUnit :=
  { tb1 := .reset, tb2 := .reset, tb3 := .reset, marked := none, tn := 0, tb1LockedAt := none, startWait := none,
    srcRate := 0, wantState := none }

end Sys2Proof.Machine
end

