-- ==== Sys2Proof/Machine/Fix.lean ====
section
/-! DEFINITION. Real numbers as the cores' items see them: integers in units of 2^-160, with the functions of kinematics, vectors,
rotations, quaternions and small matrices. The results of an item are rounded to binary32 once, where they leave it; the spec
does not state the items' rounding. DESIGN CHOICE (log entry 123). -/
namespace Sys2Proof.Machine

/-! Numbers. -/

/-- 2 pi as a ratio of integers, to 200 binary digits. -/
def twoPiNum : Int := 10096689509235987743946820282484873672429286842977325943070736
def twoPiDen : Int := 2 ^ 200

/-- A binary32 pattern as a ratio over 2^149: an infinity as a number above every finite one, a pattern that is no number as
0. -/
def f32Ratio (w : Nat) : Int :=
  match f32Exact w with
  | none => if w % 2 ^ 31 = 0x7F800000 then (if bitOf w 31 then -2 ^ 449 else 2 ^ 449) else 0
  | some (m, e) => m * 2 ^ (e + 149).toNat

/-- The denominator of f32Ratio. -/
def f32Den : Int := 2 ^ 149

/-- num / den (den > 0) as a binary32 pattern, rounded once to nearest, ties to even. -/
def ratioF32 (num den : Int) : Nat :=
  if num = 0 then 0 else (roundRat (decide (num < 0)) num.natAbs den.natAbs 0).pat

/-- A real number in units of 2^-160. DESIGN CHOICE (log entry 123). -/
abbrev Fx := Int

def fxOne : Fx := 2 ^ 160
def fxMul (a b : Fx) : Fx := a * b / fxOne
def fxDiv (a b : Fx) : Fx := if b = 0 then 0 else a * fxOne / b
def fxSq (a : Fx) : Fx := fxMul a a
def fxSqrt (a : Fx) : Fx := (isqrt (a.toNat * 2 ^ 160) : Int)
def fxPi : Fx := twoPiNum / 2 ^ 41

/-- The number of a binary32 pattern, and the nearest pattern of a number. -/
def fxOf (w : Nat) : Fx := f32Ratio w * 2 ^ 11
def fxF32 (x : Fx) : Nat := ratioF32 x fxOne

/-- A pattern is a finite number. -/
def f32Finite (w : Nat) : Bool := decide (w / 2 ^ 23 % 256 ≠ 255)

/-- Magnitude. -/
def fxAbs (x : Fx) : Fx := x.natAbs

/-- The sum of n terms of a power series from its first term, the next term from the term and its index. -/
def series (next : Nat → Fx → Fx) : Nat → Nat → Fx → Fx → Fx
  | 0, _, _, acc => acc
  | n + 1, i, t, acc => series next n (i + 1) (next i t) (acc + t)

/-- An angle brought to -pi ≤ x < pi. -/
def fxWrap (x : Fx) : Fx := x - 2 * fxPi * ((x + fxPi) / (2 * fxPi))

/-- Cosine and sine. -/
def fxCosSin (x : Fx) : Fx × Fx :=
  let x := fxWrap x
  let q := fxSq x
  (series (fun i t => -(fxMul t q) / ((2 * i + 1) * (2 * i + 2) : Nat)) 40 0 fxOne 0,
   series (fun i t => -(fxMul t q) / ((2 * i + 2) * (2 * i + 3) : Nat)) 40 0 x 0)

def fxCos (x : Fx) : Fx := (fxCosSin x).1
def fxSin (x : Fx) : Fx := (fxCosSin x).2

/-- Half the angle of a tangent. -/
def halfTan (t : Fx) : Fx := fxDiv t (fxOne + fxSqrt (fxOne + fxSq t))

/-- The angle of a tangent of at most 1 in magnitude. -/
def fxAtan (t : Fx) : Fx :=
  let u := halfTan (halfTan (halfTan t))
  let q := fxSq u
  8 * ((List.range 40).foldl (fun (a : Fx × Fx) i => (a.1 + a.2 / ((2 * i + 1 : Nat) : Int), -(fxMul a.2 q))) (0, u)).1

/-- The angle of the point (x, y); 0 at the origin. -/
def fxAtan2 (y x : Fx) : Fx :=
  if x = 0 ∧ y = 0 then 0
  else if fxAbs y ≤ fxAbs x then
    let a := fxAtan (fxDiv y x)
    if 0 ≤ x then a else if 0 ≤ y then a + fxPi else a - fxPi
  else
    let a := fxAtan (fxDiv x y)
    if 0 ≤ y then fxPi / 2 - a else -(fxPi / 2) - a

/-- The angle from 0 to pi of a cosine held to -1 to 1. -/
def fxAcos (c : Fx) : Fx :=
  let c := if c < -fxOne then -fxOne else if fxOne < c then fxOne else c
  fxAtan2 (fxSqrt (fxOne - fxSq c)) c

/-- e to the power of a number, by 64 halvings of the argument's size. -/
def fxExp (x : Fx) : Fx :=
  let e := series (fun i t => fxMul t (x / 64) / ((i + 1 : Nat) : Int)) 60 0 fxOne 0
  (List.range 6).foldl (fun e _ => fxSq e) e

/-- Hyperbolic tangent. -/
def fxTanh (x : Fx) : Fx :=
  if 32 * fxOne < fxAbs x then sgn x * fxOne
  else
    let e := fxExp (2 * x)
    fxDiv (e - fxOne) (e + fxOne)

/-! Vectors. -/

/-- A vector of three components. -/
structure V3 where
  x : Fx
  y : Fx
  z : Fx
  deriving DecidableEq, Repr, Inhabited

def V3.zero : V3 := ⟨0, 0, 0⟩
def V3.add (a b : V3) : V3 := ⟨a.x + b.x, a.y + b.y, a.z + b.z⟩
def V3.sub (a b : V3) : V3 := ⟨a.x - b.x, a.y - b.y, a.z - b.z⟩
def V3.smul (k : Fx) (a : V3) : V3 := ⟨fxMul k a.x, fxMul k a.y, fxMul k a.z⟩
def V3.dot (a b : V3) : Fx := (a.x * b.x + a.y * b.y + a.z * b.z) / fxOne
def V3.cross (a b : V3) : V3 :=
  ⟨(a.y * b.z - a.z * b.y) / fxOne, (a.z * b.x - a.x * b.z) / fxOne, (a.x * b.y - a.y * b.x) / fxOne⟩
def V3.sq (a : V3) : Fx := a.dot a
def V3.len (a : V3) : Fx := fxSqrt a.sq
def V3.unit (a : V3) : V3 := let n := a.len; ⟨fxDiv a.x n, fxDiv a.y n, fxDiv a.z n⟩
def V3.list (a : V3) : List Fx := [a.x, a.y, a.z]
def V3.ofList (l : List Fx) : V3 := ⟨l.getD 0 0, l.getD 1 0, l.getD 2 0⟩

/-- A linear map of vectors by its rows. -/
structure Rot where
  a : V3
  b : V3
  c : V3
  deriving DecidableEq, Repr, Inhabited

def Rot.id : Rot := ⟨⟨fxOne, 0, 0⟩, ⟨0, fxOne, 0⟩, ⟨0, 0, fxOne⟩⟩
def Rot.app (r : Rot) (v : V3) : V3 := ⟨r.a.dot v, r.b.dot v, r.c.dot v⟩
def Rot.tr (r : Rot) : Rot := ⟨⟨r.a.x, r.b.x, r.c.x⟩, ⟨r.a.y, r.b.y, r.c.y⟩, ⟨r.a.z, r.b.z, r.c.z⟩⟩
def Rot.mul (r s : Rot) : Rot := let t := s.tr; ⟨t.app r.a, t.app r.b, t.app r.c⟩

/-- Rotations about x and about z. -/
def rotX (q : Fx) : Rot := let k := fxCosSin q; ⟨⟨fxOne, 0, 0⟩, ⟨0, k.1, -k.2⟩, ⟨0, k.2, k.1⟩⟩
def rotZ (q : Fx) : Rot := let k := fxCosSin q; ⟨⟨k.1, -k.2, 0⟩, ⟨k.2, k.1, 0⟩, ⟨0, 0, fxOne⟩⟩

/-! Quaternions (Hamilton, w first). -/

structure Quat4 where
  w : Fx
  v : V3
  deriving DecidableEq, Repr, Inhabited

def Quat4.one : Quat4 := ⟨fxOne, .zero⟩
def Quat4.mul (p q : Quat4) : Quat4 :=
  ⟨fxMul p.w q.w - p.v.dot q.v, ((V3.smul p.w q.v).add (V3.smul q.w p.v)).add (p.v.cross q.v)⟩
def Quat4.conj (q : Quat4) : Quat4 := ⟨q.w, V3.zero.sub q.v⟩
def Quat4.neg (q : Quat4) : Quat4 := ⟨-q.w, V3.zero.sub q.v⟩
def Quat4.norm (q : Quat4) : Fx := fxSqrt (fxSq q.w + q.v.sq)
def Quat4.unit (q : Quat4) : Quat4 := let n := q.norm; ⟨fxDiv q.w n, ⟨fxDiv q.v.x n, fxDiv q.v.y n, fxDiv q.v.z n⟩⟩
def Quat4.ofList (l : List Fx) : Quat4 := ⟨l.getD 0 0, V3.ofList (l.drop 1)⟩

/-- The rotation of a unit quaternion. -/
def Quat4.rot (q : Quat4) : Rot :=
  let s := fun a b => 2 * fxMul a b
  let x := q.v.x
  let y := q.v.y
  let z := q.v.z
  let w := q.w
  ⟨⟨fxOne - s y y - s z z, s x y - s w z, s x z + s w y⟩, ⟨s x y + s w z, fxOne - s x x - s z z, s y z - s w x⟩,
   ⟨s x z - s w y, s y z + s w x, fxOne - s x x - s y y⟩⟩

/-- The unit quaternion of a rotation, from its largest component. -/
def Rot.quat (r : Rot) : Quat4 :=
  let t := r.a.x + r.b.y + r.c.z
  let q : Quat4 :=
    if 0 ≤ t then ⟨fxOne + t, ⟨r.c.y - r.b.z, r.a.z - r.c.x, r.b.x - r.a.y⟩⟩
    else if r.b.y ≤ r.a.x ∧ r.c.z ≤ r.a.x then
      ⟨r.c.y - r.b.z, ⟨fxOne + r.a.x - r.b.y - r.c.z, r.a.y + r.b.x, r.a.z + r.c.x⟩⟩
    else if r.c.z ≤ r.b.y then ⟨r.a.z - r.c.x, ⟨r.a.y + r.b.x, fxOne + r.b.y - r.a.x - r.c.z, r.b.z + r.c.y⟩⟩
    else ⟨r.b.x - r.a.y, ⟨r.a.z + r.c.x, r.b.z + r.c.y, fxOne + r.c.z - r.a.x - r.b.y⟩⟩
  q.unit

/-- The rotation that takes p to q the shorter way, as an axis (a unit vector, zero where they agree) and an angle. -/
def turnOf (p q : Quat4) : V3 × Fx :=
  let d := q.mul p.conj
  let d := if d.w < 0 then d.neg else d
  let n := d.v.len
  if n = 0 then (.zero, 0) else (d.v.unit, 2 * fxAtan2 n d.w)

/-- The quaternion of a turn by an angle about a unit axis. -/
def turnQuat (axis : V3) (angle : Fx) : Quat4 := let k := fxCosSin (angle / 2); ⟨k.1, V3.smul k.2 axis⟩

/-! Matrices as lists of rows. -/

abbrev Mat := List (List Fx)

def dotL (a b : List Fx) : Fx := (List.zipWith (· * ·) a b).foldl (· + ·) 0 / fxOne
def Mat.app (m : Mat) (v : List Fx) : List Fx := m.map (fun r => dotL r v)
def Mat.tr (m : Mat) : Mat := (List.range ((m.headD []).length)).map (fun j => m.map (fun r => r.getD j 0))
def Mat.mul (m k : Mat) : Mat := let t := k.tr; m.map (fun r => t.map (fun c => dotL r c))
def addL (a b : List Fx) : List Fx := List.zipWith (· + ·) a b
def subL (a b : List Fx) : List Fx := List.zipWith (· - ·) a b
def smulL (k : Fx) (a : List Fx) : List Fx := a.map (fxMul k)

/-- Subtract a multiple of a pivot row so that a row's first element vanishes, and drop it. -/
def elimRow (p r : List Fx) : List Fx :=
  let k := fxDiv (r.headD 0) (p.headD 0)
  List.zipWith (fun x y => x - fxMul k y) (r.drop 1) (p.drop 1)

/-- The row of a list whose first element is largest in magnitude, and the others. -/
def pickPivot : List (List Fx) → Option (List Fx × List (List Fx))
  | [] => none
  | r :: t =>
    match pickPivot t with
    | none => some (r, [])
    | some (p, o) => if fxAbs (p.headD 0) ≤ fxAbs (r.headD 0) then some (r, p :: o) else some (p, r :: o)

/-- The solution of n equations in n unknowns given as rows with the right side last; an unknown without a pivot is 0. -/
def solveRows : Nat → List (List Fx) → List Fx
  | 0, _ => []
  | n + 1, rows =>
    match pickPivot rows with
    | none => List.replicate (n + 1) 0
    | some (p, o) =>
      let xs := solveRows n (o.map (elimRow p))
      fxDiv (p.getD (n + 1) 0 - dotL ((p.drop 1).take n) xs) (p.headD 0) :: xs

/-- The solution of m x = b. -/
def Mat.solve (m : Mat) (b : List Fx) : List Fx := solveRows m.length (List.zipWith (fun r x => r ++ [x]) m b)

/-- The inverse of a square matrix. -/
def Mat.inv (m : Mat) : Mat :=
  Mat.tr ((List.range m.length).map (fun i => m.solve ((List.range m.length).map (fun j => if i = j then fxOne else 0))))

/-- m + k times the unit matrix. -/
def Mat.addDiag (m : Mat) (k : Fx) : Mat :=
  m.zipIdx.map (fun r => r.1.zipIdx.map (fun x => if x.2 = r.2 then x.1 + k else x.1))

/-- The determinant. -/
def detRows : Nat → List (List Fx) → Fx
  | 0, _ => fxOne
  | n + 1, rows =>
    match pickPivot rows with
    | none => 0
    | some (p, o) => fxMul (fxAbs (p.headD 0)) (detRows n (o.map (elimRow p)))

end Sys2Proof.Machine
end

