-- ==== Sys2Proof/Machine/StateGov.lean ====
section
/-! DEFINITION. State of the coordination governor of one half beside its registers (R168 to R190). -/
namespace Sys2Proof.Machine

/-- An own zone request (R183, R187): its zones and the servo time at which it was first listed. -/
structure GovReq where
  zones : List Nat
  treq : Nat
  deriving DecidableEq, Repr

/-- A complete boundary message of another cell (R182, R183): module number and its partner's, capability level,
horizon, flags, member list and group CL of a coordinator, the boundary, the instant of sending, the group's common
parameters, its requests in order, and its capsule samples of 32 bytes. -/
structure PeerMsg where
  num : Nat
  num2 : Nat
  cl : Nat
  horizon : Nat
  joining : Bool
  coord : Bool
  members : List Nat
  groupCl : Nat
  tick : Nat
  sent : Nat
  periodCfg : Nat
  dom1 : Nat
  dom2 : Nat
  zoneCrc : Nat
  reqs : List GovReq
  samples : List (List Byte)
  deriving DecidableEq, Repr

/-- A cell heard in the group: its number, the parts of a message that is not yet complete (boundary, part count, parts by
index), its newest complete message, and whether it is marked silent. -/
structure Peer where
  num : Nat
  tick : Nat
  count : Nat
  parts : List (Nat × List Byte)
  msg : Option PeerMsg
  silent : Bool
  deriving DecidableEq, Repr

/-- The variables and rows of the governor's programme (R168), as series over the steps of the horizon: per arm its speed scales,
the slacks of its decrease rows, per pair and per arm and neighbour the slacks of the distance rows, per arm the slack of
its stop row; and the duals and the distances to the bounds of the rows, in the order of the rows. -/
structure GovSolution where
  vars : List (List Fx)
  duals : List (List Fx)
  gaps : List (List Fx)
  deriving DecidableEq, Repr

/-- What the governor's solution says of one arm (R175, R176): sigma at step 1, its bound u at step 1, and whether a distance row
of the arm, its stop row or a decrease row uses slack above 10^-4. -/
structure GovArm where
  sigma : Fx
  u : Fx
  rowSlack : Bool
  stopSlack : Bool
  decSlack : Bool
  deriving DecidableEq, Repr

/-- The result of the governor's item that runs: whether an iteration's problem was refused or carried INVALID_INPUT or
OVERFLOW, the arms of the problem with their results, and the solution the next tick starts from. -/
structure GovPlan where
  flagged : Bool
  arms : List (Nat × GovArm)
  sol : GovSolution
  deriving DecidableEq, Repr

/-- The governor: own requests in order of entry index; the cells heard; the member list and group CL in force; whether
this cell is listed; whether its admission was refused; the ticks it has asked; withdrawn after a duplicate number (R17);
the instant its last message was sent; the parts it sent last; a cycle found; whether it was released at the last
boundary and the sigma then in force per arm; the zones this cell holds; the result of the item that runs, and the solution
of the last one that came to its end (R174). -/
structure GovUnit where
  reqs : List GovReq
  peers : List Peer
  members : List Nat
  groupCl : Nat
  admitted : Bool
  refused : Bool
  asked : Nat
  withdrawn : Bool
  sentAt : Option Nat
  sent : List (List Byte)
  deadlock : Bool
  released : Bool
  sig0 : List Nat
  held : List Nat
  plan : Option GovPlan
  last : Option GovSolution
  deriving DecidableEq, Repr

def GovUnit.reset : GovUnit :=
  { reqs := [], peers := [], members := [], groupCl := 0, admitted := false, refused := false, asked := 0,
    withdrawn := false, sentAt := none, sent := [], deadlock := false, released := false, sig0 := [],
    held := [], plan := none, last := none }

end Sys2Proof.Machine
end

