-- ==== Sys2Proof/Machine/Kin.lean ====
section
/-! DEFINITION. Kinematics and dynamics of a chain of joints (R84, R85, R103 to R112): frames by the modified Denavit-Hartenberg
convention, the Jacobian, Newton-Euler, the mass matrix, momentum, and the laws that use them. Vectors stand in the cell frame.
Results leave as real numbers; what an item writes is rounded to binary32 once. DESIGN CHOICE (log entry 123). -/
namespace Sys2Proof.Machine

/-! The model. -/

/-- A rigid body: mass, centre of mass in its frame, inertia tensor about the centre of mass in its frame's axes. -/
structure Body where
  mass : Fx
  com : V3
  tensor : Rot
  deriving DecidableEq, Repr, Inhabited

/-- A joint with its link (R85). -/
structure Link where
  prismatic : Bool
  a : Fx
  alpha : Fx
  d : Fx
  theta : Fx
  qMin : Fx
  qMax : Fx
  body : Body
  fv : Fx
  fc : Fx
  vc : Fx
  armature : Fx
  deriving DecidableEq, Repr, Inhabited

/-- A position with an orientation. -/
structure Pose where
  p : V3
  q : Quat4
  deriving DecidableEq, Repr, Inhabited

def Pose.zero : Pose := ⟨.zero, .one⟩

/-- An arm (R84): its geometry, whether joint 0 is a track, base and tool frames, gravity, the payload in the tool frame, damping,
manipulability threshold, tolerance and iteration limit of numerical inverse kinematics, and the observer's gain. -/
structure ArmModel where
  geometry : Nat
  track : Bool
  links : List Link
  base : Pose
  tool : Pose
  gravity : V3
  payload : Option Body
  ikLambda : Fx
  ikW0 : Fx
  ikTol : Fx
  ikIter : Nat
  obsGain : Fx
  deriving DecidableEq, Repr, Inhabited

/-! Gears (R86). -/

/-- A motion of a motor, in 2^-e of a revolution, as a motion of the joint it drives over the ratio n / d; a ratio with a
positive denominator. -/
def gearMotion (prismatic : Bool) (n d : Int) (e : Nat) (x : Int) : Int × Int :=
  let (num, den) := if prismatic then (x * d, n * 2 ^ e) else (x * d * twoPiNum, n * 2 ^ e * twoPiDen)
  if den < 0 then (-num, -den) else (num, den)

/-- A ratio as binary32 and as a real number; 0 where it has no denominator. -/
def ratioPat (r : Int × Int) : Nat := if r.2 = 0 then 0 else ratioF32 r.1 r.2
def ratioFx (r : Int × Int) : Fx := fxDiv r.1 r.2

/-! Frames. -/

/-- A frame: its rotation and origin in the cell frame. -/
structure Frame where
  r : Rot
  p : V3
  deriving DecidableEq, Repr

def Pose.frame (x : Pose) : Frame := ⟨x.q.rot, x.p⟩
def Frame.pose (f : Frame) : Pose := ⟨f.p, f.r.quat⟩

/-- A frame given in another one. -/
def Frame.comp (f g : Frame) : Frame := ⟨f.r.mul g.r, f.p.add (f.r.app g.p)⟩

/-- A point and a frame of the cell as seen from a frame. -/
def Frame.seen (f : Frame) (p : V3) : V3 := f.r.tr.app (p.sub f.p)

/-- The axis of a frame's joint. -/
def Frame.axis (f : Frame) : V3 := ⟨f.r.a.z, f.r.b.z, f.r.c.z⟩

/-- The next frame of a chain at joint value q. -/
def Link.next (l : Link) (f : Frame) (q : Fx) : Frame :=
  let x := f.r.mul (rotX l.alpha)
  let r := x.mul (rotZ (if l.prismatic then l.theta else l.theta + q))
  let d := if l.prismatic then l.d + q else l.d
  ⟨r, (f.p.add (f.r.app ⟨l.a, 0, 0⟩)).add (r.app ⟨0, 0, d⟩)⟩

/-- The frames of a chain from a base. -/
def chain (f : Frame) : List Link → List Fx → List Frame
  | l :: ls, q :: qs =>
    let g := l.next f q
    g :: chain g ls qs
  | _, _ => []

/-- The joint of a parallelogram arm that is measured against the base (R103). -/
def ArmModel.parallel (m : ArmModel) : Option Nat :=
  if m.geometry = 3 then some (if m.track then 3 else 2) else none

/-- Joint quantities as the chain has them: behind a parallelogram the joint is the difference to the one before. -/
def ArmModel.toChain (m : ArmModel) (q : List Fx) : List Fx :=
  match m.parallel with
  | none => q
  | some i => q.set i (q.getD i 0 - q.getD (i - 1) 0)

/-- The transpose of toChain: torques of the chain as torques of the joints. -/
def ArmModel.fromChain (m : ArmModel) (t : List Fx) : List Fx :=
  match m.parallel with
  | none => t
  | some i => t.set (i - 1) (t.getD (i - 1) 0 - t.getD i 0)

/-- The frames of an arm at joints q. -/
def ArmModel.frames (m : ArmModel) (q : List Fx) : List Frame := chain m.base.frame m.links (m.toChain q)

/-- The last frame of an arm. -/
def ArmModel.flange (m : ArmModel) (fs : List Frame) : Frame := fs.getLastD m.base.frame

/-- The tool frame of an arm. -/
def ArmModel.toolAt (m : ArmModel) (fs : List Frame) : Frame := (m.flange fs).comp m.tool.frame

/-- The tool pose of an arm at joints q. -/
def ArmModel.pose (m : ArmModel) (q : List Fx) : Pose := (m.toolAt (m.frames q)).pose

/-! The Jacobian. -/

/-- The column of a joint: the velocity and angular velocity of point p at rate 1. -/
def jacColumn (l : Link) (f : Frame) (p : V3) : List Fx :=
  if l.prismatic then f.axis.list ++ [0, 0, 0] else (f.axis.cross (p.sub f.p)).list ++ f.axis.list

/-- The columns of the Jacobian of the tool point, by joint. -/
def ArmModel.jacColumns (m : ArmModel) (fs : List Frame) : List (List Fx) :=
  let p := (m.toolAt fs).p
  let l := List.zipWith (fun l f => jacColumn l f p) m.links fs
  match m.parallel with
  | none => l
  | some i => l.set (i - 1) (subL (l.getD (i - 1) []) (l.getD i []))

/-- The Jacobian by rows: three of the velocity, three of the angular velocity. -/
def ArmModel.jac (m : ArmModel) (fs : List Frame) : Mat := Mat.tr (m.jacColumns fs)

/-! Velocities and accelerations along the chain. -/

/-- What a link's frame moves with: angular velocity, velocity of its origin, angular acceleration, acceleration. -/
structure Motion where
  w : V3
  v : V3
  dw : V3
  dv : V3
  deriving DecidableEq, Repr

def Motion.rest : Motion := ⟨.zero, .zero, .zero, .zero⟩

/-- The velocity and acceleration of a point that stands r from the origin of a body's frame. -/
def Motion.velAt (x : Motion) (r : V3) : V3 := x.v.add (x.w.cross r)
def Motion.accAt (x : Motion) (r : V3) : V3 := (x.dv.add (x.dw.cross r)).add (x.w.cross (x.w.cross r))

/-- The motion of the next link. -/
def Link.motion (l : Link) (x : Motion) (f g : Frame) (qd qdd : Fx) : Motion :=
  let z := g.axis
  let r := g.p.sub f.p
  let zq := V3.smul qd z
  let v := x.velAt r
  let a := x.accAt r
  if l.prismatic then
    { w := x.w, v := v.add zq, dw := x.dw, dv := (a.add ((x.w.cross zq).add (x.w.cross zq))).add (V3.smul qdd z) }
  else
    { w := x.w.add zq, v := v, dw := (x.dw.add (V3.smul qdd z)).add (x.w.cross zq), dv := a }

/-- The motions of the links of a chain. -/
def motions (x : Motion) (f : Frame) : List Link → List Frame → List Fx → List Fx → List Motion
  | l :: ls, g :: gs, v :: vs, a :: as =>
    let y := l.motion x f g v a
    y :: motions y g ls gs vs as
  | _, _, _, _ => []

/-! Forces. -/

/-- A wrench: force, and moment about a point. -/
structure Wrench where
  f : V3
  n : V3
  deriving DecidableEq, Repr

def Wrench.zero : Wrench := ⟨.zero, .zero⟩
def Wrench.add (a b : Wrench) : Wrench := ⟨a.f.add b.f, a.n.add b.n⟩

/-- A wrench about a point, about another one from which the first stands r. -/
def Wrench.shift (a : Wrench) (r : V3) : Wrench := ⟨a.f, a.n.add (r.cross a.f)⟩

/-- The inertia tensor of a body in the cell frame's axes. -/
def Body.turned (b : Body) (r : Rot) : Rot := (r.mul b.tensor).mul r.tr

/-- The wrench about the origin of the carrying frame that moves a body whose frame stands at f of a link in motion x at g. -/
def Body.force (b : Body) (x : Motion) (g f : Frame) : Wrench :=
  let r := (f.p.add (f.r.app b.com)).sub g.p
  let i := b.turned f.r
  let fo := V3.smul b.mass (x.accAt r)
  ⟨fo, ((i.app x.dw).add (x.w.cross (i.app x.w))).add (r.cross fo)⟩

/-- The momentum of a body: linear, and angular about the origin of the carrying frame. -/
def Body.momentum (b : Body) (x : Motion) (g f : Frame) : Wrench :=
  let r := (f.p.add (f.r.app b.com)).sub g.p
  let p := V3.smul b.mass (x.velAt r)
  ⟨p, ((b.turned f.r).app x.w).add (r.cross p)⟩

/-- The sum of what the links from each one on carry, about each link's origin, the last link's payload included. own: what a
body carries about its frame's origin. -/
def carried (own : Body → Motion → Frame → Frame → Wrench) (tool : Frame) (pay : Option Body) :
    List Link → List Frame → List Motion → List Wrench
  | l :: ls, g :: gs, x :: xs =>
    let rest := carried own tool pay ls gs xs
    let w := own l.body x g g
    match rest, gs with
    | y :: _, n :: _ => w.add (y.shift (n.p.sub g.p)) :: rest
    | _, _ => (match pay with
      | none => w
      | some b => w.add (own b x g (g.comp tool))) :: rest
  | _, _, _ => []

/-- The component of a wrench that acts on a joint. -/
def jointPart (l : Link) (g : Frame) (w : Wrench) : Fx := g.axis.dot (if l.prismatic then w.f else w.n)

/-- Newton-Euler (R108 step 4) without friction: the joint torques at q, qd, qdd against a gravity. -/
def ArmModel.torques (m : ArmModel) (fs : List Frame) (qd qdd : List Fx) (gravity : V3) : List Fx :=
  let start : Motion := { Motion.rest with dv := V3.zero.sub gravity }
  let xs := motions start m.base.frame m.links fs (m.toChain qd) (m.toChain qdd)
  let ws := carried Body.force m.tool.frame m.payload m.links fs xs
  m.fromChain (List.zipWith (fun lf w => jointPart lf.1 lf.2 w) (m.links.zip fs) ws)

/-- Zeros, one for each joint. -/
def ArmModel.still (m : ArmModel) : List Fx := m.links.map (fun _ => 0)

/-- The mass matrix (R108 step 5): its columns are the torques of unit accelerations. -/
def ArmModel.mass (m : ArmModel) (fs : List Frame) : Mat :=
  Mat.tr ((List.range m.links.length).map (fun i => m.torques fs m.still (m.still.set i fxOne) .zero))

/-- Friction (R108 step 4). -/
def ArmModel.friction (m : ArmModel) (qd : List Fx) : List Fx :=
  List.zipWith (fun l v => fxMul l.fv v + fxMul l.fc (fxTanh (fxDiv v l.vc))) m.links qd

/-- The torques of step 4: Newton-Euler with payload, friction and armature. -/
def ArmModel.inverse (m : ArmModel) (fs : List Frame) (qd qdd : List Fx) : List Fx :=
  addL (addL (m.torques fs qd qdd m.gravity) (m.friction qd)) (List.zipWith (fun l a => fxMul l.armature a) m.links qdd)

/-- The acceleration and angular acceleration of the tool point at qd, qdd. -/
def ArmModel.toolAcc (m : ArmModel) (fs : List Frame) (qd qdd : List Fx) : List Fx :=
  let xs := motions .rest m.base.frame m.links fs (m.toChain qd) (m.toChain qdd)
  let x := xs.getLastD .rest
  (x.accAt ((m.toolAt fs).p.sub (m.flange fs).p)).list ++ x.dw.list

/-- The part of the tool's acceleration that the joint velocities alone give: the derivative of the Jacobian times them. -/
def ArmModel.jacRate (m : ArmModel) (fs : List Frame) (qd : List Fx) : List Fx := m.toolAcc fs qd m.still

/-- The transpose of the Coriolis matrix times the joint velocities (R112): the derivative of the kinetic energy by the joints. -/
def ArmModel.energyRate (m : ArmModel) (fs : List Frame) (qd : List Fx) : List Fx :=
  let xs := motions .rest m.base.frame m.links fs (m.toChain qd) m.still
  let ws := carried Body.momentum m.tool.frame m.payload m.links fs xs
  let part (l : Link) (g : Frame) (before x : Motion) (w : Wrench) : Fx :=
    let dz := before.w.cross g.axis
    if l.prismatic then dz.dot w.f else dz.dot w.n - g.axis.dot (x.v.cross w.f)
  m.fromChain (List.zipWith (fun (a : (Link × Frame) × Motion) (b : Motion × Wrench) => part a.1.1 a.1.2 a.2 b.1 b.2)
    ((m.links.zip fs).zip (Motion.rest :: xs)) (xs.zip ws))

/-! The pose error. -/

/-- The error from a pose to the one desired: of the position, and twice the vector part of the turn between them (R105). -/
def poseError (desired actual : Pose) : List Fx :=
  let d := desired.q.mul actual.q.conj
  let d := if d.w < 0 then d.neg else d
  (desired.p.sub actual.p).list ++ (V3.smul (2 * fxOne) d.v).list

/-! Compliance (R110). -/

/-- The inertia of the tool: the inverse of J M^-1 J^T. -/
def ArmModel.toolInertia (j mass : Mat) : Mat := Mat.inv (j.mul (mass.inv.mul j.tr))

/-- The torque of compliance: fs, qd the actual state, desired the pose, twist and acceleration wanted. -/
def ArmModel.compliance (m : ArmModel) (fs : List Frame) (qd : List Fx) (desired : Pose) (twist acc kp kd : List Fx) : List Fx :=
  let j := m.jac fs
  let e := poseError desired (m.toolAt fs).pose
  let rate := subL twist (j.app qd)
  let want := addL (subL acc (m.jacRate fs qd)) (addL (List.zipWith fxMul kd rate) (List.zipWith fxMul kp e))
  addL (j.tr.app ((ArmModel.toolInertia j (m.mass fs)).app want)) (m.inverse fs qd m.still)

end Sys2Proof.Machine
end

