-- ==== Sys2Proof/Machine/Caps.lean ====
section
/-! DEFINITION. Capsules, the boxes of zones and objects, and their distances (R171, R172, R184, R186, R223, R224), exact up to the
places of Fix.lean. DESIGN CHOICE (log entry 123). -/
namespace Sys2Proof.Machine

/-- A capsule in place: the ends of its axis and its radius. -/
structure Capsule where
  p0 : V3
  p1 : V3
  r : Fx
  deriving DecidableEq, Repr

/-- A point of the axis. -/
def Capsule.at (c : Capsule) (t : Fx) : V3 := c.p0.add (V3.smul t (c.p1.sub c.p0))

/-- A number held to 0 to 1. -/
def unitClamp (x : Fx) : Fx := if x < 0 then 0 else if fxOne < x then fxOne else x

/-- Where on a capsule's axis it is nearest to a point. -/
def Capsule.near (c : Capsule) (p : V3) : Fx :=
  let d := c.p1.sub c.p0
  unitClamp (fxDiv ((p.sub c.p0).dot d) d.sq)

/-- The distance of a point from a capsule's axis. -/
def Capsule.axisDist (c : Capsule) (p : V3) : Fx := (p.sub (c.at (c.near p))).len

/-- Where the lines of two axes are nearest to each other, where that lies on both axes. -/
def linesNear (a b : Capsule) : List (Fx × Fx) :=
  let u := a.p1.sub a.p0
  let v := b.p1.sub b.p0
  let w := a.p0.sub b.p0
  let d := fxMul u.sq v.sq - fxSq (u.dot v)
  let s := fxDiv (fxMul (u.dot v) (v.dot w) - fxMul v.sq (u.dot w)) d
  let t := fxDiv (fxMul u.sq (v.dot w) - fxMul (u.dot v) (u.dot w)) d
  if 0 < d ∧ 0 ≤ s ∧ s ≤ fxOne ∧ 0 ≤ t ∧ t ≤ fxOne then [(s, t)] else []

/-- The element of a list with the smallest measure. -/
def leastBy {α : Type} (f : α → Fx) : List α → Option α
  | [] => none
  | x :: t =>
    match leastBy f t with
    | none => some x
    | some y => if f y < f x then some y else some x

/-- The nearest places on the axes of two capsules. -/
def nearestOn (a b : Capsule) : Fx × Fx :=
  let l := linesNear a b ++ [(0, b.near a.p0), (fxOne, b.near a.p1), (a.near b.p0, 0), (a.near b.p1, fxOne)]
  (leastBy (fun x : Fx × Fx => ((a.at x.1).sub (b.at x.2)).sq) l).getD (0, 0)

/-- The surface distance of two capsules; negative where they overlap. -/
def Capsule.gap (a b : Capsule) : Fx :=
  let x := nearestOn a b
  ((a.at x.1).sub (b.at x.2)).len - a.r - b.r

/-- The least distance of the bounding spheres of two capsules. -/
def Capsule.sphereGap (a b : Capsule) : Fx :=
  let half := fxOne / 2
  let reach (c : Capsule) : Fx := (c.p1.sub c.p0).len / 2 + c.r
  ((a.at half).sub (b.at half)).len - reach a - reach b

/-! Boxes. -/

/-- A box along the axes of a frame. -/
structure Box3 where
  lo : V3
  hi : V3
  deriving DecidableEq, Repr

/-- How far a coordinate lies outside an interval. -/
def outside (lo hi x : Fx) : Fx := if x < lo then lo - x else if hi < x then x - hi else 0

/-- The distance of a point from a box. -/
def Box3.dist (b : Box3) (p : V3) : Fx :=
  V3.len ⟨outside b.lo.x b.hi.x p.x, outside b.lo.y b.hi.y p.y, outside b.lo.z b.hi.z p.z⟩

/-- The least value of a function that first falls and then rises from lo to hi; n steps that take off a third. -/
def leastOver (f : Fx → Fx) : Nat → Fx → Fx → Fx
  | 0, lo, _ => f lo
  | n + 1, lo, hi =>
    let a := lo + (hi - lo) / 3
    let b := hi - (hi - lo) / 3
    if f a ≤ f b then leastOver f n lo b else leastOver f n a hi

/-- The surface distance of a capsule from a box; the distance from a convex body along a line first falls and then rises. -/
def Capsule.boxGap (c : Capsule) (b : Box3) : Fx := leastOver (fun t => b.dist (c.at t)) 270 0 fxOne - c.r

/-! Capsules of an arm. -/

/-- A capsule as a record places it: the frame it stands in, 0 the base and i the frame of joint i, the ends of its axis in that
frame and its radius. -/
structure CapsuleRec where
  link : Nat
  p0 : V3
  p1 : V3
  r : Fx
  deriving DecidableEq, Repr

/-- The frame with a number. -/
def ArmModel.frameOf (m : ArmModel) (fs : List Frame) (link : Nat) : Frame :=
  if link = 0 then m.base.frame else fs.getD (link - 1) m.base.frame

/-- A capsule in place. -/
def ArmModel.place (m : ArmModel) (fs : List Frame) (c : CapsuleRec) : Capsule :=
  let f := m.frameOf fs c.link
  ⟨f.p.add (f.r.app c.p0), f.p.add (f.r.app c.p1), c.r⟩

/-- The motions of the frames of an arm's joints at joint rates. -/
def ArmModel.moving (m : ArmModel) (fs : List Frame) (qd : List Fx) : List Motion :=
  motions .rest m.base.frame m.links fs (m.toChain qd) m.still

/-- The velocity of a point of the cell that a frame carries. -/
def ArmModel.pointVel (m : ArmModel) (fs : List Frame) (ms : List Motion) (link : Nat) (p : V3) : V3 :=
  if link = 0 then .zero else (ms.getD (link - 1) .rest).velAt (p.sub (m.frameOf fs link).p)

/-- The larger speed of the two ends of a capsule. -/
def ArmModel.capsuleSpeed (m : ArmModel) (fs : List Frame) (ms : List Motion) (c : CapsuleRec) : Fx :=
  let x := m.place fs c
  let a := (m.pointVel fs ms c.link x.p0).len
  let b := (m.pointVel fs ms c.link x.p1).len
  if a ≤ b then b else a

/-- A capsule seen from another frame's coordinates. -/
def Capsule.under (c : Capsule) (f : Frame) : Capsule := ⟨f.p.add (f.r.app c.p0), f.p.add (f.r.app c.p1), c.r⟩

end Sys2Proof.Machine
end

