-- ==== Sys2Proof/Machine/StateIsland.lean ====
section
/-! DEFINITION. State of the safety island beside its registers, and the parameters of the safety section that no register
shows (R191 to R255). -/
namespace Sys2Proof.Machine

/-! The safety section: R437 leaves its body to Deulate, so its parameters are an uninterpreted function of its bytes. -/

/-- A pair of safety inputs (R196): kind 0 equivalent, 1 antivalent, 2 two single-channel inputs; the test source of
each contact; the filter time in us and the discrepancy time in ms. -/
structure PairCfg where
  kind : Nat
  srcA : Option Nat
  srcB : Option Nat
  filter : Nat
  disc : Nat
  deriving DecidableEq, Repr, Inhabited

/-- A function instance beside its register (R205 to R211): its input pairs, the received bits it reads (connection,
byte, bit), its stop category for each group it acts on (0 STO, 1 SS1-t, 2 SS1-r, 3 SS2, 4 a speed limit), manual
reset, the contact that resets it, MAN_BYPASS, the OSSD pair of its lock, the contact of its lock request, UNLOCK_DELAY in
ms, and whether a reset function is the island reset. -/
structure FuncCfg where
  pairs : List Nat
  bits : List (Nat × Nat × Nat)
  acts : List (Nat × Nat)
  manual : Bool
  resetBy : Option Nat
  manBypass : Bool
  lockOut : Option Nat
  unlockReq : Option Nat
  unlockDelay : Nat
  islandReset : Bool
  deriving DecidableEq, Repr, Inhabited

/-- A stop group (R202): its arms, auxiliary axes, safe connections, STO pairs and OSSD pairs, t_SS1 in ms, the function
that selects its mode, MAN_SPEED in mm/s and the limit sets its drives are given. -/
structure GroupCfg where
  arms : List Nat
  axes : List Nat
  conns : List Nat
  sto : List Nat
  ossd : List Nat
  tSs1 : Nat
  selector : Option Nat
  manSpeed : Nat
  sls : Nat
  slp : Nat
  deriving DecidableEq, Repr, Inhabited

/-- A safe connection beside its register (R240 to R252): its axis and the axis index in its node, the watchdog time and
the send interval in ns, data lengths sent and received, whether this island initiates, the initiator's safety
address, connection number and FP16 otherwise, and whether both plant ports carry it. -/
structure ConnCfg where
  axis : Nat
  axIdx : Nat
  watchdog : Nat
  interval : Nat
  lenTx : Nat
  lenRx : Nat
  initiator : Bool
  saddr : Nat
  conn : Nat
  fp16 : Nat
  both : Bool
  stream : Nat
  deriving DecidableEq, Repr, Inhabited

/-- A safety capsule (R223): LINK, and the ends of its axis with RADIUS in 0.1 mm. -/
structure SafeCapsule where
  link : Nat
  p0 : Int × Int × Int
  p1 : Int × Int × Int
  radius : Nat
  deriving DecidableEq, Repr, Inhabited

/-- The gear of a joint as the safety kinematics has it: GR_NUM, GR_DEN, and AX_OFFSET in 2^-32 rev (R86, R223). -/
structure SafeGear where
  num : Int
  den : Int
  offset : Int
  deriving DecidableEq, Repr, Inhabited

/-- The record of an arm (R227), TABLE as (T_s in 0.1 ms, S_s in mm), with its drive connections in joint order and the
safety kinematics: links, base and tool, the gears of its joints, and its capsules (R223). -/
structure SsmArmCfg where
  en : Bool
  ss2 : Bool
  auto : Bool
  groups : Nat
  tArm : Nat
  zr : Nat
  dAnt : Nat
  hystD : Nat
  dwell : Nat
  vStill : Nat
  pclass : Nat
  pcConn : Nat
  pcByte : Nat
  sens : Nat
  edges : List Nat
  table : List (Nat × Nat)
  conns : List Nat
  resetBy : Option Nat
  kin : ArmModel
  gears : List SafeGear
  caps : List SafeCapsule
  deriving DecidableEq, Repr, Inhabited

/-- The record of a sensor (R231). -/
structure SensCfg where
  conn : Nat
  maxObj : Nat
  vh : Nat
  tSens : Nat
  c : Nat
  zd : Nat
  deriving DecidableEq, Repr, Inhabited

/-- What the safety section says beside the registers. length: its bytes; valid: it passes every check at load (R194, R212, R221, R222,
R228, R231, R247, R252); outTest: the pairs whose outputs are tested, OSSD pairs first; commV: the limit of each
auxiliary axis under COMMISSION in 2^-16 rev per cycle; reads: the arms' SSM records. -/
structure SectionCfg where
  valid : Bool
  length : Nat
  pairs : List PairCfg
  funcs : List FuncCfg
  groups : List GroupCfg
  conns : List ConnCfg
  outTest : List Bool
  arms : List SsmArmCfg
  sens : List SensCfg
  commV : List (Nat × Nat)
  deriving DecidableEq, Repr, Inhabited

def SectionCfg.none : SectionCfg :=
  { valid := false, length := 0, pairs := [], funcs := [], groups := [], conns := [], outTest := [], arms := [], sens := [], commV := [] }

/-- The parameters a section's bytes describe: uninterpreted. -/
opaque sectionCfgOf : List (Nat × Byte) → SectionCfg

/-! The island's own state. -/

/-- A contact as one channel qualifies it (R197): its level and the instant of the edge. -/
structure ContactRun where
  level : Bool
  at_ : Nat
  deriving DecidableEq, Repr

/-- A pair (R197, R198): its demand in each channel, the instant since which its contacts differ, whether since a latched
fault contact A and contact B have been at the demand level, the sources whose next pulse must be correct before the fault
clears (bit t), whether the channels differed in the last cycle, and per contact the consecutive bad test pulses: of its own
source, and per foreign source. -/
structure PairRun where
  demX : Bool
  demY : Bool
  differs : Option Nat
  seenA : Bool
  seenB : Bool
  due : Nat
  xyDiff : Bool
  ownBad : List Nat
  crossBad : List Nat
  deriving DecidableEq, Repr

def PairRun.reset : PairRun :=
  { demX := true, demY := true, differs := none, seenA := false, seenB := false, due := 0, xyDiff := false, ownBad := [0, 0],
    crossBad := List.replicate 8 0 }

/-- A function instance (R205 to R209): its demand in each channel as last decided; the two-hand control's qualifying
stamps, its enable and its block; an enabling device that must release first; the lock: open, confirmed as locked once,
and the instant from which its groups have been safe. -/
structure FuncRun where
  demX : Bool
  demY : Bool
  enabled : Bool
  blocked : Bool
  enRelease : Bool
  lockOpen : Bool
  safeSince : Option Nat
  mode : Bool
  deriving DecidableEq, Repr

def FuncRun.reset : FuncRun :=
  { demX := true, demY := true, enabled := false, blocked := false, enRelease := false, lockOpen := false,
    safeSince := none, mode := false }

/-- A stop group (R203): the category in force (none while it runs), the instant of the decision, whether its outputs
have gone off, and what else demands: a drive's violation, the reduced-speed monitor, an arm it cannot monitor; and whether
a connection that left run still holds it until a reset (R254). -/
structure GroupRun where
  cat : Option Nat
  since : Nat
  off : Bool
  viol : Bool
  restrict : Bool
  noPos : Bool
  connWait : Bool
  deriving DecidableEq, Repr

def GroupRun.reset : GroupRun :=
  { cat := some 0, since := 0, off := true, viol := false, restrict := false, noPos := false, connWait := false }

/-- The receiver of a connection in one channel (R253): 1 safe, 2 sync, 3 run; the last number and the deadline. -/
structure SafeRx where
  st : Nat
  last : Nat
  deadline : Nat
  deriving DecidableEq, Repr

/-- A safe connection (R240 to R255): the receivers of both channels, the number it sends next, the PDU in the insertion
buffer, the data last delivered with the acceptance stamp, and the first copy of a PDU on two ports. -/
structure ConnRun where
  rxX : SafeRx
  rxY : SafeRx
  seqNext : Nat
  out : Option (List Byte)
  data : List Byte
  accAt : Nat
  copy : Option (Nat × Nat)
  posPrev : Option Nat
  deriving DecidableEq, Repr

def ConnRun.reset : ConnRun :=
  { rxX := ⟨1, 0, 0⟩, rxY := ⟨1, 0, 0⟩, seqNext := 0, out := none, data := [], accAt := 0, copy := none, posPrev := none }

/-- Where an arm stands in a safety cycle: its capsules and its tool point. -/
structure SafePlace where
  caps : List Capsule
  tool : V3
  deriving DecidableEq, Repr

/-- What one channel of the island computes in a cycle from the safe positions (R216, R223 to R225): per arm the largest
speed of a capsule's end and the speed of the tool point in 10^-6 mm/s, and the distance to each object in 10^-9 mm, in
sensor order; the largest travel of an end of the tested arm since the decision in 10^-9 mm. -/
structure IslandSample where
  speed : List Nat
  tool : List Nat
  dist : List (List Nat)
  travel : Nat
  deriving DecidableEq, Repr

/-- A monitored arm (R225 to R238): the stop outcome held, the ceiling band
(8 where none qualifies, 9 where it starts anew), the instant since which the release conditions
hold, the class of the last cycle and of the one before, a release that waits for its manual reset, and where the arm stood
in the last safety cycle. -/
structure SsmRun where
  stop : Bool
  ceil : Nat
  dwell : Option Nat
  cls : Nat
  clsOld : Nat
  clsLeft : Nat
  wait : Bool
  testStop : Bool
  last : Option SafePlace
  deriving DecidableEq, Repr

def SsmRun.reset : SsmRun :=
  { stop := false, ceil := 9, dwell := none, cls := 0, clsOld := 0, clsLeft := 0, wait := false, testStop := false, last := none }

/-- A stop test (R230): the arm, whether the decision has been made, the cycles since it, the consecutive cycles at
standstill, the largest travel in 10^-9 mm, and where the arm stood at the decision. -/
structure StopTest where
  arm : Nat
  begun : Bool
  cycles : Nat
  still : Nat
  travel : Nat
  from_ : Option SafePlace
  deriving DecidableEq, Repr

/-- A sensor's PDU in use: the number of PDUs taken is in its register; the objects of the last one. -/
structure SensRun where
  at_ : Nat
  count : Nat
  deriving DecidableEq, Repr

/-- The island beside its registers: channel Y's clock in ns; the instant on TB0 at which the halves last got the copy of
R22; whether it has power, the self-test that runs, the number of the safety cycle and
its start; contacts per channel, pairs, functions, groups; the outputs (24: OSSD outputs first) as commanded with those
held off; connections; arms; sensors; items that differed in the last cycle; the S1 switches per channel; the staged
section; the stop test; hold-up and its end; whether reduced speed under COMMISSION is in force. -/
structure IslandUnit where
  clk : Nat
  heard : Nat
  testing : Bool
  cycle : Nat
  start : Nat
  contactsX : List ContactRun
  contactsY : List ContactRun
  pairs : List PairRun
  funcs : List FuncRun
  groups : List GroupRun
  outs : List Bool
  heldOff : List Bool
  conns : List ConnRun
  arms : List SsmRun
  sens : List SensRun
  differed : List Nat
  swX : Nat
  swY : Nat
  swDiff : Bool
  staged : List (Nat × Byte)
  test : Option StopTest
  holdupAt : Option Nat
  powerOff : Bool
  comm : Bool
  deriving DecidableEq, Repr

def IslandUnit.reset : IslandUnit :=
  { clk := 0, heard := 0, testing := false, cycle := 0, start := 0, contactsX := List.replicate 24 ⟨false, 0⟩,
    contactsY := List.replicate 24 ⟨false, 0⟩, pairs := List.replicate 12 .reset, funcs := List.replicate 32 .reset,
    groups := List.replicate 16 .reset, outs := List.replicate 24 false, heldOff := List.replicate 24 false,
    conns := List.replicate 64 .reset, arms := List.replicate 16 .reset, sens := List.replicate 8 ⟨0, 0⟩, differed := [],
    swX := 0, swY := 0, swDiff := false, staged := [], test := none, holdupAt := none, powerOff := false, comm := false }

end Sys2Proof.Machine
end

