-- ==== Sys2Proof/Machine/StateMotion.lean ====
section
/-! DEFINITION. State of the servo period, of the profile units, of the control engine and of the arms of one half, beside their
registers. -/
namespace Sys2Proof.Machine

/-- One input of a profile unit (R70, R71): the raw level with the stamp of the edge that began its run, the samples a
drive source has held it, and the qualified level. -/
structure InputRun where
  raw : Bool
  since : Nat
  samples : Nat
  qual : Bool
  deriving DecidableEq, Repr

def InputRun.reset : InputRun := ⟨false, 0, 0, false⟩

/-- A homing in progress (R77 to R80): the parameters it took at its start, the motion of its present step, the
reference edge (period and offset) that waits for its samples, the position from which the index is sought with the
home edge, the indices seen before that edge qualified, and the run of periods at the homing torque. -/
structure Homing where
  method : Nat
  neg : Bool
  fast : Bool
  vFast : Nat
  vCreep : Nat
  idxMax : Nat
  pos : Int
  tq : Nat
  tqTime : Nat
  backoff : Nat
  motion : Nat
  edge : Option (Nat × Nat)
  refDone : Bool
  seekFrom : Option Int
  seekAt : Option (Nat × Nat)
  idx : List (Option Int × Nat × Nat)
  tqRun : Nat
  deriving DecidableEq, Repr

/-- A profile unit beside its registers (R50 to R81). Positions are in 2^-32 rev. target and vGoal are the goals of a
point-to-point motion and of a velocity motion; rem, vRem and aRem the remainders of the set-point's position, velocity and acceleration below
their registers' places, in 2^-64 of their units (R54);
spPrev the set-point before the present one; s0, m0, num, den, master, srcAct, camBase the coupling in force (R62 to R64)
and engage that it is yet to take its base; demand the last coupled position; held the D_MAX, QS_DEC and J_MAX in force
(R56); quick that the stop brakes at QS_DEC, escalated that it brakes at the larger of both (R69), softStop that it ends on
the soft limit in target (R68); restHold that HOLD_POS is to take the rest position (R81); soft a soft
start; absMove that the motion goes to TARGET_POS; offs the GEAR_OFFSET in force; cmdTag the TAG of the command that runs; the edges of conditions whose event is
raised once; the homing, and the actual positions of the last periods (R79). -/
structure PrfUnit where
  target : Int
  vGoal : Int
  rem : Int
  vRem : Int
  aRem : Int
  spPrev : Int
  s0 : Int
  m0 : Int
  num : Int
  den : Nat
  master : Nat
  srcAct : Bool
  relEngage : Bool
  camBase : Nat
  engage : Bool
  demand : Option Int
  heldD : Option Nat
  heldQ : Option Nat
  heldJ : Option Nat
  quick : Bool
  escalated : Bool
  softStop : Bool
  restHold : Bool
  soft : Bool
  absMove : Bool
  offs : Int
  cmdTag : Nat
  lagOver : Bool
  softOver : Bool
  clampNow : Bool
  homing : Option Homing
  posHist : List (Nat × Int)
  limP : InputRun
  limN : InputRun
  home : InputRun
  deriving DecidableEq, Repr

def PrfUnit.reset : PrfUnit :=
  { target := 0, vGoal := 0, rem := 0, vRem := 0, aRem := 0, spPrev := 0, s0 := 0, m0 := 0, num := 0, den := 1, master := 0, srcAct := false,
    relEngage := false, camBase := 0, engage := false, demand := none, heldD := none, heldQ := none, heldJ := none,
    quick := false, escalated := false, softStop := false, restHold := false, soft := false, absMove := false, offs := 0, cmdTag := 0,
    lagOver := false, softOver := false,
    clampNow := false, homing := none, posHist := [], limP := .reset, limN := .reset, home := .reset }

/-- What a REPLY gave for one axis (R266, R267): position in the axis frame, velocity, torque feedback in the torque
format, status bits, and the captured auxiliary value. -/
structure AxisFb where
  pos : Int
  vel : Int
  tq : Int
  astat : Nat
  aux : Nat
  deriving DecidableEq, Repr

/-- The histories of a second-order section (R117). -/
structure Hist where
  x1 : Int
  x2 : Int
  y1 : Int
  y2 : Int
  deriving DecidableEq, Repr

def Hist.zero : Hist := ⟨0, 0, 0, 0⟩

/-- The repetitive controller's learning of one axis (R131 to R134): the point φ was in with its error sum, count and
whether it is without error; the finished points of this cycle as (index, mean error, valid); the values points had
before their update; the length, step and arm in force (length 0: not yet taken); a clear that runs; the cycle of the
last period; an output held at zero from a takeover until the next cycle begins. -/
structure RcUnit where
  point : Option Nat
  sum : Int
  cnt : Nat
  bad : Bool
  done : List (Nat × Int × Bool)
  old : List (Nat × Int)
  len : Nat
  step : Nat
  arm : Nat
  clearing : Bool
  lastCyc : Nat
  zero : Bool
  deriving DecidableEq, Repr

def RcUnit.reset : RcUnit :=
  { point := none, sum := 0, cnt := 0, bad := false, done := [], old := [], len := 0, step := 32768, arm := 0,
    clearing := false, lastCyc := 0, zero := false }

/-- An axis of the control engine beside its registers (R115 to R137): the REPLY of the present period; the actual
position and velocity in use and the position before; the 48-bit integrators; filter histories; the set-point for T_n;
the working gain set, the set its blend began from after gainBase steps and the entry it goes to, with the next blend step
(0 none, 9 ended);
the outputs of the last period; the hand-over blend; the mode request that waits for its latch; the hold sequence (0 none, 1 to 6 the steps of R126, 7 a hold
entered from off without a brake, 8 a hold without a brake) with the mode it came from and goes to, its period count,
whether its release is a soft start, and the brake times it took; the switch of the present window (0 none, 1 by R124
from mode swFrom, 2 from zero, 3 a blend to zero) and whether the outgoing mode was a hold, without the terms a hold has
not; missing replies; the value and step of an integrator that decays (R120); the SET
entry as computed and as it stands in the SET frame buffer (R46); whether the drive last declared its encoder absolute
(R82). -/
structure CeUnit where
  fb : Option AxisFb
  pAct : Int
  vAct : Int
  pPrev : Int
  tqFb : Int
  ip : Int
  iv : Int
  bq0 : Hist
  bq1 : Hist
  notch : Hist
  pSp : Int
  vSp : Int
  work : List Int
  workFrom : List Int
  workTo : List Int
  gainJ : Nat
  gainBase : Nat
  loaded : Bool
  tauSum : Int
  vcmdOut : Int
  blendD : Int
  blendN : Nat
  blendK : Nat
  blending : Bool
  req : Option Nat
  holdStep : Nat
  holdFrom : Nat
  holdTo : Nat
  holdCnt : Nat
  softRel : Bool
  swKind : Nat
  swFrom : Nat
  swBare : Bool
  brkEng : Nat
  brkRel : Nat
  frozen : Int
  missRun : Nat
  lofDone : Bool
  feArmed : Bool
  decayP : Option Int
  decayV : Option Int
  setTq : Int
  setEn : Bool
  bufTq : Int
  bufEn : Bool
  abs : Bool
  rc : RcUnit
  deriving DecidableEq, Repr

def CeUnit.reset : CeUnit :=
  { fb := none, pAct := 0, vAct := 0, pPrev := 0, tqFb := 0, ip := 0, iv := 0, bq0 := .zero, bq1 := .zero, notch := .zero,
    pSp := 0, vSp := 0, work := List.replicate 24 0, workFrom := List.replicate 24 0, workTo := List.replicate 24 0,
    gainJ := 0, gainBase := 0, loaded := false, tauSum := 0, vcmdOut := 0, blendD := 0, blendN := 0, blendK := 0, blending := false,
    holdStep := 0, holdFrom := 0, holdTo := 0, holdCnt := 0, softRel := false, swKind := 0, swFrom := 0, swBare := false, brkEng := 0, brkRel := 0, frozen := 0,
    missRun := 0, lofDone := false, feArmed := true, decayP := none, decayV := none,  setTq := 0, setEn := false, bufTq := 0, bufEn := false, abs := false, req := none, rc := .reset }

/-- A feed-forward block of an arm (R42, R109): its tag, and per joint the torque and the motor-referred inertia. -/
structure FfBlock where
  tag : Nat
  tq : List Int
  im : List Nat
  deriving DecidableEq, Repr

/-- A joint set-point block of an arm (R42): its tag and per joint the axis position. -/
structure JsBlock where
  tag : Nat
  pos : List Int
  deriving DecidableEq, Repr

/-- A speed scale that moves at a bounded rate (R97): its value in fine units, the periods its rate has been rising,
and the direction of its last step. -/
structure Ramp where
  val : Nat
  run : Nat
  up : Bool
  deriving DecidableEq, Repr

/-- 1.0 in fine units: 2048 * 10^9 to one LSB of the speed-scale format. -/
def fineOne : Nat := 32768 * 2048 * 1000000000

def Ramp.one : Ramp := ⟨fineOne, 0, false⟩

/-- An interval of a segment in which the arm meets a shared zone (R186): the descriptor's index modulo 64, the zone, and
the ends in 2^-32 of the segment's length. -/
structure ZoneIv where
  seg : Nat
  zone : Nat
  lo : Nat
  hi : Nat
  deriving DecidableEq, Repr

/-- Where a segment begins (R91): the joints (binary32), the tool pose, and the track. -/
structure SegStart where
  q : List Nat
  pose : Pose
  track : Fx
  deriving DecidableEq, Repr

def SegStart.zero : SegStart := ⟨[], .zero, 0⟩

/-- The place of an arm on its path: the descriptor, the path parameter with its first and second derivative by path time and
the segment's length, in 2^-64 path units (R91, R94), whether its path unit is the metre, where the segment begins, and the
arc lengths of a Cartesian spline's intervals. -/
structure PathAt where
  idx : Nat
  s : Int
  sd : Int
  sdd : Int
  len : Int
  metre : Bool
  start : SegStart
  arcs : List Fx
  deriving DecidableEq, Repr

def PathAt.zero : PathAt := ⟨0, 0, 0, 0, 2 ^ 64, false, .zero, []⟩

/-- The sample of an arm for a period (R94, R108): its tag; whether inverse kinematics gives its joints and whether it has
them; joints, rates and accelerations (binary32); the pose wanted, with the tool's velocity and acceleration; the track with
its rate and acceleration; the branch flags; whether its descriptor's numbers are finite; the payload slot; and the joints of
the sample before. -/
structure ArmSample where
  tag : Nat
  cart : Bool
  done : Bool
  q : List Nat
  qd : List Nat
  qdd : List Nat
  pose : Pose
  twist : List Fx
  acc : List Fx
  track : Fx
  trackD : Fx
  trackDD : Fx
  branch : Nat
  finite : Bool
  payload : Nat
  deriving DecidableEq, Repr

/-- The actual state of an arm as a period's feedback gave it (R110, R112): joints, rates, torques. -/
structure ArmActual where
  period : Nat
  q : List Fx
  qd : List Fx
  tq : List Fx
  deriving DecidableEq, Repr

/-- The momentum observer of an arm (R112): the momentum at its start, none until its first period, the sum and the residual. -/
structure Observer where
  p0 : Option (List Fx)
  sum : List Fx
  res : List Fx
  deriving DecidableEq, Repr

def Observer.reset : Observer := ⟨none, [], []⟩

/-- An arm beside its registers (R84 to R113): the feed-forward and joint set-point blocks that still can be used, newest
first; the feed-forward values last applied; the runs of stale and flagged periods; the ramps; σ at the last tick boundary and
the value it moves to over the tick (R169); the kind of a stop and whether the queue is flushed at its end; whether a segment
runs, and the place on the path; whether it has begun to brake for want of a successor (R93); sigma_eff of the last sample;
whether its hoist has released it (R99); the joints of the last sample; rest and the period since which the arm rests; the
phases of the last three samples with the cycles they belong to and the cycles begun (R95); the samples and actual states that
items still can use; the observer with its suppression; whether the loops were on; the payload selection last latched; the
zone intervals found and the descriptors whose scan is complete. -/
structure ArmUnit where
  ff : List FfBlock
  js : List JsBlock
  ffUse : Option FfBlock
  ffRun : Nat
  ikRun : Nat
  flagRun : Nat
  ikNow : Bool
  ffNow : Bool
  gov : Ramp
  ovr : Ramp
  stop : Ramp
  kappa : Ramp
  govFrom : Nat
  govTo : Nat
  stopQuick : Bool
  stopUp : Bool
  flush : Bool
  running : Bool
  place : PathAt
  flyLost : Bool
  effLast : Nat
  go : Bool
  q : List Nat
  rest : Bool
  restAt : Nat
  phases : List Nat
  cycs : List Nat
  cyc : Nat
  samples : List ArmSample
  acts : List ArmActual
  obs : Observer
  obsHold : Nat
  loopsOn : Bool
  paySel : Nat
  zones : List ZoneIv
  scanned : List Nat
  deriving DecidableEq, Repr

def ArmUnit.reset : ArmUnit :=
  { ff := [], js := [], ffUse := none, ffRun := 0, ikRun := 0, flagRun := 0, ikNow := false, ffNow := false,
    gov := .one, ovr := .one, stop := .one, kappa := .one, govFrom := fineOne, govTo := fineOne, stopQuick := false, stopUp := false,
    flush := false, running := false, place := .zero, flyLost := false, effLast := 0x8000, go := false, q := [],
    rest := true, restAt := 0, phases := [0, 0, 0], cycs := [0, 0, 0], cyc := 0, samples := [], acts := [], obs := .reset,
    obsHold := 0, loopsOn := false, paySel := 0, zones := [], scanned := [] }

/-- The block of a tag. -/
def ArmUnit.jsOf (u : ArmUnit) (tag : Nat) : Option JsBlock := u.js.find? (fun b => b.tag == tag)
def ArmUnit.ffOf (u : ArmUnit) (tag : Nat) : Option FfBlock := u.ff.find? (fun b => b.tag == tag)

/-- The sample of a tag, and the actual state of a period. -/
def ArmUnit.sampleOf (u : ArmUnit) (tag : Nat) : Option ArmSample := u.samples.find? (fun x => x.tag == tag)
def ArmUnit.actOf (u : ArmUnit) (n : Nat) : Option ArmActual := u.acts.find? (fun x => x.period == n)

/-- The servo period of a half beside its registers (R44 to R49): the smallest slack of the running period in ns with
its source, whether a required result was abandoned, what arms the slack-low event, the run of periods with slack to
spare, a governor result waiting for its boundary (tick and sigma per arm), the ticks without one, whether the
compute window of the period has opened, and the engine's result that is not yet complete: its period, the axes whose
torque is not yet in its SET frame buffer, and whether a SET frame started without one of them (R46). -/
structure ServoUnit where
  slack : Option (Int × Nat)
  abandoned : Option Nat
  lowArmed : Bool
  goodRun : Nat
  govResult : Option (Nat × List Nat)
  govLate : Nat
  cwOpen : Bool
  cePend : Option Nat
  ceLeft : List Nat
  ceLate : Bool
  deriving DecidableEq, Repr

def ServoUnit.reset : ServoUnit :=
  { slack := none, abandoned := none, lowArmed := true, goodRun := 0, govResult := none, govLate := 0, cwOpen := false, cePend := none, ceLeft := [],
    ceLate := false }

/-- An entry of the hoist table beside its register: the period from which it may start and the sync instant at which it
is to start (R99). -/
structure HoistUnit where
  goPeriod : Nat
  startK : Option Nat
  deriving DecidableEq, Repr

end Sys2Proof.Machine
end

