-- ==== Sys2Proof/Machine/StatePci.lean ====
section
/-! DEFINITION. State of the PCI Express endpoint beside its registers (R426 to R428). -/
namespace Sys2Proof.Machine

/-- One entry of the MSI-X table in BAR4: message address, message data and the mask bit. -/
structure MsixEntry where
  addr : Quad
  data : Word
  masked : Bool
  deriving DecidableEq, Repr

/-- The endpoint: whether the BARs are programmed, whether it is in D3hot, the MSI-X table, the function mask and the
pending-bit array, and how many messages have gone out with the last of them, and the last memory write
of an acquisition stream (host address and bytes), and the bytes that the last read request returned. -/
structure PciUnit where
  bars : Bool
  d3hot : Bool
  table : List MsixEntry
  fnMask : Bool
  pba : Nat
  sent : Nat
  last : Option (Quad × Word)
  dma : Option (Nat × List Byte)
  reply : List Byte
  deriving DecidableEq, Repr

/-- The endpoint at its reset. PCI Express resets every table entry masked. -/
def PciUnit.reset : PciUnit :=
  { bars := false, d3hot := false, table := List.replicate 64 ⟨0, 0, true⟩, fnMask := false, pba := 0, sent := 0,
    last := none, dma := none, reply := [] }

/-- Vector v asks for its message: sent where MSI-X is on and nothing masks it, else its pending bit is set. -/
def PciUnit.message (p : PciUnit) (on : Bool) (v : Nat) : PciUnit :=
  if !on then p
  else
    match p.table[v]? with
    | none => p
    | some t =>
      if t.masked || p.fnMask then { p with pba := p.pba ||| (1 <<< v) }
      else { p with sent := p.sent + 1, last := some (t.addr, t.data) }

end Sys2Proof.Machine
end

