-- ==== Sys2Proof/Machine/StateRings.lean ====
section
/-! DEFINITION. State of the drive rings of one half beside their registers (R256 to R292). -/
namespace Sys2Proof.Machine

/-- A ring frame (R261): header fields and body; the copy's CH bit stands apart. -/
structure RFrame where
  typ : Nat
  level : Nat
  epoch : Nat
  node : Nat
  seq : Nat
  chB : Bool
  body : List Byte
  deriving DecidableEq, Repr

/-- A node as its REPORT and REPLY frames gave it (R271, R277, R284): identity, MEASURE times, whether it reported and
acknowledged its CONFIG, the consecutive periods without an accepted REPLY, whether its margin event is armed, the
64-bit raw position of each axis since its first sample, and the toggles of its mailbox. -/
structure RingNode where
  devId : Nat
  serial : Nat
  sA : Nat
  sB : Nat
  reported : Bool
  acked : Bool
  miss : Nat
  armed : Bool
  pos : List (Option Int)
  txTog : Bool
  rxTog : Bool
  deriving DecidableEq, Repr

def RingNode.reset : RingNode :=
  { devId := 0, serial := 0, sA := 0, sB := 0, reported := false, acked := false, miss := 0, armed := true,
    pos := List.replicate 8 none, txTog := false, rxTog := false }

/-- An accepted REPLY copy of the present period (R258): node, slot, channel, arrival in ns from T_n, and the frame. -/
structure RingAcc where
  node : Nat
  slot : Nat
  chB : Bool
  at_ : Nat
  frame : RFrame
  deriving DecidableEq, Repr

/-- A mailbox message that awaits acknowledgement (R270): its node, bytes not yet acknowledged, length of the fragment
last sent, and how often that was sent. -/
structure MbxTx where
  node : Nat
  bytes : List Byte
  frag : Nat
  sends : Nat
  deriving DecidableEq, Repr

/-- A ring beside its registers: the step of its start (0 none, 1 links, 2 CLAIM, 3 ENUM, 4 MEASURE on A, 5 MEASURE on
B, 6 REQUEST, 7 CONFIG, 8 waiting for the sync instant, 9 cyclic), links at ends 1 and 2 and the faults cable diagnostics found there,
a backoff that runs, launch times of MEASURE, the nodes, the copies accepted this period, silent and good periods,
violations (period, node) per channel, periods without violation since a link returned, the mailbox message, the frame last
launched with its channel mask, the TB0 instant of the next automatic restart, the newest epoch seen, the SET with
HOLDUP_STOP sent, and a margin below 500 ns this period. -/
structure RingUnit where
  step : Nat
  link1 : Bool
  link2 : Bool
  cable1 : Bool
  cable2 : Bool
  backoff : Bool
  tA : Nat
  tB : Nat
  nodes : List RingNode
  acc : List RingAcc
  silent : Nat
  goodRun : Nat
  violA : List (Nat × Nat)
  violB : List (Nat × Nat)
  cleanA : Option Nat
  cleanB : Option Nat
  mbx : Option MbxTx
  last : Option (RFrame × Nat)
  retryAt : Option Nat
  seen : Option Nat
  finalSent : Bool
  lowMargin : Bool
  deriving DecidableEq, Repr

def RingUnit.reset : RingUnit :=
  { step := 0, link1 := false, link2 := false, cable1 := false, cable2 := false, backoff := false, tA := 0, tB := 0,
    nodes := List.replicate 24 .reset, acc := [], silent := 0, goodRun := 0, violA := [], violB := [], cleanA := none,
    cleanB := none, mbx := none, last := none, retryAt := none, seen := none, finalSent := false, lowMargin := false }

end Sys2Proof.Machine
end

