-- ==== Sys2Proof/Machine/StatePen.lean ====
section
/-! DEFINITION. State of the command pennant, the rack pennant, the mirror and the pair link beside their registers (R360 to
R376). -/
namespace Sys2Proof.Machine

/-- A mirror record (R360): its number, the half that built it, the TB0 instant at which it was built, the registers it carries by their offset in
a half view, and the state of the units it carries. -/
structure MirrorRec where
  num : Nat
  src : Half
  builtAt : Nat
  regs : List (Nat × Word)
  prf : List PrfUnit
  ce : List CeUnit
  arms : List ArmUnit
  hoists : List HoistUnit
  rings : List RingUnit
  time : TimeUnit
  deriving DecidableEq, Repr

/-- The record that the bytes of a MIRROR frame's fragments spell: R374 leaves their layout open. -/
opaque mirrorOf : List Byte → Option MirrorRec

/-- A swap that waits for its sync instant (R366): of the module or of the half, the cause it will show, and the first
period it may take. -/
structure SwapReq where
  modul : Bool
  cause : Nat
  due : Nat
  deriving DecidableEq, Repr

/-- A rehearsal in progress (R376): of the module or of the half, the half that was in charge, T_m, and its end on TB0. -/
structure RehRun where
  modul : Bool
  from_ : Half
  tm : Nat
  endAt : Nat
  deriving DecidableEq, Repr

/-- The arbiter and the pair link: per half (A, B) the period of its last heartbeat, the number of its newest complete
mirror record, the TB0 instant of its newest health report and the number of its next, whether its fatal temperature and
its temperature warning are spent; the place of the next report in MRAM; the mirror record sent and not yet replaced; the
fragments of the partner's record and the record they gave; a swap that waits; a rehearsal; the period from which the
active half owns the cell; the period in which a new side resumes; the period of a CLAIM with KEEP; a takeover whose
completion is not yet reported; per lane the TB0 instant of the last LINK frame; the image CRC of the last LINK frame;
the partner's health report with its TB0 instant; the last frame launched for the partner (ring, offset, bytes); the half
that held the command pennant before its last move, with the instant of the move on TB0 and on servo time. -/
structure PenUnit where
  beat : List (Option Nat)
  newest : List (Option Nat)
  hrAt : List (Option Nat)
  hrSeq : List Nat
  hot : List Bool
  warm : List Bool
  hrIdx : Nat
  sent : Option MirrorRec
  frags : Option (Nat × List (Nat × List Byte))
  peerRec : Option MirrorRec
  swap : Option SwapReq
  reh : Option RehRun
  ownedFrom : Nat
  takeAt : Option Nat
  claimAt : Option Nat
  finishing : Bool
  lastLink : List (Option Nat)
  peerCrc : Nat
  peerReport : Option (List Byte × Nat)
  relay : Option (Nat × Nat × List Byte)
  moved : Option (Half × Nat × Nat)
  deriving DecidableEq, Repr

def PenUnit.reset : PenUnit :=
  { beat := [none, none], newest := [none, none], hrAt := [none, none], hrSeq := [0, 0], hot := [false, false],
    warm := [false, false], hrIdx := 0, sent := none, frags := none, peerRec := none, swap := none, reh := none,
    ownedFrom := 0, takeAt := none, claimAt := none, finishing := false, lastLink := [none, none], peerCrc := 0,
    peerReport := none, relay := none, moved := none }

/-- The place of a half in a list of two. -/
def halfIdx : Half → Nat
  | .a => 0
  | .b => 1

end Sys2Proof.Machine
end

