-- ==== Sys2Proof/Machine/StateSolver.lean ====
section
/-! DEFINITION. State of the solver array of one half beside its registers (R138 to R167). -/
namespace Sys2Proof.Machine

/-- A descriptor in a channel's queue (R140): its DRAM offset, its 64 bytes as words, the problems of its batch that are
done, and its estimated steps. -/
structure SolverDesc where
  at_ : Nat
  words : List Word
  done : Nat
  steps : Nat
  deriving DecidableEq, Repr

/-- A channel (R141): its descriptors in order of submission, the index of the one whose problem runs, and whether its queue
also holds descriptors of the standby self-test (R167). -/
structure SolverCh where
  queue : List SolverDesc
  run : Option Nat
  selfTest : Bool
  deriving DecidableEq, Repr

/-- The factor in a sparse channel's factor memory (R162): the order of elimination, and in that order L below the diagonal and D on
it, column-major. -/
structure SparseFactor where
  order : List Nat
  f : List Nat
  deriving DecidableEq, Repr

/-- The array: its channels, the factor memories of channels 16 and 17, and the schedule loads in progress (channel 16 or 17,
slot, DRAM offset; R161). -/
structure SolverUnit where
  chs : List SolverCh
  facts : List (Option SparseFactor)
  loads : List (Nat × Nat × Nat)
  deriving DecidableEq, Repr

def SolverCh.reset : SolverCh := ⟨[], none, false⟩

def SolverUnit.reset : SolverUnit := { chs := List.replicate 18 .reset, facts := [none, none], loads := [] }

end Sys2Proof.Machine
end

