-- ==== Sys2Proof/Machine/State.lean ====
section
/-! DEFINITION. The state of the block, the faults and refusals of the model, and the state after reset. -/
namespace Sys2Proof.Machine

/-- Why a command stops the model with a fault. The spec names no failure that stops the block without leaving a
state: every error is a flag, an event or a state of a unit. No meaning raises the one fault. -/
inductive Fault where
  /-- Raised by no meaning; kept so that the type is inhabited. Safe. -/
  | none
  deriving DecidableEq, Repr

/-- Why a command has no meaning in the model. -/
inductive Refusal where
  /-- The command with this mnemonic has no meaning yet. Raised by exec's arms only. Safe: the machine stops. -/
  | notModelled (mnemonic : String)
  deriving DecidableEq, Repr

/-- A configuration image in use: its generation, whether it came from the host (R447), and the module's own copy of
its bytes (R438). -/
structure Image where
  gen : Nat
  host : Bool
  cells : List Host.Cell
  deriving DecidableEq, Repr

/-- An active-view access held while the command pennant moves (R25): the master, the address in the active view, the
bytes of the part (2 or 4), and the value of a write. -/
structure Held where
  m : Master
  addr : Nat
  bytes : Nat
  write : Option Word
  deriving DecidableEq, Repr

/-- One control half beside its registers and memories (R18). -/
structure HalfState where
  cores : List CoreUnit
  sched : SchedUnit
  time : TimeUnit
  prf : List PrfUnit
  ce : List CeUnit
  arms : List ArmUnit
  servo : ServoUnit
  hoists : List HoistUnit
  rings : List RingUnit
  solver : SolverUnit
  gov : GovUnit
  can : List CanCh
  acq : AcqUnit
  deriving DecidableEq, Repr

/-- A half at reset. -/
def HalfState.reset : HalfState :=
  { cores := List.replicate 24 .reset, sched := .reset, time := .reset, prf := List.replicate 128 .reset,
    ce := List.replicate 128 .reset, arms := List.replicate 16 .reset, servo := .reset,
    hoists := List.replicate 8 ⟨0, none⟩, rings := List.replicate 8 .reset, solver := .reset, gov := .reset, can := List.replicate 4 .reset, acq := .reset }

/-- The state of the block. -/
structure State where
  /-- The registers that hold a value other than by reset, by module address (R24): addresses strictly rising. -/
  regs : List (Nat × Word)
  /-- The memories of the block, by module address; the key and the learning SRAM stand above the 40-bit space. -/
  mem : List Host.Cell
  image : Option Image
  sect : Option (List Host.Cell)
  cfg : ModuleCfg
  sectCfg : SectionCfg
  isl : IslandUnit
  pen : PenUnit
  former : Option (Half × Nat)
  /-- The bus-off hold of each CAN transceiver (R393). -/
  canHold : List Bool
  /-- The halyard lines the module drives, one bit each (R425). -/
  hlDrive : Nat
  tb0 : Nat
  onMonitor : Bool
  halfA : HalfState
  halfB : HalfState
  pci : PciUnit
  boot : BootUnit
  bus : BusUnit
  hold : Bool
  held : List Held
  readData : List Quad
  freeIdx : Nat
  pending : List Instr
  deriving DecidableEq, Repr

/-- The state after reset. DESIGN CHOICE (log entries 2, 3). -/
def State.reset : State :=
  { regs := [], mem := [], image := none, sect := none, cfg := .none, sectCfg := .none, isl := .reset, pen := .reset, former := none,
    canHold := [false, false, false, false], hlDrive := 0,
    tb0 := 0, onMonitor := false,
    halfA := .reset, halfB := .reset, pci := .reset, boot := .reset, bus := .reset, hold := false, held := [], readData := List.replicate 52 0, freeIdx := 0, pending := [] }

end Sys2Proof.Machine
end

