-- ==== Sys2Proof/Machine/Ops.lean ====
section
/-! DEFINITION. The named operations over registers, memory, units, free values and time, on which every meaning rests. -/
namespace Sys2Proof.Machine

/-! Registers. -/

/-- The address under which the image describes a register of a half: that of Half A. DESIGN CHOICE (log entry 3). -/
def homeAddr (a : Nat) : Nat := if 0x1020000000 ≤ a ∧ a < 0x1030000000 then a - 0x10000000 else a

/-- What the image says of a register: RATES and GUARD of an arm start as its header says (R84), PAYLOAD_ACT as PAYLOAD_SEL.
DESIGN CHOICE (log entry 3). -/
def keyWord (cells : List (Nat × Byte)) (a : Nat) : Word :=
  let o := (a - ARM.addr .a 0) % 0x2000
  if ARM.addr .a 0 ≤ a ∧ a < ARM.addr .a 16 then
    if o = 8 then Config.keyRegister cells (a + 0x1C) <<< 3
    else Config.keyRegister cells (if o = 0x28 ∨ o = 0x2C then a + 0x83C else a)
  else Config.keyRegister cells a

/-- The value an unlisted register reads as: its Reset column (R11), with the fields that come from the configuration
image or from the loaded safety section, 0 before one is in use. DESIGN CHOICE (log entry 3). -/
def State.regReset (s : State) (a : Nat) : Word :=
  match regRowAt a with
  | none => 0
  | some r =>
    let w : Word := BitVec.ofNat 32 r.reset
    let k : Word :=
      if r.key = 0 then 0
      else match s.image with
        | none => 0
        | some img => keyWord img.cells (homeAddr a) &&& BitVec.ofNat 32 r.key
    let c : Word :=
      if r.sect = 0 then 0
      else match s.sect with
        | none => 0
        | some b => Config.sectionRegister b a &&& BitVec.ofNat 32 r.sect
    w ||| k ||| c

/-- The value of the register at module address a. -/
def State.word (s : State) (a : Nat) : Word :=
  match storeFind s.regs a with
  | some w => w
  | none => s.regReset a

/-- The register at module address a takes value w. -/
def State.setWord (s : State) (a : Nat) (w : Word) : State := { s with regs := storePut s.regs a w }

/-- The register at module address a, as a number. -/
def State.wordN (s : State) (a : Nat) : Nat := (s.word a).toNat

/-- Write a number, modulo 2^32. -/
def State.setWordN (s : State) (a v : Nat) : State := s.setWord a (BitVec.ofNat 32 v)

/-- The two-word quantity whose low word is at a (R5). -/
def State.quad (s : State) (a : Nat) : Nat := s.wordN a + 2 ^ 32 * s.wordN (a + 4)

/-- Write a two-word quantity, modulo 2^64. -/
def State.setQuad (s : State) (a v : Nat) : State :=
  (s.setWordN a v).setWordN (a + 4) (v / 2 ^ 32)

/-- A field of the block at base. A field with a bit above 31 lies in the quantity of two words. -/
def State.fld (s : State) (base : Nat) (f : Fld) : Nat :=
  if f.hi < 32 then bitsOf (s.wordN (base + f.off)) f.hi f.lo else bitsOf (s.quad (base + f.off)) f.hi f.lo

/-- A field takes value v (higher bits of v dropped); every other bit of the register stays. -/
def State.setFld (s : State) (base : Nat) (f : Fld) (v : Nat) : State :=
  if f.hi < 32 then s.setWordN (base + f.off) (setBits (s.wordN (base + f.off)) f.hi f.lo v)
  else s.setQuad (base + f.off) (setBits (s.quad (base + f.off)) f.hi f.lo v)

/-- A field read as a two's-complement number. -/
def State.fldS (s : State) (base : Nat) (f : Fld) : Int := toS (f.hi + 1 - f.lo) (s.fld base f)

/-- A field takes the two's-complement pattern of i. -/
def State.setFldS (s : State) (base : Nat) (f : Fld) (i : Int) : State :=
  s.setFld base f (ofS (f.hi + 1 - f.lo) i)

/-- A one-bit field as a Bool. -/
def State.flag (s : State) (base : Nat) (f : Fld) : Bool := decide (s.fld base f ≠ 0)

/-- Set a one-bit field. -/
def State.setFlag (s : State) (base : Nat) (f : Fld) : State := s.setFld base f 1

/-- A one-bit field takes b. -/
def State.putFlag (s : State) (base : Nat) (f : Fld) (b : Bool) : State := s.setFld base f (b2n b)

/-- Set a one-bit field where the condition holds. -/
def State.flagIf (s : State) (c : Bool) (base : Nat) (f : Fld) : State := if c then s.setFlag base f else s

/-- A counter that saturates at its field's largest value counts k. -/
def State.countBy (s : State) (base : Nat) (f : Fld) (k : Nat) : State :=
  s.setFld base f (Nat.min (s.fld base f + k) (2 ^ (f.hi + 1 - f.lo) - 1))

/-- A saturating counter counts one. -/
def State.count (s : State) (base : Nat) (f : Fld) : State := s.countBy base f 1

/-- A saturating counter counts one where the condition holds. -/
def State.countIf (s : State) (c : Bool) (base : Nat) (f : Fld) : State := if c then s.count base f else s

/-- The registers of [lo, lo + len) go back to their reset values (R11). -/
def State.resetRegs (s : State) (lo len : Nat) : State := { s with regs := storeClear s.regs lo len }

/-- Set bit i of the array of words whose first word is at a. -/
def State.setMapBit (s : State) (a i : Nat) (b : Bool) : State :=
  s.setWordN (a + i / 32 * 4) (setBit (s.wordN (a + i / 32 * 4)) (i % 32) b)

/-- Bit i of the array of words whose first word is at a. -/
def State.mapBit (s : State) (a i : Nat) : Bool := bitOf (s.wordN (a + i / 32 * 4)) (i % 32)

/-! Memory: bytes, little-endian words; an unlisted byte reads as 0. -/

/-- One byte of memory. DESIGN CHOICE (log entry 2). -/
def State.byte (s : State) (a : Nat) : Byte := storeGet 0 s.mem a

/-- Store one byte. -/
def State.setByte (s : State) (a : Nat) (v : Byte) : State := { s with mem := storeSet 0 s.mem a v }

/-- The little-endian word at a. -/
def State.memWord (s : State) (a : Nat) : Word :=
  s.byte (a + 3) ++ s.byte (a + 2) ++ s.byte (a + 1) ++ s.byte a

/-- Store a little-endian word. -/
def State.setMemWord (s : State) (a : Nat) (w : Word) : State :=
  (((s.setByte a (w.extractLsb' 0 8)).setByte (a + 1) (w.extractLsb' 8 8)).setByte (a + 2) (w.extractLsb' 16 8)).setByte
    (a + 3) (w.extractLsb' 24 8)

/-- The word at a as a number. -/
def State.memN (s : State) (a : Nat) : Nat := (s.memWord a).toNat

/-- Store a number as a word, modulo 2^32. -/
def State.setMemN (s : State) (a v : Nat) : State := s.setMemWord a (BitVec.ofNat 32 v)

/-- The 64-bit little-endian quantity at a. -/
def State.memQuad (s : State) (a : Nat) : Nat := s.memN a + 2 ^ 32 * s.memN (a + 4)

/-- Store a 64-bit quantity. -/
def State.setMemQuad (s : State) (a v : Nat) : State := (s.setMemN a v).setMemN (a + 4) (v / 2 ^ 32)

/-- n words from a on. -/
def State.memWords (s : State) (a : Nat) : Nat → List Word
  | 0 => []
  | n + 1 => s.memWord a :: State.memWords s (a + 4) n

/-- Store words from a on. -/
def State.setMemWords (s : State) (a : Nat) : List Word → State
  | [] => s
  | w :: t => State.setMemWords (s.setMemWord a w) (a + 4) t

/-- n bytes from a on. -/
def State.memBytes (s : State) (a : Nat) : Nat → List Byte
  | 0 => []
  | n + 1 => s.byte a :: State.memBytes s (a + 1) n

/-- Store bytes from a on. -/
def State.setMemBytes (s : State) (a : Nat) : List Byte → State
  | [] => s
  | v :: t => State.setMemBytes (s.setByte a v) (a + 1) t

/-- The registers from a on take the words of the list. -/
def State.setWords (s : State) (a : Nat) : List Word → State
  | [] => s
  | w :: t => State.setWords (s.setWord a w) (a + 4) t

/-- n registers from a on. -/
def State.words (s : State) (a : Nat) : Nat → List Word
  | 0 => []
  | n + 1 => s.word a :: State.words s (a + 4) n

/-! Halves and their units. -/

/-- The byte address of an offset in the DRAM of a half, in its own view. -/
def dramAddr (h : Half) (off : Nat) : Nat := (match h with | .a => 0 | .b => 0x80000000) + off

/-- A half. -/
def State.half (s : State) (h : Half) : HalfState :=
  match h with
  | .a => s.halfA
  | .b => s.halfB

/-- A half takes a new value. -/
def State.setHalf (s : State) (h : Half) (x : HalfState) : State :=
  match h with
  | .a => { s with halfA := x }
  | .b => { s with halfB := x }

/-- Change a half. -/
def State.onHalf (s : State) (h : Half) (f : HalfState → HalfState) : State := s.setHalf h (f (s.half h))

/-- Element i of a list of units; x where there is none. -/
def unitAt {α : Type} (x : α) (l : List α) (i : Nat) : α := l.getD i x

/-- A core. -/
def State.core (s : State) (h : Half) (k : Nat) : CoreUnit := unitAt .reset (s.half h).cores k

/-- A core takes a new value. -/
def State.setCore (s : State) (h : Half) (k : Nat) (c : CoreUnit) : State :=
  s.onHalf h (fun x => { x with cores := x.cores.set k c })

/-- The scheduler of a half. -/
def State.sched (s : State) (h : Half) : SchedUnit := (s.half h).sched

/-- The scheduler of a half takes a new value. -/
def State.setSched (s : State) (h : Half) (u : SchedUnit) : State := s.onHalf h (fun x => { x with sched := u })

/-- The time unit of a half. -/
def State.time (s : State) (h : Half) : TimeUnit := (s.half h).time

/-- The time unit of a half takes a new value. -/
def State.setTime (s : State) (h : Half) (u : TimeUnit) : State := s.onHalf h (fun x => { x with time := u })

/-- A profile unit. -/
def State.prf (s : State) (h : Half) (k : Nat) : PrfUnit := unitAt .reset (s.half h).prf k

/-- A profile unit takes a new value. -/
def State.setPrf (s : State) (h : Half) (k : Nat) (c : PrfUnit) : State :=
  s.onHalf h (fun x => { x with prf := x.prf.set k c })

/-- An axis of the control engine. -/
def State.ce (s : State) (h : Half) (k : Nat) : CeUnit := unitAt .reset (s.half h).ce k

/-- An axis of the control engine takes a new value. -/
def State.setCe (s : State) (h : Half) (k : Nat) (c : CeUnit) : State :=
  s.onHalf h (fun x => { x with ce := x.ce.set k c })

/-- An arm. -/
def State.arm (s : State) (h : Half) (k : Nat) : ArmUnit := unitAt .reset (s.half h).arms k

/-- An arm takes a new value. -/
def State.setArm (s : State) (h : Half) (k : Nat) (c : ArmUnit) : State :=
  s.onHalf h (fun x => { x with arms := x.arms.set k c })

/-- A hoist table entry. -/
def State.hoist (s : State) (h : Half) (k : Nat) : HoistUnit := unitAt ⟨0, none⟩ (s.half h).hoists k

/-- A hoist table entry takes a new value. -/
def State.setHoist (s : State) (h : Half) (k : Nat) (c : HoistUnit) : State :=
  s.onHalf h (fun x => { x with hoists := x.hoists.set k c })

/-- The servo period of a half. -/
def State.servo (s : State) (h : Half) : ServoUnit := (s.half h).servo

/-- The servo period of a half takes a new value. -/
def State.setServo (s : State) (h : Half) (u : ServoUnit) : State := s.onHalf h (fun x => { x with servo := u })

/-- A ring. -/
def State.ring (s : State) (h : Half) (r : Nat) : RingUnit := unitAt .reset (s.half h).rings r

/-- A ring takes a new value. -/
def State.setRing (s : State) (h : Half) (r : Nat) (x : RingUnit) : State :=
  s.onHalf h (fun y => { y with rings := y.rings.set r x })

/-- The solver array. -/
def State.solver (s : State) (h : Half) : SolverUnit := (s.half h).solver

/-- The solver array takes a new value. -/
def State.setSolver (s : State) (h : Half) (x : SolverUnit) : State := s.onHalf h (fun y => { y with solver := x })

/-- The coordination governor. -/
def State.gov (s : State) (h : Half) : GovUnit := (s.half h).gov

/-- The coordination governor takes a new value. -/
def State.setGov (s : State) (h : Half) (x : GovUnit) : State := s.onHalf h (fun y => { y with gov := x })

/-- A CAN channel. -/
def State.can (s : State) (h : Half) (c : Nat) : CanCh := unitAt .reset (s.half h).can c

/-- A CAN channel takes a new value. -/
def State.setCan (s : State) (h : Half) (c : Nat) (x : CanCh) : State := s.onHalf h (fun y => { y with can := y.can.set c x })

/-- The acquisition engine. -/
def State.acq (s : State) (h : Half) : AcqUnit := (s.half h).acq

/-- The acquisition engine takes a new value. -/
def State.setAcq (s : State) (h : Half) (x : AcqUnit) : State := s.onHalf h (fun y => { y with acq := x })

/-- The island takes a new value. -/
def State.setIsl (s : State) (x : IslandUnit) : State := { s with isl := x }

/-- A safe connection. -/
def State.conn (s : State) (c : Nat) : ConnRun := unitAt .reset s.isl.conns c

/-- A safe connection takes a new value. -/
def State.setConn (s : State) (c : Nat) (x : ConnRun) : State := s.setIsl { s.isl with conns := s.isl.conns.set c x }

/-- A safe connection's parameters. -/
def State.connCfg (s : State) (c : Nat) : ConnCfg := s.sectCfg.conns.getD c default

/-- The half that holds the command pennant, none while no half does (R24, R366). -/
def State.activeHalf (s : State) : Option Half :=
  if s.flag PEN.addr PEN.CMD_VALID then (if s.flag PEN.addr PEN.CMD_HOLDER then some .b else some .a) else none

/-- The module runs its cell alone: no pair is strapped, or the pairing is refused (R369). DEDUCED (log entry 112). -/
def State.unpaired (s : State) : Bool :=
  let x := s.fld PEN.addr PEN.P_STATE
  decide (x = 0 ∨ x = 3 ∨ x = 4 ∨ x = 5)

/-- The half is in charge of the cell: it holds the command pennant, and in a pair its module holds the rack pennant
(R18, R370). -/
def State.inCharge (s : State) (h : Half) : Bool :=
  decide (s.activeHalf = some h) && (s.unpaired || s.flag PEN.addr PEN.RACK_HELD)

/-- The half a view names: the active view is resolved when the access is accepted (R25). -/
def State.viewHalf (s : State) (v : View) : Option Half :=
  match v with
  | .active => s.activeHalf
  | .a => some .a
  | .b => some .b

/-! Free values and data returned to a master. -/

/-- A free value is taken: the spec states none. DESIGN CHOICE (log entry 4). -/
def State.takeFree (s : State) : Quad × State := (Config.freeValue s.freeIdx, { s with freeIdx := s.freeIdx + 1 })

/-- n free bytes. DESIGN CHOICE (log entry 4). -/
def freeBytes (s : State) : Nat → List Byte × State
  | 0 => ([], s)
  | n + 1 =>
    let (v, s) := s.takeFree
    let (l, s) := freeBytes s n
    (v.setWidth 8 :: l, s)

/-- The number of a master's port. -/
def masterPort : Master → Nat
  | .k16 => 0
  | .k32 => 1
  | .pcie => 2
  | .service => 3
  | .core .a k => 4 + k.val
  | .core .b k => 28 + k.val

/-- What a master's read returned. -/
def State.answer (s : State) (m : Master) (v : Quad) : State := { s with readData := s.readData.set (masterPort m) v }

/-! Time. -/

/-- One nanosecond in the unit of a time base's value (2^-48 ns). -/
def tbUnit : Nat := 2 ^ 48

/-- A time base after dt ns of TB0 (R341). DESIGN CHOICE (log entry 1). -/
def TimeBase.advance (b : TimeBase) (dt : Nat) : TimeBase :=
  { b with val := ((b.val : Int) + (dt : Int) * ((tbUnit : Int) + b.rate)).toNat }

/-- The steered bases of a half after dt ns of TB0. -/
def TimeUnit.advance (u : TimeUnit) (dt : Nat) : TimeUnit :=
  { u with tb1 := u.tb1.advance dt, tb2 := u.tb2.advance dt, tb3 := u.tb3.advance dt }

/-- dt ns pass on the reference oscillator, which both time units count (R340), and on channel Y's crystal, from which the
island takes its times (R28). DESIGN CHOICE (log entries 1, 114). -/
def State.passTime (s : State) (dt : Nat) : State :=
  { s with tb0 := s.tb0 + dt, isl := { s.isl with clk := s.isl.clk + dt },
           halfA := { s.halfA with time := s.halfA.time.advance dt },
           halfB := { s.halfB with time := s.halfB.time.advance dt } }

/-- Whole nanoseconds of a time base. -/
def TimeBase.ns (b : TimeBase) : Nat := b.val / tbUnit

/-- Servo time of a half, in ns since the TB3 epoch. -/
def State.servoNow (s : State) (h : Half) : Nat := (s.time h).tb3.ns

/-- The servo period in ns (R356). -/
def State.periodNs (s : State) (h : Half) : Nat := 62500 * 2 ^ s.fld (SYS.addr h) SYS.PERIOD

/-- The number of the present period (R35). -/
def State.periodNum (s : State) (h : Half) : Nat := s.quad (SYS.addr h + 0x108)

end Sys2Proof.Machine
end

