-- ==== Sys2Proof/Machine/RingFrame.lean ====
section
/-! DEFINITION. Byte strings, and the frames of the drive rings on the wire (R261, R262). -/
namespace Sys2Proof.Machine

/-- The n bytes of x, least significant first. -/
def leBytes : Nat → Nat → List Byte
  | 0, _ => []
  | n + 1, x => BitVec.ofNat 8 x :: leBytes n (x / 256)

/-- The number a byte string spells, least significant byte first. -/
def leVal : List Byte → Nat
  | [] => 0
  | b :: t => b.toNat + 256 * leVal t

/-- The number in n bytes at an offset. -/
def bytesAt (l : List Byte) (off n : Nat) : Nat := leVal ((l.drop off).take n)

/-- n bytes of 0. -/
def zeros (n : Nat) : List Byte := List.replicate n 0

/-- The header of a frame as the integer H. -/
def RFrame.header (f : RFrame) : Nat :=
  f.typ % 16 + f.level % 4 * 2 ^ 4 + f.epoch % 256 * 2 ^ 6 + f.node % 32 * 2 ^ 14 + f.seq % 256 * 2 ^ 19 +
    f.body.length % 2048 * 2 ^ 27 + b2n f.chB * 2 ^ 38

/-- A frame's bytes between the delimiters: header, body, CRC-32. -/
def RFrame.bytes (f : RFrame) : List Byte :=
  let x := leBytes 5 f.header ++ f.body
  x ++ leBytes 4 (crc32 x)

/-- Reserved bits of a body the module receives are 0. DEDUCED (log entry 52). -/
def bodyReservedOk (typ : Nat) (b : List Byte) : Bool :=
  if typ = 2 then
    decide (bytesAt b 0 1 < 64 ∧ bytesAt b 1 1 < 64 ∧ bytesAt b 0x1C 2 < 2 ^ 14 ∧ bytesAt b 0x2C 2 < 2 ^ 14)
  else if typ = 4 then decide (bytesAt b 0 1 < 8 ∧ bytesAt b 1 1 = 0)
  else true

/-- The frame that received bytes spell; none where it is invalid (R262). DEDUCED (log entry 52). -/
def parseFrame (l : List Byte) : Option RFrame :=
  let hd := bytesAt l 0 5
  let body := (l.drop 5).take (l.length - 9)
  let typ := bitsOf hd 3 0
  let lev := bitsOf hd 5 4
  if l.length < 9 then none
  else if bytesAt l (l.length - 4) 4 ≠ crc32 (l.take (l.length - 4)) then none
  else if 7 ≤ typ ∨ lev = 0 ∨ lev = 3 then none
  else if bitsOf hd 37 27 ≠ body.length then none
  else if bitOf hd 39 ∨ bodyReservedOk typ body = false then none
  else some { typ := typ, level := lev, epoch := bitsOf hd 13 6, node := bitsOf hd 18 14, seq := bitsOf hd 26 19,
              chB := bitOf hd 38, body := body }

end Sys2Proof.Machine
end

