-- ==== Sys2Proof/Machine/AcqTrig.lean ====
section
/-! DEFINITION. Triggers of acquisition records (R399 to R401, R403): which records a trigger selects, what it does to each.
Nothing here raises an event; a missed trigger leaves a mark for the caller. -/
namespace Sys2Proof.Machine

/-- D of a record. -/
def recDecim (s : State) (h : Half) (r : Nat) : Nat := s.fld (REC.addr h r) REC.DECIM + 1

/-- Record r is selected by a trigger of a source and selector. -/
def acqSelects (s : State) (h : Half) (src sel : Nat) (r : Nat) : Bool :=
  let b := REC.addr h r
  decide (s.fld b REC.SRC = src) && (decide (src < 3) || decide (s.fld b REC.SEL = sel))

/-- An edge a record selects: 0 rising, 1 falling, 2 either. -/
def edgeSelected (s : State) (h : Half) (rising : Bool) (r : Nat) : Bool :=
  match s.fld (REC.addr h r) REC.EDGE with
  | 0 => rising
  | 1 => !rising
  | _ => true

/-- The module drives halyard lines (R425): the pulse begins. -/
def hlDriveOn (s : State) (mask : Nat) : State := { s with hlDrive := s.hlDrive ||| mask % 256 }

/-- The remote trigger message of a record (R401): 24 bytes. -/
def remoteMessage (s : State) (h : Half) (id stamp : Nat) : List Byte :=
  leBytes 2 1 ++ leBytes 2 (s.fld MOD.addr MOD.NUM) ++ leBytes 2 id ++ leBytes 2 (s.acq h).seq ++ leBytes 8 stamp ++ zeros 8

/-- A record triggers: the trigger row, the drive of a halyard line, the remote message. Servo time is not shared by a
module that R358 excludes, which sends none. -/
def acqCapture (s : State) (h : Half) (x : AcqRec) (t src : Nat) (forced : Bool) : AcqRec × State :=
  let b := REC.addr h x.num
  let keep := s.fld b REC.PRE + s.fld b REC.LATE_ROWS
  let y := { x with trig := some (t, src, forced), row := (t / s.periodNs h - x.a) / recDecim s h x.num, oldest := x.done - keep }
  let s := s.setFld b REC.R_STATE 3
  let s := if s.flag b REC.HL_DRIVE then hlDriveOn s (2 ^ s.fld b REC.HL_LINE) else s
  let id := s.fld b REC.SEND_ID
  let apart := decide (s.fld (TB3X.addr h) TB3X.STATE = 3) || decide (1000 < (s.fldS (TB.addr h 3) TB.LAST_OFS).natAbs)
  let s := if id ≠ 0 ∧ !apart then
      s.setAcq h { s.acq h with sent := some (remoteMessage s h id t), seq := ((s.acq h).seq + 1) % 65536 }
    else s
  (y, s)

/-- A missed trigger: counted and put at the head of the log. -/
def acqMissed (s : State) (h : Half) (r t src : Nat) : State :=
  let b := ACQ.addr h
  let old := s.words (b + 0x40) 60
  let s := s.setWords (b + 0x40) ([BitVec.ofNat 32 t, BitVec.ofNat 32 (t / 2 ^ 32), BitVec.ofNat 32 (r + src * 256), 0] ++ old)
  let s := s.count b ACQ.MISSED_TRIG
  s.setAcq h { s.acq h with miss := true }

/-- A trigger reaches one live record (R400, R403). -/
def acqDeliver (s : State) (h : Half) (x : AcqRec) (t src : Nat) (forced : Bool) : AcqRec × State :=
  let st := s.fld (REC.addr h x.num) REC.R_STATE
  let p := s.periodNs h
  if st = 5 ∨ t < x.a * p then
    match x.after with
    | none => (x, s)
    | some e => if e ≤ t ∧ !forced then (x, acqMissed s h x.num t src) else (x, s)
  else if st = 3 then ({ x with extra := Nat.min 255 (x.extra + 1) }, s)
  else if (match x.disarm with | none => false | some d => decide (d ≤ t)) then (x, s)
  else if s.periodNum h < t / p then ({ x with held := x.held ++ [(t, src, forced)] }, s)
  else acqCapture s h x t src forced

/-- A trigger reaches every live record that a predicate names. -/
def acqFireL (h : Half) (sel : Nat → Bool) (t src : Nat) (forced : Bool) : List AcqRec → State → List AcqRec × State
  | [], s => ([], s)
  | x :: l, s =>
    let (y, s) := if sel x.num then acqDeliver s h x t src forced else (x, s)
    let (l, s) := acqFireL h sel t src forced l s
    (y :: l, s)

/-- A trigger with its stamp and source. DEDUCED (log entry 80). -/
def acqFire (s : State) (h : Half) (sel : Nat → Bool) (t src : Nat) (forced : Bool) : State :=
  let (l, s) := acqFireL h sel t src forced (s.acq h).recs s
  s.setAcq h { s.acq h with recs := l }

end Sys2Proof.Machine
end

