-- ==== Sys2Proof/Machine/Sched.lean ====
section
/-! DEFINITION. The work scheduler and the event controller (R324 to R337): release, choice, placing and start of work items,
the decision trace, and raising an event. -/
namespace Sys2Proof.Machine

/-! Descriptors and released items. -/

/-- The group of a descriptor. -/
def itemGroup (s : State) (h : Half) (i : Nat) : Nat := s.fld (DESC.addr h i) DESC.GROUP

/-- The cores a descriptor names. -/
def itemAffinity (s : State) (h : Half) (i : Nat) : Nat := s.fld (DESC.addr h i) DESC.AFFINITY

/-- URGENT of a descriptor. -/
def itemUrgent (s : State) (h : Half) (i : Nat) : Bool := s.flag (DESC.addr h i) DESC.URGENT

/-- The words of the argument block to prefetch, at most 128. -/
def itemArgs (s : State) (h : Half) (i : Nat) : Nat := Nat.min (s.fld (DESC.addr h i) DESC.ARG_WORDS) 128

/-- The released item with a number. -/
def SchedUnit.find (u : SchedUnit) (i : Nat) : Option LiveItem := u.live.find? (fun x => x.num == i)

/-- Change the released item with a number. -/
def SchedUnit.modItem (u : SchedUnit) (i : Nat) (f : LiveItem → LiveItem) : SchedUnit :=
  { u with live := u.live.map (fun x => if x.num = i then f x else x) }

/-- The item with a number is idle again. -/
def SchedUnit.dropItem (u : SchedUnit) (i : Nat) : SchedUnit :=
  { u with live := u.live.filter (fun x => x.num != i), urgent := u.urgent.filter (fun x => x != i) }

/-- D_STATE as a number (R324). -/
def ItemSt.code : ItemSt → Nat
  | .ready => 1
  | .nextSlot _ => 2
  | .running _ => 3
  | .reposted _ => 4

/-- D_STATE of a descriptor. -/
def itemState (s : State) (h : Half) (i : Nat) : Nat :=
  match (s.sched h).find i with
  | none => 0
  | some x => x.st.code

/-- One entry of the decision trace (R334), unless the trace is frozen or has written its last 256 entries. -/
def traceEntry (s : State) (h : Half) (item core reason detail : Nat) : State :=
  if s.flag (SCHED.addr h) SCHED.FROZEN ∨ (s.sched h).freezeLeft = some 0 then s
  else
    let j := s.fld (SCHED.addr h) SCHED.WR_IDX
    let b := TRC.addr h j
    let s := s.setQuad b (s.servoNow h)
    let s := s.setWordN (b + 8) (item % 4096 + itemGroup s h item * 2 ^ 12 + core * 2 ^ 16 + reason * 2 ^ 24)
    let s := s.setWordN (b + 12) detail
    let s := s.setFld (SCHED.addr h) SCHED.WR_IDX (j + 1)
    match (s.sched h).freezeLeft with
    | none => s
    | some n => s.setSched h { s.sched h with freezeLeft := some (n - 1) }

/-- The core number of a trace entry that names no core. -/
def noCore : Nat := 31

/-! Choosing an item (R328, R329). -/

/-- x comes before y in its list: displaced ones first, then the earlier deadline, items without one last, then the
order of release. DEDUCED (log entry 19). -/
def LiveItem.before (x y : LiveItem) : Bool :=
  if x.front && !y.front then true
  else if y.front && !x.front then false
  else match x.deadline, y.deadline with
    | some a, some b => if a = b then decide (x.seq < y.seq) else decide (a < b)
    | some _, none => true
    | none, some _ => false
    | none, none => decide (x.seq < y.seq)

/-- The first item of a list in the order of its group. -/
def firstItem : List LiveItem → Option LiveItem
  | [] => none
  | x :: t =>
    match firstItem t with
    | none => some x
    | some y => if y.before x then some y else some x

/-- The ready items of group g, not urgent, that may run on core k. -/
def readyFor (s : State) (h : Half) (g k : Nat) : List LiveItem :=
  (s.sched h).live.filter (fun x =>
    decide (x.st = .ready) && !itemUrgent s h x.num && decide (itemGroup s h x.num = g) && bitOf (itemAffinity s h x.num) k)

/-- W_g of a group, 1 to 15; 0 counts as 1. -/
def groupWeight (s : State) (h : Half) (g : Nat) : Nat :=
  Nat.max 1 (s.fld (SCHED.addr h) (SCHED.WEIGHT.nth (g - 1)))

/-- The groups 1 to 15 in turn from the pointer. -/
def groupsFrom (p : Nat) : List Nat := (List.range 15).map (fun j => (p - 1 + j) % 15 + 1)

/-- What one turn of the groups finds: per group, its number and, where it holds an item for the core, that item and
the visits that add credit before its estimate fits its deficit. -/
def drrNeeds (s : State) (h : Half) (k : Nat) : List (Nat × Option (LiveItem × Nat)) :=
  (groupsFrom (s.sched h).pointer).map (fun g =>
    (g, (firstItem (readyFor s h g k)).map (fun x =>
      let est := s.fld (DESC.addr h x.num) DESC.EST_RUN
      let df := (s.sched h).deficits.getD (g - 1) 0
      (x, divCeil (est - df) (groupWeight s h g * 1024)))))

/-- The fewest credit visits any group needs. -/
def drrRounds : List (Nat × Option (LiveItem × Nat)) → Option Nat
  | [] => none
  | (_, none) :: t => drrRounds t
  | (_, some (_, n)) :: t =>
    match drrRounds t with
    | none => some n
    | some m => some (Nat.min n m)

/-- The first group in turn that needs r visits. DEDUCED (log entry 19). -/
def drrPick (r : Nat) : List (Nat × Option (LiveItem × Nat)) → Option (Nat × LiveItem)
  | [] => none
  | (_, none) :: t => drrPick r t
  | (g, some (x, n)) :: t => if n = r then some (g, x) else drrPick r t

/-- The deficits after the visits: seen says that the chosen group has been passed in the last turn. A group with an
item gains its credit once per visit; a visited group without one loses its deficit; the chosen one pays. -/
def drrDeficits (s : State) (h : Half) (r gc est : Nat) :
    Bool → List (Nat × Option (LiveItem × Nat)) → List Nat → List Nat
  | _, [], df => df
  | seen, (g, o) :: t, df =>
    let old := df.getD (g - 1) 0
    let credit := groupWeight s h g * 1024
    let new :=
      match o with
      | none => if seen && decide (r = 0) then old else 0
      | some _ =>
        if g = gc then old + r * credit - est
        else if seen then old + r * credit else old + (r + 1) * credit
    drrDeficits s h r gc est (seen || decide (g = gc)) t (df.set (g - 1) new)

/-- Deficit round-robin over groups 1 to 15 (R329), the loop's visits counted instead of repeated. -/
def chooseDrr (s : State) (h : Half) (k : Nat) : Option (Nat × State) :=
  let needs := drrNeeds s h k
  match drrRounds needs with
  | none => none
  | some r =>
    match drrPick r needs with
    | none => none
    | some (g, x) =>
      let u := s.sched h
      let est := s.fld (DESC.addr h x.num) DESC.EST_RUN
      some (x.num, s.setSched h { u with deficits := drrDeficits s h r g est false needs u.deficits, pointer := g })

/-- The next item for core k by R328, the urgent list left out: group 0 by deadline, then the weighted groups.
DEDUCED (log entry 19). -/
def chooseItem (s : State) (h : Half) (k : Nat) : Option (Nat × State) :=
  match firstItem (readyFor s h 0 k) with
  | some x => some (x.num, s)
  | none => chooseDrr s h k

/-! Placing and starting. -/

/-- The X word index of an argument area (R296). -/
def areaIndex (area : Bool) : Nat := if area then 0x3F80 else 0x3F00

/-- Core k starts an item (R314). ready: its arguments have been prefetched; otherwise the core waits for the copy. -/
def startItem (s : State) (h : Half) (k i : Nat) (area ready : Bool) : State :=
  let c := s.core h k
  let b := DESC.addr h i
  let ptr := s.fld b DESC.ARG_PTR
  let now := s.servoNow h
  let dl := ((s.sched h).find i).bind (fun x => x.deadline)
  let d := ((c.d.set 0 (BitVec.ofNat 32 ptr)).set 1 (BitVec.ofNat 32 (ptr / 2 ^ 32))).set 2 (BitVec.ofNat 32 i)
  let c := { c with
    d := d, p := c.p.set 11 (areaIndex area), pc := s.fld b DESC.ENTRY, rb := 0, lc := 0,
    stat := setBit (setBit (setBits (setBits c.stat 9 4 0) 14 10 0) 15 true) 16 false,
    item := some i, area := area, slots := 0, inFlight := [], xfers := [],
    stall := if ready then .none else .args, nextItem := none, nextReady := false }
  let s := s.setCore h k c
  let s := s.setSched h ((s.sched h).modItem i (fun x =>
    { x with st := .running k, front := false,
             startedLate := match x.deadline with | none => false | some t => decide (t < now) }))
  traceEntry s h i k 3 ((dl.getD 0) % 2 ^ 32)

/-- An item enters the next slot of core k (R331). -/
def placeNext (s : State) (h : Half) (k i : Nat) : State :=
  let c := s.core h k
  let s := s.setCore h k { c with nextItem := some i, nextReady := decide (itemArgs s h i = 0) }
  let s := s.setSched h ((s.sched h).modItem i (fun x => { x with st := .nextSlot k }))
  let g := itemGroup s h i
  traceEntry s h i k 2 (if g = 0 then 0 else (s.sched h).deficits.getD (g - 1) 0)

/-- A core without an item that can be given one. -/
def CoreUnit.idle (c : CoreUnit) : Bool :=
  c.item.isNone && c.urgItem.isNone && c.urgPend.isNone && !c.halted

/-- A core that can take an urgent interrupt at its slot boundary (R318): IE set, no delay slot pending, no far access
stalled, not at the end of its item. -/
def CoreUnit.canInterrupt (c : CoreUnit) : Bool :=
  bitOf c.stat 15 && c.xfers.isEmpty && !c.halted && c.urgItem.isNone && c.urgPend.isNone &&
    c.far.isNone && (match c.stall with
     | .ending _ => false
     | _ => true)

/-- The deadline of the item a core runs, as large as possible where it has none. -/
def coreDeadline (s : State) (h : Half) (k : Nat) : Nat :=
  match (s.core h k).item with
  | none => 2 ^ 64
  | some i =>
    match (s.sched h).find i with
    | none => 2 ^ 64
    | some x => x.deadline.getD (2 ^ 64)

/-- Among cores that run a group 0 item, the one with the latest deadline. -/
def latestCore (s : State) (h : Half) : List Nat → Option Nat
  | [] => none
  | k :: t =>
    match latestCore s h t with
    | none => some k
    | some j => if coreDeadline s h k < coreDeadline s h j then some j else some k

/-- The core an urgent item goes to (R330), if any. -/
def urgentCore (s : State) (h : Half) (i : Nat) : Option Nat :=
  let ks := (List.range 24).filter (fun k => bitOf (itemAffinity s h i) k)
  let grp := fun k => match (s.core h k).item with | none => 16 | some j => itemGroup s h j
  match ks.find? (fun k => (s.core h k).idle) with
  | some k => some k
  | none =>
    match ks.find? (fun k => (s.core h k).canInterrupt && decide (1 ≤ grp k ∧ grp k ≤ 15)) with
    | some k => some k
    | none => latestCore s h (ks.filter (fun k => (s.core h k).canInterrupt && decide (grp k = 0)))

/-- The urgent list is given to cores in order of release as far as R330 finds one for each. -/
def giveUrgent (s : State) (h : Half) : List Nat → State
  | [] => s
  | i :: t =>
    match urgentCore s h i with
    | none => giveUrgent s h t
    | some k =>
      let s := s.setCore h k { s.core h k with urgPend := some i }
      let s := s.setSched h { s.sched h with urgent := (s.sched h).urgent.filter (fun x => x != i) }
      giveUrgent s h t

/-- An idle core starts the next item; it waits for its arguments where it has any. -/
def fillIdle (s : State) (h : Half) (k : Nat) : State :=
  if (s.core h k).idle then
    match chooseItem s h k with
    | none => s
    | some (i, s) => startItem s h k i (!(s.core h k).area) (decide (itemArgs s h i = 0))
  else s

/-- A core that runs an item and whose next slot is empty gets one for it. -/
def fillNext (s : State) (h : Half) (k : Nat) : State :=
  let c := s.core h k
  if c.item.isSome && c.nextItem.isNone then
    match chooseItem s h k with
    | none => s
    | some (i, s) => placeNext s h k i
  else s

/-- The scheduler gives out every item it can: urgent ones first, then idle cores, then next slots, in the order of
the core numbers. -/
def scheduleAll (s : State) (h : Half) : State :=
  let s := giveUrgent s h (s.sched h).urgent
  let s := (List.range 24).foldl (fun s k => fillIdle s h k) s
  (List.range 24).foldl (fun s k => fillNext s h k) s

/-- A group 0 item that no core can take displaces a next-slot item of groups 1 to 15 (R332). -/
def displace (s : State) (h : Half) (i : Nat) : State :=
  let victim := fun k => match (s.core h k).nextItem with
    | none => false
    | some j => decide (itemGroup s h j ≠ 0)
  match ((List.range 24).filter (fun k => bitOf (itemAffinity s h i) k)).find? victim with
  | none => s
  | some k =>
    match (s.core h k).nextItem with
    | none => s
    | some j =>
      let g := itemGroup s h j
      let u := (s.sched h).modItem j (fun x => { x with st := .ready, front := true })
      let est := s.fld (DESC.addr h j) DESC.EST_RUN
      let s := s.setSched h { u with deficits := u.deficits.set (g - 1) (u.deficits.getD (g - 1) 0 + est) }
      let s := traceEntry s h j k 7 i
      placeNext s h k i

/-! Posting (R326, R327). -/

/-- The cause of a release in the trace: a post by write, a release by the module. -/
def causeWrite : Nat := 0xFFFF
def causeModule : Nat := 0xFFFE

/-- An idle item is released at instant at, with a deadline on servo time, and given out. -/
def releaseItem (s : State) (h : Half) (i at_ : Nat) (deadline : Option Nat) (cause : Nat) : State :=
  let u := s.sched h
  let x : LiveItem := { num := i, st := .ready, release := at_, deadline := deadline, seq := u.seq, front := false,
                        startedLate := false, repostAt := 0, repostDeadline := none }
  let urg := itemUrgent s h i
  let s := s.setSched h { u with live := u.live ++ [x], seq := u.seq + 1,
                                 urgent := if urg then u.urgent ++ [i] else u.urgent }
  let s := traceEntry s h i noCore 1 cause
  let s := scheduleAll s h
  if !urg && decide (itemGroup s h i = 0) && decide (itemState s h i = 1) then displace s h i else s

/-- The deadline of a release at an instant: the descriptor's offset in units of 8 ns, none where it is 0. -/
def itemDeadline (s : State) (h : Half) (i at_ : Nat) : Option Nat :=
  let d := s.fld (DESC.addr h i) DESC.DEADLINE
  if d = 0 then none else some (at_ + 8 * d)

/-- A post of an item (R327): released, merged or re-posted; the Bool says that it was refused, in which case
POST_REF counts it. -/
def postItem (s : State) (h : Half) (i at_ : Nat) (deadline : Option Nat) (cause : Nat) : State × Bool :=
  if 4095 < i ∨ itemAffinity s h i = 0 then
    (traceEntry (s.count (SCHED.addr h) SCHED.POST_REF) h i noCore 12 i, true)
  else
    match (s.sched h).find i with
    | none => (releaseItem s h i at_ deadline cause, false)
    | some x =>
      match x.st with
      | .ready => (traceEntry (s.count (SCHED.addr h) SCHED.MERGED) h i noCore 11 1, false)
      | .nextSlot k => (traceEntry (s.count (SCHED.addr h) SCHED.MERGED) h i k 11 2, false)
      | .reposted k => (traceEntry (s.count (SCHED.addr h) SCHED.MERGED) h i k 11 4, false)
      | .running k =>
        let s := s.setSched h ((s.sched h).modItem i (fun y =>
          { y with st := .reposted k, repostAt := at_, repostDeadline := deadline }))
        (traceEntry s h i k 11 4, false)

/-! Raising an event (R335, R336). -/

/-- A module interrupt vector becomes pending (R424). On a rise with MSIX_EN set, MSI-X on and the entry not masked, the
endpoint sends one message; a masked entry sets its bit of the pending-bit array. -/
def raiseVector (s : State) (v : Nat) : State :=
  let was := s.mapBit (BPI.addr + 0x200) v
  let s := s.setMapBit (BPI.addr + 0x200) v true
  if was || !s.flag BPI.addr (BPI.MSIX_EN.nth v) then s else
  { s with pci := s.pci.message (s.flag BPI.addr BPI.MSIX_ON) v }

/-- What an occurrence does at once: the pending bit or the LOST count, the stamp, the trace freeze, the table's
vector. DESIGN CHOICE (log entry 16). -/
def raiseBase (s : State) (h : Half) (e stamp : Nat) : State :=
  let ev := EVT.addr h
  let s := s.countIf (s.mapBit ev e) ev (EVT.LOST.nth e)
  let s := s.setMapBit ev e true
  let s := s.setQuad (EVTST.addr h e) stamp
  let s := acqFire s h (acqSelects s h 6 e) stamp 6 false
  let u := s.sched h
  let s :=
    if s.flag (SCHED.addr h) SCHED.FREEZE_EN && decide (s.fld (SCHED.addr h) SCHED.FREEZE_EVT = e) &&
       u.freezeLeft.isNone && !s.flag (SCHED.addr h) SCHED.FROZEN
    then s.setSched h { u with freezeLeft := some 256 } else s
  let vec := decide (s.fld ev (EVT.ACTION.nth e) = 3) || s.flag ev (EVT.HOST.nth e)
  if vec && decide (s.activeHalf = some h) then raiseVector s (s.fld ev (EVT.VEC.nth e)) else s

/-- An occurrence of event e in half h with its servo-time stamp (R335). n bounds how often a refused post raises
event 151 within one occurrence. DESIGN CHOICE (log entry 16). -/
def raiseN : Nat → State → Half → Nat → Nat → State
  | 0, s, h, e, stamp => raiseBase s h e stamp
  | n + 1, s, h, e, stamp =>
    let s := raiseBase s h e stamp
    let s := if (s.acq h).miss then raiseN n (s.setAcq h { s.acq h with miss := false }) h 193 stamp else s
    let act := s.fld (EVT.addr h) (EVT.ACTION.nth e)
    let i := s.fld (EVT.addr h) (EVT.TITEM.nth e)
    if act = 2 ∧ !itemUrgent s h i then s.setFlag (SCHED.addr h) SCHED.TBL_ERR
    else if act = 1 ∨ act = 2 then
      match postItem s h i stamp (itemDeadline s h i stamp) e with
      | (s, true) => raiseN n s h 151 stamp
      | (s, false) => s
    else s

/-- Event e occurs in half h with a stamp. -/
def raiseAt (s : State) (h : Half) (e stamp : Nat) : State := raiseN 2 s h e stamp

/-- Event e occurs in half h now. -/
def raiseEvt (s : State) (h : Half) (e : Nat) : State := raiseAt s h e (s.servoNow h)

/-- Event e occurs in half h now where the condition holds. -/
def raiseIf (s : State) (c : Bool) (h : Half) (e : Nat) : State := if c then raiseEvt s h e else s

/-- A source of a module-common block raises its event in both halves (R336). -/
def raiseBoth (s : State) (e : Nat) : State := raiseEvt (raiseEvt s .a e) .b e

/-- A post at an instant with its own deadline, and event 151 where it is refused. -/
def postAt (s : State) (h : Half) (i at_ : Nat) (deadline : Option Nat) (cause : Nat) : State :=
  match postItem s h i at_ deadline cause with
  | (s, true) => raiseAt s h 151 at_
  | (s, false) => s

end Sys2Proof.Machine
end

