-- ==== Sys2Proof/Machine/Log.lean ====
section
/-! DEFINITION. Retained MRAM (R450) and the fault log (R451). -/
namespace Sys2Proof.Machine

/-- The module address of an offset within retained MRAM. -/
def mramAddr (off : Nat) : Nat := 0x1030400000 + off

/-- Half byte of a fault-log entry. -/
def halfByte : Option Half → Nat
  | some .a => 0
  | some .b => 1
  | none => 2

/-- A fault-log entry (R451): the event it accompanies (0xFF none), the half, a detail code and detail; a code or a
detail the chapter of the event does not state is a free value. Every entry raises event 14.
DESIGN CHOICE (log entry 113). -/
def faultLog (s : State) (ev : Nat) (h : Option Half) (code detail : Option Nat) : State :=
  let (c, s) := match code with
    | some c => (c, s)
    | none => let (v, s) := s.takeFree; (v.toNat % 2 ^ 16, s)
  let (d, s) := match detail with
    | some d => (d, s)
    | none => let (v, s) := s.takeFree; (v.toNat, s)
  let idx := s.memN (mramAddr 0x10)
  let b := mramAddr (0x10000 + idx % 4096 * 32)
  let s := s.setMemQuad b (s.servoNow (h.getD .a))
  let s := s.setMemQuad (b + 8) s.tb0
  let s := s.setMemN (b + 16) (ev % 256 + halfByte h * 256 + c % 2 ^ 16 * 2 ^ 16)
  let s := s.setMemQuad (b + 20) d
  let s := s.setMemN (b + 28) 0
  let s := s.setMemN (mramAddr 0x10) (idx + 1)
  raiseBoth s 14

/-- A saturating 32-bit counter of MRAM counts one (R450): 0 power-on resets, 1 hold-ups, 2 takeovers, 3 commits,
4 operating seconds. -/
def mramCount (s : State) (i : Nat) : State :=
  let a := mramAddr (0x5100 + 4 * i)
  s.setMemN a (Nat.min (s.memN a + 1) (2 ^ 32 - 1))

/-- The bytes of a record as an axis record stores them, its CRC-32C behind the 60 bytes it covers. -/
def writeAxisRec (s : State) (b : Nat) (pos off hold ref period flags : Nat) : State :=
  let s := s.setMemQuad b pos
  let s := s.setMemQuad (b + 8) off
  let s := s.setMemQuad (b + 16) hold
  let s := s.setMemQuad (b + 24) ref
  let s := s.setMemQuad (b + 32) period
  let s := s.setMemN (b + 40) flags
  let s := s.setMemWords (b + 44) [0, 0, 0, 0]
  s.setMemN (b + 60) (crc32c (s.memBytes b 60))

/-- The address of an axis record: copy A or B. -/
def axisRecAddr (copyB : Bool) (k : Nat) : Nat := mramAddr ((if copyB then 0x3000 else 0x1000) + 64 * k)

/-- A copy of an axis record has a correct CRC. -/
def axisRecOk (s : State) (copyB : Bool) (k : Nat) : Bool :=
  decide (s.memN (axisRecAddr copyB k + 60) = crc32c (s.memBytes (axisRecAddr copyB k) 60))

/-- The copy the restore uses: of the correct ones the one with the later period number. -/
def axisRecPick (s : State) (k : Nat) : Option Nat :=
  let a := axisRecAddr false k
  let b := axisRecAddr true k
  match axisRecOk s false k, axisRecOk s true k with
  | false, false => none
  | true, false => some a
  | false, true => some b
  | true, true => if s.memQuad (a + 32) < s.memQuad (b + 32) then some b else some a

end Sys2Proof.Machine
end

