-- ==== Sys2Proof/Machine/TimeOps.lean ====
section
/-! DEFINITION. Time bases, their servos, servo time and alarms (R338 to R359). -/
namespace Sys2Proof.Machine

/-- Time base b (1 to 3) of a half. -/
def TimeUnit.base (u : TimeUnit) : Nat → TimeBase
  | 1 => u.tb1
  | 2 => u.tb2
  | _ => u.tb3

/-- Time base b takes a new value. -/
def TimeUnit.setBase (u : TimeUnit) (b : Nat) (x : TimeBase) : TimeUnit :=
  match b with
  | 1 => { u with tb1 := x }
  | 2 => { u with tb2 := x }
  | _ => { u with tb3 := x }

def State.tb (s : State) (h : Half) (b : Nat) : TimeBase := (s.time h).base b
def State.setTb (s : State) (h : Half) (b : Nat) (x : TimeBase) : State := s.setTime h ((s.time h).setBase b x)

/-- The unit of an integral I_k: 1 / (10^18 * 2^200). -/
def integUnit : Int := 10 ^ 18 * 2 ^ 200

/-- A gain times e (2^-16 ns) times a factor, in units of I_k. scale is 1 with the interval in ns as factor, 10^9 for the
proportional term. A pattern that is not a finite number counts as 0. -/
def gainTerm (pat : Nat) (e factor : Int) : Int :=
  match f32Exact pat with
  | none => 0
  | some (m, x) => if 0 ≤ x + 184 then m * e * factor * 2 ^ (x + 184).toNat else 0

/-- A value in units of I_k rounded to 2^-48, ties upward. -/
def rateOf (i : Int) : Int := divUp i (10 ^ 18 * 2 ^ 152)

/-- x clamped to a limit in ppm, in units of 2^-48. -/
def clampPpm (ppm : Nat) (x : Int) : Int :=
  let lim : Int := (ppm : Int) * 2 ^ 48 / 1000000
  clampI (-lim) lim x

/-- The base runs at a rate from now on; TB.RATE shows it. -/
def setRate (s : State) (h : Half) (b : Nat) (r : Int) : State :=
  let s := s.setTb h b { s.tb h b with rate := r }
  s.setFldS (TB.addr h b) TB.RATE r

/-- A base counts as locked for servo time (R346, R351). DEDUCED (log entry 36). -/
def tbLocked (s : State) (h : Half) (b : Nat) : Bool :=
  s.flag (TB.addr h b) TB.LOCKED || decide (1 ≤ s.fld (TB.addr h b) TB.SRC ∧ s.fld (TB.addr h b) TB.SRC ≤ 2)

/-- TB1 or TB2 locks or unlocks (R345): event 35 or 36; an unlocked base keeps only its integral as its rate.
DEDUCED (log entry 36). -/
def setLock (s : State) (h : Half) (b : Nat) (on : Bool) : State :=
  if s.flag (TB.addr h b) TB.LOCKED = on then s
  else
    let s := s.putFlag (TB.addr h b) TB.LOCKED on
    let x := s.tb h b
    let s := s.setTb h b { x with goodRun := 0, badRun := 0 }
    let s := if on then s else setRate s h b (clampPpm (s.fld (TB.addr h b) TB.RATE_LIM) (rateOf x.integ))
    let s := if b = 1 then
        s.setTime h { s.time h with tb1LockedAt := if on then some s.tb0 else none }
      else s
    raiseEvt s h (34 + b)

/-- The sync interval of a domain in ns: 2^LOG_SYNC s. -/
def syncIntervalNs (s : State) (h : Half) (dom : Nat) : Nat :=
  let l := s.fldS (PTP.addr h dom) PTP.LOG_SYNC
  if 0 ≤ l then 10 ^ 9 * 2 ^ l.toNat else 10 ^ 9 / 2 ^ (-l).toNat

/-- The TB0 instant up to which the next Sync sample of TB b is in time (R345). -/
def lossDeadline (s : State) (h : Half) (b : Nat) : Option Nat :=
  let n := Nat.max 1 (s.fld (TB.addr h b) TB.LOSS_CNT)
  (s.tb h b).lastSample.map (fun t => t + n * syncIntervalNs s h (b - 1))

/-! Alarms (R359). -/

/-- Nanoseconds of base b of a half since its epoch. -/
def baseNs (s : State) (h : Half) (b : Nat) : Nat := if b = 0 then s.tb0 else (s.tb h b).ns

/-- A step of base b takes it to its present value: periodic alarm instants before that value are skipped. -/
def skipAlarms (s : State) (h : Half) (b : Nat) : Nat → State
  | 0 => s
  | i + 1 =>
    let s := skipAlarms s h b i
    let a := ALARM.addr h i
    let t := s.quad a
    let per := s.fld a ALARM.ALARM_PER
    let now := baseNs s h b
    if s.flag a ALARM.EN && decide (s.fld a ALARM.BASE = b) && decide (per ≠ 0) && decide (t < now) then
      let n := divCeil (now - t) per
      (s.countBy a ALARM.SKIP n).setQuad a (t + n * per)
    else s

/-- The base is set to a value; alarm instants it jumps over are skipped. DEDUCED (log entry 34). -/
def stepBase (s : State) (h : Half) (b : Nat) (val : Nat) : State :=
  skipAlarms (s.setTb h b { s.tb h b with val := val }) h b 16

/-- An alarm fires with a stamp (R359). -/
def fireAlarm (s : State) (h : Half) (i stamp : Nat) : State :=
  let a := ALARM.addr h i
  let per := s.fld a ALARM.ALARM_PER
  let s := if per = 0 then s.putFlag a ALARM.EN false else s.setQuad a (s.quad a + per)
  raiseAt s h (48 + i) stamp

/-- Alarm i fires where it is enabled and its base has reached ALARM_T. -/
def alarmDue (s : State) (h : Half) (i : Nat) : State :=
  let a := ALARM.addr h i
  if s.flag a ALARM.EN && decide (s.quad a ≤ baseNs s h (s.fld a ALARM.BASE)) then fireAlarm s h i (s.quad a) else s

/-- A write of ALARM_CTL: the base and EN are taken and LATE cleared by its bit; an alarm enabled with ALARM_T already
past fires at once with the stamp of the enable and sets LATE. -/
def alarmWrite (s : State) (h : Half) (i v : Nat) : State :=
  let a := ALARM.addr h i
  let was := s.flag a ALARM.EN
  let s := (s.setFld a ALARM.BASE (bitsOf v 2 1)).putFlag a ALARM.EN (bitOf v 0)
  let s := if bitOf v 3 then s.putFlag a ALARM.LATE false else s
  if bitOf v 0 && !was && decide (s.quad a < baseNs s h (bitsOf v 2 1)) then
    fireAlarm (s.setFlag a ALARM.LATE) h i (s.servoNow h)
  else s

/-! The servo of TB1 and TB2 (R343 to R346). -/

/-- e in ns for LAST_OFS: signed, saturating. -/
def ofsNs (e : Int) : Int := satS 32 (e / 65536)

/-- One offset sample of TB1 or TB2: e in 2^-16 ns, taken at a TB0 instant. The first sample after reset has no
predecessor and integrates nothing. DEDUCED (log entry 34). -/
def takeSample (s : State) (h : Half) (b : Nat) (e : Int) (stamp : Nat) : State :=
  let r := TB.addr h b
  let x := s.tb h b
  let dt : Nat := match x.lastSample with | none => 0 | some t => stamp - t
  let s := s.setFld r TB.SAMPLES (s.fld r TB.SAMPLES + 1)
  let s := s.setFldS r TB.LAST_OFS (ofsNs e)
  let thr := s.fld r TB.STEP_THR
  let s :=
    if thr ≠ 0 ∧ (thr : Int) * 65536 < e.natAbs then
      let s := (stepBase s h b ((x.val : Int) + e * 2 ^ 32).toNat).setFlag r TB.STEPPED
      let s := s.setTb h b { s.tb h b with lastSample := some stamp }
      let d := s.fldS (TB3X.addr h) TB3X.D
      (setRate s h b (clampPpm (s.fld r TB.RATE_LIM) (rateOf x.integ))).setFldS (TB3X.addr h) TB3X.D
        (if b = 1 then d + e else d - e)
    else
      let i := x.integ + gainTerm (s.fld r TB.KI) e dt
      let s := s.setTb h b { s.tb h b with integ := i, lastSample := some stamp }
      setRate s h b (clampPpm (s.fld r TB.RATE_LIM) (rateOf (gainTerm (s.fld r TB.KP) e (10 ^ 9) + i)))
  let good := decide ((e.natAbs : Int) ≤ (s.fld r TB.LOCK_THR : Int) * 65536)
  let y := s.tb h b
  let y := { y with goodRun := if good then Nat.min 8 (y.goodRun + 1) else 0,
                    badRun := if good then 0 else Nat.min 4 (y.badRun + 1) }
  let s := s.setTb h b y
  if s.flag r TB.LOCKED then (if 4 ≤ y.badRun then setLock s h b false else s)
  else if 8 ≤ y.goodRun then setLock s h b true else s

/-- The domain's grandmaster is gm: a change unlocks the base, sets GM_CHANGED and raises event 37 or 38 (R345).
DEDUCED (log entry 35). -/
def takeGm (s : State) (h : Half) (dom gm : Nat) : State :=
  let p := PTP.addr h dom
  let b := dom + 1
  if s.fld p PTP.GM_ID = gm then s
  else
    let s := (s.setFld p PTP.GM_ID gm).setFlag (TB.addr h b) TB.GM_CHANGED
    let s := s.setTb h b { s.tb h b with gm := gm, goodRun := 0, badRun := 0 }
    raiseEvt (setLock s h b false) h (37 + dom)

/-- A PTP message of a domain (R343 to R348). DEDUCED (log entry 35). -/
def ptpReceive (s : State) (h : Half) (dom : Nat) (m : PtpMsg) : State :=
  let p := PTP.addr h dom
  let b := dom + 1
  match m with
  | .unsupported => s.count p PTP.PTP_DISC
  | .linkDelay port ns =>
    s.setFld p (if port = 0 then PTP.LINK_DLY_X14 else PTP.LINK_DLY_X15) (satU 32 ns)
  | .announce gm steps utc utcValid ps14 ps15 isGm =>
    let s := (s.setFld p PTP.PS_X14 ps14.toNat).setFld p PTP.PS_X15 ps15.toNat
    let s := (s.putFlag p PTP.IS_GM isGm).setFld p PTP.STEPS steps.toNat
    let s := (s.setFld p PTP.UTC_OFS utc.toNat).putFlag p PTP.UTC_VALID utcValid
    takeGm s h dom gm.toNat
  | .sync offset stamp gm =>
    if s.fld (TB.addr h b) TB.SRC ≠ 0 then s
    else
      let s := takeGm s h dom gm.toNat
      let late := match lossDeadline s h b with | none => false | some t => decide (t < stamp)
      let s := if late then
          let s := setLock s h b false
          s.setTb h b { s.tb h b with goodRun := 0, badRun := 0 }
        else s
      takeSample s h b offset stamp

/-- No sample in time (R345): a locked base on PTP whose deadline has passed unlocks. -/
def lockLoss (s : State) (h : Half) (dom : Nat) : State :=
  let b := dom + 1
  match lossDeadline s h b with
  | none => s
  | some t => if s.fld (TB.addr h b) TB.SRC = 0 ∧ t < s.tb0 then setLock s h b false else s

/-- A software sample (R346): the write of the high word of OFS_IN, stamped with the latched TB0. DEDUCED (log entry 36). -/
def softSample (s : State) (h : Half) (b : Nat) (v : Nat) : State :=
  if s.fld (TB.addr h b) TB.SRC = 1 then takeSample s h b (toS 48 v) (s.tb h b).stamp else s

/-- SET: the staged value is applied, the integrator kept (R466). -/
def applySet (s : State) (h : Half) (b : Nat) : State :=
  let x := s.tb h b
  stepBase s h b ((x.stSec * 10 ^ 9 + x.stNs) * tbUnit + x.stFrac * 2 ^ 32)

/-- STAMP: TB0 is latched for the next OFS_IN. -/
def latchStamp (s : State) (h : Half) (b : Nat) : State := s.setTb h b { s.tb h b with stamp := s.tb0 }

/-- A write of TB.CMD. SET acts on TB1 and TB2. -/
def tbCmd (s : State) (h : Half) (b v : Nat) : State :=
  let s := if bitOf v 0 then applySet s h b else s
  if bitOf v 1 then latchStamp s h b else s

/-- A write of TB.RATE in free mode (R346), clamped to RATE_LIM. -/
def rateWrite (s : State) (h : Half) (b v : Nat) : State :=
  if s.fld (TB.addr h b) TB.SRC = 2 then setRate s h b (clampPpm (s.fld (TB.addr h b) TB.RATE_LIM) (toS 64 v)) else s

/-! Servo time (R350 to R356). -/

/-- D in units of a base's value. -/
def dUnits (s : State) (h : Half) : Int := s.fldS (TB3X.addr h) TB3X.D * 2 ^ 32

/-- The value of TB3's source for a state: TB1, or TB2 + D. -/
def sourceVal (s : State) (h : Half) (st : Nat) : Int :=
  if st = 1 then ((s.tb h 2).val : Int) + dUnits s h else ((s.tb h 1).val : Int)

/-- The rate of the source. -/
def sourceRate (s : State) (h : Half) (st : Nat) : Int := if st = 1 then (s.tb h 2).rate else (s.tb h 1).rate

/-- TB3 enters a state (R350), with event 33 or 34. DEDUCED (log entry 37). -/
def enterState (s : State) (h : Half) (st : Nat) : State :=
  let s := s.setFld (TB3X.addr h) TB3X.STATE st
  let s := s.setTime h { s.time h with wantState := none }
  if st = 1 then raiseEvt s h 33 else if st = 0 then raiseEvt s h 34
  else setRate s h 3 ((s.time h).srcRate + clampPpm 10 (rateOf (s.tb h 3).integ))

/-- TB3 takes a base that locked while it was in holdover: far where it differs by more than FAR_THR (R354).
DEDUCED (log entry 37). -/
def takeSource (s : State) (h : Half) (st : Nat) : State :=
  let e := sourceVal s h st - ((s.tb h 3).val : Int)
  let thr : Int := (Nat.max 1000 (s.fld (TB3X.addr h) TB3X.FAR_THR) : Int) * tbUnit
  if thr < e.natAbs then faultLog (enterState s h 3) 0xFF (some h) none none else enterState s h st

/-- The change of TB3's input at a sync instant (R350, R351). DEDUCED (log entry 37). -/
def inputChange (s : State) (h : Half) : State :=
  let l1 := tbLocked s h 1
  let l2 := tbLocked s h 2
  match s.fld (TB3X.addr h) TB3X.STATE with
  | 0 => if l1 then s else if l2 then enterState s h 1 else enterState s h 2
  | 1 =>
    if l1 && decide ((s.time h).wantState = some 0) then enterState s h 0
    else if l2 then s else if l1 then takeSource s h 0 else enterState s h 2
  | 2 => if l1 then takeSource s h 0 else if l2 then takeSource s h 1 else s
  | _ => s

/-- The tracked difference follows TB1 - TB2 while both are locked (R352): one period of the filter of time constant
D_TAU, rounded to 2^-16 ns. -/
def trackD (s : State) (h : Half) : State :=
  if tbLocked s h 1 && tbLocked s h 2 then
    let tau := clampI 10 60000 (s.fld (TB3X.addr h) TB3X.D_TAU)
    let x := divUp (((s.tb h 1).val : Int) - ((s.tb h 2).val : Int)) (2 ^ 32)
    let d := s.fldS (TB3X.addr h) TB3X.D
    let p : Int := s.periodNs h
    s.setFldS (TB3X.addr h) TB3X.D (d + divUp ((x - d) * p) (tau * 1000000 + p))
  else s

/-- TB3's offset sample of a sync instant and its servo (R343, R351, R353): the correction is clamped to 10 ppm and acts on
top of the source's rate; without a source TB3 keeps its rate. -/
def sampleTb3 (s : State) (h : Half) : State :=
  let st := s.fld (TB3X.addr h) TB3X.STATE
  if 2 ≤ st then s
  else
    let r := TB.addr h 3
    let x := s.tb h 3
    let e := divUp (sourceVal s h st - (x.val : Int)) (2 ^ 32)
    let i := x.integ + gainTerm (s.fld r TB.KI) e (s.periodNs h)
    let s := s.setTb h 3 { x with integ := i }
    let s := (s.setFld r TB.SAMPLES (s.fld r TB.SAMPLES + 1)).setFldS r TB.LAST_OFS (ofsNs e)
    let sr := sourceRate s h st
    let s := s.setTime h { s.time h with srcRate := sr }
    setRate s h 3 (sr + clampPpm 10 (rateOf (gainTerm (s.fld r TB.KP) e (10 ^ 9) + i)))

/-- The offset of TB3 to its input exceeds 1 us or TB3 is in the far state: the module sends no boundary messages (R358). -/
def groupTimeBad (s : State) (h : Half) : Bool :=
  let st := s.fld (TB3X.addr h) TB3X.STATE
  decide (st = 3) ||
    (decide (st < 2) && decide ((1000 * tbUnit : Int) < (sourceVal s h st - ((s.tb h 3).val : Int)).natAbs))

/-- TB1 has been locked for RETURN_S seconds while TB3 follows the secondary (R350): the return is taken at the next sync
instant. -/
def returnPrimary (s : State) (h : Half) : State :=
  match (s.time h).tb1LockedAt with
  | none => s
  | some t =>
    if s.fld (TB3X.addr h) TB3X.STATE = 1 ∧ t + s.fld (TB3X.addr h) TB3X.RETURN_S * 10 ^ 9 ≤ s.tb0 then
      s.setTime h { s.time h with wantState := some 0 }
    else s

/-- TB3 is set to its source: TB1, or TB2 + D where only TB2 is locked, and its state follows (R354, R355). -/
def alignTb3 (s : State) (h : Half) : State :=
  let st := if tbLocked s h 1 then 0 else if tbLocked s h 2 then 1 else 2
  let s := stepBase s h 3 (sourceVal s h st).toNat
  let s := s.setTime h { s.time h with marked := none, wantState := none,
                                       srcRate := if st = 2 then (s.time h).srcRate else sourceRate s h st }
  s.setFld (TB3X.addr h) TB3X.STATE st

/-- The servo time of the next sync instant of a half: the next multiple of P, or the present one while it is not yet
marked (R356). -/
def nextSync (s : State) (h : Half) : Nat :=
  let p := s.periodNs h
  let ns := s.servoNow h
  if ns % p = 0 ∧ (s.time h).marked ≠ some (ns / p) then ns / p else ns / p + 1

/-- TB0 nanoseconds until TB3 of a half reaches a servo time. -/
def untilServo (s : State) (h : Half) (t : Nat) : Nat :=
  let x := s.tb h 3
  let r := ((tbUnit : Int) + x.rate).toNat
  if t * tbUnit ≤ x.val ∨ r = 0 then 0 else divCeil (t * tbUnit - x.val) r

/-- Time passes until TB3 of a half reaches a servo time. DESIGN CHOICE (log entry 38). -/
def passUntil (s : State) (h : Half) (t : Nat) : State := s.passTime (untilServo s h t)

end Sys2Proof.Machine
end

