-- ==== Sys2Proof/Machine/Acq.lean ====
section
/-! DEFINITION. Triggered acquisition (R394 to R405): channels, reductions, records, rows, capture and the trigger sources. -/
namespace Sys2Proof.Machine

/-! Channels (R394). -/

/-- The format of a signal. -/
inductive SigFmt where
  | u32 | s32 | f32
  deriving DecidableEq, Repr

/-- The format of a selector (R394), none for one the table does not list. -/
def sigFormat (w : Nat) : Option SigFmt :=
  let inst := bitsOf w 27 20
  let sig := bitsOf w 15 0
  if bitsOf w 19 16 ≠ 0 then none
  else
    match bitsOf w 31 28 with
    | 0 =>
      if 127 < inst ∨ 16 < sig then none
      else if sig = 12 then some .f32 else if sig = 13 ∨ sig = 14 ∨ sig = 16 then some .u32 else some .s32
    | 1 =>
      if 15 < inst ∨ 14 < sig then none
      else if sig = 0 ∨ (5 ≤ sig ∧ sig ≤ 13) then some .f32 else some .u32
    | 2 => if inst ≠ 0 ∨ 7 < sig then none else if sig = 0 ∨ sig = 4 ∨ sig = 5 then some .s32 else some .u32
    | 3 => if 15 < inst ∨ 4 < sig then none else if sig = 4 then some .s32 else some .u32
    | 4 => if inst ≠ 0 ∨ 63 < sig then none else some .u32
    | _ => none

/-- A position in 2^-32 rev with an LSB of 2^-(32-k) rev, saturating. -/
def posShown (x : Int) (k : Nat) : Nat := ofS 32 (satS 32 (x / ((2 ^ k : Nat) : Int)))

/-- An axis signal. -/
def axisSignal (s : State) (h : Half) (k sig : Nat) : Nat :=
  let p := PRF.addr h k
  let c := CE.addr h k
  match sig with
  | 0 => posShown (s.fldS p PRF.SP_POS) 16
  | 1 => posShown (s.ce h k).pAct 16
  | 2 => s.fld p PRF.SP_VEL
  | 3 => ofS 32 (s.ce h k).vAct
  | 4 => s.fld c CE.EP
  | 5 => s.fld c CE.VCMD
  | 6 => s.fld c CE.EV
  | 7 => s.fld c CE.TQ_PI
  | 8 => s.fld c CE.TQ_FF
  | 9 => s.fld c CE.U_RC
  | 10 => s.fld c CE.TQ_OUT
  | 11 => ofS 32 (s.ce h k).tqFb
  | 12 => s.fld c CE.IM
  | 13 => s.fld c CE.REGION
  | 14 => s.wordN (c + 4)
  | 15 => posShown (s.fldS p PRF.LAG) 8
  | _ => s.wordN (p + 8)

/-- An arm signal. -/
def armSignal (s : State) (h : Half) (j sig : Nat) : Nat :=
  let a := ARM.addr h j
  match sig with
  | 0 => s.fld a ARM.S
  | 1 => s.fld a ARM.SIGMA_EFF
  | 2 => s.fld a ARM.KAPPA
  | 3 => s.fld a ARM.SIGMA_GOV
  | 4 => s.wordN (a + 0x38)
  | 14 => s.wordN (a + 8)
  | n => s.fld a (ARM.OBS_RES.nth (n - 5))

/-- A system signal. The junction temperature is a measurement no register holds: a free value. -/
def systemSignal (s : State) (h : Half) (sig : Nat) : Nat × State :=
  match sig with
  | 0 => (ofS 32 (s.fldS (SYS.addr h) SYS.SLACK_LAST), s)
  | 1 => (s.fld (HPWR.addr h) HPWR.RAIL_MV, s)
  | 2 => (s.fld (HPWR.addr h) HPWR.PACE, s)
  | 3 => (s.periodNum h % 2 ^ 32, s)
  | 4 => (s.fld (TB.addr h 3) TB.LAST_OFS, s)
  | 5 =>
    let (v, s) := s.takeFree
    ((v.setWidth 32 : Word).toNat, s)
  | 6 => (s.wordN LIO.addr, s)
  | _ => (s.fld LIO.addr LIO.IN / 2 ^ 32 + s.fld LIO.addr LIO.OUT * 2 ^ 16, s)

/-- The value in force of the signal a selector names; 0 for a selector the table does not list. -/
def signalValue (s : State) (h : Half) (w : Nat) : Nat × State :=
  let inst := bitsOf w 27 20
  let sig := bitsOf w 15 0
  if sigFormat w = none then (0, s)
  else
    match bitsOf w 31 28 with
    | 0 => (axisSignal s h inst sig, s)
    | 1 => (armSignal s h inst sig, s)
    | 2 => systemSignal s h sig
    | 3 => (((s.acq h).safe.getD inst []).getD sig 0, s)
    | _ => (s.fld (ACQ.addr h) (ACQ.USER.nth sig), s)

/-- The safety copies of T_n are taken at the sync instant. -/
def latchSafeCopies (s : State) (h : Half) : State :=
  s.setAcq h { s.acq h with safe := (List.range 16).map (fun a =>
    let b := SSMARM.addr a
    [s.fld b SSMARM.OUTCOME, s.fld b SSMARM.CEIL, s.fld b SSMARM.V_R, s.fld b SSMARM.D_MIN, ofS 32 (s.fldS b SSMARM.M_BAND)]) }

/-- The selector of a channel. -/
def chanSel (s : State) (h : Half) (c : Nat) : Nat := s.wordN (ACH.addr h c)

/-- The format of a channel. -/
def chanFmt (s : State) (h : Half) (c : Nat) : SigFmt := (sigFormat (chanSel s h c)).getD .u32

/-- The channels of a record in ascending number. -/
def recChans (s : State) (h : Half) (r : Nat) : List Nat :=
  (List.range 64).filter (fun c => bitOf (s.fld (REC.addr h r) REC.CH_MASK) c)

/-- The values of a list of channels. -/
def chanValues (h : Half) : List Nat → State → List Nat × State
  | [], s => ([], s)
  | c :: l, s =>
    let (v, s) := signalValue s h (chanSel s h c)
    let (vs, s) := chanValues h l s
    (v :: vs, s)

/-! Reductions (R395). -/

/-- The enabled reductions of a channel in order. -/
def chanReds (s : State) (h : Half) (c : Nat) : List Nat :=
  let b := ACH.addr h c
  [s.fld b ACH.RED0, s.fld b ACH.RED1, s.fld b ACH.RED2, s.fld b ACH.RED3].filter (fun k => decide (1 ≤ k ∧ k ≤ 6))

/-- A pattern of binary32 as an integer in units of 2^-149; infinities above every number, none for NaN. -/
def f32Units (w : Nat) : Option Int :=
  if bitsOf w 30 23 = 255 then
    if bitsOf w 22 0 ≠ 0 then none else some (if bitOf w 31 then -(2 ^ 300) else 2 ^ 300)
  else
    match f32Exact w with
    | none => none
    | some (m, e) => some (m * 2 ^ (e + 149).toNat)

/-- A value as an integer, in LSBs or in units of 2^-149; none for NaN. -/
def sigInt (f : SigFmt) (w : Nat) : Option Int :=
  match f with
  | .u32 => some (w : Int)
  | .s32 => some (toS 32 w)
  | .f32 => f32Units w

/-- All the values as integers, none where one is NaN. DEDUCED (log entry 81). -/
def sigInts (f : SigFmt) : List Nat → Option (List Int)
  | [] => some []
  | w :: l =>
    match sigInt f w, sigInts f l with
    | some i, some is => some (i :: is)
    | _, _ => none

/-- The value whose integer is smallest (or largest). -/
def bestOf (f : SigFmt) (least : Bool) : List Nat → Nat
  | [] => 0
  | [w] => w
  | w :: l =>
    let v := bestOf f least l
    let a := (sigInt f w).getD 0
    let b := (sigInt f v).getD 0
    if least then (if a ≤ b then w else v) else (if b ≤ a then w else v)

/-- A value is not 0. -/
def sigNonzero (f : SigFmt) (w : Nat) : Bool := match f with | .f32 => decide (w % 2 ^ 31 ≠ 0) | _ => decide (w ≠ 0)

/-- Values that leave a result of binary32 unstated: a NaN or an infinity among them. -/
def sigSpecial (f : SigFmt) (l : List Nat) : Bool :=
  match f with
  | .f32 => l.any (fun w => decide (bitsOf w 30 23 = 255))
  | _ => false

/-- A binary32 pattern of an exact signed quotient num / den * 2^e. -/
def f32Quot (num : Int) (den : Nat) (e : Int) : Nat :=
  if num = 0 then f32Zero false else (roundRat (decide (num < 0)) num.natAbs den e).pat

/-- The sum of integers, and of their squares. -/
def sumI (l : List Int) : Int := l.foldl (· + ·) 0
def sumSq (l : List Int) : Int := l.foldl (fun a x => a + x * x) 0

/-- One reduction over the values of a row. What a NaN or an infinity makes of an order, a mean or a sum of squares is
not stated: a free value. DEDUCED (log entry 81). -/
def reduce (s : State) (f : SigFmt) (code : Nat) (l : List Nat) : Nat × State :=
  let is := (sigInts f l).getD []
  if code = 1 then (l.getLastD 0, s)
  else if code = 6 then ((l.filter (sigNonzero f)).length, s)
  else if (sigInts f l = none) ∨ (4 ≤ code ∧ sigSpecial f l) then
    let (v, s) := s.takeFree
    ((v.setWidth 32 : Word).toNat, s)
  else
    match code, f with
    | 2, _ => (bestOf f true l, s)
    | 3, _ => (bestOf f false l, s)
    | 4, .f32 => (f32Quot (sumI is) l.length (-149), s)
    | 4, _ => (ofS 32 (divUp (sumI is) l.length), s)
    | _, .f32 => (f32Quot (sumSq is) 1 (-298), s)
    | _, _ => (f32Quot (sumSq is) 1 0, s)

/-- The reductions of one channel. -/
def reduceAll (f : SigFmt) (l : List Nat) : List Nat → State → List Nat × State
  | [], s => ([], s)
  | code :: t, s =>
    let (v, s) := reduce s f code l
    let (vs, s) := reduceAll f l t s
    (v :: vs, s)

/-- The words of a row: per channel its reductions. vals holds the periods' values in channel order. -/
def rowWords (h : Half) (vals : List (List Nat)) : Nat → List Nat → State → List Nat × State
  | _, [], s => ([], s)
  | i, c :: l, s =>
    let (a, s) := reduceAll (chanFmt s h c) (vals.map (fun v => v.getD i 0)) (chanReds s h c) s
    let (b, s) := rowWords h vals (i + 1) l s
    (a ++ b, s)

/-- ROW_BYTES of a record (R396). -/
def rowBytes (s : State) (h : Half) (r : Nat) : Nat :=
  16 * divCeil (4 * ((recChans s h r).map (fun c => (chanReds s h c).length)).sum) 16

/-- N_cap of a record (R396); 0 for a record without rows. -/
def rowCap (s : State) (h : Half) (r : Nat) : Nat :=
  let n := rowBytes s h r
  if n = 0 then 0 else (s.fld (REC.addr h r) REC.SIZE - 64) / n

/-- A row's bytes: little-endian words padded with zeros. -/
def rowData (n : Nat) (ws : List Nat) : List Byte :=
  let l := (ws.map (leBytes 4)).flatten
  l ++ zeros (n - l.length)

/-- The module address of a record's region. -/
def recRegion (s : State) (h : Half) (r : Nat) : Nat := dramAddr h (0x70000000 + s.fld (REC.addr h r) REC.BASE)

/-! Arming (R397, R398). -/

/-- The live record with a number. -/
def acqFind (s : State) (h : Half) (r : Nat) : Option AcqRec := (s.acq h).recs.find? (fun x => x.num == r)

/-- A live record takes a new value. -/
def acqPut (s : State) (h : Half) (x : AcqRec) : State :=
  s.setAcq h { s.acq h with recs := (s.acq h).recs.map (fun y => if y.num = x.num then x else y) }

/-- A record is no longer live; its R_STATE is st. -/
def acqDrop (s : State) (h : Half) (r st : Nat) : State :=
  (s.setAcq h { s.acq h with recs := (s.acq h).recs.filter (fun y => y.num != r) }).setFld (REC.addr h r) REC.R_STATE st

/-- ARMED counts the records in states 1 to 3. -/
def acqCount (s : State) (h : Half) : State :=
  s.setFld (ACQ.addr h) ACQ.ARMED ((s.acq h).recs.filter (fun x =>
    let st := s.fld (REC.addr h x.num) REC.R_STATE
    decide (1 ≤ st ∧ st ≤ 3))).length

/-- The other records that hold resources: those armed, and where the image claims count those it claims. -/
def acqOthers (s : State) (h : Half) (r : Nat) (claims : Bool) : List Nat :=
  ((s.acq h).recs.map (fun x => x.num) ++ (if claims then s.cfg.acqRecs.map (fun x => x.1) else [])).filter (fun n => n != r)

/-- Two records' regions overlap. -/
def regionsMeet (s : State) (h : Half) (r n : Nat) : Bool :=
  let a := REC.addr h r
  let b := REC.addr h n
  decide (s.fld a REC.BASE < s.fld b REC.BASE + s.fld b REC.SIZE) && decide (s.fld b REC.BASE < s.fld a REC.BASE + s.fld a REC.SIZE)

/-- Two records use a halyard line, a stream or a sent ID in common. -/
def recResourcesMeet (s : State) (h : Half) (r n : Nat) : Bool :=
  let a := REC.addr h r
  let b := REC.addr h n
  (s.flag a REC.HL_DRIVE && s.flag b REC.HL_DRIVE && decide (s.fld a REC.HL_LINE = s.fld b REC.HL_LINE)) ||
  (decide (s.fld a REC.STREAM ≠ 0) && decide (s.fld b REC.STREAM ≠ 0) && decide (s.fld a REC.STREAM_NUM = s.fld b REC.STREAM_NUM)) ||
  (decide (s.fld a REC.SEND_ID ≠ 0) && decide (s.fld a REC.SEND_ID = s.fld b REC.SEND_ID))

/-- The reason that refuses ARM, 0 for none (R398), the conditions in the order of their codes. DEDUCED (log entry 79). -/
def armRefusal (s : State) (h : Half) (r : Nat) : Nat :=
  let b := REC.addr h r
  let n := rowCap s h r
  if n = 0 ∨ n < s.fld b REC.PRE + s.fld b REC.LATE_ROWS ∨ 0x10000000 < s.fld b REC.BASE + s.fld b REC.SIZE then 1
  else if (acqOthers s h r true).any (regionsMeet s h r) then 2
  else if (acqOthers s h r false).any (fun n =>
      decide (s.fld b REC.CH_MASK &&& s.fld (REC.addr h n) REC.CH_MASK ≠ 0)) then 3
  else if (s.flag b REC.HL_DRIVE && bitOf (s.fld BPI.addr BPI.HL_USER) (s.fld b REC.HL_LINE)) ||
      (acqOthers s h r true).any (recResourcesMeet s h r) then 4
  else if !decide (s.activeHalf = some h) then 5
  else 0

/-- A record is armed at a sync instant, the next one; what it keeps of a capture before it is the end of that capture. -/
def armAt (s : State) (h : Half) (r : Nat) (after : Option Nat) : State :=
  let b := REC.addr h r
  let code := armRefusal s h r
  let s := s.setFld b REC.ARM_RESULT code
  if code ≠ 0 then
    let s := if after.isSome then acqDrop s h r 0 else s
    acqCount (raiseIf s (decide (2 ≤ code ∧ code ≤ 4)) h 13) h
  else
    let x : AcqRec := { num := r, a := s.periodNum h + 1, disarm := none, held := [], trig := none, row := 0, oldest := 0,
                        done := 0, vals := [], prev := none, upArmed := true, downArmed := true, extra := 0, gap := false,
                        exceeds := false, hdr := false, after := after }
    let s := acqDrop s h r (if s.fld b REC.PRE = 0 then 2 else 1)
    acqCount (s.setAcq h { s.acq h with recs := (s.acq h).recs ++ [x] }) h

/-- ARM: a record that is idle or captured. DEDUCED (log entry 79). -/
def armRecord (s : State) (h : Half) (r : Nat) : State :=
  let st := s.fld (REC.addr h r) REC.R_STATE
  if st = 0 ∨ st = 4 then armAt s h r none else s

/-- RECORD_REARM: the record named by NEXT is armed (R402). DEDUCED (log entry 79). -/
def recordRearm (s : State) (h : Half) (r : Nat) : State :=
  match acqFind s h r with
  | none => s
  | some x => if s.fld (REC.addr h r) REC.R_STATE = 5 then armAt s h r x.after else s

/-- DISARM: acts at the next sync instant (R403). DEDUCED (log entry 80). -/
def disarmRecord (s : State) (h : Half) (r : Nat) : State :=
  match acqFind s h r with
  | none => s
  | some x => acqPut s h { x with disarm := some ((s.periodNum h + 1) * s.periodNs h) }

/-- The disarm takes effect: a record that has not triggered is idle; a trigger before it is still captured.
DEDUCED (log entry 80). -/
def disarmNow (s : State) (h : Half) (r : Nat) : State :=
  match acqFind s h r with
  | none => s
  | some x =>
    if x.disarm = none then s
    else if s.fld (REC.addr h r) REC.R_STATE = 3 then acqPut s h { x with disarm := none }
    else acqCount (acqDrop s h r 0) h

/-- CLEAR returns a captured record to idle. -/
def clearRecord (s : State) (h : Half) (r : Nat) : State :=
  if s.fld (REC.addr h r) REC.R_STATE = 4 then s.setFld (REC.addr h r) REC.R_STATE 0 else s

/-! Triggers (R399 to R401). -/

/-- A trigger, and event 193 where it was missed. -/
def acqTrigger (s : State) (h : Half) (sel : Nat → Bool) (t src : Nat) (forced : Bool) : State :=
  let s := acqFire s h sel t src forced
  if (s.acq h).miss then raiseAt (s.setAcq h { s.acq h with miss := false }) h 193 t else s

/-- FORCE: triggers an armed record at the instant of the write, whatever its source. -/
def forceRecord (s : State) (h : Half) (r : Nat) : State := acqTrigger s h (fun n => n == r) (s.servoNow h) 0 true

/-- A write of the command word of a record, its bits in ascending order. -/
def recCmd (s : State) (h : Half) (r v : Nat) : State :=
  let s := if bitOf v 0 then armRecord s h r else s
  let s := if bitOf v 1 then disarmRecord s h r else s
  let s := if bitOf v 2 then forceRecord s h r else s
  if bitOf v 3 then clearRecord s h r else s

/-- A write of ACQ.CTRL. -/
def acqCtrl (s : State) (h : Half) (v : Nat) : State :=
  let b := ACQ.addr h
  let s := if bitOf v 0 then s.setWords (b + 0x40) (List.replicate 64 0) else s
  if bitOf v 1 then s.setWordN (b + 8) 0 else s

/-- The stamp of an edge with a resolution of res ns. DEDUCED (log entry 82). -/
def stampTo (res t : Nat) : Nat := t / res * res

/-- An edge on TRIG0 or TRIG1 in one half. DEDUCED (log entry 82). -/
def triggerEdge (s : State) (h : Half) (t : Nat) (rising : Bool) (stamp : Nat) : State :=
  let st := stampTo 10 stamp
  let s := acqTrigger s h (fun r => acqSelects s h (1 + t) 0 r && edgeSelected s h rising r) st (1 + t) false
  raiseAt s h (196 + t) st

/-- A qualified edge on a halyard line in one half (R425). The level is active low: a falling edge makes the line active.
DEDUCED (log entry 82). -/
def halyardEdge (s : State) (h : Half) (l : Nat) (rising : Bool) (stamp : Nat) : State :=
  let st := stampTo 20 stamp
  let s := acqTrigger s h (fun r => acqSelects s h 4 l r && edgeSelected s h rising r) st 4 false
  raiseAt s h 198 st

/-- The pulse on a line ends. -/
def hlDriveOff (s : State) (l : Nat) : State := { s with hlDrive := setBit s.hlDrive l false }

/-- A write of HL_PULSE: lines claimed for user use. -/
def hlPulse (s : State) (mask : Nat) : State := hlDriveOn s (mask &&& s.fld BPI.addr BPI.HL_USER)

/-- A remote trigger message (R401). -/
def remoteReceive (s : State) (h : Half) (m : List Byte) : State :=
  if m.length ≠ 24 ∨ bytesAt m 0 1 ≠ 1 then s
  else
    let key := (bytesAt m 2 2 % 1024, bytesAt m 6 2)
    if (s.acq h).seen.contains key then s
    else
      let t := bytesAt m 8 8
      let id := bytesAt m 4 2
      let s := s.setAcq h { s.acq h with seen := (key :: (s.acq h).seen).take 256 }
      let s := acqTrigger s h (fun r => acqSelects s h 7 (s.fld (REC.addr h r) REC.SEL) r &&
        decide (s.fld (REC.addr h r) REC.REMOTE_ID = id)) t 7 false
      raiseAt s h 199 t

/-! The rows of a period (R397, R402 to R404). -/

/-- x < LEVEL, or LEVEL < x, by at least HYST: the value has gone back beyond the level. -/
def backBeyond (below : Bool) (level hyst x : Int) : Bool :=
  if below then decide (x < level) && decide (hyst ≤ level - x) else decide (level < x) && decide (hyst ≤ x - level)

/-- The threshold of a record: its directions re-armed or spent, and whether the present value crossed in a direction
the record selects. A NaN crosses nothing. -/
def thresholdStep (s : State) (h : Half) (x : AcqRec) (cur : Nat) : AcqRec × Bool :=
  let b := REC.addr h x.num
  let f := match chanFmt s h (s.fld b REC.SEL % 64) with | .f32 => SigFmt.f32 | _ => SigFmt.s32
  let y := { x with prev := some cur }
  match sigInt f cur, sigInt f (s.fld b REC.LEVEL), sigInt (match f with | .f32 => .f32 | _ => .u32) (s.fld b REC.HYST) with
  | some v, some lev, some hy =>
    let p := match x.prev with | none => none | some w => sigInt f w
    let up := match p with | none => false | some q => decide (q < lev) && decide (lev ≤ v) && x.upArmed
    let dn := match p with | none => false | some q => decide (lev < q) && decide (v ≤ lev) && x.downArmed
    let y := { y with upArmed := if up then false else x.upArmed || backBeyond true lev hy v,
                      downArmed := if dn then false else x.downArmed || backBeyond false lev hy v }
    (y, (up && edgeSelected s h true x.num) || (dn && edgeSelected s h false x.num))
  | _, _, _ => (y, false)

/-- Held triggers in the order of their stamps. -/
def insertHeld (t : Nat × Nat × Bool) : List (Nat × Nat × Bool) → List (Nat × Nat × Bool)
  | [] => [t]
  | u :: l => if t.1 < u.1 then t :: u :: l else u :: insertHeld t l

/-- The held triggers are given to the record; those still in the future are held again. -/
def deliverHeld (h : Half) : List (Nat × Nat × Bool) → AcqRec → State → AcqRec × State
  | [], x, s => (x, s)
  | (t, src, forced) :: l, x, s =>
    let (x, s) := acqDeliver s h x t src forced
    deliverHeld h l x s

/-- The first row of a triggered record and the pre-trigger rows it holds. -/
def firstRow (s : State) (h : Half) (x : AcqRec) : Nat := Nat.max x.oldest (x.row - s.fld (REC.addr h x.num) REC.PRE)

/-- The record header (R404). DEDUCED (log entry 83). -/
def recHeader (s : State) (h : Half) (x : AcqRec) : List Byte :=
  let b := REC.addr h x.num
  let cap := rowCap s h x.num
  let first := firstRow s h x
  let pre := x.row - first
  let fin := x.row + s.fld b REC.POST
  let streamed := decide (s.fld b REC.STREAM ≠ 0) && decide (cap < s.fld b REC.PRE + s.fld b REC.POST)
  let fin := if streamed then x.row + (cap - s.fld b REC.PRE) else fin
  let first := if cap < fin - first then fin - cap else first
  let (t, src, forced) := x.trig.getD (0, 0, false)
  let safe := (recChans s h x.num).any (fun c => decide (bitsOf (chanSel s h c) 31 28 = 3))
  let flags := b2n (decide (pre < s.fld b REC.PRE)) + 2 * b2n x.exceeds + 4 * b2n x.gap + 8 * b2n safe + 16 * b2n forced
  leBytes 4 flags ++ leBytes 4 (s.fld b REC.DECIM) ++ leBytes 2 (rowBytes s h x.num) ++ leBytes 1 src ++ leBytes 1 x.extra ++
  leBytes 4 pre ++ leBytes 8 x.row ++ leBytes 8 first ++ leBytes 4 (fin - first) ++ leBytes 4 (first % Nat.max 1 cap) ++
  leBytes 8 t ++ leBytes 8 x.a ++ leBytes 8 (s.fld b REC.CH_MASK)

/-- The bytes of a list put into a ring of DRAM from a position on, wrapping. -/
def ringBytes (base size : Nat) : Nat → List Byte → State → State
  | _, [], s => s
  | p, v :: l, s => ringBytes base size ((p + 1) % Nat.max 1 size) l (s.setByte (base + p) v)

/-- A row goes to the record's stream behind a 16-byte prefix, the header before the first; without room it is dropped
(R403, R404, R428). Also the event to raise. DEDUCED (log entry 83). -/
def streamRow (s : State) (h : Half) (x : AcqRec) (k : Nat) (row : List Byte) : AcqRec × Option Nat × State :=
  let b := REC.addr h x.num
  let st := STREAM.addr h (s.fld b REC.STREAM_NUM)
  let size := s.fld st STREAM.SIZE
  let wr := s.fld st STREAM.WR_PTR
  let rd := s.fld st STREAM.RD_PTR
  let dma := decide (s.fld b REC.STREAM = 2)
  let bytes := (if x.hdr then [] else recHeader s h x) ++ leBytes 8 k ++ zeros 8 ++ row
  let used := (wr + size - rd % Nat.max 1 size) % Nat.max 1 size
  if size ≤ used + bytes.length ∨ (dma ∧ !s.flag BPI.addr BPI.BME) then
    ({ x with gap := true }, some 195, s.count (ACQ.addr h) ACQ.STREAM_DROP)
  else
    let s := if dma then { s with pci := { s.pci with dma := some (s.fld st STREAM.BASE + wr, bytes) } }
      else ringBytes (dramAddr h (s.fld st STREAM.BASE)) size wr bytes s
    ({ x with hdr := true }, none, s.setFld st STREAM.WR_PTR ((wr + bytes.length) % Nat.max 1 size))

/-- A complete row k is written: into its slot, or to the stream. Also the event to raise. DEDUCED (log entry 83). -/
def writeRow (s : State) (h : Half) (x : AcqRec) (k : Nat) : AcqRec × Option Nat × State :=
  let b := REC.addr h x.num
  let cap := rowCap s h x.num
  let r := rowWords h x.vals 0 (recChans s h x.num) s
  let ws := r.1
  let s := r.2
  let row := rowData (rowBytes s h x.num) ws
  let pre := s.fld b REC.PRE
  let beyond := x.trig.isSome && decide (cap < pre + s.fld b REC.POST)
  if beyond && decide (s.fld b REC.STREAM ≠ 0) && decide (x.row + (cap - pre) ≤ k) then streamRow s h x k row
  else
    let wraps := beyond && decide (firstRow s h x + cap ≤ k)
    let s := s.setMemBytes (recRegion s h x.num + 64 + k % Nat.max 1 cap * row.length) row
    ({ x with exceeds := x.exceeds || wraps }, if wraps && !x.exceeds then some 194 else none, s)

/-- A record is captured: header, event 192, and the record NEXT waits to be armed (R402). -/
def captured (s : State) (h : Half) (x : AcqRec) : State :=
  let b := REC.addr h x.num
  let s := s.setMemBytes (recRegion s h x.num) (recHeader s h x)
  let endAt := (x.a + (x.row + s.fld b REC.POST) * recDecim s h x.num) * s.periodNs h
  let s := acqDrop s h x.num 4
  let s := raiseEvt s h 192
  let n := s.fld b REC.NEXT
  let st := s.fld (REC.addr h n) REC.R_STATE
  if s.flag b REC.NEXT_EN && decide (st = 0 ∨ st = 4) then
    let y : AcqRec := { x with num := n, disarm := none, held := [], trig := none, vals := [], prev := none, done := 0,
                               after := some endAt }
    (s.setAcq h { s.acq h with recs := (s.acq h).recs ++ [y] }).setFld (REC.addr h n) REC.R_STATE 5
  else s

/-- The period's values join the running row; a row of D values is complete. -/
def takeValues (s : State) (h : Half) (x : AcqRec) (vs : List Nat) : AcqRec × Option Nat × State :=
  let x := { x with vals := x.vals ++ [vs] }
  if x.vals.length < recDecim s h x.num then (x, none, s)
  else
    let r := writeRow s h x x.done
    ({ r.1 with done := r.1.done + 1, vals := [] }, r.2)

/-- The threshold source of a live record looks at its channel's value of period n (R397). DEDUCED (log entry 81). -/
def thresholdSource (s : State) (h : Half) (x : AcqRec) (n : Nat) : AcqRec × State :=
  let b := REC.addr h x.num
  if s.fld b REC.SRC ≠ 5 then (x, s)
  else
    let v := signalValue s h (chanSel s h (s.fld b REC.SEL % 64))
    let y := thresholdStep v.2 h x v.1
    if y.2 then acqDeliver v.2 h y.1 (n * v.2.periodNs h) 5 false else (y.1, v.2)

/-- A live record after the values of a period: it is filled, shown, and captured once its rows are complete; e is the event
that its rows raised. -/
def recordFilled (s : State) (h : Half) (x : AcqRec) (e : Option Nat) : State :=
  let b := REC.addr h x.num
  let s := if s.fld b REC.R_STATE = 1 ∧ s.fld b REC.PRE ≤ x.done then s.setFld b REC.R_STATE 2 else s
  let s := acqPut s h x
  let s := match e with | none => s | some e => raiseEvt s h e
  if s.fld b REC.R_STATE = 3 ∧ x.row + s.fld b REC.POST ≤ x.done then captured s h ((acqFind s h x.num).getD x) else s

/-- A live record at the end of the compute window of period n. -/
def recPeriod (s : State) (h : Half) (r : Nat) : State :=
  match acqFind s h r with
  | none => s
  | some x =>
    let n := s.periodNum h
    if s.fld (REC.addr h r) REC.R_STATE = 5 ∨ n < x.a then s
    else
      let d := deliverHeld h (x.held.foldr insertHeld []) { x with held := [] } s
      let y := thresholdSource d.2 h d.1 n
      let v := chanValues h (recChans y.2 h r) y.2
      let w := takeValues v.2 h y.1 v.1
      recordFilled w.2.2 h w.1 w.2.1

/-- The acquisition engine at the end of a period's compute window (R394, R397). -/
def acqPeriod (s : State) (h : Half) : State :=
  if (s.acq h).stopped then s
  else acqCount (((s.acq h).recs.map (fun x => x.num)).foldl (fun s r => recPeriod s h r) s) h

/-- Acquisition at a takeover (R405): the new active half arms the records with ON_ACTIVE, every other one is idle. -/
def acqTakeover (s : State) (h : Half) : State :=
  let s := (s.acq h).recs.foldl (fun s x => acqDrop s h x.num 0) s
  acqCount ((s.cfg.acqRecs.filter (fun x => x.2)).foldl (fun s x => armRecord s h x.1) s) h

end Sys2Proof.Machine
end

