-- ==== Sys2Proof/Machine/ArmBase.lean ====
section
/-! DEFINITION. The model records of an arm, and its stops and aborts (R84 to R87, R97, R100, R101). -/
namespace Sys2Proof.Machine

/-! The model image of an arm, offset 0x800 of its block. -/

/-- Byte off of the header record. -/
def headerByte (s : State) (h : Half) (j off : Nat) : Nat :=
  s.wordN (ARM.addr h j + 0x800 + off / 4 * 4) / 2 ^ (8 * (off % 4)) % 256

/-- Word off of the joint record of joint i. -/
def jointWord (s : State) (h : Half) (j i off : Nat) : Nat := s.wordN (ARM.addr h j + 0x870 + 112 * i + off)

/-- The joints of an arm, 0 where it is not configured. -/
def armJoints (s : State) (h : Half) (j : Nat) : Nat :=
  let n := headerByte s h j 1
  if n ≤ 9 then n else 0

/-- The axis numbers of an arm, in joint order. -/
def armAxes (s : State) (h : Half) (j : Nat) : List Nat :=
  (List.range (armJoints s h j)).map (fun i => headerByte s h j (4 + i))

/-- An arm is configured. -/
def armConfigured (s : State) (h : Half) (j : Nat) : Bool := decide (armJoints s h j ≠ 0)

/-- The arm an axis belongs to. -/
def armOf (s : State) (h : Half) (k : Nat) : Option Nat :=
  (List.range 16).find? (fun j => (armAxes s h j).contains k)

/-- The joint of an arm that an axis is. -/
def jointOf (s : State) (h : Half) (j k : Nat) : Nat := (armAxes s h j).idxOf k

/-- ARM.STATE of an arm. -/
def armState (s : State) (h : Half) (j : Nat) : Nat := s.fld (ARM.addr h j) ARM.STATE

/-- A path of the arm runs: running, waiting for a hoist, or stopping. -/
def armBusy (s : State) (h : Half) (j : Nat) : Bool :=
  let x := armState s h j
  decide (x = 1 ∨ x = 2 ∨ x = 3 ∨ x = 5)

/-- The arm whose running path owns an axis. -/
def pathOwner (s : State) (h : Half) (k : Nat) : Option Nat :=
  (armOf s h k).bind (fun j => if armBusy s h j then some j else none)

/-! Hoists (R100). -/

/-- An arm that a hoist was to start at T_k stays at the head of its queue at rest: what it had sampled beyond T_k is the rest
position (R100). -/
def ArmUnit.holdAt (u : ArmUnit) (k : Nat) : ArmUnit :=
  let rest := u.sampleOf k
  let block := u.jsOf k
  let q := (rest.map (fun x => x.q)).getD u.q
  { u with
    running := false, rest := true, q := q, place := { u.place with s := 0, sd := 0, sdd := 0 },
    js := u.js.map (fun b => if k < b.tag then { b with pos := (block.map (fun x => x.pos)).getD b.pos } else b),
    samples := u.samples.map (fun x => if k < x.tag then
      { x with cart := false, done := true, q := q, qd := q.map (fun _ => 0), qdd := q.map (fun _ => 0) } else x) }

/-- The arms of a mask that a hoist has released wait for it again. -/
def hoistRevert (s : State) (h : Half) (mask id k : Nat) : Nat → State
  | 0 => s
  | j + 1 =>
    let s := hoistRevert s h mask id k j
    if bitOf mask j && (s.arm h j).running then
      let s := s.setArm h j ((s.arm h j).holdAt k)
      if s.fld (ARM.addr h j) ARM.STATE = 1 then
        (s.setFld (ARM.addr h j) ARM.STATE 2).setFld (ARM.addr h j) ARM.HOIST_WAIT id
      else s
    else s

/-- Every armed hoist that has not started and names arm j is cancelled: the segments of its arms stay at the heads of their
queues (R100). -/
def cancelHoists (s : State) (h : Half) (j : Nat) : Nat → State
  | 0 => s
  | i + 1 =>
    let s := cancelHoists s h j i
    let b := HLIST.addr h i
    if s.fld b HLIST.H_STATE = 1 ∧ bitOf (s.fld b HLIST.L_MASK) j then
      let s := match (s.hoist h i).startK with
        | none => s
        | some k => hoistRevert s h (s.fld b HLIST.L_MASK) (s.fld b HLIST.L_ID) k 16
      raiseEvt (s.setFld b HLIST.H_STATE 3) h 114
    else s

/-! Stops (R101). -/

/-- A path stop or a path quick stop of an arm that runs or waits for a hoist; a stop already running becomes quick where
the new one is. -/
def pathStop (s : State) (h : Half) (j : Nat) (quick : Bool) : State :=
  let x := armState s h j
  let u := s.arm h j
  if x = 1 ∨ x = 2 then
    let s := (s.setFld (ARM.addr h j) ARM.STATE 3).setFld (ARM.addr h j) ARM.HOIST_WAIT 0
    let s := s.setArm h j { u with stopQuick := quick, stopUp := false, stop := { u.stop with run := 0, up := false } }
    cancelHoists s h j 8
  else if x = 3 ∧ quick then s.setArm h j { u with stopQuick := true }
  else s

/-- The command that runs on an axis ends with a result, under its own TAG. -/
def endCommand (s : State) (h : Half) (k code : Nat) : State :=
  let b := PRF.addr h k
  if s.flag b PRF.BUSY then ((s.putFlag b PRF.BUSY false).setFld b PRF.RESULT code).setFld b PRF.TAG (s.prf h k).cmdTag else s

/-- A profile unit brakes to standstill, at QS_DEC where the stop is quick (R57, R72): a command in progress ends as
interrupted. A stop that runs already keeps the deceleration it has taken. DEDUCED (log entry 120). -/
def stopAxis (s : State) (h : Half) (k : Nat) (quick : Bool) : State :=
  let going := decide (s.fld (PRF.addr h k) PRF.MODE_ACT = 6)
  let s := endCommand s h k 10
  let u := s.prf h k
  let s := s.setPrf h k { u with quick := quick || (going && u.quick), escalated := going && u.escalated, softStop := false,
                                 soft := false, demand := none }
  s.setFld (PRF.addr h k) PRF.MODE_ACT 6

/-- The queue of an arm is flushed: Q_RD becomes Q_ACK. -/
def flushQueue (s : State) (h : Half) (j : Nat) : State :=
  s.setFld (ARM.addr h j) ARM.Q_RD (s.fld (ARM.addr h j) ARM.Q_ACK)

/-- A joint-space stop of an arm's axes: each joint decelerates on its own, the path is aborted (event 112), the queue is
flushed and armed hoists of the arm are cancelled. During such a stop a hard one makes the stop of every joint hard (R76). -/
def jointStop (s : State) (h : Half) (j : Nat) (quick : Bool) : State :=
  if armBusy s h j ∧ armState s h j ≠ 5 ∨ armState s h j = 4 then
    let s := (armAxes s h j).foldl (fun s k => stopAxis s h k quick) s
    let s := (s.setFld (ARM.addr h j) ARM.STATE 5).setFld (ARM.addr h j) ARM.HOIST_WAIT 0
    let s := cancelHoists s h j 8
    let s := s.setArm h j { s.arm h j with running := false }
    raiseEvt (flushQueue s h j) h 112
  else if armState s h j = 5 ∧ quick then
    (armAxes s h j).foldl (fun s k => if s.fld (PRF.addr h k) PRF.MODE_ACT = 6 then stopAxis s h k true else s) s
  else s

end Sys2Proof.Machine
end

