-- ==== Sys2Proof/Machine/Planner.lean ====
section
/-! DEFINITION. Jerk-limited motion in minimum time (R54, R55, R58, R65, R94): changes of speed, moves to a position, and the
set-point of one period. Every quantity is an integer in units of 2^-64 of its unit (revolution or path unit, second). -/
namespace Sys2Proof.Machine

/-! Arithmetic with 64 binary places. -/

def fineUnit : Int := 2 ^ 64
def fineMul (x y : Int) : Int := x * y / fineUnit
def fineSq (x : Int) : Int := fineMul x x
def fineDiv (x y : Int) : Int := if y = 0 then 0 else x * fineUnit / y
def fineSqrt (x : Int) : Int := (isqrt (x.toNat * 2 ^ 64) : Int)

/-- ns nanoseconds in units of 2^-64 s. -/
def fineNs (ns : Nat) : Int := (ns : Int) * fineUnit / 1000000000

/-- The larger and the smaller of two integers. -/
def maxI (x y : Int) : Int := if x ≤ y then y else x
def minI (x y : Int) : Int := if x ≤ y then x else y

/-! Motions. -/

/-- The limits in force (R54): speed, acceleration, deceleration and jerk. -/
structure Limits where
  v : Int
  a : Int
  d : Int
  j : Int
  deriving DecidableEq, Repr

/-- A set-point state: position, velocity and acceleration. -/
structure SetPoint where
  p : Int
  v : Int
  a : Int
  deriving DecidableEq, Repr

/-- A stretch of a motion with constant jerk: the jerk and the time. -/
structure Phase where
  j : Int
  t : Int
  deriving DecidableEq, Repr

/-- The state at the end of a phase: position and velocity are the integrals of the acceleration. -/
def SetPoint.run (x : SetPoint) (f : Phase) : SetPoint :=
  let jt := fineMul f.j f.t
  let half := fineMul (3 * x.a + jt) f.t
  { p := x.p + fineMul x.v f.t + fineMul half f.t / 6, v := x.v + fineMul (2 * x.a + jt) f.t / 2, a := x.a + jt }

/-- The state at the end of a list of phases. -/
def SetPoint.runAll (x : SetPoint) (l : List Phase) : SetPoint := l.foldl SetPoint.run x

/-- The time of a list of phases. -/
def planTime (l : List Phase) : Int := l.foldl (fun t f => t + f.t) 0

/-- The motion after a time dt; past the last phase it goes on at the speed reached. -/
def SetPoint.after (x : SetPoint) (dt : Int) : List Phase → SetPoint
  | [] => { p := x.p + fineMul x.v dt, v := x.v, a := 0 }
  | f :: l => if dt ≤ f.t then x.run ⟨f.j, dt⟩ else (x.run f).after (dt - f.t) l

/-- The same motion in the other direction. -/
def mirrorPlan (l : List Phase) : List Phase := l.map (fun f => ⟨-f.j, f.t⟩)

/-! Changes of speed. -/

/-- A rise of the speed from u, with acceleration b, to w with acceleration 0, the acceleration at most top: it rises to its
peak, is held there, and returns to 0. -/
def rise (top j u b w : Int) : List Phase :=
  let back := if top < b then [⟨-j, fineDiv (b - top) j⟩] else []
  let u := if top < b then u + fineDiv (fineSq b - fineSq top) (2 * j) else u
  let b := minI b top
  let peak := maxI 0 (maxI b (fineSqrt (fineMul j (w - u) + fineSq b / 2)))
  if peak ≤ top then back ++ [⟨j, fineDiv (peak - b) j⟩, ⟨-j, fineDiv peak j⟩]
  else
    let hold := maxI 0 (fineDiv (w - u - fineDiv (2 * fineSq top - fineSq b) (2 * j)) top)
    back ++ [⟨j, fineDiv (top - b) j⟩, ⟨0, hold⟩, ⟨-j, fineDiv top j⟩]

/-- A rise of the speed from u, with acceleration b, to the speed c with acceleration m, the acceleration at most top; none
where the way is too short to come to m. -/
def riseTo (top j u b c m : Int) : Option (List Phase) :=
  let sq := fineMul j (c - u) + (fineSq b + fineSq m) / 2
  let peak := fineSqrt sq
  if sq ≤ 0 ∨ peak < b ∨ peak < m ∨ top < b then none
  else if peak ≤ top then some [⟨j, fineDiv (peak - b) j⟩, ⟨-j, fineDiv (peak - m) j⟩]
  else
    let hold := fineDiv (c - u - fineDiv (2 * fineSq top - fineSq b - fineSq m) (2 * j)) top
    some [⟨j, fineDiv (top - b) j⟩, ⟨0, maxI 0 hold⟩, ⟨-j, fineDiv (top - m) j⟩]

/-- A change of speed upward (R54, R58): D_MAX bounds it while the velocity is negative, A_MAX while it is positive, and the
smaller of both in the period in which it passes through zero. -/
def speedUp (l : Limits) (dt u b w : Int) : List Phase :=
  if w ≤ 0 then rise l.d l.j u b w
  else if 0 ≤ u ∨ l.a = l.d then rise l.a l.j u b w
  else
    let m := minI l.a l.d
    let hold := if l.a < l.d then dt else 0
    match riseTo l.d l.j u b (-fineMul m hold) m with
    | none => rise l.a l.j u b w
    | some f => if fineSq m ≤ 2 * fineMul l.j w then f ++ ⟨0, hold⟩ :: rise l.a l.j 0 m w else rise l.d l.j u b w

/-- The speed that is left when the acceleration is brought to 0 at the jerk limit. -/
def restSpeed (l : Limits) (v a : Int) : Int := v + (if a < 0 then -1 else 1) * fineDiv (fineSq a) (2 * l.j)

/-- The fastest change of speed from v, with acceleration a, to w with acceleration 0. -/
def speedPlan (l : Limits) (dt v a w : Int) : List Phase :=
  if restSpeed l v a ≤ w then speedUp l dt v a w else mirrorPlan (speedUp l dt (-v) (-a) (-w))

/-! Moves to a position. -/

/-- The largest value from lo to hi whose gain of position is at most want, for a gain that grows; n halvings. -/
def largestGain (gain : Int → Int) (want : Int) : Nat → Int → Int → Int
  | 0, lo, _ => lo
  | n + 1, lo, hi =>
    let mid := (lo + hi) / 2
    if gain mid ≤ want then largestGain gain want n mid hi else largestGain gain want n lo mid

/-- What counts as on the goal for a plan: 2^-36. -/
def planTol : Int := 2 ^ 28

/-- The gain of position of a plan on a point that moves at speed mv. -/
def planGain (x : SetPoint) (mv : Int) (f : List Phase) : Int := (x.runAll f).p - x.p - fineMul mv (planTime f)

/-- A move that gains more than the direct change of speed by braking less: the deceleration a < 0 is first reduced to b. -/
def easePlan (l : Limits) (dt ve : Int) (x : SetPoint) (b : Int) : List Phase :=
  let f : Phase := ⟨l.j, fineDiv (b - x.a) l.j⟩
  f :: speedPlan l dt (x.run f).v (x.run f).a ve

/-- A move that gains dist, more than the direct change of speed: by braking less, or to a cruise speed, along it, and to the
end speed. -/
def cruisePlan (l : Limits) (dt dist mv ve : Int) (x : SetPoint) : List Phase :=
  let up (c : Int) : List Phase := speedPlan l dt x.v x.a c
  let down (c : Int) : List Phase := speedPlan l dt c 0 ve
  let gain (c : Int) : Int := planGain x mv (up c ++ down c)
  let ease (b : Int) : Int := planGain x mv (easePlan l dt ve x b)
  let rest := restSpeed l x.v x.a
  let full := gain l.v
  if full ≤ dist then
    up l.v ++ ⟨0, if mv < l.v then fineDiv (dist - full) (l.v - mv) else fineUnit * fineUnit⟩ :: down l.v
  else if x.a < 0 ∧ ve < rest ∧ dist < ease 0 then easePlan l dt ve x (largestGain ease dist 100 x.a 0)
  else
    let c := largestGain gain dist 100 (minI (maxI ve rest) l.v) l.v
    up c ++ down c

/-- The fastest motion to a point dist ahead that moves at speed mv, reached with speed ve and acceleration 0 (R55): the
direct change of speed where it ends on the point, else one with a cruise, forward or back. -/
def movePlan (l : Limits) (dt dist mv ve : Int) (x : SetPoint) : List Phase :=
  let direct := speedPlan l dt x.v x.a ve
  let g := dist - planGain x mv direct
  if g.natAbs ≤ planTol.natAbs then direct
  else if 0 < g then cruisePlan l dt dist mv ve x
  else mirrorPlan (cruisePlan l dt (-dist) (-mv) (-ve) ⟨-x.p, -x.v, -x.a⟩)

/-! Goals and periods. -/

/-- What a generator moves toward: a position, passed at a speed; a speed; or a demand d for the end of the period that moves
at vd. -/
inductive Goal where
  | pos (g ve : Int)
  | vel (g : Int)
  | demand (d vd : Int)
  deriving DecidableEq, Repr

/-- The goal as it stands one period later. -/
def Goal.next (dt : Int) : Goal → Goal
  | .demand d vd => .demand (d + fineMul vd dt) vd
  | g => g

/-- The fastest motion to a goal. A demand that moves faster than the speed limit is met, where it comes from behind, at the
speed limit; one that runs ahead is followed at it (R65). -/
def goalPlan (l : Limits) (dt : Int) (x : SetPoint) : Goal → List Phase
  | .pos g ve => movePlan l dt (g - x.p) 0 ve x
  | .vel g => speedPlan l dt x.v x.a (clampI (-l.v) l.v g)
  | .demand d vd =>
    let vc := clampI (-l.v) l.v vd
    let dist := d - fineMul vd dt - x.p
    if vc ≠ vd ∧ 0 ≤ dist * sgn vd then speedPlan l dt x.v x.a vc else movePlan l dt dist vd vc x

/-- The periods to the goal in minimum time, rounded up (R55). -/
def goalPeriods (l : Limits) (dt : Int) (x : SetPoint) (g : Goal) : Int := (planTime (goalPlan l dt x g) + dt - 1) / dt

/-- The set-point of the period in which the goal is reached: on it exactly (R54). -/
def goalEnd (l : Limits) (dt : Int) (x : SetPoint) : Goal → SetPoint
  | .pos g ve => ⟨g, ve, 0⟩
  | .vel g => { x.after dt (goalPlan l dt x (.vel g)) with v := clampI (-l.v) l.v g, a := 0 }
  | .demand d vd =>
    let z := x.after dt (goalPlan l dt x (.demand d vd))
    if z.v = vd ∧ (z.p - d).natAbs ≤ 2 ^ 32 then ⟨d, vd, 0⟩ else z

/-- A set-point can still bring its deceleration to the smaller of A_MAX and D_MAX one period before it passes through zero
speed. -/
def canCross (l : Limits) (dt : Int) (y : SetPoint) : Bool :=
  let m := minI l.a l.d
  decide (0 ≤ y.v * y.a ∨ y.a.natAbs ≤ m.natAbs + 2 ^ 20 ∨
    fineMul m dt + fineDiv (fineSq y.a - fineSq m) (2 * l.j) ≤ y.v.natAbs + 2 ^ 20)

/-- The conditions of R54 on a set-point y that follows x, and that bringing its acceleration to 0 keeps the speed limit.
Where the limits were lowered below the present values, a value may return toward them. Rounding of the planner's last
places counts for nothing. -/
def legalStep (l : Limits) (dt : Int) (x y : SetPoint) : Bool :=
  let ulp := 2 ^ 20
  let m := minI l.a l.d
  let cross := decide (x.v * y.v < 0)
  let top := if cross then m else if x.v.natAbs < y.v.natAbs then l.a else l.d
  decide (y.v.natAbs ≤ l.v.natAbs + ulp ∨ y.v.natAbs < x.v.natAbs) &&
    decide ((restSpeed l y.v y.a).natAbs ≤ l.v.natAbs + ulp ∨ (restSpeed l y.v y.a).natAbs < x.v.natAbs) &&
    decide (y.a.natAbs ≤ top.natAbs + ulp ∨ y.a.natAbs < x.a.natAbs) &&
    (!cross || decide (x.a.natAbs ≤ m.natAbs + ulp)) &&
    decide ((y.a - x.a).natAbs ≤ (fineMul l.j dt).natAbs + ulp)

/-- The first set-point of a list of plans that keeps R54; without one the acceleration is brought to 0. -/
def firstLegal (l : Limits) (dt : Int) (x : SetPoint) : List (Limits × Goal) → SetPoint
  | [] =>
    let jdt := fineMul l.j dt
    x.run ⟨fineDiv (clampI (x.a - jdt) (x.a + jdt) 0 - x.a) dt, dt⟩
  | (k, g) :: t =>
    let y := x.after dt (goalPlan k dt x g)
    if legalStep l dt x y then y else firstLegal l dt x t

/-- The set-point one period on along the fastest motion to a goal, with the smaller of A_MAX and D_MAX for both where the
motion passes through zero speed, or braking, as R54 allows. -/
def fastStep (l : Limits) (dt : Int) (x : SetPoint) (g : Goal) : SetPoint :=
  let m := minI l.a l.d
  let k : Limits := { l with a := m, d := m }
  firstLegal l dt x [(l, g), (k, g), (l, .vel 0), (k, .vel 0)]

/-- The set-point after one period dt toward a goal, w the acceleration the generator would take by itself. R55 fixes the
time of arrival and not the profile: w is taken where it keeps R54 and loses no period on the way to the goal, else the
fastest motion is followed. DESIGN CHOICE (log entry 22). -/
def genStep (l : Limits) (dt : Int) (x : SetPoint) (g : Goal) (w : Int) : SetPoint :=
  let n := goalPeriods l dt x g
  if n ≤ 1 then
    let y := goalEnd l dt x g
    if legalStep l dt x y then y else fastStep l dt x g
  else
    let jdt := fineMul l.j dt
    let y := x.run ⟨fineDiv (clampI (x.a - jdt) (x.a + jdt) w - x.a) dt, dt⟩
    if legalStep l dt x y && canCross l dt y && decide (goalPeriods l dt y (g.next dt) + 1 ≤ n) then y
    else fastStep l dt x g

/-- Where a set-point comes to rest when it brakes at once. -/
def stopPoint (l : Limits) (dt : Int) (x : SetPoint) : Int := (x.runAll (speedPlan l dt x.v x.a 0)).p

end Sys2Proof.Machine
end

