-- ==== Sys2Proof/Machine/Profile.lean ====
section
/-! DEFINITION. The profile units (R50 to R69, R81): the motion of one period within the limits, couplings, cams, soft
limits, and the set-point of one compute window. -/
namespace Sys2Proof.Machine

/-! The set-point of an axis. -/

/-- A set-point from its register formats (R52): position 2^-32 rev, velocity 2^-16 rev/s, acceleration 2^-8 rev/s^2. -/
def regPoint (p v a : Int) : SetPoint := ⟨p * 2 ^ 32, v * 2 ^ 48, a * 2 ^ 56⟩

/-- The set-point of an axis as the generator carries it: its registers with the remainders of their rounding (R54). -/
def spFine (s : State) (h : Half) (k : Nat) : SetPoint :=
  let b := PRF.addr h k
  let u := s.prf h k
  ⟨s.fldS b PRF.SP_POS * 2 ^ 32 + u.rem, s.fldS b PRF.SP_VEL * 2 ^ 48 + u.vRem, s.fldS b PRF.SP_ACC * 2 ^ 56 + u.aRem⟩

/-- The set-point of an axis stands still. -/
def spAtRest (s : State) (h : Half) (k : Nat) : Bool := decide ((spFine s h k).v = 0 ∧ (spFine s h k).a = 0)

/-- The mean velocity over one period of P ns that takes position p0 to p1, in the velocity format. -/
def meanVel (p : Nat) (p0 p1 : Int) : Int := divUp ((p1 - p0) * 1000000000) ((p : Int) * 65536)

/-- The set-point that follows a demand exactly, where R54 allows it (R65). -/
def followExact (l : Limits) (dt : Int) (x : SetPoint) (d : Int) : Option SetPoint :=
  let v := fineDiv (d - x.p) dt
  let y : SetPoint := ⟨d, v, fineDiv (v - x.v) dt⟩
  if legalStep l dt x y then some y else none

/-- The soft limits that act on an axis (R68): SOFT_NEG and SOFT_POS while SOFT_EN is set and the axis is referenced. -/
def softLimits (s : State) (h : Half) (k : Nat) : Option (Int × Int) :=
  let b := PRF.addr h k
  if s.flag b PRF.SOFT_EN && s.flag b PRF.REF then some (s.fldS b PRF.SOFT_NEG, s.fldS b PRF.SOFT_POS) else none

/-- The outcome of a period at the soft limits: nothing to do, brake so that the ramp ends on the limit, brake with the
escalated deceleration, or pass the limit. -/
inductive SoftAct where
  | free
  | brake (lim : Int)
  | escalate (lim : Int)
  | overrun
  deriving DecidableEq, Repr

/-- What the soft limits ask of a set-point that would next be y (R68, R69): the limit ahead is passed where braking at once
from y, from x, or from x with the escalated deceleration qs, ends more than 2^-32 rev beyond it. -/
def softAct (l : Limits) (qs dt : Int) (x y : SetPoint) : Option (Int × Int) → SoftAct
  | none => .free
  | some (neg, pos) =>
    let dir : Int := if y.v ≠ 0 then sgn y.v else if x.v ≠ 0 then sgn x.v else sgn y.a
    let lim := (if dir = 1 then pos else neg) * 2 ^ 32
    let within (l : Limits) (x : SetPoint) : Bool := decide (-(2 ^ 32) ≤ (lim - stopPoint l dt x) * dir)
    if dir = 0 ∨ within l y then .free
    else if within l x then .brake lim
    else if within { l with d := qs } x then .escalate lim
    else .overrun

/-! The limits of an axis (R52, R56, R81). -/

/-- A limit in force: a decrease waits while a braking ramp that uses it runs. -/
def inForce (held : Option Nat) (now : Nat) (waits : Bool) : Nat × Bool :=
  match held with
  | none => (now, false)
  | some x => if waits && decide (now < x) then (x, true) else (now, false)

/-- The limits of axis k for this period, the escalated deceleration of R69, and the state with DEFER and the held values. A
braking ramp runs from the period that plans it: a stop counts while its acceleration is still being reduced. A soft start
moves at SS_V (R81), the back-off of a homing at HOME_V_CREEP (R80). -/
def takeLimits (s : State) (h : Half) (k : Nat) : Limits × Int × State :=
  let b := PRF.addr h k
  let u := s.prf h k
  let ramp := decide (s.fld b PRF.PHASE = 3) || (decide (s.fld b PRF.MODE_ACT = 6) && !spAtRest s h k)
  let (d, w1) := inForce u.heldD (s.fld b PRF.D_MAX) (ramp && !u.quick)
  let (q, w2) := inForce u.heldQ (s.fld b PRF.QS_DEC) (ramp && (u.quick || u.escalated))
  let (j, w3) := inForce u.heldJ (s.fld b PRF.J_MAX) ramp
  let s := s.putFlag b PRF.DEFER (w1 || w2 || w3)
  let s := s.setPrf h k { u with heldD := some d, heldQ := some q, heldJ := some j }
  let v := s.fld b PRF.V_MAX
  let v := if u.soft then Nat.min v (s.fld b PRF.SS_V) else v
  let v := match u.homing with
    | none => v
    | some hm => if hm.motion = 9 then Nat.min v hm.vCreep else v
  let fine (x : Nat) : Int := (x : Int) * 2 ^ 56
  let big := if d < q then q else d
  ({ v := (v : Int) * 2 ^ 48, a := fine (s.fld b PRF.A_MAX),
     d := fine (if u.escalated then big else if u.quick then q else d), j := (Nat.max 1 j : Nat) * 2 ^ 64 }, fine big, s)

/-- No limit of an axis waits: its generator plans nothing. -/
def noDefer (s : State) (h : Half) (k : Nat) : State :=
  (s.setPrf h k { s.prf h k with heldD := none, heldQ := none, heldJ := none }).putFlag (PRF.addr h k) PRF.DEFER false

/-! Couplings (R62 to R64). -/

/-- The 64-bit two's-complement quantity at an address. -/
def State.memQuadS (s : State) (a : Nat) : Int := toS 64 (s.memQuad a)

/-- A cam table that CAM accepts (R64). -/
def camOk (s : State) (a : Nat) : Bool :=
  let n := s.memN a
  let w := s.memN (a + 4)
  let r := s.memQuadS (a + 8)
  decide (w < 2 ∧ 2 ≤ n ∧ n ≤ 4096 ∧ 0 < r) &&
    (decide (w = 0) || decide (s.memQuad (a + 16) = s.memQuad (a + 16 + 8 * (n - 1))))

/-- Point i of a cam table. -/
def camPoint (s : State) (a i : Nat) : Int := s.memQuadS (a + 16 + 8 * i)

/-- Twice the slope at point i in position per interval: central differences, wrapping in a periodic table, one-sided at
the ends of another. -/
def camSlope2 (s : State) (a n i : Nat) (per : Bool) : Int :=
  if per then
    if i = 0 ∨ i = n - 1 then camPoint s a 1 - camPoint s a (n - 2) else camPoint s a (i + 1) - camPoint s a (i - 1)
  else if i = 0 then 2 * (camPoint s a 1 - camPoint s a 0)
  else if i = n - 1 then 2 * (camPoint s a (n - 1) - camPoint s a (n - 2))
  else camPoint s a (i + 1) - camPoint s a (i - 1)

/-- The slave position of a cam table at master position m (R64), rounded to nearest. -/
def camDemand (s : State) (a : Nat) (m origin : Int) : Int :=
  let n := s.memN a
  let per := decide (s.memN (a + 4) % 2 = 1)
  let r := s.memQuadS (a + 8)
  let phi := m - origin
  let phi := if per then phi % r else clampI 0 r phi
  let num := phi * ((n : Int) - 1)
  let i := (num / r).toNat
  let i := if n - 1 ≤ i then n - 2 else i
  let x := num - (i : Int) * r
  let y0 := camPoint s a i
  let y1 := camPoint s a (i + 1)
  let m0 := camSlope2 s a n i per
  let m1 := camSlope2 s a n (i + 1) per
  let t2 := 2 * (y0 - y1) * 2 + m0 + m1
  let c2 := 6 * (y1 - y0) - 2 * m0 - m1
  divUp (t2 * x * x * x + c2 * x * x * r + m0 * x * r * r + 2 * y0 * r * r * r) (2 * r * r * r)

/-- The master position of a coupling for T_{n+1} (R63): the master's set-point, or its actual position extrapolated by
one period. -/
def masterPos (s : State) (h : Half) (u : PrfUnit) : Int :=
  if u.srcAct then
    let c := s.ce h u.master
    c.pAct + divUp (c.vAct * s.periodNs h * 65536) 1000000000
  else s.fldS (PRF.addr h u.master) PRF.SP_POS

/-- How far the master of a coupling moves in the period that ends at T_{n+1}. -/
def masterStep (s : State) (h : Half) (u : PrfUnit) : Int :=
  if u.srcAct then divUp ((s.ce h u.master).vAct * s.periodNs h * 65536) 1000000000
  else s.fldS (PRF.addr h u.master) PRF.SP_POS - (s.prf h u.master).spPrev

/-- The coupled position of a gear. -/
def gearDemand (u : PrfUnit) (m : Int) : Int := divUp (u.s0 * u.den + (m - u.m0) * u.num) (Nat.max 1 u.den : Nat)

/-- The coupling takes its base at the window in which it takes effect, re-bases where GEAR_NUM or GEAR_DEN has
changed, and follows a change of GEAR_OFFSET where that is its base (R62). DEDUCED (log entry 24). -/
def takeGear (s : State) (h : Half) (k : Nat) (u : PrfUnit) (m : Int) : PrfUnit :=
  let b := PRF.addr h k
  let num := s.fldS b PRF.GEAR_NUM
  let den := s.fld b PRF.GEAR_DEN
  let offs := s.fldS b PRF.GEAR_OFFSET
  let u := { u with s0 := if u.engage ∨ u.relEngage then u.s0 else u.s0 + (offs - u.offs), offs := offs }
  if u.engage then
    let u := { u with num := num, den := den, engage := false }
    if u.relEngage then { u with s0 := s.fldS b PRF.SP_POS, m0 := m } else { u with s0 := offs, m0 := 0 }
  else if num ≠ u.num ∨ den ≠ u.den then { u with s0 := gearDemand u m, m0 := m, num := num, den := den }
  else u

/-! Results (R57 to R61). -/

/-- The axis is at standstill: HOLD_POS takes the rest position where a loop was switched on away from it (R81), and the
command is complete. -/
def atRest (s : State) (h : Half) (k : Nat) : State :=
  let b := PRF.addr h k
  let u := s.prf h k
  let s := if u.restHold then s.setFldS b PRF.HOLD_POS (s.fldS b PRF.SP_POS) else s
  let s := s.setPrf h k { u with restHold := false, soft := false, quick := false, escalated := false, softStop := false }
  endCommand (s.setFld b PRF.MODE_ACT 0) h k 12

/-- PHASE of a set-point y that follows x (R53): at rest, accelerating, constant, braking ramp until the acceleration is
zero again. -/
def phaseOf (was : Nat) (x y : SetPoint) : Nat :=
  if y.v = 0 ∧ y.a = 0 then 0
  else if y.v.natAbs < x.v.natAbs then 3
  else if x.v.natAbs < y.v.natAbs then 1
  else if y.a = 0 then 2
  else was

/-- The set-point of an axis in its register formats. -/
def spOf (s : State) (h : Half) (k : Nat) : SetPoint :=
  let b := PRF.addr h k
  ⟨s.fldS b PRF.SP_POS, s.fldS b PRF.SP_VEL, s.fldS b PRF.SP_ACC⟩

/-- The set-point of an axis becomes y: its registers take it rounded to nearest, and the remainders are carried. DEDUCED (log entry 23). -/
def putSp (s : State) (h : Half) (k : Nat) (y : SetPoint) : State :=
  let b := PRF.addr h k
  let x := spFine s h k
  let p := divUp y.p (2 ^ 32)
  let v := satS 32 (divUp y.v (2 ^ 48))
  let a := satS 32 (divUp y.a (2 ^ 56))
  let s := s.setFld b PRF.PHASE (phaseOf (s.fld b PRF.PHASE) x y)
  let s := s.setPrf h k { s.prf h k with rem := y.p - p * 2 ^ 32, vRem := y.v - v * 2 ^ 48, aRem := y.a - a * 2 ^ 56,
                                         spPrev := s.fldS b PRF.SP_POS }
  ((s.setFldS b PRF.SP_POS p).setFldS b PRF.SP_VEL v).setFldS b PRF.SP_ACC a

/-- The set-point follows a measured position and velocity: the loop is off, or the mode uses no set-point.
DEDUCED (log entry 27). -/
def followMeasured (s : State) (h : Half) (k : Nat) : State :=
  let c := s.ce h k
  putSp s h k (regPoint c.pAct c.vAct 0)

/-- A point-to-point or velocity motion brakes for the soft limit lim: it is stopping, and rests on the limit (R57, R68).
DEDUCED (log entry 118). -/
def softStop (s : State) (h : Half) (k : Nat) (lim : Int) : State :=
  let b := PRF.addr h k
  if s.fld b PRF.MODE_ACT = 1 ∨ s.fld b PRF.MODE_ACT = 2 then
    (s.setPrf h k { s.prf h k with softStop := true, target := divUp lim (2 ^ 32) }).setFld b PRF.MODE_ACT 6
  else s

/-- A soft limit is passed: SOFT_OVERRUN and event 98 at its onset, and a point-to-point or velocity motion ends and stops
(R57, R69). DEDUCED (log entry 118). -/
def softOverrun (s : State) (h : Half) (k : Nat) : State :=
  let b := PRF.addr h k
  let u := s.prf h k
  if u.softOver then s
  else
    let s := (s.setFlag b PRF.SOFT_OVERRUN).setPrf h k { u with softOver := true }
    let s := raiseEvt s h 98
    if s.fld b PRF.MODE_ACT = 1 ∨ s.fld b PRF.MODE_ACT = 2 then stopAxis s h k false else s

/-- One period toward a goal within R54 and the soft limits (R55). The profile's shape is not stated: the acceleration the
generator takes by itself is a free value, held to what keeps R54 and the time of arrival. DESIGN CHOICE (log entry 22). -/
def moveToward (s : State) (h : Half) (k : Nat) (g : Goal) : State :=
  let dt := fineNs (s.periodNs h)
  let lq := takeLimits s h k
  let l := lq.1
  let s := lq.2.2
  let x := spFine s h k
  let soft := softLimits s h k
  let w := s.takeFree
  let s := w.2
  let own := genStep l dt x g (toS 64 w.1.toNat * 2 ^ 16)
  let y := match g with
    | .demand d _ => (followExact l dt x d).getD own
    | _ => own
  match softAct l lq.2.1 dt x y soft with
  | .free =>
    let s := putSp s h k y
    s.setPrf h k { s.prf h k with softOver := false,
                                  escalated := (s.prf h k).escalated && decide (s.fld (PRF.addr h k) PRF.MODE_ACT = 6) }
  | .brake lim => putSp (softStop s h k lim) h k (fastStep l dt x (.pos lim 0))
  | .escalate lim =>
    let s := softStop s h k lim
    let s := s.setPrf h k { s.prf h k with escalated := true, softStop := false }
    putSp s h k (fastStep { l with d := lq.2.1 } dt x (.vel 0))
  | .overrun =>
    let s := softOverrun s h k
    let s := s.setPrf h k { s.prf h k with escalated := true }
    putSp s h k (fastStep { l with d := lq.2.1 } dt x (.vel 0))

/-- What a coupled mode reports of its demand d0, which moves at vd (R65 to R67): LAG, CLAMP, and what the mode says of a
lag. -/
def reportLag (s : State) (h : Half) (k : Nat) (d0 vd : Int) (path : Bool) : State :=
  let b := PRF.addr h k
  let lag := d0 - s.fldS b PRF.SP_POS
  let s := s.setFldS b PRF.LAG (satS 64 lag)
  let s := s.flagIf (decide (lag ≠ 0)) b PRF.CLAMP
  if path then
    let was := (s.prf h k).clampNow
    let now := decide (lag ≠ 0)
    let s := s.setPrf h k { s.prf h k with clampNow := now }
    if now then
      let s := raiseIf (s.setFlag b PRF.PATH_CLAMP) (!was) h 100
      match armOf s h k with
      | none => s
      | some j =>
        let s := if armState s h j = 1 then s.setFlag (ARM.addr h j) ARM.CLAMP_STOP else s
        pathStop s h j true
    else s
  else
    let exceeds := decide (s.fld b PRF.LAG_TOL < lag.natAbs)
    let was := (s.prf h k).lagOver
    let s := s.setPrf h k { s.prf h k with lagOver := exceeds }
    let s := s.putFlag b PRF.SYNC (!exceeds && decide (s.fldS b PRF.SP_VEL = vd))
    if exceeds && !was then raiseEvt (s.setFlag b PRF.SYNC_LOST) h 99 else s

/-- A demand of a coupled mode (R65 to R67): followed as closely as R54 and the soft limits allow. before: the coupled position
one period before, for the first period of the coupling. -/
def followDemand (s : State) (h : Half) (k : Nat) (d before : Int) (path : Bool) : State :=
  let u := s.prf h k
  let held := match softLimits s h k with
    | none => d
    | some (neg, pos) => clampI neg pos d
  let vd := meanVel (s.periodNs h) (u.demand.getD before) d
  let s := s.setPrf h k { u with demand := some d }
  reportLag (moveToward s h k (.demand (held * 2 ^ 32) (vd * 2 ^ 48))) h k d vd path

/-- The period in which a gear is engaged relative to the set-points of its master and its slave (R62): the slave takes the
speed of the coupling, and its set-point is the base, so there is no lag. DEDUCED (log entry 24). -/
def engageRel (s : State) (h : Half) (k : Nat) (u : PrfUnit) (m before : Int) : State :=
  let vd := meanVel (s.periodNs h) (gearDemand u before) (gearDemand u m)
  let s := moveToward (s.setPrf h k u) h k (.vel (vd * 2 ^ 48))
  let p := s.fldS (PRF.addr h k) PRF.SP_POS
  reportLag (s.setPrf h k { s.prf h k with s0 := p, m0 := m, demand := some p }) h k p vd false

/-- The demand of a path-follow axis for T_{n+1} (R42, R48, R67): its arm's joint set-point block where it carries the
tag, else the last two set-points continued at constant velocity. -/
def pathDemand (s : State) (h : Half) (k : Nat) : Int :=
  let b := PRF.addr h k
  let now := s.fldS b PRF.SP_POS
  match armOf s h k with
  | none => now
  | some j =>
    let ext := now + (now - (s.prf h k).spPrev)
    match (s.arm h j).jsOf (s.periodNum h + 1) with
    | none => ext
    | some blk => blk.pos.getD (jointOf s h j k) now

/-- Whether any joint of an arm is in path-follow mode. DEDUCED (log entry 28). -/
def armFollows (s : State) (h : Half) (j : Nat) : Bool :=
  (armAxes s h j).any (fun k => decide (s.fld (PRF.addr h k) PRF.MODE_ACT = 5))

end Sys2Proof.Machine
end

