-- ==== Sys2Proof/Machine/ProfileRun.lean ====
section
/-! DEFINITION. The profile units: commands, limit and home inputs, homing, switching the loop, and the stage of the compute
window (R50, R57 to R61, R70 to R83). -/
namespace Sys2Proof.Machine

/-! References (R79). -/

/-- The reference p_ref is found: HOME_POS - p_ref is added to POS_OFFSET and shifts the actual position and the set-point
in the same period. HOLD_POS stays as it is: R79 names the actual position and the set-point alone. DESIGN CHOICE (log
entry 126). -/
def applyRef (s : State) (h : Half) (k : Nat) (homePos pref : Int) : State :=
  let b := PRF.addr h k
  let dl := homePos - pref
  let u := s.prf h k
  let c := s.ce h k
  let s := s.setPrf h k { u with spPrev := u.spPrev + dl, posHist := u.posHist.map (fun x => (x.1, x.2 + dl)) }
  let s := s.setCe h k { c with pAct := c.pAct + dl, pPrev := c.pPrev + dl, pSp := c.pSp + dl, frozen := c.frozen + dl }
  let s := s.setFldS b PRF.POS_OFFSET (s.fldS b PRF.POS_OFFSET + dl)
  let s := s.setFldS b PRF.REF_POS pref
  s.setFldS b PRF.SP_POS (s.fldS b PRF.SP_POS + dl)

/-- p_ref of an edge at offset ns from sync instant m, by interpolation between the samples at m and m + 1, rounded to
nearest; none while a sample is missing. -/
def interpolateRef (hist : List (Nat × Int)) (p m off : Nat) : Option Int :=
  match hist.lookup m, hist.lookup (m + 1) with
  | some a, some b => some (a + divUp ((b - a) * off) p)
  | _, _ => none

/-! Homing (R77 to R80). -/

/-- HOME_STEP of a homing's motion: 1 first back-off, 2 fast run, 3 its braking, 4 its back-off, 5 creep, 6 braking after
the reference, 7 last back-off, 8 creep to the index, 9 back-off from the hard stop, 10 absolute. -/
def homeStep (hm : Homing) : Nat :=
  match hm.motion with
  | 1 => 1
  | 2 => 2
  | 3 => 2
  | 4 => 2
  | 5 => if hm.method = 4 ∨ hm.method = 5 then 1 else 3
  | 6 => if hm.method = 4 then 2 else 4
  | 7 => 5
  | 8 => 4
  | 9 => 4
  | 10 => 1
  | _ => 0

/-- The homing of an axis takes a new state. -/
def putHoming (s : State) (h : Half) (k : Nat) (hm : Homing) : State :=
  (s.setPrf h k { s.prf h k with homing := some hm }).setFld (PRF.addr h k) PRF.HOME_STEP (homeStep hm)

/-- No homing runs on an axis. -/
def dropHoming (s : State) (h : Half) (k : Nat) : State :=
  (s.setPrf h k { s.prf h k with homing := none }).setFld (PRF.addr h k) PRF.HOME_STEP 0

/-- A homing aborts (R77): HOME_ABORT, code "home aborted", event 97; but for the absolute method REF stays clear, and is
cleared where the reference had been found. DEDUCED (log entry 26). -/
def abortHoming (s : State) (h : Half) (k : Nat) (code : Nat) : State :=
  let b := PRF.addr h k
  let absolute := match (s.prf h k).homing with
    | none => true
    | some hm => decide (hm.method = 0)
  let s := if absolute then s else s.putFlag b PRF.REF false
  let s := endCommand (s.setFlag b PRF.HOME_ABORT) h k code
  raiseEvt (dropHoming s h k) h 97

/-- The profile unit of an axis plans its motion: the loop is on, and the mode is neither torque nor hold. -/
def plansMotion (s : State) (h : Half) (k : Nat) : Bool :=
  let m := s.fld (CE.addr h k) CE.MODE_ACT
  decide (m ≠ 0 ∧ m ≠ 3 ∧ m ≠ 5)

/-- A homing completes: REF is set, and an axis that still moves under its profile unit brakes at D_MAX. -/
def completeHoming (s : State) (h : Half) (k : Nat) : State :=
  let b := PRF.addr h k
  let s := endCommand (dropHoming (s.setFlag b PRF.REF) h k) h k 12
  if spAtRest s h k || !plansMotion s h k then s.setFld b PRF.MODE_ACT 0 else stopAxis s h k false

/-- The input a switch method homes to: 0 positive limit, 1 negative limit, 2 home. -/
def homeSwitch (hm : Homing) : Option Nat :=
  if hm.method = 1 then some (if hm.neg then 1 else 0) else if hm.method = 2 ∨ hm.method = 3 then some 2 else none

/-- An input of a profile unit. -/
def PrfUnit.input (u : PrfUnit) : Nat → InputRun
  | 0 => u.limP
  | 1 => u.limN
  | _ => u.home

/-- An input of a profile unit takes a new state. -/
def PrfUnit.setInput (u : PrfUnit) (i : Nat) (r : InputRun) : PrfUnit :=
  match i with
  | 0 => { u with limP := r }
  | 1 => { u with limN := r }
  | _ => { u with home := r }

/-- The bit of PRF.STATE that shows an input. -/
def inputFld : Nat → Fld
  | 0 => PRF.LIM_P_IN
  | 1 => PRF.LIM_N_IN
  | _ => PRF.HOME_IN

/-- What the first compute window of a homing begins with. -/
def homingStart (u : PrfUnit) (hm : Homing) : Homing :=
  if hm.method = 0 then { hm with motion := 10 }
  else match homeSwitch hm with
    | none => { hm with motion := 5 }
    | some i => { hm with motion := if (u.input i).qual then 1 else if hm.fast then 2 else 5 }

/-- The velocity goal of a homing's motion. -/
def homingVel (hm : Homing) : Int :=
  let d : Int := if hm.neg then -1 else 1
  match hm.motion with
  | 1 => -d * hm.vCreep
  | 2 => d * hm.vFast
  | 4 => -d * hm.vCreep
  | 5 => d * hm.vCreep
  | 7 => -d * hm.vCreep
  | 8 => d * hm.vCreep
  | _ => 0

/-- A stamp on servo time as period number and offset (R72): the low 32 bits of the number below the offset. -/
def edgeQuad (p t : Nat) : Nat := t / p % 2 ^ 32 + 2 ^ 32 * (t % p)

/-- A limit is latched by its first qualified active edge (R72, R73): the edge, LIM_DIR_ERR and event 96. -/
def latchLimit (s : State) (h : Half) (k i : Nat) (stamp : Nat) : State :=
  let b := PRF.addr h k
  let lat := if i = 0 then PRF.LIM_P_LAT else PRF.LIM_N_LAT
  if s.flag b lat then s
  else
    let s := s.setFlag b lat
    let s := s.setFld b (if i = 0 then PRF.LIM_P_EDGE else PRF.LIM_N_EDGE) (edgeQuad (s.periodNs h) stamp)
    let v := s.fldS b PRF.SP_VEL
    let s := s.flagIf (decide (if i = 0 then v < 0 else 0 < v)) b PRF.LIM_DIR_ERR
    raiseEvt s h 96

/-- The reference event of a homing: an index at a captured position, or an edge whose position is interpolated (R80). -/
def takeIndex (s : State) (h : Half) (k : Nat) (hm : Homing) (pos : Option Int) (at_ : Nat × Nat) : State :=
  match pos with
  | none => putHoming s h k { hm with motion := 6, edge := some at_ }
  | some p =>
    let s := applyRef s h k hm.pos p
    putHoming (s.setFlag (PRF.addr h k) PRF.REF) h k { hm with motion := 6, refDone := true }

/-- The first instant is not later than the second: period and offset. -/
def notLater (a b : Nat × Nat) : Bool := decide (a.1 < b.1) || (decide (a.1 = b.1) && decide (a.2 ≤ b.2))

/-- The home edge of method 3 has qualified: the first index after it counts, one seen before the edge qualified too. -/
def homeEdgeSeen (s : State) (h : Half) (k : Nat) (hm : Homing) (at_ : Nat × Nat) : State :=
  let hm := { hm with motion := 8, seekAt := some at_ }
  match (hm.idx.filter (fun x => notLater at_ x.2)).getLast? with
  | none => putHoming s h k hm
  | some (pos, t) => takeIndex s h k hm pos t

/-- A qualified edge of an input while a homing runs: a limit that is no reference trips and aborts it with a stop at QS_DEC
(R72, R78); an edge of the method's switch takes the sequence on. at_ is the edge's period and offset.
DEDUCED (log entry 120). -/
def homingEdge (s : State) (h : Half) (k i : Nat) (level : Bool) (at_ : Nat × Nat) (hm : Homing) : State :=
  if homeSwitch hm = some i then
    match hm.motion, level with
    | 1, false => putHoming s h k { hm with motion := if hm.fast then 2 else 5 }
    | 4, false => putHoming s h k { hm with motion := 5 }
    | 7, false => completeHoming s h k
    | 2, true => putHoming s h k { hm with motion := 3 }
    | 5, true =>
      if hm.method = 3 then homeEdgeSeen s h k hm at_
      else putHoming s h k { hm with motion := 6, edge := some at_ }
    | _, _ => s
  else if level && decide (i < 2) then
    stopAxis (abortHoming (latchLimit s h k i (at_.1 * s.periodNs h + at_.2)) h k 11) h k true
  else s

/-- An index passed (R80): the reference where one is sought; during the creep of method 3 it is kept until the home edge
has qualified. -/
def indexFound (s : State) (h : Half) (k : Nat) (pos : Option Int) (at_ : Nat × Nat) : State :=
  match (s.prf h k).homing with
  | none => s
  | some hm =>
    if hm.motion = 5 ∧ hm.method = 4 then takeIndex s h k hm pos at_
    else if hm.motion = 8 then
      if hm.seekAt.all (fun e => notLater e at_) then takeIndex s h k hm pos at_ else s
    else if hm.motion = 5 ∧ hm.method = 3 then putHoming s h k { hm with idx := (pos, at_) :: hm.idx.take 39 }
    else s

/-- The reference edge of a homing whose two samples exist gives p_ref (R79); REF follows at once but for the limit
switch, where it waits for the last back-off. -/
def resolveEdge (s : State) (h : Half) (k : Nat) (hm : Homing) : State × Homing :=
  match hm.edge with
  | none => (s, hm)
  | some (m, off) =>
    match interpolateRef (s.prf h k).posHist (s.periodNs h) m off with
    | none => (s, hm)
    | some p =>
      let s := applyRef s h k hm.pos p
      let s := if hm.method = 1 then s else s.setFlag (PRF.addr h k) PRF.REF
      (s, { hm with edge := none, refDone := true })

/-- The index has not been found within HOME_IDX_MAX of travel (R80), from the home edge or from the start. -/
def indexMissed (s : State) (h : Half) (k : Nat) (hm : Homing) : Bool :=
  let seeks := decide (hm.motion = 8) || (decide (hm.motion = 5) && decide (hm.method = 4))
  match hm.seekFrom with
  | none => false
  | some p => seeks && decide ((hm.idxMax : Int) * 65536 < ((s.ce h k).pAct - p).natAbs)

/-- The position from which the index is sought: where method 4 started, or the home edge of method 3 once its samples
exist (R79, R80). -/
def seekStart (s : State) (h : Half) (k : Nat) (hm : Homing) : Homing :=
  if hm.seekFrom.isSome then hm
  else if hm.method = 4 then { hm with seekFrom := some (s.ce h k).pAct }
  else match hm.seekAt with
    | none => hm
    | some (m, off) => { hm with seekFrom := interpolateRef (s.prf h k).posHist (s.periodNs h) m off }

/-- One compute window of a homing. An index that is missed ends it with a stop at D_MAX, as R80 states no kind of stop
there: DESIGN CHOICE (log entry 126). -/
def homingWindow (s : State) (h : Half) (k : Nat) (hm : Homing) : State :=
  let b := PRF.addr h k
  let c := s.ce h k
  let u := s.prf h k
  let r := resolveEdge s h k hm
  let s := r.1
  let hm := r.2
  let first := decide (hm.motion = 0)
  let hm := if first then homingStart u hm else hm
  let hm := seekStart s h k hm
  let hm := { hm with tqRun := if hm.method = 5 ∧ hm.tq ≤ c.tqFb.natAbs then Nat.min 65535 (hm.tqRun + 1) else 0 }
  let s := putHoming s h k hm
  if indexMissed s h k hm then stopAxis (abortHoming (s.setFlag b PRF.INDEX_MISS) h k 11) h k false
  else if hm.motion = 10 then
    let s := if plansMotion s h k then moveToward s h k (.vel 0) else s
    if first then s else completeHoming (applyRef s h k hm.pos (s.ce h k).pAct) h k
  else if hm.motion = 9 then
    let s := moveToward s h k (.pos ((s.prf h k).target * 2 ^ 32) 0)
    if s.fldS b PRF.SP_POS = (s.prf h k).target ∧ spAtRest s h k then completeHoming s h k else s
  else
    let s := moveToward s h k (.vel (homingVel hm * 2 ^ 48))
    let rest := spAtRest s h k
    if hm.motion = 3 ∧ rest then putHoming s h k { hm with motion := 4 }
    else if hm.motion = 6 ∧ rest ∧ hm.refDone then
      if hm.method = 1 then
        if (s.prf h k).input (if hm.neg then 1 else 0) |>.qual then putHoming s h k { hm with motion := 7 } else completeHoming s h k
      else completeHoming s h k
    else s

/-- The feedback torque has been at HOME_TQ for HOME_TQ_TIME periods (R80, method 5): the set-point is frozen at the
actual position, which is p_ref, and the axis backs off. -/
def homeTorque (s : State) (h : Half) (k : Nat) : State :=
  match (s.prf h k).homing with
  | none => s
  | some hm =>
    if hm.method = 5 ∧ hm.motion = 5 ∧ Nat.max 1 hm.tqTime ≤ hm.tqRun then
      let p := (s.ce h k).pAct
      let s := putSp s h k (regPoint p 0 0)
      let s := applyRef s h k hm.pos p
      let back : Int := (hm.backoff : Int) * 65536
      let s := s.setPrf h k { s.prf h k with target := hm.pos + (if hm.neg then back else -back) }
      putHoming s h k { hm with motion := 9, refDone := true }
    else s

/-- The torque limit that a hard-stop homing puts in place of both limits until its back-off is complete. -/
def homingTorqueLimit (s : State) (h : Half) (k : Nat) : Option Nat :=
  match (s.prf h k).homing with
  | none => none
  | some hm => if hm.method = 5 then some hm.tq else none

/-! Limit and home inputs (R70 to R76). -/

/-- The source byte of an input of an axis. -/
def inputSource (s : State) (h : Half) (k i : Nat) : Nat :=
  s.fld (PRF.addr h k) (match i with | 0 => PRF.LIM_P_SRC | 1 => PRF.LIM_N_SRC | _ => PRF.HOME_SRC)

/-- The debounce time of an input in 10 us steps. -/
def debounceSteps (s : State) (h : Half) (k i : Nat) : Nat :=
  Nat.min 200 (s.fld (PRF.addr h k) (if i < 2 then PRF.DB_LIM else PRF.DB_HOME))

/-- A first qualified active edge of a limit (R72, R73, R76). -/
def limitTrip (s : State) (h : Half) (k i : Nat) (stamp : Nat) : State :=
  let b := PRF.addr h k
  if s.flag b (if i = 0 then PRF.LIM_P_LAT else PRF.LIM_N_LAT) then s
  else
    let hard := s.flag b (if i = 0 then PRF.LIM_P_HARD else PRF.LIM_N_HARD)
    let s := latchLimit s h k i stamp
    match pathOwner s h k with
    | some j => jointStop s h j hard
    | none => if s.flag b PRF.LOOP_ON then stopAxis s h k hard else s

/-- An edge of an input qualifies with its raw stamp (R71). -/
def qualify (s : State) (h : Half) (k i : Nat) (level : Bool) (stamp : Nat) : State :=
  let b := PRF.addr h k
  let u := s.prf h k
  let s := s.setPrf h k (u.setInput i { u.input i with qual := level })
  let s := s.putFlag b (inputFld i) level
  let p := s.periodNs h
  let s := if i = 2 ∧ level then s.setFld b PRF.HOME_EDGE (edgeQuad p stamp) else s
  let s := if i < 2 ∧ !level then s.putFlag b (if i = 0 then PRF.AWAY_P else PRF.AWAY_N) false else s
  match u.homing with
  | some hm => homingEdge s h k i level (stamp / p, stamp % p) hm
  | none => if i < 2 ∧ level then limitTrip s h k i stamp else s

/-- A raw level of an input with the stamp of its edge: a new run begins; with a debounce time of 0 it qualifies. -/
def rawInput (s : State) (h : Half) (k i : Nat) (level : Bool) (stamp : Nat) : State :=
  let u := s.prf h k
  let r := u.input i
  if r.raw = level then s
  else
    let s := s.setPrf h k (u.setInput i { r with raw := level, since := stamp, samples := 1 })
    if debounceSteps s h k i = 0 ∧ r.qual ≠ level then qualify s h k i level stamp else s

/-- The periods a drive source must hold a level: the debounce time rounded up, at least one (R71). -/
def drivePeriods (s : State) (h : Half) (k i : Nat) : Nat :=
  Nat.max 1 (divCeil (debounceSteps s h k i * 10000) (s.periodNs h))

/-- A sample of a drive source at a sync instant, with the drive's edge stamp where it gave one. A limit that has read
inactive for its debounce time lifts its away restriction (R74). -/
def driveInput (s : State) (h : Half) (k i : Nat) (level : Bool) (stamp : Nat) : State :=
  let u := s.prf h k
  let r := u.input i
  let r := if r.raw = level then { r with samples := r.samples + 1 } else { r with raw := level, since := stamp, samples := 1 }
  let s := s.setPrf h k (u.setInput i r)
  if r.samples < drivePeriods s h k i then s
  else if r.qual ≠ level then qualify s h k i level r.since
  else if i < 2 ∧ !level then s.putFlag (PRF.addr h k) (if i = 0 then PRF.AWAY_P else PRF.AWAY_N) false
  else s

/-- DEBOUNCE_QUALIFY: a local input that has held its level for the debounce time (R71); an input that reads inactive lifts
its away restriction (R74). -/
def debounce (s : State) (h : Half) (k i : Nat) : State :=
  let u := s.prf h k
  let r := u.input i
  if inputSource s h k i % 128 < 48 ∧ debounceSteps s h k i * 10000 ≤ s.servoNow h - r.since then
    if r.raw ≠ r.qual then qualify s h k i r.raw r.since
    else if i < 2 ∧ !r.raw then s.putFlag (PRF.addr h k) (if i = 0 then PRF.AWAY_P else PRF.AWAY_N) false
    else s
  else s

/-- A local input changes its level: every axis input that selects it sees the edge. -/
def localEdge (s : State) (h : Half) (i : Nat) (level : Bool) (stamp : Nat) : Nat → State
  | 0 => s
  | n + 1 =>
    let s := localEdge s h i level stamp n
    let k := n / 3
    let src := inputSource s h k (n % 3)
    if src % 128 = i then rawInput s h k (n % 3) (level != decide (128 ≤ src)) stamp else s

/-- The present level of an input of an axis whose source is local, or none, which reads inactive; none for a drive's bit. -/
def localLevel (s : State) (h : Half) (k i : Nat) : Option Bool :=
  let src := inputSource s h k i
  let x := src % 128
  if 64 ≤ x ∧ x ≤ 66 then none
  else some ((decide (x < 48) && s.mapBit LIO.addr x) != decide (128 ≤ src ∧ x < 48))

/-- The inputs of an axis are sampled where their sources may have changed (R70): another level begins a run. -/
def sampleInputs (s : State) (h : Half) (k : Nat) : State :=
  (List.range 3).foldl (fun s i => match localLevel s h k i with
    | none => s
    | some l => rawInput s h k i l (s.servoNow h)) s

/-- The inputs of an axis begin with the levels they have: no edge. DEDUCED (log entry 25). -/
def seedInputs (s : State) (h : Half) (k : Nat) : State :=
  (List.range 3).foldl (fun s i => match localLevel s h k i with
    | none => s
    | some l => (s.setPrf h k ((s.prf h k).setInput i ⟨l, s.servoNow h, 0, l⟩)).putFlag (PRF.addr h k) (inputFld i) l) s

/-! Switching the loop (R61, R75, R81). -/

/-- The loop of an axis is switched off: the last set-point becomes the commanded position in HOLD_POS.
DEDUCED (log entries 26, 27). -/
def loopOff (s : State) (h : Half) (k : Nat) : State :=
  let b := PRF.addr h k
  if !s.flag b PRF.LOOP_ON then s
  else
    let s := s.setFldS b PRF.HOLD_POS (s.fldS b PRF.SP_POS)
    let s := if (s.prf h k).homing.isSome then abortHoming s h k 10 else endCommand s h k 10
    let u := s.prf h k
    let s := noDefer (s.setPrf h k { u with quick := false, escalated := false, softStop := false, restHold := false,
                                            soft := false, demand := none, rem := 0 }) h k
    ((s.setFld b PRF.MODE_ACT 0).putFlag b PRF.LOOP_ON false).putFlag b PRF.SYNC false

/-- The set-point of an axis is frozen: a motion in progress ends. -/
def freezeAxis (s : State) (h : Half) (k : Nat) : State :=
  let b := PRF.addr h k
  let s := if (s.prf h k).homing.isSome then abortHoming s h k 10 else endCommand s h k 10
  (noDefer (s.setPrf h k { s.prf h k with quick := false, escalated := false, softStop := false, restHold := false,
                                          soft := false, demand := none }) h k).setFld b PRF.MODE_ACT 0

/-- The loop of an axis is switched on without the soft start: a limit input that reads active sets its away restriction
(R75). -/
def loopMark (s : State) (h : Half) (k : Nat) : State :=
  let b := PRF.addr h k
  let u := s.prf h k
  let s := s.setFlag b PRF.LOOP_ON
  (s.flagIf u.limP.qual b PRF.AWAY_P).flagIf u.limN.qual b PRF.AWAY_N

/-- The soft start (R81): the set-point starts at the measured position and velocity and moves to HOLD_POS where that is
near enough, else HOLD_POS takes the position at which it comes to rest. -/
def softStart (s : State) (h : Half) (k : Nat) : State :=
  let b := PRF.addr h k
  let c := s.ce h k
  let vm : Int := s.fld b PRF.V_MAX
  let s := putSp s h k (regPoint c.pAct (clampI (-vm) vm c.vAct) 0)
  let hold := s.fldS b PRF.HOLD_POS
  let s := s.setPrf h k { s.prf h k with quick := false, escalated := false, softStop := false, absMove := false, demand := none }
  if (hold - c.pAct).natAbs ≤ s.fld b PRF.SS_MAX then
    (s.setPrf h k { s.prf h k with target := hold, soft := true }).setFld b PRF.MODE_ACT 1
  else
    ((s.setFlag b PRF.SS_SKIP).setPrf h k { s.prf h k with restHold := true }).setFld b PRF.MODE_ACT 6

/-! Commands (R57 to R60, R63, R64, R68, R74). -/

/-- The loop counts as off for the refusal rule: off, or in hold (R123). -/
def loopCountsOff (s : State) (h : Half) (k : Nat) : Bool :=
  let m := s.fld (CE.addr h k) CE.MODE_ACT
  decide (m = 0 ∨ m = 5)

/-- A motion of direction dir goes toward a limit that is latched or restricted (R74). DEDUCED (log entry 25). -/
def restricted (s : State) (h : Half) (k : Nat) (dir : Int) : Bool :=
  let b := PRF.addr h k
  (decide (0 < dir) && (s.flag b PRF.AWAY_P || s.flag b PRF.LIM_P_LAT)) ||
    (decide (dir < 0) && (s.flag b PRF.AWAY_N || s.flag b PRF.LIM_N_LAT))

/-- A motion to a target, or in a direction, is outside the soft limits (R68). -/
def softRefuses (s : State) (h : Half) (k : Nat) (target : Option Int) (dir : Int) : Bool :=
  match softLimits s h k with
  | none => false
  | some (neg, pos) =>
    let p := s.fldS (PRF.addr h k) PRF.SP_POS
    (decide (pos < p) && decide (0 < dir)) || (decide (p < neg) && decide (dir < 0)) ||
      (match target with
       | none => false
       | some t => decide (t < neg ∨ pos < t))

/-- The target of MOVE_ABS or MOVE_REL (R59). -/
def moveTarget (s : State) (h : Half) (k : Nat) (rel : Bool) : Int :=
  let b := PRF.addr h k
  let t := s.fldS b PRF.TARGET_POS
  if rel then
    satS 64 (t + (if s.fld b PRF.MODE_ACT = 1 then (s.prf h k).target else s.fldS b PRF.SP_POS))
  else t

/-- HOME would first move, or creep, toward a latched or restricted limit (R74). The limit switch method starts by backing
off its own switch where that reads active (R80), so the restriction of that switch does not refuse it.
DEDUCED (log entry 25). -/
def homeRestricted (s : State) (h : Half) (k : Nat) : Bool :=
  let b := PRF.addr h k
  let neg := s.flag b PRF.HOME_DIR
  let dir : Int := if neg then -1 else 1
  let u := s.prf h k
  let own := if neg then u.limN.qual else u.limP.qual
  let latched := s.flag b (if neg then PRF.LIM_N_LAT else PRF.LIM_P_LAT)
  let m := s.fld b PRF.METHOD
  let back := (decide (m = 1) && own) || (decide (m = 2 ∨ m = 3) && u.home.qual)
  decide (m ≠ 0) && ((restricted s h k dir && (latched || !(decide (m = 1) && own))) || (back && restricted s h k (-dir)))

/-- The axis is braking for a latched limit (R72). -/
def limitStop (s : State) (h : Half) (k : Nat) : Bool :=
  let b := PRF.addr h k
  decide (s.fld b PRF.MODE_ACT = 6) && (s.flag b PRF.LIM_P_LAT || s.flag b PRF.LIM_N_LAT)

/-- Why a motion command is refused: a code of PRF.CMD_STATUS, 0 where it is accepted. A command that would replace the stop
of a latched limit is refused as "stop in progress". DEDUCED (log entry 25). -/
def motionRefusal (s : State) (h : Half) (k code : Nat) : Nat :=
  let b := PRF.addr h k
  let p := s.fldS b PRF.SP_POS
  if loopCountsOff s h k && !(code == 9 && decide (s.fld b PRF.METHOD = 0)) then 1
  else if (pathOwner s h k).isSome then 7
  else if (s.prf h k).homing.isSome then 4
  else if limitStop s h k then 8
  else match code with
    | 1 =>
      let t := moveTarget s h k false
      if !s.flag b PRF.REF then 5
      else if softRefuses s h k (some t) (sgn (t - p)) then 2
      else if restricted s h k (sgn (t - p)) then 3 else 0
    | 2 =>
      let t := moveTarget s h k true
      if softRefuses s h k (some t) (sgn (t - p)) then 2 else if restricted s h k (sgn (t - p)) then 3 else 0
    | 3 =>
      let d := sgn (s.fldS b PRF.TARGET_VEL)
      if softRefuses s h k none d then 2 else if restricted s h k d then 3 else 0
    | 4 =>
      if (!s.flag b PRF.SRC_ACT && decide (k ≤ s.fld b PRF.MASTER)) || decide (s.fld b PRF.GEAR_DEN = 0) then 6
      else if s.flag b PRF.AWAY_P || s.flag b PRF.AWAY_N then 3 else 0
    | 5 =>
      if (!s.flag b PRF.SRC_ACT && decide (k ≤ s.fld b PRF.MASTER)) || !camOk s (dramAddr h (s.quad (b + 0x70))) then 6
      else if s.flag b PRF.AWAY_P || s.flag b PRF.AWAY_N then 3 else 0
    | 6 =>
      if (armOf s h k).isNone then 6 else if s.flag b PRF.AWAY_P || s.flag b PRF.AWAY_N then 3 else 0
    | _ => if homeRestricted s h k then 3 else 0

/-- The result of a command that does not go on: RESULT and TAG of PRF.CMD_STATUS. A command that runs beside it keeps BUSY
and gives its own result and TAG when it ends (R60). -/
def putResult (s : State) (h : Half) (k result tag : Nat) : State :=
  let b := PRF.addr h k
  (s.setFld b PRF.RESULT result).setFld b PRF.TAG tag

/-- PRF.CMD_STATUS of an axis whose command is accepted. -/
def putStatus (s : State) (h : Half) (k result tag : Nat) (busy : Bool) : State :=
  (putResult (s.setPrf h k { s.prf h k with cmdTag := tag }) h k result tag).putFlag (PRF.addr h k) PRF.BUSY busy

/-- The homing an axis starts with its parameters of now. -/
def newHoming (s : State) (h : Half) (k : Nat) : Homing :=
  let b := PRF.addr h k
  let vm := s.fld b PRF.V_MAX
  { method := s.fld b PRF.METHOD, neg := s.flag b PRF.HOME_DIR, fast := s.flag b PRF.FAST,
    vFast := Nat.min vm (s.fld b PRF.HOME_V_FAST), vCreep := Nat.min vm (s.fld b PRF.HOME_V_CREEP),
    idxMax := s.fld b PRF.HOME_IDX_MAX, pos := s.fldS b PRF.HOME_POS, tq := s.fld b PRF.HOME_TQ,
    tqTime := s.fld b PRF.HOME_TQ_TIME, backoff := s.fld b PRF.HOME_BACKOFF, motion := 0, edge := none, refDone := false,
    seekFrom := none, seekAt := none, idx := [], tqRun := 0 }

/-- An accepted motion command sets the mode and the goal; it acts from the next compute window (R51).
DEDUCED (log entry 24). -/
def startMotion (s : State) (h : Half) (k code : Nat) : State :=
  let b := PRF.addr h k
  let u := { s.prf h k with quick := false, escalated := false, softStop := false, restHold := false, soft := false,
                            absMove := decide (code = 1), demand := none }
  let couple (u : PrfUnit) : PrfUnit :=
    { u with master := s.fld b PRF.MASTER, srcAct := s.flag b PRF.SRC_ACT, relEngage := s.flag b PRF.ENGAGE_REL,
             camBase := s.quad (b + 0x70), engage := true, lagOver := false }
  match code with
  | 1 => (s.setPrf h k { u with target := moveTarget s h k false }).setFld b PRF.MODE_ACT 1
  | 2 => (s.setPrf h k { u with target := moveTarget s h k true }).setFld b PRF.MODE_ACT 1
  | 3 => (s.setPrf h k { u with vGoal := s.fldS b PRF.TARGET_VEL }).setFld b PRF.MODE_ACT 2
  | 4 => (s.setPrf h k (couple u)).setFld b PRF.MODE_ACT 3
  | 5 => (s.setPrf h k (couple u)).setFld b PRF.MODE_ACT 4
  | 6 => (s.setPrf h k { u with clampNow := false }).setFld b PRF.MODE_ACT 5
  | _ =>
    let s := if s.fld b PRF.METHOD = 0 then s else s.putFlag b PRF.REF false
    let hm := newHoming s h k
    putHoming ((s.setPrf h k u).setFld b PRF.MODE_ACT 7) h k hm

/-- A motion command (codes 1 to 6 and 9). DEDUCED (log entry 24). -/
def motionCommand (s : State) (h : Half) (k code tag : Nat) : State :=
  match motionRefusal s h k code with
  | 0 => putStatus (startMotion s h k code) h k 0 tag true
  | r => putResult s h k r tag

/-- STOP or QUICK_STOP: of the arm whose path runs, else of the axis; a homing ends as an abort. With the loop off nothing
moves, and the command is complete at once. DESIGN CHOICE (log entry 8). -/
def stopCommand (s : State) (h : Half) (k tag : Nat) (quick : Bool) : State :=
  match pathOwner s h k with
  | some j => putStatus (pathStop s h j quick) h k 0 tag false
  | none =>
    let s := if (s.prf h k).homing.isSome then abortHoming s h k 11 else s
    if loopCountsOff s h k then putStatus s h k 12 tag false
    else putStatus (stopAxis s h k quick) h k 0 tag true

/-- LIM_CLEAR (R60, R74): refused while the arm's path runs and until the stop is at standstill; releases latched limits and
sets their away restriction. DEDUCED (log entry 25). -/
def limClear (s : State) (h : Half) (k tag : Nat) : State :=
  let b := PRF.addr h k
  if (pathOwner s h k).isSome then putResult s h k 7 tag
  else if s.fld b PRF.MODE_ACT = 6 ∨ (!spAtRest s h k && s.flag b PRF.LOOP_ON) then putResult s h k 8 tag
  else
    let s := if s.flag b PRF.LIM_P_LAT then (s.putFlag b PRF.LIM_P_LAT false).setFlag b PRF.AWAY_P else s
    let s := if s.flag b PRF.LIM_N_LAT then (s.putFlag b PRF.LIM_N_LAT false).setFlag b PRF.AWAY_N else s
    putResult s h k 0 tag

/-- A write of PRF.CMD. -/
def prfCommand (s : State) (h : Half) (k code tag : Nat) : State :=
  if code = 0 then s
  else if code = 7 then stopCommand s h k tag false
  else if code = 8 then stopCommand s h k tag true
  else if code = 10 then limClear s h k tag
  else if 10 < code then putResult s h k 9 tag
  else motionCommand s h k code tag

/-! The stage of the compute window (R50). -/

/-- The set-point of an axis whose loop is on and whose set-point is not frozen. The live parameters TARGET_POS, TARGET_VEL
and GEAR_OFFSET are read in every window (R51); the velocity of a coupled position in its first period is taken from the
master's last step, which R66 leaves open. DESIGN CHOICE (log entries 22, 124). -/
def profileMove (s : State) (h : Half) (k : Nat) : State :=
  let b := PRF.addr h k
  let u := s.prf h k
  let rest (s : State) : State :=
    if spAtRest s h k then atRest s h k else s
  match s.fld b PRF.MODE_ACT with
  | 0 => putSp (noDefer s h k) h k { spFine s h k with v := 0, a := 0 }
  | 1 =>
    let t := if u.absMove then s.fldS b PRF.TARGET_POS else u.target
    let s := s.setPrf h k { u with target := t }
    let s := moveToward s h k (.pos (t * 2 ^ 32) 0)
    if s.fldS b PRF.SP_POS = t then rest s else s
  | 2 =>
    let vm : Int := s.fld b PRF.V_MAX
    let g := clampI (-vm) vm (s.fldS b PRF.TARGET_VEL)
    let s := s.setPrf h k { u with vGoal := g }
    let s := moveToward s h k (.vel (g * 2 ^ 48))
    if g = 0 then rest s else s
  | 3 =>
    let m := masterPos s h u
    let before := m - masterStep s h u
    let first := u.engage && u.relEngage
    let u := takeGear s h k u m
    if first then engageRel s h k u m before
    else followDemand (s.setPrf h k u) h k (gearDemand u m) (gearDemand u before) false
  | 4 =>
    let m := masterPos s h u
    let cam (m : Int) : Int := camDemand s (dramAddr h u.camBase) m (s.fldS b PRF.CAM_ORIGIN)
    followDemand s h k (cam m) (cam (m - masterStep s h u)) false
  | 5 =>
    let s := followDemand s h k (pathDemand s h k) (s.fldS b PRF.SP_POS) true
    if (pathOwner s h k).isSome ∨ s.flag b PRF.BUSY ∨ s.quad (b + 0x50) ≠ 0 then s else rest s
  | 6 => rest (moveToward s h k (if u.softStop then .pos (u.target * 2 ^ 32) 0 else .vel 0))
  | _ =>
    match u.homing with
    | none => s
    | some hm => homingWindow s h k hm

/-- The set-point of an axis in a compute window: it follows the measured position while the loop is off or in torque mode,
is frozen in hold, and else moves as its mode says. The absolute homing runs with the loop off too.
DEDUCED (log entry 24). -/
def profileAxis (s : State) (h : Half) (k : Nat) : State :=
  let m := s.fld (CE.addr h k) CE.MODE_ACT
  let s := (s.setFld (PRF.addr h k) PRF.LAG 0).putFlag (PRF.addr h k) PRF.SYNC false
  let u := s.prf h k
  let s := s.setPrf h k { u with posHist := (s.periodNum h, (s.ce h k).pAct) :: u.posHist.take 63 }
  if m = 0 ∨ m = 3 ∨ m = 5 then
    let s := if m = 5 then putSp s h k (regPoint (s.ce h k).frozen 0 0) else followMeasured s h k
    match (s.prf h k).homing with
    | none => s
    | some hm => if hm.method = 0 then homingWindow s h k hm else s
  else profileMove s h k

end Sys2Proof.Machine
end

