-- ==== Sys2Proof/Machine/CoreOps.lean ====
section
/-! DEFINITION. The control cores (R293 to R323): registers, addressing, the operations of every instruction, the exposed
pipeline, loops, faults, and the issue of one instruction. -/
namespace Sys2Proof.Machine

/-! The decoded instruction (R322, R323). -/

inductive MacOp where
  | mac | mac2 | msu2 | mpy2 | macf2 | msuf2 | macsu2
  deriving DecidableEq, Repr

inductive PairOp where
  | fma | fma2 | fms2 | fmul2 | fadd2 | fsub2
  deriving DecidableEq, Repr

inductive AluOp where
  | movd | add | sub | adds | subs | and | or | xor | andn | shl | shr | sra | shls
  | min | max | minu | maxu | abs | neg | cmp | cmpu | sel | mul | mulh | mulq | cls
  | fadd | fsub | fmul | fmin | fmax | fabs | fneg | fcmp | frcpe | frsqe | ftoi | itof | ftoq | qtof
  | clra | mova | adda | suba | nega | sacr | addp
  deriving DecidableEq, Repr

inductive ImmOp where
  | ldi | addi | andi | ori | xori | cmpi | shli | shri | srai | addpi
  deriving DecidableEq, Repr

inductive CoreOp where
  | nop
  | mac (op : MacOp) (aa ab sa sb sc sd : Nat)
  | pair (op : PairOp) (t sa sb sc sd : Nat)
  | alu (op : AluOp) (cond dd sa sb : Nat)
  | imm (op : ImmOp) (r : Nat) (imm : Word)
  | br (cond tgt : Nat)
  | jr (cond pn : Nat)
  | call (cond tgt : Nat)
  | ret
  | loop (count : LoopCount) (n : Nat) (rot : Bool)
  | endItem | rti | ei | di
  | savelp (pn : Nat)
  | restlp (pn : Nat)
  | clrf (mask : Nat)
  | movr (r1 r2 : Nat)
  | fld (dd dp : Nat)
  | fst (dp ds : Nat)
  | copy (dp pn count mem : Nat) (outbound : Bool)
  | waitc (k : Nat)
  | haltd
  | illegal (code : Nat)
  deriving DecidableEq, Repr

/-- The moves field of an instruction that makes no move. -/
def noMoves : Moves := ⟨false, false, false, 0, 0, 0, false, false, 0, 0, 0⟩

/-! Registers (R297 to R299). -/

/-- The physical number of data register n: D32 to D63 rotate by RB (R298). -/
def physD (c : CoreUnit) (n : Nat) : Nat := if n < 32 then n else 32 + ((n - 32) + c.rb) % 32

/-- Data register n. -/
def CoreUnit.dreg (c : CoreUnit) (n : Nat) : Word := c.d.getD (physD c n) 0

/-- STAT with its AOV bits (R299). -/
def CoreUnit.statWord (c : CoreUnit) : Nat :=
  setBits c.stat 3 0 (b2n (c.aov.getD 0 false) + 2 * b2n (c.aov.getD 1 false) + 4 * b2n (c.aov.getD 2 false)
    + 8 * b2n (c.aov.getD 3 false))

/-- The 72-bit pattern of an accumulator. -/
def accBits (a : Int) : Nat := ofS 72 a

/-- Register r of R297 as MOVR and the debug image read it; none where the number is reserved. signG: AnG is
sign-extended (MOVR). DEDUCED (log entry 17). -/
def CoreUnit.readReg (c : CoreUnit) (r : Nat) (signG : Bool) : Option Nat :=
  if r < 0x40 then some (c.dreg r).toNat
  else if r < 0x4C then
    let a := accBits (c.acc.getD ((r - 0x40) / 3) 0)
    if (r - 0x40) % 3 = 0 then some (a % 2 ^ 32)
    else if (r - 0x40) % 3 = 1 then some (a / 2 ^ 32 % 2 ^ 32)
    else
      let g := a / 2 ^ 64
      some (if signG then ofS 32 (toS 8 g) else g)
  else if 0x50 ≤ r ∧ r < 0x5C then some (c.p.getD (r - 0x50) 0)
  else if 0x60 ≤ r ∧ r < 0x68 then some (c.o.getD (r - 0x60) 0)
  else if 0x68 ≤ r ∧ r < 0x70 then some (c.l.getD (r - 0x68) 0)
  else if r = 0x70 then some c.lc
  else if r = 0x71 then some c.ls
  else if r = 0x72 then some c.le
  else if r = 0x73 then some c.rb
  else if r = 0x74 then some c.statWord
  else if r = 0x75 then some c.istat
  else if r = 0x76 then some c.ira
  else if r = 0x77 then some (b2n c.rptv)
  else if r = 0x78 then some c.iarg
  else if r = 0x79 then some c.iargh
  else none

/-- The number of a register that exists (R297). -/
def regExists (r : Nat) : Bool :=
  decide (r < 0x4C) || decide (0x50 ≤ r ∧ r < 0x5C) || decide (0x60 ≤ r ∧ r < 0x7A)

/-! Landing of results (R301, R302). -/

/-- Sticky bits [9:4] rise; the second part is what rises in CORE.FLAGS. -/
def raiseSticky (c : CoreUnit) (mask : Nat) : CoreUnit × Nat :=
  let m := setBits 0 9 4 (bitsOf mask 9 4)
  ({ c with stat := c.stat ||| m }, m - (m &&& c.stat))

/-- The loop state of SAVELP and RESTLP as one number. -/
def packLoop (lc ls le rb r : Nat) : Nat := lc + 2 ^ 32 * (ls + 2 ^ 16 * (le + 2 ^ 16 * (rb + 2 ^ 8 * r)))

/-- One result becomes visible. -/
def landOne (c : CoreUnit) (x : Landing) : CoreUnit × Nat :=
  let v := ofS 32 x.val
  let (c, up) := raiseSticky c x.sticky
  match x.tgt with
  | .nowhere => (c, up)
  | .d n => ({ c with d := c.d.set n (BitVec.ofNat 32 v) }, up)
  | .acc n =>
    let rise := x.aov && !c.aov.getD n false
    ({ c with acc := c.acc.set n x.val, aov := c.aov.set n x.aov }, up + (if rise then 2 ^ n else 0))
  | .p n => ({ c with p := c.p.set n (v % 2 ^ 16) }, up)
  | .o n => ({ c with o := c.o.set n (v % 2 ^ 16) }, up)
  | .l n => ({ c with l := c.l.set n (v % 2 ^ 15) }, up)
  | .lc => ({ c with lc := v }, up)
  | .ls => ({ c with ls := v % 2 ^ 13, rptv := false }, up)
  | .le => ({ c with le := v % 2 ^ 13, rptv := false }, up)
  | .rb => ({ c with rb := v % 32 }, up)
  | .stat =>
    let new := setBits 0 16 4 (bitsOf v 16 4)
    let rise := setBits 0 9 4 (bitsOf (new - (new &&& c.stat)) 9 4)
    ({ c with stat := new }, up + rise)
  | .istat => ({ c with istat := v % 2 ^ 17 }, up)
  | .ira => ({ c with ira := v % 2 ^ 13 }, up)
  | .conds => ({ c with stat := setBits c.stat 14 10 v }, up)
  | .ie => ({ c with stat := setBit c.stat 15 (decide (v ≠ 0)) }, up)
  | .clrf => ({ c with stat := c.stat - (c.stat &&& setBits 0 9 4 (bitsOf v 9 4)) }, up)
  | .loopState =>
    let n := x.val.toNat
    let ls := n / 2 ^ 32 % 2 ^ 13
    ({ c with lc := n % 2 ^ 32, ls := ls, le := n / 2 ^ 48 % 2 ^ 13, rb := n / 2 ^ 64 % 32,
              rptv := decide (n / 2 ^ 72 % 2 = 1) && decide (c.rptTag = ls) }, up)

/-- Every result of the list with no slot left lands, oldest first; a landed accumulator drops the older writes to it
that are still in flight (writes to one accumulator take effect in issue order). -/
def landReady (c : CoreUnit) (up : Nat) (kept : List Landing) : List Landing → CoreUnit × Nat × List Landing
  | [] => (c, up, kept)
  | x :: t =>
    if x.left = 0 then
      let (c, r) := landOne c x
      let kept := match x.tgt with
        | .acc n => kept.filter (fun y => decide (y.tgt ≠ .acc n))
        | _ => kept
      landReady c (up ||| r) kept t
    else landReady c up (kept ++ [x]) t

/-- One slot passes: results in flight come one slot nearer, and those with none left land. -/
def ageSlot (c : CoreUnit) : CoreUnit × Nat :=
  let fl := c.inFlight.map (fun x => { x with left := x.left - 1 })
  let (c, up, kept) := landReady { c with inFlight := [] } 0 [] fl
  ({ c with inFlight := kept }, up)

/-- Every result in flight lands (R303, R315). -/
def landEverything (c : CoreUnit) : CoreUnit × Nat :=
  let (c1, u1) := ageSlot c
  let (c2, u2) := ageSlot c1
  let (c3, u3) := ageSlot c2
  (c3, u1 ||| u2 ||| u3)

/-! Core memories and addressing (R293, R295, R296, R300). -/

/-- The module address of word idx of memory 0 X, 1 Y or 2 C of core k. -/
def coreMemAddr (h : Half) (k mem idx : Nat) : Nat :=
  viewBase h + 0x2000000 + k * 0x40000 + mem * 0x10000 + 4 * (idx % 16384)

/-- The local word lies in an inbound copy that WAITC has not yet shown to be complete (R317). DESIGN CHOICE (log entry 11). -/
def copyHides (c : CoreUnit) (mem idx : Nat) : Bool :=
  c.unseen.any (fun o => decide (o.mem = mem) && decide ((idx + 16384 - o.idx % 16384) % 16384 < o.count))

/-- A load by core k of its own memory: an undefined word is a free value. DESIGN CHOICE (log entry 11). -/
def coreLoad (s : State) (h : Half) (k mem idx : Nat) : Word × State :=
  if copyHides (s.core h k) mem idx then
    let (v, s) := s.takeFree
    (v.truncate 32, s)
  else (s.memWord (coreMemAddr h k mem idx), s)

/-- The word lies in the argument area that the running item does not use (R296). -/
def inOtherArea (c : CoreUnit) (mem idx : Nat) : Bool :=
  decide (mem = 0) && decide (areaIndex (!c.area) ≤ idx % 16384) && decide (idx % 16384 < areaIndex (!c.area) + 128)

/-- A store by core k to its own memory; one into the other argument area is discarded and sets ARGW. -/
def coreStore (s : State) (h : Half) (k mem idx : Nat) (w : Word) : State :=
  if inOtherArea (s.core h k) mem idx then s.setFlag (CORE.addr h k) CORE.ARGW
  else s.setMemWord (coreMemAddr h k mem idx) w

/-- The least e with n ≤ 2^e. -/
def ceilLog2 (n : Nat) : Nat := if n ≤ 1 then 0 else Nat.log2 (n - 1) + 1

/-- Address register n modified by m (R300): modulo its length for P0 to P7, linear with length 0 and for P8 to P11.
Bits [15:14] are kept. -/
def modifyP (c : CoreUnit) (n : Nat) (m : Int) : Nat :=
  let v := c.p.getD n 0
  let idx := v % 16384
  let len := if n < 8 then c.l.getD n 0 else 0
  let new :=
    if len = 0 then (((idx : Int) + m) % 16384).toNat
    else
      let b := idx / 2 ^ ceilLog2 len * 2 ^ ceilLog2 len
      (b + (((idx - b : Nat) : Int) + m) % (len : Int)).toNat % 16384
  v / 16384 * 16384 + new

/-- The modifier's value for address register n (R300). -/
def moveStep (c : CoreUnit) (n modifier : Nat) : Int :=
  if modifier = 0 then 0 else if modifier = 1 then 1 else if modifier = 2 then -1 else toS 16 (c.o.getD n 0)

/-! Arithmetic (R305 to R310). -/

/-- A result with no accumulator. -/
def land (left : Nat) (tgt : LandTgt) (val : Int) (sticky : Nat := 0) : Landing := ⟨left, tgt, val, false, sticky⟩

/-- The sticky bits of a binary32 result. -/
def fsticky (r : FRes) : Nat :=
  (if r.inv then 2 ^ 6 else 0) + (if r.dz then 2 ^ 7 else 0) + (if r.ovf then 2 ^ 8 else 0) + (if r.unf then 2 ^ 9 else 0)

/-- ISAT. -/
def isatBit (b : Bool) : Nat := if b then 2 ^ 5 else 0

/-- An accumulator value held to 72 bits, and whether it left the range (R308). -/
def accSat (x : Int) : Int × Bool := (satS 72 x, ovfS 72 x)

/-- Accumulator n in issue order takes an exact result, unless it is saturated (R308). DEDUCED (log entry 9). -/
def accWrite (c : CoreUnit) (n : Nat) (x : Int) : CoreUnit × List Landing :=
  if c.aovNow.getD n false then (c, [])
  else
    let (v, o) := accSat x
    ({ c with accNow := c.accNow.set n v, aovNow := c.aovNow.set n o }, [⟨3, .acc n, v, o, 0⟩])

/-- CLRA, MOVA and MOVR write an accumulator whatever its AOV bit, and set or clear that bit by the new value. -/
def accForce (c : CoreUnit) (n : Nat) (x : Int) (left : Nat) : CoreUnit × List Landing :=
  let (v, o) := accSat x
  ({ c with accNow := c.accNow.set n v, aovNow := c.aovNow.set n o }, [⟨left, .acc n, v, o, 0⟩])

/-- The MAC family (R306). -/
def macOp (c : CoreUnit) (op : MacOp) (aa ab sa sb sc sd : Nat) : CoreUnit × List Landing :=
  let p1 := (c.dreg sa).toInt * (c.dreg sb).toInt
  let p2 := (c.dreg sc).toInt * (c.dreg sd).toInt
  let u1 := (c.dreg sa).toInt * ((c.dreg sb).toNat : Int)
  let u2 := (c.dreg sc).toInt * ((c.dreg sd).toNat : Int)
  let now := fun (c : CoreUnit) n => c.accNow.getD n 0
  let two := fun (f g : Int → Int) =>
    let (c1, l1) := accWrite c aa (f (now c aa))
    let (c2, l2) := accWrite c1 ab (g (now c1 ab))
    (c2, l1 ++ l2)
  match op with
  | .mac => accWrite c aa (now c aa + p1)
  | .mac2 => two (fun a => a + p1) (fun a => a + p2)
  | .msu2 => two (fun a => a - p1) (fun a => a - p2)
  | .mpy2 => two (fun _ => p1) (fun _ => p2)
  | .macf2 => two (fun a => a + 2 * p1) (fun a => a + 2 * p2)
  | .msuf2 => two (fun a => a - 2 * p1) (fun a => a - 2 * p2)
  | .macsu2 => two (fun a => a + u1) (fun a => a + u2)

/-- A data register as a binary32 datum. -/
def CoreUnit.freg (c : CoreUnit) (n : Nat) : F32 × Bool := f32Of (c.dreg n).toNat

/-- A binary32 result to data register n. -/
def landF (c : CoreUnit) (n : Nat) (r : FRes) : Landing := land 3 (.d (physD c n)) r.pat (fsticky r)

/-- The paired binary32 operations (R323). FMA writes one register. -/
def pairOp (c : CoreUnit) (op : PairOp) (t sa sb sc sd : Nat) : List Landing :=
  let (a, fa) := c.freg sa
  let (b, fb) := c.freg sb
  let (x, fx) := c.freg sc
  let (y, fy) := c.freg sd
  let (d0, g0) := c.freg (2 * t)
  let (d1, g1) := c.freg (2 * t + 1)
  let lo := fun (r : FRes) => landF c (2 * t) r
  let hi := fun (r : FRes) => landF c (2 * t + 1) r
  match op with
  | .fma => [lo ((fmaF a b d0).flushed (fa || fb || g0))]
  | .fma2 => [lo ((fmaF a b d0).flushed (fa || fb || g0)), hi ((fmaF x y d1).flushed (fx || fy || g1))]
  | .fms2 => [lo ((fmaF (negF a) b d0).flushed (fa || fb || g0)), hi ((fmaF (negF x) y d1).flushed (fx || fy || g1))]
  | .fmul2 => [lo ((mulF a b).flushed (fa || fb)), hi ((mulF x y).flushed (fx || fy))]
  | .fadd2 => [lo ((addF a b).flushed (fa || fb)), hi ((addF x y).flushed (fx || fy))]
  | .fsub2 => [lo ((addF a (negF b)).flushed (fa || fb)), hi ((addF x (negF y)).flushed (fx || fy))]

/-- The condition of a code on the condition bits of STAT (R309). -/
def condHolds (stat code : Nat) : Bool :=
  let z := bitOf stat 14
  let n := bitOf stat 13
  let c := bitOf stat 12
  let v := bitOf stat 11
  let u := bitOf stat 10
  match code with
  | 0 => true
  | 1 => z
  | 2 => !z
  | 3 => n != v
  | 4 => n == v
  | 5 => z || (n != v)
  | 6 => !z && (n == v)
  | 7 => false
  | 8 => c
  | 9 => n && !u
  | 10 => !n && !u
  | 11 => u
  | 12 => !u
  | 13 => !c
  | _ => false

/-- The condition bits Z, N, C, V, U as [14:10] hold them. -/
def condBits (z n c v u : Bool) : Nat := 16 * b2n z + 8 * b2n n + 4 * b2n c + 2 * b2n v + b2n u

/-- CMP and CMPI: the conditions of a - b, signed (R309). -/
def cmpConds (a b : Word) : Nat :=
  let d := a.toInt - b.toInt
  condBits (a == b) (bitOf (ofS 32 d) 31) (decide (b.toNat ≤ a.toNat)) (ovfS 32 d) false

/-- CMPU: the conditions of an unsigned comparison. -/
def cmpuConds (a b : Word) : Nat := condBits (a == b) false (decide (b.toNat ≤ a.toNat)) false false

/-- FCMP: the conditions of a binary32 comparison. -/
def fcmpConds (a b : F32) : Nat :=
  match a, b with
  | .nan _, _ => condBits false false false false true
  | _, .nan _ => condBits false false false false true
  | a, b => condBits (eqF a b) (ltF a b) false false false

/-- A datum is a signaling NaN. PRESUMED (log entry 6). -/
def isSNan : F32 → Bool
  | .nan s => s
  | _ => false

/-- Leading sign bits of a word beyond the sign, 0 to 31. -/
def clsCount (w : Nat) : Nat :=
  let x := if bitOf w 31 then 2 ^ 32 - 1 - w else w
  if x = 0 then 31 else 30 - Nat.log2 x

/-- minimum and maximum of IEEE 754-2019: a NaN gives NaN, and -0 is below +0. PRESUMED (log entry 6). -/
def minF (isMax : Bool) (wa wb : Nat) : FRes :=
  let (a, fa) := f32Of wa
  let (b, fb) := f32Of wb
  let pick := fun (x : F32) (w : Nat) => match x with | .zero n => f32Zero n | _ => w
  match a, b with
  | .nan s, .nan t => .nan (s || t)
  | .nan s, _ => .nan s
  | _, .nan t => .nan t
  | a, b =>
    let less := ltF a b || (eqF a b && a.neg && !b.neg)
    let first := if isMax then !less else less
    (FRes.plain (if first then pick a wa else pick b wb)).flushed (fa || fb)

/-- Conversion to an integer of 32 bits after scaling by 2^sh: nearest even, saturated; NaN gives 0. Out of range is an
invalid operation of IEEE 754. DESIGN CHOICE (log entry 12). -/
def toFixed (x : F32) (sh : Int) : FRes :=
  match x with
  | .nan _ => { FRes.plain 0 with inv := true }
  | .inf s => { FRes.plain (if s then 0x80000000 else 0x7FFFFFFF) with inv := true }
  | .zero _ => .plain 0
  | .fin s m e =>
    let i := toIntEven (sgnM s m) (e + sh)
    { FRes.plain (ofS 32 (satS 32 i)) with inv := ovfS 32 i }

/-- An integer i * 2^e as binary32. -/
def ofFixed (i e : Int) : FRes := FRes.ofExact (i, e) false

/-- A shifted right arithmetically by sh, rounded to nearest with ties up (R305, R307). -/
def shiftUp (a : Int) (sh : Nat) : Int := if sh = 0 then a else divUp a ((2 ^ sh : Nat) : Int)

/-- SACR: the word and whether it saturated (R307, R308). -/
def sacrValue (a : Int) (aov : Bool) (sh : Nat) : Int × Bool :=
  if aov then (if a < 0 then -(2 ^ 31) else 2 ^ 31 - 1, true)
  else
    let v := shiftUp a sh
    (satS 32 v, ovfS 32 v)

/-- Format A (R323). The result is the core with its accumulators in issue order, and what lands. Sb of MOVA and SACR is a
register as elsewhere. DEDUCED (log entry 117). -/
def aluOp (c : CoreUnit) (op : AluOp) (cond dd sa sb : Nat) : CoreUnit × List Landing :=
  let a := c.dreg sa
  let b := c.dreg sb
  let ia := a.toInt
  let ib := b.toInt
  let sh := b.toNat % 32
  let (fa, xa) := f32Of a.toNat
  let (fb, xb) := f32Of b.toNat
  let one := fun (w : Word) => (c, [land 1 (.d (physD c dd)) w.toNat])
  let sat := fun (i : Int) => (c, [land 1 (.d (physD c dd)) (satS 32 i) (isatBit (ovfS 32 i))])
  let three := fun (i : Int) (st : Nat) => (c, [land 3 (.d (physD c dd)) i st])
  let flt := fun (r : FRes) => (c, [landF c dd r])
  let an := dd % 4
  match op with
  | .movd => one a
  | .add => one (a + b)
  | .sub => one (a - b)
  | .adds => sat (ia + ib)
  | .subs => sat (ia - ib)
  | .and => one (a &&& b)
  | .or => one (a ||| b)
  | .xor => one (a ^^^ b)
  | .andn => one (a &&& ~~~b)
  | .shl => one (a <<< sh)
  | .shr => one (a >>> sh)
  | .sra => one (a.sshiftRight sh)
  | .shls => sat (ia * ((2 ^ sh : Nat) : Int))
  | .min => one (if ia ≤ ib then a else b)
  | .max => one (if ia ≤ ib then b else a)
  | .minu => one (if a.toNat ≤ b.toNat then a else b)
  | .maxu => one (if a.toNat ≤ b.toNat then b else a)
  | .abs => sat (if ia < 0 then -ia else ia)
  | .neg => sat (-ia)
  | .cmp => (c, [land 1 .conds (cmpConds a b)])
  | .cmpu => (c, [land 1 .conds (cmpuConds a b)])
  | .sel => one (if condHolds c.stat cond then a else b)
  | .mul => three (ia * ib) 0
  | .mulh => three (ia * ib / ((2 ^ 32 : Nat) : Int)) 0
  | .mulq =>
    let v := shiftUp (ia * ib) 31
    three (satS 32 v) (isatBit (ovfS 32 v))
  | .cls => one (BitVec.ofNat 32 (clsCount a.toNat))
  | .fadd => flt ((addF fa fb).flushed (xa || xb))
  | .fsub => flt ((addF fa (negF fb)).flushed (xa || xb))
  | .fmul => flt ((mulF fa fb).flushed (xa || xb))
  | .fmin => flt (minF false a.toNat b.toNat)
  | .fmax => flt (minF true a.toNat b.toNat)
  | .fabs => one (a &&& 0x7FFFFFFF)
  | .fneg => one (a ^^^ 0x80000000)
  | .fcmp =>
    let st := (if isSNan fa || isSNan fb then 2 ^ 6 else 0) + (if xa || xb then 2 ^ 9 else 0)
    (c, [land 1 .conds (fcmpConds fa fb) st])
  | .frcpe => flt ((estimateF (recipF fa) (Config.frcpe a).toNat).flushed xa)
  | .frsqe => flt ((estimateF (rsqrtF fa) (Config.frsqe a).toNat).flushed xa)
  | .ftoi => flt ((toFixed fa 0).flushed xa)
  | .itof => flt (ofFixed ia 0)
  | .ftoq => flt ((toFixed fa 31).flushed xa)
  | .qtof => flt (ofFixed ia (-31))
  | .clra => accForce c an 0 3
  | .mova => accForce c an (ia * ((2 ^ (b.toNat % 64) : Nat) : Int)) 3
  | .adda =>
    let am := sa % 4
    let src := c.acc.getD am 0
    if c.aov.getD am false then accWrite c an (if src < 0 then -(2 ^ 80) else 2 ^ 80)
    else accWrite c an (c.accNow.getD an 0 + src)
  | .suba =>
    let am := sa % 4
    let src := c.acc.getD am 0
    if c.aov.getD am false then accWrite c an (if src < 0 then -(2 ^ 80) else 2 ^ 80)
    else accWrite c an (c.accNow.getD an 0 - src)
  | .nega => accWrite c an (-(c.accNow.getD an 0))
  | .sacr =>
    let (v, o) := sacrValue (c.acc.getD (sa % 4) 0) (c.aov.getD (sa % 4) false) (b.toNat % 64)
    (c, [land 1 (.d (physD c dd)) v (if o then 2 ^ 4 else 0)])
  | .addp => (c, [land 1 (.p (dd % 16)) (modifyP c (dd % 16) ia)])

/-- A write of register r of R297 with value v, one slot away: read-only registers ignore it, a part of an accumulator
changes the accumulator in issue order and clears its AOV bit (R308). DESIGN CHOICE (log entry 14). -/
def writeReg (c : CoreUnit) (r : Nat) (v : Word) : CoreUnit × List Landing :=
  if r < 0x40 then (c, [land 1 (.d (physD c r)) v.toNat])
  else if r < 0x4C then
    let n := (r - 0x40) / 3
    let bits := accBits (c.accNow.getD n 0)
    let new :=
      if (r - 0x40) % 3 = 0 then setBits bits 31 0 v.toNat
      else if (r - 0x40) % 3 = 1 then setBits bits 63 32 v.toNat
      else setBits bits 71 64 v.toNat
    accForce c n (toS 72 new) 1
  else if r < 0x5C then (c, [land 1 (.p (r - 0x50)) v.toNat])
  else if r < 0x68 then (c, [land 1 (.o (r - 0x60)) v.toNat])
  else if r < 0x70 then (c, [land 1 (.l (r - 0x68)) v.toNat])
  else if r = 0x70 then (c, [land 1 .lc v.toNat])
  else if r = 0x71 then (c, [land 1 .ls v.toNat])
  else if r = 0x72 then (c, [land 1 .le v.toNat])
  else if r = 0x73 then (c, [land 1 .rb v.toNat])
  else if r = 0x74 then (c, [land 1 .stat v.toNat])
  else if r = 0x75 then (c, [land 1 .istat v.toNat])
  else if r = 0x76 then (c, [land 1 .ira v.toNat])
  else (c, [])

/-- Format I (R323). -/
def immOp (c : CoreUnit) (op : ImmOp) (r : Nat) (i : Word) : CoreUnit × List Landing :=
  let a := c.dreg r
  let sh := i.toNat % 32
  let one := fun (w : Word) => (c, [land 1 (.d (physD c r)) w.toNat])
  match op with
  | .ldi => writeReg c r i
  | .addi => one (a + i)
  | .andi => one (a &&& i)
  | .ori => one (a ||| i)
  | .xori => one (a ^^^ i)
  | .cmpi => (c, [land 1 .conds (cmpConds a i)])
  | .shli => one (a <<< sh)
  | .shri => one (a >>> sh)
  | .srai => one (a.sshiftRight sh)
  | .addpi => (c, [land 1 (.p r) (modifyP c r i.toInt)])

/-! Moves (R300 to R302). -/

/-- One move: a load lands after 2 slots in the register chosen at issue, a store reads its register at issue; the
address register changes one slot later. mem: 0 X, 1 Y, 2 C. DESIGN CHOICE (log entry 11). -/
def oneMove (s : State) (h : Half) (k mem pn modifier : Nat) (store : Bool) (dn : Nat) : State × List Landing :=
  let c := s.core h k
  let idx := c.p.getD pn 0 % 16384
  let upd := land 1 (.p pn) (modifyP c pn (moveStep c pn modifier))
  if store then (coreStore s h k mem idx (c.dreg dn), [upd])
  else
    let (w, s) := coreLoad s h k mem idx
    (s, [land 2 (.d (physD c dn)) w.toNat, upd])

/-- The X and the Y move of an instruction. Two loads into one register leave a value the spec does not state. -/
def doMoves (s : State) (h : Half) (k : Nat) (mv : Moves) : State × List Landing :=
  let (s, l1) := if mv.xe then oneMove s h k 0 mv.xp.val mv.xm.val mv.xs mv.xd.val else (s, [])
  let (s, l2) :=
    if mv.ye then oneMove s h k (if mv.yc && !mv.ys then 2 else 1) (mv.yp.val + 4) mv.ym.val mv.ys mv.yd.val else (s, [])
  if mv.xe && !mv.xs && mv.ye && !mv.ys && mv.xd == mv.yd then
    let (v, s) := s.takeFree
    (s, l1 ++ l2 ++ [land 2 (.d (physD (s.core h k) mv.yd.val)) (v.truncate 32 : Word).toNat])
  else (s, l1 ++ l2)

/-! Fetch and decode (R293, R322, R323). -/

/-- The instruction at the core's PC issues from the repeat cache (R312). DEDUCED (log entry 10). -/
def inCache (c : CoreUnit) : Bool :=
  c.rptv && bitOf c.stat 16 && decide (c.rptTag = c.ls) && decide (c.ls ≤ c.pc) && decide (c.pc ≤ c.le)

/-- Instruction i of C memory. -/
def codeWord (s : State) (h : Half) (k i : Nat) : BitVec 64 :=
  s.memWord (coreMemAddr h k 2 (2 * i + 1)) ++ s.memWord (coreMemAddr h k 2 (2 * i))

/-- The instruction a core fetches. -/
def fetchCode (s : State) (h : Half) (k : Nat) : BitVec 64 :=
  let c := s.core h k
  if inCache c then c.rptBody.getD (c.pc - c.ls) 0 else codeWord s h k c.pc

/-- Body instructions a to a + n - 1, for the repeat cache. -/
def codeWords (s : State) (h : Half) (k a : Nat) : Nat → List (BitVec 64)
  | 0 => []
  | n + 1 => codeWord s h k a :: codeWords s h k (a + 1) n

/-- A number as an index below n, for n > 0. -/
def finOf (n x : Nat) [NeZero n] : Fin n := Fin.ofNat n x

/-- The moves field (R322). -/
def decodeMoves (w : Nat) : Moves :=
  { yc := bitOf w 26, xe := bitOf w 25, xs := bitOf w 24, xd := finOf 64 (bitsOf w 23 18), xp := finOf 4 (bitsOf w 17 16),
    xm := finOf 4 (bitsOf w 15 14), ye := bitOf w 13, ys := bitOf w 12, yd := finOf 64 (bitsOf w 11 6),
    yp := finOf 4 (bitsOf w 5 4), ym := finOf 4 (bitsOf w 3 2) }

/-- Format P. -/
def decodeP (w : Nat) : CoreOp :=
  let opc := bitsOf w 61 56
  let t := bitsOf w 55 51
  let sa := bitsOf w 50 45
  let sb := bitsOf w 44 39
  let sc := bitsOf w 38 33
  let sd := bitsOf w 32 27
  let mac := fun o => if t % 2 = 1 then CoreOp.illegal 1 else CoreOp.mac o (t / 8) (t / 2 % 4) sa sb sc sd
  let pair := fun o => CoreOp.pair o t sa sb sc sd
  if bitsOf w 1 0 ≠ 0 then .illegal 1
  else match opc with
    | 0 => .nop
    | 1 => mac .mac
    | 2 => mac .mac2
    | 3 => mac .msu2
    | 4 => mac .mpy2
    | 5 => mac .macf2
    | 6 => mac .msuf2
    | 7 => mac .macsu2
    | 8 => pair .fma
    | 9 => pair .fma2
    | 10 => pair .fms2
    | 11 => pair .fmul2
    | 12 => pair .fadd2
    | 13 => pair .fsub2
    | _ => .illegal 1

/-- The operation of a format A opcode. -/
def aluOfOpc (opc : Nat) : Option AluOp :=
  match opc with
  | 0x00 => some .movd | 0x01 => some .add | 0x02 => some .sub | 0x03 => some .adds | 0x04 => some .subs
  | 0x05 => some .and | 0x06 => some .or | 0x07 => some .xor | 0x08 => some .andn
  | 0x09 => some .shl | 0x0A => some .shr | 0x0B => some .sra | 0x0C => some .shls
  | 0x0D => some .min | 0x0E => some .max | 0x0F => some .minu | 0x10 => some .maxu
  | 0x11 => some .abs | 0x12 => some .neg | 0x13 => some .cmp | 0x14 => some .cmpu | 0x15 => some .sel
  | 0x16 => some .mul | 0x17 => some .mulh | 0x18 => some .mulq | 0x19 => some .cls
  | 0x20 => some .fadd | 0x21 => some .fsub | 0x22 => some .fmul | 0x23 => some .fmin | 0x24 => some .fmax
  | 0x25 => some .fabs | 0x26 => some .fneg | 0x27 => some .fcmp | 0x28 => some .frcpe | 0x29 => some .frsqe
  | 0x2A => some .ftoi | 0x2B => some .itof | 0x2C => some .ftoq | 0x2D => some .qtof
  | 0x30 => some .clra | 0x31 => some .mova | 0x32 => some .adda | 0x33 => some .suba | 0x34 => some .nega
  | 0x35 => some .sacr | 0x38 => some .addp
  | _ => none

/-- Format A: COND is used by SEL and otherwise 0. -/
def decodeA (w : Nat) : CoreOp :=
  let cond := bitsOf w 35 32
  if bitsOf w 1 0 ≠ 0 ∨ bitsOf w 31 27 ≠ 0 then .illegal 1
  else match aluOfOpc (bitsOf w 61 54) with
    | none => .illegal 1
    | some op =>
      if op ≠ .sel ∧ cond ≠ 0 then .illegal 1
      else if op = .addp ∧ 12 ≤ bitsOf w 53 48 % 16 then .illegal 5
      else .alu op cond (bitsOf w 53 48) (bitsOf w 47 42) (bitsOf w 41 36)

/-- Format I. ADDI to SRAI and CMPI take a data register, ADDPI an address register. -/
def decodeI (w : Nat) : CoreOp :=
  let r := bitsOf w 55 48
  let i : Word := BitVec.ofNat 32 w
  let onD := fun op => if r < 64 then CoreOp.imm op r i else .illegal 1
  if bitsOf w 47 32 ≠ 0 then .illegal 1
  else if !regExists r then .illegal 5
  else match bitsOf w 61 56 with
    | 0 => .imm .ldi r i
    | 1 => onD .addi
    | 2 => onD .andi
    | 3 => onD .ori
    | 4 => onD .xori
    | 5 => onD .cmpi
    | 6 => onD .shli
    | 7 => onD .shri
    | 8 => onD .srai
    | 9 => if 0x50 ≤ r ∧ r < 0x5C then .imm .addpi (r - 0x50) i else .illegal 1
    | _ => .illegal 1

/-- Format C. -/
def decodeC (w : Nat) : CoreOp :=
  let cond := bitsOf w 55 52
  let r1 := bitsOf w 51 44
  let r2 := bitsOf w 43 36
  let tgt := bitsOf w 35 23
  let n := bitsOf w 22 16
  let i := bitsOf w 15 0
  let pReg := fun r (f : Nat → CoreOp) =>
    if 0x50 ≤ r ∧ r < 0x5C then f (r - 0x50) else if regExists r then .illegal 1 else .illegal 5
  let dReg := fun r (f : Nat → CoreOp) => if r < 64 then f r else if regExists r then .illegal 1 else .illegal 5
  match bitsOf w 61 56 with
  | 0x00 => .br cond tgt
  | 0x01 => pReg r1 (fun p => .jr cond p)
  | 0x02 => .call cond tgt
  | 0x03 => .ret
  | 0x04 =>
    if r1 = 0xFF then .loop (.imm (BitVec.ofNat 16 i)) n (decide (tgt % 2 = 1))
    else dReg r1 (fun d => .loop (.reg (finOf 64 d)) n (decide (tgt % 2 = 1)))
  | 0x05 => .endItem
  | 0x06 => .rti
  | 0x07 => .ei
  | 0x08 => .di
  | 0x09 => pReg r1 (fun p => .savelp p)
  | 0x0A => pReg r1 (fun p => .restlp p)
  | 0x0B => .clrf i
  | 0x0C => .movr r1 r2
  | 0x0D => dReg r1 (fun d => dReg r2 (fun p => .fld d p))
  | 0x0E => dReg r1 (fun p => dReg r2 (fun d => .fst p d))
  | 0x0F => dReg r1 (fun d => pReg r2 (fun p => .copy d p (i % 8192) (i / 8192 % 4) (decide (i / 32768 = 1))))
  | 0x10 => .waitc (i % 8)
  | 0x11 => .haltd
  | _ => .illegal 1

/-- The instruction a 64-bit word spells (R322, R323). DESIGN CHOICE (log entry 18). -/
def decodeCode (word : BitVec 64) : CoreOp × Moves :=
  let w := word.toNat
  match bitsOf w 63 62 with
  | 0 => (decodeP w, decodeMoves w)
  | 1 => (decodeA w, decodeMoves w)
  | 2 => (decodeI w, noMoves)
  | _ => (decodeC w, noMoves)

/-! Faults and ends (R315, R319, R321). -/

/-- The bits that rose in STAT rise in CORE.FLAGS (R299). -/
def coreFlags (s : State) (h : Half) (k up : Nat) : State :=
  let b := CORE.addr h k + 0x8
  s.setWordN b (s.wordN b ||| (up % 2 ^ 10))

/-- The running item ends with a fault (R321): results in flight land, FAULT and the code are recorded, event 149 is
raised, and the core waits for its copies. DEDUCED (log entry 15). -/
def coreFault (s : State) (h : Half) (k code idx : Nat) : State :=
  let (c, up) := landEverything (s.core h k)
  let item := c.urgItem.getD (c.item.getD 0)
  let s := s.setCore h k { c with xfers := [], far := none, stall := .ending (some code) }
  let b := CORE.addr h k
  let s := (coreFlags s h k up).setFlag b CORE.FAULT
  let s := (s.setFld b CORE.CODE code).setFld b CORE.FAULT_IDX idx
  raiseEvt (traceEntry s h item k 10 code) h 149

/-- HALT takes effect at a slot boundary at which an interrupt would be allowed; a stalling WAITC is abandoned. -/
def haltCheck (s : State) (h : Half) (k : Nat) : State :=
  let c := s.core h k
  if s.flag (CORE.addr h k) CORE.HALT && !c.halted && c.far.isNone && c.xfers.isEmpty &&
     (bitOf c.stat 15 || (c.item.isNone && c.urgItem.isNone)) then
    match c.stall with
    | .ending _ => s
    | .waitc _ => s.setCore h k { c with halted := true, stall := .none }
    | _ => s.setCore h k { c with halted := true }
  else s

/-- The core returns from an urgent item (R319): conditions, IE and LOOPACT from ISTAT, each sticky bit the OR. The
urgent item is complete; the core goes on with its own item or is idle. DEDUCED (log entry 15). -/
def urgentReturn (s : State) (h : Half) (k : Nat) : State :=
  let c := s.core h k
  let st := setBits (setBits c.stat 16 10 (bitsOf c.istat 16 10)) 9 4 (bitsOf c.stat 9 4 ||| bitsOf c.istat 9 4)
  let s := s.setCore h k { c with pc := c.ira, stat := st }
  match c.urgItem with
  | none => s
  | some i =>
    let s := s.setCore h k { s.core h k with urgItem := none, urgOnIdle := false, stall := .none }
    let s := traceEntry s h i k 9 c.urgSlots
    let late := match (s.sched h).find i with
      | none => false
      | some x => match x.deadline with | none => false | some t => decide (t < s.servoNow h)
    let s := s.countIf late (SCHED.addr h) SCHED.LATE_CNT
    let exceeds := decide (2 * s.fld (DESC.addr h i) DESC.EST_RUN < c.urgSlots)
    let s := s.countIf exceeds (SCHED.addr h) SCHED.OVERRUN_CNT
    let again := (s.sched h).find i
    let s := s.setSched h ((s.sched h).dropItem i)
    match again with
    | some x =>
      match x.st with
      | .reposted _ => releaseItem s h i x.repostAt x.repostDeadline causeModule
      | _ => scheduleAll s h
    | none => scheduleAll s h

/-! The issue of one instruction. -/

/-- The core can issue. -/
def CoreUnit.runs (c : CoreUnit) : Bool :=
  (c.item.isSome || c.urgItem.isSome) && decide (c.stall = .none) && c.far.isNone && !c.halted

/-- After the issue of the instruction at LE while a loop is active (R311 to R313): RB, LC and LOOPACT, the repeat
cache, and the next index. hold: a transfer is pending or takes effect now, so the sequence goes on. -/
def loopEnd (s : State) (h : Half) (k : Nat) (c : CoreUnit) (hold : Bool) : CoreUnit :=
  let c := if c.rot then { c with rb := (c.rb + 31) % 32 } else c
  let c := if c.rptv then c
    else { c with rptv := true, rptTag := c.ls, rptBody := codeWords s h k c.ls (c.le + 1 - c.ls) }
  let lc := (c.lc + 2 ^ 32 - 1) % 2 ^ 32
  if lc = 0 then { c with lc := 0, stat := setBit c.stat 16 false, pc := (c.le + 1) % 8192 }
  else { c with lc := lc, pc := if hold then (c.le + 1) % 8192 else c.ls }

/-- One slot of pending transfers: the first whose delay slots have issued, and those that remain.
DESIGN CHOICE (log entry 14). -/
def ageXfers (l : List (Nat × Xfer)) : Option Xfer × List (Nat × Xfer) :=
  let l := l.map (fun x => (x.1 - 1, x.2))
  ((l.find? (fun x => x.1 = 0)).map (fun x => x.2), l.filter (fun x => x.1 ≠ 0))

/-- A transfer whose delay slots have issued takes effect. -/
def fireXfer (s : State) (h : Half) (k : Nat) (x : Xfer) : State :=
  let c := s.core h k
  match x with
  | .jump t =>
    let out := decide (t < c.ls ∨ c.le < t)
    s.setCore h k { c with pc := t, stat := if out then setBit c.stat 16 false else c.stat }
  | .endItem =>
    if c.urgItem.isSome then urgentReturn s h k else s.setCore h k { c with stall := .ending none }
  | .rti => urgentReturn s h k

/-- The end of an issue: the slot's landings, the loop-end test or the next index, the transfers, the slot counts, and
a pending halt. extra: the instruction took a second slot on the C bus (R294). jump: the instruction itself set the
next index. DEDUCED (log entries 9, 10). -/
def finishIssue (s : State) (h : Half) (k : Nat) (lands : List Landing) (newX : List (Nat × Xfer)) (extra : Bool)
    (jump : Option Nat) : State :=
  let c := s.core h k
  let at_ := c.pc
  let (c, u1) := ageSlot { c with inFlight := c.inFlight ++ lands }
  let (c, u2) := if extra then ageSlot c else (c, 0)
  let (fired, rest) := ageXfers c.xfers
  let c := { c with xfers := rest ++ newX, slots := c.slots + 1 + b2n extra, urgSlots := c.urgSlots + 1 + b2n extra }
  let c :=
    match jump with
    | some t => { c with pc := t }
    | none =>
      if bitOf c.stat 16 && decide (at_ = c.le) then loopEnd s h k c (fired.isSome || !c.xfers.isEmpty)
      else { c with pc := (at_ + 1) % 8192 }
  let s := s.setCore h k c
  let b := CORE.addr h k
  let s := s.setQuad (b + 0x18) (s.quad (b + 0x18) + 1)
  let s := s.countIf extra b CORE.STALLS
  let s := coreFlags s h k (u1 ||| u2)
  let s := match fired with
    | none => s
    | some x => fireXfer s h k x
  haltCheck s h k

/-- The 40-bit address in a register pair (R316). -/
def pairAddr (c : CoreUnit) (dp : Nat) : Nat := (c.dreg dp).toNat + 2 ^ 32 * ((c.dreg (dp + 1)).toNat % 256)

/-- The fault an instruction ends the item with before it has any effect (R321), if any. DESIGN CHOICE (log entry 18). -/
def issueFault (c : CoreUnit) (op : CoreOp) (mv : Moves) : Option Nat :=
  if mv.ye && mv.ys && mv.yc then some 6
  else match op with
    | .illegal n => some n
    | .alu .sel cond _ _ _ => if 14 ≤ cond then some 1 else none
    | .br cond _ => if 14 ≤ cond then some 1 else none
    | .jr cond _ => if 14 ≤ cond then some 1 else none
    | .call cond _ => if 14 ≤ cond then some 1 else none
    | .loop _ n _ => if n = 0 ∨ 64 < n then some 1 else none
    | .imm .ldi r _ => if regExists r then none else some 5
    | .movr r1 r2 => if regExists r1 && regExists r2 then none else some 5
    | .fld _ dp => if dp % 2 = 1 then some 1 else if pairAddr c dp % 4 ≠ 0 then some 2 else none
    | .fst dp _ => if dp % 2 = 1 then some 1 else if pairAddr c dp % 4 ≠ 0 then some 2 else none
    | .copy dp _ count mem _ =>
      if count = 0 ∨ 4096 < count ∨ mem = 3 then some 3
      else if dp % 2 = 1 then some 1 else if pairAddr c dp % 4 ≠ 0 then some 2 else none
    | .waitc k => if 4 < k then some 1 else none
    | _ => none

/-- The delay slots of a transfer. -/
def delayed (x : Xfer) : List (Nat × Xfer) := [(2, x)]

/-- LOOP (R311): its loop state acts at once, and it has no delay slots. -/
def issueLoop (s : State) (h : Half) (k : Nat) (count : LoopCount) (n : Nat) (rot : Bool) : State :=
  let c := s.core h k
  let n0 := match count with
    | .reg d => (c.dreg d.val).toNat
    | .imm i => i.toNat
  let ls := (c.pc + 1) % 8192
  let le := (c.pc + n) % 8192
  if n0 = 0 then
    let s := s.setCore h k { c with stat := setBit c.stat 16 false, rptv := false }
    finishIssue s h k [] [] false (some ((c.pc + n + 1) % 8192))
  else
    let s := s.setCore h k { c with ls := ls, le := le, lc := n0, stat := setBit c.stat 16 true, rptv := false, rot := rot }
    finishIssue s h k [] [] false (some ls)

/-- SAVELP (R320): the five words of the loop state at X Pn. -/
def issueSavelp (s : State) (h : Half) (k pn : Nat) : State :=
  let c := s.core h k
  let a := c.p.getD pn 0 % 16384
  let s := coreStore s h k 0 a (BitVec.ofNat 32 c.lc)
  let s := coreStore s h k 0 (a + 1) (BitVec.ofNat 32 c.ls)
  let s := coreStore s h k 0 (a + 2) (BitVec.ofNat 32 c.le)
  let s := coreStore s h k 0 (a + 3) (BitVec.ofNat 32 c.rb)
  let s := coreStore s h k 0 (a + 4) (BitVec.ofNat 32 (b2n c.rptv))
  finishIssue s h k [] [] false none

/-- RESTLP (R320): the loop state lands after 2 slots; a reserved bit set in the block is fault 4. -/
def issueRestlp (s : State) (h : Half) (k pn : Nat) : State :=
  let c := s.core h k
  let a := c.p.getD pn 0 % 16384
  let (w0, s) := coreLoad s h k 0 a
  let (w1, s) := coreLoad s h k 0 (a + 1)
  let (w2, s) := coreLoad s h k 0 (a + 2)
  let (w3, s) := coreLoad s h k 0 (a + 3)
  let (w4, s) := coreLoad s h k 0 (a + 4)
  if 2 ^ 13 ≤ w1.toNat ∨ 2 ^ 13 ≤ w2.toNat ∨ 32 ≤ w3.toNat ∨ 2 ≤ w4.toNat then coreFault s h k 4 c.pc
  else finishIssue s h k [land 2 .loopState (packLoop w0.toNat w1.toNat w2.toNat w3.toNat w4.toNat)] [] false none

/-- COPY joins the outstanding copies (R317); the words of an inbound one are undefined until WAITC has shown it.
DEDUCED (log entry 13). -/
def startCopy (s : State) (h : Half) (k : Nat) (o : CopyOp) : State :=
  let c := s.core h k
  let s := s.setCore h k { c with copies := c.copies ++ [o], unseen := if o.outbound then c.unseen else c.unseen ++ [o],
                                  stall := .none }
  finishIssue s h k [] [] false none

/-- COPY: a fifth outstanding copy stalls the core. -/
def issueCopy (s : State) (h : Half) (k dp pn count mem : Nat) (outbound : Bool) : State :=
  let c := s.core h k
  let o : CopyOp := ⟨pairAddr c dp, c.p.getD pn 0 % 16384, count, mem, outbound, c.pc⟩
  if 4 ≤ c.copies.length then s.setCore h k { c with stall := .copy o } else startCopy s h k o

/-- WAITC goes on: the copies it has shown to be complete define their words. DEDUCED (log entry 13). -/
def passWaitc (s : State) (h : Half) (k : Nat) : State :=
  let c := s.core h k
  let s := s.setCore h k { c with unseen := c.copies.filter (fun o => !o.outbound), stall := .none }
  finishIssue s h k [] [] false none

/-- A control instruction. DESIGN CHOICE (log entry 14). -/
def issueCtl (s : State) (h : Half) (k : Nat) (op : CoreOp) : State :=
  let c := s.core h k
  let plain := fun (s : State) (l : List Landing) (x : List (Nat × Xfer)) => finishIssue s h k l x false none
  match op with
  | .br cond tgt => plain s [] (if condHolds c.stat cond then delayed (.jump tgt) else [])
  | .jr cond pn => plain s [] (if condHolds c.stat cond then delayed (.jump (c.p.getD pn 0 % 8192)) else [])
  | .call cond tgt =>
    if condHolds c.stat cond then plain s [land 1 (.p 10) ((c.pc + 3) % 8192)] (delayed (.jump tgt)) else plain s [] []
  | .ret => plain s [] (delayed (.jump (c.p.getD 10 0 % 8192)))
  | .loop count n rot => issueLoop s h k count n rot
  | .endItem => plain s [] (delayed .endItem)
  | .rti => plain s [] (delayed .rti)
  | .ei => plain s [land 1 .ie 1] []
  | .di => plain s [land 1 .ie 0] []
  | .savelp pn => issueSavelp s h k pn
  | .restlp pn => issueRestlp s h k pn
  | .clrf mask => plain s [land 1 .clrf mask] []
  | .movr r1 r2 =>
    let v : Word := BitVec.ofNat 32 ((c.readReg r2 true).getD 0)
    let (c, l) := writeReg c r1 v
    plain (s.setCore h k c) l []
  | .fld dd dp =>
    plain (s.setCore h k { c with far := some ⟨pairAddr c dp, none, physD c dd, c.pc⟩ }) [] []
  | .fst dp ds =>
    plain (s.setCore h k { c with far := some ⟨pairAddr c dp, some (c.dreg ds), 0, c.pc⟩ }) [] []
  | .copy dp pn count mem outbound => issueCopy s h k dp pn count mem outbound
  | .waitc n =>
    if c.copies.length ≤ n then passWaitc s h k
    else haltCheck (s.setCore h k { c with stall := .waitc n }) h k
  | .haltd => plain (s.setFlag (CORE.addr h k) CORE.HALT) [] []
  | _ => s

/-- ADDP of an address register that a move of the same instruction also modifies: the spec states no order.
DESIGN CHOICE (log entry 7). -/
def addpClash (op : CoreOp) (mv : Moves) : Option Nat :=
  match op with
  | .alu .addp _ dd _ _ =>
    if (mv.xe && decide (mv.xp.val = dd % 16)) || (mv.ye && decide (mv.yp.val + 4 = dd % 16)) then some (dd % 16) else none
  | _ => none

/-- A computing instruction goes on after its operation: its moves, the free value where ADDP meets a move on one P register,
and the end of its slots. DESIGN CHOICE (log entry 7). -/
def issueEnd (s : State) (h : Half) (k : Nat) (op : CoreOp) (mv : Moves) (r : CoreUnit × List Landing) : State :=
  let extra := mv.ye && mv.yc && !mv.ys && !inCache (s.core h k)
  let m := doMoves (s.setCore h k r.1) h k mv
  match addpClash op mv with
  | none => finishIssue m.1 h k (r.2 ++ m.2) [] extra none
  | some p =>
    let v := m.1.takeFree
    finishIssue v.2 h k (r.2 ++ m.2 ++ [land 1 (.p p) (v.1.truncate 16 : BitVec 16).toNat]) [] extra none

/-- One instruction issues on core k, if the core runs (R300 to R323). DEDUCED (log entry 9). -/
def issue (s : State) (h : Half) (k : Nat) (op : CoreOp) (mv : Moves) : State :=
  let c := s.core h k
  if !c.runs then s
  else match issueFault c op mv with
    | some code => coreFault s h k code c.pc
    | none =>
      match op with
      | .nop => issueEnd s h k op mv (c, [])
      | .mac o aa ab sa sb sc sd => issueEnd s h k op mv (macOp c o aa ab sa sb sc sd)
      | .pair o t sa sb sc sd => issueEnd s h k op mv (c, pairOp c o t sa sb sc sd)
      | .alu o cond dd sa sb => issueEnd s h k op mv (aluOp c o cond dd sa sb)
      | .imm o r i => issueEnd s h k op mv (immOp c o r i)
      | op => issueCtl s h k op

/-- The core fetches and issues the instruction at its PC. -/
def fetchIssue (s : State) (h : Half) (k : Nat) : State :=
  let (op, mv) := decodeCode (fetchCode s h k)
  issue s h k op mv

end Sys2Proof.Machine
end

