-- ==== Sys2Proof/Machine/Via.lean ====
section
/-! DEFINITION. How a master's write of a command register reaches its half (R25, R407, R463). -/
namespace Sys2Proof.Machine

/-- MASTER of BPI.ERR_INFO. DEDUCED (log entry 105). -/
def masterCode : Master → Nat
  | .k16 => 0
  | .k32 => 1
  | .pcie => 2
  | .service => 5
  | .core .a _ => 3
  | .core .b _ => 4

/-- CORE of BPI.ERR_INFO. -/
def masterCore : Master → Nat
  | .core _ k => k.val
  | _ => 0

/-- The interface records an access in BPI.ERR_ADDR and BPI.ERR_INFO. -/
def errRecord (s : State) (kind : Nat) (m : Master) (addr : Nat) : State :=
  let s := s.setFld BPI.addr BPI.ERR_ADDR addr
  s.setWordN (BPI.addr + 0x14) (kind + masterCode m * 16 + masterCore m * 256)

/-- The access of a core fails: its item ends with fault 2 (R321). Other masters' accesses complete normally. -/
def failMaster (s : State) (m : Master) : State :=
  match m with
  | .core h k => coreFault s h k.val 2 (s.core h k.val).pc
  | _ => s

/-- An active-view access while no half holds the pennant (R463): recorded with KIND 8, event 247 in both halves, and
fault 2 for a core. -/
def noActiveHalf (s : State) (m : Master) (addr : Nat) : State :=
  failMaster (raiseBoth (errRecord s 8 m addr) 247) m

/-- A master's write of word value at offset off of a half, through its view: resolved when it is accepted, held while
the pennant moves, discarded while no half is active. DEDUCED (log entry 115). -/
def viaHalf (s : State) (via : Via) (off : Nat) (value : Nat) (f : State → Half → State) : State :=
  match via.v with
  | .a => f s .a
  | .b => f s .b
  | .active =>
    if s.hold then
      { s with held := s.held ++ [⟨via.m, activeBase + off, 4, some (BitVec.ofNat 32 value)⟩] }
    else
      match s.activeHalf with
      | none => noActiveHalf s via.m (activeBase + off)
      | some h => f s h

/-- As viaHalf for a quantity of two words (R5, R409): while the pennant moves, both parts are held. -/
def viaHalf2 (s : State) (via : Via) (off value : Nat) (f : State → Half → State) : State :=
  match via.v with
  | .a => f s .a
  | .b => f s .b
  | .active =>
    if s.hold then
      { s with held := s.held ++ [⟨via.m, activeBase + off, 4, some (BitVec.ofNat 32 value)⟩,
                                  ⟨via.m, activeBase + off + 4, 4, some (BitVec.ofNat 32 (value / 2 ^ 32))⟩] }
    else
      match s.activeHalf with
      | none => noActiveHalf s via.m (activeBase + off)
      | some h => f s h

/-- A master's read of the word at offset off of a half, through its view: what f returns, put at the master's port. -/
def viaRead (s : State) (via : Via) (off : Nat) (f : State → Half → Nat × State) : State :=
  let run := fun h =>
    let (v, s) := f s h
    s.answer via.m (BitVec.ofNat 64 v)
  match via.v with
  | .a => run .a
  | .b => run .b
  | .active =>
    if s.hold then { s with held := s.held ++ [⟨via.m, activeBase + off, 4, none⟩] }
    else
      match s.activeHalf with
      | none => (noActiveHalf s via.m (activeBase + off)).answer via.m 0
      | some h => run h

/-- The offset inside a half view of a register's address in Half A. -/
def halfOff (addrA : Nat) : Nat := addrA - viewBase .a

end Sys2Proof.Machine
end

