-- ==== Sys2Proof/Machine/ExecAcq.lean ====
section
/-! DEFINITION. The meanings of the commands of triggered acquisition, of the halyard lines and of the local inputs. -/
namespace Sys2Proof.Machine

/-- The edge of a local input in the input register and in every axis input of both halves that selects it. -/
def inputEdge (s : State) (i : Nat) (level : Bool) (res : Nat) : State :=
  let s := s.setMapBit LIO.addr i level
  let s := localEdge s .a i level (stampTo res (s.servoNow .a)) 384
  localEdge s .b i level (stampTo res (s.servoNow .b)) 384

/-- An edge on a fast input in one half: its triggers and event 200 + i with the captured stamp. -/
def fastEdge (s : State) (h : Half) (i : Nat) (level : Bool) : State :=
  let st := stampTo 10 (s.servoNow h)
  let s := acqTrigger s h (fun r => acqSelects s h 3 i r && edgeSelected s h level r) st 3 false
  raiseAt s h (200 + i) st

/-- An edge on a standard input in one half: event 204. -/
def standardEdge (s : State) (h : Half) : State := raiseAt s h 204 (stampTo 10000 (s.servoNow h))

/-- ARM_RECORD: a write of ARM in ACQ.REC (R398). -/
def execArmRecord (via : Via) (r : Fin 256) (s : State) : Host.Outcome State Fault Refusal :=
  .next (viaHalf s via (halfOff (REC.addr .a r.val) + 0x30) 1 (fun s h => recCmd s h r.val 1))

/-- DISARM: a write of DISARM (R403). -/
def execDisarm (via : Via) (r : Fin 256) (s : State) : Host.Outcome State Fault Refusal :=
  .next (viaHalf s via (halfOff (REC.addr .a r.val) + 0x30) 2 (fun s h => recCmd s h r.val 2))

/-- DISARM_TAKE_EFFECT: the sync instant after the write (R403). -/
def execDisarmTakeEffect (h : Half) (r : Fin 256) (s : State) : Host.Outcome State Fault Refusal :=
  .next (disarmNow s h r.val)

/-- FORCE: a write of FORCE (R399). -/
def execForce (via : Via) (r : Fin 256) (s : State) : Host.Outcome State Fault Refusal :=
  .next (viaHalf s via (halfOff (REC.addr .a r.val) + 0x30) 4 (fun s h => recCmd s h r.val 4))

/-- CLEAR: a write of CLEAR (R402). -/
def execClear (via : Via) (r : Fin 256) (s : State) : Host.Outcome State Fault Refusal :=
  .next (viaHalf s via (halfOff (REC.addr .a r.val) + 0x30) 8 (fun s h => recCmd s h r.val 8))

/-- RECORD_REARM: the record named by NEXT is armed at the next sync instant (R402). -/
def execRecordRearm (h : Half) (r : Fin 256) (s : State) : Host.Outcome State Fault Refusal :=
  .next (recordRearm s h r.val)

/-- CLR_LOG: a write of ACQ.CTRL with CLR_LOG (R403). -/
def execClrLog (via : Via) (s : State) : Host.Outcome State Fault Refusal :=
  .next (viaHalf s via (halfOff (ACQ.addr .a)) 1 (fun s h => acqCtrl s h 1))

/-- ACQ_CLR_CNT: a write of ACQ.CTRL with CLR_CNT. -/
def execAcqClrCnt (via : Via) (s : State) : Host.Outcome State Fault Refusal :=
  .next (viaHalf s via (halfOff (ACQ.addr .a)) 2 (fun s h => acqCtrl s h 2))

/-- TRIGGER_INPUT_EDGE: an edge on TRIG0 or TRIG1, stamped to 10 ns in both halves (R399). -/
def execTriggerInputEdge (t : Fin 2) (rising : Bool) (s : State) : Host.Outcome State Fault Refusal :=
  .next (triggerEdge (triggerEdge s .a t.val rising (s.servoNow .a)) .b t.val rising (s.servoNow .b))

/-- HALYARD_EDGE: a qualified edge, stamped to 20 ns in both halves; HL_LEVEL shows the line low (R425). -/
def execHalyardEdge (line : Fin 8) (low : Bool) (s : State) : Host.Outcome State Fault Refusal :=
  .next (let s := s.setFld BPI.addr BPI.HL_LEVEL (setBit (s.fld BPI.addr BPI.HL_LEVEL) line.val low); halyardEdge (halyardEdge s .a line.val (!low) (s.servoNow .a)) .b line.val (!low) (s.servoNow .b))

/-- HALYARD_PULSE_END: the 2 us drive of a line ends (R425). -/
def execHalyardPulseEnd (line : Fin 8) (s : State) : Host.Outcome State Fault Refusal :=
  .next (hlDriveOff s line.val)

/-- HL_PULSE: a write of HL_PULSE: only lines in HL_USER are driven (R425). -/
def execHlPulse (mask : BitVec 8) (s : State) : Host.Outcome State Fault Refusal :=
  .next (hlPulse s mask.toNat)

/-- REMOTE_TRIGGER_RECEIVE: a message is taken at its first copy; it triggers the records with its ID and raises event 199 (R401). -/
def execRemoteTriggerReceive (h : Half) (message : List Byte) (s : State) : Host.Outcome State Fault Refusal :=
  .next (remoteReceive s h message)

/-- LOCAL_INPUT_EDGE: standard input i + 4, sampled every 10 us (R70); event 204 in both halves. -/
def execLocalInputEdge (i : Fin 44) (level : Bool) (s : State) : Host.Outcome State Fault Refusal :=
  .next (standardEdge (standardEdge (inputEdge s (i.val + 4) level 10000) .a) .b)

/-- FAST_INPUT_EDGE: fast input i, captured to 10 ns (R70); event 200 + i in both halves. -/
def execFastInputEdge (i : Fin 4) (level : Bool) (s : State) : Host.Outcome State Fault Refusal :=
  .next (fastEdge (fastEdge (inputEdge s i.val level 10) .a i.val level) .b i.val level)

end Sys2Proof.Machine
end

