-- ==== Sys2Proof/Machine/CoreRun.lean ====
section
/-! DEFINITION. Work items on the cores: urgent entry, argument prefetch, completion, debugging, and the writes of the
scheduler's registers (R314 to R335). -/
namespace Sys2Proof.Machine

/-- A core takes its urgent item (R318): results in flight land, IRA, ISTAT, IARG and IARGH are saved, IE and LOOPACT
clear, and the handler's entry is next. Entered only at a slot boundary where IE is 1, no delay slot is pending and no
far access stalls; a stalling WAITC runs again after the return. DEDUCED (log entry 13). -/
def urgentEntry (s : State) (h : Half) (k : Nat) : State :=
  let c := s.core h k
  match c.urgPend with
  | none => s
  | some i =>
    let open_ := (bitOf c.stat 15 || c.item.isNone) && c.xfers.isEmpty && c.far.isNone && !c.halted && c.urgItem.isNone &&
      (match c.stall with | .ending _ => false | _ => true)
    if !open_ then s
    else
      let (c, up) := landEverything c
      let ptr := s.fld (DESC.addr h i) DESC.ARG_PTR
      let now := s.servoNow h
      let cut := c.item
      let stall := match c.stall with
        | .waitc _ => .none
        | x => x
      let c := { c with
        ira := c.pc, istat := c.statWord, stat := setBit (setBit c.stat 15 false) 16 false,
        iarg := ptr % 2 ^ 32, iargh := ptr / 2 ^ 32 % 256, pc := s.fld (DESC.addr h i) DESC.ENTRY,
        urgPend := none, urgItem := some i, urgOnIdle := c.item.isNone, urgSlots := 0, stall := stall }
      let s := coreFlags (s.setCore h k c) h k up
      let s := s.setSched h ((s.sched h).modItem i (fun x =>
        { x with st := .running k, startedLate := match x.deadline with | none => false | some t => decide (t < now) }))
      traceEntry s h i k 8 (cut.getD 0xFFFF)

/-- n words from module address src to word idx of X memory of core k. A source that is no memory reads as its
registers. -/
def prefetchWords (s : State) (h : Half) (k src idx : Nat) : Nat → State
  | 0 => s
  | n + 1 =>
    let w := if (regRowAt src).isSome then s.word src else s.memWord src
    prefetchWords (s.setMemWord (coreMemAddr h k 0 idx) w) h k (src + 4) (idx + 1) n

/-- STALLS counts slots lost (R304). -/
def lostSlots (s : State) (h : Half) (k n : Nat) : State := s.countBy (CORE.addr h k) CORE.STALLS n

/-- The argument prefetch of core k finishes (R331): into the running area where the core waits for it, else into the
other area for its next slot. -/
def prefetchDone (s : State) (h : Half) (k lost : Nat) : State :=
  let c := s.core h k
  match c.stall, c.item with
  | .args, some i =>
    let s := prefetchWords s h k (s.fld (DESC.addr h i) DESC.ARG_PTR) (areaIndex c.area) (itemArgs s h i)
    lostSlots (s.setCore h k { s.core h k with stall := .none }) h k lost
  | _, _ =>
    match c.nextItem with
    | none => s
    | some i =>
      if c.nextReady then s
      else
        let s := prefetchWords s h k (s.fld (DESC.addr h i) DESC.ARG_PTR) (areaIndex (!c.area)) (itemArgs s h i)
        s.setCore h k { s.core h k with nextReady := true }

/-- Saturating 32-bit detail of a time in units of 8 ns. -/
def in8ns (t : Nat) : Nat := Nat.min (t / 8) (2 ^ 32 - 1)

/-- REQ work is late or abandoned: event 150 on the first after a period with none (R333). -/
def reqLate (s : State) (h : Half) : State :=
  let u := s.sched h
  let first := u.lateArmed
  let s := s.setSched h { u with lateArmed := false, lateNow := true }
  raiseIf s first h 150

/-- The item's place is free: a post taken while it ran releases it again (R327). -/
def freeItem (s : State) (h : Half) (i : Nat) : State :=
  match (s.sched h).find i with
  | none => s
  | some x =>
    let s := s.setSched h ((s.sched h).dropItem i)
    match x.st with
    | .reposted _ => releaseItem s h i x.repostAt x.repostDeadline causeModule
    | _ => s

/-- What the end of an item says of it: the descriptor, whether it ended in time, its slack in ns (negative when late),
and whether a fault ended it. -/
structure ItemEnd where
  item : Nat
  inTime : Bool
  slack : Option Int
  fault : Bool
  deriving DecidableEq, Repr

/-- Core k can complete its item: END has issued (or a fault ended the item) and no copy is outstanding (R315). -/
def canComplete (c : CoreUnit) : Bool :=
  c.item.isSome && c.urgItem.isNone && c.copies.isEmpty && c.far.isNone &&
    (match c.stall with | .ending _ => true | _ => false)

/-- The running item of core k completes (R315, R333): results land, the outcome is counted and traced, and the core is
free. The next item is not yet given out. -/
def completeItem (s : State) (h : Half) (k : Nat) : State × Option ItemEnd :=
  let c0 := s.core h k
  if !canComplete c0 then (s, none)
  else match c0.item with
    | none => (s, none)
    | some i =>
      let (c, up) := landEverything c0
      let fault := match c0.stall with | .ending (some _) => true | _ => false
      let s := coreFlags (s.setCore h k { c with item := none, stall := .none, xfers := [], unseen := [] }) h k up
      let now := s.servoNow h
      let dl := ((s.sched h).find i).bind (fun x => x.deadline)
      let slack : Option Int := dl.map (fun t => (t : Int) - (now : Int))
      let late := fault || (match dl with | none => false | some t => decide (t < now))
      let s :=
        if fault then s
        else if late then traceEntry s h i k 5 (in8ns (now - dl.getD 0))
        else traceEntry s h i k 4 (in8ns (dl.getD now - now))
      let s := s.countIf late (SCHED.addr h) SCHED.LATE_CNT
      let exceeds := decide (2 * s.fld (DESC.addr h i) DESC.EST_RUN < c.slots)
      let s := s.countIf exceeds (SCHED.addr h) SCHED.OVERRUN_CNT
      let s := if late && s.flag (DESC.addr h i) DESC.REQ then reqLate s h else s
      (freeItem s h i, some ⟨i, !late, slack, fault⟩)

/-- The core goes on: with its next-slot item, else with what the scheduler gives it (R331). -/
def nextItemOn (s : State) (h : Half) (k : Nat) : State :=
  let c := s.core h k
  let s := match c.item, c.nextItem with
    | none, some i => if c.halted then s else startItem s h k i (!c.area) c.nextReady
    | _, _ => s
  scheduleAll s h

/-- Core k returns from an urgent item that a fault ended, once its copies are complete (R321). DEDUCED (log entry 15). -/
def endFaultedUrgent (s : State) (h : Half) (k : Nat) : State :=
  let c := s.core h k
  match c.urgItem, c.stall with
  | some _, .ending (some _) => if c.copies.isEmpty then urgentReturn s h k else s
  | _, _ => s

/-- An item that has not started by its deadline, with DROP_LATE or REQ set, is removed without running (R333). The
result says whether it was REQ. -/
def abandonItem (s : State) (h : Half) (i : Nat) : State × Bool :=
  match (s.sched h).find i with
  | none => (s, false)
  | some x =>
    let waiting := match x.st with
      | .ready => true
      | .nextSlot _ => true
      | _ => false
    let passed := match x.deadline with
      | none => false
      | some t => decide (t < s.servoNow h)
    let req := s.flag (DESC.addr h i) DESC.REQ
    if waiting && passed && (req || s.flag (DESC.addr h i) DESC.DROP_LATE) then
      let k := match x.st with | .nextSlot k => k | _ => noCore
      let s := traceEntry s h i k 6 ((x.deadline.getD 0) % 2 ^ 32)
      let s := match x.st with
        | .nextSlot k => s.setCore h k { s.core h k with nextItem := none, nextReady := false }
        | _ => s
      let s := s.setSched h ((s.sched h).dropItem i)
      let s := s.count (SCHED.addr h) SCHED.ABANDON_CNT
      let s := if req then reqLate s h else s
      (scheduleAll s h, req)
    else (s, false)

/-- A write of SCHED.POST (R327). -/
def postWrite (s : State) (h : Half) (v : Word) : State :=
  let i := v.toNat
  let now := s.servoNow h
  postAt s h i now (itemDeadline s h i now) causeWrite

/-- A write of word w (0 to 7) of descriptor i (R325): discarded while the item is not idle, or where it would make
GROUP 0 or AFFINITY 0; a descriptor written at run time has REQ 0. DEDUCED (log entry 20). -/
def descWrite (s : State) (h : Half) (i w : Nat) (v : Word) : State :=
  let b := DESC.addr h i
  let bad := decide (itemState s h i ≠ 0) || (decide (w = 0) && decide (bitsOf v.toNat 19 16 = 0)) ||
    (decide (w = 1) && decide (v.toNat % 2 ^ 24 = 0))
  if bad then s.setFlag (SCHED.addr h) SCHED.PARAM_ERR
  else
    let s := s.setFld b DESC.REQ 0
    match w with
    | 0 => s.setWordN b (setBits (setBits v.toNat 23 22 0) 15 13 0)
    | 1 => s.setWordN (b + 4) (v.toNat % 2 ^ 24)
    | 2 => s.setWord (b + 8) v
    | 3 => s.setWordN (b + 12) (v.toNat % 256)
    | 4 => s.setWord (b + 16) v
    | 5 => s.setWord (b + 20) v
    | _ => s

/-- The trace has written its 256 entries after the freeze event (R334): it stops and event 152 is raised. -/
def freezeTrace (s : State) (h : Half) : State :=
  if (s.sched h).freezeLeft = some 0 ∧ !s.flag (SCHED.addr h) SCHED.FROZEN then
    raiseEvt (s.setFlag (SCHED.addr h) SCHED.FROZEN) h 152
  else s

/-- A write of SCHED.TRACE (R334): FREEZE_EN and FREEZE_EVT, and TR_CLEAR empties and restarts the trace. -/
def traceWrite (s : State) (h : Half) (v : Nat) : State :=
  let b := SCHED.addr h
  let s := (s.setFld b SCHED.FREEZE_EN (bitsOf v 15 15)).setFld b SCHED.FREEZE_EVT (bitsOf v 23 16)
  if bitOf v 24 then
    let s := (s.setFld b SCHED.WR_IDX 0).setFld b SCHED.FROZEN 0
    let s := s.setSched h { s.sched h with freezeLeft := none }
    s.resetRegs (TRC.addr h 0) 0x40000
  else s

/-- CORE.CTRL HALT (R323). -/
def haltWrite (s : State) (h : Half) (k : Nat) (on : Bool) : State :=
  let s := s.putFlag (CORE.addr h k) CORE.HALT on
  if on then haltCheck s h k
  else
    let s := s.setCore h k { s.core h k with halted := false }
    if (s.core h k).item.isNone then nextItemOn s h k else s

/-- CORE.CTRL STEP: a halted core issues one instruction, with its delay slots where it is a transfer (R323). -/
def stepCore (s : State) (h : Half) (k : Nat) : State :=
  if !(s.core h k).halted then s
  else
    let go := fun (s : State) => fetchIssue (s.setCore h k { s.core h k with halted := false }) h k
    let more := fun (s : State) => if (s.core h k).xfers.isEmpty then s else go s
    let s := more (more (go s))
    s.setCore h k { s.core h k with halted := true }

/-- CORE.REG[r] of a halted core (R323): a read returns the register without sign extension, a write of a read-only or
reserved number is discarded. At other times a read is 0 and a write is discarded. DEDUCED (log entry 17). -/
def coreRegRead (s : State) (h : Half) (k r : Nat) : Word :=
  let c := s.core h k
  if c.halted then BitVec.ofNat 32 ((c.readReg r false).getD 0) else 0

def coreRegWrite (s : State) (h : Half) (k r : Nat) (v : Word) : State :=
  let c := s.core h k
  if c.halted then
    let (c, l) := writeReg c r v
    let (c, up, _) := landReady c 0 [] (l.map (fun x => { x with left := 0 }))
    coreFlags (s.setCore h k c) h k up
  else s

end Sys2Proof.Machine
end

