-- ==== Sys2Proof/Machine/Can.lean ====
section
/-! DEFINITION. CAN channels (R377 to R393): states, transmit buffers, mailboxes, the compatibility queue, error confinement
and wiring faults. Each bus event is a command; the counters' steps that the chapter leaves to ISO 11898-1 follow that
standard (PRESUMED, log). -/
namespace Sys2Proof.Machine

def canState (s : State) (h : Half) (c : Nat) : Nat := s.fld (CAN.addr h c) CAN.STATE
def canMode (s : State) (h : Half) (c : Nat) : Nat := s.fld (CAN.addr h c) CAN.MODE_REQ

/-- Event e of channel c: 160 + 8c + e. -/
def canEvent (s : State) (h : Half) (c e : Nat) : State := raiseEvt s h (160 + 8 * c + e)

/-- The low 32 bits of TB0's count. -/
def tb0Low (s : State) : Nat := s.tb0 % 2 ^ 32

/-- a lies after b in serial arithmetic modulo 2^32. -/
def serialAfter (a b : Nat) : Bool := decide (0 < (a + 2 ^ 32 - b % 2 ^ 32) % 2 ^ 32 ∧ (a + 2 ^ 32 - b % 2 ^ 32) % 2 ^ 32 < 2 ^ 31)

/-- The channel's frames reach the bus, and the bus reaches it: its half holds the pennant (R19, R393). Internal loopback
needs no bus. -/
def canOnBus (s : State) (h : Half) (c : Nat) : Bool :=
  decide (canState s h c = 2 ∨ canState s h c = 3) && (decide (canMode s h c = 4) || decide (s.activeHalf = some h))

/-- The half that a frame with its SOF at a TB0 instant belongs to: one that was in progress when the pennant moved stays with the
half that held it (R19). -/
def canHolder (s : State) (sof : Nat) : Option Half :=
  match s.pen.moved with
  | none => s.activeHalf
  | some (h, t, _) => if s.tb0 < t + 2 ^ 31 ∧ serialAfter (t % 2 ^ 32) sof then some h else s.activeHalf

/-- The channel and a frame with its SOF at an instant reach each other. -/
def canFrameOn (s : State) (h : Half) (c sof : Nat) : Bool :=
  decide (canState s h c = 2 ∨ canState s h c = 3) && (decide (canMode s h c = 4) || decide (canHolder s sof = some h))

/-! Error confinement (R390, R391). -/

def txPending (s : State) (h : Half) (c b : Nat) : Bool := s.flag (TXB.addr h c b) TXB.PENDING

/-- Bus-off: pending buffers are marked, the hold is set; with AUTO_REC recovery starts at once (R384, R390, R393). -/
def enterBusOff (s : State) (h : Half) (c : Nat) : State :=
  let b := CAN.addr h c
  let s := (List.range 3).foldl (fun s i => s.flagIf (txPending s h c i) (TXB.addr h c i) TXB.PENDING_AT_BUSOFF) s
  let s := if s.activeHalf = some h then { s with canHold := s.canHold.set c true } else s
  let s := canEvent (s.setFld b CAN.STATE 4) h c 4
  if s.flag b CAN.AUTO_REC then (s.setFld b CAN.STATE 5).setFld b CAN.REC_SEQ 0 else s

/-- The state the counters ask for, with EWARN. PRESUMED (log entry 74). DEDUCED (log entry 76). -/
def confine (s : State) (h : Half) (c : Nat) : State :=
  let b := CAN.addr h c
  let t := s.fld b CAN.TEC
  let r := s.fld b CAN.REC
  let s := s.putFlag b CAN.EWARN (decide (96 ≤ t ∨ 96 ≤ r))
  let st := canState s h c
  if st ≠ 2 ∧ st ≠ 3 then s
  else if 255 < t then enterBusOff s h c
  else
    let new := if 127 < t ∨ 127 < r then 3 else 2
    if new = st then s else canEvent (s.setFld b CAN.STATE new) h c 3

/-- TEC and REC take new values. -/
def setErr (s : State) (h : Half) (c tec rec_ : Nat) : State :=
  let b := CAN.addr h c
  confine ((s.setFld b CAN.TEC (Nat.min tec 511)).setFld b CAN.REC (Nat.min rec_ 255)) h c

/-- The run of acknowledgement errors ends. -/
def clearAlone (s : State) (h : Half) (c : Nat) : State :=
  (s.setCan h c { s.can h c with ackRun := 0 }).putFlag (CAN.addr h c) CAN.ALONE false

/-- CAN_ERROR. A listen-only or restricted channel keeps its counters. PRESUMED (log entry 74). -/
def canError (s : State) (h : Half) (c : Nat) (e : CanErr) : State :=
  let b := CAN.addr h c
  let t := s.fld b CAN.TEC
  let r := s.fld b CAN.REC
  if !canOnBus s h c ∨ canMode s h c = 2 ∨ canMode s h c = 3 then s
  else match e with
    | .tx => setErr s h c (t + 8) r
    | .rx => setErr s h c t (r + 1)
    | .rxFlag => setErr s h c t (r + 8)
    | .ack ex =>
      let u := s.can h c
      let s := s.setCan h c { u with ackRun := Nat.min 16 (u.ackRun + 1) }
      if ex ∧ canState s h c = 3 then s else setErr s h c (t + 8) r

/-- ALONE: 16 consecutive acknowledgement errors. -/
def canAlone (s : State) (h : Half) (c : Nat) : State :=
  if (s.can h c).ackRun = 16 ∧ !s.flag (CAN.addr h c) CAN.ALONE then canEvent (s.setFlag (CAN.addr h c) CAN.ALONE) h c 5 else s

/-- A frame has been received without error: REC falls; above 127 it falls to a value between 119 and 127.
PRESUMED (log entry 74). -/
def recGood (s : State) (h : Half) (c : Nat) : State :=
  let b := CAN.addr h c
  let r := s.fld b CAN.REC
  if r = 0 then s
  else if r ≤ 127 then setErr s h c (s.fld b CAN.TEC) (r - 1)
  else
    let (v, s) := s.takeFree
    setErr s h c (s.fld b CAN.TEC) (119 + v.toNat % 9)

/-! Channel states (R379). -/

/-- INTEGRATION_COMPLETE: 11 recessive bits. -/
def canIntegrated (s : State) (h : Half) (c : Nat) : State :=
  if canState s h c = 1 then confine (canEvent (s.setFld (CAN.addr h c) CAN.STATE 2) h c 3) h c else s

/-- RECOVER: recovery from bus-off starts. -/
def canRecover (s : State) (h : Half) (c : Nat) : State :=
  if canState s h c = 4 then (s.setFld (CAN.addr h c) CAN.STATE 5).setFld (CAN.addr h c) CAN.REC_SEQ 0 else s

/-- RECOVERY_COMPLETE: 128 occurrences; only CAN.ERR is reset, and with it EWARN (R11, R390). DEDUCED (log entry 76). -/
def canRecovered (s : State) (h : Half) (c : Nat) : State :=
  let b := CAN.addr h c
  if canState s h c ≠ 5 then s
  else
    let s := (s.setWordN (b + 0x14) 0).setFld b CAN.EWARN 0
    let s := s.setFld b CAN.REC_SEQ 128
    let s := if s.activeHalf = some h then { s with canHold := s.canHold.set c false } else s
    canEvent (s.setFld b CAN.STATE 2) h c 3

/-- A write of CAN.CTRL: MODE_REQ 5 to 7 is discarded; RX_MODE and FD_EN change only in configuration.
DEDUCED (log entry 78). -/
def canCtrl (s : State) (h : Half) (c v : Nat) : State :=
  let b := CAN.addr h c
  let st := canState s h c
  let m := bitsOf v 2 0
  let old := s.wordN b
  let w := setBits old 10 6 (bitsOf v 10 6)
  let w := setBit w 4 (bitOf v 4)
  let w := if st = 0 then setBit (setBit w 3 (bitOf v 3)) 5 (bitOf v 5) else w
  let w := if m ≤ 4 then setBits w 2 0 m else w
  let s := s.setWordN b w
  if m = 0 then s.setFld b CAN.STATE 0
  else if st = 0 ∧ m ≤ 4 then s.setFld b CAN.STATE 1
  else s

/-- After a reset a channel whose MODE_REQ is not 0 integrates. DEDUCED (log entry 78). -/
def canStart (s : State) (h : Half) (c : Nat) : State :=
  if canMode s h c ≠ 0 ∧ canState s h c = 0 then s.setFld (CAN.addr h c) CAN.STATE 1 else s

/-- A write of NBT, DBT or TDC (R378): only in configuration; a value out of range is discarded with PARAM_ERR. -/
def canTiming (s : State) (h : Half) (c off v : Nat) : State :=
  let b := CAN.addr h c
  if canState s h c ≠ 0 then s
  else if off = 0x10 then s.setWordN (b + off) (b2n (bitOf v 0) + bitsOf v 14 8 * 256)
  else
    let brp := bitsOf v 5 0
    let t1 := bitsOf v 13 6
    let t2 := bitsOf v 20 14
    let sjw := bitsOf v 27 21
    let ok := if off = 8 then decide (1 ≤ brp ∧ brp ≤ 32 ∧ 2 ≤ t1 ∧ t1 ≤ 191 ∧ 1 ≤ t2 ∧ t2 ≤ 64)
              else decide (1 ≤ brp ∧ brp ≤ 8 ∧ 1 ≤ t1 ∧ t1 ≤ 31 ∧ 1 ≤ t2 ∧ t2 ≤ 16)
    if ok ∧ 1 ≤ sjw ∧ sjw ≤ t2 then s.setWordN (b + off) (v % 2 ^ 28) else s.setFlag b CAN.PARAM_ERR

/-! Transmit buffers (R380 to R384). -/

/-- The end of the pending state: one of DONE, DL_ABORT, ABORTED and SINGLE_FAIL. -/
def txEnd (s : State) (h : Half) (c b : Nat) (f : Fld) : State :=
  let t := TXB.addr h c b
  let u := s.can h c
  let s := s.setCan h c { u with abortReq := u.abortReq.set b false }
  ((s.setFld t TXB.PENDING 0).setFld t TXB.REQ 0).setFlag t f

/-- TB0 has passed the deadline of a buffer that has one. -/
def txPast (s : State) (h : Half) (c b : Nat) : Bool :=
  let t := TXB.addr h c b
  s.flag t TXB.DL_EN && serialAfter (tb0Low s) (s.fld t TXB.DEADLINE)

/-- TX_ABORT: a pending buffer that is not sending ends; one that is sending finishes its attempt. -/
def txAbort (s : State) (h : Half) (c b : Nat) (sending : Bool) : State :=
  let u := s.can h c
  if !txPending s h c b then s
  else if sending then s.setCan h c { u with abortReq := u.abortReq.set b true }
  else txEnd s h c b TXB.ABORTED

/-- A write of TX.CTRL. While the buffer is pending only ABORT acts; another write is discarded. DEDUCED (log entry 75). -/
def txCtrl (s : State) (h : Half) (c b v : Nat) (sending : Bool) : State :=
  let t := TXB.addr h c b
  if txPending s h c b then
    if bitOf v 9 then txAbort s h c b sending else s.setFlag (CAN.addr h c) CAN.PARAM_ERR
  else
    let s := s.setWordN (t + 4) (setBits 0 7 0 (bitsOf v 7 0))
    if !bitOf v 8 then s
    else if canMode s h c = 2 then s.setFlag (CAN.addr h c) CAN.PARAM_ERR
    else
      let u := s.can h c
      let s := s.setCan h c { u with reqAt := u.reqAt.set b s.tb0, abortReq := u.abortReq.set b false }
      let s := ((s.setFlag t TXB.REQ).setFlag t TXB.PENDING).setFld t TXB.PENDING_AT_BUSOFF 0
      if txPast s h c b then canEvent (txEnd s h c b TXB.DL_ABORT) h c 2 else s

/-- A write of another word of a transmit buffer. -/
def txWord (s : State) (h : Half) (c b off v : Nat) : State :=
  let t := TXB.addr h c b
  if txPending s h c b then s.setFlag (CAN.addr h c) CAN.PARAM_ERR
  else s.setWordN (t + off) (if off = 0 then v % 2 ^ 31 else v)

/-- TX_DEADLINE_ABORT: a buffer that is not sending when TB0 passes its deadline. -/
def txDeadline (s : State) (h : Half) (c b : Nat) : State :=
  if txPending s h c b && txPast s h c b then canEvent (txEnd s h c b TXB.DL_ABORT) h c 2 else s

/-- What decides arbitration, smaller wins: the 11 base bits, then RTR (or SRR) and IDE, the 18 further bits and RTR. A
base frame's RTR stands where an extended one sends SRR recessive. -/
def arbKey (s : State) (h : Half) (c b : Nat) : Nat :=
  let t := TXB.addr h c b
  let id := s.fld t TXB.ID
  let rtr := s.fld t TXB.RTR
  if s.flag t TXB.IDE then (id / 2 ^ 18 * 4 + 3) * 2 ^ 19 + id % 2 ^ 18 * 2 + rtr
  else (id / 2 ^ 18 * 4 + rtr * 2) * 2 ^ 19

/-- x is sent before y (R381, R384): buffers pending at bus-off first, then by TX_ORDER. -/
def txBefore (s : State) (h : Half) (c x y : Nat) : Bool :=
  let p := s.flag (TXB.addr h c x) TXB.PENDING_AT_BUSOFF
  let q := s.flag (TXB.addr h c y) TXB.PENDING_AT_BUSOFF
  if p != q then p
  else if s.flag (CAN.addr h c) CAN.TX_ORDER then decide (x < y)
  else decide (arbKey s h c x < arbKey s h c y) || (decide (arbKey s h c x = arbKey s h c y) && decide (x < y))

/-- The buffer chosen at an SOF instant: among those pending and requested by then. DEDUCED (log entry 75). -/
def txChosen (s : State) (h : Half) (c sof : Nat) : Option Nat :=
  (List.range 3).foldl (fun best b =>
    if txPending s h c b && decide ((s.can h c).reqAt.getD b 0 ≤ sof) then
      match best with
      | none => some b
      | some x => if txBefore s h c b x then some b else some x
    else best) none

/-- The data bytes of a DLC (ISO 11898-1). -/
def dlcLen (dlc : Nat) (fd : Bool) : Nat :=
  if dlc ≤ 8 then dlc else if !fd then 8 else [12, 16, 20, 24, 32, 48, 64].getD (dlc - 9) 64

/-- The frame a buffer sends. -/
def txFrame (s : State) (h : Half) (c b : Nat) : CanFrame :=
  let t := TXB.addr h c b
  let dlc := s.fld t TXB.DLC
  let fd := s.flag t TXB.FDF
  let bytes := (s.words (t + 0x40) 16).flatMap (fun w => leBytes 4 w.toNat)
  { id := BitVec.ofNat 29 (s.fld t TXB.ID), ide := s.flag t TXB.IDE, rtr := s.flag t TXB.RTR, fdf := fd,
    brs := s.flag t TXB.BRS, esi := decide (canState s h c = 3), dlc := BitVec.ofNat 4 dlc, data := bytes.take (dlcLen dlc fd) }

/-! Receiving (R385 to R388). -/

/-- Filter f accepts a frame. -/
def fltAccepts (s : State) (h : Half) (c f : Nat) (x : CanFrame) : Bool :=
  let a := FLT.addr h c f
  let kind := s.fld a FLT.KIND
  s.flag a FLT.EN && decide ((s.fld a FLT.FLT_ID ^^^ x.id.toNat) &&& s.fld a FLT.FLT_MASK = 0) &&
  decide (s.flag a FLT.F_IDE = x.ide) &&
  (match kind with
   | 0 => true
   | 1 => !x.fdf && !x.rtr
   | 2 => x.fdf
   | _ => x.rtr)

/-- The data bytes a received frame stores. -/
def rxLen (x : CanFrame) : Nat := if x.rtr then 0 else dlcLen x.dlc.toNat x.fdf

/-- The words of head, stamp, control and data of a mailbox or queue entry; what follows the last byte in its word is a
free value, and words beyond keep what they held. DESIGN CHOICE (log entry 77). -/
def storeFrame (s : State) (a : Nat) (x : CanFrame) (stamp : Nat) (ctrlHi : Nat) : State :=
  let n := rxLen x
  let (pad, s) := freeBytes s (divCeil n 4 * 4 - n)
  let d := (x.data.take n) ++ List.replicate (n - x.data.length) 0 ++ pad
  let s := s.setWordN a (x.id.toNat + b2n x.ide * 2 ^ 29 + b2n x.rtr * 2 ^ 30 + 2 ^ 31)
  let s := s.setWordN (a + 4) stamp
  let s := s.setWordN (a + 8) (x.dlc.toNat + b2n x.fdf * 16 + b2n x.brs * 32 + b2n x.esi * 64 + n * 256 + ctrlHi)
  s.setWords (a + 0xC) ((List.range (divCeil n 4)).map (fun i => BitVec.ofNat 32 (bytesAt d (4 * i) 4)))

/-- FULL of mailbox m, in its head and in MB_FULL. -/
def setFull (s : State) (h : Half) (c m : Nat) (f : Bool) : State :=
  (s.putFlag (MB.addr h c m) MB.FULL f).setWordN (CAN.addr h c + 0x30) (setBit (s.wordN (CAN.addr h c + 0x30)) m f)

/-- An accepted frame for mailbox m (R387). A frame in the overflow slot keeps its stamp beside it. -/
def mailboxTake (s : State) (h : Half) (c m : Nat) (x : CanFrame) (stamp : Nat) : State :=
  let a := MB.addr h c m
  let b := CAN.addr h c
  if s.flag a MB.LOCKED then
    let u := s.can h c
    let s := s.countIf (s.flag a MB.OVF_HELD) b CAN.LOST
    let s := s.setCan h c { u with ovf := u.ovf.set m (some x), ovfAt := u.ovfAt.set m stamp }
    canEvent (s.setFlag a MB.OVF_HELD) h c 6
  else if s.flag a MB.FULL then setFull (storeFrame (s.count b CAN.LOST) a x stamp 0) h c m true
  else canEvent (setFull (storeFrame s a x stamp 0) h c m true) h c 0

/-- A mailbox is released: a frame in its overflow slot moves in at once (R386, R387). -/
def mailboxRelease (s : State) (h : Half) (c m : Nat) : State :=
  let a := MB.addr h c m
  if !s.flag a MB.LOCKED then s
  else
    let u := s.can h c
    let s := s.setFld a MB.LOCKED 0
    match u.ovf.getD m none with
    | none => setFull s h c m false
    | some x =>
      let s := s.setCan h c { u with ovf := u.ovf.set m none }
      setFull (storeFrame s a x (u.ovfAt.getD m 0) 0) h c m true

/-- The number of owned entries. -/
def cqCount (o : Nat) : Nat := popCount o 64

/-- An accepted frame in compatibility mode (R388). -/
def queueTake (s : State) (h : Half) (c : Nat) (x : CanFrame) (stamp : Nat) : State :=
  let b := CAN.addr h c
  let u := s.can h c
  let w := s.fld b CAN.CQ_WR
  if bitOf u.owned w then canEvent (s.count b CAN.CQ_OVF) h c 6
  else
    let o := setBit u.owned w true
    let s := storeFrame (s.setCan h c { u with owned := o }) (CQE.addr h c w) x stamp 0
    let s := (s.setFld b CAN.CQ_WR ((w + 1) % 64)).setFld b CAN.CQ_OWNED (cqCount o)
    canEvent s h c 0

/-- CQ_ACK. -/
def cqAck (s : State) (h : Half) (c i : Nat) : State :=
  let b := CAN.addr h c
  let u := s.can h c
  if !bitOf u.owned (i % 64) then s.count b CAN.ACK_ERR
  else
    let o := setBit u.owned (i % 64) false
    ((s.setCan h c { u with owned := o }).setFld b CAN.CQ_OWNED (cqCount o)).setFld (CQE.addr h c (i % 64)) CQE.FULL 0

/-- A frame passes the filters. -/
def canAccept (s : State) (h : Half) (c : Nat) (x : CanFrame) (stamp : Nat) : State :=
  match (List.range 32).find? (fun f => fltAccepts s h c f x) with
  | none => s.count (CAN.addr h c) CAN.NO_MATCH
  | some f => if s.flag (CAN.addr h c) CAN.RX_MODE then queueTake s h c x stamp else mailboxTake s h c f x stamp

/-- CAN_FRAME_RECEIVE: a valid frame of another node. -/
def canReceive (s : State) (h : Half) (c : Nat) (x : CanFrame) (stamp : Nat) : State :=
  if !canFrameOn s h c stamp ∨ canMode s h c = 4 ∨ (x.fdf ∧ !s.flag (CAN.addr h c) CAN.FD_EN) then s
  else canAccept (clearAlone (recGood (s.count (CAN.addr h c) CAN.RX_OK) h c) h c) h c x stamp

/-- CAN_TX_ATTEMPT_END: the attempt of the buffer chosen at its SOF (a TB0 instant) ends. DEDUCED (log entry 75). -/
def txAttemptEnd (s : State) (h : Half) (c b sof : Nat) (e : CanEnd) : State :=
  let t := TXB.addr h c b
  let late := s.flag t TXB.DL_EN && serialAfter (sof % 2 ^ 32) (s.fld t TXB.DEADLINE)
  if !canFrameOn s h c sof ∨ canMode s h c = 2 ∨ canMode s h c = 3 ∨ txChosen s h c sof ≠ some b ∨ late then s
  else match e with
    | .sent =>
      let x := txFrame s h c b
      let selfRx := s.flag (CAN.addr h c) CAN.SELF_RX
      let s := (txEnd s h c b TXB.DONE).setFld t TXB.TX_STAMP sof
      let s := s.count (CAN.addr h c) CAN.TX_OK
      let s := clearAlone (setErr s h c (s.fld (CAN.addr h c) CAN.TEC - 1) (s.fld (CAN.addr h c) CAN.REC)) h c
      let s := canEvent s h c 1
      if selfRx then canAccept (s.count (CAN.addr h c) CAN.RX_OK) h c x (sof % 2 ^ 32) else s
    | _ =>
      if (s.can h c).abortReq.getD b false then txEnd s h c b TXB.ABORTED
      else if s.flag t TXB.SINGLE then txEnd s h c b TXB.SINGLE_FAIL
      else if txPast s h c b then canEvent (txEnd s h c b TXB.DL_ABORT) h c 2
      else s

/-- A read of MB.HEAD: a full mailbox is locked (R386). -/
def mailboxHead (s : State) (h : Half) (c m : Nat) : Nat × State :=
  let a := MB.addr h c m
  (s.wordN a, if s.flag a MB.FULL then s.setFlag a MB.LOCKED else s)

/-- The offset of a mailbox's last word. -/
def mailboxLast (s : State) (h : Half) (c m : Nat) : Nat :=
  let n := s.fld (MB.addr h c m) MB.LEN
  if n = 0 then 8 else 0xC + 4 * (divCeil n 4 - 1)

/-- A read of a word of a mailbox; reading the last word of a locked one releases it. -/
def mailboxRead (s : State) (h : Half) (c m off : Nat) : Nat × State :=
  let a := MB.addr h c m
  if off = 0 then mailboxHead s h c m
  else (s.wordN (a + off), if off = mailboxLast s h c m then mailboxRelease s h c m else s)

/-- CLR_CNT of CAN.CMD. -/
def canClrCnt (s : State) (h : Half) (c : Nat) : State :=
  let b := CAN.addr h c
  ((s.setWordN (b + 0x1C) 0).setWordN (b + 0x20) 0).setWordN (b + 0x24) 0

/-- A write of CAN.CMD. -/
def canCmd (s : State) (h : Half) (c v : Nat) : State :=
  let s := if bitOf v 0 then canRecover s h c else s
  let s := if bitOf v 1 then mailboxRelease s h c (bitsOf v 12 8) else s
  if bitOf v 2 then canClrCnt s h c else s

/-! Wiring faults (R392). -/

/-- 64 reversed dominant bits and none the right way round. -/
def canSwapped (s : State) (h : Half) (c : Nat) : State :=
  let b := CAN.addr h c
  if s.activeHalf ≠ some h then s
  else
    let s := s.setFlag b CAN.SWAPPED
    canEvent (s.flagIf (s.flag b CAN.SWAP_AUTO) b CAN.SWAP_ON) h c 7

/-- The bus has been dominant for 5 ms: the own driver is held recessive while STUCK_DOM is set. -/
def canStuck (s : State) (h : Half) (c : Nat) : State :=
  if s.activeHalf ≠ some h ∨ s.flag (CAN.addr h c) CAN.STUCK_DOM then s
  else canEvent (s.setFlag (CAN.addr h c) CAN.STUCK_DOM) h c 7

/-- The bus is recessive again. DEDUCED (log entry 76). -/
def canUnstuck (s : State) (h : Half) (c : Nat) : State := s.setFld (CAN.addr h c) CAN.STUCK_DOM 0

/-! Takeover (R393). -/

/-- The new active half starts each channel that is not in configuration. -/
def canTakeover (s : State) (h : Half) : State :=
  (List.range 4).foldl (fun s c =>
    if canState s h c = 0 then s
    else if s.canHold.getD c false then enterBusOff s h c
    else s.setFld (CAN.addr h c) CAN.STATE 1) s

end Sys2Proof.Machine
end

