-- ==== Sys2Proof/Machine/Engine.lean ====
section
/-! DEFINITION. The control engine's law of one axis: formats, filters, the steps of R116, saturation (R118 to R120), gain
regions and their blends (R127 to R129). -/
namespace Sys2Proof.Machine

/-- An integrator value saturated to 48 bits, and whether it reached a bound (R118). -/
def satI (x : Int) : Int × Bool :=
  let y := satS 48 x
  (y, decide (y = 2 ^ 47 - 1 ∨ y = -(2 ^ 47)))

/-- x shifted right by n, rounded to nearest with ties upward (R116). -/
def shr (x : Int) (n : Nat) : Int := divUp x (2 ^ n)

/-- The bit of a sticky flag where a condition holds. -/
def bitIf (c : Bool) (i : Nat) : Nat := if c then 2 ^ i else 0

/-! Gain words (R127). -/

/-- Word i of a gain set as a number: the filter words and FR_C are signed. -/
def gainNum (i : Nat) (w : Nat) : Int := if (6 ≤ i ∧ i ≤ 19) ∨ i = 22 then toS 32 w else w

/-- The gain-region entry r of axis k. -/
def gainEntry (s : State) (h : Half) (k r : Nat) : List Int :=
  (List.range 24).map (fun i => gainNum i (s.wordN (GT.addr h k r + 4 * i)))

/-- Word i of the working set. -/
def CeUnit.g (c : CeUnit) (i : Nat) : Int := c.work.getD i 0

/-- A notch coefficient rounded to Q2.30 and saturated. -/
def q30 (x : Int) (n : Nat) : Int × Bool := satF 32 (shr x n)

/-- The coefficients b0, b1, b2, a1, a2 of the notch from its words C, ZR, PR, G, and whether one saturated (R117). -/
def notchCoef (c zr pr g : Int) : List Int × Bool :=
  let b1 := q30 (g * zr * c) 60
  let b2 := q30 (g * zr * zr) 60
  let a1 := q30 (pr * c) 30
  let a2 := q30 (pr * pr) 30
  ([g, b1.1, b2.1, a1.1, a2.1], b1.2 || b2.2 || a1.2 || a2.2)

/-- The notch of a gain set saturates when it is loaded. -/
def notchSat (w : List Int) : Bool := (notchCoef (w.getD 16 0) (w.getD 17 0) (w.getD 18 0) (w.getD 19 0)).2

/-- The accumulation of products in 64 bits. -/
def accum : List (Int × Int) → Int → Bool → Int × Bool
  | [], a, f => (a, f)
  | (x, y) :: t, a, f =>
    let r := satF 64 (a + x * y)
    accum t r.1 (f || r.2)

/-- One second-order section in direct form I (R117): output, histories, saturation. -/
def section2 (co : List Int) (hi : Hist) (x : Int) : Int × Hist × Bool :=
  let a := accum [(co.getD 0 0, x), (co.getD 1 0, hi.x1), (co.getD 2 0, hi.x2), (-(co.getD 3 0), hi.y1),
                  (-(co.getD 4 0), hi.y2)] 0 false
  let y := satF 32 (shr a.1 30)
  (y.1, ⟨x, hi.x1, y.1, hi.y1⟩, a.2 || y.2)

/-! The law (R116, R123). -/

/-- What the law of a period takes in beside the axis's state: set-points of T_n and T_{n+1}, feedback, feed-forward
torque, repetitive output, torque command, speed limit and the torque limits in force. -/
structure LawIn where
  pSp : Int
  vSp : Int
  vNext : Int
  aNext : Int
  pAct : Int
  vAct : Int
  ff : Int
  urc : Int
  tqCmd : Int
  vMax : Int
  limP : Int
  limN : Int
  deriving DecidableEq, Repr

/-- What the law gives: the quantities of R116, the filter histories, the sticky flags, the direction in which the sum
stands at its bound, and whether v_cmd does at its positive and at its negative bound. -/
structure LawOut where
  ep : Int
  vcmd : Int
  ev : Int
  pi : Int
  aff : Int
  fr : Int
  urc : Int
  sum : Int
  bq0 : Hist
  bq1 : Hist
  notch : Hist
  flags : Nat
  dirV : Int
  vUp : Bool
  vDown : Bool
  deriving DecidableEq, Repr

/-- Step 1. -/
def stepEp (i : LawIn) : Int × Bool := satF 32 (shr (i.pSp - i.pAct) 8)

/-- Step 2 before the limit: the products, the integrator term and their sum. -/
def stepVcmd (c : CeUnit) (i : LawIn) (ep : Int) : Int × Bool :=
  let a := satF 32 (shr (c.g 0 * ep) 24)
  let b := satF 32 (shr c.ip 16)
  let v := satF 32 (shr (c.g 2 * i.vSp) 16)
  let x := satF 32 (a.1 + b.1)
  let y := satF 32 (x.1 + v.1)
  (y.1, a.2 || b.2 || v.2 || x.2 || y.2)

/-- Step 7: Coulomb friction, one rounding. -/
def stepFriction (c : CeUnit) (v : Int) : Int × Bool :=
  let band := if c.g 23 = 0 then 1 else c.g 23
  let n := clampI (-band) band v
  satF 32 (divUp (c.g 22 * n) band)

/-- The direction in which a value stands at its 32-bit bound, where an addition of it saturated (R119). -/
def boundDir (any : Bool) (x : Int) : Int :=
  if any && decide (x = 2 ^ 31 - 1) then 1 else if any && decide (x = -(2 ^ 31)) then -1 else 0

/-- Steps 6 to 9 after a filter output tf: the terms of the sum and the sum, with its direction of saturation.
DEDUCED (log entry 30). -/
def stepSum (c : CeUnit) (i : LawIn) (tf : Int) (rc : Bool) : Int × Int × Int × Int × Bool × Int :=
  let aff := satF 32 (shr (c.g 5 * i.aNext) 8)
  let fr := stepFriction c i.vNext
  let u := if rc then i.urc else 0
  let s1 := satF 32 (tf + i.ff)
  let s2 := satF 32 (s1.1 + aff.1)
  let s3 := satF 32 (s2.1 + fr.1)
  let s4 := satF 32 (s3.1 + u)
  let any := s1.2 || s2.2 || s3.2 || s4.2
  (aff.1, fr.1, u, s4.1, aff.2 || fr.2 || any, boundDir any s4.1)

/-- The law of mode m: 1 position, 2 velocity, 3 torque, 4 compliance; any other mode gives no torque.
DEDUCED (log entry 30). -/
def law (m : Nat) (c : CeUnit) (i : LawIn) : LawOut :=
  let none_ : LawOut := { ep := 0, vcmd := 0, ev := 0, pi := 0, aff := 0, fr := 0, urc := 0, sum := 0, bq0 := c.bq0,
                          bq1 := c.bq1, notch := c.notch, flags := 0, dirV := 0, vUp := false, vDown := false }
  if m = 1 ∨ m = 2 then
    let ep := stepEp i
    let vc := if m = 1 then stepVcmd c i ep.1 else (i.vSp, false)
    let vm := if 0x7FFFFFFF < i.vMax then 0x7FFFFFFF else i.vMax
    let v := if m = 1 then clampI (-vm) vm vc.1 else vc.1
    let ev := satF 32 (v - i.vAct)
    let p := satF 32 (shr (c.g 3 * ev.1) 8)
    let q := satF 32 (shr c.iv 16)
    let pi := satF 32 (p.1 + q.1)
    let f0 := section2 [c.g 6, c.g 7, c.g 8, c.g 9, c.g 10] c.bq0 pi.1
    let f1 := section2 [c.g 11, c.g 12, c.g 13, c.g 14, c.g 15] c.bq1 f0.1
    let nt := section2 (notchCoef (c.g 16) (c.g 17) (c.g 18) (c.g 19)).1 c.notch f1.1
    let (aff, fr, u, sum, sat, dir) := stepSum c i nt.1 (m = 1)
    let at_ := decide (m = 1) && (vc.2 || decide (vm ≤ v.natAbs))
    { ep := ep.1, vcmd := v, ev := ev.1, pi := pi.1, aff := aff, fr := fr, urc := u, sum := sum, bq0 := f0.2.1,
      bq1 := f1.2.1, notch := nt.2.1,
      flags := bitIf (ep.2 && decide (m = 1)) 0 + bitIf at_ 1 + bitIf ev.2 3 + bitIf (p.2 || q.2 || pi.2) 19 + bitIf f0.2.2 5 +
        bitIf f1.2.2 6 + bitIf nt.2.2 7 + bitIf sat 8,
      dirV := dir, vUp := decide (m = 1 ∧ vm ≤ v), vDown := decide (m = 1 ∧ v ≤ -vm) }
  else if m = 3 then
    let x := satF 32 (i.ff + i.tqCmd)
    { none_ with sum := x.1, flags := bitIf x.2 8, dirV := boundDir x.2 x.1 }
  else if m = 4 then { none_ with sum := i.ff }
  else none_

/-- The inputs of a hold: its loops go on against the frozen set-point without feed-forward, repetitive output and torque
command (R123, R126). DEDUCED (log entry 131). -/
def holdIn (i : LawIn) : LawIn := { i with vNext := 0, aNext := 0, ff := 0, urc := 0, tqCmd := 0 }

/-- Step 10: the torque limited, and the direction in which it was. -/
def limitTorque (i : LawIn) (t : Int) : Int × Int :=
  if i.limP < t then (i.limP, 1) else if t < -i.limN then (-i.limN, -1) else (t, 0)

/-! Integrators (R119, R120). -/

/-- An integrator with its gain at 0 decays by one 64th of the value it had, at least one LSB (R120). -/
def decay (v : Int) (step : Option Int) : Int × Option Int :=
  let st := match step with
    | some x => x
    | none => let x := divUp (v.natAbs : Int) 64; if x < 1 then 1 else x
  let m : Int := if (v.natAbs : Int) < st then v.natAbs else st
  (v - sgn v * m, some st)

/-- The velocity loop is saturated in the direction of the error e (R119). d: the direction in which step 10 clamped. -/
def velSat (o : LawOut) (d e : Int) : Bool := decide (e ≠ 0) && (decide (d = sgn e) || decide (o.dirV = sgn e))

/-- The position loop is saturated in the direction of the error e (R119). -/
def posSat (o : LawOut) (d e : Int) : Bool :=
  velSat o d e || (o.vUp && decide (0 < e)) || (o.vDown && decide (e < 0))

/-- Steps 11 and 12 for a law of mode m with torque direction d. skip: the feedback is missing. The flags are SAT_IP and
SAT_IV. -/
def integrate (m : Nat) (c : CeUnit) (o : LawOut) (d : Int) (skip : Bool) : CeUnit × Nat :=
  let (c, f1) :=
    if m ≠ 1 then (c, 0)
    else if c.g 1 = 0 then
      let r := decay c.ip c.decayP
      ({ c with ip := r.1, decayP := r.2 }, 0)
    else if skip || posSat o d o.ep then ({ c with decayP := none }, 0)
    else
      let x := satI (c.ip + shr (c.g 1 * o.ep) 16)
      ({ c with ip := x.1, decayP := none }, bitIf x.2 2)
  let (c, f2) :=
    if m ≠ 1 ∧ m ≠ 2 then (c, 0)
    else if c.g 4 = 0 then
      let r := decay c.iv c.decayV
      ({ c with iv := r.1, decayV := r.2 }, 0)
    else if skip || velSat o d o.ev then ({ c with decayV := none }, 0)
    else
      let x := satI (c.iv + c.g 4 * o.ev)
      ({ c with iv := x.1, decayV := none }, bitIf x.2 4)
  (c, f1 + f2)

/-! Hand-over (R124). -/

/-- The histories of a filter chain at rest at one value. -/
def settle (t : Int) : Hist := ⟨t, t, t, t⟩

/-- The preloads of R124 for incoming mode m: the outgoing v_cmd and the outgoing output. The flags are SAT_IP and
SAT_IV. -/
def preload (m : Nat) (c : CeUnit) (i : LawIn) (vOld tOld : Int) : CeUnit × Nat :=
  let ep := (stepEp i).1
  let (c, f1) :=
    if m = 1 then
      let a := satS 32 (shr (c.g 0 * ep) 24)
      let v := satS 32 (shr (c.g 2 * i.vSp) 16)
      let x := satI ((vOld - a - v) * 65536)
      ({ c with ip := x.1, decayP := none }, bitIf x.2 2)
    else (c, 0)
  if m = 1 ∨ m = 2 then
    let o := law m c i
    let want := satS 32 (tOld - (i.ff + o.aff + o.fr + o.urc))
    let x := satI ((want - satS 32 (shr (c.g 3 * o.ev) 8)) * 65536)
    ({ c with iv := x.1, decayV := none, bq0 := settle want, bq1 := settle want, notch := settle want }, f1 + bitIf x.2 4)
  else (c, f1)

/-- The part of a hand-over blend in force at period k of n. -/
def blendPart (c : CeUnit) : Int :=
  if c.blendN ≤ c.blendK ∨ c.blendN = 0 then 0 else divUp (c.blendD * ((c.blendN : Int) - c.blendK)) c.blendN

/-! Gain regions (R128, R129). -/

/-- x > e * (100 + hy) / 100 for nonnegative numbers. -/
def aboveEdge (x e hy : Nat) : Bool := decide (e * (100 + hy) < x * 100)

/-- x < e * (100 - hy) / 100. -/
def belowEdge (x e hy : Nat) : Bool := decide (x * 100 < e * (100 - hy))

/-- A band 0 to 3 moves until neither condition holds; n bounds the moves. -/
def moveBand (up down : Nat → Bool) : Nat → Nat → Nat
  | 0, b => b
  | n + 1, b =>
    if b < 3 ∧ up b then moveBand up down n (b + 1)
    else if 0 < b ∧ down (b - 1) then moveBand up down n (b - 1)
    else b

/-- A binary32 pattern of a nonnegative number scaled to an integer: value * 2^149; infinity and NaN as the largest. -/
def f32Scaled (w : Nat) : Nat :=
  match f32Exact w with
  | none => 2 ^ 300
  | some (m, e) => m.toNat * 2 ^ (e + 149).toNat

/-- One step j (1 to 8) of a gain blend: the blended words move, the filter words switch at the first step (R129). A blend that
goes on after a takeover moves from the values it had after gainBase steps (R137). -/
def gainStep (c : CeUnit) : List Int :=
  (List.range 24).map (fun i =>
    let a := c.workFrom.getD i 0
    let b := c.workTo.getD i 0
    if 6 ≤ i ∧ i ≤ 19 then b else a + divUp ((b - a) * ((c.gainJ - c.gainBase : Nat) : Int)) (Nat.max 1 (8 - c.gainBase) : Nat))

/-- The working set of a blend step with the adjusted integrators: v_cmd and τ_pi do not change at it. m is the law whose
integrators are in force. An adjustment counts as placing the value, so that R120's 64th is taken anew: DESIGN CHOICE (log
entry 131). The flags are SAT_IP and SAT_IV. -/
def blendGains (m : Nat) (c : CeUnit) (i : LawIn) : CeUnit × Nat :=
  if 1 ≤ c.gainJ ∧ c.gainJ ≤ 8 then
    let w := gainStep c
    let ep := (stepEp i).1
    let dip := shr ((c.g 0 - w.getD 0 0) * ep) 8 + (c.g 2 - w.getD 2 0) * i.vSp
    let x := satI (c.ip + dip)
    let kvp := c.g 3
    let c1 := { c with work := w, gainJ := c.gainJ + 1 }
    let (c1, f1) := if m = 1 then ({ c1 with ip := x.1, decayP := if x.1 = c.ip then c.decayP else none }, bitIf x.2 2) else (c1, 0)
    if m = 1 ∨ m = 2 then
      let ev := (law m c1 i).ev
      let y := satI (c1.iv + (kvp - w.getD 3 0) * ev * 256)
      ({ c1 with iv := y.1, decayV := if y.1 = c.iv then c.decayV else none }, f1 + bitIf y.2 4)
    else (c1, f1)
  else (c, 0)

/-- A gain blend begins toward an entry: eight periods from the present working values. -/
def startGains (c : CeUnit) (dst : List Int) : CeUnit := { c with workFrom := c.work, workTo := dst, gainJ := 1, gainBase := 0 }

end Sys2Proof.Machine
end

