-- ==== Sys2Proof/Machine/Pennant.lean ====
section
/-! DEFINITION. Which half may take the command pennant, and rehearsals (R362, R365, R371, R376). -/
namespace Sys2Proof.Machine

/-- The arbiter's state takes a new value. -/
def State.setPen (s : State) (x : PenUnit) : State := { s with pen := x }

/-- The number of the last sync instant of a half's servo time. -/
def syncNow (s : State) (h : Half) : Nat := s.servoNow h / s.periodNs h

/-- The mirror age of a half at the last sync instant, at most 3 (R362). -/
def mirrorAge (s : State) (h : Half) : Nat :=
  match s.pen.newest.getD (halfIdx h) none with
  | none => 3
  | some r => Nat.min 3 (syncNow s h - 1 - r)

/-- The word of a half's last health report that holds HALF, CL and HFLAGS (R364). -/
def reportFlags (s : State) (h : Half) : Nat := s.wordN (PEN.addr + 0x100 + 0x40 * halfIdx h + 4)

/-- A half's newest report passed. -/
def reportOk (s : State) (h : Half) : Bool := bitOf (reportFlags s h) 16

/-- The age of a half's newest report in ms, at most 255. -/
def reportAge (s : State) (h : Half) : Nat :=
  match s.pen.hrAt.getD (halfIdx h) none with
  | none => 255
  | some t => Nat.min 255 ((s.tb0 - t) / 1000000)

/-- A half meets R365 with a mirror age of at most age: report, image, mirror, capability level, temperature (R460). -/
def meetsR365 (s : State) (h : Half) (age : Nat) : Bool :=
  (match s.pen.hrAt.getD (halfIdx h) none with
   | none => false
   | some t => decide (s.tb0 ≤ t + 20000000)) &&
  reportOk s h && bitOf (reportFlags s h) 17 && decide (mirrorAge s h ≤ age) &&
  decide (bitsOf (reportFlags s h) 15 8 = s.fld MOD.addr MOD.CL_NOW) && !s.pen.hot.getD (halfIdx h) false

/-- A standby half is eligible to take the command pennant. -/
def eligible (s : State) (h : Half) : Bool := decide (s.activeHalf ≠ some h) && meetsR365 s h 1

/-- PEN.HALF of a half as it reads. -/
def penHalfWord (s : State) (h : Half) : Nat :=
  b2n (eligible s h) + 2 * b2n (decide (s.activeHalf = some h)) + 4 * mirrorAge s h + 16 * b2n (reportOk s h) +
    256 * reportAge s h

/-- The partner is eligible as its own health report says (R371). -/
def peerEligible (s : State) : Bool :=
  match s.pen.peerReport with
  | none => false
  | some (b, t) =>
    decide (s.tb0 ≤ t + 20000000) && bitOf (bytesAt b 6 2) 0 && bitOf (bytesAt b 6 2) 1 &&
    decide (bytesAt b 5 1 = s.fld MOD.addr MOD.CL_NOW) && decide (syncNow s (s.activeHalf.getD .a) - 1 - bytesAt b 0x20 8 ≤ 2)

/-- The first sync instant at least 2 periods after now. DEDUCED (log entry 86). -/
def swapDue (s : State) (h : Half) : Nat := divCeil (s.servoNow h) (s.periodNs h) + 2

/-- The rehearsing side returns the pennant by the commanded rule where the old side is eligible, else it stays (R376). -/
def rehReturn (s : State) (x : RehRun) (failed : Bool) : State :=
  if (if x.modul then peerEligible s else eligible s x.from_) then
    let s := s.setFld PEN.addr PEN.REH_STATE 3
    s.setPen { s.pen with swap := some ⟨x.modul, 7, swapDue s (s.activeHalf.getD .a)⟩ }
  else
    let s := if failed then s.setFld PEN.addr PEN.RESULT 3 else s
    (s.setFld PEN.addr PEN.REH_STATE 0).setPen { s.pen with reh := none }

/-- A rehearsal fails: 1 ring lost, 2 node missing, 3 loss of feedback, 4 old-epoch reply, 5 rack pennant not taken, 6
health report failed. -/
def rehFail (s : State) (code : Nat) : State :=
  match s.pen.reh with
  | none => s
  | some x => if s.fld PEN.addr PEN.REH_STATE = 2 then rehReturn (s.setFld PEN.addr PEN.FAIL code) x true else s

/-- A rehearsal fails where the condition holds and h is the half in charge. -/
def rehFailIf (s : State) (c : Bool) (h : Half) (code : Nat) : State :=
  if c && decide (s.activeHalf = some h) then rehFail s code else s

end Sys2Proof.Machine
end

