-- ==== Sys2Proof/Machine/EngineRun.lean ====
section
/-! DEFINITION. The control engine of one half: latching, modes, hold and brake, the repetitive controller, and the compute
window of one axis (R114, R115, R121 to R126, R130 to R135). -/
namespace Sys2Proof.Machine

/-! Feedback (R115, R122). -/

/-- The engine latches the feedback of an axis; where its REPLY has not arrived, the position is extrapolated and
FB_MISS counts the period. -/
def latchFeedback (s : State) (h : Half) (k : Nat) : State :=
  let b := CE.addr h k
  let c := s.ce h k
  match c.fb with
  | some f =>
    s.setCe h k { c with fb := none, pPrev := c.pAct, pAct := f.pos, vAct := f.vel, tqFb := f.tq, abs := bitOf f.astat 9, missRun := 0, lofDone := false }
  | none =>
    let p := c.pAct + divUp (c.vAct * s.periodNs h * 65536) 1000000000
    let s := s.setCe h k { c with pPrev := c.pAct, pAct := p, missRun := c.missRun + 1 }
    (s.setFlag b CE.FB_MISS).count b CE.FB_MISS_CNT

/-! Modes and hold (R123 to R126). -/

/-- The law in force on an axis: of the mode, of the mode a hold came from or goes to, none while the torque is 0. -/
def lawOf (s : State) (h : Half) (k : Nat) : Nat :=
  let c := s.ce h k
  match c.holdStep with
  | 0 => s.fld (CE.addr h k) CE.MODE_ACT
  | 1 => c.holdFrom
  | 8 => c.holdFrom
  | 4 => c.holdTo
  | 5 => c.holdTo
  | 6 => c.holdTo
  | _ => 0

/-- Integrators and filter histories of an axis are cleared. -/
def clearLoops (c : CeUnit) : CeUnit :=
  { c with ip := 0, iv := 0, bq0 := .zero, bq1 := .zero, notch := .zero, decayP := none, decayV := none }

/-- The loop of an axis is switched off: torque 0 from this period, states cleared, the brake request set where BRK_EN is
1 (R122, R123). -/
def axisOff (s : State) (h : Half) (k : Nat) : State :=
  let b := CE.addr h k
  let s := loopOff s h k
  let c := clearLoops (s.ce h k)
  let s := s.setCe h k { c with holdStep := 0, swKind := 0, blending := false, blendD := 0, blendK := 0, blendN := 0, setTq := 0,
                                setEn := false, bufTq := 0, bufEn := false, tauSum := 0 }
  let s := ((s.setFld b CE.MODE_ACT 0).setFld b CE.BLEND_LEFT 0).putFlag b CE.BLENDING false
  let s := s.setFld b CE.TQ_OUT 0
  s.flagIf (s.flag b CE.BRK_EN) b CE.BRAKE_REQ

/-- The axis's loop is switched on: LOOP_ON and the away restrictions, once. -/
def markOn (s : State) (h : Half) (k : Nat) : State := if s.flag (PRF.addr h k) PRF.LOOP_ON then s else loopMark s h k

/-- An axis enters hold with a step: the set-point is frozen at p. DEDUCED (log entry 27). -/
def enterHold (s : State) (h : Half) (k step from_ : Nat) (p : Int) (brake : Bool) : State :=
  let b := CE.addr h k
  let s := freezeAxis s h k
  let c := s.ce h k
  let s := s.setCe h k { c with holdStep := step, holdFrom := from_, holdCnt := 0, frozen := p,
                                brkEng := s.fld b CE.BRK_T_ENG, brkRel := s.fld b CE.BRK_T_REL }
  (s.setFld b CE.MODE_ACT 5).flagIf brake b CE.BRAKE_REQ

/-- The blend to mode req from torque 0 with a brake: step 4 of R126, with the brake request set. rel is the release time of
the sequence. -/
def brakeStart (s : State) (h : Half) (k req rel : Nat) (p : Int) : State :=
  let b := CE.addr h k
  let soft := !s.flag (PRF.addr h k) PRF.LOOP_ON
  let s := markOn s h k
  let c := s.ce h k
  let s := s.setCe h k { clearLoops c with holdStep := 4, holdTo := req, holdCnt := 0, frozen := p, softRel := soft,
                                           swKind := 2, brkRel := rel }
  (s.setFld b CE.MODE_ACT 5).setFlag b CE.BRAKE_REQ

/-- The loop is switched on without a brake: a blend from 0, and the soft start. -/
def plainStart (s : State) (h : Half) (k req : Nat) : State :=
  let s := markOn s h k
  let s := s.setCe h k { clearLoops (s.ce h k) with holdStep := 0, swKind := 2 }
  softStart (s.setFld (CE.addr h k) CE.MODE_ACT req) h k

/-- An ordinary switch to mode req from the law from_, which may be that of a hold (R124). The set-point of torque mode follows
the measured values (R123), so a command in progress ends as interrupted there, and an axis that leaves it moving brakes at
D_MAX; neither R61 nor R123 states this. DESIGN CHOICE (log entry 131). -/
def plainSwitch (s : State) (h : Half) (k from_ req : Nat) (bare : Bool) : State :=
  let b := CE.addr h k
  let s := s.setCe h k { s.ce h k with holdStep := 0, swKind := 1, swFrom := from_, swBare := bare }
  let s := s.setFld b CE.MODE_ACT req
  if req = 3 then freezeAxis s h k
  else if from_ = 3 then stopAxis s h k false else s

/-- A mode request of an axis takes effect (R123, R126). DEDUCED (log entry 31). -/
def takeMode (s : State) (h : Half) (k req : Nat) : State :=
  let b := CE.addr h k
  let act := s.fld b CE.MODE_ACT
  let c := s.ce h k
  let brk := s.flag b CE.BRK_EN
  let sp := s.fldS (PRF.addr h k) PRF.SP_POS
  if req = 0 then (if act = 0 then s else axisOff s h k)
  else if req = 5 then
    match c.holdStep with
    | 0 =>
      if act = 0 then enterHold s h k (if brk then 3 else 7) 0 c.pAct brk
      else enterHold s h k (if brk then 1 else 8) act sp brk
    | n =>
      if 4 ≤ n ∧ n ≤ 6 then
        let s := enterHold s h k 1 c.holdTo c.frozen true
        s.setCe h k { s.ce h k with swKind := 1, swFrom := c.holdTo, swBare := false }
      else s
  else
    match c.holdStep with
    | 0 =>
      if act = 0 then (if brk then brakeStart s h k req (s.fld b CE.BRK_T_REL) c.pAct else plainStart s h k req)
      else if act = req then s else plainSwitch s h k act req false
    | 3 => brakeStart s h k req c.brkRel c.frozen
    | 7 => plainStart s h k req
    | 8 => plainSwitch s h k c.holdFrom req true
    | n =>
      if n ≤ 2 then
        (s.setCe h k { c with holdStep := 6, holdTo := req, holdCnt := 0, softRel := false, swKind := 1, swBare := true,
                              swFrom := if n = 2 ∧ c.swKind ≠ 3 then 0 else c.holdFrom }).putFlag b CE.BRAKE_REQ false
      else if req = c.holdTo then s
      else s.setCe h k { c with holdTo := req, swKind := 1, swFrom := c.holdTo, swBare := false }

/-- The mode request of an axis, if one waits, is latched (R43, R123). DEDUCED (log entry 31). -/
def latchMode (s : State) (h : Half) (k : Nat) : State :=
  let c := s.ce h k
  match c.req with
  | none => s
  | some r => takeMode (s.setCe h k { c with req := none }) h k r

/-- A write of MODE_REQ (R123): 6 and 7, and compliance on an auxiliary axis, are discarded; compliance on an arm axis is
requested for the whole arm, and so is the mode in which an axis leaves it. DEDUCED (log entry 31). -/
def modeWrite (s : State) (h : Half) (k r : Nat) : State :=
  let b := CE.addr h k
  let ask (s : State) (k : Nat) : State :=
    (s.setFld (CE.addr h k) CE.MODE_REQ r).setCe h k { s.ce h k with req := some r }
  if 5 < r then s.setFlag b CE.PARAM_ERR
  else match armOf s h k with
    | none => if r = 4 then s.setFlag b CE.PARAM_ERR else ask s k
    | some j =>
      if r = 4 ∨ s.fld b CE.MODE_REQ = 4 ∨ s.fld b CE.MODE_ACT = 4 then (armAxes s h j).foldl ask s else ask s k

/-- A mode in hold at step 1, or a hold without a brake: the loops of the mode it came from go on. -/
def holdRuns (c : CeUnit) : Bool := decide (c.holdStep = 1 ∨ c.holdStep = 8)

/-- BRAKE_ENGAGE_TIME_EXPIRY (R126 step 2): the integrators stop and the torque blends to 0. -/
def brakeEngaged (s : State) (h : Half) (k : Nat) : State :=
  let c := s.ce h k
  if c.holdStep = 1 ∧ c.brkEng ≤ c.holdCnt then s.setCe h k { c with holdStep := 2, swKind := 3, swBare := true } else s

/-- BRAKE_RELEASE_TIME_EXPIRY (R126 step 6): the frozen set-point is released to the profile unit and the mode is the
requested one. -/
def brakeReleased (s : State) (h : Half) (k : Nat) : State :=
  let c := s.ce h k
  if (c.holdStep = 5 ∨ c.holdStep = 6) ∧ c.brkRel ≤ c.holdCnt then
    let s := s.setCe h k { c with holdStep := 0, softRel := false }
    let s := s.setFld (CE.addr h k) CE.MODE_ACT c.holdTo
    if c.softRel then softStart s h k else s
  else s

/-- BLEND_END (R124, R126): BLENDING clears; the blend to 0 of a hold ends in step 3, and at the end of the blend out of
hold the brake request clears. -/
def blendEnd (s : State) (h : Half) (k : Nat) : State :=
  let b := CE.addr h k
  let c := s.ce h k
  if c.blending && decide (c.blendN ≤ c.blendK) then
    let s := s.putFlag b CE.BLENDING false
    let c := { c with blending := false, blendD := 0 }
    match c.holdStep with
    | 2 => s.setCe h k { c with holdStep := 3, holdCnt := 0 }
    | 4 => (s.setCe h k { c with holdStep := 5, holdCnt := 0 }).putFlag b CE.BRAKE_REQ false
    | _ => s.setCe h k c
  else s

/-- GAIN_BLEND_END (R129): after its eight periods the working set is the entry. -/
def gainEnd (s : State) (h : Half) (k : Nat) : State :=
  let c := s.ce h k
  if c.gainJ = 9 then (s.setCe h k { c with gainJ := 0, work := c.workTo }).setFld (CE.addr h k) CE.GBLEND_LEFT 0 else s

/-! The repetitive controller (R131 to R135). -/

/-- The address of learning point i of axis k. -/
def learnAddr (h : Half) (k i : Nat) : Nat :=
  0x1010000000 * 16 + (match h with | .a => 0 | .b => 0x800000) + k * 0x10000 + 4 * i

/-- Learning point i. -/
def learnPoint (s : State) (h : Half) (k i : Nat) : Int := toS 32 (s.memN (learnAddr h k i))

/-- The arm whose cycle phase an axis learns against. -/
def rcArm (s : State) (h : Half) (k : Nat) : Nat :=
  match armOf s h k with
  | some j => j
  | none => if (s.ce h k).rc.len = 0 then s.fld (CE.addr h k) CE.RC_ARM else (s.ce h k).rc.arm

/-- The length, step and arm in force are taken from the registers (R136). -/
def takeRc (s : State) (h : Half) (k : Nat) (r : RcUnit) : RcUnit :=
  let b := CE.addr h k
  { r with len := Nat.max 2 (Nat.min 16384 (s.fld b CE.RC_LEN)), step := Nat.max 32768 (s.fld b CE.RC_STEP),
           arm := s.fld b CE.RC_ARM }

/-- u_rc for T_{n+1} (R132): interpolated between points, limited to RC_LIM; with the flags RC_BEYOND and SAT_RC. -/
def rcOutput (s : State) (h : Half) (k : Nat) (r : RcUnit) (phi : Nat) : Int × Nat :=
  let b := CE.addr h k
  if r.len * r.step ≤ phi then (0, 2 ^ 16)
  else
    let i := phi / r.step
    let u0 := learnPoint s h k i
    let u1 := if i + 1 < r.len then learnPoint s h k (i + 1) else u0
    let u := u0 + divUp ((u1 - u0) * ((phi % r.step : Nat) : Int)) r.step
    let lim : Int := s.fld b CE.RC_LIM
    (clampI (-lim) lim u, bitIf (decide (lim ≤ u.natAbs)) 11)

/-- The value of point m before this cycle's updates. -/
def preValue (s : State) (h : Half) (k : Nat) (r : RcUnit) (m : Nat) : Int := (r.old.lookup m).getD (learnPoint s h k m)

/-- w(m) = u_k(m) + L * e(m + delta), none where the error is missing (R133). Indices are held to the ends. -/
def rcW (s : State) (h : Half) (k : Nat) (r : RcUnit) (m : Int) : Option Int :=
  let b := CE.addr h k
  let top : Int := (r.len : Int) - 1
  let j := (clampI 0 top m).toNat
  let e := (clampI 0 top ((j : Int) + s.fld b CE.RC_DELTA)).toNat
  match r.done.find? (fun x => x.1 == e) with
  | some (_, mean, true) => some (satS 32 (preValue s h k r j + satS 32 (shr (s.fldS b CE.RC_L * mean) 16)))
  | _ => none

/-- The update of point i (R133), skipped where an error is missing: the state with the point, and whether it was updated
and SAT_RC. -/
def rcUpdate (s : State) (h : Half) (k : Nat) (r : RcUnit) (i : Nat) : State × RcUnit × Bool × Nat :=
  let b := CE.addr h k
  match rcW s h k r i, rcW s h k r ((i : Int) - 1), rcW s h k r ((i : Int) + 1), rcW s h k r ((i : Int) - 2),
      rcW s h k r ((i : Int) + 2) with
  | some w, some a, some c, some d, some e =>
    let x := s.fldS b CE.RC_Q0 * w + s.fldS b CE.RC_Q1 * (a + c) + s.fldS b CE.RC_Q2 * (d + e)
    let lim : Int := Nat.min (s.fld b CE.RC_LIM) 0x7FFFFFFF
    let y := shr x 30
    let u := clampI (-lim) lim y
    let r := { r with old := (i, learnPoint s h k i) :: r.old.take 7 }
    (s.setMemN (learnAddr h k i) (ofS 32 u), r, true, bitIf (decide (lim ≤ y.natAbs)) 11)
  | _, _, _, _, _ => (s, r, false, 0)

/-- The points still pending at the end of a cycle, up to 63 of them, in order. DEDUCED (log entry 32). -/
def rcPending (s : State) (h : Half) (k : Nat) (r : RcUnit) : List Nat → State × RcUnit × Bool × Nat
  | [] => (s, r, false, 0)
  | i :: t =>
    let (s, r, up, f) := rcUpdate s h k r i
    let (s, r, up', f') := rcPending s h k r t
    (s, r, up || up', f ||| f')

/-- Why this period gives no error (R134): a code of FREEZE_WHY, 0 where it does. -/
def rcFreeze (s : State) (h : Half) (k j m : Nat) (blending clamped missing stale : Bool) : Nat :=
  let b := CE.addr h k
  let sig : Int := s.fld (ARM.addr h j) ARM.SIGMA_EFF
  if !s.flag b CE.RC_LEARN then 6
  else if (s.fld b CE.RC_TOL : Int) < (sig - 0x8000).natAbs then 1
  else if m ≠ 1 ∨ blending then 2
  else if armState s h j ≠ 1 then 3
  else if clamped || missing then 4
  else if stale then 5
  else 0

/-- The point that φ leaves becomes final, with its mean error. -/
def rcFinish (r : RcUnit) : RcUnit :=
  match r.point with
  | none => r
  | some p =>
    let ok := !r.bad && decide (0 < r.cnt)
    { r with done := (p, if ok then divUp r.sum r.cnt else 0, ok) :: r.done.take 127, point := none, sum := 0, cnt := 0, bad := false }

/-- One period of learning at phase φ(T_n) of a cycle with error e (R133, R134): the finished point's update, the end of a
cycle where a segment with CYCLE_START has begun, and this period's error. The flags are SAT_RC. DEDUCED (log entry 32). -/
def rcLearn (s : State) (h : Half) (k phi cyc : Nat) (e : Int) (why : Nat) : State × Bool × Nat :=
  let b := CE.addr h k
  let r := (s.ce h k).rc
  let wrap := decide (r.len ≠ 0 ∧ cyc ≠ r.lastCyc)
  let r := if r.len = 0 then takeRc s h k r else r
  let d := s.fld b CE.RC_DELTA
  let pt := phi / r.step
  let left := wrap || decide (r.point ≠ some pt)
  let from_ := r.point.getD 0
  let r := if left then rcFinish r else r
  let (s, r, up, fl) :=
    if left && !r.done.isEmpty && decide (d + 2 ≤ from_) && decide (from_ - d - 2 < r.len) then rcUpdate s h k r (from_ - d - 2)
    else (s, r, false, 0)
  let (s, r, up, fl) :=
    if wrap then
      let last := Nat.min from_ (r.len - 1)
      let lo := if d + 1 ≤ from_ then from_ - d - 1 else 0
      let (s, r, up', fl') := rcPending s h k r ((List.range (last + 1)).filter (fun i => decide (lo ≤ i)))
      let s := s.setFld b CE.RC_CYC (Nat.min 65535 (s.fld b CE.RC_CYC + 1))
      (s, takeRc s h k { r with done := [], old := [], zero := false }, up || up', fl ||| fl')
    else (s, r, up, fl)
  let pt := phi / r.step
  let r := if left ∨ wrap then { r with point := some pt, sum := 0, cnt := 0, bad := false } else r
  let r := if why = 0 then { r with sum := r.sum + e, cnt := r.cnt + 1 } else { r with bad := true }
  let s := s.setCe h k { s.ce h k with rc := { r with lastCyc := cyc } }
  (s, up, fl)

/-- RC_CLEAR: the learning memory of the axis is being cleared; u_rc is 0 meanwhile (R135). -/
def rcClear (s : State) (h : Half) (k : Nat) : State :=
  let c := s.ce h k
  s.setCe h k { c with rc := { c.rc with clearing := true } }

/-- Every learning point of the axis is 0 and the cycle count restarts (R135). -/
def rcCleared (s : State) (h : Half) (k : Nat) : State :=
  let c := s.ce h k
  if c.rc.clearing then
    let s := { s with mem := storeClear s.mem (learnAddr h k 0) 0x10000 }
    let s := s.setFld (CE.addr h k) CE.RC_CYC 0
    s.setCe h k { c with rc := { c.rc with clearing := false, done := [], old := [], point := none, sum := 0, cnt := 0, bad := false } }
  else s

/-! One axis of the compute window. -/

/-- The feed-forward torque and inertia of an axis (R47, R109): from the block its arm applies, 0 for an auxiliary axis. -/
def axisFf (s : State) (h : Half) (k : Nat) : Int × Nat :=
  match armOf s h k with
  | none => (0, 0)
  | some j =>
    match (s.arm h j).ffUse with
    | none => (0, 0)
    | some f => (f.tq.getD (jointOf s h j k) 0, f.im.getD (jointOf s h j k) 0)

/-- The torque limits in force: the working set's, or HOME_TQ during a hard-stop homing. -/
def axisLimits (s : State) (h : Half) (k : Nat) (c : CeUnit) : Int × Int :=
  match homingTorqueLimit s h k with
  | some t => ((Nat.min t 0x7FFFFFFF : Nat), (Nat.min t 0x7FFFFFFF : Nat))
  | none => (clampI 0 0x7FFFFFFF (c.g 20), clampI 0 0x7FFFFFFF (c.g 21))

/-- The region of an axis after this period's set-point and inertia (R128). -/
def nextRegion (s : State) (h : Half) (k : Nat) (v : Int) (im : Nat) : Nat × Nat :=
  let b := CE.addr h k
  let hy := Nat.min 25 (s.fld b CE.HYST_PCT)
  let fixed := s.flag b CE.IB_SRC || (armOf s h k).isNone
  let ib :=
    if fixed then s.fld b CE.IB_FIX
    else moveBand (fun x => aboveEdge (f32Scaled im) (f32Scaled (s.wordN (b + 0x14 + 4 * x))) hy)
      (fun x => belowEdge (f32Scaled im) (f32Scaled (s.wordN (b + 0x14 + 4 * x))) hy) 6 (s.fld b CE.IB)
  let sb := moveBand (fun x => aboveEdge v.natAbs (s.wordN (b + 0x20 + 4 * x)) hy)
    (fun x => belowEdge v.natAbs (s.wordN (b + 0x20 + 4 * x)) hy) 6 (s.fld b CE.SB)
  (ib, sb)

/-- The region selection of a period: a change starts a gain blend and is counted (R129, R130). -/
def selectRegion (s : State) (h : Half) (k : Nat) (v : Int) (im : Nat) : State :=
  let b := CE.addr h k
  let (ib, sb) := nextRegion s h k v im
  let r := 4 * ib + sb
  if r = s.fld b CE.REGION then s
  else
    let s := ((s.setFld b CE.REGION r).setFld b CE.IB ib).setFld b CE.SB sb
    let dst := gainEntry s h k r
    let s := s.setCe h k (startGains (s.ce h k) dst)
    let s := (s.count b CE.REGION_CHG).setFld b CE.GBLEND_LEFT 8
    s.flagIf (notchSat dst) b CE.SAT_NOTCH

/-- GT_RELOAD (R130): a blend to the entry of the present region. -/
def gainReload (s : State) (h : Half) (k : Nat) : State :=
  let b := CE.addr h k
  let dst := gainEntry s h k (s.fld b CE.REGION)
  let s := s.setCe h k (startGains (s.ce h k) dst)
  (s.setFld b CE.GBLEND_LEFT 8).flagIf (notchSat dst) b CE.SAT_NOTCH

/-- The first window loads the entry of the present region into the working set. -/
def loadGains (s : State) (h : Half) (k : Nat) : State :=
  let c := s.ce h k
  if c.loaded then s
  else
    let dst := gainEntry s h k (s.fld (CE.addr h k) CE.REGION)
    (s.setCe h k { c with work := dst, workFrom := dst, workTo := dst, loaded := true }).flagIf (notchSat dst) (CE.addr h k) CE.SAT_NOTCH

/-- The following-error check (R121), in position and velocity modes outside a hand-over blend: FE_TRIP, event 101, and one
quick stop. -/
def followError (s : State) (h : Half) (k m : Nat) (diff : Int) : State :=
  let b := CE.addr h k
  let c := s.ce h k
  let mx := s.fld b CE.FE_MAX
  if mx = 0 ∨ (m ≠ 1 ∧ m ≠ 2) ∨ c.blending then s
  else if mx * 256 < diff.natAbs then
    if c.feArmed then
      let s := s.setCe h k { c with feArmed := false }
      let s := raiseEvt (s.setFlag b CE.FE_TRIP) h 101
      match pathOwner s h k with
      | some j => pathStop s h j true
      | none =>
        let s := if (s.prf h k).homing.isSome then abortHoming s h k 11 else s
        if s.flag (PRF.addr h k) PRF.LOOP_ON then stopAxis s h k true else s
    else s
  else s.setCe h k { c with feArmed := true }

/-- The law whose integrators stand before the switch of the present window. -/
def lawBefore (c : CeUnit) (m : Nat) : Nat :=
  match c.swKind with
  | 0 => m
  | 1 => c.swFrom
  | 3 => c.holdFrom
  | _ => 0

/-- The switch of the present window (R124 to R126) before the law runs: the axis's state with preloads, the old output,
and the flags. old: the inputs of the outgoing law, i: those of the incoming one. -/
def switchIn (c : CeUnit) (old i : LawIn) (m : Nat) : CeUnit × Int × Nat :=
  if c.swKind = 1 then
    let o := law c.swFrom c old
    let told := satS 32 (o.sum + blendPart { c with blendK := c.blendK + 1 })
    let vold := if c.swFrom = 1 ∨ c.swFrom = 2 then o.vcmd else i.vAct
    let (c, f) := preload m c i vold told
    (c, told, f ||| o.flags)
  else if c.swKind = 3 then
    let o := law c.holdFrom c old
    (c, satS 32 (o.sum + blendPart { c with blendK := c.blendK + 1 }), o.flags)
  else (c, 0, 0)

/-- The hand-over blend of a period: begun by a switch with D = old - new, else one period further. -/
def blendOn (c : CeUnit) (n : Nat) (told tnew : Int) : CeUnit :=
  if c.swKind = 0 then
    if c.blending then { c with blendK := c.blendK + 1 } else c
  else
    { c with blendD := told - tnew, blendN := n, blendK := 0, blending := decide (0 < n ∨ c.holdStep = 2 ∨ c.holdStep = 4), swKind := 0 }

/-- The diagnostic registers of a period. -/
def putDiag (s : State) (h : Half) (k : Nat) (o : LawOut) (c : CeUnit) (ff : Int) (im : Nat) (tout : Int) : State :=
  let b := CE.addr h k
  let s := ((s.setFldS b CE.EP o.ep).setFldS b CE.VCMD o.vcmd).setFldS b CE.EV o.ev
  let s := (s.setFldS b CE.IP (c.ip / 65536)).setFldS b CE.IV (c.iv / 65536)
  let s := ((s.setFldS b CE.TQ_PI o.pi).setFldS b CE.TQ_FF ff).setFldS b CE.U_RC o.urc
  let s := (s.setFldS b CE.TQ_OUT tout).setFld b CE.IM im
  (s.putFlag b CE.BLENDING c.blending).setFld b CE.BLEND_LEFT (if c.blending then c.blendN - c.blendK else 0)

/-- Set the flags of a mask in CE.FLAGS. -/
def orFlags (s : State) (h : Half) (k mask : Nat) : State :=
  s.setWordN (CE.addr h k + 4) (s.wordN (CE.addr h k + 4) ||| mask)

/-- EN of an axis's SET entry (R126): 0 while the loop is off, in step 3 and in a hold entered from off. -/
def setEnable (s : State) (h : Half) (k : Nat) : Bool :=
  let c := s.ce h k
  s.flag (PRF.addr h k) PRF.LOOP_ON && decide (c.holdStep ≠ 3 ∧ c.holdStep ≠ 7)

/-- What the law of an axis gives in a compute window: the mode, the unit with its integrators and filters, the law's
terms, the flags raised, the feed-forward and its index, the torque put out, the limiting direction, a missing reply, and
whether repetitive control is on. -/
structure AxisLaw where
  m : Nat
  c : CeUnit
  o : LawOut
  err : Int
  flags : Nat
  ff : Int
  im : Nat
  tout : Int
  dir : Int
  missing : Bool
  rcOn : Bool
  deriving DecidableEq, Repr

/-- The inputs of the law of an axis: the frozen set-points in a hold, the measured values, feed-forward and repetitive
control, and the limits. -/
def lawInputs (s : State) (h : Half) (k : Nat) (c : CeUnit) (urc : Int) : LawIn :=
  let b := CE.addr h k
  let frozen := decide (c.holdStep ≠ 0)
  let x := spOf s h k
  let lim := axisLimits s h k c
  { pSp := if frozen then c.frozen else c.pSp, vSp := if frozen then 0 else c.vSp, vNext := if frozen then 0 else x.v,
    aNext := if frozen then 0 else x.a, pAct := c.pAct, vAct := c.vAct, ff := (axisFf s h k).1, urc := urc,
    tqCmd := s.fldS b CE.TQ_CMD, vMax := s.fld b CE.VCMD_MAX, limP := lim.1, limN := lim.2 }

/-- The law of an axis in a compute window (R116). The repetitive output enters the law of position mode, incoming or outgoing
(R123, R124), not a hold. DEDUCED (log entry 30). -/
def axisLaw (s : State) (h : Half) (k : Nat) : AxisLaw :=
  let b := CE.addr h k
  let c := s.ce h k
  let m := lawOf s h k
  let phi := (s.arm h (rcArm s h k)).phases
  let bare := holdRuns c
  let rcAny := s.flag b CE.RC_EN && !c.rc.clearing
  let rcOn := rcAny && decide (m = 1) && !bare
  let rcOld := rcAny && decide (lawBefore c m = 1) && !c.swBare
  let r := if c.rc.len = 0 then takeRc s h k c.rc else c.rc
  let rc : Int × Nat := if rcOn || rcOld then rcOutput s h k r (phi.getD 1 0) else (0, 0)
  let all := lawInputs s h k c (if c.rc.zero then 0 else rc.1)
  let g := blendGains (lawBefore c m) c all
  let lim := axisLimits s h k g.1
  let all := { all with limP := lim.1, limN := lim.2 }
  let i := if bare then holdIn all else all
  let w := switchIn g.1 (if c.swBare then holdIn all else all) i m
  let o := law m w.1 i
  let c := blendOn w.1 (Nat.min 64 (s.fld b CE.BLEND_N)) w.2.1 o.sum
  let t := satF 32 (o.sum + blendPart c)
  let l := limitTorque i t.1
  let tout := if m = 0 ∧ !c.blending then 0 else l.1
  let missing := decide (c.missRun ≠ 0)
  let n := integrate m { c with bq0 := o.bq0, bq1 := o.bq1, notch := o.notch } o l.2 missing
  let flags := o.flags ||| g.2 ||| w.2.2 ||| n.2 ||| rc.2 ||| bitIf t.2 12 ||| bitIf (decide (l.2 = 1)) 9 |||
    bitIf (decide (l.2 = -1)) 10
  let x := spOf s h k
  let c := n.1
  let c := { c with tauSum := o.sum, vcmdOut := o.vcmd, setTq := tout, setEn := setEnable s h k, pSp := x.p, vSp := x.v,
                    holdCnt := if c.holdStep = 1 ∨ c.holdStep = 5 ∨ c.holdStep = 6 then c.holdCnt + 1 else c.holdCnt }
  { m := m, c := c, o := o, err := i.pSp - i.pAct, flags := flags, ff := i.ff, im := (axisFf s h k).2, tout := tout, dir := l.2,
    missing := missing, rcOn := rcOn }

/-- An axis takes what its law gave: diagnostics, gain regions, following error and learning (R116). -/
def applyLaw (s : State) (h : Half) (k : Nat) (a : AxisLaw) : State :=
  let b := CE.addr h k
  let frozen := decide ((s.ce h k).holdStep ≠ 0)
  let x := spOf s h k
  let j := rcArm s h k
  let phi := (s.arm h j).phases
  let s := putDiag (orFlags (s.setCe h k a.c) h k a.flags) h k a.o a.c a.ff a.im a.tout
  let s := s.setFld b CE.GBLEND_LEFT (if 1 ≤ a.c.gainJ ∧ a.c.gainJ ≤ 8 then 9 - a.c.gainJ else 0)
  let s := if !frozen ∧ (a.m = 1 ∨ a.m = 2) then selectRegion s h k x.v a.im else s
  let s := if frozen then s else followError s h k a.m a.err
  let arm := s.arm h j
  let mode := if frozen then 5 else a.m
  let why := rcFreeze s h k j mode a.c.blending (decide (a.dir ≠ 0)) a.missing (arm.ffNow || arm.ikNow)
  let u := rcLearn s h k (phi.getD 2 0) (arm.cycs.getD 2 0) a.o.ep why
  let s := orFlags u.1 h k u.2.2
  ((s.putFlag b CE.RC_ACTIVE a.rcOn).putFlag b CE.RC_UPDATED u.2.1).setFld b CE.FREEZE_WHY why

/-- One axis of the control engine in a compute window (R116). The profile unit has set the set-point for T_{n+1}. -/
def engineAxis (s : State) (h : Half) (k : Nat) : State :=
  let s := loadGains s h k
  applyLaw s h k (axisLaw s h k)

/-- A write of CE.CMD (R130, R135). -/
def ceCommand (s : State) (h : Half) (k v : Nat) : State :=
  let s := if bitOf v 0 then gainReload s h k else s
  if bitOf v 1 then rcClear s h k else s

/-- A write of the learning-memory window (R135): word off of the page that LM_PAGE selects. -/
def learnWrite (s : State) (h : Half) (off : Nat) (w : Word) : State :=
  let k := 32 * s.fld (CELM.addr h) CELM.LM_PAGE + off / 16384
  if s.flag (CE.addr h k) CE.RC_LEARN then s.setFlag (CE.addr h k) CE.LM_REFUSED
  else s.setMemWord (learnAddr h k (off % 16384)) w

/-- LOF_CNT consecutive replies of an axis are missing (R122): LOF, event 102, and the loop is switched off. -/
def lossOfFeedback (s : State) (h : Half) (k : Nat) : State :=
  let b := CE.addr h k
  let c := s.ce h k
  if Nat.max 1 (s.fld b CE.LOF_CNT) ≤ c.missRun ∧ !c.lofDone then
    let s := s.setCe h k { c with lofDone := true }
    rehFailIf (axisOff (raiseEvt (s.setFlag b CE.LOF) h 102) h k) true h 3
  else s

end Sys2Proof.Machine
end

