-- ==== Sys2Proof/Machine/ArmConv.lean ====
section
/-! DEFINITION. An arm's model as its records give it, and conversion between joints and axes (R84 to R86, R88, R89). -/
namespace Sys2Proof.Machine

/-! Joints and axes (R86). -/

/-- KIND of a joint: prismatic. -/
def jointPrismatic (s : State) (h : Half) (j i : Nat) : Bool := decide (jointWord s h j i 0 % 256 = 1)

/-- GR_NUM and GR_DEN of a joint. -/
def gearNum (s : State) (h : Half) (j i : Nat) : Int := toS 32 (jointWord s h j i 0x24)
def gearDen (s : State) (h : Half) (j i : Nat) : Int := jointWord s h j i 0x28

/-- AX_OFFSET of a joint. -/
def axOffset (s : State) (h : Half) (j i : Nat) : Int :=
  toS 64 (jointWord s h j i 0x30 + 2 ^ 32 * jointWord s h j i 0x34)

/-- a / b rounded to nearest for any b that is not 0. -/
def divNear (a b : Int) : Int := if b < 0 then divUp (-a) (-b) else if b = 0 then 0 else divUp a b

/-- The axis position of joint value q (a binary32 pattern), and whether it saturated. -/
def jointToAxis (s : State) (h : Half) (j i q : Nat) : Int × Bool :=
  let n := gearNum s h j i
  let d := gearDen s h j i
  let x := f32Ratio q
  let p := if jointPrismatic s h j i then divNear (x * n * 2 ^ 32) (f32Den * d)
    else divNear (x * n * 2 ^ 32 * twoPiDen) (f32Den * d * twoPiNum)
  satF 64 (p + axOffset s h j i)

/-- A motion of an axis, in 2^-e of a motor revolution, as a motion of its joint. -/
def axisMotion (s : State) (h : Half) (j i e : Nat) (x : Int) : Int × Int :=
  gearMotion (jointPrismatic s h j i) (gearNum s h j i) (gearDen s h j i) e x

/-- The joint value of an axis position, as binary32. -/
def axisToJoint (s : State) (h : Half) (j i : Nat) (p : Int) : Nat := ratioPat (axisMotion s h j i 32 (p - axOffset s h j i))

/-- A joint torque (binary32, N m or N) in the torque format of the axis, and whether it saturated. -/
def jointTorque (s : State) (h : Half) (j i t : Nat) : Int × Bool :=
  let n := gearNum s h j i
  let d := gearDen s h j i
  let r := f32Ratio (jointWord s h j i 0x2C)
  let x := f32Ratio t
  let v := if jointPrismatic s h j i then divNear (x * d * 2 ^ 24 * twoPiDen) (r * n * twoPiNum) else divNear (x * d * 2 ^ 24) (r * n)
  satF 32 v

/-- The joint torque of a value in the torque format of the axis. -/
def torqueOfAxis (s : State) (h : Half) (j i : Nat) (t : Int) : Fx :=
  let n := gearNum s h j i
  let d := gearDen s h j i
  let x := t * f32Ratio (jointWord s h j i 0x2C) * n
  if jointPrismatic s h j i then fxDiv (x * twoPiNum) (d * 2 ^ 24 * f32Den * twoPiDen) else fxDiv x (d * 2 ^ 24 * f32Den)

/-- The motor-referred inertia of a diagonal element of M, as binary32. -/
def jointInertia (s : State) (h : Half) (j i m : Nat) : Nat :=
  let n := gearNum s h j i
  let d := gearDen s h j i
  let x := f32Ratio m
  let (num, den) := if jointPrismatic s h j i then (x * d * d * twoPiDen * twoPiDen, f32Den * n * n * twoPiNum * twoPiNum)
    else (x * d * d, f32Den * n * n)
  if den = 0 then 0 else ratioF32 num den

/-- The present set-point of an arm as joint values. -/
def presentJoints (s : State) (h : Half) (j : Nat) : List Nat :=
  (List.range (armJoints s h j)).map (fun i =>
    axisToJoint s h j i (s.fldS (PRF.addr h (headerByte s h j (4 + i))) PRF.SP_POS))

/-- The rates of an arm's present set-point, as binary32. -/
def presentRates (s : State) (h : Half) (j : Nat) : List Nat :=
  (List.range (armJoints s h j)).map (fun i =>
    ratioPat (axisMotion s h j i 16 (s.fldS (PRF.addr h (headerByte s h j (4 + i))) PRF.SP_VEL)))

/-- The accelerations of an arm's present set-point, as binary32. -/
def presentAccs (s : State) (h : Half) (j : Nat) : List Nat :=
  (List.range (armJoints s h j)).map (fun i =>
    ratioPat (axisMotion s h j i 8 (s.fldS (PRF.addr h (headerByte s h j (4 + i))) PRF.SP_ACC)))

/-! The model (R84, R85). -/

/-- A number of the header and of a joint record. -/
def headerFx (s : State) (h : Half) (j off : Nat) : Fx := fxOf (s.wordN (ARM.addr h j + 0x800 + off))
def jointFx (s : State) (h : Half) (j i off : Nat) : Fx := fxOf (jointWord s h j i off)

/-- A position and a unit quaternion in the header. -/
def headerPose (s : State) (h : Half) (j off : Nat) : Pose :=
  let x (n : Nat) := headerFx s h j (off + 4 * n)
  ⟨⟨x 0, x 1, x 2⟩, (Quat4.ofList [x 3, x 4, x 5, x 6]).unit⟩

/-- A symmetric tensor from Ixx, Iyy, Izz, Ixy, Ixz, Iyz. -/
def tensorOf (f : Nat → Fx) : Rot := ⟨⟨f 0, f 3, f 4⟩, ⟨f 3, f 1, f 5⟩, ⟨f 4, f 5, f 2⟩⟩

/-- Joint i with its link. -/
def linkOf (s : State) (h : Half) (j i : Nat) : Link :=
  let x := jointFx s h j i
  { prismatic := jointPrismatic s h j i, a := x 4, alpha := x 8, d := x 0xC, theta := x 0x10, qMin := x 0x14, qMax := x 0x18,
    body := ⟨x 0x38, ⟨x 0x3C, x 0x40, x 0x44⟩, tensorOf (fun n => x (0x48 + 4 * n))⟩,
    fv := x 0x60, fc := x 0x64, vc := x 0x68, armature := x 0x6C }

/-- A payload slot: none where it is not VALID (R89). -/
def payloadOf (s : State) (h : Half) (j slot : Nat) : Option Body :=
  let b := ARM.addr h j + 0x400 + 48 * (slot % 8)
  let x (n : Nat) := fxOf (s.wordN (b + n))
  if bitOf (s.wordN (b + 0x28)) 0 then some ⟨x 0, ⟨x 4, x 8, x 0xC⟩, tensorOf (fun n => x (0x10 + 4 * n))⟩ else none

/-- TYPE of an arm, and whether joint 0 is a linear track. -/
def armType (s : State) (h : Half) (j : Nat) : Nat := headerByte s h j 2
def armTrack (s : State) (h : Half) (j : Nat) : Bool := bitOf (headerByte s h j 3) 0

/-- An arm with the payload of a slot. -/
def armModel (s : State) (h : Half) (j slot : Nat) : ArmModel :=
  { geometry := armType s h j, track := armTrack s h j, links := (List.range (armJoints s h j)).map (fun i => linkOf s h j i),
    base := headerPose s h j 0x10, tool := headerPose s h j 0x2C,
    gravity := ⟨headerFx s h j 0x48, headerFx s h j 0x4C, headerFx s h j 0x50⟩, payload := payloadOf s h j slot,
    ikLambda := headerFx s h j 0x54, ikW0 := headerFx s h j 0x58, ikTol := headerFx s h j 0x5C, ikIter := headerByte s h j 0x60,
    obsGain := headerFx s h j 0x6C }

/-- Joint values as numbers, and numbers as binary32. -/
def fxList (l : List Nat) : List Fx := l.map fxOf
def patList (l : List Fx) : List Nat := l.map fxF32

/-- The pose of an arm at joints. -/
def poseAt (s : State) (h : Half) (j : Nat) (q : List Nat) : Pose := (armModel s h j 0).pose (fxList q)

/-- Where an arm stands with joints q, as a segment's start. -/
def startAt (s : State) (h : Half) (j : Nat) (q : List Nat) : SegStart := ⟨q, poseAt s h j q, fxOf (q.headD 0)⟩

/-- The velocity and the acceleration of the tool at joints, rates and accelerations. -/
def toolMotion (m : ArmModel) (q qd qdd : List Fx) : List Fx × List Fx :=
  let fs := m.frames q
  ((m.jac fs).app qd, m.toolAcc fs qd qdd)

end Sys2Proof.Machine
end

