-- ==== Sys2Proof/Machine/Ik.lean ====
section
/-! DEFINITION. Inverse kinematics and joint rates (R103 to R107). The analytic solutions cover chains of the geometries of R103
in the convention of R85, with joints 2 and 3 (for type 2 also 4) parallel up to direction; a pose they do not reproduce is out
of reach. DESIGN CHOICE (log entries 40 and 123). -/
namespace Sys2Proof.Machine

/-- A point of the plane, and its rotation. -/
structure V2 where
  x : Fx
  y : Fx
  deriving DecidableEq, Repr

def V2.sub (a b : V2) : V2 := ⟨a.x - b.x, a.y - b.y⟩
def V2.sq (a : V2) : Fx := fxSq a.x + fxSq a.y
def V2.turn (a : V2) (q : Fx) : V2 := let k := fxCosSin q; ⟨fxMul k.1 a.x - fxMul k.2 a.y, fxMul k.2 a.x + fxMul k.1 a.y⟩
def V2.angle (a : V2) : Fx := fxAtan2 a.y a.x

/-- What counts as on the border of the reach. -/
def reachTol : Fx := fxOne / 2 ^ 30

/-- The angle of a cosine, none beyond the reach. -/
def reachAcos (c : Fx) : Option Fx := if fxOne + reachTol < fxAbs c then none else some (fxAcos c)

/-- The square root of a square, none beyond the reach. -/
def reachSqrt (x : Fx) : Option Fx := if x < -reachTol then none else some (fxSqrt (maxFx 0 x))
where maxFx (a b : Fx) : Fx := if a ≤ b then b else a

/-- Two links in the plane: the angles of a first link of length l and of an inner vector k behind it that reach w, for both
bends of the elbow. -/
def planar (l : Fx) (k w : V2) : Option ((Fx × Fx) × (Fx × Fx)) :=
  let r := fxSqrt k.sq
  let c := fxDiv (w.sq - fxSq l - k.sq) (2 * fxMul l r)
  (reachAcos c).map (fun g =>
    let one (g : Fx) : Fx × Fx :=
      let b := g - k.angle
      let v := k.turn b
      (w.angle - (⟨l + v.x, v.y⟩ : V2).angle, b)
    (one g, one (-g)))

/-- The first joint: the angles that put the height e of the arm's plane in place, the front one first. -/
def planeTurn (ux uy e : Fx) : Option (Fx × Fx) :=
  (reachSqrt (fxSq ux + fxSq uy - fxSq e)).map (fun w =>
    (fxAtan2 uy ux - fxAtan2 (-e) w, fxAtan2 uy ux - fxAtan2 (-e) (-w)))

/-- The wrist: the angles about z of RotZ(a) RotX(x) RotZ(b) RotX(y) RotZ(c) = r; where the middle one's sine is below 10^-4
the first is given by held (R104). -/
def wristAngles (x y : Fx) (r : Rot) (flip : Bool) (held : Option Fx) : Option (Fx × Fx × Fx × Bool) :=
  let kx := fxCosSin x
  let ky := fxCosSin y
  (reachAcos (fxDiv (fxMul kx.1 ky.1 - r.c.z) (fxMul kx.2 ky.2))).map (fun g =>
    let b := if flip then -g else g
    let kb := fxCosSin b
    match (if fxAbs kb.2 * 10000 < fxOne then held else none) with
    | some a =>
      let t := ((rotX y).tr.mul (rotZ (-b))).mul (((rotX x).tr.mul (rotZ (-a))).mul r)
      (a, b, fxAtan2 t.b.x t.a.x, true)
    | none =>
      let vx := fxMul kb.2 ky.2
      let vy := -(fxMul (fxMul kx.1 kb.1) ky.2) - fxMul kx.2 ky.1
      let w := ((rotX y).tr.mul (rotZ (-b))).app ⟨0, kx.2, kx.1⟩
      (fxAtan2 r.b.z r.a.z - fxAtan2 vy vx, b, fxAtan2 w.y w.x - fxAtan2 r.c.y r.c.x, false))

/-- The branch a segment selects: shoulder back, elbow down, wrist flipped (R104). DESIGN CHOICE (log entry 40). -/
structure Branch where
  shoulder : Bool
  elbow : Bool
  wrist : Bool
  deriving DecidableEq, Repr

/-- The sign of a cosine of 0 or pi. -/
def parallelSign (x : Fx) : Int := if 0 ≤ fxCos x then 1 else -1

/-- A plane vector mirrored where a joint's axis points the other way. -/
def V2.flip (a : V2) (s : Int) : V2 := ⟨a.x, s * a.y⟩

/-- Of the two bends the one with the elbow higher along the base's z axis, or the other one. up: the height of the plane's y
axis, as the frame of joint 1 lies. -/
def pickElbow (l : Fx) (high : Rot) (down : Bool) (p : (Fx × Fx) × (Fx × Fx)) : Fx × Fx :=
  let z (a : Fx × Fx) : Fx := let k := fxCosSin a.1; fxMul l (fxMul high.c.x k.1 + fxMul high.c.y k.2)
  if decide (z p.2 ≤ z p.1) != down then p.1 else p.2

/-- The analytic solution of a six-joint chain on a base frame: joint angles with their offsets, in chain form. prev4: the angle
joint 4 had in the sample before. spherical: joints 4 to 6 meet in a point (types 0, 1 and 3). -/
def chainIk (spherical : Bool) (ls : List Link) (base flange : Frame) (br : Branch) (prev4 : Fx) : Option (List Fx) :=
  let l (i : Nat) : Link := ls.getD i ⟨false, 0, 0, 0, 0, 0, 0, ⟨0, .zero, .id⟩, 0, 0, 0, 0⟩
  let c := base.seen (flange.p.sub (V3.smul (l 5).d flange.axis))
  let rot := base.r.tr.mul flange.r
  let u := ((rotX (l 0).alpha).tr.app c).sub ⟨(l 0).a, 0, (l 0).d⟩
  let k1 := fxCosSin (l 1).alpha
  let s2 := parallelSign (l 2).alpha
  let s3 := if spherical then 1 else parallelSign (l 3).alpha
  let dd := if spherical then (l 1).d + s2 * ((l 2).d + fxMul (fxCos (l 3).alpha) (l 3).d)
    else (l 1).d + s2 * ((l 2).d + s3 * ((l 3).d + fxMul (fxCos (l 4).alpha) (l 4).d))
  let e := fxDiv (dd - fxMul k1.1 u.z) k1.2
  match planeTurn u.x u.y e with
  | none => none
  | some t =>
    let q1 := if br.shoulder then t.2 else t.1
    let v := (rotZ (-q1)).app u
    let w : V2 := ⟨v.x - (l 1).a, fxDiv (u.z - fxMul k1.1 dd) k1.2⟩
    let r1 := ((rotX (l 0).alpha).mul (rotZ q1)).mul (rotX (l 1).alpha)
    let turned := r1.tr.mul rot
    if spherical then
      let inner : V2 := ⟨(l 3).a, -(fxMul (fxSin (l 3).alpha) (l 3).d)⟩
      (planar (l 2).a (inner.flip s2) w).bind (fun p =>
        let a := pickElbow (l 2).a r1 br.elbow p
        let q3 := s2 * a.2
        let r := (((rotZ a.1).mul (rotX (l 2).alpha)).mul ((rotZ q3).mul (rotX (l 3).alpha))).tr.mul turned
        (wristAngles (l 4).alpha (l 5).alpha r br.wrist (some prev4)).map (fun x => [q1, a.1, q3, x.1, x.2.1, x.2.2.1]))
    else
      let k4 := fxCosSin (l 4).alpha
      let tail : V2 := (⟨(l 4).a, -(fxMul k4.2 (l 4).d)⟩ : V2).flip (s2 * s3)
      let x4 := (l 2).alpha + (l 3).alpha + (l 4).alpha
      (wristAngles x4 (l 5).alpha turned br.wrist none).bind (fun x =>
        if fxAbs (fxSin x.2.1) * 10000 < fxOne then
          let inner := tail.turn (s2 * s3 * prev4)
          (planar (l 2).a ⟨(l 3).a + inner.x, inner.y⟩ w).bind (fun p =>
            let a := pickElbow (l 2).a r1 br.elbow p
            let sum := a.1 + a.2 + s2 * s3 * prev4
            (wristAngles x4 (l 5).alpha turned br.wrist (some sum)).map (fun y => [q1, a.1, s2 * a.2, prev4, y.2.1, y.2.2.1]))
        else
          (planar (l 2).a ⟨(l 3).a, 0⟩ (w.sub (tail.turn x.1))).map (fun p =>
            let a := pickElbow (l 2).a r1 br.elbow p
            [q1, a.1, s2 * a.2, s2 * s3 * (x.1 - a.1 - a.2), x.2.1, x.2.2.1]))

/-- The turn of a joint's angle that R104 takes: nearest to the sample before where its range exceeds one turn, else the one from
Q_MIN on. -/
def nearTurn (l : Link) (q prev : Fx) : Fx :=
  let t := 2 * fxPi
  if t < l.qMax - l.qMin then q + t * ((prev - q + fxPi) / t) else q - t * ((q - l.qMin) / t)

/-- How far a pose at joints is from the one wanted: in position and in orientation. -/
def ArmModel.missBy (m : ArmModel) (want : Pose) (q : List Fx) : Fx × Fx :=
  let e := poseError want (m.pose q)
  ((V3.ofList e).len, (V3.ofList (e.drop 3)).len)

/-- Types 0 to 3 (R103, R104): the joints of a pose on a branch, the track standing at a place; none out of reach. -/
def ArmModel.analytic (m : ArmModel) (want : Pose) (track : Fx) (br : Branch) (prev : List Fx) : Option (List Fx) :=
  let n := if m.track then 1 else 0
  let ls := m.links.drop n
  let base := if m.track then ((m.links.head?).map (fun l => l.next m.base.frame track)).getD m.base.frame else m.base.frame
  let tool := m.tool.frame
  let r := want.frame.r.mul tool.r.tr
  let flange : Frame := ⟨r, want.p.sub (r.app tool.p)⟩
  let chainPrev := (m.toChain prev).drop n
  let prev4 := chainPrev.getD 3 0 + (ls.getD 3 ⟨false, 0, 0, 0, 0, 0, 0, ⟨0, .zero, .id⟩, 0, 0, 0, 0⟩).theta
  match chainIk (decide (m.geometry ≠ 2)) ls base flange br prev4 with
  | none => none
  | some qs =>
    let raw := List.zipWith (fun l q => q - l.theta) ls qs
    let raw := if m.geometry = 3 then raw.set 2 (raw.getD 2 0 + raw.getD 1 0) else raw
    let own := List.zipWith (fun l (x : Fx × Fx) => nearTurn l x.1 x.2) ls (raw.zip (prev.drop n))
    let q := if m.track then track :: own else own
    let d := m.missBy want q
    if d.1 * 1000000 ≤ fxOne ∧ d.2 * 1000 ≤ fxOne then some q else none

/-- J J^T + lambda^2 I for the damping of R105. w is the square root of the determinant of J J^T, the product of the diagonal
of its factor. -/
def ArmModel.damped (m : ArmModel) (j : Mat) : Mat :=
  let a := j.mul j.tr
  let w := fxSqrt (detRows 6 a)
  let k := if w < m.ikW0 then fxMul (fxSq m.ikLambda) (fxOne - fxSq (fxDiv w m.ikW0)) else 0
  a.addDiag k

/-- The minimum-norm joint motion of a tool motion: the damped least squares of R105. -/
def ArmModel.leastMotion (m : ArmModel) (j : Mat) (x : List Fx) : List Fx := j.tr.app ((m.damped j).solve x)

/-- Type 4 (R105): iterations from the sample before; both error norms at the end. -/
def ArmModel.iterate (m : ArmModel) (want : Pose) : Nat → List Fx → List Fx × Fx
  | 0, q => let d := m.missBy want q; (q, if d.1 ≤ d.2 then d.2 else d.1)
  | n + 1, q =>
    let fs := m.frames q
    let d := m.missBy want q
    let r := if d.1 ≤ d.2 then d.2 else d.1
    if r ≤ m.ikTol then (q, r)
    else m.iterate want n (addL q (m.leastMotion (m.jac fs) (poseError want (m.toolAt fs).pose)))

/-- The joints of a pose (R103 to R106): none where it fails, else whether the residual counts as inexact. -/
def ArmModel.ik (m : ArmModel) (want : Pose) (track : Fx) (br : Branch) (prev : List Fx) : Option (List Fx × Bool) :=
  if 4 ≤ m.geometry then
    let r := m.iterate want m.ikIter prev
    if 100 * m.ikTol < r.2 then none else some (r.1, decide (m.ikTol < r.2))
  else (m.analytic want track br prev).map (fun q => (q, false))

/-- The joint rates of a tool motion (R107): J q' = x, damped for type 4; the track of types 0 to 3 moves at its own rate. -/
def ArmModel.rates (m : ArmModel) (j : Mat) (x : List Fx) (track : Fx) : List Fx :=
  if 4 ≤ m.geometry then m.leastMotion j x
  else if m.track then
    let c := j.map (fun r => r.headD 0)
    track :: Mat.solve (j.map (fun r => r.drop 1)) (subL x (smulL track c))
  else j.solve x

/-- Rates and accelerations of the joints at q for a tool velocity and acceleration (R107). -/
def ArmModel.ikRates (m : ArmModel) (q twist acc : List Fx) (trackD trackDD : Fx) : List Fx × List Fx :=
  let fs := m.frames q
  let j := m.jac fs
  let qd := m.rates j twist trackD
  (qd, m.rates j (subL acc (m.jacRate fs qd)) trackDD)

end Sys2Proof.Machine
end

