-- ==== Sys2Proof/Machine/Path.lean ====
section
/-! DEFINITION. The path of an arm: descriptors and their checks, the geometry of segments, and the place on a path (R90 to R94).
Lengths, points and turns are exact up to the places of Fix.lean. DESIGN CHOICE (log entry 123). -/
namespace Sys2Proof.Machine

/-! The queue (R90 to R93). -/

/-- The address of a descriptor's slot. -/
def segAddr (h : Half) (j i : Nat) : Nat := ARM.addr h j + 0x1000 + i % 64 * 0x40

/-- Word off of descriptor i. -/
def segWord (s : State) (h : Half) (j i off : Nat) : Nat := s.wordN (segAddr h j i + off)

/-- TYPE, FLAGS, HOIST_ID and PAYLOAD of a descriptor. -/
def segType (s : State) (h : Half) (j i : Nat) : Nat := segWord s h j i 0 % 256
def segFlag (s : State) (h : Half) (j i b : Nat) : Bool := bitOf (segWord s h j i 0) (8 + b)
def segHoist (s : State) (h : Half) (j i : Nat) : Nat := segWord s h j i 0 / 2 ^ 16 % 256
def segPayload (s : State) (h : Half) (j i : Nat) : Nat := segWord s h j i 0 / 2 ^ 24 % 16

/-- A finite positive binary32 pattern. -/
def f32Positive (w : Nat) : Bool := decide (0 < w ∧ w < 0x7F800000)

/-- A quaternion's norm lies in 0.999 to 1.001; a pattern that is no number fails. -/
def quatOk (l : List Nat) : Bool :=
  let n := l.foldl (fun a w => a + f32Ratio w * f32Ratio w) 0
  let d := f32Den * f32Den
  l.all (fun w => (f32Exact w).isSome) && decide (998001 * d ≤ 1000000 * n ∧ 1000000 * n ≤ 1002001 * d)

/-- A joint value lies in Q_MIN to Q_MAX. -/
def jointInRange (s : State) (h : Half) (j i q : Nat) : Bool :=
  (f32Exact q).isSome && decide (f32Ratio (jointWord s h j i 0x14) ≤ f32Ratio q ∧ f32Ratio q ≤ f32Ratio (jointWord s h j i 0x18))

/-- A knot table's offset and count. -/
def knotBase (s : State) (h : Half) (j i : Nat) : Nat := segWord s h j i 0x18 + 2 ^ 32 * segWord s h j i 0x1C
def knotCount (s : State) (h : Half) (j i : Nat) : Nat := segWord s h j i 0x20
def knotsOk (s : State) (h : Half) (j i : Nat) : Bool :=
  decide (knotBase s h j i % 8 = 0 ∧ knotBase s h j i < 2 ^ 31 ∧ 2 ≤ knotCount s h j i ∧ knotCount s h j i ≤ 4096)

/-- Word w of knot n of a table whose knots are size words. -/
def knotWord (s : State) (h : Half) (j i size n w : Nat) : Nat :=
  s.memN (dramAddr h (knotBase s h j i + 4 * (size * n + w)))

/-- The words of a slice of a descriptor. -/
def segWords (s : State) (h : Half) (j i off n : Nat) : List Nat := (List.range n).map (fun x => segWord s h j i (off + 4 * x))

/-! Interpolation of joints. -/

/-- A joint of a joint segment at a path parameter: its value and its first and second derivative by s, as ratios over the
last component (R91). -/
structure JointAt where
  q : Int
  d1 : Int
  d2 : Int
  den : Int
  deriving DecidableEq, Repr

/-- A joint of a joint-linear segment at s of 2^64. -/
def lineJoint (a b : Nat) (x : Int) : JointAt :=
  let d := f32Ratio b - f32Ratio a
  ⟨f32Ratio a * fineUnit + d * x, d * fineUnit, 0, f32Den * fineUnit⟩

/-- Knot n of a joint spline: knot 0 is the start point. -/
def splineKnot (s : State) (h : Half) (j i w n : Nat) (start : List Nat) : Int :=
  if n = 0 then f32Ratio (start.getD w 0) else f32Ratio (knotWord s h j i (armJoints s h j) n w)

/-- A joint of a joint spline at s of 2^64: cubic Hermite, central-difference slopes, one-sided at the ends. -/
def splineJoint (s : State) (h : Half) (j i w : Nat) (x : Int) (start : List Nat) : JointAt :=
  let k := knotCount s h j i
  let c : Int := (k : Int) - 1
  let n := (x * c / fineUnit).toNat
  let n := if k - 1 ≤ n then k - 2 else n
  let t : Int := x * c - (n : Int) * fineUnit
  let r : Int := fineUnit
  let kn (n : Nat) : Int := splineKnot s h j i w n start
  let sl (n : Nat) : Int :=
    if n = 0 then 2 * (kn 1 - kn 0) else if n = k - 1 then 2 * (kn (k - 1) - kn (k - 2)) else kn (n + 1) - kn (n - 1)
  let y0 := kn n
  let y1 := kn (n + 1)
  let m0 := sl n
  let m1 := sl (n + 1)
  let c3 := 4 * (y0 - y1) + m0 + m1
  let c2 := 6 * (y1 - y0) - 2 * m0 - m1
  { q := c3 * t * t * t + c2 * t * t * r + m0 * t * r * r + 2 * y0 * r * r * r,
    d1 := c * (3 * c3 * t * t + 2 * c2 * t * r + m0 * r * r) * r,
    d2 := c * c * (6 * c3 * t + 2 * c2 * r) * r * r, den := 2 * r * r * r * f32Den }

/-- The joints of the running joint segment i at s. -/
def segJoints (s : State) (h : Half) (j i : Nat) (x : Int) (start : List Nat) : List JointAt :=
  (List.range (armJoints s h j)).map (fun w =>
    if segType s h j i = 0 then lineJoint (start.getD w 0) (segWord s h j i (0x18 + 4 * w)) x
    else splineJoint s h j i w x start)

/-! Cartesian geometry (R91). -/

/-- A point and a unit quaternion in a descriptor, and in a knot of a Cartesian spline. -/
def segPoint (s : State) (h : Half) (j i off : Nat) : V3 := V3.ofList ((segWords s h j i off 3).map fxOf)
def segQuat (s : State) (h : Half) (j i off : Nat) : Quat4 := (Quat4.ofList ((segWords s h j i off 4).map fxOf)).unit
def knotPose (s : State) (h : Half) (j i n : Nat) : Pose :=
  let l := (List.range 7).map (fun w => fxOf (knotWord s h j i 7 n w))
  ⟨V3.ofList l, (Quat4.ofList (l.drop 3)).unit⟩

/-- A pose of a segment with its first and second derivative by the path parameter (velocity and angular velocity), and the
track with its derivative. -/
structure CartAt where
  pose : Pose
  d1 : List Fx
  d2 : List Fx
  track : Fx
  trackD : Fx
  deriving DecidableEq, Repr

/-- An orientation on the way from p to q, and its rate, at a fraction f of a way of length len. -/
def slerpAt (p q : Quat4) (f len : Fx) : Quat4 × V3 :=
  let t := turnOf p q
  ((turnQuat t.1 (fxMul t.2 f)).mul p, V3.smul (fxDiv t.2 len) t.1)

/-- Translation from a to b counts as one: it is at least 1 um. -/
def translates (a b : V3) : Bool := decide (fxOne ≤ (b.sub a).sq * 10 ^ 12)

/-- A Cartesian linear segment of length len at x. -/
def lineAt (a b : Pose) (len x : Fx) : CartAt :=
  let f := fxDiv x len
  let d := if translates a.p b.p then b.p.sub a.p else .zero
  let o := slerpAt a.q b.q f len
  ⟨⟨a.p.add (V3.smul f d), o.1⟩, (V3.ofList (d.list.map (fun y => fxDiv y len))).list ++ o.2.list, List.replicate 6 0, 0, 0⟩

/-- The circle from a through b to c: its centre, two unit axes of its plane, the first toward a, its radius and the arc's angle. -/
structure Circle where
  o : V3
  e1 : V3
  e2 : V3
  r : Fx
  angle : Fx
  deriving DecidableEq, Repr

def circleOf (a b c : V3) : Circle :=
  let u := b.sub a
  let v := c.sub a
  let w := u.cross v
  let k := ((V3.smul u.sq v).sub (V3.smul v.sq u)).cross w
  let o := a.add ⟨fxDiv k.x (2 * w.sq), fxDiv k.y (2 * w.sq), fxDiv k.z (2 * w.sq)⟩
  let e1 := (a.sub o).unit
  let e2 := w.unit.cross e1
  let g := fxAtan2 ((c.sub o).dot e2) ((c.sub o).dot e1)
  ⟨o, e1, e2, (a.sub o).len, if g < 0 then g + 2 * fxPi else g⟩

/-- A Cartesian circular segment at x. -/
def circleAt (a b : Pose) (via : V3) (len x : Fx) : CartAt :=
  let c := circleOf a.p via b.p
  let k := fxCosSin (fxDiv x c.r)
  let rad := (V3.smul k.1 c.e1).add (V3.smul k.2 c.e2)
  let tan := (V3.smul k.1 c.e2).sub (V3.smul k.2 c.e1)
  let o := slerpAt a.q b.q (fxDiv x len) len
  ⟨⟨c.o.add (V3.smul c.r rad), o.1⟩, tan.list ++ o.2.list, (rad.list.map (fun y => -(fxDiv y c.r))) ++ [0, 0, 0], 0, 0⟩

/-- An interval of a Cartesian spline: cubic Hermite from its ends and slopes. -/
structure Hermite where
  p0 : V3
  p1 : V3
  m0 : V3
  m1 : V3
  deriving DecidableEq, Repr

/-- A combination of an interval's four vectors. -/
def Hermite.comb (f : Hermite) (a b c d : Fx) : V3 :=
  ((V3.smul a f.p0).add (V3.smul b f.p1)).add ((V3.smul c f.m0).add (V3.smul d f.m1))

/-- Position and its first and second derivative at t of an interval. -/
def Hermite.pos (f : Hermite) (t : Fx) : V3 :=
  let t2 := fxSq t
  let t3 := fxMul t2 t
  f.comb (2 * t3 - 3 * t2 + fxOne) (3 * t2 - 2 * t3) (t3 - 2 * t2 + t) (t3 - t2)
def Hermite.vel (f : Hermite) (t : Fx) : V3 :=
  let t2 := fxSq t
  f.comb (6 * t2 - 6 * t) (6 * t - 6 * t2) (3 * t2 - 4 * t + fxOne) (3 * t2 - 2 * t)
def Hermite.acc (f : Hermite) (t : Fx) : V3 :=
  f.comb (12 * t - 6 * fxOne) (6 * fxOne - 12 * t) (6 * t - 4 * fxOne) (6 * t - 2 * fxOne)

/-- Gauss-Legendre: the abscissas and weights of eight points, in 10^-25. -/
def gauss8 : List (Int × Int) :=
  [(1834346424956498049394761, 3626837833783619829651504), (5255324099163289858177390, 3137066458778872873379622),
   (7966664774136267395915539, 2223810344533744705443560), (9602898564975362316835609, 1012285362903762591525314)]

/-- The arc length of an interval from 0 to t (R91). -/
def Hermite.arc (f : Hermite) (t : Fx) : Fx :=
  let half := t / 2
  gauss8.foldl (fun acc x =>
    let d := half * x.1 / 10 ^ 25
    acc + half * x.2 / 10 ^ 25 * ((f.vel (half - d)).len + (f.vel (half + d)).len) / fxOne) 0

/-- The place of an interval at which its arc length is x; n halvings. -/
def Hermite.inverse (f : Hermite) (x : Fx) : Nat → Fx → Fx → Fx
  | 0, lo, _ => lo
  | n + 1, lo, hi =>
    let mid := (lo + hi) / 2
    if f.arc mid ≤ x then f.inverse x n mid hi else f.inverse x n lo mid

/-- Interval n of the spline of descriptor i that begins at a: knot 0 is the start, slopes are central differences, one-sided
at the ends. -/
def splinePart (s : State) (h : Half) (j i n : Nat) (a : Pose) : Hermite :=
  let k := knotCount s h j i
  let p (m : Nat) : V3 := if m = 0 then a.p else (knotPose s h j i m).p
  let slope (m : Nat) : V3 :=
    if m = 0 then (p 1).sub (p 0) else if m + 1 = k then (p m).sub (p (m - 1))
    else let d := (p (m + 1)).sub (p (m - 1)); ⟨d.x / 2, d.y / 2, d.z / 2⟩
  ⟨p n, p (n + 1), slope n, slope (n + 1)⟩

/-- The lengths of the intervals of a Cartesian spline. -/
def splineArcs (s : State) (h : Half) (j i : Nat) (a : Pose) : List Fx :=
  (List.range (knotCount s h j i - 1)).map (fun n => (splinePart s h j i n a).arc fxOne)

/-- The interval in which a length lies, and the rest of the length in it. -/
def arcPlace : List Fx → Fx → Nat → Nat × Fx
  | [], x, n => (n, x)
  | [_], x, n => (n, x)
  | l :: t, x, n => if x ≤ l then (n, x) else arcPlace t (x - l) (n + 1)

/-- A Cartesian spline segment at x. -/
def splineAt (s : State) (h : Half) (j i : Nat) (a : Pose) (arcs : List Fx) (x : Fx) : CartAt :=
  let r := arcPlace arcs x 0
  let f := splinePart s h j i r.1 a
  let l := arcs.getD r.1 0
  let t := if l ≤ r.2 then fxOne else f.inverse r.2 160 0 fxOne
  let v := f.vel t
  let n := v.len
  let tan := v.unit
  let acc := f.acc t
  let bend := acc.sub (V3.smul (acc.dot tan) tan)
  let from_ := if r.1 = 0 then a.q else (knotPose s h j i r.1).q
  let o := slerpAt from_ (knotPose s h j i (r.1 + 1)).q (fxDiv r.2 l) l
  ⟨⟨f.pos t, o.1⟩, tan.list ++ o.2.list, (bend.list.map (fun y => fxDiv y (fxSq n))) ++ [0, 0, 0], 0, 0⟩

/-- Where Cartesian descriptor i ends (R91). -/
def cartEnd (s : State) (h : Half) (j i : Nat) : Pose :=
  if segType s h j i = 4 then knotPose s h j i (knotCount s h j i - 1) else ⟨segPoint s h j i 0x18, segQuat s h j i 0x24⟩

/-- The track target of a Cartesian descriptor: none where it holds the track, or where the arm has none (R91). -/
def trackTarget (s : State) (h : Half) (j i : Nat) : Option Fx :=
  if !armTrack s h j || decide (4 ≤ armType s h j) then none
  else match segType s h j i with
    | 2 => some (fxOf (segWord s h j i 0x34))
    | 4 => some (fxOf (segWord s h j i 0x24))
    | _ => none

/-- The numbers of a Cartesian descriptor that place the tool and the track are finite. -/
def cartFinite (s : State) (h : Half) (j i : Nat) : Bool :=
  let track := match trackTarget s h j i with
    | none => true
    | some _ => f32Finite (segWord s h j i (if segType s h j i = 2 then 0x34 else 0x24))
  track && (match segType s h j i with
    | 2 => (segWords s h j i 0x18 3).all f32Finite
    | 3 => (segWords s h j i 0x18 3).all f32Finite && (segWords s h j i 0x34 3).all f32Finite
    | _ => (List.range (knotCount s h j i)).all (fun n =>
        decide (n = 0) || (List.range 3).all (fun w => f32Finite (knotWord s h j i 7 n w))))

/-! The place on a path. -/

/-- A length in 2^-64, and a path parameter as a real number. -/
def fineOfFx (x : Fx) : Int := x / 2 ^ 96
def fxOfFine (x : Int) : Fx := x * 2 ^ 96

/-- The length of descriptor i from a start, whether its path unit is the metre, and a spline's arcs (R91). -/
def segLength (s : State) (h : Half) (j i : Nat) (a : SegStart) : Int × Bool × List Fx :=
  let e := cartEnd s h j i
  match segType s h j i with
  | 2 => if translates a.pose.p e.p then (fineOfFx (e.p.sub a.pose.p).len, true, []) else (fineOfFx (turnOf a.pose.q e.q).2, false, [])
  | 3 =>
    let c := circleOf a.pose.p (segPoint s h j i 0x34) e.p
    (fineOfFx (fxMul c.r c.angle), true, [])
  | 4 =>
    let l := splineArcs s h j i a.pose
    (fineOfFx (l.foldl (· + ·) 0), true, l)
  | _ => (fineUnit, false, [])

/-- The beginning of descriptor i at a start with speed v. -/
def placeAt (s : State) (h : Half) (j i : Nat) (a : SegStart) (v : Int) : PathAt :=
  let l := segLength s h j i a
  { idx := i, s := 0, sd := v, sdd := 0, len := l.1, metre := l.2.1, start := a, arcs := l.2.2 }

/-- The pose of a Cartesian segment at a place. -/
def cartAt (s : State) (h : Half) (j : Nat) (a : PathAt) : CartAt :=
  let x := fxOfFine a.s
  let len := fxOfFine a.len
  let e := cartEnd s h j a.idx
  let p := match segType s h j a.idx with
    | 2 => lineAt a.start.pose e len x
    | 3 => circleAt a.start.pose e (segPoint s h j a.idx 0x34) len x
    | _ => splineAt s h j a.idx a.start.pose a.arcs x
  match trackTarget s h j a.idx with
  | none => { p with track := a.start.track, trackD := 0 }
  | some t => { p with track := a.start.track + fxMul (fxDiv x len) (t - a.start.track), trackD := fxDiv (t - a.start.track) len }

/-- The branch flags of descriptor i (R90). -/
def segBranch (s : State) (h : Half) (j i : Nat) : Nat := segWord s h j i 0 / 2 ^ 10 % 8
def branchOf (b : Nat) : Branch := ⟨bitOf b 0, bitOf b 1, bitOf b 2⟩

/-- Where the segment of a place ends (R91): the joints of a Cartesian end are those of its branch near the last sample. -/
def placeEnd (s : State) (h : Half) (j : Nat) (a : PathAt) (near : List Nat) : SegStart :=
  let n := armJoints s h j
  match segType s h j a.idx with
  | 0 => startAt s h j (segWords s h j a.idx 0x18 n)
  | 1 => startAt s h j ((List.range n).map (fun w => knotWord s h j a.idx n (knotCount s h j a.idx - 1) w))
  | _ =>
    let e := cartEnd s h j a.idx
    let pose : Pose := if segType s h j a.idx = 2 && !translates a.start.pose.p e.p then ⟨a.start.pose.p, e.q⟩ else e
    let track := (trackTarget s h j a.idx).getD a.start.track
    let q := match (armModel s h j 0).ik pose track (branchOf (segBranch s h j a.idx)) (fxList near) with
      | none => near
      | some r => patList r.1
    ⟨q, pose, track⟩

/-! Motion along the path (R93, R94). -/

/-- A binary32 limit of a segment in units of 2^-64, at least one of them. -/
def segLimit (s : State) (h : Half) (j i off : Nat) : Int := maxI 1 (f32Ratio (segWord s h j i off) * fineUnit / f32Den)

/-- V, A and J of a segment. -/
def segLimits (s : State) (h : Half) (j i : Nat) : Limits :=
  ⟨segLimit s h j i 8, segLimit s h j i 12, segLimit s h j i 12, segLimit s h j i 16⟩

/-- FLY may join the successor to the segment of a place (R93): accepted, without a hoist, and both have path unit m. -/
def flyNext (s : State) (h : Half) (j : Nat) (a : PathAt) : Bool :=
  let n := (a.idx + 1) % 128
  let t := segType s h j n
  a.metre && decide (n ≠ s.fld (ARM.addr h j) ARM.Q_ACK) && decide (segHoist s h j n = 0) &&
    (decide (3 ≤ t) || (decide (t = 2) && translates (cartEnd s h j a.idx).p (cartEnd s h j n).p))

/-- The speed at the end of the segment of a place (R93): with FLY and a successor to join, the least of V_END and the V of
both, else 0. -/
def endSpeed (s : State) (h : Half) (j : Nat) (a : PathAt) : Int :=
  if segFlag s h j a.idx 0 && flyNext s h j a then
    maxI 0 (minI (f32Ratio (segWord s h j a.idx 0x14) * fineUnit / f32Den)
      (minI (segLimit s h j a.idx 8) (segLimit s h j ((a.idx + 1) % 128) 8)))
  else 0

/-- The fastest motion from a place to the end of its segment. -/
def placePlan (s : State) (h : Half) (j : Nat) (a : PathAt) (v : Int) : List Phase :=
  goalPlan (segLimits s h j a.idx) (fineNs (s.periodNs h)) ⟨a.s, a.sd, a.sdd⟩ (.pos a.len v)

/-- The place a path time dt ahead on the nominal profile of the accepted segments, up to one that waits for a hoist; n bounds
the segments passed. near: the joints of the last sample. -/
def placeAhead (s : State) (h : Half) (j : Nat) (near : List Nat) : Nat → Int → PathAt → PathAt
  | 0, _, a => a
  | n + 1, dt, a =>
    let v := endSpeed s h j a
    let plan := placePlan s h j a v
    let t := planTime plan
    if dt < t then
      let y := SetPoint.after ⟨a.s, a.sd, a.sdd⟩ dt plan
      { a with s := minI a.len (maxI a.s y.p), sd := y.v, sdd := y.a }
    else
      let i := (a.idx + 1) % 128
      if i = s.fld (ARM.addr h j) ARM.Q_ACK ∨ segHoist s h j i ≠ 0 then { a with s := a.len, sd := 0, sdd := 0 }
      else placeAhead s h j near n (dt - t) (placeAt s h j i (placeEnd s h j a near) v)

/-- Where an arm stands on its queue: at its running segment, or at the start of the head of the queue. -/
def headPlace (s : State) (h : Half) (j : Nat) : PathAt :=
  let u := s.arm h j
  let x := armState s h j
  if u.running then u.place
  else if 1 ≤ x ∧ x ≤ 4 then placeAt s h j (s.fld (ARM.addr h j) ARM.Q_RD) u.place.start 0
  else placeAt s h j (s.fld (ARM.addr h j) ARM.Q_RD) (startAt s h j (presentJoints s h j)) 0

/-- The start of the segment n places after the head of the queue. -/
def segPlaceOf (s : State) (h : Half) (j : Nat) : Nat → PathAt
  | 0 => headPlace s h j
  | n + 1 =>
    let a := segPlaceOf s h j n
    placeAt s h j ((a.idx + 1) % 128) (placeEnd s h j a (s.arm h j).q) 0

/-- The joints at a place on the path, near joints given (R172): of a joint segment directly, of a Cartesian one by the analytic
solution on its branch, or by one iteration for type 4. -/
def jointsAt (s : State) (h : Half) (j : Nat) (near : List Fx) (a : PathAt) : List Fx :=
  if segType s h j a.idx ≤ 1 then
    (segJoints s h j a.idx a.s a.start.q).map (fun x => fxDiv x.q x.den)
  else
    let m := armModel s h j 0
    let c := cartAt s h j a
    if 4 ≤ m.geometry then (m.iterate c.pose 1 near).1
    else (m.analytic c.pose c.track (branchOf (segBranch s h j a.idx)) near).getD near

/-- The joint rates at a place at sigma 1.0. -/
def ratesAt (s : State) (h : Half) (j : Nat) (q : List Fx) (a : PathAt) : List Fx :=
  let v := fxOfFine a.sd
  if segType s h j a.idx ≤ 1 then
    (segJoints s h j a.idx a.s a.start.q).map (fun x => fxMul (fxDiv x.d1 x.den) v)
  else
    let m := armModel s h j 0
    let c := cartAt s h j a
    m.rates (m.jac (m.frames q)) (smulL v c.d1) (fxMul v c.trackD)

/-! The checks of the queue (R92). -/

/-- A circle from a to c through b is degenerate: c within 1 um of a, or b within 1 um of the line. -/
def circleBad (a b c : V3) : Bool :=
  !translates a c || decide (((b.sub a).cross (c.sub a)).sq * 10 ^ 12 < (c.sub a).sq)

/-- Where descriptor i ends as its words alone give it. -/
def endPoint (s : State) (h : Half) (j i : Nat) : V3 :=
  let n := armJoints s h j
  match segType s h j i with
  | 0 => (poseAt s h j (segWords s h j i 0x18 n)).p
  | 1 => (poseAt s h j ((List.range n).map (fun w => knotWord s h j i n (knotCount s h j i - 1) w))).p
  | _ => (cartEnd s h j i).p

/-- The code with which descriptor i fails (R92), 0 where it passes. first: no segment stands before it, and it starts at the
present set-point. -/
def segCheck (s : State) (h : Half) (j i : Nat) (first : Bool) : Nat :=
  let t := segType s h j i
  let n := armJoints s h j
  let quats :=
    if t = 2 ∨ t = 3 then quatOk (segWords s h j i 0x24 4)
    else if t = 4 then
      !knotsOk s h j i || (List.range (knotCount s h j i)).all (fun x =>
        decide (x = 0) || quatOk ((List.range 4).map (fun w => knotWord s h j i 7 x (3 + w))))
    else true
  let joints :=
    if t = 0 then (List.range n).all (fun x => jointInRange s h j x (segWord s h j i (0x18 + 4 * x)))
    else if t = 1 then
      !knotsOk s h j i || (List.range (knotCount s h j i)).all (fun x =>
        decide (x = 0) || (List.range n).all (fun w => jointInRange s h j w (knotWord s h j i n x w)))
    else true
  let from_ (_ : Unit) : V3 := if first then (poseAt s h j (presentJoints s h j)).p else endPoint s h j ((i + 127) % 128)
  if 4 < t then 1
  else if !(f32Positive (segWord s h j i 8) && f32Positive (segWord s h j i 12) && f32Positive (segWord s h j i 16)) then 2
  else if !quats then 3
  else if t = 3 && circleBad (from_ ()) (segPoint s h j i 0x34) (segPoint s h j i 0x18) then 4
  else if !joints then 5
  else if (t = 1 ∨ t = 4) ∧ !knotsOk s h j i then 6
  else if 2 ≤ t ∧ n < 6 then 7
  else if 8 ≤ segPayload s h j i ∧ segPayload s h j i ≤ 14 then 8
  else 0

/-- A descriptor is refused: Q_ERR, SEG_REFUSED, event 115; ARM.STATE of an arm that is idle or aborted shows the queue error, of
one that moves or is stopped when its path has come to its end or is flushed. DESIGN CHOICE (log entry 129). -/
def segRefuse (s : State) (h : Half) (j i code : Nat) : State :=
  let b := ARM.addr h j
  let s := ((s.setFld b ARM.ERR_IDX (i % 128)).setFld b ARM.ERR_CODE code).setFlag b ARM.SEG_REFUSED
  let s := if armState s h j = 0 ∨ armState s h j = 6 then s.setFld b ARM.STATE 7 else s
  raiseEvt s h 115

/-- The new descriptors are checked in order; n of them remain. -/
def checkQueue (s : State) (h : Half) (j : Nat) : Nat → State
  | 0 => s
  | n + 1 =>
    let b := ARM.addr h j
    let i := s.fld b ARM.Q_ACK
    match segCheck s h j i (decide (i = s.fld b ARM.Q_RD)) with
    | 0 =>
      let u := s.arm h j
      let s := s.setArm h j { u with zones := u.zones.filter (fun z => z.seg != i % 64),
                                     scanned := u.scanned.filter (fun x => x != i % 64) }
      checkQueue (s.setFld b ARM.Q_ACK ((i + 1) % 128)) h j n
    | c => segRefuse s h j i c

/-- A write of Q_WR (R92). One that comes while ERR_CODE is set is not stored; code 9 names Q_ACK; the new descriptors are those
from Q_ACK up to the index written, modulo 128. DESIGN CHOICE (log entry 129). -/
def qwrWrite (s : State) (h : Half) (j v : Nat) : State :=
  let b := ARM.addr h j
  let v := v % 128
  if s.fld b ARM.ERR_CODE ≠ 0 then s
  else if 64 < (v + 128 - s.fld b ARM.Q_RD) % 128 then segRefuse s h j (s.fld b ARM.Q_ACK) 9
  else
    let s := s.setFld b ARM.Q_WR v
    checkQueue s h j ((v + 128 - s.fld b ARM.Q_ACK) % 128)

end Sys2Proof.Machine
end

