-- ==== Sys2Proof/Machine/Image.lean ====
section
/-! DEFINITION. Configuration images (R434 to R437): header, section table and their checks. An image is a list of cells
whose addresses count from the header's start. -/
namespace Sys2Proof.Machine

/-- The number in n bytes at an offset of an image, little-endian. -/
def imgN (m : List Host.Cell) (off : Nat) : Nat → Nat
  | 0 => 0
  | n + 1 => imgN m off n + (storeGet (0 : Byte) m (off + n)).toNat * 2 ^ (8 * n)

/-- n bytes of an image from an offset. -/
def imgBytes (m : List Host.Cell) (off : Nat) : Nat → List Byte
  | 0 => []
  | n + 1 => storeGet 0 m off :: imgBytes m (off + 1) n

/-- A section-table entry (R436). -/
structure Section where
  typ : Nat
  inst : Nat
  off : Nat
  len : Nat
  crc : Nat
  deriving DecidableEq, Repr

def imgNSect (m : List Host.Cell) : Nat := imgN m 0x0C 2
def imgLen (m : List Host.Cell) : Nat := imgN m 0x08 4
def imgGen (m : List Host.Cell) : Nat := imgN m 0x10 4
def imgReady (m : List Host.Cell) : Nat := imgN m 0x28 4
def imgCl (m : List Host.Cell) : Nat := imgN m 0x06 1
def imgClCap (m : List Host.Cell) : Nat := imgN m 0x07 1
def imgPairCrc (m : List Host.Cell) : Nat := imgN m 0x24 4

/-- The section table. -/
def imgSections (m : List Host.Cell) : List Section :=
  (List.range (Nat.min (imgNSect m) 64)).map (fun i =>
    let b := 0x40 + 32 * i
    ⟨imgN m b 1, imgN m (b + 1) 1, imgN m (b + 4) 4, imgN m (b + 8) 4, imgN m (b + 12) 4⟩)

/-- The header is valid (R434): MAGIC, FORMAT, HCRC, N_SECT and IMAGE_LEN; READY is asked for by the caller. -/
def imgHeaderOk (m : List Host.Cell) : Bool :=
  let n := imgNSect m
  let hdr := imgBytes m 0 0x10 ++ [0, 0, 0, 0] ++ imgBytes m 0x14 0x14 ++ [0, 0, 0, 0] ++ imgBytes m 0x2C 0x10
  decide (imgN m 0 4 = 0x59454B4A ∧ imgN m 4 2 = 1) && decide (imgN m 0x3C 4 = crc32c hdr) &&
  decide (1 ≤ n ∧ n ≤ 64) && decide (0x40 + 32 * n ≤ imgLen m ∧ imgLen m ≤ 0x8000000)

/-- TABLE_CRC is correct. -/
def imgTableOk (m : List Host.Cell) : Bool :=
  decide (imgN m 0x20 4 = crc32c (imgBytes m 0x40 (32 * imgNSect m)))

/-- Every section CRC is correct. -/
def imgSectionsOk (m : List Host.Cell) : Bool :=
  (imgSections m).all (fun x => decide (x.len ≤ 0x8000000) && decide (x.crc = crc32c (imgBytes m x.off x.len)))

/-- The entry of a type and instance, if any. -/
def imgFind (m : List Host.Cell) (typ inst : Nat) : Option Section :=
  (imgSections m).find? (fun x => decide (x.typ = typ ∧ x.inst = inst))

/-- The bytes of a section, its addresses counted from its start. -/
def imgSectionCells (m : List Host.Cell) (x : Section) : List Host.Cell := storeSlice m x.off x.len

end Sys2Proof.Machine
end

