-- ==== Sys2Proof/Machine/Servo.lean ====
section
/-! DEFINITION. Deadline slack, the rail of a half, and the late counters (R44 to R48, R464, R465). -/
namespace Sys2Proof.Machine

/-- The kind of a required result (LAST_SRC): 1 feed-forward, 2 inverse kinematics, 3 governor, 4 momentum observer;
none for an item that is no required work. -/
def itemKind (cfg : ModuleCfg) (i : Nat) : Option Nat :=
  if cfg.dynItems.contains i then some 1
  else if cfg.ikItems.contains i then some 2
  else if cfg.govItem = i then some 3
  else if cfg.obsItems.contains i then some 4
  else none

/-- The smaller slack; on equal slack the lower kind. -/
def minSlack (o : Option (Int × Nat)) (sl : Int) (kind : Nat) : Int × Nat :=
  match o with
  | none => (sl, kind)
  | some (x, k) => if sl < x then (sl, kind) else if sl = x then (x, Nat.min k kind) else (x, k)

/-- The torque of an axis stands in its SET frame buffer. -/
def bufferTorque (s : State) (h : Half) (k : Nat) : State :=
  let c := s.ce h k
  s.setCe h k { c with bufTq := c.setTq, bufEn := c.setEn }

/-- The axes of one of the engine's four lanes that are still to be written, without the first n of them (R114). -/
def laneRest (l : List Nat) (lane n : Nat) : List Nat := (l.filter (fun k => k % 4 = lane)).drop n

/-- A SET frame starts while the engine computes (R46, R114): each lane has written a number of its axes, which is a free value.
A torque that is not written yet makes the engine's result late. DESIGN CHOICE (log entry 38). -/
def lanesAtSet (s : State) (h : Half) : State :=
  let u := s.servo h
  if u.ceLeft.isEmpty then s
  else
    let w := s.takeFree
    let rest := (List.range 4).flatMap (fun i => laneRest u.ceLeft i (w.1.toNat / 64 ^ i % 64))
    let s := (u.ceLeft.filter (fun k => !rest.contains k)).foldl (fun s k => bufferTorque s h k) w.2
    s.setServo h { s.servo h with ceLeft := u.ceLeft.filter (fun k => rest.contains k), ceLate := u.ceLate || !rest.isEmpty }

/-- A required result of a kind completes with a slack in ns (R44). DESIGN CHOICE (log entry 39). -/
def noteSlack (s : State) (h : Half) (kind : Nat) (sl : Int) : State :=
  let u := s.servo h
  s.setServo h { u with slack := some (minSlack u.slack sl kind) }

/-- A required result is abandoned: S_n is the most negative value (R44). -/
def noteAbandoned (s : State) (h : Half) (i : Nat) : State :=
  match itemKind s.cfg i with
  | none => s
  | some k =>
    let u := s.servo h
    s.setServo h { u with abandoned := some (match u.abandoned with | none => k | some j => Nat.min j k) }

/-- A slack in ns as SLACK_LAST reports it: 8 ns units rounded down, saturated at 0x7F_FFFF and -0x7F_FFFF. -/
def slackUnits (sl : Int) : Int := clampI (-0x7FFFFF) 0x7FFFFF (sl / 8)

/-- S_n of the finished period in 8 ns units with its source, if a required result completed or was abandoned. -/
def slackReport (u : ServoUnit) : Option (Int × Nat) :=
  match u.abandoned with
  | some k => some (-0x800000, k)
  | none => u.slack.map (fun x => (slackUnits x.1, x.2))

/-- A ring of the image has a section. -/
def ringConfigured (s : State) (r : Nat) : Bool :=
  match s.image with
  | none => false
  | some i => (imgFind i.cells 5 r).isSome

/-- An image is in use that configures no ring. -/
def noRing (s : State) : Bool := s.image.isSome && !(List.range 8).any (fun r => ringConfigured s r)

/-- t_cw_start and the earliest t_set from T_n, in ns; without a ring they are 0 and P - t_lead (R464). -/
def cwStartNs (s : State) (h : Half) : Nat := if noRing s then 0 else 8 * s.fld (SYS.addr h) SYS.CW_START
def cwEndNs (s : State) (h : Half) : Nat := if noRing s then s.periodNs h - 2000 else 8 * s.fld (SYS.addr h) SYS.CW_END

/-- The compute window of a module without a ring (R464). CW_END is P - t_lead in units of 8 ns rounded down: at a period of
62.5 us it is no whole number of them, and R464 states no rounding. DESIGN CHOICE (log entry 128). -/
def noRingWindow (s : State) (h : Half) : State :=
  if noRing s then (s.setFld (SYS.addr h) SYS.CW_START 0).setFld (SYS.addr h) SYS.CW_END ((s.periodNs h - 2000) / 8) else s

/-- S_n in SLACK and SLACK_MIN (R44). DESIGN CHOICE (log entry 39). -/
def reportSlack (s : State) (h : Half) (sl : Int) (src : Nat) : State :=
  let b := SYS.addr h
  let s := (s.setFldS b SYS.SLACK_LAST sl).setFld b SYS.LAST_SRC src
  let m := s.fldS b SYS.SLACK_MIN
  if sl < m then (s.setFldS b SYS.SLACK_MIN sl).setFld b SYS.MIN_SRC src
  else if sl = m then s.setFld b SYS.MIN_SRC (Nat.min src (s.fld b SYS.MIN_SRC))
  else s

/-- The power manager's reaction to S_n in ns, none for an abandoned result (R45): the rail is raised, or held at
0.90 V with AT_MAX and the slack-low event; periods with slack to spare are counted toward a lowering. -/
def steerRail (s : State) (h : Half) (sl : Option Int) : State :=
  let b := HPWR.addr h
  let u := s.servo h
  let w : Int := (cwEndNs s h : Int) - (cwStartNs s h : Int)
  let pct : Int := (s.fld b HPWR.MARGIN_PCT : Int)
  let low := match sl with | none => true | some x => decide (100 * x < pct * w)
  let good := match sl with | none => false | some x => decide (2 * pct * w ≤ 100 * x)
  if s.flag b HPWR.FIX_MAX then (s.setFld b HPWR.RAIL_MV 900).setServo h { u with goodRun := 0 }
  else if low then
    let mv := s.fld b HPWR.RAIL_MV
    if mv < 900 then
      ((s.setFld b HPWR.RAIL_MV (Nat.min 900 (mv + 10))).putFlag b HPWR.AT_MAX false).setServo h { u with goodRun := 0 }
    else
      let s := (s.putFlag b HPWR.AT_MAX true).count (SYS.addr h) SYS.SLACK_LOW_CNT
      let s := s.setServo h { u with goodRun := 0, lowArmed := false }
      raiseIf s u.lowArmed h 2
  else
    (s.putFlag b HPWR.AT_MAX false).setServo h { u with lowArmed := true, goodRun := if good then Nat.min 1024 (u.goodRun + 1) else 0 }

/-- HPWR.PACE as the pace sensors of a half measure it in a period (R45, R465): a free value, at least 0x0100 while the half
is not above 105 C. DESIGN CHOICE (log entry 125). -/
def measurePace (s : State) (h : Half) : State :=
  let w := s.takeFree
  let x := w.1.toNat % 2 ^ 16
  w.2.setFld (HPWR.addr h) HPWR.PACE (if s.pen.warm.getD (halfIdx h) false then x else Nat.max 0x100 x)

/-- The rail from which a half starts that becomes active: what its pace sensors call for, a free value within the range of
the rail (R465). DESIGN CHOICE (log entry 125). -/
def paceRail (s : State) (h : Half) : State :=
  if s.flag (HPWR.addr h) HPWR.FIX_MAX then s
  else
    let w := s.takeFree
    w.2.setFld (HPWR.addr h) HPWR.RAIL_MV (750 + w.1.toNat % 151)

/-- The end of a servo period: S_n is reported, the pace measured and the rail steered; a period in which no required result
completed leaves report and rail (R44, R45). DESIGN CHOICE (log entry 39). -/
def endPeriod (s : State) (h : Half) : State :=
  let s := measurePace s h
  let u := s.servo h
  let s :=
    match slackReport u with
    | none => s
    | some (x, src) =>
      steerRail (reportSlack s h x src) h (match u.abandoned with | some _ => none | none => u.slack.map Prod.fst)
  s.setServo h { s.servo h with slack := none, abandoned := none }

/-- The rail is lowered by 5 mV after 1,024 consecutive periods with S_n at least 2M (R45). -/
def lowerRail (s : State) (h : Half) : State :=
  let b := HPWR.addr h
  let u := s.servo h
  if u.goodRun < 1024 ∨ s.flag b HPWR.FIX_MAX then s
  else (s.setFld b HPWR.RAIL_MV (Nat.max 750 (s.fld b HPWR.RAIL_MV - 5))).setServo h { u with goodRun := 0 }

/-- A write of HPWR.STEER: FIX_MAX holds the rail at 0.90 V and suspends R45. -/
def fixMax (s : State) (h : Half) : State :=
  if s.flag (HPWR.addr h) HPWR.FIX_MAX then
    (s.setFld (HPWR.addr h) HPWR.RAIL_MV 900).setServo h { s.servo h with goodRun := 0 }
  else s

/-- An item the module releases at an instant with a deadline on servo time (R326, R41). -/
def releaseWork (s : State) (h : Half) (i at_ deadline : Nat) : State :=
  postAt s h i at_ (some deadline) causeModule

/-- A write of SYS.SP_CTRL (R44, R47): CLR_MIN and CLR_CNT. -/
def spCtrl (s : State) (h : Half) (v : Nat) : State :=
  let b := SYS.addr h
  let s := if bitOf v 0 then s.setFld b SYS.SLACK_MIN 0x7FFFFF else s
  if bitOf v 1 then (s.setWordN (b + 0x124) 0).setWordN (b + 0x128) 0 else s

end Sys2Proof.Machine
end

