-- ==== Sys2Proof/Machine/SolverMath.lean ====
section
/-! DEFINITION. Arithmetic of the solver array (R145 to R148): binary32 with a wide accumulator, pivots, factorisation,
triangular solution and refinement. Matrices are lists of patterns, column-major (R151). -/
namespace Sys2Proof.Machine

/-- What a problem has met so far: overflow, underflow, the first replaced pivot and how many. -/
structure SolveFlags where
  ovf : Bool
  unf : Bool
  reg : Option Nat
  regs : Nat
  deriving DecidableEq, Repr

def SolveFlags.none : SolveFlags := ⟨false, false, .none, 0⟩

/-- A computation that may raise the flags of a problem. -/
abbrev SolveM := StateM SolveFlags

/-- Element (i, j) of a matrix of r rows. -/
def mget (a : List Nat) (r i j : Nat) : Nat := a.getD (j * r + i) 0

/-- The exact value of a pattern as mantissa and exponent; what is no number counts as 0. -/
def valP (p : Nat) : Int × Int :=
  match (f32Of p).1 with
  | .fin s m e => (sgnM s m, e)
  | _ => (0, 0)

/-- An operand as the array reads it (R146): its pattern, whether it is NaN or infinite, whether it was subnormal. -/
def canonIn (w : Nat) : Nat × Bool × Bool :=
  match f32Of w with
  | (.nan _, _) => (0, true, false)
  | (.inf _, _) => (0, true, false)
  | (.zero _, sub) => (0, false, sub)
  | (.fin _ _ _, _) => (w, false, false)

/-- Every operand of a list, whether one is not finite, whether one was subnormal. -/
def canonIns (l : List Nat) : List Nat × Bool × Bool :=
  let r := l.map canonIn
  (r.map (fun x => x.1), r.any (fun x => x.2.1), r.any (fun x => x.2.2))

/-- |p| as a multiple of 2^-149. -/
def magP (p : Nat) : Nat :=
  match (f32Of p).1 with
  | .fin _ m e => m * 2 ^ (e + 149).toNat
  | _ => 0

/-- The largest magnitude of a list, as a pattern (the infinity norm). -/
def normInf : List Nat → Nat
  | [] => 0
  | p :: t => Nat.max (p % 2 ^ 31) (normInf t)

/-- A rounded result under R146: overflow gives the largest finite value, underflow and zero give +0. -/
def settleF (r : Rounded) : SolveM Nat := do
  if r.exceeds then
    modify (fun f => { f with ovf := true })
    pure (f32Max (bitOf r.pat 31))
  else if r.under then
    modify (fun f => { f with unf := true })
    pure 0
  else if r.pat = f32Zero true then pure 0 else pure r.pat

/-- An exact value rounded to binary32 once. -/
def store32 (x : Int × Int) : SolveM Nat :=
  if x.1 = 0 then pure 0 else settleF (roundF32 (decide (x.1 < 0)) x.1.natAbs x.2)

/-- The accumulator's significand of 64 bits (R145). -/
def wide (x : Int × Int) : Int × Int :=
  let b := Nat.log2 x.1.natAbs
  if b ≤ 63 then x
  else
    let k := b - 63
    (sgnM (decide (x.1 < 0)) (shiftEven x.1.natAbs k), x.2 + k)

/-- acc plus the products of the pairs, in the order of the list, negated where neg. DEDUCED (log entry 64). -/
def wideDot (neg : Bool) : List (Nat × Nat) → Int × Int → Int × Int
  | [], acc => acc
  | (a, b) :: t, acc =>
    let x := valP a
    let y := valP b
    let p := x.1 * y.1
    wideDot neg t (wide (addExact acc (if neg then -p else p, x.2 + y.2)))

/-- c minus a dot product, rounded when it is stored. -/
def minusDot (c : Nat) (l : List (Nat × Nat)) : SolveM Nat := store32 (wideDot true l (valP c))

/-- a / b; b is not zero. -/
def div32 (a b : Nat) : SolveM Nat :=
  let x := valP a
  let y := valP b
  if x.1 = 0 then pure 0
  else settleF (roundRat (decide (x.1 < 0) != decide (y.1 < 0)) x.1.natAbs y.1.natAbs (x.2 - y.2))

/-- The square root of a positive pattern. -/
def sqrt32 (a : Nat) : SolveM Nat :=
  let x := valP a
  settleF (sqrtRound x.1.natAbs x.2)

/-- a * b, a + b and a - b, each rounded at once. -/
def mul32 (a b : Nat) : SolveM Nat :=
  let x := valP a
  let y := valP b
  store32 (x.1 * y.1, x.2 + y.2)

def add32 (a b : Nat) : SolveM Nat := store32 (addExact (valP a) (valP b))

/-- The smallest normal number. -/
def minNormal : Nat := 0x00800000

/-- t of R148: 2^tau times the reference, at least 2^-126; the reference as a pattern that is not negative. -/
def pivotLimit (tau : Int) (maxDiag : Nat) : Nat :=
  if maxDiag = 0 ∨ bitOf maxDiag 31 then minNormal
  else if ((maxDiag / 2 ^ 23 : Nat) : Int) + tau < 1 then minNormal
  else (((maxDiag : Nat) : Int) + tau * 2 ^ 23).toNat

/-- A pivot is replaced: REGULARIZED, the first row, the count. -/
def noteReg (row : Nat) : SolveM Unit :=
  modify (fun f => { f with reg := f.reg <|> some row, regs := f.regs + 1 })

/-- A pivot under the square root: replaced by t where it is not above t (R148). -/
def pivotPos (t row d : Nat) : SolveM Nat := do
  if bitOf d 31 ∨ d ≤ t then
    noteReg row
    pure t
  else pure d

/-- A signed pivot: replaced by t with its sign where its magnitude is not above t (R148). -/
def pivotSgn (t row d : Nat) : SolveM Nat := do
  if d % 2 ^ 31 ≤ t then
    noteReg row
    pure (if bitOf d 31 then t + 2 ^ 31 else t)
  else pure d

/-- The largest of the diagonal of the input, 0 where none is positive (LLᵀ). -/
def maxDiagPos (a : List Nat) (n : Nat) : Nat :=
  (List.range n).foldl (fun m i => if bitOf (mget a n i i) 31 then m else Nat.max m (mget a n i i)) 0

/-- The largest magnitude of the diagonal. -/
def maxDiagAbs (a : List Nat) (n : Nat) : Nat := normInf ((List.range n).map (fun i => mget a n i i))

/-- One column of the LLᵀ factor: the columns before it stand in l. -/
def cholCol (a : List Nat) (n t : Nat) (l : List Nat) (j : Nat) : SolveM (List Nat) := do
  let ks := List.range j
  let d ← minusDot (mget a n j j) (ks.map (fun k => (mget l n j k, mget l n j k)))
  let d ← pivotPos t j d
  let r ← sqrt32 d
  let l := l.set (j * n + j) r
  ((List.range n).filter (fun i => decide (j < i))).foldlM (fun l i => do
    let v ← minusDot (mget a n i j) (ks.map (fun k => (mget l n i k, mget l n j k)))
    let q ← div32 v r
    pure (l.set (j * n + i) q)) l

/-- The LLᵀ factor, lower triangle; zeros above. DEDUCED (log entry 64). -/
def cholF (a : List Nat) (n t : Nat) : SolveM (List Nat) :=
  (List.range n).foldlM (cholCol a n t) (List.replicate (n * n) 0)

/-- A pivot of a sparse factorisation: replaced by t with the row's expected sign where its magnitude is not above t or its sign
is another (R148). -/
def pivotSigned (t row : Nat) (neg : Bool) (d : Nat) : SolveM Nat := do
  if d % 2 ^ 31 ≤ t ∨ bitOf d 31 ≠ neg then
    noteReg row
    pure (if neg then t + 2 ^ 31 else t)
  else pure d

/-- One column of the LDLᵀ factor: L below the diagonal, D on it; pivot settles the pivot of a row. -/
def ldltCol (a : List Nat) (n : Nat) (pivot : Nat → Nat → SolveM Nat) (l : List Nat) (j : Nat) : SolveM (List Nat) := do
  let ks := List.range j
  let v ← ks.mapM (fun k => mul32 (mget l n j k) (mget l n k k))
  let d ← minusDot (mget a n j j) (ks.map (fun k => (mget l n j k, v.getD k 0)))
  let d ← pivot j d
  let l := l.set (j * n + j) d
  ((List.range n).filter (fun i => decide (j < i))).foldlM (fun l i => do
    let x ← minusDot (mget a n i j) (ks.map (fun k => (mget l n i k, v.getD k 0)))
    let q ← div32 x d
    pure (l.set (j * n + i) q)) l

/-- The LDLᵀ factor with a rule for its pivots. DEDUCED (log entry 64). -/
def ldltWith (a : List Nat) (n : Nat) (pivot : Nat → Nat → SolveM Nat) : SolveM (List Nat) :=
  (List.range n).foldlM (ldltCol a n pivot) (List.replicate (n * n) 0)

/-- The dense LDLᵀ factor. -/
def ldltF (a : List Nat) (n t : Nat) : SolveM (List Nat) := ldltWith a n (pivotSgn t)

/-- Solve with a lower triangle for one right-hand side; unit takes its diagonal as 1. -/
def lowerSolve (l : List Nat) (n : Nat) (unit : Bool) (b : List Nat) : SolveM (List Nat) :=
  (List.range n).foldlM (fun x i => do
    let v ← minusDot (b.getD i 0) ((List.range i).map (fun k => (mget l n i k, x.getD k 0)))
    let q ← if unit then pure v else div32 v (mget l n i i)
    pure (x.set i q)) (List.replicate n 0)

/-- Solve with the transpose of a lower triangle. -/
def upperSolve (l : List Nat) (n : Nat) (unit : Bool) (b : List Nat) : SolveM (List Nat) :=
  (List.range n).reverse.foldlM (fun x i => do
    let v ← minusDot (b.getD i 0)
      (((List.range n).filter (fun k => decide (i < k))).map (fun k => (mget l n k i, x.getD k 0)))
    let q ← if unit then pure v else div32 v (mget l n i i)
    pure (x.set i q)) (List.replicate n 0)

/-- Solve with a factor: LLᵀ, or LDLᵀ where ldl. -/
def factorSolve (f : List Nat) (n : Nat) (ldl : Bool) (b : List Nat) : SolveM (List Nat) := do
  let y ← lowerSolve f n ldl b
  let z ← if ldl then (List.range n).mapM (fun i => div32 (y.getD i 0) (mget f n i i)) else pure y
  upperSolve f n ldl z

/-- Column c of a matrix of r rows. -/
def column (a : List Nat) (r c : Nat) : List Nat := (a.drop (c * r)).take r

/-- A computation on each of k columns of r rows, put side by side. -/
def perColumn (k r : Nat) (b : List Nat) (f : List Nat → SolveM (List Nat)) : SolveM (List Nat) :=
  (List.range k).foldlM (fun acc c => do
    let x ← f (column b r c)
    pure (acc ++ x)) []

/-! Householder QR (R148, R150, R151). R_kk has the sign opposite to the element it replaces, so that no difference cancels; the
roundings are those of R145. DESIGN CHOICE (log entry 65). -/

/-- The negative of a value; a zero stays +0. -/
def negP (p : Nat) : Nat := if p % 2 ^ 31 = 0 then 0 else if bitOf p 31 then p - 2 ^ 31 else p + 2 ^ 31

def sub32 (a b : Nat) : SolveM Nat := add32 a (negP b)

/-- The Euclidean norm: the root of the wide sum, rounded once. -/
def normTwo (l : List Nat) : SolveM Nat :=
  let x := wideDot false (l.zip l) (0, 0)
  if x.1 ≤ 0 then pure 0 else settleF (sqrtRound x.1.natAbs x.2)

/-- I − τ v vᵀ applied to a vector, v_k = 1 and the rest of v below it. -/
def reflect (k : Nat) (v : List Nat) (tau : Nat) (y : List Nat) : SolveM (List Nat) := do
  let w ← store32 (wideDot false ((0x3F800000, y.getD k 0) :: v.zip (y.drop (k + 1))) (0, 0))
  let tw ← mul32 tau w
  let y0 ← sub32 (y.getD k 0) tw
  let rest ← (v.zip (y.drop (k + 1))).mapM (fun p => minusDot p.2 [(tw, p.1)])
  pure (y.take k ++ y0 :: rest)

/-- A QR factorisation by columns: R on and above the diagonal, the vectors below it, and the scalars τ. -/
structure QrFactor where
  cols : List (List Nat)
  taus : List Nat
  deriving DecidableEq, Repr

/-- Column k is reduced, and the columns after it are reflected. -/
def qrStep (t : Nat) (x : QrFactor) (k : Nat) : SolveM QrFactor := do
  let c := x.cols.getD k []
  let p := c.getD k 0
  let e ← normTwo (c.drop k)
  let r ← pivotSgn t k (if bitOf p 31 then e else negP e)
  let u ← sub32 p r
  let tau ← div32 (negP u) r
  let v ← (c.drop (k + 1)).mapM (fun y => div32 y u)
  let after ← (x.cols.drop (k + 1)).mapM (reflect k v tau)
  pure ⟨x.cols.take k ++ (c.take k ++ r :: v) :: after, x.taus ++ [tau]⟩

/-- The QR factorisation of m rows and n columns; the reference of its pivots is the largest column norm. -/
def qrF (a : List Nat) (m n : Nat) (tau : Int) : SolveM QrFactor :=
  let cols := (List.range n).map (column a m)
  let big := cols.foldl (fun x c => Nat.max x ((normTwo c).run .none).1) 0
  (List.range n).foldlM (qrStep (pivotLimit tau big)) ⟨cols, []⟩

/-- The least-squares solution for one right-hand side: the reflections, then R from below. -/
def qrSolve (q : QrFactor) (b : List Nat) : SolveM (List Nat) := do
  let n := q.taus.length
  let r (i j : Nat) : Nat := (q.cols.getD j []).getD i 0
  let y ← (List.range n).foldlM (fun y k => reflect k ((q.cols.getD k []).drop (k + 1)) (q.taus.getD k 0) y) b
  (List.range n).reverse.foldlM (fun x i => do
    let v ← minusDot (y.getD i 0) (((List.range n).filter (fun k => decide (i < k))).map (fun k => (r i k, x.getD k 0)))
    let z ← div32 v (r i i)
    pure (x.set i z)) (List.replicate n 0)

/-- b − A x for a matrix given by its elements, m rows and n columns (R147, step 1). -/
def residual (el : Nat → Nat → Nat) (m n : Nat) (b x : List Nat) : SolveM (List Nat) :=
  (List.range m).mapM (fun i => minusDot (b.getD i 0) ((List.range n).map (fun j => (el i j, x.getD j 0))))

/-- A symmetric matrix by its lower triangle. -/
def symEl (a : List Nat) (n i j : Nat) : Nat := if i < j then mget a n j i else mget a n i j

/-- The state of refinement: x, the last computed correction's norm, whether it was applied, the passes, whether it
stopped, NOT_CONVERGED. -/
structure Refine where
  x : List Nat
  dx : Nat
  prev : Nat
  passes : Nat
  stop : Bool
  bad : Bool
  deriving DecidableEq, Repr

/-- One pass (R147): force applies the correction without the halving test (R156). tol is a pattern; 0 switches the
tolerance test off. -/
def refinePass (res solve : List Nat → SolveM (List Nat)) (tol : Nat) (force : Bool) (r : Refine) : SolveM Refine := do
  if r.stop then pure r
  else
    let e ← res r.x
    let d ← solve e
    let nd := normInf d
    let r := { r with dx := nd, passes := r.passes + 1 }
    if force ∨ 2 * magP nd ≤ magP r.prev then
      let x ← (r.x.zip d).mapM (fun p => add32 p.1 p.2)
      pure { r with x := x, prev := nd, stop := decide (nd = 0) || (decide (0 < tol) && decide (nd ≤ tol)) }
    else pure { r with stop := true, bad := true }

/-- Refinement from x0, with pass 1 forced where x0 is a warm start (R147, R156). -/
def refine (res solve : List Nat → SolveM (List Nat)) (tol passes : Nat) (warm : Bool) (x0 : List Nat) : SolveM Refine := do
  let start : Refine := ⟨x0, 0, normInf x0, 0, false, false⟩
  let n := if warm then Nat.max passes 1 else passes
  let r ← (List.range n).foldlM (fun r i => refinePass res solve tol (warm && decide (i = 0)) r) start
  pure { r with bad := r.bad || (decide (0 < tol) && decide (0 < r.passes) && decide (tol < r.prev)) }

end Sys2Proof.Machine
end

