-- ==== Sys2Proof/Machine/Arms.lean ====
section
/-! DEFINITION. Arms: ramps of the speed scale, the joint-rate guard, the sample of one period with its kinematics and dynamics,
the observer, hoists, and the arm's commands (R88 to R113). -/
namespace Sys2Proof.Machine

/-! Ramps (R97). -/

/-- A speed scale one period nearer to a target, at a rate in units of 2^-8 per second that has been rising for up to 8
periods. -/
def Ramp.toward (r : Ramp) (target rate p : Nat) : Ramp :=
  if r.val = target then { r with run := 0 }
  else
    let up := decide (r.val < target)
    let run := if r.run ≠ 0 ∧ r.up = up then Nat.min 8 (r.run + 1) else 1
    let step := rate * p * 32768 * run
    { val := if up then Nat.min target (r.val + step) else Nat.max target (r.val - step), run := run, up := up }

/-- The value in the speed-scale format. -/
def Ramp.scale (r : Ramp) : Nat := r.val / 2048000000000

/-- Fine units of a speed-scale value. -/
def fineOf (x : Nat) : Nat := Nat.min x 0x8000 * 2048000000000

/-- PSTOP_RATE or PQSTOP_RATE; 0 counts as 1. -/
def stopRate (s : State) (h : Half) (j : Nat) (quick : Bool) : Nat :=
  Nat.max 1 (s.fld (ARM.addr h j) (if quick then ARM.PQSTOP_RATE else ARM.PSTOP_RATE))

/-! The joint-rate guard and the joint limits (R96, R98). -/

/-- rho^2 as a ratio: the largest of (qd / QD_MAX)^2 and |qdd| / QDD_MAX over the joints. -/
def rhoSq (s : State) (h : Half) (j : Nat) (qd qdd : List Nat) : List (Nat × Nat) :=
  (List.range (armJoints s h j)).flatMap (fun i =>
    let v := (f32Ratio (qd.getD i 0)).natAbs
    let vm := (f32Ratio (jointWord s h j i 0x1C)).natAbs
    let a := (f32Ratio (qdd.getD i 0)).natAbs
    let am := (f32Ratio (jointWord s h j i 0x20)).natAbs
    [(v * v, vm * vm), (a, am)])

/-- The largest of a list of ratios. -/
def maxRatio : List (Nat × Nat) → Nat × Nat
  | [] => (0, 1)
  | x :: t =>
    let y := maxRatio t
    if y.1 * x.2 < x.1 * y.2 then x else y

/-- kappa after a sample (R96). -/
def guardStep (s : State) (h : Half) (j : Nat) (qd qdd : List Nat) : State :=
  let b := ARM.addr h j
  let u := s.arm h j
  let g := s.fld b ARM.GUARD
  let p := s.periodNs h
  let r := maxRatio (rhoSq s h j qd qdd)
  let k :=
    if g * g * r.2 < 10000 * r.1 then
      u.kappa.toward (isqrt (u.kappa.val * u.kappa.val * g * g * r.2 / (10000 * r.1))) (stopRate s h j true) p
    else if 1000000 * r.1 < 81 * g * g * r.2 then u.kappa.toward fineOne (stopRate s h j false) p
    else { u.kappa with run := 0 }
  let s := s.setArm h j { u with kappa := k }
  (s.setFld b ARM.KAPPA k.scale).putFlag b ARM.GUARD_ACT (decide (k.val < fineOne))

/-- A joint sample outside Q_MIN to Q_MAX aborts the path (R98). -/
def limitCheck (s : State) (h : Half) (j : Nat) (q : List Nat) : State :=
  if (List.range (armJoints s h j)).all (fun i => jointInRange s h j i (q.getD i 0)) then s
  else jointStop (s.setFlag (ARM.addr h j) ARM.Q_LIMIT) h j true

/-! Blocks and samples (R42, R108). -/

/-- The joint set-point block of a sample with a tag, converted by R86. -/
def writeJs (s : State) (h : Half) (j tag : Nat) (q : List Nat) : State :=
  let ps := (List.range (armJoints s h j)).map (fun i => jointToAxis s h j i (q.getD i 0))
  let u := s.arm h j
  let s := s.setArm h j { u with js := (⟨tag, ps.map (fun x => x.1)⟩ :: u.js.filter (fun b => b.tag != tag)).take 4 }
  s.flagIf (ps.any (fun x => x.2)) (ARM.addr h j) ARM.FF_SAT

/-- A feed-forward block takes its place, newest first. -/
def putFf (l : List FfBlock) (b : FfBlock) : List FfBlock := (b :: l.filter (fun x => x.tag != b.tag)).take 4

/-- The feed-forward block of a period with a tag; a flagged problem repeats the values of the block before (R109). -/
def writeFf (s : State) (h : Half) (j tag : Nat) (tq im : List Nat) (flagged : Bool) : State :=
  let b := ARM.addr h j
  let u := s.arm h j
  if flagged then
    let old := u.ff.headD ⟨0, [], []⟩
    let s := s.setArm h j { u with ff := putFf u.ff { old with tag := tag }, flagRun := if 100 ≤ u.flagRun then 100 else u.flagRun + 1 }
    (s.count b ARM.SOLVER_FLAG_CNT).setFlag b ARM.SOLVER_FLAG
  else
    let ts := (List.range (armJoints s h j)).map (fun i => jointTorque s h j i (tq.getD i 0))
    let ims := (List.range (armJoints s h j)).map (fun i => jointInertia s h j i (im.getD i 0))
    let s := s.setArm h j { u with ff := putFf u.ff ⟨tag, ts.map (fun x => x.1), ims⟩, flagRun := 0 }
    s.flagIf (ts.any (fun x => x.2)) b ARM.FF_SAT

/-- A sample takes its place among the latest ones. -/
def putSample (u : ArmUnit) (x : ArmSample) : ArmUnit :=
  { u with samples := (x :: u.samples.filter (fun y => y.tag != x.tag)).take 4,
           q := if x.done && u.samples.all (fun y => !y.done || decide (y.tag ≤ x.tag)) then x.q else u.q }

/-- A sample of joints, rates and accelerations. -/
def jointSampleOf (tag payload : Nat) (q qd qdd : List Nat) : ArmSample :=
  { tag := tag, cart := false, done := true, q := q, qd := qd, qdd := qdd, pose := .zero, twist := [], acc := [], track := 0,
    trackD := 0, trackDD := 0, branch := 0, finite := true, payload := payload }

/-- The servo time of t_cw_start of the next period, the deadline of the arm's required work (R41). -/
def armDeadline (s : State) (h : Half) : Nat := (s.periodNum h + 1) * s.periodNs h + cwStartNs s h

/-- The dynamics of the sample of a tag are released, with t_cw_start of the period before it as deadline (R108). -/
def releaseDyn (s : State) (h : Half) (j tag : Nat) : State :=
  match s.cfg.dynItems[j]? with
  | none => s
  | some i => releaseWork s h i (s.servoNow h) ((tag - 1) * s.periodNs h + cwStartNs s h)

/-- What follows the joints of a sample: the block, the guard, the limits, and the dynamics (steps 3 to 5). -/
def armTake (s : State) (h : Half) (j : Nat) (x : ArmSample) : State :=
  let s := writeJs (s.setArm h j (putSample (s.arm h j) x)) h j x.tag x.q
  releaseDyn (limitCheck (guardStep s h j x.qd x.qdd) h j x.q) h j x.tag

/-- OBS_HOLD of an arm. -/
def obsHoldOf (s : State) (h : Half) (j : Nat) : Nat := headerByte s h j 0x6A + headerByte s h j 0x6B * 256

/-- The observer re-initialises and suppresses detection for OBS_HOLD periods (R113). -/
def obsRestart (s : State) (h : Half) (j : Nat) : State :=
  s.setArm h j { s.arm h j with obs := .reset, obsHold := obsHoldOf s h j }

/-- A change of payload slot: the observer starts again (R113). -/
def usePayload (s : State) (h : Half) (j p : Nat) : State :=
  let b := ARM.addr h j
  if s.fld b ARM.PAYLOAD_ACT = p then s else obsRestart (s.setFld b ARM.PAYLOAD_ACT p) h j

/-! Dynamics and compliance (R108 to R110). -/

/-- A symmetric matrix as the solver reads it: binary32, column-major. -/
def matPats (m : Mat) : List Nat := (Mat.tr m).flatMap patList

/-- The solver flags M: its LLᵀ replaced a pivot or left binary32's range, or M is not finite (R109). -/
def massFlagged (s : State) (h : Half) (m : Mat) : Bool :=
  let a := matPats m
  let n := m.length
  let c := s.fld (SOLV.addr h) SOLV.TAU_EXP
  let tau : Int := if c = 0 then -20 else toS 8 c
  let f := (cholF a n (pivotLimit tau (maxDiagPos a n))).run .none
  !a.all f32Finite || f.2.reg.isSome || f.2.ovf

/-- What a sample wants of the tool: pose, velocity and acceleration. -/
def wanted (m : ArmModel) (x : ArmSample) : Pose × List Fx × List Fx :=
  if x.cart then (x.pose, x.twist, x.acc)
  else (m.pose (fxList x.q), toolMotion m (fxList x.q) (fxList x.qd) (fxList x.qdd))

/-- The torque of compliance for a sample, from the actual state of period n (R110). -/
def complianceTorque (s : State) (h : Half) (j : Nat) (m : ArmModel) (x : ArmSample) (a : ArmActual) : List Fx :=
  let g (f : Fld) : List Fx := (List.range 6).map (fun i => fxOf (s.fld (ARM.addr h j) (f.nth i)))
  let w := wanted m x
  m.compliance (m.frames a.q) a.qd w.1 w.2.1 w.2.2 (g ARM.COMP_KP) (g ARM.COMP_KD)

/-- The dynamics of the sample of a tag (R108 steps 4 to 8): the feed-forward block is written. -/
def dynamics (s : State) (h : Half) (j tag : Nat) : State :=
  let u := s.arm h j
  match u.sampleOf tag with
  | none => s
  | some x =>
    if !x.done then s
    else
      let m := armModel s h j x.payload
      let fs := m.frames (fxList x.q)
      let mass := m.mass fs
      let act := (u.actOf (tag - 2)) <|> u.acts.head?
      let tq := match act with
        | some a => if s.flag (ARM.addr h j) ARM.COMPLIANCE then complianceTorque s h j m x a
                    else m.inverse fs (fxList x.qd) (fxList x.qdd)
        | none => m.inverse fs (fxList x.qd) (fxList x.qdd)
      let diag := (List.range mass.length).map (fun i => (mass.getD i []).getD i 0)
      writeFf s h j tag (patList tq) (patList diag) (massFlagged s h mass)

/-- The payload slot in use is that of the sample of a tag too; its feed-forward is computed again where it stood already. -/
def samplePayload (s : State) (h : Half) (j tag : Nat) : State :=
  let u := s.arm h j
  let p := s.fld (ARM.addr h j) ARM.PAYLOAD_ACT
  let s := s.setArm h j { u with samples := u.samples.map (fun x => if x.tag = tag then { x with payload := p } else x) }
  if (u.ffOf tag).isSome then dynamics s h j tag else s

/-! Inverse kinematics of a sample (R103 to R107). -/

/-- The inverse kinematics of a sample: it fails where no joints come out or a number of them leaves binary32's range; the arm's
path is then aborted with IK_FAIL. A residual above IK_TOL counts in IK_INEXACT. -/
def kinematics (s : State) (h : Half) (j tag : Nat) : State :=
  let b := ARM.addr h j
  let u := s.arm h j
  let fail := jointStop (s.setFlag b ARM.IK_FAIL) h j true
  match u.sampleOf tag with
  | none => s
  | some x =>
    if x.done then s
    else
      let m := armModel s h j x.payload
      let prev := fxList (((u.sampleOf (tag - 1)).filter (fun y => y.done)).map (fun y => y.q) |>.getD u.q)
      match (if x.finite then m.ik x.pose x.track (branchOf x.branch) prev else none) with
      | none => fail
      | some r =>
        let v := m.ikRates r.1 x.twist x.acc x.trackD x.trackDD
        let y := { x with done := true, q := patList r.1, qd := patList v.1, qdd := patList v.2 }
        if (y.q ++ y.qd ++ y.qdd).all f32Finite then armTake (s.countIf r.2 b ARM.IK_INEXACT) h j y else fail

/-! The momentum observer (R112, R113). -/

/-- The configured arms. -/
def armList (s : State) (h : Half) : List Nat := (List.range 16).filter (fun j => armConfigured s h j)

/-- What the feedback of an axis says of a joint: position, rate and torque. A missing REPLY goes on at the last velocity with
the last torque (R122). -/
def actualJoint (s : State) (h : Half) (j i : Nat) : Fx × Fx × Fx :=
  let k := headerByte s h j (4 + i)
  let c := s.ce h k
  let f := match c.fb with
    | some f => (f.pos, f.vel, f.tq)
    | none => (c.pAct + divUp (c.vAct * s.periodNs h * 65536) 1000000000, c.vAct, c.tqFb)
  (ratioFx (axisMotion s h j i 32 (f.1 - axOffset s h j i)), ratioFx (axisMotion s h j i 16 f.2.1), torqueOfAxis s h j i f.2.2)

/-- The actual state of an arm as the present period's feedback gives it. -/
def takeActual (s : State) (h : Half) (j : Nat) : State :=
  let l := (List.range (armJoints s h j)).map (fun i => actualJoint s h j i)
  let u := s.arm h j
  s.setArm h j { u with acts := (⟨s.periodNum h, l.map (fun x => x.1), l.map (fun x => x.2.1), l.map (fun x => x.2.2)⟩ :: u.acts).take 3 }

/-- The observer one period on (R112). -/
def Observer.step (o : Observer) (m : ArmModel) (a : ArmActual) (period : Fx) : Observer :=
  let fs := m.frames a.q
  let p := (m.mass fs).app a.qd
  match o.p0 with
  | none => ⟨some p, p.map (fun _ => 0), p.map (fun _ => 0)⟩
  | some p0 =>
    let g := m.torques fs m.still m.still m.gravity
    let x := subL (addL (addL a.tq (m.energyRate fs a.qd)) o.res) (addL g (m.friction a.qd))
    let sum := addL o.sum (smulL period x)
    ⟨some p0, sum, smulL m.obsGain (subL (subL p p0) sum)⟩

/-- The magnitude of a binary32 pattern is above that of another. -/
def f32MagAbove (a b : Nat) : Bool := decide (f32Scaled (b % 2 ^ 31) < f32Scaled (a % 2 ^ 31))

/-- The observer's result for period n (R112, R113): a trip sets OBS_TRIP, raises event 111 and reacts. -/
def observe (s : State) (h : Half) (j n : Nat) : State :=
  let b := ARM.addr h j
  match (s.arm h j).actOf n with
  | none => s
  | some a =>
    let o := (s.arm h j).obs.step (armModel s h j (s.fld b ARM.PAYLOAD_ACT)) a ((s.periodNs h : Int) * fxOne / 1000000000)
    let s := s.setArm h j { s.arm h j with obs := o }
    let r := patList o.res
    let s := s.setWords (b + 0x40) ((r.take 9).map (fun x => BitVec.ofNat 32 x))
    let trip := (List.range (armJoints s h j)).any (fun i => f32MagAbove (r.getD i 0) (s.wordN (b + 0x70 + 4 * i)))
    if trip && decide ((s.arm h j).obsHold = 0) then
      let s := raiseEvt (s.setFlag b ARM.OBS_TRIP) h 111
      match headerByte s h j 0x69 with
      | 1 => pathStop s h j true
      | 2 => jointStop s h j true
      | _ => s
    else s

/-- The momentum observers of the arms are released at t_fb as required work, on the actual state (R112). -/
def releaseObservers (s : State) (h : Half) : State :=
  (armList s h).foldl (fun s j =>
    let s := takeActual s h j
    match s.cfg.obsItems[j]? with
    | none => s
    | some i => releaseWork s h i (s.servoNow h) (armDeadline s h)) s

/-- OBSERVER_HOLD_EXPIRY: detection resumes. -/
def obsResume (s : State) (h : Half) (j : Nat) : State :=
  if (s.arm h j).obsHold = 1 then s.setArm h j { s.arm h j with obsHold := 0 } else s

/-! The speed scales of a period (R94, R97, R169). -/

/-- Planning ticks: periods per tick (R36). -/
def tickPeriods (s : State) (h : Half) : Nat := 2 ^ s.fld (SYS.addr h) SYS.TICK_LOG2

/-- sigma moves over the periods of a tick linearly to the value published for it (R169). -/
def govMove (s : State) (h : Half) (u : ArmUnit) : Ramp :=
  let m := tickPeriods s h
  let j := s.periodNum h % m + 1
  { u.gov with val := if u.govFrom ≤ u.govTo then u.govFrom + (u.govTo - u.govFrom) * j / m
                      else u.govFrom - (u.govFrom - u.govTo) * j / m }

/-- The speed scales of an arm one period on, and sigma_eff (R94, R97). -/
def stepScales (s : State) (h : Half) (j : Nat) : State :=
  let b := ARM.addr h j
  let p := s.periodNs h
  let u := s.arm h j
  let slow := stopRate s h j false
  let ovr := u.ovr.toward (fineOf (s.fld b ARM.OVERRIDE)) slow p
  let st := armState s h j
  let stop :=
    if st = 3 then u.stop.toward 0 (stopRate s h j u.stopQuick) p
    else if u.stopUp then u.stop.toward fineOne slow p else u.stop
  let gov := if s.fld (SYS.addr h) SYS.GOV_STATE = 2 then u.gov.toward 0 slow p else govMove s h u
  let s := s.setArm h j { u with gov := gov, ovr := ovr, stop := stop, stopUp := u.stopUp && decide (stop.val < fineOne) }
  let eff := Nat.min (Nat.min gov.scale ovr.scale) (Nat.min u.kappa.scale stop.scale)
  ((s.setFld b ARM.SIGMA_EFF eff).setFld b ARM.SIGMA_GOV gov.scale).setFld b ARM.SIGMA_STOP stop.scale

/-! The sample of a period (R91 to R95). -/

/-- Segment i begins at a start with speed v, dt of path time before the sample (R89, R91, R95). -/
def startSegment (s : State) (h : Half) (j i : Nat) (a : SegStart) (v dt : Int) : State :=
  let b := ARM.addr h j
  let u := s.arm h j
  let cycle := segFlag s h j i 1
  let s := s.setArm h j { u with running := true, place := placeAt s h j i a v, flyLost := false, go := false,
                                 cyc := if cycle then u.cyc + 1 else u.cyc }
  let s := if cycle then s.setFld b ARM.CYCLE_PHASE (dt * 0x8000 / fineNs (s.periodNs h)).toNat else s
  if segPayload s h j i ≤ 7 then usePayload s h j (segPayload s h j i) else s

/-- The segment at the head of the queue begins where the last one ended, or waits for its hoist (R99). -/
def beginSegment (s : State) (h : Half) (j : Nat) : State :=
  let b := ARM.addr h j
  let i := s.fld b ARM.Q_RD
  if segHoist s h j i ≠ 0 ∧ !(s.arm h j).go then
    (s.setFld b ARM.STATE 2).setFld b ARM.HOIST_WAIT (segHoist s h j i)
  else startSegment s h j i (s.arm h j).place.start 0 0

/-- The path of an arm has come to its end or to a stop: state and result; one that ends with ERR_CODE set shows the queue
error. DESIGN CHOICE (log entry 129). -/
def pathEnded (s : State) (h : Half) (j st : Nat) : State :=
  let b := ARM.addr h j
  let s := if s.fld b ARM.RESULT = 0 then s.setFld b ARM.RESULT 8 else s
  let st := if st = 0 ∧ s.fld b ARM.ERR_CODE ≠ 0 then 7 else st
  s.setFld b ARM.STATE st

/-- The running segment is complete (event 116): Q_RD moves past it, and its end is where the next one starts. -/
def passSegment (s : State) (h : Half) (j : Nat) : State :=
  let b := ARM.addr h j
  let i := (s.fld b ARM.Q_RD + 1) % 128
  let u := s.arm h j
  let s := s.setArm h j { u with running := false, place := { PathAt.zero with idx := i, start := placeEnd s h j u.place u.q } }
  raiseEvt (s.setFld b ARM.Q_RD i) h 116

/-- The arm rests from the sample of a tag on. -/
def restFrom (s : State) (h : Half) (j tag : Nat) : State :=
  let u := s.arm h j
  s.setArm h j { u with rest := true, restAt := if u.rest then u.restAt else tag }

/-- The segment is complete at rest with the sample of a tag: the next one begins at its end, waits for its hoist, or the path
ends; a path that is stopping comes to its stop. DEDUCED (log entry 119). -/
def endSegment (s : State) (h : Half) (j tag : Nat) : State :=
  let b := ARM.addr h j
  let s := restFrom (passSegment s h j) h j tag
  if armState s h j ≠ 1 then s
  else if s.fld b ARM.Q_RD = s.fld b ARM.Q_ACK then pathEnded s h j 0
  else beginSegment s h j

/-- The running segment has come to its end. -/
def segmentDone (s : State) (h : Half) (j : Nat) : Bool :=
  let u := s.arm h j
  u.running && decide (u.place.len ≤ u.place.s)

/-- The generator begins to brake at the end of a segment with FLY whose successor is not accepted: it will end at rest, and
FLY_MISS counts (R93). -/
def flyMiss (s : State) (h : Half) (j : Nat) : State :=
  let u := s.arm h j
  let i := u.place.idx
  if segFlag s h j i 0 ∧ u.place.metre ∧ !u.flyLost ∧ u.place.sdd < 0 ∧ (i + 1) % 128 = s.fld (ARM.addr h j) ARM.Q_ACK then
    (s.setArm h j { u with flyLost := true }).count (ARM.addr h j) ARM.FLY_MISS
  else s

/-- The path parameter moves on by path time dt along the nominal profile of its segment (R94, in the sense of R55), and into
the next segments where FLY joins them; n bounds the segments passed. DESIGN CHOICE (log entry 22). -/
def alongPath (s : State) (h : Half) (j : Nat) : Nat → Int → State
  | 0, _ => s
  | n + 1, dt =>
    let a := (s.arm h j).place
    let x : SetPoint := ⟨a.s, a.sd, a.sdd⟩
    let v := if (s.arm h j).flyLost then 0 else endSpeed s h j a
    let t := planTime (placePlan s h j a v)
    if dt ≤ 0 then s
    else if 0 < v ∧ t ≤ dt then
      let s := passSegment s h j
      alongPath (startSegment s h j (s.arm h j).place.idx (s.arm h j).place.start v (dt - t)) h j n (dt - t)
    else
      let w := s.takeFree
      let y := genStep (segLimits s h j a.idx) dt x (.pos a.len v) (toS 64 w.1.toNat * 2 ^ 16)
      let u := w.2.arm h j
      flyMiss (w.2.setArm h j { u with place := { u.place with s := minI a.len (maxI a.s y.p), sd := y.v, sdd := y.a } }) h j

/-- The path of an arm moves on by one period: the cycle phase and tau advance by sigma_eff (R94, R95). -/
def movePath (s : State) (h : Half) (j : Nat) : State :=
  let b := ARM.addr h j
  let eff := s.fld b ARM.SIGMA_EFF
  let s := s.setFld b ARM.CYCLE_PHASE (s.fld b ARM.CYCLE_PHASE + eff)
  if eff = 0 then s else alongPath s h j 64 (fineNs (s.periodNs h) * eff / 0x8000)

/-- The speed and the acceleration of the path parameter in time as the motion is scaled (R94), in 2^-64 path units per
second and second squared: sigma s' and sigma^2 s'' + sigma-dot s', sigma-dot over the last period. DEDUCED (log entry
119). -/
def pathRates (s : State) (h : Half) (j : Nat) : Int × Int :=
  let u := s.arm h j
  let sig : Int := (s.fld (ARM.addr h j) ARM.SIGMA_EFF : Int) * 2 ^ 49
  let dot := fineDiv (((s.fld (ARM.addr h j) ARM.SIGMA_EFF : Int) - u.effLast) * 2 ^ 49) (fineNs (s.periodNs h))
  (fineMul sig u.place.sd, fineMul (fineSq sig) u.place.sdd + fineMul dot u.place.sd)

/-- The sample of a Cartesian segment at a place with path speed and acceleration: pose, tool motion, track. -/
def cartSampleOf (s : State) (h : Half) (j tag : Nat) (a : PathAt) (v acc : Fx) : ArmSample :=
  let c := cartAt s h j a
  { tag := tag, cart := true, done := false, q := [], qd := [], qdd := [], pose := c.pose, twist := smulL v c.d1,
    acc := addL (smulL (fxSq v) c.d2) (smulL acc c.d1), track := c.track, trackD := fxMul v c.trackD, trackDD := fxMul acc c.trackD,
    branch := segBranch s h j a.idx, finite := cartFinite s h j a.idx, payload := s.fld (ARM.addr h j) ARM.PAYLOAD_ACT }

/-- The running segment gives its sample for period tag: joint segments at once with their rates, rounded once to binary32,
Cartesian ones through an inverse-kinematics item (R94, R103). DEDUCED (log entry 119). -/
def sampleSegment (s : State) (h : Half) (j tag : Nat) : State :=
  let b := ARM.addr h j
  let a := (s.arm h j).place
  let s := (s.setFld b ARM.S (ratioF32 a.s fineUnit)).setFld b ARM.SEG_TAG (segWord s h j a.idx 4)
  let r := pathRates s h j
  if segType s h j a.idx ≤ 1 then
    let l := segJoints s h j a.idx a.s a.start.q
    armTake s h j (jointSampleOf tag (s.fld b ARM.PAYLOAD_ACT) (l.map (fun x => ratioF32 x.q x.den))
      (l.map (fun x => ratioF32 (x.d1 * r.1) (x.den * fineUnit)))
      (l.map (fun x => ratioF32 (x.d2 * r.1 * r.1 + x.d1 * r.2 * fineUnit) (x.den * fineUnit * fineUnit))))
  else
    let s := s.setArm h j (putSample (s.arm h j) (cartSampleOf s h j tag a (fxOfFine r.1) (fxOfFine r.2)))
    match s.cfg.ikItems[j]? with
    | none => s
    | some i => releaseWork s h i (s.servoNow h) (armDeadline s h)

/-- A sample at rest: the joints stay where the axes follow the path, else they are those of the present set-points. -/
def sampleRest (s : State) (h : Half) (j tag : Nat) : State :=
  let s := restFrom s h j tag
  let p := s.fld (ARM.addr h j) ARM.PAYLOAD_ACT
  if armFollows s h j then
    let q := (s.arm h j).q
    armTake s h j (jointSampleOf tag p q (q.map (fun _ => 0)) (q.map (fun _ => 0)))
  else
    let x := jointSampleOf tag p (presentJoints s h j) (presentRates s h j) (presentAccs s h j)
    releaseDyn (writeJs (s.setArm h j (putSample (s.arm h j) x)) h j tag x.q) h j tag

/-- The axes of an arm in a joint-space stop are all at standstill. -/
def axesAtRest (s : State) (h : Half) (j : Nat) : Bool :=
  (armAxes s h j).all (fun k => spAtRest s h k)

/-- An arm whose path stops has come to rest: stopped, or flushed and idle where it was aborted (R101). -/
def pathAtRest (s : State) (h : Half) (j tag : Nat) : State :=
  let s := restFrom s h j tag
  let u := s.arm h j
  if u.flush then pathEnded (flushQueue (s.setArm h j { u with flush := false, running := false }) h j) h j 0
  else pathEnded s h j 4

/-- The sample of an arm that runs or stops on its path. -/
def sampleMoving (s : State) (h : Half) (j tag : Nat) : State :=
  let b := ARM.addr h j
  let none_ := decide (s.fld b ARM.Q_RD = s.fld b ARM.Q_ACK)
  let s := if (s.arm h j).running then movePath s h j
    else if armState s h j = 1 then (if none_ then pathEnded s h j 0 else beginSegment s h j) else s
  let s :=
    if (s.arm h j).running then
      let s := sampleSegment (s.setArm h j { s.arm h j with rest := false }) h j tag
      if segmentDone s h j then endSegment s h j tag else s
    else sampleRest s h j tag
  if armState s h j = 3 ∧ ((s.arm h j).stop.val = 0 ∨ !(s.arm h j).running) then pathAtRest s h j tag else s

/-- The sample of an arm in a joint-space stop; at rest it is aborted, or idle where it was commanded to abort. -/
def sampleStopping (s : State) (h : Half) (j tag : Nat) : State :=
  let s := sampleRest s h j tag
  if !axesAtRest s h j then s
  else if (s.arm h j).flush then pathEnded (s.setArm h j { s.arm h j with flush := false }) h j 0
  else s.setFld (ARM.addr h j) ARM.STATE 6

/-- The path generator's work for one arm at T_n: the sample for T_{n+2} (R41, R108). -/
def armSample (s : State) (h : Half) (j : Nat) : State :=
  let b := ARM.addr h j
  let tag := s.periodNum h + 2
  let s := s.setArm h j { s.arm h j with obsHold := if 1 < (s.arm h j).obsHold then (s.arm h j).obsHold - 1 else (s.arm h j).obsHold }
  let s := stepScales s h j
  let st := armState s h j
  let s :=
    if st = 1 ∨ st = 3 then sampleMoving s h j tag
    else if st = 5 then sampleStopping s h j tag
    else sampleRest s h j tag
  let u := s.arm h j
  s.setArm h j { u with phases := [s.quad (b + 0x38), u.phases.getD 0 0, u.phases.getD 1 0],
                        cycs := [u.cyc, u.cycs.getD 0 0, u.cycs.getD 1 0], effLast := s.fld b ARM.SIGMA_EFF }

/-! Commands (R101, R102). -/

/-- Why START or RESUME is refused for the axes of an arm: 1 loop off, 2 not referenced, 3 busy with a single-axis command or
homing, 0 accepted. DEDUCED (log entry 41). -/
def axesRefusal (s : State) (h : Half) (j : Nat) : Nat :=
  let ks := armAxes s h j
  if ks.any (fun k => loopCountsOff s h k) then 1
  else if ks.any (fun k => !s.flag (PRF.addr h k) PRF.REF) then 2
  else if ks.any (fun k => s.flag (PRF.addr h k) PRF.BUSY) then 3
  else 0

/-- The result of an arm command, with its TAG. -/
def armResult (s : State) (h : Half) (j code tag : Nat) : State :=
  (s.setFld (ARM.addr h j) ARM.RESULT code).setFld (ARM.addr h j) ARM.TAG tag

/-- The axes of an arm follow its blocks. DEDUCED (log entry 28). -/
def axesFollow (s : State) (h : Half) (j : Nat) : State :=
  (armAxes s h j).foldl (fun s k =>
    let u := s.prf h k
    (s.setPrf h k { u with quick := false, escalated := false, restHold := false, soft := false, demand := none,
                           clampNow := false }).setFld (PRF.addr h k) PRF.MODE_ACT 5) s

/-- START. While a path runs it is refused as busy; in the stopped state the head segment begins anew from the present
set-point. DESIGN CHOICE (log entry 129). -/
def armStart (s : State) (h : Half) (j tag : Nat) : State :=
  let b := ARM.addr h j
  let r := axesRefusal s h j
  if s.fld b ARM.ERR_CODE ≠ 0 then armResult s h j 6 tag
  else if r ≠ 0 then armResult s h j r tag
  else if armBusy s h j then armResult s h j 3 tag
  else if s.fld b ARM.Q_RD = s.fld b ARM.Q_ACK then armResult s h j 4 tag
  else
    let u := s.arm h j
    let q := presentJoints s h j
    let s := s.setArm h j { u with q := q, running := false, stop := .one, stopUp := false, flush := false,
                                   place := { PathAt.zero with idx := s.fld b ARM.Q_RD, start := startAt s h j q } }
    armResult (obsRestart (axesFollow (s.setFld b ARM.STATE 1) h j) h j) h j 0 tag

/-- RESUME: only in the stopped state. -/
def armResume (s : State) (h : Half) (j tag : Nat) : State :=
  let r := axesRefusal s h j
  if armState s h j ≠ 4 then armResult s h j 5 tag
  else if r ≠ 0 then armResult s h j r tag
  else
    let s := s.setArm h j { s.arm h j with stopUp := true, stop := { (s.arm h j).stop with run := 0 } }
    armResult (obsRestart (axesFollow (s.setFld (ARM.addr h j) ARM.STATE 1) h j) h j) h j 0 tag

/-- ABORT: a moving arm is quick-stopped and its queue flushed at rest; an arm at rest is flushed at once. Armed hoists of the arm
are cancelled (R100). -/
def armAbort (s : State) (h : Half) (j tag : Nat) : State :=
  let st := armState s h j
  let s := armResult s h j 0 tag
  if st = 1 ∨ st = 3 then
    let s := cancelHoists (pathStop s h j true) h j 8
    s.setArm h j { s.arm h j with flush := true }
  else if st = 5 then
    let s := cancelHoists (flushQueue s h j) h j 8
    s.setArm h j { s.arm h j with flush := true }
  else
    let s := (cancelHoists (flushQueue s h j) h j 8).setFld (ARM.addr h j) ARM.HOIST_WAIT 0
    pathEnded (s.setArm h j { s.arm h j with running := false }) h j 0

/-- CLEAR_ERR: the queue error and the counters clear. -/
def armClearErr (s : State) (h : Half) (j tag : Nat) : State :=
  let b := ARM.addr h j
  let s := ((s.setFld b ARM.ERR_CODE 0).setFld b ARM.ERR_IDX 0).setWordN (b + 0xD0) 0
  let s := s.setWordN (b + 0xD4) 0
  let s := if armState s h j = 7 then s.setFld b ARM.STATE 0 else s
  armResult s h j 0 tag

/-- STOP or QUICK_STOP of an arm. -/
def armStop (s : State) (h : Half) (j tag : Nat) (quick : Bool) : State := pathStop (armResult s h j 0 tag) h j quick

/-- A write of ARM.CMD. -/
def armCommand (s : State) (h : Half) (j code tag : Nat) : State :=
  match code with
  | 0 => s
  | 1 => armStart s h j tag
  | 2 => armStop s h j tag false
  | 3 => armStop s h j tag true
  | 4 => armResume s h j tag
  | 5 => armAbort s h j tag
  | 6 => armClearErr s h j tag
  | _ => armResult s h j 7 tag

/-! Hoists (R99, R100). -/

/-- A hoist entry is active: armed or started. -/
def hoistState (s : State) (h : Half) (i : Nat) : Nat := s.fld (HLIST.addr h i) HLIST.H_STATE

/-- A write of the high word of GO_PERIOD. DESIGN CHOICE (log entry 42). -/
def hoistGo (s : State) (h : Half) : State :=
  let b := HOIST.addr h
  let mask := s.fld b HOIST.MASK
  let id := s.fld b HOIST.ID
  let bad := decide (mask = 0) || (List.range 16).any (fun j => bitOf mask j && !armConfigured s h j)
  let dup := (List.range 8).any (fun i => decide (hoistState s h i = 1) && decide (s.fld (HLIST.addr h i) HLIST.L_ID = id))
  if bad then s.setFld b HOIST.RESULT 3
  else if dup then s.setFld b HOIST.RESULT 2
  else match (List.range 8).find? (fun i => decide (hoistState s h i = 0)) with
    | none => s.setFld b HOIST.RESULT 1
    | some i =>
      let s := s.setWordN (HLIST.addr h i) (mask + id * 2 ^ 16 + 2 ^ 24)
      let s := s.setWordN (HLIST.addr h i + 4) 0
      (s.setHoist h i ⟨s.quad (b + 8), none⟩).setFld b HOIST.RESULT 0

/-- Every arm of a hoist waits for it, and rested at or before T_{n+1} (R99). -/
def hoistReady (s : State) (h : Half) (i n : Nat) : Bool :=
  let b := HLIST.addr h i
  (List.range 16).all (fun j => !bitOf (s.fld b HLIST.L_MASK) j ||
    (decide (armState s h j = 2) && decide (s.fld (ARM.addr h j) ARM.HOIST_WAIT = s.fld b HLIST.L_ID) &&
      decide ((s.arm h j).restAt ≤ n + 1)))

/-- The waiting segments of the arms of a mask begin at tau = 0 with the sample of a tag (R99). -/
def hoistRelease (s : State) (h : Half) (mask tag : Nat) : Nat → State
  | 0 => s
  | j + 1 =>
    let s := hoistRelease s h mask tag j
    if bitOf mask j then
      let b := ARM.addr h j
      let i := s.fld b ARM.Q_RD
      let s := startSegment ((s.setFld b ARM.STATE 1).setFld b ARM.HOIST_WAIT 0) h j i (s.arm h j).place.start 0 0
      let u := s.arm h j
      let s := s.setArm h j { u with phases := u.phases.set 0 (s.quad (b + 0x38)), cycs := u.cycs.set 0 u.cyc }
      let s := (s.setFld b ARM.S 0).setFld b ARM.SEG_TAG (segWord s h j i 4)
      samplePayload s h j tag
    else s

/-- The hoists at T_n: a hoist whose start instant is T_n has started (event 113). -/
def hoistsAt (s : State) (h : Half) (n : Nat) : Nat → State
  | 0 => s
  | i + 1 =>
    let s := hoistsAt s h n i
    match (s.hoist h i).startK with
    | none => s
    | some k => if hoistState s h i = 1 ∧ k ≤ n then raiseEvt (s.setFld (HLIST.addr h i) HLIST.H_STATE 2) h 113 else s

/-- The hoists in the compute window of period n: one armed by now whose arms are ready is to start at T_{n+2}, the first
instant at or after GO_PERIOD. -/
def hoistsReady (s : State) (h : Half) (n : Nat) : Nat → State
  | 0 => s
  | i + 1 =>
    let s := hoistsReady s h n i
    let b := HLIST.addr h i
    let u := s.hoist h i
    if hoistState s h i = 1 ∧ u.startK.isNone ∧ u.goPeriod ≤ n + 2 ∧ hoistReady s h i n then
      let s := s.setHoist h i { u with startK := some (n + 2) }
      let s := s.setFld b HLIST.START_LO ((n + 2) % 2 ^ 32)
      let s := s.putFlag b HLIST.LATE (decide (u.goPeriod ≠ 0 ∧ u.goPeriod < n + 2))
      hoistRelease s h (s.fld b HLIST.L_MASK) (n + 2) 16
    else s

/-- A read of a hoist entry: an entry that has started or is cancelled becomes free. -/
def hoistRead (s : State) (h : Half) (i : Nat) : Nat × State :=
  let b := HLIST.addr h i
  let v := s.quad b
  if 2 ≤ hoistState s h i then (v, (s.setWordN b 0).setWordN (b + 4) 0) else (v, s)

/-! Feed-forward and set-points at the window (R42, R47, R48). -/

/-- PAYLOAD_SEL is latched for period n and selects the slot of the sample for T_{n+2} and later ones (R43, R89). Only a value
that differs from the one latched before selects a slot. DESIGN CHOICE (log entry 130). -/
def latchPayload (s : State) (h : Half) (j : Nat) : State :=
  let sel := s.fld (ARM.addr h j) ARM.PAYLOAD_SEL
  let u := s.arm h j
  if sel = u.paySel then s
  else samplePayload (usePayload (s.setArm h j { u with paySel := sel }) h j sel) h j (s.periodNum h + 2)

/-- The blocks of an arm are latched for period n: a block whose tag is n + 1 is used, else the last values are, or zero
where the loops have just been switched on. -/
def latchBlocks (s : State) (h : Half) (j : Nat) : State :=
  let n := s.periodNum h
  let u := s.arm h j
  let on := (armAxes s h j).any (fun k => s.flag (PRF.addr h k) PRF.LOOP_ON)
  let ff := u.ffOf (n + 1)
  let fresh := ff.isSome
  let use := if fresh then ff else if on && !u.loopsOn then none else u.ffUse
  let ik := armFollows s h j && (u.jsOf (n + 1)).isNone
  let s := s.setArm h j { u with
    ffUse := use, ffNow := !fresh, ikNow := ik, loopsOn := on,
    ffRun := if fresh then 0 else if 100 ≤ u.ffRun then 100 else u.ffRun + 1,
    ikRun := if !ik then 0 else if 100 ≤ u.ikRun then 100 else u.ikRun + 1 }
  let b := SYS.addr h
  let s := if fresh then s else s.setWordN (b + 0x130) (setBit (s.wordN (b + 0x130)) j true)
  let s := if ik then s.setWordN (b + 0x130) (setBit (s.wordN (b + 0x130)) (16 + j) true) else s
  let s := s.putFlag (ARM.addr h j) ARM.COMPLIANCE ((armAxes s h j).any (fun k => decide (s.fld (CE.addr h k) CE.MODE_ACT = 4)))
  latchPayload s h j

/-- The configured axes: those of the rings' nodes, in ascending order. -/
def axisList (s : State) : List Nat :=
  (List.range 128).filter (fun k => s.cfg.rings.any (fun r => r.any (fun n => n.axes.contains k)))

/-- The blocks of every arm at the window with the late counters, and the hoists. DEDUCED (log entry 33). -/
def latchArms (s : State) (h : Half) : State :=
  let s := (armList s h).foldl (fun s j => latchBlocks s h j) (hoistsReady s h (s.periodNum h) 8)
  let s := s.countIf ((armList s h).any (fun j => (s.arm h j).ffNow)) (SYS.addr h) SYS.FF_LATE_CNT
  s.countIf ((armList s h).any (fun j => (s.arm h j).ikNow)) (SYS.addr h) SYS.IK_LATE_CNT

/-- FEED_FORWARD_LATE: three stale or flagged periods in a row raise event 103 once. DEDUCED (log entry 33). -/
def ffLate (s : State) (h : Half) (j : Nat) : State :=
  let u := s.arm h j
  if 3 ≤ u.ffRun ∧ u.ffRun < 100 then raiseEvt (s.setArm h j { u with ffRun := 100 }) h 103
  else if 3 ≤ u.flagRun ∧ u.flagRun < 100 then raiseEvt (s.setArm h j { u with flagRun := 100 }) h 103
  else s

/-- KINEMATICS_LATE: three extrapolated periods in a row abort the arm's path and raise event 104. DEDUCED (log entry 33). -/
def ikLate (s : State) (h : Half) (j : Nat) : State :=
  let u := s.arm h j
  if 3 ≤ u.ikRun ∧ u.ikRun < 100 then jointStop (raiseEvt (s.setArm h j { u with ikRun := 100 }) h 104) h j true else s

end Sys2Proof.Machine
end

