-- ==== Sys2Proof/Machine/GovGroup.lean ====
section
/-! DEFINITION. Cell groups: the boundary message as it is sent and received, the coordinator, the members (R17, R178 to R183). -/
namespace Sys2Proof.Machine

/-! Boundary messages (R181 to R183). -/

/-- The module number, the horizon and the parameters of R16 as a message carries them. -/
def ownNum (s : State) : Nat := s.fld MOD.addr MOD.NUM
def ownHorizon (s : State) (h : Half) : Nat := s.fld (GOV.addr h) GOV.H
def ownPeriodCfg (s : State) (h : Half) : Nat :=
  s.fld (SYS.addr h) SYS.PERIOD + s.fld (SYS.addr h) SYS.TICK_LOG2 * 8

/-- A request entry in the layout of R183. -/
def reqBytes (r : GovReq) : List Byte :=
  ((List.range 4).flatMap (fun i => leBytes 2 (r.zones.getD i 0xFFFF))) ++ leBytes 8 r.treq

/-- Sixteen entries; the ones not in use hold no zone. -/
def reqBlock (l : List GovReq) : List Byte :=
  (l.take 16).flatMap reqBytes ++ (List.replicate (16 - l.length) (⟨[], 0⟩ : GovReq)).flatMap reqBytes

/-- A request from its 16 bytes. -/
def reqOf (b : List Byte) : GovReq :=
  ⟨((List.range 4).map (fun i => bytesAt b (2 * i) 2)).filter (fun z => z != 0xFFFF), bytesAt b 8 8⟩

/-- One part of a message: what its bytes say. -/
structure BPart where
  num : Nat
  tick : Nat
  part : Nat
  count : Nat
  deriving DecidableEq, Repr

/-- The number of sample bytes and request bytes a part holds. -/
def partLen (b : List Byte) : Nat :=
  64 + (if bytesAt b 2 1 % 16 = 0 then 256 else 0) + 32 * bytesAt b 0x1B 1

/-- A datagram is a part of a message of the group: VER, part index and count, NREQ and NSAMP in range, its length. -/
def parsePart (group : Nat) (b : List Byte) : Option BPart :=
  let p := bytesAt b 2 1 % 16
  let n := bytesAt b 2 1 / 16
  if b.length < 64 then none
  else if bytesAt b 0 1 ≠ 1 ∨ bytesAt b 6 1 ≠ group then none
  else if n = 0 ∨ 8 < n ∨ n ≤ p then none
  else if 32 < bytesAt b 0x1B 1 ∨ 16 < bytesAt b 0x31 1 then none
  else if b.length ≠ partLen b then none
  else some ⟨bytesAt b 4 2 % 1024, bytesAt b 8 8, p, n⟩

/-- The samples of a part. -/
def partSamples (b : List Byte) : List (List Byte) :=
  let off := 64 + (if bytesAt b 2 1 % 16 = 0 then 256 else 0)
  (List.range (bytesAt b 0x1B 1)).map (fun i => (b.drop (off + 32 * i)).take 32)

/-- The message that complete parts, in order of index, make up. -/
def messageOf (parts : List (List Byte)) : PeerMsg :=
  let b := parts.getD 0 []
  { num := bytesAt b 4 2 % 1024, num2 := bytesAt b 0x32 2, cl := bytesAt b 1 1, horizon := bytesAt b 7 1,
    joining := bitOf (bytesAt b 3 1) 0, coord := bitOf (bytesAt b 3 1) 1,
    members := ((List.range 8).map (fun i => bytesAt b (0x20 + 2 * i) 2)).filter (fun x => x != 0xFFFF),
    groupCl := bytesAt b 0x30 1, tick := bytesAt b 8 8, sent := bytesAt b 0x10 8, periodCfg := bytesAt b 0x18 1,
    dom1 := bytesAt b 0x19 1, dom2 := bytesAt b 0x1A 1, zoneCrc := bytesAt b 0x1C 4,
    reqs := (List.range (bytesAt b 0x31 1)).map (fun i => reqOf ((b.drop (64 + 16 * i)).take 16)),
    samples := parts.flatMap partSamples }

/-- A part joins what has come of its sender's message; the newest complete message is kept. -/
def Peer.take (p : Peer) (x : BPart) (b : List Byte) : Peer :=
  let old : Bool := match p.msg with | none => false | some m => decide (x.tick ≤ m.tick)
  if old ∨ x.tick < p.tick then p
  else
    let p := if p.tick = x.tick ∧ p.count = x.count then p else { p with tick := x.tick, count := x.count, parts := [] }
    if p.parts.any (fun y => decide (y.1 = x.part)) then p
    else
      let ps := p.parts ++ [(x.part, b)]
      if ps.length < x.count then { p with parts := ps }
      else
        let all := (List.range x.count).map (fun i => ((ps.find? (fun y => decide (y.1 = i))).map Prod.snd).getD [])
        { p with parts := [], msg := some (messageOf all), silent := false }

/-- This cell leaves its group (R17). DESIGN CHOICE (log entry 72). -/
def withdraw (s : State) (h : Half) : State :=
  let s := s.setGov h { s.gov h with withdrawn := true, admitted := false, members := [], reqs := [], held := [] }
  ((s.setFld (GOV.addr h) GOV.ROLE 0).setFld (GOV.addr h) GOV.MEMBERS 0).setWords (GOV.addr h + 0x800) (List.replicate 64 0)

/-- A datagram on a plant port of the half in charge (R181, R17). DESIGN CHOICE (log entry 72). -/
def boundaryReceive (s : State) (h : Half) (src : Word) (b : List Byte) : State :=
  let g := s.gov h
  match s.cfg.govGroup with
  | none => s
  | some grp =>
    match parsePart grp b with
    | none => s
    | some x =>
      if s.activeHalf ≠ some h ∨ g.withdrawn then s
      else if x.num = ownNum s then
        withdraw (raiseBoth (faultLog s 10 none none (some src.toNat)) 10) h
      else if g.peers.any (fun p => decide (p.num = x.num)) then
        s.setGov h { g with peers := g.peers.map (fun p => if p.num = x.num then p.take x b else p) }
      else if 8 ≤ g.peers.length then s
      else s.setGov h { g with peers := g.peers ++ [({ num := x.num, tick := 0, count := 0, parts := [], msg := none,
                                                       silent := false } : Peer).take x b] }

/-- The header of part p of n. -/
def partHeader (s : State) (h : Half) (p n nsamp : Nat) : List Byte :=
  let g := s.gov h
  let role := s.fld (GOV.addr h) GOV.ROLE
  let coord := decide (role = 2)
  let mem := if coord then g.members else []
  let num2 := if s.flag PEN.addr PEN.PAIRED then s.fld PEN.addr PEN.PEER_NUM else 0xFFFF
  leBytes 1 1 ++ leBytes 1 (s.fld MOD.addr MOD.CL_NOW) ++ leBytes 1 (p + n * 16) ++
  leBytes 1 (b2n (!g.admitted) + b2n coord * 2) ++ leBytes 2 (ownNum s) ++ leBytes 1 (s.cfg.govGroup.getD 0) ++
  leBytes 1 (ownHorizon s h) ++ leBytes 8 (s.periodNum h) ++ leBytes 8 (s.servoNow h) ++ leBytes 1 (ownPeriodCfg s h) ++
  leBytes 1 (s.fld (PTP.addr h 0) PTP.DOMAIN_NUM) ++ leBytes 1 (s.fld (PTP.addr h 1) PTP.DOMAIN_NUM) ++
  leBytes 1 nsamp ++ leBytes 4 s.cfg.govZoneCrc ++
  ((List.range 8).flatMap (fun i => leBytes 2 (mem.getD i 0xFFFF))) ++
  leBytes 1 (if coord then g.groupCl else 0) ++ leBytes 1 (if p = 0 then Nat.min 16 g.reqs.length else 0) ++
  leBytes 2 num2 ++ zeros 12

/-! Cell groups (R178 to R180). -/

/-- The rank of a cell (R15). -/
def rankOf (num num2 : Nat) : Nat := if num2 < 1024 then Nat.min num num2 else num

/-- This cell's rank. -/
def ownRank (s : State) : Nat :=
  rankOf (ownNum s) (if s.flag PEN.addr PEN.PAIRED then s.fld PEN.addr PEN.PEER_NUM else 0xFFFF)

/-- The age of a message at the present boundary, in ticks. -/
def msgAge (s : State) (h : Half) (m : PeerMsg) : Nat := (s.periodNum h - m.tick) / tickPeriods s h

/-- The age up to which a cell is not silent. -/
def quarterH (s : State) (h : Half) : Nat := ownHorizon s h / 4

/-- A peer whose newest complete message is at most H/4 ticks old. -/
def peerFresh (s : State) (h : Half) (p : Peer) : Bool :=
  match p.msg with
  | none => false
  | some m => decide (msgAge s h m ≤ quarterH s h)

/-- The cell with the lowest rank: its rank and message, none for this cell. -/
def coordinatorOf (s : State) (h : Half) : Nat × Option PeerMsg :=
  (s.gov h).peers.foldl (fun best p =>
    match p.msg with
    | none => best
    | some m => if peerFresh s h p && decide (rankOf m.num m.num2 < best.1) then (rankOf m.num m.num2, some m) else best)
    (ownRank s, none)

/-- The parameters a joining cell must share (R16, R179). -/
def admits (s : State) (h : Half) (m : PeerMsg) : Bool :=
  decide (m.periodCfg % 64 = ownPeriodCfg s h) && decide (m.horizon = ownHorizon s h) &&
  decide (m.dom1 = s.fld (PTP.addr h 0) PTP.DOMAIN_NUM) && decide (m.dom2 = s.fld (PTP.addr h 1) PTP.DOMAIN_NUM) &&
  decide (m.zoneCrc = s.cfg.govZoneCrc)

/-- The coordinator's list: this cell, those listed before, and joining cells as far as there is room.
DESIGN CHOICE (log entry 71). -/
def memberList (s : State) (h : Half) : List Nat :=
  let g := s.gov h
  let base := if g.members.contains (ownNum s) then g.members else ownNum s :: g.members.take 7
  g.peers.foldl (fun l p =>
    match p.msg with
    | none => l
    | some m =>
      if m.joining && peerFresh s h p && !l.contains m.num && admits s h m && decide (l.length < 8) then l ++ [m.num] else l) base

/-- The lowest capability level of the listed cells. -/
def memberCl (s : State) (h : Half) (l : List Nat) : Nat :=
  (s.gov h).peers.foldl (fun c p =>
    match p.msg with
    | none => c
    | some m => if l.contains m.num then Nat.min c m.cl else c) (s.fld MOD.addr MOD.CL_NOW)

/-- GOV.PEER of the cells heard. -/
def showPeers (s : State) (h : Half) : State :=
  let g := s.gov h
  (List.range 8).foldl (fun s i =>
    match g.peers[i]? with
    | none => s
    | some p =>
      let b := GOVPEER.addr h i
      match p.msg with
      | none => ((s.setFld b GOVPEER.PEER_NUM p.num).setFld b GOVPEER.P_STATE 3).setFld b GOVPEER.AGE 0xFF
      | some m =>
        let st := if g.members.contains p.num then (if p.silent then 2 else 1) else 3
        let s := ((s.setFld b GOVPEER.PEER_NUM p.num).setFld b GOVPEER.P_STATE st).setFld b GOVPEER.AGE
          (Nat.min 255 (msgAge s h m))
        (s.setFld b GOVPEER.P_CL m.cl).setFld b GOVPEER.P_H m.horizon) s

/-- The group at a boundary (R179): the coordinator, the member list and the group CL in force. -/
def groupAt (s : State) (h : Half) : State :=
  let g := s.gov h
  let b := GOV.addr h
  let (_, co) := coordinatorOf s h
  let (list, cl, num) := match co with
    | none => let l := memberList s h; (l, memberCl s h l, ownNum s)
    | some m => if m.coord then (m.members, m.groupCl, m.num) else (g.members, g.groupCl, m.num)
  let listed := list.contains (ownNum s)
  let role := if co.isNone then 2 else if listed then 1 else if g.refused then 3 else 0
  let s := s.setGov h { g with members := list, groupCl := cl, admitted := listed,
                               asked := if listed then 0 else Nat.min 255 (g.asked + 1),
                               refused := g.refused && !listed }
  let s := (s.setFld b GOV.ROLE role).setFld b GOV.MEMBERS list.length
  let s := (s.setFld b GOV.GROUP_CL cl).setFld b GOV.COORD_NUM num
  showPeers s h

/-- ADMISSION_REFUSED: not listed 16 ticks after the first message (R179). -/
def admissionRefused (s : State) (h : Half) : State :=
  let g := s.gov h
  if g.admitted ∨ g.refused ∨ g.asked < 16 then s
  else
    let s := s.setGov h { g with refused := true }
    raiseEvt ((s.setFlag (GOV.addr h) GOV.ADMIT_REFUSED).setFld (GOV.addr h) GOV.ROLE 3) h 110

/-- PEER_SILENT: a member's newest complete message is older than H/4 ticks (R180). -/
def peerSilent (s : State) (h : Half) (i : Nat) : State :=
  let g := s.gov h
  match g.peers[i]? with
  | none => s
  | some p =>
    if p.silent ∨ peerFresh s h p ∨ !g.members.contains p.num ∨ p.msg.isNone then s
    else
      let s := s.setGov h { g with peers := g.peers.set i { p with silent := true } }
      raiseEvt (showPeers (s.setFlag (GOV.addr h) GOV.PEER_SILENT) h) h 109

/-- DROP: the coordinator removes a silent member from its list; ignored elsewhere (R180). -/
def govDrop (s : State) (h : Half) (num : Nat) : State :=
  let g := s.gov h
  let silent := g.peers.any (fun p => decide (p.num = num) && p.silent)
  if s.fld (GOV.addr h) GOV.ROLE = 2 ∧ silent then
    let l := g.members.filter (fun x => x != num)
    (s.setGov h { g with members := l }).setFld (GOV.addr h) GOV.MEMBERS l.length
  else s

/-- CLR_CNT of GOV.CMD. -/
def govClrCnt (s : State) (h : Half) : State := (s.setWordN (GOV.addr h + 0x20) 0).setWordN (GOV.addr h + 0x24) 0

/-- A write of GOV.CMD. -/
def govCmd (s : State) (h : Half) (v : Nat) : State :=
  let s := if bitOf v 0 then govDrop s h (bitsOf v 25 16) else s
  if bitOf v 1 then govClrCnt s h else s

end Sys2Proof.Machine
end

