-- ==== Sys2Proof/Machine/GovPath.lean ====
section
/-! DEFINITION. What the governor sees of the arms' paths: poses and capsules ahead, path times, the samples of the boundary message,
and shared zones (R169, R171, R172, R184, R186 to R189). -/
namespace Sys2Proof.Machine

/-! Poses ahead. -/

/-- A planning capsule's record. -/
def GovCapsule.caps (c : GovCapsule) : CapsuleRec :=
  ⟨c.link, V3.ofList (fxList c.words), V3.ofList ((fxList c.words).drop 3), fxOf (c.words.getD 6 0)⟩

/-- The planning capsules of arm j. -/
def armCaps (s : State) (j : Nat) : List GovCapsule := (s.cfg.govCaps.filter (fun c => decide (c.arm = j))).take 16

/-- The frame of the cell in its group (R178). -/
def groupFrame (s : State) : Frame :=
  let l := fxList s.cfg.govPose
  Pose.frame ⟨V3.ofList l, (Quat4.ofList (l.drop 3)).unit⟩

/-- What the group frame's points are in the cell frame. -/
def cellFrame (s : State) : Frame :=
  let f := groupFrame s
  ⟨f.r.tr, f.r.tr.app (V3.zero.sub f.p)⟩

/-- An arm as it stands: joints, frames, and the motions of its frames at sigma 1.0. -/
structure ArmPose where
  model : ArmModel
  q : List Fx
  fs : List Frame
  ms : List Motion
  deriving DecidableEq, Repr

def ArmPose.make (m : ArmModel) (q qd : List Fx) : ArmPose :=
  let fs := m.frames q
  ⟨m, q, fs, m.moving fs qd⟩

/-- The arm moves on its path. -/
def pathMoves (s : State) (h : Half) (j : Nat) : Bool := decide (armState s h j = 1 ∨ armState s h j = 3)

/-- An arm after a path time in seconds, near joints given (R172); an arm whose path does not move stays at its last sample. -/
def poseAfter (s : State) (h : Half) (j : Nat) (near : List Fx) (tau : Fx) : ArmPose :=
  let m := armModel s h j 0
  if pathMoves s h j then
    let a := placeAhead s h j (s.arm h j).q 128 (fineOfFx tau) (headPlace s h j)
    let q := jointsAt s h j near a
    .make m q (ratesAt s h j q a)
  else .make m (fxList (s.arm h j).q) m.still

/-- The arm after each of a list of path times. -/
def posesAfter (s : State) (h : Half) (j : Nat) : List Fx → List Fx → List ArmPose
  | _, [] => []
  | near, t :: ts =>
    let p := poseAfter s h j near t
    p :: posesAfter s h j p.q ts

/-- A capsule of an arm in place, in the cell frame. -/
def ArmPose.cap (p : ArmPose) (c : GovCapsule) : Capsule := p.model.place p.fs c.caps

/-! The path time of a speed scale (R169, R184). -/

/-- The planning tick in seconds. -/
def tickSec (s : State) (h : Half) : Fx := ((tickPeriods s h * s.periodNs h : Nat) : Int) * fxOne / 1000000000

/-- A rate register in speed-scale units per second. -/
def rateFx (x : Nat) : Fx := (x : Int) * fxOne / 256

/-- sigma of an arm in force, as a number. -/
def sigmaNow (s : State) (h : Half) (j : Nat) : Fx := ((s.arm h j).gov.val : Int) * fxOne / (fineOne : Int)

/-- Path time after t seconds while sigma falls from v at a rate, and while it rises to 1.0. -/
def fallTime (v rate t : Fx) : Fx :=
  if v ≤ fxMul rate t then fxDiv (fxSq v) (2 * rate) else fxMul v t - fxMul rate (fxSq t) / 2
def riseTime (v rate t : Fx) : Fx :=
  let t1 := fxDiv (fxOne - v) rate
  if t ≤ t1 then fxMul v t + fxMul rate (fxSq t) / 2 else fxMul v t1 + fxMul rate (fxSq t1) / 2 + (t - t1)

/-- SIG_RATE of an arm; 0 counts as 1. -/
def sigRate (s : State) (h : Half) (j : Nat) : Nat := Nat.max 1 (s.fld (GOVARM.addr h j) GOVARM.SIG_RATE)

/-! The samples of a boundary message (R184). -/

/-- Sample i of a boundary capsule: what it sweeps over its part of the horizon, in the group frame (R183, R184). -/
def sweptSample (s : State) (h : Half) (c : GovCapsule) (i : Nat) : List Byte :=
  let t := tickSec s h
  let n := ownHorizon s h
  let lo := fallTime (sigmaNow s h c.arm) (rateFx (stopRate s h c.arm true)) ((((i - 1) * n : Nat) : Int) * t / 4)
  let hi := riseTime (sigmaNow s h c.arm) (rateFx (sigRate s h c.arm)) (((if i = 4 then 5 * n else i * n : Nat) : Int) * t / 4)
  let times := (List.range 9).map (fun (x : Nat) => lo + (hi - lo) * (x : Int) / 8)
  let caps := (posesAfter s h c.arm (fxList (s.arm h c.arm).q) times).map (fun p => (p.cap c).under (groupFrame s))
  let axis := caps.getD 4 ⟨.zero, .zero, 0⟩
  let sweep := caps.foldl (fun (m : Fx) x =>
    let a := axis.axisDist x.p0
    let b := axis.axisDist x.p1
    let m := if m < a then a else m
    if m < b then b else m) 0
  (axis.p0.list ++ axis.p1.list ++ [axis.r + sweep + fxOf s.cfg.govMargin]).flatMap (fun x => leBytes 4 (fxF32 x)) ++
    [BitVec.ofNat 8 (c.arm % 16 * 16 + c.num % 16), BitVec.ofNat 8 i, 0, 0]

/-- The cell sends its boundary message for the tick that starts (R181). -/
def boundarySend (s : State) (h : Half) : State :=
  if s.cfg.govGroup.isNone ∨ (s.gov h).withdrawn then s
  else
    let sm := ((s.cfg.govCaps.filter (fun c => c.boundary)).take 64).flatMap (fun c => [1, 2, 3, 4].map (sweptSample s h c))
    let n := Nat.max 1 (divCeil sm.length 32)
    let parts := (List.range n).map (fun p =>
      let l := (sm.drop (32 * p)).take 32
      partHeader s h p n l.length ++ (if p = 0 then reqBlock (s.gov h).reqs else []) ++ l.flatten)
    s.setGov h { s.gov h with sent := parts, sentAt := some (s.servoNow h) }

/-! Shared zones (R186 to R189). -/

/-- The number of descriptors accepted and not complete. -/
def queuedSegs (s : State) (h : Half) (j : Nat) : Nat :=
  (s.fld (ARM.addr h j) ARM.Q_ACK + 128 - s.fld (ARM.addr h j) ARM.Q_RD) % 128

/-- Where the arm stands in its running segment, in 2^-32 of its length. -/
def pathPos (s : State) (h : Half) (j : Nat) : Nat :=
  let u := s.arm h j
  if u.running then (u.place.s * 2 ^ 32 / maxI 1 u.place.len).toNat else 0

/-- The zones a descriptor meets, start and end in 2^-32 of its length; one whose scan is not complete enters every zone at its
start (R186). -/
def segZones (s : State) (h : Half) (j i : Nat) : List (Nat × Nat × Nat) :=
  if (s.arm h j).scanned.contains (i % 64) then
    ((s.arm h j).zones.filter (fun z => decide (z.seg = i % 64))).map (fun z => (z.lo, z.hi, z.zone))
  else s.cfg.govZones.map (fun z => (0, 0, z.num))

/-- The zone intervals ahead of the arm on its queue: start, end and zone, in 2^-32 of a segment from the running
segment's start. -/
def zonesAhead (s : State) (h : Half) (j : Nat) : List (Nat × Nat × Nat) :=
  let rd := s.fld (ARM.addr h j) ARM.Q_RD
  (List.range (queuedSegs s h j)).flatMap (fun i =>
    (segZones s h j ((rd + i) % 128)).filterMap (fun z =>
      if pathPos s h j ≤ i * 2 ^ 32 + z.2.1 ∨ !(s.arm h j).scanned.contains ((rd + i) % 64) then
        some (i * 2 ^ 32 + z.1, i * 2 ^ 32 + z.2.1, z.2.2) else none))

/-- The zones an arm has ahead on the segments scanned so far (R188). -/
def scannedAhead (s : State) (h : Half) (j : Nat) : List Nat :=
  let rd := s.fld (ARM.addr h j) ARM.Q_RD
  (List.range (queuedSegs s h j)).flatMap (fun i =>
    ((s.arm h j).zones.filter (fun z => decide (z.seg = (rd + i) % 64) && decide (pathPos s h j ≤ i * 2 ^ 32 + z.hi))).map (fun z => z.zone))

/-- When a plan from x comes to a place; n halvings. -/
def timeOn (x : SetPoint) (plan : List Phase) (goal : Int) : Nat → Int → Int → Int
  | 0, _, hi => hi
  | n + 1, lo, hi =>
    let mid := (lo + hi) / 2
    if goal ≤ (x.after mid plan).p then timeOn x plan goal n lo mid else timeOn x plan goal n mid hi

/-- The path time from a place to a point x, in 2^-32 of its length, of the segment n places on, by the nominal profile. -/
def timeToward (s : State) (h : Half) (j x : Nat) : Nat → PathAt → Int
  | 0, a =>
    let plan := placePlan s h j a (endSpeed s h j a)
    let goal := a.len * (x : Int) / 2 ^ 32
    if goal ≤ a.s then 0 else timeOn ⟨a.s, a.sd, a.sdd⟩ plan goal 100 0 (planTime plan)
  | n + 1, a =>
    let v := endSpeed s h j a
    planTime (placePlan s h j a v) + timeToward s h j x n (placeAt s h j ((a.idx + 1) % 128) (placeEnd s h j a (s.arm h j).q) v)

/-- The path time in seconds to a point in 2^-32 of a segment from the running segment's start. -/
def pathTimeTo (s : State) (h : Half) (j x : Nat) : Fx :=
  if x ≤ pathPos s h j then 0 else fxOfFine (timeToward s h j (x % 2 ^ 32) (x / 2 ^ 32) (headPlace s h j))

/-- tau_lim of an arm (R188): the path time at which it first enters a zone that its cell does not hold, 10^6 s without one. -/
def tauLimit (s : State) (h : Half) (j : Nat) : Fx :=
  let free := (zonesAhead s h j).filter (fun x => !(s.gov h).held.contains x.2.2)
  free.foldl (fun (m : Fx) x => let t := pathTimeTo s h j x.1; if t < m then t else m) (1000000 * fxOne)

/-- The interval that starts first. -/
def firstZone : List (Nat × Nat × Nat) → Option (Nat × Nat × Nat)
  | [] => none
  | x :: t =>
    match firstZone t with
    | none => some x
    | some y => if y.1 < x.1 then some y else some x

/-- The zones entered before the arm meets none: those whose intervals join the reach so far. The number bounds the
steps. -/
def zoneChain (l : List (Nat × Nat × Nat)) : Nat → Nat → List Nat → List Nat
  | 0, _, acc => acc
  | n + 1, reach, acc =>
    match l.find? (fun x => decide (x.1 ≤ reach) && !acc.contains x.2.2) with
    | none => acc
    | some x => zoneChain l n (Nat.max reach x.2.1) (acc ++ [x.2.2])

/-- A list in pieces of k; the number bounds the pieces. -/
def pieces (k : Nat) : Nat → List Nat → List (List Nat)
  | 0, _ => []
  | n + 1, l => if l.isEmpty then [] else l.take k :: pieces k n (l.drop k)

/-- Zones an own entry names. DESIGN CHOICE (log entry 71). -/
def ownZones (s : State) (h : Half) : List Nat := (s.gov h).reqs.flatMap (fun r => r.zones)

/-- How far ahead in path time a zone is requested (R187): H ticks, the stop from 1.0, and ZONE_LEAD. -/
def zoneLead (s : State) (h : Half) (j : Nat) : Fx :=
  (ownHorizon s h : Int) * tickSec s h + fxDiv fxOne (2 * rateFx (stopRate s h j false)) +
    (s.fld (GOV.addr h) GOV.ZONE_LEAD : Int) * fxOne / 1000

/-- Arm j's path enters a zone the cell has not listed: listed where the entry lies within the lead time (R187).
DESIGN CHOICE (log entry 71). -/
def requestFor (s : State) (h : Half) (j : Nat) : State :=
  let ahead := (zonesAhead s h j).filter (fun x => !(ownZones s h).contains x.2.2)
  match firstZone ahead with
  | none => s
  | some x =>
    if zoneLead s h j < pathTimeTo s h j x.1 then s
    else
      let g := s.gov h
      let zs := zoneChain ahead 256 x.2.1 [x.2.2]
      let ps := pieces (if 2 ≤ g.groupCl then 4 else 1) 256 zs
      let t := s.periodNum h * s.periodNs h
      let s := s.setGov h { g with reqs := (g.reqs ++ ps.map (fun z => GovReq.mk z t)).take 16 }
      s.flagIf (decide (1 < ps.length)) (GOV.addr h) GOV.ZONE_SPLIT

/-- The box of a zone, in the group frame. -/
def ZoneBox.box (z : ZoneBox) : Box3 := ⟨V3.ofList (fxList z.words), V3.ofList ((fxList z.words).drop 3)⟩

/-- A planning capsule of an arm at a pose meets the box of a zone. -/
def meetsZone (s : State) (j : Nat) (p : ArmPose) (z : ZoneBox) : Bool :=
  (armCaps s j).any (fun c => decide (((p.cap c).under (groupFrame s)).boxGap z.box ≤ 0))

/-- An arm of the cell stands in a zone. -/
def standsIn (s : State) (h : Half) (n : Nat) : Bool :=
  (s.cfg.govZones.filter (fun z => decide (z.num = n))).any (fun z =>
    (armList s h).any (fun j => meetsZone s j (poseAfter s h j (fxList (s.arm h j).q) 0) z))

/-- Zones that no arm of the cell meets any more leave their entries (R188): no interval lies at or after an arm's position on the
segments scanned, and no capsule meets the box. DEDUCED (log entry 73). -/
def releaseZones (s : State) (h : Half) : State :=
  let ahead := (List.range 16).flatMap (fun j => scannedAhead s h j)
  let keep := fun z => ahead.contains z || standsIn s h z
  let g := s.gov h
  s.setGov h { g with reqs := (g.reqs.map (fun r => { r with zones := r.zones.filter keep })).filter (fun r => !r.zones.isEmpty) }

/-- An entry with what orders it: T_REQ, the sender's rank, the entry index; its sender's number and zones. -/
structure ZEntry where
  treq : Nat
  rank : Nat
  idx : Nat
  num : Nat
  zones : List Nat
  deriving DecidableEq, Repr

/-- x comes before y. -/
def ZEntry.lt (x y : ZEntry) : Bool :=
  decide (x.treq < y.treq) || (decide (x.treq = y.treq) && (decide (x.rank < y.rank) ||
    (decide (x.rank = y.rank) && decide (x.idx < y.idx))))

/-- The entries of a cell in order. -/
def entriesOf (num rank : Nat) (l : List GovReq) : List ZEntry :=
  (List.range l.length).map (fun i => let r : GovReq := l.getD i ⟨[], 0⟩; ⟨r.treq, rank, i, num, r.zones⟩)

/-- Every listed entry of the members. -/
def allEntries (s : State) (h : Half) : List ZEntry :=
  let g := s.gov h
  entriesOf (ownNum s) (ownRank s) g.reqs ++ g.peers.flatMap (fun p =>
    match p.msg with
    | none => []
    | some m => if g.members.contains m.num then entriesOf m.num (rankOf m.num m.num2) m.reqs else [])

/-- The instant of a member's newest message. -/
def sentOf (s : State) (h : Half) (num : Nat) : Option Nat :=
  if num = ownNum s then (s.gov h).sentAt
  else ((s.gov h).peers.find? (fun p => decide (p.num = num))).bind (fun p => p.msg.map (fun m => m.sent))

/-- An entry holds its zones (R187). -/
def entryHolds (s : State) (h : Half) (l : List ZEntry) (e : ZEntry) : Bool :=
  l.all (fun x => !(x.lt e && x.zones.any (fun z => e.zones.contains z))) &&
  (s.gov h).members.all (fun n => decide (n = e.num) || (match sentOf s h n with | none => false | some t => decide (e.treq ≤ t)))

/-- Cells that a cell waits for: holders of a zone that its waiting entries name. -/
def waitsFor (held waiting : List ZEntry) (n : Nat) : List Nat :=
  (waiting.filter (fun e => decide (e.num = n))).flatMap (fun e =>
    (held.filter (fun x => decide (x.num ≠ n) && x.zones.any (fun z => e.zones.contains z))).map (fun x => x.num))

/-- Cells reached from a list in at most k steps. -/
def reachCells (f : Nat → List Nat) : Nat → List Nat → List Nat
  | 0, l => l
  | k + 1, l => reachCells f k (l ++ (l.flatMap f).filter (fun x => !l.contains x))

/-- A cycle among waiting entries (R189). DEDUCED (log entry 73). -/
def zoneCycle (held waiting : List ZEntry) (cells : List Nat) : Bool :=
  cells.any (fun c => (reachCells (waitsFor held waiting) 8 (waitsFor held waiting c)).contains c)

/-- GOV.ZONE of every zone. -/
def showZones (s : State) (h : Half) (held : List ZEntry) : State :=
  let own := ownNum s
  (List.range 256).foldl (fun s z =>
    let v := match held.find? (fun e => e.zones.contains z) with
      | some e => (if e.num = own then 2 else 3) + e.num * 16
      | none => (if (ownZones s h).contains z then 1 else 0) + 0x3FF * 16
    s.setWordN (GOV.addr h + 0x400 + 4 * z) v) s

/-- Zone requests at a boundary (R187 to R189): releases, new entries, holding, deadlock, and the registers. -/
def zonesAt (s : State) (h : Half) : State :=
  let s := releaseZones s h
  let s := if (s.gov h).admitted then (List.range 16).foldl (fun s j => requestFor s h j) s
           else s.setGov h { s.gov h with reqs := [] }
  let l := allEntries s h
  let held := l.filter (fun e => entryHolds s h l e)
  let waiting := l.filter (fun e => !entryHolds s h l e)
  let s := showZones s h held
  let own := (held.filter (fun e => decide (e.num = ownNum s))).flatMap (fun e => e.zones)
  let s := s.setGov h { s.gov h with held := own }
  let s := s.setMemBytes (mramAddr (0x6000 + (match h with | .a => 0 | .b => 0x400))) (reqBlock (s.gov h).reqs)
  let s := (List.range 64).foldl (fun s i =>
    s.setWordN (GOV.addr h + 0x800 + 4 * i) (bytesAt (reqBlock (s.gov h).reqs) (4 * i) 4)) s
  let s := s.countIf (waiting.any (fun e => decide (e.num = ownNum s))) (GOV.addr h) GOV.ZONE_WAITS
  let cyc := zoneCycle held waiting (s.gov h).members
  let s := if cyc ∧ !(s.gov h).deadlock then raiseEvt (s.setFlag (GOV.addr h) GOV.ZONE_DEADLOCK) h 108 else s
  s.setGov h { s.gov h with deadlock := cyc }

/-! The scan of a segment (R186). -/

/-- The poses of an arm at the scan points of a segment: both ends and 64 between, equally spaced. -/
def scanPoses (s : State) (h : Half) (j : Nat) (a : PathAt) : List Fx → List Nat → List ArmPose
  | _, [] => []
  | near, x :: xs =>
    let m := armModel s h j 0
    let q := jointsAt s h j near { a with s := a.len * (x : Int) / 65 }
    ArmPose.make m q m.still :: scanPoses s h j a q xs

/-- Runs of true in a list, first and last index. -/
def meetRuns : List Bool → Nat → Option Nat → List (Nat × Nat)
  | [], _, none => []
  | [], i, some a => [(a, i - 1)]
  | true :: l, i, none => meetRuns l (i + 1) (some i)
  | true :: l, i, some a => meetRuns l (i + 1) (some a)
  | false :: l, i, none => meetRuns l (i + 1) none
  | false :: l, i, some a => (a, i - 1) :: meetRuns l (i + 1) none

/-- The intervals of a segment in which the arm meets a zone, widened to the neighbouring scan points. -/
def zoneSpans (s : State) (j : Nat) (ps : List ArmPose) (seg : Nat) (z : ZoneBox) : List ZoneIv :=
  (meetRuns (ps.map (fun p => meetsZone s j p z)) 0 none).map (fun r =>
    ⟨seg % 64, z.num, (r.1 - 1) * 2 ^ 32 / 65, Nat.min 65 (r.2 + 1) * 2 ^ 32 / 65⟩)

/-- The segment's scan is complete (R186): its intervals, of which more than 8 are merged per zone. -/
def zoneScan (s : State) (h : Half) (j seg : Nat) : State :=
  let rd := s.fld (ARM.addr h j) ARM.Q_RD
  let n := (seg + 128 - rd) % 128
  if queuedSegs s h j ≤ n then s
  else
    let a := segPlaceOf s h j n
    let ps := scanPoses s h j a (fxList a.start.q) (List.range 66)
    let l := s.cfg.govZones.flatMap (fun z => zoneSpans s j ps seg z)
    let l := if l.length ≤ 8 then l
      else (l.map (fun z => z.zone)).eraseDups.map (fun n =>
        let k := l.filter (fun z => decide (z.zone = n))
        { seg := seg % 64, zone := n, lo := k.foldl (fun m z => Nat.min m z.lo) (2 ^ 32), hi := k.foldl (fun m z => Nat.max m z.hi) 0 })
    let u := s.arm h j
    s.setArm h j { u with zones := u.zones.filter (fun z => z.seg != seg % 64) ++ l,
                          scanned := u.scanned.filter (fun x => x != seg % 64) ++ [seg % 64] }

/-- A half that becomes active resumes the requests of the one before, from retained MRAM (R177). -/
def resumeZones (s : State) (h from_ : Half) : State :=
  let b := mramAddr (0x6000 + (match from_ with | .a => 0 | .b => 0x400))
  let l := (List.range 16).map (fun i => reqOf (s.memBytes (b + 16 * i) 16))
  s.setGov h { s.gov h with reqs := l.filter (fun r => !r.zones.isEmpty && r.zones.all (fun z => decide (z < 256)) &&
                                                     !decide (r.treq = 0)) }

/-- The module takes no part in its group: TB3 far, or more than 1 us from its input (R358). -/
def groupExcluded (s : State) (h : Half) : Bool :=
  decide (s.fld (TB3X.addr h) TB3X.STATE = 3) || decide (1000 < (s.fldS (TB.addr h 3) TB.LAST_OFS).natAbs)

end Sys2Proof.Machine
end

