-- ==== Sys2Proof/Machine/GovQp.lean ====
section
/-! DEFINITION. The governor's quadratic programme and its interior-point iterations (R168, R174), in real arithmetic. R174 states
how many iterations there are and where they begin; how far an iteration centres and how much of the way to the border it
steps are free values. DESIGN CHOICE (log entry 69). -/
namespace Sys2Proof.Machine

/-- A row of the programme: the sum of its terms is at most its bound. -/
structure QpRow where
  terms : List (Nat × Fx)
  bound : Fx
  deriving DecidableEq, Repr

/-- A programme in n variables: minimise half the quadratic form, given by its matrix's elements, plus the linear one, within the
rows. -/
structure Qp where
  n : Nat
  quad : List (Nat × Nat × Fx)
  lin : List (Nat × Fx)
  rows : List QpRow
  deriving DecidableEq, Repr

/-- The terms of a row as a vector. -/
def denseRow (n : Nat) (l : List (Nat × Fx)) : List Fx :=
  l.foldl (fun (v : List Fx) x => v.set x.1 (v.getD x.1 0 + x.2)) (List.replicate n 0)

/-- The matrix of the quadratic form. -/
def Qp.matrix (q : Qp) : Mat :=
  (List.range q.n).map (fun i => denseRow q.n ((q.quad.filter (fun x => decide (x.1 = i))).map (fun x => x.2)))

/-- A point of the iteration: the variables, the duals and the distances to the bounds of the rows. -/
structure IpPoint where
  x : List Fx
  dual : List Fx
  gap : List Fx
  deriving DecidableEq, Repr

/-- The largest part of a step that keeps a vector above 0. -/
def stepBound (v d : List Fx) : Fx :=
  (v.zip d).foldl (fun (m : Fx) x => if x.2 < 0 then (let b := fxDiv x.1 (-x.2); if b < m then b else m) else m) (2 ^ 24 * fxOne)

/-- A number kept above 0. -/
def positive (x : Fx) : Fx := if x ≤ 0 then 1 else x

/-- The range of binary32. -/
def f32Range (x : Fx) : Bool := decide (fxAbs x < 2 ^ 128 * fxOne)

/-- One iteration: the quasidefinite system is assembled and solved, and the point moves along the solution. centre and part, from
0 to 1: how far toward the centre the iteration aims, and how much of the way to the border it takes. Beside the point, whether
the system and its solution stay in binary32's range. -/
def Qp.iterate (q : Qp) (centre part : Fx) (z : IpPoint) : IpPoint × Bool :=
  let g : Mat := q.rows.map (fun r => denseRow q.n r.terms)
  let gt := Mat.tr g
  let m := q.rows.length
  let mu := if m = 0 then 0 else dotL z.dual z.gap / m
  let aim := fxMul centre mu
  let rd := addL (addL (q.matrix.app z.x) (denseRow q.n q.lin)) (if m = 0 then z.x.map (fun _ => 0) else gt.app z.dual)
  let rp := subL (addL (g.app z.x) z.gap) (q.rows.map (fun r => r.bound))
  let top := List.zipWith (fun (r : List Fx × List Fx) (b : Fx) => r.1 ++ r.2 ++ [b])
    (q.matrix.zip (if m = 0 then z.x.map (fun _ => []) else gt)) (rd.map (fun y => -y))
  let ratio := List.zipWith fxDiv z.gap z.dual
  let low := ((g.zip ratio).zip ((rp.zip z.gap).zip z.dual)).zipIdx.map (fun a =>
    a.1.1.1 ++ (List.replicate m 0).set a.2 (-a.1.1.2) ++ [a.1.2.1.2 - a.1.2.1.1 - fxDiv aim a.1.2.2])
  let d := solveRows (q.n + m) (top ++ low)
  let dx := d.take q.n
  let dd := d.drop q.n
  let dg := (dd.zip (z.gap.zip z.dual)).map (fun a => fxDiv (aim - fxMul a.2.1 a.2.2 - fxMul a.2.1 a.1) a.2.2)
  let b1 := stepBound z.gap dg
  let b2 := stepBound z.dual dd
  let b := fxMul part (if b1 ≤ b2 then b1 else b2)
  let k := if fxOne < b then fxOne else b
  (⟨addL z.x (smulL k dx), (addL z.dual (smulL k dd)).map positive, (addL z.gap (smulL k dg)).map positive⟩,
   (top ++ low).all (fun r => r.all f32Range) && d.all f32Range)

/-- The iterations with their parameters; false as soon as one left the range. -/
def Qp.solve (q : Qp) : List (Fx × Fx) → IpPoint → Bool → IpPoint × Bool
  | [], z, ok => (z, ok)
  | a :: l, z, ok =>
    let r := q.iterate a.1 a.2 z
    q.solve l r.1 (ok && r.2)

/-- Where an iteration begins whose rows have no distances and duals yet: the given ones where the point lies within the row. -/
def Qp.start (q : Qp) (x : List Fx) (gap dual : Fx) : IpPoint :=
  ⟨x, q.rows.map (fun _ => positive dual),
   q.rows.map (fun r => let g := r.bound - dotL (denseRow q.n r.terms) x; if 0 < g then g else positive gap)⟩

end Sys2Proof.Machine
end

