-- ==== Sys2Proof/Machine/Solver.lean ====
section
/-! DEFINITION. The solver array of a half (R138 to R167): submission, the order of work, the operations, result records,
warm starts, sparse schedules and the reset of a channel. -/
namespace Sys2Proof.Machine

/-! Descriptors (R149). -/

/-- Byte i of a descriptor. -/
def dByte (d : List Word) (i : Nat) : Nat := bitsOf (d.getD (i / 4) 0).toNat (i % 4 * 8 + 7) (i % 4 * 8)

/-- The 64-bit field at byte offset i, a multiple of 4. -/
def dQuad (d : List Word) (i : Nat) : Nat := (d.getD (i / 4) 0).toNat + 2 ^ 32 * (d.getD (i / 4 + 1) 0).toNat

def dOp (d : List Word) : Nat := dByte d 0
def dFlag (d : List Word) (i : Nat) : Bool := bitOf (dByte d 1) i
def dBackground (d : List Word) : Bool := dFlag d 0
def dM (d : List Word) : Nat := dByte d 2
def dN (d : List Word) : Nat := dByte d 3
def dK (d : List Word) : Nat := dByte d 4
def dPasses (d : List Word) : Nat := bitsOf (dByte d 5) 3 0
def dBatch (d : List Word) : Nat := dByte d 6 + dByte d 7 * 256
/-- TOL; −0 is 0 (R146). -/
def dTol (d : List Word) : Nat := if (d.getD 2 0).toNat = 2 ^ 31 then 0 else (d.getD 2 0).toNat
def dTau (d : List Word) : Int := toS 8 (dByte d 12)
def dA (d : List Word) : Nat := dQuad d 0x10
def dB (d : List Word) : Nat := dQuad d 0x18
def dX (d : List Word) : Nat := dQuad d 0x20
def dF (d : List Word) : Nat := dQuad d 0x28
def dRes (d : List Word) : Nat := dQuad d 0x30
def dWarm (d : List Word) : Nat := dQuad d 0x38

/-- OP is one of R150. -/
def opKnown (op : Nat) : Bool := decide (1 ≤ op ∧ op ≤ 9) || decide (0x10 ≤ op ∧ op ≤ 0x12)

/-- A sparse operation. -/
def opSparse (op : Nat) : Bool := decide (0x10 ≤ op ∧ op ≤ 0x12)

/-- An operation with refinement. -/
def opRefines (op : Nat) : Bool := [6, 7, 8, 9, 0x11, 0x12].contains op

/-- Rows and columns of each operand of a dense operation (R150): A, B, X and F; none where it is not used. -/
structure Shapes where
  a : Option (Nat × Nat)
  b : Option (Nat × Nat)
  x : Option (Nat × Nat)
  f : Option (Nat × Nat)
  deriving DecidableEq, Repr

def shapesOf (d : List Word) : Shapes :=
  let m := dM d
  let n := dN d
  let k := dK d
  match dOp d with
  | 1 => ⟨some (n, n), none, none, some (n, n)⟩
  | 2 => ⟨some (n, n), none, none, some (n, n)⟩
  | 3 => ⟨some (m, n), none, some (n, 1), some (m, n)⟩
  | 4 => ⟨none, some (n, k), some (n, k), some (n, n)⟩
  | 5 => ⟨some (if dFlag d 4 then (k, m) else (m, k)), some (k, n), some (m, n), none⟩
  | 6 => ⟨some (n, n), some (n, k), some (n, k), some (n, n)⟩
  | 7 => ⟨some (n, n), some (n, k), some (n, k), some (n, n)⟩
  | 8 => ⟨some (m, n), some (m, k), some (n, k), some (m, n)⟩
  | 9 => ⟨some (n, n), some (n, k), some (n, k), some (n, n)⟩
  | _ => ⟨none, none, none, none⟩

/-- S of R151: the stride of a batch for an operand of some bytes. -/
def stride (bytes : Nat) : Nat := divCeil bytes 16 * 16

/-- The bytes an operand of a shape takes in a batch of n problems. -/
def batchBytes (n rows cols : Nat) : Nat := (n - 1) * stride (4 * rows * cols) + 4 * rows * cols

/-- A pointer R143 allows for an operand of some bytes: in the half's DRAM, or in a local memory of its cores through
its own half view, where the memories of a core lie one behind the other (R295), aligned to 16 bytes. -/
def pointerOk (h : Half) (p bytes : Nat) : Bool :=
  let dram := match h with | .a => 0 | .b => 0x80000000
  let inDram := decide (dram ≤ p ∧ p + bytes ≤ dram + 0x80000000)
  let q := p - (viewBase h + 0x2000000)
  let inLocal := decide (viewBase h + 0x2000000 ≤ p ∧ q < 24 * 0x40000) && decide (q % 0x40000 < 0x30000) &&
    decide (q % 0x40000 + bytes ≤ 0x30000)
  decide (p % 16 = 0) && (inDram || inLocal)

/-- Every pointer the operation uses is allowed. The operands of a sparse problem have the resident schedule's sizes.
DEDUCED (log entry 67). -/
def pointersOk (h : Half) (d : List Word) : Bool :=
  let n := dBatch d
  let sp := opSparse (dOp d)
  let sh := shapesOf d
  let ok := fun p (o : Option (Nat × Nat)) => match o with
    | none => true
    | some (r, c) => pointerOk h p (batchBytes n r c)
  let usesWarm := opRefines (dOp d) && (dFlag d 2 || dFlag d 3) && decide (dWarm d ≠ 0)
  let warmBytes := if sp then 32 else batchBytes n 1 (4 + dN d * dK d)
  pointerOk h (dRes d) (16 * n) && (!usesWarm || pointerOk h (dWarm d) warmBytes) &&
    (if sp then
      pointerOk h (dA d) 4 && (decide (dOp d = 0x10) || (pointerOk h (dB d) 4 && pointerOk h (dX d) 4))
    else ok (dA d) sh.a && ok (dB d) sh.b && ok (dX d) sh.x && ok (dF d) sh.f)

/-- M, N and K are in the ranges of R149 and R150 for the operation. -/
def dimsOk (d : List Word) : Bool :=
  let op := dOp d
  let r := fun x => decide (1 ≤ x ∧ x ≤ 16)
  if opSparse op then decide (dK d ≤ 7)
  else
    r (dM d) && r (dN d) &&
    (if op = 5 then true else if op = 3 ∨ op = 8 then decide (dN d ≤ dM d) else decide (dM d = dN d)) &&
    (if op = 1 ∨ op = 2 ∨ op = 3 then true else r (dK d))

/-- The fields of code 8. -/
def fieldsOk (d : List Word) : Bool :=
  let tol := (d.getD 2 0).toNat
  decide (dPasses d ≤ 8) && decide (bitsOf (dByte d 5) 7 4 = 0) && decide (bitsOf (dByte d 1) 7 6 = 0) &&
  decide (dByte d 13 = 0 ∧ dByte d 14 = 0 ∧ dByte d 15 = 0) &&
  (decide (dTau d = 0) || decide (-40 ≤ dTau d ∧ dTau d ≤ -1)) &&
  decide (bitsOf tol 30 23 ≠ 255) && (!bitOf tol 31 || decide (tol = 0x80000000))

/-- The port code of a descriptor on channel k (R153): the static checks, before the room in the queue. -/
def portCode (h : Half) (k : Nat) (d : List Word) : Nat :=
  let op := dOp d
  if 17 < k then 2
  else if !opKnown op then 4
  else if decide (16 ≤ k) != opSparse op then 2
  else if !dimsOk d then 5
  else if dBatch d = 0 ∨ 256 < dBatch d ∨ (opSparse op ∧ 1 < dBatch d) then 6
  else if !pointersOk h d then 7
  else if !fieldsOk d then 8
  else 0

/-! Schedules (R158 to R162). -/

/-- Where the module keeps the image in slot s of sparse channel 16 + c. -/
def slotAddr (h : Half) (c s : Nat) : Nat :=
  0x10200000000 + (match h with | .a => 0 | .b => 1) * (16 * 262144) + (8 * c + s) * 262144

/-- Word i of the header copy of a slot. -/
def hdrWord (s : State) (h : Half) (c sl i : Nat) : Nat := s.wordN (SOLV.addr h + 0x3000 + c * 0x200 + sl * 0x40 + 4 * i)

/-- The state register of a slot. -/
def slotStateAddr (h : Half) (c sl : Nat) : Nat := SOLV.addr h + 0x3400 + c * 0x20 + 4 * sl

def slotState (s : State) (h : Half) (c sl : Nat) : Nat := s.wordN (slotStateAddr h c sl)

def slotRows (s : State) (h : Half) (c sl : Nat) : Nat := hdrWord s h c sl 2 % 65536

/-- The estimated steps of one problem (R164, R165): the figures the chapter lists, otherwise an open function of the
shape. -/
def stepsOf (s : State) (h : Half) (k : Nat) (d : List Word) : Nat :=
  let op := dOp d
  let m := dM d
  let n := dN d
  let r := dK d
  let p := dPasses d
  if opSparse op then
    let c := k - 16
    let hw := hdrWord s h c (r % 8)
    (if op = 0x12 then 0 else hw 6) + (if op = 0x10 then 0 else hw 7 + p * hw 8)
  else if op = 1 ∧ n = 6 then 16
  else if op = 1 ∧ n = 9 then 32
  else if op = 1 ∧ n = 16 then 172
  else if op = 2 ∧ n = 6 then 14
  else if op = 3 ∧ m = 6 ∧ n = 6 then 84
  else if op = 3 ∧ m = 16 ∧ n = 16 then 1380
  else if op = 8 ∧ m = 16 ∧ n = 6 ∧ r = 1 ∧ p = 0 then 270
  else if op = 4 ∧ n = 6 ∧ r = 1 then 8
  else if op = 4 ∧ n = 16 ∧ r = 1 then 34
  else if op = 5 ∧ m = 6 ∧ n = 6 ∧ r = 6 then 56
  else if op = 5 ∧ m = 16 ∧ n = 16 ∧ r = 16 then 1026
  else if op = 6 ∧ n = 6 ∧ r = 1 then 32 + 25 * p
  else (Config.solverSteps (op + 256 * p) m n r).toNat

/-! Queues (R140, R141). -/

/-- A channel. -/
def solverCh (s : State) (h : Half) (k : Nat) : SolverCh := (s.solver h).chs.getD k .reset

/-- The estimated steps of the queued and running work of a channel. -/
def chSteps (c : SolverCh) : Nat :=
  c.queue.foldl (fun n x => n + (dBatch x.words - x.done) * x.steps) 0

/-- A channel takes a new value, and its status registers show it. -/
def setSolverCh (s : State) (h : Half) (k : Nat) (c : SolverCh) : State :=
  let u := s.solver h
  let s := s.setSolver h { u with chs := u.chs.set k c }
  let b := CH.addr h k
  let run := c.run.bind (fun i => c.queue[i]?)
  let s := s.setFld b CH.QUEUED (c.queue.length - b2n run.isSome)
  let s := s.putFlag b CH.CBUSY run.isSome
  let s := s.putFlag b CH.RUN_CLASS ((run.map (fun x => dBackground x.words)).getD false)
  s.setFld b CH.STEPS_QUEUED (Nat.min (chSteps c) (2 ^ 32 - 1))

/-- The index of the next descriptor: the first of the required class, else the first (R141). -/
def nextDesc (q : List SolverDesc) : Option Nat :=
  match q.findIdx? (fun x => !dBackground x.words) with
  | some i => some i
  | none => if q.isEmpty then none else some 0

/-- The dense channel with the fewest estimated steps, the lowest on a tie. -/
def leastDense (s : State) (h : Half) : Nat :=
  (List.range 16).foldl (fun b k => if chSteps (solverCh s h k) < chSteps (solverCh s h b) then k else b) 0

/-- A write to a submit port (R140). DESIGN CHOICE (log entry 68). -/
def solverSubmit (s : State) (h : Half) (p v : Nat) : State :=
  let b := SOLV.addr h
  let off := bitsOf v 30 6 * 64
  let d := s.memWords (dramAddr h off) 16
  let k := if bitsOf v 5 0 = 63 then leastDense s h else bitsOf v 5 0
  let code := portCode h k d
  let c := solverCh s h k
  let full := decide (32 ≤ c.queue.length - b2n c.run.isSome)
  let code := if code = 0 ∧ full then 1 else code
  let s := s.setFld b (SOLV.PORT_CODE.nth p) code
  if code ≠ 0 then raiseEvt s h 147
  else
    let s := s.setFld b (SOLV.PLACED.nth p) k
    let q := c.queue ++ [⟨off, d, 0, stepsOf s h k d⟩]
    setSolverCh s h k { c with queue := q, run := match c.run with | none => nextDesc q | some i => some i }

/-! Signatures and warm starts (R154 to R157). -/

/-- The family of an operation. -/
def opFamily (d : List Word) : Nat :=
  match dOp d with
  | 1 => 1
  | 6 => 1
  | 2 => 2
  | 7 => 2
  | 3 => 3
  | 8 => 3
  | 4 => 4
  | 5 => 5
  | 9 => if dFlag d 5 then 2 else 1
  | _ => 8

/-- The structure signature of a problem; rows, schedule ID and hash are those of a sparse slot. -/
def signature (d : List Word) (rows id hash : Nat) : Nat :=
  let sp := opSparse (dOp d)
  crc32c ([BitVec.ofNat 8 (opFamily d), 0] ++ leBytes 2 (if sp then rows else dM d) ++ leBytes 2 (if sp then rows else dN d) ++
    leBytes 2 (if sp then 1 else dK d) ++ leBytes 4 (if sp then id else 0) ++ leBytes 4 (if sp then hash else 0))

/-- The values of a warm-start block the channel accepts (R155). DEDUCED (log entry 67). -/
def warmValues (s : State) (at_ sig count : Nat) : Option (List Nat) :=
  let vs := (s.memWords (at_ + 16) count).map BitVec.toNat
  if s.memN at_ = sig ∧ s.memN (at_ + 4) = count ∧ !(canonIns vs).2.1 then some vs else none

/-! The operations. -/

/-- What a problem gives: the elements of F to write (none: not written), X, the flags, RESID, DX, the passes and
NOT_CONVERGED. -/
structure Solved where
  f : List (Option Nat)
  x : List Nat
  fl : SolveFlags
  resid : Nat
  dx : Nat
  passes : Nat
  bad : Bool
  deriving DecidableEq, Repr

/-- The elements of an n by n matrix in the lower triangle. -/
def lowerMask (n : Nat) (f : List Nat) : List (Option Nat) :=
  (List.range (n * n)).map (fun e => if e % n < e / n then none else some (f.getD e 0))

/-- The elements of A (or of the triangle F) an operation reads: the lower triangle of a symmetric input. -/
def lowerOnly (n : Nat) (unit : Bool) (a : List Nat) : List Nat :=
  (List.range (n * n)).map (fun e => if e % n < e / n ∨ (unit ∧ e % n = e / n) then 0 else a.getD e 0)

/-- τ exponent of a problem: the descriptor's, or that of SOLV.CFG, −20 by default (R148). DEDUCED (log entry 116). -/
def tauOf (s : State) (h : Half) (d : List Word) : Int :=
  if dTau d = 0 then
    let c := s.fld (SOLV.addr h) SOLV.TAU_EXP
    if c = 0 then -20 else toS 8 c
  else dTau d

/-- The triangle of a given factor with its pivots replaced where R148 says so, in the order they are used. -/
def fixDiag (n t : Nat) (rows : List Nat) (f : List Nat) : SolveM (List Nat) :=
  rows.foldlM (fun f i => do
    let p ← pivotSgn t i (mget f n i i)
    pure (f.set (i * n + i) p)) f

/-- The part of a result that a solving operation gives: x by refinement from the direct solution or the warm start, with what the
record says of it (R147, R152, R156); res gives b − A x, and solve a solution for a right-hand side. -/
def solveBy (d : List Word) (res solve : List Nat → SolveM (List Nat)) (b : List Nat) (warm : Option (List Nat)) : SolveM Solved := do
  let x0 ← match warm with
    | some w => pure w
    | none => solve b
  let r ← refine res solve (dTol d) (dPasses d) warm.isSome x0
  let e ← res r.x
  pure ⟨[], r.x, .none, normInf e, r.dx, r.passes, r.bad⟩

/-- The residuals of every right-hand side of a dense problem of m rows. -/
def denseResidual (d : List Word) (m : Nat) (el : Nat → Nat → Nat) (b x : List Nat) : SolveM (List Nat) :=
  (List.range (dK d)).foldlM (fun acc c => do
    let r ← residual el m (dN d) (column b m c) (column x (dN d) c)
    pure (acc ++ r)) ([] : List Nat)

/-- A solving operation with a symmetric matrix a, its factor and right-hand sides. -/
def solveSym (d : List Word) (a f : List Nat) (ldl : Bool) (b : List Nat) (warm : Option (List Nat)) : SolveM Solved :=
  let n := dN d
  solveBy d (denseResidual d n (symEl a n) b) (fun v => perColumn (dK d) n v (factorSolve f n ldl)) b warm

/-- The dense operations. -/
def denseOp (d : List Word) (tau : Int) (a b f : List Nat) (warm : Option (List Nat)) : SolveM Solved := do
  let n := dN d
  let k := dK d
  let m := dM d
  match dOp d with
  | 1 =>
    let l ← cholF a n (pivotLimit tau (maxDiagPos a n))
    pure ⟨lowerMask n l, [], .none, 0, 0, 0, false⟩
  | 2 =>
    let l ← ldltF a n (pivotLimit tau (maxDiagAbs a n))
    pure ⟨lowerMask n l, [], .none, 0, 0, 0, false⟩
  | 4 =>
    let unit := dFlag d 5
    let order := if dFlag d 4 then (List.range n).reverse else List.range n
    let f ← if unit then pure f else fixDiag n (pivotLimit tau (maxDiagAbs f n)) order f
    let x ← perColumn k n b (if dFlag d 4 then upperSolve f n unit else lowerSolve f n unit)
    pure ⟨[], x, .none, 0, 0, 0, false⟩
  | 5 =>
    let el := fun i j => if dFlag d 4 then mget a k j i else mget a m i j
    let x ← (List.range (m * n)).mapM (fun e =>
      store32 (wideDot false ((List.range k).map (fun j => (el (e % m) j, mget b k j (e / m)))) (0, 0)))
    pure ⟨[], x, .none, 0, 0, 0, false⟩
  | 6 =>
    let l ← cholF a n (pivotLimit tau (maxDiagPos a n))
    let r ← solveSym d a l false b warm
    pure { r with f := lowerMask n l }
  | 7 =>
    let l ← ldltF a n (pivotLimit tau (maxDiagAbs a n))
    let r ← solveSym d a l true b warm
    pure { r with f := lowerMask n l }
  | 3 =>
    let q ← qrF a m n tau
    pure ⟨q.cols.flatten.map some, q.taus, .none, 0, 0, 0, false⟩
  | 8 =>
    let q ← qrF a m n tau
    let r ← solveBy d (denseResidual d m (mget a m) b) (fun v => perColumn k m v (qrSolve q)) b warm
    pure { r with f := q.cols.flatten.map some }
  | _ =>
    let l ← fixDiag n (pivotLimit tau (maxDiagAbs f n)) (List.range n) f
    solveSym d a l (dFlag d 5) b warm

/-- n free values. -/
def takeFrees (s : State) : Nat → List Quad × State
  | 0 => ([], s)
  | n + 1 =>
    let (v, s) := s.takeFree
    let (l, s) := takeFrees s n
    (v :: l, s)

/-- The values a problem writes are undefined where its operands overlap (R143): free values take their place. -/
def undefinedValues (s : State) (sv : Solved) : Solved × State :=
  let (fs, s) := takeFrees s sv.f.length
  let (xs, s) := takeFrees s sv.x.length
  let (w, s) := s.takeFree
  ({ sv with f := List.zipWith (fun o v => o.map (fun _ => v.toNat % 2 ^ 32)) sv.f fs, x := xs.map (fun v => v.toNat % 2 ^ 32),
             resid := w.toNat % 2 ^ 32, dx := w.toNat / 2 ^ 32 }, s)

/-! The result record (R152). -/

/-- The status word. -/
def statusWord (sv : Solved) (inv warmRej : Bool) (refuse : Nat) : Nat :=
  let fl := sv.fl
  let reg := decide (0 < fl.regs)
  1 + b2n (inv || fl.ovf || reg || decide (refuse ≠ 0)) * 2 + b2n inv * 4 + b2n fl.ovf * 8 + b2n fl.unf * 16 +
    b2n reg * 32 + b2n warmRej * 64 + b2n sv.bad * 128 + refuse % 16 * 2 ^ 8 + sv.passes % 16 * 2 ^ 12 +
    (fl.reg.getD 0) % 4096 * 2 ^ 16 + Nat.min fl.regs 15 * 2 ^ 28

/-- The record: words 4 to 12 first, the status word last (R144). -/
def writeRecord (s : State) (at_ sig resid dx status : Nat) : State :=
  let s := s.setMemN (at_ + 4) sig
  let s := s.setMemN (at_ + 8) resid
  let s := s.setMemN (at_ + 12) dx
  s.setMemN at_ status

/-- Write the given elements of a matrix. -/
def writeElems (s : State) (at_ : Nat) : List (Option Nat) → State
  | [] => s
  | none :: t => writeElems s (at_ + 4) t
  | some v :: t => writeElems (s.setMemN at_ v) (at_ + 4) t

/-- The counters and flags of a completed problem, and event 146 where it is flagged. -/
def noteProblem (s : State) (h : Half) (k status : Nat) : State :=
  let b := CH.addr h k
  let s := s.count b CH.DONE_CNT
  let s := s.countIf (bitOf status 1) b CH.FLAG_CNT
  let s := s.countIf (bitOf status 6) b CH.WARM_REJECT_CNT
  let s := s.countIf (decide (bitsOf status 11 8 ≠ 0)) b CH.REFUSE_CNT
  let s := s.countIf (bitOf status 5) b CH.REG_CNT
  let s := s.countIf (bitOf status 3) b CH.OVF_CNT
  if bitOf status 1 then
    raiseEvt (s.setFld (SOLV.addr h) SOLV.FLAGGED (setBit (s.fld (SOLV.addr h) SOLV.FLAGGED) k true)) h 146
  else s

/-- Elements of an operand of problem j. -/
def operand (s : State) (at_ j : Nat) (o : Option (Nat × Nat)) : List Nat :=
  match o with
  | none => []
  | some (r, c) => (s.memWords (at_ + j * stride (4 * r * c)) (r * c)).map BitVec.toNat

/-- What follows X and the flags for every problem: outputs, warm-start write-back, record, counters. -/
def finishProblem (s : State) (h : Half) (k : Nat) (sv : Solved) (inv rej : Bool) (refuse sig : Nat)
    (fAt xAt resAt : Nat) (warmAt : Option Nat) : State :=
  let s := writeElems s fAt sv.f
  let s := writeElems s xAt (sv.x.map some)
  let s := match warmAt with
    | none => s
    | some a => ((s.setMemN a sig).setMemN (a + 4) sv.x.length).setMemWords (a + 16) (sv.x.map (BitVec.ofNat 32))
  let st := statusWord sv inv rej refuse
  noteProblem (writeRecord s resAt sig sv.resid sv.dx st) h k st

/-- The outputs of a problem that is not computed: +0 (R146, R153). -/
def zeroSolved (f : List (Option Nat)) (x : Nat) : Solved :=
  ⟨f.map (fun o => o.map (fun _ => 0)), List.replicate x 0, .none, 0, 0, 0, false⟩

/-- The elements of F an operation writes. -/
def fShape (d : List Word) : List (Option Nat) :=
  match dOp d with
  | 1 => lowerMask (dN d) []
  | 2 => lowerMask (dN d) []
  | 6 => lowerMask (dN d) []
  | 7 => lowerMask (dN d) []
  | 3 => List.replicate (dM d * dN d) (some 0)
  | 8 => List.replicate (dM d * dN d) (some 0)
  | _ => []

/-- Two regions of memory, as address and bytes, meet. -/
def meets (a b : Nat × Nat) : Bool := decide (a.1 < b.1 + b.2 ∧ b.1 < a.1 + a.2)

/-- An output of a descriptor overlaps an input or another output where no operation allows it: X of TRSV may equal B (R143,
R150). -/
def overlapping (d : List Word) (reads writes : List (Nat × Nat)) : Bool :=
  let used (l : List (Nat × Nat)) := l.filter (fun r => decide (0 < r.2))
  let w := used writes
  w.any (fun o => (used reads).any (fun i => meets o i && !(decide (dOp d = 4) && decide (o = i)))) ||
    decide (¬ w.Pairwise (fun a b => meets a b = false))

/-- The region of an operand over the whole batch. -/
def region (d : List Word) (p : Nat) (o : Option (Nat × Nat)) : Nat × Nat :=
  match o with
  | none => (p, 0)
  | some (r, c) => (p, batchBytes (dBatch d) r c)

/-- The operands of a dense descriptor overlap. -/
def denseOverlap (d : List Word) : Bool :=
  let sh := shapesOf d
  let a := region d (dA d) sh.a
  let b := region d (dB d) sh.b
  let f := region d (dF d) sh.f
  let rec_ := (dRes d, 16 * dBatch d)
  let given := decide (dOp d = 4 ∨ dOp d = 9)
  if given then overlapping d [a, b, f] [region d (dX d) sh.x, rec_] else overlapping d [a, b] [f, region d (dX d) sh.x, rec_]

/-- Problem j of a dense descriptor. DESIGN CHOICE (log entry 65). -/
def denseProblem (s : State) (h : Half) (k : Nat) (d : List Word) (j : Nat) : State :=
  let sh := shapesOf d
  let op := dOp d
  let n := dN d
  let sig := signature d 0 0 0
  let sym := decide (op = 1 ∨ op = 2 ∨ op = 6 ∨ op = 7 ∨ op = 9)
  let a0 := operand s (dA d) j sh.a
  let a0 := if sym then lowerOnly n false a0 else a0
  let b0 := operand s (dB d) j sh.b
  let f0 := if op = 4 then lowerOnly n (dFlag d 5) (operand s (dF d) j sh.f)
            else if op = 9 then lowerOnly n false (operand s (dF d) j sh.f) else []
  let (a, ia, ua) := canonIns a0
  let (b, ib, ub) := canonIns b0
  let (f, iff, uf) := canonIns f0
  let inv := ia || ib || iff
  let at_ := fun p (o : Option (Nat × Nat)) => match o with
    | none => p
    | some (r, c) => p + j * stride (4 * r * c)
  let fAt := at_ (dF d) sh.f
  let xAt := at_ (dX d) sh.x
  let xLen := match sh.x with | none => 0 | some (r, c) => r * c
  let resAt := dRes d + 16 * j
  let hasWarm := opRefines op && decide (dWarm d ≠ 0)
  let wAt := dWarm d + j * stride (16 + 4 * xLen)
  let w0 := if hasWarm && dFlag d 2 then warmValues s wAt sig xLen else none
  let rej := hasWarm && dFlag d 2 && w0.isNone
  let warm := w0.map (fun l => (canonIns l).1)
  let uw := (w0.map (fun l => (canonIns l).2.2)).getD false
  let start : SolveFlags := { SolveFlags.none with unf := ua || ub || uf || uw }
  let wOut := if hasWarm && dFlag d 3 then some wAt else none
  if inv then
    let sv := { zeroSolved (fShape d) xLen with fl := start }
    finishProblem s h k sv true rej 0 sig fAt xAt resAt wOut
  else
    let (sv, fl) := (denseOp d (tauOf s h d) a b f warm).run start
    let (sv, s) := if denseOverlap d then undefinedValues s sv else (sv, s)
    finishProblem s h k { sv with fl := fl } false rej 0 sig fAt xAt resAt wOut

/-- The entries of row i of a sparse symmetric matrix: element and column, from the pattern list and the values of its
lower triangle. -/
def sparseRow (pat : List (Nat × Nat)) (a x : List Nat) (i : Nat) : List (Nat × Nat) :=
  ((pat.zip a).filterMap (fun e =>
    if e.1.1 = i then some (e.2, x.getD e.1.2 0)
    else if e.1.2 = i then some (e.2, x.getD e.1.1 0)
    else none))

/-- b − A x of a sparse matrix. -/
def sparseResidual (pat : List (Nat × Nat)) (a b x : List Nat) : SolveM (List Nat) :=
  (List.range b.length).mapM (fun i => minusDot (b.getD i 0) (sparseRow pat a x i))

/-- Element (i, j) of a sparse symmetric matrix. -/
def sparseEl (pat : List (Nat × Nat)) (a : List Nat) (i j : Nat) : Nat :=
  (((pat.zip a).find? (fun e => decide (e.1 = (i, j) ∨ e.1 = (j, i)))).map (fun e => e.2)).getD 0

/-- The order in which a schedule of n rows eliminates them; the rows' own where the program names none. -/
def elimination (img : List Byte) (n : Nat) : List Nat :=
  let o := Config.elimOrder img
  if o.isPerm (List.range n) then o else List.range n

/-- The sparse LDLᵀ factor of A in an order of elimination; neg says of a row that its expected sign is negative (R148, R159).
DESIGN CHOICE (log entry 66). -/
def sparseFact (pat : List (Nat × Nat)) (a order : List Nat) (tau : Int) (neg : Nat → Bool) : SolveM SparseFactor := do
  let n := order.length
  let row (i : Nat) : Nat := order.getD i 0
  let m := (List.range (n * n)).map (fun e => if e % n < e / n then 0 else sparseEl pat a (row (e % n)) (row (e / n)))
  let f ← ldltWith m n (fun j d => pivotSigned (pivotLimit tau (maxDiagAbs m n)) (row j) (neg (row j)) d)
  pure ⟨order, f⟩

/-- The solution a sparse factor gives for a right-hand side. -/
def sparseSolve (q : SparseFactor) (b : List Nat) : SolveM (List Nat) := do
  let n := q.order.length
  let y ← factorSolve q.f n true (q.order.map (fun r => b.getD r 0))
  pure ((List.range n).map (fun r => y.getD (q.order.idxOf r) 0))

/-- The factor memory of sparse channel 16 + c. -/
def factorOf (s : State) (h : Half) (c : Nat) : Option SparseFactor := (s.solver h).facts.getD c none

/-- The factor memory takes a factor or none. -/
def putFactor (s : State) (h : Half) (c : Nat) (q : Option SparseFactor) : State :=
  let u := s.solver h
  s.setSolver h { u with facts := u.facts.set c q }

/-- What a sparse problem gives with a factor: nothing but the factor for SP_FACT, else the solution. -/
def sparseResult (d : List Word) (pat : List (Nat × Nat)) (a b : List Nat) (warm : Option (List Nat)) (q : SparseFactor) : SolveM Solved :=
  if dOp d = 0x10 then pure ⟨[], [], .none, 0, 0, 0, false⟩
  else solveBy d (sparseResidual pat a b) (sparseSolve q) b warm

/-- The problem of a sparse descriptor (R158 to R162). DESIGN CHOICE (log entry 65). DEDUCED (log entry 66). -/
def sparseProblem (s : State) (h : Half) (k : Nat) (d : List Word) : State :=
  let op := dOp d
  let c := k - 16
  let sl := dK d
  let ch := CH.addr h k
  let rows := slotRows s h c sl
  let id := hdrWord s h c sl 1
  let hash := hdrWord s h c sl 5
  let sig := signature d rows id hash
  let xLen := if op = 0x10 then 0 else rows
  let solves := decide (op ≠ 0x10)
  let facts := decide (op ≠ 0x12)
  let refuse :=
    if slotState s h c sl ≠ 2 then 9
    else if dF d % 2 ^ 32 ≠ id ∨ dF d / 2 ^ 32 ≠ hash then 10
    else if op = 0x12 ∧ ¬(s.flag ch CH.FACT_VALID = true ∧ s.fld ch CH.FACT_SLOT = sl) then 11
    else 0
  let factDone := fun (s : State) (ok : Bool) =>
    if facts then (s.putFlag ch CH.FACT_VALID ok).setFld ch CH.FACT_SLOT sl else s
  if refuse ≠ 0 then
    finishProblem (factDone (if facts then putFactor s h c none else s) false) h k (zeroSolved [] xLen) false false refuse sig 0 (dX d) (dRes d) none
  else
    let nnz := hdrWord s h c sl 3
    let (a, ia, ua) := canonIns ((s.memWords (dA d) nnz).map BitVec.toNat)
    let (b, ib, ub) := canonIns ((s.memWords (dB d) xLen).map BitVec.toNat)
    let inv := ia || ib
    let hasWarm := opRefines op && decide (dWarm d ≠ 0)
    let w0 := if hasWarm && dFlag d 2 then warmValues s (dWarm d) sig xLen else none
    let rej := hasWarm && dFlag d 2 && w0.isNone
    let uw := (w0.map (fun l => (canonIns l).2.2)).getD false
    let start : SolveFlags := { SolveFlags.none with unf := ua || ub || uw }
    let wOut := if hasWarm && dFlag d 3 then some (dWarm d) else none
    let s := factDone (if facts && inv then putFactor s h c none else s) (!inv)
    if inv then
      finishProblem s h k { zeroSolved [] xLen with fl := start } true rej 0 sig 0 (dX d) (dRes d) wOut
    else
      let img := s.memBytes (slotAddr h c sl) (hdrWord s h c sl 9)
      let pat := (s.memWords (slotAddr h c sl + 0x40) nnz).map (fun w => (w.toNat % 65536, w.toNat / 65536))
      let signs := bitOf (hdrWord s h c sl 0) 16
      let neg (r : Nat) : Bool := signs && bitOf (s.memN (slotAddr h c sl + 0x40 + 4 * nnz + r / 32 * 4)) (r % 32)
      let known := factorOf s h c
      let run : SolveM (Solved × SparseFactor) := do
        let q ← match facts, known with
          | false, some q => pure q
          | _, _ => sparseFact pat a (elimination img rows) (tauOf s h d) neg
        let r ← sparseResult d pat a b (w0.map (fun l => (canonIns l).1)) q
        pure (r, q)
      let ((sv, q), fl) := run.run start
      let s := if facts then putFactor s h c (some q) else s
      let bytes (n : Nat) : Nat := if solves then 4 * n else 0
      let shared := overlapping d [(dA d, 4 * nnz), (dB d, bytes rows)] [(dX d, bytes rows), (dRes d, 16)]
      let (sv, s) := if shared then undefinedValues s sv else (sv, s)
      finishProblem s h k { sv with fl := fl } false rej 0 sig 0 (dX d) (dRes d) wOut

/-- The running problem of a channel completes (R144). -/
def solverComplete (s : State) (h : Half) (k : Nat) : State :=
  let c := solverCh s h k
  match c.run with
  | none => s
  | some i =>
    match c.queue[i]? with
    | none => s
    | some x =>
      let d := x.words
      let s := if opSparse (dOp d) then sparseProblem s h k d else denseProblem s h k d x.done
      let last := decide (dBatch d ≤ x.done + 1)
      let q := if last then c.queue.eraseIdx i else c.queue.set i { x with done := x.done + 1 }
      let s := setSolverCh s h k { c with queue := q, run := nextDesc q }
      if last then
        raiseIf (s.setFld (CH.addr h k) CH.LAST_DESC x.at_) (dFlag d 1) h (128 + k)
      else s

/-! Reset of a channel (R166). -/

/-- The record of a flushed problem. DEDUCED (log entry 66). -/
def flushProblem (s : State) (h : Half) (k : Nat) (d : List Word) (j : Nat) : State :=
  let c := k - 16
  let sl := dK d
  let sig := if opSparse (dOp d) then signature d (slotRows s h c sl) (hdrWord s h c sl 1) (hdrWord s h c sl 5)
             else signature d 0 0 0
  let st := 1 + 2 + 12 * 2 ^ 8
  noteProblem (writeRecord s (dRes d + 16 * j) sig 0 0 st) h k st

/-- Every remaining problem of a descriptor is flushed. DEDUCED (log entry 66). -/
def flushDesc (s : State) (h : Half) (k : Nat) (x : SolverDesc) : State :=
  let s := (List.range (dBatch x.words - x.done)).foldl (fun s j => flushProblem s h k x.words (x.done + j)) s
  raiseIf s (dFlag x.words 1) h (128 + k)

/-- CH.CTRL RESET. -/
def channelReset (s : State) (h : Half) (k : Nat) : State :=
  let s := (solverCh s h k).queue.foldl (fun s x => flushDesc s h k x) s
  let u := s.solver h
  let s := s.setSolver h { u with chs := u.chs.set k .reset, facts := if 16 ≤ k then u.facts.set (k - 16) none else u.facts }
  s.resetRegs (CH.addr h k) 0x100

/-- CH.CTRL CLR_CNT. -/
def chClrCnt (s : State) (h : Half) (k : Nat) : State :=
  ((s.setWordN (CH.addr h k + 0x08) 0).setWordN (CH.addr h k + 0x0C) 0).setWordN (CH.addr h k + 0x10) 0

/-- A write of CH.CTRL. -/
def chCtrl (s : State) (h : Half) (k v : Nat) : State :=
  let s := if bitOf v 0 then channelReset s h k else s
  if bitOf v 1 then chClrCnt s h k else s

/-! Schedule loads (R160, R161). -/

/-- A descriptor of the channel names the slot. -/
def slotNamed (s : State) (h : Half) (c sl : Nat) : Bool :=
  (solverCh s h (16 + c)).queue.any (fun x => decide (dK x.words = sl))

/-- The header, pattern and image checks of a schedule whose bytes lie at an address, within a limit of bytes.
DEDUCED (log entry 67). -/
def schedOk (s : State) (a room : Nat) : Bool :=
  let w := fun i => s.memN (a + 4 * i)
  let len := w 9
  let rows := w 2 % 65536
  (List.range (Nat.min (w 3) 32768)).all (fun i =>
    let e := w (16 + i)
    decide (e / 65536 ≤ e % 65536 ∧ e % 65536 < rows)) &&
  decide (w 0 % 65536 = 1) && decide (1 ≤ w 2 % 65536 ∧ w 2 % 65536 ≤ 4096) && decide (1 ≤ w 3 ∧ w 3 ≤ 32768) &&
  decide (w 4 ≤ 65536) && decide (64 ≤ len ∧ len ≤ 262144 ∧ len ≤ room) &&
  decide (w 15 = crc32c (s.memBytes a 60 ++ [0, 0, 0, 0] ++ s.memBytes (a + 64) (len - 64)))

/-- The slot takes the image of len bytes at an address: copied, with its header copy, resident. -/
def installSched (s : State) (h : Half) (c sl a : Nat) : State :=
  let len := Nat.min (s.memN (a + 36)) 262144
  let hdr := s.memWords a 16
  let img := s.memBytes a len
  let s := { s with mem := storeClear s.mem (slotAddr h c sl) 262144 }
  let s := s.setMemBytes (slotAddr h c sl) img
  let s := s.setWords (SOLV.addr h + 0x3000 + c * 0x200 + sl * 0x40) hdr
  s.setWordN (slotStateAddr h c sl) 2

/-- The slot holds nothing, with a state of 0 or 3. -/
def emptySlot (s : State) (h : Half) (c sl st : Nat) : State :=
  let s := { s with mem := storeClear s.mem (slotAddr h c sl) 262144 }
  let s := s.setWords (SOLV.addr h + 0x3000 + c * 0x200 + sl * 0x40) (List.replicate 16 0)
  s.setWordN (slotStateAddr h c sl) st

/-- SP.LOAD_CMD GO. -/
def spLoad (s : State) (h : Half) (sl c : Nat) : State :=
  let b := SOLV.addr h
  if slotNamed s h c sl then raiseEvt (s.setFld b SOLV.LOAD_RESULT 2) h 148
  else
    let u := s.solver h
    let s := s.setSolver h { u with loads := u.loads.filter (fun l => !(decide (l.1 = c) && decide (l.2.1 = sl))) ++
      [(c, sl, s.fld b SOLV.LOAD_ADDR / 64 * 64)] }
    let s := if s.fld (CH.addr h (16 + c)) CH.FACT_SLOT = sl then
        putFactor (s.setFld (CH.addr h (16 + c)) CH.FACT_VALID 0) h c none else s
    (emptySlot s h c sl 1).setFld b SOLV.LOAD_RESULT 1

/-- A load finishes (R161). -/
def spLoadComplete (s : State) (h : Half) (c sl : Nat) : State :=
  let b := SOLV.addr h
  match (s.solver h).loads.find? (fun l => decide (l.1 = c) && decide (l.2.1 = sl)) with
  | none => s
  | some (_, _, off) =>
    let u := s.solver h
    let s := s.setSolver h { u with loads := u.loads.filter (fun l => !(decide (l.1 = c) && decide (l.2.1 = sl))) }
    let a := dramAddr h off
    if schedOk s a (0x80000000 - off) then
      raiseEvt ((installSched s h c sl a).setFld b SOLV.LOAD_RESULT 0) h 148
    else raiseEvt ((emptySlot s h c sl 3).setFld b SOLV.LOAD_RESULT 3) h 148

/-! Reset of the half and the standby's descriptors. -/

/-- At a half reset every slot is emptied, and the slots the image names are loaded again from the image in use, of which the module holds its own copy (R166,
R438). DESIGN CHOICE (log entry 68). -/
def reloadScheds (s : State) (h : Half) : State :=
  let s := (List.range 16).foldl (fun s i => emptySlot s h (i / 8) (i % 8) 0) s
  match s.image with
  | none => s
  | some img =>
    ((imgSections img.cells).filter (fun x => decide (x.typ = 7))).foldl (fun s x =>
      let c := x.inst / 8 % 2
      let sl := x.inst % 8
      let s := (imgSectionCells img.cells x).foldl (fun s b => s.setByte (slotAddr h c sl + b.1 % 262144) b.2) s
      let s := s.setWords (SOLV.addr h + 0x3000 + c * 0x200 + sl * 0x40) (s.memWords (slotAddr h c sl) 16)
      s.setWordN (slotStateAddr h c sl) 2) s

end Sys2Proof.Machine
end

