-- ==== Sys2Proof/Machine/Governor.lean ====
section
/-! DEFINITION. The coordination governor (R168 to R176): the programme of a planning tick, its release and what it publishes, the
fallback of R49, and what a tick boundary does. -/
namespace Sys2Proof.Machine

/-! Speed scales over a tick (R49, R169, R175). -/

/-- The planning tick in ns. -/
def tickNs (s : State) (h : Half) : Nat := tickPeriods s h * s.periodNs h

/-- A rate in 2^-8 per second over one tick, in fine units. -/
def rateOverTick (s : State) (h : Half) (rate : Nat) : Nat := rate * tickNs s h * 32768 * 8

/-! Ceilings (R170). -/

/-- The island's ceiling for arm j in m/s (binary32); an arm without monitoring and without a limit has the largest. -/
def islandCeil (s : State) (j : Nat) : Nat :=
  let b := SSMARM.addr j
  let c := s.fld b SSMARM.CEIL
  ratioF32 (if s.fld b SSMARM.OUTCOME = 3 ∧ c = 0 then 65535 else (c : Int)) 1000

/-- The ceilings as the governor takes them at its release (R170): those of the island's latest copy, 0 where it is older
than four safety cycles. -/
def takeCeilings (s : State) (h : Half) : State :=
  let stale := decide (s.isl.heard + 4 * 500000 < s.tb0)
  let s := s.putFlag (GOV.addr h) GOV.CEIL_STALE stale
  (List.range 16).foldl (fun s j =>
    s.setFld (GOVARM.addr h j) GOVARM.CEIL (if stale then 0 else islandCeil s j)) s

/-- u of R170: the ceiling over the largest speed at sigma 1.0, at most 1.0. -/
def ceilScale (c v : Fx) : Fx :=
  if v = 0 then fxOne
  else
    let x := fxDiv c v
    if fxOne < x then fxOne else x

/-! The programme (R168 to R173). -/

/-- The horizon with what the rows are formed from: the arms with their weights and rates, the pairs and neighbours as the image
declares them, and per arm its poses at the steps from 0 and the speed scales of the linearisation point. -/
structure GovFrame where
  steps : Nat
  tick : Fx
  arms : List Nat
  pairs : List (Nat × Nat)
  peers : List Nat
  poses : List (List ArmPose)
  bar : List (List Fx)
  deriving DecidableEq, Repr

/-- A series one step on: the last step repeats (R174). -/
def shiftSeries (l : List Fx) : List Fx :=
  match l with
  | _ :: y :: t => (y :: t) ++ [(y :: t).getLastD 0]
  | l => l

/-- The solution a tick starts from. -/
def GovSolution.shift (x : GovSolution) : GovSolution :=
  ⟨x.vars.map shiftSeries, x.duals.map shiftSeries, x.gaps.map shiftSeries⟩

/-- Path times from the present boundary to the steps, from the speed scale in force and those of the steps (R169). -/
def pathTimes (tick : Fx) : Fx → Fx → List Fx → List Fx
  | _, t, [] => [t]
  | s0, t, s1 :: l => t :: pathTimes tick s1 (t + fxMul tick (s0 + s1) / 2) l

/-- The frame of the programme, linearised at the shifted solution or, cold, at the speed scales in force. -/
def govFrame (s : State) (h : Half) (warm : Option GovSolution) : GovFrame :=
  let n := ownHorizon s h
  let arms := armList s h
  let bar := arms.zipIdx.map (fun a => match warm with
    | some w => w.vars.getD a.2 []
    | none => List.replicate n (sigmaNow s h a.1))
  { steps := n, tick := tickSec s h, arms := arms, pairs := s.cfg.govPairs.filter (fun p => arms.contains p.1 && arms.contains p.2),
    peers := s.cfg.govPeers.take 7, bar := bar,
    poses := (arms.zip bar).map (fun a =>
      posesAfter s h a.1 (fxList (s.arm h a.1).q) (pathTimes (tickSec s h) (sigmaNow s h a.1) 0 a.2)) }

/-- The pose of the arm with a place in the list at a step. -/
def GovFrame.pose (f : GovFrame) (a k : Nat) : Option ArmPose := (f.poses.getD a [])[k]?

/-- The series of variables, in order: speed scales, decrease slacks, pair slacks, peer slacks, stop slacks. -/
def GovFrame.sigVar (f : GovFrame) (a k : Nat) : Nat := a * f.steps + (k - 1)
def GovFrame.decVar (f : GovFrame) (a k : Nat) : Nat := (f.arms.length + a) * f.steps + (k - 1)
def GovFrame.pairVar (f : GovFrame) (p k : Nat) : Nat := (2 * f.arms.length + p) * f.steps + (k - 1)
def GovFrame.peerVar (f : GovFrame) (a p k : Nat) : Nat :=
  (2 * f.arms.length + f.pairs.length + a * f.peers.length + p) * f.steps + (k - 1)
def GovFrame.stopVar (f : GovFrame) (a : Nat) : Nat :=
  (2 * f.arms.length + f.pairs.length + f.arms.length * f.peers.length) * f.steps + a
def GovFrame.varCount (f : GovFrame) : Nat := f.stopVar f.arms.length

/-- The lengths of the series of variables. -/
def GovFrame.varShape (f : GovFrame) : List Nat :=
  List.replicate (2 * f.arms.length + f.pairs.length + f.arms.length * f.peers.length) f.steps ++ f.arms.map (fun _ => 1)

/-- The steps of the horizon. -/
def GovFrame.ks (f : GovFrame) : List Nat := (List.range f.steps).map (· + 1)

/-- The part of the path time at step k that the variables make up (R169), times g; what the speed scale in force adds. -/
def GovFrame.tauTerms (f : GovFrame) (a k : Nat) (g : Fx) : List (Nat × Fx) :=
  (List.range k).map (fun j => (f.sigVar a (j + 1), fxMul g (if j + 1 = k then f.tick / 2 else f.tick)))
def GovFrame.tauBase (f : GovFrame) (s0 : Fx) : Fx := fxMul f.tick s0 / 2

/-- The path time of the linearisation point at step k. -/
def GovFrame.tauBar (f : GovFrame) (a k : Nat) (s0 : Fx) : Fx :=
  (pathTimes f.tick s0 0 (f.bar.getD a [])).getD k 0

/-- A distance row: the distance, and how fast either arm's motion opens it. -/
structure GapRow where
  d : Fx
  ga : Fx
  gb : Fx
  deriving DecidableEq, Repr

/-- The row without a near pair of capsules (R172). -/
def GapRow.far : GapRow := ⟨10 * fxOne, 0, 0⟩

/-- What the broad phase keeps: within c + 0.5 m. -/
def nearEnough (c d : Fx) : Bool := decide (d ≤ c + fxOne / 2)

/-- The row of two arms at a step: of the capsule pairs that come near over the step, the closest (R172). -/
def pairRow (s : State) (c : Fx) (ja jb : Nat) (a0 a b0 b : ArmPose) : GapRow :=
  let near := ((armCaps s ja).flatMap (fun x => (armCaps s jb).map (fun y => (x, y)))).filter (fun x =>
    nearEnough c ((a0.cap x.1).sphereGap (b0.cap x.2)) || nearEnough c ((a.cap x.1).sphereGap (b.cap x.2)))
  match leastBy (fun x : GovCapsule × GovCapsule => (a.cap x.1).gap (b.cap x.2)) near with
  | none => .far
  | some x =>
    let ca := a.cap x.1
    let cb := b.cap x.2
    let t := nearestOn ca cb
    let n := ((ca.at t.1).sub (cb.at t.2)).unit
    ⟨ca.gap cb, (a.model.pointVel a.fs a.ms x.1.link (ca.at t.1)).dot n,
     -((b.model.pointVel b.fs b.ms x.2.link (cb.at t.2)).dot n)⟩

/-- A capsule of a boundary sample in the cell frame. -/
def sampleCapsule (s : State) (b : List Byte) : Capsule :=
  let x (i : Nat) : Fx := fxOf (bytesAt b (4 * i) 4)
  (⟨⟨x 0, x 1, x 2⟩, ⟨x 3, x 4, x 5⟩, x 6⟩ : Capsule).under (cellFrame s)

/-- The sample of a message of age a that step k is formed against (R185). -/
def sampleFor (k a n : Nat) : Nat := Nat.min 4 (Nat.max 1 (divCeil (4 * (k + a)) n))

/-- The capsules of a neighbour cell at step k: of the sample R185 names, or of all four while it is silent (R180). -/
def peerCapsules (s : State) (h : Half) (num k : Nat) : List Capsule :=
  match (s.gov h).peers.find? (fun p => decide (p.num = num)) with
  | none => []
  | some p =>
    match p.msg with
    | none => []
    | some m =>
      let j := sampleFor k (msgAge s h m) (ownHorizon s h)
      (m.samples.filter (fun b => !peerFresh s h p || decide (bytesAt b 0x1D 1 = j))).map (sampleCapsule s)

/-- The row of an arm and a neighbour cell at a step (R172, R185). -/
def peerRow (s : State) (h : Half) (c : Fx) (ja num k : Nat) (a0 a : ArmPose) : GapRow :=
  let near := ((armCaps s ja).flatMap (fun x => (peerCapsules s h num k).map (fun y => (x, y)))).filter (fun x =>
    nearEnough c ((a0.cap x.1).sphereGap x.2) || nearEnough c ((a.cap x.1).sphereGap x.2))
  match leastBy (fun x : GovCapsule × Capsule => (a.cap x.1).gap x.2) near with
  | none => .far
  | some x =>
    let ca := a.cap x.1
    let t := nearestOn ca x.2
    ⟨ca.gap x.2, (a.model.pointVel a.fs a.ms x.1.link (ca.at t.1)).dot ((ca.at t.1).sub (x.2.at t.2)).unit, 0⟩

/-- u of an arm at a step (R170): its ceiling over the largest speed of a planning capsule's end at sigma 1.0. -/
def ceilAt (s : State) (h : Half) (j : Nat) (p : ArmPose) : Fx :=
  ceilScale (fxOf (s.fld (GOVARM.addr h j) GOVARM.CEIL)) ((armCaps s j).foldl (fun (m : Fx) c =>
    let v := p.model.capsuleSpeed p.fs p.ms c.caps
    if m < v then v else m) 0)

/-- d_a, and w_a of an arm. -/
def downRate (s : State) (h : Half) (j : Nat) : Fx := rateFx (stopRate s h j false)
def armWeight (s : State) (h : Half) (j : Nat) : Fx := fxOf (s.fld (GOVARM.addr h j) GOVARM.W)

/-- The rows of R168, in groups of one series each. -/
def govRows (s : State) (h : Half) (f : GovFrame) : List (List QpRow) :=
  let b := GOV.addr h
  let arms := f.arms.zipIdx
  let s0 (j : Nat) : Fx := sigmaNow s h j
  let one : Fx := fxOne
  let poseOf (a k : Nat) : ArmPose := (f.pose a k).getD (.make (armModel s h 0 0) [] [])
  let c := fxOf (s.fld b GOV.CLEAR)
  let cx := fxOf (s.fld b GOV.CLEAR_X)
  let place (j : Nat) : Nat := f.arms.idxOf j
  let lower := arms.map (fun a => f.ks.map (fun k => (⟨[(f.sigVar a.2 k, -one)], 0⟩ : QpRow)))
  let upper := arms.map (fun a => f.ks.map (fun k => (⟨[(f.sigVar a.2 k, one)], ceilAt s h a.1 (poseOf a.2 k)⟩ : QpRow)))
  let inc := arms.map (fun a => f.ks.map (fun k =>
    let r := fxMul (rateFx (sigRate s h a.1)) f.tick
    if k = 1 then (⟨[(f.sigVar a.2 1, one)], r + s0 a.1⟩ : QpRow) else ⟨[(f.sigVar a.2 k, one), (f.sigVar a.2 (k - 1), -one)], r⟩))
  let dec := arms.map (fun a => f.ks.map (fun k =>
    let r := fxMul (downRate s h a.1) f.tick
    let sl := (f.decVar a.2 k, -one)
    if k = 1 then (⟨[(f.sigVar a.2 1, -one), sl], r - s0 a.1⟩ : QpRow)
    else ⟨[(f.sigVar a.2 (k - 1), one), (f.sigVar a.2 k, -one), sl], r⟩))
  let gapTo (a k : Nat) (j : Nat) (g : Fx) : List (Nat × Fx) × Fx :=
    (f.tauTerms a k (-g), fxMul g (f.tauBase (s0 j) - f.tauBar a k (s0 j)))
  let pairs := f.pairs.zipIdx.map (fun p => f.ks.map (fun k =>
    let a := place p.1.1
    let e := place p.1.2
    let r := pairRow s c p.1.1 p.1.2 (poseOf a (k - 1)) (poseOf a k) (poseOf e (k - 1)) (poseOf e k)
    let x := gapTo a k p.1.1 r.ga
    let y := gapTo e k p.1.2 r.gb
    (⟨x.1 ++ y.1 ++ [(f.pairVar p.2 k, -one)], r.d - c + x.2 + y.2⟩ : QpRow)))
  let peers := arms.flatMap (fun a => f.peers.zipIdx.map (fun p => f.ks.map (fun k =>
    let r := peerRow s h cx a.1 p.1 k (poseOf a.2 (k - 1)) (poseOf a.2 k)
    let x := gapTo a.2 k a.1 r.ga
    (⟨x.1 ++ [(f.peerVar a.2 p.2 k, -one)], r.d - cx + x.2⟩ : QpRow))))
  let stop := arms.map (fun a =>
    [(⟨f.tauTerms a.2 f.steps one ++ [(f.sigVar a.2 f.steps, fxDiv one (2 * downRate s h a.1)), (f.stopVar a.2, -one)],
       tauLimit s h a.1 - f.tauBase (s0 a.1)⟩ : QpRow)])
  let slacks := (f.varShape.drop f.arms.length).zipIdx.map (fun l =>
    (List.range l.1).map (fun k =>
      (⟨[(((f.varShape.take (f.arms.length + l.2)).foldl (· + ·) 0) + k, -one)], 0⟩ : QpRow)))
  lower ++ upper ++ inc ++ dec ++ pairs ++ peers ++ stop ++ slacks

/-- The objective of R168: weights, smoothness, and 1,000 times the largest weight on every slack. -/
def govCost (s : State) (h : Half) (f : GovFrame) : List (Nat × Nat × Fx) × List (Nat × Fx) :=
  let rho := fxOf (s.fld (GOV.addr h) GOV.SMOOTH)
  let arms := f.arms.zipIdx
  let top := f.arms.foldl (fun (m : Fx) j => let w := armWeight s h j; if m < w then w else m) 0
  let quad := arms.flatMap (fun a => f.ks.flatMap (fun k =>
    let i := f.sigVar a.2 k
    if k = 1 then [(i, i, rho)]
    else let p := f.sigVar a.2 (k - 1); [(i, i, rho), (p, p, rho), (i, p, -rho), (p, i, -rho)]))
  let lin := arms.flatMap (fun a => f.ks.map (fun k => (f.sigVar a.2 k, -(armWeight s h a.1)))) ++
    arms.map (fun a => (f.sigVar a.2 1, -(fxMul rho (sigmaNow s h a.1)))) ++
    ((List.range f.varCount).drop (f.arms.length * f.steps)).map (fun i => (i, 1000 * top))
  (quad, lin)

/-- A list in pieces of given lengths. -/
def splitBy : List Nat → List Fx → List (List Fx)
  | [], _ => []
  | n :: ns, l => l.take n :: splitBy ns (l.drop n)

/-- Twelve iterations' parameters, free values from 0 to 1 (R174). DESIGN CHOICE (log entry 69). -/
def govFrees (s : State) : Nat → List (Fx × Fx) × State
  | 0 => ([], s)
  | n + 1 =>
    let w := s.takeFree
    let r := govFrees w.2 n
    (((w.1.toNat % 2 ^ 32 : Nat) * fxOne / 2 ^ 32, ((w.1.toNat / 2 ^ 32 : Nat) + 1) * fxOne / (2 ^ 32 + 2)) :: r.1, r.2)

/-- The governor's programme of this tick is solved (R168, R174). Its problems are refused where its slot of its sparse channel
holds no schedule (R160). -/
def govSolve (s : State) (h : Half) : GovPlan × State :=
  let warm := (s.gov h).last.map GovSolution.shift
  let f0 := govFrame s h none
  let warm := warm.filter (fun w => decide (w.vars.map List.length = f0.varShape))
  let f := govFrame s h warm
  let rows := govRows s h f
  let cost := govCost s h f
  let q : Qp := ⟨f.varCount, cost.1, cost.2, rows.flatten⟩
  let shape := rows.map List.length
  let fr := govFrees s 13
  let cold := (f.bar.flatten ++ List.replicate (f.varCount - f.bar.flatten.length) 0)
  let z := match warm with
    | some w => if w.duals.map List.length = shape then (⟨w.vars.flatten, w.duals.flatten, w.gaps.flatten⟩ : IpPoint)
                else q.start w.vars.flatten (fr.1.headD (0, 0)).1 (fr.1.headD (0, 0)).2
    | none => q.start cold (fr.1.headD (0, 0)).1 (fr.1.headD (0, 0)).2
  let r := q.solve (fr.1.drop 1) z true
  let x (i : Nat) : Fx := r.1.x.getD i 0
  let used (i : Nat) : Bool := decide (fxOne < 10000 * x i)
  let arm (a j : Nat) : GovArm :=
    { sigma := x (f.sigVar a 1), u := ((rows.getD (f.arms.length + a) []).headD ⟨[], 0⟩).bound,
      rowSlack := f.pairs.zipIdx.any (fun p => decide (p.1.1 = j ∨ p.1.2 = j) && f.ks.any (fun k => used (f.pairVar p.2 k))) ||
        (List.range f.peers.length).any (fun p => f.ks.any (fun k => used (f.peerVar a p k))),
      stopSlack := used (f.stopVar a), decSlack := f.ks.any (fun k => used (f.decVar a k)) }
  let slot := s.fld (GOV.addr h) GOV.SLOT
  ({ flagged := !r.2 || decide (slotState s h (s.cfg.govChan - 16) slot ≠ 2), arms := f.arms.zipIdx.map (fun a => (a.1, arm a.2 a.1)),
     sol := ⟨splitBy f.varShape r.1.x, splitBy shape r.1.dual, splitBy shape r.1.gap⟩ }, fr.2)

/-- The governor is released at a boundary with the next one as its deadline (R41, R174). -/
def govRelease (s : State) (h : Half) : State :=
  if 4095 < s.cfg.govItem then s
  else
    let s := takeCeilings s h
    let p := govSolve s h
    let s := p.2
    let s := s.setGov h { s.gov h with released := true, sig0 := (List.range 16).map (fun j => (s.arm h j).gov.val), plan := some p.1 }
    releaseWork s h s.cfg.govItem (s.servoNow h) ((s.periodNum h + tickPeriods s h) * s.periodNs h)

/-! The result (R175, R176). -/

/-- A number of speed scale in fine units, none below 0. -/
def fineOfScale (x : Fx) : Nat := (x * (fineOne : Int) / fxOne).toNat

/-- What is published for an arm: sigma at step 1 held to 0, to u and to the rate limit, and with slack on a distance row to a
decrease of a tick; whether the hold changed it. -/
def govClamp (s : State) (h : Half) (j : Nat) (r : GovArm) : Nat × Bool :=
  let s0 := (s.gov h).sig0.getD j fineOne
  let lim := Nat.min (fineOfScale r.u) (s0 + rateOverTick s h (sigRate s h j))
  let raw := fineOfScale r.sigma
  let x := Nat.min raw lim
  (if r.rowSlack then Nat.min x (s0 - rateOverTick s h (stopRate s h j false)) else x, decide (r.sigma < 0) || decide (lim < raw))

/-- SLACK_NOW, SLACK_USED, SLACK_TICKS and event 106; FAST_DEC (R176); PROJECTED (R175). DESIGN CHOICE (log entry 69). -/
def govNotes (s : State) (h : Half) (rs : List (Nat × GovArm)) : State :=
  let b := GOV.addr h
  let slack := rs.any (fun x => x.2.rowSlack || x.2.stopSlack)
  let dec := rs.any (fun x => x.2.decSlack)
  let proj := rs.any (fun x => (govClamp s h x.1 x.2).2)
  let s := s.putFlag b GOV.SLACK_NOW slack
  let s := (s.flagIf slack b GOV.SLACK_USED).countIf slack b GOV.SLACK_TICKS
  let s := s.countIf dec b GOV.FAST_DEC
  let s := (s.flagIf proj b GOV.PROJECTED).countIf proj b GOV.PROJ_TICKS
  raiseIf s slack h 106

/-- Stop-row slack: the arm would enter a zone that its cell does not hold (R188). -/
def zoneOverrun (s : State) (h : Half) (j : Nat) : State :=
  pathStop (raiseEvt (s.setFlag (GOV.addr h) GOV.ZONE_OVERRUN) h 107) h j true

/-- The governor's item has come to its end: the next one starts from its solution (R174). -/
def govEnded (s : State) (h : Half) : State :=
  match (s.gov h).plan with
  | none => s
  | some p => s.setGov h { s.gov h with last := some p.sol, plan := none }

/-- The governor's item completes in time with a result (R175): published for the next boundary, or discarded where an
iteration's problem was flagged. DESIGN CHOICE (log entry 69). -/
def govPublish (s : State) (h : Half) : State :=
  match (s.gov h).plan with
  | none => s
  | some p =>
    let b := GOV.addr h
    let s := govEnded (s.setFld b GOV.ITER 12) h
    if p.flagged then s.setFlag b GOV.FLAGGED_RESULT
    else
      let sig := (List.range 16).map (fun j => match p.arms.find? (fun x => decide (x.1 = j)) with
        | none => fineOne
        | some x => (govClamp s h j x.2).1)
      let s := p.arms.foldl (fun s x =>
        let a := GOVARM.addr h x.1
        (s.setFld a GOVARM.U1 (fineOfScale x.2.u / 2048000000000)).setFld a GOVARM.SIG_PUB (sig.getD x.1 fineOne / 2048000000000)) s
      let s := govNotes s h p.arms
      let s := p.arms.foldl (fun s x => if x.2.stopSlack then zoneOverrun s h x.1 else s) s
      s.setServo h { s.servo h with govResult := some (s.periodNum h / tickPeriods s h + 1, sig) }

/-- The arms move to their targets over the coming tick. DEDUCED (log entry 70). -/
def govTargets (s : State) (h : Half) (f : Nat → Nat → Nat) : State :=
  (armList s h).foldl (fun s j =>
    let u := s.arm h j
    s.setArm h j { u with govFrom := u.gov.val, govTo := f j u.gov.val, gov := { u.gov with run := 0 } }) s

/-- The governor's result at tick boundary k (R49): applied, recovered to, or missed; from the third tick without one on, σ ramps
to 0. DEDUCED (log entry 70). -/
def govBoundary (s : State) (h : Half) (k : Nat) : State :=
  let b := SYS.addr h
  let v := s.servo h
  let st := s.fld b SYS.GOV_STATE
  let res := match v.govResult with
    | none => none
    | some (t, l) => if t = k then some l else none
  let s := s.setServo h { v with govResult := none }
  match res with
  | some l =>
    let want := fun j => l.getD j fineOne
    let s := (s.setServo h { s.servo h with govLate := 0 }).setFld b SYS.HOLD_TICKS 0
    if st = 0 then govTargets s h (fun j _ => want j)
    else
      let next := fun j now => Nat.min (want j) (now + rateOverTick s h (sigRate s h j))
      let done := (armList s h).all (fun j => decide (next j (s.arm h j).gov.val = want j))
      (govTargets s h next).setFld b SYS.GOV_STATE (if done then 0 else 3)
  | none =>
    if (s.gov h).released then
      let late := if 3 ≤ v.govLate then v.govLate else v.govLate + 1
      let s := (s.setServo h { s.servo h with govLate := late }).count b SYS.GOV_LATE_CNT
      let s := s.setFld b SYS.HOLD_TICKS (Nat.min 2 late)
      if st = 2 then s
      else (govTargets s h (fun _ now => now)).setFld b SYS.GOV_STATE (if 3 ≤ late then 2 else 1)
    else govTargets s h (fun _ now => now)

/-- GOVERNOR_LATE_RAMP: the third tick without a result (R49) raises event 105, once. DEDUCED (log entry 70). -/
def govRamp (s : State) (h : Half) : State :=
  let v := s.servo h
  if v.govLate = 3 ∧ s.fld (SYS.addr h) SYS.GOV_STATE = 2 then raiseEvt (s.setServo h { v with govLate := 4 }) h 105 else s

/-! A tick boundary. -/

/-- The group, the zones, the governor and the message at a tick boundary. An excluded module behaves as one that is not
admitted and sends nothing. DEDUCED (log entry 73). -/
def coordinationAt (s : State) (h : Half) : State :=
  if s.cfg.govGroup.isNone ∨ (s.gov h).withdrawn then govRelease s h
  else if groupExcluded s h then
    let s := (s.setGov h { s.gov h with admitted := false }).setFld (GOV.addr h) GOV.ROLE 0
    govRelease (zonesAt s h) h
  else boundarySend (govRelease (zonesAt (groupAt s h) h) h) h

end Sys2Proof.Machine
end

