-- ==== Sys2Proof/Machine/Island.lean ====
section
/-! DEFINITION. The safety island: safe connections, the fault state, stop groups, outputs and input pairs (R191 to R217, R240
to R255). Channel Y's clock counts nanoseconds as TB0 does. -/
namespace Sys2Proof.Machine

/-- STATE of the island: 0 start-up, 1 normal, 2 held, 3 island fault. -/
def islState (s : State) : Nat := s.fld ISL.addr ISL.STATE

/-- A change of a stop group's state. -/
def setGroup (s : State) (g : Nat) (x : GroupRun) : State := s.setIsl { s.isl with groups := s.isl.groups.set g x }

/-- A stop group and its parameters. -/
def groupRun (s : State) (g : Nat) : GroupRun := unitAt .reset s.isl.groups g
def groupCfg (s : State) (g : Nat) : GroupCfg := s.sectCfg.groups.getD g default

/-- A function instance and its parameters. -/
def funcRun (s : State) (f : Nat) : FuncRun := unitAt .reset s.isl.funcs f
def funcCfg (s : State) (f : Nat) : FuncCfg := s.sectCfg.funcs.getD f default
def setFunc (s : State) (f : Nat) (x : FuncRun) : State := s.setIsl { s.isl with funcs := s.isl.funcs.set f x }

/-- The register of function f. -/
def funcBase (f : Nat) : Nat := ISL.addr + 4 * f

/-- The register of group g. -/
def groupBase (g : Nat) : Nat := ISL.addr + 4 * g

/-- The kind of function f (R205, in row order); 15 unused. -/
def funcKind (s : State) (f : Nat) : Nat := s.fld (funcBase f) ISL.KIND

/-- An arm's SSM record and state. -/
def ssmCfg (s : State) (a : Nat) : SsmArmCfg := s.sectCfg.arms.getD a default
def ssmRun (s : State) (a : Nat) : SsmRun := unitAt .reset s.isl.arms a
def setSsm (s : State) (a : Nat) (x : SsmRun) : State := s.setIsl { s.isl with arms := s.isl.arms.set a x }

/-! Safe connections (R240 to R255). -/

/-- TYPE of a connection: 0 unused, 1 drive, 2 sensor, 3 peer, 4 device. -/
def connType (s : State) (c : Nat) : Nat := s.fld (CONN.addr c) CONN.TYPE

/-- A connection is in run. -/
def connRuns (s : State) (c : Nat) : Bool := decide (s.fld (CONN.addr c) CONN.C_STATE = 3)

/-- C_STATE of a connection, with SAFE_MAP and RUN_COUNT. -/
def putConnState (s : State) (c st : Nat) : State :=
  let was := s.fld (CONN.addr c) CONN.C_STATE
  let s := s.setFld (CONN.addr c) CONN.C_STATE st
  let s := s.setMapBit (SMSG.addr + 8) c (decide (st = 1 ∨ st = 2))
  let n := s.fld SMSG.addr SMSG.RUN_COUNT
  s.setFld SMSG.addr SMSG.RUN_COUNT (if st = 3 ∧ was ≠ 3 then n + 1 else if st ≠ 3 ∧ was = 3 then n - 1 else n)

/-- The stop groups once connection c has left run: those of a drive connection wait for a reset (R254).
DEDUCED (log entry 121). -/
def waitGroups (s : State) (c : Nat) : List GroupRun :=
  if connType s c = 1 ∧ connRuns s c then
    s.isl.groups.zipIdx.map (fun x => if (groupCfg s x.2).conns.contains c then { x.1 with connWait := true } else x.1)
  else s.isl.groups

/-- The safe state of a connection (R253) with its cause; event 235 where it was in sync or run. -/
def enterSafe (s : State) (c cause : Nat) : State :=
  let x := s.conn c
  let b := CONN.addr c
  let was := s.fld b CONN.C_STATE
  let s := s.setIsl { s.isl with groups := waitGroups s c }
  let s := s.setConn c { x with rxX := { x.rxX with st := 1 }, rxY := { x.rxY with st := 1 }, data := zeros (s.connCfg c).lenRx }
  let s := (putConnState s c 1).setFld b CONN.CAUSE cause
  if 2 ≤ was then raiseBoth s 235 else s

/-- The identity of a connection (R242), toward the initiating island or toward its partner. -/
def connIdentity (s : State) (c : Nat) (toIsland : Bool) : Nat :=
  let k := s.connCfg c
  let sa := if k.initiator then s.fld ISL.addr ISL.ADDR else k.saddr
  let cn := if k.initiator then c else k.conn
  let fp := if k.initiator then s.fld ISL.addr ISL.FP_LOADED % 2 ^ 16 else k.fp16
  sa % 2 ^ 10 * 2 ^ 22 + cn % 64 * 2 ^ 16 + (if toIsland then 0xFFFF - fp else fp)

/-- SCRC of a PDU (R244). -/
def safeCrc (ident seq : Nat) (data : List Byte) : Nat := crc32c (leBytes 4 ident ++ leBytes 2 seq ++ data)

/-- A safe PDU. -/
def safePdu (ident seq : Nat) (data : List Byte) : List Byte := leBytes 2 seq ++ data ++ leBytes 4 (safeCrc ident seq data)

/-- The identity with which this island checks what it receives on a connection. -/
def rxIdentity (s : State) (c : Nat) : Nat := connIdentity s c (s.connCfg c).initiator

/-- The identity with which this island sends on a connection. -/
def txIdentity (s : State) (c : Nat) : Nat := connIdentity s c (!(s.connCfg c).initiator)

/-- A drive's data breaks R255: a reserved bit or an invalid code. -/
def driveDataBad (d : List Byte) : Bool :=
  let st := bytesAt d 4 1
  let v := bytesAt d 5 1
  decide (32 ≤ st ∨ 6 ≤ v)

/-- The expiry of a connection's deadline (R252). DEDUCED (log entry 56). -/
def watchdogExpire (s : State) (c : Nat) : State := enterSafe (s.count (CONN.addr c) CONN.WD_CNT) c 1

/-- The receiver of R253 on a PDU accepted at t by both channels, whose deadlines are W and 1.1 W later.
DEDUCED (log entry 63). -/
def receivePdu (s : State) (c t : Nat) (bytes : List Byte) : State :=
  let b := CONN.addr c
  let k := s.connCfg c
  let n := bytes.length - 6
  let seq := bytesAt bytes 0 2
  let data := (bytes.drop 2).take n
  let x := s.conn c
  if bytesAt bytes (2 + n) 4 ≠ safeCrc (rxIdentity s c) seq data then enterSafe (s.count b CONN.CRC_FAIL_CNT) c 2
  else if connType s c = 1 ∧ driveDataBad data then enterSafe (s.count b CONN.CRC_FAIL_CNT) c 4
  else if x.rxY.st = 1 then
    let s := s.setConn c { x with rxX := ⟨2, seq, t + k.watchdog * 11 / 10⟩, rxY := ⟨2, seq, t + k.watchdog⟩ }
    (putConnState s c 2).setFld b CONN.SEQ_RX seq
  else if seq ≠ (x.rxY.last + 1) % 65536 then enterSafe (s.count b CONN.SEQ_FAIL_CNT) c 3
  else
    let left := (x.rxY.deadline - t) / 10000
    let s := s.setFld b CONN.WD_MIN (Nat.min (s.fld b CONN.WD_MIN) (satU 16 left))
    let s := s.setConn c { x with rxX := ⟨3, seq, t + k.watchdog * 11 / 10⟩, rxY := ⟨3, seq, t + k.watchdog⟩, data := data, accAt := t }
    (putConnState s c 3).setFld b CONN.SEQ_RX seq

/-- A held island keeps connection c in its safe state: every one while an unaccepted section holds it (R214), every one but a
drive's in the island fault state (R193). DEDUCED (log entry 121). -/
def connHeld (s : State) (c : Nat) : Bool := decide (islState s = 2 ∨ (islState s = 3 ∧ connType s c ≠ 1))

/-- The connections that a held island keeps in their safe state go there; no cause of SMSG.CONN names it. -/
def holdConns (s : State) : State :=
  (List.range 64).foldl (fun s c =>
    if connType s c ≠ 0 ∧ connHeld s c then enterSafe s c (s.fld (CONN.addr c) CONN.CAUSE) else s) s

/-- The transport hands a PDU to the receiver (R246 to R251): one of a wrong length has not arrived; a second copy within W
on a connection of two ports is discarded; a PDU after the deadline finds the safe state. -/
def pduArrive (s : State) (c : Nat) (bytes : List Byte) : State :=
  let k := s.connCfg c
  let n := bytes.length - 6
  let t := s.isl.clk
  let seq := bytesAt bytes 0 2
  let x := s.conn c
  let fits := if connType s c = 1 then decide (n = 6) else decide (n ≤ k.lenRx)
  let again : Bool := match x.copy with
    | none => false
    | some (q, u) => k.both && decide (q = seq) && decide (t ≤ u + k.watchdog)
  if connType s c = 0 ∨ bytes.length < 6 ∨ !fits ∨ again ∨ connHeld s c then s
  else
    let s := if k.both then s.setConn c { x with copy := some (seq, t) } else s
    let s := if x.rxY.st ≠ 1 ∧ x.rxY.deadline < t then watchdogExpire s c else s
    receivePdu s c t bytes

/-- SAFE_WATCHDOG_EXPIRY in a channel. -/
def watchdogCheck (s : State) (c : Nat) (ch : IslCh) : State :=
  let x := s.conn c
  let r := match ch with
    | .x => x.rxX
    | .y => x.rxY
  if connType s c ≠ 0 ∧ r.st ≠ 1 ∧ r.deadline < s.isl.clk then watchdogExpire s c else s

/-! Safe positions and drive reports (R235, R255). -/

/-- A connection gives a safe position: in run with POS_VALID. -/
def posPresent (s : State) (c : Nat) : Bool := connRuns s c && bitOf (bytesAt (s.conn c).data 4 1) 4

/-- SPOS of a connection. -/
def safePos (s : State) (c : Nat) : Nat := bytesAt (s.conn c).data 0 4

/-- A drive reports a violation of SOS, SLS or SLP. -/
def driveViolates (s : State) (c : Nat) : Bool :=
  let d := (s.conn c).data
  let v := bytesAt d 5 1
  connRuns s c && bitOf (bytesAt d 4 1) 3 && decide (1 ≤ v ∧ v ≤ 3)

/-- A drive reports STO. -/
def driveSto (s : State) (c : Nat) : Bool := bitOf (bytesAt (s.conn c).data 4 1) 0

/-- A drive reports SOS. -/
def driveSos (s : State) (c : Nat) : Bool := bitOf (bytesAt (s.conn c).data 4 1) 2

/-! Stop groups (R202 to R204). -/

/-- The severity of a stop category: STO 4, SS1 3, SS2 2, a speed limit 1. -/
def severity : Nat → Nat
  | 0 => 4
  | 1 => 3
  | 2 => 3
  | 3 => 2
  | _ => 1

/-- The more severe of two categories, the first on equal severity. -/
def worse (a b : Nat) : Nat := if severity a < severity b then b else a

/-- The most severe of a list of categories. -/
def worst : List Nat → Option Nat
  | [] => none
  | a :: t => match worst t with
    | none => some a
    | some b => some (worse a b)

/-- Group g is in manual mode (R209). -/
def groupManual (s : State) (g : Nat) : Bool :=
  match (groupCfg s g).selector with
  | none => false
  | some f => (funcRun s f).mode

/-- The demand of function i acts on group g in the mode the group is in: an enabling device's in manual mode alone, that of
a guard door marked MAN_BYPASS in automatic mode alone (R209). -/
def funcActs (s : State) (g i : Nat) : Bool :=
  match funcKind s i with
  | 1 => !((funcCfg s i).manBypass && groupManual s g)
  | 2 => !((funcCfg s i).manBypass && groupManual s g)
  | 5 => groupManual s g
  | _ => true

/-- The functions that act on group g, by f. -/
def funcsOn (s : State) (g : Nat) (f : Nat → Bool) : List Nat :=
  (List.range 32).filter (fun i => decide (funcKind s i ≠ 15) && bitOf (s.fld (funcBase i) ISL.GROUPS) g && f i)

/-- The category with which function i acts on group g. -/
def funcCat (s : State) (g i : Nat) : Nat := ((funcCfg s i).acts.lookup g).getD 0

/-- The monitored arms that demand a stop of group g, by f. -/
def armsOn (s : State) (g : Nat) (f : SsmRun → Bool) : List Nat :=
  (List.range 16).filter (fun a => bitOf (ssmCfg s a).groups g && f (ssmRun s a))

/-- The category of a monitored arm's stop. -/
def armCat (s : State) (a : Nat) : Nat := if (ssmCfg s a).ss2 then 3 else 1

/-- The categories demanded of group g by demands that are present. -/
def liveDemands (s : State) (g : Nat) : List Nat :=
  let r := groupRun s g
  let k := groupCfg s g
  (if islState s ≠ 1 ∨ s.flag ISL.addr ISL.LOADING then [0] else []) ++
  (if k.conns.any (fun c => decide (connType s c = 1) && !connRuns s c) ∨ r.viol ∨ r.noPos then [0] else []) ++
  (if r.restrict ∨ s.isl.holdupAt.isSome then [1] else []) ++
  (armsOn s g (fun x => x.stop)).map (armCat s) ++
  (funcsOn s g (fun i => s.flag (funcBase i) ISL.DEMAND && funcActs s g i)).map (funcCat s g)

/-- The categories demanded of group g by released demands that wait for a reset. -/
def waitDemands (s : State) (g : Nat) : List Nat :=
  (if (groupRun s g).connWait then [0] else []) ++
  (armsOn s g (fun x => x.wait)).map (armCat s) ++
  (funcsOn s g (fun i => s.flag (funcBase i) ISL.F_WAIT_RESET)).map (funcCat s g)

/-- The arms of a group start a path quick stop in both halves (R203). -/
def stopArms (s : State) (g : Nat) : State :=
  (groupCfg s g).arms.foldl (fun s j => pathStop (pathStop s .a j true) .b j true) s

/-- The registers of a group. -/
def putGroup (s : State) (g : Nat) (wait : Bool) : State :=
  let st := match (groupRun s g).cat with
    | none => 0
    | some c => severity c
  (s.setFld (groupBase g) ISL.G_STATE st).putFlag (groupBase g) ISL.G_WAIT_RESET wait

/-- A group takes the most severe demand that acts on it; a less severe one never weakens a stop that runs, which ends only
when no demand is left (R202, R204). -/
def updateGroup (s : State) (g : Nat) : State :=
  let r := groupRun s g
  let live := liveDemands s g
  let all := live ++ waitDemands s g
  let stops := all.filter (fun c => c < 4)
  let wait := live.all (fun c => decide (4 ≤ c)) && !stops.isEmpty
  match worst stops with
  | none =>
    let cat := if all.isEmpty then none else some 4
    putGroup (setGroup s g { r with cat := cat, off := false }) g false
  | some c =>
    let now := match r.cat with | none => 0 | some d => severity d
    if now < severity c then
      let s := setGroup s g { r with cat := some c, since := s.isl.clk, off := decide (c = 0) }
      putGroup (stopArms s g) g wait
    else putGroup s g wait

/-- A group goes to STO at the end of its SS1. -/
def groupOff (s : State) (g : Nat) : State :=
  let r := groupRun s g
  putGroup (setGroup s g { r with cat := some 0, off := true }) g (s.flag (groupBase g) ISL.G_WAIT_RESET)

/-- SS1-r ends once every drive of the group reports STO (R203). -/
def rampDone (s : State) (g : Nat) : State :=
  let r := groupRun s g
  let k := groupCfg s g
  if r.cat = some 2 ∧ !r.off ∧ !k.conns.isEmpty ∧ k.conns.all (driveSto s) then groupOff s g else s

/-- SS1_TIME_EXPIRY of a group. DEDUCED (log entry 60). -/
def ss1Expire (s : State) (g : Nat) : State :=
  let r := groupRun s g
  if (r.cat = some 1 ∨ r.cat = some 2) ∧ !r.off ∧ (groupCfg s g).tSs1 * 1000000 ≤ s.isl.clk - r.since then groupOff s g else s

/-! Safety outputs (R199, R200). -/

/-- The latched fault of output pair q: 0 none, 1 stuck on, 2 short to 0 V, 3 cross-short. -/
def outFault (s : State) (q : Nat) : Nat := s.fld ISL.addr ISL.OUT_FAULT / 2 ^ (2 * q) % 4

/-- Group g keeps output pair q off: OSSD pairs 0 to 3, STO pairs 4 to 11. -/
def groupBlocks (s : State) (q g : Nat) : Bool :=
  let k := groupCfg s g
  let r := groupRun s g
  let listed := if q < 4 then k.ossd.contains q else k.sto.contains (q - 4)
  listed && (r.off || decide (r.cat = some 0) || (decide (q < 4) && decide (r.cat = some 3)))

/-- Some group lists output pair q. -/
def pairListed (s : State) (q : Nat) : Bool :=
  (List.range 16).any (fun g => let k := groupCfg s g
    if q < 4 then k.ossd.contains q else k.sto.contains (q - 4))

/-- The function whose lock an OSSD pair drives. -/
def lockOf (s : State) (q : Nat) : Option Nat :=
  (List.range 32).find? (fun f => decide (funcKind s f = 2) && decide ((funcCfg s f).lockOut = some q))

/-- Output pair q is to be on. A pair that drives a guard lock is on while the lock is released. -/
def pairWanted (s : State) (q : Nat) : Bool :=
  let ok := decide (islState s = 1) && decide (outFault s q = 0) && !s.boot.supply.ioLow && !s.isl.powerOff
  match (if q < 4 then lockOf s q else none) with
  | some f => ok && (funcRun s f).lockOpen
  | none => ok && pairListed s q && (List.range 16).all (fun g => !groupBlocks s q g)

/-- The outputs are driven; an output held off stays off. -/
def driveOutputs (s : State) : State :=
  let on := (List.range 12).map (fun q => pairWanted s q)
  let outs := (List.range 24).map (fun o => on.getD (o / 2) false && !(s.isl.heldOff.getD o false))
  let s := s.setIsl { s.isl with outs := outs }
  let both (q : Nat) : Bool := outs.getD (2 * q) false && outs.getD (2 * q + 1) false
  let mask (l : List Nat) : Nat := l.foldl (fun m q => setBit m (q % 16) (both q)) 0
  (s.setFld ISL.addr ISL.OSSD_ON (mask [0, 1, 2, 3])).setFld ISL.addr ISL.STO_ON
    ((List.range 8).foldl (fun m q => setBit m q (both (q + 4))) 0)

/-- A fault in the island's log, newest first, with its copy in retained MRAM. DESIGN CHOICE (log entries 61, 62). -/
def islandLog (s : State) (code item : Nat) : State :=
  let t := s.servoNow (s.activeHalf.getD .a)
  let old := s.words (ISL.addr + 0x200) 60
  let e : List Word := [BitVec.ofNat 32 (t / 1000000000), BitVec.ofNat 32 (t % 1000000000), BitVec.ofNat 32 (code + item % 2 ^ 16 * 256),
    BitVec.ofNat 32 s.isl.cycle]
  let s := s.setWords (ISL.addr + 0x200) (e ++ old)
  s.setMemWords (mramAddr 0x31000) (e ++ old)

/-- A fault of the pair of output o is latched and recorded (event 227); where the output is stuck on, its partner is held
off. -/
def outputFault (s : State) (o kind : Nat) : State :=
  let q := o / 2
  if outFault s q ≠ 0 then s
  else
    let s := s.setFld ISL.addr ISL.OUT_FAULT (s.fld ISL.addr ISL.OUT_FAULT + kind * 2 ^ (2 * q))
    let s := if kind = 1 then
        s.setIsl { s.isl with heldOff := s.isl.heldOff.set (if o % 2 = 0 then o + 1 else o - 1) true }
      else s
    driveOutputs (raiseBoth (islandLog s 4 o) 227)

/-- The readback of every output in a cycle: low while commanded on, or high while commanded off. -/
def readbackCheck (s : State) (read : Nat) : State :=
  if s.boot.supply.ioLow then s
  else
    let outs := s.isl.outs
    (List.range 24).foldl (fun s o =>
    let on := outs.getD o false
    let x := bitOf read o
    if on ∧ !x then outputFault s o 2
    else if !on ∧ x then outputFault s o 1
    else s) s

/-- OUTPUT_TEST_PULSE of output o with the readback of every output in the pulse. -/
def outputTest (s : State) (o read : Nat) : State :=
  let q := o / 2
  let outs := s.isl.outs
  if !(s.sectCfg.outTest.getD q true) || !(outs.getD o false) then s
  else
    let s := if bitOf read o then outputFault s o 1 else s
    (List.range 24).foldl (fun s p =>
      if p ≠ o ∧ outs.getD p false ∧ !bitOf read p then outputFault (outputFault s o 3) p 3 else s) s

/-! The island fault state (R193). -/

/-- The island fault state: every output off, STO on every drive connection, the safe state on every other, every group in
category 0. DESIGN CHOICE (log entry 61). -/
def islandFault (s : State) (code item : Nat) : State :=
  if islState s = 3 then s
  else
    let s := raiseBoth (islandLog (s.setFld ISL.addr ISL.STATE 3) code item) 224
    let s := holdConns s
    let s := (List.range 16).foldl (fun s g => updateGroup s g) s
    driveOutputs s

/-! What the island sends (R245, R255). -/

/-- The category in force on the drive of connection c, over the groups that list it. -/
def connCat (s : State) (c : Nat) : Option Nat :=
  worst ((List.range 16).filterMap (fun g => if (groupCfg s g).conns.contains c then (groupRun s g).cat else none))

/-- The group whose limits a drive connection carries: the first that lists it. -/
def connGroup (s : State) (c : Nat) : GroupCfg :=
  (s.sectCfg.groups.find? (fun k => k.conns.contains c)).getD default

/-- STOP of the drive command layout. -/
def stopCode : Option Nat → Nat
  | some 0 => 1
  | some 1 => 2
  | some 2 => 3
  | some 3 => 4
  | _ => 0

/-- The six data bytes to a drive. DEDUCED (log entry 60). -/
def driveCommand (s : State) (c : Nat) : List Byte :=
  let cat := if islState s = 1 then connCat s c else some 0
  let k := connGroup s c
  let lim := decide (cat = some 4)
  let ack := decide (stopCode cat ≤ 1) && bitOf (bytesAt (s.conn c).data 4 1) 3
  leBytes 1 (stopCode cat + 8 * b2n lim + 32 * b2n ack) ++ leBytes 1 (k.sls % 8 + 8 * (k.slp % 8)) ++ leBytes 2 k.tSs1 ++ zeros 2

/-- SAFE_PDU_SEND: the PDU of a send opportunity. The layout of a peer's or device's data is the section's own. A PDU that
still waits in the insertion buffer of a ring is replaced under its own number. DEDUCED (log entry 60). -/
def pduSend (s : State) (c : Nat) : State :=
  let x := s.conn c
  if connType s c = 0 then s
  else
    let (data, s) :=
      if connType s c = 1 then (driveCommand s c, s)
      else if connType s c = 2 then ([], s)
      else freeBytes s (s.connCfg c).lenTx
    let ring := decide (s.fld (CONN.addr c) CONN.TRANSPORT = 0)
    let seq := if ring && x.out.isSome then (x.seqNext + 65535) % 65536 else x.seqNext
    let s := s.setConn c { s.conn c with out := some (safePdu (txIdentity s c) seq data), seqNext := (seq + 1) % 65536 }
    s.setFld (CONN.addr c) CONN.SEQ_TX seq

end Sys2Proof.Machine
end

