-- ==== Sys2Proof/Machine/Ssm.lean ====
section
/-! DEFINITION. What each channel of the island computes from safe positions: where an arm's capsules stand, how far they are from
the objects that sensors report, and how fast they move (R216, R223 to R225, R232). -/
namespace Sys2Proof.Machine

/-! Safety kinematics (R223). -/

/-- A length in 0.1 mm, and one in mm. -/
def tenthMm (x : Int) : Fx := x * fxOne / 10000
def milliFx (x : Int) : Fx := x * fxOne / 1000

/-- A point of a capsule's record. -/
def tenthPoint (p : Int × Int × Int) : V3 := ⟨tenthMm p.1, tenthMm p.2.1, tenthMm p.2.2⟩

/-- A safety capsule in its link's frame. -/
def SafeCapsule.inLink (c : SafeCapsule) : CapsuleRec := ⟨c.link, tenthPoint c.p0, tenthPoint c.p1, tenthMm c.radius⟩

/-- The drive connections of an arm all give a safe position. -/
def armPositions (s : State) (a : Nat) : Bool :=
  let l := (ssmCfg s a).conns
  !l.isEmpty && l.all (posPresent s)

/-- The joint values of an arm from its drives' safe positions, in joint order. -/
def safeJoints (s : State) (k : SsmArmCfg) : List Fx :=
  List.zipWith (fun (l : Link × SafeGear) c =>
    ratioFx (gearMotion l.1.prismatic l.2.num l.2.den 32 (toS 32 (safePos s c) * 65536 - l.2.offset))) (k.kin.links.zip k.gears) k.conns

/-- Where an arm stands; none while a safe position is missing. -/
def safePlace (s : State) (a : Nat) : Option SafePlace :=
  if armPositions s a then
    let k := ssmCfg s a
    let fs := k.kin.frames (safeJoints s k)
    some ⟨(k.caps.take 16).map (fun c => k.kin.place fs c.inLink), (k.kin.toolAt fs).p⟩
  else none

/-- The ends of the capsules' axes. -/
def SafePlace.ends (x : SafePlace) : List V3 := x.caps.flatMap (fun c => [c.p0, c.p1])

/-- The largest distance of an end from where it stood. -/
def SafePlace.moved (x y : SafePlace) : Fx :=
  (List.zipWith (fun a b => (V3.sub a b).len) x.ends y.ends).foldl (fun m d => if m < d then d else m) 0

/-! Objects (R232). -/

/-- Object j of a sensor's data as a box; a point is a box without extent. -/
def objectBox (d : List Byte) (j : Nat) : Box3 :=
  let o := 4 + 16 * j
  let c (i : Nat) : Fx := milliFx (toS 16 (bytesAt d (o + 2 + 2 * i) 2))
  if bytesAt d o 1 = 0 then ⟨⟨c 0, c 1, c 2⟩, ⟨c 0, c 1, c 2⟩⟩ else ⟨⟨c 0, c 1, c 2⟩, ⟨c 3, c 4, c 5⟩⟩

/-- The distance of a capsule from object j (R224). -/
def objectGap (d : List Byte) (j : Nat) (c : Capsule) : Fx :=
  let b := objectBox d j
  if bytesAt d (4 + 16 * j) 1 = 0 then c.axisDist b.lo - c.r else c.boxGap b

/-- The distance of an arm from object j: its nearest capsule's, at least 0 (R224); the largest distance without capsules. -/
def armGap (d : List Byte) (j : Nat) (x : SafePlace) : Fx :=
  match (x.caps.map (objectGap d j)) with
  | [] => 2 ^ 20 * fxOne
  | g :: l =>
    let m := l.foldl (fun m y => if y < m then y else m) g
    if m < 0 then 0 else m

/-! The numbers of a channel. -/

/-- A length or speed as a channel holds it: X in fixed point to 2^-24, Y as binary32 (R223). DESIGN CHOICE (log entry 55). -/
def inChannel (ch : IslCh) (x : Fx) : Fx :=
  match ch with
  | .x => x / 2 ^ 136 * 2 ^ 136
  | .y => fxOf (fxF32 x)

/-- A length in m in 10^-9 mm, and a move in 0.5 ms as a speed in 10^-6 mm/s. -/
def picoMetres (x : Fx) : Int := x * 1000000000000 / fxOne
def nanoSpeed (x : Fx) : Int := x * 2000000000000 / fxOne

/-- A speed of a point over the cycle from the last one; 0 where the arm's place is missing in one of them. -/
def overCycle (s : State) (places : List (Option SafePlace)) (a : Nat) (f : SafePlace → SafePlace → Fx) : Fx :=
  match places.getD a none, (ssmRun s a).last with
  | some x, some y => f x y
  | _, _ => 0

/-- What a channel computes in a cycle, with what a fault of channel X adds. An arm whose place is missing has distance 0 from
every object. DESIGN CHOICE (log entry 55). -/
def channelSample (s : State) (ch : IslCh) (places : List (Option SafePlace)) (err : List IslandErr) : IslandSample :=
  let e (a : Nat) : IslandErr := match ch with
    | .x => err.getD a ⟨0, 0, 0⟩
    | .y => ⟨0, 0, 0⟩
  let arms := List.range 16
  let objs := (List.range 8).flatMap (fun i => (List.range (unitAt ⟨0, 0⟩ s.isl.sens i).count).map
    (fun j => ((s.conn (s.sectCfg.sens.getD i default).conn).data, j)))
  { speed := arms.map (fun a => (nanoSpeed (inChannel ch (overCycle s places a SafePlace.moved)) + (e a).speed).toNat),
    tool := arms.map (fun a => (nanoSpeed (inChannel ch (overCycle s places a (fun x y => (x.tool.sub y.tool).len))) + (e a).tool).toNat),
    dist := arms.map (fun a => objs.map (fun o => match places.getD a none with
      | none => 0
      | some x => (picoMetres (inChannel ch (armGap o.1 o.2 x)) + (e a).dist).toNat)),
    travel := match s.isl.test with
      | none => 0
      | some t => match places.getD t.arm none, t.from_ with
        | some x, some y => (picoMetres (inChannel ch (SafePlace.moved x y))).toNat
        | _, _ => 0 }

/-- Where the arms stand. -/
def safePlaces (s : State) : List (Option SafePlace) := (List.range 16).map (safePlace s)

/-- The places of a cycle stay for the next one. -/
def keepPlaces (s : State) (places : List (Option SafePlace)) : State :=
  s.setIsl { s.isl with arms := s.isl.arms.zipIdx.map (fun x => { x.1 with last := places.getD x.2 none }) }

/-- An arm's speed is known in this cycle: it stands somewhere now and stood somewhere in the last one. -/
def armMeasured (s : State) (a : Nat) : Bool := armPositions s a && (ssmRun s a).last.isSome

end Sys2Proof.Machine
end

