-- ==== Sys2Proof/Machine/IslandRun.lean ====
section
/-! DEFINITION. The safety island: contacts and pairs, functions, resets, switches, speed and separation monitoring, the safety
cycle, and the loading of a section (R191 to R239). -/
namespace Sys2Proof.Machine

/-! Contacts and pairs (R196 to R198). -/

def pairCfg (s : State) (p : Nat) : PairCfg := s.sectCfg.pairs.getD p ⟨0, none, none, 1000, 100⟩
def pairRun (s : State) (p : Nat) : PairRun := unitAt .reset s.isl.pairs p
def setPair (s : State) (p : Nat) (x : PairRun) : State := s.setIsl { s.isl with pairs := s.isl.pairs.set p x }

/-- A contact as a channel qualifies it. -/
def contactOf (s : State) (ch : IslCh) (c : Nat) : ContactRun :=
  match ch with
  | .x => unitAt ⟨false, 0⟩ s.isl.contactsX c
  | .y => unitAt ⟨false, 0⟩ s.isl.contactsY c

def setContact (s : State) (ch : IslCh) (c : Nat) (x : ContactRun) : State :=
  match ch with
  | .x => s.setIsl { s.isl with contactsX := s.isl.contactsX.set c x }
  | .y => s.setIsl { s.isl with contactsY := s.isl.contactsY.set c x }

/-- The level of a contact at which its pair does not demand: closed, or open for contact B of an antivalent pair. -/
def idleLevel (s : State) (c : Nat) : Bool := !(decide ((pairCfg s (c / 2)).kind = 1) && decide (c % 2 = 1))

/-- A contact is at its no-demand level in a channel. -/
def contactIdle (s : State) (ch : IslCh) (c : Nat) : Bool := (contactOf s ch c).level == idleLevel s c

/-- PAIR_FAULT of pair p. -/
def pairFault (s : State) (p : Nat) : Nat := s.fld ISL.addr ISL.PAIR_FAULT / 4 ^ p % 4

/-- A fault of a pair is latched: it demands (event 226). -/
def pairFail (s : State) (p kind : Nat) : State :=
  if pairFault s p ≠ 0 then s
  else
    let s := s.setFld ISL.addr ISL.PAIR_FAULT (s.fld ISL.addr ISL.PAIR_FAULT + kind * 4 ^ p)
    let s := setPair s p { pairRun s p with demX := true, demY := true, seenA := false, seenB := false, due := 0 }
    raiseBoth s 226

/-- Both contacts of a pair have qualified the no-demand level within the discrepancy time of each other in a channel. -/
def pairReleases (s : State) (ch : IslCh) (p : Nat) : Bool :=
  let a := contactOf s ch (2 * p)
  let b := contactOf s ch (2 * p + 1)
  contactIdle s ch (2 * p) && contactIdle s ch (2 * p + 1) &&
    decide (a.at_ - b.at_ ≤ (pairCfg s p).disc * 1000000 ∧ b.at_ - a.at_ ≤ (pairCfg s p).disc * 1000000)

/-- A pair's fault clears, and its demand in every channel whose contacts release it. -/
def pairHeal (s : State) (p : Nat) : State :=
  let s := s.setFld ISL.addr ISL.PAIR_FAULT (s.fld ISL.addr ISL.PAIR_FAULT - pairFault s p * 4 ^ p)
  let x := pairRun s p
  setPair s p { x with demX := x.demX && !pairReleases s .x p, demY := x.demY && !pairReleases s .y p,
                       seenA := false, seenB := false, due := 0 }

/-- The demand of pair p in a channel after one of its contacts qualified a level. A pair with a latched fault releases only
after both contacts have been at the demand level and are back within the discrepancy time, and then, where a contact has a
test source, after a correct pulse of every source (R198). DEDUCED (log entry 122). -/
def pairUpdate (s : State) (ch : IslCh) (p : Nat) : State :=
  let x := pairRun s p
  let idleA := contactIdle s ch (2 * p)
  let idleB := contactIdle s ch (2 * p + 1)
  let put (s : State) (d : Bool) : State :=
    let x := pairRun s p
    setPair s p (match ch with | .x => { x with demX := d } | .y => { x with demY := d })
  let s := setPair s p { x with differs := if idleA = idleB then none else some (x.differs.getD s.isl.clk),
                                seenA := x.seenA || !idleA, seenB := x.seenB || !idleB, due := 0 }
  if !idleA ∨ !idleB then put s true
  else if pairFault s p = 0 then (if pairReleases s ch p then put s false else s)
  else
    let y := pairRun s p
    if !pairReleases s ch p then setPair s p { y with seenA := false, seenB := false }
    else if !y.seenA ∨ !y.seenB then s
    else if (pairCfg s p).srcA.isNone ∧ (pairCfg s p).srcB.isNone then pairHeal s p
    else setPair s p { y with due := 15 }

/-- SAFETY_CONTACT_QUALIFY: a contact has held a level for the filter time in a channel. DEDUCED (log entry 56). -/
def contactQualify (s : State) (ch : IslCh) (c : Nat) (level : Bool) : State :=
  if (contactOf s ch c).level = level then s
  else
    let s := setContact s ch c ⟨level, s.isl.clk⟩
    let s := match ch with
      | .y => s.setFld ISL.addr ISL.LEVEL (setBit (s.fld ISL.addr ISL.LEVEL) c level)
      | .x => s
    if (pairCfg s (c / 2)).kind = 2 then s else pairUpdate s ch (c / 2)

/-- DISCREPANCY_TIMEOUT of a pair. -/
def discrepancy (s : State) (p : Nat) : State :=
  match (pairRun s p).differs with
  | none => s
  | some t => if (pairCfg s p).kind ≠ 2 ∧ (pairCfg s p).disc * 1000000 < s.isl.clk - t then pairFail s p 2 else s

/-- The test source of a contact. -/
def contactSource (s : State) (c : Nat) : Option Nat :=
  let k := pairCfg s (c / 2)
  if c % 2 = 0 then k.srcA else k.srcB

/-- A contact in a pulse of source t: a contact of the source that shows no low sample, or a contact of another source that
shows one, twice in a row while it reads high (R198). -/
def contactPulse (s : State) (t low c : Nat) : State :=
  let p := c / 2
  let x := pairRun s p
  let i := c % 2
  let high := (contactOf s .y c).level
  match contactSource s c with
  | none => s
  | some src =>
    if src = t then
      let n := if !high || bitOf low c then 0 else Nat.min 2 (x.ownBad.getD i 0 + 1)
      let s := setPair s p { x with ownBad := x.ownBad.set i n }
      if n = 2 then pairFail s p 1 else s
    else
      let k := 4 * i + t
      let n := if high && bitOf low c then Nat.min 2 (x.crossBad.getD k 0 + 1) else 0
      let s := setPair s p { x with crossBad := x.crossBad.set k n }
      if n = 2 then pairFail s p 1 else s

/-- A pulse of source t at a pair whose fault waits for correct pulses: a correct one counts, after the last the fault clears;
a bad one ends the wait. -/
def pairPulse (s : State) (t p : Nat) : State :=
  let x := pairRun s p
  let ok (i : Nat) : Bool := match contactSource s (2 * p + i) with
    | none => true
    | some src => decide ((if src = t then x.ownBad.getD i 0 else x.crossBad.getD (4 * i + t) 0) = 0)
  if x.due = 0 then s
  else if !ok 0 || !ok 1 then setPair s p { x with seenA := false, seenB := false, due := 0 }
  else
    let d := setBit x.due t false
    if d = 0 then pairHeal s p else setPair s p { x with due := d }

/-- TEST_PULSE of source t with the contacts that showed a low sample in it. -/
def testPulse (s : State) (t low : Nat) : State :=
  (List.range 12).foldl (fun s p => pairPulse s t p) ((List.range 24).foldl (fun s c => contactPulse s t low c) s)

/-- The channels disagree on a contact of a pair's qualified level in two cycles (R198). -/
def comparator (s : State) (p : Nat) : State :=
  let x := pairRun s p
  let d := decide ((contactOf s .x (2 * p)).level ≠ (contactOf s .y (2 * p)).level ∨
    (contactOf s .x (2 * p + 1)).level ≠ (contactOf s .y (2 * p + 1)).level)
  let s := setPair s p { x with xyDiff := d }
  if d ∧ x.xyDiff then pairFail s p 3 else s

/-! Functions (R205 to R209). -/

/-- Pair p demands in a channel. -/
def pairDemands (s : State) (ch : IslCh) (p : Nat) : Bool :=
  match ch with
  | .x => (pairRun s p).demX
  | .y => (pairRun s p).demY

/-- A received bit of a connection; 0 while the connection is in its safe state (R241). -/
def receivedBit (s : State) (b : Nat × Nat × Nat) : Bool := connRuns s b.1 && bitOf (bytesAt (s.conn b.1).data b.2.1 1) b.2.2

/-- The instant at which pair p's contacts qualified the levels they hold. DEDUCED (log entry 56). -/
def pairStamp (s : State) (p : Nat) : Nat := Nat.max (contactOf s .y (2 * p)).at_ (contactOf s .y (2 * p + 1)).at_

/-- Every group that function f acts on is in manual mode. -/
def funcManual (s : State) (f : Nat) : Bool :=
  let m := s.fld (funcBase f) ISL.GROUPS
  decide (m ≠ 0) && (List.range 16).all (fun g => !bitOf m g || groupManual s g)

/-- The groups of function f have completed their stop. -/
def stopDone (s : State) (f : Nat) : Bool :=
  let m := s.fld (funcBase f) ISL.GROUPS
  (List.range 16).all (fun g => !bitOf m g ||
    (let r := groupRun s g
     r.off || (decide (r.cat = some 3) && (groupCfg s g).conns.all (driveSos s)) || decide (r.cat = none)))

/-- The two-hand control's enable (R208). -/
def twoHand (s : State) (f : Nat) : State :=
  let x := funcRun s f
  let k := funcCfg s f
  let p := k.pairs.getD 0 0
  let q := k.pairs.getD 1 0
  let act (p : Nat) : Bool := !pairDemands s .x p && !pairDemands s .y p
  let a := act p
  let b := act q
  if !a ∧ !b then setFunc s f { x with enabled := false, blocked := false }
  else if x.enabled then (if a ∧ b then s else setFunc s f { x with enabled := false, blocked := true })
  else if a ∧ b ∧ !x.blocked then
    let d := (((pairStamp s p : Nat) : Int) - (pairStamp s q : Nat)).natAbs
    if d ≤ 500000000 then setFunc s f { x with enabled := true } else setFunc s f { x with blocked := true }
  else s

/-- TWO_HAND_WINDOW_EXPIRY: 500 ms after the first pair was actuated the other is not. -/
def twoHandExpire (s : State) (f : Nat) : State :=
  let k := funcCfg s f
  let p := k.pairs.getD 0 0
  let q := k.pairs.getD 1 0
  let a := !pairDemands s .y p
  let b := !pairDemands s .y q
  let t := if a then pairStamp s p else pairStamp s q
  if funcKind s f = 3 ∧ a ≠ b ∧ 500000000 < s.isl.clk - t then setFunc s f { funcRun s f with blocked := true } else s

/-- The demand a function's inputs make in a channel. -/
def rawDemand (s : State) (ch : IslCh) (f : Nat) : Bool :=
  let k := funcCfg s f
  let any := k.pairs.any (pairDemands s ch) || k.bits.any (fun b => !receivedBit s b)
  match funcKind s f with
  | 0 => any
  | 1 => any && !(k.manBypass && funcManual s f)
  | 2 => any && !(k.manBypass && funcManual s f)
  | 3 => !((funcRun s f).enabled && k.pairs.all (fun p => !pairDemands s ch p))
  | 4 => any
  | 5 => any || (funcRun s f).enRelease
  | 8 => any
  | _ => false

/-- A function resets by hand (R205). -/
def funcByHand (s : State) (f : Nat) : Bool :=
  match funcKind s f with
  | 0 => true
  | 6 => true
  | 3 => false
  | 5 => false
  | _ => (funcCfg s f).manual

/-- The demand of function f is d from this cycle on (event 225 as it begins); a released demand waits for its reset where
that is manual (R206). -/
def putDemand (s : State) (f : Nat) (d : Bool) : State :=
  let b := funcBase f
  let was := s.flag b ISL.DEMAND
  let s := s.putFlag b ISL.DEMAND d
  if d ∧ !was then raiseBoth s 225
  else if !d ∧ was ∧ funcByHand s f then s.setFlag b ISL.F_WAIT_RESET
  else s

/-- The mode a selector's pair shows in a channel: A closed automatic, B closed manual; none while its contacts agree. -/
def selectorMode (s : State) (ch : IslCh) (p : Nat) : Option Bool :=
  let a := (contactOf s ch (2 * p)).level
  let b := (contactOf s ch (2 * p + 1)).level
  if a = b then none else some b

/-- A mode selector in a safety cycle: a pair with a fault, contacts that agree and a change of mode demand, and only the last
changes the mode (R198, R205). DEDUCED (log entry 57). -/
def selectorDemand (s : State) (ch : IslCh) (f : Nat) : Bool :=
  let p := (funcCfg s f).pairs.getD 0 0
  decide (pairFault s p ≠ 0) || decide (selectorMode s ch p ≠ some (funcRun s f).mode)

/-- A function in a safety cycle; its demand is the more restrictive of the channels'. DEDUCED (log entry 58). -/
def evalFunc (s : State) (f : Nat) : State :=
  let kind := funcKind s f
  if kind = 15 ∨ kind = 7 then s
  else if kind = 6 then
    let m := selectorMode s .y ((funcCfg s f).pairs.getD 0 0)
    let x := funcRun s f
    let dx := selectorDemand s .x f
    let dy := selectorDemand s .y f
    putDemand (setFunc s f { x with mode := m.getD x.mode, demX := dx, demY := dy }) f (dx || dy)
  else
    let s := if kind = 3 then twoHand s f else s
    let x := funcRun s f
    let raw := (funcCfg s f).pairs.any (pairDemands s .y)
    let s := if kind = 5 then
        setFunc s f { x with enRelease := raw || (x.enRelease && !stopDone s f) }
      else s
    let dx := rawDemand s .x f
    let dy := rawDemand s .y f
    let s := setFunc s f { funcRun s f with demX := dx, demY := dy }
    putDemand s f (dx || dy)

/-- Every stop group of a guard lock is in STO or holds SOS reported by every drive (R207). DEDUCED (log entry 57). -/
def lockSafe (s : State) (f : Nat) : Bool :=
  let m := s.fld (funcBase f) ISL.GROUPS
  (List.range 16).all (fun g => !bitOf m g ||
    (let r := groupRun s g
     r.off || (decide (r.cat = some 3) && (groupCfg s g).conns.all (driveSos s))))

/-- The lock request of a function is present. -/
def lockAsked (s : State) (f : Nat) : Bool :=
  match (funcCfg s f).unlockReq with
  | none => false
  | some c => (contactOf s .y c).level && (contactOf s .x c).level

/-- The lock of a guard in a cycle: the safe state's start is kept while it lasts; a lock whose request is gone or whose groups
are not safe locks. -/
def evalLock (s : State) (f : Nat) : State :=
  if funcKind s f ≠ 2 then s
  else
    let x := funcRun s f
    let safe := lockSafe s f
    setFunc s f { x with safeSince := if safe then some (x.safeSince.getD s.isl.clk) else none,
                         lockOpen := x.lockOpen && safe && lockAsked s f }

/-- UNLOCK_DELAY_EXPIRY. DEDUCED (log entry 57). -/
def unlock (s : State) (f : Nat) : State :=
  let x := funcRun s f
  match x.safeSince with
  | none => s
  | some t =>
    if funcKind s f = 2 ∧ lockSafe s f ∧ lockAsked s f ∧ (funcCfg s f).unlockDelay * 1000000 ≤ s.isl.clk - t then
      driveOutputs (setFunc s f { x with lockOpen := true })
    else s

/-! Resets (R193, R206). -/

/-- Every function that resets by hand waits for its own reset. DEDUCED (log entry 59). -/
def waitAll (s : State) : State :=
  (List.range 32).foldl (fun s f => if funcKind s f = 15 ∨ funcKind s f = 7 ∨ !funcByHand s f then s
    else s.setFlag (funcBase f) ISL.F_WAIT_RESET) s

/-- The functions and monitored arms that reset input c serves. -/
def resetFuncs (s : State) (c : Nat) : List Nat :=
  (List.range 32).filter (fun f => decide (funcKind s f ≠ 15) && decide ((funcCfg s f).resetBy = some c))
def resetArms (s : State) (c : Nat) : List Nat := (List.range 16).filter (fun a => decide ((ssmCfg s a).resetBy = some c))

/-- A reset of functions and arms lets the groups they act on leave a stop of a drive connection that is back in run (R254).
DEDUCED (log entry 121). -/
def connReset (s : State) (fs as_ : List Nat) : State :=
  (List.range 16).foldl (fun s g =>
    if (fs.any (fun f => bitOf (s.fld (funcBase f) ISL.GROUPS) g) || as_.any (fun a => bitOf (ssmCfg s a).groups g)) &&
        (groupCfg s g).conns.all (connRuns s) then
      setGroup s g { groupRun s g with connWait := false }
    else s) s

/-- RESET_INPUT_RELEASE: the release of a reset input after a press of 0.1 to 5 s resets the functions it serves, while none of
their demands is present; else it is rejected (event 231). -/
def resetRelease (s : State) (c : Nat) : State :=
  let x := contactOf s .y c
  if !x.level then s
  else
    let d := s.isl.clk - x.at_
    let s := contactQualify (contactQualify s .x c false) .y c false
    let fs := resetFuncs s c
    let as_ := resetArms s c
    let present := fs.any (fun f => s.flag (funcBase f) ISL.DEMAND) || as_.any (fun a => (ssmRun s a).stop)
    if present ∨ d < 100000000 ∨ 5000000000 < d then
      raiseBoth (s.count ISL.addr ISL.RESET_REJ_CNT) 231
    else
      let s := fs.foldl (fun s f => s.putFlag (funcBase f) ISL.F_WAIT_RESET false) s
      connReset (as_.foldl (fun s a => setSsm s a { ssmRun s a with wait := false }) s) fs as_

/-- ISLAND_RESET: the release of an island reset input in the fault state starts the self-test; latched output faults are
tested again. -/
def islandReset (s : State) (c : Nat) : State :=
  let serves := (List.range 32).any (fun f => decide (funcKind s f = 7) && (funcCfg s f).islandReset && decide ((funcCfg s f).pairs.contains (c / 2)))
  let faulted := decide (s.fld ISL.addr ISL.OUT_FAULT ≠ 0)
  if serves ∧ (islState s = 3 ∨ faulted) then
    let s := s.setFld ISL.addr ISL.STATE 0
    driveOutputs ((List.range 16).foldl (fun s g => updateGroup s g) (s.setIsl { s.isl with testing := true }))
  else s

/-! Switches and the fingerprint (R213 to R217). -/

/-- The loaded fingerprint equals the accepted one, and a section is loaded. DEDUCED (log entry 59). -/
def fpEqual (s : State) : Bool := s.sect.isSome && decide (s.fld ISL.addr ISL.FP_LOADED = s.fld ISL.addr ISL.FP_ACCEPTED)

/-- Whether the island runs its section (R214), with COMMISSION's reduced speed. DEDUCED (log entry 57). -/
def islandMode (s : State) : Bool × Bool :=
  let open_ := s.flag ISL.addr ISL.SEAL_WE
  let comm := s.flag ISL.addr ISL.COMMISSION
  if !s.sect.isSome || !s.sectCfg.valid then (false, false)
  else if open_ && comm then (true, true)
  else (fpEqual s, false)

/-- The island takes the state R214 gives; a start-up test that runs or the latched fault state stays (R193). A group that becomes less restricted needs its functions' resets; one that becomes
more restricted stops. DEDUCED (log entry 59). -/
def takeMode2 (s : State) : State :=
  let (run, comm) := islandMode s
  let was := islState s
  let mis := !run && s.sect.isSome && s.sectCfg.valid
  let s := if mis ∧ !s.flag ISL.addr ISL.FP_MISMATCH then raiseBoth s 228 else s
  let s := s.putFlag ISL.addr ISL.FP_MISMATCH mis
  let wasComm := s.flag ISL.addr ISL.COMM_ACT
  let s := s.putFlag ISL.addr ISL.COMM_ACT comm
  if was = 3 ∨ s.isl.testing then s else
  let s := holdConns (s.setFld ISL.addr ISL.STATE (if run then 1 else 2))
  if (run ∧ was ≠ 1) ∨ (run ∧ wasComm ≠ comm) then waitAll s else s

/-- ISLAND_SELF_TEST_COMPLETE. -/
def selfTestDone (s : State) (pass : Bool) : State :=
  if !s.isl.testing then s
  else
    let s := s.setIsl { s.isl with testing := false }
    if pass then
      let s := (s.setFld ISL.addr ISL.OUT_FAULT 0).setIsl { s.isl with heldOff := List.replicate 24 false }
      waitAll (takeMode2 (s.setFld ISL.addr ISL.STATE 0))
    else islandFault s 5 0

/-- SWITCH_CHANGE: the contacts of S1 as each channel reads them, address in bits 9:0, SEAL_WE 10, COMMISSION 11. -/
def switchChange (s : State) (x y : Nat) : State :=
  let s := s.setIsl { s.isl with swX := x, swY := y }
  let b := ISL.addr
  let s := (s.setFld b ISL.ADDR_NOW (y % 1024)).flagIf (decide (y % 1024 ≠ s.fld b ISL.ADDR)) b ISL.ADDR_CHANGED
  raiseBoth s 230

/-- The switches take effect in a cycle; a disagreement in two cycles is a fault. -/
def switchCycle (s : State) : State :=
  let b := ISL.addr
  let d := decide (s.isl.swX / 1024 ≠ s.isl.swY / 1024)
  let was := s.isl.swDiff
  let s := s.setIsl { s.isl with swDiff := d }
  if d ∧ was then islandFault s 3 (if s.isl.swX / 1024 % 2 = s.isl.swY / 1024 % 2 then 12 else 11)
  else if d then s
  else
    let open_ := bitOf s.isl.swY 10
    let comm := bitOf s.isl.swY 11
    if s.flag b ISL.SEAL_WE = open_ ∧ s.flag b ISL.COMMISSION = comm then s
    else takeMode2 ((s.putFlag b ISL.SEAL_WE open_).putFlag b ISL.COMMISSION comm)

/-- A write of an RWS register at a block offset of the island: refused while SEAL_WE is closed (R8, R215). -/
def rwsWrite (s : State) (off : Nat) (f : State → State) : State :=
  let b := ISL.addr
  if s.flag b ISL.SEAL_WE then f s
  else
    let s := (s.setFlag b ISL.WR_REFUSED).count b ISL.WR_REFUSED_CNT
    raiseBoth (s.setFld b ISL.REFUSED_ADDR off) 229

/-- As rwsWrite, by a master: a refused write of a core fails its item (R321). -/
def rwsBy (s : State) (m : Master) (off : Nat) (f : State → State) : State :=
  if s.flag ISL.addr ISL.SEAL_WE then f s else failMaster (rwsWrite s off f) m

/-- LOAD: every stop group goes into category 0 while the staged section is checked (R215). DESIGN CHOICE (log entry 54). -/
def loadSection (s : State) : State :=
  if s.flag ISL.addr ISL.LOADING then s
  else driveOutputs ((List.range 16).foldl (fun s g => updateGroup s g) (s.setFlag ISL.addr ISL.LOADING))

/-- The bytes of the staged section, as cells. -/
def stagedCells (s : State) : List (Nat × Byte) := s.isl.staged

/-- A section becomes the loaded section with its fingerprint: connections, functions and groups begin anew.
DESIGN CHOICE (log entry 54). -/
def placeSection (s : State) (cells : List (Nat × Byte)) (cfg : SectionCfg) (fp : Nat) : State :=
  let s := { s with sect := some cells, sectCfg := cfg }
  let s := s.setFld ISL.addr ISL.FP_LOADED fp
  let s := s.setIsl { s.isl with conns := List.replicate 64 .reset, funcs := List.replicate 32 .reset,
                                 arms := List.replicate 16 .reset, pairs := s.isl.pairs,
                                 groups := s.isl.groups.map (fun x => { x with connWait := false }) }
  (List.range 64).foldl (fun s c => putConnState s c (if connType s c = 0 then 0 else 1)) s

/-- A section is loaded while the island runs. -/
def takeSection (s : State) (cells : List (Nat × Byte)) (cfg : SectionCfg) (fp : Nat) : State :=
  takeMode2 (placeSection s cells cfg fp)

/-- A byte of a list of cells. -/
def cellBytes (l : List (Nat × Byte)) (n : Nat) : List Byte := (List.range n).map (fun i => storeGet 0 l i)

/-- LOAD_COMPLETE. -/
def loadComplete (s : State) : State :=
  let b := ISL.addr
  if !s.flag b ISL.LOADING then s
  else
    let s := s.putFlag b ISL.LOADING false
    let cfg := sectionCfgOf (stagedCells s)
    if cfg.valid then
      let s := takeSection (s.putFlag b ISL.LOAD_FAIL false) (stagedCells s) cfg (crc32c (cellBytes (stagedCells s) cfg.length))
      waitAll s
    else s.setFlag b ISL.LOAD_FAIL

/-- A write of ISL.FP_ACCEPT (R217). -/
def fpAccept (s : State) (v : Nat) : State :=
  let b := ISL.addr
  if v = s.fld b ISL.FP_LOADED then takeMode2 ((s.setFld b ISL.FP_ACCEPTED v).putFlag b ISL.ACCEPT_FAIL false)
  else s.setFlag b ISL.ACCEPT_FAIL

/-- A word of the staging window. -/
def stagingWrite (s : State) (off : Nat) (w : Word) : State :=
  let put (l : List (Nat × Byte)) (i : Nat) : List (Nat × Byte) := storeSet 0 l (off + i) (w.extractLsb' (8 * i) 8)
  s.setIsl { s.isl with staged := put (put (put (put s.isl.staged 0) 1) 2) 3 }

/-! Speed and separation monitoring (R220 to R238). Lengths below are in 10^-9 mm, times in ns; speeds of the section are in
mm/s, computed ones in 10^-6 mm/s. -/

/-- A sensor's record, register and PDU. -/
def sensCfg (s : State) (i : Nat) : SensCfg := s.sectCfg.sens.getD i default
def sensUsed (s : State) (i : Nat) : Bool := decide (i < s.sectCfg.sens.length) && decide ((sensCfg s i).maxObj ≠ 0)

/-- An object record at an offset has a valid KIND, ordered corners and no reserved bit (R233). -/
def objectOk (d : List Byte) (o : Nat) : Bool :=
  let k := bytesAt d o 1
  let c (i : Nat) : Int := toS 16 (bytesAt d (o + 2 + 2 * i) 2)
  decide (k ≤ 1 ∧ bytesAt d (o + 1) 1 = 0 ∧ bytesAt d (o + 14) 2 = 0) &&
    (decide (k = 0) || decide (c 0 ≤ c 3 ∧ c 1 ≤ c 4 ∧ c 2 ≤ c 5))

/-- Why a sensor is faulted: 3 its connection, 2 its content, 1 not. -/
def sensState (s : State) (i : Nat) : Nat :=
  let k := sensCfg s i
  let d := (s.conn k.conn).data
  let c := bytesAt d 0 1
  let n := c % 16
  if !connRuns s k.conn then 3
  else if c / 16 ≠ 1 ∨ k.maxObj < n ∨ bytesAt d 1 3 ≠ 0 ∨ d.length ≠ 4 + 16 * n ∨
      !((List.range n).all (fun j => objectOk d (4 + 16 * j))) then 2
  else 1

/-- The sensor's newest PDU is taken at the start of a cycle. -/
def takeSensor (s : State) (i : Nat) : State :=
  if !sensUsed s i then s
  else
    let b := SSMSENS.addr i
    let k := sensCfg s i
    let c := s.conn k.conn
    let st := sensState s i
    let n := bytesAt c.data 0 1 % 16
    let old := unitAt ⟨0, 0⟩ s.isl.sens i
    let s := if c.accAt ≠ old.at_ ∧ connRuns s k.conn then s.setFld b SSMSENS.PDU_CNT (s.fld b SSMSENS.PDU_CNT + 1) else s
    let s := s.setIsl { s.isl with sens := s.isl.sens.set i ⟨c.accAt, if st = 1 then n else 0⟩ }
    let s := ((s.setFld b SSMSENS.S_STATE st).setFld b SSMSENS.COUNT (if st = 1 then n else 0)).setFld b SSMSENS.AGE
      (satU 16 ((s.isl.start - c.accAt) / 10000))
    s.setFld SSM.addr SSM.SENS_OK (setBit (s.fld SSM.addr SSM.SENS_OK) i (decide (st = 1)))

/-- The objects of the cycle: (sensor, index over all sensors). -/
def objectList (s : State) : List (Nat × Nat) :=
  ((List.range 8).flatMap (fun i => List.replicate (unitAt ⟨0, 0⟩ s.isl.sens i).count i)).zipIdx

/-- A table entry (T_s in 0.1 ms, S_s in mm). -/
def stopEntry (k : SsmArmCfg) (cls band : Nat) : Nat × Nat := k.table.getD (8 * cls + band) (0, 0)

/-- The larger of two entries, term by term. -/
def maxEntry (a b : Nat × Nat) : Nat × Nat := (Nat.max a.1 b.1, Nat.max a.2 b.2)

/-- The payload class of an arm; none while its source is in the safe state (R226). -/
def armClass (s : State) (k : SsmArmCfg) : Option Nat :=
  if bitOf k.pclass 7 then
    (if connRuns s k.pcConn then some (bytesAt (s.conn k.pcConn).data k.pcByte 1 % 8) else none)
  else some (k.pclass % 8)

/-- The stopping-table entry in use for a band: of the class, of all classes, or of the old and the new one. -/
def usedEntry (k : SsmArmCfg) (cls : Option Nat) (r : SsmRun) (band : Nat) : Nat × Nat :=
  match cls with
  | none => (List.range 8).foldl (fun e c => maxEntry e (stopEntry k c band)) (0, 0)
  | some c => if r.clsLeft = 0 then stopEntry k c band else maxEntry (stopEntry k c band) (stopEntry k r.clsOld band)

/-- The class of a cycle is noted: a change counts in that cycle and the next. -/
def noteClass (r : SsmRun) (cls : Option Nat) : SsmRun :=
  match cls with
  | none => r
  | some c => if c ≠ r.cls then { r with cls := c, clsOld := r.cls, clsLeft := 2 } else { r with clsLeft := r.clsLeft - 1 }

/-- S_p of R220. DESIGN CHOICE (log entry 55). -/
def sepDistance (k : SsmArmCfg) (n : SensCfg) (age band : Nat) (e : Nat × Nat) : Nat :=
  let tr := n.tSens * 100000 + k.tArm * 1000
  n.vh * (tr + e.1 * 100000 + age) + k.edges.getD band 0 * tr + (e.2 + n.c + n.zd + k.zr) * 1000000000

/-- The margin of an arm at a band over the objects of its sensors in a channel, with the object that sets it (R234).
DESIGN CHOICE (log entry 55). -/
def armMargin (s : State) (k : SsmArmCfg) (dist : List Nat) (band : Nat) (e : Nat × Nat) : Option (Int × Nat) :=
  (objectList s).foldl (fun (m : Option (Int × Nat)) o =>
    if bitOf k.sens o.1 then
      let age := s.isl.start - (unitAt ⟨0, 0⟩ s.isl.sens o.1).at_
      let v : Int := (dist.getD o.2 0 : Nat) - (sepDistance k (sensCfg s o.1) age band e : Nat)
      match m with
      | none => some (v, o.2)
      | some y => if v < y.1 then some (v, o.2) else some y
    else m) none

/-- The margin with no object: the largest value. -/
def bigMargin : Int := 2 ^ 62

/-- Two values agree within 2 % or within 5 (mm or mm/s), whichever is larger; unit is one mm or mm/s (R192). -/
def agree (unit x y : Int) : Bool :=
  let d := (x - y).natAbs
  let m := Nat.max x.natAbs y.natAbs
  decide (d ≤ (5 * unit).natAbs ∨ 50 * d ≤ m)

/-- The lowest band whose edge is not below v; 8 beyond the table (R225). -/
def bandOf (k : SsmArmCfg) (v : Nat) : Nat := (List.range 8).foldr (fun b r => if v ≤ k.edges.getD b 0 * 1000000 then b else r) 8

/-- The largest band with a property, below a bound; 8 where there is none. -/
def topBand (f : Nat → Bool) : Nat → Nat
  | 0 => 8
  | b + 1 => if f b then b else topBand f b

/-- The ceiling band of R236. -/
def ceilBand (m : Nat → Int) (dAnt hyst : Int) (old : Nat) : Nat :=
  let up := topBand (fun b => decide (dAnt + hyst ≤ m b)) 8
  if old = 9 then topBand (fun b => decide (dAnt ≤ m b)) 8
  else if old = 8 then up
  else if m old < dAnt then topBand (fun b => decide (dAnt ≤ m b)) old
  else if up ≠ 8 ∧ old < up then up
  else old

/-- The speed limit of the reduced-speed monitor for an arm (R216). -/
def reducedLimit (s : State) (a : Nat) : Option Nat :=
  let man := (List.range 16).filterMap (fun g =>
    if (groupCfg s g).arms.contains a ∧ groupManual s g then some (groupCfg s g).manSpeed else none)
  let l := (if s.flag ISL.addr ISL.COMM_ACT then [250] else []) ++ man
  l.foldl (fun m x => match m with | none => some x | some y => some (Nat.min x y)) none

/-- A stop outcome is entered: events 233 and 234, counters (R237). -/
def enterStop (s : State) (a cause : Nat) : State :=
  let s := setSsm s a { ssmRun s a with stop := true, dwell := none }
  let s := raiseBoth (s.count SSM.addr SSM.STOP_CNT) 233
  let s := if cause = 2 then s.count SSM.addr SSM.BEYOND_CNT else s
  if cause = 3 then raiseBoth s 234 else s

/-- The outcome and the ceiling of a monitored arm in a cycle, from the margins and the speed the channels exchanged (R235,
R236, R238). DEDUCED (log entry 58). -/
def armOutcome (s : State) (a : Nat) (m : Nat → Option (Int × Nat)) (v dMin : Nat) (test : Bool) : State :=
  let b := SSMARM.addr a
  let k := ssmCfg s a
  let mv (x : Nat) : Int := ((m x).map Prod.fst).getD bigMargin
  let beta := bandOf k v
  let band := Nat.min beta 7
  let bad := (List.range 8).any (fun i => bitOf k.sens i && sensUsed s i && decide (sensState s i ≠ 1))
  let miss := !armMeasured s a
  let cause := if bad then 3 else if miss then 4 else if beta = 8 then 2 else if mv beta < 0 then 1 else 0
  let dAnt : Int := (k.dAnt : Int) * 1000000000
  let hyst : Int := (k.hystD : Int) * 1000000000
  let s := if (cause ≠ 0 ∨ test) ∧ !(ssmRun s a).stop then enterStop s a cause else s
  let r := ssmRun s a
  let good := decide (dAnt + hyst ≤ mv 0) && !bad && !miss && decide (v ≤ k.vStill * 1000000)
  let ceil := if r.stop then 9 else ceilBand mv dAnt hyst r.ceil
  let s := setSsm s a { r with ceil := ceil, dwell := if r.stop ∧ good then some (r.dwell.getD s.isl.clk) else none }
  let lim (x : Nat) : Nat := match reducedLimit s a with | none => x | some l => Nat.min l x
  let out := if r.stop then 2 else if ceil = 7 then 0 else 1
  let ce := if r.stop then 0 else if ceil < 8 then k.edges.getD ceil 0 else 0
  let mm (x : Int) : Int := satS 16 (x / 1000000000)
  let cls := armClass s k
  let s := ((s.setFld b SSMARM.OUTCOME out).setFld b SSMARM.CAUSE (if r.stop then cause else 0)).setFld b SSMARM.BAND band
  let s := (s.setFld b SSMARM.CLASS (cls.getD 7)).putFlag b SSMARM.CL_WORST cls.isNone
  let s := (s.putFlag b SSMARM.DWELL_RUN (ssmRun s a).dwell.isSome).setFld b SSMARM.CEIL_BAND (Nat.min ceil 7 % 8)
  let s := ((s.setFld b SSMARM.CEIL (satU 16 (lim ce))).setFld b SSMARM.V_R (satU 16 (v / 1000000))).setFld b SSMARM.D_MIN dMin
  let s := (s.setFldS b SSMARM.M_BAND (mm (mv band))).setFld b SSMARM.OBJ (((m band).map Prod.snd).getD 0)
  match m band with
  | none => s.setFld b SSMARM.SP 0
  | some (_, o) =>
    let sn := (objectList s).getD o (0, 0)
    let age := s.isl.start - (unitAt ⟨0, 0⟩ s.isl.sens sn.1).at_
    s.setFld b SSMARM.SP (satU 16 (sepDistance k (sensCfg s sn.1) age band (usedEntry k cls (ssmRun s a) band) / 1000000000))

/-- An arm without SSM_EN: no outcome, and the reduced-speed monitor's ceiling alone. A stop test stops it until it has
been at standstill for DWELL. -/
def armUnmonitored (s : State) (a v : Nat) (test : Bool) : State :=
  let b := SSMARM.addr a
  let r := ssmRun s a
  let still := decide (v ≤ (ssmCfg s a).vStill * 1000000)
  let s := setSsm s a { r with stop := r.stop || test,
                               dwell := if r.stop && still then some (r.dwell.getD s.isl.clk) else none }
  let s := s.setFld b SSMARM.OUTCOME 3
  s.setFld b SSMARM.CEIL ((reducedLimit s a).getD 0)

/-- The smallest distance of an arm's objects in mm, 0xFFFF for none. -/
def minDistance (s : State) (k : SsmArmCfg) (dx dy : List Nat) : Nat :=
  (objectList s).foldl (fun m o => if bitOf k.sens o.1 then Nat.min m (satU 16 (Nat.min (dx.getD o.2 0) (dy.getD o.2 0) / 1000000000)) else m) 0xFFFF

/-- An item differs in the present cycle: the cycle counts once, and twice in a row it is an island fault (R192). -/
def noteDiffs (s : State) (items : List Nat) : State :=
  let was := s.isl.differed
  let s := s.setIsl { s.isl with differed := items }
  if items.isEmpty then s
  else
    let s := raiseBoth (s.count ISL.addr ISL.XY_DIFF_CNT) 232
    match items.find? (fun i => was.contains i) with
    | none => s
    | some i => islandFault s 2 i

/-- A monitored arm in a cycle: the channels' margins and speeds are exchanged; the items that differ are returned (a: 32 +
margin, 48 + speed). DESIGN CHOICE (log entry 55). -/
def monitorArm (s : State) (sx sy : IslandSample) (a : Nat) (test : Bool) : State × List Nat :=
  let k := ssmCfg s a
  if !k.en then (armUnmonitored s a (Nat.max (sx.speed.getD a 0) (sy.speed.getD a 0)) test, [])
  else
    let dx := sx.dist.getD a []
    let dy := sy.dist.getD a []
    let vx := sx.speed.getD a 0
    let vy := sy.speed.getD a 0
    let cls := armClass s k
    let s := setSsm s a (noteClass (ssmRun s a) cls)
    let r := ssmRun s a
    let mx (b : Nat) := armMargin s k dx b (usedEntry k cls r b)
    let my (b : Nat) := armMargin s k dy b (usedEntry k cls r b)
    let m (b : Nat) : Option (Int × Nat) :=
      match mx b, my b with
      | some x, some y => if x.1 < y.1 then some x else some y
      | x, y => x.or y
    let val (o : Option (Int × Nat)) : Int := (o.map Prod.fst).getD bigMargin
    let md := !(List.range 8).all (fun b => agree 1000000000 (val (mx b)) (val (my b)))
    let vd := !agree 1000000 vx vy
    let s := armOutcome s a m (Nat.max vx vy) (minDistance s k dx dy) test
    (s, (if md then [32 + a] else []) ++ (if vd then [48 + a] else []))

/-- The reduced-speed monitor on the arms and auxiliary axes of a group (R216): too fast demands SS1; an arm without safe
positions is held in STO. DEDUCED (log entry 58). -/
def reducedGroup (s : State) (sx sy : IslandSample) (g : Nat) : State :=
  let k := groupCfg s g
  let exceeds (a : Nat) : Bool := match reducedLimit s a with
    | none => false
    | some l => decide (l * 1000000 < Nat.max (sx.tool.getD a 0) (sy.tool.getD a 0))
  let noPos (a : Nat) : Bool := (reducedLimit s a).isSome && !armMeasured s a
  let auxOver (k : Nat) : Bool :=
    s.flag ISL.addr ISL.COMM_ACT && (List.range 64).any (fun c =>
      decide (connType s c = 1) && decide ((s.connCfg c).axis = k) && connRuns s c &&
      match (s.conn c).posPrev with
      | none => false
      | some p => decide (((s.sectCfg.commV.lookup k).getD 0 : Int) < (toS 32 (ofS 32 ((safePos s c : Int) - p))).natAbs))
  setGroup s g { groupRun s g with restrict := k.arms.any exceeds || k.axes.any auxOver, noPos := k.arms.any noPos }

/-- The channels' tool-point speeds agree. -/
def toolDiffs (sx sy : IslandSample) : List Nat :=
  ((List.range 16).filter (fun a => !agree 1000000 (sx.tool.getD a 0) (sy.tool.getD a 0))).map (64 + ·)

/-- The stop test in a cycle (R230). DEDUCED (log entry 63). -/
def stopTestCycle (s : State) (sx sy : IslandSample) : State :=
  match s.isl.test with
  | none => s
  | some t =>
    let v := Nat.max (sx.speed.getD t.arm 0) (sy.speed.getD t.arm 0)
    let tr := Nat.max t.travel (Nat.max sx.travel sy.travel)
    if !t.begun then
      let s := s.setFld SSM.addr SSM.V_DEC (satU 16 (v / 1000000))
      let s := setSsm s t.arm { ssmRun s t.arm with testStop := true }
      s.setIsl { s.isl with test := some { t with begun := true, from_ := safePlace s t.arm } }
    else
      let still := if v ≤ (ssmCfg s t.arm).vStill * 1000000 then t.still + 1 else 0
      let t := { t with cycles := t.cycles + 1, still := still, travel := tr }
      if still = 3 then
        let s := (s.setFld SSM.addr SSM.T_S (satU 16 ((t.cycles - 2) * 5))).setFld SSM.addr SSM.S_S (satU 16 (tr / 1000000000))
        let s := (s.setFlag SSM.addr SSM.MEAS_VALID).putFlag SSM.addr SSM.TEST_BUSY false
        s.setIsl { s.isl with test := none }
      else s.setIsl { s.isl with test := some t }

/-- SSM.TEST GO. DEDUCED (log entry 63). -/
def ssmTest (s : State) (a : Nat) : State :=
  let b := SSM.addr
  let s := s.setFld b SSM.TEST_ARM a
  let s := ((s.setFld b SSM.MEAS_ARM a).putFlag b SSM.MEAS_VALID false).setFlag b SSM.TEST_BUSY
  s.setIsl { s.isl with test := some ⟨a, false, 0, 0, 0, none⟩ }

/-- DWELL_EXPIRY of an arm (R238): the demand is released; with AUTO, but for a stop test, its reset acts at once. -/
def dwellExpire (s : State) (a : Nat) : State :=
  let r := ssmRun s a
  let k := ssmCfg s a
  match r.dwell with
  | none => s
  | some t =>
    if r.stop ∧ k.dwell * 1000000 ≤ s.isl.clk - t then
      let s := setSsm s a { r with stop := false, dwell := none, ceil := 9, wait := !k.auto || r.testStop, testStop := false }
      s.putFlag (SSMARM.addr a) SSMARM.DWELL_RUN false
    else s

/-! The safety cycle (R191, R192). -/

/-- The stop groups of a cycle. -/
def groupCycle (s : State) (g : Nat) : State :=
  let s := setGroup s g { groupRun s g with viol := (groupCfg s g).conns.any (driveViolates s) }
  let s := s.putFlag (groupBase g) ISL.MANUAL (groupManual s g)
  rampDone (updateGroup s g) g

/-- One arm's monitor, with the differences found so far. DESIGN CHOICE (log entry 114). -/
def monitorStep (sx sy : IslandSample) (x : State × List Nat) (a : Nat) : State × List Nat :=
  let y := monitorArm x.1 sx sy a ((ssmRun x.1 a).testStop && !(ssmRun x.1 a).stop)
  (y.1, x.2 ++ y.2)

/-- The monitors of the sixteen arms, and the differences they find. -/
def monitorArms (s : State) (sx sy : IslandSample) : State × List Nat := (List.range 16).foldl (monitorStep sx sy) (s, [])

/-- SAFETY_CYCLE: xNs is the length of the cycle on channel X's oscillator, errX and errY what a fault of a channel adds to
its results, read the readback of every output. DESIGN CHOICE (log entries 55, 114). -/
def safetyCycle (s : State) (xNs : Nat) (errX errY : List IslandErr) (read : Nat) : State :=
  let s := s.setIsl { s.isl with cycle := s.isl.cycle + 1, start := s.isl.clk, heard := s.tb0 }
  let places := safePlaces s
  if s.isl.testing ∨ islState s = 0 then keepPlaces s places
  else
    let s := if xNs < 450000 ∨ 550000 < xNs then islandFault s 1 0 else s
    let s := if islState s = 3 then s else switchCycle s
    let s := (List.range 8).foldl takeSensor s
    let s := s.setFld SSM.addr SSM.OBJ_COUNT (objectList s).length
    let s := if (List.range 8).any (fun i => sensUsed s i && decide (sensState s i ≠ 1)) then s.count SSM.addr SSM.SENS_FAULT_CNT else s
    let s := (List.range 12).foldl comparator s
    let s := (List.range 32).foldl evalFunc s
    let fd := (List.range 32).filter (fun f => (funcRun s f).demX != (funcRun s f).demY)
    let sx := channelSample s .x places errX
    let sy := channelSample s .y places errY
    let s := stopTestCycle s sx sy
    let m := monitorArms s sx sy
    let s := m.1
    let s := (List.range 16).foldl (fun s g => reducedGroup s sx sy g) s
    let s := (List.range 16).foldl groupCycle s
    let s := (List.range 32).foldl evalLock s
    let s := readbackCheck s read
    let s := driveOutputs s
    let s := (List.range 64).foldl (fun s c => if connType s c = 1 then
        s.setConn c { s.conn c with posPrev := if posPresent s c then some (safePos s c) else none } else s) s
    noteDiffs (keepPlaces s places) (fd ++ m.2 ++ toolDiffs sx sy)

/-- SMSG.CMD CLR_CNT. -/
def smsgClear (s : State) : State :=
  (List.range 64).foldl (fun s c => (s.setWordN (CONN.addr c + 8) 0).setWordN (CONN.addr c + 12) 0xFFFF0000) s

/-- ISLAND_OVERTEMP (R460): detail item 0 of a fault code the spec does not number is a free value.
DESIGN CHOICE (log entry 61). -/
def islandOverTemp (s : State) : State :=
  if islState s = 3 then s
  else
    let (v, s) := s.takeFree
    islandFault s (v.toNat % 256) 0

end Sys2Proof.Machine
end

