-- ==== Sys2Proof/Machine/Rings.lean ====
section
/-! DEFINITION. Drive rings: the schedule and its check, the start of a ring, and its state changes (R256 to R292). -/
namespace Sys2Proof.Machine

/-! The schedule (R272, R273). -/

/-- A schedule entry, decoded. offset is in ns from T_n, mask has channel A in bit 0 and B in bit 1. -/
structure SchedEntry where
  idx : Nat
  offset : Nat
  typ : Nat
  node : Nat
  mask : Nat
  len : Nat
  slot : Nat
  up : Bool
  spdu : Bool
  div : Nat
  phase : Nat
  deriving DecidableEq, Repr

/-- Entry e of ring r. -/
def schedEntry (s : State) (h : Half) (r e : Nat) : SchedEntry :=
  let w0 := s.wordN (RING.addr h r + 0x1000 + 8 * e)
  let w1 := s.wordN (RING.addr h r + 0x1004 + 8 * e)
  { idx := e, offset := 8 * bitsOf w0 19 0, typ := bitsOf w0 23 20, node := bitsOf w0 28 24, mask := bitsOf w0 30 29,
    len := bitsOf w1 10 0, slot := bitsOf w1 12 11, up := bitOf w1 13, spdu := bitOf w1 14, div := bitsOf w1 17 15,
    phase := bitsOf w1 24 18 }

/-- The entries in use. -/
def schedule (s : State) (h : Half) (r : Nat) : List SchedEntry :=
  (List.range (Nat.min 192 (s.fld (RING.addr h r) RING.N_ENTRIES))).map (schedEntry s h r)

/-- An entry is active in period n. -/
def SchedEntry.active (e : SchedEntry) (n : Nat) : Bool := decide (n % 2 ^ e.div = e.phase % 2 ^ e.div)

/-- Two entries are active in some period together. DEDUCED (log entry 45). -/
def SchedEntry.meets (e f : SchedEntry) : Bool :=
  decide (e.phase % 2 ^ Nat.min e.div f.div = f.phase % 2 ^ Nat.min e.div f.div)

/-- The allotment of an entry in ns (R263). -/
def SchedEntry.allot (e : SchedEntry) : Nat :=
  match e.typ with
  | 0 => 2000
  | 1 => 2240
  | 2 => 4800
  | 3 => 10 * (300 + 64 * ((e.len - 24) / 8))
  | _ => 10 * (96 + 8 * e.len)

/-- The expected nodes of ring r. -/
def ringNodes (s : State) (r : Nat) : List NodeCfg := s.cfg.rings.getD r []

/-- The axes of ring r. -/
def ringAxes (s : State) (r : Nat) : Nat := ((ringNodes s r).map (fun n => n.axes.length)).foldl (· + ·) 0

/-- Every later entry that is active with e starts after e's allotment. -/
def roomAfter (e : SchedEntry) (l : List SchedEntry) : Bool :=
  l.all (fun f => !e.meets f || decide (e.offset + e.allot ≤ f.offset))

/-- Offsets ascend, and allotments end before the next active entry and before P. DEDUCED (log entry 45). -/
def roomOk (p : Nat) : List SchedEntry → Bool
  | [] => true
  | e :: t => roomAfter e t && decide (e.offset + e.allot ≤ p) && t.all (fun f => decide (e.offset < f.offset)) && roomOk p t

/-- Each POLL is followed by its REPLY 2.24 us later, and each REPLY follows its POLL. DEDUCED (log entry 45). -/
def pollsOk : List SchedEntry → Bool
  | [] => true
  | e :: t =>
    let here := match t with
      | [] => decide (e.typ ≠ 1)
      | f :: _ =>
        if e.typ = 1 then decide (e.len = 16 ∧ e.div = 0 ∧ f.typ = 2 ∧ f.len = 48 ∧ f.div = 0 ∧ f.node = e.node ∧
          f.slot = e.slot ∧ f.offset = e.offset + 2240)
        else decide (f.typ ≠ 2)
    here && pollsOk t

/-- Each uplink MBX entry follows a downlink entry of its node, 80 ns after that one's line time. -/
def mbxUpOk : List SchedEntry → Bool
  | [] => true
  | e :: t =>
    let here := match t with
      | [] => true
      | f :: _ =>
        if f.typ = 4 ∧ f.up then decide (e.typ = 4 ∧ e.up = false ∧ e.node = f.node ∧ f.offset = e.offset + 10 * (88 + 8 * e.len) + 80)
        else true
    here && mbxUpOk t

/-- The (node, slot) pairs of the POLL entries. -/
def pollSlots (l : List SchedEntry) : List (Nat × Nat) := (l.filter (fun e => e.typ = 1)).map (fun e => (e.node, e.slot))

/-- The nodes of a list, equal neighbours once. -/
def runsOf : List Nat → List Nat
  | [] => []
  | x :: t => match runsOf t with
    | [] => [x]
    | y :: u => if x = y then y :: u else x :: y :: u

/-- The compute time of the control engine for n axes at the slow corner, in ns. -/
def ceMaxNs (n : Nat) : Nat := divCeil n 4 * 220 + 60

/-- The bits of the feedback phase end and of the set-point phase hold with ring delay d (R38). -/
def budgetOk (s : State) (h : Half) (r d tSet : Nat) : Bool :=
  let slots := (pollSlots (schedule s h r)).length
  let n := (s.cfg.rings.map (fun l => (l.map (fun x => x.axes.length)).foldl (· + ·) 0)).foldl (· + ·) 0
  decide (10 * (200 + slots * 704) + d ≤ cwStartNs s h ∧ cwStartNs s h + ceMaxNs n ≤ tSet ∧
    tSet + 10 * (300 + 64 * ringAxes s r) + d + 2000 ≤ s.periodNs h)

/-- The entries in use pass R273, and R38 with the declared delay. DEDUCED (log entry 45). -/
def scheduleOk (s : State) (h : Half) (r : Nat) : Bool :=
  let l := schedule s h r
  let nodes := ringNodes s r
  let slots := pollSlots l
  let d := s.fld (RING.addr h r) RING.D_MAX
  let syncs := l.filter (fun e => e.typ = 0)
  let sets := l.filter (fun e => e.typ = 3)
  let tFb := 10 * (200 + slots.length * 704) + d
  match syncs, sets with
  | [y], [t] =>
    roomOk (s.periodNs h) l && decide (y.offset = 0 ∧ y.div = 0) && decide (t.len = 24 + 8 * ringAxes s r) && pollsOk l &&
    mbxUpOk l && decide ((l.head?.map (fun e => e.typ)) ≠ some 2) &&
    ((l.head?.map (fun e => !(decide (e.typ = 4) && e.up))).getD true) &&
    decide ((runsOf (slots.map Prod.fst)).Nodup) &&
    l.all (fun e => !decide (e.typ = 4) || (decide (tFb ≤ e.offset) && decide (e.offset + e.allot ≤ t.offset))) &&
    budgetOk s h r d t.offset &&
    nodes.all (fun n => decide ((slots.filter (fun x => x.1 = n.addr)).map Prod.snd = List.range (divCeil n.axes.length 2))) &&
    l.all (fun e => decide (e.typ = 0 ∨ e.typ = 3) || decide (e.typ = 4 ∧ e.node = 31) || decide (e.typ ≤ 4) &&
      nodes.any (fun n => n.addr = e.node) && decide (1 ≤ e.node ∧ e.node ≤ 24))
  | _, _ => false

/-! Epochs and claims (R271, R279, R282). -/

/-- The epoch ring r uses, kept in retained MRAM. DESIGN CHOICE (log entry 51). -/
def ringEpoch (s : State) (r : Nat) : Nat := s.memN (mramAddr (0x5000 + 4 * r)) % 256

/-- The newer of two epochs. -/
def newerEpoch (a b : Nat) : Nat := if 1 ≤ (b + 256 - a) % 256 ∧ (b + 256 - a) % 256 ≤ 127 then b else a

/-- Ring r takes the epoch one above the newest it knows. -/
def takeEpoch (s : State) (h : Half) (r : Nat) : State :=
  let e := ringEpoch s r
  let e := match (s.ring h r).seen with | none => e | some x => newerEpoch e x
  s.setMemN (mramAddr (0x5000 + 4 * r)) ((e + 1) % 256)

/-- The CRC-32C of a node-identity list: (address, DEV_ID, AXES) per node. -/
def ringIdOf (l : List (Nat × Nat × Nat)) : Nat :=
  crc32c (l.flatMap (fun x => leBytes 1 x.1 ++ leBytes 4 x.2.1 ++ leBytes 1 x.2.2 ++ zeros 2))

/-- RING_ID of ring r's schedule. -/
def ringId (s : State) (r : Nat) : Nat := ringIdOf ((ringNodes s r).map (fun n => (n.addr, n.devId, n.axes.length)))

/-- A half may send on a ring in the present period: it holds the pennant, or held it when the period began (R19).
DEDUCED (log entries 44, 112). -/
def ringSends (s : State) (h : Half) : Bool :=
  (s.inCharge h && decide (s.former.map Prod.snd ≠ some (s.periodNum h))) ||
  decide (s.former = some (h, s.periodNum h))

/-- The PENNANT flag of a claim. -/
def claimPennant (s : State) (h : Half) : Bool :=
  s.inCharge h

/-- Ring r launches a frame on the channels of a mask. DEDUCED (log entry 44). -/
def launch (s : State) (h : Half) (r mask : Nat) (f : RFrame) : State :=
  if ringSends s h then s.setRing h r { s.ring h r with last := some (f, mask) } else s

/-- A frame of the master. -/
def masterFrame (s : State) (h : Half) (r typ level node : Nat) (body : List Byte) : RFrame :=
  { typ := typ, level := level, epoch := ringEpoch s r, node := node, seq := s.periodNum h % 256, chB := false, body := body }

/-- Servo period code. -/
def periodCode (s : State) (h : Half) : Nat := s.fld (SYS.addr h) SYS.PERIOD

/-- CLAIM goes out on both channels. -/
def sendClaim (s : State) (h : Half) (r : Nat) (keep : Bool) : State :=
  let body := leBytes 2 (s.fld MOD.addr MOD.NUM) ++ leBytes 4 (ringId s r) ++
    leBytes 1 (b2n (claimPennant s h) + 2 * b2n keep) ++ leBytes 1 (periodCode s h)
  launch s h r 3 (masterFrame s h r 5 2 31 body)

/-- A PROBE goes out. -/
def sendProbe (s : State) (h : Half) (r mask level node : Nat) (body : List Byte) : State :=
  launch s h r mask (masterFrame s h r 6 level node body)

/-! Start, stop and failure (R281, R283, R467). -/

/-- STATE of ring r. -/
def ringState (s : State) (h : Half) (r : Nat) : Nat := s.fld (RING.addr h r) RING.STATE

/-- The first event of ring r. -/
def ringEvt (r : Nat) : Nat := 64 + 4 * r

/-- A ring's working state and the registers that show it go back to reset; links stay. AUTO_RESTART and the schedule
entries stay as written. DEDUCED (log entry 43). -/
def ringClear (s : State) (h : Half) (r : Nat) : State :=
  let b := RING.addr h r
  let u := s.ring h r
  let s := s.setRing h r { RingUnit.reset with link1 := u.link1, link2 := u.link2, cable1 := u.cable1, cable2 := u.cable2, seen := u.seen,
                                               retryAt := u.retryAt }
  let s := ((s.resetRegs (b + 0x4) 8).resetRegs (b + 0x1C) 4).resetRegs (b + 0x404) 4
  (List.range 24).foldl (fun s i => s.resetRegs (NODE.addr h r i) 8) s

/-- The counters and the smallest margins are cleared. DEDUCED (log entry 43). -/
def ringClrCnt (s : State) (h : Half) (r : Nat) : State :=
  let b := RING.addr h r
  let s := (s.resetRegs (b + 0x10) 12).resetRegs (b + 0x20) 4
  (List.range 24).foldl (fun s i => (s.setFld (NODE.addr h r i) NODE.MARGIN_MIN 1000).setWordN (NODE.addr h r i + 12) 0) s

/-- The detail bytes of a loss (R467). -/
def lossDetail (s : State) (h : Half) (r : Nat) : Nat :=
  let b := RING.addr h r
  s.periodNum h % 2 ^ 32 + 2 ^ 32 * (s.fld b RING.CH_A_OK + 2 * s.fld b RING.CH_B_OK)

/-- No channel of ring r is in use. DESIGN CHOICE (log entry 53). -/
def channelsIdle (s : State) (h : Half) (r : Nat) : State :=
  let b := RING.addr h r
  (s.putFlag b RING.CH_A_OK false).putFlag b RING.CH_B_OK false

/-- The start of ring r fails with a code. -/
def ringFail (s : State) (h : Half) (r code found : Nat) : State :=
  let b := RING.addr h r
  let d := Nat.max (s.fld b RING.D_A) (s.fld b RING.D_B)
  let s := ((s.setFld b RING.STATE 4).setFld b RING.FAIL_CODE code).setFld b RING.FOUND_RING found
  let s := channelsIdle s h r
  let s := s.setRing h r { s.ring h r with step := 0, backoff := false, last := none }
  let s := raiseEvt s h (ringEvt r)
  faultLog s (ringEvt r) (some h) (some code)
    (some (satU 16 d + 2 ^ 16 * s.fld b RING.D_MAX + 2 ^ 32 * (if code = 6 then found else 0)))

/-- Both links are up: CLAIM goes out with a new epoch. A cable fault fails the start (code 2). -/
def ringLinked (s : State) (h : Half) (r : Nat) : State :=
  let u := s.ring h r
  if u.step = 1 ∧ (u.cable1 ∨ u.cable2) then ringFail s h r 2 0
  else if u.step = 1 ∧ u.link1 ∧ u.link2 then
    let s := takeEpoch s h r
    let s := s.setRing h r { s.ring h r with step := 2 }
    sendClaim s h r false
  else s

/-- Ring r starts: the schedule is checked, then the links (R281). DEDUCED (log entries 43, 44). -/
def ringBegin (s : State) (h : Half) (r : Nat) : State :=
  let b := RING.addr h r
  let s := ringClear s h r
  let s := s.setFld b RING.STATE 1
  let s := (ringNodes s r).foldl (fun s n => s.setFld (NODE.addr h r (n.addr - 1)) NODE.N_STATE 1) s
  if scheduleOk s h r then
    let s := (s.setFlag b RING.CH_A_OK).setFlag b RING.CH_B_OK
    ringLinked (s.setRing h r { s.ring h r with step := 1 }) h r
  else ringFail s h r 11 0

/-- Sending on ring r stops. -/
def ringStop (s : State) (h : Half) (r : Nat) : State :=
  let s := channelsIdle (s.setFld (RING.addr h r) RING.STATE 0) h r
  s.setRing h r { s.ring h r with step := 0, backoff := false, last := none, retryAt := none }

/-- A reset of the ring domain: every register of the ring's block, its schedule entries among them, takes its reset value
(R9, R11). DEDUCED (log entry 43). -/
def ringReset (s : State) (h : Half) (r : Nat) : State := s.resetRegs (RING.addr h r) 0x10000

/-- RESTART, or the restart of a lost ring (R286): a reset of the ring domain, then a start. -/
def ringRestart (s : State) (h : Half) (r : Nat) : State := ringBegin (ringReset s h r) h r

/-- START. -/
def ringStart (s : State) (h : Half) (r : Nat) : State :=
  let x := ringState s h r
  if x = 1 ∨ x = 2 then s
  else
    ringBegin (s.setRing h r { s.ring h r with retryAt := none }) h r

/-- Both channels return to use (R288). -/
def chClr (s : State) (h : Half) (r : Nat) : State :=
  let b := RING.addr h r
  let s := s.resetRegs (b + 0x1C) 4
  let s := s.setRing h r { s.ring h r with violA := [], violB := [], cleanA := none, cleanB := none }
  if ringState s h r = 1 ∨ ringState s h r = 2 then (s.setFlag b RING.CH_A_OK).setFlag b RING.CH_B_OK else s

/-- A write of RING.CTRL. -/
def ringCtrl (s : State) (h : Half) (r v : Nat) : State :=
  let s := s.putFlag (RING.addr h r) RING.AUTO_RESTART (bitOf v 8)
  let s := if bitOf v 3 then ringClrCnt s h r else s
  let s := if bitOf v 4 then chClr s h r else s
  let s := if bitOf v 1 then ringStop s h r else s
  if bitOf v 2 then ringRestart (ringStop s h r) h r
  else if bitOf v 0 then ringStart s h r else s

/-- The ring runs, or its cyclic operation has begun. -/
def ringCyclic (s : State) (h : Half) (r : Nat) : Bool := decide ((s.ring h r).step = 9)

/-- RING_LOST (R286, R288): 16 periods without an accepted copy on a running ring, or both channels unusable. DESIGN CHOICE (log entry 53). -/
def ringLost (s : State) (h : Half) (r : Nat) : State :=
  let b := RING.addr h r
  let both := s.flag b RING.A_UNUSABLE && s.flag b RING.B_UNUSABLE
  if (ringState s h r = 2 ∧ (both ∨ 16 ≤ (s.ring h r).silent)) ∨ (ringState s h r = 1 ∧ ringCyclic s h r ∧ both) then
    let detail := lossDetail s h r
    let s := channelsIdle (s.setFld b RING.STATE 3) h r
    let s := s.setRing h r { s.ring h r with step := 0, last := none, retryAt := some (s.tb0 + 1000000000) }
    let s := raiseEvt s h (ringEvt r)
    rehFailIf (faultLog s (ringEvt r) (some h) (some (if both then 0x11 else 0x10)) (some detail)) true h 1
  else s

/-- RING_AUTO_RESTART: once per second until the ring starts. -/
def ringAuto (s : State) (h : Half) (r : Nat) : State :=
  let x := ringState s h r
  match (s.ring h r).retryAt with
  | none => s
  | some t =>
    if (x = 3 ∨ x = 4) ∧ s.flag (RING.addr h r) RING.AUTO_RESTART ∧ t ≤ s.tb0 then
      ringRestart (s.setRing h r { s.ring h r with retryAt := some (s.tb0 + 1000000000) }) h r
    else s

/-! Links (R281, R289). -/

/-- A channel of a running ring is unusable from now on: event e + 3. bab is the node blamed, 0 where none is. -/
def channelOff (s : State) (h : Half) (r : Nat) (chB : Bool) (bab : Nat) : State :=
  let b := RING.addr h r
  let s := s.setFlag b (if chB then RING.B_UNUSABLE else RING.A_UNUSABLE)
  let s := s.putFlag b (if chB then RING.CH_B_OK else RING.CH_A_OK) false
  let s := s.setFld b (if chB then RING.BAB_B else RING.BAB_A) bab
  raiseEvt s h (ringEvt r + 3)

/-- RING_LINK_DOWN at end 1 or 2. -/
def linkDown (s : State) (h : Half) (r : Nat) (end2 : Bool) : State :=
  let u := s.ring h r
  let s := s.setRing h r (if end2 then { u with link2 := false, cleanA := none } else { u with link1 := false, cleanB := none })
  let f := if end2 then RING.A_UNUSABLE else RING.B_UNUSABLE
  if ringState s h r = 2 ∧ !s.flag (RING.addr h r) f then channelOff s h r (!end2) 0 else s

/-- RING_LINK_UP at end 1 or 2, with what the cable diagnostics of that end found. -/
def linkUp (s : State) (h : Half) (r : Nat) (end2 cable : Bool) : State :=
  let u := s.ring h r
  let s := s.setRing h r (if end2 then { u with link2 := true, cable2 := cable, cleanA := some 0 }
                          else { u with link1 := true, cable1 := cable, cleanB := some 0 })
  ringLinked s h r

/-- CHANNEL_RETURN: the link of an unusable channel is up again and the channel had 64 periods without a violation. -/
def channelReturn (s : State) (h : Half) (r : Nat) (chB : Bool) : State :=
  let b := RING.addr h r
  let u := s.ring h r
  let clean := if chB then u.cleanB else u.cleanA
  match clean with
  | none => s
  | some n =>
    if 64 ≤ n then
      let s := (s.putFlag b (if chB then RING.B_UNUSABLE else RING.A_UNUSABLE) false).setFlag b (if chB then RING.CH_B_OK else RING.CH_A_OK)
      s.setRing h r (if chB then { s.ring h r with cleanB := none } else { s.ring h r with cleanA := none })
    else s

/-! The steps of a ring start (R281, R282). -/

/-- ENUM goes out on A. -/
def sendEnum (s : State) (h : Half) (r : Nat) : State :=
  let s := s.setRing h r { s.ring h r with step := 3, backoff := false }
  sendProbe s h r 1 2 31 [0, 0]

/-- A claimant withdraws: the ring stays stopped. -/
def ringWithdraw (s : State) (h : Half) (r : Nat) : State := ringStop s h r

/-- CLAIM_RECEIVE: the own claim returns valid, or a foreign one arrives, valid or corrupt, with its epoch (R282).
DEDUCED (log entry 46). -/
def claimReceive (s : State) (h : Half) (r : Nat) (own valid pennant : Bool) (epoch : Nat) : State :=
  let u := s.ring h r
  if u.step ≠ 2 then s
  else if own then (if valid ∧ !u.backoff then sendEnum s h r else s)
  else
    let s := if valid ∧ s.flag (RING.addr h r) RING.SPLIT then
        s.setRing h r { u with seen := some (match u.seen with | none => epoch | some x => newerEpoch x epoch) }
      else s
    let mine := claimPennant s h
    if valid ∧ u.backoff then ringWithdraw s h r
    else if valid ∧ !mine ∧ pennant then ringWithdraw s h r
    else if valid ∧ mine ∧ !pennant then sendClaim (takeEpoch s h r) h r false
    else s.setRing h r { s.ring h r with backoff := true }

/-- CLAIM_TIMEOUT: the own claim did not return valid in time. -/
def claimTimeout (s : State) (h : Half) (r : Nat) : State :=
  let u := s.ring h r
  if u.step = 2 then s.setRing h r { u with backoff := true } else s

/-- The backoff of the claimant in ns. DEDUCED (log entry 46). -/
def claimBackoffNs (s : State) : Nat := s.fld MOD.addr MOD.NUM % 32 * 10000 + 10000

/-- CLAIM_BACKOFF_EXPIRY: no foreign claim was heard, so CLAIM goes out again. DEDUCED (log entry 46). -/
def claimAgain (s : State) (h : Half) (r : Nat) : State :=
  let u := s.ring h r
  if u.step = 2 ∧ u.backoff then sendClaim (s.setRing h r { u with backoff := false }) h r false else s

/-- ENUM_RETURN. -/
def enumReturn (s : State) (h : Half) (r hops : Nat) : State :=
  if (s.ring h r).step ≠ 3 then s
  else
    let s := s.setFld (RING.addr h r) RING.NODES hops
    if hops = (ringNodes s r).length then
      sendProbe (s.setRing h r { s.ring h r with step := 4 }) h r 1 2 31 [1]
    else ringFail s h r 4 0

/-- REQUEST or CONFIG goes to a node; the last one launched is shown. -/
def sendNode (s : State) (h : Half) (r : Nat) (n : NodeCfg) (body : List Byte) : State :=
  sendProbe s h r 3 n.level n.addr body

/-- MEASURE_RETURN on a channel: launch on servo time, delay in ns (R274). DEDUCED (log entry 47). -/
def measureReturn (s : State) (h : Half) (r : Nat) (chB : Bool) (launchAt delay : Nat) : State :=
  let b := RING.addr h r
  let u := s.ring h r
  if u.step = 4 ∧ !chB then
    let s := (s.setFld b RING.D_A (satU 16 delay)).setRing h r { u with step := 5, tA := launchAt }
    sendProbe s h r 2 2 31 [1]
  else if u.step = 5 ∧ chB then
    let s := (s.setFld b RING.D_B (satU 16 delay)).setRing h r { u with step := 6, tB := launchAt }
    let da := s.fld b RING.D_A
    let db := s.fld b RING.D_B
    let s := s.putFlag b RING.ASYM (decide (100 < da - db ∨ 100 < db - da))
    (ringNodes s r).foldl (fun s n => sendNode s h r n [2]) s
  else s

/-- What a REPORT says (R271). -/
structure NodeReport where
  devId : Nat
  serial : Nat
  axes : Nat
  fns : Nat
  sA : Nat
  sB : Nat
  level : Nat
  deriving DecidableEq, Repr

/-- The report a frame carries. -/
def reportOf (f : RFrame) : Option NodeReport :=
  if f.typ = 6 ∧ f.body.length = 28 ∧ bytesAt f.body 0 1 = 3 then
    some { devId := bytesAt f.body 1 4, serial := bytesAt f.body 5 4, axes := bytesAt f.body 9 1, fns := bytesAt f.body 10 2,
           sA := bytesAt f.body 12 8, sB := bytesAt f.body 20 8, level := f.level }
  else none

/-- The list of nodes as reported matches a list of R271 by its CRC. -/
def reportedId (s : State) (h : Half) (r : Nat) : Nat :=
  ringIdOf ((ringNodes s r).map (fun n => (n.addr, ((s.ring h r).nodes.getD (n.addr - 1) .reset).devId,
    s.fld (NODE.addr h r (n.addr - 1)) NODE.AXES)))

/-- Another ring whose RING_ID is x. -/
def otherRing (s : State) (r x : Nat) : Option Nat :=
  (List.range 8).find? (fun q => decide (q ≠ r) && !(ringNodes s q).isEmpty && decide (ringId s q = x))

/-- The code with which the checks of step 6 fail (R283), with the ring that code 6 names. -/
def reportCheck (s : State) (h : Half) (r : Nat) : Option (Nat × Nat) :=
  let b := RING.addr h r
  let x := reportedId s h r
  match (if x = ringId s r then none else otherRing s r x) with
  | some q => some (6, q)
  | none =>
    if (ringNodes s r).any (fun n => decide (((s.ring h r).nodes.getD (n.addr - 1) .reset).devId ≠ n.devId ∨
        s.fld (NODE.addr h r (n.addr - 1)) NODE.AXES ≠ n.axes.length)) then some (5, 0)
    else if (ringNodes s r).any (fun n => let l := s.fld (NODE.addr h r (n.addr - 1)) NODE.LEVEL
        decide (l ≠ n.level) || (decide (l = 1) && n.safe)) then some (7, 0)
    else if s.fld b RING.D_MAX < Nat.max (s.fld b RING.D_A) (s.fld b RING.D_B) then some (8, 0)
    else none

/-- d_A and d_B of a node (R274), D = (D_A + D_B) / 2. DEDUCED (log entry 47). -/
def nodeDelays (s : State) (h : Half) (r : Nat) (f sA sB : Nat) : Int × Int :=
  let b := RING.addr h r
  let u := s.ring h r
  let dd : Int := (s.fld b RING.D_A : Int) + s.fld b RING.D_B
  let delta : Int := ((sA : Int) - u.tA) - ((sB : Int) - u.tB)
  let a := (dd + 2 * (delta - f)) / 4
  (a, dd / 2 - f - a)

/-- The delays of a node are stored. DEDUCED (log entry 47). -/
def putDelays (s : State) (h : Half) (r a : Nat) : State :=
  let n := (s.ring h r).nodes.getD (a - 1) .reset
  let b := NODE.addr h r (a - 1)
  let d := nodeDelays s h r (s.fld b NODE.F_NS) n.sA n.sB
  (s.setFld b NODE.D_A_NODE (satU 16 d.1.toNat)).setFld b NODE.D_B_NODE (satU 16 d.2.toNat)

/-- CONFIG of a node (R271): delays, period, slots, POLL offsets and the SET offset. -/
def configBody (s : State) (h : Half) (r : Nat) (n : NodeCfg) : List Byte :=
  let b := NODE.addr h r (n.addr - 1)
  let l := schedule s h r
  let polls := l.filter (fun e => e.typ = 1 ∧ e.node = n.addr)
  let ofs (i : Nat) : Nat := (polls.find? (fun e => e.slot = i)).elim 0 (fun e => e.offset / 8)
  let set := (l.find? (fun e => e.typ = 3)).elim 0 (fun e => e.offset / 8)
  [4] ++ leBytes 4 (s.fld b NODE.D_A_NODE) ++ leBytes 4 (s.fld b NODE.D_B_NODE) ++ leBytes 1 (periodCode s h) ++
    leBytes 1 polls.length ++ (List.range 4).flatMap (fun i => leBytes 3 (ofs i)) ++ leBytes 3 set

/-- Every expected node has reported, or has acknowledged. -/
def allNodes (s : State) (h : Half) (r : Nat) (f : RingNode → Bool) : Bool :=
  (ringNodes s r).all (fun n => f ((s.ring h r).nodes.getD (n.addr - 1) .reset))

/-- A node of a ring changes. -/
def setRingNode (s : State) (h : Half) (r a : Nat) (f : RingNode → RingNode) : State :=
  let u := s.ring h r
  s.setRing h r { u with nodes := u.nodes.modify (a - 1) f }

/-- A node's report is stored. -/
def putReport (s : State) (h : Half) (r a : Nat) (x : NodeReport) : State :=
  let b := NODE.addr h r (a - 1)
  let s := ((s.setFld b NODE.LEVEL x.level).setFld b NODE.AXES x.axes).setFld b NODE.F_NS x.fns
  setRingNode s h r a (fun n => { n with devId := x.devId, serial := x.serial, sA := x.sA, sB := x.sB, reported := true })

/-- REPORT_RECEIVE: identity in step 5, acknowledgement in step 7 (R281). -/
def reportReceive (s : State) (h : Half) (r : Nat) (bytes : List Byte) : State :=
  match parseFrame bytes with
  | none => s.count (RING.addr h r) RING.CRC_ERR_A
  | some f =>
    if f.epoch ≠ ringEpoch s r ∨ !(ringNodes s r).any (fun n => n.addr = f.node) then s
    else match reportOf f with
      | none => s
      | some x =>
        let step := (s.ring h r).step
        if step = 6 then
          let s := putReport s h r f.node x
          if allNodes s h r (fun n => n.reported) then
            match reportCheck s h r with
            | some (c, q) => ringFail s h r c q
            | none =>
              let s := (ringNodes s r).foldl (fun s n => (putDelays s h r n.addr).setFld (NODE.addr h r (n.addr - 1)) NODE.N_STATE 1) s
              let s := s.setRing h r { s.ring h r with step := 7 }
              (ringNodes s r).foldl (fun s n => sendNode s h r n (configBody s h r n)) s
          else s
        else if step = 7 then
          let s := setRingNode s h r f.node (fun n => { n with acked := true })
          if allNodes s h r (fun n => n.acked) then s.setRing h r { s.ring h r with step := 8 } else s
        else s

/-- The code with which a step fails that exceeds its bound (R283). -/
def stepCode : Nat → Nat
  | 1 => 1
  | 2 => 3
  | 3 => 4
  | 4 => 4
  | 5 => 4
  | 6 => 10
  | 7 => 10
  | _ => 9

/-- START_STEP_TIMEOUT. -/
def stepTimeout (s : State) (h : Half) (r : Nat) : State :=
  let u := s.ring h r
  if ringState s h r = 1 ∧ u.step ≠ 0 then ringFail s h r (stepCode u.step) 0 else s

/-- RING_RUNNING: 16 periods with every REPLY accepted at a margin of at least 500 ns. -/
def ringRunning (s : State) (h : Half) (r : Nat) : State :=
  if ringState s h r = 1 ∧ ringCyclic s h r ∧ 16 ≤ (s.ring h r).goodRun then
    let s := s.setFld (RING.addr h r) RING.STATE 2
    let s := s.setRing h r { s.ring h r with retryAt := none }
    let s := (ringNodes s r).foldl (fun s n => s.setFld (NODE.addr h r (n.addr - 1)) NODE.N_STATE 2) s
    raiseEvt s h (ringEvt r)
  else s

end Sys2Proof.Machine
end

