-- ==== Sys2Proof/Machine/RingsRun.lean ====
section
/-! DEFINITION. A running drive ring: frames launched and received, feedback, margins, mailbox, violations and missing nodes
(R246, R258, R264 to R277, R284 to R289). -/
namespace Sys2Proof.Machine

/-! Frames of the master. -/

/-- The drive connections of a node, in ascending axis number (R246). -/
def nodeConns (s : State) (r a : Nat) : List Nat :=
  let l := (List.range 64).filter (fun c => let b := CONN.addr c
    decide (s.fld b CONN.TYPE = 1 ∧ s.fld b CONN.TRANSPORT = 0 ∧ s.fld b CONN.RING = r ∧ s.fld b CONN.NODE = a))
  l.mergeSort (fun x y => decide ((s.connCfg x).axis ≤ (s.connCfg y).axis))

/-- The connection whose PDU a node carries in period n. -/
def nodeConnAt (s : State) (r a n : Nat) : Option Nat :=
  let l := nodeConns s r a
  if l.isEmpty then none else l[n % l.length]?

/-- EDGE_SEL of an axis (R265): the edge its homing step needs, else the positive limit. -/
def edgeSel (s : State) (h : Half) (k : Nat) : Nat :=
  match (s.prf h k).homing with
  | none => 0
  | some hm =>
    if hm.motion = 8 ∨ hm.method = 4 then 3
    else (homeSwitch hm).getD 0

/-- The expected node at an address. -/
def nodeAt (s : State) (r a : Nat) : Option NodeCfg := (ringNodes s r).find? (fun n => n.addr = a)

/-- The module axis of axis index i of a node. -/
def nodeAxis (s : State) (r a i : Nat) : Option Nat := (nodeAt s r a).bind (fun n => n.axes[i]?)

/-- The protocol level a frame to an address carries. -/
def levelTo (s : State) (r a : Nat) : Nat := ((nodeAt s r a).map (fun n => n.level)).getD 2

/-- The SYNC body: the servo time of T_{n+1} (R264). DESIGN CHOICE (log entry 51). -/
def syncBody (s : State) (h : Half) : List Byte :=
  let t := (s.periodNum h + 1) * s.periodNs h
  leBytes 6 (t / 1000000000) ++ leBytes 4 (t % 1000000000) ++ leBytes 2 0 ++ leBytes 1 (periodCode s h)

/-- The POLL body of an entry, and the connection whose PDU it takes from the insertion buffer (R23, R265).
DEDUCED (log entry 49). -/
def pollBody (s : State) (h : Half) (r : Nat) (e : SchedEntry) : List Byte × Option Nat :=
  let sel (j : Nat) : Nat := ((nodeAxis s r e.node (2 * e.slot + j)).map (edgeSel s h)).getD 0
  let pick := if e.spdu ∧ e.slot = 0 then nodeConnAt s r e.node (s.periodNum h) else none
  let pdu := pick.bind (fun c => (s.conn c).out.map (fun b => (c, b)))
  let sax := (pdu.map (fun x => (s.connCfg x.1).axIdx)).getD 0
  let fl := b2n pdu.isSome + 2 * (e.slot % 4) + 8 * (sax % 8)
  (leBytes 1 fl ++ leBytes 1 (sel 0 + 4 * sel 1) ++ zeros 2 ++ ((pdu.map Prod.snd).getD (zeros 12)).take 12, pdu.map Prod.fst)

/-- CLR_PU is sent to a node that reports PU once the references are restored. DEDUCED (log entry 49). -/
def clrPu (s : State) (h : Half) (r a : Nat) : Bool :=
  s.flag (NODE.addr h r (a - 1)) NODE.PU && decide (s.fld MOD.addr MOD.STATE = 1)

/-- The entry of an axis in the SET frame (R268, R269). -/
def setEntry (s : State) (h : Half) (r a i k : Nat) (hold : Bool) : List Byte :=
  let c := s.ce h k
  let actl := b2n c.bufEn + 2 * s.fld (CE.addr h k) CE.BRAKE_REQ + 4 * b2n hold + 8 * b2n (clrPu s h r a)
  leBytes 4 (ofS 32 c.bufTq) ++ leBytes 1 (a + 32 * i) ++ leBytes 1 actl ++ zeros 2

/-- HEARD: the nodes whose REPLY was used in this period. -/
def heardMask (u : RingUnit) : Nat := u.acc.foldl (fun m x => setBit m x.node true) 0

/-- The SET body (R268). -/
def setBody (s : State) (h : Half) (r : Nat) (hold : Bool) : List Byte :=
  let b := RING.addr h r
  let order := runsOf ((pollSlots (schedule s h r)).map Prod.fst)
  let entry (a : Nat) : List (Nat × Nat × Nat) :=
    match nodeAt s r a with
    | none => []
    | some n => n.axes.zipIdx.map (fun x => (a, x.2, x.1))
  let l := order.flatMap entry
  leBytes 8 (s.periodNum h + 1) ++ leBytes 1 (s.fld b RING.CH_A_OK + 2 * s.fld b RING.CH_B_OK) ++ leBytes 1 l.length ++
    zeros 2 ++ leBytes 4 (heardMask (s.ring h r)) ++ zeros 8 ++ l.flatMap (fun x => setEntry s h r x.1 x.2.1 x.2.2 hold)

/-- The MBX body to a node: a fragment of the waiting message, or a poll with the acknowledgement (R270).
DESIGN CHOICE (log entry 50). -/
def mbxBody (s : State) (h : Half) (r : Nat) (e : SchedEntry) : List Byte × Option MbxTx :=
  let u := s.ring h r
  let n := u.nodes.getD (e.node - 1) .reset
  let base := b2n n.txTog + 2 * b2n n.rxTog
  match u.mbx with
  | none => (leBytes 2 base, none)
  | some m =>
    if m.node = e.node then
      let frag := Nat.min (e.len - 2) m.bytes.length
      (leBytes 2 (base + 4 * b2n (decide (frag < m.bytes.length))) ++ m.bytes.take frag,
        some { m with frag := frag, sends := m.sends + 1 })
    else (leBytes 2 base, none)

/-- The channels a frame is launched on: a channel whose sending end has no link is left out (R289). -/
def liveMask (u : RingUnit) (mask : Nat) : Nat := (if u.link1 then mask % 2 else 0) + (if u.link2 then mask / 2 % 2 * 2 else 0)

/-- SCHEDULE_ENTRY_LAUNCH: time passes to an active entry that is no reception window, in cyclic operation, which the half that
may send launches. In hold-up the next SET carries HOLDUP_STOP and ends the ring's transmission (R458). -/
def launchEntry (s : State) (h : Half) (r i : Nat) : State :=
  let e := schedEntry s h r i
  let u := s.ring h r
  let hold := decide (s.boot.holdup ≠ 0)
  let n := s.periodNum h
  if !ringCyclic s h r || !ringSends s h || decide (Nat.min 192 (s.fld (RING.addr h r) RING.N_ENTRIES) ≤ i) || !e.active n ||
      (hold && u.finalSent) then s
  else
    let s := passUntil s h (n * s.periodNs h + e.offset)
    let mask := liveMask u e.mask
    let send (s : State) (level node : Nat) (body : List Byte) : State :=
      launch s h r mask (masterFrame s h r e.typ level node body)
    match e.typ with
    | 0 =>
      if s.pen.claimAt = some n ∧ s.flag (RING.addr h r) RING.SPLIT then sendClaim s h r true
      else send s 2 31 (syncBody s h)
    | 1 =>
      let (body, c) := pollBody s h r e
      let s := send s (levelTo s r e.node) e.node body
      match c with
      | none => s
      | some c => s.setConn c { s.conn c with out := none }
    | 3 =>
      let s := lanesAtSet s h
      let s := send s 2 31 (setBody s h r hold)
      if hold then s.setRing h r { s.ring h r with finalSent := true } else s
    | 4 =>
      if e.up then s
      else
        let (body, m) := mbxBody s h r e
        let s := send s (levelTo s r e.node) e.node body
        match m with
        | none => s
        | some m => s.setRing h r { s.ring h r with mbx := some m }
    | _ => s

/-! Replies (R258, R266, R267, R276, R277). -/

/-- A drive's input bits of one axis go to the axis inputs that select them (R70, R267). t is servo time at T_n.
DEDUCED (log entry 48). -/
def driveInputs (s : State) (h : Half) (k astat aux : Nat) : State :=
  let n := s.periodNum h
  let p := s.periodNs h
  let kind := bitsOf astat 11 10
  let src := bitsOf astat 13 12
  (List.range 3).foldl (fun s i =>
    let b := inputSource s h k i
    let q := b % 128
    if 64 ≤ q ∧ q ≤ 66 then
      let stamp := if kind = 1 ∧ src = q - 64 then (n - 1) * p + 16 * aux else n * p
      driveInput s h k i (bitOf astat (q - 64) != decide (128 ≤ b)) stamp
    else s) s

/-- The drive's index of one axis (R80): captured, or stamped, or without either at T_n. -/
def driveIndex (s : State) (h : Half) (k : Nat) (raw : Int) (astat aux : Nat) : State :=
  let n := s.periodNum h
  let kind := bitsOf astat 11 10
  let mine := decide (bitsOf astat 13 12 = 3)
  if !bitOf astat 3 then s
  else if kind = 2 then
    indexFound s h k (some (raw - toS 16 aux * 4096 + s.fldS (PRF.addr h k) PRF.POS_OFFSET)) (n, 0)
  else if kind = 1 ∧ mine then indexFound s h k none (n - 1, 16 * aux)
  else indexFound s h k none (n, 0)

/-- POS extended to 64 bits by continuity from the previous sample; the first sample is sign-extended (R267). -/
def extendPos (prev : Option Int) (pos : Nat) : Int :=
  match prev with
  | none => toS 48 pos
  | some p => p + toS 48 (ofS 48 ((pos : Int) - p))

/-- An axis of a node that lost logic power loses its reference unless its encoder counts as absolute (R82). -/
def powerLost (s : State) (h : Half) (k : Nat) (absolute : Bool) : State :=
  let b := PRF.addr h k
  if !absolute && s.flag b PRF.REF then (s.putFlag b PRF.REF false).setFld b PRF.RET_CAUSE 2 else s

/-- One axis entry of a used REPLY copy; first: the slot had none before in this period. -/
def axisEntry (s : State) (h : Half) (r a i : Nat) (e : List Byte) (pu first : Bool) : State :=
  match nodeAxis s r a i with
  | none => s
  | some k =>
    let astat := bytesAt e 12 2
    let aux := bytesAt e 14 2
    let raw := extendPos (((s.ring h r).nodes.getD (a - 1) .reset).pos.getD i none) (bytesAt e 0 6)
    let s := setRingNode s h r a (fun n => { n with pos := n.pos.set i (some raw) })
    let pos := raw + s.fldS (PRF.addr h k) PRF.POS_OFFSET
    let fb : AxisFb := { pos := pos, vel := toS 32 (bytesAt e 8 4), tq := toS 16 (bytesAt e 6 2) * 4096, astat := astat, aux := aux }
    let s := s.setCe h k { s.ce h k with fb := some fb }
    if first then
      let s := if pu then powerLost s h k (bitOf astat 9) else s
      driveIndex (driveInputs s h k astat aux) h k raw astat aux
    else s

/-- The margin of an accepted copy (R277). -/
def copyMargin (s : State) (h : Half) (r os at_ : Nat) (chB : Bool) (f : RFrame) : Nat :=
  let dev := bytesAt f.body 2 2
  let dc := s.fld (RING.addr h r) (if chB then RING.D_B else RING.D_A)
  if f.level = 1 ∨ dev = 0x7FFF ∨ dev = 0x8000 then 1000 - ((at_ : Int) - (os + 2240 + dc : Nat)).natAbs
  else 1000 - (toS 16 dev).natAbs

/-- A margin is stored; below 500 ns it raises event e + 2 once until it has been above 600 ns. -/
def putMargin (s : State) (h : Half) (r a m : Nat) : State :=
  let b := RING.addr h r
  let nb := NODE.addr h r (a - 1)
  let s := s.setFld nb NODE.MARGIN m
  let s := if m < s.fld nb NODE.MARGIN_MIN then s.setFld nb NODE.MARGIN_MIN m else s
  let s := if m < s.fld b RING.MIN_MARGIN then (s.setFld b RING.MIN_MARGIN m).setFld b RING.MIN_NODE a else s
  let n := (s.ring h r).nodes.getD (a - 1) .reset
  if m < 500 then
    let s := s.setRing h r { s.ring h r with lowMargin := true }
    if n.armed then raiseEvt (setRingNode s h r a (fun n => { n with armed := false })) h (ringEvt r + 2) else s
  else if 600 < m then setRingNode s h r a (fun n => { n with armed := true })
  else s

/-- A node's flags from a REPLY: CLK_FLAG as it rises raises event e + 2, a changed level event e + 1; a missing node whose
PU is clear returns (R284). -/
def putNodeFlags (s : State) (h : Half) (r a : Nat) (f : RFrame) : State :=
  let nb := NODE.addr h r (a - 1)
  let rf := bytesAt f.body 0 1
  let clk := bitOf rf 1
  let s := raiseIf s (clk && !s.flag nb NODE.CLK_FLAG) h (ringEvt r + 2)
  let s := ((s.putFlag nb NODE.CLK_FLAG clk).putFlag nb NODE.LOC (bitOf rf 3)).putFlag nb NODE.PU (bitOf rf 4)
  let s := if s.fld nb NODE.LEVEL ≠ f.level then raiseEvt (s.setFld nb NODE.LEVEL f.level) h (ringEvt r + 1) else s
  if s.fld nb NODE.N_STATE = 3 ∧ !bitOf rf 4 then raiseEvt (s.setFld nb NODE.N_STATE 2) h (ringEvt r + 1) else s

/-- Two copies of one REPLY agree: header apart from CH, body apart from POLL_DEV (R258). -/
def copiesAgree (f g : RFrame) : Bool :=
  decide (f.level = g.level ∧ f.epoch = g.epoch ∧ f.node = g.node ∧ f.seq = g.seq ∧ f.body.take 2 = g.body.take 2 ∧
    f.body.drop 4 = g.body.drop 4)

/-- The axis entries of the used copy of a slot. DEDUCED (log entry 48). -/
def useReply (s : State) (h : Half) (r slot : Nat) (f : RFrame) (first : Bool) : State :=
  let pu := bitOf (bytesAt f.body 0 1) 4
  let s := axisEntry s h r f.node (2 * slot) ((f.body.drop 16).take 16) pu first
  if bitOf (bytesAt f.body 1 1) 5 then s else axisEntry s h r f.node (2 * slot + 1) ((f.body.drop 32).take 16) pu first

/-- The copy x of a slot is accepted beside those already accepted: the one with the earlier stamp is used, on equal
stamps the one on channel A; a discarded copy that differs counts in COPY_DIFF. DEDUCED (log entry 48). -/
def acceptCopy (s : State) (h : Half) (r : Nat) (x : RingAcc) : State :=
  let u := s.ring h r
  match u.acc.find? (fun y => y.node = x.node ∧ y.slot = x.slot) with
  | none =>
    let s := s.setRing h r { u with acc := x :: u.acc }
    useReply s h r x.slot x.frame true
  | some y =>
    let s := s.setRing h r { u with acc := x :: u.acc }
    let s := if copiesAgree x.frame y.frame then s
      else raiseEvt (s.count (RING.addr h r) RING.COPY_DIFF) h (ringEvt r + 3)
    if x.at_ < y.at_ ∨ (x.at_ = y.at_ ∧ !x.chB) then useReply s h r x.slot x.frame false else s

/-- The POLL entry of a slot that is active in period n. -/
def pollOf (s : State) (h : Half) (r a slot n : Nat) : Option SchedEntry :=
  (schedule s h r).find? (fun e => e.typ = 1 ∧ e.node = a ∧ e.slot = slot ∧ e.active n)

/-- The latest arrival at which a REPLY copy is accepted (R276). -/
def replyDeadline (s : State) (h : Half) (r os : Nat) (chB : Bool) : Int :=
  let dc := s.fld (RING.addr h r) (if chB then RING.D_B else RING.D_A)
  let a : Int := (os + 2240 + dc + 1000 : Nat)
  let b : Int := (cwStartNs s h : Int) - 4720
  if a < b then a else b

/-- The half that takes a REPLY whose frame begins at_ ns from its T_n: one that passes the receiver when the pennant moves reaches
the half that held it, a later one of that period nobody (R19, R367). -/
def replyTaken (s : State) (h : Half) (at_ : Nat) : Bool :=
  (decide (s.activeHalf = some h) && decide (s.former.map Prod.snd ≠ some (s.periodNum h))) ||
  (match s.pen.moved with
   | none => false
   | some (g, _, t) => decide (g = h) && decide (s.periodNum h * s.periodNs h + at_ < t))

/-- REPLY_RECEIVE: bytes that arrive at at_ ns from T_n on a channel. -/
def replyReceive (s : State) (h : Half) (r : Nat) (chB : Bool) (at_ : Nat) (bytes : List Byte) : State :=
  let b := RING.addr h r
  if !ringCyclic s h r || !replyTaken s h at_ then s
  else
    match parseFrame bytes with
    | none => s.count b (if chB then RING.CRC_ERR_B else RING.CRC_ERR_A)
    | some f =>
      if f.epoch ≠ ringEpoch s r then
        let u := s.ring h r
        let s := if s.flag b RING.SPLIT then
            s.setRing h r { u with seen := some (match u.seen with | none => f.epoch | some x => newerEpoch x f.epoch) }
          else s
        if f.typ = 2 then
          rehFailIf (s.count b RING.STALE_EP) (decide (((s.pen.reh.map (fun x => x.tm)).getD s.tb0 + 2) < s.periodNum h)) h 4
        else s
      else if f.typ ≠ 2 ∨ f.body.length ≠ 48 ∨ s.flag b (if chB then RING.B_UNUSABLE else RING.A_UNUSABLE) then s
      else
        let slot := bitsOf (bytesAt f.body 1 1) 1 0
        match pollOf s h r f.node slot (s.periodNum h) with
        | none => s
        | some e =>
          if (at_ : Int) ≤ replyDeadline s h r e.offset chB then
            let s := acceptCopy s h r ⟨f.node, slot, chB, at_, f⟩
            let s := putMargin s h r f.node (copyMargin s h r e.offset at_ chB f)
            putNodeFlags s h r f.node f
          else s

/-- The end of a period on ring r: missing replies are counted and the runs move on; a ring that has been configured begins
its cyclic operation with the period that starts (R281, R284, R286, R289). DESIGN CHOICE (log entry 53). -/
def ringPeriod (s : State) (h : Half) (r : Nat) : State :=
  let u := s.ring h r
  if u.step = 8 then s.setRing h r { u with step := 9, acc := [], silent := 0, goodRun := 0, lowMargin := false }
  else if u.step ≠ 9 then s
  else
    let slots := pollSlots (schedule s h r)
    let got (a : Nat) : Bool := u.acc.any (fun x => x.node = a)
    let miss (s : State) (x : Nat × Nat) (chB : Bool) : State :=
      if u.acc.any (fun y => y.node = x.1 ∧ y.slot = x.2 ∧ y.chB = chB) then s
      else s.count (NODE.addr h r (x.1 - 1)) (if chB then NODE.MISS_B else NODE.MISS_A)
    let s := slots.foldl (fun s x => miss (miss s x false) x true) s
    let all := slots.all (fun x => u.acc.any (fun y => y.node = x.1 ∧ y.slot = x.2))
    let nodes := u.nodes.zipIdx.map (fun x => { x.1 with miss := if got (x.2 + 1) then 0 else x.1.miss + 1 })
    s.setRing h r { u with
      nodes := nodes, acc := [], lowMargin := false, silent := if u.acc.isEmpty then Nat.min 16 (u.silent + 1) else 0,
      goodRun := if all && !u.lowMargin then Nat.min 16 (u.goodRun + 1) else 0,
      cleanA := u.cleanA.map (fun n => Nat.min 64 (n + 1)), cleanB := u.cleanB.map (fun n => Nat.min 64 (n + 1)) }

/-! Missing nodes, re-admission, violations (R284, R285, R288). -/

/-- The largest LOF_CNT among the axes of a node. -/
def nodeLof (s : State) (h : Half) (r a : Nat) : Nat :=
  match nodeAt s r a with
  | none => 1
  | some n => n.axes.foldl (fun m k => Nat.max m (s.fld (CE.addr h k) CE.LOF_CNT)) 1

/-- NODE_MISSING. -/
def nodeMissing (s : State) (h : Half) (r a : Nat) : State :=
  let nb := NODE.addr h r (a - 1)
  if s.fld nb NODE.N_STATE = 2 ∧ nodeLof s h r a ≤ ((s.ring h r).nodes.getD (a - 1) .reset).miss then
    rehFailIf (raiseEvt (s.setFld nb NODE.N_STATE 3) h (ringEvt r + 1)) true h 2
  else s

/-- The MBX entries for node 0x1F carry at least 40 bytes per period. -/
def readmitRoom (s : State) (h : Half) (r : Nat) : Bool :=
  let l := (schedule s h r).filter (fun e => e.typ = 4 ∧ e.node = 31)
  decide (40 * 128 ≤ (l.map (fun e => e.len * 128 / 2 ^ e.div)).foldl (· + ·) 0)

/-- NODE_READMIT: steps 2 to 7 for one address, with the launch times of its MEASURE frames and its REPORT. A node that is
not the expected one is not re-admitted. Its return means that it had lost logic power: its incremental axes lose their
reference (R82). -/
def nodeReadmit (s : State) (h : Half) (r a tA tB : Nat) (bytes : List Byte) : State :=
  let nb := NODE.addr h r (a - 1)
  if !ringCyclic s h r || !readmitRoom s h r || decide (s.fld nb NODE.N_STATE ≠ 3) then s
  else
    match parseFrame bytes, nodeAt s r a with
    | some f, some n =>
      match reportOf f with
      | none => s
      | some x =>
        if f.node ≠ a ∨ f.epoch ≠ ringEpoch s r then s
        else if x.devId ≠ n.devId ∨ x.axes ≠ n.axes.length ∨ x.level ≠ n.level then
          raiseEvt (putReport s h r a x) h (ringEvt r + 1)
        else
          let u := s.ring h r
          let s := s.setRing h r { u with tA := tA, tB := tB }
          let s := putDelays (putReport s h r a x) h r a
          let s := s.setRing h r { s.ring h r with tA := u.tA, tB := u.tB }
          let s := setRingNode s h r a (fun n => { n with acked := true, pos := List.replicate 8 none, txTog := false, rxTog := false })
          raiseEvt (n.axes.foldl (fun s k => powerLost s h k (s.ce h k).abs) s) h (ringEvt r + 1)
    | _, _ => s

/-- The entry of a list found most often, the first of those found equally often. DESIGN CHOICE (log entry 51). -/
def mostOften (l : List Nat) : Nat :=
  (l.foldl (fun best x => if l.count best < l.count x then x else best) (l.headD 31))

/-- SLOT_VIOLATION on a channel, with the NODE field that could be read. -/
def slotViolation (s : State) (h : Half) (r : Nat) (chB : Bool) (node : Option Nat) : State :=
  let b := RING.addr h r
  let n := s.periodNum h
  if !ringCyclic s h r then s
  else
    let s := s.count b (if chB then RING.VIOL_B else RING.VIOL_A)
    let u := s.ring h r
    let l := (n, node.getD 31) :: ((if chB then u.violB else u.violA).filter (fun x => n < x.1 + 64)).take 63
    let s := s.setRing h r (if chB then { u with violB := l, cleanB := u.cleanB.map (fun _ => 0) }
                            else { u with violA := l, cleanA := u.cleanA.map (fun _ => 0) })
    let known := (l.map Prod.snd).filter (fun a => a ≠ 31)
    if 4 ≤ l.length ∧ !s.flag b (if chB then RING.B_UNUSABLE else RING.A_UNUSABLE) then
      channelOff s h r chB (if known.isEmpty then 31 else mostOften known)
    else s

/-! The mailbox (R270). -/

/-- n bytes of the transmit buffer. -/
def txBytes (s : State) (h : Half) (r n : Nat) : List Byte :=
  ((List.range 64).flatMap (fun i => leBytes 4 (s.wordN (RING.addr h r + 0x500 + 4 * i)))).take n

/-- A write of RING.MBX_CTRL: RX_ACK, then SEND. A SEND while a message awaits acknowledgement has no effect.
DESIGN CHOICE (log entry 50). -/
def mbxCtrl (s : State) (h : Half) (r v : Nat) : State :=
  let b := RING.addr h r
  let s := if bitOf v 1 then s.putFlag b RING.RX_READY false else s
  let len := bitsOf v 23 16
  let node := bitsOf v 12 8
  if bitOf v 0 ∧ len ≤ 254 ∧ !s.flag b RING.TX_BUSY then
    let s := (s.putFlag b RING.TX_FAIL false).setFlag b RING.TX_BUSY
    let s := setRingNode s h r node (fun n => { n with txTog := !n.txTog })
    s.setRing h r { s.ring h r with mbx := some ⟨node, txBytes s h r len, 0, 0⟩ }
  else s

/-- An acknowledgement of the fragment last sent: the message goes on, or is done. -/
def mbxAcked (s : State) (h : Half) (r : Nat) (m : MbxTx) : State :=
  let rest := m.bytes.drop m.frag
  if rest.isEmpty then
    (s.setRing h r { s.ring h r with mbx := none }).putFlag (RING.addr h r) RING.TX_BUSY false
  else
    let s := setRingNode s h r m.node (fun n => { n with txTog := !n.txTog })
    s.setRing h r { s.ring h r with mbx := some { m with bytes := rest, frag := 0, sends := 0 } }

/-- The bytes of a message as words, the last one filled with zeros. -/
def wordsOf : Nat → List Byte → List Word
  | 0, _ => []
  | n + 1, l => BitVec.ofNat 32 (leVal (l.take 4)) :: wordsOf n (l.drop 4)

/-- MBX_RECEIVE: an uplink MBX frame. -/
def mbxReceive (s : State) (h : Half) (r : Nat) (bytes : List Byte) : State :=
  let b := RING.addr h r
  if !ringCyclic s h r then s
  else
    match parseFrame bytes with
    | none => s.count b RING.CRC_ERR_A
    | some f =>
      if f.typ ≠ 4 ∨ f.epoch ≠ ringEpoch s r ∨ f.body.length < 2 ∨ 256 < f.body.length ∨ (nodeAt s r f.node).isNone then s
      else
        let ctl := bytesAt f.body 0 1
        let n := (s.ring h r).nodes.getD (f.node - 1) .reset
        let s := match (s.ring h r).mbx with
          | none => s
          | some m => if m.node = f.node ∧ 0 < m.sends ∧ bitOf ctl 1 = n.txTog then mbxAcked s h r m else s
        let msg := f.body.drop 2
        if msg.isEmpty ∨ bitOf ctl 0 = n.rxTog ∨ s.flag b RING.RX_READY then s
        else
          let s := setRingNode s h r f.node (fun n => { n with rxTog := bitOf ctl 0 })
          let s := s.setWords (b + 0x600) (wordsOf 64 msg)
          ((s.setFlag b RING.RX_READY).setFld b RING.RX_NODE f.node).setFld b RING.RX_LEN msg.length

/-- MBX_TX_FAIL: 64 repetitions without an acknowledgement. DESIGN CHOICE (log entry 50). -/
def mbxFail (s : State) (h : Half) (r : Nat) : State :=
  let b := RING.addr h r
  match (s.ring h r).mbx with
  | none => s
  | some m =>
    if 65 ≤ m.sends then
      ((s.setRing h r { s.ring h r with mbx := none }).putFlag b RING.TX_BUSY false).setFlag b RING.TX_FAIL
    else s

end Sys2Proof.Machine
end

