-- ==== Sys2Proof/Machine/Takeover.lean ====
section
/-! DEFINITION. The mirror, the health report, and the moves of the command pennant and the rack pennant (R21, R25, R360 to
R376). -/
namespace Sys2Proof.Machine

/-! The mirror (R360 to R362). -/

/-- The register at an offset of a half view belongs to the mirrored state (R137, R360): profile units, arms with their
queues, hoists, the mode and integrator registers of the engine, ring and node states, TB1 to TB3, the PTP data sets and
the event table. -/
def mirroredOff (o : Nat) : Bool :=
  if o < 0x100000 then false
  else if o < 0x200000 then decide (0x100400 ≤ o ∧ o < 0x100800)
  else if o < 0x300100 then false
  else if o < 0x300400 then true
  else if o < 0x400000 then false
  else if o < 0x408000 then true
  else if o < 0x420000 then false
  else if o < 0x440060 then true
  else if o < 0x800000 then false
  else if o < 0x808000 then [0x00, 0x08, 0x34, 0x4C, 0x50].contains (o % 0x100)
  else if o < 0x3000000 then false
  else if o < 0x3080000 then
    let x := o % 0x10000
    decide (x = 4 ∨ x = 8 ∨ x = 0x1C ∨ (0x100 ≤ x ∧ x < 0x280 ∧ x % 16 < 8))
  else decide (0x3508000 ≤ o ∧ o < 0x3508080)

/-- The alarm at an offset of a half view runs on TB3 in half h. -/
def tb3Alarm (s : State) (h : Half) (o : Nat) : Bool :=
  decide (0x300800 ≤ o ∧ o < 0x300900) && decide (s.fld (ALARM.addr h ((o - 0x300800) / 16)) ALARM.BASE = 3)

/-- Mirror record n of a half, as it stands now. DEDUCED (log entry 84). -/
def mirrorBuild (s : State) (h : Half) : MirrorRec :=
  let b := viewBase h
  { num := s.periodNum h, src := h, builtAt := s.tb0,
    regs := (storeSlice s.regs b 0x10000000).filter (fun c => mirroredOff c.1 || tb3Alarm s h c.1),
    prf := (s.half h).prf, ce := (s.half h).ce, arms := (s.half h).arms, hoists := (s.half h).hoists,
    rings := (s.half h).rings, time := s.time h }

/-- The active half sends its record of period n to the standby half. -/
def mirrorSend (s : State) (h : Half) (n : Nat) : State :=
  s.setPen { s.pen with sent := some { mirrorBuild s h with num := n } }

/-- The record that has arrived complete for a half: in the standby module of a pair the partner's, else the one of the
active half; a record on its way when the pennant moves still arrives. DEDUCED (log entry 84). -/
def mirrorFor (s : State) (h : Half) : Option MirrorRec :=
  if s.flag PEN.addr PEN.PAIRED && !s.flag PEN.addr PEN.RACK_HELD then s.pen.peerRec
  else if s.activeHalf = some h && s.pen.takeAt.isNone then none
  else s.pen.sent.filter (fun r => decide (r.src ≠ h))

/-- A list of registers at offsets of a half view is put in place. -/
def putRegs (b : Nat) : List (Nat × Word) → State → State
  | [], s => s
  | (o, w) :: l, s => putRegs b l (s.setWord (b + o) w)

/-- Each unit of a list takes over a part of the unit it replaces. -/
def zipUnits {α : Type} (f : α → α → α) : List α → List α → List α
  | o :: l, n :: m => f o n :: zipUnits f l m
  | l, [] => l
  | [], _ => []

/-- The mirrored time bases, carried on to now; the sync instants this half has marked stay its own (R357). -/
def timeOf (old x : TimeUnit) (dt : Nat) : TimeUnit :=
  { x.advance dt with marked := old.marked, tn := old.tn }

/-- The register at an offset of half h's view is replaced by the record's: mirrored state, and an alarm that runs on TB3 here or
in the record (R26, R360). -/
def mirrorTakes (s : State) (h : Half) (r : MirrorRec) (o : Nat) : Bool :=
  mirroredOff o || tb3Alarm s h o || (r.regs.any (fun c => decide (0x300800 ≤ c.1 ∧ c.1 < 0x300900 ∧ c.1 / 16 = o / 16)))

/-- A complete record is applied in a half (R360): a record is never applied in part. The momentum observers stay its own
(R361). DEDUCED (log entry 84). -/
def mirrorApply (s : State) (h : Half) : State :=
  match mirrorFor s h with
  | none => s
  | some r =>
    let b := viewBase h
    let s := { s with regs := s.regs.filter (fun c =>
      !(decide (b ≤ c.1 ∧ c.1 < b + 0x10000000) && mirrorTakes s h r (c.1 - b))) }
    let s := putRegs b r.regs s
    let s := s.onHalf h (fun x => { x with
      prf := zipUnits (fun _ n => n) x.prf r.prf,
      ce := zipUnits (fun o n => { n with rc := o.rc }) x.ce r.ce,
      arms := zipUnits (fun o n => { n with obs := o.obs, acts := o.acts }) x.arms r.arms,
      hoists := zipUnits (fun _ n => n) x.hoists r.hoists,
      rings := zipUnits (fun o n => { n with mbx := o.mbx, last := o.last }) x.rings r.rings,
      time := timeOf x.time r.time (s.tb0 - r.builtAt) })
    s.setPen { s.pen with newest := s.pen.newest.set (halfIdx h) (some r.num) }

/-- At T_m the record of period m - 1 has not arrived in the standby half: MIRROR_GAP. -/
def mirrorGap (s : State) (h : Half) : State :=
  match s.pen.newest.getD (halfIdx h.other) none with
  | none => s
  | some r => s.countIf (decide (r + 1 < s.periodNum h)) PEN.addr PEN.MIRROR_GAP

/-! Health reports (R363, R364). -/

/-- Section-table CRC of the image in use; 0 before one is. -/
def imageCrc (s : State) : Nat :=
  match s.image with
  | none => 0
  | some i => crc32c (imgBytes i.cells 0x40 (32 * imgNSect i.cells))

/-- What a self-test cycle found, and the junction temperature. -/
structure SelfTest where
  tested : Nat
  failed : Nat
  cores : Nat
  detail : Nat
  temp : Nat
  deriving DecidableEq, Repr

/-- A report's bytes before its CRC. The number of a mirror record that never came is a free value. -/
def reportBytes (s : State) (h : Half) (t : SelfTest) : List Byte × State :=
  let (per, s) := match s.pen.newest.getD (halfIdx h) none with
    | some r => (r, s)
    | none =>
      let (v, s) := s.takeFree
      (v.toNat, s)
  let flags := b2n (decide (t.failed = 0)) + 2 * b2n s.image.isSome
  (leBytes 4 (s.pen.hrSeq.getD (halfIdx h) 0) ++ leBytes 1 (halfIdx h) ++ leBytes 1 (s.fld MOD.addr MOD.CL_NOW) ++
    leBytes 2 flags ++ leBytes 8 (s.servoNow h) ++ leBytes 4 t.tested ++ leBytes 4 t.failed ++ leBytes 4 t.cores ++
    leBytes 4 t.detail ++ leBytes 8 per ++ leBytes 2 (s.fld (HPWR.addr h) HPWR.RAIL_MV) ++
    leBytes 2 (s.fld (HPWR.addr h) HPWR.PACE) ++ leBytes 2 t.temp ++ zeros 2 ++ leBytes 4 (imageCrc s) ++ zeros 8, s)

/-- The words a byte string spells. -/
def byteWords (n : Nat) (l : List Byte) : List Word := (List.range n).map (fun i => BitVec.ofNat 32 (bytesAt l (4 * i) 4))

/-- Every solver channel of a half is reset (R166). -/
def solverReset (s : State) (h : Half) : State := (List.range 18).foldl (fun s k => channelReset s h k) s

/-- A half's registers, units, scratch and time go back to reset, its solver channels with their records first; its schedules come
from the image (R166), a CAN channel with a mode integrates. DEDUCED (log entry 89). -/
def clearHalf (s : State) (h : Half) : State :=
  let s := (solverReset s h).resetRegs (viewBase h) 0x10000000
  let s := s.setHalf h .reset
  let s := s.setPen { s.pen with newest := s.pen.newest.set (halfIdx h) none, beat := s.pen.beat.set (halfIdx h) none }
  let s := noRingWindow (reloadScheds s h) h
  (List.range 4).foldl (fun s c => canStart s h c) s

/-- The solver channels of a standby half whose queues hold descriptors of its self-test, by a mask (R167, R363). -/
def selfTestLoad (s : State) (h : Half) (mask : Nat) : State :=
  let u := s.solver h
  s.setSolver h { u with chs := u.chs.zipIdx.map (fun x => { x.1 with selfTest := bitOf mask x.2 }) }

/-- The standby half's report goes to the common view and to MRAM, and its self-test load gives its period a slack, a free value,
from which it steers its own rail (R45); which of its descriptors still wait is a free value (log entry 68). A failed self-test resets the half (R9), raises event 7 and ends a rehearsal.
DESIGN CHOICE (log entry 125). -/
def selfTestCycle (s : State) (h : Half) (t : SelfTest) : State :=
  if s.activeHalf = some h then s
  else
    let (b, s) := reportBytes s h t
    let b := b ++ leBytes 4 (crc32c b)
    let i := halfIdx h
    let s := s.setWords (PEN.addr + 0x100 + 0x40 * i) (byteWords 16 b)
    let s := s.setMemBytes (mramAddr (0x30000 + s.pen.hrIdx % 64 * 64)) b
    let s := s.setPen { s.pen with hrAt := s.pen.hrAt.set i (some s.tb0), hrSeq := s.pen.hrSeq.set i (s.pen.hrSeq.getD i 0 + 1),
                                   hrIdx := (s.pen.hrIdx + 1) % 64 }
    if t.failed = 0 then
      let w := s.takeFree
      let x := w.2.takeFree
      noteSlack (selfTestLoad x.2 h x.1.toNat) h 0 (toS 64 w.1.toNat)
    else rehFail (raiseBoth (clearHalf s h) 7) 6

/-! The command pennant (R25, R366 to R368). -/

/-- The module releases the rack pennant (R371): its ring ends stop at the end of the present period. -/
def rackRelease (s : State) : State :=
  if s.flag PEN.addr PEN.RACK_HELD then
    let s := s.putFlag PEN.addr PEN.RACK_HELD false
    match s.activeHalf with
    | none => s
    | some h => { s with former := some (h, s.periodNum h) }
  else s

/-- The half that holds the pennant is about to lose it: a frame that is in progress on a port stays its own (R19). -/
def noteMove (s : State) : State :=
  match s.activeHalf with
  | none => s
  | some h => s.setPen { s.pen with moved := some (h, s.tb0, s.servoNow h) }

/-- No half is active: both gates are closed. -/
def closeGates (s : State) : State := rackRelease ((noteMove s).putFlag PEN.addr PEN.CMD_VALID false)

/-- What the arbiter's own state holds of a half when the pennant moves away is dropped. -/
def penTaken (x : PenUnit) (first : Nat) : PenUnit :=
  { x with swap := none, ownedFrom := first, takeAt := some first, finishing := true }

/-- The command pennant moves to a half (R367): the first period it owns begins at the present sync instant, or at the next
one, until which the old half's queued ring frames still go out. DEDUCED (log entry 89). -/
def penMove (s : State) (dst : Half) (cause : Nat) : State :=
  let p := s.periodNs dst
  let ns := s.servoNow dst
  let atSync := decide (ns % p = 0 ∧ (s.time dst).marked ≠ some (ns / p))
  let first := if atSync then ns / p else ns / p + 1
  let s := ((noteMove s).setFld PEN.addr PEN.CMD_HOLDER (halfIdx dst)).setFlag PEN.addr PEN.CMD_VALID
  let s := ((s.setFld PEN.addr PEN.CAUSE cause).setFld PEN.addr PEN.KIND 0).setFld PEN.addr PEN.PERIOD first
  let s := { s with former := if atSync then none else some (dst.other, s.periodNum dst), hold := true,
                    pen := penTaken s.pen first }
  let s := mramCount (s.count PEN.addr PEN.TAKEOVERS) 2
  canTakeover (raiseBoth s 4) dst

/-- A trigger of R366 other than a command: the pennant moves where the standby half is eligible; else both gates close and
the fault log takes the cause (R368). DEDUCED (log entry 88). -/
def penTrigger (s : State) (h : Half) (cause : Nat) : State :=
  if s.activeHalf ≠ some h then s
  else if eligible s h.other then penMove s h.other cause
  else faultLog (closeGates (s.count PEN.addr PEN.REFUSED)) 0xFF (some h) (some cause) none

/-- The heartbeat of the period before T_m, or of a later one, is missing. DEDUCED (log entry 87). -/
def heartbeatMissing (s : State) (h : Half) : State :=
  let m := syncNow s h
  let late := s.inCharge h && match s.pen.beat.getD (halfIdx h) none with
    | none => true
    | some n => decide (n + 1 < m)
  if late && decide (s.pen.ownedFrom < m) then penTrigger s h 1 else s

/-- The heartbeat of a period (R366). -/
def heartbeat (s : State) (h : Half) (n : Nat) : State :=
  s.setPen { s.pen with beat := s.pen.beat.set (halfIdx h) (some n) }

/-- A half reports a fatal fault; the island and the rest run on. -/
def fatalFault (s : State) (h : Half) : State := penTrigger s h 3

/-- A pennant that returns at the end of a rehearsal: its result. -/
def rehDone (s : State) : State :=
  if s.fld PEN.addr PEN.REH_STATE = 3 then
    let s := s.setFld PEN.addr PEN.RESULT (if s.fld PEN.addr PEN.FAIL = 0 then 1 else 2)
    (s.setFld PEN.addr PEN.REH_STATE 0).setPen { s.pen with reh := none }
  else s

/-- A commanded move has happened: a rehearsal that waited for it runs, one that was returning ends. -/
def rehMoved (s : State) (modul : Bool) (from_ : Half) : State :=
  if s.fld PEN.addr PEN.REH_STATE = 1 then
    let x : RehRun := ⟨modul, from_, syncNow s from_, s.tb0 + s.fld PEN.addr PEN.REH_TIME * 1000000000⟩
    (s.setFld PEN.addr PEN.REH_STATE 2).setPen { s.pen with reh := some x }
  else rehDone s

/-- A commanded move is refused: CAUSE 9 (R368); a rehearsal ends there. -/
def swapRefused (s : State) (modul : Bool) : State :=
  let s := (s.setFld PEN.addr PEN.CAUSE 9).putFlag PEN.addr PEN.KIND modul
  let s := (s.count PEN.addr PEN.REFUSED).setPen { s.pen with swap := none }
  if s.fld PEN.addr PEN.REH_STATE = 3 then
    let s := s.setFld PEN.addr PEN.RESULT (if s.fld PEN.addr PEN.FAIL = 0 then 1 else 3)
    (s.setFld PEN.addr PEN.REH_STATE 0).setPen { s.pen with reh := none }
  else (s.setFld PEN.addr PEN.REH_STATE 0).setPen { s.pen with reh := none }

/-- The module gives the rack pennant to its partner by command (R371). DEDUCED (log entry 86). -/
def moduleSwap (s : State) : State :=
  match s.activeHalf with
  | none => swapRefused s true
  | some h =>
    if s.flag PEN.addr PEN.RACK_HELD && peerEligible s then rehMoved (rackRelease s) true h else swapRefused s true

/-- A commanded swap of the half (R366): it waits for its sync instant. DEDUCED (log entry 86). -/
def requestSwap (s : State) (cause : Nat) : State :=
  match s.activeHalf with
  | none => swapRefused s false
  | some h => s.setPen { s.pen with swap := some ⟨false, cause, swapDue s h⟩ }

/-- A write of PEN.CMD: SWAP and REHEARSE with their TARGET, and CLR_CNT (R366, R371, R376). A rehearsal in progress
takes no second one. -/
def penCmd (s : State) (v : Nat) : State :=
  let modul := bitOf v 2
  let s := if bitOf v 3 then (s.setWordN (PEN.addr + 0x14) 0).setWordN (PEN.addr + 0x48) 0 else s
  if bitOf v 1 ∧ s.fld PEN.addr PEN.REH_STATE = 0 then
    let s := (s.count PEN.addr PEN.REHEARSALS).setFld PEN.addr PEN.REH_STATE 1
    let s := (s.setFld PEN.addr PEN.RESULT 0).setFld PEN.addr PEN.FAIL 0
    if modul then moduleSwap s else requestSwap s 6
  else if bitOf v 0 then (if modul then moduleSwap s else requestSwap s 5)
  else s

/-- COMMANDED_SWAP_DUE: at the first sync instant from the request's period on, to which time passes (R366). -/
def swapNow (s : State) : State :=
  match s.pen.swap, s.activeHalf with
  | some q, some h =>
    let s := passUntil s h (Nat.max q.due (nextSync s h) * s.periodNs h)
    if q.modul then moduleSwap (s.setPen { s.pen with swap := none })
    else if eligible s h.other then rehMoved (penMove s h.other q.cause) false h
    else swapRefused s false
  | _, _ => s

/-- REHEARSAL_END: REH_TIME is over; the rehearsal has passed unless the partner never took the rack pennant (R376). -/
def rehearsalEnd (s : State) : State :=
  match s.pen.reh with
  | none => s
  | some x =>
    if s.fld PEN.addr PEN.REH_STATE ≠ 2 ∨ s.tb0 < x.endAt then s
    else if x.modul ∧ !s.flag PEN.addr PEN.PEER_RACK then
      let s := (s.setFld PEN.addr PEN.FAIL 5).setFld PEN.addr PEN.RESULT 2
      (s.setFld PEN.addr PEN.REH_STATE 0).setPen { s.pen with reh := none }
    else
      let s := s.setFld PEN.addr PEN.RESULT 1
      if s.flag PEN.addr PEN.REH_STAY then (s.setFld PEN.addr PEN.REH_STATE 0).setPen { s.pen with reh := none }
      else rehReturn s x false

/-- ARBITER_SELF_CHECK_FAIL: the selector closes for both halves (R21). -/
def arbiterFail (s : State) : State :=
  let s := closeGates (s.setFlag PEN.addr PEN.ARB_FAIL)
  raiseBoth s 8

/-! Resuming (R367, R372). -/

/-- One bridged period of an arm, whose sample would be that of a tag: scales and path parameter move on, nothing is sampled.
DEDUCED (log entry 87). -/
def bridgeArm (s : State) (h : Half) (j tag : Nat) : State :=
  let s := stepScales s h j
  let st := armState s h j
  if (st = 1 ∨ st = 3) ∧ (s.arm h j).running then
    let s := movePath s h j
    if segmentDone s h j then endSegment s h j tag else s
  else s

/-- n bridged periods: profile and path generators advance without output. DEDUCED (log entry 87). -/
def bridge (s : State) (h : Half) : Nat → State
  | 0 => s
  | n + 1 =>
    let s := (axisList s).foldl (fun s k => profileAxis s h k) s
    let s := (armList s h).foldl (fun s j => bridgeArm s h j (s.periodNum h + 1 - n)) s
    bridge s h n

/-- A running gain blend continues from the mirrored working values toward the entry of the present region in the new half's own
table (R137), and the repetitive controller restarts from zero output, until the next cycle begins (R134).
DEDUCED (log entry 32). -/
def resumeAxis (s : State) (h : Half) (k : Nat) : State :=
  let c := s.ce h k
  let c := { c with rc := { RcUnit.reset with zero := true } }
  if c.gainJ = 0 ∨ 8 < c.gainJ then s.setCe h k c
  else s.setCe h k { c with workFrom := c.work, gainBase := c.gainJ - 1, workTo := gainEntry s h k (s.fld (CE.addr h k) CE.REGION) }

/-- The standby module of a pair resumes the request list its partner sent last (R177). -/
def partnerZones (s : State) (h : Half) : State :=
  match ((s.gov h).peers.find? (fun p => decide (p.num = s.fld PEN.addr PEN.PEER_NUM))).bind (fun p => p.msg) with
  | none => s
  | some m => s.setGov h { s.gov h with reqs := m.reqs }

/-- A half that becomes active resets the solver channels whose queue holds descriptors of its standby self-test (R167, R367). -/
def dropSelfTest (s : State) (h : Half) : State :=
  (List.range 18).foldl (fun s k => if (solverCh s h k).selfTest then channelReset s h k else s) s

/-- The new active half resumes at T_m from its newest complete record (R361, R367): bridged periods, observers, governor,
zone requests and acquisition. -/
def resumeAt (s : State) (h : Half) : State :=
  match s.pen.takeAt with
  | none => s
  | some k =>
    if s.periodNum h < k ∨ s.activeHalf ≠ some h then s
    else
      let r := (s.pen.newest.getD (halfIdx h) none).getD (s.periodNum h - 1)
      let s := dropSelfTest s h
      let s := bridge s h (Nat.min 3 (s.periodNum h - 1 - r))
      let s := (axisList s).foldl (fun s k => resumeAxis s h k) s
      let s := (armList s h).foldl (fun s j => obsRestart s h j) s
      let s := paceRail (s.setServo h { s.servo h with govResult := none }) h
      let s := s.setGov h { s.gov h with plan := none, last := none }
      let s := if s.pen.claimAt.isSome then partnerZones s h else resumeZones s h h.other
      let s := acqTakeover s h
      s.setPen { s.pen with takeAt := none }

/-- The takeover is complete with the first on-time governor result (event 6). DEDUCED (log entries 88, 89). -/
def takeoverDone (s : State) (h : Half) : State :=
  if s.pen.finishing && decide (s.activeHalf = some h) then raiseEvt (s.setPen { s.pen with finishing := false }) h 6 else s

/-- ACTIVE_VIEW_HOLD_RELEASE ends the hold of the active view; the held accesses are run by the caller (R25).
DEDUCED (log entry 115). -/
def takeHeld (s : State) : List Held × State := (s.held, { s with hold := false, held := [] })

/-! The rack pennant (R370 to R372). -/

/-- RACK_PENNANT_TAKE: the lines show released, so the module takes the rack pennant at the next sync instant of its active
half: split rings are claimed with KEEP and the next epoch. While the partner has sent records the module must meet R365
with a mirror age of at most 2. DEDUCED (log entry 88). -/
def rackTake (s : State) (released : Bool) : State :=
  match s.activeHalf with
  | none => s
  | some h =>
    let st := s.fld PEN.addr PEN.P_STATE
    let able := decide (s.pen.newest.getD (halfIdx h) none = none) || meetsR365 s h 2
    if !released || s.flag PEN.addr PEN.RACK_HELD || s.unpaired || !able then s
    else
      let s := passUntil s h (nextSync s h * s.periodNs h)
      let m := syncNow s h
      let s := (s.setFlag PEN.addr PEN.RACK_HELD).count PEN.addr PEN.TAKEOVERS
      let s := ((s.setFld PEN.addr PEN.CAUSE 8).setFld PEN.addr PEN.KIND 1).setFld PEN.addr PEN.PERIOD m
      let s := mramCount (raiseBoth s 5) 2
      let s := (List.range 8).foldl (fun s r =>
        if s.flag (RING.addr h r) RING.SPLIT && ringCyclic s h r then takeEpoch s h r else s) s
      if st = 2 ∨ st = 6 then { s with former := none, pen := { penTaken s.pen m with claimAt := some m } } else s

/-! The pair link (R369, R373, R374). -/

/-- CRC-32C over every section of the image except the safety section and user data: the header's PAIR_CRC. -/
def ownPairCrc (s : State) : Nat := match s.image with | none => 0 | some i => imgPairCrc i.cells

/-- P_STATE changes with event 9. -/
def pairState (s : State) (x : Nat) : State :=
  if s.fld PEN.addr PEN.P_STATE = x then s
  else
    let s := (s.setFld PEN.addr PEN.P_STATE x).putFlag PEN.addr PEN.PAIRED (decide (x = 2))
    raiseBoth s 9

/-- The rack pennant at the pairing (R369): a module that finds it held is standby, else the lower number takes it. -/
def rackElect (s : State) (num : Nat) (peerHolds : Bool) : State :=
  if s.flag PEN.addr PEN.RACK_HELD || peerHolds || decide (num < s.fld MOD.addr MOD.NUM) || s.activeHalf.isNone then s
  else raiseBoth (s.setFlag PEN.addr PEN.RACK_HELD) 5

/-- A CTRL frame with the partner's number, CL and image CRC: the modules pair or refuse (R369). DEDUCED (log entry 112). -/
def pairCheck (s : State) (num cl crc : Nat) : State :=
  if s.fld PEN.addr PEN.P_STATE = 0 then s
  else if cl ≠ s.fld MOD.addr MOD.CL_NOW then pairState s 3
  else if crc ≠ ownPairCrc s then pairState s 4
  else if num % 32 = s.fld MOD.addr MOD.NUM % 32 then pairState s 5
  else rackElect (pairState s 2) num (s.flag PEN.addr PEN.PEER_RACK)

/-- The lanes' LINK state, kept in LANE0_UP and LANE1_UP. -/
def laneFld (lane : Nat) : Fld := if lane = 0 then PEN.LANE0_UP else PEN.LANE1_UP

/-- A valid LINK frame on a lane. DESIGN CHOICE (log entry 85). -/
def linkFrame (s : State) (lane num cl : Nat) (rack : Bool) (crc : Nat) : State :=
  let s := s.setPen { s.pen with lastLink := s.pen.lastLink.set lane (some s.tb0), peerCrc := crc }
  let s := ((s.setFld PEN.addr PEN.PEER_NUM num).setFld PEN.addr PEN.PEER_CL cl).putFlag PEN.addr PEN.PEER_RACK rack
  let was := s.flag PEN.addr (laneFld lane)
  let s := s.setFlag PEN.addr (laneFld lane)
  let st := s.fld PEN.addr PEN.P_STATE
  if was ∨ st = 0 then s else if st = 6 then pairState s 1 else s

/-- PAIR_LANE_DOWN: a lane without a valid LINK frame for 100 us; with both lanes down the link is down (R373, R374). -/
def laneDown (s : State) (lane : Nat) : State :=
  let old := match s.pen.lastLink.getD lane none with | none => false | some t => decide (t + 100000 ≤ s.tb0)
  if s.flag PEN.addr (laneFld lane) && old then
    let s := (s.putFlag PEN.addr (laneFld lane) false).count PEN.addr PEN.LANE_FAIL
    if s.flag PEN.addr PEN.LANE0_UP ∨ s.flag PEN.addr PEN.LANE1_UP then s else pairState s 6
  else s

/-- A fragment of the partner's mirror record; the record is complete with its last fragment. DESIGN CHOICE (log entry 85). -/
def mirrorFragment (s : State) (num idx count : Nat) (b : List Byte) : State :=
  let l := match s.pen.frags with
    | some (n, l) => if n = num then l.filter (fun x => x.1 != idx) else []
    | none => []
  let l := l ++ [(idx, b)]
  let bytes := (List.range count).flatMap (fun i => (l.lookup i).getD [])
  if (List.range count).all (fun i => (l.lookup i).isSome) then
    match mirrorOf bytes with
    | none => s.setPen { s.pen with frags := none }
    | some r => s.setPen { s.pen with frags := none, peerRec := some { r with num := num } }
  else s.setPen { s.pen with frags := some (num, l) }

/-- A safe PDU of the partner's ring ends (R250): its stream names the connection. -/
def pairSafe (s : State) (b : List Byte) : State :=
  if bytesAt b 0 1 ≠ 1 ∨ bytesAt b 4 2 + 12 ≠ b.length then s
  else
    match (List.range 64).find? (fun c => decide ((s.connCfg c).stream = bytesAt b 2 2) && decide (connType s c ≠ 0)) with
    | none => s
    | some c => pduArrive s c (b.drop 6)

/-- A ring frame the partner's end received (RING_UP): the active half takes it with its stamp. -/
def ringUp (s : State) (r : Nat) (chB : Bool) (stamp : Nat) (b : List Byte) : State :=
  match s.activeHalf with
  | none => s
  | some h => replyReceive s h r chB (stamp - s.periodNum h * s.periodNs h) b

/-- A pair-link frame by type; one whose CRC fails is discarded and counted (R374). DESIGN CHOICE (log entry 85). -/
def pairReceive (s : State) (lane : Nat) (crcOk : Bool) (f : PairFrame) : State :=
  if !crcOk then s.count PEN.addr PEN.CRC_ERR
  else
    match f with
    | .link num cl rack crc => linkFrame s lane num.toNat cl.toNat rack crc.toNat
    | .ringDn ring off bytes => s.setPen { s.pen with relay := some (ring.val, off, bytes) }
    | .ringUp ring chB stamp bytes => ringUp s ring.val chB stamp bytes
    | .mirror num idx count bytes => mirrorFragment s num idx count bytes
    | .safe bytes => pairSafe s bytes
    | .health report => s.setPen { s.pen with peerReport := some (report, s.tb0) }
    | .pairing num cl crc => pairCheck s num.toNat cl.toNat crc.toNat
    | .handshake => s
    | .reserved => s

/-! The time reference (R30). -/

/-- REFERENCE_SWITCH_TO_MONITOR: both time units count the monitor oscillator without a step, until power-on. -/
def monitorSwitch (s : State) : State :=
  if s.onMonitor then s else faultLog (raiseBoth { s with onMonitor := true } 32) 32 none none none

/-! Half reset (R9 to R11). -/

/-- A commanded half reset: the active half hands over first (R366). -/
def halfReset (s : State) (h : Half) : State := clearHalf (penTrigger s h 4) h

end Sys2Proof.Machine
end

