-- ==== Sys2Proof/Machine/Cycle.lean ====
section
/-! DEFINITION. The servo period as a whole: the sync instant, the compute window, the end of the engine's computation, the end of
a work item, and ALIGN (R33 to R49, R315, R355, R356). -/
namespace Sys2Proof.Machine

/-! The sync instant (R35, R36, R41, R356). -/

/-- Position, POS_OFFSET, HOLD_POS, REF_POS and reference state of an axis go to the copy of its record that is due (R83,
R450). -/
def axisRecord (s : State) (h : Half) (copyB : Bool) (k : Nat) : State :=
  let b := PRF.addr h k
  let c := s.ce h k
  writeAxisRec s (axisRecAddr copyB k) (ofS 64 c.pAct) (s.fld b PRF.POS_OFFSET) (s.fld b PRF.HOLD_POS) (s.fld b PRF.REF_POS)
    (s.periodNum h) (s.fld b PRF.REF + 2 * b2n c.abs)

/-- The copy the next records go to: A and B in turn by planning tick. DEDUCED (log entry 111). -/
def recordCopy (s : State) (h : Half) : Bool := decide (s.periodNum h / tickPeriods s h % 2 = 1)

/-- The records of every axis, once step 9 of the start has taken the references from them. DEDUCED (log entry 111). -/
def axisRecords (s : State) (h : Half) : State :=
  if s.fld MOD.addr MOD.STEP < 9 then s
  else (axisList s).foldl (fun s k => axisRecord s h (recordCopy s h) k) s

/-- A planning-tick boundary in the half in charge: the governor's result or its fallback, the axis records, the group
with its zones, and the governor's release. -/
def tickBoundary (s : State) (h : Half) : State :=
  let s := govBoundary s h (s.periodNum h / tickPeriods s h)
  coordinationAt (axisRecords s h) h

/-- The instant T_k is marked: PERIOD_NUM, and events 40 and 41 with its stamp. -/
def markInstant (s : State) (h : Half) (k : Nat) : State :=
  let t := k * s.periodNs h
  let s := s.setTime h { s.time h with marked := some k, tn := t }
  let s := s.setQuad (SYS.addr h + 0x108) k
  let s := raiseAt s h 40 t
  if k % tickPeriods s h = 0 then raiseAt s h 41 t else s

/-- What the half in charge does at T_n beside time: rings, tick boundary, hoists, paths. -/
def chargeInstant (s : State) (h : Half) : State :=
  let n := s.periodNum h
  let s := (List.range 8).foldl (fun s r => ringPeriod s h r) s
  let s := if n % tickPeriods s h = 0 then tickBoundary s h else s
  let s := hoistsAt s h n 8
  (armList s h).foldl (fun s j => armSample s h j) s

/-- SYNC_INSTANT: time passes to the next sync instant of a half. DESIGN CHOICE (log entry 38). -/
def syncInstant (s : State) (h : Half) : State :=
  let k := nextSync s h
  let s := passUntil s h (k * s.periodNs h)
  let s := endPeriod s h
  let s := markInstant s h k
  let s := sampleTb3 (trackD (inputChange s h) h) h
  let s := s.setServo h { s.servo h with cwOpen := false }
  let s := latchSafeCopies s h
  let s := if s.activeHalf = some h then mirrorGap (resumeAt s h) h else s
  if s.inCharge h then chargeInstant s h else s

/-! The compute window (R42, R43, R50, R114). -/

/-- The engine's result of period n is complete: the torques still to be written stand in their SET frame buffers; its slack,
the mirror record, the heartbeat and the acquisition rows follow (R44, R46, R360, R366, R397). A result without which a SET
frame started is late, whatever its time-stamp (R46). -/
def engineEnd (s : State) (h : Half) (n : Nat) : State :=
  let u := s.servo h
  let s := u.ceLeft.foldl (fun s k => bufferTorque s h k) s
  let s := s.setServo h { u with cePend := none, ceLeft := [], ceLate := false }
  let sl : Int := ((n * s.periodNs h + cwEndNs s h : Nat) : Int) - (s.servoNow h : Int)
  let s := noteSlack s h 0 (if u.ceLate then minI sl (-1) else sl)
  acqPeriod (heartbeat (mirrorSend s h n) h n) h

/-- COMPUTE_WINDOW_OPEN: time passes to t_cw_start of the running period; the half in charge latches feedback, mode requests
and blocks, and computes the set-points and then the torques in ascending axis order. A window opens once a period; a result
of an earlier window is complete before it. DESIGN CHOICE (log entry 38). -/
def windowOpen (s : State) (h : Half) : State :=
  let s := passUntil s h (s.periodNum h * s.periodNs h + cwStartNs s h)
  if !s.inCharge h || (s.servo h).cwOpen then s
  else
    let s := match (s.servo h).cePend with
      | none => s
      | some n => engineEnd s h n
    let ks := axisList s
    let s := s.setServo h { s.servo h with cwOpen := true, cePend := some (s.periodNum h), ceLeft := ks }
    let s := ks.foldl (fun s k => latchFeedback s h k) s
    let s := ks.foldl (fun s k => latchMode s h k) s
    let s := latchArms s h
    let s := ks.foldl (fun s k => profileAxis s h k) s
    ks.foldl (fun s k => engineAxis s h k) s

/-- CE_COMPLETE: the engine has written every torque dt ns after the last command (R44, R46). -/
def engineDone (s : State) (h : Half) (dt : Nat) : State :=
  let s := s.passTime dt
  match (s.servo h).cePend with
  | none => s
  | some n => engineEnd s h n

/-! The end of a work item (R315, R106 to R112, R175). -/

/-- The arm that an item of a kind serves. DEDUCED (log entry 111). -/
def itemArm (cfg : ModuleCfg) (i : Nat) : Nat :=
  if cfg.dynItems.contains i then cfg.dynItems.idxOf i
  else if cfg.ikItems.contains i then cfg.ikItems.idxOf i
  else cfg.obsItems.idxOf i

/-- What an item of the required work that ended in time computes and writes for period tag (R106 to R112, R175). -/
def itemWrites (s : State) (h : Half) (i tag : Nat) : State :=
  let j := itemArm s.cfg i
  match itemKind s.cfg i with
  | some 1 => dynamics s h j tag
  | some 2 => kinematics s h j tag
  | some 3 =>
    let bad := ((s.gov h).plan.map (fun p => p.flagged)).getD true
    let s := govPublish s h
    if bad then s else takeoverDone s h
  | some 4 => observe s h j (tag - 2)
  | _ => s

/-- A result that came late is discarded: the observer's counts, and the governor's programme has ended (R112, R174). -/
def itemLate (s : State) (h : Half) (i : Nat) : State :=
  match itemKind s.cfg i with
  | some 4 => s.count (ARM.addr h (itemArm s.cfg i)) ARM.OBS_LATE
  | some 3 => govEnded s h
  | _ => s

/-- A required item is abandoned before it ran: its period's slack says so, and an observer's counts (R44, R112). -/
def abandonWork (s : State) (h : Half) (i : Nat) : State :=
  let s := noteAbandoned s h i
  if s.inCharge h ∧ itemKind s.cfg i = some 4 then s.count (ARM.addr h (itemArm s.cfg i)) ARM.OBS_LATE else s

/-- The slack of a required item that has ended joins its period's (R44). One that a fault ended is late (R333): its slack counts
where the deadline had passed, and the spec gives it none before. DESIGN CHOICE (log entry 127). -/
def noteItemSlack (s : State) (h : Half) (e : ItemEnd) : State :=
  match itemKind s.cfg e.item, e.slack with
  | some kind, some sl => if e.fault && decide (0 ≤ sl) then s else noteSlack s h kind sl
  | _, _ => s

/-- The period whose block an item in the rings of required work computes: its deadline is the sync instant before. -/
def itemTag (s : State) (h : Half) (k : Nat) : Nat :=
  let x := (s.core h k).item.bind (fun i => (s.sched h).find i)
  ((x.bind (fun x => x.deadline)).getD 0) / s.periodNs h + 1

/-- WORK_ITEM_END: the item core k runs is complete; its slack is noted, what an in-time item of required work computes is
written, and the core goes on. An urgent item that a fault ended returns. -/
def itemEnd (s : State) (h : Half) (k : Nat) : State :=
  let tag := itemTag s h k
  match completeItem s h k with
  | (s, none) => endFaultedUrgent s h k
  | (s, some e) =>
    let s := noteItemSlack s h e
    let s := if !s.inCharge h then s
      else if e.inTime && !e.fault then itemWrites s h e.item tag else itemLate s h e.item
    nextItemOn s h k

/-! ALIGN (R355). -/

/-- Every ring of the half is stopped and every axis loop is off. -/
def alignAllowed (s : State) (h : Half) : Bool :=
  (List.range 8).all (fun r => decide (ringState s h r = 0)) &&
  (List.range 128).all (fun k => !s.flag (PRF.addr h k) PRF.LOOP_ON)

/-- A write of ALIGN: TB3 is set to its source, else ALIGN_REF; period numbers go on from the aligned value. -/
def alignWrite (s : State) (h : Half) (v : Nat) : State :=
  if !bitOf v 0 then s
  else if alignAllowed s h then
    let s := alignTb3 s h
    s.setQuad (SYS.addr h + 0x108) (syncNow s h)
  else s.setFlag (TB3X.addr h) TB3X.ALIGN_REF

end Sys2Proof.Machine
end

