-- ==== Sys2Proof/Machine/Claims.lean ====
section
/-! DEFINITION. The resource-claim check of what an image configures (R12, R13, R32, R63, R87, R142, R171, R442, R443). It looks at the
state in which the image would be in use. -/
namespace Sys2Proof.Machine

/-- A conflict record; none for a value that the spec leaves open for that refusal. -/
structure Conflict where
  code : Nat
  res : Nat
  num : Nat
  claimA : Option Nat
  claimB : Nat
  field : Option Nat
  value : Option Nat
  limit : Option Nat
  deriving DecidableEq, Repr

/-- One claimant. -/
def noClaim : Nat := 0xFFFFFFFF

/-- A claim of an item of a section. -/
def itemClaim (typ inst item : Nat) : Nat := typ + 256 * inst + 2 ^ 16 * item

/-- A refusal where a condition holds. -/
def refuseIf (bad : Bool) (c : Conflict) : List Conflict := if bad then [c] else []

/-! Capacities (R12, R13, R32). -/

/-- The most axes of a module, and the most axes and nodes of a ring, by the servo period. -/
def capacities (c : State) : Nat × Nat × Nat :=
  match c.fld (SYS.addr .a) SYS.PERIOD with
  | 0 => (64, 8, 6)
  | 1 => (128, 16, 12)
  | _ => (128, 32, 24)

/-- A limit of axes or nodes is exceeded; the record names it. DESIGN CHOICE (log entry 93). -/
def capacityConflicts (c : State) : List Conflict :=
  let lim := capacities c
  let n := (axisList c).length
  refuseIf (decide (lim.1 < n)) ⟨2, 1, 0, some (itemClaim 3 0 0), noClaim, none, some n, some lim.1⟩ ++
    (List.range 8).flatMap (fun r =>
      let a := ringAxes c r
      let d := (ringNodes c r).length
      refuseIf (decide (lim.2.1 < a)) ⟨2, 1, 0, some (itemClaim 5 r 0), noClaim, none, some a, some lim.2.1⟩ ++
      refuseIf (decide (lim.2.2 < d)) ⟨2, 7, 32 * r, some (itemClaim 5 r 0), noClaim, none, some d, some lim.2.2⟩)

/-- Coincident entries of a list of claims (resource number, claim): the first claimant of each with every later one. -/
def doubles : List (Nat × Nat) → List (Nat × Nat × Nat)
  | [] => []
  | x :: l => (match l.find? (fun y => decide (y.1 = x.1)) with
      | none => []
      | some y => [(x.1, x.2, y.2)]) ++ doubles l

/-! Arms (R87). -/

/-- The image describes arm j: a byte of its header is not 0. -/
def armDescribed (c : State) (j : Nat) : Bool := (List.range 28).any (fun i => decide (c.wordN (ARM.addr .a j + 0x800 + 4 * i) ≠ 0))

/-- The place of arm j among the described ones. -/
def armItem (c : State) (j : Nat) : Nat := ((List.range j).filter (armDescribed c)).length

/-- The claim of arm j. -/
def armClaim (c : State) (j : Nat) : Nat := itemClaim 4 0 (armItem c j)

/-- A field of arm j at an offset of its description is refused with its value and the limit it broke. -/
def armField (c : State) (j : Nat) (bad : Bool) (off value : Nat) (limit : Option Nat) : List Conflict :=
  refuseIf bad ⟨3, 0, j, some (armClaim c j), noClaim, some off, some value, limit⟩

/-- The header's fields (R84). DESIGN CHOICE (log entry 93). -/
def headerConflicts (c : State) (j : Nat) : List Conflict :=
  let b (off : Nat) : Nat := headerByte c .a j off
  let f (bad : Bool) (off limit : Nat) : List Conflict := armField c j bad off (b off) (some limit)
  let n := b 1
  let want := 6 + b2n (armTrack c .a j)
  f (decide (15 < b 0)) 0 15 ++ f (decide (n < 1 ∨ 9 < n)) 1 9 ++ f (decide (4 < b 2)) 2 4 ++ f (decide (1 < b 3)) 3 1 ++
    (List.range 9).flatMap (fun i =>
      f (if i < n then decide (127 < b (4 + i)) else decide (b (4 + i) ≠ 255)) (4 + i) (if i < n then 127 else 255)) ++
    ([0xD, 0xE, 0xF, 0x61, 0x62, 0x63].flatMap (fun o => f (decide (b o ≠ 0)) o 0)) ++
    f (decide (b 0x60 < 1 ∨ 16 < b 0x60)) 0x60 16 ++ f (decide (2 < b 0x69)) 0x69 2 ++
    f (decide (b 2 ≤ 3) && decide (n ≠ want)) 1 want ++
    armField c j (armTrack c .a j && !jointPrismatic c .a j 0) 112 (jointWord c .a j 0 0 % 256) (some 1)

/-- Ixx, Iyy, Izz, Ixy, Ixz, Iyz give a positive semidefinite tensor: no principal minor is negative. -/
def inertiaOk (l : List Int) : Bool :=
  let x (i : Nat) : Int := l.getD i 0
  let minor (a b p : Int) : Bool := decide (p * p ≤ a * b)
  decide (0 ≤ x 0 ∧ 0 ≤ x 1 ∧ 0 ≤ x 2) && minor (x 0) (x 1) (x 3) && minor (x 0) (x 2) (x 4) && minor (x 1) (x 2) (x 5) &&
    decide (0 ≤ x 0 * (x 1 * x 2 - x 5 * x 5) - x 3 * (x 3 * x 2 - x 5 * x 4) + x 4 * (x 3 * x 5 - x 1 * x 4))

/-- The fields of joint i (R85). DESIGN CHOICE (log entry 93). -/
def jointConflicts (c : State) (j i : Nat) : List Conflict :=
  let w (off : Nat) : Nat := jointWord c .a j i off
  let f (bad : Bool) (off : Nat) (limit : Option Nat) : List Conflict := armField c j bad (112 * (i + 1) + off) (w off) limit
  f (decide (1 < w 0)) 0 (some 1) ++ f (decide (f32Ratio (w 0x18) ≤ f32Ratio (w 0x14))) 0x14 (some (w 0x18)) ++
    f (decide (w 0x24 = 0)) 0x24 (some 0) ++ f (decide (w 0x28 = 0)) 0x28 (some 0) ++
    f (!f32Positive (w 0x2C)) 0x2C (some 0) ++ f (decide (f32Ratio (w 0x38) < 0)) 0x38 (some 0) ++
    f (!inertiaOk ((List.range 6).map (fun n => f32Ratio (w (0x48 + 4 * n))))) 0x48 none ++ f (!f32Positive (w 0x68)) 0x68 (some 0)

/-- The refusals of the arm models, and of an axis that two joints claim. -/
def armConflicts (c : State) : List Conflict :=
  let arms := (List.range 16).filter (armDescribed c)
  arms.flatMap (fun j => headerConflicts c j ++ (List.range (armJoints c .a j)).flatMap (jointConflicts c j)) ++
    (doubles (arms.flatMap (fun j => ((armAxes c .a j).filter (fun k => decide (k < 128))).map (fun k => (k, armClaim c j))))).map (fun x =>
      ⟨1, 1, x.1, some x.2.1, x.2.2, none, some x.1, some 0⟩)

/-! Couplings, capsules and sparse channels (R63, R142, R171). -/

/-- A COUPLE that configures a set-point source on an axis that is not lower. DESIGN CHOICE (log entry 93). -/
def coupleConflicts (c : State) : List Conflict :=
  (List.range 128).flatMap (fun k =>
    let b := PRF.addr .a k
    let m := c.fld b PRF.MASTER
    refuseIf (!c.flag b PRF.SRC_ACT && decide (k < m)) ⟨3, 1, k, some (itemClaim 3 0 k), noClaim, none, some m, some k⟩)

/-- More than 64 capsules are sent to neighbour cells. -/
def capsuleConflicts (c : State) : List Conflict :=
  let n := (c.cfg.govCaps.filter (fun x => x.boundary)).length
  refuseIf (decide (64 < n)) ⟨2, 0, 0, some (itemClaim 8 0 0), noClaim, some 1, some n, some 64⟩

/-- The governor and background estimation claim one sparse channel. -/
def sparseConflicts (c : State) : List Conflict :=
  refuseIf (decide (c.cfg.govChan = c.cfg.bgChan)) ⟨1, 9, c.cfg.govChan, some (itemClaim 8 0 0), itemClaim 12 0 0, none, some c.cfg.govChan, some 0⟩

/-- What an image's bodies are refused for, as far as the spec gives their fields. -/
def imageConflicts (c : State) : List Conflict :=
  capacityConflicts c ++ coupleConflicts c ++ armConflicts c ++ capsuleConflicts c ++ sparseConflicts c

end Sys2Proof.Machine
end

