-- ==== Sys2Proof/Machine/Start.lean ====
section
/-! DEFINITION. Resets of the module, the start sequence, the resource-claim check, and the configuration key's staging and commit (R9,
R431 to R448). -/
namespace Sys2Proof.Machine

/-- The start sequence's state takes a new value. -/
def State.setBoot (s : State) (x : BootUnit) : State := { s with boot := x }

/-! Straps (R431 to R433). Bits of MOD.STRAPS: GA 4:0, RACK 9:5, STRAP_SYSCTL 10, STRAP_PAIR 11, STRAP_BOOT 12,
STRAP_LEGACY 13. -/

def straps (s : State) : Nat := s.fld MOD.addr MOD.STRAPS
def strapGa (s : State) : Nat := straps s % 32
def strapRack (s : State) : Nat := straps s / 32 % 32
def strapPair (s : State) : Bool := bitOf (straps s) 11
def strapBoot (s : State) : Bool := bitOf (straps s) 12
def strapLegacy (s : State) : Bool := bitOf (straps s) 13

/-- The straps' defaults (R14, R418, R432): module number, system-controller role, P2, windows and pair.
DEDUCED (log entry 92). -/
def applyStraps (s : State) : State :=
  let s := s.setFld MOD.addr MOD.NUM (strapRack s * 32 + strapGa s)
  let s := s.putFlag BPI.addr BPI.SYSCTL (bitOf (straps s) 10 || decide (strapGa s = 1))
  let s := s.putFlag BPI.addr BPI.K32_PRESENT (!strapLegacy s)
  let s := (s.setFlag BPI.addr BPI.K16_EN).setFlag BPI.addr BPI.K16_BASE
  let s := s.putFlag BPI.addr BPI.K32_EN (!strapLegacy s)
  s

/-- STRAP_CHECK: contacts that differ from the latched straps are logged once, bit by bit as MOD.STRAPS numbers them. -/
def strapCheck (s : State) (contacts : Nat) : State :=
  let diff := straps s ^^^ contacts
  let new := (List.range 14).foldl (fun m i => if bitOf diff i && !bitOf s.boot.strapLogged i then setBit m i true else m) 0
  if new = 0 then s
  else faultLog (s.setBoot { s.boot with strapLogged := s.boot.strapLogged ||| new }) 0xFF none none (some new)

/-! Resets (R9 to R11, R30, R340). -/

/-- The bytes of the key begin here; slot 1 follows 0x800_0000 later. -/
def keyBase : Nat := 0x10000000000

/-- What a power-on reset leaves of the memories: retained MRAM and the key. DEDUCED (log entry 91). -/
def retained (m : List Host.Cell) : List Host.Cell :=
  m.filter (fun c => decide (mramAddr 0 ≤ c.1 ∧ c.1 < mramAddr 0x800000) || decide (keyBase ≤ c.1 ∧ c.1 < keyBase + 0x10000000))

/-- Registers a reset leaves: the accepted fingerprint (R10); on a module reset also the island's registers, whose domain is
power-on, the straps and the PCI Express fields. DEDUCED (log entry 91). -/
def keptRegs (s : State) (power : Bool) : List (Nat × Word) :=
  s.regs.filter (fun c => decide (c.1 = ISL.addr + 0x14) ||
    (!power && (decide (ISL.addr ≤ c.1 ∧ c.1 < ISL.addr + 0x3000) || decide (c.1 = MOD.addr + 0xC) || decide (c.1 = BPI.addr + 0xB0))))

/-- The island after a reset of the module: what its contacts, pairs, outputs and oscillator hold stays; its section and what
that runs begin anew with the start-up self-test, but for the latched fault state (R193, R194). DEDUCED (log entry 91). -/
def keptIsland (s : State) (power : Bool) : IslandUnit :=
  if power then { IslandUnit.reset with swX := s.isl.swX, swY := s.isl.swY, testing := true }
  else { s.isl with testing := decide (islState s ≠ 3), funcs := IslandUnit.reset.funcs, groups := IslandUnit.reset.groups,
                    conns := IslandUnit.reset.conns, arms := IslandUnit.reset.arms, sens := IslandUnit.reset.sens,
                    differed := [], swDiff := false, staged := [], test := none, comm := false }

/-- The island's registers show a start of the island. -/
def islandBegins (s : State) : State :=
  let s := if islState s = 3 then s else s.setFld ISL.addr ISL.STATE 0
  let s := (s.putFlag ISL.addr ISL.LOADING false).putFlag SSM.addr SSM.TEST_BUSY false
  let s := (List.range 64).foldl (fun s c => putConnState s c 0) s
  driveOutputs ((List.range 16).foldl (fun s g => updateGroup s g) s)

/-- What a power-on reset (power) or a module reset leaves. -/
def clearedBase (s : State) (power : Bool) : State :=
  { State.reset with
    regs := keptRegs s power, mem := if power then retained s.mem else s.mem,
    pending := s.pending, freeIdx := s.freeIdx, readData := s.readData,
    tb0 := if power then 0 else s.tb0, onMonitor := if power then false else s.onMonitor,
    isl := keptIsland s power,
    pen := { PenUnit.reset with hot := s.pen.hot, warm := s.pen.warm, hrIdx := s.pen.hrIdx },
    pci := if power then .reset else s.pci,
    boot := { BootUnit.reset with key := s.boot.key, startAt := if power then 0 else s.tb0,
                                  strapLogged := if power then 0 else s.boot.strapLogged,
                                  holdup := if power then 0 else s.boot.holdup, supply := s.boot.supply } }

/-- The module after a power-on reset (power) or a module reset, before its start. DEDUCED (log entry 91). -/
def resetBase (s : State) (power : Bool) : State :=
  let t := clearedBase s power
  let up := !power && s.flag BPI.addr BPI.PCIE_UP
  let t := t.flagIf up BPI.addr BPI.PCIE_UP
  let t := t.setFld ISL.addr ISL.ADDR (s.isl.swY % 1024)
  if power then t else islandBegins t

/-! Configuration images in the key (R434 to R437). -/

/-- a is newer than b in serial arithmetic modulo 2^32. -/
def genNewer (a b : Nat) : Bool :=
  let d := (a % 2 ^ 32 + 2 ^ 32 - b % 2 ^ 32) % 2 ^ 32
  decide (0 < d ∧ d < 2 ^ 31)

def slotBase (i : Nat) : Nat := keyBase + i * 0x8000000

/-- The bytes of a slot. -/
def slotCells (s : State) (i : Nat) : List Host.Cell := storeSlice s.mem (slotBase i) 0x8000000

/-- A slot is valid (R434). -/
def slotValid (m : List Host.Cell) : Bool := imgHeaderOk m && decide (imgReady m = 1)

/-- TABLE_CRC and every section CRC are correct. -/
def imageSound (m : List Host.Cell) : Bool := imgTableOk m && imgSectionsOk m

/-- The valid slots in the order in which the reader takes them. -/
def slotOrder (m0 m1 : List Host.Cell) : List Nat :=
  match slotValid m0, slotValid m1 with
  | false, false => []
  | true, false => [0]
  | false, true => [1]
  | true, true => if genNewer (imgGen m1) (imgGen m0) then [1, 0] else [0, 1]

/-! The resource-claim check (R442, R443). -/

/-- The double claims of resources that no register of the image shows (R442: inputs, outputs, capture units, trigger inputs, lines,
safe connections, acquisition memory, streams and trigger IDs) and the refusals of R282, against the module's straps:
uninterpreted, since R437 leaves the bodies to Deulate. -/
opaque bodyConflicts : List (Nat × Byte) → Nat → List Conflict

/-- CLAIM of a section as a whole. DESIGN CHOICE (log entry 93). -/
def claimOf (x : Section) : Nat := x.typ + 256 * x.inst

/-- CL and CL_CAP (R448). -/
def levelConflicts (m : List Host.Cell) : List Conflict :=
  let cl := imgCl m
  let cap := imgClCap m
  (if cl < 1 ∨ 2 < cl then [⟨8, 0, 0, none, noClaim, some 6, some cl, some 2⟩] else []) ++
  (if cap < 1 ∨ 2 < cap then [⟨8, 0, 0, none, noClaim, some 7, some cap, some 2⟩]
   else if cl < cap then [⟨8, 0, 0, none, noClaim, some 7, some cap, some cl⟩] else [])

/-- The largest instance number of a section type (R437). -/
def instMax : Nat → Nat
  | 5 => 7
  | 7 => 15
  | 12 => 255
  | _ => 0

/-- Types, instances, bounds and overlaps of the section table (R436, R437). -/
def tableConflicts (m : List Host.Cell) : List Conflict :=
  let l := imgSections m
  let missing := [1, 2, 9].filter (fun t => !l.any (fun x => x.typ = t))
  let one (i : Nat) (x : Section) : List Conflict :=
    let before := l.take i
    (if x.typ = 0 ∨ 13 ≤ x.typ then [⟨3, 0, 0, some (claimOf x), noClaim, some 0, some x.typ, none⟩]
     else if instMax x.typ < x.inst then [⟨3, 0, 0, some (claimOf x), noClaim, some 1, some x.inst, some (instMax x.typ)⟩]
     else if x.typ ≠ 12 ∧ before.any (fun y => y.typ = x.typ ∧ y.inst = x.inst) then
       [⟨9, 0, 0, some (claimOf x), claimOf x, some 0, some x.typ, some 1⟩] else []) ++
    (if x.off % 64 ≠ 0 then [⟨3, 0, 0, some (claimOf x), noClaim, some 4, some x.off, none⟩] else []) ++
    (if x.len = 0 then [⟨3, 0, 0, some (claimOf x), noClaim, some 8, some 0, some 1⟩] else []) ++
    (if imgLen m < x.off + x.len then [⟨3, 0, 0, some (claimOf x), noClaim, some 8, some x.len, some (imgLen m)⟩] else []) ++
    (match before.find? (fun y => decide (x.off < y.off + y.len ∧ y.off < x.off + x.len)) with
     | some y => [⟨1, 0, 0, some (claimOf y), claimOf x, some 4, some x.off, some 0⟩]
     | none => [])
  missing.map (fun t => ⟨4, 0, 0, some t, noClaim, none, some 0, some 1⟩) ++
    (l.zipIdx.map (fun p => one p.2 p.1)).flatten

/-- The state in which an image would be in use, as far as the checks of its schedules look. -/
def candidate (s : State) (m : List Host.Cell) : State :=
  { resetBase s false with image := some ⟨imgGen m, false, m⟩, cfg := moduleCfgOf m }

/-- The schedules: of the rings (R273) and of the sparse channels (R160). -/
def schedConflicts (s : State) (m : List Host.Cell) : List Conflict :=
  let bad (x : Section) : Conflict := ⟨7, 0, 0, some (claimOf x), noClaim, none, none, none⟩
  ((imgSections m).filter (fun x =>
    if x.typ = 5 then decide (x.inst < 8) && !scheduleOk (candidate s m) .a x.inst
    else if x.typ = 7 then !schedOk { s with mem := imgSectionCells m x } 0 x.len
    else false)).map bad

/-- Every refusal of an image, in the order of the check. DESIGN CHOICE (log entry 93). -/
def claimCheck (s : State) (m : List Host.Cell) : List Conflict :=
  levelConflicts m ++ tableConflicts m ++ imageConflicts (candidate s m) ++ bodyConflicts m (straps s) ++ schedConflicts s m

/-- A value of a record, or a free value. -/
def openN (v : Option Nat) (s : State) : Nat × State :=
  match v with
  | some x => (x, s)
  | none =>
    let (q, s) := s.takeFree
    (q.toNat, s)

/-- Record i of MOD.CONFLICT. DESIGN CHOICE (log entry 93). -/
def putConflict (s : State) (i : Nat) (c : Conflict) : State :=
  let (a, s) := openN c.claimA s
  let (f, s) := openN c.field s
  let (v, s) := openN c.value s
  let (l, s) := openN c.limit s
  s.setWords (MOD.addr + 0x400 + 32 * i)
    ([c.code % 256 + c.res % 256 * 256 + c.num * 2 ^ 16, a, c.claimB, f, v, l, 0, 0].map (BitVec.ofNat 32))

/-- The first 32 records are written. -/
def putConflicts (s : State) (l : List Conflict) : State :=
  let s := s.setFld MOD.addr MOD.N_CONFLICT (Nat.min l.length 32)
  (l.take 32).zipIdx.foldl (fun s p => putConflict s p.2 p.1) s

/-! Steps 6 to 10 of the start sequence (R194, R354, R445, R446, R464). -/

/-- What section 1 of an image puts into the core memories of a half, by offset in its view: uninterpreted. -/
opaque firmwareOf : List (Nat × Byte) → List (Nat × Byte)

/-- The firmware goes into the core memories of both halves. DESIGN CHOICE (log entry 98). -/
def placeFirmware (s : State) (m : List Host.Cell) : State :=
  ((firmwareOf m).filter (fun c => decide (0x2000000 ≤ c.1 ∧ c.1 < 0x2600000))).foldl (fun s c =>
    (s.setByte (viewBase .a + c.1) c.2).setByte (viewBase .b + c.1) c.2) s

/-- The island loads the safety section of an image where its entry's CRC is correct. -/
def loadSafety (s : State) (m : List Host.Cell) : State :=
  match imgFind m 9 0 with
  | none => s
  | some x =>
    if x.crc = crc32c (imgBytes m x.off x.len) then
      placeSection s (imgSectionCells m x) (sectionCfgOf (imgSectionCells m x)) x.crc
    else s

/-- The pennant election: Half A where it passed its self-test, else Half B; a strapped pair begins to link. -/
def election (s : State) : State :=
  let b := PEN.addr
  let s := if strapPair s then s.setFld b PEN.P_STATE 1 else s
  if s.boot.passA then (s.setFld b PEN.CMD_HOLDER 0).setFlag b PEN.CMD_VALID
  else if s.boot.passB then (s.setFld b PEN.CMD_HOLDER 1).setFlag b PEN.CMD_VALID
  else s.setFld MOD.addr MOD.STATE 5

/-- The wait for TB1 or TB2 begins. DEDUCED (log entry 94). -/
def beginWait (s : State) (h : Half) : State :=
  s.setTime h { s.time h with startWait := some (s.tb0 + s.fld (TB3X.addr h) TB3X.START_WAIT * 100000000) }

/-- Every configured ring starts. -/
def startRings (s : State) (h : Half) : State :=
  (List.range 8).foldl (fun s r => if ringConfigured s r then ringStart s h r else s) s

/-- The wait of a half ends: servo time is set once; in the active half the rings start. DEDUCED (log entry 94). -/
def waitEnd (s : State) (h : Half) : State :=
  let s := s.setTime h { s.time h with startWait := none }
  let s := alignTb3 s h
  let s := s.setQuad (SYS.addr h + 0x108) (syncNow s h)
  if s.activeHalf = some h then startRings (s.setPen { s.pen with ownedFrom := syncNow s h + 1 }) h else s

/-- A lock of TB1 or TB2 ends the wait. -/
def waitLocked (s : State) (h : Half) : State :=
  if (s.time h).startWait.isSome && (tbLocked s h 1 || tbLocked s h 2) then waitEnd s h else s

/-- START_WAIT_EXPIRY. -/
def waitExpired (s : State) (h : Half) : State :=
  match (s.time h).startWait with
  | none => s
  | some t => waitEnd (s.passTime (t - s.tb0)) h

/-- The ring, node and entry of an axis. DEDUCED (log entry 95). -/
def axisPlace (s : State) (k : Nat) : Option (Nat × Nat × Nat) :=
  (List.range 8).findSome? (fun r => (ringNodes s r).findSome? (fun n =>
    if n.axes.contains k then some (r, n.addr, n.axes.idxOf k) else none))

/-- The drive's present position of an axis before POS_OFFSET, and whether its node reports a power-up. -/
def drivePos (s : State) (h : Half) (k : Nat) : Option (Int × Bool) :=
  (axisPlace s k).bind (fun p =>
    ((((s.ring h p.1).nodes.getD (p.2.1 - 1) .reset).pos.getD p.2.2 none).map (fun x =>
      (x, s.flag (NODE.addr h p.1 (p.2.1 - 1)) NODE.PU))))

/-- The reference of an axis is lost with a cause. DEDUCED (log entry 95). -/
def retLost (s : State) (b cause : Nat) : State :=
  ((s.putFlag b PRF.REF false).setFlag b PRF.RET_LOST).setFld b PRF.RET_CAUSE cause

/-- The reference of one axis is restored from its record (R83). An axis whose drive gives no position keeps none.
DEDUCED (log entry 95). -/
def restoreAxis (s : State) (h : Half) (k : Nat) : State :=
  let b := PRF.addr h k
  match axisRecPick s k with
  | none => retLost s b 1
  | some a =>
    let off := s.memQuad (a + 8)
    let s := (s.setFld b PRF.POS_OFFSET off).setFld b PRF.HOLD_POS (s.memQuad (a + 16))
    let s := s.setFld b PRF.REF_POS (s.memQuad (a + 24))
    let flags := s.memN (a + 40)
    if !bitOf flags 0 then (s.putFlag b PRF.REF false).setFld b PRF.RET_CAUSE 3
    else
      match drivePos s h k with
      | none => retLost s b 1
      | some (x, pu) =>
        let pos := x + toS 64 off
        let diff := pos - toS 64 (s.memQuad a)
        let s := s.setFldS b PRF.RET_DIFF diff
        let s := s.setCe h k { s.ce h k with pAct := pos, pPrev := pos }
        if pu && !bitOf flags 1 then retLost s b 2
        else if s.fld b PRF.RET_TOL < diff.natAbs then retLost s b 1
        else (s.setFlag b PRF.REF).setFld b PRF.RET_CAUSE 0

/-- An axis of a running ring still awaits its first REPLY. -/
def awaitsReply (s : State) (h : Half) (k : Nat) : Bool :=
  match axisPlace s k with
  | none => false
  | some (r, a, _) =>
    decide (ringState s h r = 2) && decide (s.fld (NODE.addr h r (a - 1)) NODE.N_STATE ≠ 3) && (drivePos s h k).isNone

/-- Step 10: ready. The active half arms the records with ON_ACTIVE (R405). -/
def startReady (s : State) (h : Half) : State :=
  let s := acqTakeover s h
  let ms := satU 16 ((s.tb0 - s.boot.startAt) / 1000000)
  let s := (s.setFld MOD.addr MOD.STEP 10).setFld MOD.addr MOD.STATE 1
  faultLog (s.setFld MOD.addr MOD.START_MS ms) 14 none none (some ms)

/-- Steps 9 and 10 at a sync instant of the active half: once no ring starts any more and every running drive has reported. -/
def startFinish (s : State) (h : Half) : State :=
  let waiting := (List.range 8).any (fun r => decide (ringState s h r = 1)) || (s.time h).startWait.isSome ||
    (axisList s).any (fun k => awaitsReply s h k)
  if s.fld MOD.addr MOD.STEP ≠ 8 ∨ s.fld MOD.addr MOD.STATE ≠ 0 ∨ s.activeHalf ≠ some h ∨ waiting then s
  else
    let s := s.setFld MOD.addr MOD.STEP 9
    startReady ((axisList s).foldl (fun s k => restoreAxis s h k) s) h

/-- Steps 6 to 8 with an image in use. -/
def startOn (s : State) : State :=
  let s := s.setFld MOD.addr MOD.STEP 7
  let s := election s
  match s.activeHalf with
  | none => s
  | some _ =>
    let s := s.setFld MOD.addr MOD.STEP 8
    let s := noRingWindow (noRingWindow s .a) .b
    waitLocked (waitLocked (beginWait (beginWait s .a) .b) .a) .b

/-- Step 4 or 5 refuses the image: CONFIG_HOLD. The island still loads its section, and the election takes place.
DEDUCED (log entry 94). -/
def configHold (s : State) (l : List Conflict) (m : List Host.Cell) : State :=
  let s := putConflicts s l
  let s := loadSafety s m
  (election s).setFld MOD.addr MOD.STATE 2

/-- An image is in use: its fields, schedules, firmware and channels (R14, R160, R435, R448). DEDUCED (log entry 92). -/
def takeImage (s : State) (m : List Host.Cell) (host : Bool) : State :=
  let s := { s with image := some ⟨imgGen m, host, m⟩, cfg := moduleCfgOf m }
  let w := imgN m 0x0E 2
  let s := if bitOf w 15 then (s.setFld MOD.addr MOD.NUM (w % 1024)).setFlag MOD.addr MOD.OVERRIDDEN else s
  let s := s.setFld MOD.addr MOD.CL_NOW (Nat.min (imgCl m) (imgClCap m))
  let s := (s.resetRegs (BPI.addr + 0x20) 4).resetRegs (BPI.addr + 0x80) 4
  let s := placeFirmware (reloadScheds (reloadScheds s .a) .b) m
  let s := (axisList s).foldl (fun s k => seedInputs (seedInputs s .a k) .b k) s
  (List.range 4).foldl (fun s c => canStart (canStart s .a c) .b c) s

/-- Steps 5 to 8 with the image the reader took. -/
def startImage (s : State) (m : List Host.Cell) (host : Bool) : State :=
  let s := (s.setFld MOD.addr MOD.STEP 5).setFld KEY.addr KEY.GEN (imgGen m)
  let l := claimCheck s m
  if l.isEmpty then startOn (loadSafety ((takeImage s m host).setFld MOD.addr MOD.STEP 6) m)
  else configHold s l m

/-- The refusal with code 5: no image is usable. -/
def unreadable (s : State) (m : List Host.Cell) : State := configHold s [⟨5, 0, 0, none, noClaim, none, none, none⟩] m

/-- The start goes on with the slot chosen among those in order, if one is sound. -/
def readSlot (s : State) (order : List Nat) (pick : Option Nat) : State :=
  match pick with
  | none => unreadable s (slotCells s (order.headD 0))
  | some i =>
    let t := s.setFld KEY.addr KEY.IN_USE i
    let t := if order.head? = some i then t else faultLog (t.setFlag MOD.addr MOD.KEY_FALLBACK) 0xFF none none none
    startImage t ((slotCells s i).filter (fun c => decide (c.1 < imgLen (slotCells s i)))) false

/-- Step 4 with a key: the slot is chosen (R434). DEDUCED (log entry 92). -/
def readKey (s : State) (id : Nat) : State :=
  let s := (s.setFld KEY.addr KEY.KEY_ID id).setFld MOD.addr MOD.STATE 0
  let order := slotOrder (slotCells s 0) (slotCells s 1)
  readSlot s order (order.find? (fun i => imageSound (slotCells s i)))

/-- Step 4: a host image, the key, or a wait for one of them. -/
def startRead (s : State) : State :=
  let s := s.setFld MOD.addr MOD.STEP 4
  if strapBoot s then
    let s := match s.boot.key with
      | some id => s.setFld KEY.addr KEY.KEY_ID id
      | none => s
    s.setFld MOD.addr MOD.STATE 4
  else
    match s.boot.key with
    | none => s.setFld MOD.addr MOD.STATE 3
    | some id => readKey s id

/-- The start sequence from step 3, with the results of the halves' self-tests. -/
def startSequence (s : State) (passA passB : Bool) : State :=
  startRead ((s.setBoot { s.boot with passA := passA, passB := passB }).setFld MOD.addr MOD.STEP 3)

/-- PWR.STATUS as the supply monitor writes it. -/
def putSupply (s : State) (x : Supply) : State :=
  let b := PWR.addr
  let s := ((s.setBoot { s.boot with supply := x }).setFld b PWR.V_X17 x.vX17).setFld b PWR.V_P3 x.vP3
  let s := ((s.putFlag b PWR.REV_X17 x.revX17).putFlag b PWR.REV_P3 x.revP3).putFlag b PWR.IO_LOW x.ioLow
  s.putFlag b PWR.HOLDUP (decide (s.boot.holdup ≠ 0))

/-- The power-on reset: straps latched, the sequence begins (R431, R457). V in 0.25 V units. -/
def powerOn (s : State) (latched : Nat) (passA passB : Bool) (vX17 vP3 : Nat) (revX17 revP3 : Bool) : State :=
  let s := putSupply (resetBase s true) ⟨vX17, vP3, revX17, revP3, s.boot.supply.ioLow⟩
  let s := applyStraps (s.setFld MOD.addr MOD.STRAPS latched)
  let s := (s.setMemN (mramAddr 0) 0x52544E4A).setMemN (mramAddr 4) 1
  let s := mramCount s 0
  let s := if s.flag BPI.addr BPI.SYSCTL then { s with bus := { s.bus with sysrst := some 200000000 } } else s
  startSequence s passA passB

/-- POWER_GOOD: the higher input above 18 V, with hold-up not running. DESIGN CHOICE (log entry 90). -/
def powerGood (s : State) (latched : Nat) (passA passB : Bool) (vX17 vP3 : Nat) (revX17 revP3 : Bool) : State :=
  let v := Nat.max (if revX17 then 0 else vX17) (if revP3 then 0 else vP3)
  if s.boot.holdup ≠ 0 ∨ v ≤ 72 then s else powerOn s latched passA passB vX17 vP3 revX17 revP3

/-- A module reset, commanded or by the backplane (R9). DESIGN CHOICE (log entry 90). -/
def moduleReset (s : State) (passA passB : Bool) : State :=
  startSequence (applyStraps (resetBase (solverReset (solverReset s .a) .b) false)) passA passB

/-- HOST_GO: the reader takes the host image, without fallback (R447). -/
def hostGo (s : State) : State :=
  if s.fld MOD.addr MOD.STATE ≠ 4 then s
  else
    let m := storeSlice s.mem (dramAddr .a 0x8000000) 0x8000000
    let s := s.setFld MOD.addr MOD.STATE 0
    if slotValid m && imageSound m then startImage s (m.filter (fun c => decide (c.1 < imgLen m))) true
    else unreadable s m

/-- A write of MOD.CMD; the self-test results of the start it causes are free values. DESIGN CHOICE (log entries 90, 104). -/
def modCmd (s : State) (v : Nat) : State :=
  let s := if bitOf v 1 then hostGo s else s
  if bitOf v 0 then
    let (a, s) := s.takeFree
    moduleReset s (bitOf a.toNat 0) (bitOf a.toNat 1)
  else s

/-! The key (R438 to R440). -/

/-- A key with its contents is inserted; a start that waits for one goes on. -/
def keyInserted (s : State) (id : Nat) (cells : List Host.Cell) : State :=
  let s := { s with mem := storeClear s.mem keyBase 0x10000000 }
  let s := cells.foldl (fun s c => s.setByte (keyBase + c.1 % 0x10000000) c.2) s
  let s := raiseBoth (s.setBoot { s.boot with key := some id }) 11
  if s.fld MOD.addr MOD.STATE = 3 then readKey s id else s

/-- The key is removed. A staging check or a commit that needs it cannot end well. -/
def keyRemoved (s : State) : State :=
  raiseBoth { s with mem := storeClear s.mem keyBase 0x10000000, boot := { s.boot with key := none } } 11

/-- The key present is the one read at start. -/
def keySame (s : State) : Bool :=
  match s.boot.key with
  | none => false
  | some id => decide (id = s.fld KEY.addr KEY.KEY_ID)

/-- The slot not in use. -/
def otherSlot (s : State) : Nat := 1 - s.fld KEY.addr KEY.IN_USE

/-- The other slot holds a ready image with a higher GEN. -/
def otherReady (s : State) : Bool :=
  let m := slotCells s (otherSlot s)
  s.boot.key.isSome && slotValid m && genNewer (imgGen m) (s.fld KEY.addr KEY.GEN)

/-- A staging check or a commit runs. -/
def keyBusy (s : State) : Bool := s.boot.checking || s.boot.commit.isSome

/-- Staging and commit are refused (R438, R439, R458). -/
def keyRefuses (s : State) : Bool := keyBusy s || decide (s.boot.holdup ≠ 0) || !keySame s

/-- KEY.STATUS as it reads. -/
def keyStatusWord (s : State) : Nat :=
  s.wordN KEY.addr / 32 * 32 + b2n s.boot.key.isSome + 2 * b2n (keySame s) + 4 * s.fld KEY.addr KEY.IN_USE +
    8 * b2n (otherReady s) + 16 * b2n (keyBusy s)

/-- READY of the other slot. -/
def putReady (s : State) (v : Nat) : State := s.setMemN (slotBase (otherSlot s) + 0x28) v

/-- STAGE_DONE. -/
def stageDone (s : State) : State :=
  if keyRefuses s then s.setFld KEY.addr KEY.STAGE_RESULT 4 else s.setBoot { s.boot with checking := true }

/-- GEN and READY of a complete image in the other slot. -/
def finishSlot (s : State) : State :=
  putReady (s.setMemN (slotBase (otherSlot s) + 0x10) (s.fld KEY.addr KEY.GEN + 1)) 1

/-- STAGE_CHECK_COMPLETE. -/
def stageChecked (s : State) : State :=
  if !s.boot.checking then s
  else
    let s := s.setBoot { s.boot with checking := false }
    let m := slotCells s (otherSlot s)
    let done (s : State) (r : Nat) : State := raiseBoth (s.setFld KEY.addr KEY.STAGE_RESULT r) 12
    if !keySame s then done s 4
    else if !imgHeaderOk m || !imageSound m then done s 2
    else
      let l := claimCheck s (m.filter (fun c => decide (c.1 < imgLen m)))
      if l.isEmpty then done (finishSlot s) 1 else done (putConflicts s l) 3

/-- STAGE_CANCEL. -/
def stageCancel (s : State) : State := if otherReady s && keySame s then putReady s 0 else s

/-- A section body rebuilt from the present values of the active half's and the common registers: uninterpreted. -/
opaque rebuiltBody : Nat → List Byte → List (Nat × Word) → List Byte

/-- The sections of a commit: copied, rebuilt, and the schedules resident in the active half (R440). DEDUCED (log entry 96). -/
def commitBodies (s : State) (h : Half) (m : List Host.Cell) : List (Nat × Nat × Nat × List Byte) :=
  let vals := (storeSlice s.regs (viewBase h) 0x10000000) ++ (storeSlice s.regs commonBase 0x10000000)
  let old := ((imgSections m).zipIdx.filter (fun p => decide (p.1.typ ≠ 7))).map (fun p =>
    let body := imgBytes m p.1.off p.1.len
    (p.1.typ, p.1.inst, imgN m (0x42 + 32 * p.2) 2, if [5, 9, 12].contains p.1.typ then body else rebuiltBody p.1.typ body vals))
  let res := ((List.range 16).filter (fun i => decide (slotState s h (i / 8) (i % 8) = 2))).map (fun i =>
    let a := slotAddr h (i / 8) (i % 8)
    let ver := ((imgSections m).zipIdx.find? (fun p => decide (p.1.typ = 7 ∧ p.1.inst = i))).map (fun p => imgN m (0x42 + 32 * p.2) 2)
    (7, i, ver.getD 1, s.memBytes a (Nat.min (s.memN (a + 36)) 262144)))
  old ++ res

/-- Section-table entries and bodies, placed one after another from an offset. -/
def layOut : Nat → List (Nat × Nat × Nat × List Byte) → List (List Byte) × List (Nat × List Byte) × Nat
  | off, [] => ([], [], off)
  | off, (t, i, v, b) :: l =>
    let (es, bs, e) := layOut (divCeil (off + b.length) 64 * 64) l
    let entry := leBytes 1 t ++ leBytes 1 i ++ leBytes 2 v ++ leBytes 4 off ++ leBytes 4 b.length ++ leBytes 4 (crc32c b) ++ zeros 16
    (entry :: es, (off, b) :: bs, Nat.max e (off + b.length))

/-- Bytes as cells from an offset; zero bytes are not listed. -/
def bytesCells (off : Nat) (l : List Byte) : List Host.Cell :=
  (l.zipIdx.map (fun p => (off + p.2, p.1))).filter (fun c => decide (c.2 ≠ 0))

/-- The image a commit writes, with READY and GEN 0; none where it has no room for its sections. DEDUCED (log entry 96). -/
def commitImage (s : State) (h : Half) (m : List Host.Cell) : Option (List Host.Cell) :=
  let bodies := commitBodies s h m
  let n := bodies.length
  let (es, bs, len) := layOut (divCeil (0x40 + 32 * n) 64 * 64) bodies
  let table := es.flatten
  let pair := (es.filter (fun e => !([9, 12].contains (bytesAt e 0 1)))).flatten
  let hdr := imgBytes m 0 8 ++ leBytes 4 len ++ leBytes 2 n ++ imgBytes m 0x0E 2 ++ zeros 4 ++ imgBytes m 0x14 12 ++
    leBytes 4 (crc32c table) ++ leBytes 4 (crc32c pair) ++ zeros 4 ++ zeros 16
  if 64 < n ∨ 0x8000000 < len then none
  else some (bytesCells 0 (hdr ++ leBytes 4 (crc32c hdr) ++ table) ++ (bs.map (fun b => bytesCells b.1 b.2)).flatten)

/-- COMMIT. DEDUCED (log entry 96). -/
def commitStart (s : State) : State :=
  match s.image, s.activeHalf with
  | some i, some h =>
    if keyRefuses s then s.setFld KEY.addr KEY.COMMIT_RESULT 3
    else if otherReady s then s.setFld KEY.addr KEY.COMMIT_RESULT 2
    else
      match commitImage s h i.cells with
      | none => raiseBoth (s.setFld KEY.addr KEY.COMMIT_RESULT 4) 12
      | some m => (putReady s 0).setBoot { s.boot with commit := some m }
  | _, _ => s.setFld KEY.addr KEY.COMMIT_RESULT 3

/-- COMMIT_COMPLETE; ok: every write of the key succeeded. -/
def commitDone (s : State) (ok : Bool) : State :=
  match s.boot.commit with
  | none => s
  | some m =>
    let s := s.setBoot { s.boot with commit := none }
    if ok && keySame s then
      let b := slotBase (otherSlot s)
      let s := { s with mem := storeClear s.mem b 0x8000000 }
      let s := finishSlot (m.foldl (fun s c => s.setByte (b + c.1) c.2) s)
      mramCount (raiseBoth (s.setFld KEY.addr KEY.COMMIT_RESULT 1) 12) 3
    else raiseBoth (s.setFld KEY.addr KEY.COMMIT_RESULT 4) 12

/-- A write of KEY.CMD. -/
def keyCmd (s : State) (v : Nat) : State :=
  let s := if bitOf v 0 then stageDone s else s
  let s := if bitOf v 2 then stageCancel s else s
  if bitOf v 1 then commitStart s else s

/-- A write of a word at an offset of the key window (R439). -/
def keyWrite (s : State) (off : Nat) (w : Word) : State :=
  let a := s.fld KEY.addr KEY.PAGE * 0x1000000 + off / 4 * 4
  let slot := a / 0x8000000
  let x := a % 0x8000000
  if keyRefuses s || decide (slot ≠ otherSlot s) || decide (x = 0x28 ∨ x = 0x10) then s.setFlag KEY.addr KEY.WR_REFUSED
  else (putReady s 0).setMemWord (keyBase + a) w

/-- What a word of the key window reads as: 0 without a key. -/
def keyRead (s : State) (off : Nat) : Word :=
  if s.boot.key.isNone then 0 else s.memWord (keyBase + s.fld KEY.addr KEY.PAGE * 0x1000000 + off / 4 * 4)

end Sys2Proof.Machine
end

