-- ==== Sys2Proof/Machine/Bpi.lean ====
section
/-! DEFINITION. The backplane interface's own operations: errors, interrupts, acknowledges, arbitration, SYSRST (R415 to
R424). -/
namespace Sys2Proof.Machine

/-- The backplane unit takes a new value. -/
def State.setBus (s : State) (x : BusUnit) : State := { s with bus := x }

/-- A backplane error (R417, R420): BPI.ERR_ADDR holds the bus address, BPI.ERR_INFO the kind, the master, and the space
and direction of the cycle; event 240 for K16, 241 for K32. DEDUCED (log entry 105). -/
def busError (s : State) (k32 : Bool) (kind master core addr : Nat) (iosp wrt : Bool) : State :=
  let s := s.setFld BPI.addr BPI.ERR_ADDR addr
  let s := s.setWordN (BPI.addr + 0x14) (kind + master * 16 + core * 256 + b2n iosp * 2 ^ 13 + b2n wrt * 2 ^ 14)
  raiseBoth s (if k32 then 241 else 240)

/-- The module is system controller (R418). -/
def sysctl (s : State) : Bool := s.flag BPI.addr BPI.SYSCTL

/-- The module arbitrates and times (R419 to R421). -/
def arbitrates (s : State) : Bool := sysctl s && !s.flag BPI.addr BPI.SC_CONFLICT

/-- The module handles K16 level i + 1, or K32 line i (R422). -/
def busHandles (s : State) (k32 : Bool) (i : Nat) : Bool :=
  sysctl s && bitOf (s.fld BPI.addr (if k32 then BPI.HANDLE32 else BPI.HANDLE16)) i

/-- Vector v is pending and routed to K16 level i + 1 or to K32 line i, which the module does not handle itself (R424). -/
def vecOn (s : State) (k32 : Bool) (i v : Nat) : Bool :=
  s.mapBit (BPI.addr + 0x200) v && decide (s.fld BPI.addr ((if k32 then BPI.LINE32 else BPI.LVL16).nth v) = i + 1) &&
    !busHandles s k32 i

/-- The lowest pending vector on a level or line. -/
def vecLowest (s : State) (k32 : Bool) (i : Nat) : Option Nat := (List.range 64).find? (fun v => vecOn s k32 i v)

/-- The module asserts a level or line. -/
def busDrives (s : State) (k32 : Bool) (i : Nat) : Bool := (vecLowest s k32 i).isSome

/-- The levels or lines asserted: by other cards, as the register holds them, or by the module. -/
def busAsserted (s : State) (k32 : Bool) : Nat :=
  (List.range (if k32 then 8 else 4)).foldl (fun x i => if busDrives s k32 i then setBit x i true else x)
    (s.fld BPI.addr (if k32 then BPI.ASSERTED32 else BPI.ASSERTED16))

/-- Another card asserts or releases a level or line (R422). -/
def interruptAsserted (s : State) (k32 : Bool) (i : Nat) (on : Bool) : State :=
  let f := if k32 then BPI.ASSERTED32 else BPI.ASSERTED16
  let was := bitOf (s.fld BPI.addr f) i
  let s := s.setFld BPI.addr f (setBit (s.fld BPI.addr f) i on)
  if on && !was && busHandles s k32 i then raiseBoth s (if k32 then 243 else 242) else s

/-- A write of BPI.IACK (R422): the acknowledge cycle on a level (1 to 4) or line (8 to 15) that the module handles, with
the interrupter's answer, or none when the bus timer expires. Other values are discarded. DEDUCED (log entry 105). -/
def iackWrite (s : State) (sel : Nat) (ans : Option Nat) : State :=
  let k32 := decide (8 ≤ sel)
  let i := if k32 then sel - 8 else sel - 1
  let b := BPI.addr
  if sel = 0 ∨ (4 < sel ∧ sel < 8) ∨ 15 < sel then s
  else
    let s := ((s.setFld b BPI.IACK_SEL sel).putFlag b BPI.IACK_DONE false).putFlag b BPI.IACK_ERR false
    if !busHandles s k32 i then s
    else
      match ans with
      | none => busError (s.setFlag b BPI.IACK_ERR) k32 (if k32 then 5 else 4) 6 0 (if k32 then i else i + 1) false false
      | some v =>
        let s := s.setFld b BPI.IACK_VEC (if k32 then bitsOf v 15 8 else bitsOf v 7 0)
        let s := s.setFld b BPI.IACK_GA (if k32 then bitsOf v 4 0 else 0)
        (s.setFlag b BPI.IACK_DONE).setBus { s.bus with acked := some (sel, s.tb0) }

/-- IACK_REASSERT: a line still asserted 10 us after a completed acknowledge raises its event again (R422). -/
def iackReassert (s : State) : State :=
  match s.bus.acked with
  | none => s
  | some (sel, t) =>
    if s.tb0 < t + 10000 then s
    else
      let k32 := decide (8 ≤ sel)
      let i := if k32 then sel - 8 else sel - 1
      let s := s.setBus { s.bus with acked := none }
      if bitOf (s.fld BPI.addr (if k32 then BPI.ASSERTED32 else BPI.ASSERTED16)) i then
        raiseBoth s (if k32 then 243 else 242)
      else s

/-- The bus timer expires (R420): BERR or XBERR is asserted and the cycle recorded. -/
def busTimer (s : State) (k32 iosp wrt : Bool) (addr : Nat) : State :=
  if !arbitrates s then s
  else busError (s.setBus { s.bus with berr := true }) k32 (if k32 then 5 else 4) 6 0 addr iosp wrt

/-- BREQ and BBSY as the arbiter sees them (R419). -/
def busRequest (s : State) (breq bbsy : Bool) : State :=
  if !arbitrates s then s
  else if bbsy then s.setBus { s.bus with grant := none }
  else if breq then s.setBus { s.bus with grant := some (s.bus.grant.getD s.tb0) }
  else s

/-- No BBSY within 2 us of a grant (R419): the grant is withdrawn, counted and given again. -/
def grantLost (s : State) : State :=
  match s.bus.grant with
  | none => s
  | some t =>
    if s.tb0 < t + 2000 then s
    else (s.count BPI.addr BPI.GRANT_LOST).setBus { s.bus with grant := some s.tb0 }

/-- A second arbiter within 10 ms of start (R421). -/
def foreignArbiter (s : State) : State :=
  if arbitrates s && decide (s.tb0 ≤ s.boot.startAt + 10000000) then
    let s := (s.setFlag BPI.addr BPI.SC_CONFLICT).setBus { s.bus with grant := none }
    faultLog s 0xFF none none none
  else s

/-- SYSRST has been asserted for 10 us (R423). -/
def sysrstReceive (s : State) (passA passB : Bool) : State :=
  if sysctl s then s
  else if s.flag BPI.addr BPI.SYSRST_ACT then faultLog (moduleReset s passA passB) 0xFF none none none
  else raiseBoth s 245

/-- SYSRST_OUT (R418): SYSRST is driven for 100 ms. DEDUCED (log entry 110). -/
def sysrstOut (s : State) : State :=
  if sysctl s then s.setBus { s.bus with sysrst := some (s.tb0 + 100000000) } else s

/-- CLR_CNT of the backplane interface. -/
def bpiClrCnt (s : State) : State := s.setWord (BPI.addr + 0x1C) 0

/-- A write of BPI.DOORBELL (R424). -/
def doorbell (s : State) (v : Nat) : State := raiseBoth (s.setWordN (BPI.addr + 0x18) v) 246

/-- An event that raises vector v is stamped after now in the active half: its setting stays (R31, R424). -/
def vecLater (s : State) (v : Nat) : Bool :=
  match s.activeHalf with
  | none => false
  | some h => (List.range 256).any (fun e =>
      decide (s.servoNow h < s.quad (EVTST.addr h e)) && decide (s.fld (EVT.addr h) (EVT.VEC.nth e) = v) &&
      (s.flag (EVT.addr h) (EVT.HOST.nth e) || decide (s.fld (EVT.addr h) (EVT.ACTION.nth e) = 3)))

/-- A W1C write of BPI.VEC_PEND (R424). DEDUCED (log entry 106). -/
def vecPendClear (s : State) (mask : Nat) : State :=
  (List.range 64).foldl (fun s v => if bitOf mask v && !vecLater s v then s.setMapBit (BPI.addr + 0x200) v false else s) s

/-- An acknowledge cycle on K16 level i + 1 or K32 line i reaches the module (R415, R424). -/
def iackCycle (s : State) (k32 : Bool) (i : Nat) : State :=
  match vecLowest s k32 i with
  | none => s.setBus { s.bus with passed := true }
  | some v =>
    let s := s.setBus { s.bus with passed := false }
    if k32 then s.answer .k32 (BitVec.ofNat 64 (s.fld MOD.addr MOD.STRAPS % 32 + v * 256))
    else s.answer .k16 (BitVec.ofNat 64 (s.fld BPI.addr BPI.K16_IVEC / 256 ^ i % 256))

/-- A write of a register of the backplane interface at a block offset, other than VEC_PEND; the answer to an acknowledge
that a plain write of BPI.IACK starts is a free value. DESIGN CHOICE (log entry 104). -/
def bpiReg (s : State) (plain : State → Nat → Nat → State) (o v : Nat) : State :=
  let a := BPI.addr + o
  if o = 4 then plain s a (setBits v 7 0 (Nat.max 8 (bitsOf v 7 0)))
  else if o = 8 then
    let s := if bitOf v 0 then sysrstOut s else s
    if bitOf v 1 then bpiClrCnt s else s
  else if o = 0x18 then doorbell s v
  else if o = 0x80 then (if bitsOf v 15 8 = 255 then s else plain s a v)
  else if o = 0x94 then
    let (x, s) := s.takeFree
    iackWrite s (v % 16) (if bitOf x.toNat 16 then some (x.toNat % 2 ^ 16) else none)
  else if 0x100 ≤ o ∧ o < 0x200 then (if 4 < bitsOf v 3 1 ∨ 8 < bitsOf v 7 4 then s else plain s a v)
  else plain s a v

end Sys2Proof.Machine
end

