-- ==== Sys2Proof/Machine/Power.lean ====
section
/-! DEFINITION. Supply, hold-up, local I/O faults and the LEDs (R195, R456 to R462). -/
namespace Sys2Proof.Machine

/-- The monitor's voltages, in 0.25 V units. -/
def putVolts (s : State) (vX17 vP3 : Nat) : State := putSupply s { s.boot.supply with vX17 := vX17, vP3 := vP3 }

/-- The higher input; a reversed one gives nothing. -/
def supplyVolts (s : State) : Nat :=
  Nat.max (if s.boot.supply.revX17 then 0 else s.boot.supply.vX17) (if s.boot.supply.revP3 then 0 else s.boot.supply.vP3)

/-! Hold-up (R195, R458). -/

/-- A staging check or a commit that runs is abandoned without READY. -/
def abandonKey (s : State) : State :=
  let s := if s.boot.checking then s.setFld KEY.addr KEY.STAGE_RESULT 5 else s
  let s := if s.boot.commit.isSome then s.setFld KEY.addr KEY.COMMIT_RESULT 5 else s
  s.setBoot { s.boot with checking := false, commit := none }

/-- Every function of the island stops its groups (category 1 from hold-up's start). -/
def islandHoldup (s : State) : State :=
  let s := s.setIsl { s.isl with holdupAt := some s.tb0 }
  driveOutputs ((List.range 16).foldl (fun s g => updateGroup s g) s)

/-- The operating seconds since power-on join their counter. DEDUCED (log entry 97). -/
def countSeconds (s : State) : State :=
  let a := mramAddr (0x5100 + 16)
  s.setMemN a (Nat.min (s.memN a + s.tb0 / 1000000000) (2 ^ 32 - 1))

/-- BROWN_OUT: the higher input has been below 16 V for 2 ms. DEDUCED (log entry 97). -/
def brownOut (s : State) (vX17 vP3 : Nat) : State :=
  let s := putVolts s vX17 vP3
  if s.boot.holdup ≠ 0 ∨ s.boot.off ∨ 64 ≤ supplyVolts s then s
  else
    let what := b2n s.boot.checking + 2 * b2n s.boot.commit.isSome
    let s := raiseBoth ((s.setFlag PWR.addr PWR.HOLDUP).setBoot { s.boot with holdup := 1 }) 0
    let s := abandonKey (islandHoldup s)
    let s := match s.activeHalf with
      | none => s
      | some h => axisRecords s h
    faultLog (countSeconds (mramCount s 1)) 0 s.activeHalf (some what) none

/-- Time passes to an instant of hold-up, in ns from its start. -/
def holdupAt (s : State) (dt : Nat) : State :=
  match s.isl.holdupAt with
  | none => s
  | some t => s.passTime (t + dt - s.tb0)

/-- A half loses its rail. DEDUCED (log entry 97). -/
def railOff (s : State) (h : Half) : State :=
  let s := (s.resetRegs (viewBase h) 0x10000000).setHalf h .reset
  let s := s.setPen { s.pen with newest := s.pen.newest.set (halfIdx h) none, hrAt := s.pen.hrAt.set (halfIdx h) none }
  s.setFld (HPWR.addr h) HPWR.RAIL_MV 0

/-- Acquisition stops writing. -/
def acqStop (s : State) (h : Half) : State := s.setAcq h { s.acq h with stopped := true }

/-- HOLDUP_STANDBY_OFF. -/
def holdupStandby (s : State) : State :=
  if s.boot.holdup ≠ 1 then s
  else
    let s := holdupAt s 100000
    let s := if s.activeHalf = some .a then s else railOff s .a
    let s := if s.activeHalf = some .b then s else railOff s .b
    (acqStop (acqStop s .a) .b).setBoot { s.boot with holdup := 2 }

/-- HOLDUP_OUTPUTS_OFF. -/
def holdupOutputs (s : State) : State :=
  if s.boot.holdup ≠ 2 then s
  else
    let s := (holdupAt s 6000000).setFld LIO.addr LIO.OUT 0
    let s := (List.range 4).foldl (fun s c => (s.setFld (CAN.addr .a c) CAN.STATE 0).setFld (CAN.addr .b c) CAN.STATE 0) s
    s.setBoot { s.boot with holdup := 3 }

/-- HOLDUP_SAFE_OUTPUTS_OFF. -/
def holdupSafe (s : State) : State :=
  if s.boot.holdup ≠ 3 then s
  else
    let s := holdupAt s 20000000
    driveOutputs ((s.setIsl { s.isl with powerOff := true }).setBoot { s.boot with holdup := 4 })

/-- HOLDUP_END: a power-on reset where the supply exceeds 18 V, else the module switches off. -/
def holdupEnd (s : State) (vX17 vP3 latched : Nat) (passA passB : Bool) : State :=
  if s.boot.holdup ≠ 4 then s
  else
    let revX := s.boot.supply.revX17
    let revP := s.boot.supply.revP3
    let s := putVolts s vX17 vP3
    if 72 < supplyVolts s then powerOn s latched passA passB vX17 vP3 revX revP
    else
      let s := resetBase s true
      s.setBoot { s.boot with off := true }

/-- SUPPLY_RETURN: the supply is back during hold-up; the sequence goes on. -/
def supplyReturn (s : State) (vX17 vP3 : Nat) : State :=
  let s := putVolts s vX17 vP3
  if s.boot.holdup = 0 then s else raiseBoth s 1

/-- SUPPLY_REVERSED: an input is reversed. -/
def supplyReversed (s : State) (p3 : Bool) : State :=
  let x := s.boot.supply
  putSupply s (if p3 then { x with revP3 := true } else { x with revX17 := true })

/-! Local I/O (R462). -/

/-- IO_SUPPLY_LOW: the local outputs and the X10 outputs go off. -/
def ioLow (s : State) : State :=
  if s.boot.supply.ioLow then s else driveOutputs (raiseBoth (putSupply s { s.boot.supply with ioLow := true }) 205)

/-- IO_SUPPLY_RETURN: the stop groups wait for their resets. -/
def ioReturn (s : State) : State :=
  if s.boot.supply.ioLow then waitAll (putSupply s { s.boot.supply with ioLow := false }) else s

/-- OUTPUT_OVERLOAD: an output that is on is latched off. -/
def outputOverload (s : State) (j : Nat) : State :=
  let s := s.setFld LIO.addr LIO.OUT_FAULT (setBit (s.fld LIO.addr LIO.OUT_FAULT) j true)
  raiseBoth (s.setBoot { s.boot with outLatched := setBit s.boot.outLatched j true }) 205

/-- OPEN_WIRE: an input of group g is open, where the detection is on. -/
def openWire (s : State) (g : Nat) : State :=
  if bitOf (s.fld LIO.addr LIO.OW_EN) g then
    raiseBoth (s.setFld LIO.addr LIO.OPEN_WIRE (setBit (s.fld LIO.addr LIO.OPEN_WIRE) g true)) 206
  else s

/-- The image claims local output j for the user (R442): uninterpreted, since R437 leaves the bodies to Deulate. -/
opaque outputClaimed : List (Nat × Byte) → Nat → Bool

/-- A write of LIO.OUT: outputs the user has not claimed keep their bit; a 0 releases a latch (R462). -/
def outWrite (s : State) (v : Nat) : State :=
  let mine (j : Nat) : Bool := match s.image with | none => false | some i => outputClaimed i.cells j
  let old := s.fld LIO.addr LIO.OUT
  let new := (List.range 16).foldl (fun x j => if mine j then setBit x j (bitOf v j) else x) old
  let s := s.setFld LIO.addr LIO.OUT new
  s.setBoot { s.boot with outLatched := (List.range 16).foldl (fun x j => if mine j && !bitOf v j then setBit x j false else x) s.boot.outLatched }

/-- The local outputs as they are driven. -/
def outputsOn (s : State) : Nat :=
  if s.boot.supply.ioLow then 0
  else (List.range 16).foldl (fun x j => setBit x j (bitOf (s.fld LIO.addr LIO.OUT) j && !bitOf s.boot.outLatched j)) 0

/-! LEDs (R461). -/

/-- What an LED shows. -/
inductive Led where
  | off | green | flashing | red
  deriving DecidableEq, Repr

def ledPwr (s : State) : Led :=
  if s.boot.off then .off
  else if s.boot.holdup ≠ 0 then .flashing
  else if s.boot.supply.revX17 ∨ s.boot.supply.revP3 ∨ supplyVolts s < 72 then .red
  else .green

def ledRun (s : State) : Led :=
  match s.fld MOD.addr MOD.STATE with
  | 1 => .green
  | 2 => .red
  | 5 => .red
  | _ => if s.fld MOD.addr MOD.STEP = 0 then .off else .flashing

def ledHalf (s : State) : Led :=
  match s.activeHalf with
  | none => .off
  | some h => if eligible s h.other then (if h = .a then .green else .flashing) else .red

def ledSafe (s : State) : Led :=
  let b := ISL.addr
  if s.isl.testing then .off
  else if islState s = 3 ∨ islState s = 2 ∨ s.flag b ISL.FP_MISMATCH then .red
  else if s.flag b ISL.COMM_ACT then .flashing
  else .green

def ledRing (s : State) : Led :=
  let l := (List.range 8).filter (fun r => ringConfigured s r)
  match s.activeHalf with
  | none => .off
  | some h =>
    if l.isEmpty then .off
    else if l.any (fun r => ringState s h r = 3 ∨ ringState s h r = 4) then .red
    else if l.all (fun r => ringState s h r = 2) && !(axisList s).any (fun k =>
        match axisPlace s k with
        | some (r, a, _) => decide (s.fld (NODE.addr h r (a - 1)) NODE.N_STATE = 3)
        | none => false) then .green
    else .flashing

def ledKey (s : State) : Led :=
  if s.fld MOD.addr MOD.STATE = 3 ∨ s.fld MOD.addr MOD.STATE = 4 then .flashing
  else if !keySame s ∨ s.flag MOD.addr MOD.KEY_FALLBACK then .red
  else .off

end Sys2Proof.Machine
end

