-- ==== Sys2Proof/Machine/HalfRegs.lean ====
section
/-! DEFINITION. What a write of each register of a half does, and what each register reads as, by its offset in the half
view (R24, R430 and the register tables of the chapters). -/
namespace Sys2Proof.Machine

/-- A write of a register by the access codes of its row alone (R6): RW bits are stored, W1C bits cleared where 1 is
written; reserved, RO, RC, WO and RWS bits stay. -/
def plainWrite (s : State) (a v : Nat) : State :=
  match regRowAt a with
  | none => s
  | some r =>
    let old := s.word a
    let x : Word := BitVec.ofNat 32 v
    let rw : Word := BitVec.ofNat 32 r.rw
    s.setWord a ((old &&& ~~~(rw ||| (x &&& BitVec.ofNat 32 r.w1c))) ||| (x &&& rw))

/-- A write of both words of a two-word quantity. -/
def plainQuad (s : State) (a v : Nat) : State := plainWrite (plainWrite s a (v % 2 ^ 32)) (a + 4) (v / 2 ^ 32)

/-- The bits of a register that a write leaves as they are where it does not reach them (R409): those a write stores. -/
def keptBits (s : State) (a : Nat) : Nat :=
  match regRowAt a with
  | none => 0
  | some r => (s.word a &&& BitVec.ofNat 32 (r.rw ||| r.rws)).toNat

/-- Event e is pending from an occurrence stamped after now: a clear does not clear it (R31). DEDUCED (log entry 106). -/
def laterEvent (s : State) (h : Half) (e : Nat) : Bool := decide (s.servoNow h < s.quad (EVTST.addr h e))

/-- The bits of word w of EVT.PEND that a clear of the bits v clears (R31, R335). DEDUCED (log entry 106). -/
def pendClears (s : State) (h : Half) (w v : Nat) : Nat :=
  (List.range 32).foldl (fun x i => if laterEvent s h (32 * w + i) then setBit x i false else x) v

/-- A binary32 pattern is finite and at least 0. -/
def f32NonNeg (w : Nat) : Bool := decide (w < 0x7F800000 ∨ w = 0x80000000)

/-- The binary32 value is stored where the test holds, else the write is discarded. -/
def writeIf (s : State) (c : Bool) (a v : Nat) : State := if c then plainWrite s a v else s

/-- Bits hi to lo of a value held between the bounds its register table gives: an outside value is stored as the nearer
bound. -/
def boundBits (v hi lo least most : Nat) : Nat := setBits v hi lo (Nat.max least (Nat.min most (bitsOf v hi lo)))

/-- A field outside the range its table states takes a free value. DESIGN CHOICE (log entry 101). -/
def freeBits (s : State) (v hi lo least most : Nat) : Nat × State :=
  if least ≤ bitsOf v hi lo ∧ bitsOf v hi lo ≤ most then (v, s)
  else
    let (x, s) := s.takeFree
    (setBits v hi lo x.toNat, s)

/-! Event controller, scheduler, time unit. -/

/-- A write of the event controller at a block offset. -/
def evtReg (s : State) (h : Half) (o v : Nat) : State :=
  plainWrite s (EVT.addr h + o) (if o < 0x20 then pendClears s h (o / 4) v else v)

/-- A write of the scheduler, a descriptor or the trace at a block offset (R325, R327, R334). -/
def schedReg (s : State) (h : Half) (o v : Nat) : State :=
  if o = 0 then postWrite s h (BitVec.ofNat 32 v)
  else if o = 0x14 then traceWrite s h v
  else if 0x10000 ≤ o ∧ o < 0x30000 then descWrite s h ((o - 0x10000) / 32) (o % 32 / 4) (BitVec.ofNat 32 v)
  else plainWrite s (SCHED.addr h + o) (if 0x44 ≤ o then boundBits v 7 0 1 255 else v)

/-- A register of time base b exists at block offset r (chapter 14). -/
def tbExists (b r : Nat) : Bool :=
  if r < 0x18 then true
  else if r < 0x20 then decide (b = 1 ∨ b = 2)
  else if r < 0x28 then decide (b ≠ 0)
  else if r < 0x30 then decide (b = 1 ∨ b = 2)
  else if r < 0x40 then true
  else if r < 0x48 then decide (b = 0)
  else decide (b = 3)

/-- A word of the staging copy of TB1 or TB2 (R466); an NS of 10^9 or more is discarded. -/
def tbStage (s : State) (h : Half) (b r v : Nat) : State :=
  let x := s.tb h b
  if r = 0 then s.setTb h b { x with stSec := setBits x.stSec 31 0 v }
  else if r = 4 then s.setTb h b { x with stSec := setBits x.stSec 63 32 v }
  else if r = 8 then (if v < 10 ^ 9 then s.setTb h b { x with stNs := v } else s)
  else s.setTb h b { x with stFrac := v % 2 ^ 16 }

/-- A write of TB.CFG: SRC 3 discards it, LOSS_CNT 0 is stored as 1. DEDUCED (log entry 102). -/
def tbCfg (s : State) (h : Half) (b v : Nat) : State :=
  if bitsOf v 1 0 = 3 then s
  else
    let (v, s) := freeBits s (boundBits v 7 4 1 15) 15 8 1 255
    let (v, s) := freeBits s v 31 16 1 65535
    waitLocked (plainWrite s (TB.addr h b + 0x28) v) h

/-- A write of a register of time base b. -/
def tbReg (s : State) (h : Half) (b r v : Nat) : State :=
  if !tbExists b r then s
  else if r < 0x10 then (if b = 1 ∨ b = 2 then tbStage s h b r v else s)
  else if r = 0x20 ∨ r = 0x24 then writeIf s (f32NonNeg v) (TB.addr h b + r) v
  else if r = 0x28 then tbCfg s h b v
  else if r = 0x38 then (if b = 1 ∨ b = 2 then tbCmd s h b v else s)
  else if r = 0x4C then alignWrite s h v
  else if r = 0x58 then
    let (v, s) := freeBits s v 23 16 0 80
    plainWrite s (TB.addr h b + r) v
  else if r = 0x5C then plainWrite s (TB.addr h b + r) (Nat.max 1000 v)
  else if r = 0x60 then plainWrite s (TB.addr h b + r) (boundBits v 15 0 10 60000)
  else plainWrite s (TB.addr h b + r) v

/-- A write of the time unit at a block offset. -/
def timeReg (s : State) (h : Half) (o v : Nat) : State :=
  if o < 0x400 then tbReg s h (o / 0x100) (o % 0x100) v
  else if 0x800 ≤ o ∧ o < 0x900 ∧ o % 16 = 0xC then alarmWrite s h ((o - 0x800) / 16) v
  else plainWrite s (TB.addr h 0 + o) v

/-- A two-word quantity of the time unit. -/
def timeQuad (s : State) (h : Half) (o v : Nat) : State :=
  let b := o / 0x100
  if o < 0x400 ∧ o % 0x100 = 0x10 then (if b = 1 ∨ b = 2 then rateWrite s h b v else s)
  else if o < 0x400 ∧ o % 0x100 = 0x18 then (if b = 1 ∨ b = 2 then waitLocked (softSample s h b v) h else s)
  else plainQuad s (TB.addr h 0 + o) v

/-! Profile units, arms, hoists, governor, engine. -/

/-- The image claims local input i for another use than axis k's inputs (R442, R444): uninterpreted, since R437 leaves the
section bodies to Deulate. -/
opaque inputClaimed : List (Nat × Byte) → Nat → Nat → Bool

/-- The image claims local input i for axis k's inputs (R70): uninterpreted likewise. -/
opaque inputOwned : List (Nat × Byte) → Nat → Nat → Bool

/-- A source byte names a local input that the image does not claim for axis k. -/
def sourceForeign (s : State) (k x : Nat) : Bool :=
  decide (x % 128 < 48) && (match s.image with | none => true | some i => !inputOwned i.cells (x % 128) k)

/-- A source byte of PRF.INPUT_CFG names a source. DESIGN CHOICE (log entry 103). -/
def sourceOk (x : Nat) : Bool := decide (x % 128 < 48 ∨ x % 128 = 64 ∨ x % 128 = 65 ∨ x % 128 = 66 ∨ x % 128 = 127)

/-- A source byte asks for a local input that the image claims otherwise. -/
def sourceTaken (s : State) (k x : Nat) : Bool :=
  decide (x % 128 < 48) && (match s.image with | none => false | some i => inputClaimed i.cells (x % 128) k)

/-- A write of PRF.INPUT_CFG (R70, R444). DESIGN CHOICE (log entry 103). -/
def inputCfg (s : State) (h : Half) (k v : Nat) : State :=
  let l := [bitsOf v 7 0, bitsOf v 15 8, bitsOf v 23 16]
  let b := PRF.addr h k
  if !l.all sourceOk then s.setFlag b PRF.PARAM_ERR
  else if l.any (fun x => sourceTaken s k x) then raiseBoth (s.setFlag b PRF.PARAM_ERR) 13
  else if l.any (fun x => sourceForeign s k x) then s.setFlag b PRF.PARAM_ERR
  else sampleInputs (plainWrite s (b + 0x80) v) h k

/-- A write of a register of profile unit k (R53, R62, R70). DESIGN CHOICE (log entry 29). -/
def prfReg (s : State) (h : Half) (k o v : Nat) : State :=
  let b := PRF.addr h k
  let check (c : Bool) : State := if c then plainWrite s (b + o) v else s.setFlag b PRF.PARAM_ERR
  if o = 0 then prfCommand s h k (bitsOf v 3 0) (bitsOf v 15 8)
  else if o = 0x1C ∨ o = 0x20 ∨ o = 0x24 ∨ o = 0x2C then check (decide (1 ≤ v ∧ v ≤ 0x7FFFFFFF))
  else if o = 0x28 ∨ o = 0x64 then check (decide (v ≠ 0))
  else if o = 0x80 then inputCfg s h k v
  else if o = 0x84 then plainWrite s (b + o) (boundBits (boundBits v 7 0 0 200) 15 8 0 200)
  else if o = 0xA0 then check (decide (bitsOf v 2 0 ≤ 5))
  else plainWrite s (b + o) v

/-- A write of a two-word quantity of profile unit k: SOFT_NEG stays below SOFT_POS (R68). -/
def prfQuad (s : State) (h : Half) (k o v : Nat) : State :=
  let b := PRF.addr h k
  let ok :=
    if o = 0x30 then decide (s.fldS b PRF.SOFT_NEG < toS 64 v)
    else if o = 0x38 then decide (toS 64 v < s.fldS b PRF.SOFT_POS)
    else true
  if ok then plainQuad s (b + o) v else s.setFlag b PRF.PARAM_ERR

/-- The bits of a word of a payload slot or of a descriptor of the path queue that software writes; the others are reserved (R7,
R89, R90). -/
def armMask (o : Nat) : Nat :=
  if o < 0x800 then (if (o - 0x400) % 48 = 0x28 then 1 else if (o - 0x400) % 48 = 0x2C then 0 else 2 ^ 32 - 1)
  else if o % 64 = 0 then 0x0FFF1FFF else 2 ^ 32 - 1

/-- The word of the model image at an arm's offset is live: FV, FC or V_C of a joint (R88). -/
def armLive (o : Nat) : Bool := decide (0x870 ≤ o ∧ o < 0xC60 ∧ 0x60 ≤ (o - 0x870) % 112 ∧ (o - 0x870) % 112 ≤ 0x68)

/-- A write of a register of arm j. -/
def armReg (s : State) (h : Half) (j o v : Nat) : State :=
  let a := ARM.addr h j + o
  if o = 0 then armCommand s h j (bitsOf v 3 0) (bitsOf v 15 8)
  else if o = 0x10 then qwrWrite s h j (v % 128)
  else if o = 0x20 then plainWrite s a (boundBits v 15 0 0 0x8000)
  else if o = 0x28 then plainWrite s a (boundBits (boundBits v 15 0 1 65535) 31 16 1 65535)
  else if o = 0x2C then plainWrite s a (boundBits v 7 0 50 100)
  else if 0x70 ≤ o ∧ o < 0xD0 then writeIf s (f32NonNeg v) a v
  else if armLive o then s.setWordN a v
  else if (0x400 ≤ o ∧ o < 0x580) ∨ 0x1000 ≤ o then plainWrite s a (v &&& armMask o)
  else plainWrite s a v

/-- A write of the governor's registers. -/
def govReg (s : State) (h : Half) (o v : Nat) : State :=
  let a := GOV.addr h + o
  if o = 0xC then govCmd s h v
  else if 0x10 ≤ o ∧ o < 0x1C then writeIf s (f32NonNeg v) a v
  else if 0x40 ≤ o ∧ o < 0x140 ∧ o % 16 = 0 then writeIf s (f32Positive v) a v
  else if 0x40 ≤ o ∧ o < 0x140 ∧ o % 16 = 4 then plainWrite s a (boundBits v 15 0 1 65535)
  else plainWrite s a v

/-- Three edges ascend strictly. -/
def edgesAscend (a b c : Nat) : Bool := decide (a < b ∧ b < c)

/-- A number that orders binary32 patterns as their values; none for a pattern that is no number. -/
def f32Order (w : Nat) : Option Int :=
  if 0x7F800000 < w % 2 ^ 31 then none else some (if w < 2 ^ 31 then (w : Int) else -((w % 2 ^ 31 : Nat) : Int))

/-- Three binary32 edges ascend strictly. -/
def f32Ascend (a b c : Nat) : Bool :=
  match f32Order a, f32Order b, f32Order c with
  | some x, some y, some z => decide (x < y ∧ y < z)
  | _, _, _ => false

/-- A write of one edge of a band table of axis k at its first edge's address: not strictly ascending edges discard it
(R128). The edges of the inertia bands are binary32. -/
def edgeWrite (s : State) (h : Half) (k base i v : Nat) : State :=
  let b := CE.addr h k + base
  let e (j : Nat) : Nat := if j = i then v else s.wordN (b + 4 * j)
  let ok := if base = 0x14 then f32Ascend (e 0) (e 1) (e 2) else edgesAscend (e 0) (e 1) (e 2)
  if ok then plainWrite s (b + 4 * i) v else s.setFlag (CE.addr h k) CE.PARAM_ERR

/-- A write of a register of axis k of the control engine. -/
def ceReg (s : State) (h : Half) (k o v : Nat) : State :=
  let a := CE.addr h k + o
  if o = 0 then modeWrite s h k (v % 8)
  else if o = 0xC then ceCommand s h k v
  else if o = 0x10 then plainWrite s a (boundBits v 4 0 0 25)
  else if 0x14 ≤ o ∧ o < 0x20 then edgeWrite s h k 0x14 ((o - 0x14) / 4) v
  else if 0x20 ≤ o ∧ o < 0x2C then edgeWrite s h k 0x20 ((o - 0x20) / 4) v
  else if o = 0x2C then plainWrite s a (Nat.max 1 v)
  else if o = 0x38 then plainWrite s a (boundBits (boundBits v 6 0 0 64) 11 8 1 15)
  else if o = 0x74 then plainWrite s a (boundBits v 14 0 2 16384)
  else if o = 0x78 then plainWrite s a (Nat.max 32768 v)
  else if o = 0x8C then plainWrite s a (boundBits v 21 16 0 60)
  else plainWrite s a v

/-! Solver array, cores, rings, CAN, acquisition. -/

/-- A write of the solver array at a block offset. -/
def solvReg (s : State) (h : Half) (o v : Nat) : State :=
  let a := SOLV.addr h + o
  if o < 0x80 then solverSubmit s h (o / 4) v
  else if o = 0x100 then writeIf s (decide (-40 ≤ toS 8 v ∧ toS 8 v ≤ -1)) a v
  else if o = 0x3484 then (if bitOf v 0 then spLoad s h (bitsOf v 3 1) (bitsOf v 4 4) else s)
  else if 0x1000 ≤ o ∧ o < 0x2200 ∧ o % 0x100 = 4 then chCtrl s h ((o - 0x1000) / 0x100) v
  else plainWrite s a v

/-- A write in the block of core k: its memories, its control registers and the debug image (R295, R296, R323).
DEDUCED (log entry 102). -/
def coreReg (s : State) (h : Half) (k o v : Nat) : State :=
  if o < 0x30000 then coreStore s h k (o / 0x10000) (o % 0x10000 / 4) (BitVec.ofNat 32 v)
  else if o = 0x30000 then
    let s := haltWrite s h k (bitOf v 0)
    if bitOf v 1 then stepCore s h k else s
  else if 0x31000 ≤ o ∧ o < 0x31400 then coreRegWrite s h k ((o - 0x31000) / 4) (BitVec.ofNat 32 v)
  else plainWrite s (CORE.addr h k + (o - 0x30000)) v

/-- A write of the controller of ring r; its schedule only while the ring neither starts nor runs (R273). -/
def ringReg (s : State) (h : Half) (r o v : Nat) : State :=
  let st := ringState s h r
  if o = 0 then ringCtrl s h r v
  else if o = 0x400 then mbxCtrl s h r v
  else if 0x1000 ≤ o ∧ o < 0x1600 then writeIf s (decide (st = 0 ∨ st = 3 ∨ st = 4)) (RING.addr h r + o) v
  else plainWrite s (RING.addr h r + o) v

/-- A write of TX.CTRL of a buffer: whether a pending buffer is just sending is not in the state, so the answer is a free
value. DESIGN CHOICE (log entry 104). -/
def txCtrlAny (s : State) (h : Half) (c b v : Nat) : State :=
  if bitOf v 9 && txPending s h c b then
    let (x, s) := s.takeFree
    txCtrl s h c b v (bitOf x.toNat 0)
  else txCtrl s h c b v false

/-- A write of CAN channel c; STAMP and the reserved words of a transmit buffer take none (R6, R7). -/
def canReg (s : State) (h : Half) (c o v : Nat) : State :=
  if o = 0 then canCtrl s h c v
  else if o = 8 ∨ o = 0xC ∨ o = 0x10 then canTiming s h c o v
  else if o = 0x18 then canCmd s h c v
  else if o = 0x2C then cqAck s h c (v % 64)
  else if 0x100 ≤ o ∧ o < 0x280 then
    let b := (o - 0x100) / 0x80
    let r := (o - 0x100) % 0x80
    if r = 4 then txCtrlAny s h c b v
    else if r = 0xC ∧ !txPending s h c b then plainWrite s (CAN.addr h c + o) v
    else if r ≤ 0xC ∨ 0x40 ≤ r then txWord s h c b r v
    else s
  else plainWrite s (CAN.addr h c + o) v

/-- An armed record of a half uses a channel (R395). -/
def chanArmed (s : State) (h : Half) (c : Nat) : Bool :=
  (s.acq h).recs.any (fun x => (recChans s h x.num).contains c)

/-- Record r is armed: filling, armed, post-trigger or re-arming. -/
def recArmed (s : State) (h : Half) (r : Nat) : Bool :=
  let st := s.fld (REC.addr h r) REC.R_STATE
  decide (st = 1 ∨ st = 2 ∨ st = 3 ∨ st = 5)

/-- A write of the acquisition engine at a block offset (R394 to R398). -/
def acqReg (s : State) (h : Half) (o v : Nat) : State :=
  let a := ACQ.addr h + o
  let refuse : State := s.setFlag (ACQ.addr h) ACQ.PARAM_ERR
  if o = 0 then acqCtrl s h v
  else if 0x1000 ≤ o ∧ o < 0x1200 then
    if chanArmed s h ((o - 0x1000) / 8) then refuse
    else if o % 8 = 0 ∧ (sigFormat v).isNone then refuse
    else plainWrite s a v
  else if 0x4000 ≤ o ∧ o < 0x8000 then
    let r := (o - 0x4000) / 64
    if o % 64 = 0x30 then recCmd s h r v
    else if recArmed s h r then refuse
    else plainWrite s a (if o % 64 = 0x18 then Nat.max 1 v else v)
  else plainWrite s a v

/-- A write of the word at an offset of a half view (R430). -/
def halfWrite (s : State) (h : Half) (o v : Nat) : State :=
  if o < 0x100000 then (if o = 0x120 then spCtrl s h v else plainWrite s (SYS.addr h + o) v)
  else if o < 0x200000 then evtReg s h (o - 0x100000) v
  else if o < 0x300000 then schedReg s h (o - 0x200000) v
  else if o < 0x400000 then timeReg s h (o - 0x300000) v
  else if o < 0x408000 then prfReg s h ((o - 0x400000) / 0x100) (o % 0x100) v
  else if o < 0x420000 then s
  else if o < 0x440000 then armReg s h ((o - 0x420000) / 0x2000) (o % 0x2000) v
  else if o < 0x460000 then plainWrite s (HOIST.addr h + (o - 0x440000)) v
  else if o < 0x800000 then govReg s h (o - 0x460000) v
  else if o < 0x808000 then ceReg s h ((o - 0x800000) / 0x100) (o % 0x100) v
  else if o < 0xE00000 then plainWrite s (viewBase h + o) v
  else if o < 0x1000000 then learnWrite s h ((o - 0xE00000) / 4) (BitVec.ofNat 32 v)
  else if o < 0x2000000 then solvReg s h (o - 0x1000000) v
  else if o < 0x2600000 then coreReg s h ((o - 0x2000000) / 0x40000) (o % 0x40000) v
  else if o < 0x3080000 then ringReg s h ((o - 0x3000000) / 0x10000) (o % 0x10000) v
  else if o < 0x3400000 then s
  else if o < 0x3404000 then canReg s h ((o - 0x3400000) / 0x1000) (o % 0x1000) v
  else if o < 0x3600000 then plainWrite s (viewBase h + o) v
  else if o < 0x3700000 then acqReg s h (o - 0x3600000) v
  else if o = 0x3700004 then plainWrite s (viewBase h + o) (boundBits v 5 0 5 50)
  else if o = 0x3700008 then fixMax (plainWrite s (viewBase h + o) v) h
  else plainWrite s (viewBase h + o) v

/-- A write of the two-word quantity at an offset of a half view (R5). -/
def halfWriteQuad (s : State) (h : Half) (o v : Nat) : State :=
  if 0x210000 ≤ o ∧ o < 0x230000 then halfWrite (halfWrite s h o (v % 2 ^ 32)) h (o + 4) (v / 2 ^ 32)
  else if 0x300000 ≤ o ∧ o < 0x400000 then timeQuad s h (o - 0x300000) v
  else if 0x400000 ≤ o ∧ o < 0x408000 then prfQuad s h ((o - 0x400000) / 0x100) (o % 0x100) v
  else if o = 0x440008 then hoistGo (plainQuad s (viewBase h + o) v) h
  else if 0x3604000 ≤ o ∧ o < 0x3608000 ∧ recArmed s h ((o - 0x3604000) / 64) then s.setFlag (ACQ.addr h) ACQ.PARAM_ERR
  else plainQuad s (viewBase h + o) v

/-! What a register reads as. -/

/-- The stored value of a register, without the bits that only a write reaches; RC bits clear (R6). -/
def plainRead (s : State) (a : Nat) : Nat × State :=
  match regRowAt a with
  | none => (0, s)
  | some r =>
    let w := s.word a
    ((w &&& ~~~(BitVec.ofNat 32 r.wo)).toNat, if r.rc = 0 then s else s.setWord a (w &&& ~~~(BitVec.ofNat 32 r.rc)))

/-- A word of the value of a time base: SEC low and high, NS, FRAC (R339, R340). -/
def tbValue (s : State) (h : Half) (b i : Nat) : Nat :=
  let ns := baseNs s h b
  let frac := if b = 0 then 0 else (s.tb h b).val % tbUnit / 2 ^ 32
  [ns / 10 ^ 9 % 2 ^ 32, ns / 10 ^ 9 / 2 ^ 32 % 2 ^ 32, ns % 10 ^ 9, frac].getD i 0

/-- A register of the time unit. -/
def timeRead (s : State) (h : Half) (o : Nat) : Nat × State :=
  let b := o / 0x100
  let r := o % 0x100
  if o < 0x400 then
    if !tbExists b r then (0, s)
    else if r < 0x10 then (tbValue s h b (r / 4), s)
    else if o = 0x30 then (1, s)
    else if o = 0x40 then (s.tb0 % 2 ^ 32, s)
    else if o = 0x44 then (s.tb0 / 2 ^ 32 % 2 ^ 32, s)
    else plainRead s (TB.addr h 0 + o)
  else plainRead s (TB.addr h 0 + o)

/-- Items in the list of a group (R328). -/
def groupReady (s : State) (h : Half) (g : Nat) : Nat :=
  ((s.sched h).live.filter (fun x => decide (x.st = .ready) && !itemUrgent s h x.num && decide (itemGroup s h x.num = g))).length

/-- Idle cores of a half. -/
def idleCores (s : State) (h : Half) : Nat := ((s.half h).cores.filter (fun c => c.idle)).length

/-- A register of the scheduler or a descriptor. -/
def schedRead (s : State) (h : Half) (o : Nat) : Nat × State :=
  let p := plainRead s (SCHED.addr h + o)
  let v := p.1
  let s := p.2
  if o = 4 then (setBits v 10 0 (idleCores s h + Nat.min 63 (s.sched h).urgent.length * 32), s)
  else if 0x44 ≤ o ∧ o < 0x80 then (setBits v 19 8 (groupReady s h ((o - 0x40) / 4)), s)
  else if 0x10000 ≤ o ∧ o < 0x30000 ∧ o % 32 = 0x18 then (itemState s h ((o - 0x10000) / 32), s)
  else (v, s)

/-- Word w of a map of one bit per axis. -/
def axisMap (w : Nat) (f : Nat → Bool) : Nat := (List.range 32).foldl (fun x i => setBit x i (f (32 * w + i))) 0

/-- CORE.STATUS (chapter 12). -/
def coreStatus (s : State) (h : Half) (k : Nat) : Nat :=
  let c := s.core h k
  let st := if c.halted then 2 else if c.idle then 0 else if decide (c.stall = .none) && c.far.isNone then 1 else 3
  st + 4 * b2n c.urgItem.isSome + 8 * b2n (bitOf c.stat 16) + 16 * c.copies.length +
    2 ^ 16 * (c.urgItem.getD (c.item.getD 0) % 4096)

/-- A word in the block of core k. -/
def coreRead (s : State) (h : Half) (k o : Nat) : Nat × State :=
  if o < 0x30000 then (s.memN (coreMemAddr h k (o / 0x10000) (o % 0x10000 / 4)), s)
  else if o = 0x30004 then (coreStatus s h k, s)
  else if o = 0x30010 then ((s.core h k).pc % 8192, s)
  else if 0x31000 ≤ o ∧ o < 0x31400 then ((coreRegRead s h k ((o - 0x31000) / 4)).toNat, s)
  else plainRead s (CORE.addr h k + (o - 0x30000))

/-- A word of CAN channel c: the head and the words of a mailbox lock and release it (R389). -/
def canRead (s : State) (h : Half) (c o : Nat) : Nat × State :=
  if 0x400 ≤ o ∧ o < 0xE00 then
    let m := (o - 0x400) / 0x50
    let r := (o - 0x400) % 0x50
    if r = 0 then mailboxHead s h c m else mailboxRead s h c m r
  else plainRead s (CAN.addr h c + o)

/-- A read of the word at an offset of a half view (R430). -/
def halfRead (s : State) (h : Half) (o : Nat) : Nat × State :=
  if 0x200000 ≤ o ∧ o < 0x300000 then schedRead s h (o - 0x200000)
  else if 0x300000 ≤ o ∧ o < 0x400000 then timeRead s h (o - 0x300000)
  else if 0x408000 ≤ o ∧ o < 0x408010 then (axisMap ((o - 0x408000) / 4) (fun k => s.flag (PRF.addr h k) PRF.REF), s)
  else if 0x408010 ≤ o ∧ o < 0x408020 then
    (axisMap ((o - 0x408010) / 4) (fun k => s.flag (PRF.addr h k) PRF.LIM_P_LAT || s.flag (PRF.addr h k) PRF.LIM_N_LAT), s)
  else if 0x440020 ≤ o ∧ o < 0x440060 ∧ o % 8 = 4 then
    let (v, s) := hoistRead s h ((o - 0x440020) / 8)
    (v / 2 ^ 32, s)
  else if 0x800000 ≤ o ∧ o < 0x808000 ∧ o % 0x100 = 0x10 then
    let k := (o - 0x800000) / 0x100
    let (v, s) := plainRead s (viewBase h + o)
    (if (axisList s).contains k && (armOf s h k).isNone then setBit v 7 true else v, s)
  else if 0x808000 ≤ o ∧ o < 0x808010 then (axisMap ((o - 0x808000) / 4) (fun k => decide (s.wordN (CE.addr h k + 4) ≠ 0)), s)
  else if 0xE00000 ≤ o ∧ o < 0x1000000 then
    let w := (o - 0xE00000) / 4
    (s.memN (learnAddr h (32 * s.fld (CELM.addr h) CELM.LM_PAGE + w / 16384) (w % 16384)), s)
  else if 0x1001000 ≤ o ∧ o < 0x1002200 ∧ o % 0x100 = 0 then
    let (v, s) := plainRead s (viewBase h + o)
    (setBits v 8 8 (b2n (decide (0x1002000 ≤ o))), s)
  else if 0x2000000 ≤ o ∧ o < 0x2600000 then coreRead s h ((o - 0x2000000) / 0x40000) (o % 0x40000)
  else if 0x3000000 ≤ o ∧ o < 0x3080000 ∧ o % 0x10000 = 4 then
    let (v, s) := plainRead s (viewBase h + o)
    (setBits v 15 8 (ringEpoch s ((o - 0x3000000) / 0x10000)), s)
  else if 0x3400000 ≤ o ∧ o < 0x3404000 then canRead s h ((o - 0x3400000) / 0x1000) (o % 0x1000)
  else plainRead s (viewBase h + o)

end Sys2Proof.Machine
end

