-- ==== Sys2Proof/Machine/Access.lean ====
section
/-! DEFINITION. The module address space (R24, R430) and an access of a master to it: decoding, the active view, snapshots
and staging (R25, R406 to R409). -/
namespace Sys2Proof.Machine

/-- The offset of a half view is decoded (R430). -/
def halfDecoded (o : Nat) : Bool :=
  decide (o < 0xCC0000 ∨ (0xE00000 ≤ o ∧ o < 0x2600000) ∨ (0x3000000 ≤ o ∧ o < 0x3080000) ∨ (0x3400000 ≤ o ∧ o < 0x3800000))

/-- The offset of the common view is decoded (R430). DEDUCED (log entry 99). -/
def commonDecoded (o : Nat) : Bool :=
  decide (o < 0x232000 ∨ (0x280000 ≤ o ∧ o < 0xC00000) ∨ (0x1000000 ≤ o ∧ o < 0x4000000))

/-- The offset of the common view lies in an outbound window (R416). -/
def outboundOff (o : Nat) : Bool := decide ((0x210000 ≤ o ∧ o < 0x232000) ∨ (0x280000 ≤ o ∧ o < 0x300000))

/-- What stands at a module address, once the active view is resolved: nothing, an outbound window, memory reached byte by
byte (DRAM, retained MRAM), or a register or window of words. -/
inductive Place where
  | nothing
  | outbound
  | bytes
  | words
  deriving DecidableEq, Repr

/-- The place of a module address. -/
def placeOf (a : Nat) : Place :=
  if a < 0x100000000 then .bytes
  else if a < 0x1010000000 then .nothing
  else if a < 0x1030000000 then (if halfDecoded (a % 0x10000000) then .words else .nothing)
  else if a < 0x1040000000 then
    let o := a - commonBase
    if outboundOff o then .outbound
    else if 0x400000 ≤ o ∧ o < 0xC00000 then .bytes
    else if commonDecoded o then .words else .nothing
  else .nothing

/-- The address lies in the active view. -/
def inActive (a : Nat) : Bool := decide (activeBase ≤ a ∧ a < 0x1010000000)

/-- A register or window of the common view is protected by the seal (R8): it holds an RWS field. -/
def sealed (o : Nat) : Bool :=
  decide (o = 0x100000C ∨ o = 0x1000018 ∨ o = 0x1001008 ∨ o = 0x1002010 ∨ (0x1800000 ≤ o ∧ o < 0x1900000))

/-- A write of a sealed register while the seal is open. -/
def sealedWrite (s : State) (o v : Nat) : State :=
  if o = 0x100000C then (if bitOf v 0 then loadSection s else s)
  else if o = 0x1000018 then fpAccept s v
  else if o = 0x1001008 then (if bitOf v 4 then ssmTest s (v % 16) else s.setFld SSM.addr SSM.TEST_ARM (v % 16))
  else if o = 0x1002010 then (if bitOf v 0 then smsgClear s else s)
  else stagingWrite s (o - 0x1800000) (BitVec.ofNat 32 v)

/-- A write of the word at an offset of the common view (R430). -/
def commonWrite (s : State) (o v : Nat) : State :=
  let a := commonBase + o
  if sealed o then rwsWrite s (o - 0x1000000) (fun s => sealedWrite s o v)
  else if o = 0x1C then modCmd s v
  else if o = 0x1004 then penCmd s v
  else if o = 0x1008 then plainWrite s a (boundBits v 9 0 1 600)
  else if o = 0x300008 then outWrite s (v % 2 ^ 16)
  else if o = 0x2000004 then keyCmd s v
  else if 0x3000000 ≤ o then keyWrite s (o - 0x3000000) (BitVec.ofNat 32 v)
  else if o = 0x200200 then vecPendClear s v
  else if o = 0x200204 then vecPendClear s (v * 2 ^ 32)
  else if o = 0x2000A0 then hlPulse s (bitsOf v 23 16)
  else if 0x200000 ≤ o ∧ o < 0x210000 then bpiReg s plainWrite (o - 0x200000) v
  else plainWrite s a v

/-- A read of the word at an offset of the common view (R430). -/
def commonRead (s : State) (o : Nat) : Nat × State :=
  if o = 4 then (Config.serial.toNat % 2 ^ 32, s)
  else if o = 8 then (Config.serial.toNat / 2 ^ 32, s)
  else if o = 0x1020 then (penHalfWord s .a, s)
  else if o = 0x1024 then (penHalfWord s .b, s)
  else if o = 0x1040 then (setBits (s.wordN (commonBase + o)) 5 5 (b2n (peerEligible s)), s)
  else if o = 0x200090 then
    let w := s.wordN (commonBase + o)
    let w := if sysctl s then w else setBits (setBits w 3 0 0) 15 8 0
    (setBits (setBits w 19 16 (busAsserted s false)) 31 24 (busAsserted s true), s)
  else if o = 0x2000B0 then (setBits (s.wordN (commonBase + o)) 15 0 Config.vendorId.toNat, s)
  else if o = 0x2000000 then (keyStatusWord s, s)
  else if 0x3000000 ≤ o then ((keyRead s (o - 0x3000000)).toNat, s)
  else if 0x1800000 ≤ o ∧ o < 0x1900000 then
    let i := o - 0x1800000
    let b (k : Nat) : Nat := (storeGet 0 s.isl.staged (i + k)).toNat
    (b 0 + b 1 * 2 ^ 8 + b 2 * 2 ^ 16 + b 3 * 2 ^ 24, s)
  else plainRead s (commonBase + o)

/-- The half of an address in a half view. -/
def halfOfAddr (a : Nat) : Half := if a < 0x1020000000 then .a else .b

/-- A read of the word at an aligned address of a register or window. -/
def regRead (s : State) (a : Nat) : Nat × State :=
  if commonBase ≤ a then commonRead s (a - commonBase) else halfRead s (halfOfAddr a) (a % 0x10000000)

/-- A write of the word at an aligned address of a register or window. -/
def regWrite (s : State) (a v : Nat) : State :=
  if commonBase ≤ a then commonWrite s (a - commonBase) v else halfWrite s (halfOfAddr a) (a % 0x10000000) v

/-- A write of the two-word quantity at an address. -/
def regWriteQuad (s : State) (a v : Nat) : State :=
  if a = commonBase + 0x200200 then vecPendClear s v
  else if commonBase ≤ a then plainQuad s a v
  else halfWriteQuad s (halfOfAddr a) (a % 0x10000000) v

/-! Snapshots and staging (R409, R466). -/

/-- The address lies in the four words of a time base's value. DEDUCED (log entry 99). -/
def inTbValue (a : Nat) : Bool :=
  let o := a % 0x10000000
  decide (a < commonBase ∧ 0x300000 ≤ o ∧ o < 0x300400 ∧ o % 0x100 < 0x10)

/-- The quantity a part belongs to: its first address and its bytes. reading: the four words of a time base's value are one
quantity to a reader; a writer writes words of the block's staging copy (R466). -/
def quantityAt (a : Nat) (reading : Bool) : Nat × Nat :=
  let w := a / 4 * 4
  if inTbValue a then (if reading then (a / 16 * 16, 16) else (w, 4))
  else
    match regRowAt w with
    | some r => if r.part = 1 then (w, 8) else if r.part = 2 then (w - 4, 8) else (w, 4)
    | none => (w, 4)

/-- n words from an address as one number, each read once in ascending order. DEDUCED (log entry 100). -/
def readWords (s : State) (a : Nat) : Nat → Nat × State
  | 0 => (0, s)
  | n + 1 =>
    let (v, s) := regRead s a
    let (w, s) := readWords s (a + 4) n
    (v + 2 ^ 32 * w, s)

/-- The value a word keeps where a write does not reach all of it: what is stored there. DEDUCED (log entry 100). -/
def keptWord (s : State) (a : Nat) : Nat :=
  if inTbValue a then
    let x := s.tb (halfOfAddr a) (a % 0x1000 / 0x100)
    [x.stSec % 2 ^ 32, x.stSec / 2 ^ 32, x.stNs, x.stFrac].getD (a % 16 / 4) 0
  else if (regRowAt a).isSome then keptBits s a
  else (regRead s a).1

/-- The buffers of a master's port. -/
def State.port (s : State) (m : Master) : PortBuf := unitAt .reset s.bus.ports (masterPort m)

/-- The buffers of a master's port take a new value. -/
def State.setPort (s : State) (m : Master) (p : PortBuf) : State :=
  s.setBus { s.bus with ports := s.bus.ports.set (masterPort m) p }

/-- A value with n bytes at byte offset o replaced. -/
def putPart (x o n v : Nat) : Nat := setBits x (8 * (o + n) - 1) (8 * o) v

/-- n bytes of a value from byte offset o on. -/
def getPart (x o n : Nat) : Nat := x / 2 ^ (8 * o) % 2 ^ (8 * n)

/-- A read of n bytes at an address of a register or window, by a master (R409). DEDUCED (log entry 100). -/
def portRead (s : State) (m : Master) (a n : Nat) : Nat × State :=
  let q := quantityAt a true
  if q.2 = n then readWords s q.1 (q.2 / 4)
  else if a = q.1 then
    let (v, s) := readWords s q.1 (q.2 / 4)
    (getPart v 0 n, s.setPort m { s.port m with snap := some (q.1, q.2, v) })
  else
    match (s.port m).snap with
    | some (b, _, v) => if b = q.1 then (getPart v (a - b) n, s) else (getPart (regRead s (a / 4 * 4)).1 (a % 4) n, s)
    | none => (getPart (regRead s (a / 4 * 4)).1 (a % 4) n, s)

/-- A staged write of another quantity is discarded and counted (R409). -/
def dropStage (s : State) (m : Master) (b : Nat) : State :=
  match (s.port m).stage with
  | none => s
  | some (b', _) =>
    if b' = b then s else (s.setPort m { s.port m with stage := none }).count BPI.addr BPI.STAGE_DROP

/-- The parts staged for a quantity. -/
def stagedParts (s : State) (m : Master) (b : Nat) : List (Nat × Nat × Nat) :=
  match (s.port m).stage with
  | none => []
  | some (b', l) => if b' = b then l else []

/-- What a commit writes: the stored value with the staged parts in it. -/
def mergeParts (x : Nat) (l : List (Nat × Nat × Nat)) : Nat := l.foldl (fun x p => putPart x p.1 p.2.1 p.2.2) x

/-- The value of a quantity of sz bytes where nothing is written. -/
def keptQuantity (s : State) (b sz : Nat) : Nat := if sz = 8 then keptWord s b + 2 ^ 32 * keptWord s (b + 4) else keptWord s b

/-- A write of n bytes at an address of a register or window, by a master: staged, or committed with the highest part.
DEDUCED (log entry 99). -/
def portWrite (s : State) (m : Master) (a n v : Nat) : State :=
  let q := quantityAt a false
  let s := dropStage s m q.1
  let old := stagedParts s m q.1
  let part := (a - q.1, n, v)
  if a + n < q.1 + q.2 then
    s.setPort m { s.port m with stage := some (q.1, old.filter (fun p => decide (p.1 ≠ a - q.1)) ++ [part]) }
  else
    let x := mergeParts (keptQuantity s q.1 q.2) (old ++ [part])
    let s := s.setPort m { s.port m with stage := none }
    if q.2 = 8 then regWriteQuad s q.1 x else regWrite s q.1 x

/-! One access. -/

/-- How an access ended: with the data read (0 for a write), lost with the KIND or cause (1 undecoded, 2 refused by the
seal, 8 no active half, 9 an outbound window refused to a backplane master), or waiting for the active view or the bus. -/
inductive Reply where
  | data (v : Nat)
  | lost (kind : Nat)
  | wait
  deriving DecidableEq, Repr

/-- n bytes of memory from an address, little-endian. -/
def bytesRead (s : State) (a n : Nat) : Nat := bytesAt (s.memBytes a n) 0 n

/-- n bytes of memory from an address take a value. -/
def bytesWrite (s : State) (a n v : Nat) : State :=
  s.setMemBytes a ((List.range n).map (fun i => BitVec.ofNat 8 (v / 256 ^ i)))

/-- An access that the map does not decode (R407). DEDUCED (log entry 110). -/
def undecoded (s : State) (m : Master) (a kind : Nat) : State := raiseBoth (errRecord s kind m a) 247

/-- The master reaches the module through a backplane window. -/
def byBackplane (m : Master) : Bool := decide (m = .k16) || decide (m = .k32)

/-- An access of a master of n bytes (2 or 4, aligned) at a module address a whose half is resolved; shown is the address the
master used. -/
def accessAt (s : State) (m : Master) (shown a n : Nat) (write : Option Nat) : Reply × State :=
  match placeOf a with
  | .nothing => (.lost 1, undecoded s m shown 1)
  | .outbound =>
    if byBackplane m then (.lost 9, undecoded s m a 2)
    else (.wait, s.setBus { s.bus with outs := s.bus.outs ++ [⟨m, a, write.map (BitVec.ofNat 32), s.tb0⟩] })
  | .bytes =>
    match write with
    | none => (.data (bytesRead s a n), s)
    | some v => (.data 0, bytesWrite s a n v)
  | .words =>
    match write with
    | none =>
      let (v, s) := portRead s m a n
      (.data v, s)
    | some v =>
      let refused := decide (commonBase ≤ a) && sealed (a / 4 * 4 - commonBase) && !s.flag ISL.addr ISL.SEAL_WE
      let t := portWrite s m a n v
      (if refused then .lost 2 else .data 0, t)

/-- An access of a master at a module address (R25, R406, R463): one through the active view is resolved when it is
accepted, held while the pennant moves, and lost while no half is active. -/
def access (s : State) (m : Master) (a n : Nat) (write : Option Nat) : Reply × State :=
  if inActive a then
    if s.hold then (.wait, { s with held := s.held ++ [⟨m, a, n, write.map (BitVec.ofNat 32)⟩] })
    else
      match s.activeHalf with
      | none => (.lost 8, undecoded s m a 8)
      | some h => accessAt s m a (viewBase h + (a - activeBase)) n write
  else accessAt s m a a n write

/-- The bytes of a part: 2 on K16, 4 elsewhere (R406). -/
def partBytes (m : Master) : Nat := if m = .k16 then 2 else 4

/-- What a read that ended returns to a master that does not fault. -/
def Reply.value : Reply → Nat
  | .data v => v
  | _ => 0

/-- The reply is there. -/
def Reply.ended : Reply → Bool
  | .wait => false
  | _ => true

/-- An access of a master that no instruction of a core stands for: the data go to the master's port, and a core whose
access is lost takes fault 2. -/
def masterAccess (s : State) (m : Master) (a n : Nat) (write : Option Nat) : State :=
  match access s m a n write with
  | (.data v, s) => if write.isNone then s.answer m (BitVec.ofNat 64 v) else s
  | (.lost _, s) => failMaster (if write.isNone then s.answer m 0 else s) m
  | (.wait, s) => s

end Sys2Proof.Machine
end

