-- ==== Sys2Proof/Machine/BusRun.lean ====
section
/-! DEFINITION. Accesses that wait, the cores' far accesses and copies, the outbound windows, the service port, the PCI Express
endpoint and the backplane's slave cycles (R316, R317, R410 to R417, R426 to R429). -/
namespace Sys2Proof.Machine

/-! The service port (R429). -/

/-- A word of the running request ended: its data join the reply, the first failure gives STATUS. -/
def svcTake (s : State) (read : Bool) (r : Reply) : State :=
  match s.bus.svc with
  | none => s
  | some x =>
    let st := match r with | .lost 1 => 1 | .lost 2 => 2 | _ => 0
    let x := { x with status := if x.status = 0 then st else x.status,
                      data := if read then x.data ++ [BitVec.ofNat 32 r.value] else x.data }
    s.setBus { s.bus with svc := some x }

/-- The words of a request run in ascending order until one waits; after the last the reply goes out.
DEDUCED (log entry 108). -/
def svcRun (s : State) : List (Nat × Option Word) → State
  | [] => s.setBus { s.bus with svcTodo := [], svcBusy := false, svcReply := s.bus.svc }
  | (a, w) :: t =>
    match access s .service a 4 (w.map BitVec.toNat) with
    | (.wait, s) => s.setBus { s.bus with svcTodo := t }
    | (r, s) => svcRun (svcTake s w.isNone r) t

/-- The service port answers: an image in use gives it its address and may switch it off (R429). DEDUCED (log entry 108). -/
def serviceOpen (s : State) : Bool := s.image.isSome && !s.cfg.svcOff

/-- A request has the form R429 gives it. -/
def svcFormOk (b : List Byte) : Bool :=
  let op := bytesAt b 1 1
  let n := bytesAt b 2 2
  let a := bytesAt b 8 8
  decide (16 ≤ b.length ∧ bytesAt b 0 1 = 1 ∧ (op = 1 ∨ op = 2) ∧ 1 ≤ n ∧ n ≤ 64 ∧ a < 2 ^ 40 ∧ a % 4 = 0 ∧
    b.length = (if op = 2 then 16 + 4 * n else 16))

/-- The accesses of a request. -/
def svcWords (b : List Byte) : List (Nat × Option Word) :=
  let a := bytesAt b 8 8
  (List.range (bytesAt b 2 2)).map (fun i =>
    (a + 4 * i, if bytesAt b 1 1 = 2 then some (BitVec.ofNat 32 (bytesAt b (16 + 4 * i) 4)) else none))

/-- A request datagram from a source (R429). DEDUCED (log entry 108). -/
def serviceRequest (s : State) (src : Nat) (b : List Byte) : State :=
  let run : SvcRun := ⟨src, bytesAt b 4 2, bytesAt b 1 1 % 4, 0, []⟩
  if !serviceOpen s then s
  else if s.bus.svcBusy then s.setBus { s.bus with svcReply := some { run with status := 4 } }
  else
    let same := match s.bus.svc with | none => false | some x => decide (x.src = src ∧ x.seq = run.seq)
    if same then s.setBus { s.bus with svcReply := s.bus.svc }
    else if svcFormOk b then
      svcRun (s.setBus { s.bus with svc := some run, svcBusy := true }) (svcWords b)
    else
      let x := { run with status := 3 }
      s.setBus { s.bus with svc := some x, svcReply := some x }

/-! Far accesses of the cores (R316) and accesses that have waited. -/

/-- The far access of core k has completed: a load's value is visible to the next instruction. -/
def farDone (s : State) (h : Half) (k : Nat) (f : FarAcc) (v : Nat) : State :=
  let c := s.core h k
  let c := if f.store.isNone then { c with d := c.d.set f.dest (BitVec.ofNat 32 v) } else c
  haltCheck (s.setCore h k { c with far := none }) h k

/-- The access that stands for core k's far access at an address ended. -/
def coreEnded (s : State) (h : Half) (k : Fin 24) (f : FarAcc) (r : Reply) : State :=
  match r with
  | .data v => farDone s h k.val f v
  | .lost _ => coreFault s h k.val 2 f.at_
  | .wait => s

/-- An access that waited has ended (read: it was a read): its master goes on. -/
def accessEnded (s : State) (m : Master) (a : Nat) (read : Bool) (r : Reply) : State :=
  if !r.ended then s
  else
    match m with
    | .core h k =>
      match (s.core h k.val).far with
      | some f =>
        if f.addr = a then coreEnded s h k f r
        else
          match r with
          | .lost _ => failMaster s m
          | _ => if read then s.answer m (BitVec.ofNat 64 r.value) else s
      | none =>
        match r with
        | .lost _ => failMaster s m
        | _ => if read then s.answer m (BitVec.ofNat 64 r.value) else s
    | .service => if s.bus.svcBusy then svcRun (svcTake s read r) s.bus.svcTodo else s
    | .pcie => if read then { s with pci := { s.pci with reply := s.pci.reply ++ leBytes 4 r.value } } else s
    | _ => if read then s.answer m (BitVec.ofNat 64 r.value) else s

/-- A master's access at an address waits for the active view or the bus. -/
def accessWaits (s : State) (m : Master) (a : Nat) : Bool :=
  s.held.any (fun x => decide (x.m = m ∧ x.addr = a)) || s.bus.outs.any (fun x => decide (x.m = m ∧ x.addr = a))

/-- FAR_ACCESS_COMPLETE: the access of a core's FLD or FST runs; lost: the slots the stall cost. DEDUCED (log entry 21). -/
def farAccess (s : State) (h : Half) (k : Fin 24) (lost : Nat) : State :=
  match (s.core h k.val).far with
  | none => s
  | some f =>
    if accessWaits s (.core h k) f.addr then s
    else
      match access (lostSlots s h k.val lost) (.core h k) f.addr 4 (f.store.map BitVec.toNat) with
      | (r, s) => coreEnded s h k f r

/-- ACTIVE_VIEW_HOLD_RELEASE: the held accesses run on the new active half in their order (R25). DEDUCED (log entry 115). -/
def holdRelease (s : State) : State :=
  let (l, s) := takeHeld s
  l.foldl (fun s x =>
    match access s x.m x.addr x.bytes (x.write.map BitVec.toNat) with
    | (r, s) => accessEnded s x.m x.addr x.write.isNone r) s

/-! Outbound accesses (R416, R417). -/

/-- Where an address of an outbound window leads: whether K32, the bus address (a word of K16, a byte of K32), and whether
it is K16 I/O space. -/
def outTarget (s : State) (a : Nat) : Bool × Nat × Bool :=
  let o := a - commonBase
  if o < 0x230000 then (false, (o - 0x210000) / 2, false)
  else if o < 0x280000 then (false, (o - 0x230000) / 2, true)
  else (true, s.fld BPI.addr BPI.K32_OUT * 0x80000 + (o - 0x280000), false)

/-- The bus cycles of a 32-bit access: two on K16, lower word first, one on K32. DEDUCED (log entry 110). -/
def outCycles (s : State) (a : Nat) (write : Option Word) : List (Bool × Nat × Option Nat) :=
  let (k32, w, io) := outTarget s a
  let v := write.map BitVec.toNat
  if k32 then [(true, w, v)]
  else
    let w := w + (if io then 2 ^ 16 else 0)
    [(false, w, v.map (fun x => x % 2 ^ 16)), (false, w + 1, v.map (fun x => x / 2 ^ 16))]

/-- An outbound access fails (R417): recorded with its kind, event 240 or 241. DESIGN CHOICE (log entry 107). -/
def outFail (s : State) (m : Master) (a kind : Nat) (wrt : Bool) : State :=
  let t := outTarget s a
  busError s t.1 kind (masterCode m) (masterCore m) t.2.1 t.2.2 wrt

/-- The oldest waiting outbound access fails: a read returns 0xFFFF_FFFF, a write is lost, a core takes fault 2. -/
def outLost (s : State) (x : OutAcc) (kind : Nat) : State :=
  let s := outFail s x.m x.addr kind x.write.isSome
  let r : Reply := match x.m with | .core _ _ => .lost kind | _ => .data 0xFFFFFFFF
  accessEnded s x.m x.addr x.write.isNone r

/-- OUTBOUND_ACCESS: an access to an outbound window by its offset in the common view (R416). DESIGN CHOICE (log entry 107). -/
def outboundAccess (s : State) (m : Master) (o : Nat) (write : Option Word) : State :=
  if outboundOff o then masterAccess s m (commonBase + o / 4 * 4) 4 (write.map BitVec.toNat) else s

/-- BUS_GRANT_TIMEOUT: no grant within 100 us (R417). -/
def grantTimeout (s : State) : State :=
  match s.bus.outs with
  | [] => s
  | x :: t =>
    if s.tb0 < x.at_ + 100000 then s else outLost (s.setBus { s.bus with outs := t }) x 7

/-- BUS_GRANT_AT_BGIN: the module takes the grant for its oldest waiting access, which the target answers with data or with a
bus error, or passes the grant on (R416, R417, R419). -/
def grantArrives (s : State) (resp : Option Word) : State :=
  match s.bus.outs with
  | [] => s.setBus { s.bus with passed := true }
  | x :: t =>
    let s := s.setBus { s.bus with outs := t, grant := none, passed := false, cycles := outCycles s x.addr x.write }
    match resp with
    | none => outLost s x 6
    | some v => accessEnded s x.m x.addr x.write.isNone (.data (if x.write.isNone then v.toNat else 0))

/-! Copies of the cores (R317). -/

/-- One word of a copy in the module space. The rack's answer to a word of an outbound window is no part of the state: its
data, and whether the access fails, are a free value. DEDUCED (log entry 21). DESIGN CHOICE (log entry 107). -/
def copyAccess (s : State) (m : Master) (a : Nat) (write : Option Word) : Reply × State :=
  if placeOf a = .outbound then
    let (x, s) := s.takeFree
    if bitOf x.toNat 32 then (.lost 6, outFail s m a 6 write.isSome)
    else (.data (x.toNat % 2 ^ 32), s.setBus { s.bus with cycles := outCycles s a write })
  else access s m a 4 (write.map BitVec.toNat)

/-- n words of a copy from a module address and a local index on; the Bool says that one was lost, which ends the copy. -/
def copyWords (s : State) (h : Half) (k : Fin 24) (o : CopyOp) (a idx : Nat) : Nat → Bool × State
  | 0 => (false, s)
  | n + 1 =>
    let w := if o.outbound then some (s.memWord (coreMemAddr h k.val o.mem idx)) else none
    match copyAccess s (.core h k) a w with
    | (.data v, s) =>
      let s := if o.outbound then s else coreStore s h k.val o.mem idx (BitVec.ofNat 32 v)
      copyWords s h k o (a + 4) (idx + 1) n
    | (_, s) => (true, s)

/-- A core goes on after one of its copies has completed: a WAITC or a fifth copy that stalls, or a faulted urgent item. -/
def afterCopy (s : State) (h : Half) (k : Nat) : State :=
  let c := s.core h k
  match c.stall with
  | .waitc n => if c.copies.length ≤ n then passWaitc s h k else s
  | .copy o => if c.copies.length < 4 then startCopy s h k o else s
  | .ending _ => endFaultedUrgent s h k
  | _ => s

/-- COPY_COMPLETE: the oldest copy of a core completes, unless it reaches the active view while that is held. -/
def copyComplete (s : State) (h : Half) (k : Fin 24) (lost : Nat) : State :=
  match (s.core h k.val).copies with
  | [] => s
  | o :: t =>
    if s.hold && (inActive o.addr || inActive (o.addr + 4 * o.count)) then s
    else
      let (bad, s) := copyWords (lostSlots s h k.val lost) h k o o.addr o.idx o.count
      let s := s.setCore h k.val { s.core h k.val with copies := t }
      let s := if bad then coreFault s h k.val 2 o.at_ else s
      afterCopy s h k.val

/-! Slave cycles of the backplane (R410 to R414). -/

/-- The module does not answer a cycle. -/
def notAnswered (s : State) : State := s.setBus { s.bus with silent := true }

/-- The module answers a cycle. -/
def answered (s : State) : State := s.setBus { s.bus with silent := false, berr := false }

/-- An access of a backplane master: the data go to its port. -/
def slaveAccess (s : State) (m : Master) (a n : Nat) (write : Option Nat) : State := masterAccess (answered s) m a n write

/-- A K16 I/O word at an offset from K16_IO (R411). -/
def k16Io (s : State) (i : Nat) (write : Option Nat) : State :=
  let b := BPI.addr
  if i < 0x20 then slaveAccess s .k16 (b + 0x40 + 2 * i) 2 write
  else
    let s := answered s
    match write with
    | none =>
      let v := if i = 0x20 then bitsOf (s.wordN (b + 0x20)) 1 0 else s.fld MOD.addr MOD.NUM
      s.answer .k16 (BitVec.ofNat 64 v)
    | some v => if i = 0x20 then s.setWordN (b + 0x20) (setBits (s.wordN (b + 0x20)) 1 0 v) else s

/-- A K16 cycle: a word of memory or I/O space (R410, R411). -/
def k16Cycle (s : State) (io : Bool) (addr : Nat) (write : Option Nat) : State :=
  let b := BPI.addr
  let base := s.fld b BPI.K16_IO * 64
  let win := s.fld b BPI.K16_BASE * 0x8000
  if io then (if base ≤ addr ∧ addr ≤ base + 0x21 then k16Io s (addr - base) write else notAnswered s)
  else if s.flag b BPI.K16_EN && decide (win ≤ addr ∧ addr < win + 0x8000) then
    let w := addr - win
    slaveAccess s .k16 (s.fld b (BPI.PAGE.nth (w / 0x800)) * 4096 + 2 * (w % 0x800)) 2 write
  else notAnswered s

/-- What a K32 address reaches: an offset of the module's geographic space, or a module address (R413). -/
inductive K32Target where
  | none
  | geo (off : Nat)
  | addr (a : Nat)
  deriving DecidableEq, Repr

/-- The target of a K32 address. -/
def k32Target (s : State) (addr : Nat) : K32Target :=
  let b := BPI.addr
  let a := addr / 4 * 4
  let geo := 0xFF000000 + s.fld MOD.addr MOD.STRAPS % 32 * 0x10000
  if !s.flag b BPI.K32_PRESENT then .none
  else if geo ≤ a ∧ a < geo + 0x10000 then .geo (a - geo)
  else if s.flag b BPI.K32_EN && decide (a / 0x1000000 = s.fld b BPI.K32_BUS) then
    .addr (s.fld b BPI.K32_MOD_BASE * 0x1000000 + a % 0x1000000)
  else .none

/-- A word of the geographic space (R413). -/
def geoAccess (s : State) (o : Nat) (write : Option Nat) : State :=
  let b := BPI.addr
  if o = 8 then slaveAccess s .k32 (b + 0x80) 4 write
  else if o = 0xC ∨ o = 0x10 then slaveAccess s .k32 (b + 0x84 + (o - 0xC)) 4 write
  else
    let s := answered s
    if write.isSome then s
    else
      let v := if o = 0 then 0x4A80 + s.fld MOD.addr MOD.CL_NOW * 2 ^ 16 else if o = 4 then s.fld MOD.addr MOD.NUM else 0
      s.answer .k32 (BitVec.ofNat 64 v)

/-- A word of a K32 cycle at a target. -/
def k32Access (s : State) (t : K32Target) (write : Option Nat) : State :=
  match t with
  | .none => notAnswered s
  | .geo o => geoAccess s o write
  | .addr a => slaveAccess s .k32 a 4 write

/-- A target as a number, for the block in progress: geographic offsets stand above the module space. -/
def K32Target.code : K32Target → Option Nat
  | .none => Option.none
  | .geo o => some (2 ^ 40 + o)
  | .addr a => some a

/-- The target some bytes further. -/
def k32TargetAt (a : Nat) : K32Target := if 2 ^ 40 ≤ a then .geo (a - 2 ^ 40) else .addr a

/-- A beat of a K32 block (R414): the first latches the target; the beat that crosses an aligned 256-byte block, and the 65th,
end with XBERR. -/
def blockBeat (s : State) (first : Bool) (addr : Nat) (write : Option Nat) : State :=
  let s := if first then s.setBus { s.bus with block := (k32Target s addr).code.map (fun a => (a, 0)) } else s
  match s.bus.block with
  | none => notAnswered s
  | some (a, n) =>
    let x := a + 4 * n
    if 64 ≤ n ∨ x / 256 ≠ a / 256 then s.setBus { s.bus with berr := true, silent := false, block := none }
    else k32Access (s.setBus { s.bus with block := some (a, n + 1) }) (k32TargetAt x) write

/-! PCI Express (R426 to R428). -/

/-- The endpoint accepts memory requests: link up, BARs programmed, D0. -/
def pcieOpen (s : State) : Bool := s.flag BPI.addr BPI.PCIE_UP && s.pci.bars && !s.pci.d3hot

/-- The bytes of a read reply. -/
def pcieReply (s : State) (b : List Byte) : State := { s with pci := { s.pci with reply := s.pci.reply ++ b } }

/-- Four byte enables and the data bytes of the dword of a request: those past its end are not enabled.
DESIGN CHOICE (log entry 109). -/
def dwordEn (en : List Bool) (i : Nat) : List Bool := (List.range 4).map (fun j => en.getD (4 * i + j) false)

/-- A dword of a request to BAR0 (R427). -/
def bar0Dword (s : State) (a : Nat) (en : List Bool) (data : Option Nat) : State :=
  let full := en.all id
  if !en.any id then (if data.isNone then pcieReply s (leBytes 4 0) else s)
  else
    let s := if full then s else undecoded s .pcie a 3
    match data with
    | some v =>
      if full then (match access s .pcie a 4 (some v) with | (r, s) => accessEnded s .pcie a false r) else s
    | none => match access s .pcie a 4 none with | (r, s) => accessEnded s .pcie a true r

/-- A byte of a request to BAR2. -/
def bar2Byte (s : State) (a : Nat) (en : Bool) (data : Option Nat) : State :=
  match data with
  | some v => if en then s.setByte (a % 0x100000000) (BitVec.ofNat 8 v) else s
  | none => pcieReply s [if en then s.byte (a % 0x100000000) else 0]

/-- A dword of BAR4: the MSI-X table and the pending-bit array. -/
def bar4Read (s : State) (o : Nat) : Nat :=
  if o < 0x400 then
    match s.pci.table[o / 16]? with
    | none => 0
    | some t => [t.addr.toNat % 2 ^ 32, t.addr.toNat / 2 ^ 32, t.data.toNat, b2n t.masked].getD (o % 16 / 4) 0
  else if o = 0x8000 then s.pci.pba % 2 ^ 32
  else if o = 0x8004 then s.pci.pba / 2 ^ 32 % 2 ^ 32
  else 0

/-- Pending messages that nothing masks any more go out. -/
def msixFlush (s : State) : State :=
  let on := s.flag BPI.addr BPI.MSIX_ON
  { s with pci := (List.range 64).foldl (fun p v =>
      let open_ := on && !p.fnMask && (match p.table[v]? with | none => false | some t => !t.masked)
      if bitOf p.pba v && open_ then PciUnit.message { p with pba := setBit p.pba v false } true v else p) s.pci }

/-- A dword written to the MSI-X table. -/
def bar4Write (s : State) (o v : Nat) : State :=
  if 0x400 ≤ o then s
  else
    let f (t : MsixEntry) : MsixEntry :=
      if o % 16 = 0 then { t with addr := BitVec.ofNat 64 (setBits t.addr.toNat 31 0 v) }
      else if o % 16 = 4 then { t with addr := BitVec.ofNat 64 (setBits t.addr.toNat 63 32 v) }
      else if o % 16 = 8 then { t with data := BitVec.ofNat 32 v }
      else { t with masked := bitOf v 0 }
    msixFlush { s with pci := { s.pci with table := s.pci.table.modify (o / 16) f } }

/-- A dword of a request to BAR4, with its byte enables. -/
def bar4Dword (s : State) (o : Nat) (en : List Bool) (data : Option Nat) : State :=
  match data with
  | none => pcieReply s (leBytes 4 (bar4Read s o))
  | some v =>
    bar4Write s o ((List.range 4).foldl (fun x j => if en.getD j false then putPart x j 1 (getPart v j 1) else x) (bar4Read s o))

/-- A memory request to a BAR (0 BAR0, 1 BAR2, 2 BAR4) from a dword-aligned offset, with one enable per byte and the data of
a write; a poisoned write is discarded. DESIGN CHOICE (log entry 109). -/
def pcieRequest (s : State) (bar off : Nat) (en : List Bool) (data : Option (List Byte)) (poisoned : Bool) : State :=
  let o := off / 4 * 4
  let s := if data.isNone then { s with pci := { s.pci with reply := [] } } else s
  let word (i : Nat) : Option Nat := data.map (fun l => bytesAt l (4 * i) 4)
  if !pcieOpen s || (data.isSome && poisoned) then s
  else if bar = 1 then
    en.zipIdx.foldl (fun s p => bar2Byte s (o + p.2) p.1 (data.map (fun l => bytesAt l p.2 1))) s
  else
    (List.range (divCeil en.length 4)).foldl (fun s i =>
      if bar = 0 then bar0Dword s (activeBase + (o + 4 * i) % 0x40000000) (dwordEn en i) (word i)
      else bar4Dword s ((o + 4 * i) % 0x10000) (dwordEn en i) (word i)) s

/-- A PCI Express reset, or D3hot, of the endpoint (R426, R427): the BARs and the MSI-X set-up are cleared, event 244; PERST#
also resets the link fields. Vector pending bits survive. -/
def pcieReset (s : State) (perst d3hot : Bool) : State :=
  let s := { s with pci := { PciUnit.reset with d3hot := d3hot, sent := s.pci.sent, last := s.pci.last, dma := s.pci.dma } }
  let s := (s.setFld BPI.addr BPI.MSIX_ON 0).setFld BPI.addr BPI.BME 0
  let s := if perst then
      ((s.setFld BPI.addr BPI.PCIE_UP 0).setFld BPI.addr BPI.WIDTH 0).setFld BPI.addr BPI.SPEED 0
    else s
  raiseBoth s 244

/-- The link trains to L0 or leaves it (R426); with the link up the host's configuration is taken.
DESIGN CHOICE (log entry 109). -/
def pcieLink (s : State) (up : Bool) (width speed : Nat) (c : PcieSetup) : State :=
  let b := BPI.addr
  if strapLegacy s then s
  else
    let changed := decide (s.flag b BPI.PCIE_UP ≠ up)
    let s := s.putFlag b BPI.PCIE_UP up
    let s := (s.setFld b BPI.WIDTH (if up then width else 0)).setFld b BPI.SPEED (if up then speed else 0)
    let s := (s.putFlag b BPI.BME (up && c.bme)).putFlag b BPI.MSIX_ON (up && c.msix)
    let s := { s with pci := { s.pci with bars := up && c.bars, d3hot := false, fnMask := up && c.fnMask } }
    let s := if up then msixFlush s else s
    if changed then raiseBoth s 244 else s

end Sys2Proof.Machine
end

