-- ==== Sys2Proof/Machine/ExecBus.lean ====
section
/-! DEFINITION. The meanings of the commands of the rack backplane, of the hosts and of accesses that wait. -/
namespace Sys2Proof.Machine

/-- FAR_ACCESS_COMPLETE: the far access of core k runs at its target; lost: the slots the stall cost (R304, R316). -/
def execFarAccessComplete (h : Half) (k : Fin 24) (lost : Nat) (s : State) : Host.Outcome State Fault Refusal :=
  .next (farAccess s h k lost)

/-- COPY_COMPLETE: the oldest copy of core k completes; lost: slots a conflict cost (R304, R317). -/
def execCopyComplete (h : Half) (k : Fin 24) (lost : Nat) (s : State) : Host.Outcome State Fault Refusal :=
  .next (copyComplete s h k lost)

/-- ACTIVE_VIEW_HOLD_RELEASE: the hold of the active view ends (R25). -/
def execActiveViewHoldRelease (s : State) : Host.Outcome State Fault Refusal :=
  .next (holdRelease s)

/-- K16_SLAVE_CYCLE: a K16 cycle in memory or I/O space (R410 to R412). -/
def execK16SlaveCycle (io : Bool) (addr : BitVec 16) (write : Option (BitVec 16))
    (s : State) : Host.Outcome State Fault Refusal :=
  .next (k16Cycle s io addr.toNat (write.map BitVec.toNat))

/-- K32_SLAVE_CYCLE: a single K32 cycle (R413, R414). -/
def execK32SlaveCycle (addr : Word) (write : Option Word) (s : State) : Host.Outcome State Fault Refusal :=
  .next (k32Access s (k32Target s addr.toNat) (write.map BitVec.toNat))

/-- K32_BLOCK_BEAT: a beat of a K32 block; addr counts at the first (R414). -/
def execK32BlockBeat (first : Bool) (addr : Word) (write : Option Word)
    (s : State) : Host.Outcome State Fault Refusal :=
  .next (blockBeat s first addr.toNat (write.map BitVec.toNat))

/-- K16_IACK_CYCLE: an acknowledge on K16 level level + 1 (R424). -/
def execK16IackCycle (level : Fin 4) (s : State) : Host.Outcome State Fault Refusal :=
  .next (iackCycle s false level.val)

/-- K32_IACK_CYCLE: an acknowledge on a K32 line (R415, R424). -/
def execK32IackCycle (line : Fin 8) (s : State) : Host.Outcome State Fault Refusal :=
  .next (iackCycle s true line.val)

/-- OUTBOUND_ACCESS: an access to an outbound window, by its offset in the common view (R416). -/
def execOutboundAccess (m : Master) (off : BitVec 28) (write : Option Word)
    (s : State) : Host.Outcome State Fault Refusal :=
  .next (outboundAccess s m off.toNat write)

/-- BUS_GRANT_TIMEOUT: no grant within 100 us (R417). -/
def execBusGrantTimeout (s : State) : Host.Outcome State Fault Refusal :=
  .next (grantTimeout s)

/-- BUS_REQUEST: BREQ and BBSY as the arbiter sees them (R419). -/
def execBusRequest (breq : Bool) (bbsy : Bool) (s : State) : Host.Outcome State Fault Refusal :=
  .next (busRequest s breq bbsy)

/-- GRANT_LOST: no BBSY within 2 us of a grant (R419). -/
def execGrantLost (s : State) : Host.Outcome State Fault Refusal :=
  .next (grantLost s)

/-- BUS_TIMER_EXPIRY: no acknowledge within BUS_TIMER; addr was latched at the address strobe (R420). -/
def execBusTimerExpiry (k32 : Bool) (iosp : Bool) (wrt : Bool) (addr : Word)
    (s : State) : Host.Outcome State Fault Refusal :=
  .next (busTimer s k32 iosp wrt addr.toNat)

/-- FOREIGN_ARBITER_DETECTED: a second arbiter within 10 ms of start (R421). -/
def execForeignArbiterDetected (s : State) : Host.Outcome State Fault Refusal :=
  .next (foreignArbiter s)

/-- INTERRUPT_ASSERTED: another card asserts or releases K16 level line + 1 (0 to 3) or a K32 line (R422). -/
def execInterruptAsserted (k32 : Bool) (line : Fin 8) (on : Bool) (s : State) : Host.Outcome State Fault Refusal :=
  .next (if !k32 && decide (3 < line.val) then s else interruptAsserted s k32 line.val on)

/-- IACK: a write of BPI.IACK, with the interrupter's answer or the bus timer's expiry (R422). -/
def execIack (sel : BitVec 4) (answer : Option (BitVec 16)) (s : State) : Host.Outcome State Fault Refusal :=
  .next (iackWrite s sel.toNat (answer.map BitVec.toNat))

/-- IACK_REASSERT: the line is still asserted 10 us after a completed acknowledge (R422). -/
def execIackReassert (s : State) : Host.Outcome State Fault Refusal :=
  .next (iackReassert s)

/-- SYSRST_RECEIVE: SYSRST has been asserted for 10 us; the self-test results of the restart (R423). -/
def execSysrstReceive (passA : Bool) (passB : Bool) (s : State) : Host.Outcome State Fault Refusal :=
  .next (sysrstReceive s passA passB)

/-- SYSRST_OUT: a write of BPI.CMD (R418). -/
def execSysrstOut (s : State) : Host.Outcome State Fault Refusal :=
  .next (sysrstOut s)

/-- BPI_CLR_CNT: a write of BPI.CMD. -/
def execBpiClrCnt (s : State) : Host.Outcome State Fault Refusal :=
  .next (bpiClrCnt s)

/-- DOORBELL: a write of BPI.DOORBELL (R424). -/
def execDoorbell (value : Word) (s : State) : Host.Outcome State Fault Refusal :=
  .next (doorbell s value.toNat)

/-- VEC_PEND_CLEAR: a W1C write of BPI.VEC_PEND (R424). -/
def execVecPendClear (mask : BitVec 64) (s : State) : Host.Outcome State Fault Refusal :=
  .next (vecPendClear s mask.toNat)

/-- PCIE_REQUEST: a memory request to a BAR (R427). -/
def execPcieRequest (bar : Fin 3) (off : Word) (en : List Bool) (data : Option (List Byte)) (poisoned : Bool)
    (s : State) : Host.Outcome State Fault Refusal :=
  .next (pcieRequest s bar.val off.toNat en data poisoned)

/-- PCIE_RESET: PERST# (perst), D3hot (d3hot), or a hot or function-level reset (R426, R427). -/
def execPcieReset (perst : Bool) (d3hot : Bool) (s : State) : Host.Outcome State Fault Refusal :=
  .next (pcieReset s perst d3hot)

/-- SERVICE_REQUEST: a datagram at the service port (R429). -/
def execServiceRequest (src : BitVec 48) (datagram : List Byte) (s : State) : Host.Outcome State Fault Refusal :=
  .next (serviceRequest s src.toNat datagram)

/-- SNAPSHOT_READ: a master reads a part at a module address: 2 bytes on K16, 4 elsewhere (R409). -/
def execSnapshotRead (m : Master) (addr : BitVec 40) (s : State) : Host.Outcome State Fault Refusal :=
  .next (masterAccess s m (addr.toNat / partBytes m * partBytes m) (partBytes m) none)

/-- REGISTER_WRITE: a master writes a part at a module address: 2 bytes on K16, 4 elsewhere (R406 to R409). -/
def execRegisterWrite (m : Master) (addr : BitVec 40) (value : Word) (s : State) : Host.Outcome State Fault Refusal :=
  .next (masterAccess s m (addr.toNat / partBytes m * partBytes m) (partBytes m) (some (value.toNat % 256 ^ partBytes m)))

/-- PCIE_LINK_STATE_CHANGE: the link trains to L0 or leaves it (R426); setup: what the host has configured. -/
def execPcieLinkStateChange (up : Bool) (width : BitVec 3) (speed : BitVec 3) (setup : PcieSetup)
    (s : State) : Host.Outcome State Fault Refusal :=
  .next (pcieLink s up width.toNat speed.toNat setup)

/-- BUS_GRANT_AT_BGIN: a grant reaches the module's BGIN; answer: the target's data, or none for BERR or XBERR (R416, R419). -/
def execBusGrantAtBgin (answer : Option Word) (s : State) : Host.Outcome State Fault Refusal :=
  .next (grantArrives s (answer))

end Sys2Proof.Machine
end

