-- ==== Sys2Proof/Machine/ExecCan.lean ====
section
/-! DEFINITION. The meanings of the CAN commands. -/
namespace Sys2Proof.Machine

/-- TX_REQUEST: a write of TX.CTRL with REQ set: the buffer becomes pending, or ends at once where its deadline has passed (R380, R382). -/
def execTxRequest (via : Via) (c : Fin 4) (b : Fin 3) (ctrl : Word) (s : State) : Host.Outcome State Fault Refusal :=
  .next (viaHalf s via (halfOff (TXB.addr .a c.val b.val) + 4) (ctrl.toNat ||| 256) (fun s h => txCtrl s h c.val b.val (ctrl.toNat ||| 256) false))

/-- TX_ABORT: a write of ABORT; sending says whether the buffer's attempt is on the bus (R383). -/
def execTxAbort (via : Via) (c : Fin 4) (b : Fin 3) (sending : Bool) (s : State) : Host.Outcome State Fault Refusal :=
  .next (viaHalf s via (halfOff (TXB.addr .a c.val b.val) + 4) 512 (fun s h => txAbort s h c.val b.val sending))

/-- CAN_TX_ATTEMPT_END: an attempt with its SOF instant on TB0 ends (R381 to R384). -/
def execCanTxAttemptEnd (h : Half) (c : Fin 4) (b : Fin 3) (sof : Nat) (result : CanEnd)
    (s : State) : Host.Outcome State Fault Refusal :=
  .next (txAttemptEnd s h c.val b.val sof result)

/-- TX_DEADLINE_ABORT: TB0 passes the deadline of a buffer that is not sending (R382). -/
def execTxDeadlineAbort (h : Half) (c : Fin 4) (b : Fin 3) (s : State) : Host.Outcome State Fault Refusal :=
  .next (txDeadline s h c.val b.val)

/-- CAN_FRAME_RECEIVE: a frame with its SOF stamp is filtered and stored (R385 to R389). -/
def execCanFrameReceive (h : Half) (c : Fin 4) (frame : CanFrame) (stamp : Word)
    (s : State) : Host.Outcome State Fault Refusal :=
  .next (canReceive s h c.val frame stamp.toNat)

/-- CAN_ERROR: a bus error (R390). -/
def execCanError (h : Half) (c : Fin 4) (err : CanErr) (s : State) : Host.Outcome State Fault Refusal :=
  .next (canError s h c.val err)

/-- ALONE: 16 consecutive acknowledgement errors (R391). -/
def execAlone (h : Half) (c : Fin 4) (s : State) : Host.Outcome State Fault Refusal :=
  .next (canAlone s h c.val)

/-- INTEGRATION_COMPLETE: 11 recessive bits (R379). -/
def execIntegrationComplete (h : Half) (c : Fin 4) (s : State) : Host.Outcome State Fault Refusal :=
  .next (canIntegrated s h c.val)

/-- RECOVERY_COMPLETE: 128 occurrences of 11 recessive bits (R390). -/
def execRecoveryComplete (h : Half) (c : Fin 4) (s : State) : Host.Outcome State Fault Refusal :=
  .next (canRecovered s h c.val)

/-- RECOVER: a write of CAN.CMD with RECOVER (R390). -/
def execRecover (via : Via) (c : Fin 4) (s : State) : Host.Outcome State Fault Refusal :=
  .next (viaHalf s via (halfOff (CAN.addr .a c.val) + 0x18) 1 (fun s h => canCmd s h c.val 1))

/-- RELEASE_MB: a write of CAN.CMD with RELEASE_MB (R386). -/
def execReleaseMb (via : Via) (c : Fin 4) (m : Fin 32) (s : State) : Host.Outcome State Fault Refusal :=
  .next (viaHalf s via (halfOff (CAN.addr .a c.val) + 0x18) (2 + m.val * 256) (fun s h => canCmd s h c.val (2 + m.val * 256)))

/-- CAN_CLR_CNT: a write of CAN.CMD with CLR_CNT. -/
def execCanClrCnt (via : Via) (c : Fin 4) (s : State) : Host.Outcome State Fault Refusal :=
  .next (viaHalf s via (halfOff (CAN.addr .a c.val) + 0x18) 4 (fun s h => canCmd s h c.val 4))

/-- CAN_MODE_REQUEST: a write of CAN.CTRL (R379). -/
def execCanModeRequest (via : Via) (c : Fin 4) (ctrl : Word) (s : State) : Host.Outcome State Fault Refusal :=
  .next (viaHalf s via (halfOff (CAN.addr .a c.val)) ctrl.toNat (fun s h => canCtrl s h c.val ctrl.toNat))

/-- MAILBOX_HEAD_READ: a read of MB.HEAD (R386). -/
def execMailboxHeadRead (via : Via) (c : Fin 4) (m : Fin 32) (s : State) : Host.Outcome State Fault Refusal :=
  .next (viaRead s via (halfOff (MB.addr .a c.val m.val)) (fun s h => mailboxHead s h c.val m.val))

/-- MAILBOX_LAST_WORD_READ: a read of a word of a mailbox at a byte offset; the last word of a locked mailbox releases it (R386). -/
def execMailboxLastWordRead (via : Via) (c : Fin 4) (m : Fin 32) (off : Fin 76)
    (s : State) : Host.Outcome State Fault Refusal :=
  .next (viaRead s via (halfOff (MB.addr .a c.val m.val) + off.val / 4 * 4) (fun s h => mailboxRead s h c.val m.val (off.val / 4 * 4)))

/-- CQ_ACK: a write of CAN.CQ_ACK (R388). -/
def execCqAck (via : Via) (c : Fin 4) (idx : Fin 64) (s : State) : Host.Outcome State Fault Refusal :=
  .next (viaHalf s via (halfOff (CAN.addr .a c.val) + 0x2C) idx.val (fun s h => cqAck s h c.val idx.val))

/-- POLARITY_SWAPPED: 64 reversed dominant bits (R392). -/
def execPolaritySwapped (h : Half) (c : Fin 4) (s : State) : Host.Outcome State Fault Refusal :=
  .next (canSwapped s h c.val)

/-- STUCK_DOM: a bus dominant for 5 ms (R392). -/
def execStuckDom (h : Half) (c : Fin 4) (s : State) : Host.Outcome State Fault Refusal :=
  .next (canStuck s h c.val)

/-- BUS_RECESSIVE_AGAIN: the bus is recessive again (R392). -/
def execBusRecessiveAgain (h : Half) (c : Fin 4) (s : State) : Host.Outcome State Fault Refusal :=
  .next (canUnstuck s h c.val)

end Sys2Proof.Machine
end

