-- ==== Sys2Proof/Machine/ExecCoreInstr.lean ====
section
/-! DEFINITION. The meaning of each instruction of the control cores (R323): each issues its decoded operation on the core the
command names. -/
namespace Sys2Proof.Machine

/-- NOP: the moves only (R323). -/
def execNop (h : Half) (k : Fin 24) (mv : Moves) (s : State) : Host.Outcome State Fault Refusal :=
  .next (issue s h k.val .nop mv)

/-- MAC: Aa += Sa * Sb (R306). -/
def execMac (h : Half) (k : Fin 24) (aa : Fin 4) (sa sb : Fin 64) (mv : Moves) (s : State) : Host.Outcome State Fault Refusal :=
  .next (issue s h k.val (.mac .mac aa.val aa.val sa.val sb.val 0 0) mv)

/-- MAC2: Aa += Sa * Sb, Ab += Sc * Sd (R306). -/
def execMac2 (h : Half) (k : Fin 24) (aa ab : Fin 4) (sa sb sc sd : Fin 64) (mv : Moves) (s : State) : Host.Outcome State Fault Refusal :=
  .next (issue s h k.val (.mac .mac2 aa.val ab.val sa.val sb.val sc.val sd.val) mv)

/-- MSU2: Aa -= Sa * Sb, Ab -= Sc * Sd (R306). -/
def execMsu2 (h : Half) (k : Fin 24) (aa ab : Fin 4) (sa sb sc sd : Fin 64) (mv : Moves) (s : State) : Host.Outcome State Fault Refusal :=
  .next (issue s h k.val (.mac .msu2 aa.val ab.val sa.val sb.val sc.val sd.val) mv)

/-- MPY2: Aa = Sa * Sb, Ab = Sc * Sd (R306). -/
def execMpy2 (h : Half) (k : Fin 24) (aa ab : Fin 4) (sa sb sc sd : Fin 64) (mv : Moves) (s : State) : Host.Outcome State Fault Refusal :=
  .next (issue s h k.val (.mac .mpy2 aa.val ab.val sa.val sb.val sc.val sd.val) mv)

/-- MACF2: as MAC2 with each product shifted left by 1 (R306). -/
def execMacf2 (h : Half) (k : Fin 24) (aa ab : Fin 4) (sa sb sc sd : Fin 64) (mv : Moves) (s : State) : Host.Outcome State Fault Refusal :=
  .next (issue s h k.val (.mac .macf2 aa.val ab.val sa.val sb.val sc.val sd.val) mv)

/-- MSUF2: as MSU2 with each product shifted left by 1 (R306). -/
def execMsuf2 (h : Half) (k : Fin 24) (aa ab : Fin 4) (sa sb sc sd : Fin 64) (mv : Moves) (s : State) : Host.Outcome State Fault Refusal :=
  .next (issue s h k.val (.mac .msuf2 aa.val ab.val sa.val sb.val sc.val sd.val) mv)

/-- MACSU2: as MAC2 with Sb and Sd unsigned (R306). -/
def execMacsu2 (h : Half) (k : Fin 24) (aa ab : Fin 4) (sa sb sc sd : Fin 64) (mv : Moves) (s : State) : Host.Outcome State Fault Refusal :=
  .next (issue s h k.val (.mac .macsu2 aa.val ab.val sa.val sb.val sc.val sd.val) mv)

/-- FMA: Dd += Sa * Sb, rounded once (R310). -/
def execFma (h : Half) (k : Fin 24) (t : Fin 32) (sa sb : Fin 64) (mv : Moves) (s : State) : Host.Outcome State Fault Refusal :=
  .next (issue s h k.val (.pair .fma t.val sa.val sb.val 0 0) mv)

/-- FMA2: Dd += Sa * Sb, Dd+1 += Sc * Sd (R310). -/
def execFma2 (h : Half) (k : Fin 24) (t : Fin 32) (sa sb sc sd : Fin 64) (mv : Moves) (s : State) : Host.Outcome State Fault Refusal :=
  .next (issue s h k.val (.pair .fma2 t.val sa.val sb.val sc.val sd.val) mv)

/-- FMS2: Dd -= Sa * Sb, Dd+1 -= Sc * Sd (R310). -/
def execFms2 (h : Half) (k : Fin 24) (t : Fin 32) (sa sb sc sd : Fin 64) (mv : Moves) (s : State) : Host.Outcome State Fault Refusal :=
  .next (issue s h k.val (.pair .fms2 t.val sa.val sb.val sc.val sd.val) mv)

/-- FMUL2: Dd = Sa * Sb, Dd+1 = Sc * Sd (R310). -/
def execFmul2 (h : Half) (k : Fin 24) (t : Fin 32) (sa sb sc sd : Fin 64) (mv : Moves) (s : State) : Host.Outcome State Fault Refusal :=
  .next (issue s h k.val (.pair .fmul2 t.val sa.val sb.val sc.val sd.val) mv)

/-- FADD2: Dd = Sa + Sb, Dd+1 = Sc + Sd (R310). -/
def execFadd2 (h : Half) (k : Fin 24) (t : Fin 32) (sa sb sc sd : Fin 64) (mv : Moves) (s : State) : Host.Outcome State Fault Refusal :=
  .next (issue s h k.val (.pair .fadd2 t.val sa.val sb.val sc.val sd.val) mv)

/-- FSUB2: Dd = Sa - Sb, Dd+1 = Sc - Sd (R310). -/
def execFsub2 (h : Half) (k : Fin 24) (t : Fin 32) (sa sb sc sd : Fin 64) (mv : Moves) (s : State) : Host.Outcome State Fault Refusal :=
  .next (issue s h k.val (.pair .fsub2 t.val sa.val sb.val sc.val sd.val) mv)

/-- MOVD: Dd = Sa (R323). -/
def execMovd (h : Half) (k : Fin 24) (dd sa : Fin 64) (mv : Moves) (s : State) : Host.Outcome State Fault Refusal :=
  .next (issue s h k.val (.alu .movd 0 dd.val sa.val 0) mv)

/-- ADD: Dd = Sa + Sb, wrapping (R305). -/
def execAdd (h : Half) (k : Fin 24) (dd sa sb : Fin 64) (mv : Moves) (s : State) : Host.Outcome State Fault Refusal :=
  .next (issue s h k.val (.alu .add 0 dd.val sa.val sb.val) mv)

/-- SUB: Dd = Sa - Sb, wrapping (R305). -/
def execSub (h : Half) (k : Fin 24) (dd sa sb : Fin 64) (mv : Moves) (s : State) : Host.Outcome State Fault Refusal :=
  .next (issue s h k.val (.alu .sub 0 dd.val sa.val sb.val) mv)

/-- ADDS: saturating sum, ISAT (R305). -/
def execAdds (h : Half) (k : Fin 24) (dd sa sb : Fin 64) (mv : Moves) (s : State) : Host.Outcome State Fault Refusal :=
  .next (issue s h k.val (.alu .adds 0 dd.val sa.val sb.val) mv)

/-- SUBS: saturating difference, ISAT (R305). -/
def execSubs (h : Half) (k : Fin 24) (dd sa sb : Fin 64) (mv : Moves) (s : State) : Host.Outcome State Fault Refusal :=
  .next (issue s h k.val (.alu .subs 0 dd.val sa.val sb.val) mv)

/-- AND: format A (R323, R305, R310). -/
def execAnd (h : Half) (k : Fin 24) (dd sa sb : Fin 64) (mv : Moves) (s : State) : Host.Outcome State Fault Refusal :=
  .next (issue s h k.val (.alu .and 0 dd.val sa.val sb.val) mv)

/-- OR: format A (R323, R305, R310). -/
def execOr (h : Half) (k : Fin 24) (dd sa sb : Fin 64) (mv : Moves) (s : State) : Host.Outcome State Fault Refusal :=
  .next (issue s h k.val (.alu .or 0 dd.val sa.val sb.val) mv)

/-- XOR: format A (R323, R305, R310). -/
def execXor (h : Half) (k : Fin 24) (dd sa sb : Fin 64) (mv : Moves) (s : State) : Host.Outcome State Fault Refusal :=
  .next (issue s h k.val (.alu .xor 0 dd.val sa.val sb.val) mv)

/-- ANDN: Sa and not Sb (R323). -/
def execAndn (h : Half) (k : Fin 24) (dd sa sb : Fin 64) (mv : Moves) (s : State) : Host.Outcome State Fault Refusal :=
  .next (issue s h k.val (.alu .andn 0 dd.val sa.val sb.val) mv)

/-- SHL: format A (R323, R305, R310). -/
def execShl (h : Half) (k : Fin 24) (dd sa sb : Fin 64) (mv : Moves) (s : State) : Host.Outcome State Fault Refusal :=
  .next (issue s h k.val (.alu .shl 0 dd.val sa.val sb.val) mv)

/-- SHR: format A (R323, R305, R310). -/
def execShr (h : Half) (k : Fin 24) (dd sa sb : Fin 64) (mv : Moves) (s : State) : Host.Outcome State Fault Refusal :=
  .next (issue s h k.val (.alu .shr 0 dd.val sa.val sb.val) mv)

/-- SRA: format A (R323, R305, R310). -/
def execSra (h : Half) (k : Fin 24) (dd sa sb : Fin 64) (mv : Moves) (s : State) : Host.Outcome State Fault Refusal :=
  .next (issue s h k.val (.alu .sra 0 dd.val sa.val sb.val) mv)

/-- SHLS: saturating left shift, ISAT (R305). -/
def execShls (h : Half) (k : Fin 24) (dd sa sb : Fin 64) (mv : Moves) (s : State) : Host.Outcome State Fault Refusal :=
  .next (issue s h k.val (.alu .shls 0 dd.val sa.val sb.val) mv)

/-- MIN: format A (R323, R305, R310). -/
def execMin (h : Half) (k : Fin 24) (dd sa sb : Fin 64) (mv : Moves) (s : State) : Host.Outcome State Fault Refusal :=
  .next (issue s h k.val (.alu .min 0 dd.val sa.val sb.val) mv)

/-- MAX: format A (R323, R305, R310). -/
def execMax (h : Half) (k : Fin 24) (dd sa sb : Fin 64) (mv : Moves) (s : State) : Host.Outcome State Fault Refusal :=
  .next (issue s h k.val (.alu .max 0 dd.val sa.val sb.val) mv)

/-- MINU: format A (R323, R305, R310). -/
def execMinu (h : Half) (k : Fin 24) (dd sa sb : Fin 64) (mv : Moves) (s : State) : Host.Outcome State Fault Refusal :=
  .next (issue s h k.val (.alu .minu 0 dd.val sa.val sb.val) mv)

/-- MAXU: format A (R323, R305, R310). -/
def execMaxu (h : Half) (k : Fin 24) (dd sa sb : Fin 64) (mv : Moves) (s : State) : Host.Outcome State Fault Refusal :=
  .next (issue s h k.val (.alu .maxu 0 dd.val sa.val sb.val) mv)

/-- ABS: format A (R323, R305, R310). -/
def execAbs (h : Half) (k : Fin 24) (dd sa : Fin 64) (mv : Moves) (s : State) : Host.Outcome State Fault Refusal :=
  .next (issue s h k.val (.alu .abs 0 dd.val sa.val 0) mv)

/-- NEG: format A (R323, R305, R310). -/
def execNeg (h : Half) (k : Fin 24) (dd sa : Fin 64) (mv : Moves) (s : State) : Host.Outcome State Fault Refusal :=
  .next (issue s h k.val (.alu .neg 0 dd.val sa.val 0) mv)

/-- CMP: sets the conditions (R309). -/
def execCmp (h : Half) (k : Fin 24) (sa sb : Fin 64) (mv : Moves) (s : State) : Host.Outcome State Fault Refusal :=
  .next (issue s h k.val (.alu .cmp 0 0 sa.val sb.val) mv)

/-- CMPU: sets the conditions (R309). -/
def execCmpu (h : Half) (k : Fin 24) (sa sb : Fin 64) (mv : Moves) (s : State) : Host.Outcome State Fault Refusal :=
  .next (issue s h k.val (.alu .cmpu 0 0 sa.val sb.val) mv)

/-- SEL: Sa or Sb by the condition code (R309). -/
def execSel (h : Half) (k : Fin 24) (cond : BitVec 4) (dd sa sb : Fin 64) (mv : Moves) (s : State) : Host.Outcome State Fault Refusal :=
  .next (issue s h k.val (.alu .sel cond.toNat dd.val sa.val sb.val) mv)

/-- MUL: format A (R323, R305, R310). -/
def execMul (h : Half) (k : Fin 24) (dd sa sb : Fin 64) (mv : Moves) (s : State) : Host.Outcome State Fault Refusal :=
  .next (issue s h k.val (.alu .mul 0 dd.val sa.val sb.val) mv)

/-- MULH: format A (R323, R305, R310). -/
def execMulh (h : Half) (k : Fin 24) (dd sa sb : Fin 64) (mv : Moves) (s : State) : Host.Outcome State Fault Refusal :=
  .next (issue s h k.val (.alu .mulh 0 dd.val sa.val sb.val) mv)

/-- MULQ: Q31 product, rounded and saturated (R305). -/
def execMulq (h : Half) (k : Fin 24) (dd sa sb : Fin 64) (mv : Moves) (s : State) : Host.Outcome State Fault Refusal :=
  .next (issue s h k.val (.alu .mulq 0 dd.val sa.val sb.val) mv)

/-- CLS: count of leading sign bits (R323). -/
def execCls (h : Half) (k : Fin 24) (dd sa : Fin 64) (mv : Moves) (s : State) : Host.Outcome State Fault Refusal :=
  .next (issue s h k.val (.alu .cls 0 dd.val sa.val 0) mv)

/-- FADD: format A (R323, R305, R310). -/
def execFadd (h : Half) (k : Fin 24) (dd sa sb : Fin 64) (mv : Moves) (s : State) : Host.Outcome State Fault Refusal :=
  .next (issue s h k.val (.alu .fadd 0 dd.val sa.val sb.val) mv)

/-- FSUB: format A (R323, R305, R310). -/
def execFsub (h : Half) (k : Fin 24) (dd sa sb : Fin 64) (mv : Moves) (s : State) : Host.Outcome State Fault Refusal :=
  .next (issue s h k.val (.alu .fsub 0 dd.val sa.val sb.val) mv)

/-- FMUL: format A (R323, R305, R310). -/
def execFmul (h : Half) (k : Fin 24) (dd sa sb : Fin 64) (mv : Moves) (s : State) : Host.Outcome State Fault Refusal :=
  .next (issue s h k.val (.alu .fmul 0 dd.val sa.val sb.val) mv)

/-- FMIN: format A (R323, R305, R310). -/
def execFmin (h : Half) (k : Fin 24) (dd sa sb : Fin 64) (mv : Moves) (s : State) : Host.Outcome State Fault Refusal :=
  .next (issue s h k.val (.alu .fmin 0 dd.val sa.val sb.val) mv)

/-- FMAX: format A (R323, R305, R310). -/
def execFmax (h : Half) (k : Fin 24) (dd sa sb : Fin 64) (mv : Moves) (s : State) : Host.Outcome State Fault Refusal :=
  .next (issue s h k.val (.alu .fmax 0 dd.val sa.val sb.val) mv)

/-- FABS: format A (R323, R305, R310). -/
def execFabs (h : Half) (k : Fin 24) (dd sa : Fin 64) (mv : Moves) (s : State) : Host.Outcome State Fault Refusal :=
  .next (issue s h k.val (.alu .fabs 0 dd.val sa.val 0) mv)

/-- FNEG: format A (R323, R305, R310). -/
def execFneg (h : Half) (k : Fin 24) (dd sa : Fin 64) (mv : Moves) (s : State) : Host.Outcome State Fault Refusal :=
  .next (issue s h k.val (.alu .fneg 0 dd.val sa.val 0) mv)

/-- FCMP: sets the conditions (R309). -/
def execFcmp (h : Half) (k : Fin 24) (sa sb : Fin 64) (mv : Moves) (s : State) : Host.Outcome State Fault Refusal :=
  .next (issue s h k.val (.alu .fcmp 0 0 sa.val sb.val) mv)

/-- FRCPE: reciprocal estimate, zero sets FDZ (R310). -/
def execFrcpe (h : Half) (k : Fin 24) (dd sa : Fin 64) (mv : Moves) (s : State) : Host.Outcome State Fault Refusal :=
  .next (issue s h k.val (.alu .frcpe 0 dd.val sa.val 0) mv)

/-- FRSQE: reciprocal square-root estimate, zero sets FDZ (R310). -/
def execFrsqe (h : Half) (k : Fin 24) (dd sa : Fin 64) (mv : Moves) (s : State) : Host.Outcome State Fault Refusal :=
  .next (issue s h k.val (.alu .frsqe 0 dd.val sa.val 0) mv)

/-- FTOI: binary32 to int32 (R310). -/
def execFtoi (h : Half) (k : Fin 24) (dd sa : Fin 64) (mv : Moves) (s : State) : Host.Outcome State Fault Refusal :=
  .next (issue s h k.val (.alu .ftoi 0 dd.val sa.val 0) mv)

/-- ITOF: int32 to binary32 (R310). -/
def execItof (h : Half) (k : Fin 24) (dd sa : Fin 64) (mv : Moves) (s : State) : Host.Outcome State Fault Refusal :=
  .next (issue s h k.val (.alu .itof 0 dd.val sa.val 0) mv)

/-- FTOQ: binary32 to Q31 (R310). -/
def execFtoq (h : Half) (k : Fin 24) (dd sa : Fin 64) (mv : Moves) (s : State) : Host.Outcome State Fault Refusal :=
  .next (issue s h k.val (.alu .ftoq 0 dd.val sa.val 0) mv)

/-- QTOF: Q31 to binary32 (R310). -/
def execQtof (h : Half) (k : Fin 24) (dd sa : Fin 64) (mv : Moves) (s : State) : Host.Outcome State Fault Refusal :=
  .next (issue s h k.val (.alu .qtof 0 dd.val sa.val 0) mv)

/-- CLRA: An = 0 and AOV cleared (R308). -/
def execClra (h : Half) (k : Fin 24) (an : Fin 4) (mv : Moves) (s : State) : Host.Outcome State Fault Refusal :=
  .next (issue s h k.val (.alu .clra 0 an.val 0 0) mv)

/-- MOVA: An = Sa shifted left by Sb[5:0] (R308). -/
def execMova (h : Half) (k : Fin 24) (an : Fin 4) (sa sb : Fin 64) (mv : Moves) (s : State) : Host.Outcome State Fault Refusal :=
  .next (issue s h k.val (.alu .mova 0 an.val sa.val sb.val) mv)

/-- ADDA: An += Am (R308). -/
def execAdda (h : Half) (k : Fin 24) (an am : Fin 4) (mv : Moves) (s : State) : Host.Outcome State Fault Refusal :=
  .next (issue s h k.val (.alu .adda 0 an.val am.val 0) mv)

/-- SUBA: An -= Am (R308). -/
def execSuba (h : Half) (k : Fin 24) (an am : Fin 4) (mv : Moves) (s : State) : Host.Outcome State Fault Refusal :=
  .next (issue s h k.val (.alu .suba 0 an.val am.val 0) mv)

/-- NEGA: An = -An (R308). -/
def execNega (h : Half) (k : Fin 24) (an : Fin 4) (mv : Moves) (s : State) : Host.Outcome State Fault Refusal :=
  .next (issue s h k.val (.alu .nega 0 an.val 0 0) mv)

/-- SACR: An shifted, rounded and saturated into Dd (R307). -/
def execSacr (h : Half) (k : Fin 24) (dd : Fin 64) (an : Fin 4) (sb : Fin 64) (mv : Moves) (s : State) : Host.Outcome State Fault Refusal :=
  .next (issue s h k.val (.alu .sacr 0 dd.val an.val sb.val) mv)

/-- ADDP: Pn modified by Sa (R300). -/
def execAddp (h : Half) (k : Fin 24) (pn : Fin 12) (sa : Fin 64) (mv : Moves) (s : State) : Host.Outcome State Fault Refusal :=
  .next (issue s h k.val (.alu .addp 0 pn.val sa.val 0) mv)

/-- LDI: R = IMM, truncated to the width of R (R323); a reserved number is fault 5. -/
def execLdi (h : Half) (k : Fin 24) (r : BitVec 8) (imm : Word) (s : State) : Host.Outcome State Fault Refusal :=
  .next (issue s h k.val (.imm .ldi r.toNat imm) noMoves)

/-- ADDI: format I on Dd (R323). -/
def execAddi (h : Half) (k : Fin 24) (dd : Fin 64) (imm : Word) (s : State) : Host.Outcome State Fault Refusal :=
  .next (issue s h k.val (.imm .addi dd.val imm) noMoves)

/-- ANDI: format I on Dd (R323). -/
def execAndi (h : Half) (k : Fin 24) (dd : Fin 64) (imm : Word) (s : State) : Host.Outcome State Fault Refusal :=
  .next (issue s h k.val (.imm .andi dd.val imm) noMoves)

/-- ORI: format I on Dd (R323). -/
def execOri (h : Half) (k : Fin 24) (dd : Fin 64) (imm : Word) (s : State) : Host.Outcome State Fault Refusal :=
  .next (issue s h k.val (.imm .ori dd.val imm) noMoves)

/-- XORI: format I on Dd (R323). -/
def execXori (h : Half) (k : Fin 24) (dd : Fin 64) (imm : Word) (s : State) : Host.Outcome State Fault Refusal :=
  .next (issue s h k.val (.imm .xori dd.val imm) noMoves)

/-- CMPI: the conditions of Sa - IMM (R309). -/
def execCmpi (h : Half) (k : Fin 24) (sa : Fin 64) (imm : Word) (s : State) : Host.Outcome State Fault Refusal :=
  .next (issue s h k.val (.imm .cmpi sa.val imm) noMoves)

/-- SHLI: format I on Dd (R323). -/
def execShli (h : Half) (k : Fin 24) (dd : Fin 64) (imm : Word) (s : State) : Host.Outcome State Fault Refusal :=
  .next (issue s h k.val (.imm .shli dd.val imm) noMoves)

/-- SHRI: format I on Dd (R323). -/
def execShri (h : Half) (k : Fin 24) (dd : Fin 64) (imm : Word) (s : State) : Host.Outcome State Fault Refusal :=
  .next (issue s h k.val (.imm .shri dd.val imm) noMoves)

/-- SRAI: format I on Dd (R323). -/
def execSrai (h : Half) (k : Fin 24) (dd : Fin 64) (imm : Word) (s : State) : Host.Outcome State Fault Refusal :=
  .next (issue s h k.val (.imm .srai dd.val imm) noMoves)

/-- ADDPI: Pn modified by IMM (R300). -/
def execAddpi (h : Half) (k : Fin 24) (pn : Fin 12) (imm : Word) (s : State) : Host.Outcome State Fault Refusal :=
  .next (issue s h k.val (.imm .addpi pn.val imm) noMoves)

/-- BR: branch if the condition holds, 2 delay slots (R323). -/
def execBr (h : Half) (k : Fin 24) (cond : BitVec 4) (tgt : BitVec 13) (s : State) : Host.Outcome State Fault Refusal :=
  .next (issue s h k.val (.br cond.toNat tgt.toNat) noMoves)

/-- JR: jump to Pn[12:0] if the condition holds (R323). -/
def execJr (h : Half) (k : Fin 24) (cond : BitVec 4) (pn : Fin 12) (s : State) : Host.Outcome State Fault Refusal :=
  .next (issue s h k.val (.jr cond.toNat pn.val) noMoves)

/-- CALL: P10 = own index + 3, then branch (R323). -/
def execCall (h : Half) (k : Fin 24) (cond : BitVec 4) (tgt : BitVec 13) (s : State) : Host.Outcome State Fault Refusal :=
  .next (issue s h k.val (.call cond.toNat tgt.toNat) noMoves)

/-- RET: JR P10 (R323). -/
def execRet (h : Half) (k : Fin 24)  (s : State) : Host.Outcome State Fault Refusal :=
  .next (issue s h k.val .ret noMoves)

/-- LOOP (R311). -/
def execLoop (h : Half) (k : Fin 24) (count : LoopCount) (n : BitVec 7) (rot : Bool) (s : State) : Host.Outcome State Fault Refusal :=
  .next (issue s h k.val (.loop count n.toNat rot) noMoves)

/-- END: the item ends after two delay slots (R315). -/
def execEndItem (h : Half) (k : Fin 24)  (s : State) : Host.Outcome State Fault Refusal :=
  .next (issue s h k.val .endItem noMoves)

/-- RTI: return from an urgent item (R319). -/
def execRti (h : Half) (k : Fin 24)  (s : State) : Host.Outcome State Fault Refusal :=
  .next (issue s h k.val .rti noMoves)

/-- EI: IE = 1 from the next slot (R323). -/
def execEi (h : Half) (k : Fin 24)  (s : State) : Host.Outcome State Fault Refusal :=
  .next (issue s h k.val .ei noMoves)

/-- DI: IE = 0 from the next slot (R323). -/
def execDi (h : Half) (k : Fin 24)  (s : State) : Host.Outcome State Fault Refusal :=
  .next (issue s h k.val .di noMoves)

/-- SAVELP: the loop state to X memory (R320). -/
def execSavelp (h : Half) (k : Fin 24) (pn : Fin 12) (s : State) : Host.Outcome State Fault Refusal :=
  .next (issue s h k.val (.savelp pn.val) noMoves)

/-- RESTLP: the loop state from X memory (R320). -/
def execRestlp (h : Half) (k : Fin 24) (pn : Fin 12) (s : State) : Host.Outcome State Fault Refusal :=
  .next (issue s h k.val (.restlp pn.val) noMoves)

/-- CLRF: clears the sticky bits its mask names (R299). -/
def execClrf (h : Half) (k : Fin 24) (mask : BitVec 16) (s : State) : Host.Outcome State Fault Refusal :=
  .next (issue s h k.val (.clrf mask.toNat) noMoves)

/-- MOVR: any register to any register (R323). -/
def execMovr (h : Half) (k : Fin 24) (r1 r2 : BitVec 8) (s : State) : Host.Outcome State Fault Refusal :=
  .next (issue s h k.val (.movr r1.toNat r2.toNat) noMoves)

/-- FLD: a far load begins and stalls the core (R316). -/
def execFld (h : Half) (k : Fin 24) (dd dp : Fin 64) (s : State) : Host.Outcome State Fault Refusal :=
  .next (issue s h k.val (.fld dd.val dp.val) noMoves)

/-- FST: a far store begins and stalls the core (R316). -/
def execFst (h : Half) (k : Fin 24) (dp ds : Fin 64) (s : State) : Host.Outcome State Fault Refusal :=
  .next (issue s h k.val (.fst dp.val ds.val) noMoves)

/-- COPY: a block copy begins (R317). -/
def execCopy (h : Half) (k : Fin 24) (dp : Fin 64) (pn : Fin 12) (count : BitVec 13) (mem : BitVec 2) (outbound : Bool) (s : State) : Host.Outcome State Fault Refusal :=
  .next (issue s h k.val (.copy dp.val pn.val count.toNat mem.toNat outbound) noMoves)

/-- WAITC: waits until at most n copies are outstanding (R317). -/
def execWaitc (h : Half) (k : Fin 24) (n : BitVec 3) (s : State) : Host.Outcome State Fault Refusal :=
  .next (issue s h k.val (.waitc n.toNat) noMoves)

/-- HALTD: halts the core as HALT does (R323). -/
def execHaltd (h : Half) (k : Fin 24)  (s : State) : Host.Outcome State Fault Refusal :=
  .next (issue s h k.val .haltd noMoves)

/-- ILLEGAL_INSTRUCTION: a fetched word that is reserved, or that names a reserved register, field or condition, ends the
item with its fault code (R321). A word that is legal changes nothing here: it issues by its own command. -/
def execIllegalInstruction (h : Half) (k : Fin 24) (word : BitVec 64) (s : State) : Host.Outcome State Fault Refusal :=
  .next (match decodeCode word with
    | (.illegal n, _) => issue s h k.val (.illegal n) noMoves
    | (op, mv) => match issueFault (s.core h k.val) op mv with
      | some _ => issue s h k.val op mv
      | none => s)

end Sys2Proof.Machine
end

