-- ==== Sys2Proof/Machine/ExecCoreRun.lean ====
section
/-! DEFINITION. The meanings of the scheduler's commands and of core debugging. -/
namespace Sys2Proof.Machine

/-- POST: a write to SCHED.POST releases, merges, re-posts or refuses an item (R327). -/
def execPost (via : Via) (value : Word) (s : State) : Host.Outcome State Fault Refusal :=
  .next (viaHalf s via (halfOff (SCHED.addr .a)) value.toNat (fun s h => postWrite s h value))

/-- DEADLINE_ABANDON: an item not started by its deadline is abandoned (R333); a REQ item gives the period the slack of an
abandoned result (R44). -/
def execDeadlineAbandon (h : Half) (item : Fin 4096) (s : State) : Host.Outcome State Fault Refusal :=
  match abandonItem s h item.val with
  | (s, req) => .next (if req then abandonWork s h item.val else s)

/-- TRACE_FREEZE: 256 entries after the freeze event the trace stops (R334). -/
def execTraceFreeze (h : Half) (s : State) : Host.Outcome State Fault Refusal := .next (freezeTrace s h)

/-- TR_CLEAR: a write of SCHED.TRACE with TR_CLEAR set (R334). -/
def execTrClear (via : Via) (freezeEn : Bool) (freezeEvt : BitVec 8) (s : State) : Host.Outcome State Fault Refusal :=
  let v := 2 ^ 24 + freezeEvt.toNat * 2 ^ 16 + b2n freezeEn * 2 ^ 15
  .next (viaHalf s via (halfOff (SCHED.addr .a) + 0x14) v (fun s h => traceWrite s h v))

/-- DESCRIPTOR_WRITE: one word of a descriptor (R325). -/
def execDescriptorWrite (via : Via) (item : Fin 4096) (word : Fin 8) (value : Word) (s : State) :
    Host.Outcome State Fault Refusal :=
  .next (viaHalf s via (halfOff (DESC.addr .a item.val) + 4 * word.val) value.toNat
    (fun s h => descWrite s h item.val word.val value))

/-- EVT_LOST_READ: a read of EVT.LOST returns the count and clears it (R336). -/
def execEvtLostRead (via : Via) (evt : Fin 256) (s : State) : Host.Outcome State Fault Refusal :=
  .next (viaRead s via (halfOff (EVT.addr .a) + 0x800 + 4 * evt.val) (fun s h =>
    ((s.fld (EVT.addr h) (EVT.LOST.nth evt.val)), s.setFld (EVT.addr h) (EVT.LOST.nth evt.val) 0)))

/-- URGENT_INTERRUPT_ENTRY: a core enters its urgent item (R318). -/
def execUrgentInterruptEntry (h : Half) (k : Fin 24) (s : State) : Host.Outcome State Fault Refusal :=
  .next (urgentEntry s h k.val)

/-- ARG_PREFETCH_COMPLETE: the argument copy of an item is complete (R331). -/
def execArgPrefetchComplete (h : Half) (k : Fin 24) (lost : Nat) (s : State) : Host.Outcome State Fault Refusal :=
  .next (prefetchDone s h k.val lost)

/-- HALT: a write of HALT in CORE.CTRL (R323). -/
def execHalt (via : Via) (k : Fin 24) (on : Bool) (s : State) : Host.Outcome State Fault Refusal :=
  .next (viaHalf s via (halfOff (CORE.addr .a k.val)) (b2n on) (fun s h => haltWrite s h k.val on))

/-- STEP: a write of STEP in CORE.CTRL of a halted core (R323). The write keeps HALT set. -/
def execCoreStep (via : Via) (k : Fin 24) (s : State) : Host.Outcome State Fault Refusal :=
  .next (viaHalf s via (halfOff (CORE.addr .a k.val)) 3 (fun s h => stepCore s h k.val))

/-- CORE_REG_ACCESS: a read (write = none) or a write of CORE.REG[r] (R323). -/
def execCoreRegAccess (via : Via) (k : Fin 24) (r : BitVec 8) (write : Option Word) (s : State) :
    Host.Outcome State Fault Refusal :=
  let off := halfOff (CORE.addr .a k.val) + 0x1000 + 4 * r.toNat
  match write with
  | none => .next (viaRead s via off (fun s h => ((coreRegRead s h k.val r.toNat).toNat, s)))
  | some w => .next (viaHalf s via off w.toNat (fun s h => coreRegWrite s h k.val r.toNat w))

end Sys2Proof.Machine
end

