-- ==== Sys2Proof/Machine/ExecCycle.lean ====
section
/-! DEFINITION. The meanings of the commands of the servo period. -/
namespace Sys2Proof.Machine

/-- SYNC_INSTANT: TB3 of a half reaches the next multiple of P (R356), and the start sequence goes on (R445). -/
def execSyncInstant (h : Half) (s : State) : Host.Outcome State Fault Refusal :=
  .next (startFinish (syncInstant s h) h)

/-- COMPUTE_WINDOW_OPEN: t_cw_start of the running period (R43). -/
def execComputeWindowOpen (h : Half) (s : State) : Host.Outcome State Fault Refusal :=
  .next (windowOpen s h)

/-- CE_COMPLETE: the engine has written the last torque (R114). -/
def execCeComplete (h : Half) (dt : Nat) (s : State) : Host.Outcome State Fault Refusal :=
  .next (engineDone s h dt)

/-- WORK_ITEM_END: a core's item completes, dt ns after the last command, once its results and copies have landed (R315).
DESIGN CHOICE (log entry 38). -/
def execWorkItemEnd (h : Half) (k : Fin 24) (dt : Nat) (s : State) : Host.Outcome State Fault Refusal :=
  .next (itemEnd (s.passTime dt) h k.val)

/-- ALIGN: a write of ALIGN (R355). -/
def execAlign (via : Via) (s : State) : Host.Outcome State Fault Refusal :=
  .next (viaHalf s via (halfOff (TB3X.addr .a) + 0x4C) 1 (fun s h => alignWrite s h 1))

end Sys2Proof.Machine
end

