-- ==== Sys2Proof/Machine/ExecGovernor.lean ====
section
/-! DEFINITION. The meanings of the commands of shared workspaces and the coordination governor. -/
namespace Sys2Proof.Machine

/-- GOVERNOR_LATE_RAMP: the third tick without a result (R49). -/
def execGovernorLateRamp (h : Half) (s : State) : Host.Outcome State Fault Refusal :=
  .next (govRamp s h)

/-- ZONE_SCAN_COMPLETE: dt ns after the last command the scan of an accepted segment has found its shared-zone intervals (R186).
DESIGN CHOICE (log entry 38). -/
def execZoneScanComplete (h : Half) (j : Fin 16) (seg : Fin 128) (dt : Nat) (s : State) : Host.Outcome State Fault Refusal :=
  .next (zoneScan (s.passTime dt) h j.val seg.val)

/-- BOUNDARY_MESSAGE_RECEIVE: one part of a boundary message on a plant port, with its source address; the second copy is discarded (R181, R17). -/
def execBoundaryMessageReceive (h : Half) (src : Word) (datagram : List Byte)
    (s : State) : Host.Outcome State Fault Refusal :=
  .next (boundaryReceive s h src datagram)

/-- PEER_SILENT: a member's newest message is older than H/4 ticks (R180). -/
def execPeerSilent (h : Half) (i : Fin 8) (s : State) : Host.Outcome State Fault Refusal :=
  .next (peerSilent s h i.val)

/-- ADMISSION_REFUSED: not listed 16 ticks after the first message (R179). -/
def execAdmissionRefused (h : Half) (s : State) : Host.Outcome State Fault Refusal :=
  .next (admissionRefused s h)

/-- DROP: a write of GOV.CMD with DROP and the number (R180). -/
def execDrop (via : Via) (num : BitVec 10) (s : State) : Host.Outcome State Fault Refusal :=
  .next (viaHalf s via (halfOff (GOV.addr .a) + 0xC) (1 + num.toNat * 2 ^ 16) (fun s h => govCmd s h (1 + num.toNat * 2 ^ 16)))

/-- GOV_CLR_CNT: a write of GOV.CMD with CLR_CNT (R176). -/
def execGovClrCnt (via : Via) (s : State) : Host.Outcome State Fault Refusal :=
  .next (viaHalf s via (halfOff (GOV.addr .a) + 0xC) 2 (fun s h => govCmd s h 2))

end Sys2Proof.Machine
end

