-- ==== Sys2Proof/Machine/ExecIsland.lean ====
section
/-! DEFINITION. The meanings of the commands of the safety island, of separation monitoring and of safe messaging. -/
namespace Sys2Proof.Machine

/-- SAFETY_CYCLE: both channels evaluate every function, compare and drive the outputs (R191, R192). -/
def execSafetyCycle (xNs : Nat) (errX errY : List IslandErr) (read : BitVec 24) (s : State) : Host.Outcome State Fault Refusal :=
  .next (safetyCycle s xNs errX errY read.toNat)

/-- SS1_TIME_EXPIRY: t_SS1 after the decision (R203). -/
def execSs1TimeExpiry (g : Fin 16) (s : State) : Host.Outcome State Fault Refusal :=
  .next (driveOutputs (ss1Expire s g.val))

/-- DWELL_EXPIRY: the restart dwell of an arm ends (R238). -/
def execDwellExpiry (a : Fin 16) (s : State) : Host.Outcome State Fault Refusal :=
  .next (dwellExpire s a.val)

/-- UNLOCK_DELAY_EXPIRY: the guard lock is released (R207). -/
def execUnlockDelayExpiry (f : Fin 32) (s : State) : Host.Outcome State Fault Refusal :=
  .next (unlock s f.val)

/-- TWO_HAND_WINDOW_EXPIRY: 500 ms without the second pair (R208). -/
def execTwoHandWindowExpiry (f : Fin 32) (s : State) : Host.Outcome State Fault Refusal :=
  .next (twoHandExpire s f.val)

/-- SAFETY_CONTACT_QUALIFY: a contact qualifies a level in a channel (R197). -/
def execSafetyContactQualify (ch : IslCh) (c : Fin 24) (level : Bool)
    (s : State) : Host.Outcome State Fault Refusal :=
  .next (contactQualify s ch c.val level)

/-- DISCREPANCY_TIMEOUT: the contacts of a pair differ for longer than the discrepancy time (R198). -/
def execDiscrepancyTimeout (p : Fin 12) (s : State) : Host.Outcome State Fault Refusal :=
  .next (discrepancy s p.val)

/-- TEST_PULSE: a pulse of a test source, with the contacts that showed a low sample (R198). -/
def execTestPulse (t : Fin 4) (low : BitVec 24) (s : State) : Host.Outcome State Fault Refusal :=
  .next (testPulse s t.val low.toNat)

/-- OUTPUT_TEST_PULSE: the off-pulse of an output, with the readback of every output (R200). -/
def execOutputTestPulse (o : Fin 24) (read : BitVec 24) (s : State) : Host.Outcome State Fault Refusal :=
  .next (outputTest s o.val read.toNat)

/-- RESET_INPUT_RELEASE: the release of a reset input (R206). -/
def execResetInputRelease (c : Fin 24) (s : State) : Host.Outcome State Fault Refusal :=
  .next (resetRelease s c.val)

/-- ISLAND_RESET: the release of the island reset input (R193). -/
def execIslandReset (c : Fin 24) (s : State) : Host.Outcome State Fault Refusal :=
  .next (islandReset s c.val)

/-- ISLAND_SELF_TEST_COMPLETE: the self-test ends (R193). -/
def execIslandSelfTestComplete (pass : Bool) (s : State) : Host.Outcome State Fault Refusal :=
  .next (selfTestDone s pass)

/-- SWITCH_CHANGE: the contacts of S1 change (R213). -/
def execSwitchChange (x : BitVec 12) (y : BitVec 12) (s : State) : Host.Outcome State Fault Refusal :=
  .next (switchChange s x.toNat y.toNat)

/-- LOAD: ISL.CMD LOAD (R215). -/
def execLoad (m : Master) (s : State) : Host.Outcome State Fault Refusal :=
  .next (rwsBy s m 0xC loadSection)

/-- LOAD_COMPLETE: the staged section has been checked (R215). -/
def execLoadComplete (s : State) : Host.Outcome State Fault Refusal :=
  .next (loadComplete s)

/-- FP_ACCEPT: a write of ISL.FP_ACCEPT (R217). -/
def execFpAccept (m : Master) (value : Word) (s : State) : Host.Outcome State Fault Refusal :=
  .next (rwsBy s m 0x18 (fun s => fpAccept s value.toNat))

/-- SECTION_STAGING_WRITE: a word of the staging window (R215). -/
def execSectionStagingWrite (m : Master) (off : Fin 262144) (value : Word)
    (s : State) : Host.Outcome State Fault Refusal :=
  .next (rwsBy s m (0x800000 + 4 * off.val) (fun s => stagingWrite s (4 * off.val) value))

/-- ISL_STATUS_READ: a read of ISL.STATUS clears WR_REFUSED (R215). -/
def execIslStatusRead (m : Master) (s : State) : Host.Outcome State Fault Refusal :=
  .next ((s.answer m (BitVec.ofNat 64 (s.wordN (ISL.addr + 4)))).putFlag ISL.addr ISL.WR_REFUSED false)

/-- SSM_TEST_GO: SSM.TEST GO (R230). -/
def execSsmTestGo (m : Master) (a : BitVec 4) (s : State) : Host.Outcome State Fault Refusal :=
  .next (rwsBy s m 0x1008 (fun s => ssmTest s a.toNat))

/-- SMSG_CLR_CNT: SMSG.CMD CLR_CNT (R253). -/
def execSmsgClrCnt (m : Master) (s : State) : Host.Outcome State Fault Refusal :=
  .next (rwsBy s m 0x2010 smsgClear)

/-- SAFE_PDU_RECEIVE: a safe PDU reaches the receiver of a connection (R253). -/
def execSafePduReceive (c : Fin 64) (pdu : List Byte) (s : State) : Host.Outcome State Fault Refusal :=
  .next (pduArrive s c.val pdu)

/-- SAFE_WATCHDOG_EXPIRY: a connection's deadline passes in a channel (R252). -/
def execSafeWatchdogExpiry (c : Fin 64) (ch : IslCh) (s : State) : Host.Outcome State Fault Refusal :=
  .next (watchdogCheck s c.val ch)

/-- SAFE_PDU_SEND: the island sends at a connection's send opportunity (R245). -/
def execSafePduSend (c : Fin 64) (s : State) : Host.Outcome State Fault Refusal :=
  .next (pduSend s c.val)

/-- ISLAND_OVERTEMP: the island's sensor reaches 115 C (R460). -/
def execIslandOvertemp (s : State) : Host.Outcome State Fault Refusal :=
  .next (islandOverTemp s)

end Sys2Proof.Machine
end

