-- ==== Sys2Proof/Machine/ExecMotion.lean ====
section
/-! DEFINITION. The meanings of the commands of the servo period, the profile units, the control engine and the arms. -/
namespace Sys2Proof.Machine

/-- RAIL_LOWER: 1,024 periods with slack to spare (R45). -/
def execRailLower (h : Half) (s : State) : Host.Outcome State Fault Refusal := .next (lowerRail s h)

/-- FEEDBACK_PHASE_END: the observers are released (R112). -/
def execFeedbackPhaseEnd (h : Half) (s : State) : Host.Outcome State Fault Refusal := .next (releaseObservers s h)

/-- FEED_FORWARD_LATE: three stale or flagged periods of an arm (R47, R109). -/
def execFeedForwardLate (h : Half) (j : Fin 16) (s : State) : Host.Outcome State Fault Refusal := .next (ffLate s h j.val)

/-- KINEMATICS_LATE: three extrapolated periods of an arm (R48). -/
def execKinematicsLate (h : Half) (j : Fin 16) (s : State) : Host.Outcome State Fault Refusal := .next (ikLate s h j.val)

/-- LOSS_OF_FEEDBACK: LOF_CNT missing replies of an axis (R122). -/
def execLossOfFeedback (h : Half) (k : Fin 128) (s : State) : Host.Outcome State Fault Refusal :=
  .next (lossOfFeedback s h k.val)

/-- BLEND_END: the hand-over blend of an axis ends (R124). -/
def execBlendEnd (h : Half) (k : Fin 128) (s : State) : Host.Outcome State Fault Refusal := .next (blendEnd s h k.val)

/-- GAIN_BLEND_END: the working gain set is the region's entry (R129). -/
def execGainBlendEnd (h : Half) (k : Fin 128) (s : State) : Host.Outcome State Fault Refusal := .next (gainEnd s h k.val)

/-- BRAKE_ENGAGE_TIME_EXPIRY: BRK_T_ENG periods in hold (R126). -/
def execBrakeEngageTimeExpiry (h : Half) (k : Fin 128) (s : State) : Host.Outcome State Fault Refusal :=
  .next (brakeEngaged s h k.val)

/-- BRAKE_RELEASE_TIME_EXPIRY: BRK_T_REL periods after the brake request cleared (R126). -/
def execBrakeReleaseTimeExpiry (h : Half) (k : Fin 128) (s : State) : Host.Outcome State Fault Refusal :=
  .next (brakeReleased s h k.val)

/-- HOME_TORQUE_REACHED: HOME_TQ_TIME periods at HOME_TQ (R80). -/
def execHomeTorqueReached (h : Half) (k : Fin 128) (s : State) : Host.Outcome State Fault Refusal :=
  .next (homeTorque s h k.val)

/-- DEBOUNCE_QUALIFY: input inp (0 positive limit, 1 negative limit, 2 home) of an axis has held its level (R71). -/
def execDebounceQualify (h : Half) (k : Fin 128) (inp : Fin 3) (s : State) : Host.Outcome State Fault Refusal :=
  .next (debounce s h k.val inp.val)

/-- A write of PRF.CMD with a code and a tag, through a view. -/
def prfWrite (via : Via) (k : Fin 128) (code : Nat) (tag : BitVec 8) (s : State) : State :=
  viaHalf s via (halfOff (PRF.addr .a k.val)) (code + tag.toNat * 256) (fun s h => prfCommand s h k.val code tag.toNat)

/-- MOVE_ABS: code 1 (R59). -/
def execMoveAbs (via : Via) (k : Fin 128) (tag : BitVec 8) (s : State) : Host.Outcome State Fault Refusal :=
  .next (prfWrite via k 1 tag s)

/-- MOVE_REL: code 2 (R59). -/
def execMoveRel (via : Via) (k : Fin 128) (tag : BitVec 8) (s : State) : Host.Outcome State Fault Refusal :=
  .next (prfWrite via k 2 tag s)

/-- VELOCITY: code 3 (R57). -/
def execVelocity (via : Via) (k : Fin 128) (tag : BitVec 8) (s : State) : Host.Outcome State Fault Refusal :=
  .next (prfWrite via k 3 tag s)

/-- GEAR: code 4 (R62). -/
def execGear (via : Via) (k : Fin 128) (tag : BitVec 8) (s : State) : Host.Outcome State Fault Refusal :=
  .next (prfWrite via k 4 tag s)

/-- CAM: code 5 (R64). -/
def execCam (via : Via) (k : Fin 128) (tag : BitVec 8) (s : State) : Host.Outcome State Fault Refusal :=
  .next (prfWrite via k 5 tag s)

/-- PATH_FOLLOW: code 6 (R67). -/
def execPathFollow (via : Via) (k : Fin 128) (tag : BitVec 8) (s : State) : Host.Outcome State Fault Refusal :=
  .next (prfWrite via k 6 tag s)

/-- PRF_STOP: code 7 (R57, R60). -/
def execPrfStop (via : Via) (k : Fin 128) (tag : BitVec 8) (s : State) : Host.Outcome State Fault Refusal :=
  .next (prfWrite via k 7 tag s)

/-- PRF_QUICK_STOP: code 8 (R57, R60). -/
def execPrfQuickStop (via : Via) (k : Fin 128) (tag : BitVec 8) (s : State) : Host.Outcome State Fault Refusal :=
  .next (prfWrite via k 8 tag s)

/-- HOME: code 9 (R77). -/
def execHome (via : Via) (k : Fin 128) (tag : BitVec 8) (s : State) : Host.Outcome State Fault Refusal :=
  .next (prfWrite via k 9 tag s)

/-- LIM_CLEAR: code 10 (R74). -/
def execLimClear (via : Via) (k : Fin 128) (tag : BitVec 8) (s : State) : Host.Outcome State Fault Refusal :=
  .next (prfWrite via k 10 tag s)

/-- A write of ARM.CMD with a code and a tag, through a view. -/
def armWrite (via : Via) (j : Fin 16) (code : Nat) (tag : BitVec 8) (s : State) : State :=
  viaHalf s via (halfOff (ARM.addr .a j.val)) (code + tag.toNat * 256) (fun s h => armCommand s h j.val code tag.toNat)

/-- START (R102). -/
def execStart (via : Via) (j : Fin 16) (tag : BitVec 8) (s : State) : Host.Outcome State Fault Refusal :=
  .next (armWrite via j 1 tag s)

/-- ARM_STOP (R101). -/
def execArmStop (via : Via) (j : Fin 16) (tag : BitVec 8) (s : State) : Host.Outcome State Fault Refusal :=
  .next (armWrite via j 2 tag s)

/-- ARM_QUICK_STOP (R101). -/
def execArmQuickStop (via : Via) (j : Fin 16) (tag : BitVec 8) (s : State) : Host.Outcome State Fault Refusal :=
  .next (armWrite via j 3 tag s)

/-- RESUME (R102). -/
def execResume (via : Via) (j : Fin 16) (tag : BitVec 8) (s : State) : Host.Outcome State Fault Refusal :=
  .next (armWrite via j 4 tag s)

/-- ARM_ABORT (R101). -/
def execArmAbort (via : Via) (j : Fin 16) (tag : BitVec 8) (s : State) : Host.Outcome State Fault Refusal :=
  .next (armWrite via j 5 tag s)

/-- CLEAR_ERR (R92). -/
def execClearErr (via : Via) (j : Fin 16) (tag : BitVec 8) (s : State) : Host.Outcome State Fault Refusal :=
  .next (armWrite via j 6 tag s)

/-- Q_WR_WRITE: a write of ARM.Q_WR (R92). -/
def execQWrWrite (via : Via) (j : Fin 16) (idx : BitVec 7) (s : State) : Host.Outcome State Fault Refusal :=
  .next (viaHalf s via (halfOff (ARM.addr .a j.val) + 0x10) idx.toNat (fun s h => qwrWrite s h j.val idx.toNat))

/-- HOIST_GO: a write of GO_PERIOD, whose high word arms a hoist or refuses it (R99, R100). -/
def execHoistGo (via : Via) (period : BitVec 64) (s : State) : Host.Outcome State Fault Refusal :=
  .next (viaHalf2 s via (halfOff (HOIST.addr .a) + 8) period.toNat
    (fun s h => hoistGo (s.setQuad (HOIST.addr h + 8) period.toNat) h))

/-- HOIST_LIST_READ: a read of a hoist entry (R100). -/
def execHoistListRead (via : Via) (i : Fin 8) (s : State) : Host.Outcome State Fault Refusal :=
  .next (viaRead s via (halfOff (HLIST.addr .a i.val)) (fun s h => hoistRead s h i.val))

/-- OBSERVER_HOLD_EXPIRY: the suppression of an arm's observer ends (R113). -/
def execObserverHoldExpiry (h : Half) (j : Fin 16) (s : State) : Host.Outcome State Fault Refusal :=
  .next (obsResume s h j.val)

/-- MODE_REQ_WRITE: a write of CE.MODE (R123). -/
def execModeReqWrite (via : Via) (k : Fin 128) (req : BitVec 3) (s : State) : Host.Outcome State Fault Refusal :=
  .next (viaHalf s via (halfOff (CE.addr .a k.val)) req.toNat (fun s h => modeWrite s h k.val req.toNat))

/-- GT_RELOAD: a write of CE.CMD (R130). -/
def execGtReload (via : Via) (k : Fin 128) (s : State) : Host.Outcome State Fault Refusal :=
  .next (viaHalf s via (halfOff (CE.addr .a k.val) + 0xC) 1 (fun s h => ceCommand s h k.val 1))

/-- RC_CLEAR: a write of CE.CMD (R135). -/
def execRcClear (via : Via) (k : Fin 128) (s : State) : Host.Outcome State Fault Refusal :=
  .next (viaHalf s via (halfOff (CE.addr .a k.val) + 0xC) 2 (fun s h => ceCommand s h k.val 2))

/-- RC_CLEAR_COMPLETE: the learning memory of an axis is cleared (R135). -/
def execRcClearComplete (h : Half) (k : Fin 128) (s : State) : Host.Outcome State Fault Refusal :=
  .next (rcCleared s h k.val)

/-- LEARNING_MEMORY_WRITE: a write of word off of the learning-memory window (R135). -/
def execLearningMemoryWrite (via : Via) (off : Fin 524288) (value : Word) (s : State) : Host.Outcome State Fault Refusal :=
  .next (viaHalf s via (0xE00000 + 4 * off.val) value.toNat (fun s h => learnWrite s h off.val value))

/-- CLR_MIN: a write of SYS.SP_CTRL (R44). -/
def execClrMin (via : Via) (s : State) : Host.Outcome State Fault Refusal :=
  .next (viaHalf s via (halfOff (SYS.addr .a) + 0x120) 1 (fun s h => spCtrl s h 1))

/-- SYS_CLR_CNT: a write of SYS.SP_CTRL (R47). -/
def execSysClrCnt (via : Via) (s : State) : Host.Outcome State Fault Refusal :=
  .next (viaHalf s via (halfOff (SYS.addr .a) + 0x120) 2 (fun s h => spCtrl s h 2))

end Sys2Proof.Machine
end

