-- ==== Sys2Proof/Machine/ExecPower.lean ====
section
/-! DEFINITION. The meanings of the commands of the supply, hold-up and local I/O. -/
namespace Sys2Proof.Machine

/-- BROWN_OUT: hold-up starts (R458): event 0, stop category 1, the key's work abandoned, retained MRAM written. -/
def execBrownOut (vX17 : BitVec 8) (vP3 : BitVec 8) (s : State) : Host.Outcome State Fault Refusal :=
  .next (brownOut s vX17.toNat vP3.toNat)

/-- HOLDUP_STANDBY_OFF: time passes to 0.1 ms of hold-up: the standby half's rail goes off and acquisition stops (R458). -/
def execHoldupStandbyOff (s : State) : Host.Outcome State Fault Refusal :=
  .next (holdupStandby s)

/-- HOLDUP_OUTPUTS_OFF: time passes to 6 ms of hold-up: local outputs off, CAN stops (R458). -/
def execHoldupOutputsOff (s : State) : Host.Outcome State Fault Refusal :=
  .next (holdupOutputs s)

/-- HOLDUP_SAFE_OUTPUTS_OFF: time passes to 20 ms of hold-up: every OSSD and STO pair off (R195). -/
def execHoldupSafeOutputsOff (s : State) : Host.Outcome State Fault Refusal :=
  .next (holdupSafe s)

/-- HOLDUP_END: 25 ms of hold-up: a power-on reset or off (R371, R458). -/
def execHoldupEnd (vX17 : BitVec 8) (vP3 : BitVec 8) (straps : BitVec 14) (passA : Bool) (passB : Bool)
    (s : State) : Host.Outcome State Fault Refusal :=
  .next (holdupEnd s vX17.toNat vP3.toNat straps.toNat passA passB)

/-- SUPPLY_RETURN: event 1 during hold-up (R458). -/
def execSupplyReturn (vX17 : BitVec 8) (vP3 : BitVec 8) (s : State) : Host.Outcome State Fault Refusal :=
  .next (supplyReturn s vX17.toNat vP3.toNat)

/-- SUPPLY_REVERSED: the monitor reports it; the module runs from the other input (R456, R462). -/
def execSupplyReversed (p3 : Bool) (s : State) : Host.Outcome State Fault Refusal :=
  .next (supplyReversed s p3)

/-- IO_SUPPLY_LOW: IO_LOW, event 205; local and X10 outputs off (R462). -/
def execIoSupplyLow (s : State) : Host.Outcome State Fault Refusal :=
  .next (ioLow s)

/-- OUTPUT_OVERLOAD: the output is latched off; OUT_FAULT, event 205 (R462). -/
def execOutputOverload (j : Fin 16) (s : State) : Host.Outcome State Fault Refusal :=
  .next (outputOverload s j.val)

/-- OPEN_WIRE: OPEN_WIRE of the group, event 206 (R462). -/
def execOpenWire (g : Fin 6) (s : State) : Host.Outcome State Fault Refusal :=
  .next (openWire s g.val)

/-- IO_SUPPLY_RETURN: IO_LOW clears; the groups wait for their resets (R204, R462). -/
def execIoSupplyReturn (s : State) : Host.Outcome State Fault Refusal :=
  .next (ioReturn s)

end Sys2Proof.Machine
end

