-- ==== Sys2Proof/Machine/ExecRings.lean ====
section
/-! DEFINITION. The meanings of the commands of the drive rings. -/
namespace Sys2Proof.Machine

/-- SCHEDULE_ENTRY_LAUNCH: the frame of an active schedule entry goes out at its offset (R272). -/
def execScheduleEntryLaunch (h : Half) (r : Fin 8) (e : Fin 192) (s : State) : Host.Outcome State Fault Refusal :=
  .next (launchEntry s h r.val e.val)

/-- REPLY_RECEIVE: a REPLY copy arrives, ns after T_n (R276). -/
def execReplyReceive (h : Half) (r : Fin 8) (chB : Bool) (ns : Nat) (frame : List Byte)
    (s : State) : Host.Outcome State Fault Refusal :=
  .next (replyReceive s h r.val chB ns frame)

/-- SLOT_VIOLATION: a frame or signal outside the windows of a channel (R288). -/
def execSlotViolation (h : Half) (r : Fin 8) (chB : Bool) (node : Option (Fin 32))
    (s : State) : Host.Outcome State Fault Refusal :=
  .next (slotViolation s h r.val chB (node.map Fin.val))

/-- NODE_MISSING: the largest LOF_CNT of a node's axes is reached (R284). -/
def execNodeMissing (h : Half) (r : Fin 8) (node : Fin 24) (s : State) : Host.Outcome State Fault Refusal :=
  .next (nodeMissing s h r.val (node.val + 1))

/-- RING_LOST: 16 silent periods, or both channels unusable (R286). -/
def execRingLost (h : Half) (r : Fin 8) (s : State) : Host.Outcome State Fault Refusal :=
  .next (ringLost s h r.val)

/-- RING_AUTO_RESTART: a lost ring with AUTO_RESTART tries again (R286). -/
def execRingAutoRestart (h : Half) (r : Fin 8) (s : State) : Host.Outcome State Fault Refusal :=
  .next (ringAuto s h r.val)

/-- RING_LINK_DOWN: the link at an end goes down (R289). -/
def execRingLinkDown (h : Half) (r : Fin 8) (end2 : Bool) (s : State) : Host.Outcome State Fault Refusal :=
  .next (linkDown s h r.val end2)

/-- RING_LINK_UP: the link at an end comes up, with what the cable diagnostics found (R281). -/
def execRingLinkUp (h : Half) (r : Fin 8) (end2 : Bool) (cable : Bool)
    (s : State) : Host.Outcome State Fault Refusal :=
  .next (linkUp s h r.val end2 cable)

/-- CHANNEL_RETURN: 64 periods without a violation after the link's return (R289). -/
def execChannelReturn (h : Half) (r : Fin 8) (chB : Bool) (s : State) : Host.Outcome State Fault Refusal :=
  .next (channelReturn s h r.val chB)

/-- NODE_READMIT: a node is re-admitted through the MBX entries for node 0x1F (R285). -/
def execNodeReadmit (h : Half) (r : Fin 8) (node : Fin 24) (launchA : Nat) (launchB : Nat) (frame : List Byte)
    (s : State) : Host.Outcome State Fault Refusal :=
  .next (nodeReadmit s h r.val (node.val + 1) launchA launchB frame)

/-- A write of RING.CTRL with one command bit, AUTO_RESTART written alike. -/
def ringWrite (via : Via) (r : Fin 8) (bit : Nat) (auto : Bool) (s : State) : State :=
  viaHalf s via (halfOff (RING.addr .a r.val)) (2 ^ bit + 256 * b2n auto)
    (fun s h => ringCtrl s h r.val (2 ^ bit + 256 * b2n auto))

/-- RING_START: RING.CTRL START (R281). -/
def execRingStart (via : Via) (r : Fin 8) (auto : Bool) (s : State) : Host.Outcome State Fault Refusal :=
  .next (ringWrite via r 0 auto s)

/-- RING_STOP: RING.CTRL STOP (R281). -/
def execRingStop (via : Via) (r : Fin 8) (auto : Bool) (s : State) : Host.Outcome State Fault Refusal :=
  .next (ringWrite via r 1 auto s)

/-- RESTART: RING.CTRL RESTART (R281, R9). -/
def execRestart (via : Via) (r : Fin 8) (auto : Bool) (s : State) : Host.Outcome State Fault Refusal :=
  .next (ringWrite via r 2 auto s)

/-- RING_CLR_CNT: RING.CTRL CLR_CNT (R277). -/
def execRingClrCnt (via : Via) (r : Fin 8) (auto : Bool) (s : State) : Host.Outcome State Fault Refusal :=
  .next (ringWrite via r 3 auto s)

/-- CH_CLR: RING.CTRL CH_CLR (R288). -/
def execChClr (via : Via) (r : Fin 8) (auto : Bool) (s : State) : Host.Outcome State Fault Refusal :=
  .next (ringWrite via r 4 auto s)

/-- CLAIM_RECEIVE: the own or a foreign CLAIM arrives (R282). -/
def execClaimReceive (h : Half) (r : Fin 8) (own : Bool) (valid : Bool) (pennant : Bool) (epoch : BitVec 8)
    (s : State) : Host.Outcome State Fault Refusal :=
  .next (claimReceive s h r.val own valid pennant epoch.toNat)

/-- CLAIM_TIMEOUT: D_max,k + 20 us without the own CLAIM (R282). -/
def execClaimTimeout (h : Half) (r : Fin 8) (s : State) : Host.Outcome State Fault Refusal :=
  .next (claimTimeout s h r.val)

/-- CLAIM_BACKOFF_EXPIRY: the backoff ends (R282). -/
def execClaimBackoffExpiry (h : Half) (r : Fin 8) (s : State) : Host.Outcome State Fault Refusal :=
  .next (claimAgain s h r.val)

/-- ENUM_RETURN: the ENUM frame returns (R281). -/
def execEnumReturn (h : Half) (r : Fin 8) (hops : BitVec 5) (s : State) : Host.Outcome State Fault Refusal :=
  .next (enumReturn s h r.val hops.toNat)

/-- MEASURE_RETURN: a MEASURE frame returns (R274). -/
def execMeasureReturn (h : Half) (r : Fin 8) (chB : Bool) (launch : Nat) (delay : Nat)
    (s : State) : Host.Outcome State Fault Refusal :=
  .next (measureReturn s h r.val chB launch delay)

/-- REPORT_RECEIVE: a REPORT arrives (R283). -/
def execReportReceive (h : Half) (r : Fin 8) (frame : List Byte) (s : State) : Host.Outcome State Fault Refusal :=
  .next (reportReceive s h r.val frame)

/-- START_STEP_TIMEOUT: a step of the start exceeds its bound (R283). -/
def execStartStepTimeout (h : Half) (r : Fin 8) (s : State) : Host.Outcome State Fault Refusal :=
  .next (stepTimeout s h r.val)

/-- RING_RUNNING: 16 good periods (R281). -/
def execRingRunning (h : Half) (r : Fin 8) (s : State) : Host.Outcome State Fault Refusal :=
  .next (ringRunning s h r.val)

/-- A write of RING.MBX_CTRL. -/
def mbxWrite (via : Via) (r : Fin 8) (v : Nat) (s : State) : State :=
  viaHalf s via (halfOff (RING.addr .a r.val) + 0x400) v (fun s h => mbxCtrl s h r.val v)

/-- MBX_SEND: RING.MBX_CTRL SEND (R270). -/
def execMbxSend (via : Via) (r : Fin 8) (node : BitVec 5) (len : BitVec 8)
    (s : State) : Host.Outcome State Fault Refusal :=
  .next (mbxWrite via r (1 + 256 * node.toNat + 2 ^ 16 * len.toNat) s)

/-- RX_ACK: RING.MBX_CTRL RX_ACK (R270). -/
def execRxAck (via : Via) (r : Fin 8) (s : State) : Host.Outcome State Fault Refusal :=
  .next (mbxWrite via r 2 s)

/-- MBX_RECEIVE: an uplink MBX frame arrives (R270). -/
def execMbxReceive (h : Half) (r : Fin 8) (frame : List Byte) (s : State) : Host.Outcome State Fault Refusal :=
  .next (mbxReceive s h r.val frame)

/-- MBX_TX_FAIL: 64 repetitions without an acknowledgement (R270). -/
def execMbxTxFail (h : Half) (r : Fin 8) (s : State) : Host.Outcome State Fault Refusal :=
  .next (mbxFail s h r.val)

end Sys2Proof.Machine
end

