-- ==== Sys2Proof/Machine/ExecSolver.lean ====
section
/-! DEFINITION. The meanings of the solver-array commands. -/
namespace Sys2Proof.Machine

/-- SOLVER_SUBMIT: a descriptor is copied into a channel's queue or refused with a port code (R140, R153). -/
def execSolverSubmit (via : Via) (port : Fin 32) (value : Word) (s : State) : Host.Outcome State Fault Refusal :=
  .next (viaHalf s via (halfOff (SOLV.addr .a) + 4 * port.val) value.toNat (fun s h => solverSubmit s h port.val value.toNat))

/-- SOLVER_PROBLEM_COMPLETE: outputs, record, status word last, flags and completion event (R144 to R159). -/
def execSolverProblemComplete (h : Half) (k : Fin 18) (s : State) : Host.Outcome State Fault Refusal :=
  .next (solverComplete s h k.val)

/-- CHANNEL_RESET: a write of 1 to RESET of CH.CTRL (R166). -/
def execChannelReset (via : Via) (k : Fin 18) (s : State) : Host.Outcome State Fault Refusal :=
  .next (viaHalf s via (halfOff (CH.addr .a k.val) + 4) 1 (fun s h => chCtrl s h k.val 1))

/-- CH_CLR_CNT: a write of 1 to CLR_CNT of CH.CTRL. -/
def execChClrCnt (via : Via) (k : Fin 18) (s : State) : Host.Outcome State Fault Refusal :=
  .next (viaHalf s via (halfOff (CH.addr .a k.val) + 4) 2 (fun s h => chCtrl s h k.val 2))

/-- SP_LOAD: a write of SP.LOAD_CMD with GO (R161). -/
def execSpLoad (via : Via) (slot : Fin 8) (chan : Bool) (s : State) : Host.Outcome State Fault Refusal :=
  .next (viaHalf s via (halfOff (SOLV.addr .a) + 0x3484) (1 + slot.val * 2 + chan.toNat * 16) (fun s h => spLoad s h slot.val chan.toNat))

/-- SP_LOAD_COMPLETE: the image has been copied and checked (R161). -/
def execSpLoadComplete (h : Half) (chan : Bool) (slot : Fin 8) (s : State) : Host.Outcome State Fault Refusal :=
  .next (spLoadComplete s h chan.toNat slot.val)

end Sys2Proof.Machine
end

