-- ==== Sys2Proof/Machine/ExecStart.lean ====
section
/-! DEFINITION. The meanings of the commands of power-on, the start sequence and the configuration key. -/
namespace Sys2Proof.Machine

/-- POWER_GOOD: a power-on reset: the straps are latched, the halves test themselves, and the start sequence begins (R9, R431, R445, R457). -/
def execPowerGood (straps : BitVec 14) (passA : Bool) (passB : Bool) (vX17 : BitVec 8) (vP3 : BitVec 8) (revX17 : Bool) (revP3 : Bool)
    (s : State) : Host.Outcome State Fault Refusal :=
  .next (powerGood s straps.toNat passA passB vX17.toNat vP3.toNat revX17 revP3)

/-- KEY_INSERTED: a key with its identity and contents; event 11, and a start that waits for one goes on (R438, R446). -/
def execKeyInserted (id : BitVec 64) (cells : List (Nat × Byte)) (s : State) : Host.Outcome State Fault Refusal :=
  .next (keyInserted s id.toNat cells)

/-- KEY_REMOVED: event 11; what runs goes on from the module's own copy (R438). -/
def execKeyRemoved (s : State) : Host.Outcome State Fault Refusal :=
  .next (keyRemoved s)

/-- HOST_GO: the reader takes the host image (R447). -/
def execHostGo (s : State) : Host.Outcome State Fault Refusal :=
  .next (hostGo s)

/-- MODULE_RESET: everything but the strap latches is reset, and the start sequence begins (R9, R445). -/
def execModuleReset (passA : Bool) (passB : Bool) (s : State) : Host.Outcome State Fault Refusal :=
  .next (moduleReset s passA passB)

/-- STRAP_CHECK: the contacts are compared with the latched straps (R433). -/
def execStrapCheck (contacts : BitVec 14) (s : State) : Host.Outcome State Fault Refusal :=
  .next (strapCheck s contacts.toNat)

/-- START_WAIT_EXPIRY: time passes to the end of a half's wait for TB1 or TB2; servo time is set and the rings start (R281, R354). -/
def execStartWaitExpiry (h : Half) (s : State) : Host.Outcome State Fault Refusal :=
  .next (waitExpired s h)

/-- STAGE_DONE: the check of the staged image starts, or is refused (R439). -/
def execStageDone (s : State) : Host.Outcome State Fault Refusal :=
  .next (stageDone s)

/-- STAGE_CHECK_COMPLETE: GEN and READY are written if every check passed; event 12 (R439). -/
def execStageCheckComplete (s : State) : Host.Outcome State Fault Refusal :=
  .next (stageChecked s)

/-- COMMIT: the image is rebuilt from the present values, or the commit is refused (R440). -/
def execCommit (s : State) : Host.Outcome State Fault Refusal :=
  .next (commitStart s)

/-- COMMIT_COMPLETE: GEN and READY are written last; event 12 (R440). -/
def execCommitComplete (ok : Bool) (s : State) : Host.Outcome State Fault Refusal :=
  .next (commitDone s ok)

/-- STAGE_CANCEL: READY of the other slot is cleared if its GEN is higher. -/
def execStageCancel (s : State) : Host.Outcome State Fault Refusal :=
  .next (stageCancel s)

/-- KEY_WINDOW_WRITE: a write through the key window (R439). -/
def execKeyWindowWrite (off : BitVec 24) (value : Word) (s : State) : Host.Outcome State Fault Refusal :=
  .next (keyWrite s off.toNat value)

end Sys2Proof.Machine
end

