-- ==== Sys2Proof/Machine/ExecTakeover.lean ====
section
/-! DEFINITION. The meanings of the commands of the pennants, the mirror, the pair link, the half reset and the junction temperature. -/
namespace Sys2Proof.Machine

/-- A half's temperature warning: event 3 once until the temperature has fallen (R460). -/
def tempWarning (s : State) (h : Half) : State :=
  if s.pen.warm.getD (halfIdx h) false then s
  else raiseEvt (s.setPen { s.pen with warm := s.pen.warm.set (halfIdx h) true }) h 3

/-- A half's fatal temperature: reported once; the half is not eligible until the temperature has fallen (R460). -/
def tempFatal (s : State) (h : Half) : State :=
  if s.pen.hot.getD (halfIdx h) false then s
  else fatalFault (s.setPen { s.pen with hot := s.pen.hot.set (halfIdx h) true }) h

/-- The temperature has fallen below 100 degrees (R460). -/
def tempFall (s : State) (h : Half) : State :=
  s.setPen { s.pen with hot := s.pen.hot.set (halfIdx h) false, warm := s.pen.warm.set (halfIdx h) false }

/-- MIRROR_RECORD_APPLY: the newest complete record is applied whole (R360). -/
def execMirrorRecordApply (h : Half) (s : State) : Host.Outcome State Fault Refusal :=
  .next (mirrorApply s h)

/-- REFERENCE_SWITCH_TO_MONITOR: the reference stops or deviates (R30). -/
def execReferenceSwitchToMonitor (s : State) : Host.Outcome State Fault Refusal :=
  .next (monitorSwitch s)

/-- SELF_TEST_CYCLE: the standby half tests itself and writes its report (R363, R364). -/
def execSelfTestCycle (h : Half) (tested : BitVec 12) (failed : BitVec 12) (cores : BitVec 24) (detail : Word) (temp : BitVec 16)
    (s : State) : Host.Outcome State Fault Refusal :=
  .next (selfTestCycle s h ⟨tested.toNat, failed.toNat, cores.toNat, detail.toNat, temp.toNat⟩)

/-- HEARTBEAT_MISSING: no heartbeat for period n at T_{n+1} (R366). -/
def execHeartbeatMissing (h : Half) (s : State) : Host.Outcome State Fault Refusal :=
  .next (heartbeatMissing s h)

/-- RAIL_FAULT: the rail leaves its range or the regulator fails (R366). -/
def execRailFault (h : Half) (s : State) : Host.Outcome State Fault Refusal :=
  .next (penTrigger s h 2)

/-- FATAL_FAULT: a failed lane check, an uncorrectable memory error or a time-unit failure (R366). -/
def execFatalFault (h : Half) (s : State) : Host.Outcome State Fault Refusal :=
  .next (fatalFault s h)

/-- ARBITER_SELF_CHECK_FAIL: both gates close; event 8 (R21). -/
def execArbiterSelfCheckFail (s : State) : Host.Outcome State Fault Refusal :=
  .next (arbiterFail s)

/-- SWAP: a write of PEN.CMD with SWAP and TARGET (R366, R371). -/
def execSwap (target : Bool) (s : State) : Host.Outcome State Fault Refusal :=
  .next (penCmd s (1 + 4 * b2n target))

/-- REHEARSE: a write of PEN.CMD with REHEARSE and TARGET (R376). -/
def execRehearse (target : Bool) (s : State) : Host.Outcome State Fault Refusal :=
  .next (penCmd s (2 + 4 * b2n target))

/-- PEN_CLR_CNT: a write of PEN.CMD with CLR_CNT. -/
def execPenClrCnt (s : State) : Host.Outcome State Fault Refusal :=
  .next (penCmd s 8)

/-- COMMANDED_SWAP_DUE: the first sync instant at least 2 periods after the write (R366). -/
def execCommandedSwapDue (s : State) : Host.Outcome State Fault Refusal :=
  .next (swapNow s)

/-- REHEARSAL_END: REH_TIME seconds after the swap (R376). -/
def execRehearsalEnd (s : State) : Host.Outcome State Fault Refusal :=
  .next (rehearsalEnd s)

/-- RACK_PENNANT_TAKE: the lines show released: the module takes the rack pennant (R370 to R372). -/
def execRackPennantTake (released : Bool) (s : State) : Host.Outcome State Fault Refusal :=
  .next (rackTake s released)

/-- PAIR_LINK_FRAME_RECEIVE: a frame on a lane of the pair link (R369, R374). -/
def execPairLinkFrameReceive (lane : Fin 2) (crcOk : Bool) (frame : PairFrame)
    (s : State) : Host.Outcome State Fault Refusal :=
  .next (pairReceive s lane.val crcOk frame)

/-- PAIR_LANE_DOWN: no valid LINK frame for 100 us (R373, R374). -/
def execPairLaneDown (lane : Fin 2) (s : State) : Host.Outcome State Fault Refusal :=
  .next (laneDown s lane.val)

/-- HALF_RESET: the half domain is reset (R9 to R11). -/
def execHalfReset (h : Half) (s : State) : Host.Outcome State Fault Refusal :=
  .next (halfReset s h)

/-- TEMP_WARNING: the junction reaches 105 degrees (R460). -/
def execTempWarning (h : Half) (s : State) : Host.Outcome State Fault Refusal :=
  .next (tempWarning s h)

/-- TEMP_FATAL: the junction reaches 112 degrees (R460). -/
def execTempFatal (h : Half) (s : State) : Host.Outcome State Fault Refusal :=
  .next (tempFatal s h)

/-- TEMPERATURE_FALL: the junction falls below 100 degrees (R460). -/
def execTemperatureFall (h : Half) (s : State) : Host.Outcome State Fault Refusal :=
  .next (tempFall s h)

end Sys2Proof.Machine
end

