-- ==== Sys2Proof/Machine/ExecTime.lean ====
section
/-! DEFINITION. The meanings of the commands of the time units: PTP, the servos, servo time, alarms. -/
namespace Sys2Proof.Machine

/-- PTP_MESSAGE_RECEIVE: a PTP message of a domain (R343 to R348). -/
def execPtpMessageReceive (h : Half) (dom : Fin 2) (msg : PtpMsg) (s : State) : Host.Outcome State Fault Refusal :=
  .next (waitLocked (ptpReceive s h dom.val msg) h)

/-- TB_LOCK_LOSS: no sample within LOSS_CNT sync intervals (R345). -/
def execTbLockLoss (h : Half) (dom : Fin 2) (s : State) : Host.Outcome State Fault Refusal :=
  .next (lockLoss s h dom.val)

/-- OFS_IN_SAMPLE: the write of TB.OFS_IN commits a software sample (R346). -/
def execOfsInSample (via : Via) (dom : Fin 2) (value : BitVec 64) (s : State) : Host.Outcome State Fault Refusal :=
  .next (viaHalf2 s via (halfOff (TB.addr .a (dom.val + 1)) + 0x18) value.toNat
    (fun s h => waitLocked (softSample s h (dom.val + 1) value.toNat) h))

/-- TB_SET: a write of SET in TB.CMD applies the staged value (R466). -/
def execTbSet (via : Via) (dom : Fin 2) (s : State) : Host.Outcome State Fault Refusal :=
  .next (viaHalf s via (halfOff (TB.addr .a (dom.val + 1)) + 0x38) 1 (fun s h => tbCmd s h (dom.val + 1) 1))

/-- TB_STAMP: a write of STAMP in TB.CMD latches TB0 for the next software sample (R346). -/
def execTbStamp (via : Via) (dom : Fin 2) (s : State) : Host.Outcome State Fault Refusal :=
  .next (viaHalf s via (halfOff (TB.addr .a (dom.val + 1)) + 0x38) 2 (fun s h => tbCmd s h (dom.val + 1) 2))

/-- TB_RATE_WRITE: the write of TB.RATE sets a free base's rate (R346). -/
def execTbRateWrite (via : Via) (dom : Fin 2) (value : BitVec 64) (s : State) : Host.Outcome State Fault Refusal :=
  .next (viaHalf2 s via (halfOff (TB.addr .a (dom.val + 1)) + 0x10) value.toNat
    (fun s h => rateWrite s h (dom.val + 1) value.toNat))

/-- RETURN_TO_PRIMARY: TB1 has been locked for RETURN_S (R350). -/
def execReturnToPrimary (h : Half) (s : State) : Host.Outcome State Fault Refusal := .next (returnPrimary s h)

/-- TIME_ALARM: a base reaches an alarm's instant (R359). -/
def execTimeAlarm (h : Half) (i : Fin 16) (s : State) : Host.Outcome State Fault Refusal := .next (alarmDue s h i.val)

/-- ALARM_ENABLE: a write of ALARM_CTL that sets EN (R359). -/
def execAlarmEnable (via : Via) (i : Fin 16) (base : BitVec 2) (s : State) : Host.Outcome State Fault Refusal :=
  let v := 1 + 2 * base.toNat
  .next (viaHalf s via (halfOff (ALARM.addr .a i.val) + 0xC) v (fun s h => alarmWrite s h i.val v))

end Sys2Proof.Machine
end

