-- ==== Sys2Proof/Machine/Dispatch.lean ====
section
/-! DEFINITION. One arm per command: the meaning of each. -/
namespace Sys2Proof.Machine

/-- The effect of a command on everything but the queue. -/
def exec (i : Instr) (s : State) : Host.Outcome State Fault Refusal :=
  match i with
  | .powerGood straps passA passB vX17 vP3 revX17 revP3 => Sys2Proof.Machine.execPowerGood straps passA passB vX17 vP3 revX17 revP3 s
  | .keyInserted id cells => Sys2Proof.Machine.execKeyInserted id cells s
  | .keyRemoved => Sys2Proof.Machine.execKeyRemoved s
  | .hostGo => Sys2Proof.Machine.execHostGo s
  | .moduleReset passA passB => Sys2Proof.Machine.execModuleReset passA passB s
  | .halfReset h => Sys2Proof.Machine.execHalfReset h s
  | .strapCheck contacts => Sys2Proof.Machine.execStrapCheck contacts s
  | .syncInstant h => Sys2Proof.Machine.execSyncInstant h s
  | .railLower h => Sys2Proof.Machine.execRailLower h s
  | .governorLateRamp h => Sys2Proof.Machine.execGovernorLateRamp h s
  | .feedbackPhaseEnd h => Sys2Proof.Machine.execFeedbackPhaseEnd h s
  | .computeWindowOpen h => Sys2Proof.Machine.execComputeWindowOpen h s
  | .feedForwardLate h j => Sys2Proof.Machine.execFeedForwardLate h j s
  | .kinematicsLate h j => Sys2Proof.Machine.execKinematicsLate h j s
  | .lossOfFeedback h k => Sys2Proof.Machine.execLossOfFeedback h k s
  | .blendEnd h k => Sys2Proof.Machine.execBlendEnd h k s
  | .gainBlendEnd h k => Sys2Proof.Machine.execGainBlendEnd h k s
  | .brakeEngageTimeExpiry h k => Sys2Proof.Machine.execBrakeEngageTimeExpiry h k s
  | .brakeReleaseTimeExpiry h k => Sys2Proof.Machine.execBrakeReleaseTimeExpiry h k s
  | .homeTorqueReached h k => Sys2Proof.Machine.execHomeTorqueReached h k s
  | .ceComplete h dt => Sys2Proof.Machine.execCeComplete h dt s
  | .mirrorRecordApply h => Sys2Proof.Machine.execMirrorRecordApply h s
  | .moveAbs via k tag => Sys2Proof.Machine.execMoveAbs via k tag s
  | .moveRel via k tag => Sys2Proof.Machine.execMoveRel via k tag s
  | .velocity via k tag => Sys2Proof.Machine.execVelocity via k tag s
  | .gear via k tag => Sys2Proof.Machine.execGear via k tag s
  | .cam via k tag => Sys2Proof.Machine.execCam via k tag s
  | .pathFollow via k tag => Sys2Proof.Machine.execPathFollow via k tag s
  | .prfStop via k tag => Sys2Proof.Machine.execPrfStop via k tag s
  | .prfQuickStop via k tag => Sys2Proof.Machine.execPrfQuickStop via k tag s
  | .home via k tag => Sys2Proof.Machine.execHome via k tag s
  | .limClear via k tag => Sys2Proof.Machine.execLimClear via k tag s
  | .localInputEdge i0 level => Sys2Proof.Machine.execLocalInputEdge i0 level s
  | .fastInputEdge i0 level => Sys2Proof.Machine.execFastInputEdge i0 level s
  | .debounceQualify h k inp => Sys2Proof.Machine.execDebounceQualify h k inp s
  | .start via j tag => Sys2Proof.Machine.execStart via j tag s
  | .armStop via j tag => Sys2Proof.Machine.execArmStop via j tag s
  | .armQuickStop via j tag => Sys2Proof.Machine.execArmQuickStop via j tag s
  | .resume via j tag => Sys2Proof.Machine.execResume via j tag s
  | .armAbort via j tag => Sys2Proof.Machine.execArmAbort via j tag s
  | .clearErr via j tag => Sys2Proof.Machine.execClearErr via j tag s
  | .qWrWrite via j idx => Sys2Proof.Machine.execQWrWrite via j idx s
  | .zoneScanComplete h j seg dt => Sys2Proof.Machine.execZoneScanComplete h j seg dt s
  | .hoistGo via period => Sys2Proof.Machine.execHoistGo via period s
  | .hoistListRead via i0 => Sys2Proof.Machine.execHoistListRead via i0 s
  | .observerHoldExpiry h j => Sys2Proof.Machine.execObserverHoldExpiry h j s
  | .modeReqWrite via k req => Sys2Proof.Machine.execModeReqWrite via k req s
  | .gtReload via k => Sys2Proof.Machine.execGtReload via k s
  | .rcClear via k => Sys2Proof.Machine.execRcClear via k s
  | .rcClearComplete h k => Sys2Proof.Machine.execRcClearComplete h k s
  | .learningMemoryWrite via off value => Sys2Proof.Machine.execLearningMemoryWrite via off value s
  | .clrMin via => Sys2Proof.Machine.execClrMin via s
  | .sysClrCnt via => Sys2Proof.Machine.execSysClrCnt via s
  | .solverSubmit via port value => Sys2Proof.Machine.execSolverSubmit via port value s
  | .solverProblemComplete h k => Sys2Proof.Machine.execSolverProblemComplete h k s
  | .channelReset via k => Sys2Proof.Machine.execChannelReset via k s
  | .chClrCnt via k => Sys2Proof.Machine.execChClrCnt via k s
  | .spLoad via slot chan => Sys2Proof.Machine.execSpLoad via slot chan s
  | .spLoadComplete h chan slot => Sys2Proof.Machine.execSpLoadComplete h chan slot s
  | .boundaryMessageReceive h src datagram => Sys2Proof.Machine.execBoundaryMessageReceive h src datagram s
  | .peerSilent h i0 => Sys2Proof.Machine.execPeerSilent h i0 s
  | .admissionRefused h => Sys2Proof.Machine.execAdmissionRefused h s
  | .drop via num => Sys2Proof.Machine.execDrop via num s
  | .govClrCnt via => Sys2Proof.Machine.execGovClrCnt via s
  | .safetyCycle xNs errX errY read => Sys2Proof.Machine.execSafetyCycle xNs errX errY read s
  | .ss1TimeExpiry g => Sys2Proof.Machine.execSs1TimeExpiry g s
  | .dwellExpiry a => Sys2Proof.Machine.execDwellExpiry a s
  | .unlockDelayExpiry f => Sys2Proof.Machine.execUnlockDelayExpiry f s
  | .twoHandWindowExpiry f => Sys2Proof.Machine.execTwoHandWindowExpiry f s
  | .safetyContactQualify ch c level => Sys2Proof.Machine.execSafetyContactQualify ch c level s
  | .discrepancyTimeout p => Sys2Proof.Machine.execDiscrepancyTimeout p s
  | .testPulse t low => Sys2Proof.Machine.execTestPulse t low s
  | .outputTestPulse o read => Sys2Proof.Machine.execOutputTestPulse o read s
  | .resetInputRelease c => Sys2Proof.Machine.execResetInputRelease c s
  | .islandReset c => Sys2Proof.Machine.execIslandReset c s
  | .islandSelfTestComplete pass => Sys2Proof.Machine.execIslandSelfTestComplete pass s
  | .switchChange x y => Sys2Proof.Machine.execSwitchChange x y s
  | .load m => Sys2Proof.Machine.execLoad m s
  | .loadComplete => Sys2Proof.Machine.execLoadComplete s
  | .fpAccept m value => Sys2Proof.Machine.execFpAccept m value s
  | .sectionStagingWrite m off value => Sys2Proof.Machine.execSectionStagingWrite m off value s
  | .islStatusRead m => Sys2Proof.Machine.execIslStatusRead m s
  | .ssmTestGo m a => Sys2Proof.Machine.execSsmTestGo m a s
  | .smsgClrCnt m => Sys2Proof.Machine.execSmsgClrCnt m s
  | .safePduReceive c pdu => Sys2Proof.Machine.execSafePduReceive c pdu s
  | .safeWatchdogExpiry c ch => Sys2Proof.Machine.execSafeWatchdogExpiry c ch s
  | .safePduSend c => Sys2Proof.Machine.execSafePduSend c s
  | .islandOvertemp => Sys2Proof.Machine.execIslandOvertemp s
  | .scheduleEntryLaunch h r e => Sys2Proof.Machine.execScheduleEntryLaunch h r e s
  | .replyReceive h r chB ns frame => Sys2Proof.Machine.execReplyReceive h r chB ns frame s
  | .slotViolation h r chB node => Sys2Proof.Machine.execSlotViolation h r chB node s
  | .nodeMissing h r node => Sys2Proof.Machine.execNodeMissing h r node s
  | .ringLost h r => Sys2Proof.Machine.execRingLost h r s
  | .ringAutoRestart h r => Sys2Proof.Machine.execRingAutoRestart h r s
  | .ringLinkDown h r end2 => Sys2Proof.Machine.execRingLinkDown h r end2 s
  | .ringLinkUp h r end2 cable => Sys2Proof.Machine.execRingLinkUp h r end2 cable s
  | .channelReturn h r chB => Sys2Proof.Machine.execChannelReturn h r chB s
  | .nodeReadmit h r node launchA launchB frame => Sys2Proof.Machine.execNodeReadmit h r node launchA launchB frame s
  | .ringStart via r auto => Sys2Proof.Machine.execRingStart via r auto s
  | .ringStop via r auto => Sys2Proof.Machine.execRingStop via r auto s
  | .restart via r auto => Sys2Proof.Machine.execRestart via r auto s
  | .ringClrCnt via r auto => Sys2Proof.Machine.execRingClrCnt via r auto s
  | .chClr via r auto => Sys2Proof.Machine.execChClr via r auto s
  | .claimReceive h r own valid pennant epoch => Sys2Proof.Machine.execClaimReceive h r own valid pennant epoch s
  | .claimTimeout h r => Sys2Proof.Machine.execClaimTimeout h r s
  | .claimBackoffExpiry h r => Sys2Proof.Machine.execClaimBackoffExpiry h r s
  | .enumReturn h r hops => Sys2Proof.Machine.execEnumReturn h r hops s
  | .measureReturn h r chB launch delay => Sys2Proof.Machine.execMeasureReturn h r chB launch delay s
  | .reportReceive h r frame => Sys2Proof.Machine.execReportReceive h r frame s
  | .startStepTimeout h r => Sys2Proof.Machine.execStartStepTimeout h r s
  | .ringRunning h r => Sys2Proof.Machine.execRingRunning h r s
  | .mbxSend via r node len => Sys2Proof.Machine.execMbxSend via r node len s
  | .rxAck via r => Sys2Proof.Machine.execRxAck via r s
  | .mbxReceive h r frame => Sys2Proof.Machine.execMbxReceive h r frame s
  | .mbxTxFail h r => Sys2Proof.Machine.execMbxTxFail h r s
  | .nop h k mv => Sys2Proof.Machine.execNop h k mv s
  | .mac h k aa sa sb mv => Sys2Proof.Machine.execMac h k aa sa sb mv s
  | .mac2 h k aa ab sa sb sc sd mv => Sys2Proof.Machine.execMac2 h k aa ab sa sb sc sd mv s
  | .msu2 h k aa ab sa sb sc sd mv => Sys2Proof.Machine.execMsu2 h k aa ab sa sb sc sd mv s
  | .mpy2 h k aa ab sa sb sc sd mv => Sys2Proof.Machine.execMpy2 h k aa ab sa sb sc sd mv s
  | .macf2 h k aa ab sa sb sc sd mv => Sys2Proof.Machine.execMacf2 h k aa ab sa sb sc sd mv s
  | .msuf2 h k aa ab sa sb sc sd mv => Sys2Proof.Machine.execMsuf2 h k aa ab sa sb sc sd mv s
  | .macsu2 h k aa ab sa sb sc sd mv => Sys2Proof.Machine.execMacsu2 h k aa ab sa sb sc sd mv s
  | .fma h k t sa sb mv => Sys2Proof.Machine.execFma h k t sa sb mv s
  | .fma2 h k t sa sb sc sd mv => Sys2Proof.Machine.execFma2 h k t sa sb sc sd mv s
  | .fms2 h k t sa sb sc sd mv => Sys2Proof.Machine.execFms2 h k t sa sb sc sd mv s
  | .fmul2 h k t sa sb sc sd mv => Sys2Proof.Machine.execFmul2 h k t sa sb sc sd mv s
  | .fadd2 h k t sa sb sc sd mv => Sys2Proof.Machine.execFadd2 h k t sa sb sc sd mv s
  | .fsub2 h k t sa sb sc sd mv => Sys2Proof.Machine.execFsub2 h k t sa sb sc sd mv s
  | .movd h k dd sa mv => Sys2Proof.Machine.execMovd h k dd sa mv s
  | .add h k dd sa sb mv => Sys2Proof.Machine.execAdd h k dd sa sb mv s
  | .sub h k dd sa sb mv => Sys2Proof.Machine.execSub h k dd sa sb mv s
  | .adds h k dd sa sb mv => Sys2Proof.Machine.execAdds h k dd sa sb mv s
  | .subs h k dd sa sb mv => Sys2Proof.Machine.execSubs h k dd sa sb mv s
  | .and h k dd sa sb mv => Sys2Proof.Machine.execAnd h k dd sa sb mv s
  | .or h k dd sa sb mv => Sys2Proof.Machine.execOr h k dd sa sb mv s
  | .xor h k dd sa sb mv => Sys2Proof.Machine.execXor h k dd sa sb mv s
  | .andn h k dd sa sb mv => Sys2Proof.Machine.execAndn h k dd sa sb mv s
  | .shl h k dd sa sb mv => Sys2Proof.Machine.execShl h k dd sa sb mv s
  | .shr h k dd sa sb mv => Sys2Proof.Machine.execShr h k dd sa sb mv s
  | .sra h k dd sa sb mv => Sys2Proof.Machine.execSra h k dd sa sb mv s
  | .shls h k dd sa sb mv => Sys2Proof.Machine.execShls h k dd sa sb mv s
  | .min h k dd sa sb mv => Sys2Proof.Machine.execMin h k dd sa sb mv s
  | .max h k dd sa sb mv => Sys2Proof.Machine.execMax h k dd sa sb mv s
  | .minu h k dd sa sb mv => Sys2Proof.Machine.execMinu h k dd sa sb mv s
  | .maxu h k dd sa sb mv => Sys2Proof.Machine.execMaxu h k dd sa sb mv s
  | .abs h k dd sa mv => Sys2Proof.Machine.execAbs h k dd sa mv s
  | .neg h k dd sa mv => Sys2Proof.Machine.execNeg h k dd sa mv s
  | .cmp h k sa sb mv => Sys2Proof.Machine.execCmp h k sa sb mv s
  | .cmpu h k sa sb mv => Sys2Proof.Machine.execCmpu h k sa sb mv s
  | .sel h k cond dd sa sb mv => Sys2Proof.Machine.execSel h k cond dd sa sb mv s
  | .mul h k dd sa sb mv => Sys2Proof.Machine.execMul h k dd sa sb mv s
  | .mulh h k dd sa sb mv => Sys2Proof.Machine.execMulh h k dd sa sb mv s
  | .mulq h k dd sa sb mv => Sys2Proof.Machine.execMulq h k dd sa sb mv s
  | .cls h k dd sa mv => Sys2Proof.Machine.execCls h k dd sa mv s
  | .fadd h k dd sa sb mv => Sys2Proof.Machine.execFadd h k dd sa sb mv s
  | .fsub h k dd sa sb mv => Sys2Proof.Machine.execFsub h k dd sa sb mv s
  | .fmul h k dd sa sb mv => Sys2Proof.Machine.execFmul h k dd sa sb mv s
  | .fmin h k dd sa sb mv => Sys2Proof.Machine.execFmin h k dd sa sb mv s
  | .fmax h k dd sa sb mv => Sys2Proof.Machine.execFmax h k dd sa sb mv s
  | .fabs h k dd sa mv => Sys2Proof.Machine.execFabs h k dd sa mv s
  | .fneg h k dd sa mv => Sys2Proof.Machine.execFneg h k dd sa mv s
  | .fcmp h k sa sb mv => Sys2Proof.Machine.execFcmp h k sa sb mv s
  | .frcpe h k dd sa mv => Sys2Proof.Machine.execFrcpe h k dd sa mv s
  | .frsqe h k dd sa mv => Sys2Proof.Machine.execFrsqe h k dd sa mv s
  | .ftoi h k dd sa mv => Sys2Proof.Machine.execFtoi h k dd sa mv s
  | .itof h k dd sa mv => Sys2Proof.Machine.execItof h k dd sa mv s
  | .ftoq h k dd sa mv => Sys2Proof.Machine.execFtoq h k dd sa mv s
  | .qtof h k dd sa mv => Sys2Proof.Machine.execQtof h k dd sa mv s
  | .clra h k an mv => Sys2Proof.Machine.execClra h k an mv s
  | .mova h k an sa sb mv => Sys2Proof.Machine.execMova h k an sa sb mv s
  | .adda h k an am mv => Sys2Proof.Machine.execAdda h k an am mv s
  | .suba h k an am mv => Sys2Proof.Machine.execSuba h k an am mv s
  | .nega h k an mv => Sys2Proof.Machine.execNega h k an mv s
  | .sacr h k dd an sb mv => Sys2Proof.Machine.execSacr h k dd an sb mv s
  | .addp h k pn sa mv => Sys2Proof.Machine.execAddp h k pn sa mv s
  | .ldi h k r imm => Sys2Proof.Machine.execLdi h k r imm s
  | .addi h k dd imm => Sys2Proof.Machine.execAddi h k dd imm s
  | .andi h k dd imm => Sys2Proof.Machine.execAndi h k dd imm s
  | .ori h k dd imm => Sys2Proof.Machine.execOri h k dd imm s
  | .xori h k dd imm => Sys2Proof.Machine.execXori h k dd imm s
  | .cmpi h k sa imm => Sys2Proof.Machine.execCmpi h k sa imm s
  | .shli h k dd imm => Sys2Proof.Machine.execShli h k dd imm s
  | .shri h k dd imm => Sys2Proof.Machine.execShri h k dd imm s
  | .srai h k dd imm => Sys2Proof.Machine.execSrai h k dd imm s
  | .addpi h k pn imm => Sys2Proof.Machine.execAddpi h k pn imm s
  | .br h k cond tgt => Sys2Proof.Machine.execBr h k cond tgt s
  | .jr h k cond pn => Sys2Proof.Machine.execJr h k cond pn s
  | .call h k cond tgt => Sys2Proof.Machine.execCall h k cond tgt s
  | .ret h k => Sys2Proof.Machine.execRet h k s
  | .loop h k count n rot => Sys2Proof.Machine.execLoop h k count n rot s
  | .endItem h k => Sys2Proof.Machine.execEndItem h k s
  | .rti h k => Sys2Proof.Machine.execRti h k s
  | .ei h k => Sys2Proof.Machine.execEi h k s
  | .di h k => Sys2Proof.Machine.execDi h k s
  | .savelp h k pn => Sys2Proof.Machine.execSavelp h k pn s
  | .restlp h k pn => Sys2Proof.Machine.execRestlp h k pn s
  | .clrf h k mask => Sys2Proof.Machine.execClrf h k mask s
  | .movr h k r1 r2 => Sys2Proof.Machine.execMovr h k r1 r2 s
  | .fld h k dd dp => Sys2Proof.Machine.execFld h k dd dp s
  | .fst h k dp ds => Sys2Proof.Machine.execFst h k dp ds s
  | .copy h k dp pn count mem outbound => Sys2Proof.Machine.execCopy h k dp pn count mem outbound s
  | .waitc h k n => Sys2Proof.Machine.execWaitc h k n s
  | .haltd h k => Sys2Proof.Machine.execHaltd h k s
  | .illegalInstruction h k word => Sys2Proof.Machine.execIllegalInstruction h k word s
  | .farAccessComplete h k lost => Sys2Proof.Machine.execFarAccessComplete h k lost s
  | .copyComplete h k lost => Sys2Proof.Machine.execCopyComplete h k lost s
  | .urgentInterruptEntry h k => Sys2Proof.Machine.execUrgentInterruptEntry h k s
  | .workItemEnd h k dt => Sys2Proof.Machine.execWorkItemEnd h k dt s
  | .argPrefetchComplete h k lost => Sys2Proof.Machine.execArgPrefetchComplete h k lost s
  | .halt via k on => Sys2Proof.Machine.execHalt via k on s
  | .coreStep via k => Sys2Proof.Machine.execCoreStep via k s
  | .coreRegAccess via k r write => Sys2Proof.Machine.execCoreRegAccess via k r write s
  | .post via value => Sys2Proof.Machine.execPost via value s
  | .deadlineAbandon h item => Sys2Proof.Machine.execDeadlineAbandon h item s
  | .traceFreeze h => Sys2Proof.Machine.execTraceFreeze h s
  | .trClear via freezeEn freezeEvt => Sys2Proof.Machine.execTrClear via freezeEn freezeEvt s
  | .descriptorWrite via item word value => Sys2Proof.Machine.execDescriptorWrite via item word value s
  | .evtLostRead via evt => Sys2Proof.Machine.execEvtLostRead via evt s
  | .ptpMessageReceive h dom msg => Sys2Proof.Machine.execPtpMessageReceive h dom msg s
  | .tbLockLoss h dom => Sys2Proof.Machine.execTbLockLoss h dom s
  | .ofsInSample via dom value => Sys2Proof.Machine.execOfsInSample via dom value s
  | .tbSet via dom => Sys2Proof.Machine.execTbSet via dom s
  | .tbStamp via dom => Sys2Proof.Machine.execTbStamp via dom s
  | .tbRateWrite via dom value => Sys2Proof.Machine.execTbRateWrite via dom value s
  | .align via => Sys2Proof.Machine.execAlign via s
  | .returnToPrimary h => Sys2Proof.Machine.execReturnToPrimary h s
  | .startWaitExpiry h => Sys2Proof.Machine.execStartWaitExpiry h s
  | .timeAlarm h i0 => Sys2Proof.Machine.execTimeAlarm h i0 s
  | .alarmEnable via i0 base => Sys2Proof.Machine.execAlarmEnable via i0 base s
  | .referenceSwitchToMonitor => Sys2Proof.Machine.execReferenceSwitchToMonitor s
  | .selfTestCycle h tested failed cores detail temp => Sys2Proof.Machine.execSelfTestCycle h tested failed cores detail temp s
  | .heartbeatMissing h => Sys2Proof.Machine.execHeartbeatMissing h s
  | .railFault h => Sys2Proof.Machine.execRailFault h s
  | .fatalFault h => Sys2Proof.Machine.execFatalFault h s
  | .activeViewHoldRelease => Sys2Proof.Machine.execActiveViewHoldRelease s
  | .arbiterSelfCheckFail => Sys2Proof.Machine.execArbiterSelfCheckFail s
  | .swap target => Sys2Proof.Machine.execSwap target s
  | .rehearse target => Sys2Proof.Machine.execRehearse target s
  | .penClrCnt => Sys2Proof.Machine.execPenClrCnt s
  | .commandedSwapDue => Sys2Proof.Machine.execCommandedSwapDue s
  | .rehearsalEnd => Sys2Proof.Machine.execRehearsalEnd s
  | .rackPennantTake released => Sys2Proof.Machine.execRackPennantTake released s
  | .pairLinkFrameReceive lane crcOk frame => Sys2Proof.Machine.execPairLinkFrameReceive lane crcOk frame s
  | .pairLaneDown lane => Sys2Proof.Machine.execPairLaneDown lane s
  | .txRequest via c b ctrl => Sys2Proof.Machine.execTxRequest via c b ctrl s
  | .txAbort via c b sending => Sys2Proof.Machine.execTxAbort via c b sending s
  | .canTxAttemptEnd h c b sof result => Sys2Proof.Machine.execCanTxAttemptEnd h c b sof result s
  | .txDeadlineAbort h c b => Sys2Proof.Machine.execTxDeadlineAbort h c b s
  | .canFrameReceive h c frame stamp => Sys2Proof.Machine.execCanFrameReceive h c frame stamp s
  | .canError h c err => Sys2Proof.Machine.execCanError h c err s
  | .alone h c => Sys2Proof.Machine.execAlone h c s
  | .integrationComplete h c => Sys2Proof.Machine.execIntegrationComplete h c s
  | .recoveryComplete h c => Sys2Proof.Machine.execRecoveryComplete h c s
  | .recover via c => Sys2Proof.Machine.execRecover via c s
  | .releaseMb via c m => Sys2Proof.Machine.execReleaseMb via c m s
  | .canClrCnt via c => Sys2Proof.Machine.execCanClrCnt via c s
  | .canModeRequest via c ctrl => Sys2Proof.Machine.execCanModeRequest via c ctrl s
  | .mailboxHeadRead via c m => Sys2Proof.Machine.execMailboxHeadRead via c m s
  | .mailboxLastWordRead via c m off => Sys2Proof.Machine.execMailboxLastWordRead via c m off s
  | .cqAck via c idx => Sys2Proof.Machine.execCqAck via c idx s
  | .polaritySwapped h c => Sys2Proof.Machine.execPolaritySwapped h c s
  | .stuckDom h c => Sys2Proof.Machine.execStuckDom h c s
  | .armRecord via r => Sys2Proof.Machine.execArmRecord via r s
  | .disarm via r => Sys2Proof.Machine.execDisarm via r s
  | .disarmTakeEffect h r => Sys2Proof.Machine.execDisarmTakeEffect h r s
  | .force via r => Sys2Proof.Machine.execForce via r s
  | .clear via r => Sys2Proof.Machine.execClear via r s
  | .recordRearm h r => Sys2Proof.Machine.execRecordRearm h r s
  | .clrLog via => Sys2Proof.Machine.execClrLog via s
  | .acqClrCnt via => Sys2Proof.Machine.execAcqClrCnt via s
  | .triggerInputEdge t rising => Sys2Proof.Machine.execTriggerInputEdge t rising s
  | .halyardEdge line low => Sys2Proof.Machine.execHalyardEdge line low s
  | .halyardPulseEnd line => Sys2Proof.Machine.execHalyardPulseEnd line s
  | .hlPulse mask => Sys2Proof.Machine.execHlPulse mask s
  | .remoteTriggerReceive h message => Sys2Proof.Machine.execRemoteTriggerReceive h message s
  | .k16SlaveCycle io addr write => Sys2Proof.Machine.execK16SlaveCycle io addr write s
  | .k32SlaveCycle addr write => Sys2Proof.Machine.execK32SlaveCycle addr write s
  | .k32BlockBeat first addr write => Sys2Proof.Machine.execK32BlockBeat first addr write s
  | .k16IackCycle level => Sys2Proof.Machine.execK16IackCycle level s
  | .k32IackCycle line => Sys2Proof.Machine.execK32IackCycle line s
  | .outboundAccess m off write => Sys2Proof.Machine.execOutboundAccess m off write s
  | .busGrantTimeout => Sys2Proof.Machine.execBusGrantTimeout s
  | .busRequest breq bbsy => Sys2Proof.Machine.execBusRequest breq bbsy s
  | .grantLost => Sys2Proof.Machine.execGrantLost s
  | .busTimerExpiry k32 iosp wrt addr => Sys2Proof.Machine.execBusTimerExpiry k32 iosp wrt addr s
  | .foreignArbiterDetected => Sys2Proof.Machine.execForeignArbiterDetected s
  | .interruptAsserted k32 line on => Sys2Proof.Machine.execInterruptAsserted k32 line on s
  | .iack sel answer => Sys2Proof.Machine.execIack sel answer s
  | .iackReassert => Sys2Proof.Machine.execIackReassert s
  | .sysrstReceive passA passB => Sys2Proof.Machine.execSysrstReceive passA passB s
  | .sysrstOut => Sys2Proof.Machine.execSysrstOut s
  | .bpiClrCnt => Sys2Proof.Machine.execBpiClrCnt s
  | .doorbell value => Sys2Proof.Machine.execDoorbell value s
  | .vecPendClear mask => Sys2Proof.Machine.execVecPendClear mask s
  | .pcieRequest bar off en data poisoned => Sys2Proof.Machine.execPcieRequest bar off en data poisoned s
  | .pcieReset perst d3hot => Sys2Proof.Machine.execPcieReset perst d3hot s
  | .serviceRequest src datagram => Sys2Proof.Machine.execServiceRequest src datagram s
  | .snapshotRead m addr => Sys2Proof.Machine.execSnapshotRead m addr s
  | .registerWrite m addr value => Sys2Proof.Machine.execRegisterWrite m addr value s
  | .stageDone => Sys2Proof.Machine.execStageDone s
  | .stageCheckComplete => Sys2Proof.Machine.execStageCheckComplete s
  | .commit => Sys2Proof.Machine.execCommit s
  | .commitComplete ok => Sys2Proof.Machine.execCommitComplete ok s
  | .stageCancel => Sys2Proof.Machine.execStageCancel s
  | .keyWindowWrite off value => Sys2Proof.Machine.execKeyWindowWrite off value s
  | .brownOut vX17 vP3 => Sys2Proof.Machine.execBrownOut vX17 vP3 s
  | .holdupStandbyOff => Sys2Proof.Machine.execHoldupStandbyOff s
  | .holdupOutputsOff => Sys2Proof.Machine.execHoldupOutputsOff s
  | .holdupSafeOutputsOff => Sys2Proof.Machine.execHoldupSafeOutputsOff s
  | .holdupEnd vX17 vP3 straps passA passB => Sys2Proof.Machine.execHoldupEnd vX17 vP3 straps passA passB s
  | .supplyReturn vX17 vP3 => Sys2Proof.Machine.execSupplyReturn vX17 vP3 s
  | .supplyReversed p3 => Sys2Proof.Machine.execSupplyReversed p3 s
  | .ioSupplyLow => Sys2Proof.Machine.execIoSupplyLow s
  | .outputOverload j => Sys2Proof.Machine.execOutputOverload j s
  | .openWire g => Sys2Proof.Machine.execOpenWire g s
  | .tempWarning h => Sys2Proof.Machine.execTempWarning h s
  | .tempFatal h => Sys2Proof.Machine.execTempFatal h s
  | .ioSupplyReturn => Sys2Proof.Machine.execIoSupplyReturn s
  | .temperatureFall h => Sys2Proof.Machine.execTemperatureFall h s
  | .busRecessiveAgain h c => Sys2Proof.Machine.execBusRecessiveAgain h c s
  | .pcieLinkStateChange up width speed setup => Sys2Proof.Machine.execPcieLinkStateChange up width speed setup s
  | .busGrantAtBgin answer => Sys2Proof.Machine.execBusGrantAtBgin answer s

end Sys2Proof.Machine
end

