-- ==== Sys2Proof/Safety.lean ====
section
/-! DEFINITION. What a sound state of the block is, in the terms the statements use. -/
namespace Sys2Proof.Machine

/-- Memory is in its one canonical form: addresses strictly rising, no byte listed that an unlisted address reads as. -/
def Memory.wf (m : List Host.Cell) : Bool := storeWf 0 m

/-- The stores of a state are canonical: registers listed by strictly rising address, memory in its canonical form. -/
def State.canonical (s : State) : Bool := storeSorted s.regs && Memory.wf s.mem

/-- A step that answers a next state. -/
def stepsTo (s t : State) : Prop := step s = .next t

/-- The states a run from s reaches. -/
inductive Reaches : State → State → Prop where
  | refl (s : State) : Reaches s s
  | step {s t u : State} : Reaches s t → stepsTo t u → Reaches s u

/-- The instruction takes a second slot on the C bus (R294): it loads a coefficient and does not issue from the repeat
cache. -/
def twoSlots (s : State) (h : Half) (k : Nat) (mv : Moves) : Bool := mv.ye && mv.yc && !mv.ys && !inCache (s.core h k)

/-- No move of the instruction is a Y store with YC = 1 (R321, code 6). -/
def legalMoves (mv : Moves) : Bool := !(mv.ye && mv.ys && mv.yc)

/-- What a computing instruction leaves: the core as its operation left it in issue order, then its moves, then the end
of its slot, at which lands and the results of the moves join the results in flight (R300 to R302). -/
def issued (s : State) (h : Half) (k : Nat) (c : CoreUnit) (mv : Moves) (lands : List Landing) : State :=
  finishIssue (doMoves (s.setCore h k c) h k mv).1 h k (lands ++ (doMoves (s.setCore h k c) h k mv).2) []
    (twoSlots s h k mv) none

/-- A result of one slot in data register dd, as the file stands at issue (R298, R301). -/
def word1 (c : CoreUnit) (dd : Fin 64) (w : Word) : List Landing := [land 1 (.d (physD c dd.val)) w.toNat]

/-- A saturated result of one slot in data register dd, with ISAT where it saturated (R305). -/
def sat1 (c : CoreUnit) (dd : Fin 64) (i : Int) : List Landing :=
  [land 1 (.d (physD c dd.val)) (satS 32 i) (if satS 32 i = i then 0 else 2 ^ 5)]

/-- A binary32 result of three slots in data register dd (R301). -/
def float3 (c : CoreUnit) (dd : Nat) (r : FRes) : Landing :=
  land 3 (.d (physD c dd)) r.pat
    ((if r.inv then 2 ^ 6 else 0) + (if r.dz then 2 ^ 7 else 0) + (if r.ovf then 2 ^ 8 else 0) + (if r.unf then 2 ^ 9 else 0))

/-- Two accumulators take f and g of themselves, the first before the second (R301, R306). -/
def accPair (c : CoreUnit) (aa ab : Fin 4) (f g : Int → Int) : CoreUnit × List Landing :=
  let r := accWrite c aa.val (f (c.accNow.getD aa.val 0))
  let q := accWrite r.1 ab.val (g (r.1.accNow.getD ab.val 0))
  (q.1, r.2 ++ q.2)

/-- A core between instructions with nothing pending: no result in flight, no transfer in its delay slots, no loop, no
HALT request. -/
def CoreUnit.quiet (c : CoreUnit) : Bool :=
  c.runs && c.inFlight.isEmpty && c.xfers.isEmpty && !bitOf c.stat 16

/-- One slot passes for the results in flight. -/
def slotsPass : Nat → CoreUnit → CoreUnit
  | 0, c => c
  | n + 1, c => slotsPass n (ageSlot c).1

/-- The end of a slot on a core that stays at no loop end, with no transfer due and no HALT pending: the results of the
slot land, the next index follows, ICNT and the slot counts go up by one, and the sticky bits rise in CORE.FLAGS. -/
def quietEnd (s : State) (h : Half) (k : Nat) (lands : List Landing) : State :=
  let c := s.core h k
  let r := ageSlot { c with inFlight := c.inFlight ++ lands }
  coreFlags ((s.setCore h k { r.1 with xfers := [], slots := c.slots + 1, urgSlots := c.urgSlots + 1, pc := (c.pc + 1) % 8192 }).setQuad
    (CORE.addr h k + 0x18) (s.quad (CORE.addr h k + 0x18) + 1)) h k r.2

/-- A control instruction's slot ends: results lands and transfers newX join what is pending. -/
def ctlEnd (s : State) (h : Half) (k : Nat) (lands : List Landing) (newX : List (Nat × Xfer)) : State :=
  finishIssue s h k lands newX false none

/-- A master's access through a view reaches half h now: the half's own view, or the active view while no pennant moves
(R25). -/
def reaches (s : State) (via : Via) (h : Half) : Prop :=
  match via.v with
  | .a => h = .a
  | .b => h = .b
  | .active => s.hold = false ∧ s.activeHalf = some h

end Sys2Proof.Machine
end

