-- ==== Sys2Proof/WellFormed.lean ====
section
/-! DEFINITION. Which commands are well formed: the bounds on operands that their types do not hold. exec is total on all
commands; a sender of the spec's sends well-formed ones only. -/
namespace Sys2Proof

/-- The contents of a key: addresses rising, inside its two slots of 128 MiB, no byte listed that reads as 0 (R434). -/
def keyCellsOk (l : List (Nat × Byte)) : Bool := Machine.storeWf 0 l && l.all (fun c => decide (c.1 < 0x10000000))

/-- A frame carries the bytes its DLC says (R385). -/
def canFrameOk (f : CanFrame) : Bool := decide (f.data.length = Machine.rxLen f)

/-- A PCI Express request carries up to 256 bytes (R426), and a write as many data bytes as enables. -/
def pcieOk (en : List Bool) (data : Option (List Byte)) : Bool :=
  decide (1 ≤ en.length ∧ en.length ≤ 256) && (match data with | none => true | some l => decide (l.length = en.length))

/-- A fault of channel X is named for at most sixteen arms. -/
def errOk (x : List IslandErr) : Bool := decide (x.length ≤ 16)

/-- A ring frame has a body of at most 256 bytes beside its 11 bytes of framing (R263). -/
def ringFrameOk (l : List Byte) : Bool := decide (l.length ≤ 267)

/-- A command is well formed: its operands hold what the spec lets the thing they stand for carry. -/
def Instr.wf : Instr → Bool
  | .replyReceive _ _ _ _ frame => ringFrameOk frame
  | .nodeReadmit _ _ _ _ _ frame => ringFrameOk frame
  | .reportReceive _ _ frame => ringFrameOk frame
  | .mbxReceive _ _ frame => ringFrameOk frame
  | .safetyCycle _ errX errY _ => errOk errX && errOk errY
  | .canFrameReceive _ _ frame _ => canFrameOk frame
  | .keyInserted _ cells => keyCellsOk cells
  | .interruptAsserted k32 line _ => k32 || decide (line.val < 4)
  | .pcieRequest _ _ en data _ => pcieOk en data
  | .nop .. | .mac .. | .mac2 .. | .msu2 .. | .mpy2 .. | .macf2 .. | .msuf2 .. | .macsu2 .. | .fma ..
  | .fma2 .. | .fms2 .. | .fmul2 .. | .fadd2 .. | .fsub2 .. | .movd .. | .add .. | .sub .. | .adds ..
  | .subs .. | .and .. | .or .. | .xor .. | .andn .. | .shl .. | .shr .. | .sra .. | .shls .. | .min ..
  | .max .. | .minu .. | .maxu .. | .abs .. | .neg .. | .cmp .. | .cmpu .. | .sel .. | .mul .. | .mulh ..
  | .mulq .. | .cls .. | .fadd .. | .fsub .. | .fmul .. | .fmin .. | .fmax .. | .fabs .. | .fneg .. | .fcmp ..
  | .frcpe .. | .frsqe .. | .ftoi .. | .itof .. | .ftoq .. | .qtof .. | .clra .. | .mova .. | .adda ..
  | .suba .. | .nega .. | .sacr .. | .addp .. | .ldi .. | .addi .. | .andi .. | .ori .. | .xori .. | .cmpi ..
  | .shli .. | .shri .. | .srai .. | .addpi .. | .br .. | .jr .. | .call .. | .ret .. | .loop .. | .endItem ..
  | .rti .. | .ei .. | .di .. | .savelp .. | .restlp .. | .clrf .. | .movr .. | .fld .. | .fst .. | .copy ..
  | .waitc .. | .haltd .. | .illegalInstruction .. | .farAccessComplete .. | .copyComplete ..
  | .urgentInterruptEntry .. | .workItemEnd .. | .argPrefetchComplete .. | .halt .. | .coreStep ..
  | .coreRegAccess .. | .post .. | .deadlineAbandon .. | .traceFreeze .. | .trClear .. | .descriptorWrite ..
  | .evtLostRead .. | .ptpMessageReceive .. | .tbLockLoss .. | .ofsInSample .. | .tbSet .. | .tbStamp ..
  | .tbRateWrite .. | .align .. | .returnToPrimary .. | .startWaitExpiry .. | .timeAlarm .. | .alarmEnable ..
  | .railLower .. | .feedbackPhaseEnd .. | .feedForwardLate .. | .kinematicsLate .. | .lossOfFeedback ..
  | .blendEnd .. | .gainBlendEnd .. | .brakeEngageTimeExpiry .. | .brakeReleaseTimeExpiry ..
  | .homeTorqueReached .. | .debounceQualify .. | .moveAbs .. | .moveRel .. | .velocity .. | .gear .. | .cam ..
  | .pathFollow .. | .prfStop .. | .prfQuickStop .. | .home .. | .limClear .. | .start .. | .armStop ..
  | .armQuickStop .. | .resume .. | .armAbort .. | .clearErr .. | .qWrWrite .. | .hoistGo ..
  | .hoistListRead .. | .observerHoldExpiry .. | .modeReqWrite .. | .gtReload .. | .rcClear ..
  | .rcClearComplete .. | .learningMemoryWrite .. | .clrMin .. | .sysClrCnt .. | .scheduleEntryLaunch ..
  | .slotViolation .. | .nodeMissing .. | .ringLost .. | .ringAutoRestart .. | .ringLinkDown ..
  | .ringLinkUp .. | .channelReturn .. | .ringStart .. | .ringStop .. | .restart .. | .ringClrCnt ..
  | .chClr .. | .claimReceive .. | .claimTimeout .. | .claimBackoffExpiry .. | .enumReturn ..
  | .measureReturn .. | .startStepTimeout .. | .ringRunning .. | .mbxSend .. | .rxAck .. | .mbxTxFail ..
  | .ss1TimeExpiry .. | .dwellExpiry .. | .unlockDelayExpiry .. | .twoHandWindowExpiry ..
  | .safetyContactQualify .. | .discrepancyTimeout .. | .testPulse .. | .outputTestPulse ..
  | .resetInputRelease .. | .islandReset .. | .islandSelfTestComplete .. | .switchChange .. | .load ..
  | .loadComplete .. | .fpAccept .. | .sectionStagingWrite .. | .islStatusRead .. | .ssmTestGo ..
  | .smsgClrCnt .. | .safePduReceive .. | .safeWatchdogExpiry .. | .safePduSend .. | .islandOvertemp ..
  | .solverSubmit .. | .solverProblemComplete .. | .channelReset .. | .chClrCnt .. | .spLoad ..
  | .spLoadComplete .. | .governorLateRamp .. | .zoneScanComplete .. | .boundaryMessageReceive ..
  | .peerSilent .. | .admissionRefused .. | .drop .. | .govClrCnt .. | .txRequest .. | .txAbort ..
  | .canTxAttemptEnd .. | .txDeadlineAbort .. | .canError .. | .alone .. | .integrationComplete ..
  | .recoveryComplete .. | .recover .. | .releaseMb .. | .canClrCnt .. | .canModeRequest ..
  | .mailboxHeadRead .. | .mailboxLastWordRead .. | .cqAck .. | .polaritySwapped .. | .stuckDom ..
  | .busRecessiveAgain .. | .armRecord .. | .disarm .. | .disarmTakeEffect .. | .force .. | .clear ..
  | .recordRearm .. | .clrLog .. | .acqClrCnt .. | .triggerInputEdge .. | .halyardEdge .. | .halyardPulseEnd ..
  | .hlPulse .. | .remoteTriggerReceive .. | .localInputEdge .. | .fastInputEdge .. | .mirrorRecordApply ..
  | .referenceSwitchToMonitor .. | .selfTestCycle .. | .heartbeatMissing .. | .railFault .. | .fatalFault ..
  | .arbiterSelfCheckFail .. | .swap .. | .rehearse .. | .penClrCnt .. | .commandedSwapDue ..
  | .rehearsalEnd .. | .rackPennantTake .. | .pairLinkFrameReceive .. | .pairLaneDown .. | .halfReset ..
  | .tempWarning .. | .tempFatal .. | .temperatureFall .. | .syncInstant .. | .computeWindowOpen ..
  | .ceComplete .. | .powerGood .. | .keyRemoved .. | .hostGo .. | .moduleReset .. | .strapCheck ..
  | .stageDone .. | .stageCheckComplete .. | .commit .. | .commitComplete .. | .stageCancel ..
  | .keyWindowWrite .. | .brownOut .. | .holdupStandbyOff .. | .holdupOutputsOff .. | .holdupSafeOutputsOff ..
  | .holdupEnd .. | .supplyReturn .. | .supplyReversed .. | .ioSupplyLow .. | .outputOverload .. | .openWire ..
  | .ioSupplyReturn .. | .activeViewHoldRelease .. | .k16SlaveCycle .. | .k32SlaveCycle .. | .k32BlockBeat ..
  | .k16IackCycle .. | .k32IackCycle .. | .outboundAccess .. | .busGrantTimeout .. | .busRequest ..
  | .grantLost .. | .busTimerExpiry .. | .foreignArbiterDetected .. | .iack .. | .iackReassert ..
  | .sysrstReceive .. | .sysrstOut .. | .bpiClrCnt .. | .doorbell .. | .vecPendClear .. | .pcieReset ..
  | .serviceRequest .. | .snapshotRead .. | .registerWrite .. | .pcieLinkStateChange .. | .busGrantAtBgin .. => true

end Sys2Proof
end

