-- ==== Sys2Proof/Certificates/Slice0/Obligations.lean ====
section
/-! DEFINITION. The statements about the model, for the provers. -/
open Sys2Proof Sys2Proof.Machine

/-- A step with a command at the front of the queue is the meaning of that command on the state with the queue's rest. -/
def Obligations.StepRunsFrontCommand : Prop :=
  ∀ (c : Instr) (rest : List Instr) (s : State), s.pending = c :: rest → step s = exec c (s.withPending rest)

/-- On an empty queue a step passes one nanosecond of TB0, of the bases of both halves and of the island's clock and nothing
else: the model's choice (log entry 1). -/
def Obligations.IdleStepIsATick : Prop :=
  ∀ (s : State), s.pending = [] → ∃ t, step s = .next t ∧ t.tb0 = s.tb0 + 1 ∧ t.regs = s.regs ∧ t.mem = s.mem ∧
    t.pending = [] ∧ t.isl = { s.isl with clk := s.isl.clk + 1 } ∧ t.pen = s.pen ∧ t.boot = s.boot ∧ t.bus = s.bus ∧ t.pci = s.pci ∧
    (∀ h, (t.half h).cores = (s.half h).cores ∧ (t.half h).prf = (s.half h).prf ∧ (t.half h).rings = (s.half h).rings) ∧
    (∀ h, (t.tb h 3).val = ((s.tb h 3).advance 1).val)

/-- R11: at reset the stores are canonical, nothing waits, no half is held, no image is in use, and every register holds the
value of its table's Reset column, or the one the model names where the column gives none (log entry 3); a few of the
column's values. That memory lists nothing is the model's choice (log entry 2). -/
def Obligations.ResetState : Prop :=
  State.reset.canonical = true ∧ State.reset.pending = [] ∧ State.reset.hold = false ∧ State.reset.image = none ∧
    State.reset.mem = [] ∧ (∀ a, State.reset.word a = State.reset.regReset a) ∧
    (∀ h, State.reset.fld (HPWR.addr h) HPWR.RAIL_MV = 900 ∧ State.reset.fld (HPWR.addr h) HPWR.MARGIN_PCT = 15 ∧
      State.reset.fldS (SYS.addr h) SYS.SLACK_MIN = 0x7FFFFF ∧ State.reset.fld (PRF.addr h 0) PRF.RET_CAUSE = 3 ∧
      State.reset.fld (NODE.addr h 0 0) NODE.MARGIN_MIN = 1000)

/-- Every step keeps the canonical form: the registers listed by strictly rising address, the memory with no byte listed that
an unlisted address reads as. -/
def Obligations.StepKeepsCanonical : Prop :=
  ∀ (s t : State), s.canonical = true → step s = .next t → t.canonical = true

/-- Every command completes in every state, and leaves the commands that wait as they are. -/
def Obligations.CommandsCompleteAndKeepQueue : Prop :=
  ∀ (c : Instr) (s : State), ∃ t, exec c s = .next t ∧ t.pending = s.pending

/-- R305, R323 (format A, d = 1): each integer and logical instruction gives its result to Dd one slot later, whatever its
moves; the wrapping ones modulo 2^32, the saturating ones clamped with ISAT. R305, R323: MUL and MULH give the low and the
signed high 32 bits of the product, MULQ the Q31 product rounded to nearest with ties upward and saturated; each lands after
three slots. -/
def Obligations.CoreWordResults : Prop :=
  (∀ (h : Half) (k : Fin 24) (dd sa sb : Fin 64) (mv : Moves) (s : State),
      (s.core h k.val).runs = true → legalMoves mv = true →
      let c := s.core h k.val
      let a := c.dreg sa.val
      let b := c.dreg sb.val
      let out := fun (w : Word) => Host.Outcome.next (issued s h k.val c mv (word1 c dd w))
      let sat := fun (i : Int) => Host.Outcome.next (issued s h k.val c mv (sat1 c dd i))
      exec (.movd h k dd sa mv) s = out a ∧
      exec (.add h k dd sa sb mv) s = out (a + b) ∧
      exec (.sub h k dd sa sb mv) s = out (a - b) ∧
      exec (.and h k dd sa sb mv) s = out (a &&& b) ∧
      exec (.or h k dd sa sb mv) s = out (a ||| b) ∧
      exec (.xor h k dd sa sb mv) s = out (a ^^^ b) ∧
      exec (.andn h k dd sa sb mv) s = out (a &&& ~~~b) ∧
      exec (.shl h k dd sa sb mv) s = out (a <<< (b.toNat % 32)) ∧
      exec (.shr h k dd sa sb mv) s = out (a >>> (b.toNat % 32)) ∧
      exec (.sra h k dd sa sb mv) s = out (a.sshiftRight (b.toNat % 32)) ∧
      exec (.min h k dd sa sb mv) s = out (if a.toInt ≤ b.toInt then a else b) ∧
      exec (.max h k dd sa sb mv) s = out (if a.toInt ≤ b.toInt then b else a) ∧
      exec (.minu h k dd sa sb mv) s = out (if a.toNat ≤ b.toNat then a else b) ∧
      exec (.maxu h k dd sa sb mv) s = out (if a.toNat ≤ b.toNat then b else a) ∧
      exec (.fabs h k dd sa mv) s = out (a &&& 0x7FFFFFFF) ∧
      exec (.fneg h k dd sa mv) s = out (a ^^^ 0x80000000) ∧
      exec (.cls h k dd sa mv) s = out (BitVec.ofNat 32 (clsCount a.toNat)) ∧
      exec (.adds h k dd sa sb mv) s = sat (a.toInt + b.toInt) ∧
      exec (.subs h k dd sa sb mv) s = sat (a.toInt - b.toInt) ∧
      exec (.shls h k dd sa sb mv) s = sat (a.toInt * 2 ^ (b.toNat % 32)) ∧
      exec (.abs h k dd sa mv) s = sat (a.toInt.natAbs : Int) ∧
      exec (.neg h k dd sa mv) s = sat (-a.toInt) ∧
      (∀ cond : BitVec 4, cond.toNat < 14 →
        exec (.sel h k cond dd sa sb mv) s = out (if condHolds c.stat cond.toNat then a else b))) ∧
  (∀ (h : Half) (k : Fin 24) (dd sa sb : Fin 64) (mv : Moves) (s : State),
      (s.core h k.val).runs = true → legalMoves mv = true →
      let c := s.core h k.val
      let p := (c.dreg sa.val).toInt * (c.dreg sb.val).toInt
      let q := (p + 2 ^ 30) / 2 ^ 31
      exec (.mul h k dd sa sb mv) s = .next (issued s h k.val c mv [land 3 (.d (physD c dd.val)) p]) ∧
      exec (.mulh h k dd sa sb mv) s = .next (issued s h k.val c mv [land 3 (.d (physD c dd.val)) (p / 2 ^ 32)]) ∧
      exec (.mulq h k dd sa sb mv) s = .next (issued s h k.val c mv
        [land 3 (.d (physD c dd.val)) (if 2 ^ 31 ≤ q then 2 ^ 31 - 1 else q) (if 2 ^ 31 ≤ q then 2 ^ 5 else 0)]))

/-- R323 (format I): an immediate instruction gives its result one slot later; LDI names any register of R297 and truncates
to its width. The wrapping into the register's width is that of the landing. -/
def Obligations.CoreImmediates : Prop :=
  ∀ (h : Half) (k : Fin 24) (dd : Fin 64) (imm : Word) (s : State), (s.core h k.val).runs = true →
    let c := s.core h k.val
    let a := c.dreg dd.val
    let out := fun (l : List Landing) => Host.Outcome.next (issued s h k.val c noMoves l)
    exec (.addi h k dd imm) s = out (word1 c dd (a + imm)) ∧
    exec (.andi h k dd imm) s = out (word1 c dd (a &&& imm)) ∧
    exec (.ori h k dd imm) s = out (word1 c dd (a ||| imm)) ∧
    exec (.xori h k dd imm) s = out (word1 c dd (a ^^^ imm)) ∧
    exec (.shli h k dd imm) s = out (word1 c dd (a <<< (imm.toNat % 32))) ∧
    exec (.shri h k dd imm) s = out (word1 c dd (a >>> (imm.toNat % 32))) ∧
    exec (.srai h k dd imm) s = out (word1 c dd (a.sshiftRight (imm.toNat % 32))) ∧
    (∀ r : BitVec 8, r.toNat < 0x40 →
      exec (.ldi h k r imm) s = out [land 1 (.d (physD c r.toNat)) imm.toNat]) ∧
    (∀ n : Fin 12, exec (.ldi h k (BitVec.ofNat 8 (0x50 + n.val)) imm) s = out [land 1 (.p n.val) imm.toNat]) ∧
    (∀ n : Fin 8, exec (.ldi h k (BitVec.ofNat 8 (0x60 + n.val)) imm) s = out [land 1 (.o n.val) imm.toNat]) ∧
    (∀ n : Fin 8, exec (.ldi h k (BitVec.ofNat 8 (0x68 + n.val)) imm) s = out [land 1 (.l n.val) imm.toNat]) ∧
    exec (.ldi h k 0x70 imm) s = out [land 1 .lc imm.toNat] ∧
    exec (.ldi h k 0x71 imm) s = out [land 1 .ls imm.toNat] ∧
    exec (.ldi h k 0x72 imm) s = out [land 1 .le imm.toNat] ∧
    exec (.ldi h k 0x73 imm) s = out [land 1 .rb imm.toNat] ∧
    exec (.ldi h k 0x74 imm) s = out [land 1 .stat imm.toNat] ∧
    exec (.ldi h k 0x75 imm) s = out [land 1 .istat imm.toNat] ∧
    exec (.ldi h k 0x76 imm) s = out [land 1 .ira imm.toNat]

/-- R309: the conditions of the compare instructions, each a landing of one slot on Z, N, C, V and U (bits 14 to 10), and the
condition codes: 0 to 13 as the table gives them, 14 and 15 reserved with fault 1. -/
def Obligations.CoreCompares : Prop :=
  ∀ (h : Half) (k : Fin 24) (sa sb : Fin 64) (imm : Word) (mv : Moves) (s : State),
    (s.core h k.val).runs = true → legalMoves mv = true →
    let c := s.core h k.val
    let a := c.dreg sa.val
    let b := c.dreg sb.val
    let signed := fun (a b : Word) =>
      condBits (decide (a = b)) (BitVec.ofInt 32 (a.toInt - b.toInt)).msb (decide (b.toNat ≤ a.toNat))
        (decide (a.toInt - b.toInt < -(2 ^ 31) ∨ 2 ^ 31 ≤ a.toInt - b.toInt)) false
    exec (.cmp h k sa sb mv) s = .next (issued s h k.val c mv [land 1 .conds (signed a b)]) ∧
    exec (.cmpi h k sa imm) s = .next (issued s h k.val c noMoves [land 1 .conds (signed a imm)]) ∧
    exec (.cmpu h k sa sb mv) s = .next (issued s h k.val c mv
      [land 1 .conds (condBits (decide (a = b)) false (decide (b.toNat ≤ a.toNat)) false false)]) ∧
    (∃ st : Nat, exec (.fcmp h k sa sb mv) s = .next (issued s h k.val c mv [land 1 .conds
      (let x := (f32Of a.toNat).1
       let y := (f32Of b.toNat).1
       let un := (match x with | .nan _ => true | _ => false) || (match y with | .nan _ => true | _ => false)
       condBits (!un && eqF x y) (!un && ltF x y) false false un) st])) ∧
    (∀ (cond : BitVec 4) (dd : Fin 64), 14 ≤ cond.toNat →
      exec (.sel h k cond dd sa sb mv) s = .next (coreFault s h k.val 1 c.pc)) ∧
    (∀ st : Nat, let z := st.testBit 14
                 let n := st.testBit 13
                 let cc := st.testBit 12
                 let v := st.testBit 11
                 let u := st.testBit 10
      (List.range 14).map (condHolds st) =
        [true, z, !z, decide (n ≠ v), decide (n = v), z || decide (n ≠ v), !z && decide (n = v), false, cc, n && !u, !n && !u, u, !u,
         !cc])

/-- R310, R323: the binary32 instructions compute on operands whose subnormals read as zero, round once, and land after three
slots with FINV, FDZ, FOVF and FUNF. The estimates of FRCPE and FRSQE and FMIN and FMAX of NaNs and zeros are the model's
readings (log entries 5 and 6). R310: a result that is NaN is 0x7FC0_0000, a result below the normal range is a zero of its
sign that sets FUNF, and no arithmetic result is a subnormal pattern: for sums, products, fused products and conversions. -/
def Obligations.CoreFloatResults : Prop :=
  (∀ (h : Half) (k : Fin 24) (dd sa sb sc sd : Fin 64) (t : Fin 32) (mv : Moves) (s : State),
      (s.core h k.val).runs = true → legalMoves mv = true →
      let c := s.core h k.val
      let x := f32Of (c.dreg sa.val).toNat
      let y := f32Of (c.dreg sb.val).toNat
      let z := f32Of (c.dreg sc.val).toNat
      let w := f32Of (c.dreg sd.val).toNat
      let u := f32Of (c.dreg (2 * t.val)).toNat
      let v := f32Of (c.dreg (2 * t.val + 1)).toNat
      let one := fun (r : FRes) => Host.Outcome.next (issued s h k.val c mv [float3 c dd.val r])
      let two := fun (r q : FRes) =>
        Host.Outcome.next (issued s h k.val c mv [float3 c (2 * t.val) r, float3 c (2 * t.val + 1) q])
      exec (.fadd h k dd sa sb mv) s = one ((addF x.1 y.1).flushed (x.2 || y.2)) ∧
      exec (.fsub h k dd sa sb mv) s = one ((addF x.1 (negF y.1)).flushed (x.2 || y.2)) ∧
      exec (.fmul h k dd sa sb mv) s = one ((mulF x.1 y.1).flushed (x.2 || y.2)) ∧
      exec (.fmin h k dd sa sb mv) s = one (minF false (c.dreg sa.val).toNat (c.dreg sb.val).toNat) ∧
      exec (.fmax h k dd sa sb mv) s = one (minF true (c.dreg sa.val).toNat (c.dreg sb.val).toNat) ∧
      exec (.frcpe h k dd sa mv) s = one ((estimateF (recipF x.1) (Config.frcpe (c.dreg sa.val)).toNat).flushed x.2) ∧
      exec (.frsqe h k dd sa mv) s = one ((estimateF (rsqrtF x.1) (Config.frsqe (c.dreg sa.val)).toNat).flushed x.2) ∧
      exec (.ftoi h k dd sa mv) s = one ((toFixed x.1 0).flushed x.2) ∧
      exec (.ftoq h k dd sa mv) s = one ((toFixed x.1 31).flushed x.2) ∧
      exec (.itof h k dd sa mv) s = one (ofFixed (c.dreg sa.val).toInt 0) ∧
      exec (.qtof h k dd sa mv) s = one (ofFixed (c.dreg sa.val).toInt (-31)) ∧
      exec (.fma h k t sa sb mv) s = .next (issued s h k.val c mv
        [float3 c (2 * t.val) ((fmaF x.1 y.1 u.1).flushed (x.2 || y.2 || u.2))]) ∧
      exec (.fma2 h k t sa sb sc sd mv) s = two ((fmaF x.1 y.1 u.1).flushed (x.2 || y.2 || u.2))
        ((fmaF z.1 w.1 v.1).flushed (z.2 || w.2 || v.2)) ∧
      exec (.fms2 h k t sa sb sc sd mv) s = two ((fmaF (negF x.1) y.1 u.1).flushed (x.2 || y.2 || u.2))
        ((fmaF (negF z.1) w.1 v.1).flushed (z.2 || w.2 || v.2)) ∧
      exec (.fmul2 h k t sa sb sc sd mv) s = two ((mulF x.1 y.1).flushed (x.2 || y.2)) ((mulF z.1 w.1).flushed (z.2 || w.2)) ∧
      exec (.fadd2 h k t sa sb sc sd mv) s = two ((addF x.1 y.1).flushed (x.2 || y.2)) ((addF z.1 w.1).flushed (z.2 || w.2)) ∧
      exec (.fsub2 h k t sa sb sc sd mv) s = two ((addF x.1 (negF y.1)).flushed (x.2 || y.2))
        ((addF z.1 (negF w.1)).flushed (z.2 || w.2))) ∧
  (∀ (x y z : F32) (i e : Int), ∀ r ∈ [addF x y, mulF x y, fmaF x y z, recipF x, rsqrtF x, ofFixed i e],
      r.pat < 2 ^ 32 ∧ (bitsOf r.pat 30 23 = 0 → bitsOf r.pat 22 0 = 0) ∧
      (bitsOf r.pat 30 23 = 255 → bitsOf r.pat 22 0 ≠ 0 → r.pat = 0x7FC00000) ∧
      (r.unf = true → r.pat = 0 ∨ r.pat = 2 ^ 31) ∧ (r.ovf = true → r.pat = 0x7F800000 ∨ r.pat = 0xFF800000))

/-- R306, R323: the MAC family adds, subtracts or sets exact products of signed operands (the second unsigned for MACSU2,
twice the product for MACF2 and MSUF2), the first accumulator before the second. R308: a write whose exact result fits 72
bits holds it and leaves AOV clear; one that leaves the range holds the bound of the result's sign and sets AOV; a saturated
accumulator keeps its value under further writes of the MAC family, and CLRA, MOVA and MOVR write it whatever its AOV and
give AOV by the new value. -/
def Obligations.MacFamilyResults : Prop :=
  (∀ (h : Half) (k : Fin 24) (aa ab : Fin 4) (sa sb sc sd : Fin 64) (mv : Moves) (s : State),
      (s.core h k.val).runs = true → legalMoves mv = true →
      let c := s.core h k.val
      let p := (c.dreg sa.val).toInt * (c.dreg sb.val).toInt
      let q := (c.dreg sc.val).toInt * (c.dreg sd.val).toInt
      let pu := (c.dreg sa.val).toInt * ((c.dreg sb.val).toNat : Int)
      let qu := (c.dreg sc.val).toInt * ((c.dreg sd.val).toNat : Int)
      let out := fun (r : CoreUnit × List Landing) => Host.Outcome.next (issued s h k.val r.1 mv r.2)
      exec (.mac h k aa sa sb mv) s = out (accWrite c aa.val (c.accNow.getD aa.val 0 + p)) ∧
      exec (.mac2 h k aa ab sa sb sc sd mv) s = out (accPair c aa ab (fun a => a + p) (fun a => a + q)) ∧
      exec (.msu2 h k aa ab sa sb sc sd mv) s = out (accPair c aa ab (fun a => a - p) (fun a => a - q)) ∧
      exec (.mpy2 h k aa ab sa sb sc sd mv) s = out (accPair c aa ab (fun _ => p) (fun _ => q)) ∧
      exec (.macf2 h k aa ab sa sb sc sd mv) s = out (accPair c aa ab (fun a => a + 2 * p) (fun a => a + 2 * q)) ∧
      exec (.msuf2 h k aa ab sa sb sc sd mv) s = out (accPair c aa ab (fun a => a - 2 * p) (fun a => a - 2 * q)) ∧
      exec (.macsu2 h k aa ab sa sb sc sd mv) s = out (accPair c aa ab (fun a => a + pu) (fun a => a + qu))) ∧
  (∀ (c : CoreUnit) (n : Fin 4) (x : Int) (d : Nat),
      let v := if 2 ^ 71 ≤ x then 2 ^ 71 - 1 else if x < -(2 ^ 71) then -(2 ^ 71) else x
      let o := decide (x < -(2 ^ 71) ∨ 2 ^ 71 ≤ x)
      let c1 := { c with accNow := c.accNow.set n.val v, aovNow := c.aovNow.set n.val o }
      (c.aovNow.getD n.val false = true → accWrite c n.val x = (c, [])) ∧
      (c.aovNow.getD n.val false = false → accWrite c n.val x = (c1, [⟨3, .acc n.val, v, o, 0⟩])) ∧
      accForce c n.val x d = (c1, [⟨d, .acc n.val, v, o, 0⟩]))

/-- R307, R308, R323: CLRA and MOVA set an accumulator whatever its AOV, ADDA, SUBA and NEGA write it unless it is saturated,
a saturated source saturates the destination to the source's sign, and SACR gives the rounded, saturated word, or the bound
of a saturated accumulator whatever the shift, with SSAT. That the shift of MOVA and SACR is bits [5:0] of register Sb is log
entry 117. -/
def Obligations.AccumulatorInstructions : Prop :=
  ∀ (h : Half) (k : Fin 24) (an am : Fin 4) (dd sa sb : Fin 64) (mv : Moves) (s : State),
    (s.core h k.val).runs = true → legalMoves mv = true →
    let c := s.core h k.val
    let src := c.acc.getD am.val 0
    let out := fun (r : CoreUnit × List Landing) => Host.Outcome.next (issued s h k.val r.1 mv r.2)
    exec (.clra h k an mv) s = out (accForce c an.val 0 3) ∧
    exec (.mova h k an sa sb mv) s =
      out (accForce c an.val ((c.dreg sa.val).toInt * 2 ^ ((c.dreg sb.val).toNat % 64)) 3) ∧
    exec (.nega h k an mv) s = out (accWrite c an.val (-(c.accNow.getD an.val 0))) ∧
    (c.aov.getD am.val false = false →
      exec (.adda h k an am mv) s = out (accWrite c an.val (c.accNow.getD an.val 0 + src)) ∧
      exec (.suba h k an am mv) s = out (accWrite c an.val (c.accNow.getD an.val 0 - src))) ∧
    (c.aov.getD am.val false = true → ∃ x : Int, (if src < 0 then x < -(2 ^ 71) else 2 ^ 71 ≤ x) ∧
      exec (.adda h k an am mv) s = out (accWrite c an.val x) ∧
      exec (.suba h k an am mv) s = out (accWrite c an.val x)) ∧
    (let sh := (c.dreg sb.val).toNat % 64
     let v := (src * 2 + 2 ^ sh) / (2 * 2 ^ sh)
     exec (.sacr h k dd am sb mv) s = .next (issued s h k.val c mv
      [if c.aov.getD am.val false then
          land 1 (.d (physD c dd.val)) (if src < 0 then -(2 ^ 31) else 2 ^ 31 - 1) (2 ^ 4)
        else land 1 (.d (physD c dd.val)) (satS 32 v) (if satS 32 v = v then 0 else 2 ^ 4)]))

/-- R300, R323: ADDP and ADDPI modify Pn by their operand, and a move modifies its P register by its modifier; the new value
is (Pn + m) mod 16,384 with Ln = 0 and for P8 to P11, and base + ((Pn - base + m) mod Ln) otherwise, bits [15:14] kept. A P
register that ADDP and a move of one instruction both modify takes a free value (log entry 7). -/
def Obligations.AddressUpdates : Prop :=
  (∀ (h : Half) (k : Fin 24) (pn : Fin 12) (sa : Fin 64) (imm : Word) (mv : Moves) (s : State),
    (s.core h k.val).runs = true → legalMoves mv = true →
    let c := s.core h k.val
    exec (.nop h k mv) s = .next (issued s h k.val c mv []) ∧
    exec (.addpi h k pn imm) s = .next (issued s h k.val c noMoves [land 1 (.p pn.val) (modifyP c pn.val imm.toInt)]) ∧
    (¬(mv.xe = true ∧ mv.xp.val = pn.val) → ¬(mv.ye = true ∧ mv.yp.val + 4 = pn.val) →
      exec (.addp h k pn sa mv) s =
        .next (issued s h k.val c mv [land 1 (.p pn.val) (modifyP c pn.val (c.dreg sa.val).toInt)]))) ∧
  (∀ (c : CoreUnit) (n : Nat) (m : Int), c.p.getD n 0 < 2 ^ 16 →
    let v := c.p.getD n 0
    let idx := v % 16384
    modifyP c n m / 16384 = v / 16384 ∧
    (8 ≤ n ∨ c.l.getD n 0 = 0 → ((modifyP c n m % 16384 : Nat) : Int) = ((idx : Int) + m) % 16384) ∧
    (n < 8 → 0 < c.l.getD n 0 → c.l.getD n 0 ≤ 16384 → ∃ e b : Nat,
      (c.l.getD n 0 ≤ 2 ^ e ∧ (e = 0 ∨ 2 ^ (e - 1) < c.l.getD n 0)) ∧ b = idx - idx % 2 ^ e ∧
      ((modifyP c n m % 16384 : Nat) : Int) = ((b : Int) + ((idx : Int) - b + m) % (c.l.getD n 0 : Int)) % 16384))

/-- R301: a result that lands d slots after its issue (1 to 3) is seen d slots later and not before; until then a reader sees
the old value. Stated of a data register of a core with no other result in flight. R302: of two results that reach one data
register in the same slot, the later-issued one remains. -/
def Obligations.ResultVisibleAfterItsLatency : Prop :=
  (∀ (c : CoreUnit) (n d j st : Nat) (v : Int), 1 ≤ d → d ≤ 3 → n < c.d.length → c.inFlight = [] →
      (slotsPass j { c with inFlight := [land d (.d n) v st] }).d =
        if j < d then c.d else c.d.set n (BitVec.ofInt 32 v)) ∧
  (∀ (c : CoreUnit) (n st st' : Nat) (v w : Int), n < c.d.length →
      (ageSlot { c with inFlight := [land 1 (.d n) v st, land 1 (.d n) w st'] }).1.d = c.d.set n (BitVec.ofInt 32 w) ∧
      (∀ left : Nat, 1 ≤ left → left ≤ 2 → ∀ u : Int,
        (slotsPass left { c with inFlight := [land left (.d n) v st, land left (.d n) w st'] }).d = c.d.set n (BitVec.ofInt 32 w) ∧
        (slotsPass left { c with inFlight := [land (left + 1) (.d n) u st, land left (.d n) w st'] }).d = c.d.set n (BitVec.ofInt 32 w)))

/-- The frame of a computing instruction without moves on a core that is at no loop end, with no transfer in its delay slots
and no HALT request: its core, ICNT and FLAGS change as one slot says, and nothing else of the block does. -/
def Obligations.ComputingInstructionFrame : Prop :=
  ∀ (h : Half) (k : Fin 24) (c : CoreUnit) (lands : List Landing) (s : State),
    k.val < (s.half h).cores.length → c.xfers = [] → bitOf c.stat 16 = false → c.inFlight = [] →
    (∀ x ∈ lands, x.tgt ≠ .stat ∧ x.tgt ≠ .loopState) →
    s.flag (CORE.addr h k.val) CORE.HALT = false →
    let t := issued s h k.val c noMoves lands
    t = quietEnd (s.setCore h k.val c) h k.val lands ∧
    t.mem = s.mem ∧ t.half h.other = s.half h.other ∧ t.pending = s.pending ∧ t.isl = s.isl ∧ t.tb0 = s.tb0 ∧
    (∀ j, j ≠ k.val → t.core h j = s.core h j) ∧
    (∀ a, a ∉ [CORE.addr h k.val + 0x8, CORE.addr h k.val + 0x18, CORE.addr h k.val + 0x1C] → t.word a = s.word a)

/-- R323, R301: a control transfer whose condition holds takes effect after its two delay slots, CALL saves its own index
plus 3 in P10, and one whose condition does not hold only passes on; reserved conditions 14 and 15 end the item with fault 1
at the instruction's index. R313, R315, R319: what a transfer does when its delay slots have issued: a jump sets the next
index and clears LOOPACT where the target lies outside LS to LE; END makes an item that is not urgent wait for its results
and copies; RTI returns to IRA with IE, LOOPACT and the conditions of ISTAT and each sticky bit the OR of ISTAT's and its
own. -/
def Obligations.ControlTransfers : Prop :=
  (∀ (h : Half) (k : Fin 24) (cond : BitVec 4) (tgt : BitVec 13) (pn : Fin 12) (s : State), (s.core h k.val).runs = true →
      let c := s.core h k.val
      (cond.toNat < 14 → condHolds c.stat cond.toNat = true →
        exec (.br h k cond tgt) s = .next (ctlEnd s h k.val [] [(2, .jump tgt.toNat)]) ∧
        exec (.jr h k cond pn) s = .next (ctlEnd s h k.val [] [(2, .jump (c.p.getD pn.val 0 % 8192))]) ∧
        exec (.call h k cond tgt) s = .next (ctlEnd s h k.val [land 1 (.p 10) ((c.pc + 3) % 8192)] [(2, .jump tgt.toNat)])) ∧
      (cond.toNat < 14 → condHolds c.stat cond.toNat = false →
        exec (.br h k cond tgt) s = .next (ctlEnd s h k.val [] []) ∧
        exec (.jr h k cond pn) s = .next (ctlEnd s h k.val [] []) ∧
        exec (.call h k cond tgt) s = .next (ctlEnd s h k.val [] [])) ∧
      (14 ≤ cond.toNat →
        exec (.br h k cond tgt) s = .next (coreFault s h k.val 1 c.pc) ∧
        exec (.jr h k cond pn) s = .next (coreFault s h k.val 1 c.pc) ∧
        exec (.call h k cond tgt) s = .next (coreFault s h k.val 1 c.pc)) ∧
      exec (.ret h k) s = .next (ctlEnd s h k.val [] [(2, .jump (c.p.getD 10 0 % 8192))]) ∧
      exec (.endItem h k) s = .next (ctlEnd s h k.val [] [(2, .endItem)]) ∧
      exec (.rti h k) s = .next (ctlEnd s h k.val [] [(2, .rti)])) ∧
  (∀ (h : Half) (k : Fin 24) (t : Nat) (s : State), k.val < (s.half h).cores.length →
      let c := s.core h k.val
      (∀ x, ageXfers [(2, x)] = (none, [(1, x)]) ∧ ageXfers [(1, x)] = (some x, [])) ∧
      fireXfer s h k.val (.jump t) =
        s.setCore h k.val { c with pc := t, stat := if t < c.ls ∨ c.le < t then setBit c.stat 16 false else c.stat } ∧
      (c.urgItem = none → fireXfer s h k.val .endItem = s.setCore h k.val { c with stall := .ending none }) ∧
      (c.urgItem = none →
        let u := (fireXfer s h k.val .rti).core h k.val
        u.pc = c.ira ∧ bitsOf u.stat 16 10 = bitsOf c.istat 16 10 ∧
        bitsOf u.stat 9 4 = (bitsOf c.stat 9 4 ||| bitsOf c.istat 9 4) ∧ u = { c with pc := u.pc, stat := u.stat }))

/-- R299, R323: EI and DI give IE one slot later, CLRF clears the sticky bits its mask names one slot later, MOVR writes any
register with another's value one slot later, and HALTD sets HALT and passes on. -/
def Obligations.FlagAndRegisterControl : Prop :=
  ∀ (h : Half) (k : Fin 24) (mask : BitVec 16) (r1 r2 : BitVec 8) (s : State), (s.core h k.val).runs = true →
    let c := s.core h k.val
    exec (.ei h k) s = .next (ctlEnd s h k.val [land 1 .ie 1] []) ∧
    exec (.di h k) s = .next (ctlEnd s h k.val [land 1 .ie 0] []) ∧
    exec (.clrf h k mask) s = .next (ctlEnd s h k.val [land 1 .clrf mask.toNat] []) ∧
    exec (.haltd h k) s = .next (ctlEnd (s.setFlag (CORE.addr h k.val) CORE.HALT) h k.val [] []) ∧
    (∀ v : Nat, c.readReg r2.toNat true = some v → regExists r1.toNat = true →
      exec (.movr h k r1 r2) s =
        .next (ctlEnd (s.setCore h k.val (writeReg c r1.toNat (BitVec.ofNat 32 v)).1) h k.val (writeReg c r1.toNat (BitVec.ofNat 32 v)).2 [])) ∧
    ((regExists r1.toNat && regExists r2.toNat) = false →
      exec (.movr h k r1 r2) s = .next (coreFault s h k.val 5 c.pc)) ∧
    (∀ (c : CoreUnit) (m : Nat), bitsOf (landOne c (land 0 .clrf m)).1.stat 9 4 = bitsOf c.stat 9 4 &&& (63 ^^^ bitsOf m 9 4)) ∧
    (∀ (c : CoreUnit) (b : Bool), bitOf (landOne c (land 0 .ie (b2n b))).1.stat 15 = b)

/-- R311: LOOP sets LS, LE, LC and LOOPACT and clears RPTV, or with a count of 0 clears LOOPACT and goes on behind the body;
after the instruction at LE the core rotates where ROT is set, decrements LC, and goes on at LS, or at LE + 1 with LOOPACT
cleared when LC is then 0; with LOOPACT 0, or at another index, it goes on at the next index. -/
def Obligations.LoopsRun : Prop :=
  (∀ (h : Half) (k : Fin 24) (count : LoopCount) (n : BitVec 7) (rot : Bool) (s : State), (s.core h k.val).runs = true →
    1 ≤ n.toNat → n.toNat ≤ 64 →
    let c := s.core h k.val
    let n0 := match count with
      | .reg d => (c.dreg d.val).toNat
      | .imm i => i.toNat
    let c1 := { c with ls := (c.pc + 1) % 8192, le := (c.pc + n.toNat) % 8192, lc := n0,
                       stat := setBit c.stat 16 true, rptv := false, rot := rot }
    (n0 ≠ 0 → exec (.loop h k count n rot) s =
      .next (finishIssue (s.setCore h k.val c1) h k.val [] [] false (some ((c.pc + 1) % 8192)))) ∧
    (n0 = 0 → exec (.loop h k count n rot) s =
      .next (finishIssue (s.setCore h k.val { c with stat := setBit c.stat 16 false, rptv := false }) h k.val [] [] false
        (some ((c.pc + n.toNat + 1) % 8192))))) ∧
  (∀ (s : State) (h : Half) (k : Nat) (c : CoreUnit), c.lc < 2 ^ 32 → c.rb < 32 →
    let e := loopEnd s h k c false
    e.rb = (if c.rot then (if c.rb = 0 then 31 else c.rb - 1) else c.rb) ∧
    (c.lc ≠ 1 → e.pc = c.ls ∧ e.lc = (if c.lc = 0 then 2 ^ 32 - 1 else c.lc - 1) ∧ e.stat = c.stat) ∧
    (c.lc = 1 → e.pc = (c.le + 1) % 8192 ∧ e.lc = 0 ∧ e.stat = setBit c.stat 16 false) ∧
    e.rptv = true ∧ (c.rptv = false → e.rptTag = c.ls ∧ e.rptBody = codeWords s h k c.ls (c.le + 1 - c.ls))) ∧
  (∀ (s : State) (h : Half) (k : Nat), k < (s.half h).cores.length → (s.core h k).inFlight = [] → (s.core h k).xfers = [] →
    s.flag (CORE.addr h k) CORE.HALT = false →
    let c := { s.core h k with slots := (s.core h k).slots + 1, urgSlots := (s.core h k).urgSlots + 1 }
    (finishIssue s h k [] [] false none).core h k =
      if c.stat.testBit 16 = true ∧ c.pc = c.le then loopEnd s h k c false else { c with pc := (c.pc + 1) % 8192 })

/-- R316, R317, R320: FLD and FST begin a far access that stalls their core, COPY joins the outstanding copies and a fifth
stalls the core, WAITC goes on with at most n copies outstanding and stalls otherwise, SAVELP stores the loop state at X Pn,
and RESTLP loads it two slots later. R317: the oldest copy of a core completes: an inbound word of module memory goes into
the core's memory, an outbound word of the core's memory to its address, and the copy leaves the list; slots lost to
conflicts count as stalls. It waits while the active view it reaches is held. Stated of a copy of one word by a core that
waits for nothing. -/
def Obligations.FarAccessesAndCopies : Prop :=
  (∀ (h : Half) (k : Fin 24) (dd dp : Fin 64) (pn : Fin 12) (count : BitVec 13) (mem : BitVec 2) (ob : Bool) (n : BitVec 3)
      (s : State), (s.core h k.val).runs = true →
      let c := s.core h k.val
      let a := pairAddr c dp.val
      let o : CopyOp := ⟨a, c.p.getD pn.val 0 % 16384, count.toNat, mem.toNat, ob, c.pc⟩
      let x := c.p.getD pn.val 0 % 16384
      (dp.val % 2 = 0 → a % 4 = 0 →
        exec (.fld h k dd dp) s =
          .next (ctlEnd (s.setCore h k.val { c with far := some ⟨a, none, physD c dd.val, c.pc⟩ }) h k.val [] []) ∧
        exec (.fst h k dp dd) s =
          .next (ctlEnd (s.setCore h k.val { c with far := some ⟨a, some (c.dreg dd.val), 0, c.pc⟩ }) h k.val [] [])) ∧
      (dp.val % 2 = 0 → a % 4 = 0 → 1 ≤ count.toNat → count.toNat ≤ 4096 → mem.toNat ≠ 3 →
        (c.copies.length < 4 → exec (.copy h k dp pn count mem ob) s =
          .next (ctlEnd (s.setCore h k.val
            { c with copies := c.copies ++ [o], unseen := if ob then c.unseen else c.unseen ++ [o], stall := .none }) h k.val [] [])) ∧
        (4 ≤ c.copies.length → exec (.copy h k dp pn count mem ob) s = .next (s.setCore h k.val { c with stall := .copy o }))) ∧
      (n.toNat ≤ 4 → c.copies.length ≤ n.toNat → exec (.waitc h k n) s =
        .next (ctlEnd (s.setCore h k.val { c with unseen := c.copies.filter (fun o => !o.outbound), stall := .none }) h k.val [] [])) ∧
      (n.toNat ≤ 4 → n.toNat < c.copies.length → s.flag (CORE.addr h k.val) CORE.HALT = false →
        exec (.waitc h k n) s = .next (s.setCore h k.val { c with stall := .waitc n.toNat })) ∧
      (exec (.savelp h k pn) s =
        .next (ctlEnd (coreStore (coreStore (coreStore (coreStore (coreStore s h k.val 0 x (BitVec.ofNat 32 c.lc)) h k.val 0 (x + 1)
          (BitVec.ofNat 32 c.ls)) h k.val 0 (x + 2) (BitVec.ofNat 32 c.le)) h k.val 0 (x + 3) (BitVec.ofNat 32 c.rb)) h k.val 0
          (x + 4) (BitVec.ofNat 32 (b2n c.rptv))) h k.val [] [])) ∧
      (c.unseen = [] →
        let w := fun i => (s.memWord (coreMemAddr h k.val 0 (x + i))).toNat
        (w 1 < 2 ^ 13 ∧ w 2 < 2 ^ 13 ∧ w 3 < 32 ∧ w 4 < 2 → exec (.restlp h k pn) s =
          .next (ctlEnd s h k.val [land 2 .loopState (packLoop (w 0) (w 1) (w 2) (w 3) (w 4))] [])) ∧
        (¬(w 1 < 2 ^ 13 ∧ w 2 < 2 ^ 13 ∧ w 3 < 32 ∧ w 4 < 2) →
          exec (.restlp h k pn) s = .next (coreFault s h k.val 4 c.pc)))) ∧
  (∀ (h : Half) (k : Fin 24) (lost : Nat) (o : CopyOp) (l : List CopyOp) (s : State),
      let c := s.core h k.val
      let s0 := s.countBy (CORE.addr h k.val) CORE.STALLS lost
      let done := fun (t : State) => t.setCore h k.val { t.core h k.val with copies := l }
      (c.copies = [] → exec (.copyComplete h k lost) s = .next s) ∧
      (c.copies = o :: l →
        (s.hold = true → inActive o.addr = true → exec (.copyComplete h k lost) s = .next s) ∧
        (c.stall = .none → inActive o.addr = false → placeOf o.addr = .bytes → o.count = 1 →
          (o.outbound = false → exec (.copyComplete h k lost) s =
            .next (done (coreStore s0 h k.val o.mem o.idx (BitVec.ofNat 32 (bytesRead s o.addr 4))))) ∧
          (o.outbound = true → exec (.copyComplete h k lost) s =
            .next (done (bytesWrite s0 o.addr 4 (s.memWord (coreMemAddr h k.val o.mem o.idx)).toNat))))))

/-- R321: a word that is reserved, names a reserved condition, field or register, or is a Y store with YC = 1 ends the
running item with its fault code: FAULT, the code and the index of the instruction are recorded, the results in flight land,
the core waits for its copies, and the core-fault event is raised. -/
def Obligations.IllegalWordEndsItem : Prop :=
  ∀ (h : Half) (k : Fin 24) (word : BitVec 64) (s : State), (s.core h k.val).runs = true →
    let c := s.core h k.val
    let fault := fun (code : Nat) => Host.Outcome.next
      (let (c', up) := landEverything c
       let b := CORE.addr h k.val
       let t := s.setCore h k.val { c' with xfers := [], far := none, stall := .ending (some code) }
       let t := (((coreFlags t h k.val up).setFlag b CORE.FAULT).setFld b CORE.CODE code).setFld b CORE.FAULT_IDX c.pc
       raiseEvt (traceEntry t h (c'.urgItem.getD (c'.item.getD 0)) k.val 10 code) h 149)
    (∀ n, (decodeCode word).1 = .illegal n → exec (.illegalInstruction h k word) s = fault n) ∧
    ((∀ n, (decodeCode word).1 ≠ .illegal n) → ∀ code, issueFault c (decodeCode word).1 (decodeCode word).2 = some code →
      exec (.illegalInstruction h k word) s = fault code)

/-- R322, R323: what the formats make of words: reserved opcodes, fields and registers are illegal with codes 1 and 5, and a
few words of the opcode tables are the instructions they stand for. -/
def Obligations.InstructionWordsDecode : Prop :=
  (∀ w : Nat, w < 2 ^ 64 → bitsOf w 63 62 = 0 → 14 ≤ bitsOf w 61 56 → (decodeCode (BitVec.ofNat 64 w)).1 = .illegal 1) ∧
  (∀ w : Nat, w < 2 ^ 64 → bitsOf w 63 62 = 3 → 0x12 ≤ bitsOf w 61 56 → (decodeCode (BitVec.ofNat 64 w)).1 = .illegal 1) ∧
  (∀ w : Nat, w < 2 ^ 64 → bitsOf w 63 62 = 2 → bitsOf w 47 32 = 0 → 10 ≤ bitsOf w 61 56 →
    regExists (bitsOf w 55 48) = true → (decodeCode (BitVec.ofNat 64 w)).1 = .illegal 1) ∧
  (∀ w : Nat, w < 2 ^ 64 → bitsOf w 63 62 = 2 → bitsOf w 47 32 = 0 → regExists (bitsOf w 55 48) = false →
    (decodeCode (BitVec.ofNat 64 w)).1 = .illegal 5) ∧
  decodeCode 0x4042042400000000 = (.illegal 1, decodeMoves 0x4042042400000000) ∧
  decodeCode 0x4042864000000000 = (.alu .add 0 2 33 36, decodeMoves 0x4042864000000000) ∧
  decodeCode 0x8001000000000007 = (.imm .ldi 1 7, noMoves) ∧
  decodeCode 0xC000000002800000 = (.br 0 5, noMoves)

/-- R318: a core with an urgent item pending takes it at a slot boundary where IE is 1, no delay slot is pending and no far
access stalls: results land, IRA, ISTAT, IARG and IARGH are saved, IE and LOOPACT clear, the entry is next, and no other
register of the core changes; where it may not be taken nothing changes. -/
def Obligations.UrgentEntrySaves : Prop :=
  ∀ (h : Half) (k : Fin 24) (i : Nat) (s : State), k.val < (s.half h).cores.length →
    let c := s.core h k.val
    c.urgPend = some i →
    (bitOf c.stat 15 = true → c.xfers = [] → c.far = none → c.halted = false → c.urgItem = none →
      (c.stall = .none ∨ ∃ n, c.stall = .waitc n) →
      ∃ t, exec (.urgentInterruptEntry h k) s = .next t ∧
        (let e := (landEverything c).1
         let u := t.core h k.val
         u.ira = e.pc ∧ u.istat = e.statWord ∧ bitOf u.stat 15 = false ∧ bitOf u.stat 16 = false ∧
         u.iarg = s.fld (DESC.addr h i) DESC.ARG_PTR % 2 ^ 32 ∧ u.iargh = s.fld (DESC.addr h i) DESC.ARG_PTR / 2 ^ 32 % 256 ∧
         u.pc = s.fld (DESC.addr h i) DESC.ENTRY ∧ u.urgItem = some i ∧ u.urgPend = none ∧
         u.d = e.d ∧ u.acc = e.acc ∧ u.p = e.p ∧ u.o = e.o ∧ u.l = e.l ∧ u.lc = e.lc ∧ u.ls = e.ls ∧ u.le = e.le ∧ u.rb = e.rb ∧
         u.rptv = e.rptv)) ∧
    (c.item ≠ none → bitOf c.stat 15 = false ∨ c.xfers ≠ [] ∨ c.far ≠ none →
      exec (.urgentInterruptEntry h k) s = .next s)

/-- R25, R463: a write of a command register through the active view is held while the pennant moves, and while no half is
active it is discarded, recorded with KIND 8 and event 247 in both halves, and is fault 2 for a core; stated of POST, whose
write stands for every command that carries its master and view. -/
def Obligations.ActiveViewHeldOrDiscarded : Prop :=
  ∀ (m : Master) (value : Word) (s : State),
    let a := activeBase + (SCHED.addr .a - viewBase .a)
    (s.hold = true → exec (.post ⟨m, .active⟩ value) s = .next { s with held := s.held ++ [⟨m, a, 4, some value⟩] }) ∧
    (s.hold = false → s.activeHalf = none →
      let t := raiseBoth ((s.setFld BPI.addr BPI.ERR_ADDR a).setWordN (BPI.addr + 0x14) (8 + masterCode m * 16 + masterCore m * 256)) 247
      exec (.post ⟨m, .active⟩ value) s = .next (match m with
        | .core h k => coreFault t h k.val 2 (t.core h k.val).pc
        | _ => t))

/-- R326, R327: a post releases an idle item with its stamp and deadline, merges with one that is ready, in a next slot or
already re-posted, re-posts a running one, and is refused above 4,095 or with AFFINITY 0, counted in POST_REF with event 151.
-/
def Obligations.PostOutcomes : Prop :=
  ∀ (via : Via) (h : Half) (value : Word) (s : State), reaches s via h →
    let i := value.toNat
    let now := s.servoNow h
    let dl := if s.fld (DESC.addr h i) DESC.DEADLINE = 0 then none else some (now + 8 * s.fld (DESC.addr h i) DESC.DEADLINE)
    let valid := i ≤ 4095 ∧ s.fld (DESC.addr h i) DESC.AFFINITY ≠ 0
    let merged := s.count (SCHED.addr h) SCHED.MERGED
    (¬valid → exec (.post via value) s =
      .next (raiseAt (traceEntry (s.count (SCHED.addr h) SCHED.POST_REF) h i noCore 12 i) h 151 now)) ∧
    (valid → (s.sched h).find i = none → exec (.post via value) s = .next (releaseItem s h i now dl 0xFFFF)) ∧
    (∀ x, valid → (s.sched h).find i = some x →
      (x.st = .ready → exec (.post via value) s = .next (traceEntry merged h i noCore 11 1)) ∧
      (∀ k, x.st = .nextSlot k → exec (.post via value) s = .next (traceEntry merged h i k 11 2)) ∧
      (∀ k, x.st = .reposted k → exec (.post via value) s = .next (traceEntry merged h i k 11 4)) ∧
      (∀ k, x.st = .running k → exec (.post via value) s =
        .next (traceEntry (s.setSched h ((s.sched h).modItem i (fun y =>
          { y with st := .reposted k, repostAt := now, repostDeadline := dl }))) h i k 11 4)))

/-- R325, R334, R336: a descriptor word is written with REQ 0 where the item is idle and the word leaves GROUP and AFFINITY
other than 0, and is discarded with PARAM_ERR otherwise; TR_CLEAR empties and restarts the trace; 256 entries after the
freeze event the trace is frozen with event 152; reading EVT.LOST returns the count and clears it. R335, R336: what an
occurrence does to the registers of the event controller: the pending bit rises, LOST counts one that was already pending,
and the stamp is the occurrence's; an occurrence whose entry has ACTION 0 and names no vector posts nothing. Stated where no
acquisition record is live. -/
def Obligations.SchedulerRegisterCommands : Prop :=
  (∀ (via : Via) (h : Half) (item : Fin 4096) (evt : Fin 256) (v : Word) (en : Bool) (fe : BitVec 8) (s : State),
      reaches s via h →
      let b := DESC.addr h item.val
      let q := SCHED.addr h
      let idle := (s.sched h).find item.val = none
      let bad := s.setFlag q SCHED.PARAM_ERR
      let r0 := s.setFld b DESC.REQ 0
      let put := fun (n : Nat) (x : Nat) => Host.Outcome.next (r0.setWordN (b + 4 * n) x)
      (¬idle → ∀ w : Fin 8, exec (.descriptorWrite via item w v) s = .next bad) ∧
      (bitsOf v.toNat 19 16 = 0 → exec (.descriptorWrite via item 0 v) s = .next bad) ∧
      (v.toNat % 2 ^ 24 = 0 → exec (.descriptorWrite via item 1 v) s = .next bad) ∧
      (idle →
        (bitsOf v.toNat 19 16 ≠ 0 →
          exec (.descriptorWrite via item 0 v) s = put 0 (setBits (setBits v.toNat 23 22 0) 15 13 0)) ∧
        (v.toNat % 2 ^ 24 ≠ 0 → exec (.descriptorWrite via item 1 v) s = put 1 (v.toNat % 2 ^ 24)) ∧
        exec (.descriptorWrite via item 2 v) s = put 2 v.toNat ∧
        exec (.descriptorWrite via item 3 v) s = put 3 (v.toNat % 256) ∧
        exec (.descriptorWrite via item 4 v) s = put 4 v.toNat ∧
        exec (.descriptorWrite via item 5 v) s = put 5 v.toNat ∧
        exec (.descriptorWrite via item 6 v) s = .next r0 ∧ exec (.descriptorWrite via item 7 v) s = .next r0) ∧
      (∃ t, exec (.trClear via en fe) s = .next t ∧ t.fld q SCHED.WR_IDX = 0 ∧ t.fld q SCHED.FROZEN = 0 ∧
        t.flag q SCHED.FREEZE_EN = en ∧ t.fld q SCHED.FREEZE_EVT = fe.toNat ∧ (t.sched h).freezeLeft = none ∧
        (∀ n, n < 0x40000 → t.word (TRC.addr h 0 + n) = s.regReset (TRC.addr h 0 + n)) ∧ t.mem = s.mem) ∧
      ((s.sched h).freezeLeft = some 0 → s.flag q SCHED.FROZEN = false →
        exec (.traceFreeze h) s = .next (raiseEvt (s.setFlag q SCHED.FROZEN) h 152)) ∧
      ((s.sched h).freezeLeft ≠ some 0 → exec (.traceFreeze h) s = .next s) ∧
      exec (.evtLostRead via evt) s =
        .next ((s.setFld (EVT.addr h) (EVT.LOST.nth evt.val) 0).answer via.m
          (BitVec.ofNat 64 (s.fld (EVT.addr h) (EVT.LOST.nth evt.val))))) ∧
  (∀ (h : Half) (e : Fin 256) (stamp : Nat) (s : State),
      s.fld (EVT.addr h) (EVT.ACTION.nth e.val) = 0 → s.flag (EVT.addr h) (EVT.HOST.nth e.val) = false →
      (s.acq h).recs = [] → (s.acq h).miss = false →
      let t := raiseAt s h e.val stamp
      t.mapBit (EVT.addr h) e.val = true ∧ t.quad (EVTST.addr h e.val) = stamp % 2 ^ 64 ∧
      t.fld (EVT.addr h) (EVT.LOST.nth e.val) =
        (let n := s.fld (EVT.addr h) (EVT.LOST.nth e.val)
         if s.mapBit (EVT.addr h) e.val then Nat.min (n + 1) (2 ^ (EVT.LOST.hi + 1 - EVT.LOST.lo) - 1) else n) ∧
      t.mem = s.mem ∧ t.isl = s.isl ∧ t.half h.other = s.half h.other ∧ (∀ k, t.core h k = s.core h k))

/-- R315, R321, R333: an item whose END has issued and whose copies are complete ends: the core is free with every result
landed, dt ns after the last command (the model's operand, log entry 38), LATE_CNT counts a late or faulted item, OVERRUN_CNT
one that used more than twice its estimate, and the core goes on; stated of an item that is no required work and has not been
posted again. An item that has not started by its deadline with DROP_LATE set is removed and counted in ABANDON_CNT; others
stay. -/
def Obligations.ItemsCompleteOrAreAbandoned : Prop :=
  (∀ (h : Half) (k : Fin 24) (i dt : Nat) (x : LiveItem) (f : Option Nat) (s0 : State),
    let s := s0.passTime dt
    let c := s.core h k.val
    c.item = some i → c.urgItem = none → c.copies = [] → c.far = none → c.stall = .ending f →
    (s.sched h).find i = some x → x.st = .running k.val → itemKind s.cfg i = none → s.flag (DESC.addr h i) DESC.REQ = false →
    let e := landEverything c
    let now := s.servoNow h
    let late := f.isSome || (match x.deadline with | none => false | some t => decide (t < now))
    let s1 := coreFlags (s.setCore h k.val { e.1 with item := none, stall := .none, xfers := [], unseen := [] }) h k.val e.2
    let s2 := if f.isSome then s1
      else if late then traceEntry s1 h i k.val 5 (in8ns (now - x.deadline.getD 0))
      else traceEntry s1 h i k.val 4 (in8ns (x.deadline.getD now - now))
    let s3 := s2.countIf late (SCHED.addr h) SCHED.LATE_CNT
    let s4 := s3.countIf (decide (2 * s3.fld (DESC.addr h i) DESC.EST_RUN < e.1.slots)) (SCHED.addr h) SCHED.OVERRUN_CNT
    exec (.workItemEnd h k dt) s0 = .next (nextItemOn (s4.setSched h ((s4.sched h).dropItem i)) h k.val)) ∧
  (∀ (h : Half) (item : Fin 4096) (x : LiveItem) (d : Nat) (s : State),
    (s.sched h).find item.val = some x → x.deadline = some d → s.flag (DESC.addr h item.val) DESC.REQ = false →
    (d < s.servoNow h → x.st = .ready → s.flag (DESC.addr h item.val) DESC.DROP_LATE = true →
      exec (.deadlineAbandon h item) s =
        .next (let t := traceEntry s h item.val noCore 6 (d % 2 ^ 32)
               scheduleAll ((t.setSched h ((t.sched h).dropItem item.val)).count (SCHED.addr h) SCHED.ABANDON_CNT) h)) ∧
    (s.servoNow h ≤ d ∨ s.flag (DESC.addr h item.val) DESC.DROP_LATE = false →
      exec (.deadlineAbandon h item) s = .next s))

/-- R316: a far access that completes with data ends the stall and gives the word to the load's register at once; one that is
misaligned, not decoded or refused ends the item with fault 2 at its instruction. R317: a core's oldest copy completes and
leaves the others. R296, R304, R331: a finished argument prefetch puts the block's words into the argument area of the item
the core waits for and lets the core go on, its lost slots counted, or into the other area for the next slot. -/
def Obligations.FarAccessEnds : Prop :=
  (∀ (h : Half) (k : Fin 24) (f : FarAcc) (lost : Nat) (s : State),
      (s.core h k.val).far = some f → accessWaits s (.core h k) f.addr = false →
      let s1 := s.countBy (CORE.addr h k.val) CORE.STALLS lost
      let r := access s1 (.core h k) f.addr 4 (f.store.map BitVec.toNat)
      (∀ v, r.1 = .data v → f.store = none → exec (.farAccessComplete h k lost) s =
        .next (haltCheck (r.2.setCore h k.val
          { r.2.core h k.val with far := none, d := (r.2.core h k.val).d.set f.dest (BitVec.ofNat 32 v) }) h k.val)) ∧
      (∀ v w, r.1 = .data v → f.store = some w → exec (.farAccessComplete h k lost) s =
        .next (haltCheck (r.2.setCore h k.val { r.2.core h k.val with far := none }) h k.val)) ∧
      (∀ n, r.1 = .lost n → exec (.farAccessComplete h k lost) s = .next (coreFault r.2 h k.val 2 f.at_)) ∧
      (r.1 = .wait → exec (.farAccessComplete h k lost) s = .next r.2)) ∧
  (∀ (h : Half) (k : Fin 24) (i lost : Nat) (s : State),
      let c := s.core h k.val
      let words := fun (area : Bool) => prefetchWords s h k.val (s.fld (DESC.addr h i) DESC.ARG_PTR) (areaIndex area) (itemArgs s h i)
      (c.item = some i → c.stall = .args → exec (.argPrefetchComplete h k lost) s =
        .next (((words c.area).setCore h k.val { (words c.area).core h k.val with stall := .none }).countBy
          (CORE.addr h k.val) CORE.STALLS lost)) ∧
      (c.stall = .none → c.nextItem = some i → c.nextReady = false → exec (.argPrefetchComplete h k lost) s =
        .next ((words (!c.area)).setCore h k.val { (words (!c.area)).core h k.val with nextReady := true })) ∧
      (∀ (t : State) (src idx n : Nat), idx + n ≤ 16384 → Memory.wf t.mem = true →
        (∀ m, m < n → regRowAt (src + 4 * m) = none ∧ src + 4 * m + 4 ≤ coreMemAddr h k.val 0 0) →
        ∀ m, m < n → (prefetchWords t h k.val src idx n).memWord (coreMemAddr h k.val 0 (idx + m)) = t.memWord (src + 4 * m)))

/-- R323 and the core control registers: HALT stops a core at the next slot boundary at which an interrupt would be allowed
and 0 lets it go on, STEP of a halted core issues one instruction and its delay slots, and CORE.REG reads and writes the
registers of a halted core, and reads 0 and discards writes at other times. -/
def Obligations.CoreDebugging : Prop :=
  ∀ (via : Via) (h : Half) (k : Fin 24) (r : BitVec 8) (w : Word) (s : State), reaches s via h →
    let c := s.core h k.val
    let b := CORE.addr h k.val
    (exec (.halt via k true) s = .next (haltCheck (s.putFlag b CORE.HALT true) h k.val)) ∧
    (c.item ≠ none → k.val < (s.half h).cores.length → exec (.halt via k false) s =
      .next ((s.putFlag b CORE.HALT false).setCore h k.val { c with halted := false })) ∧
    (c.halted = false → c.far = none → c.xfers = [] → bitOf c.stat 15 = true → c.stall = .none → s.flag b CORE.HALT = true →
      haltCheck s h k.val = s.setCore h k.val { c with halted := true }) ∧
    (c.halted = false → exec (.coreStep via k) s = .next s ∧
      exec (.coreRegAccess via k r none) s = .next (s.answer via.m 0) ∧
      exec (.coreRegAccess via k r (some w)) s = .next s) ∧
    (c.halted = true →
      (∀ v, c.readReg r.toNat false = some v → v < 2 ^ 32 →
        exec (.coreRegAccess via k r none) s = .next (s.answer via.m (BitVec.ofNat 64 v))) ∧
      (regExists r.toNat = false → exec (.coreRegAccess via k r none) s = .next (s.answer via.m 0)) ∧
      (r.toNat < 32 → k.val < (s.half h).cores.length → ∃ t, exec (.coreRegAccess via k r (some w)) s = .next t ∧
        t.core h k.val = { c with d := c.d.set r.toNat w }) ∧
      (let go := fun (u : State) => fetchIssue (u.setCore h k.val { u.core h k.val with halted := false }) h k.val
       let more := fun (u : State) => if (u.core h k.val).xfers = [] then u else go u
       let t := more (more (go s))
       exec (.coreStep via k) s = .next (t.setCore h k.val { t.core h k.val with halted := true })))

/-- R57, R58, R60, R68, R74, R123: a motion command is refused, with nothing but RESULT and TAG of PRF.CMD_STATUS written,
with result 1 while the loop counts as off, 7 while a path of the arm runs, 4 while the axis homes, 8 while it stops for a
latched limit (log entry 25), and with its own code where the command's own rule refuses it. -/
def Obligations.MotionCommandsRefused : Prop :=
  ∀ (via : Via) (h : Half) (k : Fin 128) (tag : BitVec 8) (s : State), reaches s via h →
    let b := PRF.addr h k.val
    let off := s.fld (CE.addr h k.val) CE.MODE_ACT = 0 ∨ s.fld (CE.addr h k.val) CE.MODE_ACT = 5
    let no := fun (r : Nat) => Host.Outcome.next ((s.setFld b PRF.RESULT r).setFld b PRF.TAG tag.toNat)
    let all := fun (r : Nat) =>
      exec (.moveAbs via k tag) s = no r ∧ exec (.moveRel via k tag) s = no r ∧ exec (.velocity via k tag) s = no r ∧
      exec (.gear via k tag) s = no r ∧ exec (.cam via k tag) s = no r ∧ exec (.pathFollow via k tag) s = no r
    (off → all 1) ∧
    (off → s.fld b PRF.METHOD ≠ 0 → exec (.home via k tag) s = no 1) ∧
    (¬off → (pathOwner s h k.val).isSome = true → all 7 ∧ exec (.home via k tag) s = no 7) ∧
    (¬off → pathOwner s h k.val = none → (s.prf h k.val).homing.isSome = true → all 4 ∧ exec (.home via k tag) s = no 4) ∧
    (¬off → pathOwner s h k.val = none → (s.prf h k.val).homing = none → limitStop s h k.val = true →
      all 8 ∧ exec (.home via k tag) s = no 8) ∧
    (¬off → pathOwner s h k.val = none → (s.prf h k.val).homing = none → limitStop s h k.val = false →
      (s.flag b PRF.REF = false → exec (.moveAbs via k tag) s = no 5) ∧
      (s.fld b PRF.GEAR_DEN = 0 → exec (.gear via k tag) s = no 6) ∧
      (s.flag b PRF.SRC_ACT = false → k.val ≤ s.fld b PRF.MASTER →
        exec (.gear via k tag) s = no 6 ∧ exec (.cam via k tag) s = no 6) ∧
      (armOf s h k.val = none → exec (.pathFollow via k tag) s = no 6))

/-- R57, R59, R62, R64, R67, R77: an accepted motion command sets its mode and its goal, result 0, its tag and BUSY, and
changes nothing outside the axis. -/
def Obligations.MotionCommandsAccepted : Prop :=
  ∀ (via : Via) (h : Half) (k : Fin 128) (tag : BitVec 8) (s : State), reaches s via h → k.val < (s.half h).prf.length →
    let b := PRF.addr h k.val
    let done := fun (c : Instr) (mode : Nat) (goal : PrfUnit → Prop) => ∃ t, exec c s = .next t ∧
      t.fld b PRF.MODE_ACT = mode ∧ t.fld b PRF.RESULT = 0 ∧ t.fld b PRF.TAG = tag.toNat ∧ t.flag b PRF.BUSY = true ∧
      goal (t.prf h k.val) ∧ t.mem = s.mem ∧ t.half h.other = s.half h.other ∧ t.isl = s.isl ∧
      (∀ j, j ≠ k.val → t.prf h j = s.prf h j) ∧ (∀ j, t.ce h j = s.ce h j ∧ t.arm h j = s.arm h j) ∧
      (∀ a, a < b ∨ b + 0x100 ≤ a → t.word a = s.word a)
    let free := fun (code : Nat) => motionRefusal s h k.val code = 0
    (free 1 → done (.moveAbs via k tag) 1 (fun u => u.target = s.fldS b PRF.TARGET_POS ∧ u.homing = (s.prf h k.val).homing)) ∧
    (free 2 → done (.moveRel via k tag) 1 (fun u => u.target = satS 64 (s.fldS b PRF.TARGET_POS +
      (if s.fld b PRF.MODE_ACT = 1 then (s.prf h k.val).target else s.fldS b PRF.SP_POS)))) ∧
    (free 3 → done (.velocity via k tag) 2 (fun u => u.vGoal = s.fldS b PRF.TARGET_VEL)) ∧
    (free 4 → done (.gear via k tag) 3 (fun u => u.master = s.fld b PRF.MASTER ∧ u.srcAct = s.flag b PRF.SRC_ACT ∧ u.engage = true)) ∧
    (free 5 → done (.cam via k tag) 4 (fun u => u.master = s.fld b PRF.MASTER ∧ u.camBase = s.quad (b + 0x70) ∧ u.engage = true)) ∧
    (free 6 → done (.pathFollow via k tag) 5 (fun u => u.clampNow = false ∧ u.quick = false)) ∧
    (free 9 → done (.home via k tag) 7 (fun u => ∃ hm, u.homing = some hm ∧ hm.method = s.fld b PRF.METHOD ∧
      hm.pos = s.fldS b PRF.HOME_POS ∧ hm.refDone = false))

/-- R57, R74, R101: STOP and QUICK_STOP stop the arm's path where one runs, else brake the axis, quick where the command says
so; LIM_CLEAR is refused with 7 while the arm's path runs and with 8 until the axis stands, and then releases a latched limit
and sets its away restriction. A stop with the loop off completes at once (log entry 8). -/
def Obligations.StopsAndLimitClear : Prop :=
  ∀ (via : Via) (h : Half) (k : Fin 128) (tag : BitVec 8) (s : State), reaches s via h →
    let b := PRF.addr h k.val
    let off := s.fld (CE.addr h k.val) CE.MODE_ACT = 0 ∨ s.fld (CE.addr h k.val) CE.MODE_ACT = 5
    (∀ j, pathOwner s h k.val = some j →
      exec (.prfStop via k tag) s = .next (putStatus (pathStop s h j false) h k.val 0 tag.toNat false) ∧
      exec (.prfQuickStop via k tag) s = .next (putStatus (pathStop s h j true) h k.val 0 tag.toNat false)) ∧
    (pathOwner s h k.val = none → (s.prf h k.val).homing = none → ¬off →
      exec (.prfStop via k tag) s = .next (putStatus (stopAxis s h k.val false) h k.val 0 tag.toNat true) ∧
      exec (.prfQuickStop via k tag) s = .next (putStatus (stopAxis s h k.val true) h k.val 0 tag.toNat true)) ∧
    (pathOwner s h k.val = none → (s.prf h k.val).homing = none → off →
      exec (.prfStop via k tag) s = .next (putStatus s h k.val 12 tag.toNat false)) ∧
    ((pathOwner s h k.val).isSome = true →
      exec (.limClear via k tag) s = .next ((s.setFld b PRF.RESULT 7).setFld b PRF.TAG tag.toNat)) ∧
    (pathOwner s h k.val = none → s.fld b PRF.MODE_ACT = 6 ∨ (spAtRest s h k.val = false ∧ s.flag b PRF.LOOP_ON = true) →
      exec (.limClear via k tag) s = .next ((s.setFld b PRF.RESULT 8).setFld b PRF.TAG tag.toNat)) ∧
    (pathOwner s h k.val = none → ¬(s.fld b PRF.MODE_ACT = 6 ∨ (spAtRest s h k.val = false ∧ s.flag b PRF.LOOP_ON = true)) →
      ∃ t, exec (.limClear via k tag) s = .next t ∧ t.flag b PRF.LIM_P_LAT = false ∧ t.flag b PRF.LIM_N_LAT = false ∧
        t.flag b PRF.AWAY_P = (s.flag b PRF.AWAY_P || s.flag b PRF.LIM_P_LAT) ∧
        t.flag b PRF.AWAY_N = (s.flag b PRF.AWAY_N || s.flag b PRF.LIM_N_LAT) ∧
        t.fld b PRF.RESULT = 0 ∧ t.fld b PRF.TAG = tag.toNat ∧ t.fldS b PRF.SP_POS = s.fldS b PRF.SP_POS ∧ t.mem = s.mem)

/-- R70 to R74, R80: an edge of a local input sets its level, reaches every axis input that selects it with its stamp on the
10 us grid (10 ns for a fast input), and raises event 204, or 200 to 203 after the acquisition triggers; an input that has
held its level for the debounce time qualifies with its raw stamp, and one that has not changes nothing; a hard-stop homing
whose torque has held for HOME_TQ_TIME freezes the set-point and captures the reference. -/
def Obligations.InputsAndHomingTorque : Prop :=
  (∀ (i : Fin 44) (level : Bool) (s : State),
    exec (.localInputEdge i level) s =
      .next (let t := s.setMapBit LIO.addr (i.val + 4) level
             let t := localEdge t .a (i.val + 4) level (stampTo 10000 (t.servoNow .a)) 384
             let t := localEdge t .b (i.val + 4) level (stampTo 10000 (t.servoNow .b)) 384
             let t := raiseAt t .a 204 (stampTo 10000 (t.servoNow .a))
             raiseAt t .b 204 (stampTo 10000 (t.servoNow .b)))) ∧
  (∀ (i : Fin 4) (level : Bool) (s : State),
    exec (.fastInputEdge i level) s =
      .next (let t := s.setMapBit LIO.addr i.val level
             let t := localEdge t .a i.val level (stampTo 10 (t.servoNow .a)) 384
             let t := localEdge t .b i.val level (stampTo 10 (t.servoNow .b)) 384
             fastEdge (fastEdge t .a i.val level) .b i.val level)) ∧
  (∀ (h : Half) (k : Fin 128) (inp : Fin 3) (s : State),
    let r := (s.prf h k.val).input inp.val
    let held := debounceSteps s h k.val inp.val * 10000 ≤ s.servoNow h - r.since
    (inputSource s h k.val inp.val % 128 < 48 → held → r.raw ≠ r.qual →
      exec (.debounceQualify h k inp) s = .next (qualify s h k.val inp.val r.raw r.since)) ∧
    (¬held → exec (.debounceQualify h k inp) s = .next s)) ∧
  (∀ (h : Half) (k : Fin 128) (hm : Homing) (s : State), (s.prf h k.val).homing = some hm →
    let p := (s.ce h k.val).pAct
    (hm.method = 5 → hm.motion = 5 → Nat.max 1 hm.tqTime ≤ hm.tqRun →
      exec (.homeTorqueReached h k) s =
        .next (let t := applyRef (putSp s h k.val (regPoint p 0 0)) h k.val hm.pos p
               let back : Int := (hm.backoff : Int) * 65536
               let t := t.setPrf h k.val { t.prf h k.val with target := hm.pos + (if hm.neg then back else -back) }
               putHoming t h k.val { hm with motion := 9, refDone := true })) ∧
    (hm.method ≠ 5 ∨ hm.tqRun < Nat.max 1 hm.tqTime → exec (.homeTorqueReached h k) s = .next s))

/-- R122, R124, R126, R129: an axis whose replies have been missing LOF_CNT times sets LOF, raises event 102 and is switched
off; the hand-over blend, the gain blend and the brake's engage and release steps end when their counts are full, and change
nothing before. R123, R130, R135: a write of CE.MODE requests a mode for the axis, into and out of torque following of the
arm for all its axes, and sets PARAM_ERR where the mode or the arm does not exist; GT_RELOAD and RC_CLEAR do what CE.CMD
says; when the clear completes every learning point of the axis reads 0 and the others are unchanged; the learning-memory
window stores a word while RC_LEARN is 0 and sets LM_REFUSED otherwise. -/
def Obligations.EngineSteps : Prop :=
  (∀ (h : Half) (k : Fin 128) (s : State),
      let b := CE.addr h k.val
      let c := s.ce h k.val
      (Nat.max 1 (s.fld b CE.LOF_CNT) ≤ c.missRun → c.lofDone = false → exec (.lossOfFeedback h k) s =
        .next (rehFailIf (axisOff (raiseEvt ((s.setCe h k.val { c with lofDone := true }).setFlag b CE.LOF) h 102) h k.val) true h 3)) ∧
      (c.missRun < Nat.max 1 (s.fld b CE.LOF_CNT) ∨ c.lofDone = true → exec (.lossOfFeedback h k) s = .next s) ∧
      (c.blending = true → c.blendN ≤ c.blendK → c.holdStep ≠ 2 → c.holdStep ≠ 4 → exec (.blendEnd h k) s =
        .next ((s.putFlag b CE.BLENDING false).setCe h k.val { c with blending := false, blendD := 0 })) ∧
      (c.blending = true → c.blendN ≤ c.blendK → c.holdStep = 2 → exec (.blendEnd h k) s =
        .next ((s.putFlag b CE.BLENDING false).setCe h k.val { c with blending := false, blendD := 0, holdStep := 3, holdCnt := 0 })) ∧
      (c.blending = true → c.blendN ≤ c.blendK → c.holdStep = 4 → exec (.blendEnd h k) s =
        .next (((s.putFlag b CE.BLENDING false).setCe h k.val
          { c with blending := false, blendD := 0, holdStep := 5, holdCnt := 0 }).putFlag b CE.BRAKE_REQ false)) ∧
      (c.blending = false ∨ c.blendK < c.blendN → exec (.blendEnd h k) s = .next s) ∧
      (c.gainJ = 9 → exec (.gainBlendEnd h k) s =
        .next ((s.setCe h k.val { c with gainJ := 0, work := c.workTo }).setFld b CE.GBLEND_LEFT 0)) ∧
      (c.gainJ ≠ 9 → exec (.gainBlendEnd h k) s = .next s) ∧
      (c.holdStep = 1 → c.brkEng ≤ c.holdCnt → exec (.brakeEngageTimeExpiry h k) s =
        .next (s.setCe h k.val { c with holdStep := 2, swKind := 3, swBare := true })) ∧
      (c.holdStep ≠ 1 ∨ c.holdCnt < c.brkEng → exec (.brakeEngageTimeExpiry h k) s = .next s) ∧
      (c.holdStep = 5 ∨ c.holdStep = 6 → c.brkRel ≤ c.holdCnt → c.softRel = false → exec (.brakeReleaseTimeExpiry h k) s =
        .next ((s.setCe h k.val { c with holdStep := 0, softRel := false }).setFld b CE.MODE_ACT c.holdTo)) ∧
      (c.holdCnt < c.brkRel → exec (.brakeReleaseTimeExpiry h k) s = .next s)) ∧
  (∀ (via : Via) (h : Half) (k : Fin 128) (req : BitVec 3) (off : Fin 524288) (w : Word) (s : State),
      let b := CE.addr h k.val
      let c := s.ce h k.val
      let ax := 32 * s.fld (CELM.addr h) CELM.LM_PAGE + off.val / 16384
      let at_ := learnAddr h ax (off.val % 16384)
      (reaches s via h →
        (5 < req.toNat → exec (.modeReqWrite via k req) s = .next (s.setFlag b CE.PARAM_ERR)) ∧
        (req.toNat = 4 → armOf s h k.val = none → exec (.modeReqWrite via k req) s = .next (s.setFlag b CE.PARAM_ERR)) ∧
        (req.toNat ≤ 5 → req.toNat ≠ 4 → armOf s h k.val = none ∨ (s.fld b CE.MODE_REQ ≠ 4 ∧ s.fld b CE.MODE_ACT ≠ 4) →
          exec (.modeReqWrite via k req) s =
            .next ((s.setFld b CE.MODE_REQ req.toNat).setCe h k.val { c with req := some req.toNat })) ∧
        (∀ j, req.toNat ≤ 5 → armOf s h k.val = some j → req.toNat = 4 ∨ s.fld b CE.MODE_REQ = 4 ∨ s.fld b CE.MODE_ACT = 4 →
          exec (.modeReqWrite via k req) s =
            .next ((armAxes s h j).foldl (fun s k =>
              (s.setFld (CE.addr h k) CE.MODE_REQ req.toNat).setCe h k { s.ce h k with req := some req.toNat }) s)) ∧
        exec (.gtReload via k) s = .next (gainReload s h k.val) ∧
        exec (.rcClear via k) s = .next (rcClear s h k.val) ∧
        (s.flag (CE.addr h ax) CE.RC_LEARN = true →
          exec (.learningMemoryWrite via off w) s = .next (s.setFlag (CE.addr h ax) CE.LM_REFUSED)) ∧
        (s.flag (CE.addr h ax) CE.RC_LEARN = false → Memory.wf s.mem = true →
          ∃ t, exec (.learningMemoryWrite via off w) s = .next t ∧ t.memWord at_ = w ∧ t.regs = s.regs ∧
            (∀ a, a < at_ ∨ at_ + 4 ≤ a → t.byte a = s.byte a))) ∧
      (c.rc.clearing = true → Memory.wf s.mem = true → ∃ t, exec (.rcClearComplete h k) s = .next t ∧
        (∀ n, n < 16384 → t.memWord (learnAddr h k.val n) = 0) ∧
        (∀ a, a < learnAddr h k.val 0 ∨ learnAddr h k.val 0 + 0x10000 ≤ a → t.byte a = s.byte a) ∧
        t.fld b CE.RC_CYC = 0 ∧ (k.val < (s.half h).ce.length → (t.ce h k.val).rc.clearing = false)) ∧
      (c.rc.clearing = false → exec (.rcClearComplete h k) s = .next s))

/-- R92, R101, R102: START is refused with 6 while a queue error stands, then with the code of its axes, 3 while the arm is
busy, 4 with an empty queue, and otherwise sets the arm running with sigma_stop 1.0; RESUME only of a stopped arm; STOP and
QUICK_STOP stop the path; ABORT quick-stops a moving arm, flushes its queue and cancels its hoists; CLEAR_ERR clears the
error and the counters. -/
def Obligations.ArmCommands : Prop :=
  ∀ (via : Via) (h : Half) (j : Fin 16) (tag : BitVec 8) (s : State), reaches s via h →
    let b := ARM.addr h j.val
    let x := s.fld b ARM.STATE
    let busy := x = 1 ∨ x = 2 ∨ x = 3 ∨ x = 5
    let ax := axesRefusal s h j.val
    let u := s.arm h j.val
    let res := fun (s : State) (n : Nat) => (s.setFld b ARM.RESULT n).setFld b ARM.TAG tag.toNat
    let no := fun (n : Nat) => Host.Outcome.next (res s n)
    (s.fld b ARM.ERR_CODE ≠ 0 → exec (.start via j tag) s = no 6) ∧
    (s.fld b ARM.ERR_CODE = 0 →
      (ax ≠ 0 → exec (.start via j tag) s = no ax) ∧
      (ax = 0 → busy → exec (.start via j tag) s = no 3) ∧
      (ax = 0 → ¬busy → s.fld b ARM.Q_RD = s.fld b ARM.Q_ACK → exec (.start via j tag) s = no 4) ∧
      (ax = 0 → ¬busy → s.fld b ARM.Q_RD ≠ s.fld b ARM.Q_ACK → exec (.start via j tag) s =
        .next (let q := presentJoints s h j.val
               let t := s.setArm h j.val
                 { u with q := q, running := false, stop := .one, stopUp := false, flush := false, place := { PathAt.zero with idx := s.fld b ARM.Q_RD, start := startAt s h j.val q } }
               res (obsRestart (axesFollow (t.setFld b ARM.STATE 1) h j.val) h j.val) 0))) ∧
    (x ≠ 4 → exec (.resume via j tag) s = no 5) ∧
    (x = 4 → ax ≠ 0 → exec (.resume via j tag) s = no ax) ∧
    (x = 4 → ax = 0 → exec (.resume via j tag) s =
      .next (res (obsRestart (axesFollow ((s.setArm h j.val { u with stopUp := true, stop := { u.stop with run := 0 } }).setFld b
        ARM.STATE 1) h j.val) h j.val) 0)) ∧
    exec (.armStop via j tag) s = .next (pathStop (res s 0) h j.val false) ∧
    exec (.armQuickStop via j tag) s = .next (pathStop (res s 0) h j.val true) ∧
    (x = 1 ∨ x = 3 → exec (.armAbort via j tag) s =
      .next (let t := cancelHoists (pathStop (res s 0) h j.val true) h j.val 8
             t.setArm h j.val { t.arm h j.val with flush := true })) ∧
    (x = 5 → exec (.armAbort via j tag) s =
      .next (let t := cancelHoists (flushQueue (res s 0) h j.val) h j.val 8
             t.setArm h j.val { t.arm h j.val with flush := true })) ∧
    (x ≠ 1 → x ≠ 3 → x ≠ 5 → exec (.armAbort via j tag) s =
      .next (let t := (cancelHoists (flushQueue (res s 0) h j.val) h j.val 8).setFld b ARM.HOIST_WAIT 0
             pathEnded (t.setArm h j.val { t.arm h j.val with running := false }) h j.val 0)) ∧
    (∃ t, exec (.clearErr via j tag) s = .next t ∧ t.fld b ARM.ERR_CODE = 0 ∧ t.fld b ARM.ERR_IDX = 0 ∧
      t.word (b + 0xD0) = 0 ∧ t.word (b + 0xD4) = 0 ∧ t.fld b ARM.STATE = (if x = 7 then 0 else x) ∧
      t.fld b ARM.RESULT = 0 ∧ t.fld b ARM.TAG = tag.toNat ∧ t.fld b ARM.Q_RD = s.fld b ARM.Q_RD ∧ t.mem = s.mem)

/-- R92, R186: a write of Q_WR is ignored while a queue error stands, refused with 9 where it would hold more than 64
descriptors, and otherwise has the new descriptors checked in order: one that passes advances Q_ACK, one that fails sets
Q_ERR, SEG_REFUSED and event 115. A finished zone scan of a queued segment replaces the segment's intervals by those the scan
finds, of which more than 8 are merged; the poses the scan samples are log entry 72. R99, R100, R112, R113: GO of a hoist is
refused with 3 for a mask that is empty or names an arm that is not configured, 2 for a number already armed, 1 with a full
list, and otherwise arms the first free entry; reading a started or cancelled entry returns and frees it; the observers are
released at t_fb as required work, and a hold of the observer ends. -/
def Obligations.ArmQueueAndHoists : Prop :=
  ((∀ (via : Via) (h : Half) (j : Fin 16) (idx : BitVec 7) (s : State), reaches s via h →
      let b := ARM.addr h j.val
      let v := idx.toNat
      (s.fld b ARM.ERR_CODE ≠ 0 → exec (.qWrWrite via j idx) s = .next s) ∧
      (s.fld b ARM.ERR_CODE = 0 → 64 < (v + 128 - s.fld b ARM.Q_RD) % 128 →
        exec (.qWrWrite via j idx) s = .next (segRefuse s h j.val (s.fld b ARM.Q_ACK) 9)) ∧
      (s.fld b ARM.ERR_CODE = 0 → (v + 128 - s.fld b ARM.Q_RD) % 128 ≤ 64 → v = s.fld b ARM.Q_ACK →
        exec (.qWrWrite via j idx) s = .next (s.setFld b ARM.Q_WR v)) ∧
      (s.fld b ARM.ERR_CODE = 0 → (v + 128 - s.fld b ARM.Q_RD) % 128 ≤ 64 → v = (s.fld b ARM.Q_ACK + 1) % 128 →
        let t := s.setFld b ARM.Q_WR v
        let i := s.fld b ARM.Q_ACK
        let r := segCheck t h j.val i (decide (i = s.fld b ARM.Q_RD))
        (r ≠ 0 → exec (.qWrWrite via j idx) s = .next (segRefuse t h j.val i r)) ∧
        (r = 0 → ∃ u, exec (.qWrWrite via j idx) s = .next u ∧ u.fld b ARM.Q_ACK = v ∧ u.fld b ARM.Q_WR = v ∧
          u.fld b ARM.Q_RD = s.fld b ARM.Q_RD ∧ u.fld b ARM.ERR_CODE = 0 ∧ u.mem = s.mem))) ∧
    (∀ (h : Half) (j : Fin 16) (seg : Fin 128) (dt : Nat) (s0 : State), j.val < (s0.half h).arms.length →
      let s := s0.passTime dt
      let n := queuedSegs s h j.val
      let i := (seg.val + 128 - s.fld (ARM.addr h j.val) ARM.Q_RD) % 128
      let a := segPlaceOf s h j.val i
      let ps := scanPoses s h j.val a (fxList a.start.q) (List.range 66)
      let l := s.cfg.govZones.flatMap (fun z => zoneSpans s j.val ps seg.val z)
      (n ≤ i → exec (.zoneScanComplete h j seg dt) s0 = .next s) ∧
      (i < n → ∃ t m, exec (.zoneScanComplete h j seg dt) s0 = .next t ∧
        (t.arm h j.val).zones = (s.arm h j.val).zones.filter (fun y => y.seg != seg.val % 64) ++ m ∧
        (l.length ≤ 8 → m = l) ∧ (∀ y ∈ m, y.seg = seg.val % 64) ∧
        (∀ y ∈ l, ∃ x ∈ m, x.zone = y.zone ∧ x.lo ≤ y.lo ∧ y.hi ≤ x.hi) ∧
        seg.val % 64 ∈ (t.arm h j.val).scanned ∧
        (t.arm h j.val).q = (s.arm h j.val).q ∧ t.regs = s.regs ∧ t.mem = s.mem))) ∧
  ((∀ (via : Via) (h : Half) (p : BitVec 64) (s0 : State), reaches s0 via h →
      let b := HOIST.addr h
      let s := s0.setQuad (b + 8) p.toNat
      let mask := s.fld b HOIST.MASK
      let id := s.fld b HOIST.ID
      let bad := mask = 0 ∨ ∃ j, j < 16 ∧ bitOf mask j = true ∧ armConfigured s h j = false
      let dup := ∃ i, i < 8 ∧ s.fld (HLIST.addr h i) HLIST.H_STATE = 1 ∧ s.fld (HLIST.addr h i) HLIST.L_ID = id
      let no := fun (n : Nat) => Host.Outcome.next (s.setFld b HOIST.RESULT n)
      (bad → exec (.hoistGo via p) s0 = no 3) ∧
      (¬bad → dup → exec (.hoistGo via p) s0 = no 2) ∧
      (¬bad → ¬dup → (∀ i, i < 8 → s.fld (HLIST.addr h i) HLIST.H_STATE ≠ 0) → exec (.hoistGo via p) s0 = no 1) ∧
      (∀ i, ¬bad → ¬dup → i < 8 → s.fld (HLIST.addr h i) HLIST.H_STATE = 0 →
        (∀ n, n < i → s.fld (HLIST.addr h n) HLIST.H_STATE ≠ 0) → ∃ t, exec (.hoistGo via p) s0 = .next t ∧
          t.fld b HOIST.RESULT = 0 ∧ t.fld (HLIST.addr h i) HLIST.H_STATE = 1 ∧ t.fld (HLIST.addr h i) HLIST.L_ID = id ∧
          t.fld (HLIST.addr h i) HLIST.L_MASK = mask ∧ (i < (s0.half h).hoists.length → t.hoist h i = ⟨p.toNat, none⟩) ∧
          (∀ n, n < 8 → n ≠ i → t.quad (HLIST.addr h n) = s0.quad (HLIST.addr h n)))) ∧
    (∀ (via : Via) (h : Half) (i : Fin 8) (s : State), reaches s via h →
      let b := HLIST.addr h i.val
      let v := BitVec.ofNat 64 (s.quad b)
      (2 ≤ s.fld b HLIST.H_STATE → exec (.hoistListRead via i) s = .next (((s.setWordN b 0).setWordN (b + 4) 0).answer via.m v)) ∧
      (s.fld b HLIST.H_STATE < 2 → exec (.hoistListRead via i) s = .next (s.answer via.m v))) ∧
    (∀ (h : Half) (j : Fin 16) (s : State),
      exec (.feedbackPhaseEnd h) s = .next ((armList s h).foldl (fun s j =>
        let s := takeActual s h j
        match s.cfg.obsItems[j]? with
        | none => s
        | some i => releaseWork s h i (s.servoNow h) (armDeadline s h)) s) ∧
      ((s.arm h j.val).obsHold = 1 → exec (.observerHoldExpiry h j) s = .next (s.setArm h j.val { s.arm h j.val with obsHold := 0 })) ∧
      ((s.arm h j.val).obsHold ≠ 1 → exec (.observerHoldExpiry h j) s = .next s)))

/-- R345, R346, R350, R466: SET puts the staged value into a base, keeps its integral and skips the alarm instants it jumps
over; STAMP latches TB0; a rate written to a free base acts, clamped to RATE_LIM, and does nothing to another base; a locked
PTP base with no sample by its deadline unlocks with event 35 or 36 and runs on at its integral; a TB1 locked for RETURN_S
asks for the return to primary; when the wait of a half expires its servo time is set to the base that is locked, TB1 before
TB2, and in holdover to TB1 where neither is. R359: an enabled alarm whose base has reached ALARM_T raises event 48 + i with
ALARM_T as its stamp; a periodic one advances by its period, another is disabled; one that is not due stays. One enabled with
ALARM_T past fires at once with the stamp of the enable and sets LATE. -/
def Obligations.TimeBaseCommands : Prop :=
  (∀ (via : Via) (h : Half) (dom : Fin 2) (v : BitVec 64) (s : State), reaches s via h →
      let b := dom.val + 1
      let r := TB.addr h b
      let x := s.tb h b
      let lim : Int := (s.fld r TB.RATE_LIM : Int) * 2 ^ 48 / 1000000
      exec (.tbSet via dom) s =
        .next (skipAlarms (s.setTb h b { x with val := (x.stSec * 10 ^ 9 + x.stNs) * 2 ^ 48 + x.stFrac * 2 ^ 32 }) h b 16) ∧
      exec (.tbStamp via dom) s = .next (s.setTb h b { x with stamp := s.tb0 }) ∧
      (s.fld r TB.SRC = 2 → exec (.tbRateWrite via dom v) s =
        .next ((s.setTb h b { x with rate := clampI (-lim) lim (toS 64 v.toNat) }).setFldS r TB.RATE
          (clampI (-lim) lim (toS 64 v.toNat)))) ∧
      (s.fld r TB.SRC ≠ 2 → exec (.tbRateWrite via dom v) s = .next s) ∧
      (∀ t, lossDeadline s h b = some t →
        (t < s.tb0 → s.fld r TB.SRC = 0 → s.flag r TB.LOCKED = true →
          ∃ u, exec (.tbLockLoss h dom) s = .next (raiseEvt u h (35 + dom.val)) ∧ u.flag r TB.LOCKED = false ∧
            (u.tb h b).rate = clampI (-lim) lim (rateOf x.integ) ∧ (u.tb h b).integ = x.integ ∧ (u.tb h b).val = x.val ∧
            u.mem = s.mem) ∧
        (s.tb0 ≤ t → exec (.tbLockLoss h dom) s = .next s)) ∧
      (∀ t, (s.time h).tb1LockedAt = some t → s.fld (TB3X.addr h) TB3X.STATE = 1 →
        (t + s.fld (TB3X.addr h) TB3X.RETURN_S * 10 ^ 9 ≤ s.tb0 →
          exec (.returnToPrimary h) s = .next (s.setTime h { s.time h with wantState := some 0 })) ∧
        (s.tb0 < t + s.fld (TB3X.addr h) TB3X.RETURN_S * 10 ^ 9 → exec (.returnToPrimary h) s = .next s)) ∧
      ((s.time h).startWait = none → exec (.startWaitExpiry h) s = .next s) ∧
      (∀ t, (s.time h).startWait = some t →
        let w := s.passTime (t - s.tb0)
        let st := if tbLocked s h 1 then 0 else if tbLocked s h 2 then 1 else 2
        ∃ u, exec (.startWaitExpiry h) s = .next u ∧ (u.time h).startWait = none ∧ u.tb0 = w.tb0 ∧
          u.fld (TB3X.addr h) TB3X.STATE = st ∧
          (u.tb h 3).val = (if st = 1 then (((w.tb h 2).val : Int) + dUnits w h).toNat else (w.tb h 1).val))) ∧
  (∀ (via : Via) (h : Half) (i : Fin 16) (base : BitVec 2) (s : State), reaches s via h →
      let a := ALARM.addr h i.val
      let per := s.fld a ALARM.ALARM_PER
      let due := s.quad a
      let en := (s.setFld a ALARM.BASE base.toNat).setFld a ALARM.EN 1
      let fired := fun (t : State) => if per = 0 then t.setFld a ALARM.EN 0 else t.setQuad a (due + per)
      (s.flag a ALARM.EN = true → due ≤ baseNs s h (s.fld a ALARM.BASE) →
        exec (.timeAlarm h i) s = .next (raiseAt (fired s) h (48 + i.val) due)) ∧
      (s.flag a ALARM.EN = false ∨ baseNs s h (s.fld a ALARM.BASE) < due → exec (.timeAlarm h i) s = .next s) ∧
      (s.flag a ALARM.EN = true ∨ baseNs s h base.toNat ≤ due → exec (.alarmEnable via i base) s = .next en) ∧
      (s.flag a ALARM.EN = false → due < baseNs s h base.toNat → exec (.alarmEnable via i base) s =
        .next (raiseAt (fired (en.setFld a ALARM.LATE 1)) h (48 + i.val) (s.servoNow h))))

/-- R343, R345, R346: an offset sample of e below STEP_THR adds KI * e * interval to the integral and sets the rate to KP * e
plus the integral, clamped to RATE_LIM; the base's value does not step. It comes from a Sync message of the domain's
grandmaster, or, with SRC = software, from a write of TB.OFS_IN at the latched stamp. Stated of an unlocked base with fewer
than seven good samples and no start wait, so that the sample locks nothing. -/
def Obligations.OffsetSamplesSteerTheRate : Prop :=
  ∀ (via : Via) (h : Half) (dom : Fin 2) (e : Int) (stamp t0 : Nat) (gm : BitVec 64) (v : BitVec 64) (s : State),
    reaches s via h →
    let b := dom.val + 1
    let r := TB.addr h b
    let x := s.tb h b
    let lim : Int := (s.fld r TB.RATE_LIM : Int) * 2 ^ 48 / 1000000
    let i := x.integ + gainTerm (s.fld r TB.KI) e (stamp - t0 : Nat)
    let steered := fun (u : State) =>
      (u.tb h b).integ = i ∧ (u.tb h b).rate = clampI (-lim) lim (rateOf (gainTerm (s.fld r TB.KP) e (10 ^ 9) + i)) ∧
      (u.tb h b).val = x.val ∧ (u.tb h b).lastSample = some stamp ∧ u.tb0 = s.tb0 ∧ u.mem = s.mem ∧
      (∀ g c, (g, c) ≠ (h, b) → 1 ≤ c → c ≤ 3 → u.tb g c = s.tb g c)
    x.lastSample = some t0 → s.flag r TB.LOCKED = false → x.goodRun < 7 → (s.time h).startWait = none →
    (s.fld r TB.STEP_THR = 0 ∨ (e.natAbs : Int) ≤ (s.fld r TB.STEP_THR : Int) * 65536) →
    (s.fld r TB.SRC = 0 → s.fld (PTP.addr h dom.val) PTP.GM_ID = gm.toNat →
      (∀ d, lossDeadline s h b = some d → stamp ≤ d) →
      ∃ u, exec (.ptpMessageReceive h dom (.sync e stamp gm)) s = .next u ∧ steered u) ∧
    (s.fld r TB.SRC = 1 → toS 48 v.toNat = e → x.stamp = stamp →
      ∃ u, exec (.ofsInSample via dom v) s = .next u ∧ steered u) ∧
    exec (.ptpMessageReceive h dom .unsupported) s = .next (s.count (PTP.addr h dom.val) PTP.PTP_DISC)

/-- R35, R36, R44, R350 to R352, R356: at a sync instant time passes to the next multiple of P of servo time, the finished
period is reported, PERIOD_NUM takes the instant's number, event 40 (and at a planning-tick boundary event 41) is raised with
the instant as its stamp, and TB3's input, difference and servo follow; a half not in charge and not active does nothing more
with axes, rings and paths. The instant's further parts are the model's own named operations. R42 to R44, R46, R114: the
compute window opens t_cw_start after the period's instant, once a period; the half in charge latches feedback, blocks and
mode requests and computes set-points before torques, each in ascending axis order; another half only lets time pass. When
the engine has written the last torque, every torque not sent yet stands in its frame buffer and the engine's slack against
t_cw_end is noted, as late where a SET frame started without its result; a window that opens before that ends the earlier
computation first (the model's choice, log entry 38). -/
def Obligations.ServoInstants : Prop :=
  (∀ (h : Half) (s : State),
      let k := nextSync s h
      let u1 := endPeriod (s.passTime (untilServo s h (k * s.periodNs h))) h
      let t := k * u1.periodNs h
      let u2 := raiseAt ((u1.setTime h { u1.time h with marked := some k, tn := t }).setQuad (SYS.addr h + 0x108) k) h 40 t
      let u3 := if k % tickPeriods u2 h = 0 then raiseAt u2 h 41 t else u2
      let u4 := sampleTb3 (trackD (inputChange u3 h) h) h
      let u5 := latchSafeCopies (u4.setServo h { u4.servo h with cwOpen := false }) h
      (u5.activeHalf ≠ some h → exec (.syncInstant h) s = .next (startFinish u5 h)) ∧
      (u5.activeHalf = some h →
        let u6 := mirrorGap (resumeAt u5 h) h
        exec (.syncInstant h) s = .next (startFinish (if u6.inCharge h then chargeInstant u6 h else u6) h))) ∧
  (∀ (h : Half) (dt : Nat) (s : State),
      let u := s.passTime (untilServo s h (s.periodNum h * s.periodNs h + cwStartNs s h))
      let finish := fun (x : State) (n : Nat) =>
        let w := (x.servo h).ceLeft.foldl (fun x k =>
          x.setCe h k { x.ce h k with bufTq := (x.ce h k).setTq, bufEn := (x.ce h k).setEn }) x
        let w := w.setServo h { x.servo h with cePend := none, ceLeft := [], ceLate := false }
        let sl : Int := ((n * w.periodNs h + cwEndNs w h : Nat) : Int) - w.servoNow h
        acqPeriod (heartbeat (mirrorSend (noteSlack w h 0 (if (x.servo h).ceLate then minI sl (-1) else sl)) h n) h n) h
      let v := match (u.servo h).cePend with
        | none => u
        | some n => finish u n
      let open1 := v.setServo h { v.servo h with cwOpen := true, cePend := some (v.periodNum h), ceLeft := axisList v }
      let each := fun (f : State → Half → Nat → State) (x : State) => (axisList v).foldl (fun x k => f x h k) x
      (s.inCharge h = true → (s.servo h).cwOpen = false → exec (.computeWindowOpen h) s =
        .next (each engineAxis (each profileAxis (latchArms (each latchMode (each latchFeedback open1)) h)))) ∧
      (s.inCharge h = false ∨ (s.servo h).cwOpen = true → exec (.computeWindowOpen h) s = .next u) ∧
      (∀ n, (s.servo h).cePend = some n → exec (.ceComplete h dt) s = .next (finish (s.passTime dt) n)) ∧
      ((s.servo h).cePend = none → exec (.ceComplete h dt) s = .next (s.passTime dt)))

/-- R44, R45, R47: after 1,024 periods with slack to spare the rail falls by 5 mV, not under 0.75 V, and the count starts
again; with fewer, or with FIX_MAX, nothing changes. CLR_MIN sets SLACK_MIN to its most positive value; CLR_CNT clears the
late counters. Each changes no other register, and no memory. R47 to R49, R109, R355: three stale or flagged feed-forward
periods in a row raise event 103 once; three extrapolated kinematics periods raise event 104 once and stop the arm's path;
the third tick without a governor result, at which the scales ramp, raises event 105 once; fewer change nothing. ALIGN sets
TB3 to its source where every ring is stopped and every loop off, and sets ALIGN_REF otherwise. -/
def Obligations.LateWorkAndAlign : Prop :=
  (∀ (via : Via) (h : Half) (s : State), reaches s via h →
      let b := HPWR.addr h
      let y := SYS.addr h
      let same := fun (t : State) (l : List Nat) => t.mem = s.mem ∧ t.halfA = s.halfA ∧ t.halfB = s.halfB ∧ ∀ a, a ∉ l → t.word a = s.word a
      (1024 ≤ (s.servo h).goodRun → s.flag b HPWR.FIX_MAX = false →
        ∃ t, exec (.railLower h) s = .next t ∧ t.fld b HPWR.RAIL_MV = Nat.max 750 (s.fld b HPWR.RAIL_MV - 5) ∧
          t.servo h = { s.servo h with goodRun := 0 } ∧ t.mem = s.mem) ∧
      ((s.servo h).goodRun < 1024 ∨ s.flag b HPWR.FIX_MAX = true → exec (.railLower h) s = .next s) ∧
      (∃ t, exec (.clrMin via) s = .next t ∧ t.fldS y SYS.SLACK_MIN = 0x7FFFFF ∧ t.fld y SYS.MIN_SRC = s.fld y SYS.MIN_SRC ∧
        same t [y + 0x11C]) ∧
      (∃ t, exec (.sysClrCnt via) s = .next t ∧ t.word (y + 0x124) = 0 ∧ t.word (y + 0x128) = 0 ∧ same t [y + 0x124, y + 0x128])) ∧
  (∀ (via : Via) (h : Half) (j : Fin 16) (s : State), reaches s via h →
      let u := s.arm h j.val
      let y := SYS.addr h
      let st := if tbLocked s h 1 then 0 else if tbLocked s h 2 then 1 else 2
      (3 ≤ u.ffRun → u.ffRun < 100 →
        exec (.feedForwardLate h j) s = .next (raiseEvt (s.setArm h j.val { u with ffRun := 100 }) h 103)) ∧
      (u.ffRun < 3 → 3 ≤ u.flagRun → u.flagRun < 100 →
        exec (.feedForwardLate h j) s = .next (raiseEvt (s.setArm h j.val { u with flagRun := 100 }) h 103)) ∧
      (u.ffRun < 3 ∨ u.ffRun = 100 → u.flagRun < 3 ∨ u.flagRun = 100 → exec (.feedForwardLate h j) s = .next s) ∧
      (3 ≤ u.ikRun → u.ikRun < 100 → exec (.kinematicsLate h j) s =
        .next (jointStop (raiseEvt (s.setArm h j.val { u with ikRun := 100 }) h 104) h j.val true)) ∧
      (u.ikRun < 3 ∨ u.ikRun = 100 → exec (.kinematicsLate h j) s = .next s) ∧
      ((s.servo h).govLate = 3 → s.fld y SYS.GOV_STATE = 2 →
        exec (.governorLateRamp h) s = .next (raiseEvt (s.setServo h { s.servo h with govLate := 4 }) h 105)) ∧
      ((s.servo h).govLate ≠ 3 ∨ s.fld y SYS.GOV_STATE ≠ 2 → exec (.governorLateRamp h) s = .next s) ∧
      ((∀ r, r < 8 → ringState s h r = 0) → (∀ k, k < 128 → s.flag (PRF.addr h k) PRF.LOOP_ON = false) →
        ∃ t, exec (.align via) s = .next t ∧ (t.tb h 3).val = (sourceVal s h st).toNat ∧
          t.fld (TB3X.addr h) TB3X.STATE = st ∧ t.mem = s.mem) ∧
      (∀ r, r < 8 → ringState s h r ≠ 0 → exec (.align via) s = .next (s.setFld (TB3X.addr h) TB3X.ALIGN_REF 1)) ∧
      (∀ k, k < 128 → s.flag (PRF.addr h k) PRF.LOOP_ON = true →
        exec (.align via) s = .next (s.setFld (TB3X.addr h) TB3X.ALIGN_REF 1)))

/-- R21, R366, R367, R368: a rail fault or a fatal fault of the half with the command pennant, and its missing heartbeat,
move the pennant to an eligible standby half, with the cause, the first period it owns, the active view held and event 4;
with no eligible half both gates close, and the fault log takes the cause. A half without the pennant triggers nothing. A
failed arbiter check closes the gates with event 8. -/
def Obligations.TriggersMoveThePennant : Prop :=
  ∀ (h : Half) (s : State),
    let moves := fun (cause : Nat) (s : State) (o : Host.Outcome State Fault Refusal) =>
      (eligible s h.other = true → ∃ u, o = .next (canTakeover (raiseBoth u 4) h.other) ∧
        u.activeHalf = some h.other ∧ u.hold = true ∧ u.fld PEN.addr PEN.CAUSE = cause ∧ u.fld PEN.addr PEN.KIND = 0 ∧
        u.pen.takeAt = some u.pen.ownedFrom ∧ u.pen.finishing = true ∧
        u.pen.ownedFrom = nextSync s h.other ∧ u.fld PEN.addr PEN.PERIOD = u.pen.ownedFrom % 2 ^ 24 ∧
        u.fld PEN.addr PEN.TAKEOVERS = Nat.min 255 (s.fld PEN.addr PEN.TAKEOVERS + 1)) ∧
      (eligible s h.other = false → ∃ u, o = .next (faultLog u 0xFF (some h) (some cause) none) ∧ u.activeHalf = none ∧
        u.flag PEN.addr PEN.RACK_HELD = false ∧ u.mem = s.mem ∧
        u.fld PEN.addr PEN.REFUSED = Nat.min 255 (s.fld PEN.addr PEN.REFUSED + 1))
    (s.activeHalf = some h →
      moves 2 s (exec (.railFault h) s) ∧ moves 3 s (exec (.fatalFault h) s) ∧
      (∀ n, s.inCharge h = true → s.pen.beat.getD (halfIdx h) none = some n → n + 1 < syncNow s h →
        s.pen.ownedFrom < syncNow s h → moves 1 s (exec (.heartbeatMissing h) s)) ∧
      (∀ n, s.pen.beat.getD (halfIdx h) none = some n → syncNow s h ≤ n + 1 → exec (.heartbeatMissing h) s = .next s) ∧
      (s.pen.hot.getD (halfIdx h) false = false →
        moves 3 { s with pen := { s.pen with hot := s.pen.hot.set (halfIdx h) true } } (exec (.tempFatal h) s))) ∧
    (s.activeHalf ≠ some h → exec (.railFault h) s = .next s ∧ exec (.fatalFault h) s = .next s ∧
      exec (.heartbeatMissing h) s = .next s) ∧
    (∃ u, exec .arbiterSelfCheckFail s = .next (raiseBoth u 8) ∧ u.flag PEN.addr PEN.ARB_FAIL = true ∧ u.activeHalf = none ∧
      u.flag PEN.addr PEN.RACK_HELD = false ∧ u.mem = s.mem ∧ u.halfA = s.halfA ∧ u.halfB = s.halfB)

/-- R366, R368, R371, R376: a commanded swap waits for the second sync instant after the write and moves the pennant where
the other half is eligible; with no active half it is refused with CAUSE 9. A module swap releases the rack pennant where the
partner is eligible. A rehearsal starts from REH_STATE 0 and counts; a second one does nothing. REHEARSAL_END passes the
rehearsal and, without REH_STAY, asks for the return. CLR_CNT clears the counters. -/
def Obligations.CommandedPennantMoves : Prop :=
  ∀ (h : Half) (s : State),
    let p := PEN.addr
    let refused := fun (modul : Nat) (o : Host.Outcome State Fault Refusal) => ∃ t, o = .next t ∧
      t.fld p PEN.CAUSE = 9 ∧ t.fld p PEN.KIND = modul ∧ t.pen.swap = none ∧ t.fld p PEN.REH_STATE = 0 ∧ t.pen.reh = none ∧
      t.fld p PEN.REFUSED = Nat.min 255 (s.fld p PEN.REFUSED + 1) ∧ t.mem = s.mem ∧ t.halfA = s.halfA ∧ t.halfB = s.halfB
    (s.activeHalf = some h → exec (.swap false) s =
      .next { s with pen := { s.pen with swap := some ⟨false, 5, swapDue s h⟩ } }) ∧
    (s.activeHalf = none → refused 0 (exec (.swap false) s) ∧ refused 1 (exec (.swap true) s)) ∧
    (s.activeHalf = some h → s.flag p PEN.RACK_HELD = true → s.fld p PEN.REH_STATE = 0 →
      (peerEligible s = true → ∃ t, exec (.swap true) s = .next t ∧ t.flag p PEN.RACK_HELD = false ∧
        t.former = some (h, s.periodNum h) ∧ t.activeHalf = some h ∧ t.mem = s.mem) ∧
      (peerEligible s = false → refused 1 (exec (.swap true) s))) ∧
    (s.activeHalf = some h → s.fld p PEN.REH_STATE = 0 → ∃ t, exec (.rehearse false) s = .next t ∧
      t.fld p PEN.REH_STATE = 1 ∧ t.fld p PEN.RESULT = 0 ∧ t.fld p PEN.FAIL = 0 ∧
      t.fld p PEN.REHEARSALS = Nat.min 255 (s.fld p PEN.REHEARSALS + 1) ∧
      t.pen = { s.pen with swap := some ⟨false, 6, swapDue s h⟩ } ∧ t.mem = s.mem) ∧
    (∀ b, s.fld p PEN.REH_STATE ≠ 0 → exec (.rehearse b) s = .next s) ∧
    (∀ q, s.pen.swap = some q → q.modul = false → s.activeHalf = some h →
      let u := s.passTime (untilServo s h (Nat.max q.due (nextSync s h) * s.periodNs h))
      (eligible u h.other = true → exec .commandedSwapDue s = .next (rehMoved (penMove u h.other q.cause) false h)) ∧
      (eligible u h.other = false → s.fld p PEN.REH_STATE ≠ 3 → ∃ t, exec .commandedSwapDue s = .next t ∧
        t.fld p PEN.CAUSE = 9 ∧ t.pen.swap = none ∧ t.activeHalf = some h ∧ t.fld p PEN.REH_STATE = 0)) ∧
    (s.pen.swap = none → exec .commandedSwapDue s = .next s) ∧
    (∀ x, s.pen.reh = some x → x.modul = false → s.fld p PEN.REH_STATE = 2 →
      (x.endAt ≤ s.tb0 → s.flag p PEN.REH_STAY = true → ∃ t, exec .rehearsalEnd s = .next t ∧ t.fld p PEN.RESULT = 1 ∧
        t.fld p PEN.REH_STATE = 0 ∧ t.pen.reh = none ∧ t.mem = s.mem) ∧
      (x.endAt ≤ s.tb0 → s.flag p PEN.REH_STAY = false → eligible s x.from_ = true → ∃ t, exec .rehearsalEnd s = .next t ∧
        t.fld p PEN.RESULT = 1 ∧ t.fld p PEN.REH_STATE = 3 ∧
        t.pen.swap = some ⟨false, 7, swapDue s (s.activeHalf.getD .a)⟩ ∧ t.mem = s.mem) ∧
      (s.tb0 < x.endAt → exec .rehearsalEnd s = .next s)) ∧
    (∃ t, exec .penClrCnt s = .next t ∧ t.word (p + 0x14) = 0 ∧ t.word (p + 0x48) = 0 ∧
      (∀ a, a ≠ p + 0x14 → a ≠ p + 0x48 → t.word a = s.word a) ∧ t.mem = s.mem)

/-- R30, R360, R363, R364, R460, R9: the newest complete mirror record is applied whole, its time bases carried on to now; a
self-test of the standby half writes its report to the half's health registers and to MRAM, one that passed loads channels
and a slack that the model leaves free (log entries 68, 125), and one that failed resets the half and raises event 7; the
temperature warning raises event 3 once until the temperature has fallen; a lost reference moves both time units to the
monitor once, with event 32; a half reset resets the solver channels and puts every register and unit of the half back to
reset, and the other half stays. -/
def Obligations.MirrorHealthAndHalfReset : Prop :=
  ∀ (h : Half) (s : State),
    (mirrorFor s h = none → exec (.mirrorRecordApply h) s = .next s) ∧
    (∀ r, mirrorFor s h = some r → s.canonical = true → storeSorted r.regs = true → s.pen.newest.length = 2 →
      ∃ t, exec (.mirrorRecordApply h) s = .next t ∧ t.pen.newest.getD (halfIdx h) none = some r.num ∧
        (∀ o, o < 0x10000000 → mirroredOff o = true →
          t.word (viewBase h + o) = (storeFind r.regs o).getD (s.regReset (viewBase h + o))) ∧
        (t.tb h 3).val = (r.time.tb3.advance (s.tb0 - r.builtAt)).val ∧
        (r.hoists.length = (s.half h).hoists.length → (t.half h).hoists = r.hoists) ∧
        (r.prf.length = (s.half h).prf.length → (t.half h).prf = r.prf) ∧
        t.half h.other = s.half h.other ∧ t.mem = s.mem) ∧
    (∀ (td fl : BitVec 12) (co : BitVec 24) (d : Word) (tp : BitVec 16),
      let x : SelfTest := ⟨td.toNat, fl.toNat, co.toNat, d.toNat, tp.toNat⟩
      let b := (reportBytes s h x).1 ++ leBytes 4 (crc32c (reportBytes s h x).1)
      (s.activeHalf = some h → exec (.selfTestCycle h td fl co d tp) s = .next s) ∧
      (s.activeHalf ≠ some h → ∃ u, u.words (PEN.addr + 0x100 + 0x40 * halfIdx h) 16 = byteWords 16 b ∧
        u.pen.hrAt = s.pen.hrAt.set (halfIdx h) (some s.tb0) ∧ u.halfA = s.halfA ∧ u.halfB = s.halfB ∧
        (Memory.wf s.mem = true → u.memBytes (mramAddr (0x30000 + s.pen.hrIdx % 64 * 64)) b.length = b) ∧
        (fl = 0 → ∃ (slack : Int) (mask : Nat),
          let w := { u with freeIdx := u.freeIdx + 2 }
          exec (.selfTestCycle h td fl co d tp) s = .next (noteSlack (w.setSolver h { w.solver h with
            chs := (w.solver h).chs.zipIdx.map (fun x => { x.1 with selfTest := bitOf mask x.2 }) }) h 0 slack)) ∧
        (fl ≠ 0 → exec (.selfTestCycle h td fl co d tp) s = .next (rehFail (raiseBoth (clearHalf u h) 7) 6)))) ∧
    (s.pen.warm.getD (halfIdx h) false = false → exec (.tempWarning h) s =
      .next (raiseEvt { s with pen := { s.pen with warm := s.pen.warm.set (halfIdx h) true } } h 3)) ∧
    (s.pen.warm.getD (halfIdx h) false = true → exec (.tempWarning h) s = .next s) ∧
    (s.pen.hot.getD (halfIdx h) false = true → exec (.tempFatal h) s = .next s) ∧
    exec (.temperatureFall h) s = .next { s with pen := { s.pen with
      hot := s.pen.hot.set (halfIdx h) false, warm := s.pen.warm.set (halfIdx h) false } } ∧
    (s.onMonitor = false → exec .referenceSwitchToMonitor s =
      .next (faultLog (raiseBoth { s with onMonitor := true } 32) 32 none none none)) ∧
    (s.onMonitor = true → exec .referenceSwitchToMonitor s = .next s) ∧
    (let v := solverReset (penTrigger s h 4) h
     ∃ u, exec (.halfReset h) s = .next ((List.range 4).foldl (fun s c => canStart s h c) (noRingWindow (reloadScheds u h) h)) ∧
      u.half h = .reset ∧ u.half h.other = v.half h.other ∧ u.mem = v.mem ∧
      ∀ o, o < 0x10000000 → u.word (viewBase h + o) = v.regReset (viewBase h + o))

/-- R369 to R374: the rack pennant is not taken while its lines are not released, while it is held, or without a pair; a
module that takes it counts the takeover with CAUSE 8 and KIND 1, raises event 5 and claims the split rings with the next
epoch. A pair-link frame whose CRC fails is counted and discarded; a LINK frame marks its lane up and keeps the partner's
number, CL and rack pennant; pairing checks CL, image and number. A lane without a LINK frame for 100 us goes down, and with
both lanes down the link is down, with event 9. -/
def Obligations.PairLink : Prop :=
  ∀ (h : Half) (lane : Fin 2) (f : PairFrame) (num : BitVec 10) (cl : BitVec 4) (rack : Bool) (crc : Word) (s : State),
    let p := PEN.addr
    let up := if lane = 0 then PEN.LANE0_UP else PEN.LANE1_UP
    let other := if lane = 0 then PEN.LANE1_UP else PEN.LANE0_UP
    (s.flag p PEN.RACK_HELD = true ∨ s.unpaired = true → exec (.rackPennantTake true) s = .next s) ∧
    exec (.rackPennantTake false) s = .next s ∧
    (s.activeHalf = some h → s.flag p PEN.RACK_HELD = false → s.fld p PEN.P_STATE = 2 →
      s.pen.newest.getD (halfIdx h) none = none →
      ∃ u, u.flag p PEN.RACK_HELD = true ∧ u.fld p PEN.CAUSE = 8 ∧ u.fld p PEN.KIND = 1 ∧
        u.fld p PEN.TAKEOVERS = Nat.min 255 (s.fld p PEN.TAKEOVERS + 1) ∧
        u.tb0 = s.tb0 + untilServo s h (nextSync s h * s.periodNs h) ∧
        exec (.rackPennantTake true) s = .next (
          let w := (List.range 8).foldl (fun s r =>
            if s.flag (RING.addr h r) RING.SPLIT && ringCyclic s h r then takeEpoch s h r else s) (mramCount (raiseBoth u 5) 2)
          { w with former := none, pen := { penTaken w.pen (syncNow u h) with claimAt := some (syncNow u h) } })) ∧
    exec (.pairLinkFrameReceive lane false f) s = .next (s.count p PEN.CRC_ERR) ∧
    (∀ l, exec (.pairLinkFrameReceive lane true (.health l)) s =
      .next { s with pen := { s.pen with peerReport := some (l, s.tb0) } }) ∧
    (s.fld p PEN.P_STATE ≠ 6 → ∃ t, exec (.pairLinkFrameReceive lane true (.link num cl rack crc)) s = .next t ∧
      t.fld p PEN.PEER_NUM = num.toNat ∧ t.fld p PEN.PEER_CL = cl.toNat ∧ t.flag p PEN.PEER_RACK = rack ∧
      t.flag p up = true ∧ t.flag p other = s.flag p other ∧ t.pen.peerCrc = crc.toNat ∧
      t.pen.lastLink = s.pen.lastLink.set lane.val (some s.tb0) ∧ t.mem = s.mem) ∧
    (s.fld p PEN.P_STATE = 1 →
      let refuse := fun (st : Nat) => Host.Outcome.next (raiseBoth ((s.setFld p PEN.P_STATE st).setFld p PEN.PAIRED 0) 9)
      let o := exec (.pairLinkFrameReceive lane true (.pairing num cl crc)) s
      (cl.toNat ≠ s.fld MOD.addr MOD.CL_NOW → o = refuse 3) ∧
      (cl.toNat = s.fld MOD.addr MOD.CL_NOW → crc.toNat ≠ ownPairCrc s → o = refuse 4) ∧
      (cl.toNat = s.fld MOD.addr MOD.CL_NOW → crc.toNat = ownPairCrc s → num.toNat % 32 = s.fld MOD.addr MOD.NUM % 32 →
        o = refuse 5) ∧
      (cl.toNat = s.fld MOD.addr MOD.CL_NOW → crc.toNat = ownPairCrc s → num.toNat % 32 ≠ s.fld MOD.addr MOD.NUM % 32 →
        o = .next (rackElect (raiseBoth ((s.setFld p PEN.P_STATE 2).setFld p PEN.PAIRED 1) 9) num.toNat
          ((raiseBoth ((s.setFld p PEN.P_STATE 2).setFld p PEN.PAIRED 1) 9).flag p PEN.PEER_RACK)))) ∧
    (∀ t, s.pen.lastLink.getD lane.val none = some t →
      (s.tb0 < t + 100000 → exec (.pairLaneDown lane) s = .next s) ∧
      (t + 100000 ≤ s.tb0 → s.flag p up = true →
        let d := (s.setFld p up 0).count p PEN.LANE_FAIL
        (s.flag p other = true → exec (.pairLaneDown lane) s = .next d) ∧
        (s.flag p other = false → s.fld p PEN.P_STATE ≠ 6 →
          exec (.pairLaneDown lane) s = .next (raiseBoth ((d.setFld p PEN.P_STATE 6).setFld p PEN.PAIRED 0) 9))))

/-- R140, R141, R144, R153, R161, R162, R166: a submitted descriptor that passes the port's checks joins its channel's queue
with its channel in PLACED and code 0; another is refused with its code and event 147, and a full queue of 32 with code 1. A
completed problem of a slot that is not resident has code 9 and X of +0; the last problem of a descriptor writes LAST_DESC
and takes the descriptor from the queue, with event 128 + k where it asks for one. RESET empties the channel and resets its
registers. A schedule load is refused for a slot that a queued descriptor names, and finishes resident, or with result 3
where a check fails, with event 148. -/
def Obligations.SolverChannels : Prop :=
  ∀ (via : Via) (h : Half) (port : Fin 32) (v : Word) (k : Fin 18) (sl : Fin 8) (c : Bool) (s : State), reaches s via h →
    let b := SOLV.addr h
    let off := bitsOf v.toNat 30 6 * 64
    let d := s.memWords (dramAddr h off) 16
    let n := bitsOf v.toNat 5 0
    let code := portCode h n d
    let q := solverCh s h n
    let ref := fun (x : Nat) => Host.Outcome.next (raiseEvt (s.setFld b (SOLV.PORT_CODE.nth port.val) x) h 147)
    (n ≠ 63 → code ≠ 0 → exec (.solverSubmit via port v) s = ref code) ∧
    (n ≠ 63 → code = 0 → q.run = none → q.queue.length < 32 → n < (s.solver h).chs.length → ∃ t, exec (.solverSubmit via port v) s = .next t ∧
      (solverCh t h n).queue = q.queue ++ [⟨off, d, 0, stepsOf s h n d⟩] ∧
      t.fld b (SOLV.PORT_CODE.nth port.val) = 0 ∧ t.fld b (SOLV.PLACED.nth port.val) = n ∧
      (∀ m, m ≠ n → solverCh t h m = solverCh s h m) ∧ t.mem = s.mem) ∧
    (n ≠ 63 → code = 0 → ∀ i, q.run = some i → 33 ≤ q.queue.length → i < q.queue.length →
      exec (.solverSubmit via port v) s = ref 1) ∧
    ((solverCh s h k.val).run = none → exec (.solverProblemComplete h k) s = .next s) ∧
    (∀ i x, (solverCh s h k.val).run = some i → (solverCh s h k.val).queue[i]? = some x → dBatch x.words ≤ x.done + 1 →
      let u := if opSparse (dOp x.words) then sparseProblem s h k.val x.words else denseProblem s h k.val x.words x.done
      let r := (solverCh s h k.val).queue.eraseIdx i
      exec (.solverProblemComplete h k) s = .next (raiseIf ((setSolverCh u h k.val { solverCh s h k.val with queue := r, run := nextDesc r }).setFld
        (CH.addr h k.val) CH.LAST_DESC x.at_) (dFlag x.words 1) h (128 + k.val))) ∧
    (∀ x, dOp x = 0x12 → slotState s h (k.val - 16) (dK x) ≠ 2 →
      let rows := slotRows s h (k.val - 16) (dK x)
      sparseProblem s h k.val x = finishProblem s h k.val (zeroSolved [] rows) false false 9
        (signature x rows (hdrWord s h (k.val - 16) (dK x) 1) (hdrWord s h (k.val - 16) (dK x) 5)) 0 (dX x) (dRes x) none) ∧
    (∃ t, exec (.channelReset via k) s = .next t ∧ solverCh t h k.val = .reset ∧
      ∀ a, CH.addr h k.val ≤ a → a < CH.addr h k.val + 0x100 →
        t.word a = ((solverCh s h k.val).queue.foldl (fun s x => flushDesc s h k.val x) s).regReset a) ∧
    (∃ t, exec (.chClrCnt via k) s = .next t ∧
      (∀ i, i < 3 → t.word (CH.addr h k.val + 8 + 4 * i) = 0) ∧ t.mem = s.mem ∧ t.solver h = s.solver h ∧
      ∀ a, a < CH.addr h k.val + 8 ∨ CH.addr h k.val + 0x14 ≤ a → t.word a = s.word a) ∧
    (slotNamed s h c.toNat sl.val = true → exec (.spLoad via sl c) s = .next (raiseEvt (s.setFld b SOLV.LOAD_RESULT 2) h 148)) ∧
    (slotNamed s h c.toNat sl.val = false → ∃ t, exec (.spLoad via sl c) s = .next t ∧ slotState t h c.toNat sl.val = 1 ∧
      t.fld b SOLV.LOAD_RESULT = 1 ∧ (c.toNat, sl.val, s.fld b SOLV.LOAD_ADDR / 64 * 64) ∈ (t.solver h).loads) ∧
    (∀ o, (s.solver h).loads.find? (fun l => decide (l.1 = c.toNat) && decide (l.2.1 = sl.val)) = some (c.toNat, sl.val, o) →
      let w := s.setSolver h { s.solver h with
        loads := (s.solver h).loads.filter (fun l => !(decide (l.1 = c.toNat) && decide (l.2.1 = sl.val))) }
      exec (.spLoadComplete h c sl) s = .next (raiseEvt
        (if schedOk w (dramAddr h o) (0x80000000 - o) then (installSched w h c.toNat sl.val (dramAddr h o)).setFld b SOLV.LOAD_RESULT 0
        else (emptySlot w h c.toNat sl.val 3).setFld b SOLV.LOAD_RESULT 3) h 148))

/-- R17, R179 to R181: a boundary-message part of a new cell of the group is kept in the half in charge, one of this cell's
own number is a duplicate: fault log, event 10, and the cell leaves its group; a datagram that is no part of the group's
messages is discarded. A listed member whose newest message is older than a quarter of the horizon is silent, with event 109;
a cell not listed 16 ticks after its first message is refused, with event 110; DROP removes a silent member from the
coordinator's list; CLR_CNT clears the governor's counters. -/
def Obligations.GroupCommands : Prop :=
  ∀ (via : Via) (h : Half) (src : Word) (b : List Byte) (i : Fin 8) (num : BitVec 10) (s : State), reaches s via h →
    let g := s.gov h
    let a := GOV.addr h
    let drop := exec (.drop via num) s
    (s.cfg.govGroup = none → exec (.boundaryMessageReceive h src b) s = .next s) ∧
    (∀ grp, s.cfg.govGroup = some grp →
      (parsePart grp b = none → exec (.boundaryMessageReceive h src b) s = .next s) ∧
      (∀ x, parsePart grp b = some x → s.activeHalf = some h → g.withdrawn = false →
        (x.num = ownNum s → exec (.boundaryMessageReceive h src b) s =
          .next (withdraw (raiseBoth (faultLog s 10 none none (some src.toNat)) 10) h)) ∧
        (x.num ≠ ownNum s → (∀ p ∈ g.peers, p.num ≠ x.num) → g.peers.length < 8 → ∃ t p,
          exec (.boundaryMessageReceive h src b) s = .next t ∧ t.gov h = { g with peers := g.peers ++ [p] } ∧
          p.num = x.num ∧ (x.count = 1 → p.msg = some (messageOf [b])) ∧
          t.regs = s.regs ∧ t.mem = s.mem)) ∧
      (∀ x, parsePart grp b = some x → s.activeHalf ≠ some h ∨ g.withdrawn = true →
        exec (.boundaryMessageReceive h src b) s = .next s)) ∧
    (∀ p m, g.peers[i.val]? = some p → p.msg = some m → p.silent = false → p.num ∈ g.members →
      (quarterH s h < msgAge s h m → exec (.peerSilent h i) s =
        .next (raiseEvt (showPeers ((s.setGov h { g with peers := g.peers.set i.val { p with silent := true } }).setFlag a
          GOV.PEER_SILENT) h) h 109)) ∧
      (msgAge s h m ≤ quarterH s h → exec (.peerSilent h i) s = .next s)) ∧
    (g.admitted = false → g.refused = false → 16 ≤ g.asked → exec (.admissionRefused h) s =
      .next (raiseEvt (((s.setGov h { g with refused := true }).setFld a GOV.ADMIT_REFUSED 1).setFld a GOV.ROLE 3) h 110)) ∧
    (g.admitted = true ∨ g.asked < 16 → exec (.admissionRefused h) s = .next s) ∧
    (s.fld a GOV.ROLE = 2 → (∃ p ∈ g.peers, p.num = num.toNat ∧ p.silent = true) →
      let l := g.members.filter (fun x => x != num.toNat)
      drop = .next ((s.setGov h { g with members := l }).setFld a GOV.MEMBERS l.length)) ∧
    (s.fld a GOV.ROLE ≠ 2 ∨ (∀ p ∈ g.peers, p.num = num.toNat → p.silent = false) → drop = .next s) ∧
    (∃ t, exec (.govClrCnt via) s = .next t ∧ t.word (a + 0x20) = 0 ∧ t.word (a + 0x24) = 0 ∧ t.mem = s.mem ∧ t.gov h = g ∧
      ∀ x, x ≠ a + 0x20 → x ≠ a + 0x24 → t.word x = s.word x)

/-- R380 to R384: a request on an idle buffer makes it pending with its request instant, or ends it at once with DL_ABORT
where its deadline has passed; a write to a pending buffer is discarded with PARAM_ERR, and a request in listen-only mode
too. ABORT ends a buffer that is not sending, and waits for the attempt of one that is. An attempt of the chosen buffer that
succeeds ends with DONE and its stamp; one that fails ends with ABORTED or SINGLE_FAIL where asked, and another attempt
follows otherwise. A pending buffer ends when TB0 passes its deadline, with its event. -/
def Obligations.CanTransmit : Prop :=
  ∀ (via : Via) (h : Half) (c : Fin 4) (b : Fin 3) (v : Word) (sof : Nat) (s : State), reaches s via h →
    let a := CAN.addr h c.val
    let t := TXB.addr h c.val b.val
    let u := s.can h c.val
    let ends := fun (f : Fld) (s : State) =>
      (((s.setCan h c.val { s.can h c.val with abortReq := (s.can h c.val).abortReq.set b.val false }).setFld t TXB.PENDING 0).setFld t
        TXB.REQ 0).setFld t f 1
    let dlEnd := fun (s : State) => raiseEvt (ends TXB.DL_ABORT s) h (160 + 8 * c.val + 2)
    let put := s.setWordN (t + 4) (v.toNat % 256)
    let requested := (((put.setCan h c.val { u with reqAt := u.reqAt.set b.val s.tb0, abortReq := u.abortReq.set b.val false }).setFld t
      TXB.REQ 1).setFld t TXB.PENDING 1).setFld t TXB.PENDING_AT_BUSOFF 0
    let pend := s.flag t TXB.PENDING
    (pend = true → bitOf v.toNat 9 = false → exec (.txRequest via c b v) s = .next (s.setFld a CAN.PARAM_ERR 1)) ∧
    (pend = false → canMode s h c.val = 2 → exec (.txRequest via c b v) s = .next (put.setFld a CAN.PARAM_ERR 1)) ∧
    (pend = false → canMode s h c.val ≠ 2 →
      (txPast requested h c.val b.val = true → exec (.txRequest via c b v) s = .next (dlEnd requested)) ∧
      (txPast requested h c.val b.val = false → exec (.txRequest via c b v) s = .next requested)) ∧
    (∀ x, pend = false → exec (.txAbort via c b x) s = .next s) ∧
    (pend = true → exec (.txAbort via c b false) s = .next (ends TXB.ABORTED s)) ∧
    (pend = true → exec (.txAbort via c b true) s = .next (s.setCan h c.val { u with abortReq := u.abortReq.set b.val true })) ∧
    (pend = true → s.flag t TXB.DL_EN = true →
      (serialAfter (s.tb0 % 2 ^ 32) (s.fld t TXB.DEADLINE) = true → exec (.txDeadlineAbort h c b) s = .next (dlEnd s)) ∧
      (serialAfter (s.tb0 % 2 ^ 32) (s.fld t TXB.DEADLINE) = false → exec (.txDeadlineAbort h c b) s = .next s)) ∧
    (s.flag t TXB.DL_EN = false → exec (.txDeadlineAbort h c b) s = .next s) ∧
    (canFrameOn s h c.val sof = true → canMode s h c.val = 1 ∨ canMode s h c.val = 4 → txChosen s h c.val sof = some b.val →
      s.flag t TXB.DL_EN = false →
      (s.flag a CAN.SELF_RX = false → canState s h c.val = 2 → s.fld a CAN.TEC ≤ 96 → s.fld a CAN.REC ≤ 95 →
        ∃ w, exec (.canTxAttemptEnd h c b sof .sent) s = .next (raiseEvt w h (160 + 8 * c.val + 1)) ∧
          w.fld t TXB.PENDING = 0 ∧ w.fld t TXB.DONE = 1 ∧ w.fld t TXB.TX_STAMP = sof % 2 ^ 32 ∧
          w.fld a CAN.TX_OK = Nat.min 65535 (s.fld a CAN.TX_OK + 1) ∧ w.fld a CAN.TEC = s.fld a CAN.TEC - 1 ∧
          w.fld a CAN.REC = s.fld a CAN.REC ∧ (w.can h c.val).ackRun = 0 ∧ w.mem = s.mem) ∧
      (∀ e, e ≠ CanEnd.sent →
        (u.abortReq.getD b.val false = true → exec (.canTxAttemptEnd h c b sof e) s = .next (ends TXB.ABORTED s)) ∧
        (u.abortReq.getD b.val false = false → s.flag t TXB.SINGLE = true →
          exec (.canTxAttemptEnd h c b sof e) s = .next (ends TXB.SINGLE_FAIL s)) ∧
        (u.abortReq.getD b.val false = false → s.flag t TXB.SINGLE = false →
          exec (.canTxAttemptEnd h c b sof e) s = .next s))) ∧
    (txChosen s h c.val sof ≠ some b.val → ∀ e, exec (.canTxAttemptEnd h c b sof e) s = .next s)

/-- R385 to R388: an accepted frame goes to the mailbox of the first filter that matches, with event 0 of the channel; one
that no filter matches counts in NO_MATCH; a full mailbox is overwritten and the loss counted; a locked one keeps the frame
in its overflow slot with event 6. In compatibility mode the queue takes it, or counts it where the entry is owned. Reading
the head locks a full mailbox; its last word, or RELEASE_MB, releases it, and a frame in the slot moves in. CQ_ACK gives an
entry back, and counts an error for one that is not owned. -/
def Obligations.CanReceive : Prop :=
  ∀ (via : Via) (h : Half) (c : Fin 4) (m : Fin 32) (i : Fin 64) (f : CanFrame) (stamp : Word) (s : State), reaches s via h →
    let a := CAN.addr h c.val
    let mb := MB.addr h c.val m.val
    let u := s.can h c.val
    let ev := fun (e : Nat) (s : State) => Host.Outcome.next (raiseEvt s h (160 + 8 * c.val + e))
    let x := (s.count a CAN.RX_OK).setCan h c.val { u with ackRun := 0 }
    let y := x.setFld a CAN.ALONE 0
    let z := y.can h c.val
    let w := s.fld a CAN.CQ_WR
    let rx := exec (.canFrameReceive h c f stamp) s
    let rel := exec (.releaseMb via c m) s
    (canFrameOn s h c.val stamp.toNat = false → rx = .next s) ∧
    (canFrameOn s h c.val stamp.toNat = true → canMode s h c.val ≠ 4 → f.fdf = false → s.fld a CAN.REC = 0 →
      ((∀ j, j < 32 → fltAccepts y h c.val j f = false) → rx = .next (y.count a CAN.NO_MATCH)) ∧
      ((List.range 32).find? (fun j => fltAccepts y h c.val j f) = some m.val → s.flag a CAN.RX_MODE = false →
        (s.flag mb MB.LOCKED = false → s.flag mb MB.FULL = false →
          rx = ev 0 (setFull (storeFrame y mb f stamp.toNat 0) h c.val m.val true)) ∧
        (s.flag mb MB.LOCKED = false → s.flag mb MB.FULL = true →
          rx = .next (setFull (storeFrame (y.count a CAN.LOST) mb f stamp.toNat 0) h c.val m.val true)) ∧
        (s.flag mb MB.LOCKED = true → s.flag mb MB.OVF_HELD = false →
          rx = ev 6 ((y.setCan h c.val { z with ovf := z.ovf.set m.val (some f), ovfAt := z.ovfAt.set m.val stamp.toNat }).setFld
            mb MB.OVF_HELD 1))) ∧
      ((List.range 32).find? (fun j => fltAccepts y h c.val j f) = some m.val → s.flag a CAN.RX_MODE = true →
        (bitOf z.owned w = true → rx = ev 6 (y.count a CAN.CQ_OVF)) ∧
        (bitOf z.owned w = false → rx = ev 0 (((storeFrame (y.setCan h c.val { z with owned := setBit z.owned w true })
          (CQE.addr h c.val w) f stamp.toNat 0).setFld a CAN.CQ_WR ((w + 1) % 64)).setFld a CAN.CQ_OWNED
          (cqCount (setBit z.owned w true)))))) ∧
    (exec (.mailboxHeadRead via c m) s = .next ((if s.flag mb MB.FULL then s.setFld mb MB.LOCKED 1 else s).answer via.m
      (BitVec.ofNat 64 (s.wordN mb)))) ∧
    (∀ off : Fin 76, off.val / 4 ≠ 0 → off.val / 4 * 4 ≠ mailboxLast s h c.val m.val →
      exec (.mailboxLastWordRead via c m off) s = .next (s.answer via.m (BitVec.ofNat 64 (s.wordN (mb + off.val / 4 * 4))))) ∧
    (∀ off : Fin 76, off.val / 4 * 4 = mailboxLast s h c.val m.val → s.flag mb MB.LOCKED = true → u.ovf.getD m.val none = none →
      exec (.mailboxLastWordRead via c m off) s =
        .next ((setFull (s.setFld mb MB.LOCKED 0) h c.val m.val false).answer via.m (BitVec.ofNat 64 (s.wordN (mb + off.val / 4 * 4))))) ∧
    (s.flag mb MB.LOCKED = false → rel = .next s) ∧
    (s.flag mb MB.LOCKED = true → u.ovf.getD m.val none = none → rel = .next (setFull (s.setFld mb MB.LOCKED 0) h c.val m.val false)) ∧
    (∀ g, s.flag mb MB.LOCKED = true → u.ovf.getD m.val none = some g → rel =
      .next (setFull (storeFrame ((s.setFld mb MB.LOCKED 0).setCan h c.val { u with ovf := u.ovf.set m.val none }) mb g
        (u.ovfAt.getD m.val 0) 0) h c.val m.val true)) ∧
    (bitOf u.owned i.val = false → exec (.cqAck via c i) s = .next (s.count a CAN.ACK_ERR)) ∧
    (bitOf u.owned i.val = true → ∃ t, exec (.cqAck via c i) s = .next t ∧
      t.fld a CAN.CQ_OWNED = popCount (setBit u.owned i.val false) 64 % 128 ∧
      t.fld (CQE.addr h c.val i.val) CQE.FULL = 0 ∧ t.mem = s.mem)

/-- R379, R390 to R392: a CAN error adds to the channel's counters by its kind and confines the channel, which becomes error
passive above 127 and enters bus-off above 255; a listen-only or restricted channel, or one off the bus, keeps them. Sixteen
acknowledgement errors in a row set ALONE with its event. A channel integrates, runs, and recovers with CAN.ERR cleared;
RECOVER starts a recovery only from bus-off. A mode request 5 to 7 is discarded; mode 0 returns to configuration and another
leaves it for integration. The wiring faults set their flags with event 7 in the half that has the bus. -/
def Obligations.CanStates : Prop :=
  ∀ (via : Via) (h : Half) (c : Fin 4) (err : CanErr) (v : Word) (s : State), reaches s via h →
    let a := CAN.addr h c.val
    let tec := s.fld a CAN.TEC
    let rec_ := s.fld a CAN.REC
    let ev := fun (e : Nat) (s : State) => Host.Outcome.next (raiseEvt s h (160 + 8 * c.val + e))
    let errs := fun (t r : Nat) => (s.setFld a CAN.TEC t).setFld a CAN.REC r
    (canOnBus s h c.val = false ∨ canMode s h c.val = 2 ∨ canMode s h c.val = 3 → exec (.canError h c err) s = .next s) ∧
    (canOnBus s h c.val = true → canMode s h c.val = 1 → canState s h c.val = 2 →
      (tec + 8 < 96 → rec_ < 96 → exec (.canError h c .tx) s = .next ((errs (tec + 8) rec_).setFld a CAN.EWARN 0)) ∧
      (tec < 96 → rec_ + 1 < 96 → exec (.canError h c .rx) s = .next ((errs tec (rec_ + 1)).setFld a CAN.EWARN 0)) ∧
      (tec < 96 → 96 ≤ rec_ + 8 → rec_ + 8 ≤ 127 → exec (.canError h c .rxFlag) s =
        .next ((errs tec (rec_ + 8)).setFld a CAN.EWARN 1)) ∧
      (127 < tec + 8 → tec + 8 ≤ 255 → exec (.canError h c .tx) s =
        ev 3 (((errs (tec + 8) rec_).setFld a CAN.EWARN 1).setFld a CAN.STATE 3)) ∧
      (255 < tec + 8 → exec (.canError h c .tx) s =
        .next (enterBusOff ((errs (Nat.min (tec + 8) 511) rec_).setFld a CAN.EWARN 1) h c.val))) ∧
    (canOnBus s h c.val = true → canMode s h c.val = 1 → canState s h c.val = 3 →
      exec (.canError h c (.ack true)) s =
        .next (s.setCan h c.val { s.can h c.val with ackRun := Nat.min 16 ((s.can h c.val).ackRun + 1) })) ∧
    ((s.can h c.val).ackRun = 16 → s.flag a CAN.ALONE = false → exec (.alone h c) s = ev 5 (s.setFld a CAN.ALONE 1)) ∧
    ((s.can h c.val).ackRun ≠ 16 → exec (.alone h c) s = .next s) ∧
    (canState s h c.val = 1 → exec (.integrationComplete h c) s =
      .next (confine (raiseEvt (s.setFld a CAN.STATE 2) h (160 + 8 * c.val + 3)) h c.val)) ∧
    (canState s h c.val ≠ 1 → exec (.integrationComplete h c) s = .next s) ∧
    (canState s h c.val = 5 → ∃ u, exec (.recoveryComplete h c) s = ev 3 u ∧ u.word (a + 0x14) = 0 ∧ u.fld a CAN.EWARN = 0 ∧
      u.fld a CAN.REC_SEQ = 128 ∧ u.fld a CAN.STATE = 2 ∧
      u.canHold = (if s.activeHalf = some h then s.canHold.set c.val false else s.canHold) ∧ u.mem = s.mem) ∧
    (canState s h c.val ≠ 5 → exec (.recoveryComplete h c) s = .next s) ∧
    (canState s h c.val = 4 → exec (.recover via c) s = .next ((s.setFld a CAN.STATE 5).setFld a CAN.REC_SEQ 0)) ∧
    (canState s h c.val ≠ 4 → exec (.recover via c) s = .next s) ∧
    (∃ t, exec (.canClrCnt via c) s = .next t ∧ (∀ i, i < 3 → t.word (a + 0x1C + 4 * i) = 0) ∧ t.mem = s.mem ∧
      t.halfA = s.halfA ∧ t.halfB = s.halfB ∧ ∀ x, x < a + 0x1C ∨ a + 0x28 ≤ x → t.word x = s.word x) ∧
    (∃ t, exec (.canModeRequest via c v) s = .next t ∧ t.mem = s.mem ∧ t.halfA = s.halfA ∧ t.halfB = s.halfB ∧
      t.flag a CAN.TX_ORDER = bitOf v.toNat 4 ∧ t.flag a CAN.AUTO_REC = bitOf v.toNat 7 ∧
      t.flag a CAN.RX_MODE = (if canState s h c.val = 0 then bitOf v.toNat 3 else s.flag a CAN.RX_MODE) ∧
      t.flag a CAN.FD_EN = (if canState s h c.val = 0 then bitOf v.toNat 5 else s.flag a CAN.FD_EN) ∧
      canMode t h c.val = (if bitsOf v.toNat 2 0 ≤ 4 then bitsOf v.toNat 2 0 else canMode s h c.val) ∧
      canState t h c.val = (if bitsOf v.toNat 2 0 = 0 then 0
        else if canState s h c.val = 0 ∧ bitsOf v.toNat 2 0 ≤ 4 then 1 else canState s h c.val)) ∧
    (s.activeHalf = some h → exec (.polaritySwapped h c) s = ev 7 (if s.flag a CAN.SWAP_AUTO
      then (s.setFld a CAN.SWAPPED 1).setFld a CAN.SWAP_ON 1 else s.setFld a CAN.SWAPPED 1)) ∧
    (s.activeHalf ≠ some h → exec (.polaritySwapped h c) s = .next s ∧ exec (.stuckDom h c) s = .next s) ∧
    (s.activeHalf = some h → s.flag a CAN.STUCK_DOM = false → exec (.stuckDom h c) s = ev 7 (s.setFld a CAN.STUCK_DOM 1)) ∧
    exec (.busRecessiveAgain h c) s = .next (s.setFld a CAN.STUCK_DOM 0)

/-- R397 to R400, R402, R403: ARM acts on an idle or captured record; it is refused with the code of the first condition not
met, and otherwise arms it from the next sync instant, filling its pre-trigger rows where it keeps any. DISARM acts at the
next sync instant and a record that has not triggered is then idle; FORCE triggers an armed record at the instant of the
write; CLEAR returns a captured record to idle; a record that waits as NEXT is armed at its instant. CLR_LOG empties the log
and CLR_CNT its counters. -/
def Obligations.RecordCommands : Prop :=
  ∀ (via : Via) (h : Half) (r : Fin 256) (s : State), reaches s via h →
    let b := REC.addr h r.val
    let st := s.fld b REC.R_STATE
    let code := armRefusal s h r.val
    let arm := exec (.armRecord via r) s
    (st ≠ 0 → st ≠ 4 → arm = .next s) ∧
    (st = 0 ∨ st = 4 → code ≠ 0 → arm = .next (acqCount (raiseIf (s.setFld b REC.ARM_RESULT code)
      (decide (2 ≤ code ∧ code ≤ 4)) h 13) h)) ∧
    (st = 0 ∨ st = 4 → code = 0 → ∃ t x, arm = .next t ∧ t.fld b REC.ARM_RESULT = 0 ∧
      t.fld b REC.R_STATE = (if s.fld b REC.PRE = 0 then 2 else 1) ∧ acqFind t h r.val = some x ∧ x.a = s.periodNum h + 1 ∧
      x.trig = none ∧ x.done = 0 ∧ x.disarm = none ∧ (∀ n, n ≠ r.val → acqFind t h n = acqFind s h n) ∧ t.mem = s.mem) ∧
    (acqFind s h r.val = none → exec (.disarm via r) s = .next s ∧ exec (.disarmTakeEffect h r) s = .next s ∧
      exec (.recordRearm h r) s = .next s) ∧
    (∀ x, acqFind s h r.val = some x →
      exec (.disarm via r) s = .next (acqPut s h { x with disarm := some ((s.periodNum h + 1) * s.periodNs h) }) ∧
      (x.disarm = none → exec (.disarmTakeEffect h r) s = .next s) ∧
      (x.disarm ≠ none → st = 3 → exec (.disarmTakeEffect h r) s = .next (acqPut s h { x with disarm := none })) ∧
      (x.disarm ≠ none → st ≠ 3 → ∃ t, exec (.disarmTakeEffect h r) s = .next t ∧ t.fld b REC.R_STATE = 0 ∧
        acqFind t h r.val = none ∧ (∀ n, n ≠ r.val → acqFind t h n = acqFind s h n) ∧ t.mem = s.mem) ∧
      (st = 5 → exec (.recordRearm h r) s = .next (armAt s h r.val x.after)) ∧
      (st ≠ 5 → exec (.recordRearm h r) s = .next s) ∧
      ((s.acq h).recs = [x] → (s.acq h).miss = false → st = 1 ∨ st = 2 → x.disarm = none →
        x.a * s.periodNs h ≤ s.servoNow h → s.servoNow h / s.periodNs h ≤ s.periodNum h →
        ∃ t y, exec (.force via r) s = .next t ∧ t.fld b REC.R_STATE = 3 ∧ (t.acq h).recs = [y] ∧
          y.trig = some (s.servoNow h, 0, true) ∧ y.row = (s.servoNow h / s.periodNs h - x.a) / (s.fld b REC.DECIM + 1) ∧ t.mem = s.mem)) ∧
    (st = 4 → exec (.clear via r) s = .next (s.setFld b REC.R_STATE 0)) ∧
    (st ≠ 4 → exec (.clear via r) s = .next s) ∧
    (∃ t, exec (.clrLog via) s = .next t ∧ (∀ i, i < 64 → t.word (ACQ.addr h + 0x40 + 4 * i) = 0) ∧
      (∀ a, a < ACQ.addr h + 0x40 ∨ ACQ.addr h + 0x140 ≤ a → t.word a = s.word a) ∧ t.mem = s.mem) ∧
    (∃ t, exec (.acqClrCnt via) s = .next t ∧ t.word (ACQ.addr h + 8) = 0 ∧
      (∀ a, a ≠ ACQ.addr h + 8 → t.word a = s.word a) ∧ t.mem = s.mem)

/-- R399, R401, R425: an edge of a trigger input, stamped to 10 ns, or of a halyard line, to 20 ns, triggers in both halves
the records whose source, selector and edge name it, and raises event 196, 197 or 198 with its stamp. A pulse drives the
lines claimed for user use until its end. A remote trigger message is taken at its first copy only: it triggers the records
with its identifier and raises event 199; one of another length or version is discarded. -/
def Obligations.TriggerSources : Prop :=
  ∀ (h : Half) (t : Fin 2) (line : Fin 8) (up : Bool) (mask : BitVec 8) (msg : List Byte) (s : State),
    let trig := fun (src sel res ev : Nat) (now : Nat) (h : Half) (u : State) =>
      raiseAt (acqTrigger u h (fun r => acqSelects u h src sel r && edgeSelected u h up r) (now / res * res) src false) h ev (now / res * res)
    let l := s.setFld BPI.addr BPI.HL_LEVEL (setBit (s.fld BPI.addr BPI.HL_LEVEL) line.val (!up))
    exec (.triggerInputEdge t up) s =
      .next (trig (1 + t.val) 0 10 (196 + t.val) (s.servoNow .b) .b (trig (1 + t.val) 0 10 (196 + t.val) (s.servoNow .a) .a s)) ∧
    exec (.halyardEdge line (!up)) s =
      .next (trig 4 line.val 20 198 (s.servoNow .b) .b (trig 4 line.val 20 198 (s.servoNow .a) .a l)) ∧
    exec (.halyardPulseEnd line) s = .next { s with hlDrive := setBit s.hlDrive line.val false } ∧
    exec (.hlPulse mask) s = .next { s with hlDrive := s.hlDrive ||| (mask.toNat &&& s.fld BPI.addr BPI.HL_USER) % 256 } ∧
    (msg.length ≠ 24 ∨ bytesAt msg 0 1 ≠ 1 → exec (.remoteTriggerReceive h msg) s = .next s) ∧
    (msg.length = 24 → bytesAt msg 0 1 = 1 →
      let key := (bytesAt msg 2 2 % 1024, bytesAt msg 6 2)
      let at_ := bytesAt msg 8 8
      let u := s.setAcq h { s.acq h with seen := (key :: (s.acq h).seen).take 256 }
      (key ∈ (s.acq h).seen → exec (.remoteTriggerReceive h msg) s = .next s) ∧
      (key ∉ (s.acq h).seen → exec (.remoteTriggerReceive h msg) s =
        .next (raiseAt (acqTrigger u h (fun r => decide (s.fld (REC.addr h r) REC.SRC = 7) &&
          decide (s.fld (REC.addr h r) REC.REMOTE_ID = bytesAt msg 4 2)) at_ 7 false) h 199 at_)))

/-- R271, R274, R281 to R283: START does nothing to a ring that starts or runs, and starts another from its schedule check;
STOP stops it; RESTART resets the registers of the ring and starts it again; CLR_CNT and CH_CLR reset what they name. The own
valid claim is followed by ENUM, a foreign one with the pennant stops a claimant without it, and without its own claim it
backs off and claims again; ENUM and the MEASURE frames lead on; the REPORT of the last acknowledged node makes the ring wait
for its sync instant. A start step that exceeds its bound fails with its code, the ring's event and the fault log; after 16
good periods the ring runs. -/
def Obligations.RingStart : Prop :=
  ∀ (via : Via) (h : Half) (r : Fin 8) (auto chB pen : Bool) (ep : BitVec 8) (hops : BitVec 5) (lt dl : Nat) (fr : List Byte)
    (s : State), reaches s via h →
    let b := RING.addr h r.val
    let u := s.ring h r.val
    let st := ringState s h r.val
    let w := s.setFld b RING.AUTO_RESTART (b2n auto)
    let go := fun (s : State) (mask : Nat) (body : List Byte) =>
      Host.Outcome.next (launch s h r.val mask (masterFrame s h r.val 6 2 31 body))
    let stopped := fun (s : State) => (((s.setFld b RING.STATE 0).setFld b RING.CH_A_OK 0).setFld b RING.CH_B_OK 0).setRing h r.val
      { u with step := 0, backoff := false, last := none, retryAt := none }
    (st = 1 ∨ st = 2 → exec (.ringStart via r auto) s = .next w) ∧
    (st ≠ 1 → st ≠ 2 → exec (.ringStart via r auto) s =
      .next (ringBegin (w.setRing h r.val { u with retryAt := none }) h r.val)) ∧
    exec (.ringStop via r auto) s = .next (stopped w) ∧
    exec (.restart via r auto) s = .next (ringBegin ((stopped w).resetRegs b 0x10000) h r.val) ∧
    (∃ t, exec (.ringClrCnt via r auto) s = .next t ∧
      (∀ a, a = b + 0x10 ∨ a = b + 0x14 ∨ a = b + 0x18 ∨ a = b + 0x20 → t.word a = s.regReset a) ∧
      (∀ n, n < 24 → t.fld (NODE.addr h r.val n) NODE.MARGIN_MIN = 1000 ∧ t.word (NODE.addr h r.val n + 12) = 0) ∧
      t.mem = s.mem ∧ t.halfA = s.halfA ∧ t.halfB = s.halfB) ∧
    (∃ t, exec (.chClr via r auto) s = .next t ∧ t.fld b RING.A_UNUSABLE = (s.resetRegs (b + 0x1C) 4).fld b RING.A_UNUSABLE ∧
      (st = 1 ∨ st = 2 → t.flag b RING.CH_A_OK = true ∧ t.flag b RING.CH_B_OK = true) ∧ t.mem = s.mem ∧
      t.half h = (s.setRing h r.val { u with violA := [], violB := [], cleanA := none, cleanB := none }).half h) ∧
    (u.step = 2 → u.backoff = false →
      exec (.claimReceive h r true true pen ep) s = go (s.setRing h r.val { u with step := 3, backoff := false }) 1 [0, 0] ∧
      exec (.claimTimeout h r) s = .next (s.setRing h r.val { u with backoff := true }) ∧
      exec (.claimBackoffExpiry h r) s = .next s ∧
      (s.flag b RING.SPLIT = false → s.inCharge h = false → exec (.claimReceive h r false true true ep) s = .next (stopped s)) ∧
      (s.flag b RING.SPLIT = false → exec (.claimReceive h r false false pen ep) s = .next (s.setRing h r.val { u with backoff := true }))) ∧
    (u.step = 2 → u.backoff = true → exec (.claimBackoffExpiry h r) s =
      .next (sendClaim (s.setRing h r.val { u with backoff := false }) h r.val false)) ∧
    (u.step ≠ 2 → exec (.claimReceive h r chB true pen ep) s = .next s ∧ exec (.claimTimeout h r) s = .next s) ∧
    (u.step = 3 → hops.toNat = (ringNodes s r.val).length →
      exec (.enumReturn h r hops) s = go ((s.setFld b RING.NODES hops.toNat).setRing h r.val { u with step := 4 }) 1 [1]) ∧
    (u.step = 3 → hops.toNat ≠ (ringNodes s r.val).length →
      exec (.enumReturn h r hops) s = .next (ringFail (s.setFld b RING.NODES hops.toNat) h r.val 4 0)) ∧
    (u.step = 4 → exec (.measureReturn h r false lt dl) s =
      go ((s.setFld b RING.D_A (satU 16 dl)).setRing h r.val { u with step := 5, tA := lt }) 2 [1]) ∧
    (u.step = 5 →
      let m := (s.setFld b RING.D_B (satU 16 dl)).setRing h r.val { u with step := 6, tB := lt }
      let x := m.fld b RING.D_A
      let y := m.fld b RING.D_B
      exec (.measureReturn h r true lt dl) s = .next ((ringNodes s r.val).foldl (fun s n => sendNode s h r.val n [2])
        (m.setFld b RING.ASYM (b2n (decide (100 < x - y ∨ 100 < y - x)))))) ∧
    (parseFrame fr = none → exec (.reportReceive h r fr) s = .next (s.count b RING.CRC_ERR_A)) ∧
    (∀ f x, parseFrame fr = some f → reportOf f = some x → f.epoch = ringEpoch s r.val → (∃ n ∈ ringNodes s r.val, n.addr = f.node) → u.step = 7 →
      let v := setRingNode s h r.val f.node (fun n => { n with acked := true })
      (allNodes v h r.val (fun n => n.acked) = true →
        exec (.reportReceive h r fr) s = .next (v.setRing h r.val { v.ring h r.val with step := 8 })) ∧
      (allNodes v h r.val (fun n => n.acked) = false → exec (.reportReceive h r fr) s = .next v)) ∧
    (∀ c, (u.step, c) ∈ [(1, 1), (2, 3), (3, 4), (4, 4), (5, 4), (6, 10), (7, 10), (8, 9)] → st = 1 →
      let e := 64 + 4 * r.val
      let d := satU 16 (Nat.max (s.fld b RING.D_A) (s.fld b RING.D_B))
      let v := raiseEvt ((((((s.setFld b RING.STATE 4).setFld b RING.FAIL_CODE c).setFld b RING.FOUND_RING 0).setFld b RING.CH_A_OK 0).setFld b
        RING.CH_B_OK 0).setRing h r.val { u with step := 0, backoff := false, last := none }) h e
      exec (.startStepTimeout h r) s = .next (faultLog v e (some h) (some c) (some (d + 2 ^ 16 * v.fld b RING.D_MAX)))) ∧
    (st ≠ 1 → exec (.startStepTimeout h r) s = .next s ∧ exec (.ringRunning h r) s = .next s) ∧
    (st = 1 → u.step = 9 → 16 ≤ u.goodRun → exec (.ringRunning h r) s =
      .next (raiseEvt ((ringNodes s r.val).foldl (fun s n => s.setFld (NODE.addr h r.val (n.addr - 1)) NODE.N_STATE 2)
        ((s.setFld b RING.STATE 2).setRing h r.val { u with retryAt := none })) h (64 + 4 * r.val)))

/-- R258, R272, R276, R281, R284 to R286, R288, R289: an active SYNC or SET entry of a cyclic ring goes out on the channels
that have a link, and nothing goes out of an inactive entry, a stopped ring or a half that may not send. A REPLY copy is used
in its window, a corrupt one counted, a stale epoch counted, and a late one discarded. The fourth violation in 64 periods
makes a channel unusable; a node with too many missing replies is missing; 16 silent periods lose the ring, which restarts
itself where AUTO_RESTART is set; a missing node that reports as configured is taken back with its delays measured anew, its
incremental axes without reference, and another stays out with its report kept; a link that goes down takes its channel out
of use, and 64 clean periods return it. -/
def Obligations.RingOperation : Prop :=
  ∀ (h : Half) (r : Fin 8) (e : Fin 192) (chB end2 cable : Bool) (ns tA tB : Nat) (fr : List Byte) (nd : Fin 24)
    (v : Option (Fin 32)) (s : State),
    let b := RING.addr h r.val
    let u := s.ring h r.val
    let x := schedEntry s h r.val e.val
    let n := s.periodNum h
    let st := ringState s h r.val
    let ev := 64 + 4 * r.val
    let unus := if chB then RING.B_UNUSABLE else RING.A_UNUSABLE
    let ok := if chB then RING.CH_B_OK else RING.CH_A_OK
    let mask := (if u.link1 then x.mask % 2 else 0) + (if u.link2 then x.mask / 2 % 2 * 2 else 0)
    let goes := exec (.scheduleEntryLaunch h r e) s
    let gets := exec (.replyReceive h r chB ns fr) s
    let nb := NODE.addr h r.val nd.val
    (u.step ≠ 9 ∨ ringSends s h = false ∨ x.active n = false → goes = .next s) ∧
    (u.step = 9 → ringSends s h = true → x.active n = true → e.val < s.fld b RING.N_ENTRIES → s.boot.holdup = 0 →
      (x.typ = 0 → s.pen.claimAt = none → goes = .next (launch s h r.val mask (masterFrame s h r.val 0 2 31 (syncBody s h)))) ∧
      (x.typ = 3 → goes = .next (launch s h r.val mask (masterFrame s h r.val 3 2 31 (setBody s h r.val false)))) ∧
      (x.typ = 4 → x.up = true → goes = .next s)) ∧
    (u.step ≠ 9 ∨ s.activeHalf ≠ some h → gets = .next s) ∧
    (u.step = 9 → s.activeHalf = some h → s.former = none →
      (parseFrame fr = none → gets = .next (s.count b (if chB then RING.CRC_ERR_B else RING.CRC_ERR_A))) ∧
      (∀ f, parseFrame fr = some f → f.typ = 2 →
        (f.epoch ≠ ringEpoch s r.val → s.flag b RING.SPLIT = false → s.pen.reh = none → gets = .next (s.count b RING.STALE_EP)) ∧
        (f.epoch = ringEpoch s r.val → f.body.length = 48 → s.flag b unus = false →
          let slot := bitsOf (bytesAt f.body 1 1) 1 0
          (pollOf s h r.val f.node slot n = none → gets = .next s) ∧
          (∀ p, pollOf s h r.val f.node slot n = some p →
            (replyDeadline s h r.val p.offset chB < (ns : Int) → gets = .next s) ∧
            ((ns : Int) ≤ replyDeadline s h r.val p.offset chB →
              let y := acceptCopy s h r.val ⟨f.node, slot, chB, ns, f⟩
              gets = .next (putNodeFlags (putMargin y h r.val f.node (copyMargin y h r.val p.offset ns chB f)) h r.val f.node f)))))) ∧
    (u.step ≠ 9 → exec (.slotViolation h r chB v) s = .next s) ∧
    (u.step = 9 → chB = false →
      let l := (n, (v.map Fin.val).getD 31) :: (u.violA.filter (fun y => n < y.1 + 64)).take 63
      let w := (s.count b RING.VIOL_A).setRing h r.val { u with violA := l, cleanA := u.cleanA.map (fun _ => 0) }
      (l.length < 4 → exec (.slotViolation h r chB v) s = .next w) ∧
      (4 ≤ l.length → s.flag b unus = true → exec (.slotViolation h r chB v) s = .next w) ∧
      (4 ≤ l.length → s.flag b unus = false → l.all (fun y => y.2 = 31) = true → exec (.slotViolation h r chB v) s =
        .next (raiseEvt (((w.setFld b unus 1).setFld b ok 0).setFld b RING.BAB_A 31) h (ev + 3)))) ∧
    (s.fld nb NODE.N_STATE = 2 → nodeLof s h r.val (nd.val + 1) ≤ (u.nodes.getD nd.val .reset).miss →
      exec (.nodeMissing h r nd) s = .next (rehFailIf (raiseEvt (s.setFld nb NODE.N_STATE 3) h (ev + 1)) true h 2)) ∧
    (s.fld nb NODE.N_STATE ≠ 2 → exec (.nodeMissing h r nd) s = .next s) ∧
    (st ≠ 2 → st ≠ 1 ∨ u.step ≠ 9 → exec (.ringLost h r) s = .next s) ∧
    (st = 2 → u.silent < 16 → s.flag b RING.A_UNUSABLE = false → exec (.ringLost h r) s = .next s) ∧
    (st = 2 → 16 ≤ u.silent → s.flag b RING.A_UNUSABLE = false →
      let w := raiseEvt ((((s.setFld b RING.STATE 3).setFld b RING.CH_A_OK 0).setFld b RING.CH_B_OK 0).setRing h r.val
        { u with step := 0, last := none, retryAt := some (s.tb0 + 1000000000) }) h ev
      exec (.ringLost h r) s = .next (rehFailIf (faultLog w ev (some h) (some 0x10) (some (lossDetail s h r.val))) true h 1)) ∧
    (∀ t, u.retryAt = some t →
      (st = 3 ∨ st = 4 → s.flag b RING.AUTO_RESTART = true → t ≤ s.tb0 → exec (.ringAutoRestart h r) s =
        .next (ringBegin ((s.setRing h r.val { u with retryAt := some (s.tb0 + 1000000000) }).resetRegs b 0x10000) h r.val)) ∧
      (s.flag b RING.AUTO_RESTART = false ∨ s.tb0 < t → exec (.ringAutoRestart h r) s = .next s)) ∧
    (
      let w := s.setRing h r.val (if end2 then { u with link2 := false, cleanA := none } else { u with link1 := false, cleanB := none })
      (st ≠ 2 → exec (.ringLinkDown h r end2) s = .next w) ∧
      (st = 2 → end2 = true → s.flag b RING.A_UNUSABLE = false → exec (.ringLinkDown h r end2) s =
        .next (raiseEvt (((w.setFld b RING.A_UNUSABLE 1).setFld b RING.CH_A_OK 0).setFld b RING.BAB_A 0) h (ev + 3)))) ∧
    (u.step ≠ 1 → exec (.ringLinkUp h r end2 cable) s =
      .next (s.setRing h r.val (if end2 then { u with link2 := true, cable2 := cable, cleanA := some 0 }
        else { u with link1 := true, cable1 := cable, cleanB := some 0 }))) ∧
    ((if chB then u.cleanB else u.cleanA) = some 64 → exec (.channelReturn h r chB) s =
      .next (((s.setFld b unus 0).setFld b ok 1).setRing h r.val (if chB then { u with cleanB := none } else { u with cleanA := none }))) ∧
    ((if chB then u.cleanB else u.cleanA) = none → exec (.channelReturn h r chB) s = .next s) ∧
    (u.step ≠ 9 ∨ s.fld nb NODE.N_STATE ≠ 3 ∨ readmitRoom s h r.val = false → exec (.nodeReadmit h r nd tA tB fr) s = .next s) ∧
    (∀ f x m, u.step = 9 → s.fld nb NODE.N_STATE = 3 → readmitRoom s h r.val = true → parseFrame fr = some f →
      nodeAt s r.val (nd.val + 1) = some m → reportOf f = some x → f.node = nd.val + 1 → f.epoch = ringEpoch s r.val →
      (x.devId ≠ m.devId ∨ x.axes ≠ m.axes.length ∨ x.level ≠ m.level →
        exec (.nodeReadmit h r nd tA tB fr) s = .next (raiseEvt (putReport s h r.val (nd.val + 1) x) h (ev + 1))) ∧
      (x.devId = m.devId → x.axes = m.axes.length → x.level = m.level →
        let y := putReport (s.setRing h r.val { u with tA := tA, tB := tB }) h r.val (nd.val + 1) x
        let y := putDelays y h r.val (nd.val + 1)
        let y := y.setRing h r.val { y.ring h r.val with tA := u.tA, tB := u.tB }
        let y := setRingNode y h r.val (nd.val + 1) (fun n =>
          { n with acked := true, pos := List.replicate 8 none, txTog := false, rxTog := false })
        exec (.nodeReadmit h r nd tA tB fr) s =
          .next (raiseEvt (m.axes.foldl (fun s k => powerLost s h k (s.ce h k).abs) y) h (ev + 1))))

/-- R270: SEND puts a message of up to 254 bytes under way to its node with the other toggle, and does nothing while one
waits; RX_ACK clears RX_READY; an uplink message with a new toggle is stored with its node and length while RX_READY is 0,
and a repeated one discarded; after 64 repetitions the message fails. -/
def Obligations.RingMailbox : Prop :=
  ∀ (via : Via) (h : Half) (r : Fin 8) (node : BitVec 5) (len : BitVec 8) (fr : List Byte) (s : State), reaches s via h →
    let b := RING.addr h r.val
    let u := s.ring h r.val
    let send := exec (.mbxSend via r node len) s
    let gets := exec (.mbxReceive h r fr) s
    let w := setRingNode ((s.setFld b RING.TX_FAIL 0).setFld b RING.TX_BUSY 1) h r.val node.toNat (fun n => { n with txTog := !n.txTog })
    (s.flag b RING.TX_BUSY = true ∨ len = 255 → send = .next s) ∧
    (s.flag b RING.TX_BUSY = false → len ≠ 255 → send =
      .next (w.setRing h r.val { w.ring h r.val with mbx := some ⟨node.toNat, txBytes w h r.val len.toNat, 0, 0⟩ })) ∧
    exec (.rxAck via r) s = .next (s.setFld b RING.RX_READY 0) ∧
    (u.step ≠ 9 → gets = .next s) ∧
    (u.step = 9 → parseFrame fr = none → gets = .next (s.count b RING.CRC_ERR_A)) ∧
    (∀ f, u.step = 9 → parseFrame fr = some f → f.typ = 4 → f.epoch = ringEpoch s r.val → 2 ≤ f.body.length → f.body.length ≤ 256 →
      (nodeAt s r.val f.node).isSome = true → u.mbx = none →
      let n := u.nodes.getD (f.node - 1) .reset
      let tog := bitOf (bytesAt f.body 0 1) 0
      (f.body.length = 2 ∨ tog = n.rxTog ∨ s.flag b RING.RX_READY = true → gets = .next s) ∧
      (2 < f.body.length → tog ≠ n.rxTog → s.flag b RING.RX_READY = false → gets =
        .next (((((setRingNode s h r.val f.node (fun n => { n with rxTog := tog })).setWords (b + 0x600) (wordsOf 64 (f.body.drop 2))).setFld
          b RING.RX_READY 1).setFld b RING.RX_NODE f.node).setFld b RING.RX_LEN (f.body.length - 2)))) ∧
    (u.mbx = none → exec (.mbxTxFail h r) s = .next s) ∧
    (∀ m, u.mbx = some m →
      (m.sends ≤ 64 → exec (.mbxTxFail h r) s = .next s) ∧
      (65 ≤ m.sends → exec (.mbxTxFail h r) s =
        .next (((s.setRing h r.val { u with mbx := none }).setFld b RING.TX_BUSY 0).setFld b RING.TX_FAIL 1)))

/-- R193, R197, R198, R200, R206: a contact that qualifies the level it has changes nothing; a contact of a single-channel
pair takes its level; a pair whose contacts differ for longer than its discrepancy time has a latched fault, with event 226;
an output test finds an output that is stuck on, and one that follows another's pulse with that other; a reset input's
release in time, with no demand present, resets what it serves, and is rejected otherwise with event 231; the island reset
starts the self-test from the fault state or with a latched output fault, and the test's end leaves it or enters it again; an
overtemperature faults the island once. -/
def Obligations.IslandInputsAndResets : Prop :=
  ∀ (ch : IslCh) (c : Fin 24) (lv : Bool) (p : Fin 12) (src : Fin 4) (m : BitVec 24) (pass : Bool) (s : State),
    let i := ISL.addr
    let x := contactOf s .y c.val
    let latched : PairRun := { pairRun s p.val with demX := true, demY := true, seenA := false, seenB := false, due := 0 }
    let d := s.isl.clk - x.at_
    let rel := contactQualify (contactQualify s .x c.val false) .y c.val false
    let fs := resetFuncs rel c.val
    let arms := resetArms rel c.val
    let present := fs.any (fun f => rel.flag (ISL.addr + 4 * f) ISL.DEMAND) || arms.any (fun a => (ssmRun rel a).stop)
    let serves := (List.range 32).any (fun f => decide (funcKind s f = 7) && (funcCfg s f).islandReset && decide ((funcCfg s f).pairs.contains (c.val / 2)))
    ((contactOf s ch c.val).level = lv → exec (.safetyContactQualify ch c lv) s = .next s) ∧
    ((contactOf s .x c.val).level ≠ lv → (pairCfg s (c.val / 2)).kind = 2 → exec (.safetyContactQualify .x c lv) s =
      .next { s with isl := { s.isl with contactsX := s.isl.contactsX.set c.val ⟨lv, s.isl.clk⟩ } }) ∧
    (x.level ≠ lv → (pairCfg s (c.val / 2)).kind = 2 → ∃ t, exec (.safetyContactQualify .y c lv) s = .next t ∧
      t.isl = { s.isl with contactsY := s.isl.contactsY.set c.val ⟨lv, s.isl.clk⟩ } ∧
      t.fld i ISL.LEVEL = setBit (s.fld i ISL.LEVEL) c.val lv % 2 ^ 24 ∧ t.mem = s.mem) ∧
    ((pairRun s p.val).differs = none → exec (.discrepancyTimeout p) s = .next s) ∧
    (∀ t, (pairRun s p.val).differs = some t → (pairCfg s p.val).kind ≠ 2 →
      (s.isl.clk - t ≤ (pairCfg s p.val).disc * 1000000 → exec (.discrepancyTimeout p) s = .next s) ∧
      ((pairCfg s p.val).disc * 1000000 < s.isl.clk - t → pairFault s p.val = 0 →
        ∃ u, exec (.discrepancyTimeout p) s = .next (raiseBoth u 226) ∧ pairFault u p.val = 2 ∧
          u.isl = { s.isl with pairs := s.isl.pairs.set p.val latched } ∧
          u.mem = s.mem)) ∧
    exec (.testPulse src m) s = .next ((List.range 12).foldl (fun s p => pairPulse s src.val p)
      ((List.range 24).foldl (fun s c => contactPulse s src.val m.toNat c) s)) ∧
    (s.sectCfg.outTest.getD (c.val / 2) true = false ∨ s.isl.outs.getD c.val false = false →
      exec (.outputTestPulse c m) s = .next s) ∧
    (s.sectCfg.outTest.getD (c.val / 2) true = true → s.isl.outs.getD c.val false = true → bitOf m.toNat c.val = false →
      (∀ o, o < 24 → o ≠ c.val → s.isl.outs.getD o false = true → bitOf m.toNat o = true) →
      exec (.outputTestPulse c m) s = .next s) ∧
    (s.sectCfg.outTest.getD (c.val / 2) true = true → s.isl.outs.getD c.val false = true → bitOf m.toNat c.val = true →
      (∀ o, o < 24 → o ≠ c.val → s.isl.outs.getD o false = true → bitOf m.toNat o = true) →
      exec (.outputTestPulse c m) s = .next (outputFault s c.val 1)) ∧
    (∀ q, q < 24 → q ≠ c.val → s.sectCfg.outTest.getD (c.val / 2) true = true → s.isl.outs.getD c.val false = true →
      s.isl.outs.getD q false = true → bitOf m.toNat c.val = false → bitOf m.toNat q = false →
      (∀ o, o < 24 → o ≠ c.val → o ≠ q → s.isl.outs.getD o false = true → bitOf m.toNat o = true) →
      exec (.outputTestPulse c m) s = .next (outputFault (outputFault s c.val 3) q 3)) ∧
    (x.level = false → exec (.resetInputRelease c) s = .next s) ∧
    (x.level = true → 100000000 ≤ d → d ≤ 5000000000 → present = false → exec (.resetInputRelease c) s =
      .next (connReset (arms.foldl (fun s a => setSsm s a { ssmRun s a with wait := false })
        (fs.foldl (fun s f => s.setFld (ISL.addr + 4 * f) ISL.F_WAIT_RESET 0) rel)) fs arms)) ∧
    (x.level = true → d < 100000000 ∨ 5000000000 < d ∨ present = true → exec (.resetInputRelease c) s =
      .next (raiseBoth (rel.count i ISL.RESET_REJ_CNT) 231)) ∧
    (serves = false ∨ (islState s ≠ 3 ∧ s.fld i ISL.OUT_FAULT = 0) → exec (.islandReset c) s = .next s) ∧
    (serves = true → islState s = 3 ∨ s.fld i ISL.OUT_FAULT ≠ 0 → exec (.islandReset c) s = .next (driveOutputs ((List.range 16).foldl (fun s g => updateGroup s g)
      ((s.setFld i ISL.STATE 0).setIsl { s.isl with testing := true })))) ∧
    (s.isl.testing = false → exec (.islandSelfTestComplete pass) s = .next s) ∧
    (s.isl.testing = true → exec (.islandSelfTestComplete false) s = .next (islandFault (s.setIsl { s.isl with testing := false }) 5 0)) ∧
    (s.isl.testing = true → exec (.islandSelfTestComplete true) s = .next (waitAll (takeMode2
      (((s.setFld i ISL.OUT_FAULT 0).setIsl { s.isl with testing := false, heldOff := List.replicate 24 false }).setFld i ISL.STATE 0)))) ∧
    (islState s = 3 → exec .islandOvertemp s = .next s) ∧
    (islState s ≠ 3 → exec .islandOvertemp s =
      .next (islandFault { s with freeIdx := s.freeIdx + 1 } ((Config.freeValue s.freeIdx).toNat % 256) 0))

/-- R191, R192, R203, R207, R208, R230, R238: a safety cycle counts and, outside start-up and the self-test, checks its
clock, takes switches and sensors, compares the channels, places the arms from the received positions, evaluates functions,
arms and groups, checks the readback and drives the outputs; a second disagreement in a row is a fault. SS1 ends in STO at
its time, a restart dwell releases the arm's stop, an unlock delay releases a lock whose groups stayed safe, and a two-hand
control whose second pair is late is blocked; a stop test begins with its arm. -/
def Obligations.SafetyCycleAndTimers : Prop :=
  ∀ (xNs : Nat) (errX errY : List IslandErr) (rd : BitVec 24) (g a : Fin 16) (f : Fin 32) (s : State),
    let s0 := s.setIsl { s.isl with cycle := s.isl.cycle + 1, start := s.isl.clk, heard := s.tb0 }
    let places := safePlaces s0
    let s1 := if xNs < 450000 ∨ 550000 < xNs then islandFault s0 1 0 else s0
    let s2 := (List.range 8).foldl takeSensor (if islState s1 = 3 then s1 else switchCycle s1)
    let s3 := s2.setFld SSM.addr SSM.OBJ_COUNT (objectList s2).length
    let s4 := if (List.range 8).any (fun i => sensUsed s3 i && decide (sensState s3 i ≠ 1)) then s3.count SSM.addr SSM.SENS_FAULT_CNT else s3
    let s5 := (List.range 32).foldl evalFunc ((List.range 12).foldl comparator s4)
    let fd := (List.range 32).filter (fun f => (funcRun s5 f).demX != (funcRun s5 f).demY)
    let sx := channelSample s5 .x places errX
    let sy := channelSample s5 .y places errY
    let s6 := (List.range 16).foldl (fun (x : State × List Nat) a =>
      let y := monitorArm x.1 sx sy a ((ssmRun x.1 a).testStop && !(ssmRun x.1 a).stop)
      (y.1, x.2 ++ y.2)) (stopTestCycle s5 sx sy, [])
    let s7 := (List.range 16).foldl groupCycle ((List.range 16).foldl (fun s g => reducedGroup s sx sy g) s6.1)
    let s8 := driveOutputs (readbackCheck ((List.range 32).foldl evalLock s7) rd.toNat)
    let s9 := (List.range 64).foldl (fun s c => if connType s c = 1 then
      s.setConn c { s.conn c with posPrev := if posPresent s c then some (safePos s c) else none } else s) s8
    let gr := groupRun s g.val
    let ar := ssmRun s a.val
    let fr := funcRun s f.val
    (s.isl.testing = true ∨ islState s = 0 → exec (.safetyCycle xNs errX errY rd) s = .next (keepPlaces s0 places)) ∧
    (s.isl.testing = false → islState s ≠ 0 → exec (.safetyCycle xNs errX errY rd) s =
      .next (noteDiffs (keepPlaces s9 places) (fd ++ s6.2 ++ toolDiffs sx sy))) ∧
    (gr.cat = some 1 ∨ gr.cat = some 2 → gr.off = false →
      ((groupCfg s g.val).tSs1 * 1000000 ≤ s.isl.clk - gr.since → exec (.ss1TimeExpiry g) s =
        .next (driveOutputs (putGroup (setGroup s g.val { gr with cat := some 0, off := true }) g.val
          (s.flag (ISL.addr + 4 * g.val) ISL.G_WAIT_RESET)))) ∧
      (s.isl.clk - gr.since < (groupCfg s g.val).tSs1 * 1000000 → exec (.ss1TimeExpiry g) s = .next (driveOutputs s))) ∧
    (ar.dwell = none → exec (.dwellExpiry a) s = .next s) ∧
    (∀ t, ar.dwell = some t → ar.stop = true →
      ((ssmCfg s a.val).dwell * 1000000 ≤ s.isl.clk - t → exec (.dwellExpiry a) s =
        .next ((setSsm s a.val { ar with stop := false, dwell := none, ceil := 9, wait := !(ssmCfg s a.val).auto || ar.testStop,
                                         testStop := false }).setFld (SSMARM.addr a.val) SSMARM.DWELL_RUN 0)) ∧
      (s.isl.clk - t < (ssmCfg s a.val).dwell * 1000000 → exec (.dwellExpiry a) s = .next s)) ∧
    (fr.safeSince = none → exec (.unlockDelayExpiry f) s = .next s) ∧
    (∀ t, fr.safeSince = some t → funcKind s f.val = 2 → lockSafe s f.val = true →
      (lockAsked s f.val = true → (funcCfg s f.val).unlockDelay * 1000000 ≤ s.isl.clk - t → exec (.unlockDelayExpiry f) s =
        .next (driveOutputs (setFunc s f.val { fr with lockOpen := true }))) ∧
      (lockAsked s f.val = false ∨ s.isl.clk - t < (funcCfg s f.val).unlockDelay * 1000000 → exec (.unlockDelayExpiry f) s = .next s)) ∧
    (funcKind s f.val ≠ 3 → exec (.twoHandWindowExpiry f) s = .next s) ∧
    (funcKind s f.val = 3 →
      let p := (funcCfg s f.val).pairs.getD 0 0
      let q := (funcCfg s f.val).pairs.getD 1 0
      let t := if pairDemands s .y p then pairStamp s q else pairStamp s p
      (pairDemands s .y p ≠ pairDemands s .y q → 500000000 < s.isl.clk - t → exec (.twoHandWindowExpiry f) s =
        .next (setFunc s f.val { fr with blocked := true })) ∧
      (pairDemands s .y p = pairDemands s .y q ∨ s.isl.clk - t ≤ 500000000 → exec (.twoHandWindowExpiry f) s = .next s))

/-- R8, R213, R215, R217, R230: with SEAL_WE closed a write of a sealed register of the island is refused, counted, its
offset recorded, with event 229, and fails a core's item; with SEAL_WE open LOAD starts the check of the staged section with
every group stopped, a word of the staging window is staged, FP_ACCEPT of the loaded fingerprint is taken and another fails,
a stop test starts, and the connections' counters are cleared. A finished check loads a valid section with its fingerprint.
The switches raise event 230; reading ISL.STATUS returns it and clears WR_REFUSED. -/
def Obligations.IslandSection : Prop :=
  ∀ (m : Master) (v : Word) (off : Fin 262144) (a : BitVec 4) (x y : BitVec 12) (s : State),
    let i := ISL.addr
    let refused := fun (o : Nat) => Host.Outcome.next (failMaster
      (raiseBoth (((s.setFld i ISL.WR_REFUSED 1).count i ISL.WR_REFUSED_CNT).setFld i ISL.REFUSED_ADDR o) 229) m)
    (s.flag i ISL.SEAL_WE = false →
      exec (.load m) s = refused 0xC ∧ exec (.fpAccept m v) s = refused 0x18 ∧ exec (.ssmTestGo m a) s = refused 0x1008 ∧
      exec (.smsgClrCnt m) s = refused 0x2010 ∧ exec (.sectionStagingWrite m off v) s = refused (0x800000 + 4 * off.val)) ∧
    (s.flag i ISL.SEAL_WE = true →
      (s.flag i ISL.LOADING = true → exec (.load m) s = .next s) ∧
      (s.flag i ISL.LOADING = false → exec (.load m) s =
        .next (driveOutputs ((List.range 16).foldl (fun s g => updateGroup s g) (s.setFld i ISL.LOADING 1)))) ∧
      (v.toNat = s.fld i ISL.FP_LOADED → exec (.fpAccept m v) s =
        .next (takeMode2 ((s.setFld i ISL.FP_ACCEPTED v.toNat).setFld i ISL.ACCEPT_FAIL 0))) ∧
      (v.toNat ≠ s.fld i ISL.FP_LOADED → exec (.fpAccept m v) s = .next (s.setFld i ISL.ACCEPT_FAIL 1)) ∧
      (∃ t, exec (.ssmTestGo m a) s = .next t ∧ t.fld SSM.addr SSM.TEST_ARM = a.toNat ∧ t.fld SSM.addr SSM.MEAS_ARM = a.toNat ∧
        t.flag SSM.addr SSM.MEAS_VALID = false ∧ t.flag SSM.addr SSM.TEST_BUSY = true ∧
        t.isl = { s.isl with test := some ⟨a.toNat, false, 0, 0, 0, none⟩ } ∧ t.mem = s.mem) ∧
      (∃ t, exec (.smsgClrCnt m) s = .next t ∧
        (∀ c, c < 64 → t.word (CONN.addr c + 8) = 0 ∧ t.word (CONN.addr c + 12) = 0xFFFF0000) ∧ t.isl = s.isl ∧ t.mem = s.mem) ∧
      (∃ t, exec (.sectionStagingWrite m off v) s = .next t ∧ t.regs = s.regs ∧ t.mem = s.mem ∧ (storeWf 0 s.isl.staged = true →
          (∀ k, k < 4 → storeGet 0 t.isl.staged (4 * off.val + k) = v.extractLsb' (8 * k) 8) ∧
          (∀ o, o / 4 ≠ off.val → storeGet 0 t.isl.staged o = storeGet 0 s.isl.staged o)))) ∧
    (s.flag i ISL.LOADING = false → exec .loadComplete s = .next s) ∧
    (s.flag i ISL.LOADING = true →
      let w := s.setFld i ISL.LOADING 0
      let cfg := sectionCfgOf s.isl.staged
      exec .loadComplete s = .next (if cfg.valid then waitAll (takeMode2 (placeSection (w.setFld i ISL.LOAD_FAIL 0) s.isl.staged cfg
        (crc32c (cellBytes s.isl.staged cfg.length)))) else w.setFld i ISL.LOAD_FAIL 1)) ∧
    (exec (.switchChange x y) s = .next (raiseBoth
      (let w := (s.setIsl { s.isl with swX := x.toNat, swY := y.toNat }).setFld i ISL.ADDR_NOW (y.toNat % 1024)
       if y.toNat % 1024 = s.fld i ISL.ADDR then w else w.setFld i ISL.ADDR_CHANGED 1) 230)) ∧
    (∃ t, exec (.islStatusRead m) s = .next t ∧ t.readData = s.readData.set (masterPort m) (BitVec.ofNat 64 (s.wordN (i + 4))) ∧
      t.flag i ISL.WR_REFUSED = false ∧ t.mem = s.mem ∧ t.isl = s.isl)

/-- R241, R244, R245, R252, R253: the first safe PDU that passes its check brings a connection to sync with its number and
deadlines, the next number in time to run with its data; a wrong check, a wrong number or a deadline passed brings it to the
safe state with the cause, its counter, data of zeros, and event 235 where it was in sync or run. A PDU of a wrong length or
of an unused connection has not arrived, and one that reaches a held island changes nothing. A drive's command is sent with
the next number and its check. -/
def Obligations.SafeConnections : Prop :=
  ∀ (c : Fin 64) (ch : IslCh) (b : List Byte) (s : State),
    let n := CONN.addr c.val
    let x := s.conn c.val
    let k := s.connCfg c.val
    let len := b.length - 6
    let seq := bytesAt b 0 2
    let data := (b.drop 2).take len
    let good := bytesAt b (2 + len) 4 = safeCrc (rxIdentity s c.val) seq data
    let fails := fun (cnt : Fld) (cause : Nat) (o : Host.Outcome State Fault Refusal) =>
      ∃ u, o = (if 2 ≤ s.fld n CONN.C_STATE then .next (raiseBoth u 235) else .next u) ∧ u.fld n CONN.C_STATE = 1 ∧
        u.fld n CONN.CAUSE = cause ∧ u.fld n cnt = Nat.min 65535 (s.fld n cnt + 1) ∧
        u.isl = { s.isl with conns := s.isl.conns.set c.val { x with rxX := { x.rxX with st := 1 }, rxY := { x.rxY with st := 1 },
                                                                     data := zeros k.lenRx },
                                groups := waitGroups s c.val }
    let got := exec (.safePduReceive c b) s
    (connType s c.val = 0 ∨ b.length < 6 → got = .next s) ∧
    (connType s c.val = 1 → len ≠ 6 → got = .next s) ∧
    (islState s = 2 → got = .next s) ∧
    (islState s ≠ 2 → islState s ≠ 3 → connType s c.val = 3 → 6 ≤ b.length → len ≤ k.lenRx → k.both = false → x.copy = none →
      (x.rxY.st = 1 ∨ s.isl.clk ≤ x.rxY.deadline) →
      (¬good → fails CONN.CRC_FAIL_CNT 2 got) ∧
      (good → x.rxY.st = 1 → ∃ t, got = .next t ∧ t.fld n CONN.C_STATE = 2 ∧ t.fld n CONN.SEQ_RX = seq % 65536 ∧
        t.isl = { s.isl with conns := s.isl.conns.set c.val { x with rxX := ⟨2, seq, s.isl.clk + k.watchdog * 11 / 10⟩,
                                                                     rxY := ⟨2, seq, s.isl.clk + k.watchdog⟩ } }) ∧
      (good → x.rxY.st ≠ 1 → seq ≠ (x.rxY.last + 1) % 65536 → fails CONN.SEQ_FAIL_CNT 3 got) ∧
      (good → x.rxY.st ≠ 1 → seq = (x.rxY.last + 1) % 65536 → ∃ t, got = .next t ∧ t.fld n CONN.C_STATE = 3 ∧
        t.fld n CONN.SEQ_RX = seq % 65536 ∧
        t.isl = { s.isl with conns := s.isl.conns.set c.val { x with rxX := ⟨3, seq, s.isl.clk + k.watchdog * 11 / 10⟩,
                                                                     rxY := ⟨3, seq, s.isl.clk + k.watchdog⟩, data := data, accAt := s.isl.clk } })) ∧
    (connType s c.val = 0 → exec (.safeWatchdogExpiry c ch) s = .next s) ∧
    (connType s c.val ≠ 0 → x.rxY.st ≠ 1 → x.rxY.deadline < s.isl.clk → fails CONN.WD_CNT 1 (exec (.safeWatchdogExpiry c .y) s)) ∧
    (x.rxX.st = 1 ∨ s.isl.clk ≤ x.rxX.deadline → exec (.safeWatchdogExpiry c .x) s = .next s) ∧
    (connType s c.val = 0 → exec (.safePduSend c) s = .next s) ∧
    (connType s c.val = 1 → s.fld n CONN.TRANSPORT = 0 → x.out = none → exec (.safePduSend c) s =
      .next ((s.setConn c.val { x with
          out := some (leBytes 2 x.seqNext ++ driveCommand s c.val ++ leBytes 4 (safeCrc (txIdentity s c.val) x.seqNext (driveCommand s c.val))),
          seqNext := (x.seqNext + 1) % 65536 }).setFld n CONN.SEQ_TX x.seqNext))

/-- R415, R418 to R424: only the system controller without conflict arbitrates and times, a bus request being granted and
BBSY ending the grant; a grant not taken for 2 us is counted and repeated; an expiry of the bus timer asserts the error line
and is recorded with event 240 or 241; a second arbiter within 10 ms of start sets SC_CONFLICT; a line that another card
asserts is shown, with event 242 or 243 at its rise where the module handles it; IACK stores the interrupter's vector; SYSRST
is driven for 100 ms by the system controller alone, and received raises event 245 without SYSRST_ACT; a doorbell stores its
word and raises event 246; VEC_PEND is cleared bit by bit; an acknowledge takes the lowest vector of its line or is passed
on. R25, R406, R407, R410 to R414, R416, R417: a K16 memory word in the enabled window reads the two bytes of its page, and a
write stores them; a K32 word in the module's window reaches the module address it counts from; a cycle outside the windows
is left unanswered; a K32 block takes its address at the first beat and ends with XBERR at the 65th. A read of the low word
of a quantity of several words takes a snapshot for its master, from which the others are read, and a write of its low word
is staged until the high one commits both (log entries 99, 100). An access to an address that nothing decodes is recorded
with event 247, a read returning 0. An access to an outbound window waits for the bus, to complete with its grant or, without
one for 100 us, to fail with event 240 or 241. Accesses held during a pennant move run at its end. -/
def Obligations.Backplane : Prop :=
  (∀ (k32 io w pa pb : Bool) (addr v : Word) (mask : BitVec 64) (lv : Fin 4) (ln : Fin 8) (s : State),
      let b := BPI.addr
      let arb := s.flag b BPI.SYSCTL = true ∧ s.flag b BPI.SC_CONFLICT = false
      let ev := if k32 then 241 else 240
      (arb →
        exec (.busRequest io true) s = .next (s.setBus { s.bus with grant := none }) ∧
        (s.bus.grant = none → exec (.busRequest true false) s = .next (s.setBus { s.bus with grant := some s.tb0 })) ∧
        (∃ u, exec (.busTimerExpiry k32 io w addr) s = .next (raiseBoth u ev) ∧ u.fld b BPI.ERR_ADDR = addr.toNat ∧
          u.fld b BPI.KIND = (if k32 then 5 else 4) ∧ u.fld b BPI.ERR_IOSP = b2n io ∧ u.fld b BPI.ERR_WRT = b2n w ∧
          u.bus = { s.bus with berr := true } ∧ u.mem = s.mem) ∧
        (s.tb0 ≤ s.boot.startAt + 10000000 → exec .foreignArbiterDetected s =
          .next (faultLog ((s.setFld b BPI.SC_CONFLICT 1).setBus { s.bus with grant := none }) 0xFF none none none))) ∧
      (¬ arb → exec (.busRequest io w) s = .next s ∧ exec (.busTimerExpiry k32 io w addr) s = .next s ∧
        exec .foreignArbiterDetected s = .next s) ∧
      (∀ t, s.bus.grant = some t →
        (t + 2000 ≤ s.tb0 → exec .grantLost s =
          .next ((s.count b BPI.GRANT_LOST).setBus { s.bus with grant := some s.tb0 })) ∧
        (s.tb0 < t + 2000 → exec .grantLost s = .next s)) ∧
      (∀ on, let f := if k32 then BPI.ASSERTED32 else BPI.ASSERTED16
        let t := s.setFld b f (setBit (s.fld b f) ln.val on)
        k32 = true ∨ ln.val < 4 →
        (busHandles t k32 ln.val = true → on = true → bitOf (s.fld b f) ln.val = false →
          exec (.interruptAsserted k32 ln on) s = .next (raiseBoth t (if k32 then 243 else 242))) ∧
        (on = false ∨ bitOf (s.fld b f) ln.val = true ∨ busHandles t k32 ln.val = false →
          exec (.interruptAsserted k32 ln on) s = .next t)) ∧
      (∀ (sel : BitVec 4) (a : BitVec 16),
        let i := if 8 ≤ sel.toNat then sel.toNat - 8 else sel.toNat - 1
        let k := decide (8 ≤ sel.toNat)
        let t := ((s.setFld b BPI.IACK_SEL sel.toNat).setFld b BPI.IACK_DONE 0).setFld b BPI.IACK_ERR 0
        (1 ≤ sel.toNat ∧ sel.toNat ≤ 4) ∨ 8 ≤ sel.toNat →
        (busHandles t k i = true →
          (∃ u, exec (.iack sel (some a)) s = .next u ∧ u.flag b BPI.IACK_DONE = true ∧ u.flag b BPI.IACK_ERR = false ∧
            u.fld b BPI.IACK_VEC = (if k then a.toNat / 256 else a.toNat % 256) ∧
            u.fld b BPI.IACK_GA = (if k then a.toNat % 32 else 0) ∧ u.bus = { s.bus with acked := some (sel.toNat, s.tb0) } ∧
            u.mem = s.mem ∧ u.halfA = s.halfA ∧ u.halfB = s.halfB) ∧
          ∃ u, exec (.iack sel none) s = .next (raiseBoth u (if k then 241 else 240)) ∧ u.flag b BPI.IACK_ERR = true ∧
            u.flag b BPI.IACK_DONE = false ∧ u.mem = s.mem) ∧
        (busHandles t k i = false → ∀ x, exec (.iack sel x) s = .next t)) ∧
      (∀ l t, s.bus.acked = some (l, t) →
        (s.tb0 < t + 10000 → exec .iackReassert s = .next s) ∧
        (t + 10000 ≤ s.tb0 → l ≤ 4 → bitOf (s.fld b BPI.ASSERTED16) (l - 1) = true →
          exec .iackReassert s = .next (raiseBoth (s.setBus { s.bus with acked := none }) 242)) ∧
        (t + 10000 ≤ s.tb0 → l ≤ 4 → bitOf (s.fld b BPI.ASSERTED16) (l - 1) = false →
          exec .iackReassert s = .next (s.setBus { s.bus with acked := none }))) ∧
      (s.flag b BPI.SYSCTL = true → exec (.sysrstReceive pa pb) s = .next s ∧
        exec .sysrstOut s = .next (s.setBus { s.bus with sysrst := some (s.tb0 + 100000000) })) ∧
      (s.flag b BPI.SYSCTL = false → exec .sysrstOut s = .next s ∧
        (s.flag b BPI.SYSRST_ACT = false → exec (.sysrstReceive pa pb) s = .next (raiseBoth s 245)) ∧
        (s.flag b BPI.SYSRST_ACT = true →
          exec (.sysrstReceive pa pb) s = .next (faultLog (moduleReset s pa pb) 0xFF none none none))) ∧
      (∃ t, exec .bpiClrCnt s = .next t ∧ t.fld b BPI.GRANT_LOST = 0 ∧ t.fld b BPI.STAGE_DROP = 0 ∧ t.mem = s.mem ∧
        (∀ a, a ≠ b + 0x1C → t.word a = s.word a)) ∧
      (∃ u, exec (.doorbell v) s = .next (raiseBoth u 246) ∧ u.fld b BPI.DOORBELL = v.toNat ∧
        (∀ a, a ≠ b + 0x18 → u.word a = s.word a) ∧ u.mem = s.mem) ∧
      (∃ t, exec (.vecPendClear mask) s = .next t ∧ t.mem = s.mem ∧
        ∀ x, x < 64 → t.mapBit (b + 0x200) x = (s.mapBit (b + 0x200) x && !(mask.getLsbD x && !vecLater s x))) ∧
      (vecLowest s false lv.val = none → exec (.k16IackCycle lv) s = .next (s.setBus { s.bus with passed := true })) ∧
      (∀ x, vecLowest s false lv.val = some x → exec (.k16IackCycle lv) s =
        .next ((s.setBus { s.bus with passed := false }).answer .k16
          (BitVec.ofNat 64 (s.fld b BPI.K16_IVEC / 256 ^ lv.val % 256)))) ∧
      (vecLowest s true ln.val = none → exec (.k32IackCycle ln) s = .next (s.setBus { s.bus with passed := true })) ∧
      (∀ x, vecLowest s true ln.val = some x → exec (.k32IackCycle ln) s =
        .next ((s.setBus { s.bus with passed := false }).answer .k32
          (BitVec.ofNat 64 (s.fld MOD.addr MOD.STRAPS % 32 + x * 256))))) ∧
  (∀ (m : Master) (a16 : BitVec 16) (a32 val : Word) (s : State),
      let b := BPI.addr
      let ans := s.setBus { s.bus with silent := false, berr := false }
      let dumb := Host.Outcome.next (s.setBus { s.bus with silent := true })
      (let win := s.fld b BPI.K16_BASE * 0x8000
       let off := a16.toNat - win
       let p := s.fld b (BPI.PAGE.nth (off / 0x800)) * 4096 + 2 * (off % 0x800)
       (s.flag b BPI.K16_EN = true → win ≤ a16.toNat → a16.toNat < win + 0x8000 → placeOf p = .bytes →
         exec (.k16SlaveCycle false a16 none) s = .next (ans.answer .k16 (BitVec.ofNat 64 (bytesRead s p 2))) ∧
         ∀ x, exec (.k16SlaveCycle false a16 (some x)) s = .next (bytesWrite ans p 2 x.toNat)) ∧
       (s.flag b BPI.K16_EN = false ∨ a16.toNat < win ∨ win + 0x8000 ≤ a16.toNat →
         ∀ x, exec (.k16SlaveCycle false a16 x) s = dumb) ∧
       (let base := s.fld b BPI.K16_IO * 64
        (a16.toNat < base ∨ base + 0x21 < a16.toNat → ∀ x, exec (.k16SlaveCycle true a16 x) s = dumb) ∧
        (a16.toNat = base + 0x21 → exec (.k16SlaveCycle true a16 none) s =
          .next (ans.answer .k16 (BitVec.ofNat 64 (s.fld MOD.addr MOD.NUM)))))) ∧
      (let geo := 0xFF000000 + s.fld MOD.addr MOD.STRAPS % 32 * 0x10000
       let p := s.fld b BPI.K32_MOD_BASE * 0x1000000 + a32.toNat / 4 * 4 % 0x1000000
       (s.flag b BPI.K32_PRESENT = false → ∀ x, exec (.k32SlaveCycle a32 x) s = dumb ∧
         exec (.k32BlockBeat true a32 x) s = .next (notAnswered (s.setBus { s.bus with block := none }))) ∧
       (s.flag b BPI.K32_PRESENT = true → s.flag b BPI.K32_EN = true → a32.toNat / 0x1000000 = s.fld b BPI.K32_BUS →
         a32.toNat < 0xFF000000 → placeOf p = .bytes →
         exec (.k32SlaveCycle a32 none) s = .next (ans.answer .k32 (BitVec.ofNat 64 (bytesRead s p 4))) ∧
         (∀ x, exec (.k32SlaveCycle a32 (some x)) s = .next (bytesWrite ans p 4 x.toNat)) ∧
         ∀ x, exec (.k32BlockBeat true a32 (some x)) s = .next (bytesWrite (ans.setBus { ans.bus with block := some (p, 1) }) p 4 x.toNat)) ∧
       (s.flag b BPI.K32_PRESENT = true → a32.toNat / 4 * 4 = geo + 4 →
         exec (.k32SlaveCycle a32 none) s = .next (ans.answer .k32 (BitVec.ofNat 64 (s.fld MOD.addr MOD.NUM))))) ∧
      (∀ p, s.bus.block = some (p, 64) → ∀ x, exec (.k32BlockBeat false a32 x) s =
        .next (s.setBus { s.bus with berr := true, silent := false, block := none })) ∧
      (∀ (a : BitVec 40), (m = .pcie ∨ m = .service ∨ m = .k32) → a.toNat % 4 = 0 → inActive a.toNat = false →
        (placeOf a.toNat = .bytes →
          exec (.snapshotRead m a) s = .next (s.answer m (BitVec.ofNat 64 (bytesRead s a.toNat 4))) ∧
          exec (.registerWrite m a val) s = .next (bytesWrite s a.toNat 4 val.toNat)) ∧
        (placeOf a.toNat = .words →
          let q := quantityAt a.toNat true
          let r := readWords s q.1 (q.2 / 4)
          let e := quantityAt a.toNat false
          let w := s.setPort m { s.port m with stage := none }
          (q.2 = 4 → exec (.snapshotRead m a) s = .next (r.2.answer m (BitVec.ofNat 64 r.1))) ∧
          (q.2 ≠ 4 → a.toNat = q.1 → exec (.snapshotRead m a) s =
            .next ((r.2.setPort m { r.2.port m with snap := some (q.1, q.2, r.1) }).answer m (BitVec.ofNat 64 (r.1 % 2 ^ 32)))) ∧
          (∀ n v, q.2 ≠ 4 → a.toNat ≠ q.1 → (s.port m).snap = some (q.1, n, v) → exec (.snapshotRead m a) s =
            .next (s.answer m (BitVec.ofNat 64 (v / 2 ^ (8 * (a.toNat - q.1)) % 2 ^ 32)))) ∧
          (e.2 = 4 → (s.port m).stage = none → exec (.registerWrite m a val) s =
            .next (regWrite w a.toNat (putPart (keptQuantity s a.toNat 4) 0 4 val.toNat))) ∧
          (e.2 = 8 → a.toNat = e.1 → (s.port m).stage = none → exec (.registerWrite m a val) s =
            .next (s.setPort m { s.port m with stage := some (e.1, [(0, 4, val.toNat)]) })) ∧
          (∀ l, e.2 = 8 → a.toNat = e.1 + 4 → (s.port m).stage = some (e.1, l) → exec (.registerWrite m a val) s =
            .next (regWriteQuad w e.1 (mergeParts (keptQuantity s e.1 8) (l ++ [(4, 4, val.toNat)]))))) ∧
        (placeOf a.toNat = .nothing →
          exec (.snapshotRead m a) s = .next ((undecoded s m a.toNat 1).answer m 0) ∧
          exec (.registerWrite m a val) s = .next (undecoded s m a.toNat 1))) ∧
      (∀ (o : BitVec 28) x, outboundOff o.toNat = true → o.toNat % 4 = 0 → byBackplane m = false →
        exec (.outboundAccess m o x) s =
          .next (s.setBus { s.bus with outs := s.bus.outs ++ [⟨m, commonBase + o.toNat, x, s.tb0⟩] })) ∧
      (s.bus.outs = [] → exec .busGrantTimeout s = .next s ∧
        exec (.busGrantAtBgin (some val)) s = .next (s.setBus { s.bus with passed := true })) ∧
      (∀ x l, s.bus.outs = x :: l → x.m = .pcie ∨ x.m = .service →
        let t := s.setBus { s.bus with outs := l }
        let g := s.setBus { s.bus with outs := l, grant := none, passed := false, cycles := outCycles s x.addr x.write }
        (s.tb0 < x.at_ + 100000 → exec .busGrantTimeout s = .next s) ∧
        (x.at_ + 100000 ≤ s.tb0 → exec .busGrantTimeout s =
          .next (accessEnded (outFail t x.m x.addr 7 x.write.isSome) x.m x.addr x.write.isNone (.data 0xFFFFFFFF))) ∧
        exec (.busGrantAtBgin none) s =
          .next (accessEnded (outFail g x.m x.addr 6 x.write.isSome) x.m x.addr x.write.isNone (.data 0xFFFFFFFF)) ∧
        (x.m = .pcie → x.write = none → exec (.busGrantAtBgin (some val)) s =
          .next { g with pci := { g.pci with reply := g.pci.reply ++ leBytes 4 val.toNat } }) ∧
        (x.m = .pcie → x.write ≠ none → exec (.busGrantAtBgin (some val)) s = .next g)) ∧
      (s.held = [] → exec .activeViewHoldRelease s = .next { s with hold := false }) ∧
      (∀ h x, s.held = [x] → x.m = .pcie → x.write = none → s.activeHalf = some h → inActive x.addr = true →
        placeOf (viewBase h + (x.addr - activeBase)) = .words →
        let t : State := { s with hold := false, held := [] }
        let q := portRead t x.m (viewBase h + (x.addr - activeBase)) x.bytes
        exec .activeViewHoldRelease s = .next { q.2 with pci := { q.2.pci with reply := q.2.pci.reply ++ leBytes 4 q.1 } }))

/-- R424, R426 to R429: the endpoint answers no request while its link is down, its BARs are not programmed or it is in
D3hot; a poisoned write is discarded; BAR2 reaches DRAM byte by byte under the byte enables; BAR4 reads and writes the MSI-X
table. A reset of the endpoint masks the table and raises event 244. A change of the link sets PCIE_UP, with event 244. A
service datagram is answered with STATUS 4 while one runs, with the earlier reply where it repeats source and SEQ, and with
STATUS 3 where its form is wrong; a read of one word of DRAM returns it. -/
def Obligations.HostPorts : Prop :=
  ∀ (off : Word) (s : State),
    let b := BPI.addr
    let empty : State := { s with pci := { s.pci with reply := [] } }
    let openEp := s.flag b BPI.PCIE_UP = true ∧ s.pci.bars = true ∧ s.pci.d3hot = false
    (¬ openEp → ∀ bar en p,
      exec (.pcieRequest bar off en none p) s = .next empty ∧ ∀ d, exec (.pcieRequest bar off en (some d) p) s = .next s) ∧
    (∀ bar en d, exec (.pcieRequest bar off en (some d) true) s = .next s) ∧
    (openEp → off.toNat % 4 = 0 → off.toNat + 4 ≤ 2 ^ 32 →
      exec (.pcieRequest 1 off [true, true, true, true] none false) s =
        .next { s with pci := { s.pci with reply := s.memBytes off.toNat 4 } } ∧
      (∀ (x : Byte) l, exec (.pcieRequest 1 off [true] (some (x :: l)) false) s = .next (s.setByte off.toNat x)) ∧
      (∀ l, exec (.pcieRequest 1 off [false] (some l) false) s = .next s) ∧
      (off.toNat < 0x10000 → exec (.pcieRequest 2 off [true, true, true, true] none false) s =
        .next { s with pci := { s.pci with reply := leBytes 4 (bar4Read s off.toNat) } })) ∧
    (∀ perst d3, ∃ u, exec (.pcieReset perst d3) s = .next (raiseBoth u 244) ∧ u.pci.bars = false ∧ u.pci.d3hot = d3 ∧
      u.pci.pba = 0 ∧ u.pci.table = List.replicate 64 ⟨0, 0, true⟩ ∧ u.flag b BPI.MSIX_ON = false ∧
      u.flag b BPI.BME = false ∧ (perst = true → u.flag b BPI.PCIE_UP = false) ∧
      (perst = false → u.flag b BPI.PCIE_UP = s.flag b BPI.PCIE_UP) ∧ u.mem = s.mem ∧
      (∀ a, a = b + 0x200 ∨ a = b + 0x204 → u.word a = s.word a)) ∧
    (∀ width speed setup, strapLegacy s = true → ∀ up, exec (.pcieLinkStateChange up width speed setup) s = .next s) ∧
    (∀ width speed setup, strapLegacy s = false → s.flag b BPI.PCIE_UP = true →
      ∃ u, exec (.pcieLinkStateChange false width speed setup) s = .next (raiseBoth u 244) ∧ u.flag b BPI.PCIE_UP = false ∧
        u.fld b BPI.WIDTH = 0 ∧ u.fld b BPI.SPEED = 0 ∧ u.pci.bars = false ∧ u.mem = s.mem) ∧
    (∀ width speed setup, strapLegacy s = false → s.flag b BPI.PCIE_UP = false →
      ∃ u, exec (.pcieLinkStateChange true width speed setup) s = .next (raiseBoth u 244) ∧ u.flag b BPI.PCIE_UP = true ∧
        u.fld b BPI.WIDTH = width.toNat ∧ u.fld b BPI.SPEED = speed.toNat ∧ u.pci.bars = setup.bars ∧
        u.flag b BPI.BME = setup.bme ∧ u.mem = s.mem) ∧
    (∀ (src : BitVec 48) (d : List Byte),
      let r : SvcRun := ⟨src.toNat, bytesAt d 4 2, bytesAt d 1 1 % 4, 0, []⟩
      (serviceOpen s = false → exec (.serviceRequest src d) s = .next s) ∧
      (serviceOpen s = true → s.bus.svcBusy = true →
        exec (.serviceRequest src d) s = .next (s.setBus { s.bus with svcReply := some { r with status := 4 } })) ∧
      (serviceOpen s = true → s.bus.svcBusy = false →
        (∀ x, s.bus.svc = some x → x.src = r.src → x.seq = r.seq →
          exec (.serviceRequest src d) s = .next (s.setBus { s.bus with svcReply := some x })) ∧
        ((∀ x, s.bus.svc = some x → x.src ≠ r.src ∨ x.seq ≠ r.seq) → svcFormOk d = false →
          exec (.serviceRequest src d) s = .next (s.setBus { s.bus with
            svc := some { r with status := 3 }, svcReply := some { r with status := 3 } })) ∧
        ((∀ x, s.bus.svc = some x → x.src ≠ r.src ∨ x.seq ≠ r.seq) → svcFormOk d = true → bytesAt d 1 1 = 1 →
          bytesAt d 2 2 = 1 → placeOf (bytesAt d 8 8) = .bytes →
          let x := { r with data := [BitVec.ofNat 32 (bytesRead s (bytesAt d 8 8) 4)] }
          exec (.serviceRequest src d) s = .next (s.setBus { s.bus with
            svc := some x, svcReply := some x, svcBusy := false, svcTodo := [] }))))

/-- R9, R14, R418, R431, R432, R434, R438, R445 to R447, R457: with an input above 18 V and no hold-up, power good resets the
module, latches the straps and starts the sequence, which waits for a key (step 4, state 3), waits for the host where the
strap says so (state 4), or reads the key; a module reset resets the solver channels and then does the same with the straps,
the memories and the time kept. A key inserted raises event 11 and is read where the start waits for one; removal empties the
key space; a host GO takes the host image where the start waits for it, and refuses one that is not valid. Contacts that
differ from the straps are logged once. -/
def Obligations.StartSequence : Prop :=
  ∀ (straps : BitVec 14) (pa pb : Bool) (vx vp : BitVec 8) (rx rp : Bool) (id : BitVec 64) (cells : List (Nat × Byte))
    (s : State),
    let v := Nat.max (if rx then 0 else vx.toNat) (if rp then 0 else vp.toNat)
    let st := straps.toNat
    let old := s.fld MOD.addr MOD.STRAPS
    let begun := fun (x now : Nat) (u : State) =>
      u.fld MOD.addr MOD.STRAPS = x ∧ u.fld MOD.addr MOD.STEP = 4 ∧ u.fld MOD.addr MOD.NUM = x / 32 % 32 * 32 + x % 32 ∧
      u.flag BPI.addr BPI.SYSCTL = (bitOf x 10 || decide (x % 32 = 1)) ∧ u.tb0 = now ∧ u.image = none ∧
      u.halfA = .reset ∧ u.halfB = .reset
    (s.boot.holdup ≠ 0 ∨ v ≤ 72 → exec (.powerGood straps pa pb vx vp rx rp) s = .next s) ∧
    (s.boot.holdup = 0 → 72 < v →
      (st.testBit 12 = false → s.boot.key = none →
        ∃ t, exec (.powerGood straps pa pb vx vp rx rp) s = .next t ∧ begun st 0 t ∧ t.fld MOD.addr MOD.STATE = 3) ∧
      (st.testBit 12 = true →
        ∃ t, exec (.powerGood straps pa pb vx vp rx rp) s = .next t ∧ begun st 0 t ∧ t.fld MOD.addr MOD.STATE = 4) ∧
      (∀ i, st.testBit 12 = false → s.boot.key = some i →
        ∃ u, exec (.powerGood straps pa pb vx vp rx rp) s = .next (readKey u i) ∧ begun st 0 u)) ∧
    (s.canonical = true →
      let m := (solverReset (solverReset s .a) .b).mem
      (old.testBit 12 = false → s.boot.key = none →
        ∃ t, exec (.moduleReset pa pb) s = .next t ∧ begun old s.tb0 t ∧ t.fld MOD.addr MOD.STATE = 3 ∧ t.mem = m) ∧
      (old.testBit 12 = true →
        ∃ t, exec (.moduleReset pa pb) s = .next t ∧ begun old s.tb0 t ∧ t.fld MOD.addr MOD.STATE = 4 ∧ t.mem = m) ∧
      (∀ i, old.testBit 12 = false → s.boot.key = some i →
        ∃ u, exec (.moduleReset pa pb) s = .next (readKey u i) ∧ begun old s.tb0 u ∧ u.mem = m)) ∧
    (∃ w, w.boot = { s.boot with key := some id.toNat } ∧ w.regs = s.regs ∧ w.tb0 = s.tb0 ∧
      (s.canonical = true → cells = [] → ∀ a, keyBase ≤ a → a < keyBase + 0x10000000 → w.byte a = 0) ∧
      ((raiseBoth w 11).fld MOD.addr MOD.STATE ≠ 3 → exec (.keyInserted id cells) s = .next (raiseBoth w 11)) ∧
      ((raiseBoth w 11).fld MOD.addr MOD.STATE = 3 → exec (.keyInserted id cells) s = .next (readKey (raiseBoth w 11) id.toNat))) ∧
    (∃ w, exec .keyRemoved s = .next (raiseBoth w 11) ∧ w.boot = { s.boot with key := none } ∧ w.regs = s.regs ∧
      (s.canonical = true → ∀ a, w.byte a = if keyBase ≤ a ∧ a < keyBase + 0x10000000 then 0 else s.byte a)) ∧
    (s.fld MOD.addr MOD.STATE ≠ 4 → exec .hostGo s = .next s) ∧
    (s.fld MOD.addr MOD.STATE = 4 →
      let m := storeSlice s.mem (dramAddr .a 0x8000000) 0x8000000
      let t := s.setFld MOD.addr MOD.STATE 0
      exec .hostGo s = .next (if slotValid m && imageSound m then startImage t (m.filter (fun c => decide (c.1 < imgLen m))) true
        else unreadable t m)) ∧
    (old = st → exec (.strapCheck straps) s = .next s) ∧
    (∀ i, i < 14 → old = Nat.xor st (2 ^ i) →
      (bitOf s.boot.strapLogged i = true → exec (.strapCheck straps) s = .next s) ∧
      (bitOf s.boot.strapLogged i = false → exec (.strapCheck straps) s = .next (faultLog (s.setBoot
        { s.boot with strapLogged := Nat.lor s.boot.strapLogged (2 ^ i) }) 0xFF none none (some (2 ^ i)))))

/-- R438 to R440, R443: STAGE_DONE, COMMIT and a write through the key window are refused while a check or a commit runs,
during hold-up, and without the key read at start. A staging check gives result 4 where that key is gone, 2 for an image that
is not sound, 3 with its conflict records for one whose claims are refused, else 1 with its GEN and READY written, and event
12. A commit also needs an image in use, an active half and no newer ready image, and ends at once with result 4 where the
image to be written does not fit; its end writes the image, GEN and READY, or gives result 4. STAGE_CANCEL clears READY of a
newer image. A window write clears READY and stores its word. R9, R195, R204, R456 to R458, R462: below 16 V hold-up begins
once, with event 0, every safety group stopping, the key's work abandoned and the axes and the operating seconds put into
MRAM; at 0.1 ms the standby halves lose their rail and acquisition stops, at 6 ms the local outputs and CAN go off, at 20 ms
the safe outputs, and at 25 ms the module restarts or switches off. The return of the supply during hold-up raises event 1
only. A reversed input is shown. IO_LOW, an overload and an open wire raise 205, 205 and 206. -/
def Obligations.KeyAndSupply : Prop :=
  (∀ (off : BitVec 24) (w : Word) (ok : Bool) (s : State),
      let k := KEY.addr
      let m := slotCells s (otherSlot s)
      let use := m.filter (fun c => decide (c.1 < imgLen m))
      let idle := s.setBoot { s.boot with checking := false }
      let a := s.fld k KEY.PAGE * 0x1000000 + off.toNat / 4 * 4
      (keyRefuses s = true →
        exec .stageDone s = .next (s.setFld k KEY.STAGE_RESULT 4) ∧ exec .commit s = .next (s.setFld k KEY.COMMIT_RESULT 3) ∧
        exec (.keyWindowWrite off w) s = .next (s.setFld k KEY.WR_REFUSED 1)) ∧
      (keyRefuses s = false →
        exec .stageDone s = .next (s.setBoot { s.boot with checking := true }) ∧
        (s.image = none ∨ s.activeHalf = none → exec .commit s = .next (s.setFld k KEY.COMMIT_RESULT 3)) ∧
        (s.image ≠ none → s.activeHalf ≠ none → otherReady s = true →
          exec .commit s = .next (s.setFld k KEY.COMMIT_RESULT 2)) ∧
        (∀ h i, s.image = some i → s.activeHalf = some h → otherReady s = false → exec .commit s = .next
          (match commitImage s h i.cells with
          | none => raiseBoth (s.setFld k KEY.COMMIT_RESULT 4) 12
          | some x => (putReady s 0).setBoot { s.boot with commit := some x })) ∧
        (a / 0x8000000 ≠ otherSlot s ∨ a % 0x8000000 = 0x10 ∨ a % 0x8000000 = 0x28 →
          exec (.keyWindowWrite off w) s = .next (s.setFld k KEY.WR_REFUSED 1)) ∧
        (a / 0x8000000 = otherSlot s → a % 0x8000000 ≠ 0x10 → a % 0x8000000 ≠ 0x28 →
          exec (.keyWindowWrite off w) s = .next ((putReady s 0).setMemWord (keyBase + a) w))) ∧
      (s.boot.checking = false → exec .stageCheckComplete s = .next s) ∧
      (s.boot.checking = true →
        exec .stageCheckComplete s = .next (raiseBoth
          (if keySame s = false then idle.setFld k KEY.STAGE_RESULT 4
          else if imgHeaderOk m && imageSound m then
            if (claimCheck idle use).isEmpty then (finishSlot idle).setFld k KEY.STAGE_RESULT 1
            else (putConflicts idle (claimCheck idle use)).setFld k KEY.STAGE_RESULT 3
          else idle.setFld k KEY.STAGE_RESULT 2) 12)) ∧
      (s.boot.commit = none → exec (.commitComplete ok) s = .next s) ∧
      (∀ x, s.boot.commit = some x →
        let t := s.setBoot { s.boot with commit := none }
        ((ok && keySame s) = false → exec (.commitComplete ok) s = .next (raiseBoth (t.setFld k KEY.COMMIT_RESULT 4) 12)) ∧
        ((ok && keySame s) = true → ∃ u, exec (.commitComplete ok) s =
            .next (mramCount (raiseBoth ((finishSlot u).setFld k KEY.COMMIT_RESULT 1) 12) 3) ∧
          u.boot = t.boot ∧ u.regs = s.regs ∧
          (s.canonical = true → x = [] → ∀ b, u.byte b =
            if slotBase (otherSlot s) ≤ b ∧ b < slotBase (otherSlot s) + 0x8000000 then 0 else s.byte b))) ∧
      ((otherReady s && keySame s) = true → exec .stageCancel s = .next (putReady s 0)) ∧
      ((otherReady s && keySame s) = false → exec .stageCancel s = .next s)) ∧
  (∀ (vx vp : BitVec 8) (straps : BitVec 14) (pa pb p3 : Bool) (j : Fin 16) (g : Fin 6) (s : State),
      let p := PWR.addr
      let l := LIO.addr
      let q := putVolts s vx.toNat vp.toNat
      (s.boot.holdup ≠ 0 ∨ s.boot.off = true ∨ 64 ≤ supplyVolts q → exec (.brownOut vx vp) s = .next q) ∧
      (s.boot.holdup = 0 → s.boot.off = false → supplyVolts q < 64 →
        let r := abandonKey (islandHoldup (raiseBoth ((q.setFld p PWR.HOLDUP 1).setBoot { s.boot with holdup := 1 }) 0))
        let u := match r.activeHalf with
          | none => r
          | some h => axisRecords r h
        exec (.brownOut vx vp) s = .next (faultLog (countSeconds (mramCount u 1)) 0 u.activeHalf
          (some (b2n s.boot.checking + 2 * b2n s.boot.commit.isSome)) none)) ∧
      (s.boot.holdup ≠ 1 → exec .holdupStandbyOff s = .next s) ∧
      (s.boot.holdup = 1 → s.canonical = true → ∃ t, exec .holdupStandbyOff s = .next t ∧ t.boot = { s.boot with holdup := 2 } ∧
        (∀ h, (t.acq h).stopped = true ∧ (s.activeHalf ≠ some h →
          t.half h = { HalfState.reset with acq := { AcqUnit.reset with stopped := true } } ∧
          t.fld (HPWR.addr h) HPWR.RAIL_MV = 0)) ∧ t.activeHalf = s.activeHalf ∧ t.mem = s.mem) ∧
      (s.boot.holdup ≠ 2 → exec .holdupOutputsOff s = .next s) ∧
      (∀ t0, s.boot.holdup = 2 → s.isl.holdupAt = some t0 → ∃ t, exec .holdupOutputsOff s = .next t ∧
        t.boot = { s.boot with holdup := 3 } ∧ t.fld l LIO.OUT = 0 ∧
        (∀ h c, c < 4 → t.fld (CAN.addr h c) CAN.STATE = 0) ∧ t.tb0 = Nat.max s.tb0 (t0 + 6000000) ∧ t.mem = s.mem) ∧
      (s.boot.holdup ≠ 3 → exec .holdupSafeOutputsOff s = .next s) ∧
      (∀ t0, s.boot.holdup = 3 → s.isl.holdupAt = some t0 → ∃ u, exec .holdupSafeOutputsOff s = .next (driveOutputs u) ∧
        u.boot = { s.boot with holdup := 4 } ∧ u.isl = { s.isl with powerOff := true } ∧
        u.tb0 = Nat.max s.tb0 (t0 + 20000000) ∧ u.regs = s.regs ∧ u.mem = s.mem) ∧
      (s.boot.holdup ≠ 4 → exec (.holdupEnd vx vp straps pa pb) s = .next s) ∧
      (s.boot.holdup = 4 →
        (72 < supplyVolts q → exec (.holdupEnd vx vp straps pa pb) s =
          .next (powerOn q straps.toNat pa pb vx.toNat vp.toNat s.boot.supply.revX17 s.boot.supply.revP3)) ∧
        (supplyVolts q ≤ 72 → ∃ t, exec (.holdupEnd vx vp straps pa pb) s = .next t ∧ t.boot.off = true ∧
          t.mem = retained s.mem ∧ t.halfA = .reset ∧ t.halfB = .reset ∧ t.image = none)) ∧
      (s.boot.holdup = 0 → exec (.supplyReturn vx vp) s = .next q) ∧
      (s.boot.holdup ≠ 0 → exec (.supplyReturn vx vp) s = .next (raiseBoth q 1)) ∧
      (∃ t, exec (.supplyReversed p3) s = .next t ∧ t.flag p (if p3 then PWR.REV_P3 else PWR.REV_X17) = true ∧
        t.flag p (if p3 then PWR.REV_X17 else PWR.REV_P3) = (if p3 then s.boot.supply.revX17 else s.boot.supply.revP3) ∧
        t.mem = s.mem ∧ ∀ a, a ≠ p → t.word a = s.word a) ∧
      (s.boot.supply.ioLow = true → exec .ioSupplyLow s = .next s ∧
        ∃ u, exec .ioSupplyReturn s = .next (waitAll u) ∧ u.flag p PWR.IO_LOW = false ∧
          u.boot = { s.boot with supply := { s.boot.supply with ioLow := false } } ∧ u.mem = s.mem ∧ ∀ a, a ≠ p → u.word a = s.word a) ∧
      (s.boot.supply.ioLow = false → exec .ioSupplyReturn s = .next s ∧
        ∃ u, exec .ioSupplyLow s = .next (driveOutputs (raiseBoth u 205)) ∧ u.flag p PWR.IO_LOW = true ∧
          u.boot = { s.boot with supply := { s.boot.supply with ioLow := true } } ∧ u.mem = s.mem ∧ ∀ a, a ≠ p → u.word a = s.word a) ∧
      (∃ u, exec (.outputOverload j) s = .next (raiseBoth u 205) ∧ bitOf (u.fld l LIO.OUT_FAULT) j.val = true ∧
        bitOf u.boot.outLatched j.val = true ∧ bitOf (outputsOn u) j.val = false ∧ u.mem = s.mem) ∧
      (bitOf (s.fld l LIO.OW_EN) g.val = false → exec (.openWire g) s = .next s) ∧
      (bitOf (s.fld l LIO.OW_EN) g.val = true → ∃ u, exec (.openWire g) s = .next (raiseBoth u 206) ∧
        bitOf (u.fld l LIO.OPEN_WIRE) g.val = true ∧ u.fld l LIO.OUT_FAULT = s.fld l LIO.OUT_FAULT ∧ u.mem = s.mem))
end

