-- ==== Sys2Proof/Laws/Bits.lean ====
section
/-! SUPPORT. The laws of bit fields: what a field reads after it or another field of the same word is written. -/
namespace Sys2Proof.Machine

-- One theorem at a time: the stacks of many threads together exceed the memory the check allows.
set_option Elab.async false

theorem testBit_bitsOf (x hi lo i : Nat) : (bitsOf x hi lo).testBit i = (decide (i < hi + 1 - lo) && x.testBit (lo + i)) := by
  unfold bitsOf
  rw [Nat.testBit_mod_two_pow, Nat.testBit_div_two_pow, Nat.add_comm i lo]

theorem bitsOf_lt (x hi lo : Nat) : bitsOf x hi lo < 2 ^ (hi + 1 - lo) := Nat.mod_lt _ (Nat.two_pow_pos _)

/-- A word split at a field: what lies above it, the field, and what lies below. -/
theorem bits_split (x hi lo : Nat) :
    x = 2 ^ lo * (2 ^ (hi + 1 - lo) * (x / 2 ^ lo / 2 ^ (hi + 1 - lo)) + bitsOf x hi lo) + x % 2 ^ lo := by
  unfold bitsOf
  rw [Nat.div_add_mod, Nat.div_add_mod]

theorem setBits_eq (x hi lo v : Nat) :
    setBits x hi lo v =
      2 ^ lo * (2 ^ (hi + 1 - lo) * (x / 2 ^ lo / 2 ^ (hi + 1 - lo)) + v % 2 ^ (hi + 1 - lo)) + x % 2 ^ lo := by
  unfold setBits
  have h := bits_split x hi lo
  generalize x % 2 ^ lo = r at *
  generalize x / 2 ^ lo / 2 ^ (hi + 1 - lo) = q at *
  generalize bitsOf x hi lo = m at *
  rw [Nat.mul_add] at h ⊢
  omega

theorem testBit_setBits (x hi lo v i : Nat) :
    (setBits x hi lo v).testBit i =
      if lo ≤ i ∧ i < lo + (hi + 1 - lo) then v.testBit (i - lo) else x.testBit i := by
  rw [setBits_eq, Nat.testBit_two_pow_mul_add _ (Nat.mod_lt _ (Nat.two_pow_pos _)),
    Nat.testBit_two_pow_mul_add _ (Nat.mod_lt _ (Nat.two_pow_pos _))]
  by_cases h1 : i < lo
  · rw [if_pos h1, if_neg (by omega), Nat.testBit_mod_two_pow]
    simp [h1]
  · rw [if_neg h1]
    by_cases h2 : i - lo < hi + 1 - lo
    · rw [if_pos h2, if_pos (by omega), Nat.testBit_mod_two_pow]
      simp [h2]
    · rw [if_neg h2, if_neg (by omega), Nat.testBit_div_two_pow, Nat.testBit_div_two_pow]
      congr 1
      omega

/-- A field reads what was written to it, its higher bits dropped. -/
theorem bitsOf_setBits_same (x hi lo v : Nat) : bitsOf (setBits x hi lo v) hi lo = v % 2 ^ (hi + 1 - lo) := by
  apply Nat.eq_of_testBit_eq
  intro i
  rw [testBit_bitsOf, testBit_setBits, Nat.testBit_mod_two_pow]
  by_cases h : i < hi + 1 - lo
  · rw [if_pos (by omega)]
    simp [h]
  · simp [h]

/-- A field reads as before after a write of another field of the word. -/
theorem bitsOf_setBits_other (x hi lo v : Nat) {hi' lo' : Nat} (h : hi' < lo ∨ hi < lo') :
    bitsOf (setBits x hi lo v) hi' lo' = bitsOf x hi' lo' := by
  apply Nat.eq_of_testBit_eq
  intro i
  rw [testBit_bitsOf, testBit_bitsOf, testBit_setBits]
  by_cases h1 : i < hi' + 1 - lo'
  · rw [if_neg (by omega)]
  · simp [h1]

/-- A write of a field keeps a word within its width. -/
theorem setBits_lt {x hi lo v n : Nat} (hx : x < 2 ^ n) (h : hi < n) : setBits x hi lo v < 2 ^ n := by
  apply Nat.lt_pow_two_of_testBit
  intro i hi'
  rw [testBit_setBits]
  split
  · omega
  · exact Nat.testBit_lt_two_pow (lt_of_lt_of_le hx (Nat.pow_le_pow_right (by omega) hi'))

theorem bitOf_eq_testBit (x i : Nat) : bitOf x i = x.testBit i := by
  unfold bitOf
  rw [Nat.testBit_eq_decide_div_mod_eq]

theorem bitOf_setBit (x i j : Nat) (b : Bool) : bitOf (setBit x i b) j = if j = i then b else bitOf x j := by
  rw [bitOf_eq_testBit, bitOf_eq_testBit, setBit, testBit_setBits]
  by_cases h : j = i
  · subst h
    rw [if_pos (by omega), if_pos rfl, Nat.sub_self]
    cases b <;> rfl
  · rw [if_neg (by omega), if_neg h]

end Sys2Proof.Machine
end

