-- ==== Sys2Proof/Laws/Cores.lean ====
section
/-! SUPPORT. What the issue of each kind of computing instruction does. -/
namespace Sys2Proof.Machine

-- One theorem at a time: the stacks of many threads together exceed the memory the check allows.
set_option Elab.async false

/-- The moves are legal where no Y store names the C bus. -/
theorem legalMoves_eq {mv : Moves} (hm : legalMoves mv = true) : (mv.ye && mv.ys && mv.yc) = false := by
  unfold legalMoves at hm
  cases h : (mv.ye && mv.ys && mv.yc) with
  | false => rfl
  | true => rw [h] at hm; cases hm

/-- An ALU operation issues as its operation, its moves and the end of its slot: all an ALU instruction can do on a running
core (R300 to R302). -/
theorem issue_alu {s : State} {h : Half} {k : Nat} {mv : Moves} {o : AluOp} {cond dd sa sb : Nat}
    (hr : (s.core h k).runs = true) (hm : legalMoves mv = true)
    (hc : o = .sel → cond < 14) (ha : addpClash (.alu o cond dd sa sb) mv = none) :
    issue s h k (.alu o cond dd sa sb) mv =
      issued s h k (aluOp (s.core h k) o cond dd sa sb).1 mv (aluOp (s.core h k) o cond dd sa sb).2 := by
  have hm' := legalMoves_eq hm
  have hf : issueFault (s.core h k) (.alu o cond dd sa sb) mv = none := by
    unfold issueFault
    rw [hm']
    cases o <;> simp
    exact hc rfl
  simp only [issue, hr, hf, ha, Bool.not_true, Bool.false_eq_true, if_false, issueEnd, issued, twoSlots]

/-- An immediate instruction issues as its operation and the end of its slot. -/
theorem issue_imm {s : State} {h : Half} {k : Nat} {o : ImmOp} {r : Nat} {i : Word}
    (hr : (s.core h k).runs = true) (hc : o = .ldi → regExists r = true) :
    issue s h k (.imm o r i) noMoves =
      issued s h k (immOp (s.core h k) o r i).1 noMoves (immOp (s.core h k) o r i).2 := by
  have hf : issueFault (s.core h k) (.imm o r i) noMoves = none := by
    unfold issueFault
    cases o <;> simp [noMoves]
    exact hc rfl
  simp only [issue, hr, hf, Bool.not_true, Bool.false_eq_true, if_false, issueEnd, addpClash, issued, twoSlots]

/-- A MAC-family instruction issues as its accumulator writes, its moves and the end of its slot. -/
theorem issue_mac {s : State} {h : Half} {k : Nat} {mv : Moves} {o : MacOp} {aa ab sa sb sc sd : Nat}
    (hr : (s.core h k).runs = true) (hm : legalMoves mv = true) :
    issue s h k (.mac o aa ab sa sb sc sd) mv =
      issued s h k (macOp (s.core h k) o aa ab sa sb sc sd).1 mv (macOp (s.core h k) o aa ab sa sb sc sd).2 := by
  have hm' := legalMoves_eq hm
  have hf : issueFault (s.core h k) (.mac o aa ab sa sb sc sd) mv = none := by
    unfold issueFault; rw [hm']; simp
  simp only [issue, hr, hf, Bool.not_true, Bool.false_eq_true, if_false, issueEnd, addpClash, issued, twoSlots]

/-- A floating accumulation issues as its results, its moves and the end of its slot. -/
theorem issue_pair {s : State} {h : Half} {k : Nat} {mv : Moves} {o : PairOp} {t sa sb sc sd : Nat}
    (hr : (s.core h k).runs = true) (hm : legalMoves mv = true) :
    issue s h k (.pair o t sa sb sc sd) mv =
      issued s h k (s.core h k) mv (pairOp (s.core h k) o t sa sb sc sd) := by
  have hm' := legalMoves_eq hm
  have hf : issueFault (s.core h k) (.pair o t sa sb sc sd) mv = none := by
    unfold issueFault; rw [hm']; simp
  simp only [issue, hr, hf, Bool.not_true, Bool.false_eq_true, if_false, issueEnd, addpClash, issued, twoSlots]

/-- NOP issues as its moves and the end of its slot. -/
theorem issue_nop {s : State} {h : Half} {k : Nat} {mv : Moves}
    (hr : (s.core h k).runs = true) (hm : legalMoves mv = true) :
    issue s h k .nop mv = issued s h k (s.core h k) mv [] := by
  have hm' := legalMoves_eq hm
  have hf : issueFault (s.core h k) .nop mv = none := by
    unfold issueFault; rw [hm']; simp
  simp only [issue, hr, hf, Bool.not_true, Bool.false_eq_true, if_false, issueEnd, addpClash, issued, twoSlots]

/-- ISAT rises where saturation changes the value. -/
theorem isat_eq (i : Int) : isatBit (ovfS 32 i) = if satS 32 i = i then 0 else 2 ^ 5 := by
  by_cases h : satS 32 i = i <;> simp [isatBit, ovfS, h]

end Sys2Proof.Machine
end

