-- ==== Sys2Proof/Laws/Store.lean ====
section
/-! SUPPORT. The laws of the sparse stores: what is read after a write, a removal or a clearing, and that each keeps the
addresses rising and the canonical form. -/
namespace Sys2Proof.Machine

-- One theorem at a time: the stacks of many threads together exceed the memory the check allows.
set_option Elab.async false

/-! Reading what is listed. -/

theorem storeFind_put_same {n : Nat} (m : List (Nat × BitVec n)) (a : Nat) (v : BitVec n) :
    storeFind (storePut m a v) a = some v := by
  induction m with
  | nil => simp [storePut, storeFind]
  | cons c t ih =>
    obtain ⟨b, w⟩ := c
    simp only [storePut]
    split
    · simp [storeFind]
    · split
      · simp [storeFind]
      · simp only [storeFind]
        rw [if_neg (by omega), if_neg (by omega), ih]

theorem storeFind_put_other {n : Nat} (m : List (Nat × BitVec n)) {a x : Nat} (v : BitVec n) (h : x ≠ a) :
    storeFind (storePut m a v) x = storeFind m x := by
  induction m with
  | nil =>
    simp only [storePut, storeFind]
    split <;> simp [h]
  | cons c t ih =>
    obtain ⟨b, w⟩ := c
    simp only [storePut]
    split
    · simp only [storeFind]
      by_cases h1 : x < a
      · have h2 : x < b := by omega
        rw [if_pos h1, if_pos h2]
      · rw [if_neg h1, if_neg h]
    · split
      · rename_i h1 h2
        subst h2
        simp only [storeFind, if_neg h]
      · simp only [storeFind, ih]

theorem storeGet_eq_find {n : Nat} (d : BitVec n) (m : List (Nat × BitVec n)) (a : Nat) :
    storeGet d m a = (storeFind m a).getD d := by
  induction m with
  | nil => rfl
  | cons c t ih =>
    obtain ⟨b, w⟩ := c
    simp only [storeGet, storeFind]
    split
    · rfl
    · split
      · rfl
      · exact ih

theorem storeGet_put_same {n : Nat} (d : BitVec n) (m : List (Nat × BitVec n)) (a : Nat) (v : BitVec n) :
    storeGet d (storePut m a v) a = v := by
  rw [storeGet_eq_find, storeFind_put_same]; rfl

theorem storeGet_put_other {n : Nat} (d : BitVec n) (m : List (Nat × BitVec n)) {a x : Nat} (v : BitVec n) (h : x ≠ a) :
    storeGet d (storePut m a v) x = storeGet d m x := by
  rw [storeGet_eq_find, storeGet_eq_find, storeFind_put_other m v h]

/-! Rising addresses. -/

theorem storeAbove_mono {n : Nat} {lo lo' : Nat} (h : lo' ≤ lo) {m : List (Nat × BitVec n)} (hm : storeAbove lo m = true) :
    storeAbove lo' m = true := by
  cases m with
  | nil => rfl
  | cons c t =>
    simp only [storeAbove, Bool.and_eq_true, decide_eq_true_eq] at hm ⊢
    exact ⟨by omega, hm.2⟩

theorem storeAbove_put {n : Nat} {lo a : Nat} (h : lo ≤ a) {m : List (Nat × BitVec n)} (v : BitVec n)
    (hm : storeAbove lo m = true) : storeAbove lo (storePut m a v) = true := by
  induction m generalizing lo with
  | nil => simp [storePut, storeAbove, h]
  | cons c t ih =>
    obtain ⟨b, w⟩ := c
    simp only [storeAbove, Bool.and_eq_true, decide_eq_true_eq] at hm
    simp only [storePut]
    split
    · simp only [storeAbove, Bool.and_eq_true, decide_eq_true_eq]
      exact ⟨h, by omega, hm.2⟩
    · split
      · subst_vars
        simp only [storeAbove, Bool.and_eq_true, decide_eq_true_eq]
        exact ⟨h, hm.2⟩
      · simp only [storeAbove, Bool.and_eq_true, decide_eq_true_eq]
        exact ⟨hm.1, ih (by omega) hm.2⟩

theorem storeAbove_drop {n : Nat} {lo : Nat} (a : Nat) {m : List (Nat × BitVec n)}
    (hm : storeAbove lo m = true) : storeAbove lo (storeDrop m a) = true := by
  induction m generalizing lo with
  | nil => rfl
  | cons c t ih =>
    obtain ⟨b, w⟩ := c
    simp only [storeAbove, Bool.and_eq_true, decide_eq_true_eq] at hm
    simp only [storeDrop]
    split
    · simp only [storeAbove, Bool.and_eq_true, decide_eq_true_eq]
      exact hm
    · split
      · exact storeAbove_mono (by omega) hm.2
      · simp only [storeAbove, Bool.and_eq_true, decide_eq_true_eq]
        exact ⟨hm.1, ih hm.2⟩

theorem storeAbove_filter {n : Nat} {lo : Nat} (f : Nat × BitVec n → Bool) {m : List (Nat × BitVec n)}
    (hm : storeAbove lo m = true) : storeAbove lo (m.filter f) = true := by
  induction m generalizing lo with
  | nil => rfl
  | cons c t ih =>
    obtain ⟨b, w⟩ := c
    simp only [storeAbove, Bool.and_eq_true, decide_eq_true_eq] at hm
    rw [List.filter_cons]
    split
    · simp only [storeAbove, Bool.and_eq_true, decide_eq_true_eq]
      exact ⟨hm.1, ih hm.2⟩
    · exact storeAbove_mono (by omega) (ih hm.2)

theorem storeSorted_put {n : Nat} {m : List (Nat × BitVec n)} (a : Nat) (v : BitVec n) (hm : storeSorted m = true) :
    storeSorted (storePut m a v) = true :=
  storeAbove_put (Nat.zero_le a) v hm

theorem storeSorted_filter {n : Nat} {m : List (Nat × BitVec n)} (f : Nat × BitVec n → Bool) (hm : storeSorted m = true) :
    storeSorted (m.filter f) = true :=
  storeAbove_filter f hm

/-- An address below every listed one is not listed. -/
theorem storeFind_above {n : Nat} {lo a : Nat} (h : a < lo) {m : List (Nat × BitVec n)} (hm : storeAbove lo m = true) :
    storeFind m a = none := by
  cases m with
  | nil => rfl
  | cons c t =>
    simp only [storeAbove, Bool.and_eq_true, decide_eq_true_eq] at hm
    simp only [storeFind]
    rw [if_pos (by omega)]

theorem storeFind_drop_same {n : Nat} {lo : Nat} (a : Nat) {m : List (Nat × BitVec n)} (hm : storeAbove lo m = true) :
    storeFind (storeDrop m a) a = none := by
  induction m generalizing lo with
  | nil => rfl
  | cons c t ih =>
    obtain ⟨b, w⟩ := c
    simp only [storeAbove, Bool.and_eq_true, decide_eq_true_eq] at hm
    simp only [storeDrop]
    split
    · simp only [storeFind]
      rw [if_pos (by assumption)]
    · split
      · subst_vars
        exact storeFind_above (by omega) hm.2
      · simp only [storeFind]
        rw [if_neg (by assumption), if_neg (by assumption), ih hm.2]

theorem storeFind_drop_other {n : Nat} {lo : Nat} {a x : Nat} (h : x ≠ a) {m : List (Nat × BitVec n)}
    (hm : storeAbove lo m = true) : storeFind (storeDrop m a) x = storeFind m x := by
  induction m generalizing lo with
  | nil => rfl
  | cons c t ih =>
    obtain ⟨b, w⟩ := c
    simp only [storeAbove, Bool.and_eq_true, decide_eq_true_eq] at hm
    simp only [storeDrop]
    split
    · rfl
    · split
      · rename_i h1 h2
        subst h2
        simp only [storeFind, if_neg h]
        split
        · exact storeFind_above (by omega) hm.2
        · rfl
      · simp only [storeFind, ih hm.2]

/-- A store filtered by address: what the filter keeps reads as before, the rest is not listed. -/
theorem storeFind_filter {n : Nat} {lo : Nat} (p : Nat → Bool) (a : Nat) {m : List (Nat × BitVec n)}
    (hm : storeAbove lo m = true) :
    storeFind (m.filter (fun c => p c.1)) a = if p a then storeFind m a else none := by
  induction m generalizing lo with
  | nil => simp [storeFind]
  | cons c t ih =>
    obtain ⟨b, w⟩ := c
    simp only [storeAbove, Bool.and_eq_true, decide_eq_true_eq] at hm
    rw [List.filter_cons]
    by_cases hb : p b = true
    · rw [if_pos hb]
      simp only [storeFind, ih hm.2]
      split
      · simp
      · split
        · subst_vars; simp [hb]
        · rfl
    · rw [if_neg hb, ih hm.2]
      simp only [storeFind]
      by_cases h1 : a < b
      · rw [if_pos h1, storeFind_above (by omega) hm.2]
      · rw [if_neg h1]
        by_cases h2 : a = b
        · subst h2; simp [hb]
        · rw [if_neg h2]

/-! The canonical form. -/

theorem storeWf_sorted {n : Nat} {d : BitVec n} {m : List (Nat × BitVec n)} (hm : storeWf d m = true) : storeSorted m = true := by
  simp only [storeWf, Bool.and_eq_true] at hm; exact hm.1

theorem mem_storePut {n : Nat} {m : List (Nat × BitVec n)} {a : Nat} {v : BitVec n} {c : Nat × BitVec n}
    (hc : c ∈ storePut m a v) : c = (a, v) ∨ c ∈ m := by
  induction m with
  | nil => simpa [storePut] using hc
  | cons e t ih =>
    obtain ⟨b, w⟩ := e
    simp only [storePut] at hc
    split at hc
    · simpa using hc
    · split at hc
      · rcases List.mem_cons.1 hc with h | h
        · exact .inl h
        · exact .inr (List.mem_cons_of_mem _ h)
      · rcases List.mem_cons.1 hc with h | h
        · exact .inr (by rw [h]; exact List.mem_cons_self)
        · rcases ih h with h | h
          · exact .inl h
          · exact .inr (List.mem_cons_of_mem _ h)

theorem mem_storeDrop {n : Nat} {m : List (Nat × BitVec n)} {a : Nat} {c : Nat × BitVec n}
    (hc : c ∈ storeDrop m a) : c ∈ m := by
  induction m with
  | nil => exact hc
  | cons e t ih =>
    obtain ⟨b, w⟩ := e
    simp only [storeDrop] at hc
    split at hc
    · exact hc
    · split at hc
      · exact List.mem_cons_of_mem _ hc
      · rcases List.mem_cons.1 hc with h | h
        · rw [h]; exact List.mem_cons_self
        · exact List.mem_cons_of_mem _ (ih h)

/-- A write keeps the canonical form. -/
theorem storeWf_set {n : Nat} {d : BitVec n} {m : List (Nat × BitVec n)} (a : Nat) (v : BitVec n) (hm : storeWf d m = true) :
    storeWf d (storeSet d m a v) = true := by
  simp only [storeWf, Bool.and_eq_true, List.all_eq_true, decide_eq_true_eq] at hm ⊢
  unfold storeSet
  split
  · exact ⟨storeAbove_drop a hm.1, fun c hc => hm.2 c (mem_storeDrop hc)⟩
  · refine ⟨storeSorted_put a v hm.1, fun c hc => ?_⟩
    rcases mem_storePut hc with h | h
    · rw [h]; assumption
    · exact hm.2 c h

/-- A filter keeps the canonical form. -/
theorem storeWf_filter {n : Nat} {d : BitVec n} {m : List (Nat × BitVec n)} (f : Nat × BitVec n → Bool)
    (hm : storeWf d m = true) : storeWf d (m.filter f) = true := by
  simp only [storeWf, Bool.and_eq_true, List.all_eq_true, decide_eq_true_eq] at hm ⊢
  exact ⟨storeAbove_filter f hm.1, fun c hc => hm.2 c (List.mem_of_mem_filter hc)⟩

/-- The clearing of a range keeps the canonical form. -/
theorem storeWf_clear {n : Nat} {d : BitVec n} {m : List (Nat × BitVec n)} (lo len : Nat) (hm : storeWf d m = true) :
    storeWf d (storeClear m lo len) = true :=
  storeWf_filter _ hm

/-- Reading after a write at the same address. -/
theorem storeGet_set_same {n : Nat} {d : BitVec n} {m : List (Nat × BitVec n)} (a : Nat) (v : BitVec n)
    (hm : storeSorted m = true) : storeGet d (storeSet d m a v) a = v := by
  unfold storeSet
  split
  · subst_vars
    rw [storeGet_eq_find, storeFind_drop_same a hm]; rfl
  · exact storeGet_put_same d m a v

/-- Reading after a write at another address. -/
theorem storeGet_set_other {n : Nat} {d : BitVec n} {m : List (Nat × BitVec n)} {a x : Nat} (v : BitVec n) (h : x ≠ a)
    (hm : storeSorted m = true) : storeGet d (storeSet d m a v) x = storeGet d m x := by
  unfold storeSet
  split
  · rw [storeGet_eq_find, storeGet_eq_find, storeFind_drop_other h hm]
  · exact storeGet_put_other d m v h

/-- Reading after a range has been cleared. -/
theorem storeGet_clear {n : Nat} {d : BitVec n} {m : List (Nat × BitVec n)} (lo len a : Nat) (hm : storeSorted m = true) :
    storeGet d (storeClear m lo len) a = if lo ≤ a ∧ a < lo + len then d else storeGet d m a := by
  have h := storeFind_filter (fun b => !(decide (lo ≤ b) && decide (b < lo + len))) a hm
  rw [storeGet_eq_find, storeGet_eq_find]
  unfold storeClear
  rw [h]
  by_cases h1 : lo ≤ a <;> by_cases h2 : a < lo + len <;> simp [h1, h2]

end Sys2Proof.Machine
end

