-- ==== Sys2Proof/Laws/KeepsBase.lean ====
section
/-! SUPPORT. What the operations keep: the named operations, the scheduler, the fault log, the time base and the acquisition unit. Where P is closed under
the stores' writes, each operation that takes a state with P answers one with P. -/
set_option maxRecDepth 20000
namespace Sys2Proof.Machine

-- One theorem at a time: the stacks of many threads together exceed the memory the check allows.
set_option Elab.async false

/-- What every named operation keeps: P survives a write of a register or of a byte of memory, the clearing of a range of
either, and any change of the other fields but the queue. -/
structure Closed (P : State → Prop) : Prop where
  put : ∀ (s : State) (a : Nat) (w : Word), P s → P { s with regs := storePut s.regs a w }
  drop : ∀ (s : State) (lo n : Nat), P s → P { s with regs := storeClear s.regs lo n }
  byte : ∀ (s : State) (a : Nat) (v : Byte), P s → P { s with mem := storeSet 0 s.mem a v }
  wipe : ∀ (s : State) (lo n : Nat), P s → P { s with mem := storeClear s.mem lo n }
  keepRegs : ∀ (s : State) (f : Nat × Word → Bool), P s → P { s with regs := s.regs.filter f }
  keepMem : ∀ (s : State) (f : Host.Cell → Bool), P s → P { s with mem := s.mem.filter f }
  other : ∀ (s : State) (image sect cfg sectCfg isl pen former canHold hlDrive tb0 onMonitor halfA halfB pci boot bus hold held
    readData freeIdx), P s → P ⟨s.regs, s.mem, image, sect, cfg, sectCfg, isl, pen, former, canHold, hlDrive, tb0, onMonitor,
      halfA, halfB, pci, boot, bus, hold, held, readData, freeIdx, s.pending⟩

theorem keeps_foldl {P : State → Prop} {α : Type} (f : State → α → State) (h : ∀ s x, P s → P (f s x)) :
    ∀ (l : List α) (s : State), P s → P (l.foldl f s) := by
  intro l
  induction l with
  | nil => intro s hs; exact hs
  | cons x l ih => intro s hs; exact ih _ (h s x hs)

theorem keeps_pair2 {P : State → Prop} {α : Type} {p : α × State} {r : α} {u : State} (e : p = (r, u)) (h : P p.2) : P u := by
  rw [e] at h; exact h

theorem keeps_pair1 {P : State → Prop} {α : Type} {p : State × α} {r : α} {u : State} (e : p = (u, r)) (h : P p.1) : P u := by
  rw [e] at h; exact h

theorem keeps_pair22 {P : State → Prop} {α β : Type} {p : α × β × State} {r : α} {q : β} {u : State} (e : p = (r, q, u))
    (h : P p.2.2) : P u := by
  rw [e] at h; exact h

theorem keeps_ite {P : State → Prop} {c : Prop} [Decidable c] {a b : State} (ha : P a) (hb : P b) : P (if c then a else b) := by
  split
  · exact ha
  · exact hb

theorem keeps_ite2 {P : State → Prop} {c : Prop} [Decidable c] {α : Type} {a b : α × State} (ha : P a.2) (hb : P b.2) :
    P (if c then a else b).2 := by
  split
  · exact ha
  · exact hb

theorem keeps_ite1 {P : State → Prop} {c : Prop} [Decidable c] {α : Type} {a b : State × α} (ha : P a.1) (hb : P b.1) :
    P (if c then a else b).1 := by
  split
  · exact ha
  · exact hb

theorem keeps_foldl1 {P : State → Prop} {α β : Type} (f : State × β → α → State × β) (h : ∀ s x, P s.1 → P (f s x).1) :
    ∀ (l : List α) (s : State × β), P s.1 → P (l.foldl f s).1 := by
  intro l
  induction l with
  | nil => intro s hs; exact hs
  | cons x l ih => intro s hs; exact ih _ (h s x hs)

/-- The canonical form of the stores is closed. -/
theorem canonical_closed : Closed (fun s => s.canonical = true) := by
  have key : ∀ {s : State}, s.canonical = true ↔ storeSorted s.regs = true ∧ Memory.wf s.mem = true := by
    intro s; unfold State.canonical; exact Bool.and_eq_true_iff
  constructor
  · intro s a w h; exact key.mpr ⟨storeSorted_put a w (key.mp h).1, (key.mp h).2⟩
  · intro s lo n h; exact key.mpr ⟨storeSorted_filter _ (key.mp h).1, (key.mp h).2⟩
  · intro s a v h; exact key.mpr ⟨(key.mp h).1, storeWf_set a v (key.mp h).2⟩
  · intro s lo n h; exact key.mpr ⟨(key.mp h).1, storeWf_clear lo n (key.mp h).2⟩
  · intro s f h; exact key.mpr ⟨storeSorted_filter f (key.mp h).1, (key.mp h).2⟩
  · intro s f h; exact key.mpr ⟨(key.mp h).1, storeWf_filter f (key.mp h).2⟩
  · intros; assumption

/-- A queue that stands is closed: no operation writes it. -/
theorem pending_closed (q : List Instr) : Closed (fun s => s.pending = q) := by
  constructor <;> intros <;> assumption

theorem State.setWord_keeps {P : State → Prop} (hP : Closed P) (s : State) (a : ℕ) (w : Word) (hs : P s) :
    P (State.setWord s a w) := by
  unfold State.setWord
  repeat' first
    | with_reducible assumption
    | (extract_lets +onlyGivenNames y; refine (fun (_ : P y) => ?_) ?_; (on_goal 1 => clear_value y); (on_goal 2 => subst y))
    | (extract_lets +onlyGivenNames y; clear_value y) | with_reducible apply hP.put

theorem State.setWordN_keeps {P : State → Prop} (hP : Closed P) (s : State) (a : ℕ) (v : ℕ) (hs : P s) :
    P (State.setWordN s a v) := by
  unfold State.setWordN
  repeat' first | with_reducible assumption | with_reducible apply State.setWord_keeps hP

theorem State.setQuad_keeps {P : State → Prop} (hP : Closed P) (s : State) (a : ℕ) (v : ℕ) (hs : P s) :
    P (State.setQuad s a v) := by
  unfold State.setQuad
  repeat' first | with_reducible assumption | with_reducible apply State.setWordN_keeps hP

theorem State.setFld_keeps {P : State → Prop} (hP : Closed P) (s : State) (base : ℕ) (f : Fld) (v : ℕ) (hs : P s) :
    P (State.setFld s base f v) := by
  unfold State.setFld
  repeat' first
    | with_reducible assumption | with_reducible apply State.setWordN_keeps hP
    | with_reducible apply State.setQuad_keeps hP | with_reducible apply keeps_ite

theorem State.setFldS_keeps {P : State → Prop} (hP : Closed P) (s : State) (base : ℕ) (f : Fld) (i : ℤ) (hs : P s) :
    P (State.setFldS s base f i) := by
  unfold State.setFldS
  repeat' first | with_reducible assumption | with_reducible apply State.setFld_keeps hP

theorem State.setFlag_keeps {P : State → Prop} (hP : Closed P) (s : State) (base : ℕ) (f : Fld) (hs : P s) :
    P (State.setFlag s base f) := by
  unfold State.setFlag
  repeat' first | with_reducible assumption | with_reducible apply State.setFld_keeps hP

theorem State.putFlag_keeps {P : State → Prop} (hP : Closed P) (s : State) (base : ℕ) (f : Fld) (b : Bool) (hs : P s) :
    P (State.putFlag s base f b) := by
  unfold State.putFlag
  repeat' first | with_reducible assumption | with_reducible apply State.setFld_keeps hP

theorem State.flagIf_keeps {P : State → Prop} (hP : Closed P) (s : State) (c : Bool) (base : ℕ) (f : Fld) (hs : P s) :
    P (State.flagIf s c base f) := by
  unfold State.flagIf
  repeat' first
    | with_reducible assumption | with_reducible apply State.setFlag_keeps hP | with_reducible apply keeps_ite

theorem State.countBy_keeps {P : State → Prop} (hP : Closed P) (s : State) (base : ℕ) (f : Fld) (k : ℕ) (hs : P s) :
    P (State.countBy s base f k) := by
  unfold State.countBy
  repeat' first | with_reducible assumption | with_reducible apply State.setFld_keeps hP

theorem State.count_keeps {P : State → Prop} (hP : Closed P) (s : State) (base : ℕ) (f : Fld) (hs : P s) :
    P (State.count s base f) := by
  unfold State.count
  repeat' first | with_reducible assumption | with_reducible apply State.countBy_keeps hP

theorem State.countIf_keeps {P : State → Prop} (hP : Closed P) (s : State) (c : Bool) (base : ℕ) (f : Fld) (hs : P s) :
    P (State.countIf s c base f) := by
  unfold State.countIf
  repeat' first
    | with_reducible assumption | with_reducible apply State.count_keeps hP | with_reducible apply keeps_ite

theorem State.resetRegs_keeps {P : State → Prop} (hP : Closed P) (s : State) (lo : ℕ) (len : ℕ) (hs : P s) :
    P (State.resetRegs s lo len) := by
  unfold State.resetRegs
  repeat' first
    | with_reducible assumption
    | (extract_lets +onlyGivenNames y; refine (fun (_ : P y) => ?_) ?_; (on_goal 1 => clear_value y); (on_goal 2 => subst y))
    | (extract_lets +onlyGivenNames y; clear_value y) | with_reducible apply hP.put | with_reducible apply hP.byte
    | with_reducible apply hP.drop

theorem State.setMapBit_keeps {P : State → Prop} (hP : Closed P) (s : State) (a : ℕ) (i : ℕ) (b : Bool) (hs : P s) :
    P (State.setMapBit s a i b) := by
  unfold State.setMapBit
  repeat' first | with_reducible assumption | with_reducible apply State.setWordN_keeps hP

theorem State.setByte_keeps {P : State → Prop} (hP : Closed P) (s : State) (a : ℕ) (v : Byte) (hs : P s) :
    P (State.setByte s a v) := by
  unfold State.setByte
  repeat' first
    | with_reducible assumption
    | (extract_lets +onlyGivenNames y; refine (fun (_ : P y) => ?_) ?_; (on_goal 1 => clear_value y); (on_goal 2 => subst y))
    | (extract_lets +onlyGivenNames y; clear_value y) | with_reducible apply hP.put | with_reducible apply hP.byte

theorem State.setMemWord_keeps {P : State → Prop} (hP : Closed P) (s : State) (a : ℕ) (w : Word) (hs : P s) :
    P (State.setMemWord s a w) := by
  unfold State.setMemWord
  repeat' first | with_reducible assumption | with_reducible apply State.setByte_keeps hP

theorem State.setMemN_keeps {P : State → Prop} (hP : Closed P) (s : State) (a : ℕ) (v : ℕ) (hs : P s) :
    P (State.setMemN s a v) := by
  unfold State.setMemN
  repeat' first | with_reducible assumption | with_reducible apply State.setMemWord_keeps hP

theorem State.setMemQuad_keeps {P : State → Prop} (hP : Closed P) (s : State) (a : ℕ) (v : ℕ) (hs : P s) :
    P (State.setMemQuad s a v) := by
  unfold State.setMemQuad
  repeat' first | with_reducible assumption | with_reducible apply State.setMemN_keeps hP

theorem State.setMemWords_keeps {P : State → Prop} (hP : Closed P) (s : State) (a : ℕ) (x2 : List Word) (hs : P s) :
    P (State.setMemWords s a x2) := by
  induction x2 generalizing s a with
  | nil =>
    unfold State.setMemWords
    repeat' first | with_reducible assumption
  | cons z0 l0 ih =>
    unfold State.setMemWords
    repeat' first
      | with_reducible assumption | with_reducible apply ih | with_reducible apply State.setMemWord_keeps hP

theorem State.setMemBytes_keeps {P : State → Prop} (hP : Closed P) (s : State) (a : ℕ) (x2 : List Byte) (hs : P s) :
    P (State.setMemBytes s a x2) := by
  induction x2 generalizing s a with
  | nil =>
    unfold State.setMemBytes
    repeat' first | with_reducible assumption
  | cons z0 l0 ih =>
    unfold State.setMemBytes
    repeat' first | with_reducible assumption | with_reducible apply ih | with_reducible apply State.setByte_keeps hP

theorem State.setWords_keeps {P : State → Prop} (hP : Closed P) (s : State) (a : ℕ) (x2 : List Word) (hs : P s) :
    P (State.setWords s a x2) := by
  induction x2 generalizing s a with
  | nil =>
    unfold State.setWords
    repeat' first | with_reducible assumption
  | cons z0 l0 ih =>
    unfold State.setWords
    repeat' first | with_reducible assumption | with_reducible apply ih | with_reducible apply State.setWord_keeps hP

theorem State.setHalf_keeps {P : State → Prop} (hP : Closed P) (s : State) (h : Half) (x : HalfState) (hs : P s) :
    P (State.setHalf s h x) := by
  unfold State.setHalf
  repeat' first
    | with_reducible assumption
    | (extract_lets +onlyGivenNames y; refine (fun (_ : P y) => ?_) ?_; (on_goal 1 => clear_value y); (on_goal 2 => subst y))
    | (extract_lets +onlyGivenNames y; clear_value y) | split | with_reducible apply hP.put
    | with_reducible apply hP.byte | with_reducible apply hP.drop | with_reducible apply hP.wipe
    | with_reducible apply hP.keepRegs | with_reducible apply hP.keepMem | with_reducible apply hP.other

theorem State.onHalf_keeps {P : State → Prop} (hP : Closed P) (s : State) (h : Half) (f : HalfState → HalfState) (hs : P s) :
    P (State.onHalf s h f) := by
  unfold State.onHalf
  repeat' first | with_reducible assumption | with_reducible apply State.setHalf_keeps hP

theorem State.setCore_keeps {P : State → Prop} (hP : Closed P) (s : State) (h : Half) (k : ℕ) (c : CoreUnit) (hs : P s) :
    P (State.setCore s h k c) := by
  unfold State.setCore
  repeat' first
    | with_reducible assumption
    | (extract_lets +onlyGivenNames y; refine (fun (_ : P y) => ?_) ?_; (on_goal 1 => clear_value y); (on_goal 2 => subst y))
    | (extract_lets +onlyGivenNames y; clear_value y) | with_reducible apply State.onHalf_keeps hP

theorem State.setSched_keeps {P : State → Prop} (hP : Closed P) (s : State) (h : Half) (u : SchedUnit) (hs : P s) :
    P (State.setSched s h u) := by
  unfold State.setSched
  repeat' first
    | with_reducible assumption
    | (extract_lets +onlyGivenNames y; refine (fun (_ : P y) => ?_) ?_; (on_goal 1 => clear_value y); (on_goal 2 => subst y))
    | (extract_lets +onlyGivenNames y; clear_value y) | with_reducible apply State.onHalf_keeps hP

theorem State.setTime_keeps {P : State → Prop} (hP : Closed P) (s : State) (h : Half) (u : TimeUnit) (hs : P s) :
    P (State.setTime s h u) := by
  unfold State.setTime
  repeat' first
    | with_reducible assumption
    | (extract_lets +onlyGivenNames y; refine (fun (_ : P y) => ?_) ?_; (on_goal 1 => clear_value y); (on_goal 2 => subst y))
    | (extract_lets +onlyGivenNames y; clear_value y) | with_reducible apply State.onHalf_keeps hP

theorem State.setPrf_keeps {P : State → Prop} (hP : Closed P) (s : State) (h : Half) (k : ℕ) (c : PrfUnit) (hs : P s) :
    P (State.setPrf s h k c) := by
  unfold State.setPrf
  repeat' first
    | with_reducible assumption
    | (extract_lets +onlyGivenNames y; refine (fun (_ : P y) => ?_) ?_; (on_goal 1 => clear_value y); (on_goal 2 => subst y))
    | (extract_lets +onlyGivenNames y; clear_value y) | with_reducible apply State.onHalf_keeps hP

theorem State.setCe_keeps {P : State → Prop} (hP : Closed P) (s : State) (h : Half) (k : ℕ) (c : CeUnit) (hs : P s) :
    P (State.setCe s h k c) := by
  unfold State.setCe
  repeat' first
    | with_reducible assumption
    | (extract_lets +onlyGivenNames y; refine (fun (_ : P y) => ?_) ?_; (on_goal 1 => clear_value y); (on_goal 2 => subst y))
    | (extract_lets +onlyGivenNames y; clear_value y) | with_reducible apply State.onHalf_keeps hP

theorem State.setArm_keeps {P : State → Prop} (hP : Closed P) (s : State) (h : Half) (k : ℕ) (c : ArmUnit) (hs : P s) :
    P (State.setArm s h k c) := by
  unfold State.setArm
  repeat' first
    | with_reducible assumption
    | (extract_lets +onlyGivenNames y; refine (fun (_ : P y) => ?_) ?_; (on_goal 1 => clear_value y); (on_goal 2 => subst y))
    | (extract_lets +onlyGivenNames y; clear_value y) | with_reducible apply State.onHalf_keeps hP

theorem State.setHoist_keeps {P : State → Prop} (hP : Closed P) (s : State) (h : Half) (k : ℕ) (c : HoistUnit) (hs : P s) :
    P (State.setHoist s h k c) := by
  unfold State.setHoist
  repeat' first
    | with_reducible assumption
    | (extract_lets +onlyGivenNames y; refine (fun (_ : P y) => ?_) ?_; (on_goal 1 => clear_value y); (on_goal 2 => subst y))
    | (extract_lets +onlyGivenNames y; clear_value y) | with_reducible apply State.onHalf_keeps hP

theorem State.setServo_keeps {P : State → Prop} (hP : Closed P) (s : State) (h : Half) (u : ServoUnit) (hs : P s) :
    P (State.setServo s h u) := by
  unfold State.setServo
  repeat' first
    | with_reducible assumption
    | (extract_lets +onlyGivenNames y; refine (fun (_ : P y) => ?_) ?_; (on_goal 1 => clear_value y); (on_goal 2 => subst y))
    | (extract_lets +onlyGivenNames y; clear_value y) | with_reducible apply State.onHalf_keeps hP

theorem State.setRing_keeps {P : State → Prop} (hP : Closed P) (s : State) (h : Half) (r : ℕ) (x : RingUnit) (hs : P s) :
    P (State.setRing s h r x) := by
  unfold State.setRing
  repeat' first
    | with_reducible assumption
    | (extract_lets +onlyGivenNames y; refine (fun (_ : P y) => ?_) ?_; (on_goal 1 => clear_value y); (on_goal 2 => subst y))
    | (extract_lets +onlyGivenNames y; clear_value y) | with_reducible apply State.onHalf_keeps hP

theorem State.setSolver_keeps {P : State → Prop} (hP : Closed P) (s : State) (h : Half) (x : SolverUnit) (hs : P s) :
    P (State.setSolver s h x) := by
  unfold State.setSolver
  repeat' first
    | with_reducible assumption
    | (extract_lets +onlyGivenNames y; refine (fun (_ : P y) => ?_) ?_; (on_goal 1 => clear_value y); (on_goal 2 => subst y))
    | (extract_lets +onlyGivenNames y; clear_value y) | with_reducible apply State.onHalf_keeps hP

theorem State.setGov_keeps {P : State → Prop} (hP : Closed P) (s : State) (h : Half) (x : GovUnit) (hs : P s) :
    P (State.setGov s h x) := by
  unfold State.setGov
  repeat' first
    | with_reducible assumption
    | (extract_lets +onlyGivenNames y; refine (fun (_ : P y) => ?_) ?_; (on_goal 1 => clear_value y); (on_goal 2 => subst y))
    | (extract_lets +onlyGivenNames y; clear_value y) | with_reducible apply State.onHalf_keeps hP

theorem State.setCan_keeps {P : State → Prop} (hP : Closed P) (s : State) (h : Half) (c : ℕ) (x : CanCh) (hs : P s) :
    P (State.setCan s h c x) := by
  unfold State.setCan
  repeat' first
    | with_reducible assumption
    | (extract_lets +onlyGivenNames y; refine (fun (_ : P y) => ?_) ?_; (on_goal 1 => clear_value y); (on_goal 2 => subst y))
    | (extract_lets +onlyGivenNames y; clear_value y) | with_reducible apply State.onHalf_keeps hP

theorem State.setAcq_keeps {P : State → Prop} (hP : Closed P) (s : State) (h : Half) (x : AcqUnit) (hs : P s) :
    P (State.setAcq s h x) := by
  unfold State.setAcq
  repeat' first
    | with_reducible assumption
    | (extract_lets +onlyGivenNames y; refine (fun (_ : P y) => ?_) ?_; (on_goal 1 => clear_value y); (on_goal 2 => subst y))
    | (extract_lets +onlyGivenNames y; clear_value y) | with_reducible apply State.onHalf_keeps hP

theorem State.setIsl_keeps {P : State → Prop} (hP : Closed P) (s : State) (x : IslandUnit) (hs : P s) :
    P (State.setIsl s x) := by
  unfold State.setIsl
  repeat' first
    | with_reducible assumption
    | (extract_lets +onlyGivenNames y; refine (fun (_ : P y) => ?_) ?_; (on_goal 1 => clear_value y); (on_goal 2 => subst y))
    | (extract_lets +onlyGivenNames y; clear_value y) | with_reducible apply hP.put | with_reducible apply hP.byte
    | with_reducible apply hP.drop | with_reducible apply hP.wipe | with_reducible apply hP.keepRegs
    | with_reducible apply hP.keepMem | with_reducible apply hP.other

theorem State.setConn_keeps {P : State → Prop} (hP : Closed P) (s : State) (c : ℕ) (x : ConnRun) (hs : P s) :
    P (State.setConn s c x) := by
  unfold State.setConn
  repeat' first
    | with_reducible assumption
    | (extract_lets +onlyGivenNames y; refine (fun (_ : P y) => ?_) ?_; (on_goal 1 => clear_value y); (on_goal 2 => subst y))
    | (extract_lets +onlyGivenNames y; clear_value y) | with_reducible apply State.setIsl_keeps hP

theorem State.takeFree_keeps {P : State → Prop} (hP : Closed P) (s : State) (hs : P s) :
    P (State.takeFree s).2 := by
  unfold State.takeFree
  repeat' first
    | with_reducible assumption
    | (extract_lets +onlyGivenNames y; refine (fun (_ : P y) => ?_) ?_; (on_goal 1 => clear_value y); (on_goal 2 => subst y))
    | (extract_lets +onlyGivenNames y; clear_value y) | with_reducible apply hP.put | with_reducible apply hP.byte
    | with_reducible apply hP.drop | with_reducible apply hP.wipe | with_reducible apply hP.keepRegs
    | with_reducible apply hP.keepMem | with_reducible apply hP.other

theorem freeBytes_keeps {P : State → Prop} (hP : Closed P) (s : State) (x1 : ℕ) (hs : P s) :
    P (freeBytes s x1).2 := by
  induction x1 generalizing s with
  | zero =>
    unfold freeBytes
    repeat' first | with_reducible assumption
  | succ n0 ih =>
    unfold freeBytes
    repeat' first
      | with_reducible assumption
      | (extract_lets +onlyGivenNames y; refine (fun (_ : P y) => ?_) ?_; (on_goal 1 => clear_value y); (on_goal 2 => subst y))
      | (extract_lets +onlyGivenNames y; refine (fun (_ : P y.2) => ?_) ?_; (on_goal 1 => clear_value y); (on_goal 2 => subst y))
      | (extract_lets +onlyGivenNames y; clear_value y) | with_reducible apply ih
      | with_reducible apply State.takeFree_keeps hP

theorem State.answer_keeps {P : State → Prop} (hP : Closed P) (s : State) (m : Master) (v : Quad) (hs : P s) :
    P (State.answer s m v) := by
  unfold State.answer
  repeat' first
    | with_reducible assumption
    | (extract_lets +onlyGivenNames y; refine (fun (_ : P y) => ?_) ?_; (on_goal 1 => clear_value y); (on_goal 2 => subst y))
    | (extract_lets +onlyGivenNames y; clear_value y) | with_reducible apply hP.put | with_reducible apply hP.byte
    | with_reducible apply hP.drop | with_reducible apply hP.wipe | with_reducible apply hP.keepRegs
    | with_reducible apply hP.keepMem | with_reducible apply hP.other

theorem State.passTime_keeps {P : State → Prop} (hP : Closed P) (s : State) (dt : ℕ) (hs : P s) :
    P (State.passTime s dt) := by
  unfold State.passTime
  repeat' first
    | with_reducible assumption
    | (extract_lets +onlyGivenNames y; refine (fun (_ : P y) => ?_) ?_; (on_goal 1 => clear_value y); (on_goal 2 => subst y))
    | (extract_lets +onlyGivenNames y; clear_value y) | with_reducible apply hP.put | with_reducible apply hP.byte
    | with_reducible apply hP.drop | with_reducible apply hP.wipe | with_reducible apply hP.keepRegs
    | with_reducible apply hP.keepMem | with_reducible apply hP.other

theorem hlDriveOn_keeps {P : State → Prop} (hP : Closed P) (s : State) (mask : ℕ) (hs : P s) :
    P (hlDriveOn s mask) := by
  unfold hlDriveOn
  repeat' first
    | with_reducible assumption
    | (extract_lets +onlyGivenNames y; refine (fun (_ : P y) => ?_) ?_; (on_goal 1 => clear_value y); (on_goal 2 => subst y))
    | (extract_lets +onlyGivenNames y; clear_value y) | with_reducible apply hP.put | with_reducible apply hP.byte
    | with_reducible apply hP.drop | with_reducible apply hP.wipe | with_reducible apply hP.keepRegs
    | with_reducible apply hP.keepMem | with_reducible apply hP.other

theorem acqCapture_keeps {P : State → Prop} (hP : Closed P) (s : State) (h : Half) (x : AcqRec) (t : ℕ) (src : ℕ) (forced : Bool) (hs : P s) :
    P (acqCapture s h x t src forced).2 := by
  unfold acqCapture
  repeat' first
    | with_reducible assumption
    | (extract_lets +onlyGivenNames y; refine (fun (_ : P y) => ?_) ?_; (on_goal 1 => clear_value y); (on_goal 2 => subst y))
    | (extract_lets +onlyGivenNames y; clear_value y) | with_reducible apply State.setFld_keeps hP
    | with_reducible apply State.setAcq_keeps hP | with_reducible apply hlDriveOn_keeps hP
    | with_reducible apply keeps_ite

theorem acqMissed_keeps {P : State → Prop} (hP : Closed P) (s : State) (h : Half) (r : ℕ) (t : ℕ) (src : ℕ) (hs : P s) :
    P (acqMissed s h r t src) := by
  unfold acqMissed
  repeat' first
    | with_reducible assumption
    | (extract_lets +onlyGivenNames y; refine (fun (_ : P y) => ?_) ?_; (on_goal 1 => clear_value y); (on_goal 2 => subst y))
    | (extract_lets +onlyGivenNames y; clear_value y) | with_reducible apply State.count_keeps hP
    | with_reducible apply State.setWords_keeps hP | with_reducible apply State.setAcq_keeps hP

theorem acqDeliver_keeps {P : State → Prop} (hP : Closed P) (s : State) (h : Half) (x : AcqRec) (t : ℕ) (src : ℕ) (forced : Bool) (hs : P s) :
    P (acqDeliver s h x t src forced).2 := by
  unfold acqDeliver
  repeat' first
    | with_reducible assumption
    | (extract_lets +onlyGivenNames y; refine (fun (_ : P y) => ?_) ?_; (on_goal 1 => clear_value y); (on_goal 2 => subst y))
    | (extract_lets +onlyGivenNames y; refine (fun (_ : P y.2) => ?_) ?_; (on_goal 1 => clear_value y); (on_goal 2 => subst y))
    | (extract_lets +onlyGivenNames y; clear_value y) | with_reducible apply acqCapture_keeps hP
    | with_reducible apply acqMissed_keeps hP | with_reducible apply keeps_ite | with_reducible apply keeps_ite2
    | with_reducible apply keeps_ite1 | split

theorem acqFireL_keeps {P : State → Prop} (hP : Closed P) (h : Half) (sel : ℕ → Bool) (t : ℕ) (src : ℕ) (forced : Bool) (x5 : List AcqRec) (x6 : State) (hs : P x6) :
    P (acqFireL h sel t src forced x5 x6).2 := by
  induction x5 generalizing h sel t src forced x6 with
  | nil =>
    unfold acqFireL
    repeat' first | with_reducible assumption
  | cons z0 l0 ih =>
    unfold acqFireL
    repeat' first
      | with_reducible assumption
      | (extract_lets +onlyGivenNames y; refine (fun (_ : P y) => ?_) ?_; (on_goal 1 => clear_value y); (on_goal 2 => subst y))
      | (extract_lets +onlyGivenNames y; refine (fun (_ : P y.2) => ?_) ?_; (on_goal 1 => clear_value y); (on_goal 2 => subst y))
      | (extract_lets +onlyGivenNames y; clear_value y) | with_reducible apply ih
      | with_reducible apply acqDeliver_keeps hP | with_reducible apply keeps_ite | with_reducible apply keeps_ite2

theorem acqFire_keeps {P : State → Prop} (hP : Closed P) (s : State) (h : Half) (sel : ℕ → Bool) (t : ℕ) (src : ℕ) (forced : Bool) (hs : P s) :
    P (acqFire s h sel t src forced) := by
  unfold acqFire
  repeat' first
    | with_reducible assumption
    | (extract_lets +onlyGivenNames y; refine (fun (_ : P y) => ?_) ?_; (on_goal 1 => clear_value y); (on_goal 2 => subst y))
    | (extract_lets +onlyGivenNames y; refine (fun (_ : P y.2) => ?_) ?_; (on_goal 1 => clear_value y); (on_goal 2 => subst y))
    | (extract_lets +onlyGivenNames y; clear_value y) | with_reducible apply State.setAcq_keeps hP
    | with_reducible apply acqFireL_keeps hP

theorem traceEntry_keeps {P : State → Prop} (hP : Closed P) (s : State) (h : Half) (item : ℕ) (core : ℕ) (reason : ℕ) (detail : ℕ) (hs : P s) :
    P (traceEntry s h item core reason detail) := by
  unfold traceEntry
  repeat' first
    | with_reducible assumption
    | (extract_lets +onlyGivenNames y; refine (fun (_ : P y) => ?_) ?_; (on_goal 1 => clear_value y); (on_goal 2 => subst y))
    | (extract_lets +onlyGivenNames y; clear_value y) | with_reducible apply State.setWordN_keeps hP
    | with_reducible apply State.setQuad_keeps hP | with_reducible apply State.setFld_keeps hP
    | with_reducible apply State.setSched_keeps hP | with_reducible apply keeps_ite | split

theorem startItem_keeps {P : State → Prop} (hP : Closed P) (s : State) (h : Half) (k : ℕ) (i : ℕ) (area : Bool) (ready : Bool) (hs : P s) :
    P (startItem s h k i area ready) := by
  unfold startItem
  repeat' first
    | with_reducible assumption
    | (extract_lets +onlyGivenNames y; refine (fun (_ : P y) => ?_) ?_; (on_goal 1 => clear_value y); (on_goal 2 => subst y))
    | (extract_lets +onlyGivenNames y; clear_value y) | with_reducible apply State.setCore_keeps hP
    | with_reducible apply State.setSched_keeps hP | with_reducible apply traceEntry_keeps hP

theorem placeNext_keeps {P : State → Prop} (hP : Closed P) (s : State) (h : Half) (k : ℕ) (i : ℕ) (hs : P s) :
    P (placeNext s h k i) := by
  unfold placeNext
  repeat' first
    | with_reducible assumption
    | (extract_lets +onlyGivenNames y; refine (fun (_ : P y) => ?_) ?_; (on_goal 1 => clear_value y); (on_goal 2 => subst y))
    | (extract_lets +onlyGivenNames y; clear_value y) | with_reducible apply State.setCore_keeps hP
    | with_reducible apply State.setSched_keeps hP | with_reducible apply traceEntry_keeps hP

theorem giveUrgent_keeps {P : State → Prop} (hP : Closed P) (s : State) (h : Half) (x2 : List ℕ) (hs : P s) :
    P (giveUrgent s h x2) := by
  induction x2 generalizing s h with
  | nil =>
    unfold giveUrgent
    repeat' first | with_reducible assumption
  | cons z0 l0 ih =>
    unfold giveUrgent
    repeat' first
      | with_reducible assumption
      | (extract_lets +onlyGivenNames y; refine (fun (_ : P y) => ?_) ?_; (on_goal 1 => clear_value y); (on_goal 2 => subst y))
      | (extract_lets +onlyGivenNames y; clear_value y) | with_reducible apply ih
      | with_reducible apply State.setCore_keeps hP | with_reducible apply State.setSched_keeps hP | split

theorem chooseItem_keeps {P : State → Prop} (hP : Closed P) {s : State} {h : Half} {k i : Nat} {u : State}
    (e : chooseItem s h k = some (i, u)) (hs : P s) : P u := by
  unfold chooseItem chooseDrr at e
  have set_keeps : ∀ x, P (s.setSched h x) := fun x => State.setSched_keeps hP s h x hs
  split at e
  · cases e; exact hs
  · dsimp only at e
    split at e
    · cases e
    · split at e
      · cases e
      · cases e; exact set_keeps _

theorem fillIdle_keeps {P : State → Prop} (hP : Closed P) (s : State) (h : Half) (k : ℕ) (hs : P s) :
    P (fillIdle s h k) := by
  unfold fillIdle
  repeat' first
    | with_reducible assumption | (with_reducible refine chooseItem_keeps hP (by with_reducible assumption) ?_)
    | with_reducible apply startItem_keeps hP | with_reducible apply keeps_ite | split

theorem fillNext_keeps {P : State → Prop} (hP : Closed P) (s : State) (h : Half) (k : ℕ) (hs : P s) :
    P (fillNext s h k) := by
  unfold fillNext
  repeat' first
    | with_reducible assumption
    | (extract_lets +onlyGivenNames y; refine (fun (_ : P y) => ?_) ?_; (on_goal 1 => clear_value y); (on_goal 2 => subst y))
    | (extract_lets +onlyGivenNames y; clear_value y)
    | (with_reducible refine chooseItem_keeps hP (by with_reducible assumption) ?_)
    | with_reducible apply placeNext_keeps hP | with_reducible apply keeps_ite | split

theorem scheduleAll_keeps {P : State → Prop} (hP : Closed P) (s : State) (h : Half) (hs : P s) :
    P (scheduleAll s h) := by
  unfold scheduleAll
  repeat' first
    | with_reducible assumption
    | (extract_lets +onlyGivenNames y; refine (fun (_ : P y) => ?_) ?_; (on_goal 1 => clear_value y); (on_goal 2 => subst y))
    | (extract_lets +onlyGivenNames y; clear_value y) | with_reducible apply giveUrgent_keeps hP
    | with_reducible apply fillIdle_keeps hP | with_reducible apply fillNext_keeps hP
    | (with_reducible apply keeps_foldl; intro _ _ _)

theorem displace_keeps {P : State → Prop} (hP : Closed P) (s : State) (h : Half) (i : ℕ) (hs : P s) :
    P (displace s h i) := by
  unfold displace
  repeat' first
    | with_reducible assumption
    | (extract_lets +onlyGivenNames y; refine (fun (_ : P y) => ?_) ?_; (on_goal 1 => clear_value y); (on_goal 2 => subst y))
    | (extract_lets +onlyGivenNames y; refine (fun (fy1 : ∀ t, P t → P (y t)) => ?_) ?_; (on_goal 1 => clear_value y); (on_goal 2 => (subst y; intro t ht; beta_reduce)))
    | (extract_lets +onlyGivenNames y; refine (fun (fy2 : ∀ t r, P t → P (y t r)) => ?_) ?_; (on_goal 1 => clear_value y); (on_goal 2 => (subst y; intro t r ht; beta_reduce)))
    | (extract_lets +onlyGivenNames y; refine (fun (fy3 : ∀ t r q, P t → P (y t r q)) => ?_) ?_; (on_goal 1 => clear_value y); (on_goal 2 => (subst y; intro t r q ht; beta_reduce)))
    | (extract_lets +onlyGivenNames y; refine (fun (fy4 : ∀ t r q p, P t → P (y t r q p)) => ?_) ?_; (on_goal 1 => clear_value y); (on_goal 2 => (subst y; intro t r q p ht; beta_reduce)))
    | (extract_lets +onlyGivenNames y; clear_value y) | with_reducible apply fy1 | with_reducible apply fy2
    | with_reducible apply fy3 | with_reducible apply fy4 | with_reducible apply State.setSched_keeps hP
    | with_reducible apply traceEntry_keeps hP | with_reducible apply placeNext_keeps hP | split

theorem releaseItem_keeps {P : State → Prop} (hP : Closed P) (s : State) (h : Half) (i : ℕ) (at_ : ℕ) (deadline : Option ℕ) (cause : ℕ) (hs : P s) :
    P (releaseItem s h i at_ deadline cause) := by
  unfold releaseItem
  repeat' first
    | with_reducible assumption
    | (extract_lets +onlyGivenNames y; refine (fun (_ : P y) => ?_) ?_; (on_goal 1 => clear_value y); (on_goal 2 => subst y))
    | (extract_lets +onlyGivenNames y; clear_value y) | with_reducible apply State.setSched_keeps hP
    | with_reducible apply traceEntry_keeps hP | with_reducible apply scheduleAll_keeps hP
    | with_reducible apply displace_keeps hP | with_reducible apply keeps_ite

theorem postItem_keeps {P : State → Prop} (hP : Closed P) (s : State) (h : Half) (i : ℕ) (at_ : ℕ) (deadline : Option ℕ) (cause : ℕ) (hs : P s) :
    P (postItem s h i at_ deadline cause).1 := by
  unfold postItem
  repeat' first
    | with_reducible assumption
    | (extract_lets +onlyGivenNames y; refine (fun (_ : P y) => ?_) ?_; (on_goal 1 => clear_value y); (on_goal 2 => subst y))
    | (extract_lets +onlyGivenNames y; clear_value y) | with_reducible apply State.count_keeps hP
    | with_reducible apply State.setSched_keeps hP | with_reducible apply traceEntry_keeps hP
    | with_reducible apply releaseItem_keeps hP | with_reducible apply keeps_ite | with_reducible apply keeps_ite2
    | with_reducible apply keeps_ite1 | split

theorem raiseVector_keeps {P : State → Prop} (hP : Closed P) (s : State) (v : ℕ) (hs : P s) :
    P (raiseVector s v) := by
  unfold raiseVector
  repeat' first
    | with_reducible assumption
    | (extract_lets +onlyGivenNames y; refine (fun (_ : P y) => ?_) ?_; (on_goal 1 => clear_value y); (on_goal 2 => subst y))
    | (extract_lets +onlyGivenNames y; clear_value y) | with_reducible apply State.setMapBit_keeps hP
    | with_reducible apply keeps_ite | split | with_reducible apply hP.put | with_reducible apply hP.byte
    | with_reducible apply hP.drop | with_reducible apply hP.wipe | with_reducible apply hP.keepRegs
    | with_reducible apply hP.keepMem | with_reducible apply hP.other

theorem raiseBase_keeps {P : State → Prop} (hP : Closed P) (s : State) (h : Half) (e : ℕ) (stamp : ℕ) (hs : P s) :
    P (raiseBase s h e stamp) := by
  unfold raiseBase
  repeat' first
    | with_reducible assumption
    | (extract_lets +onlyGivenNames y; refine (fun (_ : P y) => ?_) ?_; (on_goal 1 => clear_value y); (on_goal 2 => subst y))
    | (extract_lets +onlyGivenNames y; clear_value y) | with_reducible apply State.setQuad_keeps hP
    | with_reducible apply State.countIf_keeps hP | with_reducible apply State.setMapBit_keeps hP
    | with_reducible apply State.setSched_keeps hP | with_reducible apply acqFire_keeps hP
    | with_reducible apply raiseVector_keeps hP | with_reducible apply keeps_ite

theorem raiseN_keeps {P : State → Prop} (hP : Closed P) (x0 : ℕ) (x1 : State) (x2 : Half) (x3 : ℕ) (x4 : ℕ) (hs : P x1) :
    P (raiseN x0 x1 x2 x3 x4) := by
  induction x0 generalizing x1 x2 x3 x4 with
  | zero =>
    unfold raiseN
    repeat' first
      | with_reducible assumption
      | (extract_lets +onlyGivenNames y; refine (fun (_ : P y) => ?_) ?_; (on_goal 1 => clear_value y); (on_goal 2 => subst y))
      | (extract_lets +onlyGivenNames y; refine (fun (_ : P y.1) => ?_) ?_; (on_goal 1 => clear_value y); (on_goal 2 => subst y))
      | (extract_lets +onlyGivenNames y; clear_value y) | with_reducible apply State.setFlag_keeps hP
      | with_reducible apply State.setAcq_keeps hP | with_reducible apply postItem_keeps hP
      | with_reducible apply raiseBase_keeps hP
  | succ n0 ih =>
    unfold raiseN
    repeat' first
      | with_reducible assumption
      | (extract_lets +onlyGivenNames y; refine (fun (_ : P y) => ?_) ?_; (on_goal 1 => clear_value y); (on_goal 2 => subst y))
      | (extract_lets +onlyGivenNames y; refine (fun (_ : P y.1) => ?_) ?_; (on_goal 1 => clear_value y); (on_goal 2 => subst y))
      | (extract_lets +onlyGivenNames y; clear_value y) | with_reducible apply ih
      | with_reducible apply State.setFlag_keeps hP | with_reducible apply State.setAcq_keeps hP
      | with_reducible apply postItem_keeps hP | with_reducible apply raiseBase_keeps hP
      | with_reducible apply keeps_ite | split
      | (with_reducible refine keeps_pair22 (by with_reducible assumption) ?_)
      | (with_reducible refine keeps_pair2 (by with_reducible assumption) ?_)
      | (with_reducible refine keeps_pair1 (by with_reducible assumption) ?_)

theorem raiseAt_keeps {P : State → Prop} (hP : Closed P) (s : State) (h : Half) (e : ℕ) (stamp : ℕ) (hs : P s) :
    P (raiseAt s h e stamp) := by
  unfold raiseAt
  repeat' first | with_reducible assumption | with_reducible apply raiseN_keeps hP

theorem raiseEvt_keeps {P : State → Prop} (hP : Closed P) (s : State) (h : Half) (e : ℕ) (hs : P s) :
    P (raiseEvt s h e) := by
  unfold raiseEvt
  repeat' first | with_reducible assumption | with_reducible apply raiseAt_keeps hP

theorem raiseIf_keeps {P : State → Prop} (hP : Closed P) (s : State) (c : Bool) (h : Half) (e : ℕ) (hs : P s) :
    P (raiseIf s c h e) := by
  unfold raiseIf
  repeat' first | with_reducible assumption | with_reducible apply raiseEvt_keeps hP | with_reducible apply keeps_ite

theorem raiseBoth_keeps {P : State → Prop} (hP : Closed P) (s : State) (e : ℕ) (hs : P s) :
    P (raiseBoth s e) := by
  unfold raiseBoth
  repeat' first | with_reducible assumption | with_reducible apply raiseEvt_keeps hP

theorem postAt_keeps {P : State → Prop} (hP : Closed P) (s : State) (h : Half) (i : ℕ) (at_ : ℕ) (deadline : Option ℕ) (cause : ℕ) (hs : P s) :
    P (postAt s h i at_ deadline cause) := by
  unfold postAt
  repeat' first
    | with_reducible assumption | with_reducible apply postItem_keeps hP | with_reducible apply raiseAt_keeps hP
    | split | (with_reducible refine keeps_pair22 (by with_reducible assumption) ?_)
    | (with_reducible refine keeps_pair2 (by with_reducible assumption) ?_)
    | (with_reducible refine keeps_pair1 (by with_reducible assumption) ?_)

theorem faultLog_keeps {P : State → Prop} (hP : Closed P) (s : State) (ev : ℕ) (h : Option Half) (code : Option ℕ) (detail : Option ℕ) (hs : P s) :
    P (faultLog s ev h code detail) := by
  unfold faultLog
  repeat' first
    | with_reducible assumption
    | (extract_lets +onlyGivenNames y; refine (fun (_ : P y) => ?_) ?_; (on_goal 1 => clear_value y); (on_goal 2 => subst y))
    | (extract_lets +onlyGivenNames y; refine (fun (_ : P y.2) => ?_) ?_; (on_goal 1 => clear_value y); (on_goal 2 => subst y))
    | (extract_lets +onlyGivenNames y; clear_value y) | with_reducible apply State.setMemN_keeps hP
    | with_reducible apply State.setMemQuad_keeps hP | with_reducible apply State.takeFree_keeps hP
    | with_reducible apply raiseBoth_keeps hP | split

theorem mramCount_keeps {P : State → Prop} (hP : Closed P) (s : State) (i : ℕ) (hs : P s) :
    P (mramCount s i) := by
  unfold mramCount
  repeat' first
    | with_reducible assumption
    | (extract_lets +onlyGivenNames y; refine (fun (_ : P y) => ?_) ?_; (on_goal 1 => clear_value y); (on_goal 2 => subst y))
    | (extract_lets +onlyGivenNames y; clear_value y) | with_reducible apply State.setMemN_keeps hP

theorem writeAxisRec_keeps {P : State → Prop} (hP : Closed P) (s : State) (b : ℕ) (pos : ℕ) (off : ℕ) (hold : ℕ) (ref : ℕ) (period : ℕ) (flags : ℕ) (hs : P s) :
    P (writeAxisRec s b pos off hold ref period flags) := by
  unfold writeAxisRec
  repeat' first
    | with_reducible assumption
    | (extract_lets +onlyGivenNames y; refine (fun (_ : P y) => ?_) ?_; (on_goal 1 => clear_value y); (on_goal 2 => subst y))
    | (extract_lets +onlyGivenNames y; clear_value y) | with_reducible apply State.setMemN_keeps hP
    | with_reducible apply State.setMemQuad_keeps hP | with_reducible apply State.setMemWords_keeps hP

theorem State.setTb_keeps {P : State → Prop} (hP : Closed P) (s : State) (h : Half) (b : ℕ) (x : TimeBase) (hs : P s) :
    P (State.setTb s h b x) := by
  unfold State.setTb
  repeat' first | with_reducible assumption | with_reducible apply State.setTime_keeps hP

theorem setRate_keeps {P : State → Prop} (hP : Closed P) (s : State) (h : Half) (b : ℕ) (r : ℤ) (hs : P s) :
    P (setRate s h b r) := by
  unfold setRate
  repeat' first
    | with_reducible assumption
    | (extract_lets +onlyGivenNames y; refine (fun (_ : P y) => ?_) ?_; (on_goal 1 => clear_value y); (on_goal 2 => subst y))
    | (extract_lets +onlyGivenNames y; clear_value y) | with_reducible apply State.setFldS_keeps hP
    | with_reducible apply State.setTb_keeps hP

theorem setLock_keeps {P : State → Prop} (hP : Closed P) (s : State) (h : Half) (b : ℕ) (on : Bool) (hs : P s) :
    P (setLock s h b on) := by
  unfold setLock
  repeat' first
    | with_reducible assumption
    | (extract_lets +onlyGivenNames y; refine (fun (_ : P y) => ?_) ?_; (on_goal 1 => clear_value y); (on_goal 2 => subst y))
    | (extract_lets +onlyGivenNames y; clear_value y) | with_reducible apply State.putFlag_keeps hP
    | with_reducible apply State.setTime_keeps hP | with_reducible apply raiseEvt_keeps hP
    | with_reducible apply State.setTb_keeps hP | with_reducible apply setRate_keeps hP
    | with_reducible apply keeps_ite

theorem skipAlarms_keeps {P : State → Prop} (hP : Closed P) (s : State) (h : Half) (b : ℕ) (x3 : ℕ) (hs : P s) :
    P (skipAlarms s h b x3) := by
  induction x3 generalizing s h b with
  | zero =>
    unfold skipAlarms
    repeat' first | with_reducible assumption
  | succ n0 ih =>
    unfold skipAlarms
    repeat' first
      | with_reducible assumption
      | (extract_lets +onlyGivenNames y; refine (fun (_ : P y) => ?_) ?_; (on_goal 1 => clear_value y); (on_goal 2 => subst y))
      | (extract_lets +onlyGivenNames y; clear_value y) | with_reducible apply ih
      | with_reducible apply State.setQuad_keeps hP | with_reducible apply State.countBy_keeps hP
      | with_reducible apply keeps_ite

theorem stepBase_keeps {P : State → Prop} (hP : Closed P) (s : State) (h : Half) (b : ℕ) (val : ℕ) (hs : P s) :
    P (stepBase s h b val) := by
  unfold stepBase
  repeat' first
    | with_reducible assumption
    | (extract_lets +onlyGivenNames y; refine (fun (_ : P y) => ?_) ?_; (on_goal 1 => clear_value y); (on_goal 2 => subst y))
    | (extract_lets +onlyGivenNames y; clear_value y) | with_reducible apply State.setTb_keeps hP
    | with_reducible apply skipAlarms_keeps hP

theorem fireAlarm_keeps {P : State → Prop} (hP : Closed P) (s : State) (h : Half) (i : ℕ) (stamp : ℕ) (hs : P s) :
    P (fireAlarm s h i stamp) := by
  unfold fireAlarm
  repeat' first
    | with_reducible assumption
    | (extract_lets +onlyGivenNames y; refine (fun (_ : P y) => ?_) ?_; (on_goal 1 => clear_value y); (on_goal 2 => subst y))
    | (extract_lets +onlyGivenNames y; clear_value y) | with_reducible apply State.setQuad_keeps hP
    | with_reducible apply State.putFlag_keeps hP | with_reducible apply raiseAt_keeps hP
    | with_reducible apply keeps_ite

theorem alarmDue_keeps {P : State → Prop} (hP : Closed P) (s : State) (h : Half) (i : ℕ) (hs : P s) :
    P (alarmDue s h i) := by
  unfold alarmDue
  repeat' first
    | with_reducible assumption
    | (extract_lets +onlyGivenNames y; refine (fun (_ : P y) => ?_) ?_; (on_goal 1 => clear_value y); (on_goal 2 => subst y))
    | (extract_lets +onlyGivenNames y; clear_value y) | with_reducible apply fireAlarm_keeps hP
    | with_reducible apply keeps_ite

theorem alarmWrite_keeps {P : State → Prop} (hP : Closed P) (s : State) (h : Half) (i : ℕ) (v : ℕ) (hs : P s) :
    P (alarmWrite s h i v) := by
  unfold alarmWrite
  repeat' first
    | with_reducible assumption
    | (extract_lets +onlyGivenNames y; refine (fun (_ : P y) => ?_) ?_; (on_goal 1 => clear_value y); (on_goal 2 => subst y))
    | (extract_lets +onlyGivenNames y; clear_value y) | with_reducible apply State.setFld_keeps hP
    | with_reducible apply State.setFlag_keeps hP | with_reducible apply State.putFlag_keeps hP
    | with_reducible apply fireAlarm_keeps hP | with_reducible apply keeps_ite

theorem takeSample_keeps {P : State → Prop} (hP : Closed P) (s : State) (h : Half) (b : ℕ) (e : ℤ) (stamp : ℕ) (hs : P s) :
    P (takeSample s h b e stamp) := by
  unfold takeSample
  repeat' first
    | with_reducible assumption
    | (extract_lets +onlyGivenNames y; refine (fun (_ : P y) => ?_) ?_; (on_goal 1 => clear_value y); (on_goal 2 => subst y))
    | (extract_lets +onlyGivenNames y; clear_value y) | with_reducible apply State.setFld_keeps hP
    | with_reducible apply State.setFldS_keeps hP | with_reducible apply State.setFlag_keeps hP
    | with_reducible apply State.setTb_keeps hP | with_reducible apply setRate_keeps hP
    | with_reducible apply setLock_keeps hP | with_reducible apply stepBase_keeps hP
    | with_reducible apply keeps_ite

theorem takeGm_keeps {P : State → Prop} (hP : Closed P) (s : State) (h : Half) (dom : ℕ) (gm : ℕ) (hs : P s) :
    P (takeGm s h dom gm) := by
  unfold takeGm
  repeat' first
    | with_reducible assumption
    | (extract_lets +onlyGivenNames y; refine (fun (_ : P y) => ?_) ?_; (on_goal 1 => clear_value y); (on_goal 2 => subst y))
    | (extract_lets +onlyGivenNames y; clear_value y) | with_reducible apply State.setFld_keeps hP
    | with_reducible apply State.setFlag_keeps hP | with_reducible apply raiseEvt_keeps hP
    | with_reducible apply State.setTb_keeps hP | with_reducible apply setLock_keeps hP
    | with_reducible apply keeps_ite

theorem ptpReceive_keeps {P : State → Prop} (hP : Closed P) (s : State) (h : Half) (dom : ℕ) (m : PtpMsg) (hs : P s) :
    P (ptpReceive s h dom m) := by
  unfold ptpReceive
  repeat' first
    | with_reducible assumption
    | (extract_lets +onlyGivenNames y; refine (fun (_ : P y) => ?_) ?_; (on_goal 1 => clear_value y); (on_goal 2 => subst y))
    | (extract_lets +onlyGivenNames y; clear_value y) | with_reducible apply State.setFld_keeps hP
    | with_reducible apply State.putFlag_keeps hP | with_reducible apply State.count_keeps hP
    | with_reducible apply State.setTb_keeps hP | with_reducible apply setLock_keeps hP
    | with_reducible apply takeSample_keeps hP | with_reducible apply takeGm_keeps hP
    | with_reducible apply keeps_ite | split

theorem lockLoss_keeps {P : State → Prop} (hP : Closed P) (s : State) (h : Half) (dom : ℕ) (hs : P s) :
    P (lockLoss s h dom) := by
  unfold lockLoss
  repeat' first
    | with_reducible assumption
    | (extract_lets +onlyGivenNames y; refine (fun (_ : P y) => ?_) ?_; (on_goal 1 => clear_value y); (on_goal 2 => subst y))
    | (extract_lets +onlyGivenNames y; clear_value y) | with_reducible apply setLock_keeps hP
    | with_reducible apply keeps_ite | split

theorem softSample_keeps {P : State → Prop} (hP : Closed P) (s : State) (h : Half) (b : ℕ) (v : ℕ) (hs : P s) :
    P (softSample s h b v) := by
  unfold softSample
  repeat' first
    | with_reducible assumption | with_reducible apply takeSample_keeps hP | with_reducible apply keeps_ite

theorem applySet_keeps {P : State → Prop} (hP : Closed P) (s : State) (h : Half) (b : ℕ) (hs : P s) :
    P (applySet s h b) := by
  unfold applySet
  repeat' first
    | with_reducible assumption
    | (extract_lets +onlyGivenNames y; refine (fun (_ : P y) => ?_) ?_; (on_goal 1 => clear_value y); (on_goal 2 => subst y))
    | (extract_lets +onlyGivenNames y; clear_value y) | with_reducible apply stepBase_keeps hP

theorem latchStamp_keeps {P : State → Prop} (hP : Closed P) (s : State) (h : Half) (b : ℕ) (hs : P s) :
    P (latchStamp s h b) := by
  unfold latchStamp
  repeat' first
    | with_reducible assumption
    | (extract_lets +onlyGivenNames y; refine (fun (_ : P y) => ?_) ?_; (on_goal 1 => clear_value y); (on_goal 2 => subst y))
    | (extract_lets +onlyGivenNames y; clear_value y) | with_reducible apply State.setTb_keeps hP

theorem tbCmd_keeps {P : State → Prop} (hP : Closed P) (s : State) (h : Half) (b : ℕ) (v : ℕ) (hs : P s) :
    P (tbCmd s h b v) := by
  unfold tbCmd
  repeat' first
    | with_reducible assumption
    | (extract_lets +onlyGivenNames y; refine (fun (_ : P y) => ?_) ?_; (on_goal 1 => clear_value y); (on_goal 2 => subst y))
    | (extract_lets +onlyGivenNames y; clear_value y) | with_reducible apply applySet_keeps hP
    | with_reducible apply latchStamp_keeps hP | with_reducible apply keeps_ite

theorem rateWrite_keeps {P : State → Prop} (hP : Closed P) (s : State) (h : Half) (b : ℕ) (v : ℕ) (hs : P s) :
    P (rateWrite s h b v) := by
  unfold rateWrite
  repeat' first | with_reducible assumption | with_reducible apply setRate_keeps hP | with_reducible apply keeps_ite

theorem enterState_keeps {P : State → Prop} (hP : Closed P) (s : State) (h : Half) (st : ℕ) (hs : P s) :
    P (enterState s h st) := by
  unfold enterState
  repeat' first
    | with_reducible assumption
    | (extract_lets +onlyGivenNames y; refine (fun (_ : P y) => ?_) ?_; (on_goal 1 => clear_value y); (on_goal 2 => subst y))
    | (extract_lets +onlyGivenNames y; clear_value y) | with_reducible apply State.setFld_keeps hP
    | with_reducible apply State.setTime_keeps hP | with_reducible apply raiseEvt_keeps hP
    | with_reducible apply setRate_keeps hP | with_reducible apply keeps_ite

theorem takeSource_keeps {P : State → Prop} (hP : Closed P) (s : State) (h : Half) (st : ℕ) (hs : P s) :
    P (takeSource s h st) := by
  unfold takeSource
  repeat' first
    | with_reducible assumption
    | (extract_lets +onlyGivenNames y; refine (fun (_ : P y) => ?_) ?_; (on_goal 1 => clear_value y); (on_goal 2 => subst y))
    | (extract_lets +onlyGivenNames y; clear_value y) | with_reducible apply faultLog_keeps hP
    | with_reducible apply enterState_keeps hP | with_reducible apply keeps_ite

theorem inputChange_keeps {P : State → Prop} (hP : Closed P) (s : State) (h : Half) (hs : P s) :
    P (inputChange s h) := by
  unfold inputChange
  repeat' first
    | with_reducible assumption
    | (extract_lets +onlyGivenNames y; refine (fun (_ : P y) => ?_) ?_; (on_goal 1 => clear_value y); (on_goal 2 => subst y))
    | (extract_lets +onlyGivenNames y; clear_value y) | with_reducible apply enterState_keeps hP
    | with_reducible apply takeSource_keeps hP | with_reducible apply keeps_ite | split

theorem trackD_keeps {P : State → Prop} (hP : Closed P) (s : State) (h : Half) (hs : P s) :
    P (trackD s h) := by
  unfold trackD
  repeat' first
    | with_reducible assumption
    | (extract_lets +onlyGivenNames y; refine (fun (_ : P y) => ?_) ?_; (on_goal 1 => clear_value y); (on_goal 2 => subst y))
    | (extract_lets +onlyGivenNames y; clear_value y) | with_reducible apply State.setFldS_keeps hP
    | with_reducible apply keeps_ite

theorem sampleTb3_keeps {P : State → Prop} (hP : Closed P) (s : State) (h : Half) (hs : P s) :
    P (sampleTb3 s h) := by
  unfold sampleTb3
  repeat' first
    | with_reducible assumption
    | (extract_lets +onlyGivenNames y; refine (fun (_ : P y) => ?_) ?_; (on_goal 1 => clear_value y); (on_goal 2 => subst y))
    | (extract_lets +onlyGivenNames y; clear_value y) | with_reducible apply State.setFld_keeps hP
    | with_reducible apply State.setFldS_keeps hP | with_reducible apply State.setTime_keeps hP
    | with_reducible apply State.setTb_keeps hP | with_reducible apply setRate_keeps hP
    | with_reducible apply keeps_ite

theorem returnPrimary_keeps {P : State → Prop} (hP : Closed P) (s : State) (h : Half) (hs : P s) :
    P (returnPrimary s h) := by
  unfold returnPrimary
  repeat' first
    | with_reducible assumption
    | (extract_lets +onlyGivenNames y; refine (fun (_ : P y) => ?_) ?_; (on_goal 1 => clear_value y); (on_goal 2 => subst y))
    | (extract_lets +onlyGivenNames y; clear_value y) | with_reducible apply State.setTime_keeps hP
    | with_reducible apply keeps_ite | split

theorem alignTb3_keeps {P : State → Prop} (hP : Closed P) (s : State) (h : Half) (hs : P s) :
    P (alignTb3 s h) := by
  unfold alignTb3
  repeat' first
    | with_reducible assumption
    | (extract_lets +onlyGivenNames y; refine (fun (_ : P y) => ?_) ?_; (on_goal 1 => clear_value y); (on_goal 2 => subst y))
    | (extract_lets +onlyGivenNames y; clear_value y) | with_reducible apply State.setFld_keeps hP
    | with_reducible apply State.setTime_keeps hP | with_reducible apply stepBase_keeps hP

theorem passUntil_keeps {P : State → Prop} (hP : Closed P) (s : State) (h : Half) (t : ℕ) (hs : P s) :
    P (passUntil s h t) := by
  unfold passUntil
  repeat' first | with_reducible assumption | with_reducible apply State.passTime_keeps hP

theorem systemSignal_keeps {P : State → Prop} (hP : Closed P) (s : State) (h : Half) (sig : ℕ) (hs : P s) :
    P (systemSignal s h sig).2 := by
  unfold systemSignal
  repeat' first
    | with_reducible assumption
    | (extract_lets +onlyGivenNames y; refine (fun (_ : P y) => ?_) ?_; (on_goal 1 => clear_value y); (on_goal 2 => subst y))
    | (extract_lets +onlyGivenNames y; refine (fun (_ : P y.2) => ?_) ?_; (on_goal 1 => clear_value y); (on_goal 2 => subst y))
    | (extract_lets +onlyGivenNames y; clear_value y) | with_reducible apply State.takeFree_keeps hP | split

theorem signalValue_keeps {P : State → Prop} (hP : Closed P) (s : State) (h : Half) (w : ℕ) (hs : P s) :
    P (signalValue s h w).2 := by
  unfold signalValue
  repeat' first
    | with_reducible assumption
    | (extract_lets +onlyGivenNames y; refine (fun (_ : P y) => ?_) ?_; (on_goal 1 => clear_value y); (on_goal 2 => subst y))
    | (extract_lets +onlyGivenNames y; refine (fun (_ : P y.2) => ?_) ?_; (on_goal 1 => clear_value y); (on_goal 2 => subst y))
    | (extract_lets +onlyGivenNames y; clear_value y) | with_reducible apply systemSignal_keeps hP
    | with_reducible apply keeps_ite | with_reducible apply keeps_ite2 | with_reducible apply keeps_ite1 | split

theorem latchSafeCopies_keeps {P : State → Prop} (hP : Closed P) (s : State) (h : Half) (hs : P s) :
    P (latchSafeCopies s h) := by
  unfold latchSafeCopies
  repeat' first
    | with_reducible assumption
    | (extract_lets +onlyGivenNames y; refine (fun (_ : P y) => ?_) ?_; (on_goal 1 => clear_value y); (on_goal 2 => subst y))
    | (extract_lets +onlyGivenNames y; clear_value y) | with_reducible apply State.setAcq_keeps hP

theorem chanValues_keeps {P : State → Prop} (hP : Closed P) (h : Half) (x1 : List ℕ) (x2 : State) (hs : P x2) :
    P (chanValues h x1 x2).2 := by
  induction x1 generalizing h x2 with
  | nil =>
    unfold chanValues
    repeat' first | with_reducible assumption
  | cons z0 l0 ih =>
    unfold chanValues
    repeat' first
      | with_reducible assumption
      | (extract_lets +onlyGivenNames y; refine (fun (_ : P y) => ?_) ?_; (on_goal 1 => clear_value y); (on_goal 2 => subst y))
      | (extract_lets +onlyGivenNames y; refine (fun (_ : P y.2) => ?_) ?_; (on_goal 1 => clear_value y); (on_goal 2 => subst y))
      | (extract_lets +onlyGivenNames y; clear_value y) | with_reducible apply ih
      | with_reducible apply signalValue_keeps hP

theorem reduce_keeps {P : State → Prop} (hP : Closed P) (s : State) (f : SigFmt) (code : ℕ) (l : List ℕ) (hs : P s) :
    P (reduce s f code l).2 := by
  unfold reduce
  repeat' first
    | with_reducible assumption
    | (extract_lets +onlyGivenNames y; refine (fun (_ : P y) => ?_) ?_; (on_goal 1 => clear_value y); (on_goal 2 => subst y))
    | (extract_lets +onlyGivenNames y; refine (fun (_ : P y.2) => ?_) ?_; (on_goal 1 => clear_value y); (on_goal 2 => subst y))
    | (extract_lets +onlyGivenNames y; clear_value y) | with_reducible apply State.takeFree_keeps hP
    | with_reducible apply keeps_ite | with_reducible apply keeps_ite2 | with_reducible apply keeps_ite1 | split

theorem reduceAll_keeps {P : State → Prop} (hP : Closed P) (f : SigFmt) (l : List ℕ) (x2 : List ℕ) (x3 : State) (hs : P x3) :
    P (reduceAll f l x2 x3).2 := by
  induction x2 generalizing f l x3 with
  | nil =>
    unfold reduceAll
    repeat' first | with_reducible assumption
  | cons z0 l0 ih =>
    unfold reduceAll
    repeat' first
      | with_reducible assumption
      | (extract_lets +onlyGivenNames y; refine (fun (_ : P y) => ?_) ?_; (on_goal 1 => clear_value y); (on_goal 2 => subst y))
      | (extract_lets +onlyGivenNames y; refine (fun (_ : P y.2) => ?_) ?_; (on_goal 1 => clear_value y); (on_goal 2 => subst y))
      | (extract_lets +onlyGivenNames y; clear_value y) | with_reducible apply ih
      | with_reducible apply reduce_keeps hP

theorem rowWords_keeps {P : State → Prop} (hP : Closed P) (h : Half) (vals : List (List ℕ)) (x2 : ℕ) (x3 : List ℕ) (x4 : State) (hs : P x4) :
    P (rowWords h vals x2 x3 x4).2 := by
  induction x3 generalizing h vals x2 x4 with
  | nil =>
    unfold rowWords
    repeat' first | with_reducible assumption
  | cons z0 l0 ih =>
    unfold rowWords
    repeat' first
      | with_reducible assumption
      | (extract_lets +onlyGivenNames y; refine (fun (_ : P y) => ?_) ?_; (on_goal 1 => clear_value y); (on_goal 2 => subst y))
      | (extract_lets +onlyGivenNames y; refine (fun (_ : P y.2) => ?_) ?_; (on_goal 1 => clear_value y); (on_goal 2 => subst y))
      | (extract_lets +onlyGivenNames y; clear_value y) | with_reducible apply ih
      | with_reducible apply reduceAll_keeps hP

theorem acqPut_keeps {P : State → Prop} (hP : Closed P) (s : State) (h : Half) (x : AcqRec) (hs : P s) :
    P (acqPut s h x) := by
  unfold acqPut
  repeat' first
    | with_reducible assumption
    | (extract_lets +onlyGivenNames y; refine (fun (_ : P y) => ?_) ?_; (on_goal 1 => clear_value y); (on_goal 2 => subst y))
    | (extract_lets +onlyGivenNames y; clear_value y) | with_reducible apply State.setAcq_keeps hP

theorem acqDrop_keeps {P : State → Prop} (hP : Closed P) (s : State) (h : Half) (r : ℕ) (st : ℕ) (hs : P s) :
    P (acqDrop s h r st) := by
  unfold acqDrop
  repeat' first
    | with_reducible assumption
    | (extract_lets +onlyGivenNames y; refine (fun (_ : P y) => ?_) ?_; (on_goal 1 => clear_value y); (on_goal 2 => subst y))
    | (extract_lets +onlyGivenNames y; clear_value y) | with_reducible apply State.setFld_keeps hP
    | with_reducible apply State.setAcq_keeps hP

theorem acqCount_keeps {P : State → Prop} (hP : Closed P) (s : State) (h : Half) (hs : P s) :
    P (acqCount s h) := by
  unfold acqCount
  repeat' first
    | with_reducible assumption
    | (extract_lets +onlyGivenNames y; refine (fun (_ : P y) => ?_) ?_; (on_goal 1 => clear_value y); (on_goal 2 => subst y))
    | (extract_lets +onlyGivenNames y; clear_value y) | with_reducible apply State.setFld_keeps hP

theorem armAt_keeps {P : State → Prop} (hP : Closed P) (s : State) (h : Half) (r : ℕ) (after : Option ℕ) (hs : P s) :
    P (armAt s h r after) := by
  unfold armAt
  repeat' first
    | with_reducible assumption
    | (extract_lets +onlyGivenNames y; refine (fun (_ : P y) => ?_) ?_; (on_goal 1 => clear_value y); (on_goal 2 => subst y))
    | (extract_lets +onlyGivenNames y; clear_value y) | with_reducible apply State.setFld_keeps hP
    | with_reducible apply State.setAcq_keeps hP | with_reducible apply raiseIf_keeps hP
    | with_reducible apply acqDrop_keeps hP | with_reducible apply acqCount_keeps hP
    | with_reducible apply keeps_ite

theorem armRecord_keeps {P : State → Prop} (hP : Closed P) (s : State) (h : Half) (r : ℕ) (hs : P s) :
    P (armRecord s h r) := by
  unfold armRecord
  repeat' first
    | with_reducible assumption
    | (extract_lets +onlyGivenNames y; refine (fun (_ : P y) => ?_) ?_; (on_goal 1 => clear_value y); (on_goal 2 => subst y))
    | (extract_lets +onlyGivenNames y; clear_value y) | with_reducible apply armAt_keeps hP
    | with_reducible apply keeps_ite

theorem recordRearm_keeps {P : State → Prop} (hP : Closed P) (s : State) (h : Half) (r : ℕ) (hs : P s) :
    P (recordRearm s h r) := by
  unfold recordRearm
  repeat' first
    | with_reducible assumption | with_reducible apply armAt_keeps hP | with_reducible apply keeps_ite | split

theorem disarmRecord_keeps {P : State → Prop} (hP : Closed P) (s : State) (h : Half) (r : ℕ) (hs : P s) :
    P (disarmRecord s h r) := by
  unfold disarmRecord
  repeat' first
    | with_reducible assumption
    | (extract_lets +onlyGivenNames y; refine (fun (_ : P y) => ?_) ?_; (on_goal 1 => clear_value y); (on_goal 2 => subst y))
    | (extract_lets +onlyGivenNames y; clear_value y) | with_reducible apply acqPut_keeps hP | split

theorem disarmNow_keeps {P : State → Prop} (hP : Closed P) (s : State) (h : Half) (r : ℕ) (hs : P s) :
    P (disarmNow s h r) := by
  unfold disarmNow
  repeat' first
    | with_reducible assumption
    | (extract_lets +onlyGivenNames y; refine (fun (_ : P y) => ?_) ?_; (on_goal 1 => clear_value y); (on_goal 2 => subst y))
    | (extract_lets +onlyGivenNames y; clear_value y) | with_reducible apply acqPut_keeps hP
    | with_reducible apply acqDrop_keeps hP | with_reducible apply acqCount_keeps hP
    | with_reducible apply keeps_ite | split

theorem clearRecord_keeps {P : State → Prop} (hP : Closed P) (s : State) (h : Half) (r : ℕ) (hs : P s) :
    P (clearRecord s h r) := by
  unfold clearRecord
  repeat' first
    | with_reducible assumption | with_reducible apply State.setFld_keeps hP | with_reducible apply keeps_ite

theorem acqTrigger_keeps {P : State → Prop} (hP : Closed P) (s : State) (h : Half) (sel : ℕ → Bool) (t : ℕ) (src : ℕ) (forced : Bool) (hs : P s) :
    P (acqTrigger s h sel t src forced) := by
  unfold acqTrigger
  repeat' first
    | with_reducible assumption
    | (extract_lets +onlyGivenNames y; refine (fun (_ : P y) => ?_) ?_; (on_goal 1 => clear_value y); (on_goal 2 => subst y))
    | (extract_lets +onlyGivenNames y; clear_value y) | with_reducible apply State.setAcq_keeps hP
    | with_reducible apply acqFire_keeps hP | with_reducible apply raiseAt_keeps hP | with_reducible apply keeps_ite

theorem forceRecord_keeps {P : State → Prop} (hP : Closed P) (s : State) (h : Half) (r : ℕ) (hs : P s) :
    P (forceRecord s h r) := by
  unfold forceRecord
  repeat' first | with_reducible assumption | with_reducible apply acqTrigger_keeps hP

theorem recCmd_keeps {P : State → Prop} (hP : Closed P) (s : State) (h : Half) (r : ℕ) (v : ℕ) (hs : P s) :
    P (recCmd s h r v) := by
  unfold recCmd
  repeat' first
    | with_reducible assumption
    | (extract_lets +onlyGivenNames y; refine (fun (_ : P y) => ?_) ?_; (on_goal 1 => clear_value y); (on_goal 2 => subst y))
    | (extract_lets +onlyGivenNames y; clear_value y) | with_reducible apply armRecord_keeps hP
    | with_reducible apply disarmRecord_keeps hP | with_reducible apply clearRecord_keeps hP
    | with_reducible apply forceRecord_keeps hP | with_reducible apply keeps_ite

theorem acqCtrl_keeps {P : State → Prop} (hP : Closed P) (s : State) (h : Half) (v : ℕ) (hs : P s) :
    P (acqCtrl s h v) := by
  unfold acqCtrl
  repeat' first
    | with_reducible assumption
    | (extract_lets +onlyGivenNames y; refine (fun (_ : P y) => ?_) ?_; (on_goal 1 => clear_value y); (on_goal 2 => subst y))
    | (extract_lets +onlyGivenNames y; clear_value y) | with_reducible apply State.setWordN_keeps hP
    | with_reducible apply State.setWords_keeps hP | with_reducible apply keeps_ite

theorem triggerEdge_keeps {P : State → Prop} (hP : Closed P) (s : State) (h : Half) (t : ℕ) (rising : Bool) (stamp : ℕ) (hs : P s) :
    P (triggerEdge s h t rising stamp) := by
  unfold triggerEdge
  repeat' first
    | with_reducible assumption
    | (extract_lets +onlyGivenNames y; refine (fun (_ : P y) => ?_) ?_; (on_goal 1 => clear_value y); (on_goal 2 => subst y))
    | (extract_lets +onlyGivenNames y; clear_value y) | with_reducible apply raiseAt_keeps hP
    | with_reducible apply acqTrigger_keeps hP

theorem halyardEdge_keeps {P : State → Prop} (hP : Closed P) (s : State) (h : Half) (l : ℕ) (rising : Bool) (stamp : ℕ) (hs : P s) :
    P (halyardEdge s h l rising stamp) := by
  unfold halyardEdge
  repeat' first
    | with_reducible assumption
    | (extract_lets +onlyGivenNames y; refine (fun (_ : P y) => ?_) ?_; (on_goal 1 => clear_value y); (on_goal 2 => subst y))
    | (extract_lets +onlyGivenNames y; clear_value y) | with_reducible apply raiseAt_keeps hP
    | with_reducible apply acqTrigger_keeps hP

theorem hlDriveOff_keeps {P : State → Prop} (hP : Closed P) (s : State) (l : ℕ) (hs : P s) :
    P (hlDriveOff s l) := by
  unfold hlDriveOff
  repeat' first
    | with_reducible assumption
    | (extract_lets +onlyGivenNames y; refine (fun (_ : P y) => ?_) ?_; (on_goal 1 => clear_value y); (on_goal 2 => subst y))
    | (extract_lets +onlyGivenNames y; clear_value y) | with_reducible apply hP.put | with_reducible apply hP.byte
    | with_reducible apply hP.drop | with_reducible apply hP.wipe | with_reducible apply hP.keepRegs
    | with_reducible apply hP.keepMem | with_reducible apply hP.other

theorem hlPulse_keeps {P : State → Prop} (hP : Closed P) (s : State) (mask : ℕ) (hs : P s) :
    P (hlPulse s mask) := by
  unfold hlPulse
  repeat' first | with_reducible assumption | with_reducible apply hlDriveOn_keeps hP

theorem remoteReceive_keeps {P : State → Prop} (hP : Closed P) (s : State) (h : Half) (m : List Byte) (hs : P s) :
    P (remoteReceive s h m) := by
  unfold remoteReceive
  repeat' first
    | with_reducible assumption
    | (extract_lets +onlyGivenNames y; refine (fun (_ : P y) => ?_) ?_; (on_goal 1 => clear_value y); (on_goal 2 => subst y))
    | (extract_lets +onlyGivenNames y; clear_value y) | with_reducible apply State.setAcq_keeps hP
    | with_reducible apply raiseAt_keeps hP | with_reducible apply acqTrigger_keeps hP
    | with_reducible apply keeps_ite

theorem deliverHeld_keeps {P : State → Prop} (hP : Closed P) (h : Half) (x1 : List (ℕ × ℕ × Bool)) (x2 : AcqRec) (x3 : State) (hs : P x3) :
    P (deliverHeld h x1 x2 x3).2 := by
  induction x1 generalizing h x2 x3 with
  | nil =>
    unfold deliverHeld
    repeat' first | with_reducible assumption
  | cons z0 l0 ih =>
    unfold deliverHeld
    repeat' first
      | with_reducible assumption
      | (extract_lets +onlyGivenNames y; refine (fun (_ : P y) => ?_) ?_; (on_goal 1 => clear_value y); (on_goal 2 => subst y))
      | (extract_lets +onlyGivenNames y; refine (fun (_ : P y.2) => ?_) ?_; (on_goal 1 => clear_value y); (on_goal 2 => subst y))
      | (extract_lets +onlyGivenNames y; clear_value y) | with_reducible apply ih
      | with_reducible apply acqDeliver_keeps hP

theorem ringBytes_keeps {P : State → Prop} (hP : Closed P) (base : ℕ) (size : ℕ) (x2 : ℕ) (x3 : List Byte) (x4 : State) (hs : P x4) :
    P (ringBytes base size x2 x3 x4) := by
  induction x3 generalizing base size x2 x4 with
  | nil =>
    unfold ringBytes
    repeat' first | with_reducible assumption
  | cons z0 l0 ih =>
    unfold ringBytes
    repeat' first | with_reducible assumption | with_reducible apply ih | with_reducible apply State.setByte_keeps hP

theorem streamRow_keeps {P : State → Prop} (hP : Closed P) (s : State) (h : Half) (x : AcqRec) (k : ℕ) (row : List Byte) (hs : P s) :
    P (streamRow s h x k row).2.2 := by
  unfold streamRow
  repeat' first
    | with_reducible assumption
    | (extract_lets +onlyGivenNames y; refine (fun (_ : P y) => ?_) ?_; (on_goal 1 => clear_value y); (on_goal 2 => subst y))
    | (extract_lets +onlyGivenNames y; clear_value y) | with_reducible apply State.setFld_keeps hP
    | with_reducible apply State.count_keeps hP | with_reducible apply ringBytes_keeps hP
    | with_reducible apply keeps_ite | with_reducible apply keeps_ite2 | with_reducible apply keeps_ite1 | split
    | with_reducible apply hP.put | with_reducible apply hP.byte | with_reducible apply hP.drop
    | with_reducible apply hP.wipe | with_reducible apply hP.keepRegs | with_reducible apply hP.keepMem
    | with_reducible apply hP.other

theorem writeRow_keeps {P : State → Prop} (hP : Closed P) (s : State) (h : Half) (x : AcqRec) (k : ℕ) (hs : P s) :
    P (writeRow s h x k).2.2 := by
  unfold writeRow
  repeat' first
    | with_reducible assumption
    | (extract_lets +onlyGivenNames y; refine (fun (_ : P y) => ?_) ?_; (on_goal 1 => clear_value y); (on_goal 2 => subst y))
    | (extract_lets +onlyGivenNames y; refine (fun (_ : P y.2.2) => ?_) ?_; (on_goal 1 => clear_value y); (on_goal 2 => subst y))
    | (extract_lets +onlyGivenNames y; refine (fun (_ : P y.2) => ?_) ?_; (on_goal 1 => clear_value y); (on_goal 2 => subst y))
    | (extract_lets +onlyGivenNames y; clear_value y) | with_reducible apply State.setMemBytes_keeps hP
    | with_reducible apply rowWords_keeps hP | with_reducible apply streamRow_keeps hP
    | with_reducible apply keeps_ite | with_reducible apply keeps_ite2 | with_reducible apply keeps_ite1 | split

theorem captured_keeps {P : State → Prop} (hP : Closed P) (s : State) (h : Half) (x : AcqRec) (hs : P s) :
    P (captured s h x) := by
  unfold captured
  repeat' first
    | with_reducible assumption
    | (extract_lets +onlyGivenNames y; refine (fun (_ : P y) => ?_) ?_; (on_goal 1 => clear_value y); (on_goal 2 => subst y))
    | (extract_lets +onlyGivenNames y; clear_value y) | with_reducible apply State.setFld_keeps hP
    | with_reducible apply State.setMemBytes_keeps hP | with_reducible apply State.setAcq_keeps hP
    | with_reducible apply raiseEvt_keeps hP | with_reducible apply acqDrop_keeps hP
    | with_reducible apply keeps_ite

theorem takeValues_keeps {P : State → Prop} (hP : Closed P) (s : State) (h : Half) (x : AcqRec) (vs : List ℕ) (hs : P s) :
    P (takeValues s h x vs).2.2 := by
  unfold takeValues
  repeat' first
    | with_reducible assumption
    | (extract_lets +onlyGivenNames y; refine (fun (_ : P y) => ?_) ?_; (on_goal 1 => clear_value y); (on_goal 2 => subst y))
    | (extract_lets +onlyGivenNames y; refine (fun (_ : P y.2.2) => ?_) ?_; (on_goal 1 => clear_value y); (on_goal 2 => subst y))
    | (extract_lets +onlyGivenNames y; refine (fun (_ : P y.2) => ?_) ?_; (on_goal 1 => clear_value y); (on_goal 2 => subst y))
    | (extract_lets +onlyGivenNames y; clear_value y) | with_reducible apply writeRow_keeps hP
    | with_reducible apply keeps_ite | with_reducible apply keeps_ite2 | with_reducible apply keeps_ite1 | split

theorem thresholdSource_keeps {P : State → Prop} (hP : Closed P) (s : State) (h : Half) (x : AcqRec) (n : ℕ) (hs : P s) :
    P (thresholdSource s h x n).2 := by
  unfold thresholdSource
  repeat' first
    | with_reducible assumption
    | (extract_lets +onlyGivenNames y; refine (fun (_ : P y) => ?_) ?_; (on_goal 1 => clear_value y); (on_goal 2 => subst y))
    | (extract_lets +onlyGivenNames y; refine (fun (_ : P y.2) => ?_) ?_; (on_goal 1 => clear_value y); (on_goal 2 => subst y))
    | (extract_lets +onlyGivenNames y; clear_value y) | with_reducible apply acqDeliver_keeps hP
    | with_reducible apply signalValue_keeps hP | with_reducible apply keeps_ite | with_reducible apply keeps_ite2

theorem recordFilled_keeps {P : State → Prop} (hP : Closed P) (s : State) (h : Half) (x : AcqRec) (e : Option ℕ) (hs : P s) :
    P (recordFilled s h x e) := by
  unfold recordFilled
  extract_lets b s1 s2 s3
  have h1 : P s1 := by
    dsimp only [s1]
    split
    · exact State.setFld_keeps hP _ _ _ _ hs
    · exact hs
  have h2 : P s2 := acqPut_keeps hP _ _ _ h1
  have h3 : P s3 := by
    dsimp only [s3]
    cases e with
    | none => exact h2
    | some e => exact raiseEvt_keeps hP _ _ _ h2
  split
  · exact captured_keeps hP _ _ _ h3
  · exact h3

theorem recPeriod_keeps {P : State → Prop} (hP : Closed P) (s : State) (h : Half) (r : ℕ) (hs : P s) :
    P (recPeriod s h r) := by
  unfold recPeriod
  repeat' first
    | with_reducible assumption
    | (extract_lets +onlyGivenNames y; refine (fun (_ : P y) => ?_) ?_; (on_goal 1 => clear_value y); (on_goal 2 => subst y))
    | (extract_lets +onlyGivenNames y; refine (fun (_ : P y.2.2) => ?_) ?_; (on_goal 1 => clear_value y); (on_goal 2 => subst y))
    | (extract_lets +onlyGivenNames y; refine (fun (_ : P y.2) => ?_) ?_; (on_goal 1 => clear_value y); (on_goal 2 => subst y))
    | (extract_lets +onlyGivenNames y; clear_value y) | with_reducible apply chanValues_keeps hP
    | with_reducible apply deliverHeld_keeps hP | with_reducible apply takeValues_keeps hP
    | with_reducible apply thresholdSource_keeps hP | with_reducible apply recordFilled_keeps hP
    | with_reducible apply keeps_ite | split

theorem acqPeriod_keeps {P : State → Prop} (hP : Closed P) (s : State) (h : Half) (hs : P s) :
    P (acqPeriod s h) := by
  unfold acqPeriod
  repeat' first
    | with_reducible assumption | with_reducible apply acqCount_keeps hP | with_reducible apply recPeriod_keeps hP
    | (with_reducible apply keeps_foldl; intro _ _ _) | with_reducible apply keeps_ite

theorem acqTakeover_keeps {P : State → Prop} (hP : Closed P) (s : State) (h : Half) (hs : P s) :
    P (acqTakeover s h) := by
  unfold acqTakeover
  repeat' first
    | with_reducible assumption
    | (extract_lets +onlyGivenNames y; refine (fun (_ : P y) => ?_) ?_; (on_goal 1 => clear_value y); (on_goal 2 => subst y))
    | (extract_lets +onlyGivenNames y; clear_value y) | with_reducible apply acqDrop_keeps hP
    | with_reducible apply acqCount_keeps hP | with_reducible apply armRecord_keeps hP
    | (with_reducible apply keeps_foldl; intro _ _ _)

end Sys2Proof.Machine
end

