-- ==== Sys2Proof/Laws/KeepsMotion.lean ====
section
/-! SUPPORT. What the operations keep: the profile engines, the cores, the control engines, the servo windows and the arms. Where P is closed under
the stores' writes, each operation that takes a state with P answers one with P. -/
set_option maxRecDepth 20000
namespace Sys2Proof.Machine

-- One theorem at a time: the stacks of many threads together exceed the memory the check allows.
set_option Elab.async false

theorem hoistRevert_keeps {P : State → Prop} (hP : Closed P) (s : State) (h : Half) (mask : ℕ) (id : ℕ) (k : ℕ) (x5 : ℕ) (hs : P s) :
    P (hoistRevert s h mask id k x5) := by
  induction x5 generalizing s h mask id k with
  | zero =>
    unfold hoistRevert
    repeat' first | with_reducible assumption
  | succ n0 ih =>
    unfold hoistRevert
    repeat' first
      | with_reducible assumption
      | (extract_lets +onlyGivenNames y; refine (fun (_ : P y) => ?_) ?_; (on_goal 1 => clear_value y); (on_goal 2 => subst y))
      | (extract_lets +onlyGivenNames y; clear_value y) | with_reducible apply ih
      | with_reducible apply State.setFld_keeps hP | with_reducible apply State.setArm_keeps hP
      | with_reducible apply keeps_ite

theorem cancelHoists_keeps {P : State → Prop} (hP : Closed P) (s : State) (h : Half) (j : ℕ) (x3 : ℕ) (hs : P s) :
    P (cancelHoists s h j x3) := by
  induction x3 generalizing s h j with
  | zero =>
    unfold cancelHoists
    repeat' first | with_reducible assumption
  | succ n0 ih =>
    unfold cancelHoists
    repeat' first
      | with_reducible assumption
      | (extract_lets +onlyGivenNames y; refine (fun (_ : P y) => ?_) ?_; (on_goal 1 => clear_value y); (on_goal 2 => subst y))
      | (extract_lets +onlyGivenNames y; clear_value y) | with_reducible apply ih
      | with_reducible apply State.setFld_keeps hP | with_reducible apply raiseEvt_keeps hP
      | with_reducible apply hoistRevert_keeps hP | with_reducible apply keeps_ite | split

theorem pathStop_keeps {P : State → Prop} (hP : Closed P) (s : State) (h : Half) (j : ℕ) (quick : Bool) (hs : P s) :
    P (pathStop s h j quick) := by
  unfold pathStop
  repeat' first
    | with_reducible assumption
    | (extract_lets +onlyGivenNames y; refine (fun (_ : P y) => ?_) ?_; (on_goal 1 => clear_value y); (on_goal 2 => subst y))
    | (extract_lets +onlyGivenNames y; clear_value y) | with_reducible apply State.setFld_keeps hP
    | with_reducible apply State.setArm_keeps hP | with_reducible apply cancelHoists_keeps hP
    | with_reducible apply keeps_ite

theorem endCommand_keeps {P : State → Prop} (hP : Closed P) (s : State) (h : Half) (k : ℕ) (code : ℕ) (hs : P s) :
    P (endCommand s h k code) := by
  unfold endCommand
  repeat' first
    | with_reducible assumption
    | (extract_lets +onlyGivenNames y; refine (fun (_ : P y) => ?_) ?_; (on_goal 1 => clear_value y); (on_goal 2 => subst y))
    | (extract_lets +onlyGivenNames y; clear_value y) | with_reducible apply State.setFld_keeps hP
    | with_reducible apply State.putFlag_keeps hP | with_reducible apply keeps_ite

theorem stopAxis_keeps {P : State → Prop} (hP : Closed P) (s : State) (h : Half) (k : ℕ) (quick : Bool) (hs : P s) :
    P (stopAxis s h k quick) := by
  unfold stopAxis
  repeat' first
    | with_reducible assumption
    | (extract_lets +onlyGivenNames y; refine (fun (_ : P y) => ?_) ?_; (on_goal 1 => clear_value y); (on_goal 2 => subst y))
    | (extract_lets +onlyGivenNames y; clear_value y) | with_reducible apply State.setFld_keeps hP
    | with_reducible apply State.setPrf_keeps hP | with_reducible apply endCommand_keeps hP

theorem flushQueue_keeps {P : State → Prop} (hP : Closed P) (s : State) (h : Half) (j : ℕ) (hs : P s) :
    P (flushQueue s h j) := by
  unfold flushQueue
  repeat' first | with_reducible assumption | with_reducible apply State.setFld_keeps hP

theorem jointStop_keeps {P : State → Prop} (hP : Closed P) (s : State) (h : Half) (j : ℕ) (quick : Bool) (hs : P s) :
    P (jointStop s h j quick) := by
  unfold jointStop
  repeat' first
    | with_reducible assumption
    | (extract_lets +onlyGivenNames y; refine (fun (_ : P y) => ?_) ?_; (on_goal 1 => clear_value y); (on_goal 2 => subst y))
    | (extract_lets +onlyGivenNames y; clear_value y) | with_reducible apply State.setFld_keeps hP
    | with_reducible apply State.setArm_keeps hP | with_reducible apply raiseEvt_keeps hP
    | with_reducible apply cancelHoists_keeps hP | with_reducible apply stopAxis_keeps hP
    | with_reducible apply flushQueue_keeps hP | (with_reducible apply keeps_foldl; intro _ _ _)
    | with_reducible apply keeps_ite

theorem takeLimits_keeps {P : State → Prop} (hP : Closed P) (s : State) (h : Half) (k : ℕ) (hs : P s) :
    P (takeLimits s h k).2.2 := by
  unfold takeLimits
  repeat' first
    | with_reducible assumption
    | (extract_lets +onlyGivenNames y; refine (fun (_ : P y) => ?_) ?_; (on_goal 1 => clear_value y); (on_goal 2 => subst y))
    | (extract_lets +onlyGivenNames y; refine (fun (fy1 : ∀ t, P t → P (y t)) => ?_) ?_; (on_goal 1 => clear_value y); (on_goal 2 => (subst y; intro t ht; beta_reduce)))
    | (extract_lets +onlyGivenNames y; refine (fun (fy2 : ∀ t r, P t → P (y t r)) => ?_) ?_; (on_goal 1 => clear_value y); (on_goal 2 => (subst y; intro t r ht; beta_reduce)))
    | (extract_lets +onlyGivenNames y; refine (fun (fy3 : ∀ t r q, P t → P (y t r q)) => ?_) ?_; (on_goal 1 => clear_value y); (on_goal 2 => (subst y; intro t r q ht; beta_reduce)))
    | (extract_lets +onlyGivenNames y; refine (fun (fy4 : ∀ t r q p, P t → P (y t r q p)) => ?_) ?_; (on_goal 1 => clear_value y); (on_goal 2 => (subst y; intro t r q p ht; beta_reduce)))
    | (extract_lets +onlyGivenNames y; clear_value y) | with_reducible apply fy1 | with_reducible apply fy2
    | with_reducible apply fy3 | with_reducible apply fy4 | with_reducible apply State.putFlag_keeps hP
    | with_reducible apply State.setPrf_keeps hP

theorem noDefer_keeps {P : State → Prop} (hP : Closed P) (s : State) (h : Half) (k : ℕ) (hs : P s) :
    P (noDefer s h k) := by
  unfold noDefer
  repeat' first
    | with_reducible assumption
    | (extract_lets +onlyGivenNames y; refine (fun (_ : P y) => ?_) ?_; (on_goal 1 => clear_value y); (on_goal 2 => subst y))
    | (extract_lets +onlyGivenNames y; clear_value y) | with_reducible apply State.putFlag_keeps hP
    | with_reducible apply State.setPrf_keeps hP

theorem atRest_keeps {P : State → Prop} (hP : Closed P) (s : State) (h : Half) (k : ℕ) (hs : P s) :
    P (atRest s h k) := by
  unfold atRest
  repeat' first
    | with_reducible assumption
    | (extract_lets +onlyGivenNames y; refine (fun (_ : P y) => ?_) ?_; (on_goal 1 => clear_value y); (on_goal 2 => subst y))
    | (extract_lets +onlyGivenNames y; clear_value y) | with_reducible apply State.setFld_keeps hP
    | with_reducible apply State.setFldS_keeps hP | with_reducible apply State.setPrf_keeps hP
    | with_reducible apply endCommand_keeps hP | with_reducible apply keeps_ite

theorem putSp_keeps {P : State → Prop} (hP : Closed P) (s : State) (h : Half) (k : ℕ) (y : SetPoint) (hs : P s) :
    P (putSp s h k y) := by
  unfold putSp
  repeat' first
    | with_reducible assumption
    | (extract_lets +onlyGivenNames y; refine (fun (_ : P y) => ?_) ?_; (on_goal 1 => clear_value y); (on_goal 2 => subst y))
    | (extract_lets +onlyGivenNames y; clear_value y) | with_reducible apply State.setFld_keeps hP
    | with_reducible apply State.setFldS_keeps hP | with_reducible apply State.setPrf_keeps hP

theorem followMeasured_keeps {P : State → Prop} (hP : Closed P) (s : State) (h : Half) (k : ℕ) (hs : P s) :
    P (followMeasured s h k) := by
  unfold followMeasured
  repeat' first
    | with_reducible assumption
    | (extract_lets +onlyGivenNames y; refine (fun (_ : P y) => ?_) ?_; (on_goal 1 => clear_value y); (on_goal 2 => subst y))
    | (extract_lets +onlyGivenNames y; clear_value y) | with_reducible apply putSp_keeps hP

theorem softStop_keeps {P : State → Prop} (hP : Closed P) (s : State) (h : Half) (k : ℕ) (lim : ℤ) (hs : P s) :
    P (softStop s h k lim) := by
  induction k generalizing s h lim with
  | zero =>
    unfold softStop
    repeat' first
      | with_reducible assumption
      | (extract_lets +onlyGivenNames y; refine (fun (_ : P y) => ?_) ?_; (on_goal 1 => clear_value y); (on_goal 2 => subst y))
      | (extract_lets +onlyGivenNames y; clear_value y) | with_reducible apply State.setFld_keeps hP
      | with_reducible apply State.setPrf_keeps hP | with_reducible apply keeps_ite
  | succ n0 ih =>
    unfold softStop
    repeat' first
      | with_reducible assumption
      | (extract_lets +onlyGivenNames y; refine (fun (_ : P y) => ?_) ?_; (on_goal 1 => clear_value y); (on_goal 2 => subst y))
      | (extract_lets +onlyGivenNames y; clear_value y) | with_reducible apply ih
      | with_reducible apply State.setFld_keeps hP | with_reducible apply State.setPrf_keeps hP
      | with_reducible apply keeps_ite

theorem softOverrun_keeps {P : State → Prop} (hP : Closed P) (s : State) (h : Half) (k : ℕ) (hs : P s) :
    P (softOverrun s h k) := by
  unfold softOverrun
  repeat' first
    | with_reducible assumption
    | (extract_lets +onlyGivenNames y; refine (fun (_ : P y) => ?_) ?_; (on_goal 1 => clear_value y); (on_goal 2 => subst y))
    | (extract_lets +onlyGivenNames y; clear_value y) | with_reducible apply State.setFlag_keeps hP
    | with_reducible apply State.setPrf_keeps hP | with_reducible apply raiseEvt_keeps hP
    | with_reducible apply stopAxis_keeps hP | with_reducible apply keeps_ite

theorem moveToward_keeps {P : State → Prop} (hP : Closed P) (s : State) (h : Half) (k : ℕ) (g : Goal) (hs : P s) :
    P (moveToward s h k g) := by
  unfold moveToward
  repeat' first
    | with_reducible assumption
    | (extract_lets +onlyGivenNames y; refine (fun (_ : P y) => ?_) ?_; (on_goal 1 => clear_value y); (on_goal 2 => subst y))
    | (extract_lets +onlyGivenNames y; refine (fun (_ : P y.2.2) => ?_) ?_; (on_goal 1 => clear_value y); (on_goal 2 => subst y))
    | (extract_lets +onlyGivenNames y; refine (fun (_ : P y.2) => ?_) ?_; (on_goal 1 => clear_value y); (on_goal 2 => subst y))
    | (extract_lets +onlyGivenNames y; clear_value y) | with_reducible apply State.setPrf_keeps hP
    | with_reducible apply State.takeFree_keeps hP | with_reducible apply takeLimits_keeps hP
    | with_reducible apply putSp_keeps hP | with_reducible apply softStop_keeps hP
    | with_reducible apply softOverrun_keeps hP | split

theorem reportLag_keeps {P : State → Prop} (hP : Closed P) (s : State) (h : Half) (k : ℕ) (d0 : ℤ) (vd : ℤ) (path : Bool) (hs : P s) :
    P (reportLag s h k d0 vd path) := by
  unfold reportLag
  repeat' first
    | with_reducible assumption
    | (extract_lets +onlyGivenNames y; refine (fun (_ : P y) => ?_) ?_; (on_goal 1 => clear_value y); (on_goal 2 => subst y))
    | (extract_lets +onlyGivenNames y; clear_value y) | with_reducible apply State.setFldS_keeps hP
    | with_reducible apply State.setFlag_keeps hP | with_reducible apply State.putFlag_keeps hP
    | with_reducible apply State.flagIf_keeps hP | with_reducible apply State.setPrf_keeps hP
    | with_reducible apply raiseEvt_keeps hP | with_reducible apply raiseIf_keeps hP
    | with_reducible apply pathStop_keeps hP | with_reducible apply keeps_ite | split

theorem followDemand_keeps {P : State → Prop} (hP : Closed P) (s : State) (h : Half) (k : ℕ) (d : ℤ) (before : ℤ) (path : Bool) (hs : P s) :
    P (followDemand s h k d before path) := by
  unfold followDemand
  repeat' first
    | with_reducible assumption
    | (extract_lets +onlyGivenNames y; refine (fun (_ : P y) => ?_) ?_; (on_goal 1 => clear_value y); (on_goal 2 => subst y))
    | (extract_lets +onlyGivenNames y; clear_value y) | with_reducible apply State.setPrf_keeps hP
    | with_reducible apply moveToward_keeps hP | with_reducible apply reportLag_keeps hP

theorem engageRel_keeps {P : State → Prop} (hP : Closed P) (s : State) (h : Half) (k : ℕ) (u : PrfUnit) (m : ℤ) (before : ℤ) (hs : P s) :
    P (engageRel s h k u m before) := by
  unfold engageRel
  repeat' first
    | with_reducible assumption
    | (extract_lets +onlyGivenNames y; refine (fun (_ : P y) => ?_) ?_; (on_goal 1 => clear_value y); (on_goal 2 => subst y))
    | (extract_lets +onlyGivenNames y; clear_value y) | with_reducible apply State.setPrf_keeps hP
    | with_reducible apply moveToward_keeps hP | with_reducible apply reportLag_keeps hP

theorem applyRef_keeps {P : State → Prop} (hP : Closed P) (s : State) (h : Half) (k : ℕ) (homePos : ℤ) (pref : ℤ) (hs : P s) :
    P (applyRef s h k homePos pref) := by
  unfold applyRef
  repeat' first
    | with_reducible assumption
    | (extract_lets +onlyGivenNames y; refine (fun (_ : P y) => ?_) ?_; (on_goal 1 => clear_value y); (on_goal 2 => subst y))
    | (extract_lets +onlyGivenNames y; clear_value y) | with_reducible apply State.setFldS_keeps hP
    | with_reducible apply State.setPrf_keeps hP | with_reducible apply State.setCe_keeps hP

theorem putHoming_keeps {P : State → Prop} (hP : Closed P) (s : State) (h : Half) (k : ℕ) (hm : Homing) (hs : P s) :
    P (putHoming s h k hm) := by
  unfold putHoming
  repeat' first
    | with_reducible assumption
    | (extract_lets +onlyGivenNames y; refine (fun (_ : P y) => ?_) ?_; (on_goal 1 => clear_value y); (on_goal 2 => subst y))
    | (extract_lets +onlyGivenNames y; clear_value y) | with_reducible apply State.setFld_keeps hP
    | with_reducible apply State.setPrf_keeps hP

theorem dropHoming_keeps {P : State → Prop} (hP : Closed P) (s : State) (h : Half) (k : ℕ) (hs : P s) :
    P (dropHoming s h k) := by
  unfold dropHoming
  repeat' first
    | with_reducible assumption
    | (extract_lets +onlyGivenNames y; refine (fun (_ : P y) => ?_) ?_; (on_goal 1 => clear_value y); (on_goal 2 => subst y))
    | (extract_lets +onlyGivenNames y; clear_value y) | with_reducible apply State.setFld_keeps hP
    | with_reducible apply State.setPrf_keeps hP

theorem abortHoming_keeps {P : State → Prop} (hP : Closed P) (s : State) (h : Half) (k : ℕ) (code : ℕ) (hs : P s) :
    P (abortHoming s h k code) := by
  unfold abortHoming
  repeat' first
    | with_reducible assumption
    | (extract_lets +onlyGivenNames y; refine (fun (_ : P y) => ?_) ?_; (on_goal 1 => clear_value y); (on_goal 2 => subst y))
    | (extract_lets +onlyGivenNames y; clear_value y) | with_reducible apply State.setFlag_keeps hP
    | with_reducible apply State.putFlag_keeps hP | with_reducible apply raiseEvt_keeps hP
    | with_reducible apply endCommand_keeps hP | with_reducible apply dropHoming_keeps hP
    | with_reducible apply keeps_ite

theorem completeHoming_keeps {P : State → Prop} (hP : Closed P) (s : State) (h : Half) (k : ℕ) (hs : P s) :
    P (completeHoming s h k) := by
  unfold completeHoming
  repeat' first
    | with_reducible assumption
    | (extract_lets +onlyGivenNames y; refine (fun (_ : P y) => ?_) ?_; (on_goal 1 => clear_value y); (on_goal 2 => subst y))
    | (extract_lets +onlyGivenNames y; clear_value y) | with_reducible apply State.setFld_keeps hP
    | with_reducible apply State.setFlag_keeps hP | with_reducible apply endCommand_keeps hP
    | with_reducible apply stopAxis_keeps hP | with_reducible apply dropHoming_keeps hP
    | with_reducible apply keeps_ite

theorem latchLimit_keeps {P : State → Prop} (hP : Closed P) (s : State) (h : Half) (k : ℕ) (i : ℕ) (stamp : ℕ) (hs : P s) :
    P (latchLimit s h k i stamp) := by
  unfold latchLimit
  repeat' first
    | with_reducible assumption
    | (extract_lets +onlyGivenNames y; refine (fun (_ : P y) => ?_) ?_; (on_goal 1 => clear_value y); (on_goal 2 => subst y))
    | (extract_lets +onlyGivenNames y; clear_value y) | with_reducible apply State.setFld_keeps hP
    | with_reducible apply State.setFlag_keeps hP | with_reducible apply State.flagIf_keeps hP
    | with_reducible apply raiseEvt_keeps hP | with_reducible apply keeps_ite

theorem takeIndex_keeps {P : State → Prop} (hP : Closed P) (s : State) (h : Half) (k : ℕ) (hm : Homing) (pos : Option ℤ) (at_ : ℕ × ℕ) (hs : P s) :
    P (takeIndex s h k hm pos at_) := by
  unfold takeIndex
  repeat' first
    | with_reducible assumption
    | (extract_lets +onlyGivenNames y; refine (fun (_ : P y) => ?_) ?_; (on_goal 1 => clear_value y); (on_goal 2 => subst y))
    | (extract_lets +onlyGivenNames y; clear_value y) | with_reducible apply State.setFlag_keeps hP
    | with_reducible apply applyRef_keeps hP | with_reducible apply putHoming_keeps hP | split

theorem homeEdgeSeen_keeps {P : State → Prop} (hP : Closed P) (s : State) (h : Half) (k : ℕ) (hm : Homing) (at_ : ℕ × ℕ) (hs : P s) :
    P (homeEdgeSeen s h k hm at_) := by
  unfold homeEdgeSeen
  repeat' first
    | with_reducible assumption
    | (extract_lets +onlyGivenNames y; refine (fun (_ : P y) => ?_) ?_; (on_goal 1 => clear_value y); (on_goal 2 => subst y))
    | (extract_lets +onlyGivenNames y; clear_value y) | with_reducible apply putHoming_keeps hP
    | with_reducible apply takeIndex_keeps hP | split

theorem homingEdge_keeps {P : State → Prop} (hP : Closed P) (s : State) (h : Half) (k : ℕ) (i : ℕ) (level : Bool) (at_ : ℕ × ℕ) (hm : Homing) (hs : P s) :
    P (homingEdge s h k i level at_ hm) := by
  unfold homingEdge
  repeat' first
    | with_reducible assumption
    | (extract_lets +onlyGivenNames y; refine (fun (_ : P y) => ?_) ?_; (on_goal 1 => clear_value y); (on_goal 2 => subst y))
    | (extract_lets +onlyGivenNames y; clear_value y) | with_reducible apply stopAxis_keeps hP
    | with_reducible apply putHoming_keeps hP | with_reducible apply abortHoming_keeps hP
    | with_reducible apply completeHoming_keeps hP | with_reducible apply latchLimit_keeps hP
    | with_reducible apply homeEdgeSeen_keeps hP | with_reducible apply keeps_ite | split

theorem indexFound_keeps {P : State → Prop} (hP : Closed P) (s : State) (h : Half) (k : ℕ) (pos : Option ℤ) (at_ : ℕ × ℕ) (hs : P s) :
    P (indexFound s h k pos at_) := by
  unfold indexFound
  repeat' first
    | with_reducible assumption
    | (extract_lets +onlyGivenNames y; refine (fun (_ : P y) => ?_) ?_; (on_goal 1 => clear_value y); (on_goal 2 => subst y))
    | (extract_lets +onlyGivenNames y; clear_value y) | with_reducible apply putHoming_keeps hP
    | with_reducible apply takeIndex_keeps hP | with_reducible apply keeps_ite | split

theorem resolveEdge_keeps {P : State → Prop} (hP : Closed P) (s : State) (h : Half) (k : ℕ) (hm : Homing) (hs : P s) :
    P (resolveEdge s h k hm).1 := by
  unfold resolveEdge
  repeat' first
    | with_reducible assumption
    | (extract_lets +onlyGivenNames y; refine (fun (_ : P y) => ?_) ?_; (on_goal 1 => clear_value y); (on_goal 2 => subst y))
    | (extract_lets +onlyGivenNames y; clear_value y) | with_reducible apply State.setFlag_keeps hP
    | with_reducible apply applyRef_keeps hP | with_reducible apply keeps_ite | with_reducible apply keeps_ite2
    | with_reducible apply keeps_ite1 | split

theorem homingWindow_keeps {P : State → Prop} (hP : Closed P) (s : State) (h : Half) (k : ℕ) (hm : Homing) (hs : P s) :
    P (homingWindow s h k hm) := by
  unfold homingWindow
  repeat' first
    | with_reducible assumption
    | (extract_lets +onlyGivenNames y; refine (fun (_ : P y) => ?_) ?_; (on_goal 1 => clear_value y); (on_goal 2 => subst y))
    | (extract_lets +onlyGivenNames y; refine (fun (_ : P y.1) => ?_) ?_; (on_goal 1 => clear_value y); (on_goal 2 => subst y))
    | (extract_lets +onlyGivenNames y; clear_value y) | with_reducible apply State.setFlag_keeps hP
    | with_reducible apply stopAxis_keeps hP | with_reducible apply moveToward_keeps hP
    | with_reducible apply applyRef_keeps hP | with_reducible apply putHoming_keeps hP
    | with_reducible apply abortHoming_keeps hP | with_reducible apply completeHoming_keeps hP
    | with_reducible apply resolveEdge_keeps hP | with_reducible apply keeps_ite

theorem homeTorque_keeps {P : State → Prop} (hP : Closed P) (s : State) (h : Half) (k : ℕ) (hs : P s) :
    P (homeTorque s h k) := by
  unfold homeTorque
  repeat' first
    | with_reducible assumption
    | (extract_lets +onlyGivenNames y; refine (fun (_ : P y) => ?_) ?_; (on_goal 1 => clear_value y); (on_goal 2 => subst y))
    | (extract_lets +onlyGivenNames y; clear_value y) | with_reducible apply State.setPrf_keeps hP
    | with_reducible apply putSp_keeps hP | with_reducible apply applyRef_keeps hP
    | with_reducible apply putHoming_keeps hP | with_reducible apply keeps_ite | split

theorem limitTrip_keeps {P : State → Prop} (hP : Closed P) (s : State) (h : Half) (k : ℕ) (i : ℕ) (stamp : ℕ) (hs : P s) :
    P (limitTrip s h k i stamp) := by
  unfold limitTrip
  repeat' first
    | with_reducible assumption
    | (extract_lets +onlyGivenNames y; refine (fun (_ : P y) => ?_) ?_; (on_goal 1 => clear_value y); (on_goal 2 => subst y))
    | (extract_lets +onlyGivenNames y; clear_value y) | with_reducible apply stopAxis_keeps hP
    | with_reducible apply jointStop_keeps hP | with_reducible apply latchLimit_keeps hP
    | with_reducible apply keeps_ite | split

theorem qualify_keeps {P : State → Prop} (hP : Closed P) (s : State) (h : Half) (k : ℕ) (i : ℕ) (level : Bool) (stamp : ℕ) (hs : P s) :
    P (qualify s h k i level stamp) := by
  unfold qualify
  repeat' first
    | with_reducible assumption
    | (extract_lets +onlyGivenNames y; refine (fun (_ : P y) => ?_) ?_; (on_goal 1 => clear_value y); (on_goal 2 => subst y))
    | (extract_lets +onlyGivenNames y; clear_value y) | with_reducible apply State.setFld_keeps hP
    | with_reducible apply State.putFlag_keeps hP | with_reducible apply State.setPrf_keeps hP
    | with_reducible apply homingEdge_keeps hP | with_reducible apply limitTrip_keeps hP
    | with_reducible apply keeps_ite | split

theorem rawInput_keeps {P : State → Prop} (hP : Closed P) (s : State) (h : Half) (k : ℕ) (i : ℕ) (level : Bool) (stamp : ℕ) (hs : P s) :
    P (rawInput s h k i level stamp) := by
  unfold rawInput
  repeat' first
    | with_reducible assumption
    | (extract_lets +onlyGivenNames y; refine (fun (_ : P y) => ?_) ?_; (on_goal 1 => clear_value y); (on_goal 2 => subst y))
    | (extract_lets +onlyGivenNames y; clear_value y) | with_reducible apply State.setPrf_keeps hP
    | with_reducible apply qualify_keeps hP | with_reducible apply keeps_ite

theorem driveInput_keeps {P : State → Prop} (hP : Closed P) (s : State) (h : Half) (k : ℕ) (i : ℕ) (level : Bool) (stamp : ℕ) (hs : P s) :
    P (driveInput s h k i level stamp) := by
  unfold driveInput
  repeat' first
    | with_reducible assumption
    | (extract_lets +onlyGivenNames y; refine (fun (_ : P y) => ?_) ?_; (on_goal 1 => clear_value y); (on_goal 2 => subst y))
    | (extract_lets +onlyGivenNames y; clear_value y) | with_reducible apply State.putFlag_keeps hP
    | with_reducible apply State.setPrf_keeps hP | with_reducible apply qualify_keeps hP
    | with_reducible apply keeps_ite

theorem debounce_keeps {P : State → Prop} (hP : Closed P) (s : State) (h : Half) (k : ℕ) (i : ℕ) (hs : P s) :
    P (debounce s h k i) := by
  unfold debounce
  repeat' first
    | with_reducible assumption
    | (extract_lets +onlyGivenNames y; refine (fun (_ : P y) => ?_) ?_; (on_goal 1 => clear_value y); (on_goal 2 => subst y))
    | (extract_lets +onlyGivenNames y; clear_value y) | with_reducible apply State.putFlag_keeps hP
    | with_reducible apply qualify_keeps hP | with_reducible apply keeps_ite

theorem localEdge_keeps {P : State → Prop} (hP : Closed P) (s : State) (h : Half) (i : ℕ) (level : Bool) (stamp : ℕ) (x5 : ℕ) (hs : P s) :
    P (localEdge s h i level stamp x5) := by
  induction x5 generalizing s h i level stamp with
  | zero =>
    unfold localEdge
    repeat' first | with_reducible assumption
  | succ n0 ih =>
    unfold localEdge
    repeat' first
      | with_reducible assumption
      | (extract_lets +onlyGivenNames y; refine (fun (_ : P y) => ?_) ?_; (on_goal 1 => clear_value y); (on_goal 2 => subst y))
      | (extract_lets +onlyGivenNames y; clear_value y) | with_reducible apply ih
      | with_reducible apply rawInput_keeps hP | with_reducible apply keeps_ite

theorem sampleInputs_keeps {P : State → Prop} (hP : Closed P) (s : State) (h : Half) (k : ℕ) (hs : P s) :
    P (sampleInputs s h k) := by
  unfold sampleInputs
  repeat' first
    | with_reducible assumption | with_reducible apply rawInput_keeps hP
    | (with_reducible apply keeps_foldl; intro _ _ _) | split

theorem seedInputs_keeps {P : State → Prop} (hP : Closed P) (s : State) (h : Half) (k : ℕ) (hs : P s) :
    P (seedInputs s h k) := by
  unfold seedInputs
  repeat' first
    | with_reducible assumption | with_reducible apply State.putFlag_keeps hP
    | with_reducible apply State.setPrf_keeps hP | (with_reducible apply keeps_foldl; intro _ _ _) | split

theorem loopOff_keeps {P : State → Prop} (hP : Closed P) (s : State) (h : Half) (k : ℕ) (hs : P s) :
    P (loopOff s h k) := by
  unfold loopOff
  repeat' first
    | with_reducible assumption
    | (extract_lets +onlyGivenNames y; refine (fun (_ : P y) => ?_) ?_; (on_goal 1 => clear_value y); (on_goal 2 => subst y))
    | (extract_lets +onlyGivenNames y; clear_value y) | with_reducible apply State.setFld_keeps hP
    | with_reducible apply State.setFldS_keeps hP | with_reducible apply State.putFlag_keeps hP
    | with_reducible apply State.setPrf_keeps hP | with_reducible apply endCommand_keeps hP
    | with_reducible apply noDefer_keeps hP | with_reducible apply abortHoming_keeps hP
    | with_reducible apply keeps_ite

theorem freezeAxis_keeps {P : State → Prop} (hP : Closed P) (s : State) (h : Half) (k : ℕ) (hs : P s) :
    P (freezeAxis s h k) := by
  unfold freezeAxis
  repeat' first
    | with_reducible assumption
    | (extract_lets +onlyGivenNames y; refine (fun (_ : P y) => ?_) ?_; (on_goal 1 => clear_value y); (on_goal 2 => subst y))
    | (extract_lets +onlyGivenNames y; clear_value y) | with_reducible apply State.setFld_keeps hP
    | with_reducible apply State.setPrf_keeps hP | with_reducible apply endCommand_keeps hP
    | with_reducible apply noDefer_keeps hP | with_reducible apply abortHoming_keeps hP
    | with_reducible apply keeps_ite

theorem loopMark_keeps {P : State → Prop} (hP : Closed P) (s : State) (h : Half) (k : ℕ) (hs : P s) :
    P (loopMark s h k) := by
  unfold loopMark
  repeat' first
    | with_reducible assumption
    | (extract_lets +onlyGivenNames y; refine (fun (_ : P y) => ?_) ?_; (on_goal 1 => clear_value y); (on_goal 2 => subst y))
    | (extract_lets +onlyGivenNames y; clear_value y) | with_reducible apply State.setFlag_keeps hP
    | with_reducible apply State.flagIf_keeps hP

theorem softStart_keeps {P : State → Prop} (hP : Closed P) (s : State) (h : Half) (k : ℕ) (hs : P s) :
    P (softStart s h k) := by
  unfold softStart
  repeat' first
    | with_reducible assumption
    | (extract_lets +onlyGivenNames y; refine (fun (_ : P y) => ?_) ?_; (on_goal 1 => clear_value y); (on_goal 2 => subst y))
    | (extract_lets +onlyGivenNames y; clear_value y) | with_reducible apply State.setFld_keeps hP
    | with_reducible apply State.setFlag_keeps hP | with_reducible apply State.setPrf_keeps hP
    | with_reducible apply putSp_keeps hP | with_reducible apply keeps_ite

theorem putResult_keeps {P : State → Prop} (hP : Closed P) (s : State) (h : Half) (k : ℕ) (result : ℕ) (tag : ℕ) (hs : P s) :
    P (putResult s h k result tag) := by
  unfold putResult
  repeat' first
    | with_reducible assumption
    | (extract_lets +onlyGivenNames y; refine (fun (_ : P y) => ?_) ?_; (on_goal 1 => clear_value y); (on_goal 2 => subst y))
    | (extract_lets +onlyGivenNames y; clear_value y) | with_reducible apply State.setFld_keeps hP

theorem putStatus_keeps {P : State → Prop} (hP : Closed P) (s : State) (h : Half) (k : ℕ) (result : ℕ) (tag : ℕ) (busy : Bool) (hs : P s) :
    P (putStatus s h k result tag busy) := by
  unfold putStatus
  repeat' first
    | with_reducible assumption
    | (extract_lets +onlyGivenNames y; refine (fun (_ : P y) => ?_) ?_; (on_goal 1 => clear_value y); (on_goal 2 => subst y))
    | (extract_lets +onlyGivenNames y; clear_value y) | with_reducible apply State.putFlag_keeps hP
    | with_reducible apply State.setPrf_keeps hP | with_reducible apply putResult_keeps hP

theorem startMotion_keeps {P : State → Prop} (hP : Closed P) (s : State) (h : Half) (k : ℕ) (code : ℕ) (hs : P s) :
    P (startMotion s h k code) := by
  unfold startMotion
  repeat' first
    | with_reducible assumption
    | (extract_lets +onlyGivenNames y; refine (fun (_ : P y) => ?_) ?_; (on_goal 1 => clear_value y); (on_goal 2 => subst y))
    | (extract_lets +onlyGivenNames y; refine (fun (fy1 : ∀ t, P t → P (y t)) => ?_) ?_; (on_goal 1 => clear_value y); (on_goal 2 => (subst y; intro t ht; beta_reduce)))
    | (extract_lets +onlyGivenNames y; refine (fun (fy2 : ∀ t r, P t → P (y t r)) => ?_) ?_; (on_goal 1 => clear_value y); (on_goal 2 => (subst y; intro t r ht; beta_reduce)))
    | (extract_lets +onlyGivenNames y; refine (fun (fy3 : ∀ t r q, P t → P (y t r q)) => ?_) ?_; (on_goal 1 => clear_value y); (on_goal 2 => (subst y; intro t r q ht; beta_reduce)))
    | (extract_lets +onlyGivenNames y; refine (fun (fy4 : ∀ t r q p, P t → P (y t r q p)) => ?_) ?_; (on_goal 1 => clear_value y); (on_goal 2 => (subst y; intro t r q p ht; beta_reduce)))
    | (extract_lets +onlyGivenNames y; clear_value y) | with_reducible apply fy1 | with_reducible apply fy2
    | with_reducible apply fy3 | with_reducible apply fy4 | with_reducible apply State.setFld_keeps hP
    | with_reducible apply State.putFlag_keeps hP | with_reducible apply State.setPrf_keeps hP
    | with_reducible apply putHoming_keeps hP | with_reducible apply keeps_ite | split

theorem motionCommand_keeps {P : State → Prop} (hP : Closed P) (s : State) (h : Half) (k : ℕ) (code : ℕ) (tag : ℕ) (hs : P s) :
    P (motionCommand s h k code tag) := by
  unfold motionCommand
  repeat' first
    | with_reducible assumption | with_reducible apply putResult_keeps hP | with_reducible apply putStatus_keeps hP
    | with_reducible apply startMotion_keeps hP | split

theorem stopCommand_keeps {P : State → Prop} (hP : Closed P) (s : State) (h : Half) (k : ℕ) (tag : ℕ) (quick : Bool) (hs : P s) :
    P (stopCommand s h k tag quick) := by
  unfold stopCommand
  repeat' first
    | with_reducible assumption
    | (extract_lets +onlyGivenNames y; refine (fun (_ : P y) => ?_) ?_; (on_goal 1 => clear_value y); (on_goal 2 => subst y))
    | (extract_lets +onlyGivenNames y; clear_value y) | with_reducible apply pathStop_keeps hP
    | with_reducible apply stopAxis_keeps hP | with_reducible apply abortHoming_keeps hP
    | with_reducible apply putStatus_keeps hP | with_reducible apply keeps_ite | split

theorem limClear_keeps {P : State → Prop} (hP : Closed P) (s : State) (h : Half) (k : ℕ) (tag : ℕ) (hs : P s) :
    P (limClear s h k tag) := by
  unfold limClear
  repeat' first
    | with_reducible assumption
    | (extract_lets +onlyGivenNames y; refine (fun (_ : P y) => ?_) ?_; (on_goal 1 => clear_value y); (on_goal 2 => subst y))
    | (extract_lets +onlyGivenNames y; clear_value y) | with_reducible apply State.setFlag_keeps hP
    | with_reducible apply State.putFlag_keeps hP | with_reducible apply putResult_keeps hP
    | with_reducible apply keeps_ite

theorem prfCommand_keeps {P : State → Prop} (hP : Closed P) (s : State) (h : Half) (k : ℕ) (code : ℕ) (tag : ℕ) (hs : P s) :
    P (prfCommand s h k code tag) := by
  unfold prfCommand
  repeat' first
    | with_reducible assumption | with_reducible apply putResult_keeps hP
    | with_reducible apply motionCommand_keeps hP | with_reducible apply stopCommand_keeps hP
    | with_reducible apply limClear_keeps hP | with_reducible apply keeps_ite

theorem profileMove_keeps {P : State → Prop} (hP : Closed P) (s : State) (h : Half) (k : ℕ) (hs : P s) :
    P (profileMove s h k) := by
  unfold profileMove
  repeat' first
    | with_reducible assumption
    | (extract_lets +onlyGivenNames y; refine (fun (_ : P y) => ?_) ?_; (on_goal 1 => clear_value y); (on_goal 2 => subst y))
    | (extract_lets +onlyGivenNames y; refine (fun (fy1 : ∀ t, P t → P (y t)) => ?_) ?_; (on_goal 1 => clear_value y); (on_goal 2 => (subst y; intro t ht; beta_reduce)))
    | (extract_lets +onlyGivenNames y; refine (fun (fy2 : ∀ t r, P t → P (y t r)) => ?_) ?_; (on_goal 1 => clear_value y); (on_goal 2 => (subst y; intro t r ht; beta_reduce)))
    | (extract_lets +onlyGivenNames y; refine (fun (fy3 : ∀ t r q, P t → P (y t r q)) => ?_) ?_; (on_goal 1 => clear_value y); (on_goal 2 => (subst y; intro t r q ht; beta_reduce)))
    | (extract_lets +onlyGivenNames y; refine (fun (fy4 : ∀ t r q p, P t → P (y t r q p)) => ?_) ?_; (on_goal 1 => clear_value y); (on_goal 2 => (subst y; intro t r q p ht; beta_reduce)))
    | (extract_lets +onlyGivenNames y; clear_value y) | with_reducible apply fy1 | with_reducible apply fy2
    | with_reducible apply fy3 | with_reducible apply fy4 | with_reducible apply State.setPrf_keeps hP
    | with_reducible apply noDefer_keeps hP | with_reducible apply atRest_keeps hP
    | with_reducible apply putSp_keeps hP | with_reducible apply moveToward_keeps hP
    | with_reducible apply followDemand_keeps hP | with_reducible apply engageRel_keeps hP
    | with_reducible apply homingWindow_keeps hP | with_reducible apply keeps_ite | split

theorem profileAxis_keeps {P : State → Prop} (hP : Closed P) (s : State) (h : Half) (k : ℕ) (hs : P s) :
    P (profileAxis s h k) := by
  unfold profileAxis
  repeat' first
    | with_reducible assumption
    | (extract_lets +onlyGivenNames y; refine (fun (_ : P y) => ?_) ?_; (on_goal 1 => clear_value y); (on_goal 2 => subst y))
    | (extract_lets +onlyGivenNames y; clear_value y) | with_reducible apply State.setFld_keeps hP
    | with_reducible apply State.putFlag_keeps hP | with_reducible apply State.setPrf_keeps hP
    | with_reducible apply putSp_keeps hP | with_reducible apply followMeasured_keeps hP
    | with_reducible apply homingWindow_keeps hP | with_reducible apply profileMove_keeps hP
    | with_reducible apply keeps_ite | split

theorem coreLoad_keeps {P : State → Prop} (hP : Closed P) (s : State) (h : Half) (k : ℕ) (mem : ℕ) (idx : ℕ) (hs : P s) :
    P (coreLoad s h k mem idx).2 := by
  unfold coreLoad
  repeat' first
    | with_reducible assumption
    | (extract_lets +onlyGivenNames y; refine (fun (_ : P y) => ?_) ?_; (on_goal 1 => clear_value y); (on_goal 2 => subst y))
    | (extract_lets +onlyGivenNames y; refine (fun (_ : P y.2) => ?_) ?_; (on_goal 1 => clear_value y); (on_goal 2 => subst y))
    | (extract_lets +onlyGivenNames y; clear_value y) | with_reducible apply State.takeFree_keeps hP
    | with_reducible apply keeps_ite | with_reducible apply keeps_ite2

theorem coreStore_keeps {P : State → Prop} (hP : Closed P) (s : State) (h : Half) (k : ℕ) (mem : ℕ) (idx : ℕ) (w : Word) (hs : P s) :
    P (coreStore s h k mem idx w) := by
  unfold coreStore
  repeat' first
    | with_reducible assumption | with_reducible apply State.setFlag_keeps hP
    | with_reducible apply State.setMemWord_keeps hP | with_reducible apply keeps_ite

theorem oneMove_keeps {P : State → Prop} (hP : Closed P) (s : State) (h : Half) (k : ℕ) (mem : ℕ) (pn : ℕ) (modifier : ℕ) (store : Bool) (dn : ℕ) (hs : P s) :
    P (oneMove s h k mem pn modifier store dn).1 := by
  unfold oneMove
  repeat' first
    | with_reducible assumption
    | (extract_lets +onlyGivenNames y; refine (fun (_ : P y) => ?_) ?_; (on_goal 1 => clear_value y); (on_goal 2 => subst y))
    | (extract_lets +onlyGivenNames y; refine (fun (_ : P y.2) => ?_) ?_; (on_goal 1 => clear_value y); (on_goal 2 => subst y))
    | (extract_lets +onlyGivenNames y; clear_value y) | with_reducible apply coreLoad_keeps hP
    | with_reducible apply coreStore_keeps hP | with_reducible apply keeps_ite | with_reducible apply keeps_ite2
    | with_reducible apply keeps_ite1

theorem doMoves_keeps {P : State → Prop} (hP : Closed P) (s : State) (h : Half) (k : ℕ) (mv : Moves) (hs : P s) :
    P (doMoves s h k mv).1 := by
  unfold doMoves
  repeat' first
    | with_reducible assumption
    | (extract_lets +onlyGivenNames y; refine (fun (_ : P y) => ?_) ?_; (on_goal 1 => clear_value y); (on_goal 2 => subst y))
    | (extract_lets +onlyGivenNames y; refine (fun (_ : P y.2) => ?_) ?_; (on_goal 1 => clear_value y); (on_goal 2 => subst y))
    | (extract_lets +onlyGivenNames y; refine (fun (_ : P y.1) => ?_) ?_; (on_goal 1 => clear_value y); (on_goal 2 => subst y))
    | (extract_lets +onlyGivenNames y; clear_value y) | with_reducible apply State.takeFree_keeps hP
    | with_reducible apply oneMove_keeps hP | with_reducible apply keeps_ite | with_reducible apply keeps_ite2
    | with_reducible apply keeps_ite1

theorem coreFlags_keeps {P : State → Prop} (hP : Closed P) (s : State) (h : Half) (k : ℕ) (up : ℕ) (hs : P s) :
    P (coreFlags s h k up) := by
  unfold coreFlags
  repeat' first
    | with_reducible assumption
    | (extract_lets +onlyGivenNames y; refine (fun (_ : P y) => ?_) ?_; (on_goal 1 => clear_value y); (on_goal 2 => subst y))
    | (extract_lets +onlyGivenNames y; clear_value y) | with_reducible apply State.setWordN_keeps hP

theorem coreFault_keeps {P : State → Prop} (hP : Closed P) (s : State) (h : Half) (k : ℕ) (code : ℕ) (idx : ℕ) (hs : P s) :
    P (coreFault s h k code idx) := by
  unfold coreFault
  repeat' first
    | with_reducible assumption
    | (extract_lets +onlyGivenNames y; refine (fun (_ : P y) => ?_) ?_; (on_goal 1 => clear_value y); (on_goal 2 => subst y))
    | (extract_lets +onlyGivenNames y; clear_value y) | with_reducible apply State.setFld_keeps hP
    | with_reducible apply State.setFlag_keeps hP | with_reducible apply State.setCore_keeps hP
    | with_reducible apply traceEntry_keeps hP | with_reducible apply raiseEvt_keeps hP
    | with_reducible apply coreFlags_keeps hP

theorem haltCheck_keeps {P : State → Prop} (hP : Closed P) (s : State) (h : Half) (k : ℕ) (hs : P s) :
    P (haltCheck s h k) := by
  unfold haltCheck
  repeat' first
    | with_reducible assumption
    | (extract_lets +onlyGivenNames y; refine (fun (_ : P y) => ?_) ?_; (on_goal 1 => clear_value y); (on_goal 2 => subst y))
    | (extract_lets +onlyGivenNames y; clear_value y) | with_reducible apply State.setCore_keeps hP
    | with_reducible apply keeps_ite | split

theorem urgentReturn_keeps {P : State → Prop} (hP : Closed P) (s : State) (h : Half) (k : ℕ) (hs : P s) :
    P (urgentReturn s h k) := by
  unfold urgentReturn
  repeat' first
    | with_reducible assumption
    | (extract_lets +onlyGivenNames y; refine (fun (_ : P y) => ?_) ?_; (on_goal 1 => clear_value y); (on_goal 2 => subst y))
    | (extract_lets +onlyGivenNames y; clear_value y) | with_reducible apply State.countIf_keeps hP
    | with_reducible apply State.setCore_keeps hP | with_reducible apply State.setSched_keeps hP
    | with_reducible apply traceEntry_keeps hP | with_reducible apply scheduleAll_keeps hP
    | with_reducible apply releaseItem_keeps hP | split

theorem fireXfer_keeps {P : State → Prop} (hP : Closed P) (s : State) (h : Half) (k : ℕ) (x : Xfer) (hs : P s) :
    P (fireXfer s h k x) := by
  unfold fireXfer
  repeat' first
    | with_reducible assumption
    | (extract_lets +onlyGivenNames y; refine (fun (_ : P y) => ?_) ?_; (on_goal 1 => clear_value y); (on_goal 2 => subst y))
    | (extract_lets +onlyGivenNames y; clear_value y) | with_reducible apply State.setCore_keeps hP
    | with_reducible apply urgentReturn_keeps hP | with_reducible apply keeps_ite | split

theorem finishIssue_keeps {P : State → Prop} (hP : Closed P) (s : State) (h : Half) (k : ℕ) (lands : List Landing) (newX : List (ℕ × Xfer)) (extra : Bool) (jump : Option ℕ) (hs : P s) :
    P (finishIssue s h k lands newX extra jump) := by
  unfold finishIssue
  repeat' first
    | with_reducible assumption
    | (extract_lets +onlyGivenNames y; refine (fun (_ : P y) => ?_) ?_; (on_goal 1 => clear_value y); (on_goal 2 => subst y))
    | (extract_lets +onlyGivenNames y; clear_value y) | with_reducible apply State.setQuad_keeps hP
    | with_reducible apply State.countIf_keeps hP | with_reducible apply State.setCore_keeps hP
    | with_reducible apply coreFlags_keeps hP | with_reducible apply haltCheck_keeps hP
    | with_reducible apply fireXfer_keeps hP | with_reducible apply keeps_ite | split

theorem issueLoop_keeps {P : State → Prop} (hP : Closed P) (s : State) (h : Half) (k : ℕ) (count : LoopCount) (n : ℕ) (rot : Bool) (hs : P s) :
    P (issueLoop s h k count n rot) := by
  unfold issueLoop
  repeat' first
    | with_reducible assumption
    | (extract_lets +onlyGivenNames y; refine (fun (_ : P y) => ?_) ?_; (on_goal 1 => clear_value y); (on_goal 2 => subst y))
    | (extract_lets +onlyGivenNames y; clear_value y) | with_reducible apply State.setCore_keeps hP
    | with_reducible apply finishIssue_keeps hP | with_reducible apply keeps_ite

theorem issueSavelp_keeps {P : State → Prop} (hP : Closed P) (s : State) (h : Half) (k : ℕ) (pn : ℕ) (hs : P s) :
    P (issueSavelp s h k pn) := by
  unfold issueSavelp
  repeat' first
    | with_reducible assumption
    | (extract_lets +onlyGivenNames y; refine (fun (_ : P y) => ?_) ?_; (on_goal 1 => clear_value y); (on_goal 2 => subst y))
    | (extract_lets +onlyGivenNames y; clear_value y) | with_reducible apply coreStore_keeps hP
    | with_reducible apply finishIssue_keeps hP

theorem issueRestlp_keeps {P : State → Prop} (hP : Closed P) (s : State) (h : Half) (k : ℕ) (pn : ℕ) (hs : P s) :
    P (issueRestlp s h k pn) := by
  unfold issueRestlp
  repeat' first
    | with_reducible assumption
    | (extract_lets +onlyGivenNames y; refine (fun (_ : P y) => ?_) ?_; (on_goal 1 => clear_value y); (on_goal 2 => subst y))
    | (extract_lets +onlyGivenNames y; refine (fun (_ : P y.2) => ?_) ?_; (on_goal 1 => clear_value y); (on_goal 2 => subst y))
    | (extract_lets +onlyGivenNames y; clear_value y) | with_reducible apply coreLoad_keeps hP
    | with_reducible apply coreFault_keeps hP | with_reducible apply finishIssue_keeps hP
    | with_reducible apply keeps_ite

theorem startCopy_keeps {P : State → Prop} (hP : Closed P) (s : State) (h : Half) (k : ℕ) (o : CopyOp) (hs : P s) :
    P (startCopy s h k o) := by
  unfold startCopy
  repeat' first
    | with_reducible assumption
    | (extract_lets +onlyGivenNames y; refine (fun (_ : P y) => ?_) ?_; (on_goal 1 => clear_value y); (on_goal 2 => subst y))
    | (extract_lets +onlyGivenNames y; clear_value y) | with_reducible apply State.setCore_keeps hP
    | with_reducible apply finishIssue_keeps hP

theorem issueCopy_keeps {P : State → Prop} (hP : Closed P) (s : State) (h : Half) (k : ℕ) (dp : ℕ) (pn : ℕ) (count : ℕ) (mem : ℕ) (outbound : Bool) (hs : P s) :
    P (issueCopy s h k dp pn count mem outbound) := by
  unfold issueCopy
  repeat' first
    | with_reducible assumption
    | (extract_lets +onlyGivenNames y; refine (fun (_ : P y) => ?_) ?_; (on_goal 1 => clear_value y); (on_goal 2 => subst y))
    | (extract_lets +onlyGivenNames y; clear_value y) | with_reducible apply State.setCore_keeps hP
    | with_reducible apply startCopy_keeps hP | with_reducible apply keeps_ite

theorem passWaitc_keeps {P : State → Prop} (hP : Closed P) (s : State) (h : Half) (k : ℕ) (hs : P s) :
    P (passWaitc s h k) := by
  unfold passWaitc
  repeat' first
    | with_reducible assumption
    | (extract_lets +onlyGivenNames y; refine (fun (_ : P y) => ?_) ?_; (on_goal 1 => clear_value y); (on_goal 2 => subst y))
    | (extract_lets +onlyGivenNames y; clear_value y) | with_reducible apply State.setCore_keeps hP
    | with_reducible apply finishIssue_keeps hP

theorem issueCtl_keeps {P : State → Prop} (hP : Closed P) (s : State) (h : Half) (k : ℕ) (op : CoreOp) (hs : P s) :
    P (issueCtl s h k op) := by
  unfold issueCtl
  repeat' first
    | with_reducible assumption
    | (extract_lets +onlyGivenNames y; refine (fun (_ : P y) => ?_) ?_; (on_goal 1 => clear_value y); (on_goal 2 => subst y))
    | (extract_lets +onlyGivenNames y; refine (fun (fy1 : ∀ t, P t → P (y t)) => ?_) ?_; (on_goal 1 => clear_value y); (on_goal 2 => (subst y; intro t ht; beta_reduce)))
    | (extract_lets +onlyGivenNames y; refine (fun (fy2 : ∀ t r, P t → P (y t r)) => ?_) ?_; (on_goal 1 => clear_value y); (on_goal 2 => (subst y; intro t r ht; beta_reduce)))
    | (extract_lets +onlyGivenNames y; refine (fun (fy3 : ∀ t r q, P t → P (y t r q)) => ?_) ?_; (on_goal 1 => clear_value y); (on_goal 2 => (subst y; intro t r q ht; beta_reduce)))
    | (extract_lets +onlyGivenNames y; refine (fun (fy4 : ∀ t r q p, P t → P (y t r q p)) => ?_) ?_; (on_goal 1 => clear_value y); (on_goal 2 => (subst y; intro t r q p ht; beta_reduce)))
    | (extract_lets +onlyGivenNames y; clear_value y) | with_reducible apply fy1 | with_reducible apply fy2
    | with_reducible apply fy3 | with_reducible apply fy4 | with_reducible apply State.setFlag_keeps hP
    | with_reducible apply State.setCore_keeps hP | with_reducible apply haltCheck_keeps hP
    | with_reducible apply finishIssue_keeps hP | with_reducible apply issueLoop_keeps hP
    | with_reducible apply issueSavelp_keeps hP | with_reducible apply issueRestlp_keeps hP
    | with_reducible apply issueCopy_keeps hP | with_reducible apply passWaitc_keeps hP
    | with_reducible apply keeps_ite | split

theorem issueEnd_keeps {P : State → Prop} (hP : Closed P) (s : State) (h : Half) (k : ℕ) (op : CoreOp) (mv : Moves) (r : CoreUnit × List Landing) (hs : P s) :
    P (issueEnd s h k op mv r) := by
  unfold issueEnd
  repeat' first
    | with_reducible assumption
    | (extract_lets +onlyGivenNames y; refine (fun (_ : P y) => ?_) ?_; (on_goal 1 => clear_value y); (on_goal 2 => subst y))
    | (extract_lets +onlyGivenNames y; refine (fun (_ : P y.2) => ?_) ?_; (on_goal 1 => clear_value y); (on_goal 2 => subst y))
    | (extract_lets +onlyGivenNames y; refine (fun (_ : P y.1) => ?_) ?_; (on_goal 1 => clear_value y); (on_goal 2 => subst y))
    | (extract_lets +onlyGivenNames y; clear_value y) | with_reducible apply State.setCore_keeps hP
    | with_reducible apply State.takeFree_keeps hP | with_reducible apply doMoves_keeps hP
    | with_reducible apply finishIssue_keeps hP | split

theorem issue_keeps {P : State → Prop} (hP : Closed P) (s : State) (h : Half) (k : ℕ) (op : CoreOp) (mv : Moves) (hs : P s) :
    P (issue s h k op mv) := by
  unfold issue
  repeat' first
    | with_reducible assumption
    | (extract_lets +onlyGivenNames y; refine (fun (_ : P y) => ?_) ?_; (on_goal 1 => clear_value y); (on_goal 2 => subst y))
    | (extract_lets +onlyGivenNames y; clear_value y) | with_reducible apply coreFault_keeps hP
    | with_reducible apply issueCtl_keeps hP | with_reducible apply issueEnd_keeps hP
    | with_reducible apply keeps_ite | split

theorem fetchIssue_keeps {P : State → Prop} (hP : Closed P) (s : State) (h : Half) (k : ℕ) (hs : P s) :
    P (fetchIssue s h k) := by
  unfold fetchIssue
  repeat' first
    | with_reducible assumption
    | (extract_lets +onlyGivenNames y; refine (fun (_ : P y) => ?_) ?_; (on_goal 1 => clear_value y); (on_goal 2 => subst y))
    | (extract_lets +onlyGivenNames y; clear_value y) | with_reducible apply issue_keeps hP

theorem errRecord_keeps {P : State → Prop} (hP : Closed P) (s : State) (kind : ℕ) (m : Master) (addr : ℕ) (hs : P s) :
    P (errRecord s kind m addr) := by
  unfold errRecord
  repeat' first
    | with_reducible assumption
    | (extract_lets +onlyGivenNames y; refine (fun (_ : P y) => ?_) ?_; (on_goal 1 => clear_value y); (on_goal 2 => subst y))
    | (extract_lets +onlyGivenNames y; clear_value y) | with_reducible apply State.setWordN_keeps hP
    | with_reducible apply State.setFld_keeps hP

theorem failMaster_keeps {P : State → Prop} (hP : Closed P) (s : State) (m : Master) (hs : P s) :
    P (failMaster s m) := by
  unfold failMaster
  repeat' first | with_reducible assumption | with_reducible apply coreFault_keeps hP | split

theorem noActiveHalf_keeps {P : State → Prop} (hP : Closed P) (s : State) (m : Master) (addr : ℕ) (hs : P s) :
    P (noActiveHalf s m addr) := by
  unfold noActiveHalf
  repeat' first
    | with_reducible assumption | with_reducible apply raiseBoth_keeps hP | with_reducible apply errRecord_keeps hP
    | with_reducible apply failMaster_keeps hP

theorem viaHalf_keeps {P : State → Prop} (hP : Closed P) (s : State) (via : Via) (off : ℕ) (value : ℕ) (f : State → Half → State) (hf : ∀ s h, P s → P (f s h)) (hs : P s) :
    P (viaHalf s via off value f) := by
  unfold viaHalf
  repeat' first
    | with_reducible assumption
    | (extract_lets +onlyGivenNames y; refine (fun (_ : P y) => ?_) ?_; (on_goal 1 => clear_value y); (on_goal 2 => subst y))
    | (extract_lets +onlyGivenNames y; clear_value y) | with_reducible apply hf
    | with_reducible apply noActiveHalf_keeps hP | with_reducible apply keeps_ite | split
    | with_reducible apply hP.put | with_reducible apply hP.byte | with_reducible apply hP.drop
    | with_reducible apply hP.wipe | with_reducible apply hP.keepRegs | with_reducible apply hP.keepMem
    | with_reducible apply hP.other

theorem viaHalf2_keeps {P : State → Prop} (hP : Closed P) (s : State) (via : Via) (off : ℕ) (value : ℕ) (f : State → Half → State) (hf : ∀ s h, P s → P (f s h)) (hs : P s) :
    P (viaHalf2 s via off value f) := by
  unfold viaHalf2
  repeat' first
    | with_reducible assumption
    | (extract_lets +onlyGivenNames y; refine (fun (_ : P y) => ?_) ?_; (on_goal 1 => clear_value y); (on_goal 2 => subst y))
    | (extract_lets +onlyGivenNames y; clear_value y) | with_reducible apply hf
    | with_reducible apply noActiveHalf_keeps hP | with_reducible apply keeps_ite | split
    | with_reducible apply hP.put | with_reducible apply hP.byte | with_reducible apply hP.drop
    | with_reducible apply hP.wipe | with_reducible apply hP.keepRegs | with_reducible apply hP.keepMem
    | with_reducible apply hP.other

theorem viaRead_keeps {P : State → Prop} (hP : Closed P) (s : State) (via : Via) (off : ℕ) (f : State → Half → ℕ × State)
    (hf : ∀ s h, P s → P (f s h).2) (hs : P s) : P (viaRead s via off f) := by
  have run : ∀ h, P ((f s h).2.answer via.m (BitVec.ofNat 64 (f s h).1)) :=
    fun h => State.answer_keeps hP _ _ _ (hf s h hs)
  unfold viaRead
  dsimp only
  split
  · exact run .a
  · exact run .b
  · split
    · exact hP.other s _ _ _ _ _ _ _ _ _ _ _ _ _ _ _ _ _ _ _ _ hs
    · split
      · exact State.answer_keeps hP _ _ _ (noActiveHalf_keeps hP _ _ _ hs)
      · exact run _

theorem inputEdge_keeps {P : State → Prop} (hP : Closed P) (s : State) (i : ℕ) (level : Bool) (res : ℕ) (hs : P s) :
    P (inputEdge s i level res) := by
  unfold inputEdge
  repeat' first
    | with_reducible assumption
    | (extract_lets +onlyGivenNames y; refine (fun (_ : P y) => ?_) ?_; (on_goal 1 => clear_value y); (on_goal 2 => subst y))
    | (extract_lets +onlyGivenNames y; clear_value y) | with_reducible apply State.setMapBit_keeps hP
    | with_reducible apply localEdge_keeps hP

theorem fastEdge_keeps {P : State → Prop} (hP : Closed P) (s : State) (h : Half) (i : ℕ) (level : Bool) (hs : P s) :
    P (fastEdge s h i level) := by
  unfold fastEdge
  repeat' first
    | with_reducible assumption
    | (extract_lets +onlyGivenNames y; refine (fun (_ : P y) => ?_) ?_; (on_goal 1 => clear_value y); (on_goal 2 => subst y))
    | (extract_lets +onlyGivenNames y; clear_value y) | with_reducible apply raiseAt_keeps hP
    | with_reducible apply acqTrigger_keeps hP

theorem standardEdge_keeps {P : State → Prop} (hP : Closed P) (s : State) (h : Half) (hs : P s) :
    P (standardEdge s h) := by
  unfold standardEdge
  repeat' first | with_reducible assumption | with_reducible apply raiseAt_keeps hP

theorem State.setPen_keeps {P : State → Prop} (hP : Closed P) (s : State) (x : PenUnit) (hs : P s) :
    P (State.setPen s x) := by
  unfold State.setPen
  repeat' first
    | with_reducible assumption
    | (extract_lets +onlyGivenNames y; refine (fun (_ : P y) => ?_) ?_; (on_goal 1 => clear_value y); (on_goal 2 => subst y))
    | (extract_lets +onlyGivenNames y; clear_value y) | with_reducible apply hP.put | with_reducible apply hP.byte
    | with_reducible apply hP.drop | with_reducible apply hP.wipe | with_reducible apply hP.keepRegs
    | with_reducible apply hP.keepMem | with_reducible apply hP.other

theorem rehReturn_keeps {P : State → Prop} (hP : Closed P) (s : State) (x : RehRun) (failed : Bool) (hs : P s) :
    P (rehReturn s x failed) := by
  unfold rehReturn
  repeat' first
    | with_reducible assumption
    | (extract_lets +onlyGivenNames y; refine (fun (_ : P y) => ?_) ?_; (on_goal 1 => clear_value y); (on_goal 2 => subst y))
    | (extract_lets +onlyGivenNames y; clear_value y) | with_reducible apply State.setFld_keeps hP
    | with_reducible apply State.setPen_keeps hP | with_reducible apply keeps_ite

theorem rehFail_keeps {P : State → Prop} (hP : Closed P) (s : State) (code : ℕ) (hs : P s) :
    P (rehFail s code) := by
  unfold rehFail
  repeat' first
    | with_reducible assumption | with_reducible apply State.setFld_keeps hP
    | with_reducible apply rehReturn_keeps hP | with_reducible apply keeps_ite | split

theorem rehFailIf_keeps {P : State → Prop} (hP : Closed P) (s : State) (c : Bool) (h : Half) (code : ℕ) (hs : P s) :
    P (rehFailIf s c h code) := by
  unfold rehFailIf
  repeat' first | with_reducible assumption | with_reducible apply rehFail_keeps hP | with_reducible apply keeps_ite

theorem latchFeedback_keeps {P : State → Prop} (hP : Closed P) (s : State) (h : Half) (k : ℕ) (hs : P s) :
    P (latchFeedback s h k) := by
  unfold latchFeedback
  repeat' first
    | with_reducible assumption
    | (extract_lets +onlyGivenNames y; refine (fun (_ : P y) => ?_) ?_; (on_goal 1 => clear_value y); (on_goal 2 => subst y))
    | (extract_lets +onlyGivenNames y; clear_value y) | with_reducible apply State.setFlag_keeps hP
    | with_reducible apply State.count_keeps hP | with_reducible apply State.setCe_keeps hP | split

theorem axisOff_keeps {P : State → Prop} (hP : Closed P) (s : State) (h : Half) (k : ℕ) (hs : P s) :
    P (axisOff s h k) := by
  unfold axisOff
  repeat' first
    | with_reducible assumption
    | (extract_lets +onlyGivenNames y; refine (fun (_ : P y) => ?_) ?_; (on_goal 1 => clear_value y); (on_goal 2 => subst y))
    | (extract_lets +onlyGivenNames y; clear_value y) | with_reducible apply State.setFld_keeps hP
    | with_reducible apply State.putFlag_keeps hP | with_reducible apply State.flagIf_keeps hP
    | with_reducible apply State.setCe_keeps hP | with_reducible apply loopOff_keeps hP

theorem markOn_keeps {P : State → Prop} (hP : Closed P) (s : State) (h : Half) (k : ℕ) (hs : P s) :
    P (markOn s h k) := by
  unfold markOn
  repeat' first | with_reducible assumption | with_reducible apply loopMark_keeps hP | with_reducible apply keeps_ite

theorem enterHold_keeps {P : State → Prop} (hP : Closed P) (s : State) (h : Half) (k : ℕ) (step : ℕ) (from_ : ℕ) (p : ℤ) (brake : Bool) (hs : P s) :
    P (enterHold s h k step from_ p brake) := by
  unfold enterHold
  repeat' first
    | with_reducible assumption
    | (extract_lets +onlyGivenNames y; refine (fun (_ : P y) => ?_) ?_; (on_goal 1 => clear_value y); (on_goal 2 => subst y))
    | (extract_lets +onlyGivenNames y; clear_value y) | with_reducible apply State.setFld_keeps hP
    | with_reducible apply State.flagIf_keeps hP | with_reducible apply State.setCe_keeps hP
    | with_reducible apply freezeAxis_keeps hP

theorem brakeStart_keeps {P : State → Prop} (hP : Closed P) (s : State) (h : Half) (k : ℕ) (req : ℕ) (rel : ℕ) (p : ℤ) (hs : P s) :
    P (brakeStart s h k req rel p) := by
  unfold brakeStart
  repeat' first
    | with_reducible assumption
    | (extract_lets +onlyGivenNames y; refine (fun (_ : P y) => ?_) ?_; (on_goal 1 => clear_value y); (on_goal 2 => subst y))
    | (extract_lets +onlyGivenNames y; clear_value y) | with_reducible apply State.setFld_keeps hP
    | with_reducible apply State.setFlag_keeps hP | with_reducible apply State.setCe_keeps hP
    | with_reducible apply markOn_keeps hP

theorem plainStart_keeps {P : State → Prop} (hP : Closed P) (s : State) (h : Half) (k : ℕ) (req : ℕ) (hs : P s) :
    P (plainStart s h k req) := by
  unfold plainStart
  repeat' first
    | with_reducible assumption
    | (extract_lets +onlyGivenNames y; refine (fun (_ : P y) => ?_) ?_; (on_goal 1 => clear_value y); (on_goal 2 => subst y))
    | (extract_lets +onlyGivenNames y; clear_value y) | with_reducible apply State.setFld_keeps hP
    | with_reducible apply State.setCe_keeps hP | with_reducible apply softStart_keeps hP
    | with_reducible apply markOn_keeps hP

theorem plainSwitch_keeps {P : State → Prop} (hP : Closed P) (s : State) (h : Half) (k : ℕ) (from_ : ℕ) (req : ℕ) (bare : Bool) (hs : P s) :
    P (plainSwitch s h k from_ req bare) := by
  unfold plainSwitch
  repeat' first
    | with_reducible assumption
    | (extract_lets +onlyGivenNames y; refine (fun (_ : P y) => ?_) ?_; (on_goal 1 => clear_value y); (on_goal 2 => subst y))
    | (extract_lets +onlyGivenNames y; clear_value y) | with_reducible apply State.setFld_keeps hP
    | with_reducible apply State.setCe_keeps hP | with_reducible apply stopAxis_keeps hP
    | with_reducible apply freezeAxis_keeps hP | with_reducible apply keeps_ite

theorem takeMode_keeps {P : State → Prop} (hP : Closed P) (s : State) (h : Half) (k : ℕ) (req : ℕ) (hs : P s) :
    P (takeMode s h k req) := by
  unfold takeMode
  repeat' first
    | with_reducible assumption
    | (extract_lets +onlyGivenNames y; refine (fun (_ : P y) => ?_) ?_; (on_goal 1 => clear_value y); (on_goal 2 => subst y))
    | (extract_lets +onlyGivenNames y; clear_value y) | with_reducible apply State.putFlag_keeps hP
    | with_reducible apply State.setCe_keeps hP | with_reducible apply axisOff_keeps hP
    | with_reducible apply enterHold_keeps hP | with_reducible apply brakeStart_keeps hP
    | with_reducible apply plainStart_keeps hP | with_reducible apply plainSwitch_keeps hP
    | with_reducible apply keeps_ite | split

theorem latchMode_keeps {P : State → Prop} (hP : Closed P) (s : State) (h : Half) (k : ℕ) (hs : P s) :
    P (latchMode s h k) := by
  unfold latchMode
  repeat' first
    | with_reducible assumption
    | (extract_lets +onlyGivenNames y; refine (fun (_ : P y) => ?_) ?_; (on_goal 1 => clear_value y); (on_goal 2 => subst y))
    | (extract_lets +onlyGivenNames y; clear_value y) | with_reducible apply State.setCe_keeps hP
    | with_reducible apply takeMode_keeps hP | split

theorem modeWrite_keeps {P : State → Prop} (hP : Closed P) (s : State) (h : Half) (k : ℕ) (r : ℕ) (hs : P s) :
    P (modeWrite s h k r) := by
  unfold modeWrite
  repeat' first
    | with_reducible assumption
    | (extract_lets +onlyGivenNames y; refine (fun (_ : P y) => ?_) ?_; (on_goal 1 => clear_value y); (on_goal 2 => subst y))
    | (extract_lets +onlyGivenNames y; refine (fun (fy1 : ∀ t, P t → P (y t)) => ?_) ?_; (on_goal 1 => clear_value y); (on_goal 2 => (subst y; intro t ht; beta_reduce)))
    | (extract_lets +onlyGivenNames y; refine (fun (fy2 : ∀ t r, P t → P (y t r)) => ?_) ?_; (on_goal 1 => clear_value y); (on_goal 2 => (subst y; intro t r ht; beta_reduce)))
    | (extract_lets +onlyGivenNames y; refine (fun (fy3 : ∀ t r q, P t → P (y t r q)) => ?_) ?_; (on_goal 1 => clear_value y); (on_goal 2 => (subst y; intro t r q ht; beta_reduce)))
    | (extract_lets +onlyGivenNames y; refine (fun (fy4 : ∀ t r q p, P t → P (y t r q p)) => ?_) ?_; (on_goal 1 => clear_value y); (on_goal 2 => (subst y; intro t r q p ht; beta_reduce)))
    | (extract_lets +onlyGivenNames y; clear_value y) | with_reducible apply fy1 | with_reducible apply fy2
    | with_reducible apply fy3 | with_reducible apply fy4 | with_reducible apply State.setFld_keeps hP
    | with_reducible apply State.setFlag_keeps hP | with_reducible apply State.setCe_keeps hP
    | (with_reducible apply keeps_foldl; intro _ _ _) | with_reducible apply keeps_ite | split

theorem brakeEngaged_keeps {P : State → Prop} (hP : Closed P) (s : State) (h : Half) (k : ℕ) (hs : P s) :
    P (brakeEngaged s h k) := by
  unfold brakeEngaged
  repeat' first
    | with_reducible assumption
    | (extract_lets +onlyGivenNames y; refine (fun (_ : P y) => ?_) ?_; (on_goal 1 => clear_value y); (on_goal 2 => subst y))
    | (extract_lets +onlyGivenNames y; clear_value y) | with_reducible apply State.setCe_keeps hP
    | with_reducible apply keeps_ite

theorem brakeReleased_keeps {P : State → Prop} (hP : Closed P) (s : State) (h : Half) (k : ℕ) (hs : P s) :
    P (brakeReleased s h k) := by
  unfold brakeReleased
  repeat' first
    | with_reducible assumption
    | (extract_lets +onlyGivenNames y; refine (fun (_ : P y) => ?_) ?_; (on_goal 1 => clear_value y); (on_goal 2 => subst y))
    | (extract_lets +onlyGivenNames y; clear_value y) | with_reducible apply State.setFld_keeps hP
    | with_reducible apply State.setCe_keeps hP | with_reducible apply softStart_keeps hP
    | with_reducible apply keeps_ite

theorem blendEnd_keeps {P : State → Prop} (hP : Closed P) (s : State) (h : Half) (k : ℕ) (hs : P s) :
    P (blendEnd s h k) := by
  unfold blendEnd
  repeat' first
    | with_reducible assumption
    | (extract_lets +onlyGivenNames y; refine (fun (_ : P y) => ?_) ?_; (on_goal 1 => clear_value y); (on_goal 2 => subst y))
    | (extract_lets +onlyGivenNames y; clear_value y) | with_reducible apply State.putFlag_keeps hP
    | with_reducible apply State.setCe_keeps hP | with_reducible apply keeps_ite | split

theorem gainEnd_keeps {P : State → Prop} (hP : Closed P) (s : State) (h : Half) (k : ℕ) (hs : P s) :
    P (gainEnd s h k) := by
  unfold gainEnd
  repeat' first
    | with_reducible assumption
    | (extract_lets +onlyGivenNames y; refine (fun (_ : P y) => ?_) ?_; (on_goal 1 => clear_value y); (on_goal 2 => subst y))
    | (extract_lets +onlyGivenNames y; clear_value y) | with_reducible apply State.setFld_keeps hP
    | with_reducible apply State.setCe_keeps hP | with_reducible apply keeps_ite

theorem rcUpdate_keeps {P : State → Prop} (hP : Closed P) (s : State) (h : Half) (k : ℕ) (r : RcUnit) (i : ℕ) (hs : P s) :
    P (rcUpdate s h k r i).1 := by
  unfold rcUpdate
  repeat' first
    | with_reducible assumption
    | (extract_lets +onlyGivenNames y; refine (fun (_ : P y) => ?_) ?_; (on_goal 1 => clear_value y); (on_goal 2 => subst y))
    | (extract_lets +onlyGivenNames y; clear_value y) | with_reducible apply State.setMemN_keeps hP | split

theorem rcPending_keeps {P : State → Prop} (hP : Closed P) (s : State) (h : Half) (k : ℕ) (r : RcUnit) (x4 : List ℕ) (hs : P s) :
    P (rcPending s h k r x4).1 := by
  induction x4 generalizing s h k r with
  | nil =>
    unfold rcPending
    repeat' first | with_reducible assumption
  | cons z0 l0 ih =>
    unfold rcPending
    repeat' first
      | with_reducible assumption
      | (extract_lets +onlyGivenNames y; refine (fun (_ : P y) => ?_) ?_; (on_goal 1 => clear_value y); (on_goal 2 => subst y))
      | (extract_lets +onlyGivenNames y; refine (fun (_ : P y.1) => ?_) ?_; (on_goal 1 => clear_value y); (on_goal 2 => subst y))
      | (extract_lets +onlyGivenNames y; clear_value y) | with_reducible apply ih
      | with_reducible apply rcUpdate_keeps hP

theorem rcLearn_keeps {P : State → Prop} (hP : Closed P) (s : State) (h : Half) (k : ℕ) (phi : ℕ) (cyc : ℕ) (e : ℤ) (why : ℕ) (hs : P s) :
    P (rcLearn s h k phi cyc e why).1 := by
  unfold rcLearn
  repeat' first
    | with_reducible assumption
    | (extract_lets +onlyGivenNames y; refine (fun (_ : P y) => ?_) ?_; (on_goal 1 => clear_value y); (on_goal 2 => subst y))
    | (extract_lets +onlyGivenNames y; refine (fun (_ : P y.1) => ?_) ?_; (on_goal 1 => clear_value y); (on_goal 2 => subst y))
    | (extract_lets +onlyGivenNames y; clear_value y) | with_reducible apply State.setFld_keeps hP
    | with_reducible apply State.setCe_keeps hP | with_reducible apply rcUpdate_keeps hP
    | with_reducible apply rcPending_keeps hP | with_reducible apply keeps_ite | with_reducible apply keeps_ite2
    | with_reducible apply keeps_ite1

theorem rcClear_keeps {P : State → Prop} (hP : Closed P) (s : State) (h : Half) (k : ℕ) (hs : P s) :
    P (rcClear s h k) := by
  unfold rcClear
  repeat' first
    | with_reducible assumption
    | (extract_lets +onlyGivenNames y; refine (fun (_ : P y) => ?_) ?_; (on_goal 1 => clear_value y); (on_goal 2 => subst y))
    | (extract_lets +onlyGivenNames y; clear_value y) | with_reducible apply State.setCe_keeps hP

theorem rcCleared_keeps {P : State → Prop} (hP : Closed P) (s : State) (h : Half) (k : ℕ) (hs : P s) :
    P (rcCleared s h k) := by
  unfold rcCleared
  repeat' first
    | with_reducible assumption
    | (extract_lets +onlyGivenNames y; refine (fun (_ : P y) => ?_) ?_; (on_goal 1 => clear_value y); (on_goal 2 => subst y))
    | (extract_lets +onlyGivenNames y; clear_value y) | with_reducible apply State.setFld_keeps hP
    | with_reducible apply State.setCe_keeps hP | with_reducible apply keeps_ite | split
    | with_reducible apply hP.put | with_reducible apply hP.byte | with_reducible apply hP.drop
    | with_reducible apply hP.wipe

theorem selectRegion_keeps {P : State → Prop} (hP : Closed P) (s : State) (h : Half) (k : ℕ) (v : ℤ) (im : ℕ) (hs : P s) :
    P (selectRegion s h k v im) := by
  unfold selectRegion
  repeat' first
    | with_reducible assumption
    | (extract_lets +onlyGivenNames y; refine (fun (_ : P y) => ?_) ?_; (on_goal 1 => clear_value y); (on_goal 2 => subst y))
    | (extract_lets +onlyGivenNames y; clear_value y) | with_reducible apply State.setFld_keeps hP
    | with_reducible apply State.flagIf_keeps hP | with_reducible apply State.count_keeps hP
    | with_reducible apply State.setCe_keeps hP | with_reducible apply keeps_ite

theorem gainReload_keeps {P : State → Prop} (hP : Closed P) (s : State) (h : Half) (k : ℕ) (hs : P s) :
    P (gainReload s h k) := by
  unfold gainReload
  repeat' first
    | with_reducible assumption
    | (extract_lets +onlyGivenNames y; refine (fun (_ : P y) => ?_) ?_; (on_goal 1 => clear_value y); (on_goal 2 => subst y))
    | (extract_lets +onlyGivenNames y; clear_value y) | with_reducible apply State.setFld_keeps hP
    | with_reducible apply State.flagIf_keeps hP | with_reducible apply State.setCe_keeps hP

theorem loadGains_keeps {P : State → Prop} (hP : Closed P) (s : State) (h : Half) (k : ℕ) (hs : P s) :
    P (loadGains s h k) := by
  unfold loadGains
  repeat' first
    | with_reducible assumption
    | (extract_lets +onlyGivenNames y; refine (fun (_ : P y) => ?_) ?_; (on_goal 1 => clear_value y); (on_goal 2 => subst y))
    | (extract_lets +onlyGivenNames y; clear_value y) | with_reducible apply State.flagIf_keeps hP
    | with_reducible apply State.setCe_keeps hP | with_reducible apply keeps_ite

theorem followError_keeps {P : State → Prop} (hP : Closed P) (s : State) (h : Half) (k : ℕ) (m : ℕ) (diff : ℤ) (hs : P s) :
    P (followError s h k m diff) := by
  unfold followError
  repeat' first
    | with_reducible assumption
    | (extract_lets +onlyGivenNames y; refine (fun (_ : P y) => ?_) ?_; (on_goal 1 => clear_value y); (on_goal 2 => subst y))
    | (extract_lets +onlyGivenNames y; clear_value y) | with_reducible apply State.setFlag_keeps hP
    | with_reducible apply State.setCe_keeps hP | with_reducible apply raiseEvt_keeps hP
    | with_reducible apply pathStop_keeps hP | with_reducible apply stopAxis_keeps hP
    | with_reducible apply abortHoming_keeps hP | with_reducible apply keeps_ite | split

theorem putDiag_keeps {P : State → Prop} (hP : Closed P) (s : State) (h : Half) (k : ℕ) (o : LawOut) (c : CeUnit) (ff : ℤ) (im : ℕ) (tout : ℤ) (hs : P s) :
    P (putDiag s h k o c ff im tout) := by
  unfold putDiag
  repeat' first
    | with_reducible assumption
    | (extract_lets +onlyGivenNames y; refine (fun (_ : P y) => ?_) ?_; (on_goal 1 => clear_value y); (on_goal 2 => subst y))
    | (extract_lets +onlyGivenNames y; clear_value y) | with_reducible apply State.setFld_keeps hP
    | with_reducible apply State.setFldS_keeps hP | with_reducible apply State.putFlag_keeps hP

theorem orFlags_keeps {P : State → Prop} (hP : Closed P) (s : State) (h : Half) (k : ℕ) (mask : ℕ) (hs : P s) :
    P (orFlags s h k mask) := by
  unfold orFlags
  repeat' first | with_reducible assumption | with_reducible apply State.setWordN_keeps hP

theorem applyLaw_keeps {P : State → Prop} (hP : Closed P) (s : State) (h : Half) (k : ℕ) (a : AxisLaw) (hs : P s) :
    P (applyLaw s h k a) := by
  unfold applyLaw
  repeat' first
    | with_reducible assumption
    | (extract_lets +onlyGivenNames y; refine (fun (_ : P y) => ?_) ?_; (on_goal 1 => clear_value y); (on_goal 2 => subst y))
    | (extract_lets +onlyGivenNames y; refine (fun (_ : P y.1) => ?_) ?_; (on_goal 1 => clear_value y); (on_goal 2 => subst y))
    | (extract_lets +onlyGivenNames y; clear_value y) | with_reducible apply State.setFld_keeps hP
    | with_reducible apply State.putFlag_keeps hP | with_reducible apply State.setCe_keeps hP
    | with_reducible apply rcLearn_keeps hP | with_reducible apply selectRegion_keeps hP
    | with_reducible apply followError_keeps hP | with_reducible apply putDiag_keeps hP
    | with_reducible apply orFlags_keeps hP | with_reducible apply keeps_ite

theorem engineAxis_keeps {P : State → Prop} (hP : Closed P) (s : State) (h : Half) (k : ℕ) (hs : P s) :
    P (engineAxis s h k) := by
  unfold engineAxis
  repeat' first
    | with_reducible assumption
    | (extract_lets +onlyGivenNames y; refine (fun (_ : P y) => ?_) ?_; (on_goal 1 => clear_value y); (on_goal 2 => subst y))
    | (extract_lets +onlyGivenNames y; clear_value y) | with_reducible apply loadGains_keeps hP
    | with_reducible apply applyLaw_keeps hP

theorem ceCommand_keeps {P : State → Prop} (hP : Closed P) (s : State) (h : Half) (k : ℕ) (v : ℕ) (hs : P s) :
    P (ceCommand s h k v) := by
  unfold ceCommand
  repeat' first
    | with_reducible assumption
    | (extract_lets +onlyGivenNames y; refine (fun (_ : P y) => ?_) ?_; (on_goal 1 => clear_value y); (on_goal 2 => subst y))
    | (extract_lets +onlyGivenNames y; clear_value y) | with_reducible apply rcClear_keeps hP
    | with_reducible apply gainReload_keeps hP | with_reducible apply keeps_ite

theorem learnWrite_keeps {P : State → Prop} (hP : Closed P) (s : State) (h : Half) (off : ℕ) (w : Word) (hs : P s) :
    P (learnWrite s h off w) := by
  unfold learnWrite
  repeat' first
    | with_reducible assumption
    | (extract_lets +onlyGivenNames y; refine (fun (_ : P y) => ?_) ?_; (on_goal 1 => clear_value y); (on_goal 2 => subst y))
    | (extract_lets +onlyGivenNames y; clear_value y) | with_reducible apply State.setFlag_keeps hP
    | with_reducible apply State.setMemWord_keeps hP | with_reducible apply keeps_ite

theorem lossOfFeedback_keeps {P : State → Prop} (hP : Closed P) (s : State) (h : Half) (k : ℕ) (hs : P s) :
    P (lossOfFeedback s h k) := by
  unfold lossOfFeedback
  repeat' first
    | with_reducible assumption
    | (extract_lets +onlyGivenNames y; refine (fun (_ : P y) => ?_) ?_; (on_goal 1 => clear_value y); (on_goal 2 => subst y))
    | (extract_lets +onlyGivenNames y; clear_value y) | with_reducible apply State.setFlag_keeps hP
    | with_reducible apply State.setCe_keeps hP | with_reducible apply raiseEvt_keeps hP
    | with_reducible apply rehFailIf_keeps hP | with_reducible apply axisOff_keeps hP
    | with_reducible apply keeps_ite

theorem bufferTorque_keeps {P : State → Prop} (hP : Closed P) (s : State) (h : Half) (k : ℕ) (hs : P s) :
    P (bufferTorque s h k) := by
  unfold bufferTorque
  repeat' first
    | with_reducible assumption
    | (extract_lets +onlyGivenNames y; refine (fun (_ : P y) => ?_) ?_; (on_goal 1 => clear_value y); (on_goal 2 => subst y))
    | (extract_lets +onlyGivenNames y; clear_value y) | with_reducible apply State.setCe_keeps hP

theorem lanesAtSet_keeps {P : State → Prop} (hP : Closed P) (s : State) (h : Half) (hs : P s) :
    P (lanesAtSet s h) := by
  unfold lanesAtSet
  repeat' first
    | with_reducible assumption
    | (extract_lets +onlyGivenNames y; refine (fun (_ : P y) => ?_) ?_; (on_goal 1 => clear_value y); (on_goal 2 => subst y))
    | (extract_lets +onlyGivenNames y; refine (fun (_ : P y.2) => ?_) ?_; (on_goal 1 => clear_value y); (on_goal 2 => subst y))
    | (extract_lets +onlyGivenNames y; clear_value y) | with_reducible apply State.setServo_keeps hP
    | with_reducible apply State.takeFree_keeps hP | with_reducible apply bufferTorque_keeps hP
    | (with_reducible apply keeps_foldl; intro _ _ _) | with_reducible apply keeps_ite

theorem noteSlack_keeps {P : State → Prop} (hP : Closed P) (s : State) (h : Half) (kind : ℕ) (sl : ℤ) (hs : P s) :
    P (noteSlack s h kind sl) := by
  unfold noteSlack
  repeat' first
    | with_reducible assumption
    | (extract_lets +onlyGivenNames y; refine (fun (_ : P y) => ?_) ?_; (on_goal 1 => clear_value y); (on_goal 2 => subst y))
    | (extract_lets +onlyGivenNames y; clear_value y) | with_reducible apply State.setServo_keeps hP

theorem noteAbandoned_keeps {P : State → Prop} (hP : Closed P) (s : State) (h : Half) (i : ℕ) (hs : P s) :
    P (noteAbandoned s h i) := by
  unfold noteAbandoned
  repeat' first
    | with_reducible assumption
    | (extract_lets +onlyGivenNames y; refine (fun (_ : P y) => ?_) ?_; (on_goal 1 => clear_value y); (on_goal 2 => subst y))
    | (extract_lets +onlyGivenNames y; clear_value y) | with_reducible apply State.setServo_keeps hP | split

theorem noRingWindow_keeps {P : State → Prop} (hP : Closed P) (s : State) (h : Half) (hs : P s) :
    P (noRingWindow s h) := by
  unfold noRingWindow
  repeat' first
    | with_reducible assumption | with_reducible apply State.setFld_keeps hP | with_reducible apply keeps_ite

theorem reportSlack_keeps {P : State → Prop} (hP : Closed P) (s : State) (h : Half) (sl : ℤ) (src : ℕ) (hs : P s) :
    P (reportSlack s h sl src) := by
  unfold reportSlack
  repeat' first
    | with_reducible assumption
    | (extract_lets +onlyGivenNames y; refine (fun (_ : P y) => ?_) ?_; (on_goal 1 => clear_value y); (on_goal 2 => subst y))
    | (extract_lets +onlyGivenNames y; clear_value y) | with_reducible apply State.setFld_keeps hP
    | with_reducible apply State.setFldS_keeps hP | with_reducible apply keeps_ite

theorem steerRail_keeps {P : State → Prop} (hP : Closed P) (s : State) (h : Half) (sl : Option ℤ) (hs : P s) :
    P (steerRail s h sl) := by
  unfold steerRail
  repeat' first
    | with_reducible assumption
    | (extract_lets +onlyGivenNames y; refine (fun (_ : P y) => ?_) ?_; (on_goal 1 => clear_value y); (on_goal 2 => subst y))
    | (extract_lets +onlyGivenNames y; clear_value y) | with_reducible apply State.setFld_keeps hP
    | with_reducible apply State.putFlag_keeps hP | with_reducible apply State.count_keeps hP
    | with_reducible apply State.setServo_keeps hP | with_reducible apply raiseIf_keeps hP
    | with_reducible apply keeps_ite

theorem measurePace_keeps {P : State → Prop} (hP : Closed P) (s : State) (h : Half) (hs : P s) :
    P (measurePace s h) := by
  unfold measurePace
  repeat' first
    | with_reducible assumption
    | (extract_lets +onlyGivenNames y; refine (fun (_ : P y) => ?_) ?_; (on_goal 1 => clear_value y); (on_goal 2 => subst y))
    | (extract_lets +onlyGivenNames y; refine (fun (_ : P y.2) => ?_) ?_; (on_goal 1 => clear_value y); (on_goal 2 => subst y))
    | (extract_lets +onlyGivenNames y; clear_value y) | with_reducible apply State.setFld_keeps hP
    | with_reducible apply State.takeFree_keeps hP

theorem paceRail_keeps {P : State → Prop} (hP : Closed P) (s : State) (h : Half) (hs : P s) :
    P (paceRail s h) := by
  unfold paceRail
  repeat' first
    | with_reducible assumption
    | (extract_lets +onlyGivenNames y; refine (fun (_ : P y) => ?_) ?_; (on_goal 1 => clear_value y); (on_goal 2 => subst y))
    | (extract_lets +onlyGivenNames y; refine (fun (_ : P y.2) => ?_) ?_; (on_goal 1 => clear_value y); (on_goal 2 => subst y))
    | (extract_lets +onlyGivenNames y; clear_value y) | with_reducible apply State.setFld_keeps hP
    | with_reducible apply State.takeFree_keeps hP | with_reducible apply keeps_ite

theorem endPeriod_keeps {P : State → Prop} (hP : Closed P) (s : State) (h : Half) (hs : P s) :
    P (endPeriod s h) := by
  unfold endPeriod
  repeat' first
    | with_reducible assumption
    | (extract_lets +onlyGivenNames y; refine (fun (_ : P y) => ?_) ?_; (on_goal 1 => clear_value y); (on_goal 2 => subst y))
    | (extract_lets +onlyGivenNames y; clear_value y) | with_reducible apply State.setServo_keeps hP
    | with_reducible apply reportSlack_keeps hP | with_reducible apply steerRail_keeps hP
    | with_reducible apply measurePace_keeps hP | split

theorem lowerRail_keeps {P : State → Prop} (hP : Closed P) (s : State) (h : Half) (hs : P s) :
    P (lowerRail s h) := by
  unfold lowerRail
  repeat' first
    | with_reducible assumption
    | (extract_lets +onlyGivenNames y; refine (fun (_ : P y) => ?_) ?_; (on_goal 1 => clear_value y); (on_goal 2 => subst y))
    | (extract_lets +onlyGivenNames y; clear_value y) | with_reducible apply State.setFld_keeps hP
    | with_reducible apply State.setServo_keeps hP | with_reducible apply keeps_ite

theorem fixMax_keeps {P : State → Prop} (hP : Closed P) (s : State) (h : Half) (hs : P s) :
    P (fixMax s h) := by
  unfold fixMax
  repeat' first
    | with_reducible assumption
    | (extract_lets +onlyGivenNames y; refine (fun (_ : P y) => ?_) ?_; (on_goal 1 => clear_value y); (on_goal 2 => subst y))
    | (extract_lets +onlyGivenNames y; clear_value y) | with_reducible apply State.setFld_keeps hP
    | with_reducible apply State.setServo_keeps hP | with_reducible apply keeps_ite

theorem releaseWork_keeps {P : State → Prop} (hP : Closed P) (s : State) (h : Half) (i : ℕ) (at_ : ℕ) (deadline : ℕ) (hs : P s) :
    P (releaseWork s h i at_ deadline) := by
  unfold releaseWork
  repeat' first | with_reducible assumption | with_reducible apply postAt_keeps hP

theorem spCtrl_keeps {P : State → Prop} (hP : Closed P) (s : State) (h : Half) (v : ℕ) (hs : P s) :
    P (spCtrl s h v) := by
  unfold spCtrl
  repeat' first
    | with_reducible assumption
    | (extract_lets +onlyGivenNames y; refine (fun (_ : P y) => ?_) ?_; (on_goal 1 => clear_value y); (on_goal 2 => subst y))
    | (extract_lets +onlyGivenNames y; clear_value y) | with_reducible apply State.setWordN_keeps hP
    | with_reducible apply State.setFld_keeps hP | with_reducible apply keeps_ite

theorem segRefuse_keeps {P : State → Prop} (hP : Closed P) (s : State) (h : Half) (j : ℕ) (i : ℕ) (code : ℕ) (hs : P s) :
    P (segRefuse s h j i code) := by
  unfold segRefuse
  repeat' first
    | with_reducible assumption
    | (extract_lets +onlyGivenNames y; refine (fun (_ : P y) => ?_) ?_; (on_goal 1 => clear_value y); (on_goal 2 => subst y))
    | (extract_lets +onlyGivenNames y; clear_value y) | with_reducible apply State.setFld_keeps hP
    | with_reducible apply State.setFlag_keeps hP | with_reducible apply raiseEvt_keeps hP
    | with_reducible apply keeps_ite

theorem checkQueue_keeps {P : State → Prop} (hP : Closed P) (s : State) (h : Half) (j : ℕ) (x3 : ℕ) (hs : P s) :
    P (checkQueue s h j x3) := by
  induction x3 generalizing s h j with
  | zero =>
    unfold checkQueue
    repeat' first | with_reducible assumption
  | succ n0 ih =>
    unfold checkQueue
    repeat' first
      | with_reducible assumption
      | (extract_lets +onlyGivenNames y; refine (fun (_ : P y) => ?_) ?_; (on_goal 1 => clear_value y); (on_goal 2 => subst y))
      | (extract_lets +onlyGivenNames y; clear_value y) | with_reducible apply ih
      | with_reducible apply State.setFld_keeps hP | with_reducible apply State.setArm_keeps hP
      | with_reducible apply segRefuse_keeps hP | split

theorem qwrWrite_keeps {P : State → Prop} (hP : Closed P) (s : State) (h : Half) (j : ℕ) (v : ℕ) (hs : P s) :
    P (qwrWrite s h j v) := by
  unfold qwrWrite
  repeat' first
    | with_reducible assumption
    | (extract_lets +onlyGivenNames y; refine (fun (_ : P y) => ?_) ?_; (on_goal 1 => clear_value y); (on_goal 2 => subst y))
    | (extract_lets +onlyGivenNames y; clear_value y) | with_reducible apply State.setFld_keeps hP
    | with_reducible apply segRefuse_keeps hP | with_reducible apply checkQueue_keeps hP
    | with_reducible apply keeps_ite

theorem guardStep_keeps {P : State → Prop} (hP : Closed P) (s : State) (h : Half) (j : ℕ) (qd : List ℕ) (qdd : List ℕ) (hs : P s) :
    P (guardStep s h j qd qdd) := by
  unfold guardStep
  repeat' first
    | with_reducible assumption
    | (extract_lets +onlyGivenNames y; refine (fun (_ : P y) => ?_) ?_; (on_goal 1 => clear_value y); (on_goal 2 => subst y))
    | (extract_lets +onlyGivenNames y; clear_value y) | with_reducible apply State.setFld_keeps hP
    | with_reducible apply State.putFlag_keeps hP | with_reducible apply State.setArm_keeps hP

theorem limitCheck_keeps {P : State → Prop} (hP : Closed P) (s : State) (h : Half) (j : ℕ) (q : List ℕ) (hs : P s) :
    P (limitCheck s h j q) := by
  unfold limitCheck
  repeat' first
    | with_reducible assumption | with_reducible apply State.setFlag_keeps hP
    | with_reducible apply jointStop_keeps hP | with_reducible apply keeps_ite

theorem writeJs_keeps {P : State → Prop} (hP : Closed P) (s : State) (h : Half) (j : ℕ) (tag : ℕ) (q : List ℕ) (hs : P s) :
    P (writeJs s h j tag q) := by
  unfold writeJs
  repeat' first
    | with_reducible assumption
    | (extract_lets +onlyGivenNames y; refine (fun (_ : P y) => ?_) ?_; (on_goal 1 => clear_value y); (on_goal 2 => subst y))
    | (extract_lets +onlyGivenNames y; clear_value y) | with_reducible apply State.flagIf_keeps hP
    | with_reducible apply State.setArm_keeps hP

theorem writeFf_keeps {P : State → Prop} (hP : Closed P) (s : State) (h : Half) (j : ℕ) (tag : ℕ) (tq : List ℕ) (im : List ℕ) (flagged : Bool) (hs : P s) :
    P (writeFf s h j tag tq im flagged) := by
  unfold writeFf
  repeat' first
    | with_reducible assumption
    | (extract_lets +onlyGivenNames y; refine (fun (_ : P y) => ?_) ?_; (on_goal 1 => clear_value y); (on_goal 2 => subst y))
    | (extract_lets +onlyGivenNames y; clear_value y) | with_reducible apply State.setFlag_keeps hP
    | with_reducible apply State.flagIf_keeps hP | with_reducible apply State.count_keeps hP
    | with_reducible apply State.setArm_keeps hP | with_reducible apply keeps_ite

theorem releaseDyn_keeps {P : State → Prop} (hP : Closed P) (s : State) (h : Half) (j : ℕ) (tag : ℕ) (hs : P s) :
    P (releaseDyn s h j tag) := by
  unfold releaseDyn
  repeat' first | with_reducible assumption | with_reducible apply releaseWork_keeps hP | split

theorem armTake_keeps {P : State → Prop} (hP : Closed P) (s : State) (h : Half) (j : ℕ) (x : ArmSample) (hs : P s) :
    P (armTake s h j x) := by
  unfold armTake
  repeat' first
    | with_reducible assumption
    | (extract_lets +onlyGivenNames y; refine (fun (_ : P y) => ?_) ?_; (on_goal 1 => clear_value y); (on_goal 2 => subst y))
    | (extract_lets +onlyGivenNames y; clear_value y) | with_reducible apply State.setArm_keeps hP
    | with_reducible apply guardStep_keeps hP | with_reducible apply limitCheck_keeps hP
    | with_reducible apply writeJs_keeps hP | with_reducible apply releaseDyn_keeps hP

theorem obsRestart_keeps {P : State → Prop} (hP : Closed P) (s : State) (h : Half) (j : ℕ) (hs : P s) :
    P (obsRestart s h j) := by
  unfold obsRestart
  repeat' first
    | with_reducible assumption
    | (extract_lets +onlyGivenNames y; refine (fun (_ : P y) => ?_) ?_; (on_goal 1 => clear_value y); (on_goal 2 => subst y))
    | (extract_lets +onlyGivenNames y; clear_value y) | with_reducible apply State.setArm_keeps hP

theorem usePayload_keeps {P : State → Prop} (hP : Closed P) (s : State) (h : Half) (j : ℕ) (p : ℕ) (hs : P s) :
    P (usePayload s h j p) := by
  unfold usePayload
  repeat' first
    | with_reducible assumption
    | (extract_lets +onlyGivenNames y; refine (fun (_ : P y) => ?_) ?_; (on_goal 1 => clear_value y); (on_goal 2 => subst y))
    | (extract_lets +onlyGivenNames y; clear_value y) | with_reducible apply State.setFld_keeps hP
    | with_reducible apply obsRestart_keeps hP | with_reducible apply keeps_ite

theorem dynamics_keeps {P : State → Prop} (hP : Closed P) (s : State) (h : Half) (j : ℕ) (tag : ℕ) (hs : P s) :
    P (dynamics s h j tag) := by
  unfold dynamics
  repeat' first
    | with_reducible assumption
    | (extract_lets +onlyGivenNames y; refine (fun (_ : P y) => ?_) ?_; (on_goal 1 => clear_value y); (on_goal 2 => subst y))
    | (extract_lets +onlyGivenNames y; clear_value y) | with_reducible apply writeFf_keeps hP
    | with_reducible apply keeps_ite | split

theorem samplePayload_keeps {P : State → Prop} (hP : Closed P) (s : State) (h : Half) (j : ℕ) (tag : ℕ) (hs : P s) :
    P (samplePayload s h j tag) := by
  unfold samplePayload
  repeat' first
    | with_reducible assumption
    | (extract_lets +onlyGivenNames y; refine (fun (_ : P y) => ?_) ?_; (on_goal 1 => clear_value y); (on_goal 2 => subst y))
    | (extract_lets +onlyGivenNames y; clear_value y) | with_reducible apply State.setArm_keeps hP
    | with_reducible apply dynamics_keeps hP | with_reducible apply keeps_ite

theorem kinematics_keeps {P : State → Prop} (hP : Closed P) (s : State) (h : Half) (j : ℕ) (tag : ℕ) (hs : P s) :
    P (kinematics s h j tag) := by
  unfold kinematics
  repeat' first
    | with_reducible assumption
    | (extract_lets +onlyGivenNames y; refine (fun (_ : P y) => ?_) ?_; (on_goal 1 => clear_value y); (on_goal 2 => subst y))
    | (extract_lets +onlyGivenNames y; clear_value y) | with_reducible apply State.setFlag_keeps hP
    | with_reducible apply State.countIf_keeps hP | with_reducible apply jointStop_keeps hP
    | with_reducible apply armTake_keeps hP | with_reducible apply keeps_ite | split

theorem takeActual_keeps {P : State → Prop} (hP : Closed P) (s : State) (h : Half) (j : ℕ) (hs : P s) :
    P (takeActual s h j) := by
  unfold takeActual
  repeat' first
    | with_reducible assumption
    | (extract_lets +onlyGivenNames y; refine (fun (_ : P y) => ?_) ?_; (on_goal 1 => clear_value y); (on_goal 2 => subst y))
    | (extract_lets +onlyGivenNames y; clear_value y) | with_reducible apply State.setArm_keeps hP

theorem observe_keeps {P : State → Prop} (hP : Closed P) (s : State) (h : Half) (j : ℕ) (n : ℕ) (hs : P s) :
    P (observe s h j n) := by
  unfold observe
  repeat' first
    | with_reducible assumption
    | (extract_lets +onlyGivenNames y; refine (fun (_ : P y) => ?_) ?_; (on_goal 1 => clear_value y); (on_goal 2 => subst y))
    | (extract_lets +onlyGivenNames y; clear_value y) | with_reducible apply State.setFlag_keeps hP
    | with_reducible apply State.setWords_keeps hP | with_reducible apply State.setArm_keeps hP
    | with_reducible apply raiseEvt_keeps hP | with_reducible apply pathStop_keeps hP
    | with_reducible apply jointStop_keeps hP | with_reducible apply keeps_ite | split

theorem releaseObservers_keeps {P : State → Prop} (hP : Closed P) (s : State) (h : Half) (hs : P s) :
    P (releaseObservers s h) := by
  unfold releaseObservers
  repeat' first
    | with_reducible assumption
    | (extract_lets +onlyGivenNames y; refine (fun (_ : P y) => ?_) ?_; (on_goal 1 => clear_value y); (on_goal 2 => subst y))
    | (extract_lets +onlyGivenNames y; clear_value y) | with_reducible apply releaseWork_keeps hP
    | with_reducible apply takeActual_keeps hP | (with_reducible apply keeps_foldl; intro _ _ _) | split

theorem obsResume_keeps {P : State → Prop} (hP : Closed P) (s : State) (h : Half) (j : ℕ) (hs : P s) :
    P (obsResume s h j) := by
  unfold obsResume
  repeat' first
    | with_reducible assumption
    | (extract_lets +onlyGivenNames y; refine (fun (_ : P y) => ?_) ?_; (on_goal 1 => clear_value y); (on_goal 2 => subst y))
    | (extract_lets +onlyGivenNames y; clear_value y) | with_reducible apply State.setArm_keeps hP
    | with_reducible apply keeps_ite

theorem stepScales_keeps {P : State → Prop} (hP : Closed P) (s : State) (h : Half) (j : ℕ) (hs : P s) :
    P (stepScales s h j) := by
  unfold stepScales
  repeat' first
    | with_reducible assumption
    | (extract_lets +onlyGivenNames y; refine (fun (_ : P y) => ?_) ?_; (on_goal 1 => clear_value y); (on_goal 2 => subst y))
    | (extract_lets +onlyGivenNames y; clear_value y) | with_reducible apply State.setFld_keeps hP
    | with_reducible apply State.setArm_keeps hP

theorem startSegment_keeps {P : State → Prop} (hP : Closed P) (s : State) (h : Half) (j : ℕ) (i : ℕ) (a : SegStart) (v : ℤ) (dt : ℤ) (hs : P s) :
    P (startSegment s h j i a v dt) := by
  unfold startSegment
  repeat' first
    | with_reducible assumption
    | (extract_lets +onlyGivenNames y; refine (fun (_ : P y) => ?_) ?_; (on_goal 1 => clear_value y); (on_goal 2 => subst y))
    | (extract_lets +onlyGivenNames y; clear_value y) | with_reducible apply State.setFld_keeps hP
    | with_reducible apply State.setArm_keeps hP | with_reducible apply usePayload_keeps hP
    | with_reducible apply keeps_ite

theorem beginSegment_keeps {P : State → Prop} (hP : Closed P) (s : State) (h : Half) (j : ℕ) (hs : P s) :
    P (beginSegment s h j) := by
  unfold beginSegment
  repeat' first
    | with_reducible assumption
    | (extract_lets +onlyGivenNames y; refine (fun (_ : P y) => ?_) ?_; (on_goal 1 => clear_value y); (on_goal 2 => subst y))
    | (extract_lets +onlyGivenNames y; clear_value y) | with_reducible apply State.setFld_keeps hP
    | with_reducible apply startSegment_keeps hP | with_reducible apply keeps_ite

theorem pathEnded_keeps {P : State → Prop} (hP : Closed P) (s : State) (h : Half) (j : ℕ) (st : ℕ) (hs : P s) :
    P (pathEnded s h j st) := by
  unfold pathEnded
  repeat' first
    | with_reducible assumption
    | (extract_lets +onlyGivenNames y; refine (fun (_ : P y) => ?_) ?_; (on_goal 1 => clear_value y); (on_goal 2 => subst y))
    | (extract_lets +onlyGivenNames y; clear_value y) | with_reducible apply State.setFld_keeps hP
    | with_reducible apply keeps_ite

theorem passSegment_keeps {P : State → Prop} (hP : Closed P) (s : State) (h : Half) (j : ℕ) (hs : P s) :
    P (passSegment s h j) := by
  unfold passSegment
  repeat' first
    | with_reducible assumption
    | (extract_lets +onlyGivenNames y; refine (fun (_ : P y) => ?_) ?_; (on_goal 1 => clear_value y); (on_goal 2 => subst y))
    | (extract_lets +onlyGivenNames y; clear_value y) | with_reducible apply State.setFld_keeps hP
    | with_reducible apply State.setArm_keeps hP | with_reducible apply raiseEvt_keeps hP

theorem restFrom_keeps {P : State → Prop} (hP : Closed P) (s : State) (h : Half) (j : ℕ) (tag : ℕ) (hs : P s) :
    P (restFrom s h j tag) := by
  unfold restFrom
  repeat' first
    | with_reducible assumption
    | (extract_lets +onlyGivenNames y; refine (fun (_ : P y) => ?_) ?_; (on_goal 1 => clear_value y); (on_goal 2 => subst y))
    | (extract_lets +onlyGivenNames y; clear_value y) | with_reducible apply State.setArm_keeps hP

theorem endSegment_keeps {P : State → Prop} (hP : Closed P) (s : State) (h : Half) (j : ℕ) (tag : ℕ) (hs : P s) :
    P (endSegment s h j tag) := by
  unfold endSegment
  repeat' first
    | with_reducible assumption
    | (extract_lets +onlyGivenNames y; refine (fun (_ : P y) => ?_) ?_; (on_goal 1 => clear_value y); (on_goal 2 => subst y))
    | (extract_lets +onlyGivenNames y; clear_value y) | with_reducible apply beginSegment_keeps hP
    | with_reducible apply pathEnded_keeps hP | with_reducible apply passSegment_keeps hP
    | with_reducible apply restFrom_keeps hP | with_reducible apply keeps_ite

theorem flyMiss_keeps {P : State → Prop} (hP : Closed P) (s : State) (h : Half) (j : ℕ) (hs : P s) :
    P (flyMiss s h j) := by
  unfold flyMiss
  repeat' first
    | with_reducible assumption
    | (extract_lets +onlyGivenNames y; refine (fun (_ : P y) => ?_) ?_; (on_goal 1 => clear_value y); (on_goal 2 => subst y))
    | (extract_lets +onlyGivenNames y; clear_value y) | with_reducible apply State.count_keeps hP
    | with_reducible apply State.setArm_keeps hP | with_reducible apply keeps_ite

theorem alongPath_keeps {P : State → Prop} (hP : Closed P) (s : State) (h : Half) (j : ℕ) (x3 : ℕ) (x4 : ℤ) (hs : P s) :
    P (alongPath s h j x3 x4) := by
  induction x3 generalizing s h j x4 with
  | zero =>
    unfold alongPath
    repeat' first | with_reducible assumption
  | succ n0 ih =>
    unfold alongPath
    repeat' first
      | with_reducible assumption
      | (extract_lets +onlyGivenNames y; refine (fun (_ : P y) => ?_) ?_; (on_goal 1 => clear_value y); (on_goal 2 => subst y))
      | (extract_lets +onlyGivenNames y; refine (fun (_ : P y.2) => ?_) ?_; (on_goal 1 => clear_value y); (on_goal 2 => subst y))
      | (extract_lets +onlyGivenNames y; clear_value y) | with_reducible apply ih
      | with_reducible apply State.setArm_keeps hP | with_reducible apply State.takeFree_keeps hP
      | with_reducible apply startSegment_keeps hP | with_reducible apply passSegment_keeps hP
      | with_reducible apply flyMiss_keeps hP | with_reducible apply keeps_ite

theorem movePath_keeps {P : State → Prop} (hP : Closed P) (s : State) (h : Half) (j : ℕ) (hs : P s) :
    P (movePath s h j) := by
  unfold movePath
  repeat' first
    | with_reducible assumption
    | (extract_lets +onlyGivenNames y; refine (fun (_ : P y) => ?_) ?_; (on_goal 1 => clear_value y); (on_goal 2 => subst y))
    | (extract_lets +onlyGivenNames y; clear_value y) | with_reducible apply State.setFld_keeps hP
    | with_reducible apply alongPath_keeps hP | with_reducible apply keeps_ite

theorem sampleSegment_keeps {P : State → Prop} (hP : Closed P) (s : State) (h : Half) (j : ℕ) (tag : ℕ) (hs : P s) :
    P (sampleSegment s h j tag) := by
  unfold sampleSegment
  repeat' first
    | with_reducible assumption
    | (extract_lets +onlyGivenNames y; refine (fun (_ : P y) => ?_) ?_; (on_goal 1 => clear_value y); (on_goal 2 => subst y))
    | (extract_lets +onlyGivenNames y; clear_value y) | with_reducible apply State.setFld_keeps hP
    | with_reducible apply State.setArm_keeps hP | with_reducible apply releaseWork_keeps hP
    | with_reducible apply armTake_keeps hP | with_reducible apply keeps_ite | split

theorem sampleRest_keeps {P : State → Prop} (hP : Closed P) (s : State) (h : Half) (j : ℕ) (tag : ℕ) (hs : P s) :
    P (sampleRest s h j tag) := by
  unfold sampleRest
  repeat' first
    | with_reducible assumption
    | (extract_lets +onlyGivenNames y; refine (fun (_ : P y) => ?_) ?_; (on_goal 1 => clear_value y); (on_goal 2 => subst y))
    | (extract_lets +onlyGivenNames y; clear_value y) | with_reducible apply State.setArm_keeps hP
    | with_reducible apply writeJs_keeps hP | with_reducible apply releaseDyn_keeps hP
    | with_reducible apply armTake_keeps hP | with_reducible apply restFrom_keeps hP
    | with_reducible apply keeps_ite

theorem pathAtRest_keeps {P : State → Prop} (hP : Closed P) (s : State) (h : Half) (j : ℕ) (tag : ℕ) (hs : P s) :
    P (pathAtRest s h j tag) := by
  unfold pathAtRest
  repeat' first
    | with_reducible assumption
    | (extract_lets +onlyGivenNames y; refine (fun (_ : P y) => ?_) ?_; (on_goal 1 => clear_value y); (on_goal 2 => subst y))
    | (extract_lets +onlyGivenNames y; clear_value y) | with_reducible apply State.setArm_keeps hP
    | with_reducible apply flushQueue_keeps hP | with_reducible apply pathEnded_keeps hP
    | with_reducible apply restFrom_keeps hP | with_reducible apply keeps_ite

theorem sampleMoving_keeps {P : State → Prop} (hP : Closed P) (s : State) (h : Half) (j : ℕ) (tag : ℕ) (hs : P s) :
    P (sampleMoving s h j tag) := by
  unfold sampleMoving
  repeat' first
    | with_reducible assumption
    | (extract_lets +onlyGivenNames y; refine (fun (_ : P y) => ?_) ?_; (on_goal 1 => clear_value y); (on_goal 2 => subst y))
    | (extract_lets +onlyGivenNames y; clear_value y) | with_reducible apply State.setArm_keeps hP
    | with_reducible apply beginSegment_keeps hP | with_reducible apply pathEnded_keeps hP
    | with_reducible apply endSegment_keeps hP | with_reducible apply movePath_keeps hP
    | with_reducible apply sampleSegment_keeps hP | with_reducible apply sampleRest_keeps hP
    | with_reducible apply pathAtRest_keeps hP | with_reducible apply keeps_ite

theorem sampleStopping_keeps {P : State → Prop} (hP : Closed P) (s : State) (h : Half) (j : ℕ) (tag : ℕ) (hs : P s) :
    P (sampleStopping s h j tag) := by
  unfold sampleStopping
  repeat' first
    | with_reducible assumption
    | (extract_lets +onlyGivenNames y; refine (fun (_ : P y) => ?_) ?_; (on_goal 1 => clear_value y); (on_goal 2 => subst y))
    | (extract_lets +onlyGivenNames y; clear_value y) | with_reducible apply State.setFld_keeps hP
    | with_reducible apply State.setArm_keeps hP | with_reducible apply pathEnded_keeps hP
    | with_reducible apply sampleRest_keeps hP | with_reducible apply keeps_ite

theorem armSample_keeps {P : State → Prop} (hP : Closed P) (s : State) (h : Half) (j : ℕ) (hs : P s) :
    P (armSample s h j) := by
  unfold armSample
  repeat' first
    | with_reducible assumption
    | (extract_lets +onlyGivenNames y; refine (fun (_ : P y) => ?_) ?_; (on_goal 1 => clear_value y); (on_goal 2 => subst y))
    | (extract_lets +onlyGivenNames y; clear_value y) | with_reducible apply State.setArm_keeps hP
    | with_reducible apply stepScales_keeps hP | with_reducible apply sampleRest_keeps hP
    | with_reducible apply sampleMoving_keeps hP | with_reducible apply sampleStopping_keeps hP
    | with_reducible apply keeps_ite

theorem armResult_keeps {P : State → Prop} (hP : Closed P) (s : State) (h : Half) (j : ℕ) (code : ℕ) (tag : ℕ) (hs : P s) :
    P (armResult s h j code tag) := by
  unfold armResult
  repeat' first | with_reducible assumption | with_reducible apply State.setFld_keeps hP

theorem axesFollow_keeps {P : State → Prop} (hP : Closed P) (s : State) (h : Half) (j : ℕ) (hs : P s) :
    P (axesFollow s h j) := by
  unfold axesFollow
  repeat' first
    | with_reducible assumption
    | (extract_lets +onlyGivenNames y; refine (fun (_ : P y) => ?_) ?_; (on_goal 1 => clear_value y); (on_goal 2 => subst y))
    | (extract_lets +onlyGivenNames y; clear_value y) | with_reducible apply State.setFld_keeps hP
    | with_reducible apply State.setPrf_keeps hP | (with_reducible apply keeps_foldl; intro _ _ _)

theorem armStart_keeps {P : State → Prop} (hP : Closed P) (s : State) (h : Half) (j : ℕ) (tag : ℕ) (hs : P s) :
    P (armStart s h j tag) := by
  unfold armStart
  repeat' first
    | with_reducible assumption
    | (extract_lets +onlyGivenNames y; refine (fun (_ : P y) => ?_) ?_; (on_goal 1 => clear_value y); (on_goal 2 => subst y))
    | (extract_lets +onlyGivenNames y; clear_value y) | with_reducible apply State.setFld_keeps hP
    | with_reducible apply State.setArm_keeps hP | with_reducible apply obsRestart_keeps hP
    | with_reducible apply armResult_keeps hP | with_reducible apply axesFollow_keeps hP
    | with_reducible apply keeps_ite

theorem armResume_keeps {P : State → Prop} (hP : Closed P) (s : State) (h : Half) (j : ℕ) (tag : ℕ) (hs : P s) :
    P (armResume s h j tag) := by
  unfold armResume
  repeat' first
    | with_reducible assumption
    | (extract_lets +onlyGivenNames y; refine (fun (_ : P y) => ?_) ?_; (on_goal 1 => clear_value y); (on_goal 2 => subst y))
    | (extract_lets +onlyGivenNames y; clear_value y) | with_reducible apply State.setFld_keeps hP
    | with_reducible apply State.setArm_keeps hP | with_reducible apply obsRestart_keeps hP
    | with_reducible apply armResult_keeps hP | with_reducible apply axesFollow_keeps hP
    | with_reducible apply keeps_ite

theorem armAbort_keeps {P : State → Prop} (hP : Closed P) (s : State) (h : Half) (j : ℕ) (tag : ℕ) (hs : P s) :
    P (armAbort s h j tag) := by
  unfold armAbort
  repeat' first
    | with_reducible assumption
    | (extract_lets +onlyGivenNames y; refine (fun (_ : P y) => ?_) ?_; (on_goal 1 => clear_value y); (on_goal 2 => subst y))
    | (extract_lets +onlyGivenNames y; clear_value y) | with_reducible apply State.setFld_keeps hP
    | with_reducible apply State.setArm_keeps hP | with_reducible apply cancelHoists_keeps hP
    | with_reducible apply pathStop_keeps hP | with_reducible apply flushQueue_keeps hP
    | with_reducible apply pathEnded_keeps hP | with_reducible apply armResult_keeps hP
    | with_reducible apply keeps_ite

theorem armClearErr_keeps {P : State → Prop} (hP : Closed P) (s : State) (h : Half) (j : ℕ) (tag : ℕ) (hs : P s) :
    P (armClearErr s h j tag) := by
  unfold armClearErr
  repeat' first
    | with_reducible assumption
    | (extract_lets +onlyGivenNames y; refine (fun (_ : P y) => ?_) ?_; (on_goal 1 => clear_value y); (on_goal 2 => subst y))
    | (extract_lets +onlyGivenNames y; clear_value y) | with_reducible apply State.setWordN_keeps hP
    | with_reducible apply State.setFld_keeps hP | with_reducible apply armResult_keeps hP
    | with_reducible apply keeps_ite

theorem armStop_keeps {P : State → Prop} (hP : Closed P) (s : State) (h : Half) (j : ℕ) (tag : ℕ) (quick : Bool) (hs : P s) :
    P (armStop s h j tag quick) := by
  unfold armStop
  repeat' first
    | with_reducible assumption | with_reducible apply pathStop_keeps hP | with_reducible apply armResult_keeps hP

theorem armCommand_keeps {P : State → Prop} (hP : Closed P) (s : State) (h : Half) (j : ℕ) (code : ℕ) (tag : ℕ) (hs : P s) :
    P (armCommand s h j code tag) := by
  unfold armCommand
  repeat' first
    | with_reducible assumption | with_reducible apply armResult_keeps hP | with_reducible apply armStart_keeps hP
    | with_reducible apply armResume_keeps hP | with_reducible apply armAbort_keeps hP
    | with_reducible apply armClearErr_keeps hP | with_reducible apply armStop_keeps hP | split

theorem hoistGo_keeps {P : State → Prop} (hP : Closed P) (s : State) (h : Half) (hs : P s) :
    P (hoistGo s h) := by
  unfold hoistGo
  repeat' first
    | with_reducible assumption
    | (extract_lets +onlyGivenNames y; refine (fun (_ : P y) => ?_) ?_; (on_goal 1 => clear_value y); (on_goal 2 => subst y))
    | (extract_lets +onlyGivenNames y; clear_value y) | with_reducible apply State.setWordN_keeps hP
    | with_reducible apply State.setFld_keeps hP | with_reducible apply State.setHoist_keeps hP
    | with_reducible apply keeps_ite | split

theorem hoistRelease_keeps {P : State → Prop} (hP : Closed P) (s : State) (h : Half) (mask : ℕ) (tag : ℕ) (x4 : ℕ) (hs : P s) :
    P (hoistRelease s h mask tag x4) := by
  induction x4 generalizing s h mask tag with
  | zero =>
    unfold hoistRelease
    repeat' first | with_reducible assumption
  | succ n0 ih =>
    unfold hoistRelease
    repeat' first
      | with_reducible assumption
      | (extract_lets +onlyGivenNames y; refine (fun (_ : P y) => ?_) ?_; (on_goal 1 => clear_value y); (on_goal 2 => subst y))
      | (extract_lets +onlyGivenNames y; clear_value y) | with_reducible apply ih
      | with_reducible apply State.setFld_keeps hP | with_reducible apply State.setArm_keeps hP
      | with_reducible apply samplePayload_keeps hP | with_reducible apply startSegment_keeps hP
      | with_reducible apply keeps_ite

theorem hoistsAt_keeps {P : State → Prop} (hP : Closed P) (s : State) (h : Half) (n : ℕ) (x3 : ℕ) (hs : P s) :
    P (hoistsAt s h n x3) := by
  induction x3 generalizing s h n with
  | zero =>
    unfold hoistsAt
    repeat' first | with_reducible assumption
  | succ n0 ih =>
    unfold hoistsAt
    repeat' first
      | with_reducible assumption
      | (extract_lets +onlyGivenNames y; refine (fun (_ : P y) => ?_) ?_; (on_goal 1 => clear_value y); (on_goal 2 => subst y))
      | (extract_lets +onlyGivenNames y; clear_value y) | with_reducible apply ih
      | with_reducible apply State.setFld_keeps hP | with_reducible apply raiseEvt_keeps hP
      | with_reducible apply keeps_ite | split

theorem hoistsReady_keeps {P : State → Prop} (hP : Closed P) (s : State) (h : Half) (n : ℕ) (x3 : ℕ) (hs : P s) :
    P (hoistsReady s h n x3) := by
  induction x3 generalizing s h n with
  | zero =>
    unfold hoistsReady
    repeat' first | with_reducible assumption
  | succ n0 ih =>
    unfold hoistsReady
    repeat' first
      | with_reducible assumption
      | (extract_lets +onlyGivenNames y; refine (fun (_ : P y) => ?_) ?_; (on_goal 1 => clear_value y); (on_goal 2 => subst y))
      | (extract_lets +onlyGivenNames y; clear_value y) | with_reducible apply ih
      | with_reducible apply State.setFld_keeps hP | with_reducible apply State.putFlag_keeps hP
      | with_reducible apply State.setHoist_keeps hP | with_reducible apply hoistRelease_keeps hP
      | with_reducible apply keeps_ite

theorem hoistRead_keeps {P : State → Prop} (hP : Closed P) (s : State) (h : Half) (i : ℕ) (hs : P s) :
    P (hoistRead s h i).2 := by
  unfold hoistRead
  repeat' first
    | with_reducible assumption
    | (extract_lets +onlyGivenNames y; refine (fun (_ : P y) => ?_) ?_; (on_goal 1 => clear_value y); (on_goal 2 => subst y))
    | (extract_lets +onlyGivenNames y; clear_value y) | with_reducible apply State.setWordN_keeps hP
    | with_reducible apply keeps_ite | with_reducible apply keeps_ite2

theorem latchPayload_keeps {P : State → Prop} (hP : Closed P) (s : State) (h : Half) (j : ℕ) (hs : P s) :
    P (latchPayload s h j) := by
  unfold latchPayload
  repeat' first
    | with_reducible assumption
    | (extract_lets +onlyGivenNames y; refine (fun (_ : P y) => ?_) ?_; (on_goal 1 => clear_value y); (on_goal 2 => subst y))
    | (extract_lets +onlyGivenNames y; clear_value y) | with_reducible apply State.setArm_keeps hP
    | with_reducible apply usePayload_keeps hP | with_reducible apply samplePayload_keeps hP
    | with_reducible apply keeps_ite

theorem latchBlocks_keeps {P : State → Prop} (hP : Closed P) (s : State) (h : Half) (j : ℕ) (hs : P s) :
    P (latchBlocks s h j) := by
  unfold latchBlocks
  repeat' first
    | with_reducible assumption
    | (extract_lets +onlyGivenNames y; refine (fun (_ : P y) => ?_) ?_; (on_goal 1 => clear_value y); (on_goal 2 => subst y))
    | (extract_lets +onlyGivenNames y; clear_value y) | with_reducible apply State.setWordN_keeps hP
    | with_reducible apply State.putFlag_keeps hP | with_reducible apply State.setArm_keeps hP
    | with_reducible apply latchPayload_keeps hP | with_reducible apply keeps_ite

theorem latchArms_keeps {P : State → Prop} (hP : Closed P) (s : State) (h : Half) (hs : P s) :
    P (latchArms s h) := by
  unfold latchArms
  repeat' first
    | with_reducible assumption
    | (extract_lets +onlyGivenNames y; refine (fun (_ : P y) => ?_) ?_; (on_goal 1 => clear_value y); (on_goal 2 => subst y))
    | (extract_lets +onlyGivenNames y; clear_value y) | with_reducible apply State.countIf_keeps hP
    | with_reducible apply hoistsReady_keeps hP | with_reducible apply latchBlocks_keeps hP
    | (with_reducible apply keeps_foldl; intro _ _ _)

theorem ffLate_keeps {P : State → Prop} (hP : Closed P) (s : State) (h : Half) (j : ℕ) (hs : P s) :
    P (ffLate s h j) := by
  unfold ffLate
  repeat' first
    | with_reducible assumption
    | (extract_lets +onlyGivenNames y; refine (fun (_ : P y) => ?_) ?_; (on_goal 1 => clear_value y); (on_goal 2 => subst y))
    | (extract_lets +onlyGivenNames y; clear_value y) | with_reducible apply State.setArm_keeps hP
    | with_reducible apply raiseEvt_keeps hP | with_reducible apply keeps_ite

theorem ikLate_keeps {P : State → Prop} (hP : Closed P) (s : State) (h : Half) (j : ℕ) (hs : P s) :
    P (ikLate s h j) := by
  unfold ikLate
  repeat' first
    | with_reducible assumption
    | (extract_lets +onlyGivenNames y; refine (fun (_ : P y) => ?_) ?_; (on_goal 1 => clear_value y); (on_goal 2 => subst y))
    | (extract_lets +onlyGivenNames y; clear_value y) | with_reducible apply State.setArm_keeps hP
    | with_reducible apply raiseEvt_keeps hP | with_reducible apply jointStop_keeps hP
    | with_reducible apply keeps_ite

end Sys2Proof.Machine
end

