-- ==== Sys2Proof/Laws/KeepsUnits.lean ====
section
/-! SUPPORT. What the operations keep: the governor, the CAN channels, the solver and the rings. Where P is closed under
the stores' writes, each operation that takes a state with P answers one with P. -/
set_option maxRecDepth 20000
namespace Sys2Proof.Machine

-- One theorem at a time: the stacks of many threads together exceed the memory the check allows.
set_option Elab.async false

theorem withdraw_keeps {P : State → Prop} (hP : Closed P) (s : State) (h : Half) (hs : P s) :
    P (withdraw s h) := by
  unfold withdraw
  repeat' first
    | with_reducible assumption
    | (extract_lets +onlyGivenNames y; refine (fun (_ : P y) => ?_) ?_; (on_goal 1 => clear_value y); (on_goal 2 => subst y))
    | (extract_lets +onlyGivenNames y; clear_value y) | with_reducible apply State.setFld_keeps hP
    | with_reducible apply State.setWords_keeps hP | with_reducible apply State.setGov_keeps hP

theorem boundaryReceive_keeps {P : State → Prop} (hP : Closed P) (s : State) (h : Half) (src : Word) (b : List Byte) (hs : P s) :
    P (boundaryReceive s h src b) := by
  unfold boundaryReceive
  repeat' first
    | with_reducible assumption
    | (extract_lets +onlyGivenNames y; refine (fun (_ : P y) => ?_) ?_; (on_goal 1 => clear_value y); (on_goal 2 => subst y))
    | (extract_lets +onlyGivenNames y; clear_value y) | with_reducible apply State.setGov_keeps hP
    | with_reducible apply raiseBoth_keeps hP | with_reducible apply faultLog_keeps hP
    | with_reducible apply withdraw_keeps hP | with_reducible apply keeps_ite | split

theorem showPeers_keeps {P : State → Prop} (hP : Closed P) (s : State) (h : Half) (hs : P s) :
    P (showPeers s h) := by
  unfold showPeers
  repeat' first
    | with_reducible assumption
    | (extract_lets +onlyGivenNames y; refine (fun (_ : P y) => ?_) ?_; (on_goal 1 => clear_value y); (on_goal 2 => subst y))
    | (extract_lets +onlyGivenNames y; clear_value y) | with_reducible apply State.setFld_keeps hP
    | (with_reducible apply keeps_foldl; intro _ _ _) | with_reducible apply keeps_ite | split

theorem groupAt_keeps {P : State → Prop} (hP : Closed P) (s : State) (h : Half) (hs : P s) :
    P (groupAt s h) := by
  unfold groupAt
  repeat' first
    | with_reducible assumption
    | (extract_lets +onlyGivenNames y; refine (fun (_ : P y) => ?_) ?_; (on_goal 1 => clear_value y); (on_goal 2 => subst y))
    | (extract_lets +onlyGivenNames y; clear_value y) | with_reducible apply State.setFld_keeps hP
    | with_reducible apply State.setGov_keeps hP | with_reducible apply showPeers_keeps hP

theorem admissionRefused_keeps {P : State → Prop} (hP : Closed P) (s : State) (h : Half) (hs : P s) :
    P (admissionRefused s h) := by
  unfold admissionRefused
  repeat' first
    | with_reducible assumption
    | (extract_lets +onlyGivenNames y; refine (fun (_ : P y) => ?_) ?_; (on_goal 1 => clear_value y); (on_goal 2 => subst y))
    | (extract_lets +onlyGivenNames y; clear_value y) | with_reducible apply State.setFld_keeps hP
    | with_reducible apply State.setFlag_keeps hP | with_reducible apply State.setGov_keeps hP
    | with_reducible apply raiseEvt_keeps hP | with_reducible apply keeps_ite

theorem peerSilent_keeps {P : State → Prop} (hP : Closed P) (s : State) (h : Half) (i : ℕ) (hs : P s) :
    P (peerSilent s h i) := by
  unfold peerSilent
  repeat' first
    | with_reducible assumption
    | (extract_lets +onlyGivenNames y; refine (fun (_ : P y) => ?_) ?_; (on_goal 1 => clear_value y); (on_goal 2 => subst y))
    | (extract_lets +onlyGivenNames y; clear_value y) | with_reducible apply State.setFlag_keeps hP
    | with_reducible apply State.setGov_keeps hP | with_reducible apply raiseEvt_keeps hP
    | with_reducible apply showPeers_keeps hP | with_reducible apply keeps_ite | split

theorem govDrop_keeps {P : State → Prop} (hP : Closed P) (s : State) (h : Half) (num : ℕ) (hs : P s) :
    P (govDrop s h num) := by
  unfold govDrop
  repeat' first
    | with_reducible assumption
    | (extract_lets +onlyGivenNames y; refine (fun (_ : P y) => ?_) ?_; (on_goal 1 => clear_value y); (on_goal 2 => subst y))
    | (extract_lets +onlyGivenNames y; clear_value y) | with_reducible apply State.setFld_keeps hP
    | with_reducible apply State.setGov_keeps hP | with_reducible apply keeps_ite

theorem govClrCnt_keeps {P : State → Prop} (hP : Closed P) (s : State) (h : Half) (hs : P s) :
    P (govClrCnt s h) := by
  unfold govClrCnt
  repeat' first | with_reducible assumption | with_reducible apply State.setWordN_keeps hP

theorem govCmd_keeps {P : State → Prop} (hP : Closed P) (s : State) (h : Half) (v : ℕ) (hs : P s) :
    P (govCmd s h v) := by
  unfold govCmd
  repeat' first
    | with_reducible assumption
    | (extract_lets +onlyGivenNames y; refine (fun (_ : P y) => ?_) ?_; (on_goal 1 => clear_value y); (on_goal 2 => subst y))
    | (extract_lets +onlyGivenNames y; clear_value y) | with_reducible apply govDrop_keeps hP
    | with_reducible apply govClrCnt_keeps hP | with_reducible apply keeps_ite

theorem boundarySend_keeps {P : State → Prop} (hP : Closed P) (s : State) (h : Half) (hs : P s) :
    P (boundarySend s h) := by
  unfold boundarySend
  repeat' first
    | with_reducible assumption
    | (extract_lets +onlyGivenNames y; refine (fun (_ : P y) => ?_) ?_; (on_goal 1 => clear_value y); (on_goal 2 => subst y))
    | (extract_lets +onlyGivenNames y; clear_value y) | with_reducible apply State.setGov_keeps hP
    | with_reducible apply keeps_ite

theorem requestFor_keeps {P : State → Prop} (hP : Closed P) (s : State) (h : Half) (j : ℕ) (hs : P s) :
    P (requestFor s h j) := by
  unfold requestFor
  repeat' first
    | with_reducible assumption
    | (extract_lets +onlyGivenNames y; refine (fun (_ : P y) => ?_) ?_; (on_goal 1 => clear_value y); (on_goal 2 => subst y))
    | (extract_lets +onlyGivenNames y; clear_value y) | with_reducible apply State.flagIf_keeps hP
    | with_reducible apply State.setGov_keeps hP | with_reducible apply keeps_ite | split

theorem releaseZones_keeps {P : State → Prop} (hP : Closed P) (s : State) (h : Half) (hs : P s) :
    P (releaseZones s h) := by
  unfold releaseZones
  repeat' first
    | with_reducible assumption
    | (extract_lets +onlyGivenNames y; refine (fun (_ : P y) => ?_) ?_; (on_goal 1 => clear_value y); (on_goal 2 => subst y))
    | (extract_lets +onlyGivenNames y; refine (fun (fy1 : ∀ t, P t → P (y t)) => ?_) ?_; (on_goal 1 => clear_value y); (on_goal 2 => (subst y; intro t ht; beta_reduce)))
    | (extract_lets +onlyGivenNames y; refine (fun (fy2 : ∀ t r, P t → P (y t r)) => ?_) ?_; (on_goal 1 => clear_value y); (on_goal 2 => (subst y; intro t r ht; beta_reduce)))
    | (extract_lets +onlyGivenNames y; refine (fun (fy3 : ∀ t r q, P t → P (y t r q)) => ?_) ?_; (on_goal 1 => clear_value y); (on_goal 2 => (subst y; intro t r q ht; beta_reduce)))
    | (extract_lets +onlyGivenNames y; refine (fun (fy4 : ∀ t r q p, P t → P (y t r q p)) => ?_) ?_; (on_goal 1 => clear_value y); (on_goal 2 => (subst y; intro t r q p ht; beta_reduce)))
    | (extract_lets +onlyGivenNames y; clear_value y) | with_reducible apply fy1 | with_reducible apply fy2
    | with_reducible apply fy3 | with_reducible apply fy4 | with_reducible apply State.setGov_keeps hP

theorem showZones_keeps {P : State → Prop} (hP : Closed P) (s : State) (h : Half) (held : List ZEntry) (hs : P s) :
    P (showZones s h held) := by
  unfold showZones
  repeat' first
    | with_reducible assumption
    | (extract_lets +onlyGivenNames y; refine (fun (_ : P y) => ?_) ?_; (on_goal 1 => clear_value y); (on_goal 2 => subst y))
    | (extract_lets +onlyGivenNames y; clear_value y) | with_reducible apply State.setWordN_keeps hP
    | (with_reducible apply keeps_foldl; intro _ _ _)

theorem zonesAt_keeps {P : State → Prop} (hP : Closed P) (s : State) (h : Half) (hs : P s) :
    P (zonesAt s h) := by
  unfold zonesAt
  repeat' first
    | with_reducible assumption
    | (extract_lets +onlyGivenNames y; refine (fun (_ : P y) => ?_) ?_; (on_goal 1 => clear_value y); (on_goal 2 => subst y))
    | (extract_lets +onlyGivenNames y; clear_value y) | with_reducible apply State.setWordN_keeps hP
    | with_reducible apply State.setFlag_keeps hP | with_reducible apply State.countIf_keeps hP
    | with_reducible apply State.setMemBytes_keeps hP | with_reducible apply State.setGov_keeps hP
    | with_reducible apply raiseEvt_keeps hP | with_reducible apply requestFor_keeps hP
    | with_reducible apply releaseZones_keeps hP | with_reducible apply showZones_keeps hP
    | (with_reducible apply keeps_foldl; intro _ _ _) | with_reducible apply keeps_ite

theorem zoneScan_keeps {P : State → Prop} (hP : Closed P) (s : State) (h : Half) (j : ℕ) (seg : ℕ) (hs : P s) :
    P (zoneScan s h j seg) := by
  unfold zoneScan
  repeat' first
    | with_reducible assumption
    | (extract_lets +onlyGivenNames y; refine (fun (_ : P y) => ?_) ?_; (on_goal 1 => clear_value y); (on_goal 2 => subst y))
    | (extract_lets +onlyGivenNames y; clear_value y) | with_reducible apply State.setArm_keeps hP
    | (with_reducible apply keeps_foldl; intro _ _ _) | with_reducible apply keeps_ite

theorem resumeZones_keeps {P : State → Prop} (hP : Closed P) (s : State) (h : Half) (from_ : Half) (hs : P s) :
    P (resumeZones s h from_) := by
  unfold resumeZones
  repeat' first
    | with_reducible assumption
    | (extract_lets +onlyGivenNames y; refine (fun (_ : P y) => ?_) ?_; (on_goal 1 => clear_value y); (on_goal 2 => subst y))
    | (extract_lets +onlyGivenNames y; clear_value y) | with_reducible apply State.setGov_keeps hP

theorem setSolverCh_keeps {P : State → Prop} (hP : Closed P) (s : State) (h : Half) (k : ℕ) (c : SolverCh) (hs : P s) :
    P (setSolverCh s h k c) := by
  unfold setSolverCh
  repeat' first
    | with_reducible assumption
    | (extract_lets +onlyGivenNames y; refine (fun (_ : P y) => ?_) ?_; (on_goal 1 => clear_value y); (on_goal 2 => subst y))
    | (extract_lets +onlyGivenNames y; clear_value y) | with_reducible apply State.setFld_keeps hP
    | with_reducible apply State.putFlag_keeps hP | with_reducible apply State.setSolver_keeps hP

theorem solverSubmit_keeps {P : State → Prop} (hP : Closed P) (s : State) (h : Half) (p : ℕ) (v : ℕ) (hs : P s) :
    P (solverSubmit s h p v) := by
  unfold solverSubmit
  repeat' first
    | with_reducible assumption
    | (extract_lets +onlyGivenNames y; refine (fun (_ : P y) => ?_) ?_; (on_goal 1 => clear_value y); (on_goal 2 => subst y))
    | (extract_lets +onlyGivenNames y; clear_value y) | with_reducible apply State.setFld_keeps hP
    | with_reducible apply raiseEvt_keeps hP | with_reducible apply setSolverCh_keeps hP
    | with_reducible apply keeps_ite

theorem takeFrees_keeps {P : State → Prop} (hP : Closed P) (s : State) (x1 : ℕ) (hs : P s) :
    P (takeFrees s x1).2 := by
  induction x1 generalizing s with
  | zero =>
    unfold takeFrees
    repeat' first | with_reducible assumption
  | succ n0 ih =>
    unfold takeFrees
    repeat' first
      | with_reducible assumption
      | (extract_lets +onlyGivenNames y; refine (fun (_ : P y) => ?_) ?_; (on_goal 1 => clear_value y); (on_goal 2 => subst y))
      | (extract_lets +onlyGivenNames y; refine (fun (_ : P y.2) => ?_) ?_; (on_goal 1 => clear_value y); (on_goal 2 => subst y))
      | (extract_lets +onlyGivenNames y; clear_value y) | with_reducible apply ih
      | with_reducible apply State.takeFree_keeps hP

theorem undefinedValues_keeps {P : State → Prop} (hP : Closed P) (s : State) (sv : Solved) (hs : P s) :
    P (undefinedValues s sv).2 := by
  unfold undefinedValues
  repeat' first
    | with_reducible assumption
    | (extract_lets +onlyGivenNames y; refine (fun (_ : P y) => ?_) ?_; (on_goal 1 => clear_value y); (on_goal 2 => subst y))
    | (extract_lets +onlyGivenNames y; refine (fun (_ : P y.2) => ?_) ?_; (on_goal 1 => clear_value y); (on_goal 2 => subst y))
    | (extract_lets +onlyGivenNames y; clear_value y) | with_reducible apply State.takeFree_keeps hP
    | with_reducible apply takeFrees_keeps hP

theorem writeRecord_keeps {P : State → Prop} (hP : Closed P) (s : State) (at_ : ℕ) (sig : ℕ) (resid : ℕ) (dx : ℕ) (status : ℕ) (hs : P s) :
    P (writeRecord s at_ sig resid dx status) := by
  unfold writeRecord
  repeat' first
    | with_reducible assumption
    | (extract_lets +onlyGivenNames y; refine (fun (_ : P y) => ?_) ?_; (on_goal 1 => clear_value y); (on_goal 2 => subst y))
    | (extract_lets +onlyGivenNames y; clear_value y) | with_reducible apply State.setMemN_keeps hP

theorem writeElems_keeps {P : State → Prop} (hP : Closed P) (s : State) (at_ : ℕ) (x2 : List (Option ℕ)) (hs : P s) :
    P (writeElems s at_ x2) := by
  induction x2 generalizing s at_ with
  | nil =>
    unfold writeElems
    repeat' first | with_reducible assumption
  | cons z0 l0 ih =>
    unfold writeElems
    repeat' first
      | with_reducible assumption | with_reducible apply ih | (cases ‹_ :: _ = _ :: _›)
      | with_reducible apply State.setMemN_keeps hP | split

theorem noteProblem_keeps {P : State → Prop} (hP : Closed P) (s : State) (h : Half) (k : ℕ) (status : ℕ) (hs : P s) :
    P (noteProblem s h k status) := by
  unfold noteProblem
  repeat' first
    | with_reducible assumption
    | (extract_lets +onlyGivenNames y; refine (fun (_ : P y) => ?_) ?_; (on_goal 1 => clear_value y); (on_goal 2 => subst y))
    | (extract_lets +onlyGivenNames y; clear_value y) | with_reducible apply State.setFld_keeps hP
    | with_reducible apply State.count_keeps hP | with_reducible apply State.countIf_keeps hP
    | with_reducible apply raiseEvt_keeps hP | with_reducible apply keeps_ite

theorem finishProblem_keeps {P : State → Prop} (hP : Closed P) (s : State) (h : Half) (k : ℕ) (sv : Solved) (inv : Bool) (rej : Bool) (refuse : ℕ) (sig : ℕ) (fAt : ℕ) (xAt : ℕ) (resAt : ℕ) (warmAt : Option ℕ) (hs : P s) :
    P (finishProblem s h k sv inv rej refuse sig fAt xAt resAt warmAt) := by
  unfold finishProblem
  repeat' first
    | with_reducible assumption
    | (extract_lets +onlyGivenNames y; refine (fun (_ : P y) => ?_) ?_; (on_goal 1 => clear_value y); (on_goal 2 => subst y))
    | (extract_lets +onlyGivenNames y; clear_value y) | with_reducible apply State.setMemN_keeps hP
    | with_reducible apply State.setMemWords_keeps hP | with_reducible apply writeRecord_keeps hP
    | with_reducible apply writeElems_keeps hP | with_reducible apply noteProblem_keeps hP | split

theorem denseProblem_keeps {P : State → Prop} (hP : Closed P) (s : State) (h : Half) (k : ℕ) (d : List Word) (j : ℕ) (hs : P s) :
    P (denseProblem s h k d j) := by
  unfold denseProblem
  repeat' first
    | with_reducible assumption
    | (extract_lets +onlyGivenNames y; refine (fun (_ : P y) => ?_) ?_; (on_goal 1 => clear_value y); (on_goal 2 => subst y))
    | (extract_lets +onlyGivenNames y; refine (fun (fy1 : ∀ t, P t → P (y t)) => ?_) ?_; (on_goal 1 => clear_value y); (on_goal 2 => (subst y; intro t ht; beta_reduce)))
    | (extract_lets +onlyGivenNames y; refine (fun (fy2 : ∀ t r, P t → P (y t r)) => ?_) ?_; (on_goal 1 => clear_value y); (on_goal 2 => (subst y; intro t r ht; beta_reduce)))
    | (extract_lets +onlyGivenNames y; refine (fun (fy3 : ∀ t r q, P t → P (y t r q)) => ?_) ?_; (on_goal 1 => clear_value y); (on_goal 2 => (subst y; intro t r q ht; beta_reduce)))
    | (extract_lets +onlyGivenNames y; refine (fun (fy4 : ∀ t r q p, P t → P (y t r q p)) => ?_) ?_; (on_goal 1 => clear_value y); (on_goal 2 => (subst y; intro t r q p ht; beta_reduce)))
    | (extract_lets +onlyGivenNames y; refine (fun (_ : P y.2) => ?_) ?_; (on_goal 1 => clear_value y); (on_goal 2 => subst y))
    | (extract_lets +onlyGivenNames y; clear_value y) | with_reducible apply fy1 | with_reducible apply fy2
    | with_reducible apply fy3 | with_reducible apply fy4 | with_reducible apply undefinedValues_keeps hP
    | with_reducible apply finishProblem_keeps hP | with_reducible apply keeps_ite | split

theorem putFactor_keeps {P : State → Prop} (hP : Closed P) (s : State) (h : Half) (c : ℕ) (q : Option SparseFactor) (hs : P s) :
    P (putFactor s h c q) := by
  unfold putFactor
  repeat' first
    | with_reducible assumption
    | (extract_lets +onlyGivenNames y; refine (fun (_ : P y) => ?_) ?_; (on_goal 1 => clear_value y); (on_goal 2 => subst y))
    | (extract_lets +onlyGivenNames y; clear_value y) | with_reducible apply State.setSolver_keeps hP

theorem sparseProblem_keeps {P : State → Prop} (hP : Closed P) (s : State) (h : Half) (k : ℕ) (d : List Word) (hs : P s) :
    P (sparseProblem s h k d) := by
  unfold sparseProblem
  repeat' first
    | with_reducible assumption
    | (extract_lets +onlyGivenNames y; refine (fun (_ : P y) => ?_) ?_; (on_goal 1 => clear_value y); (on_goal 2 => subst y))
    | (extract_lets +onlyGivenNames y; refine (fun (fy1 : ∀ t, P t → P (y t)) => ?_) ?_; (on_goal 1 => clear_value y); (on_goal 2 => (subst y; intro t ht; beta_reduce)))
    | (extract_lets +onlyGivenNames y; refine (fun (fy2 : ∀ t r, P t → P (y t r)) => ?_) ?_; (on_goal 1 => clear_value y); (on_goal 2 => (subst y; intro t r ht; beta_reduce)))
    | (extract_lets +onlyGivenNames y; refine (fun (fy3 : ∀ t r q, P t → P (y t r q)) => ?_) ?_; (on_goal 1 => clear_value y); (on_goal 2 => (subst y; intro t r q ht; beta_reduce)))
    | (extract_lets +onlyGivenNames y; refine (fun (fy4 : ∀ t r q p, P t → P (y t r q p)) => ?_) ?_; (on_goal 1 => clear_value y); (on_goal 2 => (subst y; intro t r q p ht; beta_reduce)))
    | (extract_lets +onlyGivenNames y; refine (fun (_ : P y.2) => ?_) ?_; (on_goal 1 => clear_value y); (on_goal 2 => subst y))
    | (extract_lets +onlyGivenNames y; clear_value y) | with_reducible apply fy1 | with_reducible apply fy2
    | with_reducible apply fy3 | with_reducible apply fy4 | with_reducible apply State.setFld_keeps hP
    | with_reducible apply State.putFlag_keeps hP | with_reducible apply undefinedValues_keeps hP
    | with_reducible apply finishProblem_keeps hP | with_reducible apply putFactor_keeps hP
    | with_reducible apply keeps_ite | split

theorem solverComplete_keeps {P : State → Prop} (hP : Closed P) (s : State) (h : Half) (k : ℕ) (hs : P s) :
    P (solverComplete s h k) := by
  unfold solverComplete
  repeat' first
    | with_reducible assumption
    | (extract_lets +onlyGivenNames y; refine (fun (_ : P y) => ?_) ?_; (on_goal 1 => clear_value y); (on_goal 2 => subst y))
    | (extract_lets +onlyGivenNames y; clear_value y) | with_reducible apply State.setFld_keeps hP
    | with_reducible apply raiseIf_keeps hP | with_reducible apply setSolverCh_keeps hP
    | with_reducible apply denseProblem_keeps hP | with_reducible apply sparseProblem_keeps hP
    | with_reducible apply keeps_ite | split

theorem flushProblem_keeps {P : State → Prop} (hP : Closed P) (s : State) (h : Half) (k : ℕ) (d : List Word) (j : ℕ) (hs : P s) :
    P (flushProblem s h k d j) := by
  unfold flushProblem
  repeat' first
    | with_reducible assumption
    | (extract_lets +onlyGivenNames y; refine (fun (_ : P y) => ?_) ?_; (on_goal 1 => clear_value y); (on_goal 2 => subst y))
    | (extract_lets +onlyGivenNames y; clear_value y) | with_reducible apply writeRecord_keeps hP
    | with_reducible apply noteProblem_keeps hP

theorem flushDesc_keeps {P : State → Prop} (hP : Closed P) (s : State) (h : Half) (k : ℕ) (x : SolverDesc) (hs : P s) :
    P (flushDesc s h k x) := by
  unfold flushDesc
  repeat' first
    | with_reducible assumption
    | (extract_lets +onlyGivenNames y; refine (fun (_ : P y) => ?_) ?_; (on_goal 1 => clear_value y); (on_goal 2 => subst y))
    | (extract_lets +onlyGivenNames y; clear_value y) | with_reducible apply raiseIf_keeps hP
    | with_reducible apply flushProblem_keeps hP | (with_reducible apply keeps_foldl; intro _ _ _)

theorem channelReset_keeps {P : State → Prop} (hP : Closed P) (s : State) (h : Half) (k : ℕ) (hs : P s) :
    P (channelReset s h k) := by
  unfold channelReset
  repeat' first
    | with_reducible assumption
    | (extract_lets +onlyGivenNames y; refine (fun (_ : P y) => ?_) ?_; (on_goal 1 => clear_value y); (on_goal 2 => subst y))
    | (extract_lets +onlyGivenNames y; clear_value y) | with_reducible apply State.resetRegs_keeps hP
    | with_reducible apply State.setSolver_keeps hP | with_reducible apply flushDesc_keeps hP
    | (with_reducible apply keeps_foldl; intro _ _ _)

theorem chClrCnt_keeps {P : State → Prop} (hP : Closed P) (s : State) (h : Half) (k : ℕ) (hs : P s) :
    P (chClrCnt s h k) := by
  unfold chClrCnt
  repeat' first | with_reducible assumption | with_reducible apply State.setWordN_keeps hP

theorem chCtrl_keeps {P : State → Prop} (hP : Closed P) (s : State) (h : Half) (k : ℕ) (v : ℕ) (hs : P s) :
    P (chCtrl s h k v) := by
  unfold chCtrl
  repeat' first
    | with_reducible assumption
    | (extract_lets +onlyGivenNames y; refine (fun (_ : P y) => ?_) ?_; (on_goal 1 => clear_value y); (on_goal 2 => subst y))
    | (extract_lets +onlyGivenNames y; clear_value y) | with_reducible apply channelReset_keeps hP
    | with_reducible apply chClrCnt_keeps hP | with_reducible apply keeps_ite

theorem installSched_keeps {P : State → Prop} (hP : Closed P) (s : State) (h : Half) (c : ℕ) (sl : ℕ) (a : ℕ) (hs : P s) :
    P (installSched s h c sl a) := by
  unfold installSched
  repeat' first
    | with_reducible assumption
    | (extract_lets +onlyGivenNames y; refine (fun (_ : P y) => ?_) ?_; (on_goal 1 => clear_value y); (on_goal 2 => subst y))
    | (extract_lets +onlyGivenNames y; clear_value y) | with_reducible apply State.setWordN_keeps hP
    | with_reducible apply State.setMemBytes_keeps hP | with_reducible apply State.setWords_keeps hP
    | with_reducible apply hP.put | with_reducible apply hP.byte | with_reducible apply hP.drop
    | with_reducible apply hP.wipe

theorem emptySlot_keeps {P : State → Prop} (hP : Closed P) (s : State) (h : Half) (c : ℕ) (sl : ℕ) (st : ℕ) (hs : P s) :
    P (emptySlot s h c sl st) := by
  unfold emptySlot
  repeat' first
    | with_reducible assumption
    | (extract_lets +onlyGivenNames y; refine (fun (_ : P y) => ?_) ?_; (on_goal 1 => clear_value y); (on_goal 2 => subst y))
    | (extract_lets +onlyGivenNames y; clear_value y) | with_reducible apply State.setWordN_keeps hP
    | with_reducible apply State.setWords_keeps hP | with_reducible apply hP.put | with_reducible apply hP.byte
    | with_reducible apply hP.drop | with_reducible apply hP.wipe

theorem spLoad_keeps {P : State → Prop} (hP : Closed P) (s : State) (h : Half) (sl : ℕ) (c : ℕ) (hs : P s) :
    P (spLoad s h sl c) := by
  unfold spLoad
  repeat' first
    | with_reducible assumption
    | (extract_lets +onlyGivenNames y; refine (fun (_ : P y) => ?_) ?_; (on_goal 1 => clear_value y); (on_goal 2 => subst y))
    | (extract_lets +onlyGivenNames y; clear_value y) | with_reducible apply State.setFld_keeps hP
    | with_reducible apply State.setSolver_keeps hP | with_reducible apply raiseEvt_keeps hP
    | with_reducible apply putFactor_keeps hP | with_reducible apply emptySlot_keeps hP
    | with_reducible apply keeps_ite

theorem spLoadComplete_keeps {P : State → Prop} (hP : Closed P) (s : State) (h : Half) (c : ℕ) (sl : ℕ) (hs : P s) :
    P (spLoadComplete s h c sl) := by
  unfold spLoadComplete
  repeat' first
    | with_reducible assumption
    | (extract_lets +onlyGivenNames y; refine (fun (_ : P y) => ?_) ?_; (on_goal 1 => clear_value y); (on_goal 2 => subst y))
    | (extract_lets +onlyGivenNames y; clear_value y) | with_reducible apply State.setFld_keeps hP
    | with_reducible apply State.setSolver_keeps hP | with_reducible apply raiseEvt_keeps hP
    | with_reducible apply installSched_keeps hP | with_reducible apply emptySlot_keeps hP
    | with_reducible apply keeps_ite | split

theorem reloadScheds_keeps {P : State → Prop} (hP : Closed P) (s : State) (h : Half) (hs : P s) :
    P (reloadScheds s h) := by
  unfold reloadScheds
  repeat' first
    | with_reducible assumption
    | (extract_lets +onlyGivenNames y; refine (fun (_ : P y) => ?_) ?_; (on_goal 1 => clear_value y); (on_goal 2 => subst y))
    | (extract_lets +onlyGivenNames y; clear_value y) | with_reducible apply State.setWordN_keeps hP
    | with_reducible apply State.setByte_keeps hP | with_reducible apply State.setWords_keeps hP
    | with_reducible apply emptySlot_keeps hP | (with_reducible apply keeps_foldl; intro _ _ _) | split

theorem takeCeilings_keeps {P : State → Prop} (hP : Closed P) (s : State) (h : Half) (hs : P s) :
    P (takeCeilings s h) := by
  unfold takeCeilings
  repeat' first
    | with_reducible assumption
    | (extract_lets +onlyGivenNames y; refine (fun (_ : P y) => ?_) ?_; (on_goal 1 => clear_value y); (on_goal 2 => subst y))
    | (extract_lets +onlyGivenNames y; clear_value y) | with_reducible apply State.setFld_keeps hP
    | with_reducible apply State.putFlag_keeps hP | (with_reducible apply keeps_foldl; intro _ _ _)

theorem govFrees_keeps {P : State → Prop} (hP : Closed P) (s : State) (x1 : ℕ) (hs : P s) :
    P (govFrees s x1).2 := by
  induction x1 generalizing s with
  | zero =>
    unfold govFrees
    repeat' first | with_reducible assumption
  | succ n0 ih =>
    unfold govFrees
    repeat' first
      | with_reducible assumption
      | (extract_lets +onlyGivenNames y; refine (fun (_ : P y) => ?_) ?_; (on_goal 1 => clear_value y); (on_goal 2 => subst y))
      | (extract_lets +onlyGivenNames y; refine (fun (_ : P y.2) => ?_) ?_; (on_goal 1 => clear_value y); (on_goal 2 => subst y))
      | (extract_lets +onlyGivenNames y; clear_value y) | with_reducible apply ih
      | with_reducible apply State.takeFree_keeps hP

theorem govSolve_snd (s : State) (h : Half) : (govSolve s h).2 = (govFrees s 13).2 := by
  unfold govSolve
  dsimp only

theorem govSolve_keeps {P : State → Prop} (hP : Closed P) (s : State) (h : Half) (hs : P s) :
    P (govSolve s h).2 := by
  rw [govSolve_snd]
  exact govFrees_keeps hP s 13 hs

theorem govRelease_keeps {P : State → Prop} (hP : Closed P) (s : State) (h : Half) (hs : P s) :
    P (govRelease s h) := by
  unfold govRelease
  repeat' first
    | with_reducible assumption
    | (extract_lets +onlyGivenNames y; refine (fun (_ : P y) => ?_) ?_; (on_goal 1 => clear_value y); (on_goal 2 => subst y))
    | (extract_lets +onlyGivenNames y; refine (fun (_ : P y.2) => ?_) ?_; (on_goal 1 => clear_value y); (on_goal 2 => subst y))
    | (extract_lets +onlyGivenNames y; clear_value y) | with_reducible apply State.setGov_keeps hP
    | with_reducible apply releaseWork_keeps hP | with_reducible apply takeCeilings_keeps hP
    | with_reducible apply govSolve_keeps hP | with_reducible apply keeps_ite

theorem govNotes_keeps {P : State → Prop} (hP : Closed P) (s : State) (h : Half) (rs : List (ℕ × GovArm)) (hs : P s) :
    P (govNotes s h rs) := by
  unfold govNotes
  repeat' first
    | with_reducible assumption
    | (extract_lets +onlyGivenNames y; refine (fun (_ : P y) => ?_) ?_; (on_goal 1 => clear_value y); (on_goal 2 => subst y))
    | (extract_lets +onlyGivenNames y; clear_value y) | with_reducible apply State.putFlag_keeps hP
    | with_reducible apply State.flagIf_keeps hP | with_reducible apply State.countIf_keeps hP
    | with_reducible apply raiseIf_keeps hP

theorem zoneOverrun_keeps {P : State → Prop} (hP : Closed P) (s : State) (h : Half) (j : ℕ) (hs : P s) :
    P (zoneOverrun s h j) := by
  unfold zoneOverrun
  repeat' first
    | with_reducible assumption | with_reducible apply State.setFlag_keeps hP
    | with_reducible apply raiseEvt_keeps hP | with_reducible apply pathStop_keeps hP

theorem govEnded_keeps {P : State → Prop} (hP : Closed P) (s : State) (h : Half) (hs : P s) :
    P (govEnded s h) := by
  unfold govEnded
  repeat' first
    | with_reducible assumption
    | (extract_lets +onlyGivenNames y; refine (fun (_ : P y) => ?_) ?_; (on_goal 1 => clear_value y); (on_goal 2 => subst y))
    | (extract_lets +onlyGivenNames y; clear_value y) | with_reducible apply State.setGov_keeps hP | split

theorem govPublish_keeps {P : State → Prop} (hP : Closed P) (s : State) (h : Half) (hs : P s) :
    P (govPublish s h) := by
  unfold govPublish
  repeat' first
    | with_reducible assumption
    | (extract_lets +onlyGivenNames y; refine (fun (_ : P y) => ?_) ?_; (on_goal 1 => clear_value y); (on_goal 2 => subst y))
    | (extract_lets +onlyGivenNames y; clear_value y) | with_reducible apply State.setFld_keeps hP
    | with_reducible apply State.setFlag_keeps hP | with_reducible apply State.setServo_keeps hP
    | with_reducible apply govNotes_keeps hP | with_reducible apply zoneOverrun_keeps hP
    | with_reducible apply govEnded_keeps hP | (with_reducible apply keeps_foldl; intro _ _ _)
    | with_reducible apply keeps_ite | split

theorem govTargets_keeps {P : State → Prop} (hP : Closed P) (s : State) (h : Half) (f : ℕ → ℕ → ℕ) (hs : P s) :
    P (govTargets s h f) := by
  unfold govTargets
  repeat' first
    | with_reducible assumption
    | (extract_lets +onlyGivenNames y; refine (fun (_ : P y) => ?_) ?_; (on_goal 1 => clear_value y); (on_goal 2 => subst y))
    | (extract_lets +onlyGivenNames y; clear_value y) | with_reducible apply State.setArm_keeps hP
    | (with_reducible apply keeps_foldl; intro _ _ _)

theorem govBoundary_keeps {P : State → Prop} (hP : Closed P) (s : State) (h : Half) (k : ℕ) (hs : P s) :
    P (govBoundary s h k) := by
  unfold govBoundary
  repeat' first
    | with_reducible assumption
    | (extract_lets +onlyGivenNames y; refine (fun (_ : P y) => ?_) ?_; (on_goal 1 => clear_value y); (on_goal 2 => subst y))
    | (extract_lets +onlyGivenNames y; refine (fun (fy1 : ∀ t, P t → P (y t)) => ?_) ?_; (on_goal 1 => clear_value y); (on_goal 2 => (subst y; intro t ht; beta_reduce)))
    | (extract_lets +onlyGivenNames y; refine (fun (fy2 : ∀ t r, P t → P (y t r)) => ?_) ?_; (on_goal 1 => clear_value y); (on_goal 2 => (subst y; intro t r ht; beta_reduce)))
    | (extract_lets +onlyGivenNames y; refine (fun (fy3 : ∀ t r q, P t → P (y t r q)) => ?_) ?_; (on_goal 1 => clear_value y); (on_goal 2 => (subst y; intro t r q ht; beta_reduce)))
    | (extract_lets +onlyGivenNames y; refine (fun (fy4 : ∀ t r q p, P t → P (y t r q p)) => ?_) ?_; (on_goal 1 => clear_value y); (on_goal 2 => (subst y; intro t r q p ht; beta_reduce)))
    | (extract_lets +onlyGivenNames y; clear_value y) | with_reducible apply fy1 | with_reducible apply fy2
    | with_reducible apply fy3 | with_reducible apply fy4 | with_reducible apply State.setFld_keeps hP
    | with_reducible apply State.count_keeps hP | with_reducible apply State.setServo_keeps hP
    | with_reducible apply govTargets_keeps hP | with_reducible apply keeps_ite | split

theorem govRamp_keeps {P : State → Prop} (hP : Closed P) (s : State) (h : Half) (hs : P s) :
    P (govRamp s h) := by
  unfold govRamp
  repeat' first
    | with_reducible assumption
    | (extract_lets +onlyGivenNames y; refine (fun (_ : P y) => ?_) ?_; (on_goal 1 => clear_value y); (on_goal 2 => subst y))
    | (extract_lets +onlyGivenNames y; clear_value y) | with_reducible apply State.setServo_keeps hP
    | with_reducible apply raiseEvt_keeps hP | with_reducible apply keeps_ite

theorem coordinationAt_keeps {P : State → Prop} (hP : Closed P) (s : State) (h : Half) (hs : P s) :
    P (coordinationAt s h) := by
  unfold coordinationAt
  repeat' first
    | with_reducible assumption
    | (extract_lets +onlyGivenNames y; refine (fun (_ : P y) => ?_) ?_; (on_goal 1 => clear_value y); (on_goal 2 => subst y))
    | (extract_lets +onlyGivenNames y; clear_value y) | with_reducible apply State.setFld_keeps hP
    | with_reducible apply State.setGov_keeps hP | with_reducible apply groupAt_keeps hP
    | with_reducible apply boundarySend_keeps hP | with_reducible apply zonesAt_keeps hP
    | with_reducible apply govRelease_keeps hP | with_reducible apply keeps_ite

theorem canEvent_keeps {P : State → Prop} (hP : Closed P) (s : State) (h : Half) (c : ℕ) (e : ℕ) (hs : P s) :
    P (canEvent s h c e) := by
  unfold canEvent
  repeat' first | with_reducible assumption | with_reducible apply raiseEvt_keeps hP

theorem enterBusOff_keeps {P : State → Prop} (hP : Closed P) (s : State) (h : Half) (c : ℕ) (hs : P s) :
    P (enterBusOff s h c) := by
  unfold enterBusOff
  repeat' first
    | with_reducible assumption
    | (extract_lets +onlyGivenNames y; refine (fun (_ : P y) => ?_) ?_; (on_goal 1 => clear_value y); (on_goal 2 => subst y))
    | (extract_lets +onlyGivenNames y; clear_value y) | with_reducible apply State.setFld_keeps hP
    | with_reducible apply State.flagIf_keeps hP | with_reducible apply canEvent_keeps hP
    | (with_reducible apply keeps_foldl; intro _ _ _) | with_reducible apply keeps_ite | split
    | with_reducible apply hP.put | with_reducible apply hP.byte | with_reducible apply hP.drop
    | with_reducible apply hP.wipe | with_reducible apply hP.keepRegs | with_reducible apply hP.keepMem
    | with_reducible apply hP.other

theorem confine_keeps {P : State → Prop} (hP : Closed P) (s : State) (h : Half) (c : ℕ) (hs : P s) :
    P (confine s h c) := by
  unfold confine
  repeat' first
    | with_reducible assumption
    | (extract_lets +onlyGivenNames y; refine (fun (_ : P y) => ?_) ?_; (on_goal 1 => clear_value y); (on_goal 2 => subst y))
    | (extract_lets +onlyGivenNames y; clear_value y) | with_reducible apply State.setFld_keeps hP
    | with_reducible apply State.putFlag_keeps hP | with_reducible apply canEvent_keeps hP
    | with_reducible apply enterBusOff_keeps hP | with_reducible apply keeps_ite

theorem setErr_keeps {P : State → Prop} (hP : Closed P) (s : State) (h : Half) (c : ℕ) (tec : ℕ) (rec_ : ℕ) (hs : P s) :
    P (setErr s h c tec rec_) := by
  unfold setErr
  repeat' first
    | with_reducible assumption
    | (extract_lets +onlyGivenNames y; refine (fun (_ : P y) => ?_) ?_; (on_goal 1 => clear_value y); (on_goal 2 => subst y))
    | (extract_lets +onlyGivenNames y; clear_value y) | with_reducible apply State.setFld_keeps hP
    | with_reducible apply confine_keeps hP

theorem clearAlone_keeps {P : State → Prop} (hP : Closed P) (s : State) (h : Half) (c : ℕ) (hs : P s) :
    P (clearAlone s h c) := by
  unfold clearAlone
  repeat' first
    | with_reducible assumption
    | (extract_lets +onlyGivenNames y; refine (fun (_ : P y) => ?_) ?_; (on_goal 1 => clear_value y); (on_goal 2 => subst y))
    | (extract_lets +onlyGivenNames y; clear_value y) | with_reducible apply State.putFlag_keeps hP
    | with_reducible apply State.setCan_keeps hP

theorem canError_keeps {P : State → Prop} (hP : Closed P) (s : State) (h : Half) (c : ℕ) (e : CanErr) (hs : P s) :
    P (canError s h c e) := by
  unfold canError
  repeat' first
    | with_reducible assumption
    | (extract_lets +onlyGivenNames y; refine (fun (_ : P y) => ?_) ?_; (on_goal 1 => clear_value y); (on_goal 2 => subst y))
    | (extract_lets +onlyGivenNames y; clear_value y) | with_reducible apply State.setCan_keeps hP
    | with_reducible apply setErr_keeps hP | with_reducible apply keeps_ite | split

theorem canAlone_keeps {P : State → Prop} (hP : Closed P) (s : State) (h : Half) (c : ℕ) (hs : P s) :
    P (canAlone s h c) := by
  unfold canAlone
  repeat' first
    | with_reducible assumption | with_reducible apply State.setFlag_keeps hP
    | with_reducible apply canEvent_keeps hP | with_reducible apply keeps_ite

theorem recGood_keeps {P : State → Prop} (hP : Closed P) (s : State) (h : Half) (c : ℕ) (hs : P s) :
    P (recGood s h c) := by
  unfold recGood
  repeat' first
    | with_reducible assumption
    | (extract_lets +onlyGivenNames y; refine (fun (_ : P y) => ?_) ?_; (on_goal 1 => clear_value y); (on_goal 2 => subst y))
    | (extract_lets +onlyGivenNames y; refine (fun (_ : P y.2) => ?_) ?_; (on_goal 1 => clear_value y); (on_goal 2 => subst y))
    | (extract_lets +onlyGivenNames y; clear_value y) | with_reducible apply State.takeFree_keeps hP
    | with_reducible apply setErr_keeps hP | with_reducible apply keeps_ite

theorem canIntegrated_keeps {P : State → Prop} (hP : Closed P) (s : State) (h : Half) (c : ℕ) (hs : P s) :
    P (canIntegrated s h c) := by
  unfold canIntegrated
  repeat' first
    | with_reducible assumption | with_reducible apply State.setFld_keeps hP
    | with_reducible apply canEvent_keeps hP | with_reducible apply confine_keeps hP
    | with_reducible apply keeps_ite

theorem canRecover_keeps {P : State → Prop} (hP : Closed P) (s : State) (h : Half) (c : ℕ) (hs : P s) :
    P (canRecover s h c) := by
  unfold canRecover
  repeat' first
    | with_reducible assumption | with_reducible apply State.setFld_keeps hP | with_reducible apply keeps_ite

theorem canRecovered_keeps {P : State → Prop} (hP : Closed P) (s : State) (h : Half) (c : ℕ) (hs : P s) :
    P (canRecovered s h c) := by
  unfold canRecovered
  repeat' first
    | with_reducible assumption
    | (extract_lets +onlyGivenNames y; refine (fun (_ : P y) => ?_) ?_; (on_goal 1 => clear_value y); (on_goal 2 => subst y))
    | (extract_lets +onlyGivenNames y; clear_value y) | with_reducible apply State.setWordN_keeps hP
    | with_reducible apply State.setFld_keeps hP | with_reducible apply canEvent_keeps hP
    | with_reducible apply keeps_ite | split | with_reducible apply hP.put | with_reducible apply hP.byte
    | with_reducible apply hP.drop | with_reducible apply hP.wipe | with_reducible apply hP.keepRegs
    | with_reducible apply hP.keepMem | with_reducible apply hP.other

theorem canCtrl_keeps {P : State → Prop} (hP : Closed P) (s : State) (h : Half) (c : ℕ) (v : ℕ) (hs : P s) :
    P (canCtrl s h c v) := by
  unfold canCtrl
  repeat' first
    | with_reducible assumption
    | (extract_lets +onlyGivenNames y; refine (fun (_ : P y) => ?_) ?_; (on_goal 1 => clear_value y); (on_goal 2 => subst y))
    | (extract_lets +onlyGivenNames y; clear_value y) | with_reducible apply State.setWordN_keeps hP
    | with_reducible apply State.setFld_keeps hP | with_reducible apply keeps_ite

theorem canStart_keeps {P : State → Prop} (hP : Closed P) (s : State) (h : Half) (c : ℕ) (hs : P s) :
    P (canStart s h c) := by
  unfold canStart
  repeat' first
    | with_reducible assumption | with_reducible apply State.setFld_keeps hP | with_reducible apply keeps_ite

theorem canTiming_keeps {P : State → Prop} (hP : Closed P) (s : State) (h : Half) (c : ℕ) (off : ℕ) (v : ℕ) (hs : P s) :
    P (canTiming s h c off v) := by
  unfold canTiming
  repeat' first
    | with_reducible assumption
    | (extract_lets +onlyGivenNames y; refine (fun (_ : P y) => ?_) ?_; (on_goal 1 => clear_value y); (on_goal 2 => subst y))
    | (extract_lets +onlyGivenNames y; clear_value y) | with_reducible apply State.setWordN_keeps hP
    | with_reducible apply State.setFlag_keeps hP | with_reducible apply keeps_ite

theorem txEnd_keeps {P : State → Prop} (hP : Closed P) (s : State) (h : Half) (c : ℕ) (b : ℕ) (f : Fld) (hs : P s) :
    P (txEnd s h c b f) := by
  unfold txEnd
  repeat' first
    | with_reducible assumption
    | (extract_lets +onlyGivenNames y; refine (fun (_ : P y) => ?_) ?_; (on_goal 1 => clear_value y); (on_goal 2 => subst y))
    | (extract_lets +onlyGivenNames y; clear_value y) | with_reducible apply State.setFld_keeps hP
    | with_reducible apply State.setFlag_keeps hP | with_reducible apply State.setCan_keeps hP

theorem txAbort_keeps {P : State → Prop} (hP : Closed P) (s : State) (h : Half) (c : ℕ) (b : ℕ) (sending : Bool) (hs : P s) :
    P (txAbort s h c b sending) := by
  unfold txAbort
  repeat' first
    | with_reducible assumption
    | (extract_lets +onlyGivenNames y; refine (fun (_ : P y) => ?_) ?_; (on_goal 1 => clear_value y); (on_goal 2 => subst y))
    | (extract_lets +onlyGivenNames y; clear_value y) | with_reducible apply State.setCan_keeps hP
    | with_reducible apply txEnd_keeps hP | with_reducible apply keeps_ite

theorem txCtrl_keeps {P : State → Prop} (hP : Closed P) (s : State) (h : Half) (c : ℕ) (b : ℕ) (v : ℕ) (sending : Bool) (hs : P s) :
    P (txCtrl s h c b v sending) := by
  unfold txCtrl
  repeat' first
    | with_reducible assumption
    | (extract_lets +onlyGivenNames y; refine (fun (_ : P y) => ?_) ?_; (on_goal 1 => clear_value y); (on_goal 2 => subst y))
    | (extract_lets +onlyGivenNames y; clear_value y) | with_reducible apply State.setWordN_keeps hP
    | with_reducible apply State.setFld_keeps hP | with_reducible apply State.setFlag_keeps hP
    | with_reducible apply State.setCan_keeps hP | with_reducible apply canEvent_keeps hP
    | with_reducible apply txEnd_keeps hP | with_reducible apply txAbort_keeps hP | with_reducible apply keeps_ite

theorem txWord_keeps {P : State → Prop} (hP : Closed P) (s : State) (h : Half) (c : ℕ) (b : ℕ) (off : ℕ) (v : ℕ) (hs : P s) :
    P (txWord s h c b off v) := by
  unfold txWord
  repeat' first
    | with_reducible assumption
    | (extract_lets +onlyGivenNames y; refine (fun (_ : P y) => ?_) ?_; (on_goal 1 => clear_value y); (on_goal 2 => subst y))
    | (extract_lets +onlyGivenNames y; clear_value y) | with_reducible apply State.setWordN_keeps hP
    | with_reducible apply State.setFlag_keeps hP | with_reducible apply keeps_ite

theorem txDeadline_keeps {P : State → Prop} (hP : Closed P) (s : State) (h : Half) (c : ℕ) (b : ℕ) (hs : P s) :
    P (txDeadline s h c b) := by
  unfold txDeadline
  repeat' first
    | with_reducible assumption | with_reducible apply canEvent_keeps hP | with_reducible apply txEnd_keeps hP
    | with_reducible apply keeps_ite

theorem storeFrame_keeps {P : State → Prop} (hP : Closed P) (s : State) (a : ℕ) (x : CanFrame) (stamp : ℕ) (ctrlHi : ℕ) (hs : P s) :
    P (storeFrame s a x stamp ctrlHi) := by
  unfold storeFrame
  repeat' first
    | with_reducible assumption
    | (extract_lets +onlyGivenNames y; refine (fun (_ : P y) => ?_) ?_; (on_goal 1 => clear_value y); (on_goal 2 => subst y))
    | (extract_lets +onlyGivenNames y; refine (fun (_ : P y.2) => ?_) ?_; (on_goal 1 => clear_value y); (on_goal 2 => subst y))
    | (extract_lets +onlyGivenNames y; clear_value y) | with_reducible apply State.setWordN_keeps hP
    | with_reducible apply State.setWords_keeps hP | with_reducible apply freeBytes_keeps hP

theorem setFull_keeps {P : State → Prop} (hP : Closed P) (s : State) (h : Half) (c : ℕ) (m : ℕ) (f : Bool) (hs : P s) :
    P (setFull s h c m f) := by
  unfold setFull
  repeat' first
    | with_reducible assumption | with_reducible apply State.setWordN_keeps hP
    | with_reducible apply State.putFlag_keeps hP

theorem mailboxTake_keeps {P : State → Prop} (hP : Closed P) (s : State) (h : Half) (c : ℕ) (m : ℕ) (x : CanFrame) (stamp : ℕ) (hs : P s) :
    P (mailboxTake s h c m x stamp) := by
  unfold mailboxTake
  repeat' first
    | with_reducible assumption
    | (extract_lets +onlyGivenNames y; refine (fun (_ : P y) => ?_) ?_; (on_goal 1 => clear_value y); (on_goal 2 => subst y))
    | (extract_lets +onlyGivenNames y; clear_value y) | with_reducible apply State.setFlag_keeps hP
    | with_reducible apply State.count_keeps hP | with_reducible apply State.countIf_keeps hP
    | with_reducible apply State.setCan_keeps hP | with_reducible apply canEvent_keeps hP
    | with_reducible apply storeFrame_keeps hP | with_reducible apply setFull_keeps hP
    | with_reducible apply keeps_ite

theorem mailboxRelease_keeps {P : State → Prop} (hP : Closed P) (s : State) (h : Half) (c : ℕ) (m : ℕ) (hs : P s) :
    P (mailboxRelease s h c m) := by
  unfold mailboxRelease
  repeat' first
    | with_reducible assumption
    | (extract_lets +onlyGivenNames y; refine (fun (_ : P y) => ?_) ?_; (on_goal 1 => clear_value y); (on_goal 2 => subst y))
    | (extract_lets +onlyGivenNames y; clear_value y) | with_reducible apply State.setFld_keeps hP
    | with_reducible apply State.setCan_keeps hP | with_reducible apply storeFrame_keeps hP
    | with_reducible apply setFull_keeps hP | with_reducible apply keeps_ite | split

theorem queueTake_keeps {P : State → Prop} (hP : Closed P) (s : State) (h : Half) (c : ℕ) (x : CanFrame) (stamp : ℕ) (hs : P s) :
    P (queueTake s h c x stamp) := by
  unfold queueTake
  repeat' first
    | with_reducible assumption
    | (extract_lets +onlyGivenNames y; refine (fun (_ : P y) => ?_) ?_; (on_goal 1 => clear_value y); (on_goal 2 => subst y))
    | (extract_lets +onlyGivenNames y; clear_value y) | with_reducible apply State.setFld_keeps hP
    | with_reducible apply State.count_keeps hP | with_reducible apply State.setCan_keeps hP
    | with_reducible apply canEvent_keeps hP | with_reducible apply storeFrame_keeps hP
    | with_reducible apply keeps_ite

theorem cqAck_keeps {P : State → Prop} (hP : Closed P) (s : State) (h : Half) (c : ℕ) (i : ℕ) (hs : P s) :
    P (cqAck s h c i) := by
  unfold cqAck
  repeat' first
    | with_reducible assumption
    | (extract_lets +onlyGivenNames y; refine (fun (_ : P y) => ?_) ?_; (on_goal 1 => clear_value y); (on_goal 2 => subst y))
    | (extract_lets +onlyGivenNames y; clear_value y) | with_reducible apply State.setFld_keeps hP
    | with_reducible apply State.count_keeps hP | with_reducible apply State.setCan_keeps hP
    | with_reducible apply keeps_ite

theorem canAccept_keeps {P : State → Prop} (hP : Closed P) (s : State) (h : Half) (c : ℕ) (x : CanFrame) (stamp : ℕ) (hs : P s) :
    P (canAccept s h c x stamp) := by
  unfold canAccept
  repeat' first
    | with_reducible assumption | with_reducible apply State.count_keeps hP
    | with_reducible apply mailboxTake_keeps hP | with_reducible apply queueTake_keeps hP
    | with_reducible apply keeps_ite | split

theorem canReceive_keeps {P : State → Prop} (hP : Closed P) (s : State) (h : Half) (c : ℕ) (x : CanFrame) (stamp : ℕ) (hs : P s) :
    P (canReceive s h c x stamp) := by
  unfold canReceive
  repeat' first
    | with_reducible assumption | with_reducible apply State.count_keeps hP
    | with_reducible apply clearAlone_keeps hP | with_reducible apply recGood_keeps hP
    | with_reducible apply canAccept_keeps hP | with_reducible apply keeps_ite

theorem txAttemptEnd_keeps {P : State → Prop} (hP : Closed P) (s : State) (h : Half) (c : ℕ) (b : ℕ) (sof : ℕ) (e : CanEnd) (hs : P s) :
    P (txAttemptEnd s h c b sof e) := by
  unfold txAttemptEnd
  repeat' first
    | with_reducible assumption
    | (extract_lets +onlyGivenNames y; refine (fun (_ : P y) => ?_) ?_; (on_goal 1 => clear_value y); (on_goal 2 => subst y))
    | (extract_lets +onlyGivenNames y; clear_value y) | with_reducible apply State.setFld_keeps hP
    | with_reducible apply State.count_keeps hP | with_reducible apply canEvent_keeps hP
    | with_reducible apply setErr_keeps hP | with_reducible apply clearAlone_keeps hP
    | with_reducible apply txEnd_keeps hP | with_reducible apply canAccept_keeps hP | with_reducible apply keeps_ite
    | split

theorem mailboxHead_keeps {P : State → Prop} (hP : Closed P) (s : State) (h : Half) (c : ℕ) (m : ℕ) (hs : P s) :
    P (mailboxHead s h c m).2 := by
  unfold mailboxHead
  repeat' first
    | with_reducible assumption
    | (extract_lets +onlyGivenNames y; refine (fun (_ : P y) => ?_) ?_; (on_goal 1 => clear_value y); (on_goal 2 => subst y))
    | (extract_lets +onlyGivenNames y; clear_value y) | with_reducible apply State.setFlag_keeps hP
    | with_reducible apply keeps_ite

theorem mailboxRead_keeps {P : State → Prop} (hP : Closed P) (s : State) (h : Half) (c : ℕ) (m : ℕ) (off : ℕ) (hs : P s) :
    P (mailboxRead s h c m off).2 := by
  unfold mailboxRead
  repeat' first
    | with_reducible assumption
    | (extract_lets +onlyGivenNames y; refine (fun (_ : P y) => ?_) ?_; (on_goal 1 => clear_value y); (on_goal 2 => subst y))
    | (extract_lets +onlyGivenNames y; refine (fun (_ : P y.2) => ?_) ?_; (on_goal 1 => clear_value y); (on_goal 2 => subst y))
    | (extract_lets +onlyGivenNames y; clear_value y) | with_reducible apply mailboxRelease_keeps hP
    | with_reducible apply mailboxHead_keeps hP | with_reducible apply keeps_ite | with_reducible apply keeps_ite2

theorem canClrCnt_keeps {P : State → Prop} (hP : Closed P) (s : State) (h : Half) (c : ℕ) (hs : P s) :
    P (canClrCnt s h c) := by
  unfold canClrCnt
  repeat' first
    | with_reducible assumption
    | (extract_lets +onlyGivenNames y; refine (fun (_ : P y) => ?_) ?_; (on_goal 1 => clear_value y); (on_goal 2 => subst y))
    | (extract_lets +onlyGivenNames y; clear_value y) | with_reducible apply State.setWordN_keeps hP

theorem canCmd_keeps {P : State → Prop} (hP : Closed P) (s : State) (h : Half) (c : ℕ) (v : ℕ) (hs : P s) :
    P (canCmd s h c v) := by
  unfold canCmd
  repeat' first
    | with_reducible assumption
    | (extract_lets +onlyGivenNames y; refine (fun (_ : P y) => ?_) ?_; (on_goal 1 => clear_value y); (on_goal 2 => subst y))
    | (extract_lets +onlyGivenNames y; clear_value y) | with_reducible apply canRecover_keeps hP
    | with_reducible apply mailboxRelease_keeps hP | with_reducible apply canClrCnt_keeps hP
    | with_reducible apply keeps_ite

theorem canSwapped_keeps {P : State → Prop} (hP : Closed P) (s : State) (h : Half) (c : ℕ) (hs : P s) :
    P (canSwapped s h c) := by
  unfold canSwapped
  repeat' first
    | with_reducible assumption
    | (extract_lets +onlyGivenNames y; refine (fun (_ : P y) => ?_) ?_; (on_goal 1 => clear_value y); (on_goal 2 => subst y))
    | (extract_lets +onlyGivenNames y; clear_value y) | with_reducible apply State.setFlag_keeps hP
    | with_reducible apply State.flagIf_keeps hP | with_reducible apply canEvent_keeps hP
    | with_reducible apply keeps_ite

theorem canStuck_keeps {P : State → Prop} (hP : Closed P) (s : State) (h : Half) (c : ℕ) (hs : P s) :
    P (canStuck s h c) := by
  unfold canStuck
  repeat' first
    | with_reducible assumption | with_reducible apply State.setFlag_keeps hP
    | with_reducible apply canEvent_keeps hP | with_reducible apply keeps_ite

theorem canUnstuck_keeps {P : State → Prop} (hP : Closed P) (s : State) (h : Half) (c : ℕ) (hs : P s) :
    P (canUnstuck s h c) := by
  unfold canUnstuck
  repeat' first | with_reducible assumption | with_reducible apply State.setFld_keeps hP

theorem canTakeover_keeps {P : State → Prop} (hP : Closed P) (s : State) (h : Half) (hs : P s) :
    P (canTakeover s h) := by
  unfold canTakeover
  repeat' first
    | with_reducible assumption | with_reducible apply State.setFld_keeps hP
    | with_reducible apply enterBusOff_keeps hP | (with_reducible apply keeps_foldl; intro _ _ _)
    | with_reducible apply keeps_ite

theorem takeEpoch_keeps {P : State → Prop} (hP : Closed P) (s : State) (h : Half) (r : ℕ) (hs : P s) :
    P (takeEpoch s h r) := by
  unfold takeEpoch
  repeat' first
    | with_reducible assumption
    | (extract_lets +onlyGivenNames y; refine (fun (_ : P y) => ?_) ?_; (on_goal 1 => clear_value y); (on_goal 2 => subst y))
    | (extract_lets +onlyGivenNames y; clear_value y) | with_reducible apply State.setMemN_keeps hP

theorem launch_keeps {P : State → Prop} (hP : Closed P) (s : State) (h : Half) (r : ℕ) (mask : ℕ) (f : RFrame) (hs : P s) :
    P (launch s h r mask f) := by
  unfold launch
  repeat' first
    | with_reducible assumption
    | (extract_lets +onlyGivenNames y; refine (fun (_ : P y) => ?_) ?_; (on_goal 1 => clear_value y); (on_goal 2 => subst y))
    | (extract_lets +onlyGivenNames y; clear_value y) | with_reducible apply State.setRing_keeps hP
    | with_reducible apply keeps_ite

theorem sendClaim_keeps {P : State → Prop} (hP : Closed P) (s : State) (h : Half) (r : ℕ) (keep : Bool) (hs : P s) :
    P (sendClaim s h r keep) := by
  unfold sendClaim
  repeat' first
    | with_reducible assumption
    | (extract_lets +onlyGivenNames y; refine (fun (_ : P y) => ?_) ?_; (on_goal 1 => clear_value y); (on_goal 2 => subst y))
    | (extract_lets +onlyGivenNames y; clear_value y) | with_reducible apply launch_keeps hP

theorem sendProbe_keeps {P : State → Prop} (hP : Closed P) (s : State) (h : Half) (r : ℕ) (mask : ℕ) (level : ℕ) (node : ℕ) (body : List Byte) (hs : P s) :
    P (sendProbe s h r mask level node body) := by
  unfold sendProbe
  repeat' first | with_reducible assumption | with_reducible apply launch_keeps hP

theorem ringClear_keeps {P : State → Prop} (hP : Closed P) (s : State) (h : Half) (r : ℕ) (hs : P s) :
    P (ringClear s h r) := by
  unfold ringClear
  repeat' first
    | with_reducible assumption
    | (extract_lets +onlyGivenNames y; refine (fun (_ : P y) => ?_) ?_; (on_goal 1 => clear_value y); (on_goal 2 => subst y))
    | (extract_lets +onlyGivenNames y; clear_value y) | with_reducible apply State.resetRegs_keeps hP
    | with_reducible apply State.setRing_keeps hP | (with_reducible apply keeps_foldl; intro _ _ _)

theorem ringClrCnt_keeps {P : State → Prop} (hP : Closed P) (s : State) (h : Half) (r : ℕ) (hs : P s) :
    P (ringClrCnt s h r) := by
  unfold ringClrCnt
  repeat' first
    | with_reducible assumption
    | (extract_lets +onlyGivenNames y; refine (fun (_ : P y) => ?_) ?_; (on_goal 1 => clear_value y); (on_goal 2 => subst y))
    | (extract_lets +onlyGivenNames y; clear_value y) | with_reducible apply State.setWordN_keeps hP
    | with_reducible apply State.setFld_keeps hP | with_reducible apply State.resetRegs_keeps hP
    | (with_reducible apply keeps_foldl; intro _ _ _)

theorem channelsIdle_keeps {P : State → Prop} (hP : Closed P) (s : State) (h : Half) (r : ℕ) (hs : P s) :
    P (channelsIdle s h r) := by
  unfold channelsIdle
  repeat' first
    | with_reducible assumption
    | (extract_lets +onlyGivenNames y; refine (fun (_ : P y) => ?_) ?_; (on_goal 1 => clear_value y); (on_goal 2 => subst y))
    | (extract_lets +onlyGivenNames y; clear_value y) | with_reducible apply State.putFlag_keeps hP

theorem ringFail_keeps {P : State → Prop} (hP : Closed P) (s : State) (h : Half) (r : ℕ) (code : ℕ) (found : ℕ) (hs : P s) :
    P (ringFail s h r code found) := by
  unfold ringFail
  repeat' first
    | with_reducible assumption
    | (extract_lets +onlyGivenNames y; refine (fun (_ : P y) => ?_) ?_; (on_goal 1 => clear_value y); (on_goal 2 => subst y))
    | (extract_lets +onlyGivenNames y; clear_value y) | with_reducible apply State.setFld_keeps hP
    | with_reducible apply State.setRing_keeps hP | with_reducible apply raiseEvt_keeps hP
    | with_reducible apply faultLog_keeps hP | with_reducible apply channelsIdle_keeps hP

theorem ringLinked_keeps {P : State → Prop} (hP : Closed P) (s : State) (h : Half) (r : ℕ) (hs : P s) :
    P (ringLinked s h r) := by
  unfold ringLinked
  repeat' first
    | with_reducible assumption
    | (extract_lets +onlyGivenNames y; refine (fun (_ : P y) => ?_) ?_; (on_goal 1 => clear_value y); (on_goal 2 => subst y))
    | (extract_lets +onlyGivenNames y; clear_value y) | with_reducible apply State.setRing_keeps hP
    | with_reducible apply takeEpoch_keeps hP | with_reducible apply sendClaim_keeps hP
    | with_reducible apply ringFail_keeps hP | with_reducible apply keeps_ite

theorem ringBegin_keeps {P : State → Prop} (hP : Closed P) (s : State) (h : Half) (r : ℕ) (hs : P s) :
    P (ringBegin s h r) := by
  unfold ringBegin
  repeat' first
    | with_reducible assumption
    | (extract_lets +onlyGivenNames y; refine (fun (_ : P y) => ?_) ?_; (on_goal 1 => clear_value y); (on_goal 2 => subst y))
    | (extract_lets +onlyGivenNames y; clear_value y) | with_reducible apply State.setFld_keeps hP
    | with_reducible apply State.setFlag_keeps hP | with_reducible apply State.setRing_keeps hP
    | with_reducible apply ringClear_keeps hP | with_reducible apply ringFail_keeps hP
    | with_reducible apply ringLinked_keeps hP | (with_reducible apply keeps_foldl; intro _ _ _)
    | with_reducible apply keeps_ite

theorem ringStop_keeps {P : State → Prop} (hP : Closed P) (s : State) (h : Half) (r : ℕ) (hs : P s) :
    P (ringStop s h r) := by
  unfold ringStop
  repeat' first
    | with_reducible assumption
    | (extract_lets +onlyGivenNames y; refine (fun (_ : P y) => ?_) ?_; (on_goal 1 => clear_value y); (on_goal 2 => subst y))
    | (extract_lets +onlyGivenNames y; clear_value y) | with_reducible apply State.setFld_keeps hP
    | with_reducible apply State.setRing_keeps hP | with_reducible apply channelsIdle_keeps hP

theorem ringReset_keeps {P : State → Prop} (hP : Closed P) (s : State) (h : Half) (r : ℕ) (hs : P s) :
    P (ringReset s h r) := by
  unfold ringReset
  repeat' first | with_reducible assumption | with_reducible apply State.resetRegs_keeps hP

theorem ringRestart_keeps {P : State → Prop} (hP : Closed P) (s : State) (h : Half) (r : ℕ) (hs : P s) :
    P (ringRestart s h r) := by
  unfold ringRestart
  repeat' first
    | with_reducible assumption | with_reducible apply ringBegin_keeps hP | with_reducible apply ringReset_keeps hP

theorem ringStart_keeps {P : State → Prop} (hP : Closed P) (s : State) (h : Half) (r : ℕ) (hs : P s) :
    P (ringStart s h r) := by
  unfold ringStart
  repeat' first
    | with_reducible assumption
    | (extract_lets +onlyGivenNames y; refine (fun (_ : P y) => ?_) ?_; (on_goal 1 => clear_value y); (on_goal 2 => subst y))
    | (extract_lets +onlyGivenNames y; clear_value y) | with_reducible apply State.setRing_keeps hP
    | with_reducible apply ringBegin_keeps hP | with_reducible apply keeps_ite

theorem chClr_keeps {P : State → Prop} (hP : Closed P) (s : State) (h : Half) (r : ℕ) (hs : P s) :
    P (chClr s h r) := by
  unfold chClr
  repeat' first
    | with_reducible assumption
    | (extract_lets +onlyGivenNames y; refine (fun (_ : P y) => ?_) ?_; (on_goal 1 => clear_value y); (on_goal 2 => subst y))
    | (extract_lets +onlyGivenNames y; clear_value y) | with_reducible apply State.setFlag_keeps hP
    | with_reducible apply State.resetRegs_keeps hP | with_reducible apply State.setRing_keeps hP
    | with_reducible apply keeps_ite

theorem ringCtrl_keeps {P : State → Prop} (hP : Closed P) (s : State) (h : Half) (r : ℕ) (v : ℕ) (hs : P s) :
    P (ringCtrl s h r v) := by
  unfold ringCtrl
  repeat' first
    | with_reducible assumption
    | (extract_lets +onlyGivenNames y; refine (fun (_ : P y) => ?_) ?_; (on_goal 1 => clear_value y); (on_goal 2 => subst y))
    | (extract_lets +onlyGivenNames y; clear_value y) | with_reducible apply State.putFlag_keeps hP
    | with_reducible apply ringClrCnt_keeps hP | with_reducible apply ringStop_keeps hP
    | with_reducible apply ringRestart_keeps hP | with_reducible apply ringStart_keeps hP
    | with_reducible apply chClr_keeps hP | with_reducible apply keeps_ite

theorem ringLost_keeps {P : State → Prop} (hP : Closed P) (s : State) (h : Half) (r : ℕ) (hs : P s) :
    P (ringLost s h r) := by
  unfold ringLost
  repeat' first
    | with_reducible assumption
    | (extract_lets +onlyGivenNames y; refine (fun (_ : P y) => ?_) ?_; (on_goal 1 => clear_value y); (on_goal 2 => subst y))
    | (extract_lets +onlyGivenNames y; clear_value y) | with_reducible apply State.setFld_keeps hP
    | with_reducible apply State.setRing_keeps hP | with_reducible apply raiseEvt_keeps hP
    | with_reducible apply faultLog_keeps hP | with_reducible apply rehFailIf_keeps hP
    | with_reducible apply channelsIdle_keeps hP | with_reducible apply keeps_ite

theorem ringAuto_keeps {P : State → Prop} (hP : Closed P) (s : State) (h : Half) (r : ℕ) (hs : P s) :
    P (ringAuto s h r) := by
  unfold ringAuto
  repeat' first
    | with_reducible assumption
    | (extract_lets +onlyGivenNames y; refine (fun (_ : P y) => ?_) ?_; (on_goal 1 => clear_value y); (on_goal 2 => subst y))
    | (extract_lets +onlyGivenNames y; clear_value y) | with_reducible apply State.setRing_keeps hP
    | with_reducible apply ringRestart_keeps hP | with_reducible apply keeps_ite | split

theorem channelOff_keeps {P : State → Prop} (hP : Closed P) (s : State) (h : Half) (r : ℕ) (chB : Bool) (bab : ℕ) (hs : P s) :
    P (channelOff s h r chB bab) := by
  unfold channelOff
  repeat' first
    | with_reducible assumption
    | (extract_lets +onlyGivenNames y; refine (fun (_ : P y) => ?_) ?_; (on_goal 1 => clear_value y); (on_goal 2 => subst y))
    | (extract_lets +onlyGivenNames y; clear_value y) | with_reducible apply State.setFld_keeps hP
    | with_reducible apply State.setFlag_keeps hP | with_reducible apply State.putFlag_keeps hP
    | with_reducible apply raiseEvt_keeps hP

theorem linkDown_keeps {P : State → Prop} (hP : Closed P) (s : State) (h : Half) (r : ℕ) (end2 : Bool) (hs : P s) :
    P (linkDown s h r end2) := by
  unfold linkDown
  repeat' first
    | with_reducible assumption
    | (extract_lets +onlyGivenNames y; refine (fun (_ : P y) => ?_) ?_; (on_goal 1 => clear_value y); (on_goal 2 => subst y))
    | (extract_lets +onlyGivenNames y; clear_value y) | with_reducible apply State.setRing_keeps hP
    | with_reducible apply channelOff_keeps hP | with_reducible apply keeps_ite

theorem linkUp_keeps {P : State → Prop} (hP : Closed P) (s : State) (h : Half) (r : ℕ) (end2 : Bool) (cable : Bool) (hs : P s) :
    P (linkUp s h r end2 cable) := by
  unfold linkUp
  repeat' first
    | with_reducible assumption
    | (extract_lets +onlyGivenNames y; refine (fun (_ : P y) => ?_) ?_; (on_goal 1 => clear_value y); (on_goal 2 => subst y))
    | (extract_lets +onlyGivenNames y; clear_value y) | with_reducible apply State.setRing_keeps hP
    | with_reducible apply ringLinked_keeps hP

theorem channelReturn_keeps {P : State → Prop} (hP : Closed P) (s : State) (h : Half) (r : ℕ) (chB : Bool) (hs : P s) :
    P (channelReturn s h r chB) := by
  unfold channelReturn
  repeat' first
    | with_reducible assumption
    | (extract_lets +onlyGivenNames y; refine (fun (_ : P y) => ?_) ?_; (on_goal 1 => clear_value y); (on_goal 2 => subst y))
    | (extract_lets +onlyGivenNames y; clear_value y) | with_reducible apply State.setFlag_keeps hP
    | with_reducible apply State.putFlag_keeps hP | with_reducible apply State.setRing_keeps hP
    | with_reducible apply keeps_ite | split

theorem sendEnum_keeps {P : State → Prop} (hP : Closed P) (s : State) (h : Half) (r : ℕ) (hs : P s) :
    P (sendEnum s h r) := by
  unfold sendEnum
  repeat' first
    | with_reducible assumption
    | (extract_lets +onlyGivenNames y; refine (fun (_ : P y) => ?_) ?_; (on_goal 1 => clear_value y); (on_goal 2 => subst y))
    | (extract_lets +onlyGivenNames y; clear_value y) | with_reducible apply State.setRing_keeps hP
    | with_reducible apply sendProbe_keeps hP

theorem ringWithdraw_keeps {P : State → Prop} (hP : Closed P) (s : State) (h : Half) (r : ℕ) (hs : P s) :
    P (ringWithdraw s h r) := by
  unfold ringWithdraw
  repeat' first | with_reducible assumption | with_reducible apply ringStop_keeps hP

theorem claimReceive_keeps {P : State → Prop} (hP : Closed P) (s : State) (h : Half) (r : ℕ) (own : Bool) (valid : Bool) (pennant : Bool) (epoch : ℕ) (hs : P s) :
    P (claimReceive s h r own valid pennant epoch) := by
  unfold claimReceive
  repeat' first
    | with_reducible assumption
    | (extract_lets +onlyGivenNames y; refine (fun (_ : P y) => ?_) ?_; (on_goal 1 => clear_value y); (on_goal 2 => subst y))
    | (extract_lets +onlyGivenNames y; clear_value y) | with_reducible apply State.setRing_keeps hP
    | with_reducible apply takeEpoch_keeps hP | with_reducible apply sendClaim_keeps hP
    | with_reducible apply sendEnum_keeps hP | with_reducible apply ringWithdraw_keeps hP
    | with_reducible apply keeps_ite

theorem claimTimeout_keeps {P : State → Prop} (hP : Closed P) (s : State) (h : Half) (r : ℕ) (hs : P s) :
    P (claimTimeout s h r) := by
  unfold claimTimeout
  repeat' first
    | with_reducible assumption
    | (extract_lets +onlyGivenNames y; refine (fun (_ : P y) => ?_) ?_; (on_goal 1 => clear_value y); (on_goal 2 => subst y))
    | (extract_lets +onlyGivenNames y; clear_value y) | with_reducible apply State.setRing_keeps hP
    | with_reducible apply keeps_ite

theorem claimAgain_keeps {P : State → Prop} (hP : Closed P) (s : State) (h : Half) (r : ℕ) (hs : P s) :
    P (claimAgain s h r) := by
  unfold claimAgain
  repeat' first
    | with_reducible assumption
    | (extract_lets +onlyGivenNames y; refine (fun (_ : P y) => ?_) ?_; (on_goal 1 => clear_value y); (on_goal 2 => subst y))
    | (extract_lets +onlyGivenNames y; clear_value y) | with_reducible apply State.setRing_keeps hP
    | with_reducible apply sendClaim_keeps hP | with_reducible apply keeps_ite

theorem enumReturn_keeps {P : State → Prop} (hP : Closed P) (s : State) (h : Half) (r : ℕ) (hops : ℕ) (hs : P s) :
    P (enumReturn s h r hops) := by
  unfold enumReturn
  repeat' first
    | with_reducible assumption
    | (extract_lets +onlyGivenNames y; refine (fun (_ : P y) => ?_) ?_; (on_goal 1 => clear_value y); (on_goal 2 => subst y))
    | (extract_lets +onlyGivenNames y; clear_value y) | with_reducible apply State.setFld_keeps hP
    | with_reducible apply State.setRing_keeps hP | with_reducible apply sendProbe_keeps hP
    | with_reducible apply ringFail_keeps hP | with_reducible apply keeps_ite

theorem sendNode_keeps {P : State → Prop} (hP : Closed P) (s : State) (h : Half) (r : ℕ) (n : NodeCfg) (body : List Byte) (hs : P s) :
    P (sendNode s h r n body) := by
  unfold sendNode
  repeat' first | with_reducible assumption | with_reducible apply sendProbe_keeps hP

theorem measureReturn_keeps {P : State → Prop} (hP : Closed P) (s : State) (h : Half) (r : ℕ) (chB : Bool) (launchAt : ℕ) (delay : ℕ) (hs : P s) :
    P (measureReturn s h r chB launchAt delay) := by
  unfold measureReturn
  repeat' first
    | with_reducible assumption
    | (extract_lets +onlyGivenNames y; refine (fun (_ : P y) => ?_) ?_; (on_goal 1 => clear_value y); (on_goal 2 => subst y))
    | (extract_lets +onlyGivenNames y; clear_value y) | with_reducible apply State.setFld_keeps hP
    | with_reducible apply State.putFlag_keeps hP | with_reducible apply State.setRing_keeps hP
    | with_reducible apply sendProbe_keeps hP | with_reducible apply sendNode_keeps hP
    | (with_reducible apply keeps_foldl; intro _ _ _) | with_reducible apply keeps_ite

theorem putDelays_keeps {P : State → Prop} (hP : Closed P) (s : State) (h : Half) (r : ℕ) (a : ℕ) (hs : P s) :
    P (putDelays s h r a) := by
  unfold putDelays
  repeat' first
    | with_reducible assumption
    | (extract_lets +onlyGivenNames y; refine (fun (_ : P y) => ?_) ?_; (on_goal 1 => clear_value y); (on_goal 2 => subst y))
    | (extract_lets +onlyGivenNames y; clear_value y) | with_reducible apply State.setFld_keeps hP

theorem setRingNode_keeps {P : State → Prop} (hP : Closed P) (s : State) (h : Half) (r : ℕ) (a : ℕ) (f : RingNode → RingNode) (hs : P s) :
    P (setRingNode s h r a f) := by
  unfold setRingNode
  repeat' first
    | with_reducible assumption
    | (extract_lets +onlyGivenNames y; refine (fun (_ : P y) => ?_) ?_; (on_goal 1 => clear_value y); (on_goal 2 => subst y))
    | (extract_lets +onlyGivenNames y; clear_value y) | with_reducible apply State.setRing_keeps hP

theorem putReport_keeps {P : State → Prop} (hP : Closed P) (s : State) (h : Half) (r : ℕ) (a : ℕ) (x : NodeReport) (hs : P s) :
    P (putReport s h r a x) := by
  unfold putReport
  repeat' first
    | with_reducible assumption
    | (extract_lets +onlyGivenNames y; refine (fun (_ : P y) => ?_) ?_; (on_goal 1 => clear_value y); (on_goal 2 => subst y))
    | (extract_lets +onlyGivenNames y; clear_value y) | with_reducible apply State.setFld_keeps hP
    | with_reducible apply setRingNode_keeps hP

theorem reportReceive_keeps {P : State → Prop} (hP : Closed P) (s : State) (h : Half) (r : ℕ) (bytes : List Byte) (hs : P s) :
    P (reportReceive s h r bytes) := by
  unfold reportReceive
  repeat' first
    | with_reducible assumption
    | (extract_lets +onlyGivenNames y; refine (fun (_ : P y) => ?_) ?_; (on_goal 1 => clear_value y); (on_goal 2 => subst y))
    | (extract_lets +onlyGivenNames y; clear_value y) | with_reducible apply State.setFld_keeps hP
    | with_reducible apply State.count_keeps hP | with_reducible apply State.setRing_keeps hP
    | with_reducible apply ringFail_keeps hP | with_reducible apply sendNode_keeps hP
    | with_reducible apply putDelays_keeps hP | with_reducible apply setRingNode_keeps hP
    | with_reducible apply putReport_keeps hP | (with_reducible apply keeps_foldl; intro _ _ _)
    | with_reducible apply keeps_ite | split

theorem stepTimeout_keeps {P : State → Prop} (hP : Closed P) (s : State) (h : Half) (r : ℕ) (hs : P s) :
    P (stepTimeout s h r) := by
  unfold stepTimeout
  repeat' first
    | with_reducible assumption
    | (extract_lets +onlyGivenNames y; refine (fun (_ : P y) => ?_) ?_; (on_goal 1 => clear_value y); (on_goal 2 => subst y))
    | (extract_lets +onlyGivenNames y; clear_value y) | with_reducible apply ringFail_keeps hP
    | with_reducible apply keeps_ite

theorem ringRunning_keeps {P : State → Prop} (hP : Closed P) (s : State) (h : Half) (r : ℕ) (hs : P s) :
    P (ringRunning s h r) := by
  unfold ringRunning
  repeat' first
    | with_reducible assumption
    | (extract_lets +onlyGivenNames y; refine (fun (_ : P y) => ?_) ?_; (on_goal 1 => clear_value y); (on_goal 2 => subst y))
    | (extract_lets +onlyGivenNames y; clear_value y) | with_reducible apply State.setFld_keeps hP
    | with_reducible apply State.setRing_keeps hP | with_reducible apply raiseEvt_keeps hP
    | (with_reducible apply keeps_foldl; intro _ _ _) | with_reducible apply keeps_ite

theorem launchEntry_keeps {P : State → Prop} (hP : Closed P) (s : State) (h : Half) (r : ℕ) (i : ℕ) (hs : P s) :
    P (launchEntry s h r i) := by
  unfold launchEntry
  repeat' first
    | with_reducible assumption
    | (extract_lets +onlyGivenNames y; refine (fun (_ : P y) => ?_) ?_; (on_goal 1 => clear_value y); (on_goal 2 => subst y))
    | (extract_lets +onlyGivenNames y; refine (fun (fy1 : ∀ t, P t → P (y t)) => ?_) ?_; (on_goal 1 => clear_value y); (on_goal 2 => (subst y; intro t ht; beta_reduce)))
    | (extract_lets +onlyGivenNames y; refine (fun (fy2 : ∀ t r, P t → P (y t r)) => ?_) ?_; (on_goal 1 => clear_value y); (on_goal 2 => (subst y; intro t r ht; beta_reduce)))
    | (extract_lets +onlyGivenNames y; refine (fun (fy3 : ∀ t r q, P t → P (y t r q)) => ?_) ?_; (on_goal 1 => clear_value y); (on_goal 2 => (subst y; intro t r q ht; beta_reduce)))
    | (extract_lets +onlyGivenNames y; refine (fun (fy4 : ∀ t r q p, P t → P (y t r q p)) => ?_) ?_; (on_goal 1 => clear_value y); (on_goal 2 => (subst y; intro t r q p ht; beta_reduce)))
    | (extract_lets +onlyGivenNames y; clear_value y) | with_reducible apply fy1 | with_reducible apply fy2
    | with_reducible apply fy3 | with_reducible apply fy4 | with_reducible apply State.setRing_keeps hP
    | with_reducible apply State.setConn_keeps hP | with_reducible apply passUntil_keeps hP
    | with_reducible apply lanesAtSet_keeps hP | with_reducible apply launch_keeps hP
    | with_reducible apply sendClaim_keeps hP | with_reducible apply keeps_ite | split

theorem driveInputs_keeps {P : State → Prop} (hP : Closed P) (s : State) (h : Half) (k : ℕ) (astat : ℕ) (aux : ℕ) (hs : P s) :
    P (driveInputs s h k astat aux) := by
  unfold driveInputs
  repeat' first
    | with_reducible assumption
    | (extract_lets +onlyGivenNames y; refine (fun (_ : P y) => ?_) ?_; (on_goal 1 => clear_value y); (on_goal 2 => subst y))
    | (extract_lets +onlyGivenNames y; clear_value y) | with_reducible apply driveInput_keeps hP
    | (with_reducible apply keeps_foldl; intro _ _ _) | with_reducible apply keeps_ite

theorem driveIndex_keeps {P : State → Prop} (hP : Closed P) (s : State) (h : Half) (k : ℕ) (raw : ℤ) (astat : ℕ) (aux : ℕ) (hs : P s) :
    P (driveIndex s h k raw astat aux) := by
  unfold driveIndex
  repeat' first
    | with_reducible assumption
    | (extract_lets +onlyGivenNames y; refine (fun (_ : P y) => ?_) ?_; (on_goal 1 => clear_value y); (on_goal 2 => subst y))
    | (extract_lets +onlyGivenNames y; clear_value y) | with_reducible apply indexFound_keeps hP
    | with_reducible apply keeps_ite

theorem powerLost_keeps {P : State → Prop} (hP : Closed P) (s : State) (h : Half) (k : ℕ) (absolute : Bool) (hs : P s) :
    P (powerLost s h k absolute) := by
  unfold powerLost
  repeat' first
    | with_reducible assumption
    | (extract_lets +onlyGivenNames y; refine (fun (_ : P y) => ?_) ?_; (on_goal 1 => clear_value y); (on_goal 2 => subst y))
    | (extract_lets +onlyGivenNames y; clear_value y) | with_reducible apply State.setFld_keeps hP
    | with_reducible apply State.putFlag_keeps hP | with_reducible apply keeps_ite

theorem axisEntry_keeps {P : State → Prop} (hP : Closed P) (s : State) (h : Half) (r : ℕ) (a : ℕ) (i : ℕ) (e : List Byte) (pu : Bool) (first : Bool) (hs : P s) :
    P (axisEntry s h r a i e pu first) := by
  unfold axisEntry
  repeat' first
    | with_reducible assumption
    | (extract_lets +onlyGivenNames y; refine (fun (_ : P y) => ?_) ?_; (on_goal 1 => clear_value y); (on_goal 2 => subst y))
    | (extract_lets +onlyGivenNames y; clear_value y) | with_reducible apply State.setCe_keeps hP
    | with_reducible apply setRingNode_keeps hP | with_reducible apply driveInputs_keeps hP
    | with_reducible apply driveIndex_keeps hP | with_reducible apply powerLost_keeps hP
    | with_reducible apply keeps_ite | split

theorem putMargin_keeps {P : State → Prop} (hP : Closed P) (s : State) (h : Half) (r : ℕ) (a : ℕ) (m : ℕ) (hs : P s) :
    P (putMargin s h r a m) := by
  unfold putMargin
  repeat' first
    | with_reducible assumption
    | (extract_lets +onlyGivenNames y; refine (fun (_ : P y) => ?_) ?_; (on_goal 1 => clear_value y); (on_goal 2 => subst y))
    | (extract_lets +onlyGivenNames y; clear_value y) | with_reducible apply State.setFld_keeps hP
    | with_reducible apply State.setRing_keeps hP | with_reducible apply raiseEvt_keeps hP
    | with_reducible apply setRingNode_keeps hP | with_reducible apply keeps_ite

theorem putNodeFlags_keeps {P : State → Prop} (hP : Closed P) (s : State) (h : Half) (r : ℕ) (a : ℕ) (f : RFrame) (hs : P s) :
    P (putNodeFlags s h r a f) := by
  unfold putNodeFlags
  repeat' first
    | with_reducible assumption
    | (extract_lets +onlyGivenNames y; refine (fun (_ : P y) => ?_) ?_; (on_goal 1 => clear_value y); (on_goal 2 => subst y))
    | (extract_lets +onlyGivenNames y; clear_value y) | with_reducible apply State.setFld_keeps hP
    | with_reducible apply State.putFlag_keeps hP | with_reducible apply raiseEvt_keeps hP
    | with_reducible apply raiseIf_keeps hP | with_reducible apply keeps_ite

theorem useReply_keeps {P : State → Prop} (hP : Closed P) (s : State) (h : Half) (r : ℕ) (slot : ℕ) (f : RFrame) (first : Bool) (hs : P s) :
    P (useReply s h r slot f first) := by
  unfold useReply
  repeat' first
    | with_reducible assumption
    | (extract_lets +onlyGivenNames y; refine (fun (_ : P y) => ?_) ?_; (on_goal 1 => clear_value y); (on_goal 2 => subst y))
    | (extract_lets +onlyGivenNames y; clear_value y) | with_reducible apply axisEntry_keeps hP
    | with_reducible apply keeps_ite

theorem acceptCopy_keeps {P : State → Prop} (hP : Closed P) (s : State) (h : Half) (r : ℕ) (x : RingAcc) (hs : P s) :
    P (acceptCopy s h r x) := by
  unfold acceptCopy
  repeat' first
    | with_reducible assumption
    | (extract_lets +onlyGivenNames y; refine (fun (_ : P y) => ?_) ?_; (on_goal 1 => clear_value y); (on_goal 2 => subst y))
    | (extract_lets +onlyGivenNames y; clear_value y) | with_reducible apply State.count_keeps hP
    | with_reducible apply State.setRing_keeps hP | with_reducible apply raiseEvt_keeps hP
    | with_reducible apply useReply_keeps hP | with_reducible apply keeps_ite | split

theorem replyReceive_keeps {P : State → Prop} (hP : Closed P) (s : State) (h : Half) (r : ℕ) (chB : Bool) (at_ : ℕ) (bytes : List Byte) (hs : P s) :
    P (replyReceive s h r chB at_ bytes) := by
  unfold replyReceive
  repeat' first
    | with_reducible assumption
    | (extract_lets +onlyGivenNames y; refine (fun (_ : P y) => ?_) ?_; (on_goal 1 => clear_value y); (on_goal 2 => subst y))
    | (extract_lets +onlyGivenNames y; clear_value y) | with_reducible apply State.count_keeps hP
    | with_reducible apply State.setRing_keeps hP | with_reducible apply rehFailIf_keeps hP
    | with_reducible apply putMargin_keeps hP | with_reducible apply putNodeFlags_keeps hP
    | with_reducible apply acceptCopy_keeps hP | with_reducible apply keeps_ite | split

theorem ringPeriod_keeps {P : State → Prop} (hP : Closed P) (s : State) (h : Half) (r : ℕ) (hs : P s) :
    P (ringPeriod s h r) := by
  unfold ringPeriod
  repeat' first
    | with_reducible assumption
    | (extract_lets +onlyGivenNames y; refine (fun (_ : P y) => ?_) ?_; (on_goal 1 => clear_value y); (on_goal 2 => subst y))
    | (extract_lets +onlyGivenNames y; refine (fun (fy1 : ∀ t, P t → P (y t)) => ?_) ?_; (on_goal 1 => clear_value y); (on_goal 2 => (subst y; intro t ht; beta_reduce)))
    | (extract_lets +onlyGivenNames y; refine (fun (fy2 : ∀ t r, P t → P (y t r)) => ?_) ?_; (on_goal 1 => clear_value y); (on_goal 2 => (subst y; intro t r ht; beta_reduce)))
    | (extract_lets +onlyGivenNames y; refine (fun (fy3 : ∀ t r q, P t → P (y t r q)) => ?_) ?_; (on_goal 1 => clear_value y); (on_goal 2 => (subst y; intro t r q ht; beta_reduce)))
    | (extract_lets +onlyGivenNames y; refine (fun (fy4 : ∀ t r q p, P t → P (y t r q p)) => ?_) ?_; (on_goal 1 => clear_value y); (on_goal 2 => (subst y; intro t r q p ht; beta_reduce)))
    | (extract_lets +onlyGivenNames y; clear_value y) | with_reducible apply fy1 | with_reducible apply fy2
    | with_reducible apply fy3 | with_reducible apply fy4 | with_reducible apply State.count_keeps hP
    | with_reducible apply State.setRing_keeps hP | (with_reducible apply keeps_foldl; intro _ _ _)
    | with_reducible apply keeps_ite

theorem nodeMissing_keeps {P : State → Prop} (hP : Closed P) (s : State) (h : Half) (r : ℕ) (a : ℕ) (hs : P s) :
    P (nodeMissing s h r a) := by
  unfold nodeMissing
  repeat' first
    | with_reducible assumption
    | (extract_lets +onlyGivenNames y; refine (fun (_ : P y) => ?_) ?_; (on_goal 1 => clear_value y); (on_goal 2 => subst y))
    | (extract_lets +onlyGivenNames y; clear_value y) | with_reducible apply State.setFld_keeps hP
    | with_reducible apply raiseEvt_keeps hP | with_reducible apply rehFailIf_keeps hP
    | with_reducible apply keeps_ite

theorem nodeReadmit_keeps {P : State → Prop} (hP : Closed P) (s : State) (h : Half) (r : ℕ) (a : ℕ) (tA : ℕ) (tB : ℕ) (bytes : List Byte) (hs : P s) :
    P (nodeReadmit s h r a tA tB bytes) := by
  unfold nodeReadmit
  repeat' first
    | with_reducible assumption
    | (extract_lets +onlyGivenNames y; refine (fun (_ : P y) => ?_) ?_; (on_goal 1 => clear_value y); (on_goal 2 => subst y))
    | (extract_lets +onlyGivenNames y; clear_value y) | with_reducible apply State.setRing_keeps hP
    | with_reducible apply raiseEvt_keeps hP | with_reducible apply putDelays_keeps hP
    | with_reducible apply setRingNode_keeps hP | with_reducible apply putReport_keeps hP
    | with_reducible apply powerLost_keeps hP | (with_reducible apply keeps_foldl; intro _ _ _)
    | with_reducible apply keeps_ite | split

theorem slotViolation_keeps {P : State → Prop} (hP : Closed P) (s : State) (h : Half) (r : ℕ) (chB : Bool) (node : Option ℕ) (hs : P s) :
    P (slotViolation s h r chB node) := by
  unfold slotViolation
  repeat' first
    | with_reducible assumption
    | (extract_lets +onlyGivenNames y; refine (fun (_ : P y) => ?_) ?_; (on_goal 1 => clear_value y); (on_goal 2 => subst y))
    | (extract_lets +onlyGivenNames y; clear_value y) | with_reducible apply State.count_keeps hP
    | with_reducible apply State.setRing_keeps hP | with_reducible apply channelOff_keeps hP
    | with_reducible apply keeps_ite

theorem mbxCtrl_keeps {P : State → Prop} (hP : Closed P) (s : State) (h : Half) (r : ℕ) (v : ℕ) (hs : P s) :
    P (mbxCtrl s h r v) := by
  unfold mbxCtrl
  repeat' first
    | with_reducible assumption
    | (extract_lets +onlyGivenNames y; refine (fun (_ : P y) => ?_) ?_; (on_goal 1 => clear_value y); (on_goal 2 => subst y))
    | (extract_lets +onlyGivenNames y; clear_value y) | with_reducible apply State.setFlag_keeps hP
    | with_reducible apply State.putFlag_keeps hP | with_reducible apply State.setRing_keeps hP
    | with_reducible apply setRingNode_keeps hP | with_reducible apply keeps_ite

theorem mbxAcked_keeps {P : State → Prop} (hP : Closed P) (s : State) (h : Half) (r : ℕ) (m : MbxTx) (hs : P s) :
    P (mbxAcked s h r m) := by
  unfold mbxAcked
  repeat' first
    | with_reducible assumption
    | (extract_lets +onlyGivenNames y; refine (fun (_ : P y) => ?_) ?_; (on_goal 1 => clear_value y); (on_goal 2 => subst y))
    | (extract_lets +onlyGivenNames y; clear_value y) | with_reducible apply State.putFlag_keeps hP
    | with_reducible apply State.setRing_keeps hP | with_reducible apply setRingNode_keeps hP
    | with_reducible apply keeps_ite

theorem mbxReceive_keeps {P : State → Prop} (hP : Closed P) (s : State) (h : Half) (r : ℕ) (bytes : List Byte) (hs : P s) :
    P (mbxReceive s h r bytes) := by
  unfold mbxReceive
  repeat' first
    | with_reducible assumption
    | (extract_lets +onlyGivenNames y; refine (fun (_ : P y) => ?_) ?_; (on_goal 1 => clear_value y); (on_goal 2 => subst y))
    | (extract_lets +onlyGivenNames y; clear_value y) | with_reducible apply State.setFld_keeps hP
    | with_reducible apply State.setFlag_keeps hP | with_reducible apply State.count_keeps hP
    | with_reducible apply State.setWords_keeps hP | with_reducible apply setRingNode_keeps hP
    | with_reducible apply mbxAcked_keeps hP | with_reducible apply keeps_ite | split

theorem mbxFail_keeps {P : State → Prop} (hP : Closed P) (s : State) (h : Half) (r : ℕ) (hs : P s) :
    P (mbxFail s h r) := by
  unfold mbxFail
  repeat' first
    | with_reducible assumption
    | (extract_lets +onlyGivenNames y; refine (fun (_ : P y) => ?_) ?_; (on_goal 1 => clear_value y); (on_goal 2 => subst y))
    | (extract_lets +onlyGivenNames y; clear_value y) | with_reducible apply State.setFlag_keeps hP
    | with_reducible apply State.putFlag_keeps hP | with_reducible apply State.setRing_keeps hP
    | with_reducible apply keeps_ite | split

end Sys2Proof.Machine
end

