-- ==== Sys2Proof/Laws/KeepsIsland.lean ====
section
/-! SUPPORT. What the operations keep: the safety island and the takeover. Where P is closed under
the stores' writes, each operation that takes a state with P answers one with P. -/
set_option maxRecDepth 20000
namespace Sys2Proof.Machine

-- One theorem at a time: the stacks of many threads together exceed the memory the check allows.
set_option Elab.async false

theorem setGroup_keeps {P : State → Prop} (hP : Closed P) (s : State) (g : ℕ) (x : GroupRun) (hs : P s) :
    P (setGroup s g x) := by
  unfold setGroup
  repeat' first
    | with_reducible assumption
    | (extract_lets +onlyGivenNames y; refine (fun (_ : P y) => ?_) ?_; (on_goal 1 => clear_value y); (on_goal 2 => subst y))
    | (extract_lets +onlyGivenNames y; clear_value y) | with_reducible apply State.setIsl_keeps hP

theorem setFunc_keeps {P : State → Prop} (hP : Closed P) (s : State) (f : ℕ) (x : FuncRun) (hs : P s) :
    P (setFunc s f x) := by
  unfold setFunc
  repeat' first
    | with_reducible assumption
    | (extract_lets +onlyGivenNames y; refine (fun (_ : P y) => ?_) ?_; (on_goal 1 => clear_value y); (on_goal 2 => subst y))
    | (extract_lets +onlyGivenNames y; clear_value y) | with_reducible apply State.setIsl_keeps hP

theorem setSsm_keeps {P : State → Prop} (hP : Closed P) (s : State) (a : ℕ) (x : SsmRun) (hs : P s) :
    P (setSsm s a x) := by
  unfold setSsm
  repeat' first
    | with_reducible assumption
    | (extract_lets +onlyGivenNames y; refine (fun (_ : P y) => ?_) ?_; (on_goal 1 => clear_value y); (on_goal 2 => subst y))
    | (extract_lets +onlyGivenNames y; clear_value y) | with_reducible apply State.setIsl_keeps hP

theorem putConnState_keeps {P : State → Prop} (hP : Closed P) (s : State) (c : ℕ) (st : ℕ) (hs : P s) :
    P (putConnState s c st) := by
  unfold putConnState
  repeat' first
    | with_reducible assumption
    | (extract_lets +onlyGivenNames y; refine (fun (_ : P y) => ?_) ?_; (on_goal 1 => clear_value y); (on_goal 2 => subst y))
    | (extract_lets +onlyGivenNames y; clear_value y) | with_reducible apply State.setFld_keeps hP
    | with_reducible apply State.setMapBit_keeps hP

theorem enterSafe_keeps {P : State → Prop} (hP : Closed P) (s : State) (c : ℕ) (cause : ℕ) (hs : P s) :
    P (enterSafe s c cause) := by
  unfold enterSafe
  repeat' first
    | with_reducible assumption
    | (extract_lets +onlyGivenNames y; refine (fun (_ : P y) => ?_) ?_; (on_goal 1 => clear_value y); (on_goal 2 => subst y))
    | (extract_lets +onlyGivenNames y; clear_value y) | with_reducible apply State.setFld_keeps hP
    | with_reducible apply State.setIsl_keeps hP | with_reducible apply State.setConn_keeps hP
    | with_reducible apply raiseBoth_keeps hP | with_reducible apply putConnState_keeps hP
    | with_reducible apply keeps_ite

theorem watchdogExpire_keeps {P : State → Prop} (hP : Closed P) (s : State) (c : ℕ) (hs : P s) :
    P (watchdogExpire s c) := by
  unfold watchdogExpire
  repeat' first
    | with_reducible assumption | with_reducible apply State.count_keeps hP
    | with_reducible apply enterSafe_keeps hP

theorem receivePdu_keeps {P : State → Prop} (hP : Closed P) (s : State) (c : ℕ) (t : ℕ) (bytes : List Byte) (hs : P s) :
    P (receivePdu s c t bytes) := by
  unfold receivePdu
  repeat' first
    | with_reducible assumption
    | (extract_lets +onlyGivenNames y; refine (fun (_ : P y) => ?_) ?_; (on_goal 1 => clear_value y); (on_goal 2 => subst y))
    | (extract_lets +onlyGivenNames y; clear_value y) | with_reducible apply State.setFld_keeps hP
    | with_reducible apply State.count_keeps hP | with_reducible apply State.setConn_keeps hP
    | with_reducible apply putConnState_keeps hP | with_reducible apply enterSafe_keeps hP
    | with_reducible apply keeps_ite

theorem holdConns_keeps {P : State → Prop} (hP : Closed P) (s : State) (hs : P s) :
    P (holdConns s) := by
  unfold holdConns
  repeat' first
    | with_reducible assumption | with_reducible apply enterSafe_keeps hP
    | (with_reducible apply keeps_foldl; intro _ _ _) | with_reducible apply keeps_ite

theorem pduArrive_keeps {P : State → Prop} (hP : Closed P) (s : State) (c : ℕ) (bytes : List Byte) (hs : P s) :
    P (pduArrive s c bytes) := by
  unfold pduArrive
  repeat' first
    | with_reducible assumption
    | (extract_lets +onlyGivenNames y; refine (fun (_ : P y) => ?_) ?_; (on_goal 1 => clear_value y); (on_goal 2 => subst y))
    | (extract_lets +onlyGivenNames y; clear_value y) | with_reducible apply State.setConn_keeps hP
    | with_reducible apply watchdogExpire_keeps hP | with_reducible apply receivePdu_keeps hP
    | with_reducible apply keeps_ite

theorem watchdogCheck_keeps {P : State → Prop} (hP : Closed P) (s : State) (c : ℕ) (ch : IslCh) (hs : P s) :
    P (watchdogCheck s c ch) := by
  unfold watchdogCheck
  repeat' first
    | with_reducible assumption
    | (extract_lets +onlyGivenNames y; refine (fun (_ : P y) => ?_) ?_; (on_goal 1 => clear_value y); (on_goal 2 => subst y))
    | (extract_lets +onlyGivenNames y; clear_value y) | with_reducible apply watchdogExpire_keeps hP
    | with_reducible apply keeps_ite

theorem stopArms_keeps {P : State → Prop} (hP : Closed P) (s : State) (g : ℕ) (hs : P s) :
    P (stopArms s g) := by
  unfold stopArms
  repeat' first
    | with_reducible assumption | with_reducible apply pathStop_keeps hP
    | (with_reducible apply keeps_foldl; intro _ _ _)

theorem putGroup_keeps {P : State → Prop} (hP : Closed P) (s : State) (g : ℕ) (wait : Bool) (hs : P s) :
    P (putGroup s g wait) := by
  unfold putGroup
  repeat' first
    | with_reducible assumption
    | (extract_lets +onlyGivenNames y; refine (fun (_ : P y) => ?_) ?_; (on_goal 1 => clear_value y); (on_goal 2 => subst y))
    | (extract_lets +onlyGivenNames y; clear_value y) | with_reducible apply State.setFld_keeps hP
    | with_reducible apply State.putFlag_keeps hP

theorem updateGroup_keeps {P : State → Prop} (hP : Closed P) (s : State) (g : ℕ) (hs : P s) :
    P (updateGroup s g) := by
  unfold updateGroup
  repeat' first
    | with_reducible assumption
    | (extract_lets +onlyGivenNames y; refine (fun (_ : P y) => ?_) ?_; (on_goal 1 => clear_value y); (on_goal 2 => subst y))
    | (extract_lets +onlyGivenNames y; clear_value y) | with_reducible apply setGroup_keeps hP
    | with_reducible apply stopArms_keeps hP | with_reducible apply putGroup_keeps hP
    | with_reducible apply keeps_ite | split

theorem groupOff_keeps {P : State → Prop} (hP : Closed P) (s : State) (g : ℕ) (hs : P s) :
    P (groupOff s g) := by
  unfold groupOff
  repeat' first
    | with_reducible assumption
    | (extract_lets +onlyGivenNames y; refine (fun (_ : P y) => ?_) ?_; (on_goal 1 => clear_value y); (on_goal 2 => subst y))
    | (extract_lets +onlyGivenNames y; clear_value y) | with_reducible apply setGroup_keeps hP
    | with_reducible apply putGroup_keeps hP

theorem rampDone_keeps {P : State → Prop} (hP : Closed P) (s : State) (g : ℕ) (hs : P s) :
    P (rampDone s g) := by
  unfold rampDone
  repeat' first
    | with_reducible assumption
    | (extract_lets +onlyGivenNames y; refine (fun (_ : P y) => ?_) ?_; (on_goal 1 => clear_value y); (on_goal 2 => subst y))
    | (extract_lets +onlyGivenNames y; clear_value y) | with_reducible apply groupOff_keeps hP
    | with_reducible apply keeps_ite

theorem ss1Expire_keeps {P : State → Prop} (hP : Closed P) (s : State) (g : ℕ) (hs : P s) :
    P (ss1Expire s g) := by
  unfold ss1Expire
  repeat' first
    | with_reducible assumption
    | (extract_lets +onlyGivenNames y; refine (fun (_ : P y) => ?_) ?_; (on_goal 1 => clear_value y); (on_goal 2 => subst y))
    | (extract_lets +onlyGivenNames y; clear_value y) | with_reducible apply groupOff_keeps hP
    | with_reducible apply keeps_ite

theorem driveOutputs_keeps {P : State → Prop} (hP : Closed P) (s : State) (hs : P s) :
    P (driveOutputs s) := by
  unfold driveOutputs
  repeat' first
    | with_reducible assumption
    | (extract_lets +onlyGivenNames y; refine (fun (_ : P y) => ?_) ?_; (on_goal 1 => clear_value y); (on_goal 2 => subst y))
    | (extract_lets +onlyGivenNames y; refine (fun (fy1 : ∀ t, P t → P (y t)) => ?_) ?_; (on_goal 1 => clear_value y); (on_goal 2 => (subst y; intro t ht; beta_reduce)))
    | (extract_lets +onlyGivenNames y; refine (fun (fy2 : ∀ t r, P t → P (y t r)) => ?_) ?_; (on_goal 1 => clear_value y); (on_goal 2 => (subst y; intro t r ht; beta_reduce)))
    | (extract_lets +onlyGivenNames y; refine (fun (fy3 : ∀ t r q, P t → P (y t r q)) => ?_) ?_; (on_goal 1 => clear_value y); (on_goal 2 => (subst y; intro t r q ht; beta_reduce)))
    | (extract_lets +onlyGivenNames y; refine (fun (fy4 : ∀ t r q p, P t → P (y t r q p)) => ?_) ?_; (on_goal 1 => clear_value y); (on_goal 2 => (subst y; intro t r q p ht; beta_reduce)))
    | (extract_lets +onlyGivenNames y; clear_value y) | with_reducible apply fy1 | with_reducible apply fy2
    | with_reducible apply fy3 | with_reducible apply fy4 | with_reducible apply State.setFld_keeps hP
    | with_reducible apply State.setIsl_keeps hP

theorem islandLog_keeps {P : State → Prop} (hP : Closed P) (s : State) (code : ℕ) (item : ℕ) (hs : P s) :
    P (islandLog s code item) := by
  unfold islandLog
  repeat' first
    | with_reducible assumption
    | (extract_lets +onlyGivenNames y; refine (fun (_ : P y) => ?_) ?_; (on_goal 1 => clear_value y); (on_goal 2 => subst y))
    | (extract_lets +onlyGivenNames y; clear_value y) | with_reducible apply State.setMemWords_keeps hP
    | with_reducible apply State.setWords_keeps hP

theorem outputFault_keeps {P : State → Prop} (hP : Closed P) (s : State) (o : ℕ) (kind : ℕ) (hs : P s) :
    P (outputFault s o kind) := by
  unfold outputFault
  repeat' first
    | with_reducible assumption
    | (extract_lets +onlyGivenNames y; refine (fun (_ : P y) => ?_) ?_; (on_goal 1 => clear_value y); (on_goal 2 => subst y))
    | (extract_lets +onlyGivenNames y; clear_value y) | with_reducible apply State.setFld_keeps hP
    | with_reducible apply State.setIsl_keeps hP | with_reducible apply raiseBoth_keeps hP
    | with_reducible apply driveOutputs_keeps hP | with_reducible apply islandLog_keeps hP
    | with_reducible apply keeps_ite

theorem readbackCheck_keeps {P : State → Prop} (hP : Closed P) (s : State) (read : ℕ) (hs : P s) :
    P (readbackCheck s read) := by
  unfold readbackCheck
  repeat' first
    | with_reducible assumption
    | (extract_lets +onlyGivenNames y; refine (fun (_ : P y) => ?_) ?_; (on_goal 1 => clear_value y); (on_goal 2 => subst y))
    | (extract_lets +onlyGivenNames y; clear_value y) | with_reducible apply outputFault_keeps hP
    | (with_reducible apply keeps_foldl; intro _ _ _) | with_reducible apply keeps_ite

theorem outputTest_keeps {P : State → Prop} (hP : Closed P) (s : State) (o : ℕ) (read : ℕ) (hs : P s) :
    P (outputTest s o read) := by
  unfold outputTest
  repeat' first
    | with_reducible assumption
    | (extract_lets +onlyGivenNames y; refine (fun (_ : P y) => ?_) ?_; (on_goal 1 => clear_value y); (on_goal 2 => subst y))
    | (extract_lets +onlyGivenNames y; clear_value y) | with_reducible apply outputFault_keeps hP
    | (with_reducible apply keeps_foldl; intro _ _ _) | with_reducible apply keeps_ite

theorem islandFault_keeps {P : State → Prop} (hP : Closed P) (s : State) (code : ℕ) (item : ℕ) (hs : P s) :
    P (islandFault s code item) := by
  unfold islandFault
  repeat' first
    | with_reducible assumption
    | (extract_lets +onlyGivenNames y; refine (fun (_ : P y) => ?_) ?_; (on_goal 1 => clear_value y); (on_goal 2 => subst y))
    | (extract_lets +onlyGivenNames y; clear_value y) | with_reducible apply State.setFld_keeps hP
    | with_reducible apply raiseBoth_keeps hP | with_reducible apply holdConns_keeps hP
    | with_reducible apply updateGroup_keeps hP | with_reducible apply driveOutputs_keeps hP
    | with_reducible apply islandLog_keeps hP | (with_reducible apply keeps_foldl; intro _ _ _)
    | with_reducible apply keeps_ite

theorem pduSend_keeps {P : State → Prop} (hP : Closed P) (s : State) (c : ℕ) (hs : P s) :
    P (pduSend s c) := by
  unfold pduSend
  repeat' first
    | with_reducible assumption
    | (extract_lets +onlyGivenNames y; refine (fun (_ : P y) => ?_) ?_; (on_goal 1 => clear_value y); (on_goal 2 => subst y))
    | (extract_lets +onlyGivenNames y; refine (fun (_ : P y.2) => ?_) ?_; (on_goal 1 => clear_value y); (on_goal 2 => subst y))
    | (extract_lets +onlyGivenNames y; clear_value y) | with_reducible apply State.setFld_keeps hP
    | with_reducible apply State.setConn_keeps hP | with_reducible apply freeBytes_keeps hP
    | with_reducible apply keeps_ite | split

theorem keepPlaces_keeps {P : State → Prop} (hP : Closed P) (s : State) (places : List (Option SafePlace)) (hs : P s) :
    P (keepPlaces s places) := by
  unfold keepPlaces
  repeat' first
    | with_reducible assumption
    | (extract_lets +onlyGivenNames y; refine (fun (_ : P y) => ?_) ?_; (on_goal 1 => clear_value y); (on_goal 2 => subst y))
    | (extract_lets +onlyGivenNames y; clear_value y) | with_reducible apply State.setIsl_keeps hP

theorem setPair_keeps {P : State → Prop} (hP : Closed P) (s : State) (p : ℕ) (x : PairRun) (hs : P s) :
    P (setPair s p x) := by
  unfold setPair
  repeat' first
    | with_reducible assumption
    | (extract_lets +onlyGivenNames y; refine (fun (_ : P y) => ?_) ?_; (on_goal 1 => clear_value y); (on_goal 2 => subst y))
    | (extract_lets +onlyGivenNames y; clear_value y) | with_reducible apply State.setIsl_keeps hP

theorem setContact_keeps {P : State → Prop} (hP : Closed P) (s : State) (ch : IslCh) (c : ℕ) (x : ContactRun) (hs : P s) :
    P (setContact s ch c x) := by
  unfold setContact
  repeat' first
    | with_reducible assumption
    | (extract_lets +onlyGivenNames y; refine (fun (_ : P y) => ?_) ?_; (on_goal 1 => clear_value y); (on_goal 2 => subst y))
    | (extract_lets +onlyGivenNames y; clear_value y) | with_reducible apply State.setIsl_keeps hP | split

theorem pairFail_keeps {P : State → Prop} (hP : Closed P) (s : State) (p : ℕ) (kind : ℕ) (hs : P s) :
    P (pairFail s p kind) := by
  unfold pairFail
  repeat' first
    | with_reducible assumption
    | (extract_lets +onlyGivenNames y; refine (fun (_ : P y) => ?_) ?_; (on_goal 1 => clear_value y); (on_goal 2 => subst y))
    | (extract_lets +onlyGivenNames y; clear_value y) | with_reducible apply State.setFld_keeps hP
    | with_reducible apply raiseBoth_keeps hP | with_reducible apply setPair_keeps hP
    | with_reducible apply keeps_ite

theorem pairHeal_keeps {P : State → Prop} (hP : Closed P) (s : State) (p : ℕ) (hs : P s) :
    P (pairHeal s p) := by
  unfold pairHeal
  repeat' first
    | with_reducible assumption
    | (extract_lets +onlyGivenNames y; refine (fun (_ : P y) => ?_) ?_; (on_goal 1 => clear_value y); (on_goal 2 => subst y))
    | (extract_lets +onlyGivenNames y; clear_value y) | with_reducible apply State.setFld_keeps hP
    | with_reducible apply setPair_keeps hP

theorem pairUpdate_keeps {P : State → Prop} (hP : Closed P) (s : State) (ch : IslCh) (p : ℕ) (hs : P s) :
    P (pairUpdate s ch p) := by
  unfold pairUpdate
  repeat' first
    | with_reducible assumption
    | (extract_lets +onlyGivenNames y; refine (fun (_ : P y) => ?_) ?_; (on_goal 1 => clear_value y); (on_goal 2 => subst y))
    | (extract_lets +onlyGivenNames y; refine (fun (fy1 : ∀ t, P t → P (y t)) => ?_) ?_; (on_goal 1 => clear_value y); (on_goal 2 => (subst y; intro t ht; beta_reduce)))
    | (extract_lets +onlyGivenNames y; refine (fun (fy2 : ∀ t r, P t → P (y t r)) => ?_) ?_; (on_goal 1 => clear_value y); (on_goal 2 => (subst y; intro t r ht; beta_reduce)))
    | (extract_lets +onlyGivenNames y; refine (fun (fy3 : ∀ t r q, P t → P (y t r q)) => ?_) ?_; (on_goal 1 => clear_value y); (on_goal 2 => (subst y; intro t r q ht; beta_reduce)))
    | (extract_lets +onlyGivenNames y; refine (fun (fy4 : ∀ t r q p, P t → P (y t r q p)) => ?_) ?_; (on_goal 1 => clear_value y); (on_goal 2 => (subst y; intro t r q p ht; beta_reduce)))
    | (extract_lets +onlyGivenNames y; clear_value y) | with_reducible apply fy1 | with_reducible apply fy2
    | with_reducible apply fy3 | with_reducible apply fy4 | with_reducible apply setPair_keeps hP
    | with_reducible apply pairHeal_keeps hP | with_reducible apply keeps_ite

theorem contactQualify_keeps {P : State → Prop} (hP : Closed P) (s : State) (ch : IslCh) (c : ℕ) (level : Bool) (hs : P s) :
    P (contactQualify s ch c level) := by
  unfold contactQualify
  repeat' first
    | with_reducible assumption
    | (extract_lets +onlyGivenNames y; refine (fun (_ : P y) => ?_) ?_; (on_goal 1 => clear_value y); (on_goal 2 => subst y))
    | (extract_lets +onlyGivenNames y; clear_value y) | with_reducible apply State.setFld_keeps hP
    | with_reducible apply setContact_keeps hP | with_reducible apply pairUpdate_keeps hP
    | with_reducible apply keeps_ite | split

theorem discrepancy_keeps {P : State → Prop} (hP : Closed P) (s : State) (p : ℕ) (hs : P s) :
    P (discrepancy s p) := by
  unfold discrepancy
  repeat' first
    | with_reducible assumption | with_reducible apply pairFail_keeps hP | with_reducible apply keeps_ite | split

theorem contactPulse_keeps {P : State → Prop} (hP : Closed P) (s : State) (t : ℕ) (low : ℕ) (c : ℕ) (hs : P s) :
    P (contactPulse s t low c) := by
  unfold contactPulse
  repeat' first
    | with_reducible assumption
    | (extract_lets +onlyGivenNames y; refine (fun (_ : P y) => ?_) ?_; (on_goal 1 => clear_value y); (on_goal 2 => subst y))
    | (extract_lets +onlyGivenNames y; clear_value y) | with_reducible apply setPair_keeps hP
    | with_reducible apply pairFail_keeps hP | with_reducible apply keeps_ite | split

theorem pairPulse_keeps {P : State → Prop} (hP : Closed P) (s : State) (t : ℕ) (p : ℕ) (hs : P s) :
    P (pairPulse s t p) := by
  unfold pairPulse
  repeat' first
    | with_reducible assumption
    | (extract_lets +onlyGivenNames y; refine (fun (_ : P y) => ?_) ?_; (on_goal 1 => clear_value y); (on_goal 2 => subst y))
    | (extract_lets +onlyGivenNames y; refine (fun (fy1 : ∀ t, P t → P (y t)) => ?_) ?_; (on_goal 1 => clear_value y); (on_goal 2 => (subst y; intro t ht; beta_reduce)))
    | (extract_lets +onlyGivenNames y; refine (fun (fy2 : ∀ t r, P t → P (y t r)) => ?_) ?_; (on_goal 1 => clear_value y); (on_goal 2 => (subst y; intro t r ht; beta_reduce)))
    | (extract_lets +onlyGivenNames y; refine (fun (fy3 : ∀ t r q, P t → P (y t r q)) => ?_) ?_; (on_goal 1 => clear_value y); (on_goal 2 => (subst y; intro t r q ht; beta_reduce)))
    | (extract_lets +onlyGivenNames y; refine (fun (fy4 : ∀ t r q p, P t → P (y t r q p)) => ?_) ?_; (on_goal 1 => clear_value y); (on_goal 2 => (subst y; intro t r q p ht; beta_reduce)))
    | (extract_lets +onlyGivenNames y; clear_value y) | with_reducible apply fy1 | with_reducible apply fy2
    | with_reducible apply fy3 | with_reducible apply fy4 | with_reducible apply setPair_keeps hP
    | with_reducible apply pairHeal_keeps hP | with_reducible apply keeps_ite

theorem testPulse_keeps {P : State → Prop} (hP : Closed P) (s : State) (t : ℕ) (low : ℕ) (hs : P s) :
    P (testPulse s t low) := by
  unfold testPulse
  repeat' first
    | with_reducible assumption | with_reducible apply contactPulse_keeps hP
    | with_reducible apply pairPulse_keeps hP | (with_reducible apply keeps_foldl; intro _ _ _)

theorem comparator_keeps {P : State → Prop} (hP : Closed P) (s : State) (p : ℕ) (hs : P s) :
    P (comparator s p) := by
  unfold comparator
  repeat' first
    | with_reducible assumption
    | (extract_lets +onlyGivenNames y; refine (fun (_ : P y) => ?_) ?_; (on_goal 1 => clear_value y); (on_goal 2 => subst y))
    | (extract_lets +onlyGivenNames y; clear_value y) | with_reducible apply setPair_keeps hP
    | with_reducible apply pairFail_keeps hP | with_reducible apply keeps_ite

theorem twoHand_keeps {P : State → Prop} (hP : Closed P) (s : State) (f : ℕ) (hs : P s) :
    P (twoHand s f) := by
  unfold twoHand
  repeat' first
    | with_reducible assumption
    | (extract_lets +onlyGivenNames y; refine (fun (_ : P y) => ?_) ?_; (on_goal 1 => clear_value y); (on_goal 2 => subst y))
    | (extract_lets +onlyGivenNames y; refine (fun (fy1 : ∀ t, P t → P (y t)) => ?_) ?_; (on_goal 1 => clear_value y); (on_goal 2 => (subst y; intro t ht; beta_reduce)))
    | (extract_lets +onlyGivenNames y; refine (fun (fy2 : ∀ t r, P t → P (y t r)) => ?_) ?_; (on_goal 1 => clear_value y); (on_goal 2 => (subst y; intro t r ht; beta_reduce)))
    | (extract_lets +onlyGivenNames y; refine (fun (fy3 : ∀ t r q, P t → P (y t r q)) => ?_) ?_; (on_goal 1 => clear_value y); (on_goal 2 => (subst y; intro t r q ht; beta_reduce)))
    | (extract_lets +onlyGivenNames y; refine (fun (fy4 : ∀ t r q p, P t → P (y t r q p)) => ?_) ?_; (on_goal 1 => clear_value y); (on_goal 2 => (subst y; intro t r q p ht; beta_reduce)))
    | (extract_lets +onlyGivenNames y; clear_value y) | with_reducible apply fy1 | with_reducible apply fy2
    | with_reducible apply fy3 | with_reducible apply fy4 | with_reducible apply setFunc_keeps hP
    | with_reducible apply keeps_ite

theorem twoHandExpire_keeps {P : State → Prop} (hP : Closed P) (s : State) (f : ℕ) (hs : P s) :
    P (twoHandExpire s f) := by
  unfold twoHandExpire
  repeat' first
    | with_reducible assumption
    | (extract_lets +onlyGivenNames y; refine (fun (_ : P y) => ?_) ?_; (on_goal 1 => clear_value y); (on_goal 2 => subst y))
    | (extract_lets +onlyGivenNames y; refine (fun (fy1 : ∀ t, P t → P (y t)) => ?_) ?_; (on_goal 1 => clear_value y); (on_goal 2 => (subst y; intro t ht; beta_reduce)))
    | (extract_lets +onlyGivenNames y; refine (fun (fy2 : ∀ t r, P t → P (y t r)) => ?_) ?_; (on_goal 1 => clear_value y); (on_goal 2 => (subst y; intro t r ht; beta_reduce)))
    | (extract_lets +onlyGivenNames y; refine (fun (fy3 : ∀ t r q, P t → P (y t r q)) => ?_) ?_; (on_goal 1 => clear_value y); (on_goal 2 => (subst y; intro t r q ht; beta_reduce)))
    | (extract_lets +onlyGivenNames y; refine (fun (fy4 : ∀ t r q p, P t → P (y t r q p)) => ?_) ?_; (on_goal 1 => clear_value y); (on_goal 2 => (subst y; intro t r q p ht; beta_reduce)))
    | (extract_lets +onlyGivenNames y; clear_value y) | with_reducible apply fy1 | with_reducible apply fy2
    | with_reducible apply fy3 | with_reducible apply fy4 | with_reducible apply setFunc_keeps hP
    | with_reducible apply keeps_ite

theorem putDemand_keeps {P : State → Prop} (hP : Closed P) (s : State) (f : ℕ) (d : Bool) (hs : P s) :
    P (putDemand s f d) := by
  unfold putDemand
  repeat' first
    | with_reducible assumption
    | (extract_lets +onlyGivenNames y; refine (fun (_ : P y) => ?_) ?_; (on_goal 1 => clear_value y); (on_goal 2 => subst y))
    | (extract_lets +onlyGivenNames y; refine (fun (fy1 : ∀ t, P t → P (y t)) => ?_) ?_; (on_goal 1 => clear_value y); (on_goal 2 => (subst y; intro t ht; beta_reduce)))
    | (extract_lets +onlyGivenNames y; refine (fun (fy2 : ∀ t r, P t → P (y t r)) => ?_) ?_; (on_goal 1 => clear_value y); (on_goal 2 => (subst y; intro t r ht; beta_reduce)))
    | (extract_lets +onlyGivenNames y; refine (fun (fy3 : ∀ t r q, P t → P (y t r q)) => ?_) ?_; (on_goal 1 => clear_value y); (on_goal 2 => (subst y; intro t r q ht; beta_reduce)))
    | (extract_lets +onlyGivenNames y; refine (fun (fy4 : ∀ t r q p, P t → P (y t r q p)) => ?_) ?_; (on_goal 1 => clear_value y); (on_goal 2 => (subst y; intro t r q p ht; beta_reduce)))
    | (extract_lets +onlyGivenNames y; clear_value y) | with_reducible apply fy1 | with_reducible apply fy2
    | with_reducible apply fy3 | with_reducible apply fy4 | with_reducible apply State.setFlag_keeps hP
    | with_reducible apply State.putFlag_keeps hP | with_reducible apply raiseBoth_keeps hP
    | with_reducible apply keeps_ite

theorem evalFunc_keeps {P : State → Prop} (hP : Closed P) (s : State) (f : ℕ) (hs : P s) :
    P (evalFunc s f) := by
  unfold evalFunc
  repeat' first
    | with_reducible assumption
    | (extract_lets +onlyGivenNames y; refine (fun (_ : P y) => ?_) ?_; (on_goal 1 => clear_value y); (on_goal 2 => subst y))
    | (extract_lets +onlyGivenNames y; refine (fun (fy1 : ∀ t, P t → P (y t)) => ?_) ?_; (on_goal 1 => clear_value y); (on_goal 2 => (subst y; intro t ht; beta_reduce)))
    | (extract_lets +onlyGivenNames y; refine (fun (fy2 : ∀ t r, P t → P (y t r)) => ?_) ?_; (on_goal 1 => clear_value y); (on_goal 2 => (subst y; intro t r ht; beta_reduce)))
    | (extract_lets +onlyGivenNames y; refine (fun (fy3 : ∀ t r q, P t → P (y t r q)) => ?_) ?_; (on_goal 1 => clear_value y); (on_goal 2 => (subst y; intro t r q ht; beta_reduce)))
    | (extract_lets +onlyGivenNames y; refine (fun (fy4 : ∀ t r q p, P t → P (y t r q p)) => ?_) ?_; (on_goal 1 => clear_value y); (on_goal 2 => (subst y; intro t r q p ht; beta_reduce)))
    | (extract_lets +onlyGivenNames y; clear_value y) | with_reducible apply fy1 | with_reducible apply fy2
    | with_reducible apply fy3 | with_reducible apply fy4 | with_reducible apply setFunc_keeps hP
    | with_reducible apply twoHand_keeps hP | with_reducible apply putDemand_keeps hP
    | with_reducible apply keeps_ite

theorem evalLock_keeps {P : State → Prop} (hP : Closed P) (s : State) (f : ℕ) (hs : P s) :
    P (evalLock s f) := by
  unfold evalLock
  repeat' first
    | with_reducible assumption
    | (extract_lets +onlyGivenNames y; refine (fun (_ : P y) => ?_) ?_; (on_goal 1 => clear_value y); (on_goal 2 => subst y))
    | (extract_lets +onlyGivenNames y; refine (fun (fy1 : ∀ t, P t → P (y t)) => ?_) ?_; (on_goal 1 => clear_value y); (on_goal 2 => (subst y; intro t ht; beta_reduce)))
    | (extract_lets +onlyGivenNames y; refine (fun (fy2 : ∀ t r, P t → P (y t r)) => ?_) ?_; (on_goal 1 => clear_value y); (on_goal 2 => (subst y; intro t r ht; beta_reduce)))
    | (extract_lets +onlyGivenNames y; refine (fun (fy3 : ∀ t r q, P t → P (y t r q)) => ?_) ?_; (on_goal 1 => clear_value y); (on_goal 2 => (subst y; intro t r q ht; beta_reduce)))
    | (extract_lets +onlyGivenNames y; refine (fun (fy4 : ∀ t r q p, P t → P (y t r q p)) => ?_) ?_; (on_goal 1 => clear_value y); (on_goal 2 => (subst y; intro t r q p ht; beta_reduce)))
    | (extract_lets +onlyGivenNames y; clear_value y) | with_reducible apply fy1 | with_reducible apply fy2
    | with_reducible apply fy3 | with_reducible apply fy4 | with_reducible apply setFunc_keeps hP
    | with_reducible apply keeps_ite

theorem unlock_keeps {P : State → Prop} (hP : Closed P) (s : State) (f : ℕ) (hs : P s) :
    P (unlock s f) := by
  unfold unlock
  repeat' first
    | with_reducible assumption
    | (extract_lets +onlyGivenNames y; refine (fun (_ : P y) => ?_) ?_; (on_goal 1 => clear_value y); (on_goal 2 => subst y))
    | (extract_lets +onlyGivenNames y; refine (fun (fy1 : ∀ t, P t → P (y t)) => ?_) ?_; (on_goal 1 => clear_value y); (on_goal 2 => (subst y; intro t ht; beta_reduce)))
    | (extract_lets +onlyGivenNames y; refine (fun (fy2 : ∀ t r, P t → P (y t r)) => ?_) ?_; (on_goal 1 => clear_value y); (on_goal 2 => (subst y; intro t r ht; beta_reduce)))
    | (extract_lets +onlyGivenNames y; refine (fun (fy3 : ∀ t r q, P t → P (y t r q)) => ?_) ?_; (on_goal 1 => clear_value y); (on_goal 2 => (subst y; intro t r q ht; beta_reduce)))
    | (extract_lets +onlyGivenNames y; refine (fun (fy4 : ∀ t r q p, P t → P (y t r q p)) => ?_) ?_; (on_goal 1 => clear_value y); (on_goal 2 => (subst y; intro t r q p ht; beta_reduce)))
    | (extract_lets +onlyGivenNames y; clear_value y) | with_reducible apply fy1 | with_reducible apply fy2
    | with_reducible apply fy3 | with_reducible apply fy4 | with_reducible apply setFunc_keeps hP
    | with_reducible apply driveOutputs_keeps hP | with_reducible apply keeps_ite | split

theorem waitAll_keeps {P : State → Prop} (hP : Closed P) (s : State) (hs : P s) :
    P (waitAll s) := by
  unfold waitAll
  repeat' first
    | with_reducible assumption | with_reducible apply State.setFlag_keeps hP
    | (with_reducible apply keeps_foldl; intro _ _ _) | with_reducible apply keeps_ite

theorem connReset_keeps {P : State → Prop} (hP : Closed P) (s : State) (fs : List ℕ) (as_ : List ℕ) (hs : P s) :
    P (connReset s fs as_) := by
  unfold connReset
  repeat' first
    | with_reducible assumption
    | (extract_lets +onlyGivenNames y; refine (fun (_ : P y) => ?_) ?_; (on_goal 1 => clear_value y); (on_goal 2 => subst y))
    | (extract_lets +onlyGivenNames y; clear_value y) | with_reducible apply setGroup_keeps hP
    | (with_reducible apply keeps_foldl; intro _ _ _) | with_reducible apply keeps_ite

theorem resetRelease_keeps {P : State → Prop} (hP : Closed P) (s : State) (c : ℕ) (hs : P s) :
    P (resetRelease s c) := by
  unfold resetRelease
  repeat' first
    | with_reducible assumption
    | (extract_lets +onlyGivenNames y; refine (fun (_ : P y) => ?_) ?_; (on_goal 1 => clear_value y); (on_goal 2 => subst y))
    | (extract_lets +onlyGivenNames y; clear_value y) | with_reducible apply State.putFlag_keeps hP
    | with_reducible apply State.count_keeps hP | with_reducible apply raiseBoth_keeps hP
    | with_reducible apply setSsm_keeps hP | with_reducible apply contactQualify_keeps hP
    | with_reducible apply connReset_keeps hP | (with_reducible apply keeps_foldl; intro _ _ _)
    | with_reducible apply keeps_ite

theorem islandReset_keeps {P : State → Prop} (hP : Closed P) (s : State) (c : ℕ) (hs : P s) :
    P (islandReset s c) := by
  unfold islandReset
  repeat' first
    | with_reducible assumption
    | (extract_lets +onlyGivenNames y; refine (fun (_ : P y) => ?_) ?_; (on_goal 1 => clear_value y); (on_goal 2 => subst y))
    | (extract_lets +onlyGivenNames y; clear_value y) | with_reducible apply State.setFld_keeps hP
    | with_reducible apply State.setIsl_keeps hP | with_reducible apply updateGroup_keeps hP
    | with_reducible apply driveOutputs_keeps hP | (with_reducible apply keeps_foldl; intro _ _ _)
    | with_reducible apply keeps_ite

theorem takeMode2_keeps {P : State → Prop} (hP : Closed P) (s : State) (hs : P s) :
    P (takeMode2 s) := by
  unfold takeMode2
  repeat' first
    | with_reducible assumption
    | (extract_lets +onlyGivenNames y; refine (fun (_ : P y) => ?_) ?_; (on_goal 1 => clear_value y); (on_goal 2 => subst y))
    | (extract_lets +onlyGivenNames y; clear_value y) | with_reducible apply State.setFld_keeps hP
    | with_reducible apply State.putFlag_keeps hP | with_reducible apply raiseBoth_keeps hP
    | with_reducible apply holdConns_keeps hP | with_reducible apply waitAll_keeps hP
    | with_reducible apply keeps_ite

theorem selfTestDone_keeps {P : State → Prop} (hP : Closed P) (s : State) (pass : Bool) (hs : P s) :
    P (selfTestDone s pass) := by
  unfold selfTestDone
  repeat' first
    | with_reducible assumption
    | (extract_lets +onlyGivenNames y; refine (fun (_ : P y) => ?_) ?_; (on_goal 1 => clear_value y); (on_goal 2 => subst y))
    | (extract_lets +onlyGivenNames y; clear_value y) | with_reducible apply State.setFld_keeps hP
    | with_reducible apply State.setIsl_keeps hP | with_reducible apply islandFault_keeps hP
    | with_reducible apply waitAll_keeps hP | with_reducible apply takeMode2_keeps hP
    | with_reducible apply keeps_ite

theorem switchChange_keeps {P : State → Prop} (hP : Closed P) (s : State) (x : ℕ) (y : ℕ) (hs : P s) :
    P (switchChange s x y) := by
  unfold switchChange
  repeat' first
    | with_reducible assumption
    | (extract_lets +onlyGivenNames y; refine (fun (_ : P y) => ?_) ?_; (on_goal 1 => clear_value y); (on_goal 2 => subst y))
    | (extract_lets +onlyGivenNames y; clear_value y) | with_reducible apply State.setFld_keeps hP
    | with_reducible apply State.flagIf_keeps hP | with_reducible apply State.setIsl_keeps hP
    | with_reducible apply raiseBoth_keeps hP

theorem switchCycle_keeps {P : State → Prop} (hP : Closed P) (s : State) (hs : P s) :
    P (switchCycle s) := by
  unfold switchCycle
  repeat' first
    | with_reducible assumption
    | (extract_lets +onlyGivenNames y; refine (fun (_ : P y) => ?_) ?_; (on_goal 1 => clear_value y); (on_goal 2 => subst y))
    | (extract_lets +onlyGivenNames y; clear_value y) | with_reducible apply State.putFlag_keeps hP
    | with_reducible apply State.setIsl_keeps hP | with_reducible apply islandFault_keeps hP
    | with_reducible apply takeMode2_keeps hP | with_reducible apply keeps_ite

theorem rwsWrite_keeps {P : State → Prop} (hP : Closed P) (s : State) (off : ℕ) (f : State → State) (hf : ∀ s, P s → P (f s)) (hs : P s) :
    P (rwsWrite s off f) := by
  unfold rwsWrite
  repeat' first
    | with_reducible assumption
    | (extract_lets +onlyGivenNames y; refine (fun (_ : P y) => ?_) ?_; (on_goal 1 => clear_value y); (on_goal 2 => subst y))
    | (extract_lets +onlyGivenNames y; clear_value y) | with_reducible apply hf
    | with_reducible apply State.setFld_keeps hP | with_reducible apply State.setFlag_keeps hP
    | with_reducible apply State.count_keeps hP | with_reducible apply raiseBoth_keeps hP
    | with_reducible apply keeps_ite

theorem rwsBy_keeps {P : State → Prop} (hP : Closed P) (s : State) (m : Master) (off : ℕ) (f : State → State) (hf : ∀ s, P s → P (f s)) (hs : P s) :
    P (rwsBy s m off f) := by
  unfold rwsBy
  repeat' first
    | with_reducible assumption | with_reducible apply hf | with_reducible apply failMaster_keeps hP
    | with_reducible apply rwsWrite_keeps hP | with_reducible apply keeps_ite

theorem loadSection_keeps {P : State → Prop} (hP : Closed P) (s : State) (hs : P s) :
    P (loadSection s) := by
  unfold loadSection
  repeat' first
    | with_reducible assumption | with_reducible apply State.setFlag_keeps hP
    | with_reducible apply updateGroup_keeps hP | with_reducible apply driveOutputs_keeps hP
    | (with_reducible apply keeps_foldl; intro _ _ _) | with_reducible apply keeps_ite

theorem placeSection_keeps {P : State → Prop} (hP : Closed P) (s : State) (cells : List (ℕ × Byte)) (cfg : SectionCfg) (fp : ℕ) (hs : P s) :
    P (placeSection s cells cfg fp) := by
  unfold placeSection
  repeat' first
    | with_reducible assumption
    | (extract_lets +onlyGivenNames y; refine (fun (_ : P y) => ?_) ?_; (on_goal 1 => clear_value y); (on_goal 2 => subst y))
    | (extract_lets +onlyGivenNames y; clear_value y) | with_reducible apply State.setFld_keeps hP
    | with_reducible apply State.setIsl_keeps hP | with_reducible apply putConnState_keeps hP
    | (with_reducible apply keeps_foldl; intro _ _ _) | with_reducible apply keeps_ite | split
    | with_reducible apply hP.put | with_reducible apply hP.byte | with_reducible apply hP.drop
    | with_reducible apply hP.wipe | with_reducible apply hP.keepRegs | with_reducible apply hP.keepMem
    | with_reducible apply hP.other

theorem takeSection_keeps {P : State → Prop} (hP : Closed P) (s : State) (cells : List (ℕ × Byte)) (cfg : SectionCfg) (fp : ℕ) (hs : P s) :
    P (takeSection s cells cfg fp) := by
  unfold takeSection
  repeat' first
    | with_reducible assumption | with_reducible apply takeMode2_keeps hP
    | with_reducible apply placeSection_keeps hP

theorem loadComplete_keeps {P : State → Prop} (hP : Closed P) (s : State) (hs : P s) :
    P (loadComplete s) := by
  unfold loadComplete
  repeat' first
    | with_reducible assumption
    | (extract_lets +onlyGivenNames y; refine (fun (_ : P y) => ?_) ?_; (on_goal 1 => clear_value y); (on_goal 2 => subst y))
    | (extract_lets +onlyGivenNames y; clear_value y) | with_reducible apply State.setFlag_keeps hP
    | with_reducible apply State.putFlag_keeps hP | with_reducible apply waitAll_keeps hP
    | with_reducible apply takeSection_keeps hP | with_reducible apply keeps_ite

theorem fpAccept_keeps {P : State → Prop} (hP : Closed P) (s : State) (v : ℕ) (hs : P s) :
    P (fpAccept s v) := by
  unfold fpAccept
  repeat' first
    | with_reducible assumption
    | (extract_lets +onlyGivenNames y; refine (fun (_ : P y) => ?_) ?_; (on_goal 1 => clear_value y); (on_goal 2 => subst y))
    | (extract_lets +onlyGivenNames y; clear_value y) | with_reducible apply State.setFld_keeps hP
    | with_reducible apply State.setFlag_keeps hP | with_reducible apply State.putFlag_keeps hP
    | with_reducible apply takeMode2_keeps hP | with_reducible apply keeps_ite

theorem stagingWrite_keeps {P : State → Prop} (hP : Closed P) (s : State) (off : ℕ) (w : Word) (hs : P s) :
    P (stagingWrite s off w) := by
  unfold stagingWrite
  repeat' first
    | with_reducible assumption
    | (extract_lets +onlyGivenNames y; refine (fun (_ : P y) => ?_) ?_; (on_goal 1 => clear_value y); (on_goal 2 => subst y))
    | (extract_lets +onlyGivenNames y; refine (fun (fy1 : ∀ t, P t → P (y t)) => ?_) ?_; (on_goal 1 => clear_value y); (on_goal 2 => (subst y; intro t ht; beta_reduce)))
    | (extract_lets +onlyGivenNames y; refine (fun (fy2 : ∀ t r, P t → P (y t r)) => ?_) ?_; (on_goal 1 => clear_value y); (on_goal 2 => (subst y; intro t r ht; beta_reduce)))
    | (extract_lets +onlyGivenNames y; refine (fun (fy3 : ∀ t r q, P t → P (y t r q)) => ?_) ?_; (on_goal 1 => clear_value y); (on_goal 2 => (subst y; intro t r q ht; beta_reduce)))
    | (extract_lets +onlyGivenNames y; refine (fun (fy4 : ∀ t r q p, P t → P (y t r q p)) => ?_) ?_; (on_goal 1 => clear_value y); (on_goal 2 => (subst y; intro t r q p ht; beta_reduce)))
    | (extract_lets +onlyGivenNames y; clear_value y) | with_reducible apply fy1 | with_reducible apply fy2
    | with_reducible apply fy3 | with_reducible apply fy4 | with_reducible apply State.setIsl_keeps hP

theorem takeSensor_keeps {P : State → Prop} (hP : Closed P) (s : State) (i : ℕ) (hs : P s) :
    P (takeSensor s i) := by
  unfold takeSensor
  repeat' first
    | with_reducible assumption
    | (extract_lets +onlyGivenNames y; refine (fun (_ : P y) => ?_) ?_; (on_goal 1 => clear_value y); (on_goal 2 => subst y))
    | (extract_lets +onlyGivenNames y; clear_value y) | with_reducible apply State.setFld_keeps hP
    | with_reducible apply State.setIsl_keeps hP | with_reducible apply keeps_ite

theorem enterStop_keeps {P : State → Prop} (hP : Closed P) (s : State) (a : ℕ) (cause : ℕ) (hs : P s) :
    P (enterStop s a cause) := by
  unfold enterStop
  repeat' first
    | with_reducible assumption
    | (extract_lets +onlyGivenNames y; refine (fun (_ : P y) => ?_) ?_; (on_goal 1 => clear_value y); (on_goal 2 => subst y))
    | (extract_lets +onlyGivenNames y; clear_value y) | with_reducible apply State.count_keeps hP
    | with_reducible apply raiseBoth_keeps hP | with_reducible apply setSsm_keeps hP
    | with_reducible apply keeps_ite

theorem armOutcome_keeps {P : State → Prop} (hP : Closed P) (s : State) (a : ℕ) (m : ℕ → Option (ℤ × ℕ)) (v : ℕ) (dMin : ℕ) (test : Bool) (hs : P s) :
    P (armOutcome s a m v dMin test) := by
  unfold armOutcome
  repeat' first
    | with_reducible assumption
    | (extract_lets +onlyGivenNames y; refine (fun (_ : P y) => ?_) ?_; (on_goal 1 => clear_value y); (on_goal 2 => subst y))
    | (extract_lets +onlyGivenNames y; refine (fun (fy1 : ∀ t, P t → P (y t)) => ?_) ?_; (on_goal 1 => clear_value y); (on_goal 2 => (subst y; intro t ht; beta_reduce)))
    | (extract_lets +onlyGivenNames y; refine (fun (fy2 : ∀ t r, P t → P (y t r)) => ?_) ?_; (on_goal 1 => clear_value y); (on_goal 2 => (subst y; intro t r ht; beta_reduce)))
    | (extract_lets +onlyGivenNames y; refine (fun (fy3 : ∀ t r q, P t → P (y t r q)) => ?_) ?_; (on_goal 1 => clear_value y); (on_goal 2 => (subst y; intro t r q ht; beta_reduce)))
    | (extract_lets +onlyGivenNames y; refine (fun (fy4 : ∀ t r q p, P t → P (y t r q p)) => ?_) ?_; (on_goal 1 => clear_value y); (on_goal 2 => (subst y; intro t r q p ht; beta_reduce)))
    | (extract_lets +onlyGivenNames y; clear_value y) | with_reducible apply fy1 | with_reducible apply fy2
    | with_reducible apply fy3 | with_reducible apply fy4 | with_reducible apply State.setFld_keeps hP
    | with_reducible apply State.setFldS_keeps hP | with_reducible apply State.putFlag_keeps hP
    | with_reducible apply setSsm_keeps hP | with_reducible apply enterStop_keeps hP
    | with_reducible apply keeps_ite | split

theorem armUnmonitored_keeps {P : State → Prop} (hP : Closed P) (s : State) (a : ℕ) (v : ℕ) (test : Bool) (hs : P s) :
    P (armUnmonitored s a v test) := by
  unfold armUnmonitored
  repeat' first
    | with_reducible assumption
    | (extract_lets +onlyGivenNames y; refine (fun (_ : P y) => ?_) ?_; (on_goal 1 => clear_value y); (on_goal 2 => subst y))
    | (extract_lets +onlyGivenNames y; clear_value y) | with_reducible apply State.setFld_keeps hP
    | with_reducible apply setSsm_keeps hP

theorem noteDiffs_keeps {P : State → Prop} (hP : Closed P) (s : State) (items : List ℕ) (hs : P s) :
    P (noteDiffs s items) := by
  unfold noteDiffs
  repeat' first
    | with_reducible assumption
    | (extract_lets +onlyGivenNames y; refine (fun (_ : P y) => ?_) ?_; (on_goal 1 => clear_value y); (on_goal 2 => subst y))
    | (extract_lets +onlyGivenNames y; clear_value y) | with_reducible apply State.count_keeps hP
    | with_reducible apply State.setIsl_keeps hP | with_reducible apply raiseBoth_keeps hP
    | with_reducible apply islandFault_keeps hP | with_reducible apply keeps_ite | split

theorem monitorArm_keeps {P : State → Prop} (hP : Closed P) (s : State) (sx : IslandSample) (sy : IslandSample) (a : ℕ) (test : Bool) (hs : P s) :
    P (monitorArm s sx sy a test).1 := by
  unfold monitorArm
  repeat' first
    | with_reducible assumption
    | (extract_lets +onlyGivenNames y; refine (fun (_ : P y) => ?_) ?_; (on_goal 1 => clear_value y); (on_goal 2 => subst y))
    | (extract_lets +onlyGivenNames y; refine (fun (fy1 : ∀ t, P t → P (y t)) => ?_) ?_; (on_goal 1 => clear_value y); (on_goal 2 => (subst y; intro t ht; beta_reduce)))
    | (extract_lets +onlyGivenNames y; refine (fun (fy2 : ∀ t r, P t → P (y t r)) => ?_) ?_; (on_goal 1 => clear_value y); (on_goal 2 => (subst y; intro t r ht; beta_reduce)))
    | (extract_lets +onlyGivenNames y; refine (fun (fy3 : ∀ t r q, P t → P (y t r q)) => ?_) ?_; (on_goal 1 => clear_value y); (on_goal 2 => (subst y; intro t r q ht; beta_reduce)))
    | (extract_lets +onlyGivenNames y; refine (fun (fy4 : ∀ t r q p, P t → P (y t r q p)) => ?_) ?_; (on_goal 1 => clear_value y); (on_goal 2 => (subst y; intro t r q p ht; beta_reduce)))
    | (extract_lets +onlyGivenNames y; clear_value y) | with_reducible apply fy1 | with_reducible apply fy2
    | with_reducible apply fy3 | with_reducible apply fy4 | with_reducible apply setSsm_keeps hP
    | with_reducible apply armOutcome_keeps hP | with_reducible apply armUnmonitored_keeps hP
    | with_reducible apply keeps_ite | with_reducible apply keeps_ite2 | with_reducible apply keeps_ite1

theorem reducedGroup_keeps {P : State → Prop} (hP : Closed P) (s : State) (sx : IslandSample) (sy : IslandSample) (g : ℕ) (hs : P s) :
    P (reducedGroup s sx sy g) := by
  unfold reducedGroup
  repeat' first
    | with_reducible assumption
    | (extract_lets +onlyGivenNames y; refine (fun (_ : P y) => ?_) ?_; (on_goal 1 => clear_value y); (on_goal 2 => subst y))
    | (extract_lets +onlyGivenNames y; refine (fun (fy1 : ∀ t, P t → P (y t)) => ?_) ?_; (on_goal 1 => clear_value y); (on_goal 2 => (subst y; intro t ht; beta_reduce)))
    | (extract_lets +onlyGivenNames y; refine (fun (fy2 : ∀ t r, P t → P (y t r)) => ?_) ?_; (on_goal 1 => clear_value y); (on_goal 2 => (subst y; intro t r ht; beta_reduce)))
    | (extract_lets +onlyGivenNames y; refine (fun (fy3 : ∀ t r q, P t → P (y t r q)) => ?_) ?_; (on_goal 1 => clear_value y); (on_goal 2 => (subst y; intro t r q ht; beta_reduce)))
    | (extract_lets +onlyGivenNames y; refine (fun (fy4 : ∀ t r q p, P t → P (y t r q p)) => ?_) ?_; (on_goal 1 => clear_value y); (on_goal 2 => (subst y; intro t r q p ht; beta_reduce)))
    | (extract_lets +onlyGivenNames y; clear_value y) | with_reducible apply fy1 | with_reducible apply fy2
    | with_reducible apply fy3 | with_reducible apply fy4 | with_reducible apply setGroup_keeps hP

theorem stopTestCycle_keeps {P : State → Prop} (hP : Closed P) (s : State) (sx : IslandSample) (sy : IslandSample) (hs : P s) :
    P (stopTestCycle s sx sy) := by
  unfold stopTestCycle
  repeat' first
    | with_reducible assumption
    | (extract_lets +onlyGivenNames y; refine (fun (_ : P y) => ?_) ?_; (on_goal 1 => clear_value y); (on_goal 2 => subst y))
    | (extract_lets +onlyGivenNames y; clear_value y) | with_reducible apply State.setFld_keeps hP
    | with_reducible apply State.setFlag_keeps hP | with_reducible apply State.putFlag_keeps hP
    | with_reducible apply State.setIsl_keeps hP | with_reducible apply setSsm_keeps hP
    | with_reducible apply keeps_ite | split

theorem ssmTest_keeps {P : State → Prop} (hP : Closed P) (s : State) (a : ℕ) (hs : P s) :
    P (ssmTest s a) := by
  unfold ssmTest
  repeat' first
    | with_reducible assumption
    | (extract_lets +onlyGivenNames y; refine (fun (_ : P y) => ?_) ?_; (on_goal 1 => clear_value y); (on_goal 2 => subst y))
    | (extract_lets +onlyGivenNames y; clear_value y) | with_reducible apply State.setFld_keeps hP
    | with_reducible apply State.setFlag_keeps hP | with_reducible apply State.putFlag_keeps hP
    | with_reducible apply State.setIsl_keeps hP

theorem dwellExpire_keeps {P : State → Prop} (hP : Closed P) (s : State) (a : ℕ) (hs : P s) :
    P (dwellExpire s a) := by
  unfold dwellExpire
  repeat' first
    | with_reducible assumption
    | (extract_lets +onlyGivenNames y; refine (fun (_ : P y) => ?_) ?_; (on_goal 1 => clear_value y); (on_goal 2 => subst y))
    | (extract_lets +onlyGivenNames y; clear_value y) | with_reducible apply State.putFlag_keeps hP
    | with_reducible apply setSsm_keeps hP | with_reducible apply keeps_ite | split

theorem groupCycle_keeps {P : State → Prop} (hP : Closed P) (s : State) (g : ℕ) (hs : P s) :
    P (groupCycle s g) := by
  unfold groupCycle
  repeat' first
    | with_reducible assumption
    | (extract_lets +onlyGivenNames y; refine (fun (_ : P y) => ?_) ?_; (on_goal 1 => clear_value y); (on_goal 2 => subst y))
    | (extract_lets +onlyGivenNames y; clear_value y) | with_reducible apply State.putFlag_keeps hP
    | with_reducible apply setGroup_keeps hP | with_reducible apply updateGroup_keeps hP
    | with_reducible apply rampDone_keeps hP

theorem monitorStep_keeps {P : State → Prop} (hP : Closed P) (sx sy : IslandSample) (x : State × List ℕ) (a : ℕ) (hs : P x.1) :
    P (monitorStep sx sy x a).1 := by
  exact monitorArm_keeps hP _ _ _ _ _ hs

theorem monitorArms_keeps {P : State → Prop} (hP : Closed P) (s : State) (sx sy : IslandSample) (hs : P s) :
    P (monitorArms s sx sy).1 := by
  exact keeps_foldl1 _ (fun x a hx => monitorStep_keeps hP sx sy x a hx) _ _ hs

theorem safetyCycle_keeps {P : State → Prop} (hP : Closed P) (s : State) (xNs : ℕ) (errX errY : List IslandErr) (read : ℕ) (hs : P s) :
    P (safetyCycle s xNs errX errY read) := by
  unfold safetyCycle
  repeat' first
    | with_reducible assumption
    | (extract_lets +onlyGivenNames y; refine (fun (_ : P y) => ?_) ?_; (on_goal 1 => clear_value y); (on_goal 2 => subst y))
    | (extract_lets +onlyGivenNames y; refine (fun (_ : P y.1) => ?_) ?_; (on_goal 1 => clear_value y); (on_goal 2 => subst y))
    | (extract_lets +onlyGivenNames y; clear_value y) | with_reducible apply State.setFld_keeps hP
    | with_reducible apply State.count_keeps hP | with_reducible apply State.setIsl_keeps hP
    | with_reducible apply State.setConn_keeps hP | with_reducible apply driveOutputs_keeps hP
    | with_reducible apply readbackCheck_keeps hP | with_reducible apply islandFault_keeps hP
    | with_reducible apply keepPlaces_keeps hP | with_reducible apply comparator_keeps hP
    | with_reducible apply evalFunc_keeps hP | with_reducible apply evalLock_keeps hP
    | with_reducible apply switchCycle_keeps hP | with_reducible apply takeSensor_keeps hP
    | with_reducible apply noteDiffs_keeps hP | with_reducible apply reducedGroup_keeps hP
    | with_reducible apply stopTestCycle_keeps hP | with_reducible apply groupCycle_keeps hP
    | with_reducible apply monitorArms_keeps hP | (with_reducible apply keeps_foldl; intro _ _ _)
    | with_reducible apply keeps_ite

theorem smsgClear_keeps {P : State → Prop} (hP : Closed P) (s : State) (hs : P s) :
    P (smsgClear s) := by
  unfold smsgClear
  repeat' first
    | with_reducible assumption | with_reducible apply State.setWordN_keeps hP
    | (with_reducible apply keeps_foldl; intro _ _ _)

theorem islandOverTemp_keeps {P : State → Prop} (hP : Closed P) (s : State) (hs : P s) :
    P (islandOverTemp s) := by
  unfold islandOverTemp
  repeat' first
    | with_reducible assumption
    | (extract_lets +onlyGivenNames y; refine (fun (_ : P y) => ?_) ?_; (on_goal 1 => clear_value y); (on_goal 2 => subst y))
    | (extract_lets +onlyGivenNames y; refine (fun (_ : P y.2) => ?_) ?_; (on_goal 1 => clear_value y); (on_goal 2 => subst y))
    | (extract_lets +onlyGivenNames y; clear_value y) | with_reducible apply State.takeFree_keeps hP
    | with_reducible apply islandFault_keeps hP | with_reducible apply keeps_ite

theorem mirrorSend_keeps {P : State → Prop} (hP : Closed P) (s : State) (h : Half) (n : ℕ) (hs : P s) :
    P (mirrorSend s h n) := by
  unfold mirrorSend
  repeat' first
    | with_reducible assumption
    | (extract_lets +onlyGivenNames y; refine (fun (_ : P y) => ?_) ?_; (on_goal 1 => clear_value y); (on_goal 2 => subst y))
    | (extract_lets +onlyGivenNames y; clear_value y) | with_reducible apply State.setPen_keeps hP

theorem putRegs_keeps {P : State → Prop} (hP : Closed P) (b : ℕ) (x1 : List (ℕ × Word)) (x2 : State) (hs : P x2) :
    P (putRegs b x1 x2) := by
  induction x1 generalizing b x2 with
  | nil =>
    unfold putRegs
    repeat' first | with_reducible assumption
  | cons z0 l0 ih =>
    unfold putRegs
    repeat' first | with_reducible assumption | with_reducible apply ih | with_reducible apply State.setWord_keeps hP

theorem mirrorApply_keeps {P : State → Prop} (hP : Closed P) (s : State) (h : Half) (hs : P s) :
    P (mirrorApply s h) := by
  unfold mirrorApply
  repeat' first
    | with_reducible assumption
    | (extract_lets +onlyGivenNames y; refine (fun (_ : P y) => ?_) ?_; (on_goal 1 => clear_value y); (on_goal 2 => subst y))
    | (extract_lets +onlyGivenNames y; clear_value y) | with_reducible apply State.onHalf_keeps hP
    | with_reducible apply State.setPen_keeps hP | with_reducible apply putRegs_keeps hP | split
    | with_reducible apply hP.put | with_reducible apply hP.byte | with_reducible apply hP.drop
    | with_reducible apply hP.wipe | with_reducible apply hP.keepRegs

theorem mirrorGap_keeps {P : State → Prop} (hP : Closed P) (s : State) (h : Half) (hs : P s) :
    P (mirrorGap s h) := by
  unfold mirrorGap
  repeat' first | with_reducible assumption | with_reducible apply State.countIf_keeps hP | split

theorem reportBytes_keeps {P : State → Prop} (hP : Closed P) (s : State) (h : Half) (t : SelfTest) (hs : P s) :
    P (reportBytes s h t).2 := by
  unfold reportBytes
  repeat' first
    | with_reducible assumption
    | (extract_lets +onlyGivenNames y; refine (fun (_ : P y) => ?_) ?_; (on_goal 1 => clear_value y); (on_goal 2 => subst y))
    | (extract_lets +onlyGivenNames y; refine (fun (_ : P y.2) => ?_) ?_; (on_goal 1 => clear_value y); (on_goal 2 => subst y))
    | (extract_lets +onlyGivenNames y; clear_value y) | with_reducible apply State.takeFree_keeps hP | split
    | (with_reducible refine keeps_pair22 (by with_reducible assumption) ?_)
    | (with_reducible refine keeps_pair2 (by with_reducible assumption) ?_)

theorem solverReset_keeps {P : State → Prop} (hP : Closed P) (s : State) (h : Half) (hs : P s) :
    P (solverReset s h) := by
  unfold solverReset
  repeat' first
    | with_reducible assumption | with_reducible apply channelReset_keeps hP
    | (with_reducible apply keeps_foldl; intro _ _ _)

theorem clearHalf_keeps {P : State → Prop} (hP : Closed P) (s : State) (h : Half) (hs : P s) :
    P (clearHalf s h) := by
  unfold clearHalf
  repeat' first
    | with_reducible assumption
    | (extract_lets +onlyGivenNames y; refine (fun (_ : P y) => ?_) ?_; (on_goal 1 => clear_value y); (on_goal 2 => subst y))
    | (extract_lets +onlyGivenNames y; clear_value y) | with_reducible apply State.resetRegs_keeps hP
    | with_reducible apply State.setHalf_keeps hP | with_reducible apply State.setPen_keeps hP
    | with_reducible apply noRingWindow_keeps hP | with_reducible apply reloadScheds_keeps hP
    | with_reducible apply canStart_keeps hP | with_reducible apply solverReset_keeps hP
    | (with_reducible apply keeps_foldl; intro _ _ _)

theorem selfTestLoad_keeps {P : State → Prop} (hP : Closed P) (s : State) (h : Half) (mask : ℕ) (hs : P s) :
    P (selfTestLoad s h mask) := by
  unfold selfTestLoad
  repeat' first
    | with_reducible assumption
    | (extract_lets +onlyGivenNames y; refine (fun (_ : P y) => ?_) ?_; (on_goal 1 => clear_value y); (on_goal 2 => subst y))
    | (extract_lets +onlyGivenNames y; clear_value y) | with_reducible apply State.setSolver_keeps hP

theorem selfTestCycle_keeps {P : State → Prop} (hP : Closed P) (s : State) (h : Half) (t : SelfTest) (hs : P s) :
    P (selfTestCycle s h t) := by
  unfold selfTestCycle
  repeat' first
    | with_reducible assumption
    | (extract_lets +onlyGivenNames y; refine (fun (_ : P y) => ?_) ?_; (on_goal 1 => clear_value y); (on_goal 2 => subst y))
    | (extract_lets +onlyGivenNames y; refine (fun (_ : P y.2) => ?_) ?_; (on_goal 1 => clear_value y); (on_goal 2 => subst y))
    | (extract_lets +onlyGivenNames y; clear_value y) | with_reducible apply State.setMemBytes_keeps hP
    | with_reducible apply State.setWords_keeps hP | with_reducible apply State.takeFree_keeps hP
    | with_reducible apply raiseBoth_keeps hP | with_reducible apply State.setPen_keeps hP
    | with_reducible apply rehFail_keeps hP | with_reducible apply noteSlack_keeps hP
    | with_reducible apply reportBytes_keeps hP | with_reducible apply clearHalf_keeps hP
    | with_reducible apply selfTestLoad_keeps hP | with_reducible apply keeps_ite

theorem rackRelease_keeps {P : State → Prop} (hP : Closed P) (s : State) (hs : P s) :
    P (rackRelease s) := by
  unfold rackRelease
  repeat' first
    | with_reducible assumption
    | (extract_lets +onlyGivenNames y; refine (fun (_ : P y) => ?_) ?_; (on_goal 1 => clear_value y); (on_goal 2 => subst y))
    | (extract_lets +onlyGivenNames y; clear_value y) | with_reducible apply State.putFlag_keeps hP
    | with_reducible apply keeps_ite | split | with_reducible apply hP.put | with_reducible apply hP.byte
    | with_reducible apply hP.drop | with_reducible apply hP.wipe | with_reducible apply hP.keepRegs
    | with_reducible apply hP.keepMem | with_reducible apply hP.other

theorem noteMove_keeps {P : State → Prop} (hP : Closed P) (s : State) (hs : P s) :
    P (noteMove s) := by
  unfold noteMove
  repeat' first
    | with_reducible assumption
    | (extract_lets +onlyGivenNames y; refine (fun (_ : P y) => ?_) ?_; (on_goal 1 => clear_value y); (on_goal 2 => subst y))
    | (extract_lets +onlyGivenNames y; clear_value y) | with_reducible apply State.setPen_keeps hP | split

theorem closeGates_keeps {P : State → Prop} (hP : Closed P) (s : State) (hs : P s) :
    P (closeGates s) := by
  unfold closeGates
  repeat' first
    | with_reducible assumption | with_reducible apply State.putFlag_keeps hP
    | with_reducible apply rackRelease_keeps hP | with_reducible apply noteMove_keeps hP

theorem penMove_keeps {P : State → Prop} (hP : Closed P) (s : State) (dst : Half) (cause : ℕ) (hs : P s) :
    P (penMove s dst cause) := by
  unfold penMove
  repeat' first
    | with_reducible assumption
    | (extract_lets +onlyGivenNames y; refine (fun (_ : P y) => ?_) ?_; (on_goal 1 => clear_value y); (on_goal 2 => subst y))
    | (extract_lets +onlyGivenNames y; clear_value y) | with_reducible apply State.setFld_keeps hP
    | with_reducible apply State.setFlag_keeps hP | with_reducible apply State.count_keeps hP
    | with_reducible apply raiseBoth_keeps hP | with_reducible apply mramCount_keeps hP
    | with_reducible apply canTakeover_keeps hP | with_reducible apply noteMove_keeps hP
    | with_reducible apply keeps_ite | split | with_reducible apply hP.put | with_reducible apply hP.byte
    | with_reducible apply hP.drop | with_reducible apply hP.wipe | with_reducible apply hP.keepRegs
    | with_reducible apply hP.keepMem | with_reducible apply hP.other

theorem penTrigger_keeps {P : State → Prop} (hP : Closed P) (s : State) (h : Half) (cause : ℕ) (hs : P s) :
    P (penTrigger s h cause) := by
  unfold penTrigger
  repeat' first
    | with_reducible assumption | with_reducible apply State.count_keeps hP | with_reducible apply faultLog_keeps hP
    | with_reducible apply closeGates_keeps hP | with_reducible apply penMove_keeps hP
    | with_reducible apply keeps_ite

theorem heartbeatMissing_keeps {P : State → Prop} (hP : Closed P) (s : State) (h : Half) (hs : P s) :
    P (heartbeatMissing s h) := by
  unfold heartbeatMissing
  repeat' first
    | with_reducible assumption
    | (extract_lets +onlyGivenNames y; refine (fun (_ : P y) => ?_) ?_; (on_goal 1 => clear_value y); (on_goal 2 => subst y))
    | (extract_lets +onlyGivenNames y; clear_value y) | with_reducible apply penTrigger_keeps hP
    | with_reducible apply keeps_ite

theorem heartbeat_keeps {P : State → Prop} (hP : Closed P) (s : State) (h : Half) (n : ℕ) (hs : P s) :
    P (heartbeat s h n) := by
  unfold heartbeat
  repeat' first
    | with_reducible assumption
    | (extract_lets +onlyGivenNames y; refine (fun (_ : P y) => ?_) ?_; (on_goal 1 => clear_value y); (on_goal 2 => subst y))
    | (extract_lets +onlyGivenNames y; clear_value y) | with_reducible apply State.setPen_keeps hP

theorem fatalFault_keeps {P : State → Prop} (hP : Closed P) (s : State) (h : Half) (hs : P s) :
    P (fatalFault s h) := by
  unfold fatalFault
  repeat' first | with_reducible assumption | with_reducible apply penTrigger_keeps hP

theorem rehDone_keeps {P : State → Prop} (hP : Closed P) (s : State) (hs : P s) :
    P (rehDone s) := by
  unfold rehDone
  repeat' first
    | with_reducible assumption
    | (extract_lets +onlyGivenNames y; refine (fun (_ : P y) => ?_) ?_; (on_goal 1 => clear_value y); (on_goal 2 => subst y))
    | (extract_lets +onlyGivenNames y; clear_value y) | with_reducible apply State.setFld_keeps hP
    | with_reducible apply State.setPen_keeps hP | with_reducible apply keeps_ite

theorem rehMoved_keeps {P : State → Prop} (hP : Closed P) (s : State) (modul : Bool) (from_ : Half) (hs : P s) :
    P (rehMoved s modul from_) := by
  unfold rehMoved
  repeat' first
    | with_reducible assumption
    | (extract_lets +onlyGivenNames y; refine (fun (_ : P y) => ?_) ?_; (on_goal 1 => clear_value y); (on_goal 2 => subst y))
    | (extract_lets +onlyGivenNames y; clear_value y) | with_reducible apply State.setFld_keeps hP
    | with_reducible apply State.setPen_keeps hP | with_reducible apply rehDone_keeps hP
    | with_reducible apply keeps_ite

theorem swapRefused_keeps {P : State → Prop} (hP : Closed P) (s : State) (modul : Bool) (hs : P s) :
    P (swapRefused s modul) := by
  unfold swapRefused
  repeat' first
    | with_reducible assumption
    | (extract_lets +onlyGivenNames y; refine (fun (_ : P y) => ?_) ?_; (on_goal 1 => clear_value y); (on_goal 2 => subst y))
    | (extract_lets +onlyGivenNames y; clear_value y) | with_reducible apply State.setFld_keeps hP
    | with_reducible apply State.putFlag_keeps hP | with_reducible apply State.count_keeps hP
    | with_reducible apply State.setPen_keeps hP | with_reducible apply keeps_ite

theorem moduleSwap_keeps {P : State → Prop} (hP : Closed P) (s : State) (hs : P s) :
    P (moduleSwap s) := by
  unfold moduleSwap
  repeat' first
    | with_reducible assumption | with_reducible apply rackRelease_keeps hP | with_reducible apply rehMoved_keeps hP
    | with_reducible apply swapRefused_keeps hP | with_reducible apply keeps_ite | split

theorem requestSwap_keeps {P : State → Prop} (hP : Closed P) (s : State) (cause : ℕ) (hs : P s) :
    P (requestSwap s cause) := by
  unfold requestSwap
  repeat' first
    | with_reducible assumption
    | (extract_lets +onlyGivenNames y; refine (fun (_ : P y) => ?_) ?_; (on_goal 1 => clear_value y); (on_goal 2 => subst y))
    | (extract_lets +onlyGivenNames y; clear_value y) | with_reducible apply State.setPen_keeps hP
    | with_reducible apply swapRefused_keeps hP | split

theorem penCmd_keeps {P : State → Prop} (hP : Closed P) (s : State) (v : ℕ) (hs : P s) :
    P (penCmd s v) := by
  unfold penCmd
  repeat' first
    | with_reducible assumption
    | (extract_lets +onlyGivenNames y; refine (fun (_ : P y) => ?_) ?_; (on_goal 1 => clear_value y); (on_goal 2 => subst y))
    | (extract_lets +onlyGivenNames y; clear_value y) | with_reducible apply State.setWordN_keeps hP
    | with_reducible apply State.setFld_keeps hP | with_reducible apply State.count_keeps hP
    | with_reducible apply moduleSwap_keeps hP | with_reducible apply requestSwap_keeps hP
    | with_reducible apply keeps_ite

theorem swapNow_keeps {P : State → Prop} (hP : Closed P) (s : State) (hs : P s) :
    P (swapNow s) := by
  unfold swapNow
  repeat' first
    | with_reducible assumption
    | (extract_lets +onlyGivenNames y; refine (fun (_ : P y) => ?_) ?_; (on_goal 1 => clear_value y); (on_goal 2 => subst y))
    | (extract_lets +onlyGivenNames y; clear_value y) | with_reducible apply passUntil_keeps hP
    | with_reducible apply State.setPen_keeps hP | with_reducible apply penMove_keeps hP
    | with_reducible apply rehMoved_keeps hP | with_reducible apply swapRefused_keeps hP
    | with_reducible apply moduleSwap_keeps hP | with_reducible apply keeps_ite | split

theorem rehearsalEnd_keeps {P : State → Prop} (hP : Closed P) (s : State) (hs : P s) :
    P (rehearsalEnd s) := by
  unfold rehearsalEnd
  repeat' first
    | with_reducible assumption
    | (extract_lets +onlyGivenNames y; refine (fun (_ : P y) => ?_) ?_; (on_goal 1 => clear_value y); (on_goal 2 => subst y))
    | (extract_lets +onlyGivenNames y; clear_value y) | with_reducible apply State.setFld_keeps hP
    | with_reducible apply State.setPen_keeps hP | with_reducible apply rehReturn_keeps hP
    | with_reducible apply keeps_ite | split

theorem arbiterFail_keeps {P : State → Prop} (hP : Closed P) (s : State) (hs : P s) :
    P (arbiterFail s) := by
  unfold arbiterFail
  repeat' first
    | with_reducible assumption
    | (extract_lets +onlyGivenNames y; refine (fun (_ : P y) => ?_) ?_; (on_goal 1 => clear_value y); (on_goal 2 => subst y))
    | (extract_lets +onlyGivenNames y; clear_value y) | with_reducible apply State.setFlag_keeps hP
    | with_reducible apply raiseBoth_keeps hP | with_reducible apply closeGates_keeps hP

theorem bridgeArm_keeps {P : State → Prop} (hP : Closed P) (s : State) (h : Half) (j : ℕ) (tag : ℕ) (hs : P s) :
    P (bridgeArm s h j tag) := by
  unfold bridgeArm
  repeat' first
    | with_reducible assumption
    | (extract_lets +onlyGivenNames y; refine (fun (_ : P y) => ?_) ?_; (on_goal 1 => clear_value y); (on_goal 2 => subst y))
    | (extract_lets +onlyGivenNames y; clear_value y) | with_reducible apply stepScales_keeps hP
    | with_reducible apply endSegment_keeps hP | with_reducible apply movePath_keeps hP
    | with_reducible apply keeps_ite

theorem bridge_keeps {P : State → Prop} (hP : Closed P) (s : State) (h : Half) (x2 : ℕ) (hs : P s) :
    P (bridge s h x2) := by
  induction x2 generalizing s h with
  | zero =>
    unfold bridge
    repeat' first | with_reducible assumption
  | succ n0 ih =>
    unfold bridge
    repeat' first
      | with_reducible assumption
      | (extract_lets +onlyGivenNames y; refine (fun (_ : P y) => ?_) ?_; (on_goal 1 => clear_value y); (on_goal 2 => subst y))
      | (extract_lets +onlyGivenNames y; clear_value y) | with_reducible apply ih
      | with_reducible apply profileAxis_keeps hP | with_reducible apply bridgeArm_keeps hP
      | (with_reducible apply keeps_foldl; intro _ _ _)

theorem resumeAxis_keeps {P : State → Prop} (hP : Closed P) (s : State) (h : Half) (k : ℕ) (hs : P s) :
    P (resumeAxis s h k) := by
  unfold resumeAxis
  repeat' first
    | with_reducible assumption
    | (extract_lets +onlyGivenNames y; refine (fun (_ : P y) => ?_) ?_; (on_goal 1 => clear_value y); (on_goal 2 => subst y))
    | (extract_lets +onlyGivenNames y; clear_value y) | with_reducible apply State.setCe_keeps hP
    | with_reducible apply keeps_ite

theorem partnerZones_keeps {P : State → Prop} (hP : Closed P) (s : State) (h : Half) (hs : P s) :
    P (partnerZones s h) := by
  unfold partnerZones
  repeat' first
    | with_reducible assumption
    | (extract_lets +onlyGivenNames y; refine (fun (_ : P y) => ?_) ?_; (on_goal 1 => clear_value y); (on_goal 2 => subst y))
    | (extract_lets +onlyGivenNames y; clear_value y) | with_reducible apply State.setGov_keeps hP | split

theorem dropSelfTest_keeps {P : State → Prop} (hP : Closed P) (s : State) (h : Half) (hs : P s) :
    P (dropSelfTest s h) := by
  unfold dropSelfTest
  repeat' first
    | with_reducible assumption | with_reducible apply channelReset_keeps hP
    | (with_reducible apply keeps_foldl; intro _ _ _) | with_reducible apply keeps_ite

theorem resumeAt_keeps {P : State → Prop} (hP : Closed P) (s : State) (h : Half) (hs : P s) :
    P (resumeAt s h) := by
  unfold resumeAt
  repeat' first
    | with_reducible assumption
    | (extract_lets +onlyGivenNames y; refine (fun (_ : P y) => ?_) ?_; (on_goal 1 => clear_value y); (on_goal 2 => subst y))
    | (extract_lets +onlyGivenNames y; clear_value y) | with_reducible apply State.setServo_keeps hP
    | with_reducible apply State.setGov_keeps hP | with_reducible apply acqTakeover_keeps hP
    | with_reducible apply State.setPen_keeps hP | with_reducible apply paceRail_keeps hP
    | with_reducible apply obsRestart_keeps hP | with_reducible apply resumeZones_keeps hP
    | with_reducible apply bridge_keeps hP | with_reducible apply resumeAxis_keeps hP
    | with_reducible apply partnerZones_keeps hP | with_reducible apply dropSelfTest_keeps hP
    | (with_reducible apply keeps_foldl; intro _ _ _) | with_reducible apply keeps_ite | split

theorem takeoverDone_keeps {P : State → Prop} (hP : Closed P) (s : State) (h : Half) (hs : P s) :
    P (takeoverDone s h) := by
  unfold takeoverDone
  repeat' first
    | with_reducible assumption
    | (extract_lets +onlyGivenNames y; refine (fun (_ : P y) => ?_) ?_; (on_goal 1 => clear_value y); (on_goal 2 => subst y))
    | (extract_lets +onlyGivenNames y; clear_value y) | with_reducible apply raiseEvt_keeps hP
    | with_reducible apply State.setPen_keeps hP | with_reducible apply keeps_ite

theorem takeHeld_keeps {P : State → Prop} (hP : Closed P) (s : State) (hs : P s) :
    P (takeHeld s).2 := by
  unfold takeHeld
  repeat' first
    | with_reducible assumption
    | (extract_lets +onlyGivenNames y; refine (fun (_ : P y) => ?_) ?_; (on_goal 1 => clear_value y); (on_goal 2 => subst y))
    | (extract_lets +onlyGivenNames y; clear_value y) | with_reducible apply hP.put | with_reducible apply hP.byte
    | with_reducible apply hP.drop | with_reducible apply hP.wipe | with_reducible apply hP.keepRegs
    | with_reducible apply hP.keepMem | with_reducible apply hP.other

theorem rackTake_keeps {P : State → Prop} (hP : Closed P) (s : State) (released : Bool) (hs : P s) :
    P (rackTake s released) := by
  unfold rackTake
  repeat' first
    | with_reducible assumption
    | (extract_lets +onlyGivenNames y; refine (fun (_ : P y) => ?_) ?_; (on_goal 1 => clear_value y); (on_goal 2 => subst y))
    | (extract_lets +onlyGivenNames y; clear_value y) | with_reducible apply State.setFld_keeps hP
    | with_reducible apply State.setFlag_keeps hP | with_reducible apply State.count_keeps hP
    | with_reducible apply raiseBoth_keeps hP | with_reducible apply mramCount_keeps hP
    | with_reducible apply passUntil_keeps hP | with_reducible apply takeEpoch_keeps hP
    | (with_reducible apply keeps_foldl; intro _ _ _) | with_reducible apply keeps_ite | split
    | with_reducible apply hP.put | with_reducible apply hP.byte | with_reducible apply hP.drop
    | with_reducible apply hP.wipe | with_reducible apply hP.keepRegs | with_reducible apply hP.keepMem
    | with_reducible apply hP.other

theorem pairState_keeps {P : State → Prop} (hP : Closed P) (s : State) (x : ℕ) (hs : P s) :
    P (pairState s x) := by
  unfold pairState
  repeat' first
    | with_reducible assumption
    | (extract_lets +onlyGivenNames y; refine (fun (_ : P y) => ?_) ?_; (on_goal 1 => clear_value y); (on_goal 2 => subst y))
    | (extract_lets +onlyGivenNames y; clear_value y) | with_reducible apply State.setFld_keeps hP
    | with_reducible apply State.putFlag_keeps hP | with_reducible apply raiseBoth_keeps hP
    | with_reducible apply keeps_ite

theorem rackElect_keeps {P : State → Prop} (hP : Closed P) (s : State) (num : ℕ) (peerHolds : Bool) (hs : P s) :
    P (rackElect s num peerHolds) := by
  unfold rackElect
  repeat' first
    | with_reducible assumption | with_reducible apply State.setFlag_keeps hP
    | with_reducible apply raiseBoth_keeps hP | with_reducible apply keeps_ite

theorem pairCheck_keeps {P : State → Prop} (hP : Closed P) (s : State) (num : ℕ) (cl : ℕ) (crc : ℕ) (hs : P s) :
    P (pairCheck s num cl crc) := by
  unfold pairCheck
  repeat' first
    | with_reducible assumption | with_reducible apply pairState_keeps hP | with_reducible apply rackElect_keeps hP
    | with_reducible apply keeps_ite

theorem linkFrame_keeps {P : State → Prop} (hP : Closed P) (s : State) (lane : ℕ) (num : ℕ) (cl : ℕ) (rack : Bool) (crc : ℕ) (hs : P s) :
    P (linkFrame s lane num cl rack crc) := by
  unfold linkFrame
  repeat' first
    | with_reducible assumption
    | (extract_lets +onlyGivenNames y; refine (fun (_ : P y) => ?_) ?_; (on_goal 1 => clear_value y); (on_goal 2 => subst y))
    | (extract_lets +onlyGivenNames y; clear_value y) | with_reducible apply State.setFld_keeps hP
    | with_reducible apply State.setFlag_keeps hP | with_reducible apply State.putFlag_keeps hP
    | with_reducible apply State.setPen_keeps hP | with_reducible apply pairState_keeps hP
    | with_reducible apply keeps_ite

theorem laneDown_keeps {P : State → Prop} (hP : Closed P) (s : State) (lane : ℕ) (hs : P s) :
    P (laneDown s lane) := by
  unfold laneDown
  repeat' first
    | with_reducible assumption
    | (extract_lets +onlyGivenNames y; refine (fun (_ : P y) => ?_) ?_; (on_goal 1 => clear_value y); (on_goal 2 => subst y))
    | (extract_lets +onlyGivenNames y; clear_value y) | with_reducible apply State.putFlag_keeps hP
    | with_reducible apply State.count_keeps hP | with_reducible apply pairState_keeps hP
    | with_reducible apply keeps_ite

theorem mirrorFragment_keeps {P : State → Prop} (hP : Closed P) (s : State) (num : ℕ) (idx : ℕ) (count : ℕ) (b : List Byte) (hs : P s) :
    P (mirrorFragment s num idx count b) := by
  unfold mirrorFragment
  repeat' first
    | with_reducible assumption
    | (extract_lets +onlyGivenNames y; refine (fun (_ : P y) => ?_) ?_; (on_goal 1 => clear_value y); (on_goal 2 => subst y))
    | (extract_lets +onlyGivenNames y; clear_value y) | with_reducible apply State.setPen_keeps hP
    | with_reducible apply keeps_ite | split

theorem pairSafe_keeps {P : State → Prop} (hP : Closed P) (s : State) (b : List Byte) (hs : P s) :
    P (pairSafe s b) := by
  unfold pairSafe
  repeat' first
    | with_reducible assumption | with_reducible apply pduArrive_keeps hP | with_reducible apply keeps_ite | split

theorem ringUp_keeps {P : State → Prop} (hP : Closed P) (s : State) (r : ℕ) (chB : Bool) (stamp : ℕ) (b : List Byte) (hs : P s) :
    P (ringUp s r chB stamp b) := by
  unfold ringUp
  repeat' first | with_reducible assumption | with_reducible apply replyReceive_keeps hP | split

theorem pairReceive_keeps {P : State → Prop} (hP : Closed P) (s : State) (lane : ℕ) (crcOk : Bool) (f : PairFrame) (hs : P s) :
    P (pairReceive s lane crcOk f) := by
  unfold pairReceive
  repeat' first
    | with_reducible assumption
    | (extract_lets +onlyGivenNames y; refine (fun (_ : P y) => ?_) ?_; (on_goal 1 => clear_value y); (on_goal 2 => subst y))
    | (extract_lets +onlyGivenNames y; clear_value y) | with_reducible apply State.count_keeps hP
    | with_reducible apply State.setPen_keeps hP | with_reducible apply pairCheck_keeps hP
    | with_reducible apply linkFrame_keeps hP | with_reducible apply mirrorFragment_keeps hP
    | with_reducible apply pairSafe_keeps hP | with_reducible apply ringUp_keeps hP | with_reducible apply keeps_ite
    | split

theorem monitorSwitch_keeps {P : State → Prop} (hP : Closed P) (s : State) (hs : P s) :
    P (monitorSwitch s) := by
  unfold monitorSwitch
  repeat' first
    | with_reducible assumption
    | (extract_lets +onlyGivenNames y; refine (fun (_ : P y) => ?_) ?_; (on_goal 1 => clear_value y); (on_goal 2 => subst y))
    | (extract_lets +onlyGivenNames y; clear_value y) | with_reducible apply raiseBoth_keeps hP
    | with_reducible apply faultLog_keeps hP | with_reducible apply keeps_ite | split | with_reducible apply hP.put
    | with_reducible apply hP.byte | with_reducible apply hP.drop | with_reducible apply hP.wipe
    | with_reducible apply hP.keepRegs | with_reducible apply hP.keepMem | with_reducible apply hP.other

theorem halfReset_keeps {P : State → Prop} (hP : Closed P) (s : State) (h : Half) (hs : P s) :
    P (halfReset s h) := by
  unfold halfReset
  repeat' first
    | with_reducible assumption | with_reducible apply clearHalf_keeps hP | with_reducible apply penTrigger_keeps hP

end Sys2Proof.Machine
end

