-- ==== Sys2Proof/Laws/KeepsStart.lean ====
section
/-! SUPPORT. What the operations keep: core runs, bus cycles, start-up and the supplies. Where P is closed under
the stores' writes, each operation that takes a state with P answers one with P. -/
set_option maxRecDepth 20000
namespace Sys2Proof.Machine

-- One theorem at a time: the stacks of many threads together exceed the memory the check allows.
set_option Elab.async false

theorem urgentEntry_keeps {P : State → Prop} (hP : Closed P) (s : State) (h : Half) (k : ℕ) (hs : P s) :
    P (urgentEntry s h k) := by
  unfold urgentEntry
  repeat' first
    | with_reducible assumption
    | (extract_lets +onlyGivenNames y; refine (fun (_ : P y) => ?_) ?_; (on_goal 1 => clear_value y); (on_goal 2 => subst y))
    | (extract_lets +onlyGivenNames y; clear_value y) | with_reducible apply State.setCore_keeps hP
    | with_reducible apply State.setSched_keeps hP | with_reducible apply traceEntry_keeps hP
    | with_reducible apply coreFlags_keeps hP | with_reducible apply keeps_ite | split

theorem prefetchWords_keeps {P : State → Prop} (hP : Closed P) (s : State) (h : Half) (k : ℕ) (src : ℕ) (idx : ℕ) (x5 : ℕ) (hs : P s) :
    P (prefetchWords s h k src idx x5) := by
  induction x5 generalizing s h k src idx with
  | zero =>
    unfold prefetchWords
    repeat' first | with_reducible assumption
  | succ n0 ih =>
    unfold prefetchWords
    repeat' first
      | with_reducible assumption
      | (extract_lets +onlyGivenNames y; refine (fun (_ : P y) => ?_) ?_; (on_goal 1 => clear_value y); (on_goal 2 => subst y))
      | (extract_lets +onlyGivenNames y; clear_value y) | with_reducible apply ih
      | with_reducible apply State.setMemWord_keeps hP

theorem lostSlots_keeps {P : State → Prop} (hP : Closed P) (s : State) (h : Half) (k : ℕ) (n : ℕ) (hs : P s) :
    P (lostSlots s h k n) := by
  unfold lostSlots
  repeat' first | with_reducible assumption | with_reducible apply State.countBy_keeps hP

theorem prefetchDone_keeps {P : State → Prop} (hP : Closed P) (s : State) (h : Half) (k : ℕ) (lost : ℕ) (hs : P s) :
    P (prefetchDone s h k lost) := by
  unfold prefetchDone
  repeat' first
    | with_reducible assumption
    | (extract_lets +onlyGivenNames y; refine (fun (_ : P y) => ?_) ?_; (on_goal 1 => clear_value y); (on_goal 2 => subst y))
    | (extract_lets +onlyGivenNames y; clear_value y) | with_reducible apply State.setCore_keeps hP
    | with_reducible apply prefetchWords_keeps hP | with_reducible apply lostSlots_keeps hP
    | with_reducible apply keeps_ite | split

theorem reqLate_keeps {P : State → Prop} (hP : Closed P) (s : State) (h : Half) (hs : P s) :
    P (reqLate s h) := by
  unfold reqLate
  repeat' first
    | with_reducible assumption
    | (extract_lets +onlyGivenNames y; refine (fun (_ : P y) => ?_) ?_; (on_goal 1 => clear_value y); (on_goal 2 => subst y))
    | (extract_lets +onlyGivenNames y; clear_value y) | with_reducible apply State.setSched_keeps hP
    | with_reducible apply raiseIf_keeps hP

theorem freeItem_keeps {P : State → Prop} (hP : Closed P) (s : State) (h : Half) (i : ℕ) (hs : P s) :
    P (freeItem s h i) := by
  unfold freeItem
  repeat' first
    | with_reducible assumption
    | (extract_lets +onlyGivenNames y; refine (fun (_ : P y) => ?_) ?_; (on_goal 1 => clear_value y); (on_goal 2 => subst y))
    | (extract_lets +onlyGivenNames y; clear_value y) | with_reducible apply State.setSched_keeps hP
    | with_reducible apply releaseItem_keeps hP | split

theorem completeItem_keeps {P : State → Prop} (hP : Closed P) (s : State) (h : Half) (k : ℕ) (hs : P s) :
    P (completeItem s h k).1 := by
  unfold completeItem
  repeat' first
    | with_reducible assumption
    | (extract_lets +onlyGivenNames y; refine (fun (_ : P y) => ?_) ?_; (on_goal 1 => clear_value y); (on_goal 2 => subst y))
    | (extract_lets +onlyGivenNames y; clear_value y) | with_reducible apply State.countIf_keeps hP
    | with_reducible apply State.setCore_keeps hP | with_reducible apply traceEntry_keeps hP
    | with_reducible apply coreFlags_keeps hP | with_reducible apply reqLate_keeps hP
    | with_reducible apply freeItem_keeps hP | with_reducible apply keeps_ite | with_reducible apply keeps_ite2
    | with_reducible apply keeps_ite1 | split

theorem nextItemOn_keeps {P : State → Prop} (hP : Closed P) (s : State) (h : Half) (k : ℕ) (hs : P s) :
    P (nextItemOn s h k) := by
  unfold nextItemOn
  repeat' first
    | with_reducible assumption
    | (extract_lets +onlyGivenNames y; refine (fun (_ : P y) => ?_) ?_; (on_goal 1 => clear_value y); (on_goal 2 => subst y))
    | (extract_lets +onlyGivenNames y; clear_value y) | with_reducible apply startItem_keeps hP
    | with_reducible apply scheduleAll_keeps hP | with_reducible apply keeps_ite | split

theorem endFaultedUrgent_keeps {P : State → Prop} (hP : Closed P) (s : State) (h : Half) (k : ℕ) (hs : P s) :
    P (endFaultedUrgent s h k) := by
  unfold endFaultedUrgent
  repeat' first
    | with_reducible assumption
    | (extract_lets +onlyGivenNames y; refine (fun (_ : P y) => ?_) ?_; (on_goal 1 => clear_value y); (on_goal 2 => subst y))
    | (extract_lets +onlyGivenNames y; clear_value y) | with_reducible apply urgentReturn_keeps hP
    | with_reducible apply keeps_ite | split

theorem abandonItem_keeps {P : State → Prop} (hP : Closed P) (s : State) (h : Half) (i : ℕ) (hs : P s) :
    P (abandonItem s h i).1 := by
  unfold abandonItem
  repeat' first
    | with_reducible assumption
    | (extract_lets +onlyGivenNames y; refine (fun (_ : P y) => ?_) ?_; (on_goal 1 => clear_value y); (on_goal 2 => subst y))
    | (extract_lets +onlyGivenNames y; clear_value y) | with_reducible apply State.count_keeps hP
    | with_reducible apply State.setCore_keeps hP | with_reducible apply State.setSched_keeps hP
    | with_reducible apply traceEntry_keeps hP | with_reducible apply scheduleAll_keeps hP
    | with_reducible apply reqLate_keeps hP | with_reducible apply keeps_ite | with_reducible apply keeps_ite2
    | with_reducible apply keeps_ite1 | split

theorem postWrite_keeps {P : State → Prop} (hP : Closed P) (s : State) (h : Half) (v : Word) (hs : P s) :
    P (postWrite s h v) := by
  unfold postWrite
  repeat' first
    | with_reducible assumption
    | (extract_lets +onlyGivenNames y; refine (fun (_ : P y) => ?_) ?_; (on_goal 1 => clear_value y); (on_goal 2 => subst y))
    | (extract_lets +onlyGivenNames y; clear_value y) | with_reducible apply postAt_keeps hP

theorem descWrite_keeps {P : State → Prop} (hP : Closed P) (s : State) (h : Half) (i : ℕ) (w : ℕ) (v : Word) (hs : P s) :
    P (descWrite s h i w v) := by
  unfold descWrite
  repeat' first
    | with_reducible assumption
    | (extract_lets +onlyGivenNames y; refine (fun (_ : P y) => ?_) ?_; (on_goal 1 => clear_value y); (on_goal 2 => subst y))
    | (extract_lets +onlyGivenNames y; clear_value y) | with_reducible apply State.setWord_keeps hP
    | with_reducible apply State.setWordN_keeps hP | with_reducible apply State.setFld_keeps hP
    | with_reducible apply State.setFlag_keeps hP | with_reducible apply keeps_ite | split

theorem freezeTrace_keeps {P : State → Prop} (hP : Closed P) (s : State) (h : Half) (hs : P s) :
    P (freezeTrace s h) := by
  unfold freezeTrace
  repeat' first
    | with_reducible assumption | with_reducible apply State.setFlag_keeps hP
    | with_reducible apply raiseEvt_keeps hP | with_reducible apply keeps_ite

theorem traceWrite_keeps {P : State → Prop} (hP : Closed P) (s : State) (h : Half) (v : ℕ) (hs : P s) :
    P (traceWrite s h v) := by
  unfold traceWrite
  repeat' first
    | with_reducible assumption
    | (extract_lets +onlyGivenNames y; refine (fun (_ : P y) => ?_) ?_; (on_goal 1 => clear_value y); (on_goal 2 => subst y))
    | (extract_lets +onlyGivenNames y; clear_value y) | with_reducible apply State.setFld_keeps hP
    | with_reducible apply State.resetRegs_keeps hP | with_reducible apply State.setSched_keeps hP
    | with_reducible apply keeps_ite

theorem haltWrite_keeps {P : State → Prop} (hP : Closed P) (s : State) (h : Half) (k : ℕ) (on : Bool) (hs : P s) :
    P (haltWrite s h k on) := by
  unfold haltWrite
  repeat' first
    | with_reducible assumption
    | (extract_lets +onlyGivenNames y; refine (fun (_ : P y) => ?_) ?_; (on_goal 1 => clear_value y); (on_goal 2 => subst y))
    | (extract_lets +onlyGivenNames y; clear_value y) | with_reducible apply State.putFlag_keeps hP
    | with_reducible apply State.setCore_keeps hP | with_reducible apply haltCheck_keeps hP
    | with_reducible apply nextItemOn_keeps hP | with_reducible apply keeps_ite

theorem stepCore_keeps {P : State → Prop} (hP : Closed P) (s : State) (h : Half) (k : ℕ) (hs : P s) : P (stepCore s h k) := by
  unfold stepCore
  split
  · exact hs
  · extract_lets go more s1
    have hgo : ∀ t, P t → P (go t) := fun t ht => fetchIssue_keeps hP _ _ _ (State.setCore_keeps hP _ _ _ _ ht)
    have hmore : ∀ t, P t → P (more t) := fun t ht => keeps_ite ht (hgo t ht)
    exact State.setCore_keeps hP _ _ _ _ (hmore _ (hmore _ (hgo _ hs)))

theorem coreRegWrite_keeps {P : State → Prop} (hP : Closed P) (s : State) (h : Half) (k : ℕ) (r : ℕ) (v : Word) (hs : P s) :
    P (coreRegWrite s h k r v) := by
  unfold coreRegWrite
  repeat' first
    | with_reducible assumption
    | (extract_lets +onlyGivenNames y; refine (fun (_ : P y) => ?_) ?_; (on_goal 1 => clear_value y); (on_goal 2 => subst y))
    | (extract_lets +onlyGivenNames y; clear_value y) | with_reducible apply State.setCore_keeps hP
    | with_reducible apply coreFlags_keeps hP | with_reducible apply keeps_ite

theorem axisRecord_keeps {P : State → Prop} (hP : Closed P) (s : State) (h : Half) (copyB : Bool) (k : ℕ) (hs : P s) :
    P (axisRecord s h copyB k) := by
  unfold axisRecord
  repeat' first
    | with_reducible assumption
    | (extract_lets +onlyGivenNames y; refine (fun (_ : P y) => ?_) ?_; (on_goal 1 => clear_value y); (on_goal 2 => subst y))
    | (extract_lets +onlyGivenNames y; clear_value y) | with_reducible apply writeAxisRec_keeps hP

theorem axisRecords_keeps {P : State → Prop} (hP : Closed P) (s : State) (h : Half) (hs : P s) :
    P (axisRecords s h) := by
  unfold axisRecords
  repeat' first
    | with_reducible assumption | with_reducible apply axisRecord_keeps hP
    | (with_reducible apply keeps_foldl; intro _ _ _) | with_reducible apply keeps_ite

theorem tickBoundary_keeps {P : State → Prop} (hP : Closed P) (s : State) (h : Half) (hs : P s) :
    P (tickBoundary s h) := by
  unfold tickBoundary
  repeat' first
    | with_reducible assumption
    | (extract_lets +onlyGivenNames y; refine (fun (_ : P y) => ?_) ?_; (on_goal 1 => clear_value y); (on_goal 2 => subst y))
    | (extract_lets +onlyGivenNames y; clear_value y) | with_reducible apply govBoundary_keeps hP
    | with_reducible apply coordinationAt_keeps hP | with_reducible apply axisRecords_keeps hP

theorem markInstant_keeps {P : State → Prop} (hP : Closed P) (s : State) (h : Half) (k : ℕ) (hs : P s) :
    P (markInstant s h k) := by
  unfold markInstant
  repeat' first
    | with_reducible assumption
    | (extract_lets +onlyGivenNames y; refine (fun (_ : P y) => ?_) ?_; (on_goal 1 => clear_value y); (on_goal 2 => subst y))
    | (extract_lets +onlyGivenNames y; clear_value y) | with_reducible apply State.setQuad_keeps hP
    | with_reducible apply State.setTime_keeps hP | with_reducible apply raiseAt_keeps hP
    | with_reducible apply keeps_ite

theorem chargeInstant_keeps {P : State → Prop} (hP : Closed P) (s : State) (h : Half) (hs : P s) :
    P (chargeInstant s h) := by
  unfold chargeInstant
  repeat' first
    | with_reducible assumption
    | (extract_lets +onlyGivenNames y; refine (fun (_ : P y) => ?_) ?_; (on_goal 1 => clear_value y); (on_goal 2 => subst y))
    | (extract_lets +onlyGivenNames y; clear_value y) | with_reducible apply armSample_keeps hP
    | with_reducible apply hoistsAt_keeps hP | with_reducible apply ringPeriod_keeps hP
    | with_reducible apply tickBoundary_keeps hP | (with_reducible apply keeps_foldl; intro _ _ _)
    | with_reducible apply keeps_ite

theorem syncInstant_keeps {P : State → Prop} (hP : Closed P) (s : State) (h : Half) (hs : P s) :
    P (syncInstant s h) := by
  unfold syncInstant
  repeat' first
    | with_reducible assumption
    | (extract_lets +onlyGivenNames y; refine (fun (_ : P y) => ?_) ?_; (on_goal 1 => clear_value y); (on_goal 2 => subst y))
    | (extract_lets +onlyGivenNames y; clear_value y) | with_reducible apply State.setServo_keeps hP
    | with_reducible apply inputChange_keeps hP | with_reducible apply trackD_keeps hP
    | with_reducible apply sampleTb3_keeps hP | with_reducible apply passUntil_keeps hP
    | with_reducible apply latchSafeCopies_keeps hP | with_reducible apply endPeriod_keeps hP
    | with_reducible apply mirrorGap_keeps hP | with_reducible apply resumeAt_keeps hP
    | with_reducible apply markInstant_keeps hP | with_reducible apply chargeInstant_keeps hP
    | with_reducible apply keeps_ite

theorem engineEnd_keeps {P : State → Prop} (hP : Closed P) (s : State) (h : Half) (n : ℕ) (hs : P s) :
    P (engineEnd s h n) := by
  unfold engineEnd
  repeat' first
    | with_reducible assumption
    | (extract_lets +onlyGivenNames y; refine (fun (_ : P y) => ?_) ?_; (on_goal 1 => clear_value y); (on_goal 2 => subst y))
    | (extract_lets +onlyGivenNames y; clear_value y) | with_reducible apply State.setServo_keeps hP
    | with_reducible apply acqPeriod_keeps hP | with_reducible apply bufferTorque_keeps hP
    | with_reducible apply noteSlack_keeps hP | with_reducible apply mirrorSend_keeps hP
    | with_reducible apply heartbeat_keeps hP | (with_reducible apply keeps_foldl; intro _ _ _)

theorem windowOpen_keeps {P : State → Prop} (hP : Closed P) (s : State) (h : Half) (hs : P s) :
    P (windowOpen s h) := by
  unfold windowOpen
  repeat' first
    | with_reducible assumption
    | (extract_lets +onlyGivenNames y; refine (fun (_ : P y) => ?_) ?_; (on_goal 1 => clear_value y); (on_goal 2 => subst y))
    | (extract_lets +onlyGivenNames y; clear_value y) | with_reducible apply State.setServo_keeps hP
    | with_reducible apply passUntil_keeps hP | with_reducible apply profileAxis_keeps hP
    | with_reducible apply latchFeedback_keeps hP | with_reducible apply latchMode_keeps hP
    | with_reducible apply engineAxis_keeps hP | with_reducible apply latchArms_keeps hP
    | with_reducible apply engineEnd_keeps hP | (with_reducible apply keeps_foldl; intro _ _ _)
    | with_reducible apply keeps_ite | split

theorem engineDone_keeps {P : State → Prop} (hP : Closed P) (s : State) (h : Half) (dt : ℕ) (hs : P s) :
    P (engineDone s h dt) := by
  unfold engineDone
  repeat' first
    | with_reducible assumption
    | (extract_lets +onlyGivenNames y; refine (fun (_ : P y) => ?_) ?_; (on_goal 1 => clear_value y); (on_goal 2 => subst y))
    | (extract_lets +onlyGivenNames y; clear_value y) | with_reducible apply State.passTime_keeps hP
    | with_reducible apply engineEnd_keeps hP | split

theorem itemWrites_keeps {P : State → Prop} (hP : Closed P) (s : State) (h : Half) (i : ℕ) (tag : ℕ) (hs : P s) :
    P (itemWrites s h i tag) := by
  unfold itemWrites
  repeat' first
    | with_reducible assumption
    | (extract_lets +onlyGivenNames y; refine (fun (_ : P y) => ?_) ?_; (on_goal 1 => clear_value y); (on_goal 2 => subst y))
    | (extract_lets +onlyGivenNames y; clear_value y) | with_reducible apply dynamics_keeps hP
    | with_reducible apply kinematics_keeps hP | with_reducible apply observe_keeps hP
    | with_reducible apply govPublish_keeps hP | with_reducible apply takeoverDone_keeps hP
    | with_reducible apply keeps_ite | split

theorem itemLate_keeps {P : State → Prop} (hP : Closed P) (s : State) (h : Half) (i : ℕ) (hs : P s) :
    P (itemLate s h i) := by
  unfold itemLate
  repeat' first
    | with_reducible assumption | with_reducible apply State.count_keeps hP | with_reducible apply govEnded_keeps hP
    | split

theorem abandonWork_keeps {P : State → Prop} (hP : Closed P) (s : State) (h : Half) (i : ℕ) (hs : P s) :
    P (abandonWork s h i) := by
  unfold abandonWork
  repeat' first
    | with_reducible assumption
    | (extract_lets +onlyGivenNames y; refine (fun (_ : P y) => ?_) ?_; (on_goal 1 => clear_value y); (on_goal 2 => subst y))
    | (extract_lets +onlyGivenNames y; clear_value y) | with_reducible apply State.count_keeps hP
    | with_reducible apply noteAbandoned_keeps hP | with_reducible apply keeps_ite

theorem noteItemSlack_keeps {P : State → Prop} (hP : Closed P) (s : State) (h : Half) (e : ItemEnd) (hs : P s) :
    P (noteItemSlack s h e) := by
  unfold noteItemSlack
  repeat' first
    | with_reducible assumption | with_reducible apply noteSlack_keeps hP | with_reducible apply keeps_ite | split

theorem itemEnd_keeps {P : State → Prop} (hP : Closed P) (s : State) (h : Half) (k : ℕ) (hs : P s) :
    P (itemEnd s h k) := by
  unfold itemEnd
  repeat' first
    | with_reducible assumption
    | (extract_lets +onlyGivenNames y; refine (fun (_ : P y) => ?_) ?_; (on_goal 1 => clear_value y); (on_goal 2 => subst y))
    | (extract_lets +onlyGivenNames y; refine (fun (_ : P y.1) => ?_) ?_; (on_goal 1 => clear_value y); (on_goal 2 => subst y))
    | (extract_lets +onlyGivenNames y; clear_value y) | with_reducible apply completeItem_keeps hP
    | with_reducible apply nextItemOn_keeps hP | with_reducible apply endFaultedUrgent_keeps hP
    | with_reducible apply itemWrites_keeps hP | with_reducible apply itemLate_keeps hP
    | with_reducible apply noteItemSlack_keeps hP | with_reducible apply keeps_ite | split
    | (with_reducible refine keeps_pair22 (by with_reducible assumption) ?_)
    | (with_reducible refine keeps_pair2 (by with_reducible assumption) ?_)
    | (with_reducible refine keeps_pair1 (by with_reducible assumption) ?_)

theorem alignWrite_keeps {P : State → Prop} (hP : Closed P) (s : State) (h : Half) (v : ℕ) (hs : P s) :
    P (alignWrite s h v) := by
  unfold alignWrite
  repeat' first
    | with_reducible assumption
    | (extract_lets +onlyGivenNames y; refine (fun (_ : P y) => ?_) ?_; (on_goal 1 => clear_value y); (on_goal 2 => subst y))
    | (extract_lets +onlyGivenNames y; clear_value y) | with_reducible apply State.setQuad_keeps hP
    | with_reducible apply State.setFlag_keeps hP | with_reducible apply alignTb3_keeps hP
    | with_reducible apply keeps_ite

theorem State.setBoot_keeps {P : State → Prop} (hP : Closed P) (s : State) (x : BootUnit) (hs : P s) :
    P (State.setBoot s x) := by
  unfold State.setBoot
  repeat' first
    | with_reducible assumption
    | (extract_lets +onlyGivenNames y; refine (fun (_ : P y) => ?_) ?_; (on_goal 1 => clear_value y); (on_goal 2 => subst y))
    | (extract_lets +onlyGivenNames y; clear_value y) | with_reducible apply hP.put | with_reducible apply hP.byte
    | with_reducible apply hP.drop | with_reducible apply hP.wipe | with_reducible apply hP.keepRegs
    | with_reducible apply hP.keepMem | with_reducible apply hP.other

theorem applyStraps_keeps {P : State → Prop} (hP : Closed P) (s : State) (hs : P s) :
    P (applyStraps s) := by
  unfold applyStraps
  repeat' first
    | with_reducible assumption
    | (extract_lets +onlyGivenNames y; refine (fun (_ : P y) => ?_) ?_; (on_goal 1 => clear_value y); (on_goal 2 => subst y))
    | (extract_lets +onlyGivenNames y; clear_value y) | with_reducible apply State.setFld_keeps hP
    | with_reducible apply State.setFlag_keeps hP | with_reducible apply State.putFlag_keeps hP

theorem strapCheck_keeps {P : State → Prop} (hP : Closed P) (s : State) (contacts : ℕ) (hs : P s) :
    P (strapCheck s contacts) := by
  unfold strapCheck
  repeat' first
    | with_reducible assumption
    | (extract_lets +onlyGivenNames y; refine (fun (_ : P y) => ?_) ?_; (on_goal 1 => clear_value y); (on_goal 2 => subst y))
    | (extract_lets +onlyGivenNames y; clear_value y) | with_reducible apply faultLog_keeps hP
    | with_reducible apply State.setBoot_keeps hP | (with_reducible apply keeps_foldl; intro _ _ _)
    | with_reducible apply keeps_ite

theorem islandBegins_keeps {P : State → Prop} (hP : Closed P) (s : State) (hs : P s) :
    P (islandBegins s) := by
  unfold islandBegins
  repeat' first
    | with_reducible assumption
    | (extract_lets +onlyGivenNames y; refine (fun (_ : P y) => ?_) ?_; (on_goal 1 => clear_value y); (on_goal 2 => subst y))
    | (extract_lets +onlyGivenNames y; clear_value y) | with_reducible apply State.setFld_keeps hP
    | with_reducible apply State.putFlag_keeps hP | with_reducible apply putConnState_keeps hP
    | with_reducible apply updateGroup_keeps hP | with_reducible apply driveOutputs_keeps hP
    | (with_reducible apply keeps_foldl; intro _ _ _) | with_reducible apply keeps_ite

theorem clearedBase_keeps {P : State → Prop} (hP : Closed P) (s : State) (power : Bool) (hs : P s) :
    P (clearedBase s power) := by
  have h1 : P { s with regs := keptRegs s power } := hP.keepRegs s _ hs
  unfold clearedBase
  cases power
  · exact hP.other _ _ _ _ _ _ _ _ _ _ _ _ _ _ _ _ _ _ _ _ _ h1
  · exact hP.other _ _ _ _ _ _ _ _ _ _ _ _ _ _ _ _ _ _ _ _ _ (hP.keepMem { s with regs := keptRegs s true } _ h1)

theorem resetBase_keeps {P : State → Prop} (hP : Closed P) (s : State) (power : Bool) (hs : P s) :
    P (resetBase s power) := by
  unfold resetBase
  repeat' first
    | with_reducible assumption
    | (extract_lets +onlyGivenNames y; refine (fun (_ : P y) => ?_) ?_; (on_goal 1 => clear_value y); (on_goal 2 => subst y))
    | (extract_lets +onlyGivenNames y; clear_value y) | with_reducible apply State.setFld_keeps hP
    | with_reducible apply State.flagIf_keeps hP | with_reducible apply islandBegins_keeps hP
    | with_reducible apply clearedBase_keeps hP | with_reducible apply keeps_ite

theorem candidate_keeps {P : State → Prop} (hP : Closed P) (s : State) (m : List Host.Cell) (hs : P s) :
    P (candidate s m) := by
  unfold candidate
  repeat' first
    | with_reducible assumption
    | (extract_lets +onlyGivenNames y; refine (fun (_ : P y) => ?_) ?_; (on_goal 1 => clear_value y); (on_goal 2 => subst y))
    | (extract_lets +onlyGivenNames y; clear_value y) | with_reducible apply resetBase_keeps hP
    | with_reducible apply hP.put | with_reducible apply hP.byte | with_reducible apply hP.drop
    | with_reducible apply hP.wipe | with_reducible apply hP.keepRegs | with_reducible apply hP.keepMem
    | with_reducible apply hP.other

theorem openN_keeps {P : State → Prop} (hP : Closed P) (v : Option ℕ) (s : State) (hs : P s) :
    P (openN v s).2 := by
  unfold openN
  repeat' first
    | with_reducible assumption
    | (extract_lets +onlyGivenNames y; refine (fun (_ : P y) => ?_) ?_; (on_goal 1 => clear_value y); (on_goal 2 => subst y))
    | (extract_lets +onlyGivenNames y; refine (fun (_ : P y.2) => ?_) ?_; (on_goal 1 => clear_value y); (on_goal 2 => subst y))
    | (extract_lets +onlyGivenNames y; clear_value y) | with_reducible apply State.takeFree_keeps hP | split

theorem putConflict_keeps {P : State → Prop} (hP : Closed P) (s : State) (i : ℕ) (c : Conflict) (hs : P s) :
    P (putConflict s i c) := by
  unfold putConflict
  repeat' first
    | with_reducible assumption
    | (extract_lets +onlyGivenNames y; refine (fun (_ : P y) => ?_) ?_; (on_goal 1 => clear_value y); (on_goal 2 => subst y))
    | (extract_lets +onlyGivenNames y; refine (fun (_ : P y.2) => ?_) ?_; (on_goal 1 => clear_value y); (on_goal 2 => subst y))
    | (extract_lets +onlyGivenNames y; clear_value y) | with_reducible apply State.setWords_keeps hP
    | with_reducible apply openN_keeps hP

theorem putConflicts_keeps {P : State → Prop} (hP : Closed P) (s : State) (l : List Conflict) (hs : P s) :
    P (putConflicts s l) := by
  unfold putConflicts
  repeat' first
    | with_reducible assumption
    | (extract_lets +onlyGivenNames y; refine (fun (_ : P y) => ?_) ?_; (on_goal 1 => clear_value y); (on_goal 2 => subst y))
    | (extract_lets +onlyGivenNames y; clear_value y) | with_reducible apply State.setFld_keeps hP
    | with_reducible apply putConflict_keeps hP | (with_reducible apply keeps_foldl; intro _ _ _)

theorem placeFirmware_keeps {P : State → Prop} (hP : Closed P) (s : State) (m : List Host.Cell) (hs : P s) :
    P (placeFirmware s m) := by
  unfold placeFirmware
  repeat' first
    | with_reducible assumption | with_reducible apply State.setByte_keeps hP
    | (with_reducible apply keeps_foldl; intro _ _ _)

theorem loadSafety_keeps {P : State → Prop} (hP : Closed P) (s : State) (m : List Host.Cell) (hs : P s) :
    P (loadSafety s m) := by
  unfold loadSafety
  repeat' first
    | with_reducible assumption | with_reducible apply placeSection_keeps hP | with_reducible apply keeps_ite
    | split

theorem election_keeps {P : State → Prop} (hP : Closed P) (s : State) (hs : P s) :
    P (election s) := by
  unfold election
  repeat' first
    | with_reducible assumption
    | (extract_lets +onlyGivenNames y; refine (fun (_ : P y) => ?_) ?_; (on_goal 1 => clear_value y); (on_goal 2 => subst y))
    | (extract_lets +onlyGivenNames y; clear_value y) | with_reducible apply State.setFld_keeps hP
    | with_reducible apply State.setFlag_keeps hP | with_reducible apply keeps_ite

theorem beginWait_keeps {P : State → Prop} (hP : Closed P) (s : State) (h : Half) (hs : P s) :
    P (beginWait s h) := by
  unfold beginWait
  repeat' first
    | with_reducible assumption
    | (extract_lets +onlyGivenNames y; refine (fun (_ : P y) => ?_) ?_; (on_goal 1 => clear_value y); (on_goal 2 => subst y))
    | (extract_lets +onlyGivenNames y; clear_value y) | with_reducible apply State.setTime_keeps hP

theorem startRings_keeps {P : State → Prop} (hP : Closed P) (s : State) (h : Half) (hs : P s) :
    P (startRings s h) := by
  unfold startRings
  repeat' first
    | with_reducible assumption | with_reducible apply ringStart_keeps hP
    | (with_reducible apply keeps_foldl; intro _ _ _) | with_reducible apply keeps_ite

theorem waitEnd_keeps {P : State → Prop} (hP : Closed P) (s : State) (h : Half) (hs : P s) :
    P (waitEnd s h) := by
  unfold waitEnd
  repeat' first
    | with_reducible assumption
    | (extract_lets +onlyGivenNames y; refine (fun (_ : P y) => ?_) ?_; (on_goal 1 => clear_value y); (on_goal 2 => subst y))
    | (extract_lets +onlyGivenNames y; clear_value y) | with_reducible apply State.setQuad_keeps hP
    | with_reducible apply State.setTime_keeps hP | with_reducible apply alignTb3_keeps hP
    | with_reducible apply State.setPen_keeps hP | with_reducible apply startRings_keeps hP
    | with_reducible apply keeps_ite

theorem waitLocked_keeps {P : State → Prop} (hP : Closed P) (s : State) (h : Half) (hs : P s) :
    P (waitLocked s h) := by
  unfold waitLocked
  repeat' first | with_reducible assumption | with_reducible apply waitEnd_keeps hP | with_reducible apply keeps_ite

theorem waitExpired_keeps {P : State → Prop} (hP : Closed P) (s : State) (h : Half) (hs : P s) :
    P (waitExpired s h) := by
  unfold waitExpired
  repeat' first
    | with_reducible assumption | with_reducible apply State.passTime_keeps hP
    | with_reducible apply waitEnd_keeps hP | split

theorem retLost_keeps {P : State → Prop} (hP : Closed P) (s : State) (b : ℕ) (cause : ℕ) (hs : P s) :
    P (retLost s b cause) := by
  unfold retLost
  repeat' first
    | with_reducible assumption | with_reducible apply State.setFld_keeps hP
    | with_reducible apply State.setFlag_keeps hP | with_reducible apply State.putFlag_keeps hP

theorem restoreAxis_keeps {P : State → Prop} (hP : Closed P) (s : State) (h : Half) (k : ℕ) (hs : P s) :
    P (restoreAxis s h k) := by
  unfold restoreAxis
  repeat' first
    | with_reducible assumption
    | (extract_lets +onlyGivenNames y; refine (fun (_ : P y) => ?_) ?_; (on_goal 1 => clear_value y); (on_goal 2 => subst y))
    | (extract_lets +onlyGivenNames y; clear_value y) | with_reducible apply State.setFld_keeps hP
    | with_reducible apply State.setFldS_keeps hP | with_reducible apply State.setFlag_keeps hP
    | with_reducible apply State.putFlag_keeps hP | with_reducible apply State.setCe_keeps hP
    | with_reducible apply retLost_keeps hP | with_reducible apply keeps_ite | split

theorem startReady_keeps {P : State → Prop} (hP : Closed P) (s : State) (h : Half) (hs : P s) :
    P (startReady s h) := by
  unfold startReady
  repeat' first
    | with_reducible assumption
    | (extract_lets +onlyGivenNames y; refine (fun (_ : P y) => ?_) ?_; (on_goal 1 => clear_value y); (on_goal 2 => subst y))
    | (extract_lets +onlyGivenNames y; clear_value y) | with_reducible apply State.setFld_keeps hP
    | with_reducible apply faultLog_keeps hP | with_reducible apply acqTakeover_keeps hP

theorem startFinish_keeps {P : State → Prop} (hP : Closed P) (s : State) (h : Half) (hs : P s) :
    P (startFinish s h) := by
  unfold startFinish
  repeat' first
    | with_reducible assumption
    | (extract_lets +onlyGivenNames y; refine (fun (_ : P y) => ?_) ?_; (on_goal 1 => clear_value y); (on_goal 2 => subst y))
    | (extract_lets +onlyGivenNames y; clear_value y) | with_reducible apply State.setFld_keeps hP
    | with_reducible apply restoreAxis_keeps hP | with_reducible apply startReady_keeps hP
    | (with_reducible apply keeps_foldl; intro _ _ _) | with_reducible apply keeps_ite

theorem startOn_keeps {P : State → Prop} (hP : Closed P) (s : State) (hs : P s) :
    P (startOn s) := by
  unfold startOn
  repeat' first
    | with_reducible assumption
    | (extract_lets +onlyGivenNames y; refine (fun (_ : P y) => ?_) ?_; (on_goal 1 => clear_value y); (on_goal 2 => subst y))
    | (extract_lets +onlyGivenNames y; clear_value y) | with_reducible apply State.setFld_keeps hP
    | with_reducible apply noRingWindow_keeps hP | with_reducible apply election_keeps hP
    | with_reducible apply beginWait_keeps hP | with_reducible apply waitLocked_keeps hP | split

theorem configHold_keeps {P : State → Prop} (hP : Closed P) (s : State) (l : List Conflict) (m : List Host.Cell) (hs : P s) :
    P (configHold s l m) := by
  unfold configHold
  repeat' first
    | with_reducible assumption
    | (extract_lets +onlyGivenNames y; refine (fun (_ : P y) => ?_) ?_; (on_goal 1 => clear_value y); (on_goal 2 => subst y))
    | (extract_lets +onlyGivenNames y; clear_value y) | with_reducible apply State.setFld_keeps hP
    | with_reducible apply putConflicts_keeps hP | with_reducible apply loadSafety_keeps hP
    | with_reducible apply election_keeps hP

theorem takeImage_keeps {P : State → Prop} (hP : Closed P) (s : State) (m : List Host.Cell) (host : Bool) (hs : P s) :
    P (takeImage s m host) := by
  unfold takeImage
  repeat' first
    | with_reducible assumption
    | (extract_lets +onlyGivenNames y; refine (fun (_ : P y) => ?_) ?_; (on_goal 1 => clear_value y); (on_goal 2 => subst y))
    | (extract_lets +onlyGivenNames y; clear_value y) | with_reducible apply State.setFld_keeps hP
    | with_reducible apply State.setFlag_keeps hP | with_reducible apply State.resetRegs_keeps hP
    | with_reducible apply seedInputs_keeps hP | with_reducible apply reloadScheds_keeps hP
    | with_reducible apply canStart_keeps hP | with_reducible apply placeFirmware_keeps hP
    | (with_reducible apply keeps_foldl; intro _ _ _) | with_reducible apply keeps_ite | split
    | with_reducible apply hP.put | with_reducible apply hP.byte | with_reducible apply hP.drop
    | with_reducible apply hP.wipe | with_reducible apply hP.keepRegs | with_reducible apply hP.keepMem
    | with_reducible apply hP.other

theorem startImage_keeps {P : State → Prop} (hP : Closed P) (s : State) (m : List Host.Cell) (host : Bool) (hs : P s) :
    P (startImage s m host) := by
  unfold startImage
  repeat' first
    | with_reducible assumption
    | (extract_lets +onlyGivenNames y; refine (fun (_ : P y) => ?_) ?_; (on_goal 1 => clear_value y); (on_goal 2 => subst y))
    | (extract_lets +onlyGivenNames y; clear_value y) | with_reducible apply State.setFld_keeps hP
    | with_reducible apply loadSafety_keeps hP | with_reducible apply startOn_keeps hP
    | with_reducible apply configHold_keeps hP | with_reducible apply takeImage_keeps hP
    | with_reducible apply keeps_ite

theorem unreadable_keeps {P : State → Prop} (hP : Closed P) (s : State) (m : List Host.Cell) (hs : P s) :
    P (unreadable s m) := by
  unfold unreadable
  repeat' first | with_reducible assumption | with_reducible apply configHold_keeps hP

theorem readSlot_keeps {P : State → Prop} (hP : Closed P) (s : State) (order : List ℕ) (pick : Option ℕ) (hs : P s) :
    P (readSlot s order pick) := by
  unfold readSlot
  repeat' first
    | with_reducible assumption
    | (extract_lets +onlyGivenNames y; refine (fun (_ : P y) => ?_) ?_; (on_goal 1 => clear_value y); (on_goal 2 => subst y))
    | (extract_lets +onlyGivenNames y; clear_value y) | with_reducible apply State.setFld_keeps hP
    | with_reducible apply State.setFlag_keeps hP | with_reducible apply faultLog_keeps hP
    | with_reducible apply startImage_keeps hP | with_reducible apply unreadable_keeps hP
    | with_reducible apply keeps_ite | split

theorem readKey_keeps {P : State → Prop} (hP : Closed P) (s : State) (id : ℕ) (hs : P s) :
    P (readKey s id) := by
  unfold readKey
  repeat' first
    | with_reducible assumption
    | (extract_lets +onlyGivenNames y; refine (fun (_ : P y) => ?_) ?_; (on_goal 1 => clear_value y); (on_goal 2 => subst y))
    | (extract_lets +onlyGivenNames y; clear_value y) | with_reducible apply State.setFld_keeps hP
    | with_reducible apply readSlot_keeps hP

theorem startRead_keeps {P : State → Prop} (hP : Closed P) (s : State) (hs : P s) :
    P (startRead s) := by
  unfold startRead
  repeat' first
    | with_reducible assumption
    | (extract_lets +onlyGivenNames y; refine (fun (_ : P y) => ?_) ?_; (on_goal 1 => clear_value y); (on_goal 2 => subst y))
    | (extract_lets +onlyGivenNames y; clear_value y) | with_reducible apply State.setFld_keeps hP
    | with_reducible apply readKey_keeps hP | with_reducible apply keeps_ite | split

theorem startSequence_keeps {P : State → Prop} (hP : Closed P) (s : State) (passA : Bool) (passB : Bool) (hs : P s) :
    P (startSequence s passA passB) := by
  unfold startSequence
  repeat' first
    | with_reducible assumption
    | (extract_lets +onlyGivenNames y; refine (fun (_ : P y) => ?_) ?_; (on_goal 1 => clear_value y); (on_goal 2 => subst y))
    | (extract_lets +onlyGivenNames y; clear_value y) | with_reducible apply State.setFld_keeps hP
    | with_reducible apply State.setBoot_keeps hP | with_reducible apply startRead_keeps hP

theorem putSupply_keeps {P : State → Prop} (hP : Closed P) (s : State) (x : Supply) (hs : P s) :
    P (putSupply s x) := by
  unfold putSupply
  repeat' first
    | with_reducible assumption
    | (extract_lets +onlyGivenNames y; refine (fun (_ : P y) => ?_) ?_; (on_goal 1 => clear_value y); (on_goal 2 => subst y))
    | (extract_lets +onlyGivenNames y; clear_value y) | with_reducible apply State.setFld_keeps hP
    | with_reducible apply State.putFlag_keeps hP | with_reducible apply State.setBoot_keeps hP

theorem powerOn_keeps {P : State → Prop} (hP : Closed P) (s : State) (latched : ℕ) (passA : Bool) (passB : Bool) (vX17 : ℕ) (vP3 : ℕ) (revX17 : Bool) (revP3 : Bool) (hs : P s) :
    P (powerOn s latched passA passB vX17 vP3 revX17 revP3) := by
  unfold powerOn
  repeat' first
    | with_reducible assumption
    | (extract_lets +onlyGivenNames y; refine (fun (_ : P y) => ?_) ?_; (on_goal 1 => clear_value y); (on_goal 2 => subst y))
    | (extract_lets +onlyGivenNames y; clear_value y) | with_reducible apply State.setFld_keeps hP
    | with_reducible apply State.setMemN_keeps hP | with_reducible apply mramCount_keeps hP
    | with_reducible apply applyStraps_keeps hP | with_reducible apply resetBase_keeps hP
    | with_reducible apply startSequence_keeps hP | with_reducible apply putSupply_keeps hP
    | with_reducible apply keeps_ite | split | with_reducible apply hP.put | with_reducible apply hP.byte
    | with_reducible apply hP.drop | with_reducible apply hP.wipe | with_reducible apply hP.keepRegs
    | with_reducible apply hP.keepMem | with_reducible apply hP.other

theorem powerGood_keeps {P : State → Prop} (hP : Closed P) (s : State) (latched : ℕ) (passA : Bool) (passB : Bool) (vX17 : ℕ) (vP3 : ℕ) (revX17 : Bool) (revP3 : Bool) (hs : P s) :
    P (powerGood s latched passA passB vX17 vP3 revX17 revP3) := by
  unfold powerGood
  repeat' first
    | with_reducible assumption
    | (extract_lets +onlyGivenNames y; refine (fun (_ : P y) => ?_) ?_; (on_goal 1 => clear_value y); (on_goal 2 => subst y))
    | (extract_lets +onlyGivenNames y; clear_value y) | with_reducible apply powerOn_keeps hP
    | with_reducible apply keeps_ite

theorem moduleReset_keeps {P : State → Prop} (hP : Closed P) (s : State) (passA : Bool) (passB : Bool) (hs : P s) :
    P (moduleReset s passA passB) := by
  unfold moduleReset
  repeat' first
    | with_reducible assumption | with_reducible apply solverReset_keeps hP
    | with_reducible apply applyStraps_keeps hP | with_reducible apply resetBase_keeps hP
    | with_reducible apply startSequence_keeps hP

theorem hostGo_keeps {P : State → Prop} (hP : Closed P) (s : State) (hs : P s) :
    P (hostGo s) := by
  unfold hostGo
  repeat' first
    | with_reducible assumption
    | (extract_lets +onlyGivenNames y; refine (fun (_ : P y) => ?_) ?_; (on_goal 1 => clear_value y); (on_goal 2 => subst y))
    | (extract_lets +onlyGivenNames y; clear_value y) | with_reducible apply State.setFld_keeps hP
    | with_reducible apply startImage_keeps hP | with_reducible apply unreadable_keeps hP
    | with_reducible apply keeps_ite

theorem modCmd_keeps {P : State → Prop} (hP : Closed P) (s : State) (v : ℕ) (hs : P s) :
    P (modCmd s v) := by
  unfold modCmd
  repeat' first
    | with_reducible assumption
    | (extract_lets +onlyGivenNames y; refine (fun (_ : P y) => ?_) ?_; (on_goal 1 => clear_value y); (on_goal 2 => subst y))
    | (extract_lets +onlyGivenNames y; refine (fun (_ : P y.2) => ?_) ?_; (on_goal 1 => clear_value y); (on_goal 2 => subst y))
    | (extract_lets +onlyGivenNames y; clear_value y) | with_reducible apply State.takeFree_keeps hP
    | with_reducible apply moduleReset_keeps hP | with_reducible apply hostGo_keeps hP
    | with_reducible apply keeps_ite

theorem keyInserted_keeps {P : State → Prop} (hP : Closed P) (s : State) (id : ℕ) (cells : List Host.Cell) (hs : P s) :
    P (keyInserted s id cells) := by
  unfold keyInserted
  repeat' first
    | with_reducible assumption
    | (extract_lets +onlyGivenNames y; refine (fun (_ : P y) => ?_) ?_; (on_goal 1 => clear_value y); (on_goal 2 => subst y))
    | (extract_lets +onlyGivenNames y; clear_value y) | with_reducible apply State.setByte_keeps hP
    | with_reducible apply raiseBoth_keeps hP | with_reducible apply State.setBoot_keeps hP
    | with_reducible apply readKey_keeps hP | (with_reducible apply keeps_foldl; intro _ _ _)
    | with_reducible apply keeps_ite | split | with_reducible apply hP.put | with_reducible apply hP.byte
    | with_reducible apply hP.drop | with_reducible apply hP.wipe

theorem keyRemoved_keeps {P : State → Prop} (hP : Closed P) (s : State) (hs : P s) : P (keyRemoved s) := by
  exact raiseBoth_keeps hP _ _ (hP.other _ _ _ _ _ _ _ _ _ _ _ _ _ _ _ _ _ _ _ _ _
    (hP.wipe s keyBase 0x10000000 hs))

theorem putReady_keeps {P : State → Prop} (hP : Closed P) (s : State) (v : ℕ) (hs : P s) :
    P (putReady s v) := by
  unfold putReady
  repeat' first | with_reducible assumption | with_reducible apply State.setMemN_keeps hP

theorem stageDone_keeps {P : State → Prop} (hP : Closed P) (s : State) (hs : P s) :
    P (stageDone s) := by
  unfold stageDone
  repeat' first
    | with_reducible assumption
    | (extract_lets +onlyGivenNames y; refine (fun (_ : P y) => ?_) ?_; (on_goal 1 => clear_value y); (on_goal 2 => subst y))
    | (extract_lets +onlyGivenNames y; clear_value y) | with_reducible apply State.setFld_keeps hP
    | with_reducible apply State.setBoot_keeps hP | with_reducible apply keeps_ite

theorem finishSlot_keeps {P : State → Prop} (hP : Closed P) (s : State) (hs : P s) :
    P (finishSlot s) := by
  unfold finishSlot
  repeat' first
    | with_reducible assumption | with_reducible apply State.setMemN_keeps hP
    | with_reducible apply putReady_keeps hP

theorem stageChecked_keeps {P : State → Prop} (hP : Closed P) (s : State) (hs : P s) :
    P (stageChecked s) := by
  unfold stageChecked
  repeat' first
    | with_reducible assumption
    | (extract_lets +onlyGivenNames y; refine (fun (_ : P y) => ?_) ?_; (on_goal 1 => clear_value y); (on_goal 2 => subst y))
    | (extract_lets +onlyGivenNames y; refine (fun (fy1 : ∀ t, P t → P (y t)) => ?_) ?_; (on_goal 1 => clear_value y); (on_goal 2 => (subst y; intro t ht; beta_reduce)))
    | (extract_lets +onlyGivenNames y; refine (fun (fy2 : ∀ t r, P t → P (y t r)) => ?_) ?_; (on_goal 1 => clear_value y); (on_goal 2 => (subst y; intro t r ht; beta_reduce)))
    | (extract_lets +onlyGivenNames y; refine (fun (fy3 : ∀ t r q, P t → P (y t r q)) => ?_) ?_; (on_goal 1 => clear_value y); (on_goal 2 => (subst y; intro t r q ht; beta_reduce)))
    | (extract_lets +onlyGivenNames y; refine (fun (fy4 : ∀ t r q p, P t → P (y t r q p)) => ?_) ?_; (on_goal 1 => clear_value y); (on_goal 2 => (subst y; intro t r q p ht; beta_reduce)))
    | (extract_lets +onlyGivenNames y; clear_value y) | with_reducible apply fy1 | with_reducible apply fy2
    | with_reducible apply fy3 | with_reducible apply fy4 | with_reducible apply State.setFld_keeps hP
    | with_reducible apply raiseBoth_keeps hP | with_reducible apply State.setBoot_keeps hP
    | with_reducible apply putConflicts_keeps hP | with_reducible apply finishSlot_keeps hP
    | with_reducible apply keeps_ite

theorem stageCancel_keeps {P : State → Prop} (hP : Closed P) (s : State) (hs : P s) :
    P (stageCancel s) := by
  unfold stageCancel
  repeat' first | with_reducible assumption | with_reducible apply putReady_keeps hP | with_reducible apply keeps_ite

theorem commitStart_keeps {P : State → Prop} (hP : Closed P) (s : State) (hs : P s) :
    P (commitStart s) := by
  unfold commitStart
  repeat' first
    | with_reducible assumption
    | (extract_lets +onlyGivenNames y; refine (fun (_ : P y) => ?_) ?_; (on_goal 1 => clear_value y); (on_goal 2 => subst y))
    | (extract_lets +onlyGivenNames y; clear_value y) | with_reducible apply State.setFld_keeps hP
    | with_reducible apply raiseBoth_keeps hP | with_reducible apply State.setBoot_keeps hP
    | with_reducible apply putReady_keeps hP | with_reducible apply keeps_ite | split

theorem commitDone_keeps {P : State → Prop} (hP : Closed P) (s : State) (ok : Bool) (hs : P s) :
    P (commitDone s ok) := by
  unfold commitDone
  repeat' first
    | with_reducible assumption
    | (extract_lets +onlyGivenNames y; refine (fun (_ : P y) => ?_) ?_; (on_goal 1 => clear_value y); (on_goal 2 => subst y))
    | (extract_lets +onlyGivenNames y; clear_value y) | with_reducible apply State.setFld_keeps hP
    | with_reducible apply State.setByte_keeps hP | with_reducible apply raiseBoth_keeps hP
    | with_reducible apply mramCount_keeps hP | with_reducible apply State.setBoot_keeps hP
    | with_reducible apply finishSlot_keeps hP | (with_reducible apply keeps_foldl; intro _ _ _)
    | with_reducible apply keeps_ite | split | with_reducible apply hP.put | with_reducible apply hP.byte
    | with_reducible apply hP.drop | with_reducible apply hP.wipe

theorem keyCmd_keeps {P : State → Prop} (hP : Closed P) (s : State) (v : ℕ) (hs : P s) :
    P (keyCmd s v) := by
  unfold keyCmd
  repeat' first
    | with_reducible assumption
    | (extract_lets +onlyGivenNames y; refine (fun (_ : P y) => ?_) ?_; (on_goal 1 => clear_value y); (on_goal 2 => subst y))
    | (extract_lets +onlyGivenNames y; clear_value y) | with_reducible apply stageDone_keeps hP
    | with_reducible apply stageCancel_keeps hP | with_reducible apply commitStart_keeps hP
    | with_reducible apply keeps_ite

theorem keyWrite_keeps {P : State → Prop} (hP : Closed P) (s : State) (off : ℕ) (w : Word) (hs : P s) :
    P (keyWrite s off w) := by
  unfold keyWrite
  repeat' first
    | with_reducible assumption
    | (extract_lets +onlyGivenNames y; refine (fun (_ : P y) => ?_) ?_; (on_goal 1 => clear_value y); (on_goal 2 => subst y))
    | (extract_lets +onlyGivenNames y; clear_value y) | with_reducible apply State.setFlag_keeps hP
    | with_reducible apply State.setMemWord_keeps hP | with_reducible apply putReady_keeps hP
    | with_reducible apply keeps_ite

theorem putVolts_keeps {P : State → Prop} (hP : Closed P) (s : State) (vX17 : ℕ) (vP3 : ℕ) (hs : P s) :
    P (putVolts s vX17 vP3) := by
  unfold putVolts
  repeat' first
    | with_reducible assumption
    | (extract_lets +onlyGivenNames y; refine (fun (_ : P y) => ?_) ?_; (on_goal 1 => clear_value y); (on_goal 2 => subst y))
    | (extract_lets +onlyGivenNames y; clear_value y) | with_reducible apply putSupply_keeps hP

theorem abandonKey_keeps {P : State → Prop} (hP : Closed P) (s : State) (hs : P s) :
    P (abandonKey s) := by
  unfold abandonKey
  repeat' first
    | with_reducible assumption
    | (extract_lets +onlyGivenNames y; refine (fun (_ : P y) => ?_) ?_; (on_goal 1 => clear_value y); (on_goal 2 => subst y))
    | (extract_lets +onlyGivenNames y; clear_value y) | with_reducible apply State.setFld_keeps hP
    | with_reducible apply State.setBoot_keeps hP | with_reducible apply keeps_ite

theorem islandHoldup_keeps {P : State → Prop} (hP : Closed P) (s : State) (hs : P s) :
    P (islandHoldup s) := by
  unfold islandHoldup
  repeat' first
    | with_reducible assumption
    | (extract_lets +onlyGivenNames y; refine (fun (_ : P y) => ?_) ?_; (on_goal 1 => clear_value y); (on_goal 2 => subst y))
    | (extract_lets +onlyGivenNames y; clear_value y) | with_reducible apply State.setIsl_keeps hP
    | with_reducible apply updateGroup_keeps hP | with_reducible apply driveOutputs_keeps hP
    | (with_reducible apply keeps_foldl; intro _ _ _)

theorem countSeconds_keeps {P : State → Prop} (hP : Closed P) (s : State) (hs : P s) :
    P (countSeconds s) := by
  unfold countSeconds
  repeat' first
    | with_reducible assumption
    | (extract_lets +onlyGivenNames y; refine (fun (_ : P y) => ?_) ?_; (on_goal 1 => clear_value y); (on_goal 2 => subst y))
    | (extract_lets +onlyGivenNames y; clear_value y) | with_reducible apply State.setMemN_keeps hP

theorem brownOut_keeps {P : State → Prop} (hP : Closed P) (s : State) (vX17 : ℕ) (vP3 : ℕ) (hs : P s) :
    P (brownOut s vX17 vP3) := by
  unfold brownOut
  repeat' first
    | with_reducible assumption
    | (extract_lets +onlyGivenNames y; refine (fun (_ : P y) => ?_) ?_; (on_goal 1 => clear_value y); (on_goal 2 => subst y))
    | (extract_lets +onlyGivenNames y; clear_value y) | with_reducible apply State.setFlag_keeps hP
    | with_reducible apply raiseBoth_keeps hP | with_reducible apply faultLog_keeps hP
    | with_reducible apply mramCount_keeps hP | with_reducible apply axisRecords_keeps hP
    | with_reducible apply State.setBoot_keeps hP | with_reducible apply putVolts_keeps hP
    | with_reducible apply abandonKey_keeps hP | with_reducible apply islandHoldup_keeps hP
    | with_reducible apply countSeconds_keeps hP | with_reducible apply keeps_ite | split

theorem holdupAt_keeps {P : State → Prop} (hP : Closed P) (s : State) (dt : ℕ) (hs : P s) :
    P (holdupAt s dt) := by
  unfold holdupAt
  repeat' first | with_reducible assumption | with_reducible apply State.passTime_keeps hP | split

theorem railOff_keeps {P : State → Prop} (hP : Closed P) (s : State) (h : Half) (hs : P s) :
    P (railOff s h) := by
  unfold railOff
  repeat' first
    | with_reducible assumption
    | (extract_lets +onlyGivenNames y; refine (fun (_ : P y) => ?_) ?_; (on_goal 1 => clear_value y); (on_goal 2 => subst y))
    | (extract_lets +onlyGivenNames y; clear_value y) | with_reducible apply State.setFld_keeps hP
    | with_reducible apply State.resetRegs_keeps hP | with_reducible apply State.setHalf_keeps hP
    | with_reducible apply State.setPen_keeps hP

theorem acqStop_keeps {P : State → Prop} (hP : Closed P) (s : State) (h : Half) (hs : P s) :
    P (acqStop s h) := by
  unfold acqStop
  repeat' first
    | with_reducible assumption
    | (extract_lets +onlyGivenNames y; refine (fun (_ : P y) => ?_) ?_; (on_goal 1 => clear_value y); (on_goal 2 => subst y))
    | (extract_lets +onlyGivenNames y; clear_value y) | with_reducible apply State.setAcq_keeps hP

theorem holdupStandby_keeps {P : State → Prop} (hP : Closed P) (s : State) (hs : P s) :
    P (holdupStandby s) := by
  unfold holdupStandby
  repeat' first
    | with_reducible assumption
    | (extract_lets +onlyGivenNames y; refine (fun (_ : P y) => ?_) ?_; (on_goal 1 => clear_value y); (on_goal 2 => subst y))
    | (extract_lets +onlyGivenNames y; clear_value y) | with_reducible apply State.setBoot_keeps hP
    | with_reducible apply holdupAt_keeps hP | with_reducible apply railOff_keeps hP
    | with_reducible apply acqStop_keeps hP | with_reducible apply keeps_ite

theorem holdupOutputs_keeps {P : State → Prop} (hP : Closed P) (s : State) (hs : P s) :
    P (holdupOutputs s) := by
  unfold holdupOutputs
  repeat' first
    | with_reducible assumption
    | (extract_lets +onlyGivenNames y; refine (fun (_ : P y) => ?_) ?_; (on_goal 1 => clear_value y); (on_goal 2 => subst y))
    | (extract_lets +onlyGivenNames y; clear_value y) | with_reducible apply State.setFld_keeps hP
    | with_reducible apply State.setBoot_keeps hP | with_reducible apply holdupAt_keeps hP
    | (with_reducible apply keeps_foldl; intro _ _ _) | with_reducible apply keeps_ite

theorem holdupSafe_keeps {P : State → Prop} (hP : Closed P) (s : State) (hs : P s) :
    P (holdupSafe s) := by
  unfold holdupSafe
  repeat' first
    | with_reducible assumption
    | (extract_lets +onlyGivenNames y; refine (fun (_ : P y) => ?_) ?_; (on_goal 1 => clear_value y); (on_goal 2 => subst y))
    | (extract_lets +onlyGivenNames y; clear_value y) | with_reducible apply State.setIsl_keeps hP
    | with_reducible apply driveOutputs_keeps hP | with_reducible apply State.setBoot_keeps hP
    | with_reducible apply holdupAt_keeps hP | with_reducible apply keeps_ite

theorem holdupEnd_keeps {P : State → Prop} (hP : Closed P) (s : State) (vX17 : ℕ) (vP3 : ℕ) (latched : ℕ) (passA : Bool) (passB : Bool) (hs : P s) :
    P (holdupEnd s vX17 vP3 latched passA passB) := by
  unfold holdupEnd
  repeat' first
    | with_reducible assumption
    | (extract_lets +onlyGivenNames y; refine (fun (_ : P y) => ?_) ?_; (on_goal 1 => clear_value y); (on_goal 2 => subst y))
    | (extract_lets +onlyGivenNames y; clear_value y) | with_reducible apply State.setBoot_keeps hP
    | with_reducible apply resetBase_keeps hP | with_reducible apply powerOn_keeps hP
    | with_reducible apply putVolts_keeps hP | with_reducible apply keeps_ite

theorem supplyReturn_keeps {P : State → Prop} (hP : Closed P) (s : State) (vX17 : ℕ) (vP3 : ℕ) (hs : P s) :
    P (supplyReturn s vX17 vP3) := by
  unfold supplyReturn
  repeat' first
    | with_reducible assumption
    | (extract_lets +onlyGivenNames y; refine (fun (_ : P y) => ?_) ?_; (on_goal 1 => clear_value y); (on_goal 2 => subst y))
    | (extract_lets +onlyGivenNames y; clear_value y) | with_reducible apply raiseBoth_keeps hP
    | with_reducible apply putVolts_keeps hP | with_reducible apply keeps_ite

theorem supplyReversed_keeps {P : State → Prop} (hP : Closed P) (s : State) (p3 : Bool) (hs : P s) :
    P (supplyReversed s p3) := by
  unfold supplyReversed
  repeat' first
    | with_reducible assumption
    | (extract_lets +onlyGivenNames y; refine (fun (_ : P y) => ?_) ?_; (on_goal 1 => clear_value y); (on_goal 2 => subst y))
    | (extract_lets +onlyGivenNames y; clear_value y) | with_reducible apply putSupply_keeps hP

theorem ioLow_keeps {P : State → Prop} (hP : Closed P) (s : State) (hs : P s) :
    P (ioLow s) := by
  unfold ioLow
  repeat' first
    | with_reducible assumption
    | (extract_lets +onlyGivenNames y; refine (fun (_ : P y) => ?_) ?_; (on_goal 1 => clear_value y); (on_goal 2 => subst y))
    | (extract_lets +onlyGivenNames y; clear_value y) | with_reducible apply raiseBoth_keeps hP
    | with_reducible apply driveOutputs_keeps hP | with_reducible apply putSupply_keeps hP
    | with_reducible apply keeps_ite

theorem ioReturn_keeps {P : State → Prop} (hP : Closed P) (s : State) (hs : P s) :
    P (ioReturn s) := by
  unfold ioReturn
  repeat' first
    | with_reducible assumption
    | (extract_lets +onlyGivenNames y; refine (fun (_ : P y) => ?_) ?_; (on_goal 1 => clear_value y); (on_goal 2 => subst y))
    | (extract_lets +onlyGivenNames y; clear_value y) | with_reducible apply waitAll_keeps hP
    | with_reducible apply putSupply_keeps hP | with_reducible apply keeps_ite

theorem outputOverload_keeps {P : State → Prop} (hP : Closed P) (s : State) (j : ℕ) (hs : P s) :
    P (outputOverload s j) := by
  unfold outputOverload
  repeat' first
    | with_reducible assumption
    | (extract_lets +onlyGivenNames y; refine (fun (_ : P y) => ?_) ?_; (on_goal 1 => clear_value y); (on_goal 2 => subst y))
    | (extract_lets +onlyGivenNames y; clear_value y) | with_reducible apply State.setFld_keeps hP
    | with_reducible apply raiseBoth_keeps hP | with_reducible apply State.setBoot_keeps hP

theorem openWire_keeps {P : State → Prop} (hP : Closed P) (s : State) (g : ℕ) (hs : P s) :
    P (openWire s g) := by
  unfold openWire
  repeat' first
    | with_reducible assumption | with_reducible apply State.setFld_keeps hP
    | with_reducible apply raiseBoth_keeps hP | with_reducible apply keeps_ite

theorem outWrite_keeps {P : State → Prop} (hP : Closed P) (s : State) (v : ℕ) (hs : P s) :
    P (outWrite s v) := by
  unfold outWrite
  repeat' first
    | with_reducible assumption
    | (extract_lets +onlyGivenNames y; refine (fun (_ : P y) => ?_) ?_; (on_goal 1 => clear_value y); (on_goal 2 => subst y))
    | (extract_lets +onlyGivenNames y; refine (fun (fy1 : ∀ t, P t → P (y t)) => ?_) ?_; (on_goal 1 => clear_value y); (on_goal 2 => (subst y; intro t ht; beta_reduce)))
    | (extract_lets +onlyGivenNames y; refine (fun (fy2 : ∀ t r, P t → P (y t r)) => ?_) ?_; (on_goal 1 => clear_value y); (on_goal 2 => (subst y; intro t r ht; beta_reduce)))
    | (extract_lets +onlyGivenNames y; refine (fun (fy3 : ∀ t r q, P t → P (y t r q)) => ?_) ?_; (on_goal 1 => clear_value y); (on_goal 2 => (subst y; intro t r q ht; beta_reduce)))
    | (extract_lets +onlyGivenNames y; refine (fun (fy4 : ∀ t r q p, P t → P (y t r q p)) => ?_) ?_; (on_goal 1 => clear_value y); (on_goal 2 => (subst y; intro t r q p ht; beta_reduce)))
    | (extract_lets +onlyGivenNames y; clear_value y) | with_reducible apply fy1 | with_reducible apply fy2
    | with_reducible apply fy3 | with_reducible apply fy4 | with_reducible apply State.setFld_keeps hP
    | with_reducible apply State.setBoot_keeps hP

end Sys2Proof.Machine
end

