-- ==== Sys2Proof/Laws/KeepsBus.lean ====
section
/-! SUPPORT. What the operations keep: accesses, the bus, the remaining commands and the step. Where P is closed under
the stores' writes, each operation that takes a state with P answers one with P. -/
set_option maxRecDepth 20000
namespace Sys2Proof.Machine

-- One theorem at a time: the stacks of many threads together exceed the memory the check allows.
set_option Elab.async false

theorem plainWrite_keeps {P : State → Prop} (hP : Closed P) (s : State) (a : ℕ) (v : ℕ) (hs : P s) :
    P (plainWrite s a v) := by
  unfold plainWrite
  repeat' first
    | with_reducible assumption
    | (extract_lets +onlyGivenNames y; refine (fun (_ : P y) => ?_) ?_; (on_goal 1 => clear_value y); (on_goal 2 => subst y))
    | (extract_lets +onlyGivenNames y; clear_value y) | with_reducible apply State.setWord_keeps hP | split

theorem plainQuad_keeps {P : State → Prop} (hP : Closed P) (s : State) (a : ℕ) (v : ℕ) (hs : P s) :
    P (plainQuad s a v) := by
  unfold plainQuad
  repeat' first | with_reducible assumption | with_reducible apply plainWrite_keeps hP

theorem writeIf_keeps {P : State → Prop} (hP : Closed P) (s : State) (c : Bool) (a : ℕ) (v : ℕ) (hs : P s) :
    P (writeIf s c a v) := by
  unfold writeIf
  repeat' first
    | with_reducible assumption | with_reducible apply plainWrite_keeps hP | with_reducible apply keeps_ite

theorem freeBits_keeps {P : State → Prop} (hP : Closed P) (s : State) (v : ℕ) (hi : ℕ) (lo : ℕ) (least : ℕ) (most : ℕ) (hs : P s) :
    P (freeBits s v hi lo least most).2 := by
  unfold freeBits
  repeat' first
    | with_reducible assumption
    | (extract_lets +onlyGivenNames y; refine (fun (_ : P y) => ?_) ?_; (on_goal 1 => clear_value y); (on_goal 2 => subst y))
    | (extract_lets +onlyGivenNames y; refine (fun (_ : P y.2) => ?_) ?_; (on_goal 1 => clear_value y); (on_goal 2 => subst y))
    | (extract_lets +onlyGivenNames y; clear_value y) | with_reducible apply State.takeFree_keeps hP
    | with_reducible apply keeps_ite | with_reducible apply keeps_ite2

theorem evtReg_keeps {P : State → Prop} (hP : Closed P) (s : State) (h : Half) (o : ℕ) (v : ℕ) (hs : P s) :
    P (evtReg s h o v) := by
  unfold evtReg
  repeat' first | with_reducible assumption | with_reducible apply plainWrite_keeps hP

theorem schedReg_keeps {P : State → Prop} (hP : Closed P) (s : State) (h : Half) (o : ℕ) (v : ℕ) (hs : P s) :
    P (schedReg s h o v) := by
  unfold schedReg
  repeat' first
    | with_reducible assumption | with_reducible apply postWrite_keeps hP | with_reducible apply descWrite_keeps hP
    | with_reducible apply traceWrite_keeps hP | with_reducible apply plainWrite_keeps hP
    | with_reducible apply keeps_ite

theorem tbStage_keeps {P : State → Prop} (hP : Closed P) (s : State) (h : Half) (b : ℕ) (r : ℕ) (v : ℕ) (hs : P s) :
    P (tbStage s h b r v) := by
  unfold tbStage
  repeat' first
    | with_reducible assumption
    | (extract_lets +onlyGivenNames y; refine (fun (_ : P y) => ?_) ?_; (on_goal 1 => clear_value y); (on_goal 2 => subst y))
    | (extract_lets +onlyGivenNames y; clear_value y) | with_reducible apply State.setTb_keeps hP
    | with_reducible apply keeps_ite

theorem tbCfg_keeps {P : State → Prop} (hP : Closed P) (s : State) (h : Half) (b : ℕ) (v : ℕ) (hs : P s) :
    P (tbCfg s h b v) := by
  unfold tbCfg
  repeat' first
    | with_reducible assumption
    | (extract_lets +onlyGivenNames y; refine (fun (_ : P y) => ?_) ?_; (on_goal 1 => clear_value y); (on_goal 2 => subst y))
    | (extract_lets +onlyGivenNames y; refine (fun (_ : P y.2) => ?_) ?_; (on_goal 1 => clear_value y); (on_goal 2 => subst y))
    | (extract_lets +onlyGivenNames y; clear_value y) | with_reducible apply waitLocked_keeps hP
    | with_reducible apply plainWrite_keeps hP | with_reducible apply freeBits_keeps hP
    | with_reducible apply keeps_ite

theorem tbReg_keeps {P : State → Prop} (hP : Closed P) (s : State) (h : Half) (b : ℕ) (r : ℕ) (v : ℕ) (hs : P s) :
    P (tbReg s h b r v) := by
  unfold tbReg
  repeat' first
    | with_reducible assumption
    | (extract_lets +onlyGivenNames y; refine (fun (_ : P y) => ?_) ?_; (on_goal 1 => clear_value y); (on_goal 2 => subst y))
    | (extract_lets +onlyGivenNames y; refine (fun (_ : P y.2) => ?_) ?_; (on_goal 1 => clear_value y); (on_goal 2 => subst y))
    | (extract_lets +onlyGivenNames y; clear_value y) | with_reducible apply tbCmd_keeps hP
    | with_reducible apply alignWrite_keeps hP | with_reducible apply plainWrite_keeps hP
    | with_reducible apply writeIf_keeps hP | with_reducible apply freeBits_keeps hP
    | with_reducible apply tbStage_keeps hP | with_reducible apply tbCfg_keeps hP | with_reducible apply keeps_ite

theorem timeReg_keeps {P : State → Prop} (hP : Closed P) (s : State) (h : Half) (o : ℕ) (v : ℕ) (hs : P s) :
    P (timeReg s h o v) := by
  unfold timeReg
  repeat' first
    | with_reducible assumption | with_reducible apply alarmWrite_keeps hP
    | with_reducible apply plainWrite_keeps hP | with_reducible apply tbReg_keeps hP
    | with_reducible apply keeps_ite

theorem timeQuad_keeps {P : State → Prop} (hP : Closed P) (s : State) (h : Half) (o : ℕ) (v : ℕ) (hs : P s) :
    P (timeQuad s h o v) := by
  unfold timeQuad
  repeat' first
    | with_reducible assumption
    | (extract_lets +onlyGivenNames y; refine (fun (_ : P y) => ?_) ?_; (on_goal 1 => clear_value y); (on_goal 2 => subst y))
    | (extract_lets +onlyGivenNames y; clear_value y) | with_reducible apply softSample_keeps hP
    | with_reducible apply rateWrite_keeps hP | with_reducible apply waitLocked_keeps hP
    | with_reducible apply plainQuad_keeps hP | with_reducible apply keeps_ite

theorem inputCfg_keeps {P : State → Prop} (hP : Closed P) (s : State) (h : Half) (k : ℕ) (v : ℕ) (hs : P s) :
    P (inputCfg s h k v) := by
  unfold inputCfg
  repeat' first
    | with_reducible assumption
    | (extract_lets +onlyGivenNames y; refine (fun (_ : P y) => ?_) ?_; (on_goal 1 => clear_value y); (on_goal 2 => subst y))
    | (extract_lets +onlyGivenNames y; clear_value y) | with_reducible apply State.setFlag_keeps hP
    | with_reducible apply raiseBoth_keeps hP | with_reducible apply sampleInputs_keeps hP
    | with_reducible apply plainWrite_keeps hP | with_reducible apply keeps_ite

theorem prfReg_keeps {P : State → Prop} (hP : Closed P) (s : State) (h : Half) (k o v : ℕ) (hs : P s) :
    P (prfReg s h k o v) := by
  unfold prfReg
  extract_lets b check
  have hcheck : ∀ c, P (check c) := fun c =>
    keeps_ite (plainWrite_keeps hP _ _ _ hs) (State.setFlag_keeps hP _ _ _ hs)
  clear_value check
  repeat' first
    | exact hcheck _ | with_reducible apply prfCommand_keeps hP | with_reducible apply inputCfg_keeps hP
    | with_reducible apply plainWrite_keeps hP | with_reducible apply keeps_ite | exact hs

theorem prfQuad_keeps {P : State → Prop} (hP : Closed P) (s : State) (h : Half) (k : ℕ) (o : ℕ) (v : ℕ) (hs : P s) :
    P (prfQuad s h k o v) := by
  unfold prfQuad
  repeat' first
    | with_reducible assumption
    | (extract_lets +onlyGivenNames y; refine (fun (_ : P y) => ?_) ?_; (on_goal 1 => clear_value y); (on_goal 2 => subst y))
    | (extract_lets +onlyGivenNames y; clear_value y) | with_reducible apply State.setFlag_keeps hP
    | with_reducible apply plainQuad_keeps hP | with_reducible apply keeps_ite

theorem armReg_keeps {P : State → Prop} (hP : Closed P) (s : State) (h : Half) (j : ℕ) (o : ℕ) (v : ℕ) (hs : P s) :
    P (armReg s h j o v) := by
  unfold armReg
  repeat' first
    | with_reducible assumption
    | (extract_lets +onlyGivenNames y; refine (fun (_ : P y) => ?_) ?_; (on_goal 1 => clear_value y); (on_goal 2 => subst y))
    | (extract_lets +onlyGivenNames y; clear_value y) | with_reducible apply State.setWordN_keeps hP
    | with_reducible apply qwrWrite_keeps hP | with_reducible apply armCommand_keeps hP
    | with_reducible apply plainWrite_keeps hP | with_reducible apply writeIf_keeps hP
    | with_reducible apply keeps_ite

theorem govReg_keeps {P : State → Prop} (hP : Closed P) (s : State) (h : Half) (o : ℕ) (v : ℕ) (hs : P s) :
    P (govReg s h o v) := by
  unfold govReg
  repeat' first
    | with_reducible assumption
    | (extract_lets +onlyGivenNames y; refine (fun (_ : P y) => ?_) ?_; (on_goal 1 => clear_value y); (on_goal 2 => subst y))
    | (extract_lets +onlyGivenNames y; clear_value y) | with_reducible apply govCmd_keeps hP
    | with_reducible apply plainWrite_keeps hP | with_reducible apply writeIf_keeps hP
    | with_reducible apply keeps_ite

theorem edgeWrite_keeps {P : State → Prop} (hP : Closed P) (s : State) (h : Half) (k : ℕ) (base : ℕ) (i : ℕ) (v : ℕ) (hs : P s) :
    P (edgeWrite s h k base i v) := by
  unfold edgeWrite
  repeat' first
    | with_reducible assumption
    | (extract_lets +onlyGivenNames y; refine (fun (_ : P y) => ?_) ?_; (on_goal 1 => clear_value y); (on_goal 2 => subst y))
    | (extract_lets +onlyGivenNames y; refine (fun (fy1 : ∀ t, P t → P (y t)) => ?_) ?_; (on_goal 1 => clear_value y); (on_goal 2 => (subst y; intro t ht; beta_reduce)))
    | (extract_lets +onlyGivenNames y; refine (fun (fy2 : ∀ t r, P t → P (y t r)) => ?_) ?_; (on_goal 1 => clear_value y); (on_goal 2 => (subst y; intro t r ht; beta_reduce)))
    | (extract_lets +onlyGivenNames y; refine (fun (fy3 : ∀ t r q, P t → P (y t r q)) => ?_) ?_; (on_goal 1 => clear_value y); (on_goal 2 => (subst y; intro t r q ht; beta_reduce)))
    | (extract_lets +onlyGivenNames y; refine (fun (fy4 : ∀ t r q p, P t → P (y t r q p)) => ?_) ?_; (on_goal 1 => clear_value y); (on_goal 2 => (subst y; intro t r q p ht; beta_reduce)))
    | (extract_lets +onlyGivenNames y; clear_value y) | with_reducible apply fy1 | with_reducible apply fy2
    | with_reducible apply fy3 | with_reducible apply fy4 | with_reducible apply State.setFlag_keeps hP
    | with_reducible apply plainWrite_keeps hP | with_reducible apply keeps_ite

theorem ceReg_keeps {P : State → Prop} (hP : Closed P) (s : State) (h : Half) (k : ℕ) (o : ℕ) (v : ℕ) (hs : P s) :
    P (ceReg s h k o v) := by
  unfold ceReg
  repeat' first
    | with_reducible assumption
    | (extract_lets +onlyGivenNames y; refine (fun (_ : P y) => ?_) ?_; (on_goal 1 => clear_value y); (on_goal 2 => subst y))
    | (extract_lets +onlyGivenNames y; clear_value y) | with_reducible apply modeWrite_keeps hP
    | with_reducible apply ceCommand_keeps hP | with_reducible apply plainWrite_keeps hP
    | with_reducible apply edgeWrite_keeps hP | with_reducible apply keeps_ite

theorem solvReg_keeps {P : State → Prop} (hP : Closed P) (s : State) (h : Half) (o : ℕ) (v : ℕ) (hs : P s) :
    P (solvReg s h o v) := by
  unfold solvReg
  repeat' first
    | with_reducible assumption
    | (extract_lets +onlyGivenNames y; refine (fun (_ : P y) => ?_) ?_; (on_goal 1 => clear_value y); (on_goal 2 => subst y))
    | (extract_lets +onlyGivenNames y; clear_value y) | with_reducible apply solverSubmit_keeps hP
    | with_reducible apply chCtrl_keeps hP | with_reducible apply spLoad_keeps hP
    | with_reducible apply plainWrite_keeps hP | with_reducible apply writeIf_keeps hP
    | with_reducible apply keeps_ite

theorem coreReg_keeps {P : State → Prop} (hP : Closed P) (s : State) (h : Half) (k : ℕ) (o : ℕ) (v : ℕ) (hs : P s) :
    P (coreReg s h k o v) := by
  unfold coreReg
  repeat' first
    | with_reducible assumption
    | (extract_lets +onlyGivenNames y; refine (fun (_ : P y) => ?_) ?_; (on_goal 1 => clear_value y); (on_goal 2 => subst y))
    | (extract_lets +onlyGivenNames y; clear_value y) | with_reducible apply coreStore_keeps hP
    | with_reducible apply haltWrite_keeps hP | with_reducible apply stepCore_keeps hP
    | with_reducible apply coreRegWrite_keeps hP | with_reducible apply plainWrite_keeps hP
    | with_reducible apply keeps_ite

theorem ringReg_keeps {P : State → Prop} (hP : Closed P) (s : State) (h : Half) (r : ℕ) (o : ℕ) (v : ℕ) (hs : P s) :
    P (ringReg s h r o v) := by
  unfold ringReg
  repeat' first
    | with_reducible assumption
    | (extract_lets +onlyGivenNames y; refine (fun (_ : P y) => ?_) ?_; (on_goal 1 => clear_value y); (on_goal 2 => subst y))
    | (extract_lets +onlyGivenNames y; clear_value y) | with_reducible apply ringCtrl_keeps hP
    | with_reducible apply mbxCtrl_keeps hP | with_reducible apply plainWrite_keeps hP
    | with_reducible apply writeIf_keeps hP | with_reducible apply keeps_ite

theorem txCtrlAny_keeps {P : State → Prop} (hP : Closed P) (s : State) (h : Half) (c : ℕ) (b : ℕ) (v : ℕ) (hs : P s) :
    P (txCtrlAny s h c b v) := by
  unfold txCtrlAny
  repeat' first
    | with_reducible assumption
    | (extract_lets +onlyGivenNames y; refine (fun (_ : P y) => ?_) ?_; (on_goal 1 => clear_value y); (on_goal 2 => subst y))
    | (extract_lets +onlyGivenNames y; refine (fun (_ : P y.2) => ?_) ?_; (on_goal 1 => clear_value y); (on_goal 2 => subst y))
    | (extract_lets +onlyGivenNames y; clear_value y) | with_reducible apply State.takeFree_keeps hP
    | with_reducible apply txCtrl_keeps hP | with_reducible apply keeps_ite

theorem canReg_keeps {P : State → Prop} (hP : Closed P) (s : State) (h : Half) (c : ℕ) (o : ℕ) (v : ℕ) (hs : P s) :
    P (canReg s h c o v) := by
  unfold canReg
  repeat' first
    | with_reducible assumption
    | (extract_lets +onlyGivenNames y; refine (fun (_ : P y) => ?_) ?_; (on_goal 1 => clear_value y); (on_goal 2 => subst y))
    | (extract_lets +onlyGivenNames y; clear_value y) | with_reducible apply canCtrl_keeps hP
    | with_reducible apply canTiming_keeps hP | with_reducible apply txWord_keeps hP
    | with_reducible apply cqAck_keeps hP | with_reducible apply canCmd_keeps hP
    | with_reducible apply plainWrite_keeps hP | with_reducible apply txCtrlAny_keeps hP
    | with_reducible apply keeps_ite

theorem acqReg_keeps {P : State → Prop} (hP : Closed P) (s : State) (h : Half) (o : ℕ) (v : ℕ) (hs : P s) :
    P (acqReg s h o v) := by
  unfold acqReg
  repeat' first
    | with_reducible assumption
    | (extract_lets +onlyGivenNames y; refine (fun (_ : P y) => ?_) ?_; (on_goal 1 => clear_value y); (on_goal 2 => subst y))
    | (extract_lets +onlyGivenNames y; clear_value y) | with_reducible apply State.setFlag_keeps hP
    | with_reducible apply recCmd_keeps hP | with_reducible apply acqCtrl_keeps hP
    | with_reducible apply plainWrite_keeps hP | with_reducible apply keeps_ite

theorem halfWrite_keeps {P : State → Prop} (hP : Closed P) (s : State) (h : Half) (o : ℕ) (v : ℕ) (hs : P s) :
    P (halfWrite s h o v) := by
  unfold halfWrite
  repeat' first
    | with_reducible assumption | with_reducible apply learnWrite_keeps hP | with_reducible apply fixMax_keeps hP
    | with_reducible apply spCtrl_keeps hP | with_reducible apply plainWrite_keeps hP
    | with_reducible apply evtReg_keeps hP | with_reducible apply schedReg_keeps hP
    | with_reducible apply timeReg_keeps hP | with_reducible apply prfReg_keeps hP
    | with_reducible apply armReg_keeps hP | with_reducible apply govReg_keeps hP
    | with_reducible apply ceReg_keeps hP | with_reducible apply solvReg_keeps hP
    | with_reducible apply coreReg_keeps hP | with_reducible apply ringReg_keeps hP
    | with_reducible apply canReg_keeps hP | with_reducible apply acqReg_keeps hP | with_reducible apply keeps_ite

theorem halfWriteQuad_keeps {P : State → Prop} (hP : Closed P) (s : State) (h : Half) (o : ℕ) (v : ℕ) (hs : P s) :
    P (halfWriteQuad s h o v) := by
  unfold halfWriteQuad
  repeat' first
    | with_reducible assumption | with_reducible apply State.setFlag_keeps hP
    | with_reducible apply hoistGo_keeps hP | with_reducible apply plainQuad_keeps hP
    | with_reducible apply timeQuad_keeps hP | with_reducible apply prfQuad_keeps hP
    | with_reducible apply halfWrite_keeps hP | with_reducible apply keeps_ite

theorem plainRead_keeps {P : State → Prop} (hP : Closed P) (s : State) (a : ℕ) (hs : P s) :
    P (plainRead s a).2 := by
  unfold plainRead
  repeat' first
    | with_reducible assumption
    | (extract_lets +onlyGivenNames y; refine (fun (_ : P y) => ?_) ?_; (on_goal 1 => clear_value y); (on_goal 2 => subst y))
    | (extract_lets +onlyGivenNames y; clear_value y) | with_reducible apply State.setWord_keeps hP
    | with_reducible apply keeps_ite | with_reducible apply keeps_ite2 | with_reducible apply keeps_ite1 | split

theorem timeRead_keeps {P : State → Prop} (hP : Closed P) (s : State) (h : Half) (o : ℕ) (hs : P s) :
    P (timeRead s h o).2 := by
  unfold timeRead
  repeat' first
    | with_reducible assumption
    | (extract_lets +onlyGivenNames y; refine (fun (_ : P y) => ?_) ?_; (on_goal 1 => clear_value y); (on_goal 2 => subst y))
    | (extract_lets +onlyGivenNames y; refine (fun (_ : P y.2) => ?_) ?_; (on_goal 1 => clear_value y); (on_goal 2 => subst y))
    | (extract_lets +onlyGivenNames y; clear_value y) | with_reducible apply plainRead_keeps hP
    | with_reducible apply keeps_ite | with_reducible apply keeps_ite2

theorem schedRead_keeps {P : State → Prop} (hP : Closed P) (s : State) (h : Half) (o : ℕ) (hs : P s) : P (schedRead s h o).2 := by
  have hu : P (plainRead s (SCHED.addr h + o)).2 := plainRead_keeps hP _ _ hs
  simp only [schedRead]
  generalize plainRead s (SCHED.addr h + o) = p at hu ⊢
  obtain ⟨v, u⟩ := p
  exact keeps_ite2 hu (keeps_ite2 hu (keeps_ite2 hu hu))

theorem coreRead_keeps {P : State → Prop} (hP : Closed P) (s : State) (h : Half) (k : ℕ) (o : ℕ) (hs : P s) :
    P (coreRead s h k o).2 := by
  unfold coreRead
  repeat' first
    | with_reducible assumption | with_reducible apply plainRead_keeps hP | with_reducible apply keeps_ite
    | with_reducible apply keeps_ite2

theorem canRead_keeps {P : State → Prop} (hP : Closed P) (s : State) (h : Half) (c : ℕ) (o : ℕ) (hs : P s) :
    P (canRead s h c o).2 := by
  unfold canRead
  repeat' first
    | with_reducible assumption
    | (extract_lets +onlyGivenNames y; refine (fun (_ : P y) => ?_) ?_; (on_goal 1 => clear_value y); (on_goal 2 => subst y))
    | (extract_lets +onlyGivenNames y; refine (fun (_ : P y.2) => ?_) ?_; (on_goal 1 => clear_value y); (on_goal 2 => subst y))
    | (extract_lets +onlyGivenNames y; clear_value y) | with_reducible apply mailboxHead_keeps hP
    | with_reducible apply mailboxRead_keeps hP | with_reducible apply plainRead_keeps hP
    | with_reducible apply keeps_ite | with_reducible apply keeps_ite2

theorem halfRead_keeps {P : State → Prop} (hP : Closed P) (s : State) (h : Half) (o : ℕ) (hs : P s) :
    P (halfRead s h o).2 := by
  unfold halfRead
  repeat' first
    | with_reducible assumption
    | (extract_lets +onlyGivenNames y; refine (fun (_ : P y) => ?_) ?_; (on_goal 1 => clear_value y); (on_goal 2 => subst y))
    | (extract_lets +onlyGivenNames y; refine (fun (_ : P y.2) => ?_) ?_; (on_goal 1 => clear_value y); (on_goal 2 => subst y))
    | (extract_lets +onlyGivenNames y; clear_value y) | with_reducible apply hoistRead_keeps hP
    | with_reducible apply plainRead_keeps hP | with_reducible apply timeRead_keeps hP
    | with_reducible apply schedRead_keeps hP | with_reducible apply coreRead_keeps hP
    | with_reducible apply canRead_keeps hP | with_reducible apply keeps_ite | with_reducible apply keeps_ite2

theorem State.setBus_keeps {P : State → Prop} (hP : Closed P) (s : State) (x : BusUnit) (hs : P s) :
    P (State.setBus s x) := by
  unfold State.setBus
  repeat' first
    | with_reducible assumption
    | (extract_lets +onlyGivenNames y; refine (fun (_ : P y) => ?_) ?_; (on_goal 1 => clear_value y); (on_goal 2 => subst y))
    | (extract_lets +onlyGivenNames y; clear_value y) | with_reducible apply hP.put | with_reducible apply hP.byte
    | with_reducible apply hP.drop | with_reducible apply hP.wipe | with_reducible apply hP.keepRegs
    | with_reducible apply hP.keepMem | with_reducible apply hP.other

theorem busError_keeps {P : State → Prop} (hP : Closed P) (s : State) (k32 : Bool) (kind : ℕ) (master : ℕ) (core : ℕ) (addr : ℕ) (iosp : Bool) (wrt : Bool) (hs : P s) :
    P (busError s k32 kind master core addr iosp wrt) := by
  unfold busError
  repeat' first
    | with_reducible assumption
    | (extract_lets +onlyGivenNames y; refine (fun (_ : P y) => ?_) ?_; (on_goal 1 => clear_value y); (on_goal 2 => subst y))
    | (extract_lets +onlyGivenNames y; clear_value y) | with_reducible apply State.setWordN_keeps hP
    | with_reducible apply State.setFld_keeps hP | with_reducible apply raiseBoth_keeps hP

theorem interruptAsserted_keeps {P : State → Prop} (hP : Closed P) (s : State) (k32 : Bool) (i : ℕ) (on : Bool) (hs : P s) :
    P (interruptAsserted s k32 i on) := by
  unfold interruptAsserted
  repeat' first
    | with_reducible assumption
    | (extract_lets +onlyGivenNames y; refine (fun (_ : P y) => ?_) ?_; (on_goal 1 => clear_value y); (on_goal 2 => subst y))
    | (extract_lets +onlyGivenNames y; clear_value y) | with_reducible apply State.setFld_keeps hP
    | with_reducible apply raiseBoth_keeps hP | with_reducible apply keeps_ite

theorem iackWrite_keeps {P : State → Prop} (hP : Closed P) (s : State) (sel : ℕ) (ans : Option ℕ) (hs : P s) :
    P (iackWrite s sel ans) := by
  unfold iackWrite
  repeat' first
    | with_reducible assumption
    | (extract_lets +onlyGivenNames y; refine (fun (_ : P y) => ?_) ?_; (on_goal 1 => clear_value y); (on_goal 2 => subst y))
    | (extract_lets +onlyGivenNames y; clear_value y) | with_reducible apply State.setFld_keeps hP
    | with_reducible apply State.setFlag_keeps hP | with_reducible apply State.putFlag_keeps hP
    | with_reducible apply State.setBus_keeps hP | with_reducible apply busError_keeps hP
    | with_reducible apply keeps_ite | split

theorem iackReassert_keeps {P : State → Prop} (hP : Closed P) (s : State) (hs : P s) :
    P (iackReassert s) := by
  unfold iackReassert
  repeat' first
    | with_reducible assumption
    | (extract_lets +onlyGivenNames y; refine (fun (_ : P y) => ?_) ?_; (on_goal 1 => clear_value y); (on_goal 2 => subst y))
    | (extract_lets +onlyGivenNames y; clear_value y) | with_reducible apply raiseBoth_keeps hP
    | with_reducible apply State.setBus_keeps hP | with_reducible apply keeps_ite | split

theorem busTimer_keeps {P : State → Prop} (hP : Closed P) (s : State) (k32 : Bool) (iosp : Bool) (wrt : Bool) (addr : ℕ) (hs : P s) :
    P (busTimer s k32 iosp wrt addr) := by
  unfold busTimer
  repeat' first
    | with_reducible assumption
    | (extract_lets +onlyGivenNames y; refine (fun (_ : P y) => ?_) ?_; (on_goal 1 => clear_value y); (on_goal 2 => subst y))
    | (extract_lets +onlyGivenNames y; clear_value y) | with_reducible apply State.setBus_keeps hP
    | with_reducible apply busError_keeps hP | with_reducible apply keeps_ite

theorem busRequest_keeps {P : State → Prop} (hP : Closed P) (s : State) (breq : Bool) (bbsy : Bool) (hs : P s) :
    P (busRequest s breq bbsy) := by
  unfold busRequest
  repeat' first
    | with_reducible assumption
    | (extract_lets +onlyGivenNames y; refine (fun (_ : P y) => ?_) ?_; (on_goal 1 => clear_value y); (on_goal 2 => subst y))
    | (extract_lets +onlyGivenNames y; clear_value y) | with_reducible apply State.setBus_keeps hP
    | with_reducible apply keeps_ite

theorem grantLost_keeps {P : State → Prop} (hP : Closed P) (s : State) (hs : P s) :
    P (grantLost s) := by
  unfold grantLost
  repeat' first
    | with_reducible assumption
    | (extract_lets +onlyGivenNames y; refine (fun (_ : P y) => ?_) ?_; (on_goal 1 => clear_value y); (on_goal 2 => subst y))
    | (extract_lets +onlyGivenNames y; clear_value y) | with_reducible apply State.count_keeps hP
    | with_reducible apply State.setBus_keeps hP | with_reducible apply keeps_ite | split

theorem foreignArbiter_keeps {P : State → Prop} (hP : Closed P) (s : State) (hs : P s) :
    P (foreignArbiter s) := by
  unfold foreignArbiter
  repeat' first
    | with_reducible assumption
    | (extract_lets +onlyGivenNames y; refine (fun (_ : P y) => ?_) ?_; (on_goal 1 => clear_value y); (on_goal 2 => subst y))
    | (extract_lets +onlyGivenNames y; clear_value y) | with_reducible apply State.setFlag_keeps hP
    | with_reducible apply faultLog_keeps hP | with_reducible apply State.setBus_keeps hP
    | with_reducible apply keeps_ite

theorem sysrstReceive_keeps {P : State → Prop} (hP : Closed P) (s : State) (passA : Bool) (passB : Bool) (hs : P s) :
    P (sysrstReceive s passA passB) := by
  unfold sysrstReceive
  repeat' first
    | with_reducible assumption | with_reducible apply raiseBoth_keeps hP | with_reducible apply faultLog_keeps hP
    | with_reducible apply moduleReset_keeps hP | with_reducible apply keeps_ite

theorem sysrstOut_keeps {P : State → Prop} (hP : Closed P) (s : State) (hs : P s) :
    P (sysrstOut s) := by
  unfold sysrstOut
  repeat' first
    | with_reducible assumption
    | (extract_lets +onlyGivenNames y; refine (fun (_ : P y) => ?_) ?_; (on_goal 1 => clear_value y); (on_goal 2 => subst y))
    | (extract_lets +onlyGivenNames y; clear_value y) | with_reducible apply State.setBus_keeps hP
    | with_reducible apply keeps_ite

theorem bpiClrCnt_keeps {P : State → Prop} (hP : Closed P) (s : State) (hs : P s) :
    P (bpiClrCnt s) := by
  unfold bpiClrCnt
  repeat' first | with_reducible assumption | with_reducible apply State.setWord_keeps hP

theorem doorbell_keeps {P : State → Prop} (hP : Closed P) (s : State) (v : ℕ) (hs : P s) :
    P (doorbell s v) := by
  unfold doorbell
  repeat' first
    | with_reducible assumption | with_reducible apply State.setWordN_keeps hP
    | with_reducible apply raiseBoth_keeps hP

theorem vecPendClear_keeps {P : State → Prop} (hP : Closed P) (s : State) (mask : ℕ) (hs : P s) :
    P (vecPendClear s mask) := by
  unfold vecPendClear
  repeat' first
    | with_reducible assumption | with_reducible apply State.setMapBit_keeps hP
    | (with_reducible apply keeps_foldl; intro _ _ _) | with_reducible apply keeps_ite

theorem iackCycle_keeps {P : State → Prop} (hP : Closed P) (s : State) (k32 : Bool) (i : ℕ) (hs : P s) :
    P (iackCycle s k32 i) := by
  unfold iackCycle
  repeat' first
    | with_reducible assumption
    | (extract_lets +onlyGivenNames y; refine (fun (_ : P y) => ?_) ?_; (on_goal 1 => clear_value y); (on_goal 2 => subst y))
    | (extract_lets +onlyGivenNames y; clear_value y) | with_reducible apply State.answer_keeps hP
    | with_reducible apply State.setBus_keeps hP | with_reducible apply keeps_ite | split

theorem bpiReg_keeps {P : State → Prop} (hP : Closed P) (s : State) (plain : State → ℕ → ℕ → State) (o : ℕ) (v : ℕ) (hplain : ∀ s a v, P s → P (plain s a v)) (hs : P s) :
    P (bpiReg s plain o v) := by
  unfold bpiReg
  repeat' first
    | with_reducible assumption
    | (extract_lets +onlyGivenNames y; refine (fun (_ : P y) => ?_) ?_; (on_goal 1 => clear_value y); (on_goal 2 => subst y))
    | (extract_lets +onlyGivenNames y; refine (fun (_ : P y.2) => ?_) ?_; (on_goal 1 => clear_value y); (on_goal 2 => subst y))
    | (extract_lets +onlyGivenNames y; clear_value y) | with_reducible apply hplain
    | with_reducible apply State.takeFree_keeps hP | with_reducible apply iackWrite_keeps hP
    | with_reducible apply sysrstOut_keeps hP | with_reducible apply bpiClrCnt_keeps hP
    | with_reducible apply doorbell_keeps hP | with_reducible apply keeps_ite

theorem sealedWrite_keeps {P : State → Prop} (hP : Closed P) (s : State) (o : ℕ) (v : ℕ) (hs : P s) :
    P (sealedWrite s o v) := by
  unfold sealedWrite
  repeat' first
    | with_reducible assumption | with_reducible apply State.setFld_keeps hP
    | with_reducible apply loadSection_keeps hP | with_reducible apply fpAccept_keeps hP
    | with_reducible apply stagingWrite_keeps hP | with_reducible apply ssmTest_keeps hP
    | with_reducible apply smsgClear_keeps hP | with_reducible apply keeps_ite

theorem commonWrite_keeps {P : State → Prop} (hP : Closed P) (s : State) (o : ℕ) (v : ℕ) (hs : P s) :
    P (commonWrite s o v) := by
  unfold commonWrite
  repeat' first
    | with_reducible assumption
    | (extract_lets +onlyGivenNames y; refine (fun (_ : P y) => ?_) ?_; (on_goal 1 => clear_value y); (on_goal 2 => subst y))
    | (extract_lets +onlyGivenNames y; clear_value y) | with_reducible apply hlPulse_keeps hP
    | with_reducible apply rwsWrite_keeps hP | with_reducible apply penCmd_keeps hP
    | with_reducible apply modCmd_keeps hP | with_reducible apply keyCmd_keeps hP
    | with_reducible apply keyWrite_keeps hP | with_reducible apply outWrite_keeps hP
    | with_reducible apply plainWrite_keeps hP | with_reducible apply vecPendClear_keeps hP
    | with_reducible apply bpiReg_keeps hP | with_reducible apply sealedWrite_keeps hP
    | with_reducible apply keeps_ite | (intro _ _)

theorem commonRead_keeps {P : State → Prop} (hP : Closed P) (s : State) (o : ℕ) (hs : P s) :
    P (commonRead s o).2 := by
  unfold commonRead
  repeat' first
    | with_reducible assumption
    | (extract_lets +onlyGivenNames y; refine (fun (_ : P y) => ?_) ?_; (on_goal 1 => clear_value y); (on_goal 2 => subst y))
    | (extract_lets +onlyGivenNames y; refine (fun (fy1 : ∀ t, P t → P (y t)) => ?_) ?_; (on_goal 1 => clear_value y); (on_goal 2 => (subst y; intro t ht; beta_reduce)))
    | (extract_lets +onlyGivenNames y; refine (fun (fy2 : ∀ t r, P t → P (y t r)) => ?_) ?_; (on_goal 1 => clear_value y); (on_goal 2 => (subst y; intro t r ht; beta_reduce)))
    | (extract_lets +onlyGivenNames y; refine (fun (fy3 : ∀ t r q, P t → P (y t r q)) => ?_) ?_; (on_goal 1 => clear_value y); (on_goal 2 => (subst y; intro t r q ht; beta_reduce)))
    | (extract_lets +onlyGivenNames y; refine (fun (fy4 : ∀ t r q p, P t → P (y t r q p)) => ?_) ?_; (on_goal 1 => clear_value y); (on_goal 2 => (subst y; intro t r q p ht; beta_reduce)))
    | (extract_lets +onlyGivenNames y; refine (fun (_ : P y.2) => ?_) ?_; (on_goal 1 => clear_value y); (on_goal 2 => subst y))
    | (extract_lets +onlyGivenNames y; clear_value y) | with_reducible apply fy1 | with_reducible apply fy2
    | with_reducible apply fy3 | with_reducible apply fy4 | with_reducible apply plainRead_keeps hP
    | with_reducible apply keeps_ite | with_reducible apply keeps_ite2

theorem regRead_keeps {P : State → Prop} (hP : Closed P) (s : State) (a : ℕ) (hs : P s) :
    P (regRead s a).2 := by
  unfold regRead
  repeat' first
    | with_reducible assumption | with_reducible apply halfRead_keeps hP | with_reducible apply commonRead_keeps hP
    | with_reducible apply keeps_ite | with_reducible apply keeps_ite2

theorem regWrite_keeps {P : State → Prop} (hP : Closed P) (s : State) (a : ℕ) (v : ℕ) (hs : P s) :
    P (regWrite s a v) := by
  unfold regWrite
  repeat' first
    | with_reducible assumption | with_reducible apply halfWrite_keeps hP
    | with_reducible apply commonWrite_keeps hP | with_reducible apply keeps_ite

theorem regWriteQuad_keeps {P : State → Prop} (hP : Closed P) (s : State) (a : ℕ) (v : ℕ) (hs : P s) :
    P (regWriteQuad s a v) := by
  unfold regWriteQuad
  repeat' first
    | with_reducible assumption | with_reducible apply plainQuad_keeps hP
    | with_reducible apply halfWriteQuad_keeps hP | with_reducible apply vecPendClear_keeps hP
    | with_reducible apply keeps_ite

theorem readWords_keeps {P : State → Prop} (hP : Closed P) (s : State) (a : ℕ) (x2 : ℕ) (hs : P s) :
    P (readWords s a x2).2 := by
  induction x2 generalizing s a with
  | zero =>
    unfold readWords
    repeat' first | with_reducible assumption
  | succ n0 ih =>
    unfold readWords
    repeat' first
      | with_reducible assumption
      | (extract_lets +onlyGivenNames y; refine (fun (_ : P y) => ?_) ?_; (on_goal 1 => clear_value y); (on_goal 2 => subst y))
      | (extract_lets +onlyGivenNames y; refine (fun (_ : P y.2) => ?_) ?_; (on_goal 1 => clear_value y); (on_goal 2 => subst y))
      | (extract_lets +onlyGivenNames y; clear_value y) | with_reducible apply ih
      | with_reducible apply regRead_keeps hP

theorem State.setPort_keeps {P : State → Prop} (hP : Closed P) (s : State) (m : Master) (p : PortBuf) (hs : P s) :
    P (State.setPort s m p) := by
  unfold State.setPort
  repeat' first
    | with_reducible assumption
    | (extract_lets +onlyGivenNames y; refine (fun (_ : P y) => ?_) ?_; (on_goal 1 => clear_value y); (on_goal 2 => subst y))
    | (extract_lets +onlyGivenNames y; clear_value y) | with_reducible apply State.setBus_keeps hP

theorem portRead_keeps {P : State → Prop} (hP : Closed P) (s : State) (m : Master) (a : ℕ) (n : ℕ) (hs : P s) :
    P (portRead s m a n).2 := by
  unfold portRead
  repeat' first
    | with_reducible assumption
    | (extract_lets +onlyGivenNames y; refine (fun (_ : P y) => ?_) ?_; (on_goal 1 => clear_value y); (on_goal 2 => subst y))
    | (extract_lets +onlyGivenNames y; refine (fun (_ : P y.2) => ?_) ?_; (on_goal 1 => clear_value y); (on_goal 2 => subst y))
    | (extract_lets +onlyGivenNames y; clear_value y) | with_reducible apply regRead_keeps hP
    | with_reducible apply readWords_keeps hP | with_reducible apply State.setPort_keeps hP
    | with_reducible apply keeps_ite | with_reducible apply keeps_ite2 | with_reducible apply keeps_ite1 | split

theorem dropStage_keeps {P : State → Prop} (hP : Closed P) (s : State) (m : Master) (b : ℕ) (hs : P s) :
    P (dropStage s m b) := by
  unfold dropStage
  repeat' first
    | with_reducible assumption
    | (extract_lets +onlyGivenNames y; refine (fun (_ : P y) => ?_) ?_; (on_goal 1 => clear_value y); (on_goal 2 => subst y))
    | (extract_lets +onlyGivenNames y; clear_value y) | with_reducible apply State.count_keeps hP
    | with_reducible apply State.setPort_keeps hP | with_reducible apply keeps_ite | split

theorem portWrite_keeps {P : State → Prop} (hP : Closed P) (s : State) (m : Master) (a : ℕ) (n : ℕ) (v : ℕ) (hs : P s) :
    P (portWrite s m a n v) := by
  unfold portWrite
  repeat' first
    | with_reducible assumption
    | (extract_lets +onlyGivenNames y; refine (fun (_ : P y) => ?_) ?_; (on_goal 1 => clear_value y); (on_goal 2 => subst y))
    | (extract_lets +onlyGivenNames y; clear_value y) | with_reducible apply regWrite_keeps hP
    | with_reducible apply regWriteQuad_keeps hP | with_reducible apply State.setPort_keeps hP
    | with_reducible apply dropStage_keeps hP | with_reducible apply keeps_ite

theorem bytesWrite_keeps {P : State → Prop} (hP : Closed P) (s : State) (a : ℕ) (n : ℕ) (v : ℕ) (hs : P s) :
    P (bytesWrite s a n v) := by
  unfold bytesWrite
  repeat' first | with_reducible assumption | with_reducible apply State.setMemBytes_keeps hP

theorem undecoded_keeps {P : State → Prop} (hP : Closed P) (s : State) (m : Master) (a : ℕ) (kind : ℕ) (hs : P s) :
    P (undecoded s m a kind) := by
  unfold undecoded
  repeat' first
    | with_reducible assumption | with_reducible apply raiseBoth_keeps hP | with_reducible apply errRecord_keeps hP

theorem accessAt_keeps {P : State → Prop} (hP : Closed P) (s : State) (m : Master) (shown : ℕ) (a : ℕ) (n : ℕ) (write : Option ℕ) (hs : P s) :
    P (accessAt s m shown a n write).2 := by
  unfold accessAt
  repeat' first
    | with_reducible assumption
    | (extract_lets +onlyGivenNames y; refine (fun (_ : P y) => ?_) ?_; (on_goal 1 => clear_value y); (on_goal 2 => subst y))
    | (extract_lets +onlyGivenNames y; refine (fun (_ : P y.2) => ?_) ?_; (on_goal 1 => clear_value y); (on_goal 2 => subst y))
    | (extract_lets +onlyGivenNames y; clear_value y) | with_reducible apply State.setBus_keeps hP
    | with_reducible apply portRead_keeps hP | with_reducible apply portWrite_keeps hP
    | with_reducible apply bytesWrite_keeps hP | with_reducible apply undecoded_keeps hP
    | with_reducible apply keeps_ite | with_reducible apply keeps_ite2 | with_reducible apply keeps_ite1 | split

theorem access_keeps {P : State → Prop} (hP : Closed P) (s : State) (m : Master) (a : ℕ) (n : ℕ) (write : Option ℕ) (hs : P s) :
    P (access s m a n write).2 := by
  unfold access
  repeat' first
    | with_reducible assumption
    | (extract_lets +onlyGivenNames y; refine (fun (_ : P y) => ?_) ?_; (on_goal 1 => clear_value y); (on_goal 2 => subst y))
    | (extract_lets +onlyGivenNames y; refine (fun (_ : P y.2) => ?_) ?_; (on_goal 1 => clear_value y); (on_goal 2 => subst y))
    | (extract_lets +onlyGivenNames y; clear_value y) | with_reducible apply undecoded_keeps hP
    | with_reducible apply accessAt_keeps hP | with_reducible apply keeps_ite | with_reducible apply keeps_ite2
    | with_reducible apply keeps_ite1 | split | with_reducible apply hP.put | with_reducible apply hP.byte
    | with_reducible apply hP.drop | with_reducible apply hP.wipe | with_reducible apply hP.keepRegs
    | with_reducible apply hP.keepMem | with_reducible apply hP.other

theorem masterAccess_keeps {P : State → Prop} (hP : Closed P) (s : State) (m : Master) (a : ℕ) (n : ℕ) (write : Option ℕ) (hs : P s) :
    P (masterAccess s m a n write) := by
  unfold masterAccess
  repeat' first
    | with_reducible assumption | with_reducible apply State.answer_keeps hP
    | with_reducible apply failMaster_keeps hP | with_reducible apply access_keeps hP
    | with_reducible apply keeps_ite | split
    | (with_reducible refine keeps_pair22 (by with_reducible assumption) ?_)
    | (with_reducible refine keeps_pair2 (by with_reducible assumption) ?_)

theorem svcTake_keeps {P : State → Prop} (hP : Closed P) (s : State) (read : Bool) (r : Reply) (hs : P s) :
    P (svcTake s read r) := by
  unfold svcTake
  repeat' first
    | with_reducible assumption
    | (extract_lets +onlyGivenNames y; refine (fun (_ : P y) => ?_) ?_; (on_goal 1 => clear_value y); (on_goal 2 => subst y))
    | (extract_lets +onlyGivenNames y; clear_value y) | with_reducible apply State.setBus_keeps hP
    | with_reducible apply keeps_ite | split

theorem svcRun_keeps {P : State → Prop} (hP : Closed P) (s : State) (x1 : List (ℕ × Option Word)) (hs : P s) :
    P (svcRun s x1) := by
  induction x1 generalizing s with
  | nil =>
    unfold svcRun
    repeat' first
      | with_reducible assumption
      | (extract_lets +onlyGivenNames y; refine (fun (_ : P y) => ?_) ?_; (on_goal 1 => clear_value y); (on_goal 2 => subst y))
      | (extract_lets +onlyGivenNames y; refine (fun (_ : P y.2) => ?_) ?_; (on_goal 1 => clear_value y); (on_goal 2 => subst y))
      | (extract_lets +onlyGivenNames y; clear_value y) | with_reducible apply State.setBus_keeps hP
  | cons z0 l0 ih =>
    unfold svcRun
    repeat' first
      | with_reducible assumption
      | (extract_lets +onlyGivenNames y; refine (fun (_ : P y) => ?_) ?_; (on_goal 1 => clear_value y); (on_goal 2 => subst y))
      | (extract_lets +onlyGivenNames y; refine (fun (_ : P y.2) => ?_) ?_; (on_goal 1 => clear_value y); (on_goal 2 => subst y))
      | (extract_lets +onlyGivenNames y; clear_value y) | with_reducible apply ih
      | with_reducible apply State.setBus_keeps hP | with_reducible apply access_keeps hP
      | with_reducible apply svcTake_keeps hP | split
      | (with_reducible refine keeps_pair22 (by with_reducible assumption) ?_)
      | (with_reducible refine keeps_pair2 (by with_reducible assumption) ?_)

theorem serviceRequest_keeps {P : State → Prop} (hP : Closed P) (s : State) (src : ℕ) (b : List Byte) (hs : P s) :
    P (serviceRequest s src b) := by
  unfold serviceRequest
  repeat' first
    | with_reducible assumption
    | (extract_lets +onlyGivenNames y; refine (fun (_ : P y) => ?_) ?_; (on_goal 1 => clear_value y); (on_goal 2 => subst y))
    | (extract_lets +onlyGivenNames y; clear_value y) | with_reducible apply State.setBus_keeps hP
    | with_reducible apply svcRun_keeps hP | with_reducible apply keeps_ite

theorem farDone_keeps {P : State → Prop} (hP : Closed P) (s : State) (h : Half) (k : ℕ) (f : FarAcc) (v : ℕ) (hs : P s) :
    P (farDone s h k f v) := by
  unfold farDone
  repeat' first
    | with_reducible assumption
    | (extract_lets +onlyGivenNames y; refine (fun (_ : P y) => ?_) ?_; (on_goal 1 => clear_value y); (on_goal 2 => subst y))
    | (extract_lets +onlyGivenNames y; clear_value y) | with_reducible apply State.setCore_keeps hP
    | with_reducible apply haltCheck_keeps hP

theorem coreEnded_keeps {P : State → Prop} (hP : Closed P) (s : State) (h : Half) (k : Fin 24) (f : FarAcc) (r : Reply) (hs : P s) :
    P (coreEnded s h k f r) := by
  unfold coreEnded
  repeat' first
    | with_reducible assumption | with_reducible apply coreFault_keeps hP | with_reducible apply farDone_keeps hP
    | split

theorem accessEnded_keeps {P : State → Prop} (hP : Closed P) (s : State) (m : Master) (a : ℕ) (read : Bool) (r : Reply) (hs : P s) :
    P (accessEnded s m a read r) := by
  unfold accessEnded
  repeat' first
    | with_reducible assumption
    | (extract_lets +onlyGivenNames y; refine (fun (_ : P y) => ?_) ?_; (on_goal 1 => clear_value y); (on_goal 2 => subst y))
    | (extract_lets +onlyGivenNames y; clear_value y) | with_reducible apply State.answer_keeps hP
    | with_reducible apply failMaster_keeps hP | with_reducible apply svcTake_keeps hP
    | with_reducible apply svcRun_keeps hP | with_reducible apply coreEnded_keeps hP
    | with_reducible apply keeps_ite | split | with_reducible apply hP.put | with_reducible apply hP.byte
    | with_reducible apply hP.drop | with_reducible apply hP.wipe | with_reducible apply hP.keepRegs
    | with_reducible apply hP.keepMem | with_reducible apply hP.other

theorem farAccess_keeps {P : State → Prop} (hP : Closed P) (s : State) (h : Half) (k : Fin 24) (lost : ℕ) (hs : P s) :
    P (farAccess s h k lost) := by
  unfold farAccess
  repeat' first
    | with_reducible assumption | with_reducible apply lostSlots_keeps hP | with_reducible apply access_keeps hP
    | with_reducible apply coreEnded_keeps hP | with_reducible apply keeps_ite | split

theorem holdRelease_keeps {P : State → Prop} (hP : Closed P) (s : State) (hs : P s) :
    P (holdRelease s) := by
  unfold holdRelease
  repeat' first
    | with_reducible assumption
    | (extract_lets +onlyGivenNames y; refine (fun (_ : P y) => ?_) ?_; (on_goal 1 => clear_value y); (on_goal 2 => subst y))
    | (extract_lets +onlyGivenNames y; refine (fun (_ : P y.2) => ?_) ?_; (on_goal 1 => clear_value y); (on_goal 2 => subst y))
    | (extract_lets +onlyGivenNames y; clear_value y) | with_reducible apply takeHeld_keeps hP
    | with_reducible apply access_keeps hP | with_reducible apply accessEnded_keeps hP
    | (with_reducible apply keeps_foldl; intro _ _ _)

theorem outFail_keeps {P : State → Prop} (hP : Closed P) (s : State) (m : Master) (a : ℕ) (kind : ℕ) (wrt : Bool) (hs : P s) :
    P (outFail s m a kind wrt) := by
  unfold outFail
  repeat' first
    | with_reducible assumption
    | (extract_lets +onlyGivenNames y; refine (fun (_ : P y) => ?_) ?_; (on_goal 1 => clear_value y); (on_goal 2 => subst y))
    | (extract_lets +onlyGivenNames y; clear_value y) | with_reducible apply busError_keeps hP

theorem outLost_keeps {P : State → Prop} (hP : Closed P) (s : State) (x : OutAcc) (kind : ℕ) (hs : P s) :
    P (outLost s x kind) := by
  unfold outLost
  repeat' first
    | with_reducible assumption
    | (extract_lets +onlyGivenNames y; refine (fun (_ : P y) => ?_) ?_; (on_goal 1 => clear_value y); (on_goal 2 => subst y))
    | (extract_lets +onlyGivenNames y; clear_value y) | with_reducible apply accessEnded_keeps hP
    | with_reducible apply outFail_keeps hP

theorem outboundAccess_keeps {P : State → Prop} (hP : Closed P) (s : State) (m : Master) (o : ℕ) (write : Option Word) (hs : P s) :
    P (outboundAccess s m o write) := by
  unfold outboundAccess
  repeat' first
    | with_reducible assumption | with_reducible apply masterAccess_keeps hP | with_reducible apply keeps_ite

theorem grantTimeout_keeps {P : State → Prop} (hP : Closed P) (s : State) (hs : P s) :
    P (grantTimeout s) := by
  unfold grantTimeout
  repeat' first
    | with_reducible assumption
    | (extract_lets +onlyGivenNames y; refine (fun (_ : P y) => ?_) ?_; (on_goal 1 => clear_value y); (on_goal 2 => subst y))
    | (extract_lets +onlyGivenNames y; clear_value y) | with_reducible apply State.setBus_keeps hP
    | with_reducible apply outLost_keeps hP | with_reducible apply keeps_ite | split

theorem grantArrives_keeps {P : State → Prop} (hP : Closed P) (s : State) (resp : Option Word) (hs : P s) :
    P (grantArrives s resp) := by
  unfold grantArrives
  repeat' first
    | with_reducible assumption
    | (extract_lets +onlyGivenNames y; refine (fun (_ : P y) => ?_) ?_; (on_goal 1 => clear_value y); (on_goal 2 => subst y))
    | (extract_lets +onlyGivenNames y; clear_value y) | with_reducible apply State.setBus_keeps hP
    | with_reducible apply accessEnded_keeps hP | with_reducible apply outLost_keeps hP
    | with_reducible apply keeps_ite | split

theorem copyAccess_keeps {P : State → Prop} (hP : Closed P) (s : State) (m : Master) (a : ℕ) (write : Option Word) (hs : P s) :
    P (copyAccess s m a write).2 := by
  unfold copyAccess
  repeat' first
    | with_reducible assumption
    | (extract_lets +onlyGivenNames y; refine (fun (_ : P y) => ?_) ?_; (on_goal 1 => clear_value y); (on_goal 2 => subst y))
    | (extract_lets +onlyGivenNames y; refine (fun (_ : P y.2) => ?_) ?_; (on_goal 1 => clear_value y); (on_goal 2 => subst y))
    | (extract_lets +onlyGivenNames y; clear_value y) | with_reducible apply State.takeFree_keeps hP
    | with_reducible apply State.setBus_keeps hP | with_reducible apply access_keeps hP
    | with_reducible apply outFail_keeps hP | with_reducible apply keeps_ite | with_reducible apply keeps_ite2

theorem copyWords_keeps {P : State → Prop} (hP : Closed P) (s : State) (h : Half) (k : Fin 24) (o : CopyOp) (a : ℕ) (idx : ℕ) (x6 : ℕ) (hs : P s) :
    P (copyWords s h k o a idx x6).2 := by
  induction x6 generalizing s h k o a idx with
  | zero =>
    unfold copyWords
    repeat' first | with_reducible assumption
  | succ n0 ih =>
    unfold copyWords
    repeat' first
      | with_reducible assumption
      | (extract_lets +onlyGivenNames y; refine (fun (_ : P y) => ?_) ?_; (on_goal 1 => clear_value y); (on_goal 2 => subst y))
      | (extract_lets +onlyGivenNames y; refine (fun (_ : P y.2) => ?_) ?_; (on_goal 1 => clear_value y); (on_goal 2 => subst y))
      | (extract_lets +onlyGivenNames y; clear_value y) | with_reducible apply ih
      | with_reducible apply coreStore_keeps hP | with_reducible apply copyAccess_keeps hP
      | with_reducible apply keeps_ite | with_reducible apply keeps_ite2 | with_reducible apply keeps_ite1 | split
      | (with_reducible refine keeps_pair22 (by with_reducible assumption) ?_)
      | (with_reducible refine keeps_pair2 (by with_reducible assumption) ?_)

theorem afterCopy_keeps {P : State → Prop} (hP : Closed P) (s : State) (h : Half) (k : ℕ) (hs : P s) :
    P (afterCopy s h k) := by
  unfold afterCopy
  repeat' first
    | with_reducible assumption
    | (extract_lets +onlyGivenNames y; refine (fun (_ : P y) => ?_) ?_; (on_goal 1 => clear_value y); (on_goal 2 => subst y))
    | (extract_lets +onlyGivenNames y; clear_value y) | with_reducible apply startCopy_keeps hP
    | with_reducible apply passWaitc_keeps hP | with_reducible apply endFaultedUrgent_keeps hP
    | with_reducible apply keeps_ite | split

theorem copyComplete_keeps {P : State → Prop} (hP : Closed P) (s : State) (h : Half) (k : Fin 24) (lost : ℕ) (hs : P s) :
    P (copyComplete s h k lost) := by
  unfold copyComplete
  repeat' first
    | with_reducible assumption
    | (extract_lets +onlyGivenNames y; refine (fun (_ : P y) => ?_) ?_; (on_goal 1 => clear_value y); (on_goal 2 => subst y))
    | (extract_lets +onlyGivenNames y; refine (fun (_ : P y.2) => ?_) ?_; (on_goal 1 => clear_value y); (on_goal 2 => subst y))
    | (extract_lets +onlyGivenNames y; clear_value y) | with_reducible apply State.setCore_keeps hP
    | with_reducible apply coreFault_keeps hP | with_reducible apply lostSlots_keeps hP
    | with_reducible apply copyWords_keeps hP | with_reducible apply afterCopy_keeps hP
    | with_reducible apply keeps_ite | split

theorem notAnswered_keeps {P : State → Prop} (hP : Closed P) (s : State) (hs : P s) :
    P (notAnswered s) := by
  unfold notAnswered
  repeat' first
    | with_reducible assumption
    | (extract_lets +onlyGivenNames y; refine (fun (_ : P y) => ?_) ?_; (on_goal 1 => clear_value y); (on_goal 2 => subst y))
    | (extract_lets +onlyGivenNames y; clear_value y) | with_reducible apply State.setBus_keeps hP

theorem answered_keeps {P : State → Prop} (hP : Closed P) (s : State) (hs : P s) :
    P (answered s) := by
  unfold answered
  repeat' first
    | with_reducible assumption
    | (extract_lets +onlyGivenNames y; refine (fun (_ : P y) => ?_) ?_; (on_goal 1 => clear_value y); (on_goal 2 => subst y))
    | (extract_lets +onlyGivenNames y; clear_value y) | with_reducible apply State.setBus_keeps hP

theorem slaveAccess_keeps {P : State → Prop} (hP : Closed P) (s : State) (m : Master) (a : ℕ) (n : ℕ) (write : Option ℕ) (hs : P s) :
    P (slaveAccess s m a n write) := by
  unfold slaveAccess
  repeat' first
    | with_reducible assumption | with_reducible apply masterAccess_keeps hP
    | with_reducible apply answered_keeps hP

theorem k16Io_keeps {P : State → Prop} (hP : Closed P) (s : State) (i : ℕ) (write : Option ℕ) (hs : P s) :
    P (k16Io s i write) := by
  unfold k16Io
  repeat' first
    | with_reducible assumption
    | (extract_lets +onlyGivenNames y; refine (fun (_ : P y) => ?_) ?_; (on_goal 1 => clear_value y); (on_goal 2 => subst y))
    | (extract_lets +onlyGivenNames y; clear_value y) | with_reducible apply State.setWordN_keeps hP
    | with_reducible apply State.answer_keeps hP | with_reducible apply answered_keeps hP
    | with_reducible apply slaveAccess_keeps hP | with_reducible apply keeps_ite | split

theorem k16Cycle_keeps {P : State → Prop} (hP : Closed P) (s : State) (io : Bool) (addr : ℕ) (write : Option ℕ) (hs : P s) :
    P (k16Cycle s io addr write) := by
  unfold k16Cycle
  repeat' first
    | with_reducible assumption
    | (extract_lets +onlyGivenNames y; refine (fun (_ : P y) => ?_) ?_; (on_goal 1 => clear_value y); (on_goal 2 => subst y))
    | (extract_lets +onlyGivenNames y; clear_value y) | with_reducible apply notAnswered_keeps hP
    | with_reducible apply slaveAccess_keeps hP | with_reducible apply k16Io_keeps hP
    | with_reducible apply keeps_ite

theorem geoAccess_keeps {P : State → Prop} (hP : Closed P) (s : State) (o : ℕ) (write : Option ℕ) (hs : P s) :
    P (geoAccess s o write) := by
  unfold geoAccess
  repeat' first
    | with_reducible assumption
    | (extract_lets +onlyGivenNames y; refine (fun (_ : P y) => ?_) ?_; (on_goal 1 => clear_value y); (on_goal 2 => subst y))
    | (extract_lets +onlyGivenNames y; clear_value y) | with_reducible apply State.answer_keeps hP
    | with_reducible apply answered_keeps hP | with_reducible apply slaveAccess_keeps hP
    | with_reducible apply keeps_ite

theorem k32Access_keeps {P : State → Prop} (hP : Closed P) (s : State) (t : K32Target) (write : Option ℕ) (hs : P s) :
    P (k32Access s t write) := by
  unfold k32Access
  repeat' first
    | with_reducible assumption | with_reducible apply notAnswered_keeps hP
    | with_reducible apply slaveAccess_keeps hP | with_reducible apply geoAccess_keeps hP | split

theorem blockBeat_keeps {P : State → Prop} (hP : Closed P) (s : State) (first : Bool) (addr : ℕ) (write : Option ℕ) (hs : P s) :
    P (blockBeat s first addr write) := by
  unfold blockBeat
  repeat' first
    | with_reducible assumption
    | (extract_lets +onlyGivenNames y; refine (fun (_ : P y) => ?_) ?_; (on_goal 1 => clear_value y); (on_goal 2 => subst y))
    | (extract_lets +onlyGivenNames y; clear_value y) | with_reducible apply State.setBus_keeps hP
    | with_reducible apply notAnswered_keeps hP | with_reducible apply k32Access_keeps hP
    | with_reducible apply keeps_ite | split

theorem pcieReply_keeps {P : State → Prop} (hP : Closed P) (s : State) (b : List Byte) (hs : P s) :
    P (pcieReply s b) := by
  unfold pcieReply
  repeat' first
    | with_reducible assumption
    | (extract_lets +onlyGivenNames y; refine (fun (_ : P y) => ?_) ?_; (on_goal 1 => clear_value y); (on_goal 2 => subst y))
    | (extract_lets +onlyGivenNames y; clear_value y) | with_reducible apply hP.put | with_reducible apply hP.byte
    | with_reducible apply hP.drop | with_reducible apply hP.wipe | with_reducible apply hP.keepRegs
    | with_reducible apply hP.keepMem | with_reducible apply hP.other

theorem bar0Dword_keeps {P : State → Prop} (hP : Closed P) (s : State) (a : ℕ) (en : List Bool) (data : Option ℕ) (hs : P s) :
    P (bar0Dword s a en data) := by
  unfold bar0Dword
  repeat' first
    | with_reducible assumption
    | (extract_lets +onlyGivenNames y; refine (fun (_ : P y) => ?_) ?_; (on_goal 1 => clear_value y); (on_goal 2 => subst y))
    | (extract_lets +onlyGivenNames y; refine (fun (_ : P y.2) => ?_) ?_; (on_goal 1 => clear_value y); (on_goal 2 => subst y))
    | (extract_lets +onlyGivenNames y; clear_value y) | with_reducible apply undecoded_keeps hP
    | with_reducible apply access_keeps hP | with_reducible apply accessEnded_keeps hP
    | with_reducible apply pcieReply_keeps hP | with_reducible apply keeps_ite | split

theorem bar2Byte_keeps {P : State → Prop} (hP : Closed P) (s : State) (a : ℕ) (en : Bool) (data : Option ℕ) (hs : P s) :
    P (bar2Byte s a en data) := by
  unfold bar2Byte
  repeat' first
    | with_reducible assumption | with_reducible apply State.setByte_keeps hP
    | with_reducible apply pcieReply_keeps hP | with_reducible apply keeps_ite | split

theorem msixFlush_keeps {P : State → Prop} (hP : Closed P) (s : State) (hs : P s) :
    P (msixFlush s) := by
  unfold msixFlush
  repeat' first
    | with_reducible assumption
    | (extract_lets +onlyGivenNames y; refine (fun (_ : P y) => ?_) ?_; (on_goal 1 => clear_value y); (on_goal 2 => subst y))
    | (extract_lets +onlyGivenNames y; clear_value y) | (with_reducible apply keeps_foldl; intro _ _ _)
    | with_reducible apply keeps_ite | split | with_reducible apply hP.put | with_reducible apply hP.byte
    | with_reducible apply hP.drop | with_reducible apply hP.wipe | with_reducible apply hP.keepRegs
    | with_reducible apply hP.keepMem | with_reducible apply hP.other

theorem bar4Write_keeps {P : State → Prop} (hP : Closed P) (s : State) (o : ℕ) (v : ℕ) (hs : P s) :
    P (bar4Write s o v) := by
  unfold bar4Write
  repeat' first
    | with_reducible assumption
    | (extract_lets +onlyGivenNames y; refine (fun (_ : P y) => ?_) ?_; (on_goal 1 => clear_value y); (on_goal 2 => subst y))
    | (extract_lets +onlyGivenNames y; refine (fun (fy1 : ∀ t, P t → P (y t)) => ?_) ?_; (on_goal 1 => clear_value y); (on_goal 2 => (subst y; intro t ht; beta_reduce)))
    | (extract_lets +onlyGivenNames y; refine (fun (fy2 : ∀ t r, P t → P (y t r)) => ?_) ?_; (on_goal 1 => clear_value y); (on_goal 2 => (subst y; intro t r ht; beta_reduce)))
    | (extract_lets +onlyGivenNames y; refine (fun (fy3 : ∀ t r q, P t → P (y t r q)) => ?_) ?_; (on_goal 1 => clear_value y); (on_goal 2 => (subst y; intro t r q ht; beta_reduce)))
    | (extract_lets +onlyGivenNames y; refine (fun (fy4 : ∀ t r q p, P t → P (y t r q p)) => ?_) ?_; (on_goal 1 => clear_value y); (on_goal 2 => (subst y; intro t r q p ht; beta_reduce)))
    | (extract_lets +onlyGivenNames y; clear_value y) | with_reducible apply fy1 | with_reducible apply fy2
    | with_reducible apply fy3 | with_reducible apply fy4 | with_reducible apply msixFlush_keeps hP
    | with_reducible apply keeps_ite | split | with_reducible apply hP.put | with_reducible apply hP.byte
    | with_reducible apply hP.drop | with_reducible apply hP.wipe | with_reducible apply hP.keepRegs
    | with_reducible apply hP.keepMem | with_reducible apply hP.other

theorem bar4Dword_keeps {P : State → Prop} (hP : Closed P) (s : State) (o : ℕ) (en : List Bool) (data : Option ℕ) (hs : P s) :
    P (bar4Dword s o en data) := by
  unfold bar4Dword
  repeat' first
    | with_reducible assumption | with_reducible apply pcieReply_keeps hP | with_reducible apply bar4Write_keeps hP
    | (with_reducible apply keeps_foldl; intro _ _ _) | with_reducible apply keeps_ite | split

theorem pcieRequest_keeps {P : State → Prop} (hP : Closed P) (s : State) (bar : ℕ) (off : ℕ) (en : List Bool) (data : Option (List Byte)) (poisoned : Bool) (hs : P s) :
    P (pcieRequest s bar off en data poisoned) := by
  unfold pcieRequest
  repeat' first
    | with_reducible assumption
    | (extract_lets +onlyGivenNames y; refine (fun (_ : P y) => ?_) ?_; (on_goal 1 => clear_value y); (on_goal 2 => subst y))
    | (extract_lets +onlyGivenNames y; refine (fun (fy1 : ∀ t, P t → P (y t)) => ?_) ?_; (on_goal 1 => clear_value y); (on_goal 2 => (subst y; intro t ht; beta_reduce)))
    | (extract_lets +onlyGivenNames y; refine (fun (fy2 : ∀ t r, P t → P (y t r)) => ?_) ?_; (on_goal 1 => clear_value y); (on_goal 2 => (subst y; intro t r ht; beta_reduce)))
    | (extract_lets +onlyGivenNames y; refine (fun (fy3 : ∀ t r q, P t → P (y t r q)) => ?_) ?_; (on_goal 1 => clear_value y); (on_goal 2 => (subst y; intro t r q ht; beta_reduce)))
    | (extract_lets +onlyGivenNames y; refine (fun (fy4 : ∀ t r q p, P t → P (y t r q p)) => ?_) ?_; (on_goal 1 => clear_value y); (on_goal 2 => (subst y; intro t r q p ht; beta_reduce)))
    | (extract_lets +onlyGivenNames y; clear_value y) | with_reducible apply fy1 | with_reducible apply fy2
    | with_reducible apply fy3 | with_reducible apply fy4 | with_reducible apply bar0Dword_keeps hP
    | with_reducible apply bar2Byte_keeps hP | with_reducible apply bar4Dword_keeps hP
    | (with_reducible apply keeps_foldl; intro _ _ _) | with_reducible apply keeps_ite | split
    | with_reducible apply hP.put | with_reducible apply hP.byte | with_reducible apply hP.drop
    | with_reducible apply hP.wipe | with_reducible apply hP.keepRegs | with_reducible apply hP.keepMem
    | with_reducible apply hP.other

theorem pcieReset_keeps {P : State → Prop} (hP : Closed P) (s : State) (perst : Bool) (d3hot : Bool) (hs : P s) :
    P (pcieReset s perst d3hot) := by
  unfold pcieReset
  repeat' first
    | with_reducible assumption
    | (extract_lets +onlyGivenNames y; refine (fun (_ : P y) => ?_) ?_; (on_goal 1 => clear_value y); (on_goal 2 => subst y))
    | (extract_lets +onlyGivenNames y; clear_value y) | with_reducible apply State.setFld_keeps hP
    | with_reducible apply raiseBoth_keeps hP | with_reducible apply keeps_ite | split | with_reducible apply hP.put
    | with_reducible apply hP.byte | with_reducible apply hP.drop | with_reducible apply hP.wipe
    | with_reducible apply hP.keepRegs | with_reducible apply hP.keepMem | with_reducible apply hP.other

theorem pcieLink_keeps {P : State → Prop} (hP : Closed P) (s : State) (up : Bool) (width : ℕ) (speed : ℕ) (c : PcieSetup) (hs : P s) :
    P (pcieLink s up width speed c) := by
  unfold pcieLink
  repeat' first
    | with_reducible assumption
    | (extract_lets +onlyGivenNames y; refine (fun (_ : P y) => ?_) ?_; (on_goal 1 => clear_value y); (on_goal 2 => subst y))
    | (extract_lets +onlyGivenNames y; clear_value y) | with_reducible apply State.setFld_keeps hP
    | with_reducible apply State.putFlag_keeps hP | with_reducible apply raiseBoth_keeps hP
    | with_reducible apply msixFlush_keeps hP | with_reducible apply keeps_ite | split | with_reducible apply hP.put
    | with_reducible apply hP.byte | with_reducible apply hP.drop | with_reducible apply hP.wipe
    | with_reducible apply hP.keepRegs | with_reducible apply hP.keepMem | with_reducible apply hP.other

theorem prfWrite_keeps {P : State → Prop} (hP : Closed P) (via : Via) (k : Fin 128) (code : ℕ) (tag : BitVec 8) (s : State) (hs : P s) :
    P (prfWrite via k code tag s) := by
  unfold prfWrite
  repeat' first
    | with_reducible assumption | with_reducible apply prfCommand_keeps hP | with_reducible apply viaHalf_keeps hP
    | (intro _ _ _)

theorem armWrite_keeps {P : State → Prop} (hP : Closed P) (via : Via) (j : Fin 16) (code : ℕ) (tag : BitVec 8) (s : State) (hs : P s) :
    P (armWrite via j code tag s) := by
  unfold armWrite
  repeat' first
    | with_reducible assumption | with_reducible apply viaHalf_keeps hP | with_reducible apply armCommand_keeps hP
    | (intro _ _ _)

theorem ringWrite_keeps {P : State → Prop} (hP : Closed P) (via : Via) (r : Fin 8) (bit : ℕ) (auto : Bool) (s : State) (hs : P s) :
    P (ringWrite via r bit auto s) := by
  unfold ringWrite
  repeat' first
    | with_reducible assumption | with_reducible apply viaHalf_keeps hP | with_reducible apply ringCtrl_keeps hP
    | (intro _ _ _)

theorem mbxWrite_keeps {P : State → Prop} (hP : Closed P) (via : Via) (r : Fin 8) (v : ℕ) (s : State) (hs : P s) :
    P (mbxWrite via r v s) := by
  unfold mbxWrite
  repeat' first
    | with_reducible assumption | with_reducible apply viaHalf_keeps hP | with_reducible apply mbxCtrl_keeps hP
    | (intro _ _ _)

theorem tempWarning_keeps {P : State → Prop} (hP : Closed P) (s : State) (h : Half) (hs : P s) :
    P (tempWarning s h) := by
  unfold tempWarning
  repeat' first
    | with_reducible assumption
    | (extract_lets +onlyGivenNames y; refine (fun (_ : P y) => ?_) ?_; (on_goal 1 => clear_value y); (on_goal 2 => subst y))
    | (extract_lets +onlyGivenNames y; clear_value y) | with_reducible apply raiseEvt_keeps hP
    | with_reducible apply State.setPen_keeps hP | with_reducible apply keeps_ite

theorem tempFatal_keeps {P : State → Prop} (hP : Closed P) (s : State) (h : Half) (hs : P s) :
    P (tempFatal s h) := by
  unfold tempFatal
  repeat' first
    | with_reducible assumption
    | (extract_lets +onlyGivenNames y; refine (fun (_ : P y) => ?_) ?_; (on_goal 1 => clear_value y); (on_goal 2 => subst y))
    | (extract_lets +onlyGivenNames y; clear_value y) | with_reducible apply State.setPen_keeps hP
    | with_reducible apply fatalFault_keeps hP | with_reducible apply keeps_ite

theorem tempFall_keeps {P : State → Prop} (hP : Closed P) (s : State) (h : Half) (hs : P s) :
    P (tempFall s h) := by
  unfold tempFall
  repeat' first
    | with_reducible assumption
    | (extract_lets +onlyGivenNames y; refine (fun (_ : P y) => ?_) ?_; (on_goal 1 => clear_value y); (on_goal 2 => subst y))
    | (extract_lets +onlyGivenNames y; clear_value y) | with_reducible apply State.setPen_keeps hP

end Sys2Proof.Machine
end

