-- ==== Sys2Proof/Laws/State.lean ====
section
/-! SUPPORT. What each named update of the state leaves as it was, one lemma per field, and what registers, halves and units
read after an update. -/
namespace Sys2Proof.Machine

variable (s : State)

/-! setWord -/

@[simp] theorem State.setWord_mem (a : Nat) (w : Word) : (s.setWord a w).mem = s.mem := rfl
@[simp] theorem State.setWord_image (a : Nat) (w : Word) : (s.setWord a w).image = s.image := rfl
@[simp] theorem State.setWord_sect (a : Nat) (w : Word) : (s.setWord a w).sect = s.sect := rfl
@[simp] theorem State.setWord_cfg (a : Nat) (w : Word) : (s.setWord a w).cfg = s.cfg := rfl
@[simp] theorem State.setWord_sectCfg (a : Nat) (w : Word) : (s.setWord a w).sectCfg = s.sectCfg := rfl
@[simp] theorem State.setWord_isl (a : Nat) (w : Word) : (s.setWord a w).isl = s.isl := rfl
@[simp] theorem State.setWord_pen (a : Nat) (w : Word) : (s.setWord a w).pen = s.pen := rfl
@[simp] theorem State.setWord_former (a : Nat) (w : Word) : (s.setWord a w).former = s.former := rfl
@[simp] theorem State.setWord_canHold (a : Nat) (w : Word) : (s.setWord a w).canHold = s.canHold := rfl
@[simp] theorem State.setWord_hlDrive (a : Nat) (w : Word) : (s.setWord a w).hlDrive = s.hlDrive := rfl
@[simp] theorem State.setWord_tb0 (a : Nat) (w : Word) : (s.setWord a w).tb0 = s.tb0 := rfl
@[simp] theorem State.setWord_onMonitor (a : Nat) (w : Word) : (s.setWord a w).onMonitor = s.onMonitor := rfl
@[simp] theorem State.setWord_halfA (a : Nat) (w : Word) : (s.setWord a w).halfA = s.halfA := rfl
@[simp] theorem State.setWord_halfB (a : Nat) (w : Word) : (s.setWord a w).halfB = s.halfB := rfl
@[simp] theorem State.setWord_pci (a : Nat) (w : Word) : (s.setWord a w).pci = s.pci := rfl
@[simp] theorem State.setWord_boot (a : Nat) (w : Word) : (s.setWord a w).boot = s.boot := rfl
@[simp] theorem State.setWord_bus (a : Nat) (w : Word) : (s.setWord a w).bus = s.bus := rfl
@[simp] theorem State.setWord_hold (a : Nat) (w : Word) : (s.setWord a w).hold = s.hold := rfl
@[simp] theorem State.setWord_held (a : Nat) (w : Word) : (s.setWord a w).held = s.held := rfl
@[simp] theorem State.setWord_readData (a : Nat) (w : Word) : (s.setWord a w).readData = s.readData := rfl
@[simp] theorem State.setWord_freeIdx (a : Nat) (w : Word) : (s.setWord a w).freeIdx = s.freeIdx := rfl
@[simp] theorem State.setWord_pending (a : Nat) (w : Word) : (s.setWord a w).pending = s.pending := rfl
@[simp] theorem State.setWord_regs (a : Nat) (w : Word) : (s.setWord a w).regs = storePut s.regs a w := rfl

/-! setWordN -/

@[simp] theorem State.setWordN_mem (a v : Nat) : (s.setWordN a v).mem = s.mem := rfl
@[simp] theorem State.setWordN_image (a v : Nat) : (s.setWordN a v).image = s.image := rfl
@[simp] theorem State.setWordN_sect (a v : Nat) : (s.setWordN a v).sect = s.sect := rfl
@[simp] theorem State.setWordN_cfg (a v : Nat) : (s.setWordN a v).cfg = s.cfg := rfl
@[simp] theorem State.setWordN_sectCfg (a v : Nat) : (s.setWordN a v).sectCfg = s.sectCfg := rfl
@[simp] theorem State.setWordN_isl (a v : Nat) : (s.setWordN a v).isl = s.isl := rfl
@[simp] theorem State.setWordN_pen (a v : Nat) : (s.setWordN a v).pen = s.pen := rfl
@[simp] theorem State.setWordN_former (a v : Nat) : (s.setWordN a v).former = s.former := rfl
@[simp] theorem State.setWordN_canHold (a v : Nat) : (s.setWordN a v).canHold = s.canHold := rfl
@[simp] theorem State.setWordN_hlDrive (a v : Nat) : (s.setWordN a v).hlDrive = s.hlDrive := rfl
@[simp] theorem State.setWordN_tb0 (a v : Nat) : (s.setWordN a v).tb0 = s.tb0 := rfl
@[simp] theorem State.setWordN_onMonitor (a v : Nat) : (s.setWordN a v).onMonitor = s.onMonitor := rfl
@[simp] theorem State.setWordN_halfA (a v : Nat) : (s.setWordN a v).halfA = s.halfA := rfl
@[simp] theorem State.setWordN_halfB (a v : Nat) : (s.setWordN a v).halfB = s.halfB := rfl
@[simp] theorem State.setWordN_pci (a v : Nat) : (s.setWordN a v).pci = s.pci := rfl
@[simp] theorem State.setWordN_boot (a v : Nat) : (s.setWordN a v).boot = s.boot := rfl
@[simp] theorem State.setWordN_bus (a v : Nat) : (s.setWordN a v).bus = s.bus := rfl
@[simp] theorem State.setWordN_hold (a v : Nat) : (s.setWordN a v).hold = s.hold := rfl
@[simp] theorem State.setWordN_held (a v : Nat) : (s.setWordN a v).held = s.held := rfl
@[simp] theorem State.setWordN_readData (a v : Nat) : (s.setWordN a v).readData = s.readData := rfl
@[simp] theorem State.setWordN_freeIdx (a v : Nat) : (s.setWordN a v).freeIdx = s.freeIdx := rfl
@[simp] theorem State.setWordN_pending (a v : Nat) : (s.setWordN a v).pending = s.pending := rfl

/-! setQuad -/

@[simp] theorem State.setQuad_mem (a v : Nat) : (s.setQuad a v).mem = s.mem := rfl
@[simp] theorem State.setQuad_image (a v : Nat) : (s.setQuad a v).image = s.image := rfl
@[simp] theorem State.setQuad_sect (a v : Nat) : (s.setQuad a v).sect = s.sect := rfl
@[simp] theorem State.setQuad_cfg (a v : Nat) : (s.setQuad a v).cfg = s.cfg := rfl
@[simp] theorem State.setQuad_sectCfg (a v : Nat) : (s.setQuad a v).sectCfg = s.sectCfg := rfl
@[simp] theorem State.setQuad_isl (a v : Nat) : (s.setQuad a v).isl = s.isl := rfl
@[simp] theorem State.setQuad_pen (a v : Nat) : (s.setQuad a v).pen = s.pen := rfl
@[simp] theorem State.setQuad_former (a v : Nat) : (s.setQuad a v).former = s.former := rfl
@[simp] theorem State.setQuad_canHold (a v : Nat) : (s.setQuad a v).canHold = s.canHold := rfl
@[simp] theorem State.setQuad_hlDrive (a v : Nat) : (s.setQuad a v).hlDrive = s.hlDrive := rfl
@[simp] theorem State.setQuad_tb0 (a v : Nat) : (s.setQuad a v).tb0 = s.tb0 := rfl
@[simp] theorem State.setQuad_onMonitor (a v : Nat) : (s.setQuad a v).onMonitor = s.onMonitor := rfl
@[simp] theorem State.setQuad_halfA (a v : Nat) : (s.setQuad a v).halfA = s.halfA := rfl
@[simp] theorem State.setQuad_halfB (a v : Nat) : (s.setQuad a v).halfB = s.halfB := rfl
@[simp] theorem State.setQuad_pci (a v : Nat) : (s.setQuad a v).pci = s.pci := rfl
@[simp] theorem State.setQuad_boot (a v : Nat) : (s.setQuad a v).boot = s.boot := rfl
@[simp] theorem State.setQuad_bus (a v : Nat) : (s.setQuad a v).bus = s.bus := rfl
@[simp] theorem State.setQuad_hold (a v : Nat) : (s.setQuad a v).hold = s.hold := rfl
@[simp] theorem State.setQuad_held (a v : Nat) : (s.setQuad a v).held = s.held := rfl
@[simp] theorem State.setQuad_readData (a v : Nat) : (s.setQuad a v).readData = s.readData := rfl
@[simp] theorem State.setQuad_freeIdx (a v : Nat) : (s.setQuad a v).freeIdx = s.freeIdx := rfl
@[simp] theorem State.setQuad_pending (a v : Nat) : (s.setQuad a v).pending = s.pending := rfl

/-! setFld -/

@[simp] theorem State.setFld_mem (b : Nat) (f : Fld) (v : Nat) : (s.setFld b f v).mem = s.mem := by unfold State.setFld; split <;> rfl
@[simp] theorem State.setFld_image (b : Nat) (f : Fld) (v : Nat) : (s.setFld b f v).image = s.image := by unfold State.setFld; split <;> rfl
@[simp] theorem State.setFld_sect (b : Nat) (f : Fld) (v : Nat) : (s.setFld b f v).sect = s.sect := by unfold State.setFld; split <;> rfl
@[simp] theorem State.setFld_cfg (b : Nat) (f : Fld) (v : Nat) : (s.setFld b f v).cfg = s.cfg := by unfold State.setFld; split <;> rfl
@[simp] theorem State.setFld_sectCfg (b : Nat) (f : Fld) (v : Nat) : (s.setFld b f v).sectCfg = s.sectCfg := by unfold State.setFld; split <;> rfl
@[simp] theorem State.setFld_isl (b : Nat) (f : Fld) (v : Nat) : (s.setFld b f v).isl = s.isl := by unfold State.setFld; split <;> rfl
@[simp] theorem State.setFld_pen (b : Nat) (f : Fld) (v : Nat) : (s.setFld b f v).pen = s.pen := by unfold State.setFld; split <;> rfl
@[simp] theorem State.setFld_former (b : Nat) (f : Fld) (v : Nat) : (s.setFld b f v).former = s.former := by unfold State.setFld; split <;> rfl
@[simp] theorem State.setFld_canHold (b : Nat) (f : Fld) (v : Nat) : (s.setFld b f v).canHold = s.canHold := by unfold State.setFld; split <;> rfl
@[simp] theorem State.setFld_hlDrive (b : Nat) (f : Fld) (v : Nat) : (s.setFld b f v).hlDrive = s.hlDrive := by unfold State.setFld; split <;> rfl
@[simp] theorem State.setFld_tb0 (b : Nat) (f : Fld) (v : Nat) : (s.setFld b f v).tb0 = s.tb0 := by unfold State.setFld; split <;> rfl
@[simp] theorem State.setFld_onMonitor (b : Nat) (f : Fld) (v : Nat) : (s.setFld b f v).onMonitor = s.onMonitor := by unfold State.setFld; split <;> rfl
@[simp] theorem State.setFld_halfA (b : Nat) (f : Fld) (v : Nat) : (s.setFld b f v).halfA = s.halfA := by unfold State.setFld; split <;> rfl
@[simp] theorem State.setFld_halfB (b : Nat) (f : Fld) (v : Nat) : (s.setFld b f v).halfB = s.halfB := by unfold State.setFld; split <;> rfl
@[simp] theorem State.setFld_pci (b : Nat) (f : Fld) (v : Nat) : (s.setFld b f v).pci = s.pci := by unfold State.setFld; split <;> rfl
@[simp] theorem State.setFld_boot (b : Nat) (f : Fld) (v : Nat) : (s.setFld b f v).boot = s.boot := by unfold State.setFld; split <;> rfl
@[simp] theorem State.setFld_bus (b : Nat) (f : Fld) (v : Nat) : (s.setFld b f v).bus = s.bus := by unfold State.setFld; split <;> rfl
@[simp] theorem State.setFld_hold (b : Nat) (f : Fld) (v : Nat) : (s.setFld b f v).hold = s.hold := by unfold State.setFld; split <;> rfl
@[simp] theorem State.setFld_held (b : Nat) (f : Fld) (v : Nat) : (s.setFld b f v).held = s.held := by unfold State.setFld; split <;> rfl
@[simp] theorem State.setFld_readData (b : Nat) (f : Fld) (v : Nat) : (s.setFld b f v).readData = s.readData := by unfold State.setFld; split <;> rfl
@[simp] theorem State.setFld_freeIdx (b : Nat) (f : Fld) (v : Nat) : (s.setFld b f v).freeIdx = s.freeIdx := by unfold State.setFld; split <;> rfl
@[simp] theorem State.setFld_pending (b : Nat) (f : Fld) (v : Nat) : (s.setFld b f v).pending = s.pending := by unfold State.setFld; split <;> rfl

/-! setFldS -/

@[simp] theorem State.setFldS_mem (b : Nat) (f : Fld) (i : Int) : (s.setFldS b f i).mem = s.mem := State.setFld_mem s b f _
@[simp] theorem State.setFldS_image (b : Nat) (f : Fld) (i : Int) : (s.setFldS b f i).image = s.image := State.setFld_image s b f _
@[simp] theorem State.setFldS_sect (b : Nat) (f : Fld) (i : Int) : (s.setFldS b f i).sect = s.sect := State.setFld_sect s b f _
@[simp] theorem State.setFldS_cfg (b : Nat) (f : Fld) (i : Int) : (s.setFldS b f i).cfg = s.cfg := State.setFld_cfg s b f _
@[simp] theorem State.setFldS_sectCfg (b : Nat) (f : Fld) (i : Int) : (s.setFldS b f i).sectCfg = s.sectCfg := State.setFld_sectCfg s b f _
@[simp] theorem State.setFldS_isl (b : Nat) (f : Fld) (i : Int) : (s.setFldS b f i).isl = s.isl := State.setFld_isl s b f _
@[simp] theorem State.setFldS_pen (b : Nat) (f : Fld) (i : Int) : (s.setFldS b f i).pen = s.pen := State.setFld_pen s b f _
@[simp] theorem State.setFldS_former (b : Nat) (f : Fld) (i : Int) : (s.setFldS b f i).former = s.former := State.setFld_former s b f _
@[simp] theorem State.setFldS_canHold (b : Nat) (f : Fld) (i : Int) : (s.setFldS b f i).canHold = s.canHold := State.setFld_canHold s b f _
@[simp] theorem State.setFldS_hlDrive (b : Nat) (f : Fld) (i : Int) : (s.setFldS b f i).hlDrive = s.hlDrive := State.setFld_hlDrive s b f _
@[simp] theorem State.setFldS_tb0 (b : Nat) (f : Fld) (i : Int) : (s.setFldS b f i).tb0 = s.tb0 := State.setFld_tb0 s b f _
@[simp] theorem State.setFldS_onMonitor (b : Nat) (f : Fld) (i : Int) : (s.setFldS b f i).onMonitor = s.onMonitor := State.setFld_onMonitor s b f _
@[simp] theorem State.setFldS_halfA (b : Nat) (f : Fld) (i : Int) : (s.setFldS b f i).halfA = s.halfA := State.setFld_halfA s b f _
@[simp] theorem State.setFldS_halfB (b : Nat) (f : Fld) (i : Int) : (s.setFldS b f i).halfB = s.halfB := State.setFld_halfB s b f _
@[simp] theorem State.setFldS_pci (b : Nat) (f : Fld) (i : Int) : (s.setFldS b f i).pci = s.pci := State.setFld_pci s b f _
@[simp] theorem State.setFldS_boot (b : Nat) (f : Fld) (i : Int) : (s.setFldS b f i).boot = s.boot := State.setFld_boot s b f _
@[simp] theorem State.setFldS_bus (b : Nat) (f : Fld) (i : Int) : (s.setFldS b f i).bus = s.bus := State.setFld_bus s b f _
@[simp] theorem State.setFldS_hold (b : Nat) (f : Fld) (i : Int) : (s.setFldS b f i).hold = s.hold := State.setFld_hold s b f _
@[simp] theorem State.setFldS_held (b : Nat) (f : Fld) (i : Int) : (s.setFldS b f i).held = s.held := State.setFld_held s b f _
@[simp] theorem State.setFldS_readData (b : Nat) (f : Fld) (i : Int) : (s.setFldS b f i).readData = s.readData := State.setFld_readData s b f _
@[simp] theorem State.setFldS_freeIdx (b : Nat) (f : Fld) (i : Int) : (s.setFldS b f i).freeIdx = s.freeIdx := State.setFld_freeIdx s b f _
@[simp] theorem State.setFldS_pending (b : Nat) (f : Fld) (i : Int) : (s.setFldS b f i).pending = s.pending := State.setFld_pending s b f _

/-! setFlag -/

@[simp] theorem State.setFlag_mem (b : Nat) (f : Fld) : (s.setFlag b f).mem = s.mem := State.setFld_mem s b f _
@[simp] theorem State.setFlag_image (b : Nat) (f : Fld) : (s.setFlag b f).image = s.image := State.setFld_image s b f _
@[simp] theorem State.setFlag_sect (b : Nat) (f : Fld) : (s.setFlag b f).sect = s.sect := State.setFld_sect s b f _
@[simp] theorem State.setFlag_cfg (b : Nat) (f : Fld) : (s.setFlag b f).cfg = s.cfg := State.setFld_cfg s b f _
@[simp] theorem State.setFlag_sectCfg (b : Nat) (f : Fld) : (s.setFlag b f).sectCfg = s.sectCfg := State.setFld_sectCfg s b f _
@[simp] theorem State.setFlag_isl (b : Nat) (f : Fld) : (s.setFlag b f).isl = s.isl := State.setFld_isl s b f _
@[simp] theorem State.setFlag_pen (b : Nat) (f : Fld) : (s.setFlag b f).pen = s.pen := State.setFld_pen s b f _
@[simp] theorem State.setFlag_former (b : Nat) (f : Fld) : (s.setFlag b f).former = s.former := State.setFld_former s b f _
@[simp] theorem State.setFlag_canHold (b : Nat) (f : Fld) : (s.setFlag b f).canHold = s.canHold := State.setFld_canHold s b f _
@[simp] theorem State.setFlag_hlDrive (b : Nat) (f : Fld) : (s.setFlag b f).hlDrive = s.hlDrive := State.setFld_hlDrive s b f _
@[simp] theorem State.setFlag_tb0 (b : Nat) (f : Fld) : (s.setFlag b f).tb0 = s.tb0 := State.setFld_tb0 s b f _
@[simp] theorem State.setFlag_onMonitor (b : Nat) (f : Fld) : (s.setFlag b f).onMonitor = s.onMonitor := State.setFld_onMonitor s b f _
@[simp] theorem State.setFlag_halfA (b : Nat) (f : Fld) : (s.setFlag b f).halfA = s.halfA := State.setFld_halfA s b f _
@[simp] theorem State.setFlag_halfB (b : Nat) (f : Fld) : (s.setFlag b f).halfB = s.halfB := State.setFld_halfB s b f _
@[simp] theorem State.setFlag_pci (b : Nat) (f : Fld) : (s.setFlag b f).pci = s.pci := State.setFld_pci s b f _
@[simp] theorem State.setFlag_boot (b : Nat) (f : Fld) : (s.setFlag b f).boot = s.boot := State.setFld_boot s b f _
@[simp] theorem State.setFlag_bus (b : Nat) (f : Fld) : (s.setFlag b f).bus = s.bus := State.setFld_bus s b f _
@[simp] theorem State.setFlag_hold (b : Nat) (f : Fld) : (s.setFlag b f).hold = s.hold := State.setFld_hold s b f _
@[simp] theorem State.setFlag_held (b : Nat) (f : Fld) : (s.setFlag b f).held = s.held := State.setFld_held s b f _
@[simp] theorem State.setFlag_readData (b : Nat) (f : Fld) : (s.setFlag b f).readData = s.readData := State.setFld_readData s b f _
@[simp] theorem State.setFlag_freeIdx (b : Nat) (f : Fld) : (s.setFlag b f).freeIdx = s.freeIdx := State.setFld_freeIdx s b f _
@[simp] theorem State.setFlag_pending (b : Nat) (f : Fld) : (s.setFlag b f).pending = s.pending := State.setFld_pending s b f _

/-! putFlag -/

@[simp] theorem State.putFlag_mem (b : Nat) (f : Fld) (x : Bool) : (s.putFlag b f x).mem = s.mem := State.setFld_mem s b f _
@[simp] theorem State.putFlag_image (b : Nat) (f : Fld) (x : Bool) : (s.putFlag b f x).image = s.image := State.setFld_image s b f _
@[simp] theorem State.putFlag_sect (b : Nat) (f : Fld) (x : Bool) : (s.putFlag b f x).sect = s.sect := State.setFld_sect s b f _
@[simp] theorem State.putFlag_cfg (b : Nat) (f : Fld) (x : Bool) : (s.putFlag b f x).cfg = s.cfg := State.setFld_cfg s b f _
@[simp] theorem State.putFlag_sectCfg (b : Nat) (f : Fld) (x : Bool) : (s.putFlag b f x).sectCfg = s.sectCfg := State.setFld_sectCfg s b f _
@[simp] theorem State.putFlag_isl (b : Nat) (f : Fld) (x : Bool) : (s.putFlag b f x).isl = s.isl := State.setFld_isl s b f _
@[simp] theorem State.putFlag_pen (b : Nat) (f : Fld) (x : Bool) : (s.putFlag b f x).pen = s.pen := State.setFld_pen s b f _
@[simp] theorem State.putFlag_former (b : Nat) (f : Fld) (x : Bool) : (s.putFlag b f x).former = s.former := State.setFld_former s b f _
@[simp] theorem State.putFlag_canHold (b : Nat) (f : Fld) (x : Bool) : (s.putFlag b f x).canHold = s.canHold := State.setFld_canHold s b f _
@[simp] theorem State.putFlag_hlDrive (b : Nat) (f : Fld) (x : Bool) : (s.putFlag b f x).hlDrive = s.hlDrive := State.setFld_hlDrive s b f _
@[simp] theorem State.putFlag_tb0 (b : Nat) (f : Fld) (x : Bool) : (s.putFlag b f x).tb0 = s.tb0 := State.setFld_tb0 s b f _
@[simp] theorem State.putFlag_onMonitor (b : Nat) (f : Fld) (x : Bool) : (s.putFlag b f x).onMonitor = s.onMonitor := State.setFld_onMonitor s b f _
@[simp] theorem State.putFlag_halfA (b : Nat) (f : Fld) (x : Bool) : (s.putFlag b f x).halfA = s.halfA := State.setFld_halfA s b f _
@[simp] theorem State.putFlag_halfB (b : Nat) (f : Fld) (x : Bool) : (s.putFlag b f x).halfB = s.halfB := State.setFld_halfB s b f _
@[simp] theorem State.putFlag_pci (b : Nat) (f : Fld) (x : Bool) : (s.putFlag b f x).pci = s.pci := State.setFld_pci s b f _
@[simp] theorem State.putFlag_boot (b : Nat) (f : Fld) (x : Bool) : (s.putFlag b f x).boot = s.boot := State.setFld_boot s b f _
@[simp] theorem State.putFlag_bus (b : Nat) (f : Fld) (x : Bool) : (s.putFlag b f x).bus = s.bus := State.setFld_bus s b f _
@[simp] theorem State.putFlag_hold (b : Nat) (f : Fld) (x : Bool) : (s.putFlag b f x).hold = s.hold := State.setFld_hold s b f _
@[simp] theorem State.putFlag_held (b : Nat) (f : Fld) (x : Bool) : (s.putFlag b f x).held = s.held := State.setFld_held s b f _
@[simp] theorem State.putFlag_readData (b : Nat) (f : Fld) (x : Bool) : (s.putFlag b f x).readData = s.readData := State.setFld_readData s b f _
@[simp] theorem State.putFlag_freeIdx (b : Nat) (f : Fld) (x : Bool) : (s.putFlag b f x).freeIdx = s.freeIdx := State.setFld_freeIdx s b f _
@[simp] theorem State.putFlag_pending (b : Nat) (f : Fld) (x : Bool) : (s.putFlag b f x).pending = s.pending := State.setFld_pending s b f _

/-! countBy -/

@[simp] theorem State.countBy_mem (b : Nat) (f : Fld) (n : Nat) : (s.countBy b f n).mem = s.mem := State.setFld_mem s b f _
@[simp] theorem State.countBy_image (b : Nat) (f : Fld) (n : Nat) : (s.countBy b f n).image = s.image := State.setFld_image s b f _
@[simp] theorem State.countBy_sect (b : Nat) (f : Fld) (n : Nat) : (s.countBy b f n).sect = s.sect := State.setFld_sect s b f _
@[simp] theorem State.countBy_cfg (b : Nat) (f : Fld) (n : Nat) : (s.countBy b f n).cfg = s.cfg := State.setFld_cfg s b f _
@[simp] theorem State.countBy_sectCfg (b : Nat) (f : Fld) (n : Nat) : (s.countBy b f n).sectCfg = s.sectCfg := State.setFld_sectCfg s b f _
@[simp] theorem State.countBy_isl (b : Nat) (f : Fld) (n : Nat) : (s.countBy b f n).isl = s.isl := State.setFld_isl s b f _
@[simp] theorem State.countBy_pen (b : Nat) (f : Fld) (n : Nat) : (s.countBy b f n).pen = s.pen := State.setFld_pen s b f _
@[simp] theorem State.countBy_former (b : Nat) (f : Fld) (n : Nat) : (s.countBy b f n).former = s.former := State.setFld_former s b f _
@[simp] theorem State.countBy_canHold (b : Nat) (f : Fld) (n : Nat) : (s.countBy b f n).canHold = s.canHold := State.setFld_canHold s b f _
@[simp] theorem State.countBy_hlDrive (b : Nat) (f : Fld) (n : Nat) : (s.countBy b f n).hlDrive = s.hlDrive := State.setFld_hlDrive s b f _
@[simp] theorem State.countBy_tb0 (b : Nat) (f : Fld) (n : Nat) : (s.countBy b f n).tb0 = s.tb0 := State.setFld_tb0 s b f _
@[simp] theorem State.countBy_onMonitor (b : Nat) (f : Fld) (n : Nat) : (s.countBy b f n).onMonitor = s.onMonitor := State.setFld_onMonitor s b f _
@[simp] theorem State.countBy_halfA (b : Nat) (f : Fld) (n : Nat) : (s.countBy b f n).halfA = s.halfA := State.setFld_halfA s b f _
@[simp] theorem State.countBy_halfB (b : Nat) (f : Fld) (n : Nat) : (s.countBy b f n).halfB = s.halfB := State.setFld_halfB s b f _
@[simp] theorem State.countBy_pci (b : Nat) (f : Fld) (n : Nat) : (s.countBy b f n).pci = s.pci := State.setFld_pci s b f _
@[simp] theorem State.countBy_boot (b : Nat) (f : Fld) (n : Nat) : (s.countBy b f n).boot = s.boot := State.setFld_boot s b f _
@[simp] theorem State.countBy_bus (b : Nat) (f : Fld) (n : Nat) : (s.countBy b f n).bus = s.bus := State.setFld_bus s b f _
@[simp] theorem State.countBy_hold (b : Nat) (f : Fld) (n : Nat) : (s.countBy b f n).hold = s.hold := State.setFld_hold s b f _
@[simp] theorem State.countBy_held (b : Nat) (f : Fld) (n : Nat) : (s.countBy b f n).held = s.held := State.setFld_held s b f _
@[simp] theorem State.countBy_readData (b : Nat) (f : Fld) (n : Nat) : (s.countBy b f n).readData = s.readData := State.setFld_readData s b f _
@[simp] theorem State.countBy_freeIdx (b : Nat) (f : Fld) (n : Nat) : (s.countBy b f n).freeIdx = s.freeIdx := State.setFld_freeIdx s b f _
@[simp] theorem State.countBy_pending (b : Nat) (f : Fld) (n : Nat) : (s.countBy b f n).pending = s.pending := State.setFld_pending s b f _

/-! count -/

@[simp] theorem State.count_mem (b : Nat) (f : Fld) : (s.count b f).mem = s.mem := State.setFld_mem s b f _
@[simp] theorem State.count_image (b : Nat) (f : Fld) : (s.count b f).image = s.image := State.setFld_image s b f _
@[simp] theorem State.count_sect (b : Nat) (f : Fld) : (s.count b f).sect = s.sect := State.setFld_sect s b f _
@[simp] theorem State.count_cfg (b : Nat) (f : Fld) : (s.count b f).cfg = s.cfg := State.setFld_cfg s b f _
@[simp] theorem State.count_sectCfg (b : Nat) (f : Fld) : (s.count b f).sectCfg = s.sectCfg := State.setFld_sectCfg s b f _
@[simp] theorem State.count_isl (b : Nat) (f : Fld) : (s.count b f).isl = s.isl := State.setFld_isl s b f _
@[simp] theorem State.count_pen (b : Nat) (f : Fld) : (s.count b f).pen = s.pen := State.setFld_pen s b f _
@[simp] theorem State.count_former (b : Nat) (f : Fld) : (s.count b f).former = s.former := State.setFld_former s b f _
@[simp] theorem State.count_canHold (b : Nat) (f : Fld) : (s.count b f).canHold = s.canHold := State.setFld_canHold s b f _
@[simp] theorem State.count_hlDrive (b : Nat) (f : Fld) : (s.count b f).hlDrive = s.hlDrive := State.setFld_hlDrive s b f _
@[simp] theorem State.count_tb0 (b : Nat) (f : Fld) : (s.count b f).tb0 = s.tb0 := State.setFld_tb0 s b f _
@[simp] theorem State.count_onMonitor (b : Nat) (f : Fld) : (s.count b f).onMonitor = s.onMonitor := State.setFld_onMonitor s b f _
@[simp] theorem State.count_halfA (b : Nat) (f : Fld) : (s.count b f).halfA = s.halfA := State.setFld_halfA s b f _
@[simp] theorem State.count_halfB (b : Nat) (f : Fld) : (s.count b f).halfB = s.halfB := State.setFld_halfB s b f _
@[simp] theorem State.count_pci (b : Nat) (f : Fld) : (s.count b f).pci = s.pci := State.setFld_pci s b f _
@[simp] theorem State.count_boot (b : Nat) (f : Fld) : (s.count b f).boot = s.boot := State.setFld_boot s b f _
@[simp] theorem State.count_bus (b : Nat) (f : Fld) : (s.count b f).bus = s.bus := State.setFld_bus s b f _
@[simp] theorem State.count_hold (b : Nat) (f : Fld) : (s.count b f).hold = s.hold := State.setFld_hold s b f _
@[simp] theorem State.count_held (b : Nat) (f : Fld) : (s.count b f).held = s.held := State.setFld_held s b f _
@[simp] theorem State.count_readData (b : Nat) (f : Fld) : (s.count b f).readData = s.readData := State.setFld_readData s b f _
@[simp] theorem State.count_freeIdx (b : Nat) (f : Fld) : (s.count b f).freeIdx = s.freeIdx := State.setFld_freeIdx s b f _
@[simp] theorem State.count_pending (b : Nat) (f : Fld) : (s.count b f).pending = s.pending := State.setFld_pending s b f _

/-! resetRegs -/

@[simp] theorem State.resetRegs_mem (lo n : Nat) : (s.resetRegs lo n).mem = s.mem := rfl
@[simp] theorem State.resetRegs_image (lo n : Nat) : (s.resetRegs lo n).image = s.image := rfl
@[simp] theorem State.resetRegs_sect (lo n : Nat) : (s.resetRegs lo n).sect = s.sect := rfl
@[simp] theorem State.resetRegs_cfg (lo n : Nat) : (s.resetRegs lo n).cfg = s.cfg := rfl
@[simp] theorem State.resetRegs_sectCfg (lo n : Nat) : (s.resetRegs lo n).sectCfg = s.sectCfg := rfl
@[simp] theorem State.resetRegs_isl (lo n : Nat) : (s.resetRegs lo n).isl = s.isl := rfl
@[simp] theorem State.resetRegs_pen (lo n : Nat) : (s.resetRegs lo n).pen = s.pen := rfl
@[simp] theorem State.resetRegs_former (lo n : Nat) : (s.resetRegs lo n).former = s.former := rfl
@[simp] theorem State.resetRegs_canHold (lo n : Nat) : (s.resetRegs lo n).canHold = s.canHold := rfl
@[simp] theorem State.resetRegs_hlDrive (lo n : Nat) : (s.resetRegs lo n).hlDrive = s.hlDrive := rfl
@[simp] theorem State.resetRegs_tb0 (lo n : Nat) : (s.resetRegs lo n).tb0 = s.tb0 := rfl
@[simp] theorem State.resetRegs_onMonitor (lo n : Nat) : (s.resetRegs lo n).onMonitor = s.onMonitor := rfl
@[simp] theorem State.resetRegs_halfA (lo n : Nat) : (s.resetRegs lo n).halfA = s.halfA := rfl
@[simp] theorem State.resetRegs_halfB (lo n : Nat) : (s.resetRegs lo n).halfB = s.halfB := rfl
@[simp] theorem State.resetRegs_pci (lo n : Nat) : (s.resetRegs lo n).pci = s.pci := rfl
@[simp] theorem State.resetRegs_boot (lo n : Nat) : (s.resetRegs lo n).boot = s.boot := rfl
@[simp] theorem State.resetRegs_bus (lo n : Nat) : (s.resetRegs lo n).bus = s.bus := rfl
@[simp] theorem State.resetRegs_hold (lo n : Nat) : (s.resetRegs lo n).hold = s.hold := rfl
@[simp] theorem State.resetRegs_held (lo n : Nat) : (s.resetRegs lo n).held = s.held := rfl
@[simp] theorem State.resetRegs_readData (lo n : Nat) : (s.resetRegs lo n).readData = s.readData := rfl
@[simp] theorem State.resetRegs_freeIdx (lo n : Nat) : (s.resetRegs lo n).freeIdx = s.freeIdx := rfl
@[simp] theorem State.resetRegs_pending (lo n : Nat) : (s.resetRegs lo n).pending = s.pending := rfl
@[simp] theorem State.resetRegs_regs (lo n : Nat) : (s.resetRegs lo n).regs = storeClear s.regs lo n := rfl

/-! setMapBit -/

@[simp] theorem State.setMapBit_mem (a i : Nat) (x : Bool) : (s.setMapBit a i x).mem = s.mem := rfl
@[simp] theorem State.setMapBit_image (a i : Nat) (x : Bool) : (s.setMapBit a i x).image = s.image := rfl
@[simp] theorem State.setMapBit_sect (a i : Nat) (x : Bool) : (s.setMapBit a i x).sect = s.sect := rfl
@[simp] theorem State.setMapBit_cfg (a i : Nat) (x : Bool) : (s.setMapBit a i x).cfg = s.cfg := rfl
@[simp] theorem State.setMapBit_sectCfg (a i : Nat) (x : Bool) : (s.setMapBit a i x).sectCfg = s.sectCfg := rfl
@[simp] theorem State.setMapBit_isl (a i : Nat) (x : Bool) : (s.setMapBit a i x).isl = s.isl := rfl
@[simp] theorem State.setMapBit_pen (a i : Nat) (x : Bool) : (s.setMapBit a i x).pen = s.pen := rfl
@[simp] theorem State.setMapBit_former (a i : Nat) (x : Bool) : (s.setMapBit a i x).former = s.former := rfl
@[simp] theorem State.setMapBit_canHold (a i : Nat) (x : Bool) : (s.setMapBit a i x).canHold = s.canHold := rfl
@[simp] theorem State.setMapBit_hlDrive (a i : Nat) (x : Bool) : (s.setMapBit a i x).hlDrive = s.hlDrive := rfl
@[simp] theorem State.setMapBit_tb0 (a i : Nat) (x : Bool) : (s.setMapBit a i x).tb0 = s.tb0 := rfl
@[simp] theorem State.setMapBit_onMonitor (a i : Nat) (x : Bool) : (s.setMapBit a i x).onMonitor = s.onMonitor := rfl
@[simp] theorem State.setMapBit_halfA (a i : Nat) (x : Bool) : (s.setMapBit a i x).halfA = s.halfA := rfl
@[simp] theorem State.setMapBit_halfB (a i : Nat) (x : Bool) : (s.setMapBit a i x).halfB = s.halfB := rfl
@[simp] theorem State.setMapBit_pci (a i : Nat) (x : Bool) : (s.setMapBit a i x).pci = s.pci := rfl
@[simp] theorem State.setMapBit_boot (a i : Nat) (x : Bool) : (s.setMapBit a i x).boot = s.boot := rfl
@[simp] theorem State.setMapBit_bus (a i : Nat) (x : Bool) : (s.setMapBit a i x).bus = s.bus := rfl
@[simp] theorem State.setMapBit_hold (a i : Nat) (x : Bool) : (s.setMapBit a i x).hold = s.hold := rfl
@[simp] theorem State.setMapBit_held (a i : Nat) (x : Bool) : (s.setMapBit a i x).held = s.held := rfl
@[simp] theorem State.setMapBit_readData (a i : Nat) (x : Bool) : (s.setMapBit a i x).readData = s.readData := rfl
@[simp] theorem State.setMapBit_freeIdx (a i : Nat) (x : Bool) : (s.setMapBit a i x).freeIdx = s.freeIdx := rfl
@[simp] theorem State.setMapBit_pending (a i : Nat) (x : Bool) : (s.setMapBit a i x).pending = s.pending := rfl

/-! setByte -/

@[simp] theorem State.setByte_regs (a : Nat) (v : Byte) : (s.setByte a v).regs = s.regs := rfl
@[simp] theorem State.setByte_image (a : Nat) (v : Byte) : (s.setByte a v).image = s.image := rfl
@[simp] theorem State.setByte_sect (a : Nat) (v : Byte) : (s.setByte a v).sect = s.sect := rfl
@[simp] theorem State.setByte_cfg (a : Nat) (v : Byte) : (s.setByte a v).cfg = s.cfg := rfl
@[simp] theorem State.setByte_sectCfg (a : Nat) (v : Byte) : (s.setByte a v).sectCfg = s.sectCfg := rfl
@[simp] theorem State.setByte_isl (a : Nat) (v : Byte) : (s.setByte a v).isl = s.isl := rfl
@[simp] theorem State.setByte_pen (a : Nat) (v : Byte) : (s.setByte a v).pen = s.pen := rfl
@[simp] theorem State.setByte_former (a : Nat) (v : Byte) : (s.setByte a v).former = s.former := rfl
@[simp] theorem State.setByte_canHold (a : Nat) (v : Byte) : (s.setByte a v).canHold = s.canHold := rfl
@[simp] theorem State.setByte_hlDrive (a : Nat) (v : Byte) : (s.setByte a v).hlDrive = s.hlDrive := rfl
@[simp] theorem State.setByte_tb0 (a : Nat) (v : Byte) : (s.setByte a v).tb0 = s.tb0 := rfl
@[simp] theorem State.setByte_onMonitor (a : Nat) (v : Byte) : (s.setByte a v).onMonitor = s.onMonitor := rfl
@[simp] theorem State.setByte_halfA (a : Nat) (v : Byte) : (s.setByte a v).halfA = s.halfA := rfl
@[simp] theorem State.setByte_halfB (a : Nat) (v : Byte) : (s.setByte a v).halfB = s.halfB := rfl
@[simp] theorem State.setByte_pci (a : Nat) (v : Byte) : (s.setByte a v).pci = s.pci := rfl
@[simp] theorem State.setByte_boot (a : Nat) (v : Byte) : (s.setByte a v).boot = s.boot := rfl
@[simp] theorem State.setByte_bus (a : Nat) (v : Byte) : (s.setByte a v).bus = s.bus := rfl
@[simp] theorem State.setByte_hold (a : Nat) (v : Byte) : (s.setByte a v).hold = s.hold := rfl
@[simp] theorem State.setByte_held (a : Nat) (v : Byte) : (s.setByte a v).held = s.held := rfl
@[simp] theorem State.setByte_readData (a : Nat) (v : Byte) : (s.setByte a v).readData = s.readData := rfl
@[simp] theorem State.setByte_freeIdx (a : Nat) (v : Byte) : (s.setByte a v).freeIdx = s.freeIdx := rfl
@[simp] theorem State.setByte_pending (a : Nat) (v : Byte) : (s.setByte a v).pending = s.pending := rfl
@[simp] theorem State.setByte_mem (a : Nat) (v : Byte) : (s.setByte a v).mem = storeSet 0 s.mem a v := rfl

/-! setMemWord -/

@[simp] theorem State.setMemWord_regs (a : Nat) (w : Word) : (s.setMemWord a w).regs = s.regs := by unfold State.setMemWord; simp only [State.setByte_regs]
@[simp] theorem State.setMemWord_image (a : Nat) (w : Word) : (s.setMemWord a w).image = s.image := by unfold State.setMemWord; simp only [State.setByte_image]
@[simp] theorem State.setMemWord_sect (a : Nat) (w : Word) : (s.setMemWord a w).sect = s.sect := by unfold State.setMemWord; simp only [State.setByte_sect]
@[simp] theorem State.setMemWord_cfg (a : Nat) (w : Word) : (s.setMemWord a w).cfg = s.cfg := by unfold State.setMemWord; simp only [State.setByte_cfg]
@[simp] theorem State.setMemWord_sectCfg (a : Nat) (w : Word) : (s.setMemWord a w).sectCfg = s.sectCfg := by unfold State.setMemWord; simp only [State.setByte_sectCfg]
@[simp] theorem State.setMemWord_isl (a : Nat) (w : Word) : (s.setMemWord a w).isl = s.isl := by unfold State.setMemWord; simp only [State.setByte_isl]
@[simp] theorem State.setMemWord_pen (a : Nat) (w : Word) : (s.setMemWord a w).pen = s.pen := by unfold State.setMemWord; simp only [State.setByte_pen]
@[simp] theorem State.setMemWord_former (a : Nat) (w : Word) : (s.setMemWord a w).former = s.former := by unfold State.setMemWord; simp only [State.setByte_former]
@[simp] theorem State.setMemWord_canHold (a : Nat) (w : Word) : (s.setMemWord a w).canHold = s.canHold := by unfold State.setMemWord; simp only [State.setByte_canHold]
@[simp] theorem State.setMemWord_hlDrive (a : Nat) (w : Word) : (s.setMemWord a w).hlDrive = s.hlDrive := by unfold State.setMemWord; simp only [State.setByte_hlDrive]
@[simp] theorem State.setMemWord_tb0 (a : Nat) (w : Word) : (s.setMemWord a w).tb0 = s.tb0 := by unfold State.setMemWord; simp only [State.setByte_tb0]
@[simp] theorem State.setMemWord_onMonitor (a : Nat) (w : Word) : (s.setMemWord a w).onMonitor = s.onMonitor := by unfold State.setMemWord; simp only [State.setByte_onMonitor]
@[simp] theorem State.setMemWord_halfA (a : Nat) (w : Word) : (s.setMemWord a w).halfA = s.halfA := by unfold State.setMemWord; simp only [State.setByte_halfA]
@[simp] theorem State.setMemWord_halfB (a : Nat) (w : Word) : (s.setMemWord a w).halfB = s.halfB := by unfold State.setMemWord; simp only [State.setByte_halfB]
@[simp] theorem State.setMemWord_pci (a : Nat) (w : Word) : (s.setMemWord a w).pci = s.pci := by unfold State.setMemWord; simp only [State.setByte_pci]
@[simp] theorem State.setMemWord_boot (a : Nat) (w : Word) : (s.setMemWord a w).boot = s.boot := by unfold State.setMemWord; simp only [State.setByte_boot]
@[simp] theorem State.setMemWord_bus (a : Nat) (w : Word) : (s.setMemWord a w).bus = s.bus := by unfold State.setMemWord; simp only [State.setByte_bus]
@[simp] theorem State.setMemWord_hold (a : Nat) (w : Word) : (s.setMemWord a w).hold = s.hold := by unfold State.setMemWord; simp only [State.setByte_hold]
@[simp] theorem State.setMemWord_held (a : Nat) (w : Word) : (s.setMemWord a w).held = s.held := by unfold State.setMemWord; simp only [State.setByte_held]
@[simp] theorem State.setMemWord_readData (a : Nat) (w : Word) : (s.setMemWord a w).readData = s.readData := by unfold State.setMemWord; simp only [State.setByte_readData]
@[simp] theorem State.setMemWord_freeIdx (a : Nat) (w : Word) : (s.setMemWord a w).freeIdx = s.freeIdx := by unfold State.setMemWord; simp only [State.setByte_freeIdx]
@[simp] theorem State.setMemWord_pending (a : Nat) (w : Word) : (s.setMemWord a w).pending = s.pending := by unfold State.setMemWord; simp only [State.setByte_pending]

/-! setMemN -/

@[simp] theorem State.setMemN_regs (a v : Nat) : (s.setMemN a v).regs = s.regs := State.setMemWord_regs s a _
@[simp] theorem State.setMemN_image (a v : Nat) : (s.setMemN a v).image = s.image := State.setMemWord_image s a _
@[simp] theorem State.setMemN_sect (a v : Nat) : (s.setMemN a v).sect = s.sect := State.setMemWord_sect s a _
@[simp] theorem State.setMemN_cfg (a v : Nat) : (s.setMemN a v).cfg = s.cfg := State.setMemWord_cfg s a _
@[simp] theorem State.setMemN_sectCfg (a v : Nat) : (s.setMemN a v).sectCfg = s.sectCfg := State.setMemWord_sectCfg s a _
@[simp] theorem State.setMemN_isl (a v : Nat) : (s.setMemN a v).isl = s.isl := State.setMemWord_isl s a _
@[simp] theorem State.setMemN_pen (a v : Nat) : (s.setMemN a v).pen = s.pen := State.setMemWord_pen s a _
@[simp] theorem State.setMemN_former (a v : Nat) : (s.setMemN a v).former = s.former := State.setMemWord_former s a _
@[simp] theorem State.setMemN_canHold (a v : Nat) : (s.setMemN a v).canHold = s.canHold := State.setMemWord_canHold s a _
@[simp] theorem State.setMemN_hlDrive (a v : Nat) : (s.setMemN a v).hlDrive = s.hlDrive := State.setMemWord_hlDrive s a _
@[simp] theorem State.setMemN_tb0 (a v : Nat) : (s.setMemN a v).tb0 = s.tb0 := State.setMemWord_tb0 s a _
@[simp] theorem State.setMemN_onMonitor (a v : Nat) : (s.setMemN a v).onMonitor = s.onMonitor := State.setMemWord_onMonitor s a _
@[simp] theorem State.setMemN_halfA (a v : Nat) : (s.setMemN a v).halfA = s.halfA := State.setMemWord_halfA s a _
@[simp] theorem State.setMemN_halfB (a v : Nat) : (s.setMemN a v).halfB = s.halfB := State.setMemWord_halfB s a _
@[simp] theorem State.setMemN_pci (a v : Nat) : (s.setMemN a v).pci = s.pci := State.setMemWord_pci s a _
@[simp] theorem State.setMemN_boot (a v : Nat) : (s.setMemN a v).boot = s.boot := State.setMemWord_boot s a _
@[simp] theorem State.setMemN_bus (a v : Nat) : (s.setMemN a v).bus = s.bus := State.setMemWord_bus s a _
@[simp] theorem State.setMemN_hold (a v : Nat) : (s.setMemN a v).hold = s.hold := State.setMemWord_hold s a _
@[simp] theorem State.setMemN_held (a v : Nat) : (s.setMemN a v).held = s.held := State.setMemWord_held s a _
@[simp] theorem State.setMemN_readData (a v : Nat) : (s.setMemN a v).readData = s.readData := State.setMemWord_readData s a _
@[simp] theorem State.setMemN_freeIdx (a v : Nat) : (s.setMemN a v).freeIdx = s.freeIdx := State.setMemWord_freeIdx s a _
@[simp] theorem State.setMemN_pending (a v : Nat) : (s.setMemN a v).pending = s.pending := State.setMemWord_pending s a _

/-! setMemQuad -/

@[simp] theorem State.setMemQuad_regs (a v : Nat) : (s.setMemQuad a v).regs = s.regs := (State.setMemN_regs _ _ _).trans (State.setMemN_regs _ _ _)
@[simp] theorem State.setMemQuad_image (a v : Nat) : (s.setMemQuad a v).image = s.image := (State.setMemN_image _ _ _).trans (State.setMemN_image _ _ _)
@[simp] theorem State.setMemQuad_sect (a v : Nat) : (s.setMemQuad a v).sect = s.sect := (State.setMemN_sect _ _ _).trans (State.setMemN_sect _ _ _)
@[simp] theorem State.setMemQuad_cfg (a v : Nat) : (s.setMemQuad a v).cfg = s.cfg := (State.setMemN_cfg _ _ _).trans (State.setMemN_cfg _ _ _)
@[simp] theorem State.setMemQuad_sectCfg (a v : Nat) : (s.setMemQuad a v).sectCfg = s.sectCfg := (State.setMemN_sectCfg _ _ _).trans (State.setMemN_sectCfg _ _ _)
@[simp] theorem State.setMemQuad_isl (a v : Nat) : (s.setMemQuad a v).isl = s.isl := (State.setMemN_isl _ _ _).trans (State.setMemN_isl _ _ _)
@[simp] theorem State.setMemQuad_pen (a v : Nat) : (s.setMemQuad a v).pen = s.pen := (State.setMemN_pen _ _ _).trans (State.setMemN_pen _ _ _)
@[simp] theorem State.setMemQuad_former (a v : Nat) : (s.setMemQuad a v).former = s.former := (State.setMemN_former _ _ _).trans (State.setMemN_former _ _ _)
@[simp] theorem State.setMemQuad_canHold (a v : Nat) : (s.setMemQuad a v).canHold = s.canHold := (State.setMemN_canHold _ _ _).trans (State.setMemN_canHold _ _ _)
@[simp] theorem State.setMemQuad_hlDrive (a v : Nat) : (s.setMemQuad a v).hlDrive = s.hlDrive := (State.setMemN_hlDrive _ _ _).trans (State.setMemN_hlDrive _ _ _)
@[simp] theorem State.setMemQuad_tb0 (a v : Nat) : (s.setMemQuad a v).tb0 = s.tb0 := (State.setMemN_tb0 _ _ _).trans (State.setMemN_tb0 _ _ _)
@[simp] theorem State.setMemQuad_onMonitor (a v : Nat) : (s.setMemQuad a v).onMonitor = s.onMonitor := (State.setMemN_onMonitor _ _ _).trans (State.setMemN_onMonitor _ _ _)
@[simp] theorem State.setMemQuad_halfA (a v : Nat) : (s.setMemQuad a v).halfA = s.halfA := (State.setMemN_halfA _ _ _).trans (State.setMemN_halfA _ _ _)
@[simp] theorem State.setMemQuad_halfB (a v : Nat) : (s.setMemQuad a v).halfB = s.halfB := (State.setMemN_halfB _ _ _).trans (State.setMemN_halfB _ _ _)
@[simp] theorem State.setMemQuad_pci (a v : Nat) : (s.setMemQuad a v).pci = s.pci := (State.setMemN_pci _ _ _).trans (State.setMemN_pci _ _ _)
@[simp] theorem State.setMemQuad_boot (a v : Nat) : (s.setMemQuad a v).boot = s.boot := (State.setMemN_boot _ _ _).trans (State.setMemN_boot _ _ _)
@[simp] theorem State.setMemQuad_bus (a v : Nat) : (s.setMemQuad a v).bus = s.bus := (State.setMemN_bus _ _ _).trans (State.setMemN_bus _ _ _)
@[simp] theorem State.setMemQuad_hold (a v : Nat) : (s.setMemQuad a v).hold = s.hold := (State.setMemN_hold _ _ _).trans (State.setMemN_hold _ _ _)
@[simp] theorem State.setMemQuad_held (a v : Nat) : (s.setMemQuad a v).held = s.held := (State.setMemN_held _ _ _).trans (State.setMemN_held _ _ _)
@[simp] theorem State.setMemQuad_readData (a v : Nat) : (s.setMemQuad a v).readData = s.readData := (State.setMemN_readData _ _ _).trans (State.setMemN_readData _ _ _)
@[simp] theorem State.setMemQuad_freeIdx (a v : Nat) : (s.setMemQuad a v).freeIdx = s.freeIdx := (State.setMemN_freeIdx _ _ _).trans (State.setMemN_freeIdx _ _ _)
@[simp] theorem State.setMemQuad_pending (a v : Nat) : (s.setMemQuad a v).pending = s.pending := (State.setMemN_pending _ _ _).trans (State.setMemN_pending _ _ _)

/-! setHalf -/

@[simp] theorem State.setHalf_regs (h : Half) (x : HalfState) : (s.setHalf h x).regs = s.regs := by cases h <;> rfl
@[simp] theorem State.setHalf_mem (h : Half) (x : HalfState) : (s.setHalf h x).mem = s.mem := by cases h <;> rfl
@[simp] theorem State.setHalf_image (h : Half) (x : HalfState) : (s.setHalf h x).image = s.image := by cases h <;> rfl
@[simp] theorem State.setHalf_sect (h : Half) (x : HalfState) : (s.setHalf h x).sect = s.sect := by cases h <;> rfl
@[simp] theorem State.setHalf_cfg (h : Half) (x : HalfState) : (s.setHalf h x).cfg = s.cfg := by cases h <;> rfl
@[simp] theorem State.setHalf_sectCfg (h : Half) (x : HalfState) : (s.setHalf h x).sectCfg = s.sectCfg := by cases h <;> rfl
@[simp] theorem State.setHalf_isl (h : Half) (x : HalfState) : (s.setHalf h x).isl = s.isl := by cases h <;> rfl
@[simp] theorem State.setHalf_pen (h : Half) (x : HalfState) : (s.setHalf h x).pen = s.pen := by cases h <;> rfl
@[simp] theorem State.setHalf_former (h : Half) (x : HalfState) : (s.setHalf h x).former = s.former := by cases h <;> rfl
@[simp] theorem State.setHalf_canHold (h : Half) (x : HalfState) : (s.setHalf h x).canHold = s.canHold := by cases h <;> rfl
@[simp] theorem State.setHalf_hlDrive (h : Half) (x : HalfState) : (s.setHalf h x).hlDrive = s.hlDrive := by cases h <;> rfl
@[simp] theorem State.setHalf_tb0 (h : Half) (x : HalfState) : (s.setHalf h x).tb0 = s.tb0 := by cases h <;> rfl
@[simp] theorem State.setHalf_onMonitor (h : Half) (x : HalfState) : (s.setHalf h x).onMonitor = s.onMonitor := by cases h <;> rfl
@[simp] theorem State.setHalf_pci (h : Half) (x : HalfState) : (s.setHalf h x).pci = s.pci := by cases h <;> rfl
@[simp] theorem State.setHalf_boot (h : Half) (x : HalfState) : (s.setHalf h x).boot = s.boot := by cases h <;> rfl
@[simp] theorem State.setHalf_bus (h : Half) (x : HalfState) : (s.setHalf h x).bus = s.bus := by cases h <;> rfl
@[simp] theorem State.setHalf_hold (h : Half) (x : HalfState) : (s.setHalf h x).hold = s.hold := by cases h <;> rfl
@[simp] theorem State.setHalf_held (h : Half) (x : HalfState) : (s.setHalf h x).held = s.held := by cases h <;> rfl
@[simp] theorem State.setHalf_readData (h : Half) (x : HalfState) : (s.setHalf h x).readData = s.readData := by cases h <;> rfl
@[simp] theorem State.setHalf_freeIdx (h : Half) (x : HalfState) : (s.setHalf h x).freeIdx = s.freeIdx := by cases h <;> rfl
@[simp] theorem State.setHalf_pending (h : Half) (x : HalfState) : (s.setHalf h x).pending = s.pending := by cases h <;> rfl

/-! onHalf -/

@[simp] theorem State.onHalf_regs (h : Half) (f : HalfState → HalfState) : (s.onHalf h f).regs = s.regs := by cases h <;> rfl
@[simp] theorem State.onHalf_mem (h : Half) (f : HalfState → HalfState) : (s.onHalf h f).mem = s.mem := by cases h <;> rfl
@[simp] theorem State.onHalf_image (h : Half) (f : HalfState → HalfState) : (s.onHalf h f).image = s.image := by cases h <;> rfl
@[simp] theorem State.onHalf_sect (h : Half) (f : HalfState → HalfState) : (s.onHalf h f).sect = s.sect := by cases h <;> rfl
@[simp] theorem State.onHalf_cfg (h : Half) (f : HalfState → HalfState) : (s.onHalf h f).cfg = s.cfg := by cases h <;> rfl
@[simp] theorem State.onHalf_sectCfg (h : Half) (f : HalfState → HalfState) : (s.onHalf h f).sectCfg = s.sectCfg := by cases h <;> rfl
@[simp] theorem State.onHalf_isl (h : Half) (f : HalfState → HalfState) : (s.onHalf h f).isl = s.isl := by cases h <;> rfl
@[simp] theorem State.onHalf_pen (h : Half) (f : HalfState → HalfState) : (s.onHalf h f).pen = s.pen := by cases h <;> rfl
@[simp] theorem State.onHalf_former (h : Half) (f : HalfState → HalfState) : (s.onHalf h f).former = s.former := by cases h <;> rfl
@[simp] theorem State.onHalf_canHold (h : Half) (f : HalfState → HalfState) : (s.onHalf h f).canHold = s.canHold := by cases h <;> rfl
@[simp] theorem State.onHalf_hlDrive (h : Half) (f : HalfState → HalfState) : (s.onHalf h f).hlDrive = s.hlDrive := by cases h <;> rfl
@[simp] theorem State.onHalf_tb0 (h : Half) (f : HalfState → HalfState) : (s.onHalf h f).tb0 = s.tb0 := by cases h <;> rfl
@[simp] theorem State.onHalf_onMonitor (h : Half) (f : HalfState → HalfState) : (s.onHalf h f).onMonitor = s.onMonitor := by cases h <;> rfl
@[simp] theorem State.onHalf_pci (h : Half) (f : HalfState → HalfState) : (s.onHalf h f).pci = s.pci := by cases h <;> rfl
@[simp] theorem State.onHalf_boot (h : Half) (f : HalfState → HalfState) : (s.onHalf h f).boot = s.boot := by cases h <;> rfl
@[simp] theorem State.onHalf_bus (h : Half) (f : HalfState → HalfState) : (s.onHalf h f).bus = s.bus := by cases h <;> rfl
@[simp] theorem State.onHalf_hold (h : Half) (f : HalfState → HalfState) : (s.onHalf h f).hold = s.hold := by cases h <;> rfl
@[simp] theorem State.onHalf_held (h : Half) (f : HalfState → HalfState) : (s.onHalf h f).held = s.held := by cases h <;> rfl
@[simp] theorem State.onHalf_readData (h : Half) (f : HalfState → HalfState) : (s.onHalf h f).readData = s.readData := by cases h <;> rfl
@[simp] theorem State.onHalf_freeIdx (h : Half) (f : HalfState → HalfState) : (s.onHalf h f).freeIdx = s.freeIdx := by cases h <;> rfl
@[simp] theorem State.onHalf_pending (h : Half) (f : HalfState → HalfState) : (s.onHalf h f).pending = s.pending := by cases h <;> rfl

/-! setCore -/

@[simp] theorem State.setCore_regs (h : Half) (k : Nat) (c : CoreUnit) : (s.setCore h k c).regs = s.regs := State.onHalf_regs s h _
@[simp] theorem State.setCore_mem (h : Half) (k : Nat) (c : CoreUnit) : (s.setCore h k c).mem = s.mem := State.onHalf_mem s h _
@[simp] theorem State.setCore_image (h : Half) (k : Nat) (c : CoreUnit) : (s.setCore h k c).image = s.image := State.onHalf_image s h _
@[simp] theorem State.setCore_sect (h : Half) (k : Nat) (c : CoreUnit) : (s.setCore h k c).sect = s.sect := State.onHalf_sect s h _
@[simp] theorem State.setCore_isl (h : Half) (k : Nat) (c : CoreUnit) : (s.setCore h k c).isl = s.isl := State.onHalf_isl s h _
@[simp] theorem State.setCore_pen (h : Half) (k : Nat) (c : CoreUnit) : (s.setCore h k c).pen = s.pen := State.onHalf_pen s h _
@[simp] theorem State.setCore_tb0 (h : Half) (k : Nat) (c : CoreUnit) : (s.setCore h k c).tb0 = s.tb0 := State.onHalf_tb0 s h _
@[simp] theorem State.setCore_pci (h : Half) (k : Nat) (c : CoreUnit) : (s.setCore h k c).pci = s.pci := State.onHalf_pci s h _
@[simp] theorem State.setCore_boot (h : Half) (k : Nat) (c : CoreUnit) : (s.setCore h k c).boot = s.boot := State.onHalf_boot s h _
@[simp] theorem State.setCore_bus (h : Half) (k : Nat) (c : CoreUnit) : (s.setCore h k c).bus = s.bus := State.onHalf_bus s h _
@[simp] theorem State.setCore_hold (h : Half) (k : Nat) (c : CoreUnit) : (s.setCore h k c).hold = s.hold := State.onHalf_hold s h _
@[simp] theorem State.setCore_pending (h : Half) (k : Nat) (c : CoreUnit) : (s.setCore h k c).pending = s.pending := State.onHalf_pending s h _

/-! setSched -/

@[simp] theorem State.setSched_regs (h : Half) (u : SchedUnit) : (s.setSched h u).regs = s.regs := State.onHalf_regs s h _
@[simp] theorem State.setSched_mem (h : Half) (u : SchedUnit) : (s.setSched h u).mem = s.mem := State.onHalf_mem s h _
@[simp] theorem State.setSched_image (h : Half) (u : SchedUnit) : (s.setSched h u).image = s.image := State.onHalf_image s h _
@[simp] theorem State.setSched_sect (h : Half) (u : SchedUnit) : (s.setSched h u).sect = s.sect := State.onHalf_sect s h _
@[simp] theorem State.setSched_isl (h : Half) (u : SchedUnit) : (s.setSched h u).isl = s.isl := State.onHalf_isl s h _
@[simp] theorem State.setSched_pen (h : Half) (u : SchedUnit) : (s.setSched h u).pen = s.pen := State.onHalf_pen s h _
@[simp] theorem State.setSched_tb0 (h : Half) (u : SchedUnit) : (s.setSched h u).tb0 = s.tb0 := State.onHalf_tb0 s h _
@[simp] theorem State.setSched_pci (h : Half) (u : SchedUnit) : (s.setSched h u).pci = s.pci := State.onHalf_pci s h _
@[simp] theorem State.setSched_boot (h : Half) (u : SchedUnit) : (s.setSched h u).boot = s.boot := State.onHalf_boot s h _
@[simp] theorem State.setSched_bus (h : Half) (u : SchedUnit) : (s.setSched h u).bus = s.bus := State.onHalf_bus s h _
@[simp] theorem State.setSched_hold (h : Half) (u : SchedUnit) : (s.setSched h u).hold = s.hold := State.onHalf_hold s h _
@[simp] theorem State.setSched_pending (h : Half) (u : SchedUnit) : (s.setSched h u).pending = s.pending := State.onHalf_pending s h _

/-! setTime -/

@[simp] theorem State.setTime_regs (h : Half) (u : TimeUnit) : (s.setTime h u).regs = s.regs := State.onHalf_regs s h _
@[simp] theorem State.setTime_mem (h : Half) (u : TimeUnit) : (s.setTime h u).mem = s.mem := State.onHalf_mem s h _
@[simp] theorem State.setTime_image (h : Half) (u : TimeUnit) : (s.setTime h u).image = s.image := State.onHalf_image s h _
@[simp] theorem State.setTime_sect (h : Half) (u : TimeUnit) : (s.setTime h u).sect = s.sect := State.onHalf_sect s h _
@[simp] theorem State.setTime_isl (h : Half) (u : TimeUnit) : (s.setTime h u).isl = s.isl := State.onHalf_isl s h _
@[simp] theorem State.setTime_pen (h : Half) (u : TimeUnit) : (s.setTime h u).pen = s.pen := State.onHalf_pen s h _
@[simp] theorem State.setTime_tb0 (h : Half) (u : TimeUnit) : (s.setTime h u).tb0 = s.tb0 := State.onHalf_tb0 s h _
@[simp] theorem State.setTime_pci (h : Half) (u : TimeUnit) : (s.setTime h u).pci = s.pci := State.onHalf_pci s h _
@[simp] theorem State.setTime_boot (h : Half) (u : TimeUnit) : (s.setTime h u).boot = s.boot := State.onHalf_boot s h _
@[simp] theorem State.setTime_bus (h : Half) (u : TimeUnit) : (s.setTime h u).bus = s.bus := State.onHalf_bus s h _
@[simp] theorem State.setTime_hold (h : Half) (u : TimeUnit) : (s.setTime h u).hold = s.hold := State.onHalf_hold s h _
@[simp] theorem State.setTime_pending (h : Half) (u : TimeUnit) : (s.setTime h u).pending = s.pending := State.onHalf_pending s h _

/-! setPrf -/

@[simp] theorem State.setPrf_regs (h : Half) (k : Nat) (c : PrfUnit) : (s.setPrf h k c).regs = s.regs := State.onHalf_regs s h _
@[simp] theorem State.setPrf_mem (h : Half) (k : Nat) (c : PrfUnit) : (s.setPrf h k c).mem = s.mem := State.onHalf_mem s h _
@[simp] theorem State.setPrf_image (h : Half) (k : Nat) (c : PrfUnit) : (s.setPrf h k c).image = s.image := State.onHalf_image s h _
@[simp] theorem State.setPrf_sect (h : Half) (k : Nat) (c : PrfUnit) : (s.setPrf h k c).sect = s.sect := State.onHalf_sect s h _
@[simp] theorem State.setPrf_isl (h : Half) (k : Nat) (c : PrfUnit) : (s.setPrf h k c).isl = s.isl := State.onHalf_isl s h _
@[simp] theorem State.setPrf_pen (h : Half) (k : Nat) (c : PrfUnit) : (s.setPrf h k c).pen = s.pen := State.onHalf_pen s h _
@[simp] theorem State.setPrf_tb0 (h : Half) (k : Nat) (c : PrfUnit) : (s.setPrf h k c).tb0 = s.tb0 := State.onHalf_tb0 s h _
@[simp] theorem State.setPrf_pci (h : Half) (k : Nat) (c : PrfUnit) : (s.setPrf h k c).pci = s.pci := State.onHalf_pci s h _
@[simp] theorem State.setPrf_boot (h : Half) (k : Nat) (c : PrfUnit) : (s.setPrf h k c).boot = s.boot := State.onHalf_boot s h _
@[simp] theorem State.setPrf_bus (h : Half) (k : Nat) (c : PrfUnit) : (s.setPrf h k c).bus = s.bus := State.onHalf_bus s h _
@[simp] theorem State.setPrf_hold (h : Half) (k : Nat) (c : PrfUnit) : (s.setPrf h k c).hold = s.hold := State.onHalf_hold s h _
@[simp] theorem State.setPrf_pending (h : Half) (k : Nat) (c : PrfUnit) : (s.setPrf h k c).pending = s.pending := State.onHalf_pending s h _

/-! setCe -/

@[simp] theorem State.setCe_regs (h : Half) (k : Nat) (c : CeUnit) : (s.setCe h k c).regs = s.regs := State.onHalf_regs s h _
@[simp] theorem State.setCe_mem (h : Half) (k : Nat) (c : CeUnit) : (s.setCe h k c).mem = s.mem := State.onHalf_mem s h _
@[simp] theorem State.setCe_image (h : Half) (k : Nat) (c : CeUnit) : (s.setCe h k c).image = s.image := State.onHalf_image s h _
@[simp] theorem State.setCe_sect (h : Half) (k : Nat) (c : CeUnit) : (s.setCe h k c).sect = s.sect := State.onHalf_sect s h _
@[simp] theorem State.setCe_isl (h : Half) (k : Nat) (c : CeUnit) : (s.setCe h k c).isl = s.isl := State.onHalf_isl s h _
@[simp] theorem State.setCe_pen (h : Half) (k : Nat) (c : CeUnit) : (s.setCe h k c).pen = s.pen := State.onHalf_pen s h _
@[simp] theorem State.setCe_tb0 (h : Half) (k : Nat) (c : CeUnit) : (s.setCe h k c).tb0 = s.tb0 := State.onHalf_tb0 s h _
@[simp] theorem State.setCe_pci (h : Half) (k : Nat) (c : CeUnit) : (s.setCe h k c).pci = s.pci := State.onHalf_pci s h _
@[simp] theorem State.setCe_boot (h : Half) (k : Nat) (c : CeUnit) : (s.setCe h k c).boot = s.boot := State.onHalf_boot s h _
@[simp] theorem State.setCe_bus (h : Half) (k : Nat) (c : CeUnit) : (s.setCe h k c).bus = s.bus := State.onHalf_bus s h _
@[simp] theorem State.setCe_hold (h : Half) (k : Nat) (c : CeUnit) : (s.setCe h k c).hold = s.hold := State.onHalf_hold s h _
@[simp] theorem State.setCe_pending (h : Half) (k : Nat) (c : CeUnit) : (s.setCe h k c).pending = s.pending := State.onHalf_pending s h _

/-! setArm -/

@[simp] theorem State.setArm_regs (h : Half) (k : Nat) (c : ArmUnit) : (s.setArm h k c).regs = s.regs := State.onHalf_regs s h _
@[simp] theorem State.setArm_mem (h : Half) (k : Nat) (c : ArmUnit) : (s.setArm h k c).mem = s.mem := State.onHalf_mem s h _
@[simp] theorem State.setArm_image (h : Half) (k : Nat) (c : ArmUnit) : (s.setArm h k c).image = s.image := State.onHalf_image s h _
@[simp] theorem State.setArm_sect (h : Half) (k : Nat) (c : ArmUnit) : (s.setArm h k c).sect = s.sect := State.onHalf_sect s h _
@[simp] theorem State.setArm_isl (h : Half) (k : Nat) (c : ArmUnit) : (s.setArm h k c).isl = s.isl := State.onHalf_isl s h _
@[simp] theorem State.setArm_pen (h : Half) (k : Nat) (c : ArmUnit) : (s.setArm h k c).pen = s.pen := State.onHalf_pen s h _
@[simp] theorem State.setArm_tb0 (h : Half) (k : Nat) (c : ArmUnit) : (s.setArm h k c).tb0 = s.tb0 := State.onHalf_tb0 s h _
@[simp] theorem State.setArm_pci (h : Half) (k : Nat) (c : ArmUnit) : (s.setArm h k c).pci = s.pci := State.onHalf_pci s h _
@[simp] theorem State.setArm_boot (h : Half) (k : Nat) (c : ArmUnit) : (s.setArm h k c).boot = s.boot := State.onHalf_boot s h _
@[simp] theorem State.setArm_bus (h : Half) (k : Nat) (c : ArmUnit) : (s.setArm h k c).bus = s.bus := State.onHalf_bus s h _
@[simp] theorem State.setArm_hold (h : Half) (k : Nat) (c : ArmUnit) : (s.setArm h k c).hold = s.hold := State.onHalf_hold s h _
@[simp] theorem State.setArm_pending (h : Half) (k : Nat) (c : ArmUnit) : (s.setArm h k c).pending = s.pending := State.onHalf_pending s h _

/-! setHoist -/

@[simp] theorem State.setHoist_regs (h : Half) (k : Nat) (c : HoistUnit) : (s.setHoist h k c).regs = s.regs := State.onHalf_regs s h _
@[simp] theorem State.setHoist_mem (h : Half) (k : Nat) (c : HoistUnit) : (s.setHoist h k c).mem = s.mem := State.onHalf_mem s h _
@[simp] theorem State.setHoist_image (h : Half) (k : Nat) (c : HoistUnit) : (s.setHoist h k c).image = s.image := State.onHalf_image s h _
@[simp] theorem State.setHoist_sect (h : Half) (k : Nat) (c : HoistUnit) : (s.setHoist h k c).sect = s.sect := State.onHalf_sect s h _
@[simp] theorem State.setHoist_isl (h : Half) (k : Nat) (c : HoistUnit) : (s.setHoist h k c).isl = s.isl := State.onHalf_isl s h _
@[simp] theorem State.setHoist_pen (h : Half) (k : Nat) (c : HoistUnit) : (s.setHoist h k c).pen = s.pen := State.onHalf_pen s h _
@[simp] theorem State.setHoist_tb0 (h : Half) (k : Nat) (c : HoistUnit) : (s.setHoist h k c).tb0 = s.tb0 := State.onHalf_tb0 s h _
@[simp] theorem State.setHoist_pci (h : Half) (k : Nat) (c : HoistUnit) : (s.setHoist h k c).pci = s.pci := State.onHalf_pci s h _
@[simp] theorem State.setHoist_boot (h : Half) (k : Nat) (c : HoistUnit) : (s.setHoist h k c).boot = s.boot := State.onHalf_boot s h _
@[simp] theorem State.setHoist_bus (h : Half) (k : Nat) (c : HoistUnit) : (s.setHoist h k c).bus = s.bus := State.onHalf_bus s h _
@[simp] theorem State.setHoist_hold (h : Half) (k : Nat) (c : HoistUnit) : (s.setHoist h k c).hold = s.hold := State.onHalf_hold s h _
@[simp] theorem State.setHoist_pending (h : Half) (k : Nat) (c : HoistUnit) : (s.setHoist h k c).pending = s.pending := State.onHalf_pending s h _

/-! setServo -/

@[simp] theorem State.setServo_regs (h : Half) (u : ServoUnit) : (s.setServo h u).regs = s.regs := State.onHalf_regs s h _
@[simp] theorem State.setServo_mem (h : Half) (u : ServoUnit) : (s.setServo h u).mem = s.mem := State.onHalf_mem s h _
@[simp] theorem State.setServo_image (h : Half) (u : ServoUnit) : (s.setServo h u).image = s.image := State.onHalf_image s h _
@[simp] theorem State.setServo_sect (h : Half) (u : ServoUnit) : (s.setServo h u).sect = s.sect := State.onHalf_sect s h _
@[simp] theorem State.setServo_isl (h : Half) (u : ServoUnit) : (s.setServo h u).isl = s.isl := State.onHalf_isl s h _
@[simp] theorem State.setServo_pen (h : Half) (u : ServoUnit) : (s.setServo h u).pen = s.pen := State.onHalf_pen s h _
@[simp] theorem State.setServo_tb0 (h : Half) (u : ServoUnit) : (s.setServo h u).tb0 = s.tb0 := State.onHalf_tb0 s h _
@[simp] theorem State.setServo_pci (h : Half) (u : ServoUnit) : (s.setServo h u).pci = s.pci := State.onHalf_pci s h _
@[simp] theorem State.setServo_boot (h : Half) (u : ServoUnit) : (s.setServo h u).boot = s.boot := State.onHalf_boot s h _
@[simp] theorem State.setServo_bus (h : Half) (u : ServoUnit) : (s.setServo h u).bus = s.bus := State.onHalf_bus s h _
@[simp] theorem State.setServo_hold (h : Half) (u : ServoUnit) : (s.setServo h u).hold = s.hold := State.onHalf_hold s h _
@[simp] theorem State.setServo_pending (h : Half) (u : ServoUnit) : (s.setServo h u).pending = s.pending := State.onHalf_pending s h _

/-! setRing -/

@[simp] theorem State.setRing_regs (h : Half) (r : Nat) (x : RingUnit) : (s.setRing h r x).regs = s.regs := State.onHalf_regs s h _
@[simp] theorem State.setRing_mem (h : Half) (r : Nat) (x : RingUnit) : (s.setRing h r x).mem = s.mem := State.onHalf_mem s h _
@[simp] theorem State.setRing_image (h : Half) (r : Nat) (x : RingUnit) : (s.setRing h r x).image = s.image := State.onHalf_image s h _
@[simp] theorem State.setRing_sect (h : Half) (r : Nat) (x : RingUnit) : (s.setRing h r x).sect = s.sect := State.onHalf_sect s h _
@[simp] theorem State.setRing_isl (h : Half) (r : Nat) (x : RingUnit) : (s.setRing h r x).isl = s.isl := State.onHalf_isl s h _
@[simp] theorem State.setRing_pen (h : Half) (r : Nat) (x : RingUnit) : (s.setRing h r x).pen = s.pen := State.onHalf_pen s h _
@[simp] theorem State.setRing_tb0 (h : Half) (r : Nat) (x : RingUnit) : (s.setRing h r x).tb0 = s.tb0 := State.onHalf_tb0 s h _
@[simp] theorem State.setRing_pci (h : Half) (r : Nat) (x : RingUnit) : (s.setRing h r x).pci = s.pci := State.onHalf_pci s h _
@[simp] theorem State.setRing_boot (h : Half) (r : Nat) (x : RingUnit) : (s.setRing h r x).boot = s.boot := State.onHalf_boot s h _
@[simp] theorem State.setRing_bus (h : Half) (r : Nat) (x : RingUnit) : (s.setRing h r x).bus = s.bus := State.onHalf_bus s h _
@[simp] theorem State.setRing_hold (h : Half) (r : Nat) (x : RingUnit) : (s.setRing h r x).hold = s.hold := State.onHalf_hold s h _
@[simp] theorem State.setRing_pending (h : Half) (r : Nat) (x : RingUnit) : (s.setRing h r x).pending = s.pending := State.onHalf_pending s h _

/-! setSolver -/

@[simp] theorem State.setSolver_regs (h : Half) (x : SolverUnit) : (s.setSolver h x).regs = s.regs := State.onHalf_regs s h _
@[simp] theorem State.setSolver_mem (h : Half) (x : SolverUnit) : (s.setSolver h x).mem = s.mem := State.onHalf_mem s h _
@[simp] theorem State.setSolver_image (h : Half) (x : SolverUnit) : (s.setSolver h x).image = s.image := State.onHalf_image s h _
@[simp] theorem State.setSolver_sect (h : Half) (x : SolverUnit) : (s.setSolver h x).sect = s.sect := State.onHalf_sect s h _
@[simp] theorem State.setSolver_isl (h : Half) (x : SolverUnit) : (s.setSolver h x).isl = s.isl := State.onHalf_isl s h _
@[simp] theorem State.setSolver_pen (h : Half) (x : SolverUnit) : (s.setSolver h x).pen = s.pen := State.onHalf_pen s h _
@[simp] theorem State.setSolver_tb0 (h : Half) (x : SolverUnit) : (s.setSolver h x).tb0 = s.tb0 := State.onHalf_tb0 s h _
@[simp] theorem State.setSolver_pci (h : Half) (x : SolverUnit) : (s.setSolver h x).pci = s.pci := State.onHalf_pci s h _
@[simp] theorem State.setSolver_boot (h : Half) (x : SolverUnit) : (s.setSolver h x).boot = s.boot := State.onHalf_boot s h _
@[simp] theorem State.setSolver_bus (h : Half) (x : SolverUnit) : (s.setSolver h x).bus = s.bus := State.onHalf_bus s h _
@[simp] theorem State.setSolver_hold (h : Half) (x : SolverUnit) : (s.setSolver h x).hold = s.hold := State.onHalf_hold s h _
@[simp] theorem State.setSolver_pending (h : Half) (x : SolverUnit) : (s.setSolver h x).pending = s.pending := State.onHalf_pending s h _

/-! setGov -/

@[simp] theorem State.setGov_regs (h : Half) (x : GovUnit) : (s.setGov h x).regs = s.regs := State.onHalf_regs s h _
@[simp] theorem State.setGov_mem (h : Half) (x : GovUnit) : (s.setGov h x).mem = s.mem := State.onHalf_mem s h _
@[simp] theorem State.setGov_image (h : Half) (x : GovUnit) : (s.setGov h x).image = s.image := State.onHalf_image s h _
@[simp] theorem State.setGov_sect (h : Half) (x : GovUnit) : (s.setGov h x).sect = s.sect := State.onHalf_sect s h _
@[simp] theorem State.setGov_isl (h : Half) (x : GovUnit) : (s.setGov h x).isl = s.isl := State.onHalf_isl s h _
@[simp] theorem State.setGov_pen (h : Half) (x : GovUnit) : (s.setGov h x).pen = s.pen := State.onHalf_pen s h _
@[simp] theorem State.setGov_tb0 (h : Half) (x : GovUnit) : (s.setGov h x).tb0 = s.tb0 := State.onHalf_tb0 s h _
@[simp] theorem State.setGov_pci (h : Half) (x : GovUnit) : (s.setGov h x).pci = s.pci := State.onHalf_pci s h _
@[simp] theorem State.setGov_boot (h : Half) (x : GovUnit) : (s.setGov h x).boot = s.boot := State.onHalf_boot s h _
@[simp] theorem State.setGov_bus (h : Half) (x : GovUnit) : (s.setGov h x).bus = s.bus := State.onHalf_bus s h _
@[simp] theorem State.setGov_hold (h : Half) (x : GovUnit) : (s.setGov h x).hold = s.hold := State.onHalf_hold s h _
@[simp] theorem State.setGov_pending (h : Half) (x : GovUnit) : (s.setGov h x).pending = s.pending := State.onHalf_pending s h _

/-! setCan -/

@[simp] theorem State.setCan_regs (h : Half) (c : Nat) (x : CanCh) : (s.setCan h c x).regs = s.regs := State.onHalf_regs s h _
@[simp] theorem State.setCan_mem (h : Half) (c : Nat) (x : CanCh) : (s.setCan h c x).mem = s.mem := State.onHalf_mem s h _
@[simp] theorem State.setCan_image (h : Half) (c : Nat) (x : CanCh) : (s.setCan h c x).image = s.image := State.onHalf_image s h _
@[simp] theorem State.setCan_sect (h : Half) (c : Nat) (x : CanCh) : (s.setCan h c x).sect = s.sect := State.onHalf_sect s h _
@[simp] theorem State.setCan_isl (h : Half) (c : Nat) (x : CanCh) : (s.setCan h c x).isl = s.isl := State.onHalf_isl s h _
@[simp] theorem State.setCan_pen (h : Half) (c : Nat) (x : CanCh) : (s.setCan h c x).pen = s.pen := State.onHalf_pen s h _
@[simp] theorem State.setCan_tb0 (h : Half) (c : Nat) (x : CanCh) : (s.setCan h c x).tb0 = s.tb0 := State.onHalf_tb0 s h _
@[simp] theorem State.setCan_pci (h : Half) (c : Nat) (x : CanCh) : (s.setCan h c x).pci = s.pci := State.onHalf_pci s h _
@[simp] theorem State.setCan_boot (h : Half) (c : Nat) (x : CanCh) : (s.setCan h c x).boot = s.boot := State.onHalf_boot s h _
@[simp] theorem State.setCan_bus (h : Half) (c : Nat) (x : CanCh) : (s.setCan h c x).bus = s.bus := State.onHalf_bus s h _
@[simp] theorem State.setCan_hold (h : Half) (c : Nat) (x : CanCh) : (s.setCan h c x).hold = s.hold := State.onHalf_hold s h _
@[simp] theorem State.setCan_pending (h : Half) (c : Nat) (x : CanCh) : (s.setCan h c x).pending = s.pending := State.onHalf_pending s h _

/-! setAcq -/

@[simp] theorem State.setAcq_regs (h : Half) (x : AcqUnit) : (s.setAcq h x).regs = s.regs := State.onHalf_regs s h _
@[simp] theorem State.setAcq_mem (h : Half) (x : AcqUnit) : (s.setAcq h x).mem = s.mem := State.onHalf_mem s h _
@[simp] theorem State.setAcq_image (h : Half) (x : AcqUnit) : (s.setAcq h x).image = s.image := State.onHalf_image s h _
@[simp] theorem State.setAcq_sect (h : Half) (x : AcqUnit) : (s.setAcq h x).sect = s.sect := State.onHalf_sect s h _
@[simp] theorem State.setAcq_isl (h : Half) (x : AcqUnit) : (s.setAcq h x).isl = s.isl := State.onHalf_isl s h _
@[simp] theorem State.setAcq_pen (h : Half) (x : AcqUnit) : (s.setAcq h x).pen = s.pen := State.onHalf_pen s h _
@[simp] theorem State.setAcq_tb0 (h : Half) (x : AcqUnit) : (s.setAcq h x).tb0 = s.tb0 := State.onHalf_tb0 s h _
@[simp] theorem State.setAcq_pci (h : Half) (x : AcqUnit) : (s.setAcq h x).pci = s.pci := State.onHalf_pci s h _
@[simp] theorem State.setAcq_boot (h : Half) (x : AcqUnit) : (s.setAcq h x).boot = s.boot := State.onHalf_boot s h _
@[simp] theorem State.setAcq_bus (h : Half) (x : AcqUnit) : (s.setAcq h x).bus = s.bus := State.onHalf_bus s h _
@[simp] theorem State.setAcq_hold (h : Half) (x : AcqUnit) : (s.setAcq h x).hold = s.hold := State.onHalf_hold s h _
@[simp] theorem State.setAcq_pending (h : Half) (x : AcqUnit) : (s.setAcq h x).pending = s.pending := State.onHalf_pending s h _

/-! setIsl -/

@[simp] theorem State.setIsl_regs (x : IslandUnit) : (s.setIsl x).regs = s.regs := rfl
@[simp] theorem State.setIsl_mem (x : IslandUnit) : (s.setIsl x).mem = s.mem := rfl
@[simp] theorem State.setIsl_image (x : IslandUnit) : (s.setIsl x).image = s.image := rfl
@[simp] theorem State.setIsl_sect (x : IslandUnit) : (s.setIsl x).sect = s.sect := rfl
@[simp] theorem State.setIsl_cfg (x : IslandUnit) : (s.setIsl x).cfg = s.cfg := rfl
@[simp] theorem State.setIsl_sectCfg (x : IslandUnit) : (s.setIsl x).sectCfg = s.sectCfg := rfl
@[simp] theorem State.setIsl_pen (x : IslandUnit) : (s.setIsl x).pen = s.pen := rfl
@[simp] theorem State.setIsl_former (x : IslandUnit) : (s.setIsl x).former = s.former := rfl
@[simp] theorem State.setIsl_canHold (x : IslandUnit) : (s.setIsl x).canHold = s.canHold := rfl
@[simp] theorem State.setIsl_hlDrive (x : IslandUnit) : (s.setIsl x).hlDrive = s.hlDrive := rfl
@[simp] theorem State.setIsl_tb0 (x : IslandUnit) : (s.setIsl x).tb0 = s.tb0 := rfl
@[simp] theorem State.setIsl_onMonitor (x : IslandUnit) : (s.setIsl x).onMonitor = s.onMonitor := rfl
@[simp] theorem State.setIsl_halfA (x : IslandUnit) : (s.setIsl x).halfA = s.halfA := rfl
@[simp] theorem State.setIsl_halfB (x : IslandUnit) : (s.setIsl x).halfB = s.halfB := rfl
@[simp] theorem State.setIsl_pci (x : IslandUnit) : (s.setIsl x).pci = s.pci := rfl
@[simp] theorem State.setIsl_boot (x : IslandUnit) : (s.setIsl x).boot = s.boot := rfl
@[simp] theorem State.setIsl_bus (x : IslandUnit) : (s.setIsl x).bus = s.bus := rfl
@[simp] theorem State.setIsl_hold (x : IslandUnit) : (s.setIsl x).hold = s.hold := rfl
@[simp] theorem State.setIsl_held (x : IslandUnit) : (s.setIsl x).held = s.held := rfl
@[simp] theorem State.setIsl_readData (x : IslandUnit) : (s.setIsl x).readData = s.readData := rfl
@[simp] theorem State.setIsl_freeIdx (x : IslandUnit) : (s.setIsl x).freeIdx = s.freeIdx := rfl
@[simp] theorem State.setIsl_pending (x : IslandUnit) : (s.setIsl x).pending = s.pending := rfl
@[simp] theorem State.setIsl_isl (x : IslandUnit) : (s.setIsl x).isl = x := rfl

/-! setConn -/

@[simp] theorem State.setConn_regs (c : Nat) (x : ConnRun) : (s.setConn c x).regs = s.regs := rfl
@[simp] theorem State.setConn_mem (c : Nat) (x : ConnRun) : (s.setConn c x).mem = s.mem := rfl
@[simp] theorem State.setConn_image (c : Nat) (x : ConnRun) : (s.setConn c x).image = s.image := rfl
@[simp] theorem State.setConn_sect (c : Nat) (x : ConnRun) : (s.setConn c x).sect = s.sect := rfl
@[simp] theorem State.setConn_cfg (c : Nat) (x : ConnRun) : (s.setConn c x).cfg = s.cfg := rfl
@[simp] theorem State.setConn_sectCfg (c : Nat) (x : ConnRun) : (s.setConn c x).sectCfg = s.sectCfg := rfl
@[simp] theorem State.setConn_pen (c : Nat) (x : ConnRun) : (s.setConn c x).pen = s.pen := rfl
@[simp] theorem State.setConn_former (c : Nat) (x : ConnRun) : (s.setConn c x).former = s.former := rfl
@[simp] theorem State.setConn_canHold (c : Nat) (x : ConnRun) : (s.setConn c x).canHold = s.canHold := rfl
@[simp] theorem State.setConn_hlDrive (c : Nat) (x : ConnRun) : (s.setConn c x).hlDrive = s.hlDrive := rfl
@[simp] theorem State.setConn_tb0 (c : Nat) (x : ConnRun) : (s.setConn c x).tb0 = s.tb0 := rfl
@[simp] theorem State.setConn_onMonitor (c : Nat) (x : ConnRun) : (s.setConn c x).onMonitor = s.onMonitor := rfl
@[simp] theorem State.setConn_halfA (c : Nat) (x : ConnRun) : (s.setConn c x).halfA = s.halfA := rfl
@[simp] theorem State.setConn_halfB (c : Nat) (x : ConnRun) : (s.setConn c x).halfB = s.halfB := rfl
@[simp] theorem State.setConn_pci (c : Nat) (x : ConnRun) : (s.setConn c x).pci = s.pci := rfl
@[simp] theorem State.setConn_boot (c : Nat) (x : ConnRun) : (s.setConn c x).boot = s.boot := rfl
@[simp] theorem State.setConn_bus (c : Nat) (x : ConnRun) : (s.setConn c x).bus = s.bus := rfl
@[simp] theorem State.setConn_hold (c : Nat) (x : ConnRun) : (s.setConn c x).hold = s.hold := rfl
@[simp] theorem State.setConn_held (c : Nat) (x : ConnRun) : (s.setConn c x).held = s.held := rfl
@[simp] theorem State.setConn_readData (c : Nat) (x : ConnRun) : (s.setConn c x).readData = s.readData := rfl
@[simp] theorem State.setConn_freeIdx (c : Nat) (x : ConnRun) : (s.setConn c x).freeIdx = s.freeIdx := rfl
@[simp] theorem State.setConn_pending (c : Nat) (x : ConnRun) : (s.setConn c x).pending = s.pending := rfl

/-! setPen -/

@[simp] theorem State.setPen_regs (x : PenUnit) : (s.setPen x).regs = s.regs := rfl
@[simp] theorem State.setPen_mem (x : PenUnit) : (s.setPen x).mem = s.mem := rfl
@[simp] theorem State.setPen_image (x : PenUnit) : (s.setPen x).image = s.image := rfl
@[simp] theorem State.setPen_sect (x : PenUnit) : (s.setPen x).sect = s.sect := rfl
@[simp] theorem State.setPen_cfg (x : PenUnit) : (s.setPen x).cfg = s.cfg := rfl
@[simp] theorem State.setPen_sectCfg (x : PenUnit) : (s.setPen x).sectCfg = s.sectCfg := rfl
@[simp] theorem State.setPen_isl (x : PenUnit) : (s.setPen x).isl = s.isl := rfl
@[simp] theorem State.setPen_former (x : PenUnit) : (s.setPen x).former = s.former := rfl
@[simp] theorem State.setPen_canHold (x : PenUnit) : (s.setPen x).canHold = s.canHold := rfl
@[simp] theorem State.setPen_hlDrive (x : PenUnit) : (s.setPen x).hlDrive = s.hlDrive := rfl
@[simp] theorem State.setPen_tb0 (x : PenUnit) : (s.setPen x).tb0 = s.tb0 := rfl
@[simp] theorem State.setPen_onMonitor (x : PenUnit) : (s.setPen x).onMonitor = s.onMonitor := rfl
@[simp] theorem State.setPen_halfA (x : PenUnit) : (s.setPen x).halfA = s.halfA := rfl
@[simp] theorem State.setPen_halfB (x : PenUnit) : (s.setPen x).halfB = s.halfB := rfl
@[simp] theorem State.setPen_pci (x : PenUnit) : (s.setPen x).pci = s.pci := rfl
@[simp] theorem State.setPen_boot (x : PenUnit) : (s.setPen x).boot = s.boot := rfl
@[simp] theorem State.setPen_bus (x : PenUnit) : (s.setPen x).bus = s.bus := rfl
@[simp] theorem State.setPen_hold (x : PenUnit) : (s.setPen x).hold = s.hold := rfl
@[simp] theorem State.setPen_held (x : PenUnit) : (s.setPen x).held = s.held := rfl
@[simp] theorem State.setPen_readData (x : PenUnit) : (s.setPen x).readData = s.readData := rfl
@[simp] theorem State.setPen_freeIdx (x : PenUnit) : (s.setPen x).freeIdx = s.freeIdx := rfl
@[simp] theorem State.setPen_pending (x : PenUnit) : (s.setPen x).pending = s.pending := rfl
@[simp] theorem State.setPen_pen (x : PenUnit) : (s.setPen x).pen = x := rfl

/-! setBus -/

@[simp] theorem State.setBus_regs (x : BusUnit) : (s.setBus x).regs = s.regs := rfl
@[simp] theorem State.setBus_mem (x : BusUnit) : (s.setBus x).mem = s.mem := rfl
@[simp] theorem State.setBus_image (x : BusUnit) : (s.setBus x).image = s.image := rfl
@[simp] theorem State.setBus_sect (x : BusUnit) : (s.setBus x).sect = s.sect := rfl
@[simp] theorem State.setBus_cfg (x : BusUnit) : (s.setBus x).cfg = s.cfg := rfl
@[simp] theorem State.setBus_sectCfg (x : BusUnit) : (s.setBus x).sectCfg = s.sectCfg := rfl
@[simp] theorem State.setBus_isl (x : BusUnit) : (s.setBus x).isl = s.isl := rfl
@[simp] theorem State.setBus_pen (x : BusUnit) : (s.setBus x).pen = s.pen := rfl
@[simp] theorem State.setBus_former (x : BusUnit) : (s.setBus x).former = s.former := rfl
@[simp] theorem State.setBus_canHold (x : BusUnit) : (s.setBus x).canHold = s.canHold := rfl
@[simp] theorem State.setBus_hlDrive (x : BusUnit) : (s.setBus x).hlDrive = s.hlDrive := rfl
@[simp] theorem State.setBus_tb0 (x : BusUnit) : (s.setBus x).tb0 = s.tb0 := rfl
@[simp] theorem State.setBus_onMonitor (x : BusUnit) : (s.setBus x).onMonitor = s.onMonitor := rfl
@[simp] theorem State.setBus_halfA (x : BusUnit) : (s.setBus x).halfA = s.halfA := rfl
@[simp] theorem State.setBus_halfB (x : BusUnit) : (s.setBus x).halfB = s.halfB := rfl
@[simp] theorem State.setBus_pci (x : BusUnit) : (s.setBus x).pci = s.pci := rfl
@[simp] theorem State.setBus_boot (x : BusUnit) : (s.setBus x).boot = s.boot := rfl
@[simp] theorem State.setBus_hold (x : BusUnit) : (s.setBus x).hold = s.hold := rfl
@[simp] theorem State.setBus_held (x : BusUnit) : (s.setBus x).held = s.held := rfl
@[simp] theorem State.setBus_readData (x : BusUnit) : (s.setBus x).readData = s.readData := rfl
@[simp] theorem State.setBus_freeIdx (x : BusUnit) : (s.setBus x).freeIdx = s.freeIdx := rfl
@[simp] theorem State.setBus_pending (x : BusUnit) : (s.setBus x).pending = s.pending := rfl
@[simp] theorem State.setBus_bus (x : BusUnit) : (s.setBus x).bus = x := rfl

/-! setBoot -/

@[simp] theorem State.setBoot_regs (x : BootUnit) : (s.setBoot x).regs = s.regs := rfl
@[simp] theorem State.setBoot_mem (x : BootUnit) : (s.setBoot x).mem = s.mem := rfl
@[simp] theorem State.setBoot_image (x : BootUnit) : (s.setBoot x).image = s.image := rfl
@[simp] theorem State.setBoot_sect (x : BootUnit) : (s.setBoot x).sect = s.sect := rfl
@[simp] theorem State.setBoot_cfg (x : BootUnit) : (s.setBoot x).cfg = s.cfg := rfl
@[simp] theorem State.setBoot_sectCfg (x : BootUnit) : (s.setBoot x).sectCfg = s.sectCfg := rfl
@[simp] theorem State.setBoot_isl (x : BootUnit) : (s.setBoot x).isl = s.isl := rfl
@[simp] theorem State.setBoot_pen (x : BootUnit) : (s.setBoot x).pen = s.pen := rfl
@[simp] theorem State.setBoot_former (x : BootUnit) : (s.setBoot x).former = s.former := rfl
@[simp] theorem State.setBoot_canHold (x : BootUnit) : (s.setBoot x).canHold = s.canHold := rfl
@[simp] theorem State.setBoot_hlDrive (x : BootUnit) : (s.setBoot x).hlDrive = s.hlDrive := rfl
@[simp] theorem State.setBoot_tb0 (x : BootUnit) : (s.setBoot x).tb0 = s.tb0 := rfl
@[simp] theorem State.setBoot_onMonitor (x : BootUnit) : (s.setBoot x).onMonitor = s.onMonitor := rfl
@[simp] theorem State.setBoot_halfA (x : BootUnit) : (s.setBoot x).halfA = s.halfA := rfl
@[simp] theorem State.setBoot_halfB (x : BootUnit) : (s.setBoot x).halfB = s.halfB := rfl
@[simp] theorem State.setBoot_pci (x : BootUnit) : (s.setBoot x).pci = s.pci := rfl
@[simp] theorem State.setBoot_bus (x : BootUnit) : (s.setBoot x).bus = s.bus := rfl
@[simp] theorem State.setBoot_hold (x : BootUnit) : (s.setBoot x).hold = s.hold := rfl
@[simp] theorem State.setBoot_held (x : BootUnit) : (s.setBoot x).held = s.held := rfl
@[simp] theorem State.setBoot_readData (x : BootUnit) : (s.setBoot x).readData = s.readData := rfl
@[simp] theorem State.setBoot_freeIdx (x : BootUnit) : (s.setBoot x).freeIdx = s.freeIdx := rfl
@[simp] theorem State.setBoot_pending (x : BootUnit) : (s.setBoot x).pending = s.pending := rfl
@[simp] theorem State.setBoot_boot (x : BootUnit) : (s.setBoot x).boot = x := rfl

/-! setPort -/

@[simp] theorem State.setPort_regs (m : Master) (p : PortBuf) : (s.setPort m p).regs = s.regs := rfl
@[simp] theorem State.setPort_mem (m : Master) (p : PortBuf) : (s.setPort m p).mem = s.mem := rfl
@[simp] theorem State.setPort_image (m : Master) (p : PortBuf) : (s.setPort m p).image = s.image := rfl
@[simp] theorem State.setPort_sect (m : Master) (p : PortBuf) : (s.setPort m p).sect = s.sect := rfl
@[simp] theorem State.setPort_cfg (m : Master) (p : PortBuf) : (s.setPort m p).cfg = s.cfg := rfl
@[simp] theorem State.setPort_sectCfg (m : Master) (p : PortBuf) : (s.setPort m p).sectCfg = s.sectCfg := rfl
@[simp] theorem State.setPort_isl (m : Master) (p : PortBuf) : (s.setPort m p).isl = s.isl := rfl
@[simp] theorem State.setPort_pen (m : Master) (p : PortBuf) : (s.setPort m p).pen = s.pen := rfl
@[simp] theorem State.setPort_former (m : Master) (p : PortBuf) : (s.setPort m p).former = s.former := rfl
@[simp] theorem State.setPort_canHold (m : Master) (p : PortBuf) : (s.setPort m p).canHold = s.canHold := rfl
@[simp] theorem State.setPort_hlDrive (m : Master) (p : PortBuf) : (s.setPort m p).hlDrive = s.hlDrive := rfl
@[simp] theorem State.setPort_tb0 (m : Master) (p : PortBuf) : (s.setPort m p).tb0 = s.tb0 := rfl
@[simp] theorem State.setPort_onMonitor (m : Master) (p : PortBuf) : (s.setPort m p).onMonitor = s.onMonitor := rfl
@[simp] theorem State.setPort_halfA (m : Master) (p : PortBuf) : (s.setPort m p).halfA = s.halfA := rfl
@[simp] theorem State.setPort_halfB (m : Master) (p : PortBuf) : (s.setPort m p).halfB = s.halfB := rfl
@[simp] theorem State.setPort_pci (m : Master) (p : PortBuf) : (s.setPort m p).pci = s.pci := rfl
@[simp] theorem State.setPort_boot (m : Master) (p : PortBuf) : (s.setPort m p).boot = s.boot := rfl
@[simp] theorem State.setPort_hold (m : Master) (p : PortBuf) : (s.setPort m p).hold = s.hold := rfl
@[simp] theorem State.setPort_held (m : Master) (p : PortBuf) : (s.setPort m p).held = s.held := rfl
@[simp] theorem State.setPort_readData (m : Master) (p : PortBuf) : (s.setPort m p).readData = s.readData := rfl
@[simp] theorem State.setPort_freeIdx (m : Master) (p : PortBuf) : (s.setPort m p).freeIdx = s.freeIdx := rfl
@[simp] theorem State.setPort_pending (m : Master) (p : PortBuf) : (s.setPort m p).pending = s.pending := rfl

/-! answer -/

@[simp] theorem State.answer_regs (m : Master) (v : Quad) : (s.answer m v).regs = s.regs := rfl
@[simp] theorem State.answer_mem (m : Master) (v : Quad) : (s.answer m v).mem = s.mem := rfl
@[simp] theorem State.answer_image (m : Master) (v : Quad) : (s.answer m v).image = s.image := rfl
@[simp] theorem State.answer_sect (m : Master) (v : Quad) : (s.answer m v).sect = s.sect := rfl
@[simp] theorem State.answer_cfg (m : Master) (v : Quad) : (s.answer m v).cfg = s.cfg := rfl
@[simp] theorem State.answer_sectCfg (m : Master) (v : Quad) : (s.answer m v).sectCfg = s.sectCfg := rfl
@[simp] theorem State.answer_isl (m : Master) (v : Quad) : (s.answer m v).isl = s.isl := rfl
@[simp] theorem State.answer_pen (m : Master) (v : Quad) : (s.answer m v).pen = s.pen := rfl
@[simp] theorem State.answer_former (m : Master) (v : Quad) : (s.answer m v).former = s.former := rfl
@[simp] theorem State.answer_canHold (m : Master) (v : Quad) : (s.answer m v).canHold = s.canHold := rfl
@[simp] theorem State.answer_hlDrive (m : Master) (v : Quad) : (s.answer m v).hlDrive = s.hlDrive := rfl
@[simp] theorem State.answer_tb0 (m : Master) (v : Quad) : (s.answer m v).tb0 = s.tb0 := rfl
@[simp] theorem State.answer_onMonitor (m : Master) (v : Quad) : (s.answer m v).onMonitor = s.onMonitor := rfl
@[simp] theorem State.answer_halfA (m : Master) (v : Quad) : (s.answer m v).halfA = s.halfA := rfl
@[simp] theorem State.answer_halfB (m : Master) (v : Quad) : (s.answer m v).halfB = s.halfB := rfl
@[simp] theorem State.answer_pci (m : Master) (v : Quad) : (s.answer m v).pci = s.pci := rfl
@[simp] theorem State.answer_boot (m : Master) (v : Quad) : (s.answer m v).boot = s.boot := rfl
@[simp] theorem State.answer_bus (m : Master) (v : Quad) : (s.answer m v).bus = s.bus := rfl
@[simp] theorem State.answer_hold (m : Master) (v : Quad) : (s.answer m v).hold = s.hold := rfl
@[simp] theorem State.answer_held (m : Master) (v : Quad) : (s.answer m v).held = s.held := rfl
@[simp] theorem State.answer_freeIdx (m : Master) (v : Quad) : (s.answer m v).freeIdx = s.freeIdx := rfl
@[simp] theorem State.answer_pending (m : Master) (v : Quad) : (s.answer m v).pending = s.pending := rfl

/-! passTime -/

@[simp] theorem State.passTime_regs (dt : Nat) : (s.passTime dt).regs = s.regs := rfl
@[simp] theorem State.passTime_mem (dt : Nat) : (s.passTime dt).mem = s.mem := rfl
@[simp] theorem State.passTime_image (dt : Nat) : (s.passTime dt).image = s.image := rfl
@[simp] theorem State.passTime_sect (dt : Nat) : (s.passTime dt).sect = s.sect := rfl
@[simp] theorem State.passTime_cfg (dt : Nat) : (s.passTime dt).cfg = s.cfg := rfl
@[simp] theorem State.passTime_sectCfg (dt : Nat) : (s.passTime dt).sectCfg = s.sectCfg := rfl
@[simp] theorem State.passTime_pen (dt : Nat) : (s.passTime dt).pen = s.pen := rfl
@[simp] theorem State.passTime_former (dt : Nat) : (s.passTime dt).former = s.former := rfl
@[simp] theorem State.passTime_canHold (dt : Nat) : (s.passTime dt).canHold = s.canHold := rfl
@[simp] theorem State.passTime_hlDrive (dt : Nat) : (s.passTime dt).hlDrive = s.hlDrive := rfl
@[simp] theorem State.passTime_onMonitor (dt : Nat) : (s.passTime dt).onMonitor = s.onMonitor := rfl
@[simp] theorem State.passTime_pci (dt : Nat) : (s.passTime dt).pci = s.pci := rfl
@[simp] theorem State.passTime_boot (dt : Nat) : (s.passTime dt).boot = s.boot := rfl
@[simp] theorem State.passTime_bus (dt : Nat) : (s.passTime dt).bus = s.bus := rfl
@[simp] theorem State.passTime_hold (dt : Nat) : (s.passTime dt).hold = s.hold := rfl
@[simp] theorem State.passTime_held (dt : Nat) : (s.passTime dt).held = s.held := rfl
@[simp] theorem State.passTime_readData (dt : Nat) : (s.passTime dt).readData = s.readData := rfl
@[simp] theorem State.passTime_freeIdx (dt : Nat) : (s.passTime dt).freeIdx = s.freeIdx := rfl
@[simp] theorem State.passTime_pending (dt : Nat) : (s.passTime dt).pending = s.pending := rfl

/-! withPending -/

@[simp] theorem State.withPending_regs (q : List Instr) : (s.withPending q).regs = s.regs := rfl
@[simp] theorem State.withPending_mem (q : List Instr) : (s.withPending q).mem = s.mem := rfl
@[simp] theorem State.withPending_image (q : List Instr) : (s.withPending q).image = s.image := rfl
@[simp] theorem State.withPending_sect (q : List Instr) : (s.withPending q).sect = s.sect := rfl
@[simp] theorem State.withPending_cfg (q : List Instr) : (s.withPending q).cfg = s.cfg := rfl
@[simp] theorem State.withPending_sectCfg (q : List Instr) : (s.withPending q).sectCfg = s.sectCfg := rfl
@[simp] theorem State.withPending_isl (q : List Instr) : (s.withPending q).isl = s.isl := rfl
@[simp] theorem State.withPending_pen (q : List Instr) : (s.withPending q).pen = s.pen := rfl
@[simp] theorem State.withPending_former (q : List Instr) : (s.withPending q).former = s.former := rfl
@[simp] theorem State.withPending_canHold (q : List Instr) : (s.withPending q).canHold = s.canHold := rfl
@[simp] theorem State.withPending_hlDrive (q : List Instr) : (s.withPending q).hlDrive = s.hlDrive := rfl
@[simp] theorem State.withPending_tb0 (q : List Instr) : (s.withPending q).tb0 = s.tb0 := rfl
@[simp] theorem State.withPending_onMonitor (q : List Instr) : (s.withPending q).onMonitor = s.onMonitor := rfl
@[simp] theorem State.withPending_halfA (q : List Instr) : (s.withPending q).halfA = s.halfA := rfl
@[simp] theorem State.withPending_halfB (q : List Instr) : (s.withPending q).halfB = s.halfB := rfl
@[simp] theorem State.withPending_pci (q : List Instr) : (s.withPending q).pci = s.pci := rfl
@[simp] theorem State.withPending_boot (q : List Instr) : (s.withPending q).boot = s.boot := rfl
@[simp] theorem State.withPending_bus (q : List Instr) : (s.withPending q).bus = s.bus := rfl
@[simp] theorem State.withPending_hold (q : List Instr) : (s.withPending q).hold = s.hold := rfl
@[simp] theorem State.withPending_held (q : List Instr) : (s.withPending q).held = s.held := rfl
@[simp] theorem State.withPending_readData (q : List Instr) : (s.withPending q).readData = s.readData := rfl
@[simp] theorem State.withPending_freeIdx (q : List Instr) : (s.withPending q).freeIdx = s.freeIdx := rfl
@[simp] theorem State.withPending_pending (q : List Instr) : (s.withPending q).pending = q := rfl

/-! Halves. -/

@[simp] theorem State.half_setHalf_same (h : Half) (x : HalfState) : (s.setHalf h x).half h = x := by cases h <;> rfl

@[simp] theorem State.half_setHalf_other {h g : Half} (x : HalfState) (n : g ≠ h) : (s.setHalf h x).half g = s.half g := by
  cases h <;> cases g <;> first | rfl | exact absurd rfl n

@[simp] theorem State.half_onHalf_same (h : Half) (f : HalfState → HalfState) : (s.onHalf h f).half h = f (s.half h) :=
  State.half_setHalf_same s h _

@[simp] theorem State.half_onHalf_other {h g : Half} (f : HalfState → HalfState) (n : g ≠ h) :
    (s.onHalf h f).half g = s.half g :=
  State.half_setHalf_other s _ n

/-- The halves read as before where both stand as before. -/
theorem State.half_congr {s t : State} (ha : t.halfA = s.halfA) (hb : t.halfB = s.halfB) (h : Half) : t.half h = s.half h := by
  cases h
  · exact ha
  · exact hb

theorem unitAt_set_same {α : Type} (d : α) (l : List α) {i : Nat} (x : α) (h : i < l.length) : unitAt d (l.set i x) i = x := by
  unfold unitAt
  rw [List.getD_eq_getElem?_getD, List.getElem?_set_self h]; rfl

theorem unitAt_set_other {α : Type} (d : α) (l : List α) {i j : Nat} (x : α) (h : i ≠ j) :
    unitAt d (l.set i x) j = unitAt d l j := by
  unfold unitAt
  rw [List.getD_eq_getElem?_getD, List.getD_eq_getElem?_getD, List.getElem?_set_ne h]

/-! Registers. -/

/-- A register's reset value depends on the image and the section in use alone. -/
theorem State.regReset_congr {s t : State} (hi : t.image = s.image) (hs : t.sect = s.sect) (a : Nat) :
    t.regReset a = s.regReset a := by
  unfold State.regReset
  rw [hi, hs]

/-- A register reads as before where the registers, the image and the section stand as before. -/
theorem State.word_congr {s t : State} (hr : t.regs = s.regs) (hi : t.image = s.image) (hs : t.sect = s.sect) (a : Nat) :
    t.word a = s.word a := by
  unfold State.word
  rw [hr, State.regReset_congr hi hs]

theorem State.fld_congr {s t : State} (hr : t.regs = s.regs) (hi : t.image = s.image) (hs : t.sect = s.sect) (b : Nat) (f : Fld) :
    t.fld b f = s.fld b f := by
  unfold State.fld State.quad State.wordN
  rw [State.word_congr hr hi hs, State.word_congr hr hi hs]

@[simp] theorem State.word_setWord_same (a : Nat) (w : Word) : (s.setWord a w).word a = w := by
  unfold State.word State.setWord
  dsimp only
  rw [storeFind_put_same]

theorem State.word_setWord_other {a x : Nat} (w : Word) (h : x ≠ a) : (s.setWord a w).word x = s.word x := by
  unfold State.word
  rw [State.setWord_regs, storeFind_put_other _ _ h]
  rfl

@[simp] theorem State.wordN_setWordN_same (a v : Nat) : (s.setWordN a v).wordN a = v % 2 ^ 32 := by
  unfold State.wordN State.setWordN
  rw [State.word_setWord_same, BitVec.toNat_ofNat]

theorem State.wordN_setWordN_other {a x : Nat} (v : Nat) (h : x ≠ a) : (s.setWordN a v).wordN x = s.wordN x := by
  unfold State.wordN State.setWordN
  rw [State.word_setWord_other s _ h]

theorem State.wordN_lt (a : Nat) : s.wordN a < 2 ^ 32 := (s.word a).isLt

/-- A field of a word reads what was written to it. -/
theorem State.fld_setFld_same {b : Nat} {f : Fld} (v : Nat) (h : f.hi < 32) :
    (s.setFld b f v).fld b f = v % 2 ^ (f.hi + 1 - f.lo) := by
  unfold State.setFld State.fld
  rw [if_pos h, if_pos h, State.wordN_setWordN_same, Nat.mod_eq_of_lt (setBits_lt (s.wordN_lt _) h), bitsOf_setBits_same]

/-- A field reads as before after a write of another field of its word. -/
theorem State.fld_setFld_beside {b c : Nat} {f g : Fld} (v : Nat) (hf : f.hi < 32) (hg : g.hi < 32)
    (ha : c + g.off = b + f.off) (h : g.hi < f.lo ∨ f.hi < g.lo) : (s.setFld b f v).fld c g = s.fld c g := by
  unfold State.setFld State.fld
  rw [if_pos hf, if_pos hg, if_pos hg, ha, State.wordN_setWordN_same, Nat.mod_eq_of_lt (setBits_lt (s.wordN_lt _) hf),
    bitsOf_setBits_other _ _ _ _ h]

/-- A field of a word reads as before after a write of a field of another word. -/
theorem State.fld_setFld_apart {b c : Nat} {f g : Fld} (v : Nat) (hf : f.hi < 32) (hg : g.hi < 32) (h : c + g.off ≠ b + f.off) :
    (s.setFld b f v).fld c g = s.fld c g := by
  unfold State.setFld State.fld
  rw [if_pos hf, if_pos hg, if_pos hg, State.wordN_setWordN_other s _ h]

/-- A register reads as before after a write of a field of another word. -/
theorem State.word_setFld_other {b x : Nat} {f : Fld} (v : Nat) (hf : f.hi < 32) (h : x ≠ b + f.off) :
    (s.setFld b f v).word x = s.word x := by
  unfold State.setFld State.setWordN
  rw [if_pos hf, State.word_setWord_other s _ h]

theorem State.quad_setQuad_same (a v : Nat) : (s.setQuad a v).quad a = v % 2 ^ 64 := by
  unfold State.quad State.setQuad
  rw [State.wordN_setWordN_same, State.wordN_setWordN_other _ _ (by omega), State.wordN_setWordN_same]
  have h : v % 2 ^ 64 = v % (2 ^ 32 * 2 ^ 32) := by norm_num
  rw [h, Nat.mod_mul]

theorem State.quad_setQuad_other {a x : Nat} (v : Nat) (h1 : x ≠ a) (h2 : x ≠ a + 4) (h3 : x + 4 ≠ a) :
    (s.setQuad a v).quad x = s.quad x := by
  unfold State.quad State.setQuad
  rw [State.wordN_setWordN_other _ _ h2, State.wordN_setWordN_other _ _ h1, State.wordN_setWordN_other _ _ (by omega),
    State.wordN_setWordN_other _ _ h3]

/-! Memory: a byte after a write. -/

theorem State.byte_setByte_same (a : Nat) (v : Byte) (h : Memory.wf s.mem = true) : (s.setByte a v).byte a = v :=
  storeGet_set_same a v (storeWf_sorted h)

theorem State.byte_setByte_other {a x : Nat} (v : Byte) (n : x ≠ a) (h : Memory.wf s.mem = true) :
    (s.setByte a v).byte x = s.byte x :=
  storeGet_set_other v n (storeWf_sorted h)

/-! The half an access reaches. -/

/-- A master's write through a view acts in the half it reaches. -/
theorem viaHalf_reaches (via : Via) (off value : Nat) (f : State → Half → State) (h : Half) (hr : reaches s via h) :
    viaHalf s via off value f = f s h := by
  obtain ⟨m, v⟩ := via
  unfold viaHalf
  cases v with
  | a => obtain rfl := hr; rfl
  | b => obtain rfl := hr; rfl
  | active => obtain ⟨h1, h2⟩ := hr; simp only [h1, h2]; rfl

end Sys2Proof.Machine
end

