-- ==== Sys2Proof/Tests/Slice0.lean ====
section
/-! SUPPORT. The model's own tests: ill-formed commands refused, words of the core formats decoded, results the spec states or
that follow by hand from its rules, and for every statement with hypotheses a state and operands that meet each clause's. -/
namespace Sys2Proof.Machine

-- One test at a time: evaluated side by side, their threads' stacks together exceed the memory the check allows.
set_option Elab.async false

/-! Small states. -/

/-- Half A holds the command pennant. -/
def tAct : State := State.reset.setFld PEN.addr PEN.CMD_VALID 1

/-- An access through the view of Half A. -/
def tVia : Via := ⟨.pcie, .a⟩

theorem tVia_reaches (s : State) : reaches s tVia .a := rfl

/-- Core 23 of Half A is c. -/
def tCore (c : CoreUnit) : State := State.reset.setCore .a 23 c

/-- A core that runs item 0. -/
def tRun : CoreUnit := { CoreUnit.reset with item := some 0 }

/-- A field of the block at address a takes value v. -/
def tFld (l : List (Nat × Fld × Nat)) (s : State) : State := l.foldl (fun s x => s.setFld x.1 x.2.1 x.2.2) s

/-! Ill-formed commands: one for each check. -/

theorem test_wf_ringFrameRefused :
    Instr.wf (.replyReceive .a 0 false 0 (List.replicate 268 0)) = false ∧
    Instr.wf (.nodeReadmit .a 0 0 0 0 (List.replicate 268 0)) = false ∧
    Instr.wf (.reportReceive .a 0 (List.replicate 268 0)) = false ∧
    Instr.wf (.mbxReceive .a 0 (List.replicate 268 0)) = false := by decide +kernel

theorem test_wf_sampleRefused :
    Instr.wf (.safetyCycle 500000 (List.replicate 17 ⟨0, 0, 0⟩) [] 0) = false ∧
    Instr.wf (.safetyCycle 500000 [] (List.replicate 17 ⟨0, 0, 0⟩) 0) = false ∧
    Instr.wf (.safetyCycle 500000 (List.replicate 16 ⟨0, 0, 0⟩) (List.replicate 16 ⟨0, 0, 0⟩) 0) = true := by decide +kernel

theorem test_wf_canFrameRefused :
    Instr.wf (.canFrameReceive .a 0 ⟨0, false, false, false, false, false, 8, [1, 2]⟩ 0) = false := by decide +kernel

theorem test_wf_keyCellsRefused :
    Instr.wf (.keyInserted 1 [(5, 1), (4, 1)]) = false ∧ Instr.wf (.keyInserted 1 [(5, 0)]) = false ∧
    Instr.wf (.keyInserted 1 [(0x10000000, 1)]) = false := by decide +kernel

theorem test_wf_lineRefused :
    Instr.wf (.interruptAsserted false 4 true) = false ∧ Instr.wf (.interruptAsserted true 7 true) = true := by decide +kernel

theorem test_wf_pcieRefused :
    Instr.wf (.pcieRequest 1 0 [] none false) = false ∧ Instr.wf (.pcieRequest 1 0 [true] (some [1, 2]) false) = false := by decide +kernel

/-! Words of the core formats (R322, R323), bit by bit: each format with its opcode field and its operand fields. -/

/-- Format P: MAC2 of A1 and A2 with D1, D2, D3, D4, without moves; FMA of pair 5. -/
theorem test_decode_formatP :
    decodeCode (BitVec.ofNat 64 (2 * 2 ^ 56 + 1 * 2 ^ 54 + 2 * 2 ^ 52 + 1 * 2 ^ 45 + 2 * 2 ^ 39 + 3 * 2 ^ 33 + 4 * 2 ^ 27)) =
      (.mac .mac2 1 2 1 2 3 4, noMoves) ∧
    decodeCode (BitVec.ofNat 64 (8 * 2 ^ 56 + 5 * 2 ^ 51 + 1 * 2 ^ 45 + 2 * 2 ^ 39)) = (.pair .fma 5 1 2 0 0, noMoves) := by
  decide +kernel

/-- Format A: SEL with condition 13 of D1, D2, D3, and SACR D63, A2, D5. -/
theorem test_decode_formatA :
    decodeCode (BitVec.ofNat 64 (2 ^ 62 + 0x15 * 2 ^ 54 + 1 * 2 ^ 48 + 2 * 2 ^ 42 + 3 * 2 ^ 36 + 13 * 2 ^ 32)) = (.alu .sel 13 1 2 3, noMoves) ∧
    decodeCode (BitVec.ofNat 64 (2 ^ 62 + 0x35 * 2 ^ 54 + 63 * 2 ^ 48 + 2 * 2 ^ 42 + 5 * 2 ^ 36)) = (.alu .sacr 0 63 2 5, noMoves) := by
  decide +kernel

/-- Format A with both moves: the moves field gives X load D5 from P1 with modifier 2 and Y store D6 through P7. -/
theorem test_decode_moves :
    decodeMoves (2 ^ 25 + 5 * 2 ^ 18 + 1 * 2 ^ 16 + 2 * 2 ^ 14 + 2 ^ 13 + 2 ^ 12 + 6 * 2 ^ 6 + 3 * 2 ^ 4 + 1 * 2 ^ 2) =
      ⟨false, true, false, 5, 1, 2, true, true, 6, 3, 1⟩ := by decide +kernel

/-- Format I: LDI D1, 7 and an immediate with a set bit in the reserved field. -/
theorem test_decode_formatI :
    decodeCode (BitVec.ofNat 64 (2 * 2 ^ 62 + 1 * 2 ^ 48 + 7)) = (.imm .ldi 1 7, noMoves) ∧
    (decodeCode (BitVec.ofNat 64 (2 * 2 ^ 62 + 0x4C * 2 ^ 48 + 7))).1 = .illegal 5 := by decide +kernel

/-- Format C: BR with condition 0 to index 5; a reserved opcode. -/
theorem test_decode_formatC :
    decodeCode (BitVec.ofNat 64 (3 * 2 ^ 62 + 5 * 2 ^ 23)) = (.br 0 5, noMoves) ∧
    (decodeCode (BitVec.ofNat 64 (3 * 2 ^ 62 + 0x12 * 2 ^ 56))).1 = .illegal 1 := by decide +kernel

/-! What the hypotheses of the statements ask, met: one theorem per statement, each clause at a boundary of its range. -/

theorem test_StepRunsFrontCommand_met : ({ State.reset with pending := [.keyRemoved, .hostGo] } : State).pending = .keyRemoved :: [.hostGo] :=
  rfl

theorem test_IdleStepIsATick_met : State.reset.pending = [] := rfl

theorem test_StepKeepsCanonical_met : State.reset.canonical = true ∧ ∃ t, step State.reset = .next t := ⟨by decide, _, rfl⟩

theorem test_CoreWordResults_met :
    ((tCore tRun).core .a 23).runs = true ∧ legalMoves noMoves = true ∧ (13 : BitVec 4).toNat < 14 := by decide +kernel

theorem test_CoreImmediates_met : ((tCore tRun).core .a 23).runs = true ∧ (0x3F : BitVec 8).toNat < 0x40 := by decide +kernel

theorem test_CoreCompares_met :
    ((tCore tRun).core .a 23).runs = true ∧ legalMoves noMoves = true ∧ 14 ≤ (14 : BitVec 4).toNat := by decide +kernel

/-- A sum that is 0, a product that is no number, one below the range and one above it. -/
theorem test_CoreFloatResults_met :
    ((tCore tRun).core .a 23).runs = true ∧ legalMoves noMoves = true ∧
    bitsOf (addF (.zero false) (.zero false)).pat 30 23 = 0 ∧ (bitsOf (mulF (.zero false) (.inf false)).pat 30 23 = 255 ∧
      bitsOf (mulF (.zero false) (.inf false)).pat 22 0 ≠ 0) ∧
    (mulF (.fin false (2 ^ 23) (-149)) (.fin true (2 ^ 23) (-149))).unf = true ∧
    (mulF (.fin false (2 ^ 23) 104) (.fin true (2 ^ 23) 104)).ovf = true := by decide +kernel

theorem test_MacFamilyResults_met :
    ((tCore tRun).core .a 23).runs = true ∧ legalMoves noMoves = true ∧ tRun.aovNow.getD 3 false = false ∧
    ({ tRun with aovNow := [true, false, false, true] } : CoreUnit).aovNow.getD 3 false = true := by decide +kernel

theorem test_AccumulatorInstructions_met :
    ((tCore tRun).core .a 23).runs = true ∧ legalMoves noMoves = true ∧ tRun.aov.getD 3 false = false ∧
    (let c : CoreUnit := { tRun with acc := [0, 0, 0, -(2 ^ 71)], aov := [false, false, false, true] }
     ((tCore c).core .a 23).runs = true ∧ c.aov.getD 3 false = true) := by decide +kernel

/-- A buffer of 16,384 words under P7, one of 3 words under P0, P8 without one, and a move that leaves P0 alone. -/
theorem test_AddressUpdates_met :
    ((tCore tRun).core .a 23).runs = true ∧ legalMoves noMoves = true ∧ ¬(noMoves.xe = true ∧ noMoves.xp.val = 0) ∧
    ¬(noMoves.ye = true ∧ noMoves.yp.val + 4 = 4) ∧
    (let c : CoreUnit := { tRun with p := List.replicate 12 0xFFFF, l := [3, 0, 0, 0, 0, 0, 0, 16384] }
     (∀ n, n < 12 → c.p.getD n 0 < 2 ^ 16) ∧ (8 ≤ 8 ∨ c.l.getD 8 0 = 0) ∧ (0 < c.l.getD 7 0 ∧ c.l.getD 7 0 ≤ 16384) ∧
     (0 < c.l.getD 0 0 ∧ c.l.getD 0 0 ≤ 16384)) := by decide +kernel

theorem test_ResultVisibleAfterItsLatency_met : 63 < tRun.d.length ∧ tRun.inFlight = [] := by decide +kernel

theorem test_ComputingInstructionFrame_met :
    23 < ((tCore tRun).half .a).cores.length ∧ tRun.xfers = [] ∧ bitOf tRun.stat 16 = false ∧ tRun.inFlight = [] ∧
    (∀ x ∈ word1 tRun 63 5, x.tgt ≠ .stat ∧ x.tgt ≠ .loopState) ∧
    (tCore tRun).flag (CORE.addr .a 23) CORE.HALT = false := by decide +kernel

theorem test_ControlTransfers_met :
    ((tCore tRun).core .a 23).runs = true ∧ condHolds tRun.stat 13 = true ∧ condHolds tRun.stat 1 = false ∧
    14 ≤ (15 : BitVec 4).toNat ∧ 23 < ((tCore tRun).half .a).cores.length ∧ ((tCore tRun).core .a 23).urgItem = none := by
  decide +kernel

/-- MOVR of register 0x79 to register 0x4B, and a MOVR that names the reserved register 0x4C. -/
theorem test_FlagAndRegisterControl_met :
    ((tCore tRun).core .a 23).runs = true ∧ tRun.readReg 0x79 true = some 0 ∧ regExists 0x4B = true ∧
    (regExists 0x4C && regExists 0) = false := by decide +kernel

/-- A body of 64 instructions, a count of 0, the last turn, and a turn with LC = 0. -/
theorem test_LoopsRun_met :
    ((tCore tRun).core .a 23).runs = true ∧ (64 : BitVec 7).toNat ≤ 64 ∧
    (let c : CoreUnit := { tRun with lc := 1, rb := 31, stat := 2 ^ 16 }
     c.lc < 2 ^ 32 ∧ c.rb < 32 ∧ c.lc = 1 ∧ c.rptv = false ∧ c.stat.testBit 16 = true ∧ c.pc = c.le) ∧
    (tRun.lc ≠ 1 ∧ tRun.stat.testBit 16 = false) ∧ 23 < ((tCore tRun).half .a).cores.length ∧
    ((tCore tRun).core .a 23).inFlight = [] ∧ ((tCore tRun).core .a 23).xfers = [] ∧
    (tCore tRun).flag (CORE.addr .a 23) CORE.HALT = false := by decide +kernel

/-- A COPY of 4,096 words, the fifth COPY, WAITC with as many copies and with one more, loop states with every field in
range and with LS above, and the two directions of a copy of one word. -/
theorem test_FarAccessesAndCopies_met :
    (let o : CopyOp := ⟨0, 0, 1, 2, true, 0⟩
     let c : CoreUnit := { tRun with copies := [o, o, o, o] }
     let i : CoreUnit := { tRun with copies := [⟨0xFFFFFFFC, 0, 1, 2, false, 0⟩] }
     let s := tCore c
     let bad := (tCore tRun).setMemWord (coreMemAddr .a 23 0 1) 0x2000
     ((tCore tRun).core .a 23).runs = true ∧ pairAddr tRun 62 % 4 = 0 ∧ (4096 : BitVec 13).toNat ≤ 4096 ∧
     (2 : BitVec 2).toNat ≠ 3 ∧ tRun.copies.length < 4 ∧ 4 ≤ c.copies.length ∧ (s.core .a 23).runs = true ∧
     c.copies.length ≤ (4 : BitVec 3).toNat ∧ (3 : BitVec 3).toNat < c.copies.length ∧
     s.flag (CORE.addr .a 23) CORE.HALT = false ∧ tRun.unseen = [] ∧
     ((tCore tRun).memWord (coreMemAddr .a 23 0 1)).toNat < 2 ^ 13 ∧ ((tCore tRun).memWord (coreMemAddr .a 23 0 4)).toNat < 2 ∧
     ¬(bad.memWord (coreMemAddr .a 23 0 1)).toNat < 2 ^ 13 ∧ (bad.core .a 23).runs = true ∧
     tRun.copies = [] ∧ c.copies = o :: [o, o, o] ∧ c.stall = .none ∧ inActive o.addr = false ∧ placeOf o.addr = .bytes ∧
     o.outbound = true ∧ i.copies = ⟨0xFFFFFFFC, 0, 1, 2, false, 0⟩ :: [] ∧ placeOf 0xFFFFFFFC = .bytes ∧
     ({ s with hold := true } : State).hold = true ∧ inActive activeBase = true) := by decide +kernel

/-- A reserved opcode, and a Y store with YC = 1. -/
theorem test_IllegalWordEndsItem_met :
    ((tCore tRun).core .a 23).runs = true ∧ (decodeCode 0xD200000000000000).1 = .illegal 1 ∧
    (decodeCode 0x0000000004003000).1 = .nop ∧
    issueFault tRun (decodeCode 0x0000000004003000).1 (decodeCode 0x0000000004003000).2 = some 6 := by decide +kernel

theorem test_InstructionWordsDecode_met :
    (bitsOf (14 * 2 ^ 56) 63 62 = 0 ∧ 14 ≤ bitsOf (14 * 2 ^ 56) 61 56) ∧
    (bitsOf (3 * 2 ^ 62 + 0x3F * 2 ^ 56) 63 62 = 3 ∧ 0x12 ≤ bitsOf (3 * 2 ^ 62 + 0x3F * 2 ^ 56) 61 56) ∧
    (let w := 2 * 2 ^ 62 + 10 * 2 ^ 56 + 0x79 * 2 ^ 48
     bitsOf w 63 62 = 2 ∧ bitsOf w 47 32 = 0 ∧ 10 ≤ bitsOf w 61 56 ∧ regExists (bitsOf w 55 48) = true) ∧
    (let w := 2 * 2 ^ 62 + 0x7A * 2 ^ 48
     bitsOf w 63 62 = 2 ∧ bitsOf w 47 32 = 0 ∧ regExists (bitsOf w 55 48) = false) := by decide +kernel

theorem test_UrgentEntrySaves_met :
    (let c : CoreUnit := { tRun with urgPend := some 4095, stat := 2 ^ 15 }
     23 < ((tCore c).half .a).cores.length ∧ ((tCore c).core .a 23).urgPend = some 4095 ∧ bitOf c.stat 15 = true ∧ c.xfers = [] ∧
     c.far = none ∧ c.halted = false ∧ c.urgItem = none ∧ c.stall = .none) ∧
    (let c : CoreUnit := { tRun with urgPend := some 4095, stall := .waitc 3 }
     ((tCore c).core .a 23).urgPend = some 4095 ∧ c.item ≠ none ∧ bitOf c.stat 15 = false) := by decide +kernel

theorem test_ActiveViewHeldOrDiscarded_met :
    ({ tAct with hold := true } : State).hold = true ∧ State.reset.hold = false ∧ State.reset.activeHalf = none := by decide +kernel

/-- Item 4095 in each state, and item 4096, which does not exist. -/
theorem test_PostOutcomes_met :
    (let s := State.reset.setFld (DESC.addr .a 4095) DESC.AFFINITY 1
     let x : ItemSt → LiveItem := fun st => ⟨4095, st, 0, none, 0, false, false, 0, none⟩
     let at_ := fun st => s.setSched .a { SchedUnit.reset with live := [x st] }
     s.fld (DESC.addr .a 4095) DESC.AFFINITY ≠ 0 ∧ (s.sched .a).find 4095 = none ∧
     ((at_ .ready).sched .a).find 4095 = some (x .ready) ∧ ((at_ (.nextSlot 23)).sched .a).find 4095 = some (x (.nextSlot 23)) ∧
     ((at_ (.reposted 23)).sched .a).find 4095 = some (x (.reposted 23)) ∧
     ((at_ (.running 23)).sched .a).find 4095 = some (x (.running 23)) ∧ ¬(4096 : Word).toNat ≤ 4095) := by decide +kernel

theorem test_SchedulerRegisterCommands_met :
    (let s := State.reset.setSched .a { SchedUnit.reset with live := [⟨4095, .ready, 0, none, 0, false, false, 0, none⟩] }
     let f := State.reset.setSched .a { SchedUnit.reset with freezeLeft := some 0 }
     (State.reset.sched .a).find 4095 = none ∧ (s.sched .a).find 4095 ≠ none ∧ bitsOf (0xFFF0FFFF : Word).toNat 19 16 = 0 ∧
     (0xFF000000 : Word).toNat % 2 ^ 24 = 0 ∧ bitsOf (0x10000 : Word).toNat 19 16 ≠ 0 ∧ (1 : Word).toNat % 2 ^ 24 ≠ 0 ∧
     (f.sched .a).freezeLeft = some 0 ∧ f.flag (SCHED.addr .a) SCHED.FROZEN = false ∧
     (State.reset.sched .a).freezeLeft ≠ some 0 ∧ State.reset.fld (EVT.addr .a) (EVT.ACTION.nth 255) = 0 ∧
     State.reset.flag (EVT.addr .a) (EVT.HOST.nth 255) = false ∧ (State.reset.acq .a).recs = [] ∧
     (State.reset.acq .a).miss = false) := by decide +kernel

theorem test_ItemsCompleteOrAreAbandoned_met :
    (let x : LiveItem := ⟨4095, .running 23, 0, none, 0, false, false, 0, none⟩
     let s := ((tCore { CoreUnit.reset with item := some 4095, stall := .ending none }).setSched .a { SchedUnit.reset with live := [x] }).passTime 40
     (s.core .a 23).item = some 4095 ∧ (s.core .a 23).urgItem = none ∧ (s.core .a 23).copies = [] ∧ (s.core .a 23).far = none ∧
     (s.core .a 23).stall = .ending none ∧ (s.sched .a).find 4095 = some x ∧ itemKind s.cfg 4095 = none ∧
     s.flag (DESC.addr .a 4095) DESC.REQ = false) ∧
    (let x : LiveItem := ⟨4095, .ready, 0, some 1, 0, false, false, 0, none⟩
     let s := (State.reset.setSched .a { SchedUnit.reset with live := [x] }).setFld (DESC.addr .a 4095) DESC.DROP_LATE 1
     let t := s.passTime 2
     (t.sched .a).find 4095 = some x ∧ t.flag (DESC.addr .a 4095) DESC.REQ = false ∧ 1 < t.servoNow .a ∧
     t.flag (DESC.addr .a 4095) DESC.DROP_LATE = true ∧ s.servoNow .a ≤ 1) := by decide +kernel

/-- A load from DRAM, a store, an address that nothing decodes; an access that waits for the bus; the prefetch of the item a
core waits for and of the next. -/
theorem test_FarAccessEnds_met :
    (let f : FarAcc := ⟨0xFFFFFFFC, none, 63, 0⟩
     let g : FarAcc := ⟨0, some 5, 0, 0⟩
     let n : FarAcc := ⟨0x1040000000, none, 63, 0⟩
     let s := fun f => tCore { tRun with far := some f }
     ((s f).core .a 23).far = some f ∧ accessWaits (s f) (.core .a 23) f.addr = false ∧
     (access (s f) (.core .a 23) f.addr 4 none).1 = .data 0 ∧ (access (s g) (.core .a 23) 0 4 (some 5)).1 = .data 0 ∧
     (access (s n) (.core .a 23) n.addr 4 none).1 = .lost 1 ∧
     (access { s f with hold := true } (.core .a 23) activeBase 4 none).1 = .wait) ∧
    (let w : CoreUnit := { tRun with stall := .args }
     let n : CoreUnit := { tRun with nextItem := some 4095 }
     w.item = some 0 ∧ w.stall = .args ∧ n.stall = .none ∧ n.nextItem = some 4095 ∧ n.nextReady = false) ∧
    (16256 + 128 ≤ 16384 ∧ Memory.wf State.reset.mem = true ∧ regRowAt (0x1000 + 4 * 127) = none ∧
      0x1000 + 4 * 127 + 4 ≤ coreMemAddr .a 23 0 0) := by decide +kernel

theorem test_CoreDebugging_met :
    (let c : CoreUnit := { tRun with stat := 2 ^ 15 }
     let s := (tCore c).setFld (CORE.addr .a 23) CORE.HALT 1
     let hl : CoreUnit := { tRun with halted := true }
     c.item ≠ none ∧ 23 < (s.half .a).cores.length ∧ c.halted = false ∧ c.far = none ∧ c.xfers = [] ∧ bitOf c.stat 15 = true ∧
     c.stall = .none ∧ s.flag (CORE.addr .a 23) CORE.HALT = true ∧ ((tCore hl).core .a 23).halted = true ∧
     hl.readReg 0x79 false = some 0 ∧ regExists (0x7A : BitVec 8).toNat = false ∧ (31 : BitVec 8).toNat < 32) := by decide +kernel

/-- Arm 15 has one joint, on axis 127. -/
def tArm (s : State) : State := (s.setWordN (ARM.addr .a 15 + 0x800) 0x100).setWordN (ARM.addr .a 15 + 0x804) 127

/-- Axis 127 of Half A with its loop on and the axis referenced. -/
def tAxis : State := tFld [(CE.addr .a 127, CE.MODE_ACT, 1), (PRF.addr .a 127, PRF.REF, 1), (PRF.addr .a 127, PRF.LOOP_ON, 1)] State.reset

/-- A homing of a method in a motion, its torque reached for n periods. -/
def tHoming (method motion n : Nat) : Homing := ⟨method, false, false, 0, 0, 0, 0, 0, 5, 0, motion, none, false, none, none, [], n⟩

theorem test_MotionCommandsRefused_met :
    (State.reset.fld (CE.addr .a 127) CE.MODE_ACT = 0 ∧ (State.reset.setFld (PRF.addr .a 127) PRF.METHOD 5).fld (PRF.addr .a 127) PRF.METHOD ≠ 0 ∧
      ((tAxis.setFld (CE.addr .a 127) CE.MODE_ACT 5).fld (CE.addr .a 127) CE.MODE_ACT = 5)) ∧
    ¬(tAxis.fld (CE.addr .a 127) CE.MODE_ACT = 0 ∨ tAxis.fld (CE.addr .a 127) CE.MODE_ACT = 5) ∧
    (pathOwner ((tArm tAxis).setFld (ARM.addr .a 15) ARM.STATE 5) .a 127).isSome = true ∧ pathOwner tAxis .a 127 = none ∧
    ((tAxis.setPrf .a 127 { PrfUnit.reset with homing := some (tHoming 5 5 0) }).prf .a 127).homing.isSome = true ∧
    limitStop (tFld [(PRF.addr .a 127, PRF.MODE_ACT, 6), (PRF.addr .a 127, PRF.LIM_N_LAT, 1)] tAxis) .a 127 = true ∧
    limitStop tAxis .a 127 = false ∧
    (tAxis.prf .a 127).homing = none ∧ (tAxis.setFld (PRF.addr .a 127) PRF.REF 0).flag (PRF.addr .a 127) PRF.REF = false ∧
    (tAxis.setFld (PRF.addr .a 127) PRF.GEAR_DEN 0).fld (PRF.addr .a 127) PRF.GEAR_DEN = 0 ∧
    tAxis.flag (PRF.addr .a 127) PRF.SRC_ACT = false ∧
    127 ≤ (tAxis.setFld (PRF.addr .a 127) PRF.MASTER 127).fld (PRF.addr .a 127) PRF.MASTER ∧ armOf tAxis .a 127 = none := by
  decide +kernel

/-- Each command accepted, the cam with a table of two points at DRAM 0. -/
theorem test_MotionCommandsAccepted_met :
    127 < (tAxis.half .a).prf.length ∧ motionRefusal tAxis .a 127 1 = 0 ∧ motionRefusal tAxis .a 127 2 = 0 ∧
    motionRefusal tAxis .a 127 3 = 0 ∧
    motionRefusal (tFld [(PRF.addr .a 127, PRF.MASTER, 126), (PRF.addr .a 127, PRF.GEAR_DEN, 1)] tAxis) .a 127 4 = 0 ∧
    motionRefusal ((tAxis.setMemN 0 2).setMemN 8 1) .a 127 5 = 0 ∧ motionRefusal (tArm tAxis) .a 127 6 = 0 ∧ motionRefusal tAxis .a 127 9 = 0 := by decide +kernel

theorem test_StopsAndLimitClear_met :
    pathOwner ((tArm tAxis).setFld (ARM.addr .a 15) ARM.STATE 1) .a 127 = some 15 ∧ pathOwner tAxis .a 127 = none ∧
    (tAxis.prf .a 127).homing = none ∧ ¬(tAxis.fld (CE.addr .a 127) CE.MODE_ACT = 0 ∨ tAxis.fld (CE.addr .a 127) CE.MODE_ACT = 5) ∧
    State.reset.fld (CE.addr .a 127) CE.MODE_ACT = 0 ∧
    (tAxis.setFld (PRF.addr .a 127) PRF.MODE_ACT 6).fld (PRF.addr .a 127) PRF.MODE_ACT = 6 ∧
    (spAtRest (tAxis.setFld (PRF.addr .a 127) PRF.SP_VEL 1) .a 127 = false ∧
      (tAxis.setFld (PRF.addr .a 127) PRF.SP_VEL 1).flag (PRF.addr .a 127) PRF.LOOP_ON = true) ∧
    ¬(tAxis.fld (PRF.addr .a 127) PRF.MODE_ACT = 6 ∨
      (spAtRest tAxis .a 127 = false ∧ tAxis.flag (PRF.addr .a 127) PRF.LOOP_ON = true)) := by decide +kernel

/-- A home input at the debounce time and one step before it, and a torque at its count and one period before. -/
theorem test_InputsAndHomingTorque_met :
    (let s := tFld [(PRF.addr .a 127, PRF.HOME_SRC, 47), (PRF.addr .a 127, PRF.DB_HOME, 200)] State.reset
     let t := (s.setPrf .a 127 { PrfUnit.reset with home := ⟨true, 0, 0, false⟩ }).passTime 2000000
     let u := (s.setPrf .a 127 { PrfUnit.reset with home := ⟨true, 0, 0, false⟩ }).passTime 1999999
     inputSource t .a 127 2 % 128 < 48 ∧ debounceSteps t .a 127 2 * 10000 ≤ t.servoNow .a - ((t.prf .a 127).input 2).since ∧
     ((t.prf .a 127).input 2).raw ≠ ((t.prf .a 127).input 2).qual ∧
     ¬ debounceSteps u .a 127 2 * 10000 ≤ u.servoNow .a - ((u.prf .a 127).input 2).since) ∧
    (let s := fun n => State.reset.setPrf .a 127 { PrfUnit.reset with homing := some (tHoming 5 5 n) }
     ((s 5).prf .a 127).homing = some (tHoming 5 5 5) ∧ Nat.max 1 (tHoming 5 5 5).tqTime ≤ (tHoming 5 5 5).tqRun ∧
     ((s 4).prf .a 127).homing = some (tHoming 5 5 4) ∧ (tHoming 5 5 4).tqRun < Nat.max 1 (tHoming 5 5 4).tqTime) := by decide +kernel

theorem test_EngineSteps_met :
    (let s := State.reset.setFld (CE.addr .a 127) CE.LOF_CNT 3
     let c : Nat → CeUnit := fun n => { CeUnit.reset with missRun := n }
     Nat.max 1 (s.fld (CE.addr .a 127) CE.LOF_CNT) ≤ (c 3).missRun ∧ (c 3).lofDone = false ∧
     (c 2).missRun < Nat.max 1 (s.fld (CE.addr .a 127) CE.LOF_CNT) ∧ (c 3).lofDone = false) ∧
    (let c : Nat → CeUnit := fun st => { CeUnit.reset with blending := true, blendN := 100, blendK := 100, holdStep := st }
     (c 0).blending = true ∧ (c 0).blendN ≤ (c 0).blendK ∧ (c 0).holdStep ≠ 2 ∧ (c 0).holdStep ≠ 4 ∧ (c 2).holdStep = 2 ∧
     (c 4).holdStep = 4 ∧ ({ c 0 with blendK := 99 } : CeUnit).blendK < (c 0).blendN) ∧
    (let c : Nat → Nat → CeUnit := fun st n => { CeUnit.reset with holdStep := st, holdCnt := n, brkEng := 255, brkRel := 255, gainJ := 9 }
     (c 1 255).holdStep = 1 ∧ (c 1 255).brkEng ≤ (c 1 255).holdCnt ∧ (c 1 254).holdCnt < (c 1 254).brkEng ∧ (c 1 0).gainJ = 9 ∧
     CeUnit.reset.gainJ ≠ 9 ∧ (c 6 255).holdStep = 6 ∧ (c 6 255).brkRel ≤ (c 6 255).holdCnt ∧ (c 6 255).softRel = false ∧
     (c 5 255).holdStep = 5 ∧ (c 5 254).holdCnt < (c 5 254).brkRel) ∧
    (5 < (6 : BitVec 3).toNat ∧ (4 : BitVec 3).toNat = 4 ∧ armOf State.reset .a 127 = none ∧ (5 : BitVec 3).toNat ≤ 5 ∧
     (5 : BitVec 3).toNat ≠ 4 ∧ armOf (tArm State.reset) .a 127 = some 15 ∧ (tArm State.reset).fld (CE.addr .a 127) CE.MODE_REQ ≠ 4 ∧
     (tArm State.reset).fld (CE.addr .a 127) CE.MODE_ACT ≠ 4 ∧
     ((tArm State.reset).setFld (CE.addr .a 127) CE.MODE_REQ 4).fld (CE.addr .a 127) CE.MODE_REQ = 4 ∧
     (tFld [(CELM.addr .a, CELM.LM_PAGE, 3), (CE.addr .a 127, CE.RC_LEARN, 1)] State.reset).flag (CE.addr .a (32 * 3 + 524287 / 16384)) CE.RC_LEARN = true ∧
     State.reset.flag (CE.addr .a 31) CE.RC_LEARN = false ∧ Memory.wf State.reset.mem = true ∧
     ({ CeUnit.reset with rc := { RcUnit.reset with clearing := true } } : CeUnit).rc.clearing = true ∧
     CeUnit.reset.rc.clearing = false ∧ 127 < (State.reset.half .a).ce.length) := by decide +kernel

/-- Arm 15 in the states its commands ask for. -/
theorem test_ArmCommands_met :
    (let b := ARM.addr .a 15
     let s := tArm tAxis
     let st := fun n => s.setFld b ARM.STATE n
     (s.setFld b ARM.ERR_CODE 9).fld b ARM.ERR_CODE ≠ 0 ∧ s.fld b ARM.ERR_CODE = 0 ∧
     axesRefusal (tArm State.reset) .a 15 ≠ 0 ∧ axesRefusal s .a 15 = 0 ∧ (st 5).fld b ARM.STATE = 5 ∧
     axesRefusal (st 5) .a 15 = 0 ∧ ¬(s.fld b ARM.STATE = 1 ∨ s.fld b ARM.STATE = 2 ∨ s.fld b ARM.STATE = 3 ∨ s.fld b ARM.STATE = 5) ∧
     s.fld b ARM.Q_RD = s.fld b ARM.Q_ACK ∧ (s.setFld b ARM.Q_ACK 64).fld b ARM.Q_RD ≠ (s.setFld b ARM.Q_ACK 64).fld b ARM.Q_ACK ∧
     axesRefusal (s.setFld b ARM.Q_ACK 64) .a 15 = 0 ∧ (st 4).fld b ARM.STATE = 4 ∧ axesRefusal (st 4) .a 15 = 0 ∧
     axesRefusal ((tArm State.reset).setFld b ARM.STATE 4) .a 15 ≠ 0 ∧ (st 1).fld b ARM.STATE = 1 ∧ (st 3).fld b ARM.STATE = 3 ∧
     (s.fld b ARM.STATE ≠ 1 ∧ s.fld b ARM.STATE ≠ 3 ∧ s.fld b ARM.STATE ≠ 5)) := by decide +kernel

/-- Queues with 64 and 65 descriptors, a descriptor that passes and one that fails, the scan of a queued segment, and the hoist
list free, armed with the same number, and full. -/
theorem test_ArmQueueAndHoists_met :
    (let b := ARM.addr .a 15
     let s := tArm State.reset
     let t := ((s.setWordN (segAddr .a 15 0 + 8) 0x3F800000).setWordN (segAddr .a 15 0 + 12) 0x3F800000).setWordN (segAddr .a 15 0 + 16) 0x3F800000
     let w := t.setFld b ARM.Q_WR 1
     s.fld b ARM.ERR_CODE = 0 ∧ (s.setFld b ARM.ERR_CODE 1).fld b ARM.ERR_CODE ≠ 0 ∧ 64 < (65 + 128 - s.fld b ARM.Q_RD) % 128 ∧
     (64 + 128 - s.fld b ARM.Q_RD) % 128 ≤ 64 ∧ 0 = s.fld b ARM.Q_ACK ∧ 1 = (s.fld b ARM.Q_ACK + 1) % 128 ∧
     segCheck (s.setFld b ARM.Q_WR 1) .a 15 0 true ≠ 0 ∧ segCheck w .a 15 (w.fld b ARM.Q_ACK) (decide (w.fld b ARM.Q_ACK = w.fld b ARM.Q_RD)) = 0 ∧
     15 < (s.half .a).arms.length ∧ queuedSegs (s.passTime 40) .a 15 ≤ (0 + 128 - (s.passTime 40).fld b ARM.Q_RD) % 128 ∧
     (let q := (tFld [(b, ARM.Q_RD, 127), (b, ARM.Q_ACK, 0)] s).passTime 40
      (127 + 128 - q.fld b ARM.Q_RD) % 128 < queuedSegs q .a 15)) ∧
    (let b := HOIST.addr .a
     let s := (tArm State.reset).setFld b HOIST.MASK 0x8000
     let full := tFld ((List.range 8).map (fun i => (HLIST.addr .a i, HLIST.H_STATE, 1))) s
     let q := full.setFld (HLIST.addr .a 7) HLIST.H_STATE 0
     State.reset.fld b HOIST.MASK = 0 ∧
     ¬((s.setQuad (b + 8) 9).fld b HOIST.MASK = 0 ∨ ∃ j, j < 16 ∧ bitOf ((s.setQuad (b + 8) 9).fld b HOIST.MASK) j = true ∧
       armConfigured (s.setQuad (b + 8) 9) .a j = false) ∧
     (q.fld (HLIST.addr .a 0) HLIST.H_STATE = 1 ∧ q.fld (HLIST.addr .a 0) HLIST.L_ID = q.fld b HOIST.ID) ∧
     (∀ i, i < 8 → full.fld (HLIST.addr .a i) HLIST.H_STATE ≠ 0) ∧
     ¬(∃ i, i < 8 ∧ (full.setFld b HOIST.ID 255).fld (HLIST.addr .a i) HLIST.H_STATE = 1 ∧
       (full.setFld b HOIST.ID 255).fld (HLIST.addr .a i) HLIST.L_ID = (full.setFld b HOIST.ID 255).fld b HOIST.ID) ∧
     (q.fld (HLIST.addr .a 7) HLIST.H_STATE = 0 ∧ ∀ n, n < 7 → q.fld (HLIST.addr .a n) HLIST.H_STATE ≠ 0) ∧
     2 ≤ (s.setFld (HLIST.addr .a 7) HLIST.H_STATE 3).fld (HLIST.addr .a 7) HLIST.H_STATE ∧ full.fld (HLIST.addr .a 7) HLIST.H_STATE < 2) ∧
    (({ ArmUnit.reset with obsHold := 1 } : ArmUnit).obsHold = 1 ∧ ArmUnit.reset.obsHold ≠ 1) := by decide +kernel

/-- TB1 of Half A with a last sample at TB0 0 and locked by PTP. -/
def tLocked : State :=
  (State.reset.setFld (TB.addr .a 1) TB.LOCKED 1).setTb .a 1 { TimeBase.reset with lastSample := some 0 }

/-- The deadline of TB1's next sample. -/
def tLoss : Nat := (lossDeadline tLocked .a 1).getD 0

theorem test_TimeBaseCommands_met :
    ((State.reset.setFld (TB.addr .a 2) TB.SRC 2).fld (TB.addr .a 2) TB.SRC = 2 ∧ State.reset.fld (TB.addr .a 2) TB.SRC ≠ 2) ∧
    (lossDeadline (tLocked.passTime (tLoss + 1)) .a 1 = some tLoss ∧ tLoss < (tLocked.passTime (tLoss + 1)).tb0 ∧
      tLocked.fld (TB.addr .a 1) TB.SRC = 0 ∧ (tLocked.passTime (tLoss + 1)).flag (TB.addr .a 1) TB.LOCKED = true ∧
      lossDeadline (tLocked.passTime tLoss) .a 1 = some tLoss ∧ (tLocked.passTime tLoss).tb0 ≤ tLoss) ∧
    (let s := (tFld [(TB3X.addr .a, TB3X.STATE, 1), (TB3X.addr .a, TB3X.RETURN_S, 60)] State.reset).setTime .a
       { TimeUnit.reset with tb1LockedAt := some 0 }
     (s.time .a).tb1LockedAt = some 0 ∧ s.fld (TB3X.addr .a) TB3X.STATE = 1 ∧
     0 + s.fld (TB3X.addr .a) TB3X.RETURN_S * 10 ^ 9 ≤ (s.passTime (60 * 10 ^ 9)).tb0 ∧
     (s.passTime (60 * 10 ^ 9 - 1)).tb0 < 0 + s.fld (TB3X.addr .a) TB3X.RETURN_S * 10 ^ 9) ∧
    (let s := tLocked.setTime .a { (tLocked.time .a) with startWait := some 5 }
     (s.time .a).startWait = some 5 ∧ s.activeHalf ≠ some .a ∧ tbLocked s .a 1 = true) ∧
    (let a := ALARM.addr .a 15
     let s := (State.reset.setFld a ALARM.EN 1).setQuad a 7
     s.flag a ALARM.EN = true ∧ s.quad a ≤ baseNs (s.passTime 7) .a ((s.passTime 7).fld a ALARM.BASE) ∧
     baseNs (s.passTime 6) .a ((s.passTime 6).fld a ALARM.BASE) < s.quad a ∧ State.reset.flag a ALARM.EN = false ∧
     baseNs State.reset .a (3 : BitVec 2).toNat ≤ State.reset.quad a ∧
     State.reset.quad a < baseNs (State.reset.passTime 1) .a (3 : BitVec 2).toNat) := by decide +kernel

theorem test_OffsetSamplesSteerTheRate_met :
    (let s := State.reset.setTb .a 1 { TimeBase.reset with lastSample := some 0, goodRun := 6 }
     let g := tFld [(TB.addr .a 1, TB.SRC, 1), (TB.addr .a 1, TB.STEP_THR, 1)] s
     (s.tb .a 1).lastSample = some 0 ∧ s.flag (TB.addr .a 1) TB.LOCKED = false ∧ (s.tb .a 1).goodRun < 7 ∧ (s.time .a).startWait = none ∧
     (s.setFld (TB.addr .a 1) TB.STEP_THR 0).fld (TB.addr .a 1) TB.STEP_THR = 0 ∧
     ((65536 : Int).natAbs : Int) ≤ (g.fld (TB.addr .a 1) TB.STEP_THR : Int) * 65536 ∧
     s.fld (TB.addr .a 1) TB.SRC = 0 ∧ s.fld (PTP.addr .a 0) PTP.GM_ID = (0 : BitVec 64).toNat ∧
     lossDeadline s .a 1 = some tLoss ∧ g.fld (TB.addr .a 1) TB.SRC = 1 ∧ toS 48 (65536 : BitVec 64).toNat = 65536 ∧
     ((g.setTb .a 1 { (g.tb .a 1) with stamp := 9 }).tb .a 1).stamp = 9) := by decide +kernel

theorem test_ServoInstants_met :
    State.reset.activeHalf ≠ some .a ∧ tAct.activeHalf = some .a ∧ tAct.inCharge .a = true ∧ (tAct.servo .a).cwOpen = false ∧
    State.reset.inCharge .a = false ∧
    ((tAct.setServo .a { ServoUnit.reset with cwOpen := true }).servo .a).cwOpen = true ∧
    (tAct.servo .a).cePend = none ∧
    ((tAct.setServo .a { ServoUnit.reset with cePend := some 9 }).servo .a).cePend = some 9 := by decide +kernel

theorem test_LateWorkAndAlign_met :
    (let s := State.reset.setServo .a { ServoUnit.reset with goodRun := 1024 }
     let t := State.reset.setServo .a { ServoUnit.reset with goodRun := 1023 }
     1024 ≤ (s.servo .a).goodRun ∧ s.flag (HPWR.addr .a) HPWR.FIX_MAX = false ∧ (t.servo .a).goodRun < 1024) ∧
    (let u : Nat → Nat → Nat → ArmUnit := fun f g i => { ArmUnit.reset with ffRun := f, flagRun := g, ikRun := i }
     (3 ≤ (u 3 0 0).ffRun ∧ (u 99 0 0).ffRun < 100) ∧ ((u 2 3 0).ffRun < 3 ∧ 3 ≤ (u 2 99 0).flagRun ∧ (u 2 99 0).flagRun < 100) ∧
     ((u 100 2 0).ffRun = 100 ∧ (u 2 100 0).flagRun = 100) ∧ (3 ≤ (u 0 0 99).ikRun ∧ (u 0 0 99).ikRun < 100) ∧
     ((u 0 0 2).ikRun < 3 ∧ (u 0 0 100).ikRun = 100)) ∧
    (let s := (State.reset.setFld (SYS.addr .a) SYS.GOV_STATE 2).setServo .a { ServoUnit.reset with govLate := 3 }
     (s.servo .a).govLate = 3 ∧ s.fld (SYS.addr .a) SYS.GOV_STATE = 2 ∧ State.reset.fld (SYS.addr .a) SYS.GOV_STATE ≠ 2 ∧ (State.reset.servo .a).govLate ≠ 3) ∧
    ((∀ r, r < 8 → ringState State.reset .a r = 0) ∧ (∀ k, k < 128 → State.reset.flag (PRF.addr .a k) PRF.LOOP_ON = false) ∧
      ringState (State.reset.setFld (RING.addr .a 7) RING.STATE 4) .a 7 ≠ 0 ∧ tAxis.flag (PRF.addr .a 127) PRF.LOOP_ON = true) := by
  decide +kernel

/-- Half A active, Half B with a health report of now, passed, of this image and this capability level. -/
def tPair : State :=
  let s := tAct.setWordN (PEN.addr + 0x100 + 0x40 + 4) (0x30000 + tAct.fld MOD.addr MOD.CL_NOW * 256)
  { s with pen := { s.pen with hrAt := [some 0, some 0], newest := [none, some 0] } }

/-- A half with the pennant whose partner is eligible or not, its heartbeat of period 0 missing at period 2, and present at 1. -/
theorem test_TriggersMoveThePennant_met :
    tPair.activeHalf = some .a ∧ eligible tPair .b = true ∧ eligible tAct .b = false ∧ State.reset.activeHalf ≠ some .a ∧
    (let s := { tAct with pen := { tAct.pen with beat := [some 0, none] } }
     let t := s.passTime (2 * s.periodNs .a)
     let u := s.passTime (2 * s.periodNs .a - 1)
     t.inCharge .a = true ∧ t.pen.beat.getD (halfIdx .a) none = some 0 ∧ 0 + 1 < syncNow t .a ∧ t.pen.ownedFrom < syncNow t .a ∧
     syncNow u .a ≤ 0 + 1) ∧
    tAct.pen.hot.getD (halfIdx .a) false = false := by decide +kernel

/-- Swaps of the half and of the module, rehearsals in each state, and their ends. -/
theorem test_CommandedPennantMoves_met :
    (let p := PEN.addr
     let l : List Byte := (List.range 64).map (fun i => if i = 5 then BitVec.ofNat 8 (tAct.fld MOD.addr MOD.CL_NOW) else if i = 6 then 3 else 0)
     let held := tAct.setFld p PEN.RACK_HELD 1
     let peer := { held with pen := { held.pen with peerReport := some (l, 0) } }
     let swap := { tPair with pen := { tPair.pen with swap := some ⟨false, 5, 2⟩ } }
     let lone := { tAct with pen := { tAct.pen with swap := some ⟨false, 5, 2⟩ } }
     let x : RehRun := ⟨false, .b, 0, 5⟩
     let reh := { tPair with pen := { tPair.pen with reh := some x } }.setFld p PEN.REH_STATE 2
     let stay := reh.setFld p PEN.REH_STAY 1
     tAct.activeHalf = some .a ∧ State.reset.activeHalf = none ∧ held.flag p PEN.RACK_HELD = true ∧ held.fld p PEN.REH_STATE = 0 ∧
     peerEligible peer = true ∧ peer.activeHalf = some .a ∧ peer.flag p PEN.RACK_HELD = true ∧ peerEligible held = false ∧
     reh.fld p PEN.REH_STATE ≠ 0 ∧ swap.pen.swap = some ⟨false, 5, 2⟩ ∧ swap.activeHalf = some .a ∧
     eligible (swap.passTime (untilServo swap .a (Nat.max 2 (nextSync swap .a) * swap.periodNs .a))) .b = true ∧
     eligible (lone.passTime (untilServo lone .a (Nat.max 2 (nextSync lone .a) * lone.periodNs .a))) .b = false ∧
     lone.fld p PEN.REH_STATE ≠ 3 ∧ tAct.pen.swap = none ∧ reh.pen.reh = some x ∧ reh.fld p PEN.REH_STATE = 2 ∧
     5 ≤ (stay.passTime 5).tb0 ∧ stay.flag p PEN.REH_STAY = true ∧ reh.flag p PEN.REH_STAY = false ∧ eligible (reh.passTime 5) .b = true ∧
     (reh.passTime 4).tb0 < 5) := by decide +kernel

/-- A mirror record of Half A for Half B, with one mirrored register, and the temperature and reference states. -/
theorem test_MirrorHealthAndHalfReset_met :
    (let r : MirrorRec := ⟨3, .a, 0, [(TB.addr .a 1 - viewBase .a, 1)], HalfState.reset.prf, HalfState.reset.ce, HalfState.reset.arms,
       HalfState.reset.hoists, HalfState.reset.rings, .reset⟩
     let s := { tAct with pen := { tAct.pen with sent := some r } }
     mirrorFor State.reset .b = none ∧ mirrorFor s .b = some r ∧ s.canonical = true ∧ storeSorted r.regs = true ∧
     s.pen.newest.length = 2 ∧ r.hoists.length = (s.half .b).hoists.length ∧ r.prf.length = (s.half .b).prf.length) ∧
    tAct.activeHalf = some .a ∧ State.reset.activeHalf ≠ some .a ∧ (0 : BitVec 12) = 0 ∧ (0xFFF : BitVec 12) ≠ 0 ∧
    Memory.wf State.reset.mem = true ∧ State.reset.pen.warm.getD (halfIdx .b) false = false ∧
    ({ PenUnit.reset with warm := [true, true], hot := [true, true] } : PenUnit).warm.getD (halfIdx .b) false = true ∧
    ({ PenUnit.reset with warm := [true, true], hot := [true, true] } : PenUnit).hot.getD (halfIdx .b) false = true ∧
    State.reset.onMonitor = false ∧ ({ State.reset with onMonitor := true } : State).onMonitor = true := by decide +kernel

theorem test_PairLink_met :
    (let p := PEN.addr
     let pair := fun n => State.reset.setFld p PEN.P_STATE n
     let own := tAct.setFld p PEN.P_STATE 2
     let up := { State.reset with pen := { PenUnit.reset with lastLink := [some 0, some 0] } }.setFld p PEN.LANE1_UP 1
     (pair 2).unpaired = false ∧ State.reset.unpaired = true ∧ ((pair 2).setFld p PEN.RACK_HELD 1).flag p PEN.RACK_HELD = true ∧
     own.activeHalf = some .a ∧ own.flag p PEN.RACK_HELD = false ∧ own.fld p PEN.P_STATE = 2 ∧
     own.pen.newest.getD (halfIdx .a) none = none ∧ (pair 2).fld p PEN.P_STATE ≠ 6 ∧ (pair 1).fld p PEN.P_STATE = 1 ∧
     (15 : BitVec 4).toNat ≠ (pair 1).fld MOD.addr MOD.CL_NOW ∧
     (BitVec.ofNat 4 ((pair 1).fld MOD.addr MOD.CL_NOW)).toNat = (pair 1).fld MOD.addr MOD.CL_NOW ∧
     (BitVec.ofNat 32 (ownPairCrc (pair 1))).toNat = ownPairCrc (pair 1) ∧
     (BitVec.ofNat 32 (ownPairCrc (pair 1) + 1)).toNat ≠ ownPairCrc (pair 1) ∧
     (32 : BitVec 10).toNat % 32 = (pair 1).fld MOD.addr MOD.NUM % 32 ∧ (31 : BitVec 10).toNat % 32 ≠ (pair 1).fld MOD.addr MOD.NUM % 32 ∧
     up.pen.lastLink.getD 1 none = some 0 ∧ (up.passTime 99999).tb0 < 0 + 100000 ∧ 0 + 100000 ≤ (up.passTime 100000).tb0 ∧
     (up.passTime 100000).flag p PEN.LANE1_UP = true ∧ (up.passTime 100000).flag p PEN.LANE0_UP = false ∧
     (up.setFld p PEN.LANE0_UP 1).flag p PEN.LANE0_UP = true ∧ up.fld p PEN.P_STATE ≠ 6) := by decide +kernel

/-- A Cholesky descriptor of one problem of order 1 with its matrices at DRAM 0, a full queue, and the slots of a schedule. -/
theorem test_SolverChannels_met :
    (let d : List Word := [0x01010001, 0x10000] ++ List.replicate 14 0
     let s := State.reset.setMemWords 64 d
     let v : Word := 64
     let x : SolverDesc := ⟨64, d, 0, 0⟩
     let full := State.reset.setSolver .a { SolverUnit.reset with chs := SolverUnit.reset.chs.set 0 ⟨List.replicate 33 x, some 0, false⟩ }
     bitsOf v.toNat 5 0 = 0 ∧ s.memWords (dramAddr .a (bitsOf v.toNat 30 6 * 64)) 16 = d ∧ portCode .a 0 d = 0 ∧
     portCode .a 17 d ≠ 0 ∧ portCode .a 62 d ≠ 0 ∧ (solverCh s .a 0).run = none ∧ (solverCh s .a 0).queue.length < 32 ∧
     0 < (s.solver .a).chs.length ∧ (solverCh full .a 0).run = some 0 ∧ 33 ≤ (solverCh full .a 0).queue.length ∧
     (solverCh full .a 0).queue[0]? = some x ∧ dBatch x.words ≤ x.done + 1) ∧
    (let y : List Word := [0x12, 0x10007] ++ List.replicate 14 0
     let z : SolverDesc := ⟨0, y, 0, 0⟩
     let s := State.reset.setSolver .a { SolverUnit.reset with chs := SolverUnit.reset.chs.set 17 ⟨[z], none, false⟩ }
     dOp y = 0x12 ∧ slotState State.reset .a 1 (dK y) ≠ 2 ∧ slotNamed s .a 1 7 = true ∧ slotNamed State.reset .a 1 7 = false) ∧
    ({ SolverUnit.reset with loads := [(1, 7, 64)] } : SolverUnit).loads.find?
      (fun l => decide (l.1 = 1) && decide (l.2.1 = 7)) = some (1, 7, 64) := by decide +kernel

/-- A part of 320 bytes of group 9 from module 3: VER 1, part 0 of 1, the group at byte 6. -/
def tPart (num : Nat) : List Byte := [1, 0, 0x10, 0, BitVec.ofNat 8 num, 0, 9, 0] ++ List.replicate 312 0

theorem test_GroupCommands_met :
    (let s : State := { tAct with cfg := { ModuleCfg.none with govGroup := some 9 } }
     let m : PeerMsg := ⟨3, 0, 0, 0, false, false, [], 0, 0, 0, 0, 0, 0, 0, [], []⟩
     let p : Peer := ⟨3, 0, 1, [], some m, false⟩
     let u := s.setGov .a { GovUnit.reset with peers := List.replicate 7 p ++ [p], members := [3] }
     let old := u.setQuad (SYS.addr .a + 0x108) (tickPeriods u .a * (quarterH u .a + 1))
     s.cfg.govGroup = some 9 ∧ State.reset.cfg.govGroup = none ∧ parsePart 9 (tPart 3) = some ⟨3, 0, 0, 1⟩ ∧
     parsePart 9 (List.replicate 63 0) = none ∧ s.activeHalf = some .a ∧ (s.gov .a).withdrawn = false ∧ 3 ≠ ownNum s ∧
     parsePart 9 (tPart (ownNum s)) = some ⟨ownNum s, 0, 0, 1⟩ ∧ (s.gov .a).peers.length < 8 ∧ s.activeHalf ≠ some .b ∧
     (u.gov .a).peers[7]? = some p ∧ p.num ∈ (u.gov .a).members ∧ quarterH old .a < msgAge old .a m ∧
     msgAge u .a m ≤ quarterH u .a) ∧
    (({ GovUnit.reset with asked := 16 } : GovUnit).admitted = false ∧ 16 ≤ ({ GovUnit.reset with asked := 16 } : GovUnit).asked ∧
      ({ GovUnit.reset with asked := 15 } : GovUnit).asked < 16) ∧
    (let s := State.reset.setFld (GOV.addr .a) GOV.ROLE 2
     let t := s.setGov .a { GovUnit.reset with peers := [⟨3, 0, 1, [], none, true⟩] }
     t.fld (GOV.addr .a) GOV.ROLE = 2 ∧ (∃ q ∈ (t.gov .a).peers, q.num = (3 : BitVec 10).toNat ∧ q.silent = true) ∧
     State.reset.fld (GOV.addr .a) GOV.ROLE ≠ 2 ∧ ∀ q ∈ (s.gov .a).peers, q.num = (3 : BitVec 10).toNat → q.silent = false) := by
  decide +kernel

/-- Channel 3 of Half A runs as error active in the normal mode. -/
def tCan : State := tFld [(CAN.addr .a 3, CAN.MODE_REQ, 1), (CAN.addr .a 3, CAN.STATE, 2)] tAct

theorem test_CanTransmit_met :
    (let a := CAN.addr .a 3
     let t := TXB.addr .a 3 2
     let p := tCan.setFld t TXB.PENDING 1
     let dl := tFld [(t, TXB.DL_EN, 1), (t, TXB.DEADLINE, 5)] p
     let ab := p.setCan .a 3 { CanCh.reset with abortReq := [false, false, true] }
     p.flag t TXB.PENDING = true ∧ bitOf (0x1FF : Word).toNat 9 = false ∧ tCan.flag t TXB.PENDING = false ∧
     canMode (tCan.setFld a CAN.MODE_REQ 2) .a 3 = 2 ∧ canMode tCan .a 3 ≠ 2 ∧ dl.flag t TXB.DL_EN = true ∧
     txPast (dl.passTime 6) .a 3 2 = true ∧ txPast (dl.passTime 5) .a 3 2 = false ∧
     serialAfter ((dl.passTime 6).tb0 % 2 ^ 32) (dl.fld t TXB.DEADLINE) = true ∧
     serialAfter ((dl.passTime 5).tb0 % 2 ^ 32) (dl.fld t TXB.DEADLINE) = false ∧ p.flag t TXB.DL_EN = false ∧
     canFrameOn p .a 3 0 = true ∧ canMode p .a 3 = 1 ∧ txChosen p .a 3 0 = some 2 ∧ p.flag a CAN.SELF_RX = false ∧ canState p .a 3 = 2 ∧
     (p.setFld a CAN.TEC 96).fld a CAN.TEC ≤ 96 ∧ (p.setFld a CAN.REC 95).fld a CAN.REC ≤ 95 ∧ txChosen ab .a 3 0 = some 2 ∧
     (ab.can .a 3).abortReq.getD 2 false = true ∧ (p.can .a 3).abortReq.getD 2 false = false ∧ p.flag t TXB.SINGLE = false ∧
     (p.setFld t TXB.SINGLE 1).flag t TXB.SINGLE = true ∧ txChosen tCan .a 3 0 ≠ some 2) := by decide +kernel

/-- A frame of 8 bytes; a filter of mailbox 31 that takes every one. -/
def tFrame : CanFrame := ⟨5, false, false, false, false, false, 8, List.replicate 8 1⟩

theorem test_CanReceive_met :
    (let a := CAN.addr .a 3
     let m := MB.addr .a 3 31
     let f := tFld [(FLT.addr .a 3 31, FLT.EN, 1)] tCan
     let q := f.setFld a CAN.RX_MODE 1
     let own := q.setCan .a 3 { CanCh.reset with owned := 1 }
     let lk := tFld [(m, MB.LOCKED, 1), (m, MB.LEN, 8), (m, MB.FULL, 1)] tCan
     let ov := lk.setCan .a 3 { CanCh.reset with ovf := CanCh.reset.ovf.set 31 (some tFrame) }
     let seen := fun (s : State) => (((s.count a CAN.RX_OK).setCan .a 3 { (s.can .a 3) with ackRun := 0 }).setFld a CAN.ALONE 0)
     canFrameOn State.reset .a 3 0 = false ∧ canFrameOn f .a 3 0 = true ∧ canMode f .a 3 ≠ 4 ∧ tFrame.fdf = false ∧ f.fld a CAN.REC = 0 ∧
     (∀ j, j < 32 → fltAccepts (seen tCan) .a 3 j tFrame = false) ∧
     (List.range 32).find? (fun j => fltAccepts (seen f) .a 3 j tFrame) = some 31 ∧ f.flag a CAN.RX_MODE = false ∧
     f.flag m MB.LOCKED = false ∧ f.flag m MB.FULL = false ∧ (f.setFld m MB.FULL 1).flag m MB.FULL = true ∧
     lk.flag m MB.LOCKED = true ∧ lk.flag m MB.OVF_HELD = false ∧ q.flag a CAN.RX_MODE = true ∧
     bitOf ((seen own).can .a 3).owned (own.fld a CAN.CQ_WR) = true ∧ bitOf ((seen q).can .a 3).owned (q.fld a CAN.CQ_WR) = false ∧
     (75 / 4 ≠ 0 ∧ 75 / 4 * 4 ≠ mailboxLast tCan .a 3 31) ∧ 19 / 4 * 4 = mailboxLast lk .a 3 31 ∧
     (lk.can .a 3).ovf.getD 31 none = none ∧ (ov.can .a 3).ovf.getD 31 none = some tFrame ∧ ov.flag m MB.LOCKED = true ∧
     bitOf (tCan.can .a 3).owned 63 = false ∧
     bitOf ((tCan.setCan .a 3 { CanCh.reset with owned := 2 ^ 63 }).can .a 3).owned 63 = true) := by decide +kernel

theorem test_CanStates_met :
    (let a := CAN.addr .a 3
     let st := fun n => tCan.setFld a CAN.STATE n
     let cnt := fun t r => tFld [(a, CAN.TEC, t), (a, CAN.REC, r)] tCan
     let c16 := tCan.setCan .a 3 { CanCh.reset with ackRun := 16 }
     canOnBus State.reset .a 3 = false ∧ canMode (tCan.setFld a CAN.MODE_REQ 3) .a 3 = 3 ∧ canOnBus tCan .a 3 = true ∧ canMode tCan .a 3 = 1 ∧
     canState tCan .a 3 = 2 ∧ ((cnt 87 95).fld a CAN.TEC + 8 < 96 ∧ (cnt 87 95).fld a CAN.REC < 96) ∧
     ((cnt 95 94).fld a CAN.TEC < 96 ∧ (cnt 95 94).fld a CAN.REC + 1 < 96) ∧
     (96 ≤ (cnt 95 88).fld a CAN.REC + 8 ∧ (cnt 95 119).fld a CAN.REC + 8 ≤ 127) ∧
     (127 < (cnt 120 0).fld a CAN.TEC + 8 ∧ (cnt 247 0).fld a CAN.TEC + 8 ≤ 255) ∧ 255 < (cnt 248 0).fld a CAN.TEC + 8 ∧
     canState (st 3) .a 3 = 3 ∧ canOnBus (st 3) .a 3 = true ∧ (c16.can .a 3).ackRun = 16 ∧ c16.flag a CAN.ALONE = false ∧
     (tCan.can .a 3).ackRun ≠ 16 ∧ canState (st 1) .a 3 = 1 ∧ canState (st 5) .a 3 = 5 ∧ canState (st 4) .a 3 = 4 ∧
     tCan.activeHalf = some .a ∧ State.reset.activeHalf ≠ some .a ∧ tCan.flag a CAN.STUCK_DOM = false) := by decide +kernel

/-- Record 255, live, with and without a disarm. -/
def tRec (disarm : Option Nat) : AcqRec := ⟨255, 0, disarm, [], none, 0, 0, 0, [], none, true, true, 0, false, false, false, some 4⟩

theorem test_RecordCommands_met :
    (let b := REC.addr .a 255
     let st := fun n d => (State.reset.setFld b REC.R_STATE n).setAcq .a { AcqUnit.reset with recs := [tRec d] }
     let ok := tFld [(b, REC.SIZE, 0x10000), (b, REC.CH_MASK, 2 ^ 63), (ACH.addr .a 63, ACH.RED0, 6)] tAct
     (State.reset.setFld b REC.R_STATE 1).fld b REC.R_STATE ≠ 0 ∧ State.reset.fld b REC.R_STATE = 0 ∧ armRefusal State.reset .a 255 ≠ 0 ∧
     armRefusal ok .a 255 = 0 ∧ (ok.setFld b REC.R_STATE 4).fld b REC.R_STATE = 4 ∧ acqFind State.reset .a 255 = none ∧
     acqFind (st 2 none) .a 255 = some (tRec none) ∧ (tRec none).disarm = none ∧ acqFind (st 3 (some 9)) .a 255 = some (tRec (some 9)) ∧
     (tRec (some 9)).disarm ≠ none ∧ (st 3 (some 9)).fld b REC.R_STATE = 3 ∧ (st 2 (some 9)).fld b REC.R_STATE ≠ 3 ∧
     (st 5 none).fld b REC.R_STATE = 5 ∧ ((st 2 none).acq .a).recs = [tRec none] ∧ ((st 2 none).acq .a).miss = false ∧
     (st 1 none).fld b REC.R_STATE = 1 ∧ (tRec none).a * (st 2 none).periodNs .a ≤ (st 2 none).servoNow .a ∧
     (st 2 none).servoNow .a / (st 2 none).periodNs .a ≤ (st 2 none).periodNum .a) := by decide +kernel

theorem test_TriggerSources_met :
    (let m : List Byte := [1, 0, 3, 0] ++ List.replicate 20 0
     (List.replicate 23 (1 : Byte)).length ≠ 24 ∧ (bytesAt (List.replicate 24 0) 0 1 ≠ 1) ∧ m.length = 24 ∧ bytesAt m 0 1 = 1 ∧
     (bytesAt m 2 2 % 1024, bytesAt m 6 2) ∉ (State.reset.acq .a).seen ∧
     (3, 0) ∈ ({ AcqUnit.reset with seen := [(3, 0)] } : AcqUnit).seen) := by decide +kernel

/-! Rings. -/

/-- Ring 7 of the active Half A in a step, with nodes 1 and 24 expected. -/
def tRing (u : RingUnit) : State :=
  { tAct with cfg := { ModuleCfg.none with rings := List.replicate 8 [⟨1, 5, 2, [127], false⟩, ⟨24, 6, 2, [], false⟩] } }.setRing .a 7 u

/-- A valid frame of a type from a node. -/
def tFrameOf (typ node : Nat) (body : List Byte) : RFrame := ⟨typ, 2, 0, node, 0, false, body⟩

/-- A REPORT of a node with DEV_ID id. -/
def tReport (node id : Nat) : RFrame := tFrameOf 6 node ([3, BitVec.ofNat 8 id] ++ List.replicate 26 0)

theorem test_RingStart_met :
    (let b := RING.addr .a 7
     let s := fun n => tRing { RingUnit.reset with step := n }
     let st := fun n => State.reset.setFld b RING.STATE n
     let f := tReport 1 5
     ringState (st 1) .a 7 = 1 ∧ ringState (st 2) .a 7 = 2 ∧ ringState (st 0) .a 7 = 0 ∧ ringState (st 4) .a 7 = 4 ∧ ringState (st 3) .a 7 = 3 ∧
     (((s 2).ring .a 7).step = 2 ∧ ((s 2).ring .a 7).backoff = false) ∧ (s 2).flag b RING.SPLIT = false ∧
     ((State.reset.setRing .a 7 { RingUnit.reset with step := 2 }).inCharge .a = false) ∧
     ({ RingUnit.reset with step := 2, backoff := true } : RingUnit).backoff = true ∧ ((s 3).ring .a 7).step = 3 ∧
     (2 : BitVec 5).toNat = (ringNodes (s 3) 7).length ∧ (1 : BitVec 5).toNat ≠ (ringNodes (s 3) 7).length ∧ ((s 4).ring .a 7).step = 4 ∧
     ((s 5).ring .a 7).step = 5 ∧ parseFrame (List.replicate 8 0) = none ∧ parseFrame f.bytes = some f ∧ (reportOf f).isSome = true ∧
     f.epoch = ringEpoch (s 7) 7 ∧ (∃ n ∈ ringNodes (s 7) 7, n.addr = f.node) ∧ ((s 7).ring .a 7).step = 7 ∧
     allNodes (setRingNode (s 7) .a 7 1 (fun n => { n with acked := true })) .a 7 (fun n => n.acked) = false ∧
     allNodes (setRingNode (setRingNode (s 7) .a 7 24 (fun n => { n with acked := true })) .a 7 1 (fun n => { n with acked := true })) .a 7
       (fun n => n.acked) = true) ∧
    (let s := fun n => (tRing { RingUnit.reset with step := n, goodRun := 16 }).setFld (RING.addr .a 7) RING.STATE 1
     ((((s 8).ring .a 7).step, 9) ∈ [(1, 1), (2, 3), (3, 4), (4, 4), (5, 4), (6, 10), (7, 10), (8, 9)]) ∧ ringState (s 8) .a 7 = 1 ∧
     ((s 9).ring .a 7).step = 9 ∧ 16 ≤ ((s 9).ring .a 7).goodRun) := by decide +kernel

/-- A cyclic ring with a schedule of SYNC, POLL of node 1 and SET, and 40 bytes of mailbox downlink for start frames. -/
def tCyclic : State :=
  let b := RING.addr .a 7
  let put := fun (s : State) (e off typ node len : Nat) =>
    (s.setWordN (b + 0x1000 + 8 * e) (off / 8 + typ * 2 ^ 20 + node * 2 ^ 24 + 3 * 2 ^ 29)).setWordN (b + 0x1004 + 8 * e) len
  let s := tRing { RingUnit.reset with step := 9, link1 := true, link2 := true, silent := 16, retryAt := some 10, cleanA := some 64 }
  let s := put (put (put (put s 0 0 0 31 0) 1 2000 1 1 0) 2 9040 4 31 40) 3 16000 3 31 32
  tFld [(b, RING.N_ENTRIES, 4), (b, RING.STATE, 2), (SYS.addr .a, SYS.CW_START, 100000)] s

theorem test_RingOperation_met :
    (let b := RING.addr .a 7
     let s := tCyclic
     let n := s.periodNum .a
     let f := tFrameOf 2 1 (List.replicate 48 0)
     let bad := s.setFld b RING.STATE 0
     let nb := NODE.addr .a 7 0
     let old := s.setMemN (mramAddr (0x5000 + 4 * 7)) 1
     (State.reset.ring .a 7).step ≠ 9 ∧ (s.ring .a 7).step = 9 ∧ ringSends s .a = true ∧ ringSends State.reset .a = false ∧
     (schedEntry s .a 7 0).active n = true ∧ 0 < s.fld b RING.N_ENTRIES ∧ 3 < s.fld b RING.N_ENTRIES ∧ s.flag PWR.addr PWR.HOLDUP = false ∧
     (schedEntry s .a 7 0).typ = 0 ∧ s.pen.claimAt = none ∧ (schedEntry s .a 7 3).typ = 3 ∧ s.activeHalf = some .a ∧
     s.former = none ∧ parseFrame (List.replicate 9 0) = none ∧ parseFrame f.bytes = some f ∧ f.typ = 2 ∧ f.epoch ≠ ringEpoch old 7 ∧
     old.flag b RING.SPLIT = false ∧ old.pen.reh = none ∧ f.epoch = ringEpoch s 7 ∧ f.body.length = 48 ∧ s.flag b RING.A_UNUSABLE = false ∧
     (pollOf s .a 7 1 (bitsOf (bytesAt f.body 1 1) 1 0) n).isSome = true ∧ pollOf s .a 7 24 0 n = none ∧
     replyDeadline s .a 7 2000 false < ((2000 + 2240 + 1001 : Nat) : Int) ∧ ((2000 + 2240 + 1000 : Nat) : Int) ≤ replyDeadline s .a 7 2000 false ∧
     ((n, 31) :: ((s.ring .a 7).violA.filter (fun y => n < y.1 + 64)).take 63).length < 4 ∧
     ringState s .a 7 = 2 ∧ ringState bad .a 7 ≠ 2 ∧ 16 ≤ (s.ring .a 7).silent ∧ (State.reset.ring .a 7).silent < 16 ∧
     (s.ring .a 7).cleanA = some 64 ∧ (State.reset.ring .a 7).cleanA = none ∧ readmitRoom s .a 7 = true ∧
     readmitRoom State.reset .a 7 = false ∧ (s.setFld nb NODE.N_STATE 3).fld nb NODE.N_STATE = 3 ∧
     (s.setFld nb NODE.N_STATE 2).fld nb NODE.N_STATE = 2 ∧ nodeLof State.reset .a 7 1 ≤ ({ RingNode.reset with miss := 1 } : RingNode).miss ∧
     s.fld nb NODE.N_STATE ≠ 2 ∧ parseFrame (tReport 1 4).bytes = some (tReport 1 4) ∧
     nodeAt s 7 1 = some ⟨1, 5, 2, [127], false⟩ ∧ ((reportOf (tReport 1 4)).map (fun x => x.devId)) = some 4) ∧
    (let u : RingUnit := { RingUnit.reset with step := 9, violA := [(0, 31), (0, 31), (0, 31)] }
     let l := (0, 31) :: (u.violA.filter (fun y => 0 < y.1 + 64)).take 63
     4 ≤ l.length ∧ l.all (fun y => y.2 = 31) = true) ∧
    (let b := RING.addr .a 7
     let s := tFld [(b, RING.STATE, 3), (b, RING.AUTO_RESTART, 1)] tCyclic
     let e := schedEntry (tCyclic.setWordN (b + 0x1004) (2 ^ 15 + 2 ^ 18)) .a 7 0
     (s.ring .a 7).retryAt = some 10 ∧ ringState s .a 7 = 3 ∧ s.flag b RING.AUTO_RESTART = true ∧ 10 ≤ (s.passTime 10).tb0 ∧
     (s.passTime 9).tb0 < 10 ∧ tCyclic.flag b RING.AUTO_RESTART = false ∧ e.active 0 = false) := by decide +kernel

/-- Node 1 missing, reporting another DEV_ID and then as configured. -/
theorem test_NodeReadmit_met :
    (let s := tCyclic.setFld (NODE.addr .a 7 0) NODE.N_STATE 3
     let g := tFrameOf 6 1 ([3, 5] ++ List.replicate 7 0 ++ [1] ++ List.replicate 18 0)
     (s.ring .a 7).step = 9 ∧ s.fld (NODE.addr .a 7 0) NODE.N_STATE = 3 ∧ readmitRoom s .a 7 = true ∧ s.boot.holdup = 0 ∧
     (tReport 1 4).epoch = ringEpoch s 7 ∧ parseFrame g.bytes = some g ∧ g.node = 1 ∧ g.epoch = ringEpoch s 7 ∧
     (reportOf g).map (fun x => (x.devId, x.axes, x.level)) = some (5, 1, 2)) := by decide +kernel

theorem test_RingMailbox_met :
    (let b := RING.addr .a 7
     let f := tFrameOf 4 1 [1, 0, 7]
     let e := tFrameOf 4 1 [0, 0]
     let m : MbxTx := ⟨1, [], 0, 65⟩
     (tCyclic.setFld b RING.TX_BUSY 1).flag b RING.TX_BUSY = true ∧ tCyclic.flag b RING.TX_BUSY = false ∧ (254 : BitVec 8) ≠ 255 ∧
     (tCyclic.ring .a 7).step = 9 ∧ (State.reset.ring .a 7).step ≠ 9 ∧ parseFrame [] = none ∧ parseFrame f.bytes = some f ∧ f.typ = 4 ∧
     f.epoch = ringEpoch tCyclic 7 ∧ 2 ≤ f.body.length ∧ f.body.length ≤ 256 ∧ (List.replicate 256 (0 : Byte)).length ≤ 256 ∧ (nodeAt tCyclic 7 f.node).isSome = true ∧
     (tCyclic.ring .a 7).mbx = none ∧ parseFrame e.bytes = some e ∧ e.body.length = 2 ∧ 2 < f.body.length ∧
     bitOf (bytesAt f.body 0 1) 0 ≠ RingNode.reset.rxTog ∧ tCyclic.flag b RING.RX_READY = false ∧ 65 ≤ m.sends ∧
     ({ m with sends := 64 } : MbxTx).sends ≤ 64) := by decide +kernel

/-! The island, the bus, the ports, the start and the supply. -/

/-- An island in normal operation, with a section of these functions, pairs and connections. -/
def tIsl (f : List FuncCfg) (p : List PairCfg) (c : List ConnCfg) : State :=
  ({ State.reset with sectCfg := { SectionCfg.none with funcs := f, pairs := p, conns := c } } : State).setFld ISL.addr ISL.STATE 2

/-- A function over pairs 0 and 11, reset by contact 23. -/
def tFunc : FuncCfg := ⟨[0, 11], [], [], true, some 23, false, none, some 23, 7, true⟩

theorem test_IslandInputsAndResets_met :
    (let s := tIsl [tFunc] [] []
     let single := tIsl [] (List.replicate 12 ⟨2, none, none, 1000, 100⟩) []
     let dif := { s with isl := { s.isl with pairs := s.isl.pairs.set 11 { PairRun.reset with differs := some 0 } } }
     let press := { s with isl := { s.isl with contactsX := s.isl.contactsX.set 23 ⟨true, 0⟩, contactsY := s.isl.contactsY.set 23 ⟨true, 0⟩ } }
     let used := press.setFld ISL.addr ISL.KIND 7
     let out := { ({ s with sectCfg := { s.sectCfg with outTest := List.replicate 12 true } } : State) with
       isl := { s.isl with outs := s.isl.outs.set 23 true } }
     (contactOf s .y 23).level = false ∧ (contactOf s .x 23).level ≠ true ∧ (pairCfg single (23 / 2)).kind = 2 ∧
     (contactOf single .y 23).level ≠ true ∧ (pairRun s 11).differs = none ∧ (pairRun dif 11).differs = some 0 ∧
     (pairCfg dif 11).kind ≠ 2 ∧ (dif.passTime 100000000).isl.clk - 0 ≤ (pairCfg dif 11).disc * 1000000 ∧
     (pairCfg dif 11).disc * 1000000 < (dif.passTime 100000001).isl.clk - 0 ∧ pairFault dif 11 = 0 ∧
     s.sectCfg.outTest.getD (23 / 2) true = true ∧ s.isl.outs.getD 23 false = false ∧
     out.sectCfg.outTest.getD (23 / 2) true = true ∧ out.isl.outs.getD 23 false = true ∧ bitOf (0x7FFFFF : BitVec 24).toNat 23 = false ∧
     (∀ o, o < 24 → o ≠ 23 → out.isl.outs.getD o false = true → bitOf (0x7FFFFF : BitVec 24).toNat o = true) ∧
     (contactOf press .y 23).level = true ∧ 100000000 ≤ (press.passTime 100000000).isl.clk - (contactOf press .y 23).at_ ∧
     (press.passTime 5000000000).isl.clk - (contactOf press .y 23).at_ ≤ 5000000000 ∧
     (press.passTime 99999999).isl.clk - (contactOf press .y 23).at_ < 100000000 ∧
     5000000000 < (press.passTime 5000000001).isl.clk - (contactOf press .y 23).at_ ∧
     (let rel := contactQualify (contactQualify press .x 23 false) .y 23 false
      ((resetFuncs rel 23).any (fun f => rel.flag (ISL.addr + 4 * f) ISL.DEMAND) || (resetArms rel 23).any (fun a => (ssmRun rel a).stop)) = false) ∧
     (List.range 32).any (fun f => decide (funcKind used f = 7) && (funcCfg used f).islandReset && decide ((funcCfg used f).pairs.contains (23 / 2))) = true ∧
     (List.range 32).any (fun f => decide (funcKind State.reset f = 7) && (funcCfg State.reset f).islandReset &&
       decide ((funcCfg State.reset f).pairs.contains (23 / 2))) = false ∧
     islState (used.setFld ISL.addr ISL.STATE 3) = 3 ∧ s.isl.testing = false ∧ islState s ≠ 3 ∧
     ({ IslandUnit.reset with testing := true } : IslandUnit).testing = true) := by decide +kernel

/-- Output 23 stuck on, outputs 22 and 23 that follow each other's pulse, and a latched output fault. -/
theorem test_OutputTestPulse_met :
    (let s := tIsl [tFunc] [] []
     let out := { ({ s with sectCfg := { s.sectCfg with outTest := List.replicate 12 true } } : State) with
       isl := { s.isl with outs := s.isl.outs.set 23 true } }
     let two := { out with isl := { out.isl with outs := out.isl.outs.set 22 true } }
     bitOf (0x800000 : BitVec 24).toNat 23 = true ∧ two.sectCfg.outTest.getD (23 / 2) true = true ∧
     two.isl.outs.getD 23 false = true ∧ two.isl.outs.getD 22 false = true ∧ bitOf (0 : BitVec 24).toNat 23 = false ∧
     bitOf (0 : BitVec 24).toNat 22 = false ∧
     (∀ o, o < 24 → o ≠ 23 → o ≠ 22 → two.isl.outs.getD o false = true → bitOf (0 : BitVec 24).toNat o = true) ∧
     (∀ o, o < 24 → o ≠ 23 → out.isl.outs.getD o false = true → bitOf (0x800000 : BitVec 24).toNat o = true) ∧
     s.fld ISL.addr ISL.OUT_FAULT = 0 ∧ (s.setFld ISL.addr ISL.OUT_FAULT 1).fld ISL.addr ISL.OUT_FAULT ≠ 0) := by decide +kernel

theorem test_SafetyCycleAndTimers_met :
    (let s := tIsl [tFunc] [] []
     let fk := fun n => s.setFld ISL.addr ISL.KIND n
     let grp := fun c => { s with isl := { s.isl with groups := s.isl.groups.set 15 { GroupRun.reset with cat := some c, off := false } } }
     let arm := fun d => { s with isl := { s.isl with arms := s.isl.arms.set 15 { SsmRun.reset with stop := true, dwell := d } } }
     let ask := { s.isl with contactsX := s.isl.contactsX.set 23 ⟨true, 0⟩, contactsY := s.isl.contactsY.set 23 ⟨true, 0⟩ }
     let lock := { fk 2 with isl := { ask with funcs := s.isl.funcs.set 0 { FuncRun.reset with safeSince := some 0 } } }
     let two := { fk 3 with isl := { s.isl with pairs := s.isl.pairs.set 11 { PairRun.reset with demX := false, demY := false } } }
     s.isl.testing = false ∧ islState s ≠ 0 ∧ islState State.reset = 0 ∧
     ((groupRun (grp 2) 15).cat = some 2 ∧ (groupRun (grp 1) 15).cat = some 1 ∧ (groupRun (grp 1) 15).off = false) ∧
     (groupCfg (grp 1) 15).tSs1 * 1000000 ≤ (grp 1).isl.clk - (groupRun (grp 1) 15).since ∧
     (let c := { grp 1 with sectCfg := { s.sectCfg with groups := List.replicate 16 { (default : GroupCfg) with tSs1 := 1 } } }
      c.isl.clk - (groupRun c 15).since < (groupCfg c 15).tSs1 * 1000000) ∧
     (ssmRun s 15).dwell = none ∧ (ssmRun (arm (some 0)) 15).dwell = some 0 ∧ (ssmRun (arm (some 0)) 15).stop = true ∧
     (ssmCfg (arm (some 0)) 15).dwell * 1000000 ≤ (arm (some 0)).isl.clk - 0 ∧
     (let c := { arm (some 0) with sectCfg := { s.sectCfg with arms := List.replicate 16 { (default : SsmArmCfg) with dwell := 1 } } }
      c.isl.clk - 0 < (ssmCfg c 15).dwell * 1000000) ∧
     (funcRun s 0).safeSince = none ∧ (funcRun lock 0).safeSince = some 0 ∧ funcKind lock 0 = 2 ∧ lockSafe lock 0 = true ∧
     lockAsked lock 0 = true ∧ (funcCfg lock 0).unlockDelay * 1000000 ≤ (lock.passTime 7000000).isl.clk - 0 ∧
     (lock.passTime 6999999).isl.clk - 0 < (funcCfg lock 0).unlockDelay * 1000000 ∧ lockAsked s 0 = false ∧ funcKind two 0 = 3 ∧
     funcKind s 31 ≠ 3 ∧ pairDemands two .y 0 ≠ pairDemands two .y 11 ∧ 500000000 < (two.passTime 500000001).isl.clk - pairStamp two 11 ∧
     (two.passTime 500000000).isl.clk - pairStamp two 11 ≤ 500000000 ∧ pairDemands (fk 3) .y 0 = pairDemands (fk 3) .y 11) := by decide +kernel

theorem test_IslandSection_met :
    (let i := ISL.addr
     let sealed := State.reset
     let op := State.reset.setFld i ISL.SEAL_WE 1
     sealed.flag i ISL.SEAL_WE = false ∧ op.flag i ISL.SEAL_WE = true ∧ op.flag i ISL.LOADING = false ∧
     (op.setFld i ISL.LOADING 1).flag i ISL.LOADING = true ∧ (0 : Word).toNat = op.fld i ISL.FP_LOADED ∧
     (0xFFFFFFFF : Word).toNat ≠ op.fld i ISL.FP_LOADED ∧ storeWf 0 op.isl.staged = true ∧ 1048575 / 4 = 262143) := by decide +kernel

/-- Connection 63 receives 1 byte from a peer, or serves a drive. -/
def tConn (type : Nat) (x : ConnRun) : State :=
  ((((tIsl [] [] (List.replicate 64 ⟨0, 0, 1000, 0, 0, 1, true, 0, 0, 0, false, 0⟩)).setFld ISL.addr ISL.STATE 1).setConn 63 x).setFld
    (CONN.addr 63) CONN.TYPE type)

theorem test_SafeConnections_met :
    (let run : ConnRun := { ConnRun.reset with rxX := ⟨3, 65535, 10⟩, rxY := ⟨3, 65535, 10⟩ }
     let s := tConn 3 .reset
     let r := tConn 3 run
     let pdu := fun (s : State) q => leBytes 2 q ++ [7] ++ leBytes 4 (safeCrc (rxIdentity s 63) q [7])
     let good := fun (s : State) (b : List Byte) => bytesAt b (2 + (b.length - 6)) 4 = safeCrc (rxIdentity s 63) (bytesAt b 0 2) ((b.drop 2).take (b.length - 6))
     islState (tIsl [] [] []) = 2 ∧ islState s ≠ 2 ∧ islState s ≠ 3 ∧ connType State.reset 63 = 0 ∧ (List.replicate 5 (0 : Byte)).length < 6 ∧ connType (tConn 1 .reset) 63 = 1 ∧
     (List.replicate 13 (0 : Byte)).length - 6 ≠ 6 ∧ connType s 63 = 3 ∧ 6 ≤ (pdu s 0).length ∧ (pdu s 0).length - 6 ≤ (s.connCfg 63).lenRx ∧
     (s.connCfg 63).both = false ∧ (s.conn 63).copy = none ∧ (s.conn 63).rxY.st = 1 ∧ good s (pdu s 0) ∧ ¬good s (List.replicate 7 0) ∧
     (r.conn 63).rxY.st ≠ 1 ∧ r.isl.clk ≤ (r.conn 63).rxY.deadline ∧ good r (pdu r 0) ∧ 0 = ((r.conn 63).rxY.last + 1) % 65536 ∧
     good r (pdu r 1) ∧ 1 ≠ ((r.conn 63).rxY.last + 1) % 65536 ∧ connType r 63 ≠ 0 ∧ (r.conn 63).rxY.deadline < (r.passTime 11).isl.clk ∧
     (r.passTime 10).isl.clk ≤ (r.conn 63).rxX.deadline ∧ (tConn 1 .reset).fld (CONN.addr 63) CONN.TRANSPORT = 0 ∧
     ((tConn 1 .reset).conn 63).out = none) := by decide +kernel

theorem test_Backplane_arbiter_met :
    (let b := BPI.addr
     let arb := tFld [(b, BPI.SYSCTL, 1), (b, BPI.HANDLE16, 8), (b, BPI.HANDLE32, 128)] State.reset
     let gr := arb.setBus { arb.bus with grant := some 0 }
     let ack := fun l => arb.setBus { arb.bus with acked := some (l, 0) }
     let vec := tFld [(b, BPI.LVL16.nth 63, 4), (b, BPI.LINE32.nth 63, 8)] (State.reset.setMapBit (b + 0x200) 63 true)
     arb.flag b BPI.SYSCTL = true ∧ arb.flag b BPI.SC_CONFLICT = false ∧ arb.bus.grant = none ∧
     (arb.passTime 10000000).tb0 ≤ arb.boot.startAt + 10000000 ∧ State.reset.flag b BPI.SYSCTL = false ∧ gr.bus.grant = some 0 ∧
     0 + 2000 ≤ (gr.passTime 2000).tb0 ∧ (gr.passTime 1999).tb0 < 0 + 2000 ∧
     (busHandles arb true 7 = true ∧ bitOf (arb.fld b BPI.ASSERTED32) 7 = false) ∧ busHandles arb false 3 = true ∧
     busHandles State.reset true 7 = false ∧ bitOf ((arb.setFld b BPI.ASSERTED16 8).fld b BPI.ASSERTED16) 3 = true ∧
     (let t := fun (sel : BitVec 4) => ((arb.setFld b BPI.IACK_SEL sel.toNat).setFld b BPI.IACK_DONE 0).setFld b BPI.IACK_ERR 0
      busHandles (t 4) false (4 - 1) = true ∧ busHandles (t 15) true (15 - 8) = true ∧ busHandles (t 8) true (8 - 8) = false ∧
      (1 ≤ (4 : BitVec 4).toNat ∧ (4 : BitVec 4).toNat ≤ 4) ∧ 8 ≤ (8 : BitVec 4).toNat) ∧
     (ack 4).bus.acked = some (4, 0) ∧ ((ack 4).passTime 9999).tb0 < 0 + 10000 ∧ 0 + 10000 ≤ ((ack 4).passTime 10000).tb0 ∧
     bitOf ((ack 4).fld b BPI.ASSERTED16) (4 - 1) = false ∧ State.reset.flag b BPI.SYSRST_ACT = false ∧
     (State.reset.setFld b BPI.SYSRST_ACT 1).flag b BPI.SYSRST_ACT = true ∧ vecLowest State.reset false 3 = none ∧
     vecLowest vec false 3 = some 63 ∧ vecLowest vec true 7 = some 63 ∧ vecLowest State.reset true 7 = none) := by decide +kernel

theorem test_Backplane_windows_met :
    (let b := BPI.addr
     let s := tFld [(b, BPI.K16_EN, 1), (b, BPI.K16_BASE, 1), (b, BPI.K32_PRESENT, 1), (b, BPI.K32_EN, 1), (b, BPI.K32_BUS, 254),
       (MOD.addr, MOD.STRAPS, 31)] State.reset
     let win := s.fld b BPI.K16_BASE * 0x8000
     s.flag b BPI.K16_EN = true ∧ win ≤ (0xFFFF : BitVec 16).toNat ∧ (0xFFFF : BitVec 16).toNat < win + 0x8000 ∧
     placeOf (s.fld b (BPI.PAGE.nth ((0xFFFF - win) / 0x800)) * 4096 + 2 * ((0xFFFF - win) % 0x800)) = .bytes ∧
     (0x7FFF : BitVec 16).toNat < win ∧ State.reset.flag b BPI.K16_EN = false ∧
     (s.fld b BPI.K16_IO * 64 + 0x21 < (0xFFFF : BitVec 16).toNat) ∧
     (BitVec.ofNat 16 (s.fld b BPI.K16_IO * 64 + 0x21)).toNat = s.fld b BPI.K16_IO * 64 + 0x21 ∧
     State.reset.flag b BPI.K32_PRESENT = false ∧ s.flag b BPI.K32_PRESENT = true ∧ s.flag b BPI.K32_EN = true ∧
     (0xFEFFFFFF : Word).toNat / 0x1000000 = s.fld b BPI.K32_BUS ∧ (0xFEFFFFFF : Word).toNat < 0xFF000000 ∧
     placeOf (s.fld b BPI.K32_MOD_BASE * 0x1000000 + (0xFEFFFFFF : Word).toNat / 4 * 4 % 0x1000000) = .bytes ∧
     (0xFF1F0004 : Word).toNat / 4 * 4 = 0xFF000000 + s.fld MOD.addr MOD.STRAPS % 32 * 0x10000 + 4 ∧
     ({ BusUnit.reset with block := some (0, 64) } : BusUnit).block = some (0, 64)) ∧
    ((0xFFFFFFFC : BitVec 40).toNat % 4 = 0 ∧ inActive (0xFFFFFFFC : BitVec 40).toNat = false ∧ placeOf (0xFFFFFFFC : BitVec 40).toNat = .bytes ∧
      inActive (0x1040000000 : BitVec 40).toNat = false ∧ placeOf (0x1040000000 : BitVec 40).toNat = .nothing ∧
      outboundOff (0x210000 : BitVec 28).toNat = true ∧ outboundOff (0x2FFFFC : BitVec 28).toNat = true ∧ byBackplane .pcie = false ∧
      State.reset.bus.outs = []) ∧
    (let x : OutAcc := ⟨.pcie, commonBase + 0x210000, none, 0⟩
     let s := State.reset.setBus { BusUnit.reset with outs := [x, { x with write := some 1, m := .service }] }
     s.bus.outs = x :: [{ x with write := some 1, m := .service }] ∧ (s.passTime 99999).tb0 < x.at_ + 100000 ∧
     x.at_ + 100000 ≤ (s.passTime 100000).tb0 ∧ x.write = none ∧ ({ x with write := some 1 } : OutAcc).write ≠ none) ∧
    (let s := { tAct with hold := true, held := [⟨.pcie, activeBase + (SYS.addr .a - viewBase .a), 4, none⟩] }
     s.held = [⟨.pcie, activeBase + (SYS.addr .a - viewBase .a), 4, none⟩] ∧ State.reset.held = [] ∧ s.activeHalf = some .a ∧
     inActive (activeBase + (SYS.addr .a - viewBase .a)) = true ∧
     placeOf (viewBase .a + (activeBase + (SYS.addr .a - viewBase .a) - activeBase)) = .words) := by decide +kernel

/-- A quantity of two words and one of a single word, a snapshot held, and a low word staged. -/
theorem test_PortQuantities_met :
    (let a := SYS.addr .a + 0x108
     let d := ALARM.addr .a 15
     let snap := State.reset.setPort .pcie { PortBuf.reset with snap := some (a, 8, 7) }
     let half := State.reset.setPort .pcie { PortBuf.reset with stage := some (d, [(0, 4, 1)]) }
     placeOf a = .words ∧ quantityAt a true = (a, 8) ∧ quantityAt (a + 4) true = (a, 8) ∧ (quantityAt (SYS.addr .a) true).2 = 4 ∧
     (snap.port .pcie).snap = some (a, 8, 7) ∧ placeOf d = .words ∧ quantityAt d false = (d, 8) ∧ quantityAt (d + 4) false = (d, 8) ∧
     (State.reset.port .pcie).stage = none ∧ (half.port .pcie).stage = some (d, [(0, 4, 1)]) ∧
     (quantityAt (SYS.addr .a) false).2 = 4) := by decide +kernel

theorem test_HostPorts_met :
    (let b := BPI.addr
     let s := { (State.reset.setFld b BPI.PCIE_UP 1) with pci := { PciUnit.reset with bars := true } }
     let img := { State.reset with image := some ⟨1, false, []⟩ }
     let busy := img.setBus { BusUnit.reset with svcBusy := true }
     let req : List Byte := [1, 1, 1, 0, 7, 0, 0, 0, 0xFC, 0xFF, 0xFF, 0xFF, 0, 0, 0, 0]
     let old := img.setBus { BusUnit.reset with svc := some ⟨5, 7, 1, 0, []⟩ }
     (s.flag b BPI.PCIE_UP = true ∧ s.pci.bars = true ∧ s.pci.d3hot = false) ∧
     ¬(State.reset.flag b BPI.PCIE_UP = true ∧ State.reset.pci.bars = true ∧ State.reset.pci.d3hot = false) ∧
     ((0xFFFFFFFC : Word).toNat % 4 = 0 ∧ (0xFFFFFFFC : Word).toNat + 4 ≤ 2 ^ 32) ∧ (0xFFFC : Word).toNat < 0x10000 ∧
     strapLegacy (State.reset.setFld MOD.addr MOD.STRAPS 0x2000) = true ∧ strapLegacy s = false ∧ State.reset.flag b BPI.PCIE_UP = false ∧
     serviceOpen State.reset = false ∧ serviceOpen img = true ∧ serviceOpen busy = true ∧ busy.bus.svcBusy = true ∧ img.bus.svcBusy = false ∧
     img.bus.svc = none ∧ old.bus.svc = some ⟨5, 7, 1, 0, []⟩ ∧ bytesAt req 4 2 = 7 ∧ svcFormOk req = true ∧ svcFormOk [] = false ∧
     bytesAt req 1 1 = 1 ∧ bytesAt req 2 2 = 1 ∧ placeOf (bytesAt req 8 8) = .bytes) := by decide +kernel

theorem test_StartSequence_met :
    (let key := State.reset.setBoot { BootUnit.reset with key := some 9 }
     let go := State.reset.setFld MOD.addr MOD.STRAPS 0x1000
     State.reset.boot.holdup = 0 ∧ ({ BootUnit.reset with holdup := 4 } : BootUnit).holdup ≠ 0 ∧ Nat.max (72 : BitVec 8).toNat 0 ≤ 72 ∧
     72 < Nat.max (73 : BitVec 8).toNat 0 ∧ (0xFFF : Nat).testBit 12 = false ∧ (0x1000 : Nat).testBit 12 = true ∧ State.reset.boot.key = none ∧
     key.boot.key = some 9 ∧ State.reset.canonical = true ∧ key.canonical = true ∧
     (State.reset.fld MOD.addr MOD.STRAPS).testBit 12 = false ∧ (go.fld MOD.addr MOD.STRAPS).testBit 12 = true ∧ go.canonical = true ∧
     (raiseBoth key 11).fld MOD.addr MOD.STATE ≠ 3 ∧ (raiseBoth (key.setFld MOD.addr MOD.STATE 3) 11).fld MOD.addr MOD.STATE = 3 ∧
     State.reset.fld MOD.addr MOD.STATE ≠ 4 ∧ (State.reset.setFld MOD.addr MOD.STATE 4).fld MOD.addr MOD.STATE = 4 ∧
     State.reset.fld MOD.addr MOD.STRAPS = (0 : BitVec 14).toNat ∧ State.reset.fld MOD.addr MOD.STRAPS = Nat.xor (0x2000 : BitVec 14).toNat (2 ^ 13) ∧
     bitOf State.reset.boot.strapLogged 13 = false ∧ bitOf ({ BootUnit.reset with strapLogged := 0x2000 } : BootUnit).strapLogged 13 = true) := by
  decide +kernel

/-- The header of an image with GEN 1 and READY. -/
def tHeader : List Byte :=
  let x : List Byte := [0x4A, 0x4B, 0x45, 0x59, 1, 0, 0, 0, 0x60, 0, 0, 0, 1, 0, 0, 0]
  let crc := crc32c (x ++ List.replicate 44 0)
  x ++ [1] ++ List.replicate 23 0 ++ [1] ++ List.replicate 19 0 ++ leBytes 4 crc

/-- The key read at start is in X20, its other slot empty. -/
def tKey : State := tAct.setBoot { BootUnit.reset with key := some 0 }

theorem test_KeyAndSupply_met :
    (let k := KEY.addr
     let s := tKey
     let img := { s with image := some ⟨1, false, []⟩ }
     let rdy := img.setMemBytes (slotBase 1) tHeader
     let a := fun (off : Nat) => (s.setFld k KEY.PAGE 15).fld k KEY.PAGE * 0x1000000 + off / 4 * 4
     let com := s.setBoot { s.boot with commit := some [] }
     keyRefuses State.reset = true ∧ keyRefuses s = false ∧ s.image = none ∧ img.image ≠ none ∧ keyRefuses img = false ∧
     img.activeHalf = some .a ∧ otherReady rdy = true ∧ keyRefuses rdy = false ∧ rdy.activeHalf ≠ none ∧ otherReady img = false ∧
     (0 : Nat) / 0x8000000 ≠ otherSlot s ∧ a 0xFFFFFF / 0x8000000 = otherSlot s ∧ a 0xFFFFFF % 0x8000000 ≠ 0x10 ∧
     a 0xFFFFFF % 0x8000000 ≠ 0x28 ∧ (8 * 0x1000000 + 0x28) % 0x8000000 = 0x28 ∧ s.boot.checking = false ∧
     ({ s.boot with checking := true } : BootUnit).checking = true ∧ s.boot.commit = none ∧ com.boot.commit = some [] ∧
     (true && keySame com) = true ∧ (false && keySame com) = false ∧ com.canonical = true ∧ (otherReady rdy && keySame rdy) = true ∧
     (otherReady s && keySame s) = false) ∧
    (let p := PWR.addr
     let s := tAct
     let at_ := fun n => { s.setBoot { BootUnit.reset with holdup := n } with isl := { s.isl with holdupAt := some 0 } }
     s.boot.holdup = 0 ∧ s.boot.off = false ∧ 64 ≤ supplyVolts (putVolts s 64 0) ∧ supplyVolts (putVolts s 63 63) < 64 ∧
     (at_ 1).boot.holdup = 1 ∧ (at_ 1).canonical = true ∧ (at_ 2).boot.holdup = 2 ∧ (at_ 2).isl.holdupAt = some 0 ∧ (at_ 3).boot.holdup = 3 ∧
     (at_ 4).boot.holdup = 4 ∧ 72 < supplyVolts (putVolts (at_ 4) 73 0) ∧ supplyVolts (putVolts (at_ 4) 72 72) ≤ 72 ∧
     (s.setBoot { s.boot with supply := { s.boot.supply with ioLow := true } }).boot.supply.ioLow = true ∧ s.boot.supply.ioLow = false ∧
     bitOf (s.fld LIO.addr LIO.OW_EN) 5 = false ∧ bitOf ((s.setFld LIO.addr LIO.OW_EN 32).fld LIO.addr LIO.OW_EN) 5 = true) := by decide +kernel

/-! Worked examples of the spec: each expected number is the chapter's own. -/

/-- Chapter 1: slot position 7 in rack 3 has module number 103. -/
theorem test_example_moduleNumber :
    (applyStraps (State.reset.setFld MOD.addr MOD.STRAPS (3 * 32 + 7))).fld MOD.addr MOD.NUM = 103 := by decide +kernel

/-- Chapter 3: p_ref of an edge 50 us after 7.250 000 rev with 7.250 012 5 rev one period of 125 us later. -/
theorem test_example_homingReference :
    interpolateRef [(9, 7250000 * 2 ^ 32), (10, 7250000 * 2 ^ 32 + 125 * 2 ^ 32 / 10)] 125000 9 50000 = some (7250005 * 2 ^ 32) := by
  decide +kernel

/-- Chapter 5: D = 0.30 over 8 periods: 0.2625 at k = 1, 0.15 at 4, 0.0375 at 7, nothing at 8. -/
theorem test_example_blend :
    (let d : Nat → Int := fun k => blendPart { CeUnit.reset with blendD := 3000, blendN := 8, blendK := k }
     d 0 = 3000 ∧ d 1 = 2625 ∧ d 4 = 1500 ∧ d 7 = 375 ∧ d 8 = 0) := by decide +kernel

/-- The descriptor of chapter 6's example: CHOL_SOLVE, N = 2, K = 1, two passes, TOL 0, its operands in DRAM. -/
def tChol : List Word := [0x02020006, 0x10201, 0, 0, 0x1000, 0, 0x2000, 0, 0x3000, 0, 0x4000, 0, 0x5000, 0, 0, 0]

/-- Chapter 6: A = [[4, 2], [2, 1]], b = [2, 1]: x = [0.5, 0], residual 0, one pass, REGULARIZED with REG_ROW 1. -/
theorem test_example_singularSolve :
    (let s := (State.reset.setMemWords 0x1000 [0x40800000, 0x40000000, 0x40000000, 0x3F800000]).setMemWords 0x2000 [0x40000000, 0x3F800000]
     let t := denseProblem s .a 0 tChol 0
     t.memWords 0x3000 2 = [0x3F000000, 0] ∧ t.memN 0x5008 = 0 ∧ bitsOf (t.memN 0x5000) 15 12 = 1 ∧ bitOf (t.memN 0x5000) 5 = true ∧
     bitsOf (t.memN 0x5000) 27 16 = 1 ∧ bitOf (t.memN 0x5000) 7 = false) := by decide +kernel

/-- Chapter 6, second right-hand side: b = [2, 2] does not converge, with the residual 1.0. -/
theorem test_example_notConverged :
    (let s := (State.reset.setMemWords 0x1000 [0x40800000, 0x40000000, 0x40000000, 0x3F800000]).setMemWords 0x2000 [0x40000000, 0x40000000]
     let t := denseProblem s .a 0 tChol 0
     t.memWords 0x3000 2 = [0xC7FFFFC0, 0x48800000] ∧ t.memN 0x5008 = 0x3F800000 ∧ bitsOf (t.memN 0x5000) 15 12 = 1 ∧
     bitOf (t.memN 0x5000) 7 = true) := by decide +kernel

/-- Chapter 9: S_p of bands 2 and 6 in units of 10^-9 mm: 0.5309 m and 1.2624 m. -/
theorem test_example_protectiveDistance :
    (let k : SsmArmCfg := { (default : SsmArmCfg) with tArm := 3000, zr := 20, edges := [0, 250, 500, 750, 1000, 1500, 2000] }
     let n : SensCfg := { (default : SensCfg) with tSens := 400, c := 100, zd := 100, vh := 1600 }
     sepDistance k n 6000000 2 (1100, 35) / 100000000 = 5309 ∧ sepDistance k n 6000000 6 (3300, 350) / 100000000 = 12624) := by decide +kernel

/-- Chapter 10: safety address 181, connection 9, fingerprint 0x5A3C_91E7. -/
theorem test_example_identity :
    (let s := tFld [(ISL.addr, ISL.ADDR, 181), (ISL.addr, ISL.FP_LOADED, 0x5A3C91E7)]
       { State.reset with sectCfg := { SectionCfg.none with conns := List.replicate 10 ⟨0, 0, 0, 0, 0, 0, true, 0, 0, 0, false, 0⟩ } }
     connIdentity s 9 false = 0x2D4991E7 ∧ connIdentity s 9 true = 0x2D496E18) := by decide +kernel

/-- Chapter 11: d_A,3 = 1,835 ns and d_B,3 = 4,975 ns. -/
theorem test_example_nodeDelays :
    (let s := (tFld [(RING.addr .a 7, RING.D_A, 7400), (RING.addr .a 7, RING.D_B, 7420)] State.reset).setRing .a 7
       { RingUnit.reset with tA := 10000, tB := 40000 }
     nodeDelays s .a 7 600 513240 546380 = (1835, 4975)) := by decide +kernel

/-- Chapter 18: pages are written in two parts through K16 I/O; the second part commits. -/
theorem test_example_k16Page :
    (let s := tFld [(BPI.addr, BPI.K16_EN, 1), (BPI.addr, BPI.K16_BASE, 1)] State.reset
     let io := BitVec.ofNat 16 (s.fld BPI.addr BPI.K16_IO * 64 + 7)
     (match exec (.k16SlaveCycle true io (some 0x100)) s with
      | .next t => t.fld BPI.addr (BPI.PAGE.nth 3) * 4096
      | _ => 0) = 0x1000000000) := by decide +kernel

end Sys2Proof.Machine
end

section
/-! PROOFS. The compare instructions and the MAC family of the control cores (R306, R308, R309). -/
namespace Sys2Proof.Machine

/-! Saturation in closed form (R305, R308). -/

/-- A saturated value is a bound where the exact one lies beyond it, and the exact one elsewhere. -/
theorem satS_eq_bound (n : Nat) (i : Int) :
    satS n i = if 2 ^ (n - 1) ≤ i then 2 ^ (n - 1) - 1 else if i < -(2 ^ (n - 1)) then -(2 ^ (n - 1)) else i := by
  have hpos : (0 : Int) < 2 ^ (n - 1) := by positivity
  unfold satS clampI
  push_cast
  split_ifs <;> omega

/-- A value leaves n signed bits exactly where it lies beyond a bound. -/
theorem ovfS_eq_beyond (n : Nat) (i : Int) : ovfS n i = decide (i < -(2 ^ (n - 1)) ∨ 2 ^ (n - 1) ≤ i) := by
  have hpos : (0 : Int) < 2 ^ (n - 1) := by positivity
  unfold ovfS
  rw [satS_eq_bound, decide_eq_decide]
  split_ifs <;> omega

/-! The accumulator writes (R308). -/

/-- Accumulator n in issue order holds x saturated to 72 bits, with AOV where x left the range. -/
def CoreUnit.withAcc (c : CoreUnit) (n : Nat) (x : Int) : CoreUnit :=
  { c with accNow := c.accNow.set n (satS 72 x), aovNow := c.aovNow.set n (ovfS 72 x) }

theorem accWrite_saturated {c : CoreUnit} {n : Nat} (h : c.aovNow.getD n false = true) (x : Int) :
    accWrite c n x = (c, []) := by
  rw [accWrite, if_pos h]

theorem accWrite_clear {c : CoreUnit} {n : Nat} (h : c.aovNow.getD n false = false) (x : Int) :
    accWrite c n x = (c.withAcc n x, [⟨3, .acc n, satS 72 x, ovfS 72 x, 0⟩]) := by
  rw [accWrite, h]
  rfl

theorem accForce_eq (c : CoreUnit) (n : Nat) (x : Int) (d : Nat) :
    accForce c n x d = (c.withAcc n x, [⟨d, .acc n, satS 72 x, ovfS 72 x, 0⟩]) := rfl

/-- Settles O10: each instruction issues as its operation on the accumulators, and each accumulator write by whether the
accumulator is saturated. -/
theorem macFamilyResults : Obligations.MacFamilyResults := by
  unfold Obligations.MacFamilyResults
  constructor
  · intro h k aa ab sa sb sc sd mv s hr hm
    have issues (o : MacOp) (ab : Nat) (sc sd : Nat) :=
      congrArg (Host.Outcome.next (φ := Fault) (ρ := Refusal))
        (issue_mac (o := o) (aa := aa) (ab := ab) (sa := sa) (sb := sb) (sc := sc) (sd := sd) hr hm)
    -- Each case of macOp is, by its definition, the accumulator write that the statement names.
    exact ⟨issues .mac aa 0 0, issues .mac2 ab sc sd, issues .msu2 ab sc sd, issues .mpy2 ab sc sd,
      issues .macf2 ab sc sd, issues .msuf2 ab sc sd, issues .macsu2 ab sc sd⟩
  · intro c n x d
    simp only [← satS_eq_bound 72, ← ovfS_eq_beyond 72]
    exact ⟨fun h => accWrite_saturated h x, fun h => accWrite_clear h x, accForce_eq c n x d⟩

/-! The conditions of the compare instructions (R309). -/

/-- Bit 31 of a difference's pattern is the sign of the wrapped difference. -/
theorem bitOf_ofS_sign (d : Int) : bitOf (ofS 32 d) 31 = (BitVec.ofInt 32 d).msb := by
  rw [bitOf_eq_testBit, ofS, ← BitVec.toNat_ofInt, BitVec.testBit_toNat, BitVec.msb_eq_getLsbD_last]

theorem cmpConds_eq (a b : Word) :
    cmpConds a b =
      condBits (decide (a = b)) (BitVec.ofInt 32 (a.toInt - b.toInt)).msb (decide (b.toNat ≤ a.toNat))
        (decide (a.toInt - b.toInt < -(2 ^ 31) ∨ 2 ^ 31 ≤ a.toInt - b.toInt)) false := by
  rw [← bitOf_ofS_sign, ← ovfS_eq_beyond 32]
  rfl

theorem cmpuConds_eq (a b : Word) :
    cmpuConds a b = condBits (decide (a = b)) false (decide (b.toNat ≤ a.toNat)) false false := rfl

/-- The datum is a NaN. -/
def F32.isNaN : F32 → Bool
  | .nan _ => true
  | _ => false

/-- An unordered comparison sets U alone, an ordered one Z and N. -/
theorem fcmpConds_eq (x y : F32) :
    fcmpConds x y =
      condBits (!(x.isNaN || y.isNaN) && eqF x y) (!(x.isNaN || y.isNaN) && ltF x y) false false (x.isNaN || y.isNaN) := by
  cases x <;> cases y <;> rfl

/-- The sticky bits of FCMP: FINV where an operand is a signaling NaN, FUNF where one was a subnormal. -/
def fcmpSticky (x y : F32 × Bool) : Nat :=
  (if isSNan x.1 || isSNan y.1 then 2 ^ 6 else 0) + (if x.2 || y.2 then 2 ^ 9 else 0)

theorem aluOp_fcmp (c : CoreUnit) (cond dd sa sb : Nat) :
    aluOp c .fcmp cond dd sa sb =
      (c, [land 1 .conds (fcmpConds (c.freg sa).1 (c.freg sb).1) (fcmpSticky (c.freg sa) (c.freg sb))]) := rfl

/-- The meanings of condition codes 0 to 13, in their order, on the bits Z, N, C, V and U (R309). -/
theorem condHolds_codes (st : Nat) :
    let z := st.testBit 14
    let n := st.testBit 13
    let c := st.testBit 12
    let v := st.testBit 11
    let u := st.testBit 10
    (List.range 14).map (condHolds st) =
      [true, z, !z, decide (n ≠ v), decide (n = v), z || decide (n ≠ v), !z && decide (n = v), false, c, n && !u, !n && !u,
       u, !u, !c] := by
  simp only [← bitOf_eq_testBit, ne_eq, decide_not, ← beq_eq_decide]
  rfl

/-- SEL with a reserved condition code ends the item with fault 1 (R309, R321). -/
theorem issue_sel_reserved {s : State} {h : Half} {k : Nat} {mv : Moves} {cond dd sa sb : Nat}
    (hr : (s.core h k).runs = true) (hm : legalMoves mv = true) (hc : 14 ≤ cond) :
    issue s h k (.alu .sel cond dd sa sb) mv = coreFault s h k 1 (s.core h k).pc := by
  have hf : issueFault (s.core h k) (.alu .sel cond dd sa sb) mv = some 1 := by
    simp [issueFault, legalMoves_eq hm, hc]
  simp only [issue, hr, hf, Bool.not_true, Bool.false_eq_true, if_false]

/-- Settles O8: each compare instruction issues as its conditions; the codes are read off their table. -/
theorem coreCompares : Obligations.CoreCompares := by
  unfold Obligations.CoreCompares
  intro h k sa sb imm mv s hr hm
  have issues (o : AluOp) (ho : o ≠ .sel) (ha : addpClash (.alu o 0 0 sa sb) mv = none) :=
    congrArg (Host.Outcome.next (φ := Fault) (ρ := Refusal))
      (issue_alu (o := o) (cond := 0) (dd := 0) (sa := sa) (sb := sb) hr hm (fun hsel => absurd hsel ho) ha)
  simp only [← cmpConds_eq]
  refine ⟨issues .cmp nofun rfl, congrArg Host.Outcome.next (issue_imm (o := .cmpi) hr nofun), ?_, ?_, ?_, ?_⟩
  · rw [← cmpuConds_eq]
    exact issues .cmpu nofun rfl
  · refine ⟨fcmpSticky ((s.core h k).freg sa) ((s.core h k).freg sb), (issues .fcmp nofun rfl).trans ?_⟩
    rw [aluOp_fcmp, fcmpConds_eq]
    rfl
  · intro cond dd hc
    exact congrArg Host.Outcome.next (issue_sel_reserved hr hm hc)
  · exact condHolds_codes

end Sys2Proof.Machine
end

section
/-! PROOFS. Every command answers a next state that keeps what the stores' writes keep (R5, R24). -/
namespace Sys2Proof.Machine

/-- The command answers a next state that has P. -/
def Answers (P : State → Prop) (o : Host.Outcome State Fault Refusal) : Prop := ∃ t, o = .next t ∧ P t

/-- A fetched word that faults issues; one that is legal changes nothing. -/
theorem execIllegalInstruction_keeps {P : State → Prop} (hP : Closed P) (h : Half) (k : Fin 24) (w : BitVec 64) (s : State)
    (hs : P s) : Answers P (execIllegalInstruction h k w s) := by
  refine ⟨_, rfl, ?_⟩
  split
  · exact issue_keeps hP _ _ _ _ _ hs
  · split
    · exact issue_keeps hP _ _ _ _ _ hs
    · exact hs

theorem execCoreRegAccess_keeps {P : State → Prop} (hP : Closed P) (via : Via) (k : Fin 24) (r : BitVec 8) (w : Option Word)
    (s : State) (hs : P s) : Answers P (execCoreRegAccess via k r w s) := by
  cases w with
  | none => exact ⟨_, rfl, viaRead_keeps hP _ _ _ _ (fun _ _ hs => hs) hs⟩
  | some w => exact ⟨_, rfl, viaHalf_keeps hP _ _ _ _ _ (fun _ _ hs => coreRegWrite_keeps hP _ _ _ _ _ hs) hs⟩

/-- What the stores' writes keep, every command keeps, and every command completes. -/
theorem exec_keeps {P : State → Prop} (hP : Closed P) (c : Instr) (s : State) (hs : P s) : Answers P (exec c s) := by
  cases c with
  | nop | mac | mac2 | msu2 | mpy2 | macf2 | msuf2 | macsu2 | fma | fma2 | fms2 | fmul2 | fadd2 | fsub2 | movd | add |
    sub | adds | subs | and | or | xor | andn | shl | shr | sra | shls | min | max | minu | maxu | abs | neg | cmp |
    cmpu | sel | mul | mulh | mulq | cls | fadd | fsub | fmul | fmin | fmax | fabs | fneg | fcmp | frcpe | frsqe |
    ftoi | itof | ftoq | qtof | clra | mova | adda | suba | nega | sacr | addp | ldi | addi | andi | ori | xori |
    cmpi | shli | shri | srai | addpi | br | jr | call | ret | loop | endItem | rti | ei | di | savelp | restlp |
    clrf | movr | fld | fst | copy | waitc | haltd =>
    exact ⟨_, rfl, issue_keeps hP _ _ _ _ _ hs⟩
  | powerGood => exact ⟨_, rfl, powerGood_keeps hP _ _ _ _ _ _ _ _ hs⟩
  | keyInserted => exact ⟨_, rfl, keyInserted_keeps hP _ _ _ hs⟩
  | keyRemoved => exact ⟨_, rfl, keyRemoved_keeps hP _ hs⟩
  | hostGo => exact ⟨_, rfl, hostGo_keeps hP _ hs⟩
  | moduleReset => exact ⟨_, rfl, moduleReset_keeps hP _ _ _ hs⟩
  | halfReset => exact ⟨_, rfl, halfReset_keeps hP _ _ hs⟩
  | strapCheck => exact ⟨_, rfl, strapCheck_keeps hP _ _ hs⟩
  | syncInstant => exact ⟨_, rfl, startFinish_keeps hP _ _ (syncInstant_keeps hP _ _ hs)⟩
  | railLower => exact ⟨_, rfl, lowerRail_keeps hP _ _ hs⟩
  | governorLateRamp => exact ⟨_, rfl, govRamp_keeps hP _ _ hs⟩
  | feedbackPhaseEnd => exact ⟨_, rfl, releaseObservers_keeps hP _ _ hs⟩
  | computeWindowOpen => exact ⟨_, rfl, windowOpen_keeps hP _ _ hs⟩
  | feedForwardLate => exact ⟨_, rfl, ffLate_keeps hP _ _ _ hs⟩
  | kinematicsLate => exact ⟨_, rfl, ikLate_keeps hP _ _ _ hs⟩
  | lossOfFeedback => exact ⟨_, rfl, lossOfFeedback_keeps hP _ _ _ hs⟩
  | blendEnd => exact ⟨_, rfl, blendEnd_keeps hP _ _ _ hs⟩
  | gainBlendEnd => exact ⟨_, rfl, gainEnd_keeps hP _ _ _ hs⟩
  | brakeEngageTimeExpiry => exact ⟨_, rfl, brakeEngaged_keeps hP _ _ _ hs⟩
  | brakeReleaseTimeExpiry => exact ⟨_, rfl, brakeReleased_keeps hP _ _ _ hs⟩
  | homeTorqueReached => exact ⟨_, rfl, homeTorque_keeps hP _ _ _ hs⟩
  | ceComplete => exact ⟨_, rfl, engineDone_keeps hP _ _ _ hs⟩
  | mirrorRecordApply => exact ⟨_, rfl, mirrorApply_keeps hP _ _ hs⟩
  | moveAbs | moveRel | velocity | gear | cam | pathFollow | prfStop | prfQuickStop | home | limClear =>
    exact ⟨_, rfl, prfWrite_keeps hP _ _ _ _ _ hs⟩
  | localInputEdge =>
    exact ⟨_, rfl, standardEdge_keeps hP _ _ (standardEdge_keeps hP _ _ (inputEdge_keeps hP _ _ _ _ hs))⟩
  | fastInputEdge =>
    exact ⟨_, rfl, fastEdge_keeps hP _ _ _ _ (fastEdge_keeps hP _ _ _ _ (inputEdge_keeps hP _ _ _ _ hs))⟩
  | debounceQualify => exact ⟨_, rfl, debounce_keeps hP _ _ _ _ hs⟩
  | start | armStop | armQuickStop | resume | armAbort | clearErr => exact ⟨_, rfl, armWrite_keeps hP _ _ _ _ _ hs⟩
  | qWrWrite => exact ⟨_, rfl, viaHalf_keeps hP _ _ _ _ _ (fun _ _ hs => qwrWrite_keeps hP _ _ _ _ hs) hs⟩
  | zoneScanComplete => exact ⟨_, rfl, zoneScan_keeps hP _ _ _ _ (State.passTime_keeps hP _ _ hs)⟩
  | hoistGo =>
    exact ⟨_, rfl, viaHalf2_keeps hP _ _ _ _ _ (fun _ _ hs => hoistGo_keeps hP _ _ (State.setQuad_keeps hP _ _ _ hs)) hs⟩
  | hoistListRead => exact ⟨_, rfl, viaRead_keeps hP _ _ _ _ (fun _ _ hs => hoistRead_keeps hP _ _ _ hs) hs⟩
  | observerHoldExpiry => exact ⟨_, rfl, obsResume_keeps hP _ _ _ hs⟩
  | modeReqWrite => exact ⟨_, rfl, viaHalf_keeps hP _ _ _ _ _ (fun _ _ hs => modeWrite_keeps hP _ _ _ _ hs) hs⟩
  | gtReload | rcClear => exact ⟨_, rfl, viaHalf_keeps hP _ _ _ _ _ (fun _ _ hs => ceCommand_keeps hP _ _ _ _ hs) hs⟩
  | rcClearComplete => exact ⟨_, rfl, rcCleared_keeps hP _ _ _ hs⟩
  | learningMemoryWrite =>
    exact ⟨_, rfl, viaHalf_keeps hP _ _ _ _ _ (fun _ _ hs => learnWrite_keeps hP _ _ _ _ hs) hs⟩
  | clrMin | sysClrCnt => exact ⟨_, rfl, viaHalf_keeps hP _ _ _ _ _ (fun _ _ hs => spCtrl_keeps hP _ _ _ hs) hs⟩
  | solverSubmit => exact ⟨_, rfl, viaHalf_keeps hP _ _ _ _ _ (fun _ _ hs => solverSubmit_keeps hP _ _ _ _ hs) hs⟩
  | solverProblemComplete => exact ⟨_, rfl, solverComplete_keeps hP _ _ _ hs⟩
  | channelReset | chClrCnt =>
    exact ⟨_, rfl, viaHalf_keeps hP _ _ _ _ _ (fun _ _ hs => chCtrl_keeps hP _ _ _ _ hs) hs⟩
  | spLoad => exact ⟨_, rfl, viaHalf_keeps hP _ _ _ _ _ (fun _ _ hs => spLoad_keeps hP _ _ _ _ hs) hs⟩
  | spLoadComplete => exact ⟨_, rfl, spLoadComplete_keeps hP _ _ _ _ hs⟩
  | boundaryMessageReceive => exact ⟨_, rfl, boundaryReceive_keeps hP _ _ _ _ hs⟩
  | peerSilent => exact ⟨_, rfl, peerSilent_keeps hP _ _ _ hs⟩
  | admissionRefused => exact ⟨_, rfl, admissionRefused_keeps hP _ _ hs⟩
  | drop | govClrCnt => exact ⟨_, rfl, viaHalf_keeps hP _ _ _ _ _ (fun _ _ hs => govCmd_keeps hP _ _ _ hs) hs⟩
  | safetyCycle => exact ⟨_, rfl, safetyCycle_keeps hP _ _ _ _ _ hs⟩
  | ss1TimeExpiry => exact ⟨_, rfl, driveOutputs_keeps hP _ (ss1Expire_keeps hP _ _ hs)⟩
  | dwellExpiry => exact ⟨_, rfl, dwellExpire_keeps hP _ _ hs⟩
  | unlockDelayExpiry => exact ⟨_, rfl, unlock_keeps hP _ _ hs⟩
  | twoHandWindowExpiry => exact ⟨_, rfl, twoHandExpire_keeps hP _ _ hs⟩
  | safetyContactQualify => exact ⟨_, rfl, contactQualify_keeps hP _ _ _ _ hs⟩
  | discrepancyTimeout => exact ⟨_, rfl, discrepancy_keeps hP _ _ hs⟩
  | testPulse => exact ⟨_, rfl, testPulse_keeps hP _ _ _ hs⟩
  | outputTestPulse => exact ⟨_, rfl, outputTest_keeps hP _ _ _ hs⟩
  | resetInputRelease => exact ⟨_, rfl, resetRelease_keeps hP _ _ hs⟩
  | islandReset => exact ⟨_, rfl, islandReset_keeps hP _ _ hs⟩
  | islandSelfTestComplete => exact ⟨_, rfl, selfTestDone_keeps hP _ _ hs⟩
  | switchChange => exact ⟨_, rfl, switchChange_keeps hP _ _ _ hs⟩
  | load => exact ⟨_, rfl, rwsBy_keeps hP _ _ _ _ (fun _ => loadSection_keeps hP _) hs⟩
  | loadComplete => exact ⟨_, rfl, loadComplete_keeps hP _ hs⟩
  | fpAccept => exact ⟨_, rfl, rwsBy_keeps hP _ _ _ _ (fun _ hs => fpAccept_keeps hP _ _ hs) hs⟩
  | sectionStagingWrite => exact ⟨_, rfl, rwsBy_keeps hP _ _ _ _ (fun _ hs => stagingWrite_keeps hP _ _ _ hs) hs⟩
  | islStatusRead => exact ⟨_, rfl, State.putFlag_keeps hP _ _ _ _ (State.answer_keeps hP _ _ _ hs)⟩
  | ssmTestGo => exact ⟨_, rfl, rwsBy_keeps hP _ _ _ _ (fun _ hs => ssmTest_keeps hP _ _ hs) hs⟩
  | smsgClrCnt => exact ⟨_, rfl, rwsBy_keeps hP _ _ _ _ (fun _ => smsgClear_keeps hP _) hs⟩
  | safePduReceive => exact ⟨_, rfl, pduArrive_keeps hP _ _ _ hs⟩
  | safeWatchdogExpiry => exact ⟨_, rfl, watchdogCheck_keeps hP _ _ _ hs⟩
  | safePduSend => exact ⟨_, rfl, pduSend_keeps hP _ _ hs⟩
  | islandOvertemp => exact ⟨_, rfl, islandOverTemp_keeps hP _ hs⟩
  | scheduleEntryLaunch => exact ⟨_, rfl, launchEntry_keeps hP _ _ _ _ hs⟩
  | replyReceive => exact ⟨_, rfl, replyReceive_keeps hP _ _ _ _ _ _ hs⟩
  | slotViolation => exact ⟨_, rfl, slotViolation_keeps hP _ _ _ _ _ hs⟩
  | nodeMissing => exact ⟨_, rfl, nodeMissing_keeps hP _ _ _ _ hs⟩
  | ringLost => exact ⟨_, rfl, ringLost_keeps hP _ _ _ hs⟩
  | ringAutoRestart => exact ⟨_, rfl, ringAuto_keeps hP _ _ _ hs⟩
  | ringLinkDown => exact ⟨_, rfl, linkDown_keeps hP _ _ _ _ hs⟩
  | ringLinkUp => exact ⟨_, rfl, linkUp_keeps hP _ _ _ _ _ hs⟩
  | channelReturn => exact ⟨_, rfl, channelReturn_keeps hP _ _ _ _ hs⟩
  | nodeReadmit => exact ⟨_, rfl, nodeReadmit_keeps hP _ _ _ _ _ _ _ hs⟩
  | ringStart | ringStop | restart | ringClrCnt | chClr => exact ⟨_, rfl, ringWrite_keeps hP _ _ _ _ _ hs⟩
  | claimReceive => exact ⟨_, rfl, claimReceive_keeps hP _ _ _ _ _ _ _ hs⟩
  | claimTimeout => exact ⟨_, rfl, claimTimeout_keeps hP _ _ _ hs⟩
  | claimBackoffExpiry => exact ⟨_, rfl, claimAgain_keeps hP _ _ _ hs⟩
  | enumReturn => exact ⟨_, rfl, enumReturn_keeps hP _ _ _ _ hs⟩
  | measureReturn => exact ⟨_, rfl, measureReturn_keeps hP _ _ _ _ _ _ hs⟩
  | reportReceive => exact ⟨_, rfl, reportReceive_keeps hP _ _ _ _ hs⟩
  | startStepTimeout => exact ⟨_, rfl, stepTimeout_keeps hP _ _ _ hs⟩
  | ringRunning => exact ⟨_, rfl, ringRunning_keeps hP _ _ _ hs⟩
  | mbxSend | rxAck => exact ⟨_, rfl, mbxWrite_keeps hP _ _ _ _ hs⟩
  | mbxReceive => exact ⟨_, rfl, mbxReceive_keeps hP _ _ _ _ hs⟩
  | mbxTxFail => exact ⟨_, rfl, mbxFail_keeps hP _ _ _ hs⟩
  | farAccessComplete => exact ⟨_, rfl, farAccess_keeps hP _ _ _ _ hs⟩
  | copyComplete => exact ⟨_, rfl, copyComplete_keeps hP _ _ _ _ hs⟩
  | urgentInterruptEntry => exact ⟨_, rfl, urgentEntry_keeps hP _ _ _ hs⟩
  | workItemEnd => exact ⟨_, rfl, itemEnd_keeps hP _ _ _ (State.passTime_keeps hP _ _ hs)⟩
  | argPrefetchComplete => exact ⟨_, rfl, prefetchDone_keeps hP _ _ _ _ hs⟩
  | halt => exact ⟨_, rfl, viaHalf_keeps hP _ _ _ _ _ (fun _ _ hs => haltWrite_keeps hP _ _ _ _ hs) hs⟩
  | coreStep => exact ⟨_, rfl, viaHalf_keeps hP _ _ _ _ _ (fun _ _ hs => stepCore_keeps hP _ _ _ hs) hs⟩
  | post => exact ⟨_, rfl, viaHalf_keeps hP _ _ _ _ _ (fun _ _ hs => postWrite_keeps hP _ _ _ hs) hs⟩
  | deadlineAbandon =>
    exact ⟨_, rfl, keeps_ite (abandonWork_keeps hP _ _ _ (abandonItem_keeps hP _ _ _ hs)) (abandonItem_keeps hP _ _ _ hs)⟩
  | traceFreeze => exact ⟨_, rfl, freezeTrace_keeps hP _ _ hs⟩
  | trClear => exact ⟨_, rfl, viaHalf_keeps hP _ _ _ _ _ (fun _ _ hs => traceWrite_keeps hP _ _ _ hs) hs⟩
  | descriptorWrite => exact ⟨_, rfl, viaHalf_keeps hP _ _ _ _ _ (fun _ _ hs => descWrite_keeps hP _ _ _ _ _ hs) hs⟩
  | evtLostRead =>
    exact ⟨_, rfl, viaRead_keeps hP _ _ _ _ (fun _ _ hs => by dsimp only; exact State.setFld_keeps hP _ _ _ _ hs) hs⟩
  | ptpMessageReceive => exact ⟨_, rfl, waitLocked_keeps hP _ _ (ptpReceive_keeps hP _ _ _ _ hs)⟩
  | tbLockLoss => exact ⟨_, rfl, lockLoss_keeps hP _ _ _ hs⟩
  | ofsInSample =>
    exact ⟨_, rfl, viaHalf2_keeps hP _ _ _ _ _ (fun _ _ hs => waitLocked_keeps hP _ _ (softSample_keeps hP _ _ _ _ hs)) hs⟩
  | tbSet | tbStamp => exact ⟨_, rfl, viaHalf_keeps hP _ _ _ _ _ (fun _ _ hs => tbCmd_keeps hP _ _ _ _ hs) hs⟩
  | tbRateWrite => exact ⟨_, rfl, viaHalf2_keeps hP _ _ _ _ _ (fun _ _ hs => rateWrite_keeps hP _ _ _ _ hs) hs⟩
  | align => exact ⟨_, rfl, viaHalf_keeps hP _ _ _ _ _ (fun _ _ hs => alignWrite_keeps hP _ _ _ hs) hs⟩
  | returnToPrimary => exact ⟨_, rfl, returnPrimary_keeps hP _ _ hs⟩
  | startWaitExpiry => exact ⟨_, rfl, waitExpired_keeps hP _ _ hs⟩
  | timeAlarm => exact ⟨_, rfl, alarmDue_keeps hP _ _ _ hs⟩
  | alarmEnable => exact ⟨_, rfl, viaHalf_keeps hP _ _ _ _ _ (fun _ _ hs => alarmWrite_keeps hP _ _ _ _ hs) hs⟩
  | referenceSwitchToMonitor => exact ⟨_, rfl, monitorSwitch_keeps hP _ hs⟩
  | selfTestCycle => exact ⟨_, rfl, selfTestCycle_keeps hP _ _ _ hs⟩
  | heartbeatMissing => exact ⟨_, rfl, heartbeatMissing_keeps hP _ _ hs⟩
  | railFault => exact ⟨_, rfl, penTrigger_keeps hP _ _ _ hs⟩
  | fatalFault => exact ⟨_, rfl, fatalFault_keeps hP _ _ hs⟩
  | activeViewHoldRelease => exact ⟨_, rfl, holdRelease_keeps hP _ hs⟩
  | arbiterSelfCheckFail => exact ⟨_, rfl, arbiterFail_keeps hP _ hs⟩
  | swap | rehearse | penClrCnt => exact ⟨_, rfl, penCmd_keeps hP _ _ hs⟩
  | commandedSwapDue => exact ⟨_, rfl, swapNow_keeps hP _ hs⟩
  | rehearsalEnd => exact ⟨_, rfl, rehearsalEnd_keeps hP _ hs⟩
  | rackPennantTake => exact ⟨_, rfl, rackTake_keeps hP _ _ hs⟩
  | pairLinkFrameReceive => exact ⟨_, rfl, pairReceive_keeps hP _ _ _ _ hs⟩
  | pairLaneDown => exact ⟨_, rfl, laneDown_keeps hP _ _ hs⟩
  | txRequest => exact ⟨_, rfl, viaHalf_keeps hP _ _ _ _ _ (fun _ _ hs => txCtrl_keeps hP _ _ _ _ _ _ hs) hs⟩
  | txAbort => exact ⟨_, rfl, viaHalf_keeps hP _ _ _ _ _ (fun _ _ hs => txAbort_keeps hP _ _ _ _ _ hs) hs⟩
  | canTxAttemptEnd => exact ⟨_, rfl, txAttemptEnd_keeps hP _ _ _ _ _ _ hs⟩
  | txDeadlineAbort => exact ⟨_, rfl, txDeadline_keeps hP _ _ _ _ hs⟩
  | canFrameReceive => exact ⟨_, rfl, canReceive_keeps hP _ _ _ _ _ hs⟩
  | canError => exact ⟨_, rfl, canError_keeps hP _ _ _ _ hs⟩
  | alone => exact ⟨_, rfl, canAlone_keeps hP _ _ _ hs⟩
  | integrationComplete => exact ⟨_, rfl, canIntegrated_keeps hP _ _ _ hs⟩
  | recoveryComplete => exact ⟨_, rfl, canRecovered_keeps hP _ _ _ hs⟩
  | recover | releaseMb | canClrCnt =>
    exact ⟨_, rfl, viaHalf_keeps hP _ _ _ _ _ (fun _ _ hs => canCmd_keeps hP _ _ _ _ hs) hs⟩
  | canModeRequest => exact ⟨_, rfl, viaHalf_keeps hP _ _ _ _ _ (fun _ _ hs => canCtrl_keeps hP _ _ _ _ hs) hs⟩
  | mailboxHeadRead => exact ⟨_, rfl, viaRead_keeps hP _ _ _ _ (fun _ _ hs => mailboxHead_keeps hP _ _ _ _ hs) hs⟩
  | mailboxLastWordRead =>
    exact ⟨_, rfl, viaRead_keeps hP _ _ _ _ (fun _ _ hs => mailboxRead_keeps hP _ _ _ _ _ hs) hs⟩
  | cqAck => exact ⟨_, rfl, viaHalf_keeps hP _ _ _ _ _ (fun _ _ hs => cqAck_keeps hP _ _ _ _ hs) hs⟩
  | polaritySwapped => exact ⟨_, rfl, canSwapped_keeps hP _ _ _ hs⟩
  | stuckDom => exact ⟨_, rfl, canStuck_keeps hP _ _ _ hs⟩
  | armRecord | disarm | force | clear =>
    exact ⟨_, rfl, viaHalf_keeps hP _ _ _ _ _ (fun _ _ hs => recCmd_keeps hP _ _ _ _ hs) hs⟩
  | disarmTakeEffect => exact ⟨_, rfl, disarmNow_keeps hP _ _ _ hs⟩
  | recordRearm => exact ⟨_, rfl, recordRearm_keeps hP _ _ _ hs⟩
  | clrLog | acqClrCnt => exact ⟨_, rfl, viaHalf_keeps hP _ _ _ _ _ (fun _ _ hs => acqCtrl_keeps hP _ _ _ hs) hs⟩
  | triggerInputEdge => exact ⟨_, rfl, triggerEdge_keeps hP _ _ _ _ _ (triggerEdge_keeps hP _ _ _ _ _ hs)⟩
  | halyardEdge =>
    exact ⟨_, rfl, halyardEdge_keeps hP _ _ _ _ _ (halyardEdge_keeps hP _ _ _ _ _ (State.setFld_keeps hP _ _ _ _ hs))⟩
  | halyardPulseEnd => exact ⟨_, rfl, hlDriveOff_keeps hP _ _ hs⟩
  | hlPulse => exact ⟨_, rfl, hlPulse_keeps hP _ _ hs⟩
  | remoteTriggerReceive => exact ⟨_, rfl, remoteReceive_keeps hP _ _ _ hs⟩
  | k16SlaveCycle => exact ⟨_, rfl, k16Cycle_keeps hP _ _ _ _ hs⟩
  | k32SlaveCycle => exact ⟨_, rfl, k32Access_keeps hP _ _ _ hs⟩
  | k32BlockBeat => exact ⟨_, rfl, blockBeat_keeps hP _ _ _ _ hs⟩
  | k16IackCycle | k32IackCycle => exact ⟨_, rfl, iackCycle_keeps hP _ _ _ hs⟩
  | outboundAccess => exact ⟨_, rfl, outboundAccess_keeps hP _ _ _ _ hs⟩
  | busGrantTimeout => exact ⟨_, rfl, grantTimeout_keeps hP _ hs⟩
  | busRequest => exact ⟨_, rfl, busRequest_keeps hP _ _ _ hs⟩
  | grantLost => exact ⟨_, rfl, grantLost_keeps hP _ hs⟩
  | busTimerExpiry => exact ⟨_, rfl, busTimer_keeps hP _ _ _ _ _ hs⟩
  | foreignArbiterDetected => exact ⟨_, rfl, foreignArbiter_keeps hP _ hs⟩
  | interruptAsserted => exact ⟨_, rfl, keeps_ite hs (interruptAsserted_keeps hP _ _ _ _ hs)⟩
  | iack => exact ⟨_, rfl, iackWrite_keeps hP _ _ _ hs⟩
  | iackReassert => exact ⟨_, rfl, iackReassert_keeps hP _ hs⟩
  | sysrstReceive => exact ⟨_, rfl, sysrstReceive_keeps hP _ _ _ hs⟩
  | sysrstOut => exact ⟨_, rfl, sysrstOut_keeps hP _ hs⟩
  | bpiClrCnt => exact ⟨_, rfl, bpiClrCnt_keeps hP _ hs⟩
  | doorbell => exact ⟨_, rfl, doorbell_keeps hP _ _ hs⟩
  | vecPendClear => exact ⟨_, rfl, vecPendClear_keeps hP _ _ hs⟩
  | pcieRequest => exact ⟨_, rfl, pcieRequest_keeps hP _ _ _ _ _ _ hs⟩
  | pcieReset => exact ⟨_, rfl, pcieReset_keeps hP _ _ _ hs⟩
  | serviceRequest => exact ⟨_, rfl, serviceRequest_keeps hP _ _ _ hs⟩
  | snapshotRead | registerWrite => exact ⟨_, rfl, masterAccess_keeps hP _ _ _ _ _ hs⟩
  | stageDone => exact ⟨_, rfl, stageDone_keeps hP _ hs⟩
  | stageCheckComplete => exact ⟨_, rfl, stageChecked_keeps hP _ hs⟩
  | commit => exact ⟨_, rfl, commitStart_keeps hP _ hs⟩
  | commitComplete => exact ⟨_, rfl, commitDone_keeps hP _ _ hs⟩
  | stageCancel => exact ⟨_, rfl, stageCancel_keeps hP _ hs⟩
  | keyWindowWrite => exact ⟨_, rfl, keyWrite_keeps hP _ _ _ hs⟩
  | brownOut => exact ⟨_, rfl, brownOut_keeps hP _ _ _ hs⟩
  | holdupStandbyOff => exact ⟨_, rfl, holdupStandby_keeps hP _ hs⟩
  | holdupOutputsOff => exact ⟨_, rfl, holdupOutputs_keeps hP _ hs⟩
  | holdupSafeOutputsOff => exact ⟨_, rfl, holdupSafe_keeps hP _ hs⟩
  | holdupEnd => exact ⟨_, rfl, holdupEnd_keeps hP _ _ _ _ _ _ hs⟩
  | supplyReturn => exact ⟨_, rfl, supplyReturn_keeps hP _ _ _ hs⟩
  | supplyReversed => exact ⟨_, rfl, supplyReversed_keeps hP _ _ hs⟩
  | ioSupplyLow => exact ⟨_, rfl, ioLow_keeps hP _ hs⟩
  | outputOverload => exact ⟨_, rfl, outputOverload_keeps hP _ _ hs⟩
  | openWire => exact ⟨_, rfl, openWire_keeps hP _ _ hs⟩
  | tempWarning => exact ⟨_, rfl, tempWarning_keeps hP _ _ hs⟩
  | tempFatal => exact ⟨_, rfl, tempFatal_keeps hP _ _ hs⟩
  | ioSupplyReturn => exact ⟨_, rfl, ioReturn_keeps hP _ hs⟩
  | temperatureFall => exact ⟨_, rfl, tempFall_keeps hP _ _ hs⟩
  | busRecessiveAgain => exact ⟨_, rfl, canUnstuck_keeps hP _ _ _ hs⟩
  | pcieLinkStateChange => exact ⟨_, rfl, pcieLink_keeps hP _ _ _ _ _ hs⟩
  | busGrantAtBgin => exact ⟨_, rfl, grantArrives_keeps hP _ _ hs⟩
  | illegalInstruction => exact execIllegalInstruction_keeps hP _ _ _ _ hs
  | coreRegAccess => exact execCoreRegAccess_keeps hP _ _ _ _ _ hs

/-- The queue is no part of the canonical form. -/
theorem State.withPending_canonical (s : State) (q : List Instr) : (s.withPending q).canonical = s.canonical := rfl

theorem step_keeps_canonical {s t : State} (hs : s.canonical = true) (ht : step s = .next t) : t.canonical = true := by
  unfold step at ht
  split at ht
  · obtain rfl := Host.Outcome.next.inj ht
    exact State.passTime_keeps canonical_closed s 1 hs
  next c rest _ =>
    obtain ⟨u, hu, hc⟩ := exec_keeps canonical_closed c (s.withPending rest) ((s.withPending_canonical rest).trans hs)
    obtain rfl := Host.Outcome.next.inj (hu.symm.trans ht)
    exact hc

/-- Settles O4: by the closed properties of KeepsBase, command by command. -/
theorem stepKeepsCanonical : Obligations.StepKeepsCanonical := fun _ _ hs ht => step_keeps_canonical hs ht

/-- Settles O5: the queue that waits is one of the closed properties. -/
theorem commandsCompleteAndKeepQueue : Obligations.CommandsCompleteAndKeepQueue :=
  fun c s => exec_keeps (pending_closed s.pending) c s rfl

end Sys2Proof.Machine
end

section
/-! PROOFS. Rules of the state's operations: what a half, a unit and a register read after an update. -/
namespace Sys2Proof.Machine

variable (s : State)

/-! A half reads as before after a write of registers or of memory. -/

@[simp] theorem State.setWord_half (a : Nat) (w : Word) (h : Half) : (s.setWord a w).half h = s.half h :=
  State.half_congr (s.setWord_halfA a w) (s.setWord_halfB a w) h
@[simp] theorem State.setWordN_half (a v : Nat) (h : Half) : (s.setWordN a v).half h = s.half h :=
  State.half_congr (s.setWordN_halfA a v) (s.setWordN_halfB a v) h
@[simp] theorem State.setQuad_half (a v : Nat) (h : Half) : (s.setQuad a v).half h = s.half h :=
  State.half_congr (s.setQuad_halfA a v) (s.setQuad_halfB a v) h
@[simp] theorem State.setFld_half (b : Nat) (f : Fld) (v : Nat) (h : Half) : (s.setFld b f v).half h = s.half h :=
  State.half_congr (s.setFld_halfA b f v) (s.setFld_halfB b f v) h
@[simp] theorem State.setFldS_half (b : Nat) (f : Fld) (i : Int) (h : Half) : (s.setFldS b f i).half h = s.half h :=
  State.half_congr (s.setFldS_halfA b f i) (s.setFldS_halfB b f i) h
@[simp] theorem State.setFlag_half (b : Nat) (f : Fld) (h : Half) : (s.setFlag b f).half h = s.half h :=
  State.half_congr (s.setFlag_halfA b f) (s.setFlag_halfB b f) h
@[simp] theorem State.putFlag_half (b : Nat) (f : Fld) (x : Bool) (h : Half) : (s.putFlag b f x).half h = s.half h :=
  State.half_congr (s.putFlag_halfA b f x) (s.putFlag_halfB b f x) h
@[simp] theorem State.countBy_half (b : Nat) (f : Fld) (n : Nat) (h : Half) : (s.countBy b f n).half h = s.half h :=
  State.half_congr (s.countBy_halfA b f n) (s.countBy_halfB b f n) h
@[simp] theorem State.count_half (b : Nat) (f : Fld) (h : Half) : (s.count b f).half h = s.half h :=
  State.half_congr (s.count_halfA b f) (s.count_halfB b f) h
@[simp] theorem State.resetRegs_half (lo n : Nat) (h : Half) : (s.resetRegs lo n).half h = s.half h :=
  State.half_congr (s.resetRegs_halfA lo n) (s.resetRegs_halfB lo n) h
@[simp] theorem State.setMapBit_half (a i : Nat) (x : Bool) (h : Half) : (s.setMapBit a i x).half h = s.half h :=
  State.half_congr (s.setMapBit_halfA a i x) (s.setMapBit_halfB a i x) h
@[simp] theorem State.setByte_half (a : Nat) (v : Byte) (h : Half) : (s.setByte a v).half h = s.half h :=
  State.half_congr (s.setByte_halfA a v) (s.setByte_halfB a v) h
@[simp] theorem State.setMemWord_half (a : Nat) (w : Word) (h : Half) : (s.setMemWord a w).half h = s.half h :=
  State.half_congr (s.setMemWord_halfA a w) (s.setMemWord_halfB a w) h
@[simp] theorem State.setMemN_half (a v : Nat) (h : Half) : (s.setMemN a v).half h = s.half h :=
  State.half_congr (s.setMemN_halfA a v) (s.setMemN_halfB a v) h
@[simp] theorem State.setMemQuad_half (a v : Nat) (h : Half) : (s.setMemQuad a v).half h = s.half h :=
  State.half_congr (s.setMemQuad_halfA a v) (s.setMemQuad_halfB a v) h

@[simp] theorem State.flagIf_half (c : Bool) (b : Nat) (f : Fld) (h : Half) : (s.flagIf c b f).half h = s.half h := by
  cases c
  · rfl
  · exact s.setFlag_half b f h

@[simp] theorem State.countIf_half (c : Bool) (b : Nat) (f : Fld) (h : Half) : (s.countIf c b f).half h = s.half h := by
  cases c
  · rfl
  · exact s.count_half b f h

/-! A core after an update. -/

theorem State.core_congr {s t : State} {h : Half} (e : t.half h = s.half h) (k : Nat) : t.core h k = s.core h k := by
  unfold State.core
  rw [e]

@[simp] theorem State.setCore_half_other {h g : Half} (k : Nat) (c : CoreUnit) (n : g ≠ h) :
    (s.setCore h k c).half g = s.half g := State.half_onHalf_other s _ n

@[simp] theorem State.setCore_cores (h : Half) (k : Nat) (c : CoreUnit) :
    ((s.setCore h k c).half h).cores = (s.half h).cores.set k c := by
  unfold State.setCore
  rw [State.half_onHalf_same]

theorem State.core_setCore_same {h : Half} {k : Nat} (c : CoreUnit) (hk : k < (s.half h).cores.length) :
    (s.setCore h k c).core h k = c := by
  unfold State.core
  rw [State.setCore_cores]
  exact unitAt_set_same _ _ _ hk

theorem State.core_setCore_other {h : Half} {k j : Nat} (c : CoreUnit) (n : j ≠ k) :
    (s.setCore h k c).core h j = s.core h j := by
  unfold State.core
  rw [State.setCore_cores]
  exact unitAt_set_other _ _ _ n.symm

/-- A second write of a core replaces the first. -/
@[simp] theorem State.setCore_setCore (h : Half) (k : Nat) (c c' : CoreUnit) :
    (s.setCore h k c).setCore h k c' = s.setCore h k c' := by
  cases h <;> simp only [State.setCore, State.onHalf, State.setHalf, State.half, List.set_set]

/-- Writing a core's own value changes nothing. -/
theorem State.setCore_self (h : Half) (k : Nat) : s.setCore h k (s.core h k) = s := by
  have hset : ∀ l : List CoreUnit, l.set k (unitAt .reset l k) = l := by
    intro l
    unfold unitAt
    by_cases hk : k < l.length
    · rw [List.getD_eq_getElem _ _ hk, List.set_getElem_self]
    · exact List.set_eq_of_length_le (by omega)
  cases h <;> simp only [State.setCore, State.onHalf, State.setHalf, State.half, State.core, hset]

@[simp] theorem State.setWordN_core (a v : Nat) (h : Half) (k : Nat) : (s.setWordN a v).core h k = s.core h k :=
  State.core_congr (s.setWordN_half a v h) k

@[simp] theorem State.setQuad_core (a v : Nat) (h : Half) (k : Nat) : (s.setQuad a v).core h k = s.core h k :=
  State.core_congr (s.setQuad_half a v h) k

@[simp] theorem State.setFld_core (b : Nat) (f : Fld) (v : Nat) (h : Half) (k : Nat) :
    (s.setFld b f v).core h k = s.core h k :=
  State.core_congr (s.setFld_half b f v h) k

@[simp] theorem State.setFlag_core (b : Nat) (f : Fld) (h : Half) (k : Nat) : (s.setFlag b f).core h k = s.core h k :=
  State.core_congr (s.setFlag_half b f h) k

@[simp] theorem State.countBy_core (b : Nat) (f : Fld) (n : Nat) (h : Half) (k : Nat) :
    (s.countBy b f n).core h k = s.core h k :=
  State.core_congr (s.countBy_half b f n h) k

@[simp] theorem State.countIf_core (c : Bool) (b : Nat) (f : Fld) (h : Half) (k : Nat) :
    (s.countIf c b f).core h k = s.core h k :=
  State.core_congr (s.countIf_half c b f h) k

/-! A register after a write elsewhere. -/

theorem State.word_setWordN_other {a x : Nat} (v : Nat) (n : x ≠ a) : (s.setWordN a v).word x = s.word x :=
  s.word_setWord_other _ n

theorem State.word_setQuad_other {a x : Nat} (v : Nat) (n : x ≠ a) (n' : x ≠ a + 4) :
    (s.setQuad a v).word x = s.word x := by
  unfold State.setQuad
  rw [State.word_setWordN_other _ _ n', State.word_setWordN_other _ _ n]

@[simp] theorem State.setCore_word (h : Half) (k : Nat) (c : CoreUnit) (a : Nat) : (s.setCore h k c).word a = s.word a :=
  State.word_congr (s.setCore_regs h k c) (s.setCore_image h k c) (s.setCore_sect h k c) a

@[simp] theorem State.setCore_quad (h : Half) (k : Nat) (c : CoreUnit) (a : Nat) : (s.setCore h k c).quad a = s.quad a := by
  simp only [State.quad, State.wordN, State.setCore_word]

@[simp] theorem State.setCore_fld (h : Half) (k : Nat) (c : CoreUnit) (b : Nat) (f : Fld) :
    (s.setCore h k c).fld b f = s.fld b f :=
  State.fld_congr (s.setCore_regs h k c) (s.setCore_image h k c) (s.setCore_sect h k c) b f

/-- A field of one word is a function of that word. -/
theorem State.fld_of_word {s t : State} {b : Nat} {f : Fld} (hf : f.hi < 32) (e : t.word (b + f.off) = s.word (b + f.off)) :
    t.fld b f = s.fld b f := by
  unfold State.fld State.wordN
  rw [if_pos hf, if_pos hf, e]

theorem State.flag_of_fld {s t : State} {b : Nat} {f : Fld} (e : t.fld b f = s.fld b f) : t.flag b f = s.flag b f := by
  unfold State.flag
  rw [e]

@[simp] theorem State.countIf_false (b : Nat) (f : Fld) : s.countIf false b f = s := rfl

@[simp] theorem State.countIf_true (b : Nat) (f : Fld) : s.countIf true b f = s.count b f := rfl

@[simp] theorem State.flagIf_false (b : Nat) (f : Fld) : s.flagIf false b f = s := rfl

@[simp] theorem State.flagIf_true (b : Nat) (f : Fld) : s.flagIf true b f = s.setFlag b f := rfl

/-! The scheduler's updates and the trace leave the cores as they are. -/

theorem State.setSched_cores (h : Half) (u : SchedUnit) (g : Half) : ((s.setSched h u).half g).cores = (s.half g).cores := by
  cases h <;> cases g <;> rfl

@[simp] theorem State.setSched_core (h : Half) (u : SchedUnit) (g : Half) (k : Nat) :
    (s.setSched h u).core g k = s.core g k := by
  unfold State.core
  rw [State.setSched_cores]

@[simp] theorem traceEntry_core (h : Half) (item core reason detail : Nat) (g : Half) (k : Nat) :
    (traceEntry s h item core reason detail).core g k = s.core g k := by
  unfold traceEntry
  split
  · rfl
  · dsimp only
    split <;> simp only [State.setSched_core, State.setFld_core, State.setWordN_core, State.setQuad_core]


end Sys2Proof.Machine
end

section
/-! PROOFS. The integer, immediate and accumulator instructions of the control cores (R305 to R308, R323). -/
namespace Sys2Proof.Machine

/-! Rounded shifts and saturation (R305, R307). -/

/-- A rounded shift adds half of the last place and takes the floor. -/
theorem shiftUp_eq (a : Int) (sh : Nat) : shiftUp a sh = (a * 2 + 2 ^ sh) / (2 * 2 ^ sh) := by
  unfold shiftUp divUp
  split
  next h => subst h; omega
  next => push_cast; rfl

/-- The rounded Q31 product of two words, before saturation. -/
theorem shiftUp_31 (p : Int) : shiftUp p 31 = (p + 2 ^ 30) / 2 ^ 31 := by
  rw [shiftUp_eq]
  omega

theorem word_toInt_mul_bounds (a b : Word) : -(2 ^ 62) ≤ a.toInt * b.toInt ∧ a.toInt * b.toInt ≤ 2 ^ 62 := by
  have ha := a.toInt_lt
  have ha' := a.le_toInt
  have hb := b.toInt_lt
  have hb' := b.le_toInt
  norm_num at ha ha' hb hb' ⊢
  constructor <;> nlinarith

/-- A Q31 product leaves 32 bits only at the top, where both operands are -1. -/
theorem satS_mulq {q : Int} (hl : -(2 ^ 31) ≤ q) (hu : q ≤ 2 ^ 31) : satS 32 q = if 2 ^ 31 ≤ q then 2 ^ 31 - 1 else q := by
  rw [satS_eq_bound]
  split_ifs <;> omega

theorem isatBit_mulq {q : Int} (hl : -(2 ^ 31) ≤ q) (hu : q ≤ 2 ^ 31) :
    isatBit (ovfS 32 q) = if 2 ^ 31 ≤ q then 2 ^ 5 else 0 := by
  rw [isat_eq, satS_mulq hl hu]
  split_ifs <;> omega

theorem natAbs_eq_neg_or_self (i : Int) : (if i < 0 then -i else i) = (i.natAbs : Int) := by
  split <;> omega

/-- Settles O6: each instruction issues as its operation; its result is read off the operation's table. -/
theorem coreWordResults : Obligations.CoreWordResults := by
  unfold Obligations.CoreWordResults
  constructor
  · intro h k dd sa sb mv s hr hm c a b out sat
    have issues (o : AluOp) (sb : Nat) (ho : o ≠ .sel) (ha : addpClash (.alu o 0 dd.val sa.val sb) mv = none) :=
      congrArg (Host.Outcome.next (φ := Fault) (ρ := Refusal)) (issue_alu (cond := 0) hr hm (fun hsel => absurd hsel ho) ha)
    have saturates (i : Int) : [land 1 (.d (physD c dd.val)) (satS 32 i) (isatBit (ovfS 32 i))] = sat1 c dd i := by
      rw [isat_eq]; rfl
    simp only [out, sat, ← saturates, ← natAbs_eq_neg_or_self]
    refine ⟨issues .movd 0 nofun rfl, issues .add sb nofun rfl, issues .sub sb nofun rfl, issues .and sb nofun rfl,
      issues .or sb nofun rfl, issues .xor sb nofun rfl, issues .andn sb nofun rfl, issues .shl sb nofun rfl,
      issues .shr sb nofun rfl, issues .sra sb nofun rfl, issues .min sb nofun rfl, issues .max sb nofun rfl,
      issues .minu sb nofun rfl, issues .maxu sb nofun rfl, issues .fabs 0 nofun rfl, issues .fneg 0 nofun rfl,
      issues .cls 0 nofun rfl, issues .adds sb nofun rfl, issues .subs sb nofun rfl, (issues .shls sb nofun rfl).trans ?_,
      issues .abs 0 nofun rfl, issues .neg 0 nofun rfl, ?_⟩
    · push_cast [aluOp]; rfl
    · intro cond hc
      exact congrArg Host.Outcome.next (issue_alu (o := .sel) hr hm (fun _ => hc) rfl)
  · intro h k dd sa sb mv s hr hm c p q
    have issues (o : AluOp) (ho : o ≠ .sel) (ha : addpClash (.alu o 0 dd.val sa.val sb.val) mv = none) :=
      congrArg (Host.Outcome.next (φ := Fault) (ρ := Refusal)) (issue_alu (cond := 0) hr hm (fun hsel => absurd hsel ho) ha)
    have hp : -(2 ^ 62) ≤ p ∧ p ≤ 2 ^ 62 := word_toInt_mul_bounds (c.dreg sa.val) (c.dreg sb.val)
    have hq : -(2 ^ 31) ≤ q ∧ q ≤ 2 ^ 31 := by simp only [q]; omega
    refine ⟨issues .mul nofun rfl, issues .mulh nofun rfl, (issues .mulq nofun rfl).trans ?_⟩
    rw [← isatBit_mulq hq.1 hq.2, ← satS_mulq hq.1 hq.2, show q = shiftUp p 31 from (shiftUp_31 p).symm]
    rfl

end Sys2Proof.Machine
end

section
/-! PROOFS. The immediate instructions of the control cores (R297, R323). -/
namespace Sys2Proof.Machine
/-! The registers LDI and MOVR write (R297, R323). -/

section
variable (c : CoreUnit) (v : Word)

theorem writeReg_d {r : Nat} (hr : r < 0x40) : writeReg c r v = (c, [land 1 (.d (physD c r)) v.toNat]) := by
  rw [writeReg, if_pos hr]

theorem writeReg_p {n : Nat} (hn : n < 12) : writeReg c (0x50 + n) v = (c, [land 1 (.p n) v.toNat]) := by
  rw [writeReg, if_neg (by omega), if_neg (by omega), if_pos (by omega), Nat.add_sub_cancel_left]

theorem writeReg_o {n : Nat} (hn : n < 8) : writeReg c (0x60 + n) v = (c, [land 1 (.o n) v.toNat]) := by
  rw [writeReg, if_neg (by omega), if_neg (by omega), if_neg (by omega), if_pos (by omega), Nat.add_sub_cancel_left]

theorem writeReg_l {n : Nat} (hn : n < 8) : writeReg c (0x68 + n) v = (c, [land 1 (.l n) v.toNat]) := by
  rw [writeReg, if_neg (by omega), if_neg (by omega), if_neg (by omega), if_neg (by omega), if_pos (by omega),
    Nat.add_sub_cancel_left]

end

/-- A register number of 8 bits is read back from its encoding. -/
theorem toNat_ofNat8 {n : Nat} (hn : n < 256) : (BitVec.ofNat 8 n).toNat = n := by
  rw [BitVec.toNat_ofNat, Nat.mod_eq_of_lt hn]

/-- Settles O7: each immediate instruction issues as its operation; LDI's landing is the write of the register it names. -/
theorem coreImmediates : Obligations.CoreImmediates := by
  unfold Obligations.CoreImmediates
  intro h k dd imm s hr c a out
  have issues (o : ImmOp) (ho : o ≠ .ldi) :=
    congrArg (Host.Outcome.next (φ := Fault) (ρ := Refusal)) (issue_imm (r := dd.val) (i := imm) hr (fun e => absurd e ho))
  have loads (r : BitVec 8) (he : regExists r.toNat = true) {l : List Landing} (hw : writeReg c r.toNat imm = (c, l)) :
      exec (.ldi h k r imm) s = out l := by
    refine (congrArg Host.Outcome.next (issue_imm (o := .ldi) hr (fun _ => he))).trans ?_
    change Host.Outcome.next (issued s h k.val (writeReg c r.toNat imm).1 noMoves (writeReg c r.toNat imm).2) = _
    rw [hw]
  have named {b n : Nat} (hn : b + n < 0x7A) (hb : 0x60 ≤ b ∨ b = 0x50 ∧ n < 12) {l : List Landing}
      (hw : writeReg c (b + n) imm = (c, l)) : exec (.ldi h k (BitVec.ofNat 8 (b + n)) imm) s = out l := by
    have e : (BitVec.ofNat 8 (b + n)).toNat = b + n := toNat_ofNat8 (by omega)
    refine loads _ ?_ (e.symm ▸ hw)
    rw [e]
    simp only [regExists, Bool.or_eq_true, decide_eq_true_eq]
    omega
  refine ⟨issues .addi nofun, issues .andi nofun, issues .ori nofun, issues .xori nofun, issues .shli nofun,
    issues .shri nofun, issues .srai nofun, fun r hlt => loads r ?_ (writeReg_d c imm hlt),
    fun n => named (by omega) (.inr ⟨rfl, n.isLt⟩) (writeReg_p c imm n.isLt),
    fun n => named (by omega) (.inl (by omega)) (writeReg_o c imm n.isLt),
    fun n => named (by omega) (.inl (by omega)) (writeReg_l c imm n.isLt),
    loads 0x70 rfl rfl, loads 0x71 rfl rfl, loads 0x72 rfl rfl, loads 0x73 rfl rfl, loads 0x74 rfl rfl,
    loads 0x75 rfl rfl, loads 0x76 rfl rfl⟩
  simp only [regExists, Bool.or_eq_true, decide_eq_true_eq]
  omega

end Sys2Proof.Machine
end

section
/-! PROOFS. The binary32 instructions of the control cores (R310, R323): what they issue, and the patterns their results have. -/
namespace Sys2Proof.Machine

/-! Rounding to 24 bits (R310). -/

/-- A rounded shift is at most one above the quotient. -/
theorem shiftEven_le (m k : Nat) : shiftEven m k ≤ m / 2 ^ k + 1 := by
  unfold shiftEven
  by_cases h : k = 0
  · subst h; simp
  · dsimp only
    split_ifs <;> omega

theorem shiftEven_le_two_pow {m j k : Nat} (h : m < 2 ^ (j + k)) : shiftEven m k ≤ 2 ^ j := by
  have hq : m / 2 ^ k < 2 ^ j := Nat.div_lt_of_lt_mul (by rwa [Nat.mul_comm, ← Nat.pow_add])
  have := shiftEven_le m k
  omega

/-- The exponent of the last place of a result with leading bit 2^top. -/
def quantumOf (top : Int) : Int := if top < -126 then -149 else top - 23

/-- The significand of m * 2^e in units of its last place, rounded. -/
def significand (m : Nat) (e : Int) : Nat :=
  let quantum := quantumOf (e + (Nat.log2 m : Int))
  if quantum ≤ e then m * 2 ^ (e - quantum).toNat else shiftEven m (quantum - e).toNat

/-- A rounded significand has 24 bits, or is 2^24 where it was rounded up. -/
theorem significand_le (m : Nat) (e : Int) : significand m e ≤ 2 ^ 24 := by
  have hlt : m < 2 ^ (Nat.log2 m + 1) := Nat.lt_log2_self
  have hu : e + (Nat.log2 m : Int) - 23 ≤ quantumOf (e + (Nat.log2 m : Int)) := by unfold quantumOf; split <;> omega
  unfold significand
  generalize quantumOf (e + (Nat.log2 m : Int)) = u at *
  dsimp only
  split
  next hq =>
    refine Nat.le_of_lt (lt_of_lt_of_le (Nat.mul_lt_mul_of_pos_right hlt (Nat.two_pow_pos _)) ?_)
    rw [← Nat.pow_add]
    exact Nat.pow_le_pow_right (by omega) (by omega)
  next hq => exact shiftEven_le_two_pow (lt_of_lt_of_le hlt (Nat.pow_le_pow_right (by omega) (by omega)))

/-- The pattern of a normal number: sign, biased exponent and fraction. -/
def normalPat (neg : Bool) (ex fr : Nat) : Nat := (if neg then 2 ^ 31 else 0) + ex * 2 ^ 23 + fr

/-- Rounding gives a zero of the sign, with underflow where the value is not zero, the infinity of the sign with overflow,
or a normal number. -/
theorem roundF32_cases (neg : Bool) (m : Nat) (e : Int) :
    (∃ u, roundF32 neg m e = ⟨f32Zero neg, u, false⟩) ∨ roundF32 neg m e = ⟨f32Inf neg, false, true⟩ ∨
      ∃ ex fr, 1 ≤ ex ∧ ex ≤ 254 ∧ fr < 2 ^ 23 ∧ roundF32 neg m e = ⟨normalPat neg ex fr, false, false⟩ := by
  by_cases hm : m = 0
  · exact .inl ⟨false, by rw [roundF32, if_pos hm]⟩
  · have hle := significand_le m e
    have hlow : -149 ≤ quantumOf (e + (Nat.log2 m : Int)) := by unfold quantumOf; split <;> omega
    have hr : roundF32 neg m e =
        if significand m e < 2 ^ 23 then ⟨f32Zero neg, true, false⟩
        else
          let (q, quantum) := if significand m e = 2 ^ 24 then (2 ^ 23, quantumOf (e + (Nat.log2 m : Int)) + 1)
            else (significand m e, quantumOf (e + (Nat.log2 m : Int)))
          if 104 < quantum then ⟨f32Inf neg, false, true⟩
          else ⟨(if neg then 2 ^ 31 else 0) + (quantum + 150).toNat * 2 ^ 23 + (q - 2 ^ 23), false, false⟩ := by
      rw [roundF32, if_neg hm]; rfl
    rw [hr]
    generalize significand m e = q at *
    generalize quantumOf (e + (Nat.log2 m : Int)) = u at *
    by_cases h1 : q < 2 ^ 23
    · exact .inl ⟨true, by rw [if_pos h1]⟩
    · right
      rw [if_neg h1]
      by_cases h2 : q = 2 ^ 24
      · rw [if_pos h2]
        by_cases h3 : 104 < u + 1
        · exact .inl (if_pos h3)
        · exact .inr ⟨(u + 1 + 150).toNat, 0, by omega, by omega, by omega, if_neg h3⟩
      · rw [if_neg h2]
        by_cases h3 : 104 < u
        · exact .inl (if_pos h3)
        · exact .inr ⟨(u + 150).toNat, q - 2 ^ 23, by omega, by omega, by omega, if_neg h3⟩

/-! The patterns of results (R310). -/

/-- A result is a pattern of 32 bits that is no subnormal, its NaN is 0x7FC0_0000, and it is a zero where it underflowed and an
infinity where it overflowed. -/
def FRes.sound (r : FRes) : Prop :=
  r.pat < 2 ^ 32 ∧ (bitsOf r.pat 30 23 = 0 → bitsOf r.pat 22 0 = 0) ∧
    (bitsOf r.pat 30 23 = 255 → bitsOf r.pat 22 0 ≠ 0 → r.pat = 0x7FC00000) ∧
    (r.unf = true → r.pat = 0 ∨ r.pat = 2 ^ 31) ∧ (r.ovf = true → r.pat = 0x7F800000 ∨ r.pat = 0xFF800000)

theorem normalPat_fields {neg : Bool} {ex fr : Nat} (he : ex < 256) (hf : fr < 2 ^ 23) :
    normalPat neg ex fr < 2 ^ 32 ∧ bitsOf (normalPat neg ex fr) 30 23 = ex := by
  unfold normalPat bitsOf
  cases neg <;> simp only [if_true, if_false, Bool.false_eq_true] <;> omega

theorem sound_zero : ∀ neg inv dz u : Bool, FRes.sound ⟨f32Zero neg, inv, dz, false, u⟩ := by
  unfold FRes.sound
  decide

theorem sound_inf : ∀ neg inv dz o : Bool, FRes.sound ⟨f32Inf neg, inv, dz, o, false⟩ := by
  unfold FRes.sound
  decide

theorem sound_nan : ∀ inv : Bool, (FRes.nan inv).sound := by
  unfold FRes.sound
  decide

theorem sound_roundF32 (neg : Bool) (m : Nat) (e : Int) : (FRes.ofRounded (roundF32 neg m e)).sound := by
  obtain ⟨u, h⟩ | h | ⟨ex, fr, h1, h2, h3, h⟩ := roundF32_cases neg m e <;> rw [h]
  · exact sound_zero neg false false u
  · exact sound_inf neg false false true
  · obtain ⟨hlt, hex⟩ := normalPat_fields (neg := neg) (show ex < 256 by omega) h3
    exact ⟨hlt, fun h0 => absurd (hex.symm.trans h0) (by omega), fun h0 => absurd (hex.symm.trans h0) (by omega), nofun, nofun⟩

theorem sound_ofExact (x : Int × Int) (neg : Bool) : (FRes.ofExact x neg).sound := by
  unfold FRes.ofExact
  split
  · exact sound_zero neg false false false
  · exact sound_roundF32 _ _ _

theorem sound_addF (x y : F32) : (addF x y).sound := by
  unfold addF
  split
  · exact sound_nan _
  · exact sound_nan _
  · exact sound_nan _
  · split
    · exact sound_inf _ _ _ _
    · exact sound_nan _
  · exact sound_inf _ _ _ _
  · exact sound_inf _ _ _ _
  · exact sound_zero _ _ _ _
  · exact sound_ofExact _ _
  · exact sound_ofExact _ _
  · exact sound_ofExact _ _

theorem sound_mulF (x y : F32) : (mulF x y).sound := by
  unfold mulF
  split
  · exact sound_nan _
  · exact sound_inf _ _ _ _
  · exact sound_zero _ _ _ _
  · exact sound_roundF32 _ _ _

theorem sound_fmaF (x y z : F32) : (fmaF x y z).sound := by
  unfold fmaF
  split
  · exact sound_nan _
  · exact sound_addF _ _

theorem sound_recipF (x : F32) : (recipF x).sound := by
  cases x with
  | nan s => exact sound_nan _
  | inf s => exact sound_zero _ _ _ _
  | zero s => exact sound_inf _ _ _ _
  | fin s m e => exact sound_roundF32 _ _ _

theorem sound_rsqrtF (x : F32) : (rsqrtF x).sound := by
  unfold rsqrtF
  split
  · exact sound_nan _
  · exact sound_nan _
  · exact sound_zero false _ _ _
  · exact sound_inf _ _ _ _
  · exact sound_nan _
  · exact sound_roundF32 _ _ _

/-- Settles O9: each instruction issues as its operation on the flushed operands, and every result is sound because rounding
gives only zeros, infinities and normal numbers. -/
theorem coreFloatResults : Obligations.CoreFloatResults := by
  unfold Obligations.CoreFloatResults
  constructor
  · intro h k dd sa sb sc sd t mv s hr hm c x y z w u v one two
    have alu (o : AluOp) (sb : Nat) (ho : o ≠ .sel) (ha : addpClash (.alu o 0 dd.val sa.val sb) mv = none) :=
      congrArg (Host.Outcome.next (φ := Fault) (ρ := Refusal)) (issue_alu (cond := 0) hr hm (fun hsel => absurd hsel ho) ha)
    have pair (o : PairOp) (sc sd : Nat) :=
      congrArg (Host.Outcome.next (φ := Fault) (ρ := Refusal))
        (issue_pair (o := o) (t := t.val) (sa := sa.val) (sb := sb.val) (sc := sc) (sd := sd) hr hm)
    exact ⟨alu .fadd sb nofun rfl, alu .fsub sb nofun rfl, alu .fmul sb nofun rfl, alu .fmin sb nofun rfl,
      alu .fmax sb nofun rfl, alu .frcpe 0 nofun rfl, alu .frsqe 0 nofun rfl, alu .ftoi 0 nofun rfl, alu .ftoq 0 nofun rfl,
      alu .itof 0 nofun rfl, alu .qtof 0 nofun rfl, pair .fma 0 0, pair .fma2 sc sd, pair .fms2 sc sd, pair .fmul2 sc sd,
      pair .fadd2 sc sd, pair .fsub2 sc sd⟩
  · intro x y z i e r hr
    simp only [List.mem_cons, List.not_mem_nil, or_false] at hr
    obtain rfl | rfl | rfl | rfl | rfl | rfl := hr
    · exact sound_addF x y
    · exact sound_mulF x y
    · exact sound_fmaF x y z
    · exact sound_recipF x
    · exact sound_rsqrtF x
    · exact sound_ofExact _ _

end Sys2Proof.Machine
end

section
/-! PROOFS. Accumulators, address registers and the landing of results (R300 to R302, R307, R308). -/
namespace Sys2Proof.Machine

/-! The accumulator instructions. -/

/-- SACR of an accumulator that is not saturated gives the rounded word, saturated. -/
theorem sacrValue_clear (a : Int) (sh : Nat) :
    sacrValue a false sh = (satS 32 ((a * 2 + 2 ^ sh) / (2 * 2 ^ sh)), ovfS 32 ((a * 2 + 2 ^ sh) / (2 * 2 ^ sh))) := by
  rw [sacrValue, shiftUp_eq]
  rfl

/-- A saturated source saturates the destination to the source's sign. -/
theorem sourceSaturates {c : CoreUnit} {am : Nat} (h : c.aov.getD am false = true) (x : Int) (an : Nat) :
    (if c.aov.getD am false then accWrite c an (if c.acc.getD am 0 < 0 then -(2 ^ 80) else 2 ^ 80) else accWrite c an x) =
      accWrite c an (if c.acc.getD am 0 < 0 then -(2 ^ 80) else 2 ^ 80) := if_pos h

theorem fin4_mod (n : Fin 4) : n.val % 4 = n.val := Nat.mod_eq_of_lt n.isLt

/-- Settles O11: each instruction issues as its operation on the accumulators. -/
theorem accumulatorInstructions : Obligations.AccumulatorInstructions := by
  unfold Obligations.AccumulatorInstructions
  intro h k an am dd sa sb mv s hr hm c src out
  have issues (o : AluOp) (dd sa sb : Nat) (ho : o ≠ .sel) (ha : addpClash (.alu o 0 dd sa sb) mv = none)
      {r : CoreUnit × List Landing} (hop : aluOp c o 0 dd sa sb = r) :
      Host.Outcome.next (issue s h k.val (.alu o 0 dd sa sb) mv) = out r :=
    hop ▸ congrArg Host.Outcome.next (issue_alu hr hm (fun hsel => absurd hsel ho) ha)
  refine ⟨issues .clra an.val 0 0 nofun rfl ?_, issues .mova an.val sa.val sb.val nofun rfl ?_,
    issues .nega an.val 0 0 nofun rfl ?_, fun hv => ⟨issues .adda an.val am.val 0 nofun rfl ?_,
    issues .suba an.val am.val 0 nofun rfl ?_⟩, fun hv => ⟨if src < 0 then -(2 ^ 80) else 2 ^ 80, ?_,
    issues .adda an.val am.val 0 nofun rfl ?_, issues .suba an.val am.val 0 nofun rfl ?_⟩, ?_⟩
  · simp only [aluOp, fin4_mod]
  · simp only [aluOp, fin4_mod, Nat.cast_pow, Nat.cast_ofNat]
  · simp only [aluOp, fin4_mod]
  · simp only [aluOp, fin4_mod, hv]; rfl
  · simp only [aluOp, fin4_mod, hv]; rfl
  · split <;> norm_num
  · simp only [aluOp, fin4_mod]; exact sourceSaturates hv _ _
  · simp only [aluOp, fin4_mod]; exact sourceSaturates hv _ _
  · refine issues .sacr dd.val am.val sb.val nofun rfl (r := (c, [_])) ?_
    simp only [aluOp, fin4_mod]
    cases hv : c.aov.getD am.val false with
    | true => simp [sacrValue, src]
    | false => simp [sacrValue_clear, src, ovfS]

end Sys2Proof.Machine
end

section
/-! PROOFS. The address registers of the control cores (R300, R323). -/
namespace Sys2Proof.Machine
/-! Address registers (R300). -/

/-- The new index of an address register: linear without a length, else inside the block of its length. -/
def newIndex (idx len : Nat) (m : Int) : Nat :=
  if len = 0 then (((idx : Int) + m) % 16384).toNat
  else
    let b := idx / 2 ^ ceilLog2 len * 2 ^ ceilLog2 len
    (b + (((idx - b : Nat) : Int) + m) % (len : Int)).toNat % 16384

theorem modifyP_eq (c : CoreUnit) (n : Nat) (m : Int) :
    modifyP c n m = c.p.getD n 0 / 16384 * 16384 +
      newIndex (c.p.getD n 0 % 16384) (if n < 8 then c.l.getD n 0 else 0) m := rfl

theorem newIndex_linear (idx : Nat) (m : Int) : ((newIndex idx 0 m : Nat) : Int) = ((idx : Int) + m) % 16384 := by
  rw [newIndex, if_pos rfl]
  omega

theorem newIndex_circular {idx len : Nat} (hl : 0 < len) (m : Int) :
    ((newIndex idx len m : Nat) : Int) =
      (((idx - idx % 2 ^ ceilLog2 len : Nat) : Int) +
        ((idx : Int) - ((idx - idx % 2 ^ ceilLog2 len : Nat) : Int) + m) % (len : Int)) % 16384 := by
  have hb : idx / 2 ^ ceilLog2 len * 2 ^ ceilLog2 len = idx - idx % 2 ^ ceilLog2 len := by
    have := Nat.div_add_mod' idx (2 ^ ceilLog2 len)
    omega
  rw [newIndex, if_neg (by omega), hb]
  dsimp only
  generalize idx - idx % 2 ^ ceilLog2 len = b at *
  have hle : b ≤ idx := by rw [← hb]; exact Nat.div_mul_le_self _ _
  rw [Nat.cast_sub hle]
  have := Int.emod_nonneg ((idx : Int) - b + m) (show (len : Int) ≠ 0 by omega)
  generalize ((idx : Int) - b + m) % (len : Int) = r at *
  omega

theorem newIndex_lt (idx len : Nat) (m : Int) : newIndex idx len m < 16384 := by
  unfold newIndex
  split
  · omega
  · exact Nat.mod_lt _ (by omega)

/-- The exponent of the block is the least whose power holds the length. -/
theorem ceilLog2_spec (n : Nat) :
    n ≤ 2 ^ ceilLog2 n ∧ (ceilLog2 n = 0 ∨ 2 ^ (ceilLog2 n - 1) < n) := by
  unfold ceilLog2
  split
  · exact ⟨by omega, .inl rfl⟩
  · have h1 : n - 1 < 2 ^ (Nat.log2 (n - 1) + 1) := Nat.lt_log2_self
    have h2 : 2 ^ Nat.log2 (n - 1) ≤ n - 1 := Nat.log2_self_le (by omega)
    exact ⟨by omega, .inr (by rw [Nat.add_sub_cancel]; omega)⟩

theorem addpClash_none {mv : Moves} {pn : Fin 12} {sa : Nat} (hx : ¬(mv.xe = true ∧ mv.xp.val = pn.val))
    (hy : ¬(mv.ye = true ∧ mv.yp.val + 4 = pn.val)) : addpClash (.alu .addp 0 pn.val sa 0) mv = none := by
  have hp : pn.val % 16 = pn.val := Nat.mod_eq_of_lt (by omega)
  rw [addpClash, if_neg]
  simpa only [hp, Bool.or_eq_true, Bool.and_eq_true, decide_eq_true_eq, not_or] using ⟨hx, hy⟩

/-- Settles O12: NOP, ADDPI and ADDP issue as their operation; the new address by the case of the length. -/
theorem addressUpdates : Obligations.AddressUpdates := by
  unfold Obligations.AddressUpdates
  constructor
  · intro h k pn sa imm mv s hr hm c
    refine ⟨congrArg Host.Outcome.next (issue_nop hr hm), congrArg Host.Outcome.next (issue_imm (o := .addpi) hr nofun),
      fun hx hy => (congrArg Host.Outcome.next (issue_alu (o := .addp) hr hm nofun (addpClash_none hx hy))).trans ?_⟩
    have hp : pn.val % 16 = pn.val := Nat.mod_eq_of_lt (by omega)
    simp only [aluOp, hp]
    rfl
  · intro c n m _ v idx
    have hlt := newIndex_lt idx (if n < 8 then c.l.getD n 0 else 0) m
    have hdiv : modifyP c n m / 16384 = v / 16384 := by
      rw [modifyP_eq]; change (v / 16384 * 16384 + newIndex idx _ m) / 16384 = _; omega
    have hmod : modifyP c n m % 16384 = newIndex idx (if n < 8 then c.l.getD n 0 else 0) m := by
      rw [modifyP_eq]; change (v / 16384 * 16384 + newIndex idx _ m) % 16384 = _; omega
    refine ⟨hdiv, fun hlin => ?_, fun h8 hpos _ => ⟨ceilLog2 (c.l.getD n 0), _, ceilLog2_spec _, rfl, ?_⟩⟩
    · have hz : (if n < 8 then c.l.getD n 0 else 0) = 0 := by split <;> omega
      rw [hmod, hz, newIndex_linear]
    · rw [hmod, if_pos h8, newIndex_circular hpos]

end Sys2Proof.Machine
end

section
/-! PROOFS. Landing of results (R301, R302), and the slot of a computing instruction. -/
namespace Sys2Proof.Machine

/-! What a slot's landings change of a core. -/

/-- c' differs from c in visible registers and results in flight alone. -/
def CoreUnit.landsTo (c c' : CoreUnit) : Prop :=
  c' = { c with d := c'.d, acc := c'.acc, aov := c'.aov, p := c'.p, o := c'.o, l := c'.l, lc := c'.lc, ls := c'.ls,
                le := c'.le, rb := c'.rb, stat := c'.stat, istat := c'.istat, ira := c'.ira, rptv := c'.rptv,
                inFlight := c'.inFlight }

theorem CoreUnit.landsTo.refl (c : CoreUnit) : c.landsTo c := rfl

theorem CoreUnit.landsTo.trans {c c' c'' : CoreUnit} (h : c.landsTo c') (h' : c'.landsTo c'') : c.landsTo c'' := by
  unfold CoreUnit.landsTo at *
  rw [h'] 
  rw [h]

section
variable {c c' : CoreUnit} (h : c.landsTo c')
include h

theorem CoreUnit.landsTo.xfers_eq : c'.xfers = c.xfers := by rw [h]
theorem CoreUnit.landsTo.slots_eq : c'.slots = c.slots := by rw [h]
theorem CoreUnit.landsTo.urgSlots_eq : c'.urgSlots = c.urgSlots := by rw [h]

end

theorem landOne_landsTo (c : CoreUnit) (x : Landing) : c.landsTo (landOne c x).1 := by
  obtain ⟨left, tgt, val, aov, sticky⟩ := x
  cases tgt <;> rfl

theorem landReady_landsTo (c : CoreUnit) (up : Nat) (kept l : List Landing) : c.landsTo (landReady c up kept l).1 := by
  induction l generalizing c up kept with
  | nil => exact .refl c
  | cons x t ih =>
    rw [landReady]
    split
    · exact (landOne_landsTo c x).trans (ih _ _ _)
    · exact ih _ _ _

theorem ageSlot_landsTo (c : CoreUnit) : c.landsTo (ageSlot c).1 := by
  have h := landReady_landsTo { c with inFlight := [] } 0 [] (c.inFlight.map (fun x => { x with left := x.left - 1 }))
  unfold CoreUnit.landsTo at *
  unfold ageSlot
  dsimp only
  rw [h]

theorem landEverything_landsTo (c : CoreUnit) : c.landsTo (landEverything c).1 :=
  ((ageSlot_landsTo c).trans (ageSlot_landsTo _)).trans (ageSlot_landsTo _)

/-! When a result is seen. -/

/-- One slot nearer. -/
def Landing.nearer (x : Landing) : Landing := { x with left := x.left - 1 }

theorem landReady_kept {l : List Landing} (h : ∀ x ∈ l, x.left ≠ 0) (c : CoreUnit) (up : Nat) (kept : List Landing) :
    landReady c up kept l = (c, up, kept ++ l) := by
  induction l generalizing kept with
  | nil => simp [landReady]
  | cons x t ih =>
    rw [landReady, if_neg (h x List.mem_cons_self), ih (fun y hy => h y (List.mem_cons_of_mem x hy)), List.append_assoc,
      List.singleton_append]

theorem ageSlot_eq (c : CoreUnit) (l : List Landing) :
    ageSlot { c with inFlight := l } =
      let r := landReady { c with inFlight := [] } 0 [] (l.map Landing.nearer)
      ({ r.1 with inFlight := r.2.2 }, r.2.1) := rfl

/-- Results with more than one slot left only come nearer. -/
theorem ageSlot_waits {c : CoreUnit} {l : List Landing} (h : ∀ x ∈ l, 1 < x.left) :
    (ageSlot { c with inFlight := l }).1 = { c with inFlight := l.map Landing.nearer } := by
  have hk : ∀ x ∈ l.map Landing.nearer, x.left ≠ 0 := by
    intro x hx
    obtain ⟨y, hy, rfl⟩ := List.mem_map.1 hx
    have := h y hy
    simp only [Landing.nearer]
    omega
  rw [ageSlot_eq, landReady_kept hk]
  rfl

theorem ageSlot_empty {c : CoreUnit} (h : c.inFlight = []) : ageSlot c = (c, 0) := by
  cases c
  cases h
  rfl

theorem slotsPass_empty {c : CoreUnit} (h : c.inFlight = []) (j : Nat) : slotsPass j c = c := by
  induction j with
  | zero => rfl
  | succ j ih => rw [slotsPass, ageSlot_empty h, ih]

theorem ofNat_ofS (v : Int) : BitVec.ofNat 32 (ofS 32 v) = BitVec.ofInt 32 v := by
  apply BitVec.eq_of_toNat_eq
  rw [BitVec.toNat_ofNat, BitVec.toNat_ofInt, ofS, Nat.mod_eq_of_lt (by omega)]

/-- A data register's result lands as its value modulo 2^32; beside it only STAT rises. -/
theorem landOne_d (c : CoreUnit) (n left st : Nat) (v : Int) :
    (landOne c (land left (.d n) v st)).1 = { (raiseSticky c st).1 with d := c.d.set n (BitVec.ofInt 32 v) } := by
  rw [← ofNat_ofS]
  rfl

/-- A data register's result with one slot left is seen after the slot. -/
theorem ageSlot_lands (c : CoreUnit) (n st : Nat) (v : Int) :
    (ageSlot { c with inFlight := [land 1 (.d n) v st] }).1 =
      { (raiseSticky c st).1 with d := c.d.set n (BitVec.ofInt 32 v), inFlight := [] } := by
  rw [← ofNat_ofS]
  rfl

theorem slotsPass_land (c : CoreUnit) (n st : Nat) (v : Int) (j d : Nat) :
    (slotsPass j { c with inFlight := [land (d + 1) (.d n) v st] }).d =
      if j ≤ d then c.d else c.d.set n (BitVec.ofInt 32 v) := by
  induction d generalizing j with
  | zero =>
    cases j with
    | zero => rfl
    | succ j => rw [slotsPass, slotsPass_empty rfl, ageSlot_lands, if_neg (by omega)]
  | succ d ih =>
    cases j with
    | zero => rfl
    | succ j =>
      rw [slotsPass, ageSlot_waits (by simp [land])]
      simp only [Nat.add_le_add_iff_right]
      exact ih j

/-- Two results of one slot for one register: the later-issued one remains. -/
theorem ageSlot_lands_two (c : CoreUnit) (n st st' : Nat) (v w : Int) :
    (ageSlot { c with inFlight := [land 1 (.d n) v st, land 1 (.d n) w st'] }).1.d = c.d.set n (BitVec.ofInt 32 w) := by
  have h : (ageSlot { c with inFlight := [land 1 (.d n) v st, land 1 (.d n) w st'] }).1.d =
      (c.d.set n (BitVec.ofNat 32 (ofS 32 v))).set n (BitVec.ofNat 32 (ofS 32 w)) := rfl
  rw [h, List.set_set, ofNat_ofS]

/-- A result issued earlier that lands a slot later does not hide one that lands now. -/
theorem ageSlot_lands_second (c : CoreUnit) (n st st' : Nat) (v w : Int) :
    (ageSlot { c with inFlight := [land 2 (.d n) v st, land 1 (.d n) w st'] }).1.d = c.d.set n (BitVec.ofInt 32 w) := by
  rw [← ofNat_ofS]
  rfl

/-- Settles O13: by the slots left of each result. -/
theorem resultVisibleAfterItsLatency : Obligations.ResultVisibleAfterItsLatency := by
  unfold Obligations.ResultVisibleAfterItsLatency
  constructor
  · intro c n d j st v hd _ _ _
    obtain ⟨d, rfl⟩ := Nat.exists_eq_add_of_le' hd
    rw [slotsPass_land]
    simp only [Nat.lt_succ_iff]
  · intro c n st st' v w _
    refine ⟨ageSlot_lands_two c n st st' v w, fun left h1 h2 u => ?_⟩
    obtain rfl | rfl : left = 1 ∨ left = 2 := by omega
    · exact ⟨ageSlot_lands_two c n st st' v w, ageSlot_lands_second c n st st' u w⟩
    · constructor
      · rw [slotsPass, ageSlot_waits (by simp [land])]
        exact ageSlot_lands_two c n st st' v w
      · rw [slotsPass, ageSlot_waits (by simp [land])]
        exact ageSlot_lands_second c n st st' u w


/-! Bit 16 of STAT (LOOPACT) under landings. -/

/-- A number is the sum of its bits inside and outside a mask. -/
theorem and_add_xor_and (x m : Nat) : (x &&& m) + (x ^^^ (x &&& m)) = x := by
  induction x using Nat.strongRecOn generalizing m with
  | _ x ih =>
    by_cases hx : x = 0
    · simp [hx]
    · have h := ih (x / 2) (by omega) (m / 2)
      have h2 := Nat.xor_div_two (a := x) (b := x &&& m)
      rw [Nat.and_div_two] at h2
      have low : (x &&& m) % 2 + (x ^^^ (x &&& m)) % 2 = x % 2 := by
        have hand := Nat.and_mod_two_pow (a := x) (b := m) (n := 1)
        have hxor := Nat.xor_mod_two_pow (a := x) (b := x &&& m) (n := 1)
        norm_num only at hand hxor
        rw [hxor, hand]
        obtain e | e := Nat.mod_two_eq_zero_or_one x <;> obtain f | f := Nat.mod_two_eq_zero_or_one m <;> rw [e, f] <;> rfl
      have hd := Nat.and_div_two (a := x) (b := m)
      omega

theorem testBit_sub_and (x m i : Nat) : (x - (x &&& m)).testBit i = (x.testBit i && !m.testBit i) := by
  have h : x - (x &&& m) = x ^^^ (x &&& m) := by
    have := and_add_xor_and x m
    omega
  rw [h, Nat.testBit_xor, Nat.testBit_and]
  cases x.testBit i <;> cases m.testBit i <;> rfl

/-- The sticky bits of a mask. -/
theorem testBit_stickyMask (v i : Nat) : (setBits 0 9 4 v).testBit i = (decide (4 ≤ i ∧ i < 10) && v.testBit (i - 4)) := by
  rw [testBit_setBits]
  by_cases h : 4 ≤ i ∧ i < 10
  · rw [if_pos h, decide_eq_true h, Bool.true_and]
  · rw [if_neg h, decide_eq_false h, Nat.zero_testBit, Bool.false_and]

/-- No result but one for STAT changes LOOPACT. -/
theorem landOne_loopact (c : CoreUnit) {x : Landing} (h : x.tgt ≠ .stat) :
    (landOne c x).1.stat.testBit 16 = c.stat.testBit 16 := by
  have sticky : (c.stat ||| setBits 0 9 4 (bitsOf x.sticky 9 4)).testBit 16 = c.stat.testBit 16 := by
    rw [Nat.testBit_or, testBit_stickyMask]
    exact Bool.or_false _
  obtain ⟨left, tgt, val, aov, st⟩ := x
  cases tgt with
  | stat => exact absurd rfl h
  | conds => exact (testBit_setBits _ 14 10 _ 16).trans sticky
  | ie => exact (testBit_setBits _ 15 15 _ 16).trans sticky
  | clrf =>
    refine (testBit_sub_and _ _ 16).trans ?_
    rw [testBit_stickyMask]
    exact (Bool.and_true _).trans sticky
  | _ => exact sticky

theorem landReady_loopact {l : List Landing} (h : ∀ x ∈ l, x.tgt ≠ .stat) (c : CoreUnit) (up : Nat) (kept : List Landing) :
    (landReady c up kept l).1.stat.testBit 16 = c.stat.testBit 16 := by
  induction l generalizing c up kept with
  | nil => rfl
  | cons x t ih =>
    have ht := ih (fun y hy => h y (List.mem_cons_of_mem x hy))
    rw [landReady]
    split
    · exact (ht _ _ _).trans (landOne_loopact c (h x List.mem_cons_self))
    · exact ht _ _ _

theorem ageSlot_loopact {c : CoreUnit} (h : ∀ x ∈ c.inFlight, x.tgt ≠ .stat) :
    (ageSlot c).1.stat.testBit 16 = c.stat.testBit 16 := by
  refine landReady_loopact (fun x hx => ?_) _ 0 []
  obtain ⟨y, hy, rfl⟩ := List.mem_map.1 hx
  exact h y hy

/-! The slot of a computing instruction on a quiet core. -/

/-- Without a HALT request no halt takes effect. -/
theorem haltCheck_idle {s : State} {h : Half} {k : Nat} (hh : s.flag (CORE.addr h k) CORE.HALT = false) :
    haltCheck s h k = s := by
  simp [haltCheck, hh]

theorem coreFlags_core (s : State) (h : Half) (k up : Nat) (g : Half) (j : Nat) :
    (coreFlags s h k up).core g j = s.core g j := s.setWordN_core _ _ g j

theorem coreFlags_word_other (s : State) {h : Half} {k up a : Nat} (n : a ≠ CORE.addr h k + 0x8) :
    (coreFlags s h k up).word a = s.word a := s.word_setWordN_other _ n

/-- What a slot writes outside its core: ICNT and FLAGS. -/
theorem quietEnd_word (s : State) (h : Half) (k : Nat) (lands : List Landing) {a : Nat}
    (ha : a ∉ [CORE.addr h k + 0x8, CORE.addr h k + 0x18, CORE.addr h k + 0x1C]) :
    (quietEnd s h k lands).word a = s.word a := by
  simp only [List.mem_cons, List.not_mem_nil, or_false, not_or] at ha
  obtain ⟨hflags, hicnt, hicnt'⟩ := ha
  simp only [quietEnd]
  rw [coreFlags_word_other _ hflags, State.word_setQuad_other _ _ hicnt hicnt', State.setCore_word]

theorem quietEnd_halt (s : State) (h : Half) (k : Nat) (lands : List Landing) :
    (quietEnd s h k lands).flag (CORE.addr h k) CORE.HALT = s.flag (CORE.addr h k) CORE.HALT :=
  State.flag_of_fld (State.fld_of_word (by decide) (quietEnd_word s h k lands (by simp [CORE.HALT])))

/-- A slot at no loop end, with no transfer pending and no HALT request, lands its results and goes on. -/
theorem finishIssue_quiet {s : State} {h : Half} {k : Nat} {lands : List Landing} (hx : (s.core h k).xfers = [])
    (hb : (s.core h k).stat.testBit 16 = false) (hi : (s.core h k).inFlight = []) (hl : ∀ x ∈ lands, x.tgt ≠ .stat)
    (hh : s.flag (CORE.addr h k) CORE.HALT = false) :
    finishIssue s h k lands [] false none = quietEnd s h k lands := by
  have hstat : bitOf (ageSlot { s.core h k with inFlight := (s.core h k).inFlight ++ lands }).1.stat 16 = false := by
    rw [bitOf_eq_testBit, ageSlot_loopact (by rw [hi]; exact hl)]
    exact hb
  have hxf : (ageSlot { s.core h k with inFlight := (s.core h k).inFlight ++ lands }).1.xfers = [] := by
    exact (ageSlot_landsTo _).xfers_eq.trans hx
  have hend : finishIssue s h k lands [] false none = haltCheck (quietEnd s h k lands) h k := by
    unfold finishIssue quietEnd
    generalize hr : ageSlot { s.core h k with inFlight := (s.core h k).inFlight ++ lands } = r at *
    have hland : CoreUnit.landsTo _ r.1 := hr ▸ ageSlot_landsTo _
    obtain ⟨c, up⟩ := r
    have hslots : c.slots = (s.core h k).slots := hland.slots_eq
    have hurg : c.urgSlots = (s.core h k).urgSlots := hland.urgSlots_eq
    simp only at hstat hxf
    simp [hr, hxf, hstat, hslots, hurg, ageXfers, b2n]
  rw [hend, haltCheck_idle ((quietEnd_halt s h k lands).trans hh)]

/-- No move changes the state. -/
theorem issued_noMoves (s : State) (h : Half) (k : Nat) (c : CoreUnit) (lands : List Landing) :
    issued s h k c noMoves lands = finishIssue (s.setCore h k c) h k lands [] false none := by
  simp [issued, doMoves, noMoves, twoSlots]

/-- Settles O14: the slot is quietEnd, whose parts write the core, FLAGS and ICNT alone. -/
theorem computingInstructionFrame : Obligations.ComputingInstructionFrame := by
  unfold Obligations.ComputingInstructionFrame
  intro h k c lands s hk hx hb hi hl hh t
  have hc : (s.setCore h k.val c).core h k.val = c := s.core_setCore_same c hk
  have ht : t = quietEnd (s.setCore h k.val c) h k.val lands := by
    refine (issued_noMoves s h k.val c lands).trans (finishIssue_quiet ?_ ?_ ?_ (fun x hxl => (hl x hxl).1) ?_) <;>
      simp only [hc, State.flag, State.setCore_fld]
    · exact hx
    · rw [← bitOf_eq_testBit]; exact hb
    · exact hi
    · exact hh
  have hn : h.other ≠ h := by cases h <;> nofun
  refine ⟨ht, ?_, ?_, ?_, ?_, ?_, fun j hj => ?_, fun a ha => ?_⟩ <;> rw [ht]
  · simp [quietEnd, coreFlags]
  · simp [quietEnd, coreFlags, hn]
  · simp [quietEnd, coreFlags]
  · simp [quietEnd, coreFlags]
  · simp [quietEnd, coreFlags]
  · simp [quietEnd, coreFlags, State.core_setCore_other _ _ hj]
  · rw [quietEnd_word _ h k.val lands ha, State.setCore_word]


end Sys2Proof.Machine
end

section
/-! PROOFS. Control instructions, faults, far accesses, copies and urgent entry of the control cores (R299, R315 to R323). -/
namespace Sys2Proof.Machine

/-! The issue of a control instruction. -/

/-- An instruction of format C. -/
def CoreOp.isCtl : CoreOp → Bool
  | .nop | .mac .. | .pair .. | .alu .. | .imm .. => false
  | _ => true

theorem issue_fault {s : State} {h : Half} {k n : Nat} {op : CoreOp} {mv : Moves} (hr : (s.core h k).runs = true)
    (hf : issueFault (s.core h k) op mv = some n) : issue s h k op mv = coreFault s h k n (s.core h k).pc := by
  simp only [issue, hr, hf, Bool.not_true, Bool.false_eq_true, if_false]

theorem issue_ctl {s : State} {h : Half} {k : Nat} {op : CoreOp} (hr : (s.core h k).runs = true) (hc : op.isCtl = true)
    (hf : issueFault (s.core h k) op noMoves = none) : issue s h k op noMoves = issueCtl s h k op := by
  simp only [issue, hr, hf, Bool.not_true, Bool.false_eq_true, if_false]
  cases op <;> first | rfl | cases hc

/-! Registers read and written by number (R297, R299). -/

/-- A register that reads as a value exists. -/
theorem regExists_of_readReg {c : CoreUnit} {r v : Nat} {g : Bool} (h : c.readReg r g = some v) : regExists r = true := by
  by_contra hn
  simp only [regExists, Bool.or_eq_true, decide_eq_true_eq, not_or] at hn
  obtain ⟨⟨h1, h2⟩, h3⟩ := hn
  unfold CoreUnit.readReg at h
  repeat rw [if_neg (by omega)] at h
  cases h

theorem raiseSticky_zero (c : CoreUnit) : raiseSticky c 0 = (c, 0) := by
  have hm : setBits 0 9 4 (bitsOf 0 9 4) = 0 := by decide
  simp only [raiseSticky, hm, Nat.or_zero, Nat.zero_and, Nat.sub_zero]

/-- STAT after CLRF lands: the sticky bits outside the mask stay. -/
theorem landOne_clrf_sticky (c : CoreUnit) (m : Nat) :
    bitsOf (landOne c (land 0 .clrf m)).1.stat 9 4 = bitsOf c.stat 9 4 &&& (63 ^^^ bitsOf m 9 4) := by
  have hst : (landOne c (land 0 .clrf m)).1.stat =
      c.stat - (c.stat &&& setBits 0 9 4 (bitsOf (ofS 32 (m : Int)) 9 4)) := by
    simp only [landOne, land, raiseSticky_zero]
  have hm : ∀ i, i < 6 → (ofS 32 (m : Int)).testBit (4 + i) = m.testBit (4 + i) := by
    intro i hi
    have : ofS 32 (m : Int) = m % 2 ^ 32 := by unfold ofS; omega
    rw [this, Nat.testBit_mod_two_pow]
    simp; omega
  rw [hst]
  apply Nat.eq_of_testBit_eq
  intro i
  rw [testBit_bitsOf, testBit_sub_and, testBit_stickyMask, Nat.testBit_and, Nat.testBit_xor, testBit_bitsOf, testBit_bitsOf,
    testBit_bitsOf, show (63 : Nat) = 2 ^ 6 - 1 from rfl, Nat.testBit_two_pow_sub_one]
  by_cases hi : i < 6
  · rw [show 4 + i - 4 = i by omega, hm i hi]
    have : 4 + i < 10 := by omega
    simp [hi, this]
  · simp [hi]

theorem landOne_ie (c : CoreUnit) (b : Bool) : bitOf (landOne c (land 0 .ie (b2n b))).1.stat 15 = b := by
  have hst : (landOne c (land 0 .ie (b2n b))).1.stat = setBit c.stat 15 (decide (ofS 32 (b2n b : Int) ≠ 0)) := by
    simp only [landOne, land, raiseSticky_zero]
    rfl
  rw [hst, bitOf_setBit, if_pos rfl]
  cases b <;> rfl

/-- Settles O16: each instruction issues as its landing; MOVR faults where a register does not exist. -/
theorem flagAndRegisterControl : Obligations.FlagAndRegisterControl := by
  unfold Obligations.FlagAndRegisterControl
  intro h k mask r1 r2 s hr c
  have issues (op : CoreOp) (hc : op.isCtl = true) (hf : issueFault c op noMoves = none) :=
    congrArg (Host.Outcome.next (φ := Fault) (ρ := Refusal)) (issue_ctl hr hc hf)
  refine ⟨issues .ei rfl rfl, issues .di rfl rfl, issues (.clrf mask.toNat) rfl rfl, issues .haltd rfl rfl, ?_, ?_,
    landOne_clrf_sticky, landOne_ie⟩
  · intro v hv h1
    refine (issues (.movr r1.toNat r2.toNat) rfl ?_).trans ?_
    · simp [issueFault, noMoves, h1, regExists_of_readReg hv]
    · have hv' : (s.core h k.val).readReg r2.toNat true = some v := hv
      simp only [issueCtl, hv', Option.getD_some]
      rfl
  · intro hn
    refine congrArg Host.Outcome.next (issue_fault hr ?_)
    simp [issueFault, noMoves, hn]

/-- Settles O19: a word that decodes to nothing, or that faults at its issue, ends the item as coreFault says. -/
theorem illegalWordEndsItem : Obligations.IllegalWordEndsItem := by
  unfold Obligations.IllegalWordEndsItem
  intro h k word s hr c fault
  have faults (n : Nat) : Host.Outcome.next (coreFault s h k.val n c.pc) = fault n := rfl
  have hx : execIllegalInstruction h k word s = .next (match decodeCode word with
    | (.illegal n, _) => issue s h k.val (.illegal n) noMoves
    | (op, mv) => match issueFault c op mv with
      | some _ => issue s h k.val op mv
      | none => s) := rfl
  change (∀ n, _ → execIllegalInstruction h k word s = _) ∧ (_ → ∀ code, _ → execIllegalInstruction h k word s = _)
  rw [hx]
  generalize decodeCode word = d
  obtain ⟨op, mv⟩ := d
  constructor
  · rintro n rfl
    exact (congrArg Host.Outcome.next (issue_fault (op := .illegal n) (mv := noMoves) hr rfl)).trans (faults n)
  · intro hn code hf
    refine (congrArg Host.Outcome.next ?_).trans (faults code)
    cases op with
    | illegal n => exact absurd rfl (hn n)
    | _ =>
      simp only at hf ⊢
      rw [hf]
      exact issue_fault hr hf

/-! Words of the formats (R322, R323). -/

theorem decodeP_reserved {w : Nat} (h : 14 ≤ bitsOf w 61 56) : decodeP w = .illegal 1 := by
  unfold decodeP
  dsimp only
  generalize bitsOf w 61 56 = o at *
  split
  · rfl
  · split <;> first | omega | rfl

theorem decodeC_reserved {w : Nat} (h : 0x12 ≤ bitsOf w 61 56) : decodeC w = .illegal 1 := by
  unfold decodeC
  dsimp only
  generalize bitsOf w 61 56 = o at *
  split <;> first | omega | rfl

theorem decodeI_reserved {w : Nat} (hz : bitsOf w 47 32 = 0) (hr : regExists (bitsOf w 55 48) = true)
    (h : 10 ≤ bitsOf w 61 56) : decodeI w = .illegal 1 := by
  unfold decodeI
  dsimp only
  rw [if_neg (by omega), hr, if_neg (by simp)]
  generalize bitsOf w 61 56 = o at *
  split <;> first | omega | rfl

theorem decodeI_noRegister {w : Nat} (hz : bitsOf w 47 32 = 0) (hr : regExists (bitsOf w 55 48) = false) :
    decodeI w = .illegal 5 := by
  unfold decodeI
  dsimp only
  rw [if_neg (by omega), hr, if_pos (by simp)]

/-- Settles O20: by the format of the word. -/
theorem instructionWordsDecode : Obligations.InstructionWordsDecode := by
  unfold Obligations.InstructionWordsDecode
  have word {w : Nat} (hw : w < 2 ^ 64) : (BitVec.ofNat 64 w).toNat = w := by
    rw [BitVec.toNat_ofNat, Nat.mod_eq_of_lt hw]
  refine ⟨fun w hw hf h => ?_, fun w hw hf h => ?_, fun w hw hf hz h hr => ?_, fun w hw hf hz hr => ?_,
    by decide, by decide, by decide, by decide⟩ <;>
    simp only [decodeCode, word hw, hf]
  · exact decodeP_reserved h
  · exact decodeC_reserved h
  · exact decodeI_reserved hz hr h
  · exact decodeI_noRegister hz hr


/-! The entry of an urgent item (R318). -/

/-- No LOOPACT and no IE after an entry. -/
theorem entryStat_bits (st : Nat) :
    bitOf (setBit (setBit st 15 false) 16 false) 15 = false ∧ bitOf (setBit (setBit st 15 false) 16 false) 16 = false := by
  simp [bitOf_setBit]

/-- Where an urgent item may be taken, the core afterwards. -/
theorem urgentEntry_core {s : State} {h : Half} {k i : Nat} (hk : k < (s.half h).cores.length)
    (hp : (s.core h k).urgPend = some i) (hie : bitOf (s.core h k).stat 15 = true) (hx : (s.core h k).xfers = [])
    (hf : (s.core h k).far = none) (hh : (s.core h k).halted = false) (hu : (s.core h k).urgItem = none)
    (hs : (s.core h k).stall = .none ∨ ∃ n, (s.core h k).stall = .waitc n) :
    (urgentEntry s h k).core h k =
      let e := (landEverything (s.core h k)).1
      { e with ira := e.pc, istat := e.statWord, stat := setBit (setBit e.stat 15 false) 16 false,
               iarg := s.fld (DESC.addr h i) DESC.ARG_PTR % 2 ^ 32, iargh := s.fld (DESC.addr h i) DESC.ARG_PTR / 2 ^ 32 % 256,
               pc := s.fld (DESC.addr h i) DESC.ENTRY, urgPend := none, urgItem := some i, urgOnIdle := e.item.isNone,
               urgSlots := 0, stall := .none } := by
  have hl := landEverything_landsTo (s.core h k)
  have hstall : (landEverything (s.core h k)).1.stall = (s.core h k).stall := by rw [hl]
  unfold urgentEntry
  obtain hs | ⟨n, hs⟩ := hs <;>
    simp [hp, hie, hx, hf, hh, hu, hs, hstall, coreFlags_core, State.core_setCore_same _ _ hk]

theorem urgentEntry_refused {s : State} {h : Half} {k : Nat} (hi : (s.core h k).item ≠ none)
    (hn : bitOf (s.core h k).stat 15 = false ∨ (s.core h k).xfers ≠ [] ∨ (s.core h k).far ≠ none) :
    urgentEntry s h k = s := by
  have hi' : (s.core h k).item.isNone = false := by
    rwa [Option.isNone_eq_false_iff, Option.isSome_iff_ne_none]
  unfold urgentEntry
  dsimp only
  split
  · rfl
  · rw [if_pos]
    obtain hn | hn | hn := hn
    · simp [hn, hi']
    · simp [hn]
    · have hf : (s.core h k).far.isNone = false := by
        rwa [Option.isNone_eq_false_iff, Option.isSome_iff_ne_none]
      simp [hf]

/-- Settles O21: the entry writes the listed registers of the landed core. -/
theorem urgentEntrySaves : Obligations.UrgentEntrySaves := by
  unfold Obligations.UrgentEntrySaves
  intro h k i s hk c hp
  constructor
  · intro hie hx hf hh hu hs
    refine ⟨urgentEntry s h k.val, rfl, ?_⟩
    have hu := urgentEntry_core hk hp hie hx hf hh hu hs
    dsimp only at hu ⊢
    rw [hu]
    generalize (landEverything (s.core h k.val)).1 = e
    exact ⟨rfl, rfl, (entryStat_bits e.stat).1, (entryStat_bits e.stat).2, rfl, rfl, rfl, rfl, rfl, rfl, rfl, rfl, rfl, rfl,
      rfl, rfl, rfl, rfl, rfl⟩
  · exact fun hi hn => congrArg Host.Outcome.next (urgentEntry_refused hi hn)

/-! A write through the active view (R25, R463). -/

/-- Settles O22: by the branches of viaHalf. -/
theorem activeViewHeldOrDiscarded : Obligations.ActiveViewHeldOrDiscarded := by
  unfold Obligations.ActiveViewHeldOrDiscarded
  intro m value s a
  constructor
  · intro hh
    refine congrArg Host.Outcome.next ?_
    simp only [viaHalf, hh, if_true, BitVec.ofNat_toNat, BitVec.setWidth_eq]
    rfl
  · intro hh hn t
    refine congrArg Host.Outcome.next ?_
    simp only [viaHalf, hh, hn, Bool.false_eq_true, if_false]
    cases m <;> rfl


end Sys2Proof.Machine
end

section
/-! PROOFS. Far accesses and copies of the control cores (R316, R317, R320). -/
namespace Sys2Proof.Machine

/-! Memory reads and cores after updates. -/

theorem State.memWord_congr {s t : State} (e : t.mem = s.mem) (a : Nat) : t.memWord a = s.memWord a := by
  simp only [State.memWord, State.byte, e]

theorem State.memBytes_congr {s t : State} (e : t.mem = s.mem) (a n : Nat) : t.memBytes a n = s.memBytes a n := by
  induction n generalizing a with
  | zero => rfl
  | succ n ih => simp only [State.memBytes, ih, State.byte, e]

theorem bytesRead_congr {s t : State} (e : t.mem = s.mem) (a n : Nat) : bytesRead t a n = bytesRead s a n := by
  unfold bytesRead
  rw [State.memBytes_congr e]

@[simp] theorem State.setMemWord_core (s : State) (a : Nat) (w : Word) (h : Half) (k : Nat) :
    (s.setMemWord a w).core h k = s.core h k :=
  State.core_congr (s.setMemWord_half a w h) k

@[simp] theorem State.setMemBytes_half (s : State) (a : Nat) (l : List Byte) (h : Half) :
    (s.setMemBytes a l).half h = s.half h := by
  induction l generalizing s a with
  | nil => rfl
  | cons v l ih => exact (ih _ _).trans (s.setByte_half a v h)

@[simp] theorem bytesWrite_core (s : State) (a n v : Nat) (h : Half) (k : Nat) : (bytesWrite s a n v).core h k = s.core h k :=
  State.core_congr (s.setMemBytes_half a _ h) k

@[simp] theorem coreStore_core (s : State) (h g : Half) (k j mem idx : Nat) (w : Word) :
    (coreStore s h k mem idx w).core g j = s.core g j := by
  unfold coreStore
  split
  · exact s.setFlag_core _ _ g j
  · exact s.setMemWord_core _ w g j

/-- A core that is written keeps its stall where the new value has the old one's. -/
theorem State.setCore_stall (s : State) (h : Half) (k : Nat) (c : CoreUnit) (e : c.stall = (s.core h k).stall) :
    ((s.setCore h k c).core h k).stall = (s.core h k).stall := by
  by_cases hk : k < (s.half h).cores.length
  · rw [s.core_setCore_same c hk, e]
  · have hl : (s.setCore h k c).core h k = s.core h k := by
      unfold State.core
      rw [State.setCore_cores, List.set_eq_of_length_le (by omega)]
    rw [hl]

theorem coreLoad_seen {s : State} {h : Half} {k mem idx : Nat} (hu : (s.core h k).unseen = []) :
    coreLoad s h k mem idx = (s.memWord (coreMemAddr h k mem idx), s) := by
  simp only [coreLoad, copyHides, hu, List.any_nil, Bool.false_eq_true, if_false]

/-! Accesses to memory reached byte by byte. -/

theorem placeOf_bytes_range {a : Nat} (h : placeOf a = .bytes) : a < 0x100000000 ∨ 0x1030000000 ≤ a := by
  unfold placeOf at h
  by_contra hn
  rw [if_neg (by omega)] at h
  split at h
  · cases h
  · rw [if_pos (by omega)] at h
    split at h <;> cases h

theorem inActive_bytes {a n : Nat} (h : placeOf a = .bytes) (hn : n < 0x100000000) : inActive (a + n) = false := by
  have := placeOf_bytes_range h
  have hb : activeBase = 0x1000000000 := rfl
  refine decide_eq_false ?_
  rw [hb]
  omega

theorem inActive_of_bytes {a : Nat} (h : placeOf a = .bytes) : inActive a = false := by
  rw [← Nat.add_zero a]
  exact inActive_bytes h (Nat.zero_lt_of_ne_zero (by omega))

theorem copyAccess_bytes {s : State} {m : Master} {a : Nat} (w : Option Word) (hp : placeOf a = .bytes) :
    copyAccess s m a w = match w with
      | none => (.data (bytesRead s a 4), s)
      | some v => (.data 0, bytesWrite s a 4 v.toNat) := by
  have ha : inActive a = false := inActive_of_bytes hp
  have hn : copyAccess s m a w = accessAt s m a a 4 (w.map BitVec.toNat) := by
    unfold copyAccess
    rw [if_neg (by rw [hp]; exact Place.noConfusion)]
    unfold access
    rw [ha]
    rfl
  rw [hn]
  unfold accessAt
  rw [hp]
  cases w with
  | none => rfl
  | some v => rfl

/-- A copy of one word of a core that waits for nothing: what its access leaves, the copy gone from the list. -/
theorem copyComplete_one {s t : State} {h : Half} {k : Fin 24} {lost : Nat} {o : CopyOp} {l : List CopyOp}
    (hc : (s.core h k.val).copies = o :: l) (hs : (s.core h k.val).stall = .none) (hp : placeOf o.addr = .bytes)
    (h1 : o.count = 1) (ht : copyWords (lostSlots s h k.val lost) h k o o.addr o.idx 1 = (false, t))
    (hk : t.core h k.val = s.core h k.val) :
    copyComplete s h k lost = t.setCore h k.val { t.core h k.val with copies := l } := by
  have ha : inActive o.addr = false := inActive_of_bytes hp
  have ha' : inActive (o.addr + 4 * o.count) = false := inActive_bytes hp (by omega)
  have hst : ((t.setCore h k.val { t.core h k.val with copies := l }).core h k.val).stall = .none := by
    rw [t.setCore_stall h k.val]
    · rw [hk, hs]
    · rfl
  simp only [copyComplete, hc]
  rw [ha, ha', h1, ht]
  simp only [Bool.or_self, Bool.and_false, Bool.false_eq_true, if_false, afterCopy]
  rw [hst]

/-- Settles O18: each instruction issues as its case of issueCtl says; a copy's one word is one access of memory. -/
theorem farAccessesAndCopies : Obligations.FarAccessesAndCopies := by
  unfold Obligations.FarAccessesAndCopies
  constructor
  · intro h k dd dp pn count mem ob n s hr c a o x
    have issues (op : CoreOp) (hc : op.isCtl = true) (hf : issueFault c op noMoves = none) :=
      congrArg (Host.Outcome.next (φ := Fault) (ρ := Refusal)) (issue_ctl hr hc hf)
    have aligned (h2 : dp.val % 2 = 0) (h4 : a % 4 = 0) : ¬dp.val % 2 = 1 ∧ ¬pairAddr c dp.val % 4 ≠ 0 :=
      ⟨by omega, not_not.mpr h4⟩
    have waits (hn : n.toNat ≤ 4) : issueFault c (.waitc n.toNat) noMoves = none := by
      simp only [issueFault, noMoves, if_neg (Nat.not_lt.mpr hn)]; rfl
    refine ⟨fun h2 h4 => ?_, fun h2 h4 hlo hhi hm => ?_, fun hn hle => ?_, fun hn hlt hh => ?_, ?_, fun hu => ?_⟩
    · obtain ⟨n2, n4⟩ := aligned h2 h4
      exact ⟨issues (.fld dd.val dp.val) rfl (by simp only [issueFault, noMoves, if_neg n2, if_neg n4]; rfl),
        issues (.fst dp.val dd.val) rfl (by simp only [issueFault, noMoves, if_neg n2, if_neg n4]; rfl)⟩
    · obtain ⟨n2, n4⟩ := aligned h2 h4
      have hf : issueFault c (.copy dp.val pn.val count.toNat mem.toNat ob) noMoves = none := by
        have : ¬(count.toNat = 0 ∨ 4096 < count.toNat ∨ mem.toNat = 3) := by omega
        simp only [issueFault, noMoves, if_neg n2, if_neg n4, if_neg this]; rfl
      exact ⟨fun hl => (issues _ rfl hf).trans (congrArg Host.Outcome.next (if_neg (Nat.not_le.mpr hl))),
        fun hl => (issues _ rfl hf).trans (congrArg Host.Outcome.next (if_pos hl))⟩
    · exact (issues (.waitc n.toNat) rfl (waits hn)).trans (congrArg Host.Outcome.next (if_pos hle))
    · refine (issues (.waitc n.toNat) rfl (waits hn)).trans
        (congrArg Host.Outcome.next ((if_neg (Nat.not_le.mpr hlt)).trans ?_))
      exact haltCheck_idle ((State.flag_of_fld (s.setCore_fld _ _ _ _ _)).trans hh)
    · exact issues (.savelp pn.val) rfl rfl
    · intro w
      have hrun : exec (.restlp h k pn) s = .next (issueRestlp s h k.val pn.val) := issues (.restlp pn.val) rfl rfl
      have hw : issueRestlp s h k.val pn.val =
          if 2 ^ 13 ≤ w 1 ∨ 2 ^ 13 ≤ w 2 ∨ 32 ≤ w 3 ∨ 2 ≤ w 4 then coreFault s h k.val 4 c.pc
          else ctlEnd s h k.val [land 2 .loopState (packLoop (w 0) (w 1) (w 2) (w 3) (w 4))] [] := by
        simp only [issueRestlp, coreLoad_seen (show (s.core h k.val).unseen = [] from hu)]
        rfl
      rw [hrun, hw]
      exact ⟨fun hok => congrArg _ (if_neg (by omega)), fun hbad => congrArg _ (if_pos (by omega))⟩
  · intro h k lost o l s c s0 done
    have hx : exec (.copyComplete h k lost) s = .next (copyComplete s h k lost) := rfl
    rw [hx]
    refine ⟨fun hc => ?_, fun hc => ⟨fun hh ha => ?_, fun hs ha hp h1 => ⟨fun ho => ?_, fun ho => ?_⟩⟩⟩
    · have hc : (s.core h k.val).copies = [] := hc
      simp only [copyComplete, hc]
    · have hc : (s.core h k.val).copies = o :: l := hc
      simp only [copyComplete, hc, hh, ha, Bool.true_or, Bool.and_self, if_true]
    · refine congrArg _ (copyComplete_one hc hs hp h1 ?_ ((coreStore_core _ _ _ _ _ _ _ _).trans (s.countBy_core _ _ _ _ _)))
      simp only [copyWords, ho, copyAccess_bytes _ hp, Bool.false_eq_true, if_false]
      rw [← bytesRead_congr (s := s) (t := s0) (s.countBy_mem _ _ _)]
      rfl
    · refine congrArg _ (copyComplete_one hc hs hp h1 ?_ ((bytesWrite_core _ _ _ _ _ _).trans (s.countBy_core _ _ _ _ _)))
      simp only [copyWords, ho, copyAccess_bytes _ hp, if_true]
      rw [← State.memWord_congr (s := s) (t := s0) (s.countBy_mem _ _ _)]
      rfl

end Sys2Proof.Machine
end

section
/-! PROOFS. The scheduler's commands and the event controller (R324 to R336). -/
namespace Sys2Proof.Machine

/-! Reads and two-word writes through a view. -/

theorem viaRead_reaches {s : State} {via : Via} {h : Half} (off : Nat) (f : State → Half → Nat × State) (hr : reaches s via h) :
    viaRead s via off f = (f s h).2.answer via.m (BitVec.ofNat 64 (f s h).1) := by
  obtain ⟨m, v⟩ := via
  unfold viaRead
  cases v with
  | a => obtain rfl := hr; rfl
  | b => obtain rfl := hr; rfl
  | active => obtain ⟨h1, h2⟩ := hr; simp only [h1, h2]; rfl

theorem viaHalf2_reaches {s : State} {via : Via} {h : Half} (off value : Nat) (f : State → Half → State) (hr : reaches s via h) :
    viaHalf2 s via off value f = f s h := by
  obtain ⟨m, v⟩ := via
  unfold viaHalf2
  cases v with
  | a => obtain rfl := hr; rfl
  | b => obtain rfl := hr; rfl
  | active => obtain ⟨h1, h2⟩ := hr; simp only [h1, h2]; rfl

/-! Posts (R327). -/

theorem postAt_of {s t : State} {h : Half} {i n : Nat} {d : Option Nat} {c : Nat} {r : Bool}
    (e : postItem s h i n d c = (t, r)) : postAt s h i n d c = if r then raiseAt t h 151 n else t := by
  unfold postAt
  rw [e]
  cases r <;> rfl

theorem postItem_live {s : State} {h : Half} {i n : Nat} {d : Option Nat} {c : Nat} {x : LiveItem} (hi : i ≤ 4095)
    (ha : itemAffinity s h i ≠ 0) (hx : (s.sched h).find i = some x) :
    postItem s h i n d c = match x.st with
      | .ready => (traceEntry (s.count (SCHED.addr h) SCHED.MERGED) h i noCore 11 1, false)
      | .nextSlot k => (traceEntry (s.count (SCHED.addr h) SCHED.MERGED) h i k 11 2, false)
      | .reposted k => (traceEntry (s.count (SCHED.addr h) SCHED.MERGED) h i k 11 4, false)
      | .running k => (traceEntry (s.setSched h ((s.sched h).modItem i (fun y =>
          { y with st := .reposted k, repostAt := n, repostDeadline := d }))) h i k 11 4, false) := by
  have hv : ¬(4095 < i ∨ itemAffinity s h i = 0) := by omega
  simp only [postItem, if_neg hv, hx] <;> rfl

/-- Settles O23: a write of POST is a post of the item now, and each state of the item is one case of postItem. -/
theorem postOutcomes : Obligations.PostOutcomes := by
  unfold Obligations.PostOutcomes
  intro via h value s hr i now dl valid merged
  have hx : exec (.post via value) s = .next (postAt s h i now dl 0xFFFF) :=
    congrArg Host.Outcome.next (viaHalf_reaches s via _ _ (fun s h => postWrite s h value) h hr)
  rw [hx]
  refine ⟨fun hv => ?_, fun hv hn => ?_, fun x hv hf => ?_⟩
  · have hv' : 4095 < i ∨ itemAffinity s h i = 0 := by
      by_contra hc
      exact hv ⟨by omega, fun h0 => hc (.inr h0)⟩
    exact congrArg _ (postAt_of (if_pos hv'))
  · have hv' : ¬(4095 < i ∨ itemAffinity s h i = 0) := fun hc => hc.elim (fun h1 => absurd hv.1 (by omega)) hv.2
    refine congrArg _ (postAt_of (r := false) ((if_neg hv').trans ?_))
    simp only [hn]
    rfl
  · have live := postItem_live (n := now) (d := dl) (c := 0xFFFF) hv.1 hv.2 hf
    refine ⟨fun e => ?_, fun k e => ?_, fun k e => ?_, fun k e => ?_⟩ <;> rw [e] at live <;>
      exact congrArg _ (postAt_of live)


/-! An occurrence of an event (R335, R336). -/

theorem State.setAcq_self (s : State) (h : Half) : s.setAcq h (s.acq h) = s := by cases h <;> rfl

theorem State.setSched_self (s : State) (h : Half) : s.setSched h (s.sched h) = s := by cases h <;> rfl

@[simp] theorem State.setSched_acq (s : State) (h g : Half) (u : SchedUnit) : (s.setSched h u).acq g = s.acq g := by
  cases h <;> cases g <;> rfl

@[simp] theorem State.setSched_word (s : State) (h : Half) (u : SchedUnit) (a : Nat) : (s.setSched h u).word a = s.word a :=
  State.word_congr (s.setSched_regs h u) (s.setSched_image h u) (s.setSched_sect h u) a

/-- A trigger with no record live changes nothing. -/
theorem acqFire_none {s : State} {h : Half} (sel : Nat → Bool) (t src : Nat) (f : Bool) (hr : (s.acq h).recs = []) :
    acqFire s h sel t src f = s := by
  have hs : ({ s.acq h with recs := [] } : AcqUnit) = s.acq h := by
    rw [← hr]
  simp only [acqFire, hr, acqFireL]
  exact (congrArg (s.setAcq h) hs).trans (s.setAcq_self h)

/-- What an occurrence writes to the registers of the event controller. -/
def evtNoted (s : State) (h : Half) (e stamp : Nat) : State :=
  ((s.countIf (s.mapBit (EVT.addr h) e) (EVT.addr h) (EVT.LOST.nth e)).setMapBit (EVT.addr h) e true).setQuad
    (EVTST.addr h e) stamp

theorem evtNoted_half (s : State) (h g : Half) (e stamp : Nat) : (evtNoted s h e stamp).half g = s.half g := by
  simp only [evtNoted, State.setQuad_half, State.setMapBit_half, State.countIf_half]

theorem evtNoted_acq (s : State) (h g : Half) (e stamp : Nat) : (evtNoted s h e stamp).acq g = s.acq g :=
  congrArg HalfState.acq (evtNoted_half s h g e stamp)

/-- The registers outside the pending bits, the counts and the stamps of the events read as before. -/
theorem evtNoted_word {s : State} {h : Half} {e stamp a : Nat} (hp : a ≠ EVT.addr h + e / 32 * 4)
    (hl : a ≠ EVT.addr h + (EVT.LOST.nth e).off) (hs : a ≠ EVTST.addr h e) (hs' : a ≠ EVTST.addr h e + 4) :
    (evtNoted s h e stamp).word a = s.word a := by
  unfold evtNoted State.setMapBit
  rw [State.word_setQuad_other _ _ hs hs', State.word_setWordN_other _ _ hp]
  cases s.mapBit (EVT.addr h) e
  · rfl
  · exact State.word_setFld_other (f := EVT.LOST.nth e) _ _ (show 15 < 32 by decide) hl

/-- What the event controller's entry of event e says is as before. -/
theorem evtNoted_entry (s : State) (h : Half) {e : Nat} (stamp : Nat) (he : e < 256) :
    (evtNoted s h e stamp).word (EVT.addr h + (0x400 + e * 4)) = s.word (EVT.addr h + (0x400 + e * 4)) := by
  have hl : (EVT.LOST.nth e).off = 0x800 + e * 4 := rfl
  exact evtNoted_word (by omega) (by omega) (by unfold EVT.addr EVTST.addr; omega) (by unfold EVT.addr EVTST.addr; omega)

/-- With no record live and an entry that has no vector, an occurrence notes itself and may start the trace's freeze. -/
theorem raiseBase_quiet {s : State} {h : Half} {e stamp : Nat} (hr : (s.acq h).recs = [])
    (hv : ∀ u, (((evtNoted s h e stamp).setSched h u).fld (EVT.addr h) (EVT.ACTION.nth e) = 0) ∧
      ((evtNoted s h e stamp).setSched h u).flag (EVT.addr h) (EVT.HOST.nth e) = false) :
    ∃ u, raiseBase s h e stamp = (evtNoted s h e stamp).setSched h u := by
  have hfire := acqFire_none (acqSelects (evtNoted s h e stamp) h 6 e) stamp 6 false
    ((congrArg AcqUnit.recs (evtNoted_acq s h h e stamp)).trans hr)
  have ends : ∀ t, (∃ u, t = (evtNoted s h e stamp).setSched h u) →
      ∃ u, (if (decide (t.fld (EVT.addr h) (EVT.ACTION.nth e) = 3) || t.flag (EVT.addr h) (EVT.HOST.nth e)) &&
        decide (t.activeHalf = some h) then raiseVector t (t.fld (EVT.addr h) (EVT.VEC.nth e)) else t) =
          (evtNoted s h e stamp).setSched h u := by
    rintro t ⟨u, rfl⟩
    obtain ⟨h0, h1⟩ := hv u
    rw [h0, h1]
    exact ⟨u, rfl⟩
  unfold raiseBase
  dsimp only
  unfold evtNoted at hfire
  rw [hfire]
  refine ends _ ?_
  split
  · exact ⟨_, rfl⟩
  · exact ⟨_, (State.setSched_self _ h).symm⟩

/-- An occurrence with no record live whose entry has ACTION 0 and names no vector does nothing but what it notes, and
starts the trace's freeze where its event is the freeze event. -/
theorem raiseAt_quiet {s : State} {h : Half} {e stamp : Nat} (he : e < 256)
    (ha : s.fld (EVT.addr h) (EVT.ACTION.nth e) = 0) (hh : s.flag (EVT.addr h) (EVT.HOST.nth e) = false)
    (hr : (s.acq h).recs = []) (hm : (s.acq h).miss = false) :
    ∃ u, raiseAt s h e stamp = (evtNoted s h e stamp).setSched h u := by
  have entry (u : SchedUnit) : ((evtNoted s h e stamp).setSched h u).word (EVT.addr h + (0x400 + e * 4)) =
      s.word (EVT.addr h + (0x400 + e * 4)) := (State.setSched_word _ _ _ _).trans (evtNoted_entry s h stamp he)
  have act (u : SchedUnit) : ((evtNoted s h e stamp).setSched h u).fld (EVT.addr h) (EVT.ACTION.nth e) = 0 :=
    (State.fld_of_word (f := EVT.ACTION.nth e) (show 1 < 32 by decide) (entry u)).trans ha
  obtain ⟨u, hb⟩ := raiseBase_quiet hr (fun u => ⟨act u, (State.flag_of_fld
    (State.fld_of_word (f := EVT.HOST.nth e) (show 14 < 32 by decide) (entry u))).trans hh⟩)
  have hmiss : (((evtNoted s h e stamp).setSched h u).acq h).miss = false := by
    rw [State.setSched_acq, evtNoted_acq]
    exact hm
  refine ⟨u, ?_⟩
  unfold raiseAt
  simp only [raiseN, hb, hmiss, act u, Bool.false_eq_true, if_false]
  rfl


/-! A bit of a map, and registers put back to reset. -/

theorem State.mapBit_setMapBit_same (s : State) (a i : Nat) (b : Bool) : (s.setMapBit a i b).mapBit a i = b := by
  have hlt : setBit (s.wordN (a + i / 32 * 4)) (i % 32) b < 2 ^ 32 := setBits_lt (s.wordN_lt _) (Nat.mod_lt _ (by decide))
  unfold State.mapBit State.setMapBit
  rw [State.wordN_setWordN_same, Nat.mod_eq_of_lt hlt, bitOf_setBit, if_pos rfl]

theorem State.mapBit_of_word {s t : State} {a i : Nat} (e : t.word (a + i / 32 * 4) = s.word (a + i / 32 * 4)) :
    t.mapBit a i = s.mapBit a i := by
  unfold State.mapBit State.wordN
  rw [e]

theorem storeFind_filter_of_some {n : Nat} (p : Nat × BitVec n → Bool) {m : List (Nat × BitVec n)} {a : Nat} {w : BitVec n}
    (hf : storeFind m a = some w) (hp : p (a, w) = true) : storeFind (m.filter p) a = some w := by
  induction m with
  | nil => cases hf
  | cons c t ih =>
    obtain ⟨b, x⟩ := c
    unfold storeFind at hf
    split at hf
    · cases hf
    · rename_i hlt
      split at hf
      · rename_i hab
        subst hab
        obtain rfl := Option.some.inj hf
        rw [List.filter_cons_of_pos hp]
        simp only [storeFind, if_neg hlt, if_true]
      · rename_i hab
        by_cases hb : p (b, x) = true
        · rw [List.filter_cons_of_pos hb]
          simp only [storeFind, if_neg hlt, if_neg hab]
          exact ih hf
        · rw [List.filter_cons_of_neg hb]
          exact ih hf

theorem storeFind_none_of_not_mem {n : Nat} {m : List (Nat × BitVec n)} {a : Nat} (h : ∀ c ∈ m, c.1 ≠ a) :
    storeFind m a = none := by
  induction m with
  | nil => rfl
  | cons c t ih =>
    obtain ⟨b, x⟩ := c
    have hab : a ≠ b := (h _ (List.mem_cons_self ..)).symm
    simp only [storeFind, if_neg hab, ih (fun c hc => h c (List.mem_cons_of_mem _ hc)), ite_self]

/-- A register put back to reset reads its reset value. -/
theorem State.word_resetRegs_inside (s : State) {lo len a : Nat} (h : lo ≤ a ∧ a < lo + len) :
    (s.resetRegs lo len).word a = s.regReset a := by
  have hf : storeFind (storeClear s.regs lo len) a = none := by
    refine storeFind_none_of_not_mem fun c hc hca => ?_
    have := (List.mem_filter.mp hc).2
    rw [hca] at this
    simp [h.1, h.2] at this
  unfold State.word State.resetRegs
  simp only [hf]
  rfl

/-- A register that was written reads what was written when others are put back to reset. -/
theorem State.word_setWord_resetRegs (s : State) {lo len a : Nat} (w : Word) (h : ¬(lo ≤ a ∧ a < lo + len)) :
    ((s.setWord a w).resetRegs lo len).word a = w := by
  have hf : storeFind (storeClear (storePut s.regs a w) lo len) a = some w := by
    refine storeFind_filter_of_some _ (storeFind_put_same _ _ _) ?_
    simp only [Bool.not_eq_true', Bool.and_eq_false_iff, decide_eq_false_iff_not]
    omega
  unfold State.word State.resetRegs State.setWord
  simp only [hf]


/-! The registers of the scheduler (R325, R334, R336). -/

theorem itemState_ne_zero {s : State} {h : Half} {i : Nat} (hn : (s.sched h).find i ≠ none) : itemState s h i ≠ 0 := by
  unfold itemState
  cases hx : (s.sched h).find i with
  | none => exact absurd hx hn
  | some x => cases hs : x.st <;> simp [hs, ItemSt.code]

/-- A write that is discarded. -/
theorem descWrite_bad {s : State} {h : Half} {i w : Nat} {v : Word}
    (hb : itemState s h i ≠ 0 ∨ (w = 0 ∧ bitsOf v.toNat 19 16 = 0) ∨ (w = 1 ∧ v.toNat % 2 ^ 24 = 0)) :
    descWrite s h i w v = s.setFlag (SCHED.addr h) SCHED.PARAM_ERR := by
  refine if_pos ?_
  simp only [Bool.or_eq_true, Bool.and_eq_true, decide_eq_true_eq]
  tauto

/-- A write of an idle item's descriptor that leaves GROUP and AFFINITY other than 0. -/
theorem descWrite_good {s : State} {h : Half} {i : Nat} (v : Word) (hi : (s.sched h).find i = none) (w : Nat)
    (hg : w = 0 → bitsOf v.toNat 19 16 ≠ 0) (ha : w = 1 → v.toNat % 2 ^ 24 ≠ 0) :
    descWrite s h i w v =
      let s := s.setFld (DESC.addr h i) DESC.REQ 0
      match w with
      | 0 => s.setWordN (DESC.addr h i) (setBits (setBits v.toNat 23 22 0) 15 13 0)
      | 1 => s.setWordN (DESC.addr h i + 4) (v.toNat % 2 ^ 24)
      | 2 => s.setWord (DESC.addr h i + 8) v
      | 3 => s.setWordN (DESC.addr h i + 12) (v.toNat % 256)
      | 4 => s.setWord (DESC.addr h i + 16) v
      | 5 => s.setWord (DESC.addr h i + 20) v
      | _ => s := by
  refine if_neg ?_
  simp only [itemState, hi, Bool.or_eq_true, Bool.and_eq_true, decide_eq_true_eq]
  tauto

theorem State.setWordN_toNat (s : State) (a : Nat) (v : Word) : s.setWordN a v.toNat = s.setWord a v := by
  unfold State.setWordN
  rw [BitVec.ofNat_toNat, BitVec.setWidth_eq]

/-- A field of a block's word after a write of another field of the same word. -/
theorem State.fld_setFld_next (s : State) {b : Nat} {f g : Fld} (v : Nat) (hf : f.hi < 32) (hg : g.hi < 32)
    (ho : g.off = f.off) (hd : g.hi < f.lo ∨ f.hi < g.lo) : (s.setFld b f v).fld b g = s.fld b g :=
  s.fld_setFld_beside v hf hg (congrArg (b + ·) ho) hd

/-- A field of a block's word after a write of another word of the block. -/
theorem State.fld_setFld_off (s : State) {b : Nat} {f g : Fld} (v : Nat) (hf : f.hi < 32) (hg : g.hi < 32)
    (ho : g.off ≠ f.off) : (s.setFld b f v).fld b g = s.fld b g :=
  s.fld_setFld_apart v hf hg (by omega)

/-- The fields of SCHED.TRACE after a write that empties the trace, one after the other. -/
theorem traceFields (s : State) (b x y : Nat) :
    let t := (((s.setFld b SCHED.FREEZE_EN x).setFld b SCHED.FREEZE_EVT y).setFld b SCHED.WR_IDX 0).setFld b SCHED.FROZEN 0
    t.fld b SCHED.WR_IDX = 0 ∧ t.fld b SCHED.FROZEN = 0 ∧ t.fld b SCHED.FREEZE_EN = x % 2 ∧
      t.fld b SCHED.FREEZE_EVT = y % 256 := by
  simp (disch := decide) only [State.fld_setFld_same, State.fld_setFld_next]
  exact ⟨Nat.zero_mod _, Nat.zero_mod _, rfl, rfl⟩

/-- The registers a write of TRACE that empties it leaves: the fields it writes, and the trace at reset. -/
theorem traceWrite_clear {s : State} {h : Half} {v : Nat} (hv : bitOf v 24 = true) :
    let t := traceWrite s h v
    t.fld (SCHED.addr h) SCHED.WR_IDX = 0 ∧ t.fld (SCHED.addr h) SCHED.FROZEN = 0 ∧
      t.fld (SCHED.addr h) SCHED.FREEZE_EN = bitsOf v 15 15 % 2 ∧ t.fld (SCHED.addr h) SCHED.FREEZE_EVT = bitsOf v 23 16 % 256 ∧
      (t.sched h).freezeLeft = none ∧ (∀ n, n < 0x40000 → t.word (TRC.addr h 0 + n) = s.regReset (TRC.addr h 0 + n)) ∧
      t.mem = s.mem := by
  let b := SCHED.addr h
  let s1 := s.setFld b SCHED.FREEZE_EN (bitsOf v 15 15)
  let s2 := s1.setFld b SCHED.FREEZE_EVT (bitsOf v 23 16)
  let s3 := s2.setFld b SCHED.WR_IDX 0
  let s4 := s3.setFld b SCHED.FROZEN 0
  let u : SchedUnit := { s4.sched h with freezeLeft := none }
  have ht : traceWrite s h v = (s4.setSched h u).resetRegs (TRC.addr h 0) 0x40000 := if_pos hv
  have hcomm : (s4.setSched h u).resetRegs (TRC.addr h 0) 0x40000 = (s4.resetRegs (TRC.addr h 0) 0x40000).setSched h u := by
    cases h <;> rfl
  have hw : (traceWrite s h v).word (b + 0x14) = s4.word (b + 0x14) := by
    rw [ht, hcomm, State.setSched_word]
    have hs4 : s4 = s3.setWord (b + 0x14) (s4.word (b + 0x14)) := by
      have e : s4 = s3.setWordN (b + 0x14) (setBits (s3.wordN (b + 0x14)) 14 14 0) := rfl
      conv_rhs => rw [e]
      rw [e]
      unfold State.setWordN
      rw [State.word_setWord_same]
    rw [hs4, State.word_setWord_resetRegs _ _ (by change ¬(TRC.addr h 0 ≤ SCHED.addr h + 0x14 ∧ _); unfold TRC.addr SCHED.addr; omega),
      State.word_setWord_same]
  have fld (f : Fld) (hf : f.hi < 32) (ho : f.off = 0x14) : (traceWrite s h v).fld b f = s4.fld b f :=
    State.fld_of_word hf (by rw [ho]; exact hw)
  obtain ⟨hwr, hfr, hfen, hfev⟩ := traceFields s b (bitsOf v 15 15) (bitsOf v 23 16)
  refine ⟨(fld _ (by decide) rfl).trans hwr, (fld _ (by decide) rfl).trans hfr, (fld _ (by decide) rfl).trans hfen,
    (fld _ (by decide) rfl).trans hfev, ?_, fun n hn => ?_, ?_⟩
  · rw [ht, hcomm]
    have : ((s4.resetRegs (TRC.addr h 0) 0x40000).setSched h u).sched h = u := by cases h <;> rfl
    rw [this]
  · rw [ht, hcomm, State.setSched_word, State.word_resetRegs_inside _ ⟨by omega, by omega⟩]
    exact State.regReset_congr (by simp only [s4, s3, s2, s1, State.setFld_image]) (by simp only [s4, s3, s2, s1, State.setFld_sect]) _
  · rw [ht]
    simp only [State.resetRegs_mem, State.setSched_mem, s4, s3, s2, s1, State.setFld_mem]

theorem State.countIf_mem (s : State) (c : Bool) (b : Nat) (f : Fld) : (s.countIf c b f).mem = s.mem := by
  cases c
  · rfl
  · exact s.count_mem b f

theorem State.countIf_isl (s : State) (c : Bool) (b : Nat) (f : Fld) : (s.countIf c b f).isl = s.isl := by
  cases c
  · rfl
  · exact s.count_isl b f

theorem evtNoted_mem (s : State) (h : Half) (e stamp : Nat) : (evtNoted s h e stamp).mem = s.mem := by
  simp only [evtNoted, State.setQuad_mem, State.setMapBit_mem, State.countIf_mem]

theorem evtNoted_isl (s : State) (h : Half) (e stamp : Nat) : (evtNoted s h e stamp).isl = s.isl := by
  simp only [evtNoted, State.setQuad_isl, State.setMapBit_isl, State.countIf_isl]

/-- The count of an event after its occurrence. -/
theorem evtNoted_lost (s : State) (h : Half) {e : Nat} (stamp : Nat) (he : e < 256) :
    (evtNoted s h e stamp).fld (EVT.addr h) (EVT.LOST.nth e) =
      if s.mapBit (EVT.addr h) e then Nat.min (s.fld (EVT.addr h) (EVT.LOST.nth e) + 1) (2 ^ 16 - 1)
      else s.fld (EVT.addr h) (EVT.LOST.nth e) := by
  have hhi : (EVT.LOST.nth e).hi < 32 := show 15 < 32 by decide
  have hoff : EVT.addr h + (EVT.LOST.nth e).off = EVT.addr h + (0x800 + e * 4) := rfl
  have hw : (evtNoted s h e stamp).word (EVT.addr h + (EVT.LOST.nth e).off) =
      (s.countIf (s.mapBit (EVT.addr h) e) (EVT.addr h) (EVT.LOST.nth e)).word (EVT.addr h + (EVT.LOST.nth e).off) := by
    unfold evtNoted State.setMapBit
    rw [hoff, State.word_setQuad_other _ _ (by unfold EVT.addr EVTST.addr; omega) (by unfold EVT.addr EVTST.addr; omega),
      State.word_setWordN_other _ _ (by omega)]
  rw [State.fld_of_word hhi hw]
  cases s.mapBit (EVT.addr h) e
  · rfl
  · have hlt : Nat.min (s.fld (EVT.addr h) (EVT.LOST.nth e) + 1) (2 ^ 16 - 1) < 2 ^ 16 :=
      lt_of_le_of_lt (Nat.min_le_right _ _) (by decide)
    exact (s.fld_setFld_same _ hhi).trans (Nat.mod_eq_of_lt hlt)

theorem half_other_ne (h : Half) : h.other ≠ h := by cases h <;> exact Half.noConfusion

/-- Settles O24: descWrite, traceWrite and freezeTrace case by case, and what a quiet occurrence notes. -/
theorem schedulerRegisterCommands : Obligations.SchedulerRegisterCommands := by
  unfold Obligations.SchedulerRegisterCommands
  constructor
  · intro via h item evt v en fe s hr b q idle bad r0 put
    have hx (w : Fin 8) : exec (.descriptorWrite via item w v) s = .next (descWrite s h item.val w.val v) :=
      congrArg Host.Outcome.next (viaHalf_reaches s via _ _ (fun s h => descWrite s h item.val w.val v) h hr)
    refine ⟨fun hi w => ?_, fun h0 => ?_, fun h0 => ?_, fun hi => ?_, ?_, fun hl hf => ?_, fun hl => ?_, ?_⟩
    · exact (hx w).trans (congrArg _ (descWrite_bad (.inl (itemState_ne_zero hi))))
    · exact (hx 0).trans (congrArg _ (descWrite_bad (.inr (.inl ⟨rfl, h0⟩))))
    · exact (hx 1).trans (congrArg _ (descWrite_bad (.inr (.inr ⟨rfl, h0⟩))))
    · have good := descWrite_good v hi
      have word (w : Fin 8) (hw : 2 ≤ w.val) := (hx w).trans (congrArg Host.Outcome.next (good w.val (by omega) (by omega)))
      have whole (n : Nat) : Host.Outcome.next (φ := Fault) (ρ := Refusal) (r0.setWord (b + 4 * n) v) = put n v.toNat :=
        congrArg Host.Outcome.next (r0.setWordN_toNat _ v).symm
      exact ⟨fun hg => (hx 0).trans (congrArg _ (good 0 (fun _ => hg) (fun h => absurd h (by decide)))),
        fun ha => (hx 1).trans (congrArg _ (good 1 (fun h => absurd h (by decide)) (fun _ => ha))),
        (word 2 (by decide)).trans (whole 2), word 3 (by decide), (word 4 (by decide)).trans (whole 4),
        (word 5 (by decide)).trans (whole 5), word 6 (by decide), word 7 (by decide)⟩
    · have hfe := fe.isLt
      have hen : b2n en ≤ 1 := by cases en <;> decide
      let n := 2 ^ 24 + fe.toNat * 2 ^ 16 + b2n en * 2 ^ 15
      have h24 : bitOf n 24 = true := by
        simp only [bitOf, decide_eq_true_eq, n]
        omega
      have h15 : bitsOf n 15 15 % 2 = b2n en := by
        simp only [bitsOf, n]
        omega
      have h16 : bitsOf n 23 16 % 256 = fe.toNat := by
        simp only [bitsOf, n]
        omega
      obtain ⟨hwr, hfr, hfen, hfev, hleft, htr, hmem⟩ := traceWrite_clear (s := s) (h := h) h24
      refine ⟨traceWrite s h n, congrArg Host.Outcome.next (viaHalf_reaches s via _ _ (fun s h => traceWrite s h n) h hr),
        hwr, hfr, ?_, hfev.trans h16, hleft, htr, hmem⟩
      unfold State.flag
      rw [hfen.trans h15]
      cases en <;> rfl
    · exact congrArg _ (if_pos ⟨hl, by rw [hf]; rfl⟩)
    · exact congrArg _ (if_neg fun hc => hl hc.1)
    · exact congrArg Host.Outcome.next (viaRead_reaches _ _ hr)
  · intro h e stamp s ha hh hrec hm t
    obtain ⟨u, hu⟩ := raiseAt_quiet e.isLt ha hh hrec hm
    have hword (a : Nat) : t.word a = (evtNoted s h e.val stamp).word a := by
      change (raiseAt s h e.val stamp).word a = _
      rw [hu, State.setSched_word]
    have hquad (a : Nat) : t.quad a = (evtNoted s h e.val stamp).quad a := by
      simp only [State.quad, State.wordN, hword]
    have hhalf (g : Half) : ((evtNoted s h e.val stamp).setSched h u).half g = (s.setSched h u).half g := by
      by_cases hg : g = h
      · subst hg
        simp only [State.setSched, State.half_onHalf_same, evtNoted_half]
      · simp only [State.setSched, State.half_onHalf_other _ _ hg, evtNoted_half]
    refine ⟨?_, ?_, ?_, ?_, ?_, ?_, fun k => ?_⟩
    · refine (State.mapBit_of_word (hword _)).trans ?_
      have hev (m : Nat) : EVTST.addr h e.val + m ≠ EVT.addr h + e.val / 32 * 4 := by
        have := e.isLt
        unfold EVTST.addr EVT.addr
        omega
      exact (State.mapBit_of_word (State.word_setQuad_other _ _ (hev 0).symm (hev 4).symm)).trans
        (State.mapBit_setMapBit_same _ _ _ _)
    · rw [hquad]
      exact State.quad_setQuad_same _ _ _
    · exact (State.fld_of_word (show 15 < 32 by decide) (hword _)).trans (evtNoted_lost s h stamp e.isLt)
    · change (raiseAt s h e.val stamp).mem = _
      rw [hu, State.setSched_mem]
      exact evtNoted_mem s h e.val stamp
    · change (raiseAt s h e.val stamp).isl = _
      rw [hu, State.setSched_isl]
      exact evtNoted_isl s h e.val stamp
    · change (raiseAt s h e.val stamp).half h.other = _
      rw [hu, hhalf, State.setSched, State.half_onHalf_other _ _ (half_other_ne h)]
    · change (raiseAt s h e.val stamp).core h k = _
      rw [hu]
      exact (State.core_congr (hhalf h) k).trans (s.setSched_core h u h k)

end Sys2Proof.Machine
end

section
/-! PROOFS. Work items that end, far accesses and argument prefetches that complete, debugging (R315, R316, R323, R331). -/
namespace Sys2Proof.Machine

/-- A late item with a number beyond the 4,096 descriptors, which takes its descriptor from the first entry of the trace. -/
def pastTableItem : LiveItem :=
  { num := 6144, st := .running 0, release := 0, deadline := some 0, seq := 0, front := false, startedLate := false,
    repostAt := 0, repostDeadline := none }

/-- Core 0 of Half A at the end of that item, at an instant whose bit 22 is set. -/
def pastTableState : State :=
  { State.reset with halfA := { HalfState.reset with
      cores := HalfState.reset.cores.set 0 { CoreUnit.reset with item := some 6144, stall := .ending none }
      sched := { SchedUnit.reset with live := [pastTableItem], lateArmed := false, lateNow := false }
      time := { TimeUnit.reset with tb3 := { TimeUnit.reset.tb3 with val := 2 ^ 70 } } } }

/-- The trace's entry of the late item sets REQ in the word the item's descriptor is read from, so its end counts as that of
late required work. -/
theorem pastTableState_late : ((itemEnd (pastTableState.passTime 0) .a 0).sched .a).lateNow = true := by decide +kernel

/-- Refutes O25: the statement does not bound the item's number. An item 6,144 takes its descriptor from the trace's first
entry, which the end of the item writes: REQ is 0 before and 1 after, and the late item arms event 150 again. -/
theorem not_itemsCompleteOrAreAbandoned : ¬ Obligations.ItemsCompleteOrAreAbandoned := by
  unfold Obligations.ItemsCompleteOrAreAbandoned
  intro hall
  have hend := hall.1 .a 0 6144 0 pastTableItem none pastTableState rfl rfl rfl rfl rfl (by decide +kernel) rfl
    (by decide +kernel) (by decide +kernel)
  have hlate := congrArg (fun t : State => (t.sched .a).lateNow) (Host.Outcome.next.inj hend)
  exact absurd (pastTableState_late.symm.trans hlate) (by decide +kernel)


/-! Words of memory. -/

theorem setByte_wf {s : State} (a : Nat) (v : Byte) (h : Memory.wf s.mem = true) : Memory.wf (s.setByte a v).mem = true :=
  storeWf_set a v h

theorem setMemWord_wf {s : State} (a : Nat) (w : Word) (h : Memory.wf s.mem = true) : Memory.wf (s.setMemWord a w).mem = true :=
  setByte_wf _ _ (setByte_wf _ _ (setByte_wf _ _ (setByte_wf _ _ h)))

theorem byte_setMemWord_other {s : State} {a x : Nat} (w : Word) (hw : Memory.wf s.mem = true) (n : x < a ∨ a + 4 ≤ x) :
    (s.setMemWord a w).byte x = s.byte x := by
  unfold State.setMemWord
  rw [State.byte_setByte_other _ _ (by omega) (setByte_wf _ _ (setByte_wf _ _ (setByte_wf _ _ hw))),
    State.byte_setByte_other _ _ (by omega) (setByte_wf _ _ (setByte_wf _ _ hw)),
    State.byte_setByte_other _ _ (by omega) (setByte_wf _ _ hw), State.byte_setByte_other _ _ (by omega) hw]

theorem memWord_setMemWord_other {s : State} {a x : Nat} (w : Word) (hw : Memory.wf s.mem = true) (n : x + 4 ≤ a ∨ a + 4 ≤ x) :
    (s.setMemWord a w).memWord x = s.memWord x := by
  unfold State.memWord
  rw [byte_setMemWord_other w hw (by omega), byte_setMemWord_other w hw (by omega), byte_setMemWord_other w hw (by omega),
    byte_setMemWord_other w hw (by omega)]

/-- A word is its four bytes. -/
theorem word_of_bytes (w : Word) :
    (w.extractLsb' 24 8 ++ w.extractLsb' 16 8 ++ w.extractLsb' 8 8 ++ w.extractLsb' 0 8 : BitVec 32) = w := by
  apply BitVec.eq_of_getLsbD_eq
  intro i hi
  simp only [BitVec.getLsbD_append, BitVec.getLsbD_extractLsb']
  split
  · simp [*]
  · split
    · rename_i h1 h2
      simp [show 8 + (i - 8) = i by omega, h2]
    · split
      · rename_i h1 h2 h3
        simp [show 16 + (i - 8 - 8) = i by omega, h3]
      · rename_i h1 h2 h3
        simp [show 24 + (i - 8 - 8 - 8) = i by omega, show i - 8 - 8 - 8 < 8 by omega]

theorem memWord_setMemWord_same {s : State} (a : Nat) (w : Word) (hw : Memory.wf s.mem = true) :
    (s.setMemWord a w).memWord a = w := by
  have w1 := setByte_wf (s := s) a (w.extractLsb' 0 8) hw
  have w2 := setByte_wf (a + 1) (w.extractLsb' 8 8) w1
  have w3 := setByte_wf (a + 2) (w.extractLsb' 16 8) w2
  unfold State.memWord State.setMemWord
  rw [State.byte_setByte_same _ _ _ w3, State.byte_setByte_other _ _ (by omega) w3, State.byte_setByte_same _ _ _ w2,
    State.byte_setByte_other _ _ (by omega) w3, State.byte_setByte_other _ _ (by omega) w2, State.byte_setByte_same _ _ _ w1,
    State.byte_setByte_other _ _ (by omega) w3, State.byte_setByte_other _ _ (by omega) w2,
    State.byte_setByte_other _ _ (by omega) w1, State.byte_setByte_same _ _ _ hw]
  exact word_of_bytes w

/-! Argument prefetch (R331). -/

/-- Word idx of a core's X memory. -/
theorem coreMemAddr_x (h : Half) (k : Nat) {idx : Nat} (hi : idx < 16384) :
    coreMemAddr h k 0 idx = coreMemAddr h k 0 0 + 4 * idx := by
  unfold coreMemAddr
  omega

/-- A prefetch leaves every word as it is that lies below its destination. -/
theorem prefetchWords_below {t : State} (h : Half) (k src : Nat) {idx n a : Nat} (hn : idx + n ≤ 16384)
    (hw : Memory.wf t.mem = true) (ha : a + 4 ≤ coreMemAddr h k 0 0 + 4 * idx) :
    (prefetchWords t h k src idx n).memWord a = t.memWord a := by
  induction n generalizing t src idx with
  | zero => rfl
  | succ n ih =>
    have hx := coreMemAddr_x h k (idx := idx) (by omega)
    exact (ih _ (by omega) (setMemWord_wf _ _ hw) (by omega)).trans (memWord_setMemWord_other _ hw (by omega))

/-- A prefetch from memory below the core's X memory copies each word. -/
theorem prefetchWords_copies {t : State} {h : Half} {k src idx n : Nat} (hn : idx + n ≤ 16384) (hw : Memory.wf t.mem = true)
    (hs : ∀ m, m < n → regRowAt (src + 4 * m) = none ∧ src + 4 * m + 4 ≤ coreMemAddr h k 0 0) {m : Nat} (hm : m < n) :
    (prefetchWords t h k src idx n).memWord (coreMemAddr h k 0 (idx + m)) = t.memWord (src + 4 * m) := by
  induction n generalizing t src idx m with
  | zero => omega
  | succ n ih =>
    obtain ⟨hreg, hlow⟩ := hs 0 (by omega)
    have hx := coreMemAddr_x h k (idx := idx) (by omega)
    simp only [Nat.mul_zero, Nat.add_zero] at hreg hlow
    have hstep : prefetchWords t h k src idx (n + 1) =
        prefetchWords (t.setMemWord (coreMemAddr h k 0 idx) (t.memWord src)) h k (src + 4) (idx + 1) n := by
      simp only [prefetchWords, hreg, Option.isSome_none, Bool.false_eq_true, if_false]
    rw [hstep]
    cases m with
    | zero =>
      change (prefetchWords _ h k (src + 4) (idx + 1) n).memWord (coreMemAddr h k 0 idx) = t.memWord src
      rw [prefetchWords_below h k _ (by omega) (setMemWord_wf _ _ hw) (by omega), memWord_setMemWord_same _ _ hw]
    | succ m =>
      have hsrc := (hs (m + 1) (by omega)).2
      have hrec := ih (t := t.setMemWord (coreMemAddr h k 0 idx) (t.memWord src)) (src := src + 4) (idx := idx + 1) (m := m)
        (by omega) (setMemWord_wf _ _ hw)
        (fun j hj => by
          rw [show src + 4 + 4 * j = src + 4 * (j + 1) by omega]
          exact hs (j + 1) (by omega)) (by omega)
      rw [show idx + (m + 1) = idx + 1 + m by omega, hrec, show src + 4 + 4 * m = src + 4 * (m + 1) by omega,
        memWord_setMemWord_other _ hw (by omega)]

/-- Settles O26: farAccess and prefetchDone case by case; a prefetch copies word by word. -/
theorem farAccessEnds : Obligations.FarAccessEnds := by
  unfold Obligations.FarAccessEnds
  constructor
  · intro h k f lost s hf hw s1 r
    have hx : exec (.farAccessComplete h k lost) s = .next (coreEnded r.2 h k f r.1) := by
      change Host.Outcome.next (farAccess s h k lost) = _
      simp only [farAccess, hf, hw, Bool.false_eq_true, if_false]
      rfl
    rw [hx]
    refine ⟨fun v hr hs => ?_, fun v w hr hs => ?_, fun n hr => ?_, fun hr => ?_⟩ <;> rw [hr]
    · simp only [coreEnded, farDone, hs]
      rfl
    · simp only [coreEnded, farDone, hs]
      rfl
    · rfl
    · rfl
  · intro h k i lost s c words
    have hx : exec (.argPrefetchComplete h k lost) s = .next (prefetchDone s h k.val lost) := rfl
    rw [hx]
    refine ⟨fun hi hs => ?_, fun hs hi hr => ?_, fun t src idx n hn hw hsrc m hm => prefetchWords_copies hn hw hsrc hm⟩
    · have hi : (s.core h k.val).item = some i := hi
      have hs : (s.core h k.val).stall = .args := hs
      simp only [prefetchDone, hi, hs]
      rfl
    · have hi : (s.core h k.val).nextItem = some i := hi
      have hs : (s.core h k.val).stall = .none := hs
      have hr : (s.core h k.val).nextReady = false := hr
      simp only [prefetchDone, hi, hs, hr, Bool.false_eq_true, if_false]
      rfl

/-! Debugging of the cores (R323). -/

theorem State.putFlag_core (s : State) (b : Nat) (f : Fld) (x : Bool) (h : Half) (k : Nat) :
    (s.putFlag b f x).core h k = s.core h k :=
  State.core_congr (s.putFlag_half b f x h) k

theorem readReg_of_not_exists {c : CoreUnit} {r : Nat} (g : Bool) (h : regExists r = false) : c.readReg r g = none := by
  cases hv : c.readReg r g with
  | none => rfl
  | some v => exact absurd (regExists_of_readReg hv) (by rw [h]; decide)

/-- CORE.REG of a data register that does not rotate takes the word written. -/
theorem coreRegWrite_d {s : State} {h : Half} {k r : Nat} (w : Word) (hr : r < 32) (hh : (s.core h k).halted = true)
    (hk : k < (s.half h).cores.length) :
    (coreRegWrite s h k r w).core h k = { s.core h k with d := (s.core h k).d.set r w } := by
  have hw : writeReg (s.core h k) r w = (s.core h k, [land 1 (.d r) w.toNat]) := by
    unfold writeReg
    rw [if_pos (by omega), physD, if_pos hr]
  have hl : landReady (s.core h k) 0 [] [land 0 (.d r) w.toNat] = ({ s.core h k with d := (s.core h k).d.set r w }, 0, []) := by
    have h1 : landOne (s.core h k) (land 0 (.d r) w.toNat) = ({ s.core h k with d := (s.core h k).d.set r w }, 0) := by
      simp only [landOne, land, raiseSticky_zero, ofNat_ofS]
      rw [BitVec.ofInt_natCast, BitVec.ofNat_toNat, BitVec.setWidth_eq]
    simp only [landReady, h1]
    rfl
  have hx : coreRegWrite s h k r w = coreFlags (s.setCore h k { s.core h k with d := (s.core h k).d.set r w }) h k 0 := by
    unfold coreRegWrite
    dsimp only
    rw [if_pos hh, hw]
    exact congrArg (fun r : CoreUnit × Nat × List Landing => coreFlags (s.setCore h k r.1) h k r.2.1) hl
  rw [hx, coreFlags_core, State.core_setCore_same _ _ hk]

/-- Settles O27: haltWrite, haltCheck, stepCore and the debug image's registers case by case. -/
theorem coreDebugging : Obligations.CoreDebugging := by
  unfold Obligations.CoreDebugging
  intro via h k r w s hr c b
  have reach (off v : Nat) (f : State → Half → State) := congrArg (Host.Outcome.next (φ := Fault) (ρ := Refusal))
    (viaHalf_reaches s via off v f h hr)
  have read (off : Nat) (f : State → Half → Nat × State) := congrArg (Host.Outcome.next (φ := Fault) (ρ := Refusal))
    (viaRead_reaches (s := s) (via := via) off f hr)
  have hread (e : Word) (he : coreRegRead s h k.val r.toNat = e) :
      exec (.coreRegAccess via k r none) s = .next (s.answer via.m (BitVec.ofNat 64 e.toNat)) := by
    rw [← he]
    exact read _ _
  refine ⟨reach _ _ _, fun hi hk => ?_, fun hh hf hx hie hs hf' => ?_, fun hh => ⟨?_, ?_, ?_⟩, fun hh => ⟨?_, ?_, ?_, ?_⟩⟩
  · refine (reach _ _ (fun s h => haltWrite s h k.val false)).trans (congrArg _ ?_)
    have hcore : (s.putFlag b CORE.HALT false).core h k.val = c := s.putFlag_core _ _ _ _ _
    have hitem : (((s.putFlag b CORE.HALT false).setCore h k.val { c with halted := false }).core h k.val).item ≠ none := by
      rw [State.core_setCore_same _ _ (by rw [State.putFlag_half]; exact hk)]
      exact hi
    unfold haltWrite
    dsimp only
    rw [if_neg Bool.false_ne_true, hcore]
    exact if_neg (fun hn => hitem (Option.isNone_iff_eq_none.mp hn))
  · have hs : (s.core h k.val).stall = .none := hs
    refine (if_pos ?_).trans ?_
    · rw [hf', hh, hf, hx, hie]
      rfl
    · rw [hs]
  · exact (reach _ _ (fun s h => stepCore s h k.val)).trans (congrArg _ (if_pos (by rw [hh]; rfl)))
  · exact hread 0 (if_neg (by rw [hh]; exact Bool.false_ne_true))
  · exact (reach _ _ (fun s h => coreRegWrite s h k.val r.toNat w)).trans
      (congrArg _ (if_neg (by rw [hh]; exact Bool.false_ne_true)))
  · intro v hv hlt
    have he : coreRegRead s h k.val r.toNat = BitVec.ofNat 32 v := (if_pos hh).trans (by rw [hv]; rfl)
    rw [hread _ he, BitVec.toNat_ofNat, Nat.mod_eq_of_lt hlt]
  · intro hn
    exact hread 0 ((if_pos hh).trans (by rw [readReg_of_not_exists false hn]; rfl))
  · intro h32 hk
    exact ⟨_, reach _ _ (fun s h => coreRegWrite s h k.val r.toNat w), coreRegWrite_d w h32 hh hk⟩
  · refine (reach _ _ (fun s h => stepCore s h k.val)).trans (congrArg _ ((if_neg ?_).trans ?_))
    · rw [hh]
      exact Bool.false_ne_true
    · simp only [List.isEmpty_iff]

end Sys2Proof.Machine
end

section
/-! PROOFS. The step of the block and its state after reset. -/
namespace Sys2Proof.Machine

/-- Settles O1. -/
theorem stepRunsFrontCommand : Obligations.StepRunsFrontCommand := by
  unfold Obligations.StepRunsFrontCommand
  intro c rest s hp
  unfold step
  rw [hp]

/-- Settles O2: an idle step is passTime 1, which moves the clocks alone. -/
theorem idleStepIsATick : Obligations.IdleStepIsATick := by
  unfold Obligations.IdleStepIsATick
  intro s hp
  have hs : step s = .next (s.passTime 1) := by
    unfold step
    rw [hp]
  refine ⟨_, hs, rfl, rfl, rfl, hp, rfl, rfl, rfl, rfl, rfl, fun h => ?_, fun h => ?_⟩
  · cases h <;> exact ⟨rfl, rfl, rfl⟩
  · cases h <;> rfl

/-- Settles O3: the stores are empty, and the columns are read off the register table. -/
theorem resetState : Obligations.ResetState := by
  unfold Obligations.ResetState
  refine ⟨rfl, rfl, rfl, rfl, rfl, fun a => rfl, fun h => ?_⟩
  cases h <;> decide +kernel

end Sys2Proof.Machine
end

section
/-! PROOFS. Rules of fields and of units beside one another: what any field of a block and any unit of a half reads after a write
of another. -/
namespace Sys2Proof.Machine

/-- A command through a view that reaches a half acts there. -/
theorem next_reaches {s : State} {via : Via} {h : Half} (hr : reaches s via h) (off v : Nat) (f : State → Half → State) :
    Host.Outcome.next (φ := Fault) (ρ := Refusal) (viaHalf s via off v f) = .next (f s h) :=
  congrArg Host.Outcome.next (viaHalf_reaches s via off v f h hr)

/-! Fields of a block. -/

/-- The bytes of the register or of the two-word quantity a field lies in. -/
def Fld.span (f : Fld) : Nat := if f.hi < 32 then 4 else 8

/-- Two fields of a block share no word, or share one word and no bit of it. -/
def Fld.apart (f g : Fld) : Bool :=
  decide (f.off + f.span ≤ g.off) || decide (g.off + g.span ≤ f.off) ||
    (decide (f.hi < 32) && decide (g.hi < 32) && decide (f.off = g.off) && (decide (g.hi < f.lo) || decide (f.hi < g.lo)))

/-- A register outside the words of a field reads as before after a write of the field. -/
theorem State.word_setFld_outside (s : State) {b a : Nat} {f : Fld} (v : Nat) (h : a < b + f.off ∨ b + f.off + f.span ≤ a) :
    (s.setFld b f v).word a = s.word a := by
  unfold Fld.span at h
  unfold State.setFld
  split
  · rename_i hf
    rw [if_pos hf] at h
    exact State.word_setWordN_other _ _ (by omega)
  · rename_i hf
    rw [if_neg hf] at h
    exact State.word_setQuad_other _ _ (by omega) (by omega)

/-- A field is a function of its words. -/
theorem State.fld_of_words {s t : State} {b : Nat} {f : Fld}
    (e : ∀ a, b + f.off ≤ a → a < b + f.off + f.span → t.word a = s.word a) : t.fld b f = s.fld b f := by
  unfold Fld.span at e
  unfold State.fld State.quad State.wordN
  split
  · rename_i hf
    rw [if_pos hf] at e
    rw [e _ (by omega) (by omega)]
  · rename_i hf
    rw [if_neg hf] at e
    rw [e _ (by omega) (by omega), e _ (by omega) (by omega)]

theorem Fld.span_pos (f : Fld) : 0 < f.span := by
  unfold Fld.span
  split <;> omega

/-- A field of a block reads as before after a write of a field apart from it. -/
theorem State.fld_setFld_of_apart (s : State) {b : Nat} {f g : Fld} (v : Nat) (h : f.apart g = true) :
    (s.setFld b f v).fld b g = s.fld b g := by
  simp only [Fld.apart, Bool.or_eq_true, Bool.and_eq_true, decide_eq_true_eq] at h
  rcases h with (h | h) | ⟨⟨⟨hf, hg⟩, ho⟩, hd⟩
  · exact State.fld_of_words fun a h1 h2 => State.word_setFld_outside _ _ (by omega)
  · exact State.fld_of_words fun a h1 h2 => State.word_setFld_outside _ _ (by omega)
  · exact State.fld_setFld_next _ _ hf hg ho.symm hd

/-- A field reads what was written to it. -/
theorem State.fld_setFld_eq (s : State) {b : Nat} {f : Fld} (v : Nat) (h : f.hi < 64) :
    (s.setFld b f v).fld b f = v % 2 ^ (f.hi + 1 - f.lo) := by
  by_cases hf : f.hi < 32
  · exact s.fld_setFld_same v hf
  · have hq : s.quad (b + f.off) < 2 ^ 64 := by
      have h1 := s.wordN_lt (b + f.off)
      have h2 := s.wordN_lt (b + f.off + 4)
      unfold State.quad
      omega
    unfold State.setFld State.fld
    rw [if_neg hf, if_neg hf, State.quad_setQuad_same, Nat.mod_eq_of_lt (setBits_lt hq h), bitsOf_setBits_same]

theorem State.flag_setFld_of_apart (s : State) {b : Nat} {f g : Fld} (v : Nat) (h : f.apart g = true) :
    (s.setFld b f v).flag b g = s.flag b g :=
  State.flag_of_fld (s.fld_setFld_of_apart v h)

theorem State.fldS_of_fld {s t : State} {b : Nat} {f : Fld} (e : t.fld b f = s.fld b f) : t.fldS b f = s.fldS b f := by
  unfold State.fldS
  rw [e]

theorem State.fldS_setFld_of_apart (s : State) {b : Nat} {f g : Fld} (v : Nat) (h : f.apart g = true) :
    (s.setFld b f v).fldS b g = s.fldS b g :=
  State.fldS_of_fld (s.fld_setFld_of_apart v h)

/-- A flag reads the one bit written to it. -/
theorem State.flag_setFld_eq (s : State) {b : Nat} {f : Fld} (v : Nat) (h : f.hi < 64) (h1 : f.hi = f.lo) :
    (s.setFld b f v).flag b f = decide (v % 2 ≠ 0) := by
  unfold State.flag
  rw [s.fld_setFld_eq v h, h1, Nat.add_sub_cancel_left]
  rfl

theorem b2n_mod_two_ne (x : Bool) : decide (b2n x % 2 ≠ 0) = x := by cases x <;> rfl

theorem State.quad_setFld_outside (s : State) {b a : Nat} {f : Fld} (v : Nat)
    (h : a + 8 ≤ b + f.off ∨ b + f.off + f.span ≤ a) : (s.setFld b f v).quad a = s.quad a := by
  unfold State.quad State.wordN
  rw [State.word_setFld_outside _ _ (by have := f.span_pos; omega), State.word_setFld_outside _ _ (by omega)]

/-! Registers after an update of a half. -/

@[simp] theorem State.onHalf_word (s : State) (h : Half) (f : HalfState → HalfState) (a : Nat) :
    (s.onHalf h f).word a = s.word a :=
  State.word_congr (s.onHalf_regs h f) (s.onHalf_image h f) (s.onHalf_sect h f) a

@[simp] theorem State.onHalf_wordN (s : State) (h : Half) (f : HalfState → HalfState) (a : Nat) :
    (s.onHalf h f).wordN a = s.wordN a := by
  simp only [State.wordN, State.onHalf_word]

@[simp] theorem State.onHalf_quad (s : State) (h : Half) (f : HalfState → HalfState) (a : Nat) :
    (s.onHalf h f).quad a = s.quad a := by
  simp only [State.quad, State.onHalf_wordN]

@[simp] theorem State.onHalf_fld (s : State) (h : Half) (f : HalfState → HalfState) (b : Nat) (g : Fld) :
    (s.onHalf h f).fld b g = s.fld b g := by
  simp only [State.fld, State.onHalf_wordN, State.onHalf_quad]

@[simp] theorem State.onHalf_flag (s : State) (h : Half) (f : HalfState → HalfState) (b : Nat) (g : Fld) :
    (s.onHalf h f).flag b g = s.flag b g := by
  simp only [State.flag, State.onHalf_fld]

@[simp] theorem State.onHalf_fldS (s : State) (h : Half) (f : HalfState → HalfState) (b : Nat) (g : Fld) :
    (s.onHalf h f).fldS b g = s.fldS b g := by
  simp only [State.fldS, State.onHalf_fld]


end Sys2Proof.Machine
end

section
/-! PROOFS. The profile units: motion commands, stops, inputs and homing (R57 to R80). -/
namespace Sys2Proof.Machine

/-! Motion commands (R57 to R68). -/

theorem motionCommand_refused {s : State} {h : Half} {k code tag r : Nat} (e : motionRefusal s h k code = r) (hr : r ≠ 0) :
    motionCommand s h k code tag = putResult s h k r tag := by
  unfold motionCommand
  rw [e]
  cases r with
  | zero => exact absurd rfl hr
  | succ n => rfl

theorem motionCommand_accepted {s : State} {h : Half} {k code tag : Nat} (e : motionRefusal s h k code = 0) :
    motionCommand s h k code tag = putStatus (startMotion s h k code) h k 0 tag true := by
  unfold motionCommand
  rw [e]
  rfl

/-- A write of PRF.CMD through a view that reaches a half. -/
theorem prfWrite_reaches {s : State} {via : Via} {h : Half} (hr : reaches s via h) (k : Fin 128) (code : Nat) (tag : BitVec 8) :
    Host.Outcome.next (φ := Fault) (ρ := Refusal) (prfWrite via k code tag s) = .next (prfCommand s h k.val code tag.toNat) :=
  next_reaches hr _ _ _

/-- The refusals that come before a command's own rule, in their order. -/
theorem motionRefusal_off {s : State} {h : Half} {k code : Nat} (ho : loopCountsOff s h k = true)
    (hc : code ≠ 9 ∨ s.fld (PRF.addr h k) PRF.METHOD ≠ 0) : motionRefusal s h k code = 1 := by
  refine if_pos ?_
  rcases hc with hc | hc
  · simp [ho, hc]
  · simp [ho, hc]

theorem motionRefusal_path {s : State} {h : Half} {k : Nat} (code : Nat) (ho : loopCountsOff s h k = false)
    (hp : (pathOwner s h k).isSome = true) : motionRefusal s h k code = 7 := by
  unfold motionRefusal
  rw [ho, hp]
  rfl

theorem motionRefusal_homing {s : State} {h : Half} {k : Nat} (code : Nat) (ho : loopCountsOff s h k = false)
    (hp : pathOwner s h k = none) (hh : (s.prf h k).homing.isSome = true) : motionRefusal s h k code = 4 := by
  unfold motionRefusal
  rw [ho, hp, hh]
  rfl

theorem motionRefusal_limit {s : State} {h : Half} {k : Nat} (code : Nat) (ho : loopCountsOff s h k = false)
    (hp : pathOwner s h k = none) (hh : (s.prf h k).homing = none) (hl : limitStop s h k = true) :
    motionRefusal s h k code = 8 := by
  unfold motionRefusal
  rw [ho, hp, hh, hl]
  rfl

/-- Settles O28: each refusal is one branch of motionRefusal. -/
theorem motionCommandsRefused : Obligations.MotionCommandsRefused := by
  unfold Obligations.MotionCommandsRefused
  intro via h k tag s hr b off no all
  have refused {code r : Nat} (hc : motionRefusal s h k.val code = r) (h0 : r ≠ 0) :
      Host.Outcome.next (φ := Fault) (ρ := Refusal) (motionCommand s h k.val code tag.toNat) = no r :=
    congrArg Host.Outcome.next (motionCommand_refused hc h0)
  have run (code : Nat) := prfWrite_reaches hr k code tag
  have every {r : Nat} (h0 : r ≠ 0) (hc : ∀ code, code ≠ 9 → motionRefusal s h k.val code = r) : all r :=
    ⟨(run 1).trans (refused (hc 1 (by decide)) h0), (run 2).trans (refused (hc 2 (by decide)) h0),
      (run 3).trans (refused (hc 3 (by decide)) h0), (run 4).trans (refused (hc 4 (by decide)) h0),
      (run 5).trans (refused (hc 5 (by decide)) h0), (run 6).trans (refused (hc 6 (by decide)) h0)⟩
  have counts (ho : ¬off) : loopCountsOff s h k.val = false := decide_eq_false ho
  refine ⟨fun ho => ?_, fun ho hm => ?_, fun ho hp => ?_, fun ho hp hh => ?_, fun ho hp hh hl => ?_, fun ho hp hh hl => ?_⟩
  · exact every (by decide) fun code hc => motionRefusal_off (decide_eq_true ho) (.inl hc)
  · exact (run 9).trans (refused (motionRefusal_off (decide_eq_true ho) (.inr hm)) (by decide))
  · have e (code : Nat) := motionRefusal_path code (counts ho) hp
    exact ⟨every (by decide) fun code _ => e code, (run 9).trans (refused (e 9) (by decide))⟩
  · have e (code : Nat) := motionRefusal_homing code (counts ho) hp hh
    exact ⟨every (by decide) fun code _ => e code, (run 9).trans (refused (e 9) (by decide))⟩
  · have e (code : Nat) := motionRefusal_limit code (counts ho) hp hh hl
    exact ⟨every (by decide) fun code _ => e code, (run 9).trans (refused (e 9) (by decide))⟩
  · refine ⟨fun href => ?_, fun hden => ?_, fun hsrc hle => ⟨?_, ?_⟩, fun harm => ?_⟩
    · refine (run 1).trans (refused ?_ (by decide))
      simp [motionRefusal, counts ho, hp, hh, hl, show s.flag (PRF.addr h k.val) PRF.REF = false from href]
    · refine (run 4).trans (refused ?_ (by decide))
      simp [motionRefusal, counts ho, hp, hh, hl, show s.fld (PRF.addr h k.val) PRF.GEAR_DEN = 0 from hden]
    · refine (run 4).trans (refused ?_ (by decide))
      simp [motionRefusal, counts ho, hp, hh, hl, show s.flag (PRF.addr h k.val) PRF.SRC_ACT = false from hsrc,
        show k.val ≤ s.fld (PRF.addr h k.val) PRF.MASTER from hle]
    · refine (run 5).trans (refused ?_ (by decide))
      simp [motionRefusal, counts ho, hp, hh, hl, show s.flag (PRF.addr h k.val) PRF.SRC_ACT = false from hsrc,
        show k.val ≤ s.fld (PRF.addr h k.val) PRF.MASTER from hle]
    · refine (run 6).trans (refused ?_ (by decide))
      simp [motionRefusal, counts ho, hp, hh, hl, harm]


/-! Accepted motion commands (R57 to R77). -/

/-- t differs from s in the profile unit of axis k of half h and in its registers alone. -/
structure AxisOnly (s t : State) (h : Half) (k : Nat) : Prop where
  mem : t.mem = s.mem
  other : t.half h.other = s.half h.other
  isl : t.isl = s.isl
  prf : ∀ j, j ≠ k → t.prf h j = s.prf h j
  ce : ∀ j, t.ce h j = s.ce h j
  arm : ∀ j, t.arm h j = s.arm h j
  word : ∀ a, a < PRF.addr h k ∨ PRF.addr h k + 0x100 ≤ a → t.word a = s.word a

theorem AxisOnly.trans {s t u : State} {h : Half} {k : Nat} (a : AxisOnly s t h k) (b : AxisOnly t u h k) : AxisOnly s u h k :=
  ⟨b.mem.trans a.mem, b.other.trans a.other, b.isl.trans a.isl, fun j n => (b.prf j n).trans (a.prf j n),
    fun j => (b.ce j).trans (a.ce j), fun j => (b.arm j).trans (a.arm j), fun x n => (b.word x n).trans (a.word x n)⟩

theorem AxisOnly.setPrf (s : State) (h : Half) (k : Nat) (u : PrfUnit) : AxisOnly s (s.setPrf h k u) h k where
  mem := s.setPrf_mem h k u
  other := State.half_onHalf_other s _ (half_other_ne h)
  isl := s.setPrf_isl h k u
  prf j n := by
    simp only [State.prf, State.setPrf, State.half_onHalf_same]
    exact unitAt_set_other _ _ _ n.symm
  ce j := by simp only [State.ce, State.setPrf, State.half_onHalf_same]
  arm j := by simp only [State.arm, State.setPrf, State.half_onHalf_same]
  word a _ := s.onHalf_word h _ a

theorem AxisOnly.setFld (s : State) (h : Half) (k : Nat) {f : Fld} (v : Nat) (hf : f.off + f.span ≤ 0x100) :
    AxisOnly s (s.setFld (PRF.addr h k) f v) h k where
  mem := s.setFld_mem _ f v
  other := s.setFld_half _ f v _
  isl := s.setFld_isl _ f v
  prf j _ := by simp only [State.prf, State.setFld_half]
  ce j := by simp only [State.ce, State.setFld_half]
  arm j := by simp only [State.arm, State.setFld_half]
  word a ha := State.word_setFld_outside _ _ (by omega)

theorem AxisOnly.putFlag (s : State) (h : Half) (k : Nat) {f : Fld} (v : Bool) (hf : f.off + f.span ≤ 0x100) :
    AxisOnly s (s.putFlag (PRF.addr h k) f v) h k := .setFld s h k _ hf

theorem AxisOnly.putStatus (s : State) (h : Half) (k result tag : Nat) (busy : Bool) :
    AxisOnly s (putStatus s h k result tag busy) h k :=
  (((AxisOnly.setPrf s h k _).trans (.setFld _ h k _ (by decide))).trans (.setFld _ h k _ (by decide))).trans
    (.putFlag _ h k _ (by decide))

theorem State.prf_setPrf_same (s : State) {h : Half} {k : Nat} (u : PrfUnit) (hk : k < (s.half h).prf.length) :
    (s.setPrf h k u).prf h k = u := by
  simp only [State.prf, State.setPrf, State.half_onHalf_same]
  exact unitAt_set_same _ _ _ hk

@[simp] theorem State.setPrf_prf_length (s : State) (h : Half) (k : Nat) (u : PrfUnit) :
    ((s.setPrf h k u).half h).prf.length = (s.half h).prf.length := by
  simp only [State.setPrf, State.half_onHalf_same, List.length_set]

@[simp] theorem State.setFld_prf (s : State) (b : Nat) (f : Fld) (v : Nat) (h : Half) (k : Nat) :
    (s.setFld b f v).prf h k = s.prf h k := by
  simp only [State.prf, State.setFld_half]

@[simp] theorem State.setPrf_fld (s : State) (h : Half) (k : Nat) (u : PrfUnit) (b : Nat) (f : Fld) :
    (s.setPrf h k u).fld b f = s.fld b f := s.onHalf_fld h _ b f

/-- What an accepted command leaves: its mode stays the unit's, its result, its tag and BUSY stand in PRF.CMD_STATUS. -/
theorem putStatus_reads {s : State} {h : Half} {k tag : Nat} (result : Nat) (hk : k < (s.half h).prf.length) :
    let t := putStatus s h k result tag true
    t.fld (PRF.addr h k) PRF.MODE_ACT = s.fld (PRF.addr h k) PRF.MODE_ACT ∧ t.fld (PRF.addr h k) PRF.RESULT = result % 16 ∧
      t.fld (PRF.addr h k) PRF.TAG = tag % 256 ∧ t.flag (PRF.addr h k) PRF.BUSY = true ∧
      t.prf h k = { s.prf h k with cmdTag := tag } := by
  unfold putStatus putResult State.putFlag State.flag
  simp (disch := decide) only [State.fld_setFld_of_apart, State.fld_setFld_eq, State.setPrf_fld, State.setFld_prf]
  exact ⟨trivial, rfl, rfl, rfl, State.prf_setPrf_same _ _ hk⟩

/-- What an accepted command leaves: its status, its mode, its unit as x with the command's tag, nothing outside the axis. -/
structure Accepted (s u : State) (h : Half) (k : Nat) (tag : BitVec 8) (mode : Nat) (x : PrfUnit) : Prop where
  mode_act : u.fld (PRF.addr h k) PRF.MODE_ACT = mode
  result : u.fld (PRF.addr h k) PRF.RESULT = 0
  cmd_tag : u.fld (PRF.addr h k) PRF.TAG = tag.toNat
  busy : u.flag (PRF.addr h k) PRF.BUSY = true
  unit : u.prf h k = { x with cmdTag := tag.toNat }
  only : AxisOnly s u h k

/-- A motion that is accepted: the status of the command beside what startMotion sets. -/
theorem accepted_motion {s t : State} {h : Half} {k code : Nat} (tag : BitVec 8) (ht : startMotion s h k code = t)
    (hk : k < (t.half h).prf.length) (ho : AxisOnly s t h k) (hf : motionRefusal s h k code = 0) :
    Accepted s (motionCommand s h k code tag.toNat) h k tag (t.fld (PRF.addr h k) PRF.MODE_ACT) (t.prf h k) := by
  obtain ⟨h1, h2, h3, h4, h5⟩ := putStatus_reads (tag := tag.toNat) 0 hk
  rw [motionCommand_accepted hf, ht]
  exact ⟨h1, h2, h3.trans (Nat.mod_eq_of_lt tag.isLt), h4, h5, ho.trans (.putStatus t h k 0 tag.toNat true)⟩

/-- A motion that writes the unit and the mode. -/
theorem accepted_mode {s : State} {h : Half} {k : Nat} (tag : BitVec 8) (code mode : Nat) (u : PrfUnit)
    (ht : startMotion s h k code = (s.setPrf h k u).setFld (PRF.addr h k) PRF.MODE_ACT mode) (hlt : mode < 8)
    (hk : k < (s.half h).prf.length) (hf : motionRefusal s h k code = 0) :
    Accepted s (motionCommand s h k code tag.toNat) h k tag mode u := by
  have hacc := accepted_motion tag ht (by rw [State.setFld_half, State.setPrf_prf_length]; exact hk)
    ((AxisOnly.setPrf s h k u).trans (.setFld _ h k _ (by decide))) hf
  rw [State.fld_setFld_eq _ _ (by decide), State.setFld_prf, State.prf_setPrf_same _ _ hk] at hacc
  rwa [show mode % 2 ^ (PRF.MODE_ACT.hi + 1 - PRF.MODE_ACT.lo) = mode from Nat.mod_eq_of_lt hlt] at hacc

theorem AxisOnly.refl (s : State) (h : Half) (k : Nat) : AxisOnly s s h k :=
  ⟨rfl, rfl, rfl, fun _ _ => rfl, fun _ => rfl, fun _ => rfl, fun _ _ => rfl⟩

theorem newHoming_putFlag_ref (s : State) (h : Half) (k : Nat) (v : Bool) :
    newHoming (s.putFlag (PRF.addr h k) PRF.REF v) h k = newHoming s h k := by
  unfold newHoming State.putFlag
  simp (disch := decide) only [State.fld_setFld_of_apart, State.flag_setFld_of_apart, State.fldS_setFld_of_apart]

theorem putHoming_mode_act (s : State) (h : Half) (k : Nat) (hm : Homing) :
    (putHoming s h k hm).fld (PRF.addr h k) PRF.MODE_ACT = s.fld (PRF.addr h k) PRF.MODE_ACT := by
  simp (disch := decide) only [putHoming, State.fld_setFld_of_apart, State.setPrf_fld]

/-- HOME starts a homing with the parameters of now; every method but the absolute one clears REF. -/
theorem accepted_home {s : State} {h : Half} {k : Nat} (tag : BitVec 8) (hk : k < (s.half h).prf.length)
    (hf : motionRefusal s h k 9 = 0) :
    ∃ x, x.homing = some (newHoming s h k) ∧ Accepted s (motionCommand s h k 9 tag.toNat) h k tag 7 x := by
  let b := PRF.addr h k
  let s1 := if s.fld b PRF.METHOD = 0 then s else s.putFlag b PRF.REF false
  have hs1 : AxisOnly s s1 h k ∧ (s1.half h).prf.length = (s.half h).prf.length ∧ newHoming s1 h k = newHoming s h k := by
    by_cases h0 : s.fld b PRF.METHOD = 0
    · have e : s1 = s := if_pos h0
      rw [e]
      exact ⟨.refl s h k, rfl, rfl⟩
    · have e : s1 = s.putFlag b PRF.REF false := if_neg h0
      rw [e]
      exact ⟨.putFlag s h k _ (by decide), by rw [State.putFlag_half], newHoming_putFlag_ref s h k false⟩
  obtain ⟨hax, hlen, hnew⟩ := hs1
  have start : ∃ u, startMotion s h k 9 = putHoming ((s1.setPrf h k u).setFld b PRF.MODE_ACT 7) h k (newHoming s h k) := by
    rw [← hnew]
    exact ⟨_, rfl⟩
  obtain ⟨u, hu⟩ := start
  let s2 := (s1.setPrf h k u).setFld b PRF.MODE_ACT 7
  have hlen2 : k < (s2.half h).prf.length := by
    simp only [s2, State.setFld_half, State.setPrf_prf_length, hlen]
    exact hk
  have hacc := accepted_motion tag hu (by simp only [putHoming, State.setFld_half, State.setPrf_prf_length]; exact hlen ▸ hk)
    ((((hax.trans (.setPrf s1 h k u)).trans (.setFld _ h k _ (by decide))).trans (.setPrf _ h k _)).trans
      (.setFld _ h k _ (by decide))) hf
  have hm : (putHoming s2 h k (newHoming s h k)).fld b PRF.MODE_ACT = 7 :=
    (putHoming_mode_act _ _ _ _).trans (State.fld_setFld_eq _ _ (by decide))
  have hx : (putHoming s2 h k (newHoming s h k)).prf h k = { s2.prf h k with homing := some (newHoming s h k) } := by
    simp only [putHoming, State.setFld_prf, State.prf_setPrf_same _ _ hlen2]
  exact ⟨_, congrArg PrfUnit.homing hx, hm ▸ hacc⟩

/-- Settles O29: every accepted command writes its unit and its mode, HOME its homing as well. -/
theorem motionCommandsAccepted : Obligations.MotionCommandsAccepted := by
  unfold Obligations.MotionCommandsAccepted
  intro via h k tag s hr hk b done free
  have did (c : Instr) {t : State} {mode : Nat} {x : PrfUnit} {goal : PrfUnit → Prop} (hx : exec c s = .next t)
      (ha : Accepted s t h k.val tag mode x) (hg : goal { x with cmdTag := tag.toNat }) : done c mode goal :=
    ⟨t, hx, ha.mode_act, ha.result, ha.cmd_tag, ha.busy, ha.unit.symm ▸ hg, ha.only.mem, ha.only.other, ha.only.isl, ha.only.prf,
      fun j => ⟨ha.only.ce j, ha.only.arm j⟩, ha.only.word⟩
  clear_value done
  have run (code : Nat) := prfWrite_reaches hr k code tag
  refine ⟨fun hf => did (.moveAbs via k tag) (run 1) (accepted_mode tag 1 1 _ rfl (by decide) hk hf) ?_,
    fun hf => did (.moveRel via k tag) (run 2) (accepted_mode tag 2 1 _ rfl (by decide) hk hf) ?_,
    fun hf => did (.velocity via k tag) (run 3) (accepted_mode tag 3 2 _ rfl (by decide) hk hf) ?_,
    fun hf => did (.gear via k tag) (run 4) (accepted_mode tag 4 3 _ rfl (by decide) hk hf) ?_,
    fun hf => did (.cam via k tag) (run 5) (accepted_mode tag 5 4 _ rfl (by decide) hk hf) ?_,
    fun hf => did (.pathFollow via k tag) (run 6) (accepted_mode tag 6 5 _ rfl (by decide) hk hf) ?_, fun hf => ?_⟩
  · exact ⟨rfl, rfl⟩
  · rfl
  · rfl
  · exact ⟨rfl, rfl, rfl⟩
  · exact ⟨rfl, rfl, rfl⟩
  · exact ⟨rfl, rfl⟩
  · obtain ⟨x, hx, ha⟩ := accepted_home tag hk hf
    exact did (.home via k tag) (run 9) ha ⟨_, hx, rfl, rfl, rfl⟩


/-! Stops and LIM_CLEAR (R57, R74, R101). -/

theorem stopCommand_path {s : State} {h : Half} {k tag j : Nat} (quick : Bool) (hp : pathOwner s h k = some j) :
    stopCommand s h k tag quick = putStatus (pathStop s h j quick) h k 0 tag false := by
  unfold stopCommand
  rw [hp]

theorem stopCommand_axis {s : State} {h : Half} {k tag : Nat} (quick : Bool) (hp : pathOwner s h k = none)
    (hh : (s.prf h k).homing = none) :
    stopCommand s h k tag quick =
      if loopCountsOff s h k then putStatus s h k 12 tag false else putStatus (stopAxis s h k quick) h k 0 tag true := by
  unfold stopCommand
  rw [hp, hh]
  rfl

theorem State.fld_putFlag_of_apart (s : State) {b : Nat} {f g : Fld} (x : Bool) (h : f.apart g = true) :
    (s.putFlag b f x).fld b g = s.fld b g := s.fld_setFld_of_apart _ h

theorem State.flag_putFlag_of_apart (s : State) {b : Nat} {f g : Fld} (x : Bool) (h : f.apart g = true) :
    (s.putFlag b f x).flag b g = s.flag b g := s.flag_setFld_of_apart _ h

theorem State.fldS_putFlag_of_apart (s : State) {b : Nat} {f g : Fld} (x : Bool) (h : f.apart g = true) :
    (s.putFlag b f x).fldS b g = s.fldS b g := s.fldS_setFld_of_apart _ h

theorem State.flag_putFlag_eq (s : State) {b : Nat} {f : Fld} (x : Bool) (h : f.hi < 64) (h1 : f.hi = f.lo) :
    (s.putFlag b f x).flag b f = x :=
  (s.flag_setFld_eq _ h h1).trans (b2n_mod_two_ne x)

theorem State.setFlag_eq_putFlag (s : State) (b : Nat) (f : Fld) : s.setFlag b f = s.putFlag b f true := rfl

/-- A latched limit is released and its away restriction set. -/
def limRelease (s : State) (b : Nat) (lat away : Fld) : State :=
  if s.flag b lat then (s.putFlag b lat false).setFlag b away else s

theorem limRelease_flags (s : State) {b : Nat} {lat away : Fld} (hl : lat.hi = lat.lo ∧ lat.hi < 64)
    (ha : away.hi = away.lo ∧ away.hi < 64) (hal : away.apart lat = true) :
    (limRelease s b lat away).flag b lat = false ∧
      (limRelease s b lat away).flag b away = (s.flag b away || s.flag b lat) := by
  unfold limRelease
  cases hf : s.flag b lat
  · exact ⟨hf, (Bool.or_false _).symm⟩
  · rw [if_pos rfl, State.setFlag_eq_putFlag, State.flag_putFlag_of_apart _ _ hal, State.flag_putFlag_eq _ _ hl.2 hl.1,
      State.flag_putFlag_eq _ _ ha.2 ha.1, Bool.or_true]
    exact ⟨rfl, rfl⟩

theorem limRelease_flag_apart (s : State) {b : Nat} {lat away g : Fld} (hl : lat.apart g = true) (ha : away.apart g = true) :
    (limRelease s b lat away).flag b g = s.flag b g := by
  unfold limRelease
  split
  · rw [State.setFlag_eq_putFlag, State.flag_putFlag_of_apart _ _ ha, State.flag_putFlag_of_apart _ _ hl]
  · rfl

theorem limRelease_fldS_apart (s : State) {b : Nat} {lat away g : Fld} (hl : lat.apart g = true) (ha : away.apart g = true) :
    (limRelease s b lat away).fldS b g = s.fldS b g := by
  unfold limRelease
  split
  · rw [State.setFlag_eq_putFlag, State.fldS_putFlag_of_apart _ _ ha, State.fldS_putFlag_of_apart _ _ hl]
  · rfl

theorem limRelease_mem (s : State) (b : Nat) (lat away : Fld) : (limRelease s b lat away).mem = s.mem := by
  unfold limRelease
  split
  · rw [State.setFlag_mem, State.putFlag_mem]
  · rfl

theorem flag_putResult (s : State) {h : Half} {k result tag : Nat} {g : Fld} (h1 : PRF.RESULT.apart g = true)
    (h2 : PRF.TAG.apart g = true) : (putResult s h k result tag).flag (PRF.addr h k) g = s.flag (PRF.addr h k) g := by
  unfold putResult
  rw [State.flag_setFld_of_apart _ _ h2, State.flag_setFld_of_apart _ _ h1]

/-- Settles O30: stopCommand and limClear case by case. -/
theorem stopsAndLimitClear : Obligations.StopsAndLimitClear := by
  unfold Obligations.StopsAndLimitClear
  intro via h k tag s hr b off
  have run (code : Nat) := prfWrite_reaches hr k code tag
  have clear : exec (.limClear via k tag) s = .next (limClear s h k.val tag.toNat) := run 10
  refine ⟨fun j hp => ⟨?_, ?_⟩, fun hp hh ho => ⟨?_, ?_⟩, fun hp hh ho => ?_, fun hp => ?_, fun hp hb => ?_, fun hp hb => ?_⟩
  · exact (run 7).trans (congrArg _ (stopCommand_path false hp))
  · exact (run 8).trans (congrArg _ (stopCommand_path true hp))
  · exact (run 7).trans (congrArg _ ((stopCommand_axis false hp hh).trans (if_neg (by rw [loopCountsOff, decide_eq_true_iff]; exact ho))))
  · exact (run 8).trans (congrArg _ ((stopCommand_axis true hp hh).trans (if_neg (by rw [loopCountsOff, decide_eq_true_iff]; exact ho))))
  · exact (run 7).trans (congrArg _ ((stopCommand_axis false hp hh).trans (if_pos (decide_eq_true ho))))
  · exact clear.trans (congrArg _ (if_pos hp))
  · refine clear.trans (congrArg _ ((if_neg (by rw [hp]; exact Bool.false_ne_true)).trans (if_pos ?_)))
    exact hb.imp_right fun hs => by rw [hs.1, hs.2]; rfl
  · have hx : limClear s h k.val tag.toNat = putResult
        (limRelease (limRelease s b PRF.LIM_P_LAT PRF.AWAY_P) b PRF.LIM_N_LAT PRF.AWAY_N) h k.val 0 tag.toNat := by
      refine (if_neg (by rw [hp]; exact Bool.false_ne_true)).trans (if_neg fun hc => hb (hc.imp_right fun hs => ?_))
      simpa [Bool.and_eq_true] using hs
    let s1 := limRelease s b PRF.LIM_P_LAT PRF.AWAY_P
    obtain ⟨p1, p2⟩ := limRelease_flags s (b := b) (lat := PRF.LIM_P_LAT) (away := PRF.AWAY_P) (by decide) (by decide)
      (by decide)
    obtain ⟨n1, n2⟩ := limRelease_flags s1 (b := b) (lat := PRF.LIM_N_LAT) (away := PRF.AWAY_N) (by decide) (by decide)
      (by decide)
    have flag (g : Fld) (h1 : PRF.RESULT.apart g = true) (h2 : PRF.TAG.apart g = true) :=
      flag_putResult (limRelease s1 b PRF.LIM_N_LAT PRF.AWAY_N) (h := h) (k := k.val) (result := 0) (tag := tag.toNat) h1 h2
    refine ⟨_, clear.trans (congrArg _ hx), ?_, ?_, ?_, ?_, ?_, ?_, ?_, ?_⟩
    · rw [flag _ (by decide) (by decide), limRelease_flag_apart _ (by decide) (by decide)]
      exact p1
    · rw [flag _ (by decide) (by decide)]
      exact n1
    · rw [flag _ (by decide) (by decide), limRelease_flag_apart _ (by decide) (by decide)]
      exact p2
    · rw [flag _ (by decide) (by decide), n2, limRelease_flag_apart _ (by decide) (by decide),
        limRelease_flag_apart _ (by decide) (by decide)]
    · rw [putResult, State.fld_setFld_of_apart _ _ (by decide), State.fld_setFld_eq _ _ (by decide)]
      rfl
    · rw [putResult, State.fld_setFld_eq _ _ (by decide)]
      exact Nat.mod_eq_of_lt tag.isLt
    · rw [putResult, State.fldS_setFld_of_apart _ _ (by decide), State.fldS_setFld_of_apart _ _ (by decide),
        limRelease_fldS_apart _ (by decide) (by decide), limRelease_fldS_apart _ (by decide) (by decide)]
    · rw [putResult, State.setFld_mem, State.setFld_mem, limRelease_mem, limRelease_mem]


/-! Inputs and hard-stop homing (R70 to R74, R80). -/

/-- Settles O31: the edges of a local input in their order, debounce and homeTorque case by case. -/
theorem inputsAndHomingTorque : Obligations.InputsAndHomingTorque := by
  unfold Obligations.InputsAndHomingTorque
  refine ⟨fun i level s => rfl, fun i level s => rfl, ?_, ?_⟩
  · intro h k inp s r held
    refine ⟨fun hs hh hq => ?_, fun hn => ?_⟩
    · exact congrArg Host.Outcome.next ((if_pos ⟨hs, hh⟩).trans (if_pos hq))
    · exact congrArg Host.Outcome.next (if_neg fun hc => hn hc.2)
  · intro h k hm s hh p
    have hx : exec (.homeTorqueReached h k) s = .next (homeTorque s h k.val) := rfl
    rw [hx]
    unfold homeTorque
    rw [hh]
    refine ⟨fun h1 h2 h3 => congrArg Host.Outcome.next (if_pos ⟨h1, h2, h3⟩), fun hn => ?_⟩
    refine congrArg Host.Outcome.next (if_neg fun hc => ?_)
    exact hn.elim (fun h1 => h1 hc.1) (fun h3 => absurd hc.2.2 (Nat.not_le.mpr h3))

end Sys2Proof.Machine
end

section
/-! PROOFS. The control engine: loss of feedback, blends, brake steps, modes, gains and the learning memory (R122 to R135). -/
namespace Sys2Proof.Machine

/-! Steps of the engine that end by a count. -/

theorem lossOfFeedback_idle {s : State} {h : Half} {k : Nat}
    (hn : (s.ce h k).missRun < Nat.max 1 (s.fld (CE.addr h k) CE.LOF_CNT) ∨ (s.ce h k).lofDone = true) :
    lossOfFeedback s h k = s := by
  refine if_neg fun hc => ?_
  obtain ⟨h1, h2⟩ := hc
  rcases hn with hn | hn
  · omega
  · rw [hn] at h2
    cases h2

/-- A hand-over blend that has ended, by the step of the hold it stands in. -/
theorem blendEnd_due {s : State} {h : Half} {k : Nat} (hb : (s.ce h k).blending = true)
    (hn : (s.ce h k).blendN ≤ (s.ce h k).blendK) :
    blendEnd s h k =
      let c := { s.ce h k with blending := false, blendD := 0 }
      let s := s.putFlag (CE.addr h k) CE.BLENDING false
      match c.holdStep with
      | 2 => s.setCe h k { c with holdStep := 3, holdCnt := 0 }
      | 4 => (s.setCe h k { c with holdStep := 5, holdCnt := 0 }).putFlag (CE.addr h k) CE.BRAKE_REQ false
      | _ => s.setCe h k c :=
  if_pos (by rw [hb, decide_eq_true hn]; rfl)

theorem blendEnd_idle {s : State} {h : Half} {k : Nat}
    (hn : (s.ce h k).blending = false ∨ (s.ce h k).blendK < (s.ce h k).blendN) : blendEnd s h k = s := by
  refine if_neg ?_
  rw [Bool.and_eq_true, decide_eq_true_iff]
  rintro ⟨h1, h2⟩
  rcases hn with hn | hn
  · rw [hn] at h1
    cases h1
  · omega

/-! Mode requests (R123). -/

theorem modeWrite_axis {s : State} {h : Half} {k r : Nat} (h5 : r ≤ 5) (h4 : r ≠ 4)
    (ha : armOf s h k = none ∨ (s.fld (CE.addr h k) CE.MODE_REQ ≠ 4 ∧ s.fld (CE.addr h k) CE.MODE_ACT ≠ 4)) :
    modeWrite s h k r = (s.setFld (CE.addr h k) CE.MODE_REQ r).setCe h k { s.ce h k with req := some r } := by
  unfold modeWrite
  dsimp only
  rw [if_neg (by omega)]
  cases hj : armOf s h k with
  | none => exact if_neg h4
  | some j =>
    refine if_neg fun hc => ?_
    rcases ha with ha | ⟨h1, h2⟩
    · rw [hj] at ha
      cases ha
    · exact hc.elim h4 fun hc => hc.elim h1 h2

theorem modeWrite_arm {s : State} {h : Half} {k r j : Nat} (h5 : r ≤ 5) (hj : armOf s h k = some j)
    (h4 : r = 4 ∨ s.fld (CE.addr h k) CE.MODE_REQ = 4 ∨ s.fld (CE.addr h k) CE.MODE_ACT = 4) :
    modeWrite s h k r = (armAxes s h j).foldl (fun s k =>
      (s.setFld (CE.addr h k) CE.MODE_REQ r).setCe h k { s.ce h k with req := some r }) s := by
  unfold modeWrite
  dsimp only
  rw [if_neg (by omega), hj]
  exact if_pos h4

/-! The learning memory (R135). -/

theorem learnAddr_add (h : Half) (k n : Nat) : learnAddr h k n = learnAddr h k 0 + 4 * n := by
  unfold learnAddr
  omega

/-- A byte of memory after a range of memory is cleared. -/
theorem byte_clear {s : State} {lo len : Nat} (hw : Memory.wf s.mem = true) (a : Nat) :
    State.byte { s with mem := storeClear s.mem lo len } a = if lo ≤ a ∧ a < lo + len then 0 else s.byte a :=
  storeGet_clear lo len a (storeWf_sorted hw)

theorem rcCleared_eq {s : State} {h : Half} {k : Nat} (hc : (s.ce h k).rc.clearing = true) :
    ∃ c, c.rc.clearing = false ∧ rcCleared s h k =
      (State.setFld { s with mem := storeClear s.mem (learnAddr h k 0) 0x10000 } (CE.addr h k) CE.RC_CYC 0).setCe h k c := by
  refine ⟨_, ?_, if_pos hc⟩
  rfl

theorem State.byte_congr {s t : State} (e : t.mem = s.mem) (a : Nat) : t.byte a = s.byte a := by
  unfold State.byte
  rw [e]

theorem State.ce_setCe_same (s : State) {h : Half} {k : Nat} (c : CeUnit) (hk : k < (s.half h).ce.length) :
    (s.setCe h k c).ce h k = c := by
  simp only [State.ce, State.setCe, State.half_onHalf_same]
  exact unitAt_set_same _ _ _ hk

/-- Settles O32: each step, request and write is one branch of the engine's functions. -/
theorem engineSteps : Obligations.EngineSteps := by
  unfold Obligations.EngineSteps
  constructor
  · intro h k s b c
    refine ⟨fun h1 h2 => ?_, fun hn => ?_, fun h1 h2 h3 h4 => ?_, fun h1 h2 h3 => ?_, fun h1 h2 h3 => ?_, fun hn => ?_,
      fun h9 => ?_, fun h9 => ?_, fun h1 h2 => ?_, fun hn => ?_, fun h1 h2 h3 => ?_, fun hn => ?_⟩
    · exact congrArg Host.Outcome.next (if_pos ⟨h1, by rw [Bool.not_eq_true']; exact h2⟩)
    · exact congrArg Host.Outcome.next (lossOfFeedback_idle hn)
    · refine congrArg Host.Outcome.next ((blendEnd_due h1 h2).trans ?_)
      dsimp only
      split
      · exact absurd ‹_› h3
      · exact absurd ‹_› h4
      · rfl
    · refine congrArg Host.Outcome.next ((blendEnd_due h1 h2).trans ?_)
      have h3 : (s.ce h k.val).holdStep = 2 := h3
      simp only [h3]
      rfl
    · refine congrArg Host.Outcome.next ((blendEnd_due h1 h2).trans ?_)
      have h3 : (s.ce h k.val).holdStep = 4 := h3
      simp only [h3]
      rfl
    · exact congrArg Host.Outcome.next (blendEnd_idle hn)
    · exact congrArg Host.Outcome.next (if_pos h9)
    · exact congrArg Host.Outcome.next (if_neg h9)
    · exact congrArg Host.Outcome.next (if_pos ⟨h1, h2⟩)
    · exact congrArg Host.Outcome.next (if_neg fun hc => hn.elim (fun h1 => h1 hc.1) fun h2 => absurd hc.2 (Nat.not_le.mpr h2))
    · exact congrArg Host.Outcome.next ((if_pos ⟨h1, h2⟩).trans (if_neg (by rw [Bool.not_eq_true]; exact h3)))
    · exact congrArg Host.Outcome.next (if_neg fun hc => absurd hc.2 (Nat.not_le.mpr hn))
  · intro via h k req off w s b c ax at_
    refine ⟨fun hr => ?_, fun hc hw => ?_, fun hc => ?_⟩
    · have mode : exec (.modeReqWrite via k req) s = .next (modeWrite s h k.val req.toNat) := next_reaches hr _ _ _
      have learn : exec (.learningMemoryWrite via off w) s = .next (learnWrite s h off.val w) := next_reaches hr _ _ _
      refine ⟨fun h5 => ?_, fun h4 ha => ?_, fun h5 h4 ha => ?_, fun j h5 ha h4 => ?_, next_reaches hr _ _ (fun s h => ceCommand s h k.val 1),
        next_reaches hr _ _ (fun s h => ceCommand s h k.val 2), fun hl => ?_, fun hl hw => ?_⟩
      · exact mode.trans (congrArg _ (if_pos h5))
      · refine mode.trans (congrArg _ ((if_neg (by omega)).trans ?_))
        simp only [ha]
        exact if_pos h4
      · exact mode.trans (congrArg _ (modeWrite_axis h5 h4 ha))
      · exact mode.trans (congrArg _ (modeWrite_arm h5 ha h4))
      · exact learn.trans (congrArg _ (if_pos hl))
      · have hf : ¬s.flag (CE.addr h ax) CE.RC_LEARN = true := by rw [hl]; exact Bool.false_ne_true
        exact ⟨_, learn.trans (congrArg _ (if_neg hf)), memWord_setMemWord_same _ _ hw, State.setMemWord_regs _ _ _,
          fun a ha => byte_setMemWord_other _ hw ha⟩
    · obtain ⟨c', hc', he⟩ := rcCleared_eq hc
      have hbyte (a : Nat) : (rcCleared s h k.val).byte a =
          if learnAddr h k.val 0 ≤ a ∧ a < learnAddr h k.val 0 + 0x10000 then 0 else s.byte a := by
        rw [he, State.byte_congr (State.setCe_mem _ _ _ _), State.byte_congr (State.setFld_mem _ _ _ _), byte_clear hw]
      refine ⟨rcCleared s h k.val, rfl, fun n hn => ?_, fun a ha => ?_, ?_, fun hk => ?_⟩
      · have hl := learnAddr_add h k.val n
        unfold State.memWord
        rw [hbyte, hbyte, hbyte, hbyte, if_pos (by omega), if_pos (by omega), if_pos (by omega), if_pos (by omega)]
        rfl
      · rw [hbyte, if_neg (by omega)]
      · rw [he]
        exact (State.onHalf_fld _ _ _ _ _).trans (State.fld_setFld_eq _ _ (by decide))
      · rw [he, State.ce_setCe_same _ _ (by rw [State.setFld_half]; exact hk)]
        exact hc'
    · exact congrArg Host.Outcome.next (if_neg (by rw [Bool.not_eq_true]; exact hc))

end Sys2Proof.Machine
end

section
/-! PROOFS. The arms: commands, the segment queue, zone scans, hoists and observers (R92 to R113, R186). -/
namespace Sys2Proof.Machine

/-! Commands of an arm (R92, R101, R102). -/

theorem armWrite_reaches {s : State} {via : Via} {h : Half} (hr : reaches s via h) (j : Fin 16) (code : Nat) (tag : BitVec 8) :
    Host.Outcome.next (φ := Fault) (ρ := Refusal) (armWrite via j code tag s) = .next (armCommand s h j.val code tag.toNat) :=
  next_reaches hr _ _ _

/-- A start that passes the queue error and the axes. -/
theorem armStart_of_axes {s : State} {h : Half} {j tag : Nat} (he : s.fld (ARM.addr h j) ARM.ERR_CODE = 0)
    (ha : axesRefusal s h j = 0) :
    armStart s h j tag =
      if armBusy s h j then armResult s h j 3 tag
      else if s.fld (ARM.addr h j) ARM.Q_RD = s.fld (ARM.addr h j) ARM.Q_ACK then armResult s h j 4 tag
      else armResult (obsRestart (axesFollow ((s.setArm h j { s.arm h j with
        q := presentJoints s h j, running := false, stop := .one, stopUp := false, flush := false,
        place := { PathAt.zero with idx := s.fld (ARM.addr h j) ARM.Q_RD, start := startAt s h j (presentJoints s h j) } }).setFld
          (ARM.addr h j) ARM.STATE 1) h j) h j) h j 0 tag :=
  (if_neg (not_not.mpr he)).trans (if_neg (not_not.mpr ha))

theorem State.word_setWordN_same (s : State) (a v : Nat) : (s.setWordN a v).word a = BitVec.ofNat 32 v :=
  s.word_setWord_same a _

/-- A field of a block reads as before after a write of a word of the block that it does not lie in. -/
theorem State.fld_setWordN_of_apart (s : State) {b o : Nat} {f : Fld} (v : Nat) (h : o + 4 ≤ f.off ∨ f.off + f.span ≤ o) :
    (s.setWordN (b + o) v).fld b f = s.fld b f :=
  State.fld_of_words fun _ _ _ => State.word_setWordN_other _ _ (by omega)

/-- A word of a block reads as before after a write of a field that does not lie in it. -/
theorem State.word_setFld_of_apart (s : State) {b o : Nat} {f : Fld} (v : Nat) (h : o + 4 ≤ f.off ∨ f.off + f.span ≤ o) :
    (s.setFld b f v).word (b + o) = s.word (b + o) :=
  State.word_setFld_outside _ _ (by omega)

/-- What CLEAR_ERR leaves in the registers of its arm. -/
theorem armClearErr_reads (s : State) (h : Half) (j : Nat) {tag : Nat} (ht : tag < 256) :
    let b := ARM.addr h j
    let t := armClearErr s h j tag
    t.fld b ARM.ERR_CODE = 0 ∧ t.fld b ARM.ERR_IDX = 0 ∧ t.word (b + 0xD0) = 0 ∧ t.word (b + 0xD4) = 0 ∧
      t.fld b ARM.STATE = (if s.fld b ARM.STATE = 7 then 0 else s.fld b ARM.STATE) ∧ t.fld b ARM.RESULT = 0 ∧
      t.fld b ARM.TAG = tag ∧ t.fld b ARM.Q_RD = s.fld b ARM.Q_RD ∧ t.mem = s.mem := by
  intro b t
  let s1 := ((((s.setFld b ARM.ERR_CODE 0).setFld b ARM.ERR_IDX 0).setWordN (b + 0xD0) 0).setWordN (b + 0xD4) 0)
  have hs1 : s1.fld b ARM.ERR_CODE = 0 ∧ s1.fld b ARM.ERR_IDX = 0 ∧ s1.word (b + 0xD0) = 0 ∧ s1.word (b + 0xD4) = 0 ∧
      s1.fld b ARM.STATE = s.fld b ARM.STATE ∧ s1.fld b ARM.Q_RD = s.fld b ARM.Q_RD ∧ s1.mem = s.mem := by
    refine ⟨?_, ?_, ?_, ?_, ?_, ?_, ?_⟩
    · simp (disch := decide) only [s1, State.fld_setWordN_of_apart, State.fld_setFld_of_apart, State.fld_setFld_eq, Nat.zero_mod]
    · simp (disch := decide) only [s1, State.fld_setWordN_of_apart, State.fld_setFld_eq, Nat.zero_mod]
    · exact (State.word_setWordN_other _ _ (by omega)).trans (State.word_setWordN_same _ _ _)
    · exact State.word_setWordN_same _ _ _
    · simp (disch := decide) only [s1, State.fld_setWordN_of_apart, State.fld_setFld_of_apart]
    · simp (disch := decide) only [s1, State.fld_setWordN_of_apart, State.fld_setFld_of_apart]
    · simp only [s1, State.setWordN_mem, State.setFld_mem]
  obtain ⟨hcode, hidx, hw0, hw4, hstate, hqrd, hmem⟩ := hs1
  have ht' : t = armResult (if s1.fld b ARM.STATE = 7 then s1.setFld b ARM.STATE 0 else s1) h j 0 tag := rfl
  rw [ht', hstate]
  unfold armResult
  split
  · simp (disch := decide) only [b, State.fld_setFld_of_apart, State.fld_setFld_eq, State.word_setFld_of_apart, State.setFld_mem]
    exact ⟨hcode, hidx, hw0, hw4, rfl, rfl, Nat.mod_eq_of_lt ht, hqrd, hmem⟩
  · simp (disch := decide) only [b, State.fld_setFld_of_apart, State.fld_setFld_eq, State.word_setFld_of_apart, State.setFld_mem]
    exact ⟨hcode, hidx, hw0, hw4, hstate, rfl, Nat.mod_eq_of_lt ht, hqrd, hmem⟩


/-- Settles O33: each command of an arm is one branch of its function. -/
theorem armCommands : Obligations.ArmCommands := by
  unfold Obligations.ArmCommands
  intro via h j tag s hr b x busy ax u res no
  have run (code : Nat) := armWrite_reaches hr j code tag
  have start : exec (.start via j tag) s = .next (armStart s h j.val tag.toNat) := run 1
  have resume : exec (.resume via j tag) s = .next (armResume s h j.val tag.toNat) := run 4
  have abort : exec (.armAbort via j tag) s = .next (armAbort s h j.val tag.toNat) := run 5
  refine ⟨fun he => ?_, fun he => ⟨fun ha => ?_, fun ha hb => ?_, fun ha hb hq => ?_, fun ha hb hq => ?_⟩, fun hx => ?_,
    fun hx ha => ?_, fun hx ha => ?_, run 2, run 3, fun hx => ?_, fun hx => ?_, fun h1 h3 h5 => ?_, ?_⟩
  · exact start.trans (congrArg _ (if_pos he))
  · exact start.trans (congrArg _ ((if_neg (not_not.mpr he)).trans (if_pos ha)))
  · exact start.trans (congrArg _ ((armStart_of_axes he ha).trans (if_pos (decide_eq_true hb))))
  · exact start.trans (congrArg _ ((armStart_of_axes he ha).trans ((if_neg (by rw [armBusy, decide_eq_true_iff]; exact hb)).trans (if_pos hq))))
  · exact start.trans (congrArg _ ((armStart_of_axes he ha).trans ((if_neg (by rw [armBusy, decide_eq_true_iff]; exact hb)).trans (if_neg hq))))
  · exact resume.trans (congrArg _ (if_pos hx))
  · exact resume.trans (congrArg _ ((if_neg (not_not.mpr hx)).trans (if_pos ha)))
  · exact resume.trans (congrArg _ ((if_neg (not_not.mpr hx)).trans (if_neg (not_not.mpr ha))))
  · exact abort.trans (congrArg _ (if_pos hx))
  · exact abort.trans (congrArg _ ((if_neg (by have hx : armState s h j.val = 5 := hx; omega)).trans (if_pos hx)))
  · exact abort.trans (congrArg _ ((if_neg (not_or.mpr ⟨h1, h3⟩)).trans (if_neg h5)))
  · exact ⟨_, run 6, armClearErr_reads s h j.val tag.isLt⟩

end Sys2Proof.Machine
end

section
/-! PROOFS. The segment queue, zone scans, hoists and observers of the arms (R92, R99, R100, R112, R113, R186). -/
namespace Sys2Proof.Machine

/-! The segment queue (R92). -/

/-- The check of the next new descriptor: it is accepted and the next one follows, or it is refused with its code. -/
theorem checkQueue_succ (s : State) (h : Half) (j n : Nat) :
    let b := ARM.addr h j
    let i := s.fld b ARM.Q_ACK
    let c := segCheck s h j i (decide (i = s.fld b ARM.Q_RD))
    checkQueue s h j (n + 1) =
      if c = 0 then
        checkQueue ((s.setArm h j { s.arm h j with
          zones := (s.arm h j).zones.filter (fun z => z.seg != i % 64),
          scanned := (s.arm h j).scanned.filter (fun x => x != i % 64) }).setFld b ARM.Q_ACK ((i + 1) % 128)) h j n
      else segRefuse s h j i c := by
  intro b i c
  by_cases h0 : c = 0
  · rw [if_pos h0]
    conv_lhs => unfold checkQueue; dsimp only
    split
    case h_1 => rfl
    case h_2 h1 => exact absurd h0 h1
  · rw [if_neg h0]
    conv_lhs => unfold checkQueue; dsimp only
    split
    case h_1 h1 => exact absurd h1 h0
    case h_2 => rfl

theorem qWrWrite_reaches {s : State} {via : Via} {h : Half} (hr : reaches s via h) (j : Fin 16) (idx : BitVec 7) :
    exec (.qWrWrite via j idx) s = .next (qwrWrite s h j.val idx.toNat) :=
  next_reaches hr _ _ _

/-- A write of Q_WR within the 64 descriptors stores it and checks the new ones. -/
theorem qwrWrite_inside {s : State} {h : Half} {j v : Nat} (hv : v < 128) (he : s.fld (ARM.addr h j) ARM.ERR_CODE = 0)
    (hn : (v + 128 - s.fld (ARM.addr h j) ARM.Q_RD) % 128 ≤ 64) :
    qwrWrite s h j v = checkQueue (s.setFld (ARM.addr h j) ARM.Q_WR v) h j ((v + 128 - s.fld (ARM.addr h j) ARM.Q_ACK) % 128) := by
  unfold qwrWrite
  dsimp only
  rw [Nat.mod_eq_of_lt hv, if_neg (not_not.mpr he), if_neg (not_lt.mpr hn),
    State.fld_setFld_of_apart _ _ (by decide : ARM.Q_WR.apart ARM.Q_ACK = true)]

theorem State.fld_lt (s : State) (b : Nat) (f : Fld) : s.fld b f < 2 ^ (f.hi + 1 - f.lo) := by
  unfold State.fld
  split <;> exact bitsOf_lt _ _ _

/-! The zone scan (R186). -/

/-- A least bound of a list is at most each of its members' values. -/
theorem foldl_min_le {α : Type} (f : α → Nat) (l : List α) (c : Nat) :
    l.foldl (fun m z => Nat.min m (f z)) c ≤ c ∧ ∀ y ∈ l, l.foldl (fun m z => Nat.min m (f z)) c ≤ f y := by
  induction l generalizing c with
  | nil => exact ⟨le_rfl, fun y hy => absurd hy List.not_mem_nil⟩
  | cons x xs ih =>
    obtain ⟨hc, hxs⟩ := ih (Nat.min c (f x))
    refine ⟨hc.trans (Nat.min_le_left _ _), fun y hy => ?_⟩
    rcases List.mem_cons.mp hy with rfl | hy
    · exact hc.trans (Nat.min_le_right _ _)
    · exact hxs y hy

/-- A greatest bound of a list is at least each of its members' values. -/
theorem le_foldl_max {α : Type} (f : α → Nat) (l : List α) (c : Nat) :
    c ≤ l.foldl (fun m z => Nat.max m (f z)) c ∧ ∀ y ∈ l, f y ≤ l.foldl (fun m z => Nat.max m (f z)) c := by
  induction l generalizing c with
  | nil => exact ⟨le_rfl, fun y hy => absurd hy List.not_mem_nil⟩
  | cons x xs ih =>
    obtain ⟨hc, hxs⟩ := ih (Nat.max c (f x))
    refine ⟨(Nat.le_max_left _ _).trans hc, fun y hy => ?_⟩
    rcases List.mem_cons.mp hy with rfl | hy
    · exact (Nat.le_max_right _ _).trans hc
    · exact hxs y hy

/-- The intervals of a segment merged per zone, as zoneScan stores more than 8 of them. -/
def mergedSpans (seg : Nat) (l : List ZoneIv) : List ZoneIv :=
  if l.length ≤ 8 then l
  else (l.map (fun z => z.zone)).eraseDups.map (fun n =>
    let k := l.filter (fun z => decide (z.zone = n))
    { seg := seg % 64, zone := n, lo := k.foldl (fun m z => Nat.min m z.lo) (2 ^ 32), hi := k.foldl (fun m z => Nat.max m z.hi) 0 })

theorem mergedSpans_seg {seg : Nat} {l : List ZoneIv} (hl : ∀ y ∈ l, y.seg = seg % 64) : ∀ y ∈ mergedSpans seg l, y.seg = seg % 64 := by
  unfold mergedSpans
  split
  · exact hl
  · intro y hy
    obtain ⟨n, -, rfl⟩ := List.mem_map.mp hy
    rfl

theorem mergedSpans_cover (seg : Nat) (l : List ZoneIv) :
    ∀ y ∈ l, ∃ x ∈ mergedSpans seg l, x.zone = y.zone ∧ x.lo ≤ y.lo ∧ y.hi ≤ x.hi := by
  intro y hy
  unfold mergedSpans
  split
  · exact ⟨y, hy, rfl, le_rfl, le_rfl⟩
  · have hk : y ∈ l.filter (fun z => decide (z.zone = y.zone)) := List.mem_filter.mpr ⟨hy, decide_eq_true rfl⟩
    exact ⟨_, List.mem_map.mpr ⟨y.zone, List.mem_eraseDups.mpr (List.mem_map.mpr ⟨y, hy, rfl⟩), rfl⟩, rfl,
      (foldl_min_le ZoneIv.lo _ _).2 y hk, (le_foldl_max ZoneIv.hi _ _).2 y hk⟩

theorem zoneSpans_seg {s : State} {j seg : Nat} {ps : List ArmPose} {z : ZoneBox} : ∀ y ∈ zoneSpans s j ps seg z, y.seg = seg % 64 := by
  intro y hy
  obtain ⟨r, -, rfl⟩ := List.mem_map.mp hy
  rfl

theorem State.arm_setArm_same (s : State) {h : Half} {j : Nat} (u : ArmUnit) (hj : j < (s.half h).arms.length) :
    (s.setArm h j u).arm h j = u := by
  simp only [State.arm, State.setArm, State.half_onHalf_same]
  exact unitAt_set_same _ _ _ hj

/-- What the scan of a queued segment changes: its intervals and its mark in the arm's unit. -/
theorem zoneScan_queued {s : State} {h : Half} {j seg : Nat}
    (hn : (seg + 128 - s.fld (ARM.addr h j) ARM.Q_RD) % 128 < queuedSegs s h j) :
    let a := segPlaceOf s h j ((seg + 128 - s.fld (ARM.addr h j) ARM.Q_RD) % 128)
    let ps := scanPoses s h j a (fxList a.start.q) (List.range 66)
    let l := s.cfg.govZones.flatMap (fun z => zoneSpans s j ps seg z)
    zoneScan s h j seg = s.setArm h j { s.arm h j with
      zones := (s.arm h j).zones.filter (fun z => z.seg != seg % 64) ++ mergedSpans seg l,
      scanned := (s.arm h j).scanned.filter (fun x => x != seg % 64) ++ [seg % 64] } :=
  if_neg (not_le.mpr hn)

/-- Passing time changes the clocks of a half and nothing else of it. -/
theorem State.half_passTime (s : State) (dt : Nat) (h : Half) :
    (s.passTime dt).half h = { s.half h with time := (s.half h).time.advance dt } := by
  cases h <;> rfl

/-! Hoists (R99, R100). -/

theorem State.hoist_setHoist_same (s : State) {h : Half} {i : Nat} (u : HoistUnit) (hi : i < (s.half h).hoists.length) :
    (s.setHoist h i u).hoist h i = u := by
  simp only [State.hoist, State.setHoist, State.half_onHalf_same]
  exact unitAt_set_same _ _ _ hi

/-- The entry that GO takes: the first free one. -/
theorem find_free {p : Nat → Prop} [DecidablePred p] {i n : Nat} (hi : i < n) (hp : p i) (hn : ∀ k, k < i → ¬p k) :
    (List.range n).find? (fun k => decide (p k)) = some i :=
  List.find?_range_eq_some.mpr ⟨decide_eq_true hp, List.mem_range.mpr hi, fun k hk => by simp [hn k hk]⟩

/-- The refusals of GO and its arming, in order. -/
theorem hoistGo_of (s : State) (h : Half) :
    let b := HOIST.addr h
    let mask := s.fld b HOIST.MASK
    let id := s.fld b HOIST.ID
    let bad := mask = 0 ∨ ∃ j, j < 16 ∧ bitOf mask j = true ∧ armConfigured s h j = false
    let dup := ∃ i, i < 8 ∧ s.fld (HLIST.addr h i) HLIST.H_STATE = 1 ∧ s.fld (HLIST.addr h i) HLIST.L_ID = id
    let free := (List.range 8).find? (fun i => decide (hoistState s h i = 0))
    (bad → hoistGo s h = s.setFld b HOIST.RESULT 3) ∧
    (¬bad → dup → hoistGo s h = s.setFld b HOIST.RESULT 2) ∧
    (¬bad → ¬dup → free = none → hoistGo s h = s.setFld b HOIST.RESULT 1) ∧
    (∀ i, ¬bad → ¬dup → free = some i → hoistGo s h =
      ((((s.setWordN (HLIST.addr h i) (mask + id * 2 ^ 16 + 2 ^ 24)).setWordN (HLIST.addr h i + 4) 0).setHoist h i
        ⟨((s.setWordN (HLIST.addr h i) (mask + id * 2 ^ 16 + 2 ^ 24)).setWordN (HLIST.addr h i + 4) 0).quad (b + 8), none⟩).setFld
          b HOIST.RESULT 0)) := by
  intro b mask id bad dup free
  have hbad : (decide (mask = 0) || (List.range 16).any (fun j => bitOf mask j && !armConfigured s h j)) = true ↔ bad := by
    simp [bad]
  have hdup : (List.range 8).any (fun i => decide (hoistState s h i = 1) && decide (s.fld (HLIST.addr h i) HLIST.L_ID = id)) = true ↔ dup := by
    simp only [List.any_eq_true, List.mem_range, Bool.and_eq_true, decide_eq_true_eq]
    rfl
  refine ⟨fun h1 => if_pos (hbad.mpr h1), fun h1 h2 => (if_neg (mt hbad.mp h1)).trans (if_pos (hdup.mpr h2)),
    fun h1 h2 h3 => ?_, fun i h1 h2 h3 => ?_⟩
  · refine (if_neg (mt hbad.mp h1)).trans ((if_neg (mt hdup.mp h2)).trans ?_)
    dsimp only [free] at h3
    rw [h3]
  · refine (if_neg (mt hbad.mp h1)).trans ((if_neg (mt hdup.mp h2)).trans ?_)
    dsimp only [free] at h3
    rw [h3]

/-- The words of an armed entry: its arms, its number and STATE 1. -/
theorem armed_word_fields {mask id : Nat} (hm : mask < 2 ^ 16) (hid : id < 2 ^ 8) :
    bitsOf (mask + id * 2 ^ 16 + 2 ^ 24) 25 24 = 1 ∧ bitsOf (mask + id * 2 ^ 16 + 2 ^ 24) 23 16 = id ∧
      bitsOf (mask + id * 2 ^ 16 + 2 ^ 24) 15 0 = mask ∧ mask + id * 2 ^ 16 + 2 ^ 24 < 2 ^ 32 := by
  unfold bitsOf
  omega

/-- The registers after an entry is armed. -/
theorem armedHoist_reads (s : State) (h : Half) {i mask id : Nat} (u : HoistUnit) (hi : i < 8) (hm : mask < 2 ^ 16) (hid : id < 2 ^ 8) :
    let w := (s.setWordN (HLIST.addr h i) (mask + id * 2 ^ 16 + 2 ^ 24)).setWordN (HLIST.addr h i + 4) 0
    let t := (w.setHoist h i u).setFld (HOIST.addr h) HOIST.RESULT 0
    w.quad (HOIST.addr h + 8) = s.quad (HOIST.addr h + 8) ∧ t.fld (HOIST.addr h) HOIST.RESULT = 0 ∧
      t.fld (HLIST.addr h i) HLIST.H_STATE = 1 ∧ t.fld (HLIST.addr h i) HLIST.L_ID = id ∧
      t.fld (HLIST.addr h i) HLIST.L_MASK = mask ∧ (∀ n, n < 8 → n ≠ i → t.quad (HLIST.addr h n) = s.quad (HLIST.addr h n)) := by
  intro w t
  obtain ⟨h1, h2, h3, hlt⟩ := armed_word_fields hm hid
  have he (n : Nat) : HLIST.addr h n = HOIST.addr h + 32 + n * 8 := by unfold HLIST.addr HOIST.addr; omega
  have ht (a : Nat) (ha : HOIST.addr h + 20 ≤ a) : t.word a = w.word a :=
    (State.word_setFld_outside _ _ (Or.inr ha)).trans (State.onHalf_word _ _ _ _)
  have hw (a : Nat) (ha : a ≠ HLIST.addr h i) (ha' : a ≠ HLIST.addr h i + 4) : w.word a = s.word a :=
    (State.word_setWordN_other _ _ ha').trans (State.word_setWordN_other _ _ ha)
  have hi' : t.word (HLIST.addr h i) = BitVec.ofNat 32 (mask + id * 2 ^ 16 + 2 ^ 24) :=
    (ht _ (by rw [he]; omega)).trans ((State.word_setWordN_other _ _ (by omega)).trans (State.word_setWordN_same _ _ _))
  have hf (f : Fld) (ho : f.off = 0) (hh : f.hi < 32) :
      t.fld (HLIST.addr h i) f = bitsOf (mask + id * 2 ^ 16 + 2 ^ 24) f.hi f.lo := by
    unfold State.fld State.wordN
    rw [if_pos hh, ho, Nat.add_zero, hi', BitVec.toNat_ofNat, Nat.mod_eq_of_lt hlt]
  refine ⟨?_, State.fld_setFld_eq _ _ (by decide), (hf _ rfl (by decide)).trans h1, (hf _ rfl (by decide)).trans h2,
    (hf _ rfl (by decide)).trans h3, fun n hn hne => ?_⟩
  · unfold State.quad State.wordN
    rw [hw _ (by rw [he]; omega) (by rw [he]; omega), hw _ (by rw [he]; omega) (by rw [he]; omega)]
  · unfold State.quad State.wordN
    rw [ht _ (by rw [he]; omega), ht _ (by rw [he]; omega), hw _ (by rw [he, he]; omega) (by rw [he, he]; omega),
      hw _ (by rw [he, he]; omega) (by rw [he, he]; omega)]

theorem hoistGo_reaches {s : State} {via : Via} {h : Half} (hr : reaches s via h) (p : BitVec 64) :
    exec (.hoistGo via p) s = .next (hoistGo (s.setQuad (HOIST.addr h + 8) p.toNat) h) :=
  congrArg Host.Outcome.next (viaHalf2_reaches _ _ _ hr)

theorem hoistListRead_reaches {s : State} {via : Via} {h : Half} (hr : reaches s via h) (i : Fin 8) :
    exec (.hoistListRead via i) s = .next ((hoistRead s h i.val).2.answer via.m (BitVec.ofNat 64 (hoistRead s h i.val).1)) :=
  congrArg Host.Outcome.next (viaRead_reaches _ _ hr)

/-- Settles O34: a write of Q_WR is one check of the queue, a zone scan one update of the arm's unit, and GO one search of the
hoist list. -/
theorem armQueueAndHoists : Obligations.ArmQueueAndHoists := by
  unfold Obligations.ArmQueueAndHoists
  refine ⟨⟨?_, ?_⟩, ?_, ?_, ?_⟩
  · intro via h j idx s hr b v
    have run := qWrWrite_reaches hr j idx
    have hv : v % 128 = v := Nat.mod_eq_of_lt idx.isLt
    refine ⟨fun he => ?_, fun he hn => ?_, fun he hn hq => ?_, fun he hn hq => ?_⟩
    · exact run.trans (congrArg _ (if_pos he))
    · exact run.trans (congrArg _ ((if_neg (not_not.mpr he)).trans (if_pos (by rw [hv]; exact hn))))
    · have h0 : (v + 128 - s.fld b ARM.Q_ACK) % 128 = 0 := by omega
      rw [run, qwrWrite_inside idx.isLt he hn]
      exact congrArg Host.Outcome.next (congrArg (checkQueue _ h j.val) h0)
    · have ha := s.fld_lt b ARM.Q_ACK
      have h1 : (v + 128 - s.fld b ARM.Q_ACK) % 128 = 0 + 1 := by
        change s.fld b ARM.Q_ACK < 128 at ha
        omega
      intro t i r
      have hi : t.fld b ARM.Q_ACK = i := State.fld_setFld_of_apart _ _ (by decide)
      have hrd : t.fld b ARM.Q_RD = s.fld b ARM.Q_RD := State.fld_setFld_of_apart _ _ (by decide)
      have hc := checkQueue_succ t h j.val 0
      dsimp only at hc
      rw [hi, hrd] at hc
      rw [run, qwrWrite_inside idx.isLt he hn, h1, hc]
      refine ⟨fun h => congrArg _ (if_neg h), fun h => ⟨_, congrArg _ (if_pos h), ?_⟩⟩
      have hack : (s.fld b ARM.Q_ACK + 1) % 128 % 2 ^ 7 = v := by omega
      refine ⟨(State.fld_setFld_eq _ _ (by decide)).trans hack, ?_, ?_, ?_, ?_⟩
      · refine (State.fld_setFld_of_apart _ _ (by decide)).trans ((State.onHalf_fld _ _ _ _ _).trans ?_)
        exact (State.fld_setFld_eq _ _ (by decide)).trans hv
      · exact (State.fld_setFld_of_apart _ _ (by decide)).trans ((State.onHalf_fld _ _ _ _ _).trans hrd)
      · refine (State.fld_setFld_of_apart _ _ (by decide)).trans ((State.onHalf_fld _ _ _ _ _).trans ?_)
        exact (State.fld_setFld_of_apart _ _ (by decide)).trans he
      · simp only [checkQueue, State.setFld_mem, State.setArm_mem, t]
  · intro h j seg dt s0 hj s n i a ps l
    refine ⟨fun hn => congrArg _ (if_pos hn), fun hn => ⟨_, mergedSpans seg.val l, congrArg Host.Outcome.next (zoneScan_queued hn), ?_⟩⟩
    have hl : ∀ y ∈ l, y.seg = seg.val % 64 := by
      intro y hy
      obtain ⟨z, -, hz⟩ := List.mem_flatMap.mp hy
      exact zoneSpans_seg y hz
    rw [State.arm_setArm_same _ _ (by rw [State.half_passTime]; exact hj)]
    exact ⟨rfl, fun h => if_pos h, mergedSpans_seg hl, mergedSpans_cover _ _, List.mem_append_right _ (List.mem_singleton_self _),
      rfl, State.setArm_regs _ _ _ _, State.setArm_mem _ _ _ _⟩
  · intro via h p s0 hr b s mask id bad dup no
    have run := hoistGo_reaches hr p
    obtain ⟨hbad, hdup, hfull, hfree⟩ := hoistGo_of s h
    refine ⟨fun h1 => run.trans (congrArg _ (hbad h1)), fun h1 h2 => run.trans (congrArg _ (hdup h1 h2)), fun h1 h2 h3 => ?_,
      fun i h1 h2 hi h0 hlt => ?_⟩
    · exact run.trans (congrArg _ (hfull h1 h2 (List.find?_range_eq_none.mpr fun i hi => by rw [Bool.not_eq_true', decide_eq_false_iff_not]; exact h3 i hi)))
    · obtain ⟨hq, hres, hst, hid, hmask, hother⟩ := armedHoist_reads s h
        ⟨((s.setWordN (HLIST.addr h i) (mask + id * 2 ^ 16 + 2 ^ 24)).setWordN (HLIST.addr h i + 4) 0).quad (b + 8), none⟩ hi
        (s.fld_lt b HOIST.MASK) (s.fld_lt b HOIST.ID)
      refine ⟨_, run.trans (congrArg _ (hfree i h1 h2 (find_free hi h0 hlt))), hres, hst, hid, hmask, fun hlen => ?_,
        fun n hn hne => (hother n hn hne).trans ?_⟩
      · have hp : s.quad (b + 8) = p.toNat := (s0.quad_setQuad_same _ _).trans (Nat.mod_eq_of_lt p.isLt)
        refine Eq.trans (congrFun (congrFun (congrFun rfl _) _) _) ((State.hoist_setHoist_same _ _ ?_).trans ?_)
        · simp only [State.setWordN_half, s, State.setQuad_half]
          exact hlen
        · rw [hq, hp]
      · have ha : HLIST.addr h n = b + 32 + n * 8 := by simp only [b]; unfold HLIST.addr HOIST.addr; omega
        rw [ha]
        exact State.quad_setQuad_other _ _ (by omega) (by omega) (by omega)
  · intro via h i s hr b v
    have run := hoistListRead_reaches hr i
    refine ⟨fun h2 => ?_, fun h2 => ?_⟩
    · have e : hoistRead s h i.val = (s.quad b, (s.setWordN b 0).setWordN (b + 4) 0) := if_pos h2
      rw [run, e]
    · have e : hoistRead s h i.val = (s.quad b, s) := if_neg (not_le.mpr h2)
      rw [run, e]
  · intro h j s
    exact ⟨rfl, fun h1 => congrArg _ (if_pos h1), fun h1 => congrArg _ (if_neg h1)⟩

end Sys2Proof.Machine
end

section
/-! PROOFS. The time bases: what their operations read and change, and an offset sample (R343 to R346). -/
namespace Sys2Proof.Machine

/-! A time base of a half after an update. -/

theorem State.tb_congr {s t : State} {h : Half} (e : t.half h = s.half h) (b : Nat) : t.tb h b = s.tb h b := by
  unfold State.tb State.time
  rw [e]

@[simp] theorem State.setFld_tb (s : State) (a : Nat) (f : Fld) (v : Nat) (h : Half) (b : Nat) : (s.setFld a f v).tb h b = s.tb h b :=
  State.tb_congr (s.setFld_half a f v h) b
@[simp] theorem State.setFldS_tb (s : State) (a : Nat) (f : Fld) (v : Int) (h : Half) (b : Nat) : (s.setFldS a f v).tb h b = s.tb h b :=
  State.tb_congr (s.setFldS_half a f v h) b
@[simp] theorem State.putFlag_tb (s : State) (a : Nat) (f : Fld) (v : Bool) (h : Half) (b : Nat) : (s.putFlag a f v).tb h b = s.tb h b :=
  State.tb_congr (s.putFlag_half a f v h) b

@[simp] theorem State.time_setTime_same (s : State) (h : Half) (u : TimeUnit) : (s.setTime h u).time h = u := by
  simp only [State.time, State.setTime, State.half_onHalf_same]

theorem State.time_setTime_other (s : State) {h g : Half} (u : TimeUnit) (n : g ≠ h) : (s.setTime h u).time g = s.time g := by
  simp only [State.time, State.setTime, State.half_onHalf_other _ _ n]

theorem TimeUnit.base_setBase_same (u : TimeUnit) (b : Nat) (x : TimeBase) : (u.setBase b x).base b = x :=
  match b with
  | 0 | 1 | 2 | _ + 3 => rfl

theorem TimeUnit.base_setBase_other (u : TimeUnit) {b c : Nat} (x : TimeBase) (hb : b = 1 ∨ b = 2 ∨ b = 3) (hc : c = 1 ∨ c = 2 ∨ c = 3)
    (n : c ≠ b) : (u.setBase b x).base c = u.base c := by
  rcases hb with rfl | rfl | rfl <;> rcases hc with rfl | rfl | rfl <;> first | rfl | exact absurd rfl n

@[simp] theorem State.tb_setTb_same (s : State) (h : Half) (b : Nat) (x : TimeBase) : (s.setTb h b x).tb h b = x := by
  simp only [State.tb, State.setTb, State.time_setTime_same, TimeUnit.base_setBase_same]

theorem State.tb_setTb_other (s : State) {h g : Half} {b c : Nat} (x : TimeBase) (hb : b = 1 ∨ b = 2 ∨ b = 3) (hc : c = 1 ∨ c = 2 ∨ c = 3)
    (n : (g, c) ≠ (h, b)) : (s.setTb h b x).tb g c = s.tb g c := by
  by_cases hg : g = h
  · subst hg
    simp only [State.tb, State.setTb, State.time_setTime_same]
    exact TimeUnit.base_setBase_other _ _ hb hc fun e => n (by rw [e])
  · simp only [State.tb, State.setTb, State.time_setTime_other _ _ hg]

@[simp] theorem State.setTb_word (s : State) (h : Half) (b : Nat) (x : TimeBase) (a : Nat) : (s.setTb h b x).word a = s.word a :=
  State.onHalf_word _ _ _ _
@[simp] theorem State.setTb_fld (s : State) (h : Half) (b : Nat) (x : TimeBase) (a : Nat) (f : Fld) : (s.setTb h b x).fld a f = s.fld a f :=
  State.onHalf_fld _ _ _ _ _
@[simp] theorem State.setTb_fldS (s : State) (h : Half) (b : Nat) (x : TimeBase) (a : Nat) (f : Fld) : (s.setTb h b x).fldS a f = s.fldS a f :=
  State.onHalf_fldS _ _ _ _ _
@[simp] theorem State.setTb_flag (s : State) (h : Half) (b : Nat) (x : TimeBase) (a : Nat) (f : Fld) : (s.setTb h b x).flag a f = s.flag a f :=
  State.onHalf_flag _ _ _ _ _
@[simp] theorem State.setTb_mem (s : State) (h : Half) (b : Nat) (x : TimeBase) : (s.setTb h b x).mem = s.mem := s.setTime_mem h _
@[simp] theorem State.setTb_regs (s : State) (h : Half) (b : Nat) (x : TimeBase) : (s.setTb h b x).regs = s.regs := s.setTime_regs h _
@[simp] theorem State.setTb_tb0 (s : State) (h : Half) (b : Nat) (x : TimeBase) : (s.setTb h b x).tb0 = s.tb0 := s.setTime_tb0 h _

@[simp] theorem TimeUnit.setBase_startWait (u : TimeUnit) (b : Nat) (x : TimeBase) : (u.setBase b x).startWait = u.startWait := by
  unfold TimeUnit.setBase
  split <;> rfl

@[simp] theorem State.setTb_startWait (s : State) (h : Half) (b : Nat) (x : TimeBase) (g : Half) :
    ((s.setTb h b x).time g).startWait = (s.time g).startWait := by
  by_cases hg : g = h
  · subst hg
    simp only [State.setTb, State.time_setTime_same, TimeUnit.setBase_startWait]
  · simp only [State.setTb, State.time_setTime_other _ _ hg]

theorem State.time_congr {s t : State} {h : Half} (e : t.half h = s.half h) : t.time h = s.time h := by
  unfold State.time
  rw [e]

/-! The rate of a base (R343). -/

@[simp] theorem setRate_tb_same (s : State) (h : Half) (b : Nat) (r : Int) : (setRate s h b r).tb h b = { s.tb h b with rate := r } :=
  (State.setFldS_tb _ _ _ _ _ _).trans (State.tb_setTb_same _ _ _ _)

theorem setRate_tb_other (s : State) {h g : Half} {b c : Nat} (r : Int) (hb : b = 1 ∨ b = 2 ∨ b = 3) (hc : c = 1 ∨ c = 2 ∨ c = 3)
    (n : (g, c) ≠ (h, b)) : (setRate s h b r).tb g c = s.tb g c :=
  (State.setFldS_tb _ _ _ _ _ _).trans (State.tb_setTb_other _ _ hb hc n)

@[simp] theorem setRate_mem (s : State) (h : Half) (b : Nat) (r : Int) : (setRate s h b r).mem = s.mem :=
  (State.setFldS_mem _ _ _ _).trans (State.setTb_mem _ _ _ _)

@[simp] theorem setRate_tb0 (s : State) (h : Half) (b : Nat) (r : Int) : (setRate s h b r).tb0 = s.tb0 :=
  (State.setFldS_tb0 _ _ _ _).trans (State.setTb_tb0 _ _ _ _)

@[simp] theorem setRate_startWait (s : State) (h : Half) (b : Nat) (r : Int) (g : Half) :
    ((setRate s h b r).time g).startWait = (s.time g).startWait :=
  (congrArg TimeUnit.startWait (State.time_congr (State.setFldS_half _ _ _ _ _))).trans (State.setTb_startWait _ _ _ _ _)

/-- Fields apart from TB.RATE read as before after the rate is set. -/
theorem setRate_fld_of_apart (s : State) (h : Half) (b : Nat) (r : Int) {f : Fld} (a : TB.RATE.apart f = true) :
    (setRate s h b r).fld (TB.addr h b) f = s.fld (TB.addr h b) f :=
  (State.fld_setFld_of_apart _ _ a).trans (State.setTb_fld _ _ _ _ _ _)

theorem State.fld_setFldS_of_apart (s : State) {b : Nat} {f g : Fld} (v : Int) (h : f.apart g = true) :
    (s.setFldS b f v).fld b g = s.fld b g :=
  s.fld_setFld_of_apart _ h

/-! An offset sample (R343 to R345). -/

/-- A base with one more good or bad sample in a row. -/
def TimeBase.counted (y : TimeBase) (good : Bool) : TimeBase :=
  { y with goodRun := if good then Nat.min 8 (y.goodRun + 1) else 0, badRun := if good then 0 else Nat.min 4 (y.badRun + 1) }

theorem TimeBase.counted_goodRun_lt {y : TimeBase} (good : Bool) (h : y.goodRun < 7) : ¬8 ≤ (y.counted good).goodRun := by
  unfold TimeBase.counted
  cases good
  · exact of_decide_eq_true rfl
  · exact not_le.mpr (lt_of_le_of_lt (Nat.min_le_right _ _) (by omega))

/-- A sample is counted and shown. -/
def sampleNoted (s : State) (h : Half) (b : Nat) (e : Int) : State :=
  (s.setFld (TB.addr h b) TB.SAMPLES (s.fld (TB.addr h b) TB.SAMPLES + 1)).setFldS (TB.addr h b) TB.LAST_OFS (ofsNs e)

/-- A base whose integral is i runs at a rate, its last sample taken at an instant. -/
def steerBase (s : State) (h : Half) (b stamp : Nat) (i r : Int) : State :=
  setRate (s.setTb h b { s.tb h b with integ := i, lastSample := some stamp }) h b r

theorem steerBase_tb_same (s : State) (h : Half) (b stamp : Nat) (i r : Int) :
    (steerBase s h b stamp i r).tb h b = { s.tb h b with integ := i, lastSample := some stamp, rate := r } := by
  simp only [steerBase, setRate_tb_same, State.tb_setTb_same]

theorem steerBase_fld_of_apart (s : State) (h : Half) (b stamp : Nat) (i r : Int) {f : Fld} (a : TB.RATE.apart f = true) :
    (steerBase s h b stamp i r).fld (TB.addr h b) f = s.fld (TB.addr h b) f :=
  (setRate_fld_of_apart _ _ _ _ a).trans (State.setTb_fld _ _ _ _ _ _)

theorem sampleNoted_fld_of_apart (s : State) (h : Half) (b : Nat) (e : Int) {f : Fld} (a : TB.SAMPLES.apart f = true)
    (a' : TB.LAST_OFS.apart f = true) : (sampleNoted s h b e).fld (TB.addr h b) f = s.fld (TB.addr h b) f :=
  (State.fld_setFldS_of_apart _ _ a').trans (State.fld_setFld_of_apart _ _ a)

theorem sampleNoted_half (s : State) (h : Half) (b : Nat) (e : Int) (g : Half) : (sampleNoted s h b e).half g = s.half g :=
  (State.setFldS_half _ _ _ _ _).trans (State.setFld_half _ _ _ _ _)

/-- The integral and the rate after a sample of e at an instant: those of R343. -/
def sampleInteg (s : State) (h : Half) (b : Nat) (e : Int) (dt : Nat) : Int :=
  (s.tb h b).integ + gainTerm (s.fld (TB.addr h b) TB.KI) e dt
def sampleRate (s : State) (h : Half) (b : Nat) (e : Int) (dt : Nat) : Int :=
  clampPpm (s.fld (TB.addr h b) TB.RATE_LIM) (rateOf (gainTerm (s.fld (TB.addr h b) TB.KP) e (10 ^ 9) + sampleInteg s h b e dt))

theorem steerBase_tb_other (s : State) {h g : Half} {b c : Nat} (stamp : Nat) (i r : Int) (hb : b = 1 ∨ b = 2 ∨ b = 3)
    (hc : c = 1 ∨ c = 2 ∨ c = 3) (n : (g, c) ≠ (h, b)) : (steerBase s h b stamp i r).tb g c = s.tb g c :=
  (setRate_tb_other _ _ hb hc n).trans (State.tb_setTb_other _ _ hb hc n)

theorem steerBase_keeps_rest (s : State) (h : Half) (b stamp : Nat) (i r : Int) :
    (steerBase s h b stamp i r).tb0 = s.tb0 ∧ (steerBase s h b stamp i r).mem = s.mem ∧
      ((steerBase s h b stamp i r).time h).startWait = (s.time h).startWait :=
  ⟨(setRate_tb0 _ _ _ _).trans (State.setTb_tb0 _ _ _ _), (setRate_mem _ _ _ _).trans (State.setTb_mem _ _ _ _),
    (setRate_startWait _ _ _ _ _).trans (State.setTb_startWait _ _ _ _ _)⟩

/-- The end of a sample: the run of good or bad ones is counted, and locks or unlocks the base. -/
def sampleEnd (s : State) (h : Half) (b : Nat) (e : Int) : State :=
  let y := (s.tb h b).counted (decide ((e.natAbs : Int) ≤ (s.fld (TB.addr h b) TB.LOCK_THR : Int) * 65536))
  let t := s.setTb h b y
  if t.flag (TB.addr h b) TB.LOCKED then (if 4 ≤ y.badRun then setLock t h b false else t)
  else if 8 ≤ y.goodRun then setLock t h b true else t

/-- A sample that neither steps nor locks the base: it is noted, steers the base, and is counted in the base's run. -/
theorem takeSample_small {s : State} {h : Half} {b : Nat} {e : Int} {stamp t0 : Nat}
    (ht : (s.tb h b).lastSample = some t0) (hl : s.flag (TB.addr h b) TB.LOCKED = false) (hg : (s.tb h b).goodRun < 7)
    (hs : s.fld (TB.addr h b) TB.STEP_THR = 0 ∨ (e.natAbs : Int) ≤ (s.fld (TB.addr h b) TB.STEP_THR : Int) * 65536) :
    let w := steerBase (sampleNoted s h b e) h b stamp (sampleInteg s h b e (stamp - t0)) (sampleRate s h b e (stamp - t0))
    takeSample s h b e stamp =
      w.setTb h b ((w.tb h b).counted (decide ((e.natAbs : Int) ≤ (w.fld (TB.addr h b) TB.LOCK_THR : Int) * 65536))) := by
  intro w
  have h1 {f : Fld} (a : TB.SAMPLES.apart f = true) (a' : TB.LAST_OFS.apart f = true) :=
    sampleNoted_fld_of_apart s h b e a a'
  have hthr : ¬((sampleNoted s h b e).fld (TB.addr h b) TB.STEP_THR ≠ 0 ∧
      ((sampleNoted s h b e).fld (TB.addr h b) TB.STEP_THR : Int) * 65536 < e.natAbs) := by
    rw [h1 (by decide) (by decide)]
    rintro ⟨h0, hlt⟩
    exact hs.elim h0 (not_le.mpr hlt)
  have hw : w.tb h b = { s.tb h b with integ := sampleInteg s h b e (stamp - t0), lastSample := some stamp, rate := sampleRate s h b e (stamp - t0) } := by
    simp only [w, steerBase_tb_same, State.tb_congr (sampleNoted_half s h b e h)]
  have hlock (y : TimeBase) : ¬(w.setTb h b y).flag (TB.addr h b) TB.LOCKED = true := by
    rw [State.setTb_flag, State.flag_of_fld (steerBase_fld_of_apart _ _ _ _ _ _ (by decide)), State.flag_of_fld (h1 (by decide) (by decide)), hl]
    exact Bool.false_ne_true
  have hend : sampleEnd w h b e =
      w.setTb h b ((w.tb h b).counted (decide ((e.natAbs : Int) ≤ (w.fld (TB.addr h b) TB.LOCK_THR : Int) * 65536))) :=
    (if_neg (hlock _)).trans (if_neg (TimeBase.counted_goodRun_lt _ (by rw [hw]; exact hg)))
  refine Eq.trans ?_ hend
  have hki := h1 (f := TB.KI) (by decide) (by decide)
  have hkp := h1 (f := TB.KP) (by decide) (by decide)
  have hlim := h1 (f := TB.RATE_LIM) (by decide) (by decide)
  unfold sampleNoted at hki hkp hlim
  refine (congrArg (fun v => sampleEnd v h b e) (if_neg hthr)).trans (congrArg (fun v => sampleEnd v h b e) ?_)
  change steerBase (sampleNoted s h b e) h b stamp _ _ = w
  rw [State.setTb_fld, State.setTb_fld, hki, hkp, hlim]
  simp only [ht]
  rfl

/-- What such a sample leaves: the base steered, every other base, TB0 and memory as they were. -/
theorem takeSample_steers {s : State} {h : Half} {b : Nat} {e : Int} {stamp t0 : Nat} (hb : b = 1 ∨ b = 2 ∨ b = 3)
    (ht : (s.tb h b).lastSample = some t0) (hl : s.flag (TB.addr h b) TB.LOCKED = false) (hg : (s.tb h b).goodRun < 7)
    (hs : s.fld (TB.addr h b) TB.STEP_THR = 0 ∨ (e.natAbs : Int) ≤ (s.fld (TB.addr h b) TB.STEP_THR : Int) * 65536) :
    let u := takeSample s h b e stamp
    (u.tb h b).integ = sampleInteg s h b e (stamp - t0) ∧ (u.tb h b).rate = sampleRate s h b e (stamp - t0) ∧
      (u.tb h b).val = (s.tb h b).val ∧ (u.tb h b).lastSample = some stamp ∧ u.tb0 = s.tb0 ∧ u.mem = s.mem ∧
      (∀ g c, (g, c) ≠ (h, b) → 1 ≤ c → c ≤ 3 → u.tb g c = s.tb g c) ∧ (u.time h).startWait = (s.time h).startWait := by
  intro u
  have hu : u = _ := takeSample_small ht hl hg hs
  have hn (g : Half) := sampleNoted_half s h b e g
  generalize hR : sampleRate s h b e (stamp - t0) = R at *
  generalize sampleInteg s h b e (stamp - t0) = I at *
  obtain ⟨ht0, hmem, hwait⟩ := steerBase_keeps_rest (sampleNoted s h b e) h b stamp I R
  have hw := steerBase_tb_same (sampleNoted s h b e) h b stamp I R
  rw [State.tb_congr (hn h)] at hw
  rw [hu, State.tb_setTb_same, hw, State.setTb_tb0, State.setTb_mem, State.setTb_startWait, ht0, hmem, hwait, State.time_congr (hn h)]
  refine ⟨rfl, rfl, rfl, rfl, (State.setFldS_tb0 _ _ _ _).trans (State.setFld_tb0 _ _ _ _),
    (State.setFldS_mem _ _ _ _).trans (State.setFld_mem _ _ _ _), fun g c n h1 h3 => ?_, rfl⟩
  have hc : c = 1 ∨ c = 2 ∨ c = 3 := by omega
  exact (State.tb_setTb_other _ _ hb hc n).trans ((steerBase_tb_other _ _ _ _ hb hc n).trans (State.tb_congr (hn g) c))

theorem waitLocked_noWait {s : State} {h : Half} (hw : (s.time h).startWait = none) : waitLocked s h = s := by
  unfold waitLocked
  rw [hw]
  rfl

/-- A Sync message of the grandmaster in force, in time, is one sample. -/
theorem ptpReceive_sync {s : State} {h : Half} {dom : Nat} {e : Int} {stamp : Nat} {gm : BitVec 64}
    (hsrc : s.fld (TB.addr h (dom + 1)) TB.SRC = 0) (hgm : s.fld (PTP.addr h dom) PTP.GM_ID = gm.toNat)
    (hd : ∀ d, lossDeadline s h (dom + 1) = some d → stamp ≤ d) :
    ptpReceive s h dom (.sync e stamp gm) = takeSample s h (dom + 1) e stamp := by
  have htake : takeGm s h dom gm.toNat = s := if_pos hgm
  refine (if_neg (not_not.mpr hsrc)).trans ?_
  rw [htake]
  dsimp only
  cases hl : lossDeadline s h (dom + 1) with
  | none => rfl
  | some d =>
    have hlate : ¬(decide (d < stamp) = true) := by simpa using hd d hl
    exact congrArg (fun w => takeSample w h (dom + 1) e stamp) (if_neg hlate)

/-- Settles O36: a Sync message and a software sample are one sample, which steers its base alone. -/
theorem offsetSamplesSteerTheRate : Obligations.OffsetSamplesSteerTheRate := by
  unfold Obligations.OffsetSamplesSteerTheRate
  intro via h dom e stamp t0 gm v s hr b r x lim i steered ht hl hg hw hs
  have hb : b = 1 ∨ b = 2 ∨ b = 3 := by omega
  obtain ⟨hinteg, hrate, hval, hlast, htb0, hmem, hother, hwait⟩ := takeSample_steers (stamp := stamp) hb ht hl hg hs
  have hsteer : steered (takeSample s h b e stamp) := ⟨hinteg, hrate, hval, hlast, htb0, hmem, hother⟩
  have hend : waitLocked (takeSample s h b e stamp) h = takeSample s h b e stamp := waitLocked_noWait (hwait.trans hw)
  refine ⟨fun hsrc hgm hd => ⟨_, ?_, hsteer⟩, fun hsrc hv hst => ⟨_, ?_, hsteer⟩, ?_⟩
  · exact congrArg Host.Outcome.next ((congrArg (waitLocked · h) (ptpReceive_sync hsrc hgm hd)).trans hend)
  · have hsoft : softSample s h b v.toNat = takeSample s h b e stamp := by
      refine (if_pos hsrc).trans ?_
      rw [hv, ← hst]
    exact congrArg Host.Outcome.next ((viaHalf2_reaches _ _ _ hr).trans ((congrArg (waitLocked · h) hsoft).trans hend))
  · exact congrArg Host.Outcome.next (waitLocked_noWait ((congrArg TimeUnit.startWait (State.time_congr (State.count_half _ _ _ _))).trans hw))

end Sys2Proof.Machine
end

section
/-! PROOFS. The sync instant and the compute window (R35, R42 to R46, R350 to R356). -/
namespace Sys2Proof.Machine

theorem State.inCharge_of_not_active {s : State} {h : Half} (n : s.activeHalf ≠ some h) : s.inCharge h = false := by
  unfold State.inCharge
  rw [decide_eq_false n]
  rfl

theorem State.passTime_inCharge (s : State) (dt : Nat) (h : Half) : (s.passTime dt).inCharge h = s.inCharge h := rfl

theorem State.passTime_servo (s : State) (dt : Nat) (h : Half) : (s.passTime dt).servo h = s.servo h := by
  unfold State.servo
  rw [State.half_passTime]

/-- The state of a half at its sync instant, before what the half in charge does. -/
def instantTaken (s : State) (h : Half) : State :=
  let k := nextSync s h
  let s := markInstant (endPeriod (passUntil s h (k * s.periodNs h)) h) h k
  let s := sampleTb3 (trackD (inputChange s h) h) h
  latchSafeCopies (s.setServo h { s.servo h with cwOpen := false }) h

theorem syncInstant_inactive {s : State} {h : Half} (n : (instantTaken s h).activeHalf ≠ some h) :
    syncInstant s h = instantTaken s h :=
  (congrArg (fun w : State => if w.inCharge h then chargeInstant w h else w) (if_neg n)).trans
    (if_neg (Bool.eq_false_iff.mp (State.inCharge_of_not_active n)))

theorem syncInstant_active {s : State} {h : Half} (a : (instantTaken s h).activeHalf = some h) :
    let w := mirrorGap (resumeAt (instantTaken s h) h) h
    syncInstant s h = if w.inCharge h then chargeInstant w h else w :=
  congrArg (fun w : State => if w.inCharge h then chargeInstant w h else w) (if_pos a)

theorem passUntil_opens (s : State) (h : Half) (t : Nat) :
    (!(passUntil s h t).inCharge h || ((passUntil s h t).servo h).cwOpen) = (!s.inCharge h || (s.servo h).cwOpen) := by
  unfold passUntil
  rw [State.passTime_inCharge, State.passTime_servo]

theorem engineDone_pending {s : State} {h : Half} (dt : Nat) {n : Nat} (hn : (s.servo h).cePend = some n) :
    engineDone s h dt = engineEnd (s.passTime dt) h n := by
  unfold engineDone
  dsimp only
  rw [State.passTime_servo, hn]

theorem engineDone_none {s : State} {h : Half} (dt : Nat) (hn : (s.servo h).cePend = none) : engineDone s h dt = s.passTime dt := by
  unfold engineDone
  dsimp only
  rw [State.passTime_servo, hn]

/-- A window that opens in the half in charge, once a period. -/
theorem windowOpen_charged {s : State} {h : Half} (hc : s.inCharge h = true) (ho : (s.servo h).cwOpen = false) :
    let u := passUntil s h (s.periodNum h * s.periodNs h + cwStartNs s h)
    let v := match (u.servo h).cePend with
      | none => u
      | some n => engineEnd u h n
    let each := fun (f : State → Half → Nat → State) (x : State) => (axisList v).foldl (fun x k => f x h k) x
    windowOpen s h = each engineAxis (each profileAxis (latchArms (each latchMode (each latchFeedback
      (v.setServo h { v.servo h with cwOpen := true, cePend := some (v.periodNum h), ceLeft := axisList v }))) h)) := by
  intro u v each
  refine if_neg ?_
  rw [passUntil_opens, hc, ho]
  exact Bool.false_ne_true

theorem windowOpen_passes {s : State} {h : Half} (n : s.inCharge h = false ∨ (s.servo h).cwOpen = true) :
    windowOpen s h = passUntil s h (s.periodNum h * s.periodNs h + cwStartNs s h) := by
  refine if_pos ?_
  rw [passUntil_opens]
  rcases n with hc | ho
  · rw [hc]
    rfl
  · rw [ho, Bool.or_true]

/-- Settles O37: the instant and the window, branch by branch. -/
theorem servoInstants : Obligations.ServoInstants := by
  unfold Obligations.ServoInstants
  refine ⟨?_, ?_⟩
  · intro h s k u1 t u2 u3 u4 u5
    exact ⟨fun n => congrArg (fun w => Host.Outcome.next (startFinish w h)) (syncInstant_inactive n),
      fun a => congrArg (fun w => Host.Outcome.next (startFinish w h)) (syncInstant_active a)⟩
  · intro h dt s u finish v open1 each
    exact ⟨fun hc ho => congrArg Host.Outcome.next (windowOpen_charged hc ho),
      fun n => congrArg Host.Outcome.next (windowOpen_passes n), fun n hn => congrArg Host.Outcome.next (engineDone_pending dt hn),
      fun hn => congrArg Host.Outcome.next (engineDone_none dt hn)⟩

end Sys2Proof.Machine
end

section
/-! PROOFS. Rail and slack commands, late work and ALIGN (R44 to R49, R109, R355). -/
namespace Sys2Proof.Machine

/-! SP_CTRL (R44, R47). -/

theorem spCtrl_clrMin (s : State) (h : Half) : spCtrl s h 1 = s.setFld (SYS.addr h) SYS.SLACK_MIN 0x7FFFFF := by
  unfold spCtrl
  dsimp only
  rw [if_pos (show bitOf 1 0 = true by decide), if_neg (show ¬bitOf 1 1 = true by decide)]

theorem spCtrl_clrCnt (s : State) (h : Half) :
    spCtrl s h 2 = (s.setWordN (SYS.addr h + 0x124) 0).setWordN (SYS.addr h + 0x128) 0 := rfl

/-- CLR_MIN sets SLACK_MIN to its most positive value and changes nothing else. -/
theorem clrMin_reads (s : State) (h : Half) :
    let y := SYS.addr h
    let t := spCtrl s h 1
    t.fldS y SYS.SLACK_MIN = 0x7FFFFF ∧ t.fld y SYS.MIN_SRC = s.fld y SYS.MIN_SRC ∧ t.mem = s.mem ∧ t.halfA = s.halfA ∧
      t.halfB = s.halfB ∧ ∀ a, a ∉ [y + 0x11C] → t.word a = s.word a := by
  intro y t
  have ht : t = s.setFld y SYS.SLACK_MIN 0x7FFFFF := spCtrl_clrMin s h
  rw [ht]
  refine ⟨?_, State.fld_setFld_of_apart _ _ (by decide), s.setFld_mem _ _ _, s.setFld_halfA _ _ _, s.setFld_halfB _ _ _, fun a ha => ?_⟩
  · unfold State.fldS
    rw [State.fld_setFld_eq _ _ (by decide)]
    decide
  · exact State.word_setWordN_other _ _ (fun e => ha (by rw [e]; exact List.mem_singleton_self _))

/-- CLR_CNT clears the late counters and changes nothing else. -/
theorem spClrCnt_reads (s : State) (h : Half) :
    let y := SYS.addr h
    let t := spCtrl s h 2
    t.word (y + 0x124) = 0 ∧ t.word (y + 0x128) = 0 ∧ t.mem = s.mem ∧ t.halfA = s.halfA ∧
      t.halfB = s.halfB ∧ ∀ a, a ∉ [y + 0x124, y + 0x128] → t.word a = s.word a := by
  intro y t
  have ht : t = (s.setWordN (y + 0x124) 0).setWordN (y + 0x128) 0 := spCtrl_clrCnt s h
  rw [ht]
  refine ⟨(State.word_setWordN_other _ _ (by omega)).trans (State.word_setWordN_same _ _ _), State.word_setWordN_same _ _ _,
    by simp only [State.setWordN_mem], by simp only [State.setWordN_halfA], by simp only [State.setWordN_halfB], fun a ha => ?_⟩
  simp only [List.mem_cons, List.not_mem_nil, or_false, not_or] at ha
  exact (State.word_setWordN_other _ _ ha.2).trans (State.word_setWordN_other _ _ ha.1)

/-! ALIGN (R355). -/

/-- Skipped alarm instants change alarm registers only. -/
theorem skipAlarms_rest (s : State) (h : Half) (b n : Nat) :
    (∀ g, (skipAlarms s h b n).half g = s.half g) ∧ (skipAlarms s h b n).mem = s.mem ∧ (skipAlarms s h b n).tb0 = s.tb0 ∧
      (skipAlarms s h b n).pen = s.pen := by
  induction n with
  | zero => exact ⟨fun _ => rfl, rfl, rfl, rfl⟩
  | succ n ih =>
    obtain ⟨hh, hm, ht, hp⟩ := ih
    unfold skipAlarms
    dsimp only
    split
    · simp only [State.setQuad_half, State.countBy_half, State.setQuad_mem, State.countBy_mem, State.setQuad_tb0, State.countBy_tb0,
        State.setQuad_pen, State.countBy_pen]
      exact ⟨hh, hm, ht, hp⟩
    · exact ⟨hh, hm, ht, hp⟩

theorem stepBase_tb_same (s : State) (h : Half) (b v : Nat) : (stepBase s h b v).tb h b = { s.tb h b with val := v } :=
  (State.tb_congr ((skipAlarms_rest _ h b 16).1 h) b).trans (State.tb_setTb_same _ _ _ _)

theorem stepBase_mem (s : State) (h : Half) (b v : Nat) : (stepBase s h b v).mem = s.mem :=
  (skipAlarms_rest _ h b 16).2.1.trans (State.setTb_mem _ _ _ _)

/-- The state of TB3 that its bases give. -/
def alignState (s : State) (h : Half) : Nat := if tbLocked s h 1 then 0 else if tbLocked s h 2 then 1 else 2

theorem alignState_lt (s : State) (h : Half) : alignState s h < 8 := by
  unfold alignState
  split
  · decide
  · split <;> decide

/-- TB3 set to its source. -/
theorem alignTb3_reads (s : State) (h : Half) :
    let t := alignTb3 s h
    (t.tb h 3).val = (sourceVal s h (alignState s h)).toNat ∧ t.fld (TB3X.addr h) TB3X.STATE = alignState s h ∧ t.mem = s.mem := by
  intro t
  refine ⟨?_, (State.fld_setFld_eq _ _ (by decide)).trans (Nat.mod_eq_of_lt (alignState_lt s h)), ?_⟩
  · refine (congrArg TimeBase.val (State.setFld_tb _ _ _ _ _ _)).trans ?_
    refine (congrArg (fun u : TimeUnit => u.tb3.val) (State.time_setTime_same _ _ _)).trans ?_
    exact congrArg TimeBase.val (stepBase_tb_same s h 3 _)
  · exact (State.setFld_mem _ _ _ _).trans ((State.setTime_mem _ _ _).trans (stepBase_mem _ _ _ _))

theorem alignAllowed_iff (s : State) (h : Half) :
    alignAllowed s h = true ↔ (∀ r, r < 8 → ringState s h r = 0) ∧ ∀ k, k < 128 → s.flag (PRF.addr h k) PRF.LOOP_ON = false := by
  simp [alignAllowed]

theorem alignWrite_allowed {s : State} {h : Half} (a : alignAllowed s h = true) :
    alignWrite s h 1 = (alignTb3 s h).setQuad (SYS.addr h + 0x108) (syncNow (alignTb3 s h) h) :=
  if_pos a

theorem alignWrite_refused {s : State} {h : Half} (a : ¬alignAllowed s h = true) :
    alignWrite s h 1 = s.setFld (TB3X.addr h) TB3X.ALIGN_REF 1 :=
  if_neg a

theorem align_reaches {s : State} {via : Via} {h : Half} (hr : reaches s via h) : exec (.align via) s = .next (alignWrite s h 1) :=
  next_reaches hr _ _ _

/-- Settles O38: each command is a branch of one function, and ALIGN sets TB3 to its source. -/
theorem lateWorkAndAlign : Obligations.LateWorkAndAlign := by
  unfold Obligations.LateWorkAndAlign
  refine ⟨?_, ?_⟩
  · intro via h s hr b y same
    refine ⟨fun hg hf => ⟨_, congrArg Host.Outcome.next (if_neg (not_or.mpr ⟨not_lt.mpr hg, Bool.eq_false_iff.mp hf⟩)), ?_, ?_, ?_⟩, fun hn => congrArg _ (if_pos hn),
      ⟨spCtrl s h 1, next_reaches hr _ _ _, ?_⟩, ⟨spCtrl s h 2, next_reaches hr _ _ _, ?_⟩⟩
    · have hlt := s.fld_lt b HPWR.RAIL_MV
      change s.fld b HPWR.RAIL_MV < 1024 at hlt
      refine (State.onHalf_fld _ _ _ _ _).trans ((State.fld_setFld_eq _ _ (by decide)).trans (Nat.mod_eq_of_lt ?_))
      exact max_lt (by decide) (show s.fld b HPWR.RAIL_MV - 5 < 1024 by omega)
    · exact congrArg HalfState.servo (State.half_onHalf_same _ _ _)
    · exact (State.setServo_mem _ _ _).trans (State.setFld_mem _ _ _ _)
    · obtain ⟨h1, h2, h3⟩ := clrMin_reads s h
      exact ⟨h1, h2, h3⟩
    · obtain ⟨h1, h2, h3⟩ := spClrCnt_reads s h
      exact ⟨h1, h2, h3⟩
  · intro via h j s hr u y st
    have run : exec (.align via) s = .next (alignWrite s h 1) := align_reaches hr
    refine ⟨fun h3 h100 => congrArg _ (if_pos ⟨h3, h100⟩), fun hf h3 h100 => congrArg _ ((if_neg ?_).trans (if_pos ⟨h3, h100⟩)),
      fun hf hg => congrArg _ ((if_neg ?_).trans (if_neg ?_)), fun h3 h100 => congrArg _ (if_pos ⟨h3, h100⟩),
      fun hi => congrArg _ (if_neg ?_), fun h3 h2 => congrArg _ (if_pos ⟨h3, h2⟩), fun hn => congrArg _ (if_neg ?_),
      fun hring hloop => ⟨_, run.trans (congrArg _ (alignWrite_allowed ((alignAllowed_iff s h).mpr ⟨hring, hloop⟩))), ?_⟩,
      fun r hlt hring => run.trans (congrArg _ (alignWrite_refused fun a => hring (((alignAllowed_iff s h).mp a).1 r hlt))),
      fun k hlt hloop => run.trans (congrArg _ (alignWrite_refused fun a => ?_))⟩
    · exact fun e => absurd e.1 (not_le.mpr hf)
    · exact fun e => hf.elim (not_lt.mpr e.1) (ne_of_lt e.2)
    · exact fun e => hg.elim (not_lt.mpr e.1) (ne_of_lt e.2)
    · exact fun e => hi.elim (not_lt.mpr e.1) (ne_of_lt e.2)
    · exact fun e => hn.elim (fun n => n e.1) (fun n => n e.2)
    · obtain ⟨hval, hstate, hmem⟩ := alignTb3_reads s h
      refine ⟨(congrArg TimeBase.val (State.tb_congr (State.setQuad_half _ _ _ h) 3)).trans hval, ?_, (State.setQuad_mem _ _ _).trans hmem⟩
      refine (State.fld_of_words fun a h1 h2 => State.word_setQuad_other _ _ ?_ ?_).trans hstate
      · unfold SYS.addr
        unfold TB3X.addr at h1
        omega
      · unfold SYS.addr
        unfold TB3X.addr at h1
        omega
    · have := ((alignAllowed_iff s h).mp a).2 k hlt
      rw [hloop] at this
      exact Bool.noConfusion this

end Sys2Proof.Machine
end

section
/-! PROOFS. The command pennant: triggers, commanded moves and rehearsals (R21, R366 to R368, R371, R376). -/
namespace Sys2Proof.Machine

/-! Registers across updates of the arbiter's state and of memory. -/

@[simp] theorem State.setPen_fld (s : State) (x : PenUnit) (b : Nat) (f : Fld) : (s.setPen x).fld b f = s.fld b f := rfl
@[simp] theorem State.setPen_flag (s : State) (x : PenUnit) (b : Nat) (f : Fld) : (s.setPen x).flag b f = s.flag b f := rfl

@[simp] theorem mramCount_fld (s : State) (i b : Nat) (f : Fld) : (mramCount s i).fld b f = s.fld b f :=
  State.fld_congr (s.setMemN_regs _ _) (s.setMemN_image _ _) (s.setMemN_sect _ _) b f

@[simp] theorem mramCount_pen (s : State) (i : Nat) : (mramCount s i).pen = s.pen := s.setMemN_pen _ _

/-- A saturating counter counts one, its field apart from every other. -/
theorem State.fld_count_eq (s : State) {b : Nat} {f : Fld} (h : f.hi < 64) :
    (s.count b f).fld b f = Nat.min (s.fld b f + 1) (2 ^ (f.hi + 1 - f.lo) - 1) := by
  refine (State.fld_setFld_eq _ _ h).trans (Nat.mod_eq_of_lt ?_)
  exact lt_of_le_of_lt (Nat.min_le_right _ _) (Nat.sub_lt (Nat.two_pow_pos _) Nat.one_pos)

theorem State.fld_count_of_apart (s : State) {b : Nat} {f g : Fld} (h : f.apart g = true) : (s.count b f).fld b g = s.fld b g :=
  s.fld_setFld_of_apart _ h

/-! The half that holds the pennant. -/

theorem State.activeHalf_congr {s t : State} (hv : t.fld PEN.addr PEN.CMD_VALID = s.fld PEN.addr PEN.CMD_VALID)
    (hh : t.fld PEN.addr PEN.CMD_HOLDER = s.fld PEN.addr PEN.CMD_HOLDER) : t.activeHalf = s.activeHalf := by
  unfold State.activeHalf
  rw [State.flag_of_fld hv, State.flag_of_fld hh]

theorem State.activeHalf_of_held {t : State} {h : Half} (hv : t.flag PEN.addr PEN.CMD_VALID = true)
    (hh : t.fld PEN.addr PEN.CMD_HOLDER = halfIdx h) : t.activeHalf = some h := by
  have hb : t.flag PEN.addr PEN.CMD_HOLDER = decide (halfIdx h ≠ 0) := by rw [State.flag, hh]
  unfold State.activeHalf
  rw [if_pos hv, hb]
  cases h <;> rfl

theorem State.activeHalf_of_invalid {t : State} (hv : t.flag PEN.addr PEN.CMD_VALID = false) : t.activeHalf = none := by
  unfold State.activeHalf
  rw [hv]
  rfl

theorem State.setFld_pen_activeHalf (s : State) {f : Fld} (v : Nat) (hv : f.apart PEN.CMD_VALID = true) (hh : f.apart PEN.CMD_HOLDER = true) :
    (s.setFld PEN.addr f v).activeHalf = s.activeHalf :=
  State.activeHalf_congr (State.fld_setFld_of_apart _ _ hv) (State.fld_setFld_of_apart _ _ hh)

/-! A move of the pennant (R367). -/

@[simp] theorem noteMove_fld (s : State) (b : Nat) (f : Fld) : (noteMove s).fld b f = s.fld b f := by
  unfold noteMove
  split <;> rfl

@[simp] theorem noteMove_mem (s : State) : (noteMove s).mem = s.mem := by
  unfold noteMove
  split <;> rfl

@[simp] theorem noteMove_halves (s : State) : (noteMove s).halfA = s.halfA ∧ (noteMove s).halfB = s.halfB := by
  unfold noteMove
  split <;> exact ⟨rfl, rfl⟩

/-- The arbiter's registers with a new holder and the first period it owns. -/
def penShown (s : State) (dst : Half) (cause first : Nat) : State :=
  ((((noteMove s).setFld PEN.addr PEN.CMD_HOLDER (halfIdx dst)).setFlag PEN.addr PEN.CMD_VALID).setFld PEN.addr PEN.CAUSE cause).setFld
    PEN.addr PEN.KIND 0 |>.setFld PEN.addr PEN.PERIOD first

/-- The active view is held while the new holder takes over. -/
def viewHeld (s : State) (former : Option (Half × Nat)) (first : Nat) : State :=
  { s with former := former, hold := true, pen := penTaken s.pen first }

theorem viewHeld_fld (s : State) (former : Option (Half × Nat)) (first b : Nat) (f : Fld) :
    (viewHeld s former first).fld b f = s.fld b f := rfl

/-- The pennant with its new holder, before the events of the move. -/
def penMoved (s : State) (dst : Half) (cause : Nat) : State :=
  let shown := penShown s dst cause (nextSync s dst)
  let former := if s.servoNow dst % s.periodNs dst = 0 ∧ (s.time dst).marked ≠ some (s.servoNow dst / s.periodNs dst) then none
    else some (dst.other, shown.periodNum dst)
  mramCount ((viewHeld shown former (nextSync s dst)).count PEN.addr PEN.TAKEOVERS) 2

theorem nextSync_eq (s : State) (h : Half) :
    (if decide (s.servoNow h % s.periodNs h = 0 ∧ (s.time h).marked ≠ some (s.servoNow h / s.periodNs h)) = true then
      s.servoNow h / s.periodNs h else s.servoNow h / s.periodNs h + 1) = nextSync s h := by
  unfold nextSync
  simp only [decide_eq_true_eq]

theorem penMove_eq (s : State) (dst : Half) (cause : Nat) :
    penMove s dst cause = canTakeover (raiseBoth (penMoved s dst cause) 4) dst := by
  unfold penMove
  dsimp only
  rw [nextSync_eq]
  simp only [decide_eq_true_eq]
  rfl

/-- What a move leaves in the arbiter's registers and state. -/
theorem penMoved_reads (s : State) (dst : Half) {cause : Nat} (hc : cause < 16) :
    let u := penMoved s dst cause
    u.activeHalf = some dst ∧ u.hold = true ∧ u.fld PEN.addr PEN.CAUSE = cause ∧ u.fld PEN.addr PEN.KIND = 0 ∧
      u.pen.takeAt = some u.pen.ownedFrom ∧ u.pen.finishing = true ∧ u.pen.ownedFrom = nextSync s dst ∧
      u.fld PEN.addr PEN.PERIOD = u.pen.ownedFrom % 2 ^ 24 ∧
      u.fld PEN.addr PEN.TAKEOVERS = Nat.min 255 (s.fld PEN.addr PEN.TAKEOVERS + 1) := by
  intro u
  have hshown : ∀ f : Fld, PEN.TAKEOVERS.apart f = true → u.fld PEN.addr f = (penShown s dst cause (nextSync s dst)).fld PEN.addr f := by
    intro f hf
    refine (mramCount_fld _ _ _ _).trans ((State.fld_count_of_apart _ hf).trans (viewHeld_fld _ _ _ _ _))
  have hpen : u.pen = penTaken (penShown s dst cause (nextSync s dst)).pen (nextSync s dst) :=
    (mramCount_pen _ _).trans (State.count_pen _ _ _)
  refine ⟨State.activeHalf_of_held ?_ ?_, (State.setMemN_hold _ _ _).trans (State.count_hold _ _ _), ?_, ?_, ?_, ?_, ?_, ?_, ?_⟩
  · rw [State.flag_of_fld (hshown _ (by decide))]
    simp (disch := decide) only [penShown, State.flag_setFld_of_apart, State.setFlag_eq_putFlag, State.flag_putFlag_eq]
  · rw [hshown _ (by decide)]
    simp (disch := decide) only [penShown, State.fld_setFld_of_apart, State.setFlag_eq_putFlag, State.fld_putFlag_of_apart,
      State.fld_setFld_eq]
    cases dst <;> rfl
  · rw [hshown _ (by decide)]
    simp (disch := decide) only [penShown, State.fld_setFld_of_apart, State.fld_setFld_eq]
    exact Nat.mod_eq_of_lt hc
  · rw [hshown _ (by decide)]
    simp (disch := decide) only [penShown, State.fld_setFld_of_apart, State.fld_setFld_eq, Nat.zero_mod]
  · rw [hpen]
    rfl
  · rw [hpen]
    rfl
  · rw [hpen]
    rfl
  · rw [hshown _ (by decide), hpen]
    simp (disch := decide) only [penShown, State.fld_setFld_eq]
    rfl
  · refine (mramCount_fld _ _ _ _).trans ((State.fld_count_eq _ (by decide)).trans ?_)
    rw [viewHeld_fld]
    simp (disch := decide) only [penShown, State.fld_setFld_of_apart, State.setFlag_eq_putFlag, State.fld_putFlag_of_apart, noteMove_fld]
    exact Nat.min_comm _ _

/-- The rack pennant is released. -/
theorem rackRelease_flag (s : State) : (rackRelease s).flag PEN.addr PEN.RACK_HELD = false := by
  unfold rackRelease
  cases hr : s.flag PEN.addr PEN.RACK_HELD
  · exact hr
  · have hf : (s.putFlag PEN.addr PEN.RACK_HELD false).flag PEN.addr PEN.RACK_HELD = false := State.flag_putFlag_eq _ _ (by decide) (by decide)
    rw [if_pos rfl]
    dsimp only
    split
    · exact hf
    · exact hf

/-- Beside the rack pennant, its release changes no register of the arbiter, no memory and no half. -/
theorem rackRelease_rest (s : State) :
    (∀ f : Fld, PEN.RACK_HELD.apart f = true → (rackRelease s).fld PEN.addr f = s.fld PEN.addr f) ∧
      (rackRelease s).mem = s.mem ∧ (rackRelease s).halfA = s.halfA ∧ (rackRelease s).halfB = s.halfB ∧ (rackRelease s).pen = s.pen := by
  unfold rackRelease
  split
  · dsimp only
    split
    · exact ⟨fun f hf => State.fld_putFlag_of_apart _ _ hf, State.putFlag_mem _ _ _ _, State.putFlag_halfA _ _ _ _,
        State.putFlag_halfB _ _ _ _, State.putFlag_pen _ _ _ _⟩
    · exact ⟨fun f hf => State.fld_putFlag_of_apart _ _ hf, State.putFlag_mem _ _ _ _, State.putFlag_halfA _ _ _ _,
        State.putFlag_halfB _ _ _ _, State.putFlag_pen _ _ _ _⟩
  · exact ⟨fun _ _ => rfl, rfl, rfl, rfl, rfl⟩

/-- With both gates closed no half is active, the rack pennant is released, and the arbiter's other fields stand. -/
theorem closeGates_reads (s : State) :
    let t := closeGates s
    t.activeHalf = none ∧ t.flag PEN.addr PEN.RACK_HELD = false ∧ t.mem = s.mem ∧ t.halfA = s.halfA ∧ t.halfB = s.halfB ∧
      ∀ f : Fld, PEN.RACK_HELD.apart f = true → PEN.CMD_VALID.apart f = true → t.fld PEN.addr f = s.fld PEN.addr f := by
  intro t
  obtain ⟨hfld, hmem, ha, hb, -⟩ := rackRelease_rest ((noteMove s).putFlag PEN.addr PEN.CMD_VALID false)
  obtain ⟨hna, hnb⟩ := noteMove_halves s
  refine ⟨State.activeHalf_of_invalid ?_, rackRelease_flag _, hmem.trans ((State.putFlag_mem _ _ _ _).trans (noteMove_mem s)),
    ha.trans ((State.putFlag_halfA _ _ _ _).trans hna), hb.trans ((State.putFlag_halfB _ _ _ _).trans hnb), fun f h1 h2 => ?_⟩
  · exact (State.flag_of_fld (hfld _ (by decide))).trans (State.flag_putFlag_eq _ _ (by decide) (by decide))
  · exact (hfld f h1).trans ((State.fld_putFlag_of_apart _ _ h2).trans (noteMove_fld _ _ _))

/-! The triggers of a move (R366 to R368). -/

theorem penTrigger_eligible {s : State} {h : Half} {cause : Nat} (ha : s.activeHalf = some h) (he : eligible s h.other = true) :
    penTrigger s h cause = penMove s h.other cause :=
  (if_neg (not_not.mpr ha)).trans (if_pos he)

theorem penTrigger_noHalf {s : State} {h : Half} {cause : Nat} (ha : s.activeHalf = some h) (he : eligible s h.other = false) :
    penTrigger s h cause = faultLog (closeGates (s.count PEN.addr PEN.REFUSED)) 0xFF (some h) (some cause) none :=
  (if_neg (not_not.mpr ha)).trans (if_neg (Bool.eq_false_iff.mp he))

theorem penTrigger_inactive {s : State} {h : Half} {cause : Nat} (ha : s.activeHalf ≠ some h) : penTrigger s h cause = s := if_pos ha

theorem heartbeatMissing_late {s : State} {h : Half} {n : Nat} (hc : s.inCharge h = true)
    (hb : s.pen.beat.getD (halfIdx h) none = some n) (hn : n + 1 < syncNow s h) (ho : s.pen.ownedFrom < syncNow s h) :
    heartbeatMissing s h = penTrigger s h 1 := by
  unfold heartbeatMissing
  dsimp only
  rw [hc, hb]
  exact if_pos (by simp only [hn, ho, decide_true, Bool.and_self])

theorem heartbeatMissing_heard {s : State} {h : Half} {n : Nat} (hb : s.pen.beat.getD (halfIdx h) none = some n)
    (hn : syncNow s h ≤ n + 1) : heartbeatMissing s h = s := by
  unfold heartbeatMissing
  dsimp only
  rw [hb]
  exact if_neg (by simp only [decide_eq_false (not_lt.mpr hn), Bool.and_false, Bool.false_and, Bool.false_eq_true, not_false_eq_true])

theorem heartbeatMissing_inactive {s : State} {h : Half} (ha : s.activeHalf ≠ some h) : heartbeatMissing s h = s := by
  unfold heartbeatMissing
  dsimp only
  rw [State.inCharge_of_not_active ha]
  exact if_neg Bool.false_ne_true

/-- Settles O39: every trigger is penTrigger with its cause. -/
theorem triggersMoveThePennant : Obligations.TriggersMoveThePennant := by
  unfold Obligations.TriggersMoveThePennant
  intro h s moves
  have trigger (cause : Nat) (hc : cause < 16) (t : State) (ha : t.activeHalf = some h) :
      moves cause t (.next (penTrigger t h cause)) := by
    refine ⟨fun he => ⟨penMoved t h.other cause, ?_, penMoved_reads t h.other hc⟩, fun he => ?_⟩
    · rw [penTrigger_eligible ha he, penMove_eq]
    · obtain ⟨hact, hrack, hmem, -, -, hfld⟩ := closeGates_reads (t.count PEN.addr PEN.REFUSED)
      refine ⟨_, congrArg _ (penTrigger_noHalf ha he), hact, hrack, hmem.trans (State.count_mem _ _ _), ?_⟩
      rw [hfld _ (by decide) (by decide), State.fld_count_eq _ (by decide)]
      exact Nat.min_comm _ _
  clear_value moves
  refine ⟨fun ha => ⟨trigger 2 (by decide) s ha, trigger 3 (by decide) s ha, fun n hc hb hn ho => ?_, fun n hb hn => ?_, fun hot => ?_⟩,
    fun ha => ⟨congrArg _ (penTrigger_inactive ha), congrArg _ (penTrigger_inactive ha), congrArg _ (heartbeatMissing_inactive ha)⟩, ?_⟩
  · have run : exec (.heartbeatMissing h) s = .next (penTrigger s h 1) := congrArg _ (heartbeatMissing_late hc hb hn ho)
    rw [run]
    exact trigger 1 (by decide) s ha
  · exact congrArg _ (heartbeatMissing_heard hb hn)
  · have run : exec (.tempFatal h) s =
        .next (penTrigger { s with pen := { s.pen with hot := s.pen.hot.set (halfIdx h) true } } h 3) :=
      congrArg _ (if_neg (Bool.eq_false_iff.mp hot))
    rw [run]
    exact trigger 3 (by decide) _ ha
  · obtain ⟨hact, hrack, hmem, hA, hB, hfld⟩ := closeGates_reads (s.setFlag PEN.addr PEN.ARB_FAIL)
    refine ⟨_, rfl, ?_, hact, hrack, hmem.trans (State.setFlag_mem _ _ _), hA.trans (State.setFlag_halfA _ _ _), hB.trans (State.setFlag_halfB _ _ _)⟩
    rw [State.flag_of_fld (hfld _ (by decide) (by decide)), State.setFlag_eq_putFlag, State.flag_putFlag_eq _ _ (by decide) (by decide)]

end Sys2Proof.Machine
end

section
/-! PROOFS. Commanded moves and rehearsals of the pennants (R366, R368, R371, R376). -/
namespace Sys2Proof.Machine

/-! PEN.CMD (R366, R371, R376). -/

theorem penCmd_swap (s : State) (m : Bool) : penCmd s (1 + 4 * b2n m) = if m then moduleSwap s else requestSwap s 5 := by
  have hbits : bitOf (1 + 4 * b2n m) 3 = false ∧ bitOf (1 + 4 * b2n m) 1 = false ∧ bitOf (1 + 4 * b2n m) 0 = true ∧
      bitOf (1 + 4 * b2n m) 2 = m := by cases m <;> decide
  obtain ⟨h3, h1, h0, h2⟩ := hbits
  unfold penCmd
  simp only [h3, h1, h0, h2, Bool.false_eq_true, if_false, false_and, if_true]

/-- The arbiter's registers at the start of a rehearsal. -/
def rehStarted (s : State) : State :=
  (((s.count PEN.addr PEN.REHEARSALS).setFld PEN.addr PEN.REH_STATE 1).setFld PEN.addr PEN.RESULT 0).setFld PEN.addr PEN.FAIL 0

theorem penCmd_rehearse (s : State) (m : Bool) :
    penCmd s (2 + 4 * b2n m) = if s.fld PEN.addr PEN.REH_STATE = 0 then
      (if m then moduleSwap (rehStarted s) else requestSwap (rehStarted s) 6) else s := by
  have hbits : bitOf (2 + 4 * b2n m) 3 = false ∧ bitOf (2 + 4 * b2n m) 1 = true ∧ bitOf (2 + 4 * b2n m) 0 = false ∧
      bitOf (2 + 4 * b2n m) 2 = m := by cases m <;> decide
  obtain ⟨h3, h1, h0, h2⟩ := hbits
  unfold penCmd
  simp only [h3, h1, h0, h2, Bool.false_eq_true, if_false, true_and]
  rfl

theorem penCmd_clrCnt (s : State) : penCmd s 8 = (s.setWordN (PEN.addr + 0x14) 0).setWordN (PEN.addr + 0x48) 0 := by
  have hbits : bitOf 8 3 = true ∧ bitOf 8 1 = false ∧ bitOf 8 0 = false := by decide
  obtain ⟨h3, h1, h0⟩ := hbits
  unfold penCmd
  simp only [h3, h1, h0, Bool.false_eq_true, if_false, false_and, if_true]

/-! Refused and requested moves. -/

/-- A rehearsal is over. -/
def rehCleared (s : State) : State := (s.setFld PEN.addr PEN.REH_STATE 0).setPen { s.pen with reh := none }

theorem rehCleared_reads (s : State) :
    (rehCleared s).fld PEN.addr PEN.REH_STATE = 0 ∧ (rehCleared s).pen = { s.pen with reh := none } ∧ (rehCleared s).mem = s.mem ∧
      (rehCleared s).halfA = s.halfA ∧ (rehCleared s).halfB = s.halfB ∧
      ∀ f : Fld, PEN.REH_STATE.apart f = true → (rehCleared s).fld PEN.addr f = s.fld PEN.addr f :=
  ⟨State.fld_setFld_eq _ _ (by decide), rfl, State.setFld_mem _ _ _ _, State.setFld_halfA _ _ _ _, State.setFld_halfB _ _ _ _,
    fun _ hf => State.fld_setFld_of_apart _ _ hf⟩

/-- A refused move in the arbiter's registers, before a rehearsal ends. -/
def swapNoted (s : State) (m : Bool) : State :=
  let t := ((s.setFld PEN.addr PEN.CAUSE 9).putFlag PEN.addr PEN.KIND m).count PEN.addr PEN.REFUSED
  t.setPen { t.pen with swap := none }

theorem swapNoted_reads (s : State) (m : Bool) :
    let p := PEN.addr
    let w := swapNoted s m
    w.fld p PEN.CAUSE = 9 ∧ w.fld p PEN.KIND = b2n m ∧ w.fld p PEN.REFUSED = Nat.min 255 (s.fld p PEN.REFUSED + 1) ∧
      w.activeHalf = s.activeHalf ∧ w.pen.swap = none ∧ w.mem = s.mem ∧ w.halfA = s.halfA ∧ w.halfB = s.halfB := by
  intro p w
  unfold w p swapNoted
  refine ⟨?_, ?_, ?_, State.activeHalf_congr ?_ ?_, rfl, ?_, ?_, ?_⟩
  · simp (disch := decide) only [State.setPen_fld, State.fld_count_of_apart, State.fld_putFlag_of_apart, State.fld_setFld_eq]
    rfl
  · simp (disch := decide) only [State.setPen_fld, State.fld_count_of_apart, State.putFlag, State.fld_setFld_eq]
    cases m <;> rfl
  · simp (disch := decide) only [State.setPen_fld, State.fld_count_eq, State.fld_putFlag_of_apart, State.fld_setFld_of_apart]
    exact Nat.min_comm _ _
  · simp (disch := decide) only [State.setPen_fld, State.fld_count_of_apart, State.fld_putFlag_of_apart, State.fld_setFld_of_apart]
  · simp (disch := decide) only [State.setPen_fld, State.fld_count_of_apart, State.fld_putFlag_of_apart, State.fld_setFld_of_apart]
  · simp only [State.setPen_mem, State.count_mem, State.putFlag_mem, State.setFld_mem]
  · simp only [State.setPen_halfA, State.count_halfA, State.putFlag_halfA, State.setFld_halfA]
  · simp only [State.setPen_halfB, State.count_halfB, State.putFlag_halfB, State.setFld_halfB]

theorem swapRefused_eq (s : State) (m : Bool) : swapRefused s m =
    if (swapNoted s m).fld PEN.addr PEN.REH_STATE = 3 then
      rehCleared ((swapNoted s m).setFld PEN.addr PEN.RESULT (if (swapNoted s m).fld PEN.addr PEN.FAIL = 0 then 1 else 3))
    else rehCleared (swapNoted s m) := rfl

/-- What a refused move leaves: CAUSE 9, no request and no rehearsal. -/
def RefusedMove (s : State) (m : Bool) (t : State) : Prop :=
  t.fld PEN.addr PEN.CAUSE = 9 ∧ t.fld PEN.addr PEN.KIND = b2n m ∧ t.pen.swap = none ∧ t.fld PEN.addr PEN.REH_STATE = 0 ∧
    t.pen.reh = none ∧ t.fld PEN.addr PEN.REFUSED = Nat.min 255 (s.fld PEN.addr PEN.REFUSED + 1) ∧ t.mem = s.mem ∧
    t.halfA = s.halfA ∧ t.halfB = s.halfB ∧ t.activeHalf = s.activeHalf

theorem swapRefused_refused (s : State) (m : Bool) : RefusedMove s m (swapRefused s m) := by
  obtain ⟨hcause, hkind, hrefused, hact, hswap, hmem, hA, hB⟩ := swapNoted_reads s m
  have cleared (x : State) (hx : ∀ f : Fld, PEN.RESULT.apart f = true → x.fld PEN.addr f = (swapNoted s m).fld PEN.addr f)
      (hp : x.pen = (swapNoted s m).pen) (hxm : x.mem = (swapNoted s m).mem) (hxA : x.halfA = (swapNoted s m).halfA)
      (hxB : x.halfB = (swapNoted s m).halfB) (ht : swapRefused s m = rehCleared x) :
      RefusedMove s m (swapRefused s m) := by
    obtain ⟨hreh, hpen, hcm, hcA, hcB, hfld⟩ := rehCleared_reads x
    rw [← ht] at hreh hpen hcm hcA hcB hfld
    have at_ (f : Fld) (h1 : PEN.REH_STATE.apart f = true) (h2 : PEN.RESULT.apart f = true) := (hfld f h1).trans (hx f h2)
    exact ⟨(at_ _ (by decide) (by decide)).trans hcause, (at_ _ (by decide) (by decide)).trans hkind,
      by rw [hpen, hp]; exact hswap, hreh, by rw [hpen], (at_ _ (by decide) (by decide)).trans hrefused, hcm.trans (hxm.trans hmem),
      hcA.trans (hxA.trans hA), hcB.trans (hxB.trans hB),
      (State.activeHalf_congr (at_ _ (by decide) (by decide)) (at_ _ (by decide) (by decide))).trans hact⟩
  by_cases h3 : (swapNoted s m).fld PEN.addr PEN.REH_STATE = 3
  · exact cleared _ (fun f hf => State.fld_setFld_of_apart _ _ hf) (State.setFld_pen _ _ _ _) (State.setFld_mem _ _ _ _)
      (State.setFld_halfA _ _ _ _) (State.setFld_halfB _ _ _ _) ((swapRefused_eq s m).trans (if_pos h3))
  · exact cleared _ (fun _ _ => rfl) rfl rfl rfl rfl ((swapRefused_eq s m).trans (if_neg h3))

theorem requestSwap_active {s : State} {h : Half} (cause : Nat) (ha : s.activeHalf = some h) :
    requestSwap s cause = s.setPen { s.pen with swap := some ⟨false, cause, swapDue s h⟩ } := by
  unfold requestSwap
  rw [ha]

theorem requestSwap_none {s : State} (cause : Nat) (ha : s.activeHalf = none) : requestSwap s cause = swapRefused s false := by
  unfold requestSwap
  rw [ha]

theorem moduleSwap_none {s : State} (ha : s.activeHalf = none) : moduleSwap s = swapRefused s true := by
  unfold moduleSwap
  rw [ha]

theorem moduleSwap_active {s : State} {h : Half} (ha : s.activeHalf = some h) : moduleSwap s =
    if s.flag PEN.addr PEN.RACK_HELD && peerEligible s then rehMoved (rackRelease s) true h else swapRefused s true := by
  unfold moduleSwap
  rw [ha]

/-- The due period of a request reads servo time and the period length alone. -/
theorem swapDue_congr {s t : State} {h : Half} (hh : t.half h = s.half h)
    (hp : t.fld (SYS.addr h) SYS.PERIOD = s.fld (SYS.addr h) SYS.PERIOD) : swapDue t h = swapDue s h := by
  unfold swapDue State.servoNow State.periodNs
  rw [State.time_congr hh, hp]

/-- A register of a half view is apart from the arbiter's block. -/
theorem State.fld_setFld_pen (s : State) {f : Fld} (v : Nat) {b : Nat} {g : Fld}
    (hb : b + g.off + g.span ≤ commonBase) : (s.setFld PEN.addr f v).fld b g = s.fld b g := by
  refine State.fld_of_words fun a h1 h2 => State.word_setFld_outside _ _ (Or.inl ?_)
  unfold PEN.addr
  omega

theorem sysPeriod_below_common (h : Half) : SYS.addr h + SYS.PERIOD.off + SYS.PERIOD.span ≤ commonBase := by
  cases h <;> decide

/-- Eligibility reads the pennant's holder, the reports, time and the module's capability level, and no other field of the
arbiter's block. -/
theorem eligible_setFld_pen (s : State) {f : Fld} (v : Nat) (h : Half) (hv : f.apart PEN.CMD_VALID = true)
    (hh : f.apart PEN.CMD_HOLDER = true) (ho : f.off + f.span ≤ 0x100) :
    eligible (s.setFld PEN.addr f v) h = eligible s h := by
  have hact := s.setFld_pen_activeHalf v hv hh
  have hflags : reportFlags (s.setFld PEN.addr f v) h = reportFlags s h := by
    unfold reportFlags State.wordN
    rw [State.word_setFld_outside _ _ (by omega)]
  have hcl : (s.setFld PEN.addr f v).fld MOD.addr MOD.CL_NOW = s.fld MOD.addr MOD.CL_NOW := by
    refine State.fld_of_words fun a h1 h2 => State.word_setFld_outside _ _ (Or.inl ?_)
    have : MOD.addr + MOD.CL_NOW.off + MOD.CL_NOW.span ≤ PEN.addr := by decide
    omega
  have hage : mirrorAge (s.setFld PEN.addr f v) h = mirrorAge s h := by
    unfold mirrorAge syncNow State.servoNow State.periodNs
    rw [State.setFld_pen, State.time_congr (State.setFld_half _ _ _ _ _), State.fld_setFld_pen _ _ (sysPeriod_below_common h)]
  unfold eligible meetsR365 reportOk
  rw [hact, hflags, hcl, hage, State.setFld_pen, State.setFld_tb0]

theorem rehMoved_idle {s : State} (m : Bool) (h : Half) (h1 : s.fld PEN.addr PEN.REH_STATE ≠ 1) (h3 : s.fld PEN.addr PEN.REH_STATE ≠ 3) :
    rehMoved s m h = s :=
  (if_neg h1).trans (if_neg h3)

/-- The rack pennant released by the module's active half. -/
theorem rackRelease_active {s : State} {h : Half} (ha : s.activeHalf = some h) (hr : s.flag PEN.addr PEN.RACK_HELD = true) :
    (rackRelease s).former = some (h, s.periodNum h) ∧ (rackRelease s).activeHalf = some h := by
  have hact : (s.putFlag PEN.addr PEN.RACK_HELD false).activeHalf = some h :=
    (s.setFld_pen_activeHalf _ (by decide) (by decide)).trans ha
  have hper : (s.putFlag PEN.addr PEN.RACK_HELD false).periodNum h = s.periodNum h := by
    have hlt : SYS.addr h + 0x108 + 8 ≤ PEN.addr := by cases h <;> decide
    exact State.quad_setFld_outside _ _ (Or.inl (by omega))
  have he : rackRelease s = { s.putFlag PEN.addr PEN.RACK_HELD false with former := some (h, s.periodNum h) } := by
    unfold rackRelease
    rw [if_pos hr]
    dsimp only
    rw [hact]
    dsimp only
    rw [hper]
  rw [he]
  exact ⟨rfl, hact⟩

/-- What the start of a rehearsal leaves in the arbiter's registers. -/
theorem rehStarted_reads (s : State) :
    let t := rehStarted s
    t.fld PEN.addr PEN.REH_STATE = 1 ∧ t.fld PEN.addr PEN.RESULT = 0 ∧ t.fld PEN.addr PEN.FAIL = 0 ∧
      t.fld PEN.addr PEN.REHEARSALS = Nat.min 255 (s.fld PEN.addr PEN.REHEARSALS + 1) ∧ t.activeHalf = s.activeHalf ∧
      t.pen = s.pen ∧ t.mem = s.mem ∧ (∀ h, swapDue t h = swapDue s h) := by
  intro t
  unfold t rehStarted
  refine ⟨?_, ?_, ?_, ?_, State.activeHalf_congr ?_ ?_, ?_, ?_, fun h => swapDue_congr ?_ ?_⟩
  · simp (disch := decide) only [State.fld_setFld_of_apart, State.fld_setFld_eq]
    rfl
  · simp (disch := decide) only [State.fld_setFld_of_apart, State.fld_setFld_eq, Nat.zero_mod]
  · simp (disch := decide) only [State.fld_setFld_eq, Nat.zero_mod]
  · simp (disch := decide) only [State.fld_setFld_of_apart, State.fld_count_eq]
    exact Nat.min_comm _ _
  · simp (disch := decide) only [State.fld_setFld_of_apart, State.fld_count_of_apart]
  · simp (disch := decide) only [State.fld_setFld_of_apart, State.fld_count_of_apart]
  · simp only [State.setFld_pen, State.count_pen]
  · simp only [State.setFld_mem, State.count_mem]
  · simp only [State.setFld_half, State.count_half]
  · have hb := sysPeriod_below_common h
    simp only [State.fld_setFld_pen _ _ hb, State.count, State.countBy]

/-- A rehearsal of the half starts with the request of its swap. -/
theorem penCmd_rehearse_half {s : State} {h : Half} (h0 : s.fld PEN.addr PEN.REH_STATE = 0) (ha : s.activeHalf = some h) :
    penCmd s (2 + 4 * b2n false) =
      (rehStarted s).setPen { (rehStarted s).pen with swap := some ⟨false, 6, swapDue (rehStarted s) h⟩ } := by
  obtain ⟨-, -, -, -, hact, -⟩ := rehStarted_reads s
  rw [penCmd_rehearse, if_pos h0]
  simp only [Bool.false_eq_true, if_false]
  exact requestSwap_active 6 (hact.trans ha)

/-! A rehearsal's end (R376). -/

theorem rehearsalEnd_of {s : State} {x : RehRun} (hx : s.pen.reh = some x) (hm : x.modul = false)
    (h2 : s.fld PEN.addr PEN.REH_STATE = 2) (ht : x.endAt ≤ s.tb0) :
    rehearsalEnd s =
      if (s.setFld PEN.addr PEN.RESULT 1).flag PEN.addr PEN.REH_STAY then rehCleared (s.setFld PEN.addr PEN.RESULT 1)
      else rehReturn (s.setFld PEN.addr PEN.RESULT 1) x false := by
  unfold rehearsalEnd
  rw [hx]
  dsimp only
  rw [if_neg (by rintro (h | h); exacts [h h2, absurd ht (not_le.mpr h)]), hm]
  exact if_neg fun h => Bool.false_ne_true h.1

theorem rehearsalEnd_early {s : State} {x : RehRun} (hx : s.pen.reh = some x) (ht : s.tb0 < x.endAt) : rehearsalEnd s = s := by
  unfold rehearsalEnd
  rw [hx]
  exact if_pos (Or.inr ht)

theorem rehReturn_eligible {s : State} {x : RehRun} (hm : x.modul = false) (he : eligible s x.from_ = true) (failed : Bool) :
    rehReturn s x failed =
      let t := s.setFld PEN.addr PEN.REH_STATE 3
      t.setPen { t.pen with swap := some ⟨false, 7, swapDue t (t.activeHalf.getD .a)⟩ } := by
  unfold rehReturn
  rw [hm, if_pos (by exact he)]

theorem moduleSwap_ineligible {s : State} {h : Half} (ha : s.activeHalf = some h) (he : peerEligible s = false) :
    moduleSwap s = swapRefused s true := by
  rw [moduleSwap_active ha, he, Bool.and_false]
  rfl

theorem moduleSwap_released {s : State} {h : Half} (ha : s.activeHalf = some h) (hr : s.flag PEN.addr PEN.RACK_HELD = true)
    (he : peerEligible s = true) : moduleSwap s = rehMoved (rackRelease s) true h := by
  rw [moduleSwap_active ha, he, hr]
  rfl

/-- A request of the half that falls due. -/
theorem swapNow_due {s : State} {h : Half} {q : SwapReq} (hq : s.pen.swap = some q) (hm : q.modul = false) (ha : s.activeHalf = some h) :
    let u := passUntil s h (Nat.max q.due (nextSync s h) * s.periodNs h)
    swapNow s = if eligible u h.other then rehMoved (penMove u h.other q.cause) false h else swapRefused u false := by
  intro u
  unfold swapNow
  rw [hq, ha]
  dsimp only
  rw [hm]
  rfl

theorem passUntil_activeHalf (s : State) (h : Half) (t : Nat) : (passUntil s h t).activeHalf = s.activeHalf := by
  unfold passUntil
  exact State.activeHalf_congr (State.fld_congr (State.passTime_regs _ _) (State.passTime_image _ _) (State.passTime_sect _ _) _ _)
    (State.fld_congr (State.passTime_regs _ _) (State.passTime_image _ _) (State.passTime_sect _ _) _ _)

theorem swapNow_none {s : State} (hq : s.pen.swap = none) : swapNow s = s := by
  unfold swapNow
  rw [hq]

/-- Settles O40: each command of the pennant is one branch of penCmd, swapNow or rehearsalEnd. -/
theorem commandedPennantMoves : Obligations.CommandedPennantMoves := by
  unfold Obligations.CommandedPennantMoves
  intro h s p refused
  have swap (m : Bool) : exec (.swap m) s = .next (if m then moduleSwap s else requestSwap s 5) := congrArg _ (penCmd_swap s m)
  have reh (m : Bool) := congrArg (Host.Outcome.next (φ := Fault) (ρ := Refusal)) (penCmd_rehearse s m)
  have refuse (m : Bool) (o : Host.Outcome State Fault Refusal) (ho : o = .next (swapRefused s m)) : refused (b2n m) o := by
    obtain ⟨h1, h2, h3, h4, h5, h6, h7, h8, h9, -⟩ := swapRefused_refused s m
    exact ⟨_, ho, h1, h2, h3, h4, h5, h6, h7, h8, h9⟩
  clear_value refused
  refine ⟨fun ha => ?_, fun ha => ⟨refuse false _ ?_, refuse true _ ?_⟩, fun ha hr h0 => ⟨fun he => ?_, fun he => refuse true _ ?_⟩,
    fun ha h0 => ?_, fun b hn => (reh b).trans (congrArg _ (if_neg hn)), fun q hq hm ha => ?_, fun hq => ?_, fun x hx hm h2 => ?_, ?_⟩
  · exact (swap false).trans (congrArg _ (requestSwap_active 5 ha))
  · exact (swap false).trans (congrArg _ (requestSwap_none 5 ha))
  · exact (swap true).trans (congrArg _ (moduleSwap_none ha))
  · obtain ⟨hfld, hmem, -, -, -⟩ := rackRelease_rest s
    obtain ⟨hformer, hact⟩ := rackRelease_active ha hr
    have hreh : (rackRelease s).fld PEN.addr PEN.REH_STATE = 0 := (hfld _ (by decide)).trans h0
    refine ⟨_, (swap true).trans (congrArg _ ((moduleSwap_released ha hr he).trans
      (rehMoved_idle true h (by rw [hreh]; decide) (by rw [hreh]; decide)))), rackRelease_flag s, hformer, hact, hmem⟩
  · exact (swap true).trans (congrArg _ (moduleSwap_ineligible ha he))
  · obtain ⟨h1, hres, hfail, hcnt, hact, hpen, hmem, hdue⟩ := rehStarted_reads s
    refine ⟨_, congrArg Host.Outcome.next (penCmd_rehearse_half h0 ha), ?_⟩
    simp only [State.setPen_fld, State.setPen_pen, State.setPen_mem]
    exact ⟨h1, hres, hfail, hcnt, by rw [hpen, hdue], hmem⟩
  · have run := swapNow_due hq hm ha
    refine ⟨fun he => congrArg Host.Outcome.next (run.trans (if_pos he)), fun he _ => ⟨_, congrArg Host.Outcome.next
      (run.trans (if_neg (Bool.eq_false_iff.mp he))), ?_⟩⟩
    obtain ⟨hcause, -, hswap, hreh, -, -, -, -, -, hact⟩ := swapRefused_refused
      (passUntil s h (Nat.max q.due (nextSync s h) * s.periodNs h)) false
    exact ⟨hcause, hswap, hact.trans ((passUntil_activeHalf _ _ _).trans ha), hreh⟩
  · exact congrArg Host.Outcome.next (swapNow_none hq)
  · have stay : (s.setFld PEN.addr PEN.RESULT 1).flag PEN.addr PEN.REH_STAY = s.flag PEN.addr PEN.REH_STAY :=
      State.flag_setFld_of_apart _ _ (by decide)
    have result : (s.setFld PEN.addr PEN.RESULT 1).fld PEN.addr PEN.RESULT = 1 := State.fld_setFld_eq _ _ (by decide)
    refine ⟨fun ht hs => ?_, fun ht hs he => ?_, fun ht => ?_⟩
    · obtain ⟨h0, hpen, hmem, -, -, hfld⟩ := rehCleared_reads (s.setFld PEN.addr PEN.RESULT 1)
      refine ⟨_, congrArg Host.Outcome.next ((rehearsalEnd_of hx hm h2 ht).trans (if_pos (stay.trans hs))), (hfld _ (by decide)).trans result,
        h0, by rw [hpen], hmem.trans (State.setFld_mem _ _ _ _)⟩
    · have he' : eligible (s.setFld PEN.addr PEN.RESULT 1) x.from_ = true :=
        (eligible_setFld_pen _ _ _ (by decide) (by decide) (by decide)).trans he
      refine ⟨_, congrArg Host.Outcome.next ((rehearsalEnd_of hx hm h2 ht).trans ((if_neg (Bool.eq_false_iff.mp (stay.trans hs))).trans
        (rehReturn_eligible hm he' false))), ?_, ?_, ?_, ?_⟩
      · dsimp only
        rw [State.setPen_fld]
        exact (State.fld_setFld_of_apart _ _ (by decide)).trans result
      · dsimp only
        rw [State.setPen_fld]
        exact State.fld_setFld_eq _ _ (by decide)
      · have hact : ((s.setFld PEN.addr PEN.RESULT 1).setFld PEN.addr PEN.REH_STATE 3).activeHalf = s.activeHalf :=
          (State.setFld_pen_activeHalf _ _ (by decide) (by decide)).trans (State.setFld_pen_activeHalf _ _ (by decide) (by decide))
        dsimp only
        rw [State.setPen_pen, hact, swapDue_congr (s := s) (by simp only [State.setFld_half])
          (by simp only [State.fld_setFld_pen _ _ (sysPeriod_below_common _)])]
      · simp only [State.setPen_mem, State.setFld_mem]
    · exact congrArg Host.Outcome.next (rehearsalEnd_early hx ht)
  · refine ⟨_, congrArg Host.Outcome.next (penCmd_clrCnt s), (State.word_setWordN_other _ _ (by omega)).trans (State.word_setWordN_same _ _ _),
      State.word_setWordN_same _ _ _, fun a h1 h2 => (State.word_setWordN_other _ _ h2).trans (State.word_setWordN_other _ _ h1), ?_⟩
    simp only [State.setWordN_mem]


end Sys2Proof.Machine
end

section
/-! PROOFS. Mirror records, health reports, temperatures, the reference monitor and a half reset (R30, R360, R363, R460). -/
namespace Sys2Proof.Machine

/-! A mirror record put in place (R360). -/

/-- The half whose registers a mirror record replaces, before it does. -/
def mirrorCleared (s : State) (h : Half) (r : MirrorRec) : State :=
  { s with regs := s.regs.filter (fun c =>
      !(decide (viewBase h ≤ c.1 ∧ c.1 < viewBase h + 0x10000000) && mirrorTakes s h r (c.1 - viewBase h))) }

/-- The units of a half with those of a record taken over, carried on by dt. -/
def mirrorUnits (r : MirrorRec) (dt : Nat) (x : HalfState) : HalfState :=
  { x with
    prf := zipUnits (fun _ n => n) x.prf r.prf,
    ce := zipUnits (fun o n => { n with rc := o.rc }) x.ce r.ce,
    arms := zipUnits (fun o n => { n with obs := o.obs, acts := o.acts }) x.arms r.arms,
    hoists := zipUnits (fun _ n => n) x.hoists r.hoists,
    rings := zipUnits (fun o n => { n with mbx := o.mbx, last := o.last }) x.rings r.rings,
    time := timeOf x.time r.time dt }

theorem zipUnits_of_length_eq {α : Type} {l m : List α} (h : m.length = l.length) : zipUnits (fun _ n => n) l m = m := by
  induction l generalizing m with
  | nil => cases m with
    | nil => rfl
    | cons => cases h
  | cons a l ih => cases m with
    | nil => cases h
    | cons b m => simp only [zipUnits, ih (Nat.succ.inj h)]

/-- What the registers of a list put in place at b leave: every state component but the registers. -/
theorem putRegs_rest (b : Nat) (l : List (Nat × Word)) (s : State) :
    (∀ k, (putRegs b l s).half k = s.half k) ∧ (putRegs b l s).pen = s.pen ∧ (putRegs b l s).mem = s.mem ∧
      (putRegs b l s).tb0 = s.tb0 ∧ (∀ a, (putRegs b l s).regReset a = s.regReset a) := by
  induction l generalizing s with
  | nil => exact ⟨fun _ => rfl, rfl, rfl, rfl, fun _ => rfl⟩
  | cons c l ih =>
    obtain ⟨o, w⟩ := c
    obtain ⟨hh, hp, hm, ht, hw⟩ := ih (s.setWord (b + o) w)
    exact ⟨fun k => (hh k).trans (State.setWord_half ..), hp, hm, ht, hw⟩

/-- A register reads as the list says where the list names it, else as before. -/
theorem putRegs_word (b : Nat) {lo : Nat} {l : List (Nat × Word)} (hl : storeAbove lo l = true) (s : State) (o : Nat) :
    (putRegs b l s).word (b + o) = (storeFind l o).getD (s.word (b + o)) := by
  induction l generalizing s lo with
  | nil => rfl
  | cons c l ih =>
    obtain ⟨x, w⟩ := c
    simp only [storeAbove, Bool.and_eq_true, decide_eq_true_eq] at hl
    have rest := ih hl.2 (s.setWord (b + x) w)
    unfold putRegs storeFind
    rw [rest]
    by_cases hlt : o < x
    · rw [if_pos hlt, storeFind_above (by omega) hl.2, Option.getD_none, State.word_setWord_other _ _ (by omega)]
      rfl
    · rw [if_neg hlt]
      by_cases heq : o = x
      · subst heq
        rw [if_pos rfl, storeFind_above (by omega) hl.2, Option.getD_none, State.word_setWord_same]
        rfl
      · rw [if_neg heq, State.word_setWord_other _ _ (by omega)]

theorem mirrorCleared_word {s : State} (hs : storeSorted s.regs = true) (h : Half) (r : MirrorRec) {o : Nat}
    (ho : o < 0x10000000) (hm : mirroredOff o = true) :
    (mirrorCleared s h r).word (viewBase h + o) = s.regReset (viewBase h + o) := by
  have hp : decide (viewBase h ≤ viewBase h + o ∧ viewBase h + o < viewBase h + 0x10000000) = true :=
    decide_eq_true ⟨by omega, by omega⟩
  have ht : mirrorTakes s h r (viewBase h + o - viewBase h) = true := by
    rw [Nat.add_sub_cancel_left]
    simp only [mirrorTakes, hm, Bool.true_or]
  have hf := storeFind_filter
    (fun a => !(decide (viewBase h ≤ a ∧ a < viewBase h + 0x10000000) && mirrorTakes s h r (a - viewBase h)))
    (viewBase h + o) (lo := 0) hs
  rw [if_neg (by rw [hp, ht]; decide)] at hf
  unfold State.word mirrorCleared
  dsimp only
  rw [hf]
  rfl

theorem mirrorApply_eq {s : State} {h : Half} {r : MirrorRec} (hr : mirrorFor s h = some r) :
    mirrorApply s h =
      let p := putRegs (viewBase h) r.regs (mirrorCleared s h r)
      let u := p.onHalf h (mirrorUnits r (p.tb0 - r.builtAt))
      u.setPen { u.pen with newest := u.pen.newest.set (halfIdx h) (some r.num) } := by
  unfold mirrorApply
  rw [hr]
  rfl

theorem mirrorCleared_half (s : State) (h k : Half) (r : MirrorRec) : (mirrorCleared s h r).half k = s.half k := by
  cases k <;> rfl

theorem setPen_half_same (s : State) (p : PenUnit) (k : Half) : (s.setPen p).half k = s.half k := by cases k <;> rfl

/-- A complete record is applied whole (R360). -/
theorem mirrorApply_reads {s : State} {h : Half} {r : MirrorRec} (hr : mirrorFor s h = some r)
    (hs : storeSorted s.regs = true) (hrs : storeSorted r.regs = true) (hn : s.pen.newest.length = 2) :
    (mirrorApply s h).pen.newest.getD (halfIdx h) none = some r.num ∧
    (∀ o, o < 0x10000000 → mirroredOff o = true →
      (mirrorApply s h).word (viewBase h + o) = (storeFind r.regs o).getD (s.regReset (viewBase h + o))) ∧
    (mirrorApply s h).half h = mirrorUnits r (s.tb0 - r.builtAt) (s.half h) ∧
    (mirrorApply s h).half h.other = s.half h.other ∧ (mirrorApply s h).mem = s.mem := by
  obtain ⟨hh, hp, hm, ht, hw⟩ := putRegs_rest (viewBase h) r.regs (mirrorCleared s h r)
  have hword := fun o => putRegs_word (viewBase h) hrs (mirrorCleared s h r) o
  rw [mirrorApply_eq hr]
  dsimp only
  generalize hpdef : putRegs (viewBase h) r.regs (mirrorCleared s h r) = p at hh hp hm ht hw hword ⊢
  have htb : p.tb0 = s.tb0 := ht
  have hpen : p.pen = s.pen := hp
  refine ⟨?_, fun o ho hmo => ?_, ?_, ?_, ?_⟩
  · rw [State.setPen_pen, State.onHalf_pen, hpen]
    exact unitAt_set_same none _ _ (by rw [hn]; cases h <;> decide)
  · rw [← mirrorCleared_word hs h r ho hmo, ← hword o]
    exact (State.word_congr (s := p.onHalf h (mirrorUnits r (p.tb0 - r.builtAt))) rfl rfl rfl _).trans (State.onHalf_word ..)
  · rw [setPen_half_same, State.half_onHalf_same, hh, mirrorCleared_half, htb]
  · rw [setPen_half_same, State.half_onHalf_other _ _ (by cases h <;> decide), hh, mirrorCleared_half]
  · rw [State.setPen_mem, State.onHalf_mem, hm]
    rfl

/-! Registers and memory bytes written from a list. -/

theorem setWords_rest (a : Nat) (l : List Word) (s : State) :
    (s.setWords a l).mem = s.mem ∧ (s.setWords a l).pen = s.pen ∧ (s.setWords a l).halfA = s.halfA ∧
      (s.setWords a l).halfB = s.halfB ∧ (s.setWords a l).tb0 = s.tb0 := by
  induction l generalizing a s with
  | nil => exact ⟨rfl, rfl, rfl, rfl, rfl⟩
  | cons w l ih => exact ih (a + 4) (s.setWord a w)

theorem setWords_word_below {a x : Nat} (l : List Word) (h : x < a) (s : State) : (s.setWords a l).word x = s.word x := by
  induction l generalizing a s with
  | nil => rfl
  | cons w l ih => exact (ih (by omega) _).trans (State.word_setWord_other _ _ (by omega))

/-- Registers written from a list read as the list. -/
theorem words_setWords (a : Nat) (l : List Word) (s : State) : (s.setWords a l).words a l.length = l := by
  induction l generalizing a s with
  | nil => rfl
  | cons w l ih =>
    unfold State.setWords
    simp only [List.length_cons, State.words, ih]
    rw [setWords_word_below _ (by omega), State.word_setWord_same]

theorem words_congr {s t : State} (hr : t.regs = s.regs) (hi : t.image = s.image) (hs : t.sect = s.sect) (a n : Nat) :
    t.words a n = s.words a n := by
  induction n generalizing a with
  | zero => rfl
  | succ n ih => simp only [State.words, ih, State.word_congr hr hi hs]

theorem setMemBytes_rest (a : Nat) (l : List Byte) (s : State) :
    (s.setMemBytes a l).regs = s.regs ∧ (s.setMemBytes a l).image = s.image ∧ (s.setMemBytes a l).sect = s.sect ∧
      (s.setMemBytes a l).pen = s.pen ∧ (s.setMemBytes a l).halfA = s.halfA ∧ (s.setMemBytes a l).halfB = s.halfB ∧
      (s.setMemBytes a l).tb0 = s.tb0 := by
  induction l generalizing a s with
  | nil => exact ⟨rfl, rfl, rfl, rfl, rfl, rfl, rfl⟩
  | cons w l ih => exact ih (a + 1) (s.setByte a w)

theorem setMemBytes_byte_below {a x : Nat} (l : List Byte) (h : x < a) {s : State} (hw : Memory.wf s.mem = true) :
    (s.setMemBytes a l).byte x = s.byte x := by
  induction l generalizing a s with
  | nil => rfl
  | cons w l ih => exact (ih (by omega) (setByte_wf a w hw)).trans (State.byte_setByte_other _ _ (by omega) hw)

/-- Bytes of memory written from a list read as the list. -/
theorem memBytes_setMemBytes (a : Nat) (l : List Byte) {s : State} (hw : Memory.wf s.mem = true) :
    (s.setMemBytes a l).memBytes a l.length = l := by
  induction l generalizing a s with
  | nil => rfl
  | cons w l ih =>
    unfold State.setMemBytes
    simp only [List.length_cons, State.memBytes, ih (a + 1) (setByte_wf a w hw)]
    rw [setMemBytes_byte_below _ (by omega) (setByte_wf a w hw), State.byte_setByte_same _ _ _ hw]

/-! Health reports of the standby half (R363, R364). -/

theorem reportBytes_rest (s : State) (h : Half) (x : SelfTest) :
    (reportBytes s h x).2.mem = s.mem ∧ (reportBytes s h x).2.pen = s.pen ∧ (reportBytes s h x).2.halfA = s.halfA ∧
      (reportBytes s h x).2.halfB = s.halfB ∧ (reportBytes s h x).2.tb0 = s.tb0 := by
  unfold reportBytes
  cases s.pen.newest.getD (halfIdx h) none with
  | none => exact ⟨rfl, rfl, rfl, rfl, rfl⟩
  | some r => exact ⟨rfl, rfl, rfl, rfl, rfl⟩

/-- A health report with its CRC. -/
def healthReport (s : State) (h : Half) (x : SelfTest) : List Byte :=
  (reportBytes s h x).1 ++ leBytes 4 (crc32c (reportBytes s h x).1)

/-- The state after a half has written the bytes of a report. -/
def reportPut (s : State) (h : Half) (b : List Byte) : State :=
  let w := s.setWords (PEN.addr + 0x100 + 0x40 * halfIdx h) (byteWords 16 b)
  let m := w.setMemBytes (mramAddr (0x30000 + w.pen.hrIdx % 64 * 64)) b
  m.setPen { m.pen with hrAt := m.pen.hrAt.set (halfIdx h) (some m.tb0),
                        hrSeq := m.pen.hrSeq.set (halfIdx h) (m.pen.hrSeq.getD (halfIdx h) 0 + 1),
                        hrIdx := (m.pen.hrIdx + 1) % 64 }

theorem byteWords_length (n : Nat) (l : List Byte) : (byteWords n l).length = n := by
  unfold byteWords
  rw [List.length_map, List.length_range]

theorem reportPut_reads (s : State) (h : Half) (b : List Byte) :
    (reportPut s h b).words (PEN.addr + 0x100 + 0x40 * halfIdx h) 16 = byteWords 16 b ∧
    (reportPut s h b).pen.hrAt = s.pen.hrAt.set (halfIdx h) (some s.tb0) ∧
    (reportPut s h b).halfA = s.halfA ∧ (reportPut s h b).halfB = s.halfB ∧
    (Memory.wf s.mem = true →
      (reportPut s h b).memBytes (mramAddr (0x30000 + s.pen.hrIdx % 64 * 64)) b.length = b) := by
  unfold reportPut
  dsimp only
  generalize hws : byteWords 16 b = ws
  have hlen : ws.length = 16 := hws ▸ byteWords_length 16 b
  generalize PEN.addr + 0x100 + 0x40 * halfIdx h = a
  have hwords := words_setWords a ws s
  obtain ⟨m2, p2, a2, b2, t2⟩ := setWords_rest a ws s
  generalize s.setWords a ws = w at hwords m2 p2 a2 b2 t2
  rw [p2]
  generalize mramAddr (0x30000 + s.pen.hrIdx % 64 * 64) = c
  obtain ⟨r3, i3, s3, p3, a3, b3, t3⟩ := setMemBytes_rest c b w
  refine ⟨?_, ?_, ?_, ?_, fun hwf => ?_⟩
  · rw [hlen] at hwords
    exact (words_congr (s := w) r3 i3 s3 a 16).trans hwords
  · rw [State.setPen_pen, p3, t3, p2, t2]
  · rw [State.setPen_halfA, a3, a2]
  · rw [State.setPen_halfB, b3, b2]
  · rw [State.memBytes_congr (State.setPen_mem ..)]
    exact memBytes_setMemBytes _ _ (by rw [m2]; exact hwf)

theorem selfTestCycle_active {s : State} {h : Half} (ha : s.activeHalf = some h) (x : SelfTest) : selfTestCycle s h x = s := by
  unfold selfTestCycle
  rw [if_pos ha]

/-- A self-test of the standby half writes its report and goes on with what the test found. -/
theorem selfTestCycle_standby {s : State} {h : Half} (ha : s.activeHalf ≠ some h) (x : SelfTest) :
    selfTestCycle s h x =
      let u := reportPut (reportBytes s h x).2 h (healthReport s h x)
      if x.failed = 0 then
        let w := u.takeFree
        let y := w.2.takeFree
        noteSlack (selfTestLoad y.2 h y.1.toNat) h 0 (toS 64 w.1.toNat)
      else rehFail (raiseBoth (clearHalf u h) 7) 6 := by
  unfold selfTestCycle healthReport
  rw [if_neg ha]
  cases reportBytes s h x
  rfl

theorem selfTestCycle_reads {s : State} {h : Half} (ha : s.activeHalf ≠ some h) (x : SelfTest) :
    ∃ u : State, u.words (PEN.addr + 0x100 + 0x40 * halfIdx h) 16 = byteWords 16 (healthReport s h x) ∧
      u.pen.hrAt = s.pen.hrAt.set (halfIdx h) (some s.tb0) ∧ u.halfA = s.halfA ∧ u.halfB = s.halfB ∧
      (Memory.wf s.mem = true →
        u.memBytes (mramAddr (0x30000 + s.pen.hrIdx % 64 * 64)) (healthReport s h x).length = healthReport s h x) ∧
      (x.failed = 0 → ∃ (slack : Int) (mask : Nat),
        selfTestCycle s h x = noteSlack (selfTestLoad { u with freeIdx := u.freeIdx + 2 } h mask) h 0 slack) ∧
      (x.failed ≠ 0 → selfTestCycle s h x = rehFail (raiseBoth (clearHalf u h) 7) 6) := by
  have run := selfTestCycle_standby ha x
  dsimp only at run
  obtain ⟨m1, p1, a1, b1, t1⟩ := reportBytes_rest s h x
  obtain ⟨hwords, hat, hA, hB, hbytes⟩ := reportPut_reads (reportBytes s h x).2 h (healthReport s h x)
  rw [p1, t1] at hat
  rw [p1, m1] at hbytes
  rw [a1] at hA
  rw [b1] at hB
  generalize reportPut (reportBytes s h x).2 h (healthReport s h x) = u at run hwords hat hA hB hbytes
  exact ⟨u, hwords, hat, hA, hB, hbytes, fun hf => ⟨_, _, run.trans (if_pos hf)⟩, fun hf => run.trans (if_neg hf)⟩

/-! A half that is put back to reset (R9 to R11). -/

/-- A half put back to reset, before its schedules are read and its CAN channels start. -/
def halfCleared (v : State) (h : Half) : State :=
  let u := (v.resetRegs (viewBase h) 0x10000000).setHalf h .reset
  u.setPen { u.pen with newest := u.pen.newest.set (halfIdx h) none, beat := u.pen.beat.set (halfIdx h) none }

theorem clearHalf_eq (s : State) (h : Half) :
    clearHalf s h =
      (List.range 4).foldl (fun s c => canStart s h c) (noRingWindow (reloadScheds (halfCleared (solverReset s h) h) h) h) := rfl

theorem halfCleared_word (v : State) (h : Half) (a : Nat) :
    (halfCleared v h).word a = (v.resetRegs (viewBase h) 0x10000000).word a :=
  State.word_congr (by cases h <;> rfl) (by cases h <;> rfl) (by cases h <;> rfl) a

theorem halfCleared_rest (v : State) (h : Half) :
    (halfCleared v h).half h = .reset ∧ (halfCleared v h).half h.other = v.half h.other ∧ (halfCleared v h).mem = v.mem := by
  cases h <;> exact ⟨rfl, rfl, rfl⟩

/-- Settles O41: a mirror record is put in place whole, a self-test leaves its report and its free-value load or a half put back
to reset, and the temperature, monitor and half-reset commands act as stated. -/
theorem mirrorHealthAndHalfReset : Obligations.MirrorHealthAndHalfReset := by
  unfold Obligations.MirrorHealthAndHalfReset
  intro h s
  refine ⟨fun hn => ?_, fun r hr hc hrs hl => ?_, fun td fl co d tp => ?_, fun hw => ?_, fun hw => ?_, fun hw => ?_, rfl,
    fun hm => ?_, fun hm => ?_, ?_⟩
  · refine congrArg Host.Outcome.next ?_
    unfold mirrorApply
    rw [hn]
  · have hs : storeSorted s.regs = true := (Bool.and_eq_true _ _ ▸ hc : _ ∧ _).1
    obtain ⟨hnew, hword, hhalf, hother, hmem⟩ := mirrorApply_reads hr hs hrs hl
    refine ⟨_, rfl, hnew, hword, ?_, fun he => ?_, fun he => ?_, hother, hmem⟩
    · unfold State.tb State.time
      rw [hhalf]
      rfl
    · rw [hhalf]
      exact zipUnits_of_length_eq he
    · rw [hhalf]
      exact zipUnits_of_length_eq he
  · refine ⟨fun ha => congrArg Host.Outcome.next (selfTestCycle_active ha _), fun ha => ?_⟩
    obtain ⟨u, hwords, hat, hA, hB, hbytes, hpass, hfail⟩ := selfTestCycle_reads ha ⟨td.toNat, fl.toNat, co.toNat, d.toNat, tp.toNat⟩
    refine ⟨u, hwords, hat, hA, hB, hbytes, fun hf => ?_, fun hf => ?_⟩
    · obtain ⟨slack, mask, run⟩ := hpass (by rw [hf]; rfl)
      exact ⟨slack, mask, congrArg Host.Outcome.next run⟩
    · exact congrArg Host.Outcome.next (hfail fun he => hf (BitVec.eq_of_toNat_eq he))
  · exact congrArg Host.Outcome.next (if_neg (by rw [hw]; decide))
  · exact congrArg Host.Outcome.next (if_pos hw)
  · exact congrArg Host.Outcome.next (if_pos hw)
  · exact congrArg Host.Outcome.next (if_neg (by rw [hm]; decide))
  · exact congrArg Host.Outcome.next (if_pos hm)
  · refine ⟨halfCleared (solverReset (penTrigger s h 4) h) h, congrArg Host.Outcome.next (clearHalf_eq ..), ?_, ?_, ?_, fun o ho => ?_⟩
    · exact (halfCleared_rest _ h).1
    · exact (halfCleared_rest _ h).2.1
    · exact (halfCleared_rest _ h).2.2
    · rw [halfCleared_word, State.word_resetRegs_inside _ ⟨by omega, by omega⟩]


end Sys2Proof.Machine
end

section
/-! PROOFS. What an occurrence of an event and an entry of the fault log leave unchanged (R335, R336, R451). -/
namespace Sys2Proof.Machine

/-- A register that no occurrence of an event writes: outside the event, scheduler and acquisition blocks of both halves and
the pending vectors, and no R_STATE of a record. -/
def quietReg (a : Nat) : Prop :=
  a % 0x40 ≠ 0x34 ∧ (∀ h, a < viewBase h + 0x100000 ∨ viewBase h + 0x300000 ≤ a) ∧
    (∀ h, a < viewBase h + 0x3600000 ∨ viewBase h + 0x3600200 ≤ a) ∧ (a < BPI.addr + 0x200 ∨ BPI.addr + 0x208 ≤ a)

/-- What an entry of the fault log leaves: the quiet registers, time, and every unit but cores, schedulers, acquisition and the
endpoint. -/
structure LogKeeps (s t : State) : Prop where
  word : ∀ a, quietReg a → t.word a = s.word a
  half : ∀ h, t.half h =
    { s.half h with cores := (t.half h).cores, sched := (t.half h).sched, acq := (t.half h).acq }
  pen : t.pen = s.pen
  isl : t.isl = s.isl
  boot : t.boot = s.boot
  bus : t.bus = s.bus
  tb0 : t.tb0 = s.tb0
  image : t.image = s.image
  sect : t.sect = s.sect
  listed : ∀ a w, quietReg a → storeFind s.regs a = some w → storeFind t.regs a = some w

/-- What an occurrence of an event leaves: what an entry of the fault log leaves, and memory. -/
structure RaiseKeeps (s t : State) : Prop extends LogKeeps s t where
  mem : t.mem = s.mem

theorem LogKeeps.refl (s : State) : LogKeeps s s := ⟨fun _ _ => rfl, fun _ => rfl, rfl, rfl, rfl, rfl, rfl, rfl, rfl, fun _ _ _ => id⟩

theorem RaiseKeeps.refl (s : State) : RaiseKeeps s s := ⟨.refl s, rfl⟩

theorem LogKeeps.trans {s t u : State} (h : LogKeeps s t) (k : LogKeeps t u) : LogKeeps s u :=
  ⟨fun a ha => (k.word a ha).trans (h.word a ha), fun x => by rw [k.half x, h.half x], k.pen.trans h.pen, k.isl.trans h.isl,
    k.boot.trans h.boot, k.bus.trans h.bus, k.tb0.trans h.tb0, k.image.trans h.image, k.sect.trans h.sect,
    fun a w ha => k.listed a w ha ∘ h.listed a w ha⟩

theorem RaiseKeeps.trans {s t u : State} (h : RaiseKeeps s t) (k : RaiseKeeps t u) : RaiseKeeps s u :=
  ⟨h.toLogKeeps.trans k.toLogKeeps, k.mem.trans h.mem⟩

theorem LogKeeps.foldl {α : Type} {f : State → α → State} (hf : ∀ s x, LogKeeps s (f s x)) (l : List α) (s : State) :
    LogKeeps s (l.foldl f s) := by
  induction l generalizing s with
  | nil => exact .refl s
  | cons x l ih => exact (hf s x).trans (ih _)

theorem RaiseKeeps.foldl {α : Type} {f : State → α → State} (hf : ∀ s x, RaiseKeeps s (f s x)) (l : List α) (s : State) :
    RaiseKeeps s (l.foldl f s) := by
  induction l generalizing s with
  | nil => exact .refl s
  | cons x l ih => exact (hf s x).trans (ih _)

theorem RaiseKeeps.ite {c : Prop} [Decidable c] {s t u : State} (ht : c → RaiseKeeps s t) (hu : ¬c → RaiseKeeps s u) :
    RaiseKeeps s (if c then t else u) := by
  by_cases h : c
  · rw [if_pos h]
    exact ht h
  · rw [if_neg h]
    exact hu h

theorem RaiseKeeps.ite2 {α : Type} {c : Prop} [Decidable c] {s : State} {p q : α × State} (hp : c → RaiseKeeps s p.2)
    (hq : ¬c → RaiseKeeps s q.2) : RaiseKeeps s (if c then p else q).2 := by
  by_cases h : c
  · rw [if_pos h]
    exact hp h
  · rw [if_neg h]
    exact hq h

theorem LogKeeps.fld {s t : State} (k : LogKeeps s t) {b : Nat} {f : Fld} (h : quietReg (b + f.off))
    (h' : f.hi < 32 ∨ quietReg (b + f.off + 4)) : t.fld b f = s.fld b f := by
  unfold State.fld State.quad State.wordN
  rw [k.word _ h]
  split
  · rfl
  · rw [k.word _ (h'.resolve_left (by assumption))]

theorem LogKeeps.flag {s t : State} (k : LogKeeps s t) {b : Nat} {f : Fld} (h : quietReg (b + f.off))
    (h' : f.hi < 32 ∨ quietReg (b + f.off + 4)) : t.flag b f = s.flag b f := by
  unfold State.flag
  rw [k.fld h h']

theorem LogKeeps.time {s t : State} (k : LogKeeps s t) (h : Half) : t.time h = s.time h := by
  unfold State.time
  rw [k.half h]

/-! The registers and units an occurrence writes. -/

theorem raiseKeeps_setWord (s : State) {a : Nat} (w : Word) (h : ¬quietReg a) : RaiseKeeps s (s.setWord a w) :=
  ⟨⟨fun x hx => State.word_setWord_other _ _ fun e => h (e ▸ hx), fun k => by cases k <;> rfl, rfl, rfl, rfl, rfl, rfl, rfl, rfl,
    fun x _ hx hw =>
    (storeFind_put_other s.regs (a := a) (x := x) w fun e => h (e ▸ hx)).trans hw⟩, rfl⟩

theorem raiseKeeps_setWordN (s : State) {a : Nat} (v : Nat) (h : ¬quietReg a) : RaiseKeeps s (s.setWordN a v) :=
  raiseKeeps_setWord s _ h

theorem raiseKeeps_setQuad (s : State) {a : Nat} (v : Nat) (h : ¬quietReg a) (h' : ¬quietReg (a + 4)) :
    RaiseKeeps s (s.setQuad a v) :=
  (raiseKeeps_setWordN s v h).trans (raiseKeeps_setWordN _ _ h')

theorem raiseKeeps_setFld (s : State) {b : Nat} {f : Fld} (v : Nat) (hf : f.hi < 32) (h : ¬quietReg (b + f.off)) :
    RaiseKeeps s (s.setFld b f v) := by
  unfold State.setFld
  rw [if_pos hf]
  exact raiseKeeps_setWordN s _ h

theorem raiseKeeps_setWords (s : State) {a : Nat} (l : List Word) (h : ∀ i, i < l.length → ¬quietReg (a + 4 * i)) :
    RaiseKeeps s (s.setWords a l) := by
  induction l generalizing a s with
  | nil => exact .refl s
  | cons w l ih =>
    refine (raiseKeeps_setWord s w (h 0 (Nat.succ_pos _))).trans (ih _ fun i hi => ?_)
    rw [show a + 4 + 4 * i = a + 4 * (i + 1) by omega]
    exact h (i + 1) (Nat.succ_lt_succ hi)

theorem raiseKeeps_onHalf (s : State) (h : Half) {f : HalfState → HalfState}
    (hf : ∀ x, f x = { x with cores := (f x).cores, sched := (f x).sched, acq := (f x).acq }) : RaiseKeeps s (s.onHalf h f) := by
  refine ⟨⟨fun a _ => State.onHalf_word .., fun k => ?_, ?_, ?_, ?_, ?_, ?_, ?_, ?_, fun a w _ hw => by rw [State.onHalf_regs]; exact hw⟩, ?_⟩
  · cases h <;> cases k
    · exact hf _
    · rfl
    · rfl
    · exact hf _
  all_goals cases h <;> rfl

theorem raiseKeeps_setCore (s : State) (h : Half) (k : Nat) (c : CoreUnit) : RaiseKeeps s (s.setCore h k c) :=
  raiseKeeps_onHalf s h fun _ => rfl

theorem raiseKeeps_setSched (s : State) (h : Half) (u : SchedUnit) : RaiseKeeps s (s.setSched h u) :=
  raiseKeeps_onHalf s h fun _ => rfl

theorem raiseKeeps_setAcq (s : State) (h : Half) (u : AcqUnit) : RaiseKeeps s (s.setAcq h u) :=
  raiseKeeps_onHalf s h fun _ => rfl

theorem not_quietReg_evt (h : Half) {o : Nat} (h1 : 0x100000 ≤ o) (h2 : o < 0x300000) : ¬quietReg (viewBase h + o) :=
  fun q => by
    have := q.2.1 h
    omega

theorem not_quietReg_acq (h : Half) {o : Nat} (h1 : 0x3600000 ≤ o) (h2 : o < 0x3600200) : ¬quietReg (viewBase h + o) :=
  fun q => by
    have := q.2.2.1 h
    omega

theorem not_quietReg_recState (h : Half) (n : Nat) : ¬quietReg (REC.addr h n + REC.R_STATE.off) := by
  refine fun q => q.1 ?_
  cases h <;> (unfold REC.addr viewBase REC.R_STATE; dsimp only; omega)

/-! The scheduler (R326 to R334). -/

theorem traceEntry_raiseKeeps (s : State) (h : Half) (item core reason detail : Nat) :
    RaiseKeeps s (traceEntry s h item core reason detail) := by
  unfold traceEntry
  refine .ite (fun _ => .refl s) fun _ => ?_
  have hj : s.fld (SCHED.addr h) SCHED.WR_IDX < 2 ^ 14 := State.fld_lt ..
  generalize s.fld (SCHED.addr h) SCHED.WR_IDX = j at hj
  have loud (o : Nat) (ho : o < 0x10) : ¬quietReg (TRC.addr h j + o) := by
    unfold TRC.addr
    rw [show viewBase h + 0x240000 + j * 0x10 + o = viewBase h + (0x240000 + j * 0x10 + o) by omega]
    exact not_quietReg_evt h (by omega) (by omega)
  have entry : RaiseKeeps s ((((s.setQuad (TRC.addr h j) (s.servoNow h)).setWordN (TRC.addr h j + 8)
      (item % 4096 + itemGroup (s.setQuad (TRC.addr h j) (s.servoNow h)) h item * 2 ^ 12 + core * 2 ^ 16 + reason * 2 ^ 24)).setWordN
      (TRC.addr h j + 12) detail).setFld (SCHED.addr h) SCHED.WR_IDX (j + 1)) :=
    (((raiseKeeps_setQuad s _ (loud 0 (by decide)) (loud 4 (by decide))).trans (raiseKeeps_setWordN _ _ (loud 8 (by decide)))).trans
      (raiseKeeps_setWordN _ _ (loud 12 (by decide)))).trans
      (raiseKeeps_setFld _ _ (by decide) (not_quietReg_evt h (o := 0x200014) (by decide) (by decide)))
  dsimp only
  split
  · exact entry
  · exact entry.trans (raiseKeeps_setSched ..)

theorem chooseItem_raiseKeeps {s t : State} {h : Half} {k i : Nat} (e : chooseItem s h k = some (i, t)) : RaiseKeeps s t := by
  unfold chooseItem at e
  split at e
  · cases e
    exact .refl s
  · unfold chooseDrr at e
    dsimp only at e
    split at e
    · cases e
    · split at e
      · cases e
      · cases e
        exact raiseKeeps_setSched ..

theorem startItem_raiseKeeps (s : State) (h : Half) (k i : Nat) (area ready : Bool) :
    RaiseKeeps s (startItem s h k i area ready) :=
  ((raiseKeeps_setCore ..).trans (raiseKeeps_setSched ..)).trans (traceEntry_raiseKeeps ..)

theorem placeNext_raiseKeeps (s : State) (h : Half) (k i : Nat) : RaiseKeeps s (placeNext s h k i) :=
  ((raiseKeeps_setCore ..).trans (raiseKeeps_setSched ..)).trans (traceEntry_raiseKeeps ..)

theorem giveUrgent_raiseKeeps (h : Half) (l : List Nat) (s : State) : RaiseKeeps s (giveUrgent s h l) := by
  induction l generalizing s with
  | nil => exact .refl s
  | cons i l ih =>
    unfold giveUrgent
    split
    · exact ih s
    · exact ((raiseKeeps_setCore ..).trans (raiseKeeps_setSched ..)).trans (ih _)

theorem fillIdle_raiseKeeps (s : State) (h : Half) (k : Nat) : RaiseKeeps s (fillIdle s h k) := by
  unfold fillIdle
  refine .ite (fun _ => ?_) fun _ => .refl s
  split
  · exact .refl s
  · next i t e => exact (chooseItem_raiseKeeps e).trans (startItem_raiseKeeps ..)

theorem fillNext_raiseKeeps (s : State) (h : Half) (k : Nat) : RaiseKeeps s (fillNext s h k) := by
  unfold fillNext
  refine .ite (fun _ => ?_) fun _ => .refl s
  split
  · exact .refl s
  · next i t e => exact (chooseItem_raiseKeeps e).trans (placeNext_raiseKeeps ..)

theorem scheduleAll_raiseKeeps (s : State) (h : Half) : RaiseKeeps s (scheduleAll s h) :=
  ((giveUrgent_raiseKeeps ..).trans (.foldl (fun s k => fillIdle_raiseKeeps s h k) _ _)).trans
    (.foldl (fun s k => fillNext_raiseKeeps s h k) _ _)

theorem displace_raiseKeeps (s : State) (h : Half) (i : Nat) : RaiseKeeps s (displace s h i) := by
  unfold displace
  dsimp only
  split
  · exact .refl s
  · split
    · exact .refl s
    · exact ((raiseKeeps_setSched ..).trans (traceEntry_raiseKeeps ..)).trans (placeNext_raiseKeeps ..)

theorem releaseItem_raiseKeeps (s : State) (h : Half) (i at_ : Nat) (d : Option Nat) (cause : Nat) :
    RaiseKeeps s (releaseItem s h i at_ d cause) := by
  have given := fun x : SchedUnit => ((raiseKeeps_setSched s h x).trans (traceEntry_raiseKeeps _ h i noCore 1 cause)).trans
    (scheduleAll_raiseKeeps _ h)
  unfold releaseItem
  exact .ite (fun _ => (given _).trans (displace_raiseKeeps ..)) fun _ => given _

theorem postItem_raiseKeeps (s : State) (h : Half) (i at_ : Nat) (d : Option Nat) (cause : Nat) :
    RaiseKeeps s (postItem s h i at_ d cause).1 := by
  have counted (f : Fld) (hf : f.hi < 32) (ho : f.off < 0x100000) (k r x : Nat) :
      RaiseKeeps s (traceEntry (s.count (SCHED.addr h) f) h i k r x) :=
    (raiseKeeps_setFld s _ hf (by
      unfold SCHED.addr
      rw [Nat.add_assoc]
      exact not_quietReg_evt h (by omega) (by omega))).trans (traceEntry_raiseKeeps ..)
  unfold postItem
  split
  · exact counted _ (by decide) (by decide) _ _ _
  · split
    · exact releaseItem_raiseKeeps ..
    · split
      · exact counted _ (by decide) (by decide) _ _ _
      · exact counted _ (by decide) (by decide) _ _ _
      · exact counted _ (by decide) (by decide) _ _ _
      · exact (raiseKeeps_setSched ..).trans (traceEntry_raiseKeeps ..)

/-! Triggers of records (R399 to R401, R403). -/

/-- A record that triggers: its state and the halyard line it drives. -/
def captureDriven (s : State) (h : Half) (r : Nat) : State :=
  let u := s.setFld (REC.addr h r) REC.R_STATE 3
  if u.flag (REC.addr h r) REC.HL_DRIVE then hlDriveOn u (2 ^ u.fld (REC.addr h r) REC.HL_LINE) else u

theorem captureDriven_raiseKeeps (s : State) (h : Half) (r : Nat) : RaiseKeeps s (captureDriven s h r) := by
  have state : RaiseKeeps s (s.setFld (REC.addr h r) REC.R_STATE 3) :=
    raiseKeeps_setFld s _ (by decide) (not_quietReg_recState h r)
  have drive (u : State) (m : Nat) : RaiseKeeps u (hlDriveOn u m) :=
    ⟨⟨fun a _ => rfl, fun k => by cases k <;> rfl, rfl, rfl, rfl, rfl, rfl, rfl, rfl, fun _ _ _ => id⟩, rfl⟩
  exact .ite (fun _ => state.trans (drive _ _)) fun _ => state

theorem acqCapture_state (s : State) (h : Half) (x : AcqRec) (t src : Nat) (forced : Bool) :
    (acqCapture s h x t src forced).2 =
      let d := captureDriven s h x.num
      if d.fld (REC.addr h x.num) REC.SEND_ID ≠ 0 ∧ !(decide (d.fld (TB3X.addr h) TB3X.STATE = 3) ||
          decide (1000 < (d.fldS (TB.addr h 3) TB.LAST_OFS).natAbs)) then
        d.setAcq h { d.acq h with sent := some (remoteMessage d h (d.fld (REC.addr h x.num) REC.SEND_ID) t),
                                  seq := ((d.acq h).seq + 1) % 65536 }
      else d := by
  unfold acqCapture captureDriven
  rfl

theorem acqCapture_raiseKeeps (s : State) (h : Half) (x : AcqRec) (t src : Nat) (forced : Bool) :
    RaiseKeeps s (acqCapture s h x t src forced).2 := by
  have driven := captureDriven_raiseKeeps s h x.num
  rw [acqCapture_state]
  exact .ite (fun _ => driven.trans (raiseKeeps_setAcq ..)) fun _ => driven

theorem words_length (s : State) (a n : Nat) : (s.words a n).length = n := by
  induction n generalizing a with
  | zero => rfl
  | succ n ih => exact congrArg Nat.succ (ih (a + 4))

theorem acqMissed_raiseKeeps (s : State) (h : Half) (r t src : Nat) : RaiseKeeps s (acqMissed s h r t src) := by
  have logged (l : List Word) (hl : l.length ≤ 64) : RaiseKeeps s (s.setWords (ACQ.addr h + 0x40) l) := by
    refine raiseKeeps_setWords s l fun i hi => ?_
    unfold ACQ.addr
    rw [show viewBase h + 0x3600000 + 0x40 + 4 * i = viewBase h + (0x3600040 + 4 * i) by omega]
    exact not_quietReg_acq h (by omega) (by omega)
  have counted (u : State) : RaiseKeeps u (u.count (ACQ.addr h) ACQ.MISSED_TRIG) := by
    refine raiseKeeps_setFld u (f := ACQ.MISSED_TRIG) _ (by decide) ?_
    unfold ACQ.addr
    rw [Nat.add_assoc]
    exact not_quietReg_acq h (by decide) (by decide)
  unfold acqMissed
  refine ((logged _ ?_).trans (counted _)).trans (raiseKeeps_setAcq _ _ _)
  rw [List.length_append, words_length]
  exact Nat.le_refl 64

theorem acqDeliver_raiseKeeps (s : State) (h : Half) (x : AcqRec) (t src : Nat) (forced : Bool) :
    RaiseKeeps s (acqDeliver s h x t src forced).2 := by
  unfold acqDeliver
  refine .ite2 (fun _ => ?_) fun _ => .ite2 (fun _ => .refl s) fun _ => .ite2 (fun _ => .refl s) fun _ =>
    .ite2 (fun _ => .refl s) fun _ => acqCapture_raiseKeeps ..
  split
  · exact .refl s
  · exact .ite2 (fun _ => acqMissed_raiseKeeps ..) fun _ => .refl s

theorem acqFireL_raiseKeeps (h : Half) (sel : Nat → Bool) (t src : Nat) (forced : Bool) (l : List AcqRec) (s : State) :
    RaiseKeeps s (acqFireL h sel t src forced l s).2 := by
  induction l generalizing s with
  | nil => exact .refl s
  | cons x l ih =>
    unfold acqFireL
    dsimp only
    split
    · exact (acqDeliver_raiseKeeps s h x t src forced).trans (ih _)
    · exact ih _

theorem acqFire_raiseKeeps (s : State) (h : Half) (sel : Nat → Bool) (t src : Nat) (forced : Bool) :
    RaiseKeeps s (acqFire s h sel t src forced) :=
  (acqFireL_raiseKeeps h sel t src forced _ s).trans (raiseKeeps_setAcq ..)

/-! Occurrences of events (R335, R336). -/

theorem raiseVector_raiseKeeps (s : State) {v : Nat} (hv : v < 64) : RaiseKeeps s (raiseVector s v) := by
  have hset : RaiseKeeps s (s.setMapBit (BPI.addr + 0x200) v true) :=
    raiseKeeps_setWordN s _ fun q => by
      have := q.2.2.2
      omega
  unfold raiseVector
  refine .ite (fun _ => hset) fun _ => hset.trans ?_
  exact ⟨⟨fun a _ => rfl, fun k => by cases k <;> rfl, rfl, rfl, rfl, rfl, rfl, rfl, rfl, fun _ _ _ => id⟩, rfl⟩

theorem raiseBase_raiseKeeps (s : State) (h : Half) {e : Nat} (stamp : Nat) (he : e < 256) :
    RaiseKeeps s (raiseBase s h e stamp) := by
  have loud (o : Nat) (h1 : 0x100000 ≤ o) (h2 : o < 0x300000) := not_quietReg_evt h h1 h2
  have hcount : RaiseKeeps s (s.countIf (s.mapBit (EVT.addr h) e) (EVT.addr h) (EVT.LOST.nth e)) := by
    unfold State.countIf
    refine .ite (fun _ => raiseKeeps_setFld s (f := EVT.LOST.nth e) _ (show 15 < 32 by decide) ?_) fun _ => .refl s
    unfold EVT.addr Fld.nth EVT.LOST
    rw [Nat.add_assoc]
    exact loud _ (by dsimp only; omega) (by dsimp only; omega)
  have hbit (u : State) : RaiseKeeps u (u.setMapBit (EVT.addr h) e true) := by
    refine raiseKeeps_setWordN u _ ?_
    unfold EVT.addr
    rw [Nat.add_assoc]
    exact loud _ (by omega) (by omega)
  have hstamp (u : State) : RaiseKeeps u (u.setQuad (EVTST.addr h e) stamp) := by
    unfold EVTST.addr
    refine raiseKeeps_setQuad u _ ?_ ?_
    · rw [Nat.add_assoc]
      exact loud _ (by omega) (by omega)
    · rw [Nat.add_assoc, Nat.add_assoc]
      exact loud _ (by omega) (by omega)
  have fired := (((hcount.trans (hbit _)).trans (hstamp _)).trans (acqFire_raiseKeeps _ h (acqSelects
    (((s.countIf (s.mapBit (EVT.addr h) e) (EVT.addr h) (EVT.LOST.nth e)).setMapBit (EVT.addr h) e true).setQuad
      (EVTST.addr h e) stamp) h 6 e) stamp 6 false))
  unfold raiseBase
  have frozen := fun (c : Prop) (_ : Decidable c) (x : SchedUnit) =>
    RaiseKeeps.ite (c := c) (fun _ => fired.trans (raiseKeeps_setSched _ h x)) (fun _ => fired)
  refine .ite (fun _ => (frozen _ _ _).trans (raiseVector_raiseKeeps _ (State.fld_lt ..))) fun _ => frozen _ _ _

theorem raiseN_raiseKeeps (n : Nat) (s : State) (h : Half) {e : Nat} (stamp : Nat) (he : e < 256) :
    RaiseKeeps s (raiseN n s h e stamp) := by
  induction n generalizing s e with
  | zero => exact raiseBase_raiseKeeps s h stamp he
  | succ n ih =>
    have base := raiseBase_raiseKeeps s h stamp he
    unfold raiseN
    dsimp only
    generalize raiseBase s h e stamp = u at base ⊢
    have missed : RaiseKeeps s (if (u.acq h).miss = true then raiseN n (u.setAcq h { u.acq h with miss := false }) h 193 stamp else u) :=
      .ite (fun _ => (base.trans (raiseKeeps_setAcq ..)).trans (ih _ (by decide))) fun _ => base
    generalize (if (u.acq h).miss = true then raiseN n (u.setAcq h { u.acq h with miss := false }) h 193 stamp else u) = w at missed ⊢
    refine .ite (fun _ => missed.trans (raiseKeeps_setFld _ _ (by decide) (not_quietReg_evt h (o := 0x200000 + SCHED.TBL_ERR.off)
      (by decide) (by decide)))) fun _ => .ite (fun _ => ?_) fun _ => missed
    have posted := missed.trans (postItem_raiseKeeps w h (w.fld (EVT.addr h) (EVT.TITEM.nth e)) stamp
      (itemDeadline w h (w.fld (EVT.addr h) (EVT.TITEM.nth e)) stamp) e)
    split
    · next x hx =>
      rw [hx] at posted
      exact posted.trans (ih _ (by decide))
    · next x hx =>
      rw [hx] at posted
      exact posted

theorem raiseAt_raiseKeeps (s : State) (h : Half) {e : Nat} (stamp : Nat) (he : e < 256) : RaiseKeeps s (raiseAt s h e stamp) :=
  raiseN_raiseKeeps 2 s h stamp he

theorem raiseEvt_raiseKeeps (s : State) (h : Half) {e : Nat} (he : e < 256) : RaiseKeeps s (raiseEvt s h e) :=
  raiseAt_raiseKeeps s h _ he

theorem raiseIf_raiseKeeps (s : State) (c : Bool) (h : Half) {e : Nat} (he : e < 256) : RaiseKeeps s (raiseIf s c h e) :=
  .ite (fun _ => raiseEvt_raiseKeeps s h he) fun _ => .refl s

theorem raiseBoth_raiseKeeps (s : State) {e : Nat} (he : e < 256) : RaiseKeeps s (raiseBoth s e) :=
  (raiseEvt_raiseKeeps s .a he).trans (raiseEvt_raiseKeeps _ .b he)

theorem postAt_raiseKeeps (s : State) (h : Half) (i at_ : Nat) (d : Option Nat) (cause : Nat) :
    RaiseKeeps s (postAt s h i at_ d cause) := by
  have posted := postItem_raiseKeeps s h i at_ d cause
  unfold postAt
  split
  · next x hx =>
    rw [hx] at posted
    exact posted.trans (raiseAt_raiseKeeps _ h _ (by decide))
  · next x hx =>
    rw [hx] at posted
    exact posted

/-! The fault log and the counters of MRAM (R450, R451). -/

theorem logKeeps_mem (s : State) (m : List Host.Cell) : LogKeeps s { s with mem := m } :=
  ⟨fun _ _ => rfl, fun k => by cases k <;> rfl, rfl, rfl, rfl, rfl, rfl, rfl, rfl, fun _ _ _ => id⟩

theorem logKeeps_setMemN (s : State) (a v : Nat) : LogKeeps s (s.setMemN a v) := logKeeps_mem s _

theorem logKeeps_setMemQuad (s : State) (a v : Nat) : LogKeeps s (s.setMemQuad a v) := logKeeps_mem s _

theorem logKeeps_takeFree (s : State) : LogKeeps s s.takeFree.2 :=
  ⟨fun _ _ => rfl, fun k => by cases k <;> rfl, rfl, rfl, rfl, rfl, rfl, rfl, rfl, fun _ _ _ => id⟩

theorem mramCount_logKeeps (s : State) (i : Nat) : LogKeeps s (mramCount s i) := logKeeps_setMemN ..

/-- An entry of the fault log in memory, with its code and detail. -/
def logEntry (s : State) (ev : Nat) (h : Option Half) (c d : Nat) : State :=
  let idx := s.memN (mramAddr 0x10)
  let b := mramAddr (0x10000 + idx % 4096 * 32)
  let s := s.setMemQuad b (s.servoNow (h.getD .a))
  let s := s.setMemQuad (b + 8) s.tb0
  let s := s.setMemN (b + 16) (ev % 256 + halfByte h * 256 + c % 2 ^ 16 * 2 ^ 16)
  let s := s.setMemQuad (b + 20) d
  let s := s.setMemN (b + 28) 0
  s.setMemN (mramAddr 0x10) (idx + 1)

theorem logEntry_logKeeps (s : State) (ev : Nat) (h : Option Half) (c d : Nat) : LogKeeps s (logEntry s ev h c d) :=
  (((((logKeeps_setMemQuad ..).trans (logKeeps_setMemQuad ..)).trans (logKeeps_setMemN ..)).trans (logKeeps_setMemQuad ..)).trans
    (logKeeps_setMemN ..)).trans (logKeeps_setMemN ..)

theorem faultLog_logKeeps (s : State) (ev : Nat) (h : Option Half) (code detail : Option Nat) :
    LogKeeps s (faultLog s ev h code detail) := by
  have logged (u : State) (c d : Nat) : LogKeeps u (raiseBoth (logEntry u ev h c d) 14) :=
    (logEntry_logKeeps ..).trans (raiseBoth_raiseKeeps _ (by decide)).toLogKeeps
  have once := logKeeps_takeFree s
  cases code <;> cases detail
  · exact (once.trans (logKeeps_takeFree _)).trans (logged ..)
  · exact once.trans (logged ..)
  · exact once.trans (logged ..)
  · exact logged ..


end Sys2Proof.Machine
end

section
/-! PROOFS. The pair link and the rack pennant (R369 to R374). -/
namespace Sys2Proof.Machine

/-! The rack pennant is taken (R370 to R372). -/

/-- The registers of the arbiter at the instant the rack pennant is taken, in period m. -/
def rackTaken (s : State) (m : Nat) : State :=
  ((((s.setFlag PEN.addr PEN.RACK_HELD).count PEN.addr PEN.TAKEOVERS).setFld PEN.addr PEN.CAUSE 8).setFld PEN.addr PEN.KIND 1).setFld
    PEN.addr PEN.PERIOD m

theorem rackTaken_reads (s : State) (m : Nat) :
    (rackTaken s m).flag PEN.addr PEN.RACK_HELD = true ∧ (rackTaken s m).fld PEN.addr PEN.CAUSE = 8 ∧
      (rackTaken s m).fld PEN.addr PEN.KIND = 1 ∧
      (rackTaken s m).fld PEN.addr PEN.TAKEOVERS = Nat.min 255 (s.fld PEN.addr PEN.TAKEOVERS + 1) ∧
      (rackTaken s m).tb0 = s.tb0 ∧ ∀ h, syncNow (rackTaken s m) h = syncNow s h := by
  unfold rackTaken
  refine ⟨?_, ?_, ?_, ?_, ?_, fun h => ?_⟩
  · unfold State.flag
    simp (disch := decide) only [State.fld_setFld_of_apart, State.fld_count_of_apart, State.setFlag, State.fld_setFld_eq]
    decide
  · simp (disch := decide) only [State.fld_setFld_of_apart, State.fld_setFld_eq]
    rfl
  · simp (disch := decide) only [State.fld_setFld_of_apart, State.fld_setFld_eq]
    rfl
  · simp (disch := decide) only [State.fld_setFld_of_apart, State.fld_count_eq, State.setFlag]
    exact Nat.min_comm _ _
  · simp only [State.setFld_tb0, State.count_tb0, State.setFlag_tb0]
  · have hb := sysPeriod_below_common h
    unfold syncNow State.servoNow State.periodNs
    simp only [State.setFlag, State.count, State.countBy, State.fld_setFld_pen _ _ hb]
    congr 3

theorem rackTake_not_able {s : State} {b : Bool} (hn : b = false ∨ s.flag PEN.addr PEN.RACK_HELD = true ∨ s.unpaired = true) :
    rackTake s b = s := by
  unfold rackTake
  cases s.activeHalf with
  | none => rfl
  | some h =>
    refine if_pos ?_
    rcases hn with rfl | hr | hu
    · rfl
    · rw [hr, Bool.or_true]
      rfl
    · rw [hu, Bool.or_true]
      rfl

theorem State.unpaired_of_paired {s : State} (h2 : s.fld PEN.addr PEN.P_STATE = 2) : s.unpaired = false := by
  unfold State.unpaired
  rw [h2]
  rfl

/-- The module that holds the rack pennant from now on claims its split rings with the next epoch. -/
def rackClaim (s : State) (h : Half) : State :=
  (List.range 8).foldl (fun s r => if s.flag (RING.addr h r) RING.SPLIT && ringCyclic s h r then takeEpoch s h r else s)
    (mramCount (raiseBoth s 5) 2)

theorem rackTake_paired {s : State} {h : Half} (ha : s.activeHalf = some h) (hr : s.flag PEN.addr PEN.RACK_HELD = false)
    (h2 : s.fld PEN.addr PEN.P_STATE = 2) (hn : s.pen.newest.getD (halfIdx h) none = none) :
    rackTake s true =
      let x := passUntil s h (nextSync s h * s.periodNs h)
      let w := rackClaim (rackTaken x (syncNow x h)) h
      { w with former := none, pen := { penTaken w.pen (syncNow x h) with claimAt := some (syncNow x h) } } := by
  unfold rackTake
  rw [ha]
  dsimp only
  rw [hr, State.unpaired_of_paired h2, hn, h2]
  rfl

/-! Pairing (R369). -/

theorem pairState_of_ne {s : State} {x : Nat} (h : s.fld PEN.addr PEN.P_STATE ≠ x) :
    pairState s x = raiseBoth ((s.setFld PEN.addr PEN.P_STATE x).setFld PEN.addr PEN.PAIRED (b2n (decide (x = 2)))) 9 := if_neg h

/-- A lane's field of P_LINK and the other lane's. -/
theorem laneFld_eq (lane : Fin 2) : laneFld lane.val = if lane = 0 then PEN.LANE0_UP else PEN.LANE1_UP := by
  fin_cases lane <;> rfl

/-- The state after a LINK frame, before the link's own state changes. -/
def linkNoted (s : State) (lane num cl : Nat) (rack : Bool) (crc : Nat) : State :=
  let s := s.setPen { s.pen with lastLink := s.pen.lastLink.set lane (some s.tb0), peerCrc := crc }
  (((s.setFld PEN.addr PEN.PEER_NUM num).setFld PEN.addr PEN.PEER_CL cl).putFlag PEN.addr PEN.PEER_RACK rack).setFlag PEN.addr
    (laneFld lane)

theorem linkNoted_reads (s : State) (lane : Fin 2) (num : BitVec 10) (cl : BitVec 4) (rack : Bool) (crc : Nat) :
    let t := linkNoted s lane.val num.toNat cl.toNat rack crc
    t.fld PEN.addr PEN.PEER_NUM = num.toNat ∧ t.fld PEN.addr PEN.PEER_CL = cl.toNat ∧ t.flag PEN.addr PEN.PEER_RACK = rack ∧
      t.flag PEN.addr (if lane = 0 then PEN.LANE0_UP else PEN.LANE1_UP) = true ∧
      t.flag PEN.addr (if lane = 0 then PEN.LANE1_UP else PEN.LANE0_UP) =
        s.flag PEN.addr (if lane = 0 then PEN.LANE1_UP else PEN.LANE0_UP) ∧
      t.fld PEN.addr PEN.P_STATE = s.fld PEN.addr PEN.P_STATE ∧ t.pen.peerCrc = crc ∧
      t.pen.lastLink = s.pen.lastLink.set lane.val (some s.tb0) ∧ t.mem = s.mem := by
  intro t
  unfold t linkNoted
  have hnum : num.toNat % 2 ^ 10 = num.toNat := Nat.mod_eq_of_lt num.isLt
  have hcl : cl.toNat % 2 ^ 4 = cl.toNat := Nat.mod_eq_of_lt cl.isLt
  rw [laneFld_eq, State.setFlag_eq_putFlag]
  fin_cases lane <;>
    (refine ⟨?_, ?_, ?_, ?_, ?_, ?_, ?_, ?_, ?_⟩
     · simp (disch := decide) only [State.fld_putFlag_of_apart, State.fld_setFld_of_apart, State.fld_setFld_eq]
       exact hnum
     · simp (disch := decide) only [State.fld_putFlag_of_apart, State.fld_setFld_eq]
       exact hcl
     · simp (disch := decide) only [State.flag_putFlag_of_apart, State.flag_putFlag_eq]
     · simp (disch := decide) only [State.flag_putFlag_eq]
     · simp (disch := decide) only [State.flag_putFlag_of_apart, State.flag_setFld_of_apart, State.setPen_flag]
     · simp (disch := decide) only [State.fld_putFlag_of_apart, State.fld_setFld_of_apart, State.setPen_fld]
     · simp only [State.putFlag_pen, State.setFld_pen, State.setPen_pen]
     · simp only [State.putFlag_pen, State.setFld_pen, State.setPen_pen]
     · simp only [State.putFlag_mem, State.setFld_mem, State.setPen_mem])

theorem linkFrame_up {s : State} {lane : Nat} (num cl : Nat) (rack : Bool) (crc : Nat)
    (h6 : (linkNoted s lane num cl rack crc).fld PEN.addr PEN.P_STATE ≠ 6) :
    linkFrame s lane num cl rack crc = linkNoted s lane num cl rack crc := by
  have run : linkFrame s lane num cl rack crc =
      if (((((s.setPen { s.pen with lastLink := s.pen.lastLink.set lane (some s.tb0), peerCrc := crc }).setFld PEN.addr PEN.PEER_NUM
          num).setFld PEN.addr PEN.PEER_CL cl).putFlag PEN.addr PEN.PEER_RACK rack).flag PEN.addr (laneFld lane) = true) ∨
          (linkNoted s lane num cl rack crc).fld PEN.addr PEN.P_STATE = 0 then linkNoted s lane num cl rack crc
      else if (linkNoted s lane num cl rack crc).fld PEN.addr PEN.P_STATE = 6 then
        pairState (linkNoted s lane num cl rack crc) 1
      else linkNoted s lane num cl rack crc := rfl
  rw [run, if_neg h6, ite_self]

/-! A lane that has been silent (R373, R374). -/

theorem laneDown_recent {s : State} {lane t : Nat} (hl : s.pen.lastLink.getD lane none = some t) (ht : s.tb0 < t + 100000) :
    laneDown s lane = s := by
  unfold laneDown
  rw [hl]
  dsimp only
  rw [decide_eq_false (not_le.mpr ht), Bool.and_false]
  rfl

theorem laneDown_silent {s : State} {lane t : Nat} (hl : s.pen.lastLink.getD lane none = some t) (ht : t + 100000 ≤ s.tb0)
    (hu : s.flag PEN.addr (laneFld lane) = true) :
    laneDown s lane =
      let d := (s.setFld PEN.addr (laneFld lane) 0).count PEN.addr PEN.LANE_FAIL
      if d.flag PEN.addr PEN.LANE0_UP ∨ d.flag PEN.addr PEN.LANE1_UP then d else pairState d 6 := by
  unfold laneDown
  rw [hl]
  dsimp only
  rw [decide_eq_true ht, hu]
  rfl

/-- After a lane is marked down, its flag is 0, and the other lane's and the link's state read as before. -/
theorem laneDown_reads (s : State) (lane : Fin 2) :
    let d := (s.setFld PEN.addr (if lane = 0 then PEN.LANE0_UP else PEN.LANE1_UP) 0).count PEN.addr PEN.LANE_FAIL
    d.flag PEN.addr (if lane = 0 then PEN.LANE0_UP else PEN.LANE1_UP) = false ∧
      d.flag PEN.addr (if lane = 0 then PEN.LANE1_UP else PEN.LANE0_UP) =
        s.flag PEN.addr (if lane = 0 then PEN.LANE1_UP else PEN.LANE0_UP) ∧
      d.fld PEN.addr PEN.P_STATE = s.fld PEN.addr PEN.P_STATE := by
  intro d
  unfold d State.flag
  fin_cases lane <;>
    (refine ⟨?_, ?_, ?_⟩
     · simp (disch := decide) only [State.fld_count_of_apart, State.fld_setFld_eq]
       decide
     · simp (disch := decide) only [State.fld_count_of_apart, State.fld_setFld_of_apart]
     · simp (disch := decide) only [State.fld_count_of_apart, State.fld_setFld_of_apart])

/-- Some lane is up. -/
theorem laneFlags_or (d : State) (lane : Fin 2) :
    (d.flag PEN.addr PEN.LANE0_UP = true ∨ d.flag PEN.addr PEN.LANE1_UP = true) ↔
      d.flag PEN.addr (if lane = 0 then PEN.LANE0_UP else PEN.LANE1_UP) = true ∨
        d.flag PEN.addr (if lane = 0 then PEN.LANE1_UP else PEN.LANE0_UP) = true := by
  fin_cases lane
  · exact Iff.rfl
  · exact Or.comm

theorem quietReg_peer : quietReg (PEN.addr + PEN.PEER_RACK.off) := by
  refine ⟨by decide, fun h => ?_, fun h => ?_, ?_⟩
  · cases h <;> decide
  · cases h <;> decide
  · decide

theorem pairCheck_waiting {s : State} (h1 : s.fld PEN.addr PEN.P_STATE = 1) (num cl crc : Nat) :
    pairCheck s num cl crc =
      if cl ≠ s.fld MOD.addr MOD.CL_NOW then pairState s 3
      else if crc ≠ ownPairCrc s then pairState s 4
      else if num % 32 = s.fld MOD.addr MOD.NUM % 32 then pairState s 5
      else rackElect (pairState s 2) num (s.flag PEN.addr PEN.PEER_RACK) :=
  if_neg (by rw [h1]; decide)

/-- Settles O42: each clause is one branch of rackTake, pairReceive or laneDown, read through the arbiter's fields. -/
theorem pairLink : Obligations.PairLink := by
  unfold Obligations.PairLink
  intro h lane f num cl rack crc s p up other
  refine ⟨fun hn => congrArg Host.Outcome.next (rackTake_not_able (Or.inr hn)),
    congrArg Host.Outcome.next (rackTake_not_able (Or.inl rfl)), fun ha hr h2 hn => ?_, rfl, fun _ => rfl, fun h6 => ?_, fun h1 => ?_,
    fun t hl => ⟨fun ht => congrArg Host.Outcome.next (laneDown_recent hl ht), fun ht hu => ?_⟩⟩
  · obtain ⟨hheld, hcause, hkind, htake, htb0, hnow⟩ := rackTaken_reads (passUntil s h (nextSync s h * s.periodNs h))
      (syncNow (passUntil s h (nextSync s h * s.periodNs h)) h)
    refine ⟨_, hheld, hcause, hkind, htake.trans ?_, htb0, ?_⟩
    · exact congrArg (fun n => Nat.min 255 (n + 1)) (State.fld_congr (State.passTime_regs _ _) (State.passTime_image _ _)
        (State.passTime_sect _ _) _ _)
    · rw [hnow]
      exact congrArg Host.Outcome.next (rackTake_paired ha hr h2 hn)
  · obtain ⟨hnum, hcl, hrack, hup, hother, hst, hcrc, hlast, hmem⟩ := linkNoted_reads s lane num cl rack crc.toNat
    exact ⟨_, congrArg Host.Outcome.next (linkFrame_up _ _ _ _ (by rw [hst]; exact h6)), hnum, hcl, hrack, hup, hother, hcrc, hlast, hmem⟩
  · have run := pairCheck_waiting h1 num.toNat cl.toNat crc.toNat
    have enter (x : Nat) (hx : 1 ≠ x) := pairState_of_ne (s := s) (x := x) (by rw [h1]; exact hx)
    have peer : (pairState s 2) = raiseBoth ((s.setFld p PEN.P_STATE 2).setFld p PEN.PAIRED 1) 9 := enter 2 (by decide)
    refine ⟨fun hc => congrArg Host.Outcome.next ?_, fun hc hk => congrArg Host.Outcome.next ?_,
      fun hc hk hn => congrArg Host.Outcome.next ?_, fun hc hk hn => ?_⟩
    · exact (run.trans (if_pos hc)).trans (enter 3 (by decide))
    · exact (run.trans ((if_neg (not_not.mpr hc)).trans (if_pos hk))).trans (enter 4 (by decide))
    · exact (run.trans ((if_neg (not_not.mpr hc)).trans ((if_neg (not_not.mpr hk)).trans (if_pos hn)))).trans (enter 5 (by decide))
    · have kept : (raiseBoth ((s.setFld p PEN.P_STATE 2).setFld p PEN.PAIRED 1) 9).flag p PEN.PEER_RACK = s.flag p PEN.PEER_RACK := by
        rw [(raiseBoth_raiseKeeps _ (by decide)).toLogKeeps.flag quietReg_peer (Or.inl (by decide))]
        exact (State.flag_setFld_of_apart _ _ (by decide)).trans (State.flag_setFld_of_apart _ _ (by decide))
      rw [kept, ← peer]
      exact congrArg Host.Outcome.next (run.trans ((if_neg (not_not.mpr hc)).trans ((if_neg (not_not.mpr hk)).trans (if_neg hn))))
  · obtain ⟨hdown, hkeep, hst⟩ := laneDown_reads s lane
    have run := laneDown_silent hl ht (laneFld_eq lane ▸ hu)
    rw [laneFld_eq] at run
    refine ⟨fun ho => congrArg Host.Outcome.next (run.trans (if_pos ((laneFlags_or _ lane).mpr (Or.inr (hkeep.trans ho))))),
      fun ho h6 => congrArg Host.Outcome.next ((run.trans (if_neg fun hor => ?_)).trans (pairState_of_ne (by rw [hst]; exact h6)))⟩
    rcases (laneFlags_or _ lane).mp hor with hl | hr
    · exact Bool.false_ne_true (hdown.symm.trans hl)
    · exact Bool.false_ne_true (ho.symm.trans (hkeep.symm.trans hr))


end Sys2Proof.Machine
end

section
/-! PROOFS. The solver array: submits, completions, resets and schedule loads (R140 to R166). -/
namespace Sys2Proof.Machine

/-! A submit (R140). -/

/-- The code of the port a submit writes to. -/
def submitCode (s : State) (h : Half) (v : Nat) : Nat :=
  let code := portCode h (bitsOf v 5 0) (s.memWords (dramAddr h (bitsOf v 30 6 * 64)) 16)
  let c := solverCh s h (bitsOf v 5 0)
  if code = 0 ∧ decide (32 ≤ c.queue.length - b2n c.run.isSome) then 1 else code

/-- The registers of a port whose descriptor joins a queue. -/
def portPlaced (s : State) (h : Half) (p n : Nat) : State :=
  (s.setFld (SOLV.addr h) (SOLV.PORT_CODE.nth p) 0).setFld (SOLV.addr h) (SOLV.PLACED.nth p) n

/-- A descriptor that joins the queue of its channel. -/
def submitted (s : State) (h : Half) (p v : Nat) : State :=
  let n := bitsOf v 5 0
  let off := bitsOf v 30 6 * 64
  let d := s.memWords (dramAddr h off) 16
  let c := solverCh s h n
  let q := c.queue ++ [⟨off, d, 0, stepsOf (portPlaced s h p n) h n d⟩]
  setSolverCh (portPlaced s h p n) h n { c with queue := q, run := match c.run with | none => nextDesc q | some i => some i }

theorem solverSubmit_code {s : State} {h : Half} {v : Nat} (hn : bitsOf v 5 0 ≠ 63) (p : Nat) (hc : submitCode s h v ≠ 0) :
    solverSubmit s h p v = raiseEvt (s.setFld (SOLV.addr h) (SOLV.PORT_CODE.nth p) (submitCode s h v)) h 147 := by
  unfold solverSubmit
  dsimp only
  rw [if_neg hn]
  exact if_pos hc

theorem solverSubmit_placed {s : State} {h : Half} {v : Nat} (hn : bitsOf v 5 0 ≠ 63) (p : Nat) (hc : submitCode s h v = 0) :
    solverSubmit s h p v = submitted s h p v := by
  have hi : (if portCode h (bitsOf v 5 0) (s.memWords (dramAddr h (bitsOf v 30 6 * 64)) 16) = 0 ∧
      decide (32 ≤ (solverCh s h (bitsOf v 5 0)).queue.length - b2n (solverCh s h (bitsOf v 5 0)).run.isSome) = true then 1
      else portCode h (bitsOf v 5 0) (s.memWords (dramAddr h (bitsOf v 30 6 * 64)) 16)) = 0 := hc
  unfold solverSubmit
  dsimp only
  rw [if_neg hn, hi]
  rfl

theorem submitCode_of_port {s : State} {h : Half} {v : Nat}
    (hc : portCode h (bitsOf v 5 0) (s.memWords (dramAddr h (bitsOf v 30 6 * 64)) 16) ≠ 0) :
    submitCode s h v = portCode h (bitsOf v 5 0) (s.memWords (dramAddr h (bitsOf v 30 6 * 64)) 16) :=
  if_neg fun e => hc e.1

theorem submitCode_full {s : State} {h : Half} {v i : Nat}
    (hc : portCode h (bitsOf v 5 0) (s.memWords (dramAddr h (bitsOf v 30 6 * 64)) 16) = 0)
    (hr : (solverCh s h (bitsOf v 5 0)).run = some i) (hq : 33 ≤ (solverCh s h (bitsOf v 5 0)).queue.length) :
    submitCode s h v = 1 := by
  refine if_pos ⟨hc, decide_eq_true ?_⟩
  rw [hr, Option.isSome_some]
  exact Nat.le_sub_of_add_le hq

theorem submitCode_room {s : State} {h : Half} {v : Nat}
    (hc : portCode h (bitsOf v 5 0) (s.memWords (dramAddr h (bitsOf v 30 6 * 64)) 16) = 0)
    (hq : (solverCh s h (bitsOf v 5 0)).queue.length < 32) : submitCode s h v = 0 :=
  (if_neg fun e => by
    have := of_decide_eq_true e.2
    omega).trans hc

theorem portCode_channel {h : Half} {n : Nat} {d : List Word} (hc : portCode h n d = 0) : n ≤ 17 := by
  by_contra hn
  exact absurd hc (by
    unfold portCode
    rw [if_pos (by omega)]
    decide)

/-- The registers of a submit port. -/
theorem portPlaced_reads (s : State) (h : Half) {p n : Nat} (hn : n < 32) :
    (portPlaced s h p n).fld (SOLV.addr h) (SOLV.PORT_CODE.nth p) = 0 ∧
      (portPlaced s h p n).fld (SOLV.addr h) (SOLV.PLACED.nth p) = n ∧ (portPlaced s h p n).mem = s.mem ∧
      (portPlaced s h p n).half h = s.half h ∧
      ∀ a, a < SOLV.addr h + 0x80 ∨ SOLV.addr h + 0x84 + 4 * p ≤ a → (portPlaced s h p n).word a = s.word a := by
  unfold portPlaced
  refine ⟨?_, ?_, ?_, ?_, fun a ha => ?_⟩
  · rw [State.fld_setFld_beside (f := SOLV.PLACED.nth p) (g := SOLV.PORT_CODE.nth p) _ _ (show 8 < 32 by decide)
      (show 3 < 32 by decide) rfl (Or.inl (show 3 < 4 by decide)), State.fld_setFld_same _ _ (show 3 < 32 by decide)]
    exact Nat.zero_mod _
  · rw [State.fld_setFld_same _ _ (show 8 < 32 by decide)]
    exact Nat.mod_eq_of_lt hn
  · rw [State.setFld_mem, State.setFld_mem]
  · rw [State.setFld_half, State.setFld_half]
  · have port (u : State) (f : Fld) (x : Nat) (hf : f.hi < 32) (ho : f.off = 0x80) :
        (u.setFld (SOLV.addr h) (f.nth p) x).word a = u.word a := by
      refine State.word_setFld_other (f := f.nth p) _ _ hf ?_
      have : (f.nth p).off = 0x80 + p * 4 := congrArg (· + p * 4) ho
      omega
    rw [port _ _ _ (by decide) rfl, port _ _ _ (by decide) rfl]

/-! A channel and its status registers. -/

theorem solverCh_congr {s t : State} {h : Half} (e : t.half h = s.half h) (k : Nat) : solverCh t h k = solverCh s h k := by
  unfold solverCh State.solver
  rw [e]

theorem setSolverCh_chs (s : State) (h : Half) (k : Nat) (c : SolverCh) :
    ((setSolverCh s h k c).solver h).chs = (s.solver h).chs.set k c := by
  unfold setSolverCh State.solver
  dsimp only
  simp only [State.setFld_half, State.putFlag_half]
  unfold State.setSolver
  rw [State.half_onHalf_same]

theorem solverCh_setSolverCh_same {s : State} {h : Half} {k : Nat} (c : SolverCh) (hk : k < (s.solver h).chs.length) :
    solverCh (setSolverCh s h k c) h k = c := by
  unfold solverCh
  rw [setSolverCh_chs]
  exact unitAt_set_same _ _ _ hk

theorem solverCh_setSolverCh_other (s : State) (h : Half) {k j : Nat} (c : SolverCh) (n : j ≠ k) :
    solverCh (setSolverCh s h k c) h j = solverCh s h j := by
  unfold solverCh
  rw [setSolverCh_chs]
  exact unitAt_set_other _ _ _ n.symm

theorem setSolverCh_mem (s : State) (h : Half) (k : Nat) (c : SolverCh) : (setSolverCh s h k c).mem = s.mem := by
  unfold setSolverCh
  dsimp only
  simp only [State.setFld_mem, State.putFlag_mem, State.setSolver_mem]

/-- The status registers of a channel lie behind the ports. -/
theorem setSolverCh_word (s : State) (h : Half) (k : Nat) (c : SolverCh) {a : Nat} (ha : a < CH.addr h 0) :
    (setSolverCh s h k c).word a = s.word a := by
  have outside (u : State) (f : Fld) (v : Nat) : (u.setFld (CH.addr h k) f v).word a = u.word a := by
    refine State.word_setFld_outside _ _ (Or.inl ?_)
    unfold CH.addr at ha ⊢
    omega
  unfold setSolverCh
  dsimp only
  simp only [outside, State.putFlag]
  unfold State.setSolver
  rw [State.onHalf_word]

/-- The estimated steps of a problem read the headers of the slots alone. -/
theorem stepsOf_congr {s t : State} {h : Half} (e : ∀ a, SOLV.addr h + 0x3000 ≤ a → t.word a = s.word a) (k : Nat) (d : List Word) :
    stepsOf t h k d = stepsOf s h k d := by
  have hdr (c sl i : Nat) : hdrWord t h c sl i = hdrWord s h c sl i := by
    unfold hdrWord State.wordN
    rw [e _ (by omega)]
  unfold stepsOf
  simp only [hdr]

theorem submitted_reads {s : State} {h : Half} {p v : Nat} (hp : p < 32) (hn : bitsOf v 5 0 < 18)
    (hk : bitsOf v 5 0 < (s.solver h).chs.length) :
    let n := bitsOf v 5 0
    let off := bitsOf v 30 6 * 64
    let d := s.memWords (dramAddr h off) 16
    (solverCh (submitted s h p v) h n).queue = (solverCh s h n).queue ++ [⟨off, d, 0, stepsOf s h n d⟩] ∧
      (submitted s h p v).fld (SOLV.addr h) (SOLV.PORT_CODE.nth p) = 0 ∧
      (submitted s h p v).fld (SOLV.addr h) (SOLV.PLACED.nth p) = n ∧
      (∀ m, m ≠ n → solverCh (submitted s h p v) h m = solverCh s h m) ∧ (submitted s h p v).mem = s.mem := by
  intro n off d
  obtain ⟨hcode, hplaced, hmem, hhalf, hword⟩ := portPlaced_reads s h (p := p) (n := n) (by omega)
  have hlen : n < ((portPlaced s h p n).solver h).chs.length := by
    unfold State.solver at hk ⊢
    rw [hhalf]
    exact hk
  have hsteps : stepsOf (portPlaced s h p n) h n d = stepsOf s h n d :=
    stepsOf_congr (fun a ha => hword a (Or.inr (by omega))) n d
  have port (f : Fld) (hf : f.hi < 32) (ho : f.off = 0x80) (u : State) (c : SolverCh) :
      (setSolverCh u h n c).fld (SOLV.addr h) (f.nth p) = u.fld (SOLV.addr h) (f.nth p) := by
    refine State.fld_of_words fun a h1 h2 => setSolverCh_word _ _ _ _ ?_
    have hoff : (f.nth p).off = 0x80 + p * 4 := congrArg (· + p * 4) ho
    have hspan : (f.nth p).span = 4 := if_pos hf
    unfold CH.addr
    unfold SOLV.addr at h1 h2
    omega
  unfold submitted
  dsimp only
  refine ⟨?_, (port _ (by decide) rfl _ _).trans hcode, (port _ (by decide) rfl _ _).trans hplaced, fun m hm => ?_, ?_⟩
  · rw [solverCh_setSolverCh_same _ hlen]
    exact congrArg (fun x => (solverCh s h n).queue ++ [⟨off, d, 0, x⟩]) hsteps
  · rw [solverCh_setSolverCh_other _ _ _ hm, solverCh_congr hhalf]
  · rw [setSolverCh_mem, hmem]

/-! Completions (R144, R159). -/

theorem solverComplete_idle {s : State} {h : Half} {k : Nat} (hr : (solverCh s h k).run = none) : solverComplete s h k = s := by
  unfold solverComplete
  dsimp only
  rw [hr]

theorem solverComplete_last {s : State} {h : Half} {k i : Nat} {x : SolverDesc} (hr : (solverCh s h k).run = some i)
    (hx : (solverCh s h k).queue[i]? = some x) (hb : dBatch x.words ≤ x.done + 1) :
    solverComplete s h k =
      let u := if opSparse (dOp x.words) then sparseProblem s h k x.words else denseProblem s h k x.words x.done
      let r := (solverCh s h k).queue.eraseIdx i
      raiseIf ((setSolverCh u h k { solverCh s h k with queue := r, run := nextDesc r }).setFld (CH.addr h k) CH.LAST_DESC x.at_)
        (dFlag x.words 1) h (128 + k) := by
  unfold solverComplete
  dsimp only
  rw [hr]
  dsimp only
  rw [hx]
  dsimp only
  rw [decide_eq_true hb]
  simp only [if_true]

theorem sparseProblem_notResident {s : State} {h : Half} {k : Nat} {d : List Word} (ho : dOp d = 0x12)
    (hs : slotState s h (k - 16) (dK d) ≠ 2) :
    sparseProblem s h k d =
      let rows := slotRows s h (k - 16) (dK d)
      finishProblem s h k (zeroSolved [] rows) false false 9
        (signature d rows (hdrWord s h (k - 16) (dK d) 1) (hdrWord s h (k - 16) (dK d) 5)) 0 (dX d) (dRes d) none := by
  unfold sparseProblem
  dsimp only
  rw [if_pos hs, if_pos (by decide), ho]
  rfl

/-! Resets of a channel and its counters (R166). -/

/-- A channel whose queue has been flushed, put back to reset. -/
theorem channelReset_reads (s : State) (h : Half) (k : Nat) :
    solverCh (channelReset s h k) h k = .reset ∧ ∀ a, CH.addr h k ≤ a → a < CH.addr h k + 0x100 →
      (channelReset s h k).word a = ((solverCh s h k).queue.foldl (fun s x => flushDesc s h k x) s).regReset a := by
  unfold channelReset
  dsimp only
  generalize (solverCh s h k).queue.foldl (fun s x => flushDesc s h k x) s = f
  refine ⟨?_, fun a h1 h2 => ?_⟩
  · rw [solverCh_congr (State.resetRegs_half ..)]
    unfold solverCh State.solver State.setSolver
    rw [State.half_onHalf_same]
    dsimp only
    rw [List.getD_eq_getElem?_getD, List.getElem?_set]
    split
    · split <;> rfl
    · contradiction
  · rw [State.word_resetRegs_inside _ ⟨h1, h2⟩]
    exact State.regReset_congr (State.setSolver_image ..) (State.setSolver_sect ..) a

theorem chClrCnt_reads (s : State) (h : Half) (k : Nat) :
    (∀ i, i < 3 → (chClrCnt s h k).word (CH.addr h k + 8 + 4 * i) = 0) ∧ (chClrCnt s h k).mem = s.mem ∧
      (chClrCnt s h k).solver h = s.solver h ∧
      ∀ a, a < CH.addr h k + 8 ∨ CH.addr h k + 0x14 ≤ a → (chClrCnt s h k).word a = s.word a := by
  unfold chClrCnt
  refine ⟨fun i hi => ?_, rfl, ?_, fun a ha => ?_⟩
  · match i, hi with
    | 0, _ =>
      rw [State.word_setWordN_other _ _ (by omega), State.word_setWordN_other _ _ (by omega)]
      exact State.word_setWordN_same ..
    | 1, _ =>
      rw [State.word_setWordN_other _ _ (by omega)]
      exact State.word_setWordN_same ..
    | 2, _ => exact State.word_setWordN_same ..
  · unfold State.solver
    simp only [State.setWordN_half]
  · rw [State.word_setWordN_other _ _ (by omega), State.word_setWordN_other _ _ (by omega), State.word_setWordN_other _ _ (by omega)]

/-! Schedule loads (R160, R161). -/

/-- A slot whose load begins, before it is emptied. -/
def loadNoted (s : State) (h : Half) (sl c : Nat) : State :=
  let u := s.setSolver h { s.solver h with
    loads := (s.solver h).loads.filter (fun l => !(decide (l.1 = c) && decide (l.2.1 = sl))) ++
      [(c, sl, s.fld (SOLV.addr h) SOLV.LOAD_ADDR / 64 * 64)] }
  if u.fld (CH.addr h (16 + c)) CH.FACT_SLOT = sl then putFactor (u.setFld (CH.addr h (16 + c)) CH.FACT_VALID 0) h c none else u

theorem spLoad_unnamed {s : State} {h : Half} {sl c : Nat} (hn : slotNamed s h c sl = false) :
    spLoad s h sl c = (emptySlot (loadNoted s h sl c) h c sl 1).setFld (SOLV.addr h) SOLV.LOAD_RESULT 1 :=
  if_neg (by rw [hn]; decide)

theorem loadNoted_loads (s : State) (h : Half) (sl c : Nat) :
    (c, sl, s.fld (SOLV.addr h) SOLV.LOAD_ADDR / 64 * 64) ∈ ((loadNoted s h sl c).solver h).loads := by
  have noted : ∀ x : SolverUnit, (((s.setSolver h x).solver h).loads = x.loads) := fun x => by
    unfold State.solver State.setSolver
    rw [State.half_onHalf_same]
  unfold loadNoted
  dsimp only
  split
  · unfold putFactor
    rw [show ∀ (t : State) (x : SolverUnit), ((t.setSolver h x).solver h) = x from fun t x => by
      unfold State.solver State.setSolver
      rw [State.half_onHalf_same]]
    dsimp only
    unfold State.solver at noted ⊢
    rw [State.setFld_half, noted]
    exact List.mem_append_right _ (List.mem_singleton_self _)
  · rw [noted]
    exact List.mem_append_right _ (List.mem_singleton_self _)

/-- An emptied slot: its state register, and the units it leaves. -/
theorem emptySlot_reads (s : State) (h : Half) (c sl st : Nat) :
    (emptySlot s h c sl st).wordN (slotStateAddr h c sl) = st % 2 ^ 32 ∧ (emptySlot s h c sl st).half h = s.half h := by
  unfold emptySlot
  refine ⟨State.wordN_setWordN_same .., ?_⟩
  rw [State.setWordN_half]
  obtain ⟨-, -, hA, hB, -⟩ := setWords_rest (SOLV.addr h + 0x3000 + c * 0x200 + sl * 0x40) (List.replicate 16 0)
    { s with mem := storeClear s.mem (slotAddr h c sl) 262144 }
  exact State.half_congr hA hB h

theorem spLoad_reads {s : State} {h : Half} {sl c : Nat} (hc : c < 2) (hsl : sl < 8) (hn : slotNamed s h c sl = false) :
    slotState (spLoad s h sl c) h c sl = 1 ∧ (spLoad s h sl c).fld (SOLV.addr h) SOLV.LOAD_RESULT = 1 ∧
      (c, sl, s.fld (SOLV.addr h) SOLV.LOAD_ADDR / 64 * 64) ∈ ((spLoad s h sl c).solver h).loads := by
  obtain ⟨hst, hhalf⟩ := emptySlot_reads (loadNoted s h sl c) h c sl 1
  rw [spLoad_unnamed hn]
  refine ⟨?_, State.fld_setFld_eq _ _ (by decide), ?_⟩
  · unfold slotState State.wordN
    rw [State.word_setFld_other _ _ (show SOLV.LOAD_RESULT.hi < 32 by decide)]
    · exact hst
    · unfold slotStateAddr SOLV.LOAD_RESULT
      dsimp only
      omega
  · unfold State.solver
    rw [State.setFld_half, hhalf]
    exact loadNoted_loads s h sl c

theorem spLoadComplete_found {s : State} {h : Half} {c sl o : Nat}
    (hf : (s.solver h).loads.find? (fun l => decide (l.1 = c) && decide (l.2.1 = sl)) = some (c, sl, o)) :
    spLoadComplete s h c sl =
      let w := s.setSolver h { s.solver h with
        loads := (s.solver h).loads.filter (fun l => !(decide (l.1 = c) && decide (l.2.1 = sl))) }
      raiseEvt
        (if schedOk w (dramAddr h o) (0x80000000 - o) then
          (installSched w h c sl (dramAddr h o)).setFld (SOLV.addr h) SOLV.LOAD_RESULT 0
        else (emptySlot w h c sl 3).setFld (SOLV.addr h) SOLV.LOAD_RESULT 3) h 148 := by
  unfold spLoadComplete
  rw [hf]
  dsimp only
  rw [apply_ite (fun t => raiseEvt t h 148)]

theorem Bool.toNat_lt_two (c : Bool) : c.toNat < 2 := by cases c <;> decide

/-- Settles O43: each clause is one branch of the solver array's command. -/
theorem solverChannels : Obligations.SolverChannels := by
  unfold Obligations.SolverChannels
  intro via h port v k sl c s hr b off d n code q ref
  have submit : exec (.solverSubmit via port v) s = .next (solverSubmit s h port.val v.toNat) := next_reaches hr _ _ _
  have ctrl (w : Nat) := next_reaches hr (halfOff (CH.addr .a k.val) + 4) w (fun s h => chCtrl s h k.val w)
  have load : exec (.spLoad via sl c) s = .next (spLoad s h sl.val c.toNat) := next_reaches hr _ _ _
  refine ⟨fun hn hc => submit.trans ?_, fun hn hc hrun hq hk => ?_, fun hn hc i hrun hq _ => submit.trans ?_, fun hrun => ?_,
    fun i x hrun hx hb => ?_, fun x ho hs => sparseProblem_notResident ho hs, ?_, ?_, fun hn => load.trans ?_, fun hn => ?_,
    fun o hf => ?_⟩
  · have := submitCode_of_port (s := s) (v := v.toNat) hc
    exact congrArg Host.Outcome.next ((solverSubmit_code hn _ (by rw [this]; exact hc)).trans (by rw [this]))
  · have hn17 : n ≤ 17 := portCode_channel hc
    exact ⟨_, submit.trans (congrArg Host.Outcome.next (solverSubmit_placed hn _ (submitCode_room hc hq))),
      submitted_reads port.isLt (Nat.lt_succ_of_le hn17) hk⟩
  · have := submitCode_full (s := s) (v := v.toNat) hc hrun hq
    exact congrArg Host.Outcome.next ((solverSubmit_code hn _ (by rw [this]; decide)).trans (by rw [this]))
  · exact congrArg Host.Outcome.next (solverComplete_idle hrun)
  · exact congrArg Host.Outcome.next (solverComplete_last hrun hx hb)
  · exact ⟨_, ctrl 1, channelReset_reads s h k.val⟩
  · exact ⟨_, ctrl 2, chClrCnt_reads s h k.val⟩
  · exact congrArg Host.Outcome.next (if_pos hn)
  · exact ⟨_, load, spLoad_reads (Bool.toNat_lt_two c) sl.isLt hn⟩
  · exact congrArg Host.Outcome.next (spLoadComplete_found hf)


end Sys2Proof.Machine
end

section
/-! PROOFS. Boundary messages and membership of a cell group (R17, R179 to R181). -/
namespace Sys2Proof.Machine

theorem setGov_gov_same (s : State) (h : Half) (g : GovUnit) : (s.setGov h g).gov h = g := by
  unfold State.gov State.setGov
  rw [State.half_onHalf_same]

/-! A boundary-message part (R17, R181). -/

theorem boundaryReceive_noGroup {s : State} (h : Half) (src : Word) (b : List Byte) (hg : s.cfg.govGroup = none) :
    boundaryReceive s h src b = s := by
  unfold boundaryReceive
  rw [hg]

theorem boundaryReceive_noPart {s : State} {grp : Nat} (h : Half) (src : Word) {b : List Byte} (hg : s.cfg.govGroup = some grp)
    (hp : parsePart grp b = none) : boundaryReceive s h src b = s := by
  unfold boundaryReceive
  dsimp only
  rw [hg]
  dsimp only
  rw [hp]

theorem boundaryReceive_part {s : State} {grp : Nat} {x : BPart} (h : Half) (src : Word) {b : List Byte}
    (hg : s.cfg.govGroup = some grp) (hp : parsePart grp b = some x) :
    boundaryReceive s h src b =
      if s.activeHalf ≠ some h ∨ (s.gov h).withdrawn then s
      else if x.num = ownNum s then withdraw (raiseBoth (faultLog s 10 none none (some src.toNat)) 10) h
      else if (s.gov h).peers.any (fun p => decide (p.num = x.num)) then
        s.setGov h { s.gov h with peers := (s.gov h).peers.map (fun p => if p.num = x.num then p.take x b else p) }
      else if 8 ≤ (s.gov h).peers.length then s
      else s.setGov h { s.gov h with peers := (s.gov h).peers ++ [({ num := x.num, tick := 0, count := 0, parts := [], msg := none,
                                                                     silent := false } : Peer).take x b] } := by
  unfold boundaryReceive
  dsimp only
  rw [hg]
  dsimp only
  rw [hp]

/-- A part's index is below its count. -/
theorem parsePart_part_lt {grp : Nat} {b : List Byte} {x : BPart} (hp : parsePart grp b = some x) : x.part < x.count := by
  unfold parsePart at hp
  dsimp only at hp
  split_ifs at hp with h1 h2 h3
  obtain rfl := Option.some.inj hp
  dsimp only
  omega

/-- A cell heard for the first time. -/
def newPeer (num : Nat) : Peer := { num := num, tick := 0, count := 0, parts := [], msg := none, silent := false }

theorem newPeer_take_num (x : BPart) (b : List Byte) : ((newPeer x.num).take x b).num = x.num := by
  unfold Peer.take newPeer
  dsimp only
  split_ifs <;> rfl

/-- A message of one part is complete with it. -/
theorem newPeer_take_single {x : BPart} (hc : x.count = 1) (hp : x.part < x.count) (b : List Byte) :
    ((newPeer x.num).take x b).msg = some (messageOf [b]) := by
  have h0 : x.part = 0 := by omega
  have hn : ¬((0 : Nat) = x.tick ∧ (0 : Nat) = 1) := by omega
  unfold Peer.take newPeer
  simp only [Bool.false_eq_true, false_or, Nat.not_lt_zero, if_false, if_neg hn, List.any_nil, List.nil_append, List.length_singleton,
    hc, lt_irrefl, h0]
  rfl

/-! Members (R179, R180). -/

theorem peerFresh_of_msg {s : State} {h : Half} {p : Peer} {m : PeerMsg} (hm : p.msg = some m) :
    peerFresh s h p = decide (msgAge s h m ≤ quarterH s h) := by
  unfold peerFresh
  rw [hm]

theorem peerSilent_fresh {s : State} {h : Half} {i : Nat} {p : Peer} (hp : (s.gov h).peers[i]? = some p)
    (hf : peerFresh s h p = true) : peerSilent s h i = s := by
  unfold peerSilent
  dsimp only
  rw [hp]
  exact if_pos (Or.inr (Or.inl hf))

theorem peerSilent_old {s : State} {h : Half} {i : Nat} {p : Peer} {m : PeerMsg} (hp : (s.gov h).peers[i]? = some p)
    (hm : p.msg = some m) (hs : p.silent = false) (hl : p.num ∈ (s.gov h).members) (hf : peerFresh s h p = false) :
    peerSilent s h i = raiseEvt (showPeers ((s.setGov h { s.gov h with
      peers := (s.gov h).peers.set i { p with silent := true } }).setFlag (GOV.addr h) GOV.PEER_SILENT) h) h 109 := by
  have hc : (s.gov h).members.contains p.num = true := List.contains_iff_mem.mpr hl
  unfold peerSilent
  dsimp only
  rw [hp]
  exact if_neg (by rw [hs, hf, hc, hm]; rintro (h1 | h1 | h1 | h1) <;> cases h1)

theorem govCmd_drop (s : State) (h : Half) (num : BitVec 10) : govCmd s h (1 + num.toNat * 2 ^ 16) = govDrop s h num.toNat := by
  have hlt := num.isLt
  have h0 : bitOf (1 + num.toNat * 2 ^ 16) 0 = true := by
    unfold bitOf
    simp only [decide_eq_true_eq]
    omega
  have h1 : bitOf (1 + num.toNat * 2 ^ 16) 1 = false := by
    unfold bitOf
    simp only [decide_eq_false_iff_not]
    omega
  have hn : bitsOf (1 + num.toNat * 2 ^ 16) 25 16 = num.toNat := by
    unfold bitsOf
    omega
  unfold govCmd
  simp only [h0, h1, hn, if_true, Bool.false_eq_true, if_false]

theorem govCmd_clrCnt (s : State) (h : Half) : govCmd s h 2 = govClrCnt s h := by
  have hb : bitOf 2 0 = false ∧ bitOf 2 1 = true := by decide
  obtain ⟨h0, h1⟩ := hb
  unfold govCmd
  simp only [h0, h1, if_true, Bool.false_eq_true, if_false]

theorem any_silent {l : List Peer} {num : Nat} :
    l.any (fun p => decide (p.num = num) && p.silent) = true ↔ ∃ p ∈ l, p.num = num ∧ p.silent = true := by
  simp only [List.any_eq_true, Bool.and_eq_true, decide_eq_true_eq]

/-- Settles O44: each clause is one branch of the group's command. -/
theorem groupCommands : Obligations.GroupCommands := by
  unfold Obligations.GroupCommands
  intro via h src b i num s hr g a drop
  have dropRun : drop = .next (govDrop s h num.toNat) :=
    (next_reaches hr _ _ (fun s h => govCmd s h (1 + num.toNat * 2 ^ 16))).trans (congrArg _ (govCmd_drop ..))
  have clear : exec (.govClrCnt via) s = .next (govClrCnt s h) :=
    (next_reaches hr _ _ (fun s h => govCmd s h 2)).trans (congrArg _ (govCmd_clrCnt ..))
  refine ⟨fun hg => congrArg Host.Outcome.next (boundaryReceive_noGroup h src b hg), fun grp hg => ⟨fun hp =>
    congrArg Host.Outcome.next (boundaryReceive_noPart h src hg hp), fun x hp ha hw => ?_, fun x hp hn => ?_⟩,
    fun p m hp hm hs hl => ⟨fun hlt => ?_, fun hle => ?_⟩, fun ha hf hk => ?_, fun hn => ?_, fun hrole hp => ?_, fun hn => ?_, ?_⟩
  · have run := (boundaryReceive_part h src hg hp).trans (if_neg (by rw [ha]; exact not_or.mpr ⟨not_not.mpr rfl, by rw [hw]; decide⟩))
    refine ⟨fun ho => congrArg Host.Outcome.next (run.trans (if_pos ho)), fun ho hnew hroom =>
      ⟨_, (newPeer x.num).take x b, congrArg Host.Outcome.next (run.trans ((if_neg ho).trans ((if_neg ?_).trans
        (if_neg (not_le.mpr hroom))))), setGov_gov_same .., newPeer_take_num x b,
        fun hc => newPeer_take_single hc (parsePart_part_lt hp) b, ?_, ?_⟩⟩
    · rw [List.any_eq_true]
      rintro ⟨p, hp, hd⟩
      exact hnew p hp (of_decide_eq_true hd)
    · cases h <;> rfl
    · cases h <;> rfl
  · exact congrArg Host.Outcome.next ((boundaryReceive_part h src hg hp).trans (if_pos hn))
  · exact congrArg Host.Outcome.next (peerSilent_old hp hm hs hl ((peerFresh_of_msg hm).trans (decide_eq_false (not_le.mpr hlt))))
  · exact congrArg Host.Outcome.next (peerSilent_fresh hp ((peerFresh_of_msg hm).trans (decide_eq_true hle)))
  · refine congrArg Host.Outcome.next (if_neg ?_)
    rintro (h1 | h1 | h1)
    · exact Bool.false_ne_true (ha.symm.trans h1)
    · exact Bool.false_ne_true (hf.symm.trans h1)
    · exact absurd hk (not_le.mpr h1)
  · exact congrArg Host.Outcome.next (if_pos (hn.imp_right Or.inr))
  · exact dropRun.trans (congrArg Host.Outcome.next (if_pos ⟨hrole, any_silent.mpr hp⟩))
  · refine dropRun.trans (congrArg Host.Outcome.next (if_neg fun hc => ?_))
    obtain ⟨p, hp, hnum, hsil⟩ := any_silent.mp hc.2
    rcases hn with hrole | hall
    · exact hrole hc.1
    · exact Bool.false_ne_true ((hall p hp hnum).symm.trans hsil)
  · refine ⟨_, clear, ?_, State.word_setWordN_same .., rfl, ?_, fun x h1 h2 => ?_⟩
    · exact (State.word_setWordN_other _ _ (by omega)).trans (State.word_setWordN_same ..)
    · unfold State.gov govClrCnt
      simp only [State.setWordN_half]
      rfl
    · exact (State.word_setWordN_other _ _ h2).trans (State.word_setWordN_other _ _ h1)

end Sys2Proof.Machine
end

section
/-! PROOFS. CAN channels: transmit buffers (R380 to R384). -/
namespace Sys2Proof.Machine

/-! A channel and the registers of its blocks. -/

theorem can_setCan_same {s : State} {h : Half} {c : Nat} (x : CanCh) (hc : c < (s.half h).can.length) :
    (s.setCan h c x).can h c = x := by
  unfold State.can State.setCan
  rw [State.half_onHalf_same]
  exact unitAt_set_same _ _ _ hc

theorem can_congr {s t : State} {h : Half} (e : t.half h = s.half h) (c : Nat) : t.can h c = s.can h c := by
  unfold State.can
  rw [e]

/-- A field of one block reads as before after a write of a field that lies apart from it. -/
theorem State.fld_setFld_of_outside (s : State) {b c : Nat} {f g : Fld} (v : Nat)
    (h : c + g.off + g.span ≤ b + f.off ∨ b + f.off + f.span ≤ c + g.off) : (s.setFld b f v).fld c g = s.fld c g :=
  State.fld_of_words fun a h1 h2 => State.word_setFld_outside _ _ (by omega)

/-- A channel's registers lie below its transmit buffers. -/
theorem can_fld_setFld_txb (s : State) (h : Half) (c b : Nat) {f g : Fld} (v : Nat) (hg : g.off + g.span ≤ 0x100) :
    (s.setFld (TXB.addr h c b) f v).fld (CAN.addr h c) g = s.fld (CAN.addr h c) g := by
  refine State.fld_setFld_of_outside _ _ (Or.inl ?_)
  unfold CAN.addr TXB.addr
  omega

theorem txb_fld_setFld_can (s : State) (h : Half) (c b : Nat) {f g : Fld} (v : Nat) (hf : f.off + f.span ≤ 0x100) :
    (s.setFld (CAN.addr h c) f v).fld (TXB.addr h c b) g = s.fld (TXB.addr h c b) g := by
  refine State.fld_setFld_of_outside _ _ (Or.inr ?_)
  unfold CAN.addr TXB.addr
  omega

/-! Requests and aborts (R380, R383). -/

/-- The control word a request writes. -/
theorem txCtrl_word (v : Word) :
    setBits 0 7 0 (bitsOf (v.toNat ||| 256) 7 0) = v.toNat % 256 ∧ bitOf (v.toNat ||| 256) 8 = true ∧
      bitOf (v.toNat ||| 256) 9 = bitOf v.toNat 9 := by
  have hlow : (v.toNat ||| 256) % 256 = v.toNat % 256 := by
    rw [show (256 : Nat) = 2 ^ 8 from rfl, Nat.or_mod_two_pow]
    simp
  have hbit (i : Nat) : bitOf (v.toNat ||| 256) i = (v.toNat ||| 256).testBit i := by
    unfold bitOf
    rw [Nat.testBit_eq_decide_div_mod_eq]
  refine ⟨?_, ?_, ?_⟩
  · unfold setBits bitsOf
    simp only [pow_zero, Nat.div_one, Nat.zero_mod]
    omega
  · rw [hbit, Nat.testBit_or]
    exact Bool.or_true _
  · rw [hbit, Nat.testBit_or, show (256 : Nat).testBit 9 = false by decide, Bool.or_false]
    unfold bitOf
    rw [Nat.testBit_eq_decide_div_mod_eq]

/-- A buffer whose control word has been written. -/
def txPut (s : State) (h : Half) (c b : Nat) (v : Word) : State := s.setWordN (TXB.addr h c b + 4) (v.toNat % 256)

/-- A buffer whose request has been taken. -/
def txRequested (s : State) (h : Half) (c b : Nat) (v : Word) : State :=
  ((((txPut s h c b v).setCan h c { s.can h c with reqAt := (s.can h c).reqAt.set b s.tb0,
                                                   abortReq := (s.can h c).abortReq.set b false }).setFld (TXB.addr h c b) TXB.REQ 1).setFld
    (TXB.addr h c b) TXB.PENDING 1).setFld (TXB.addr h c b) TXB.PENDING_AT_BUSOFF 0

theorem txCtrl_pending {s : State} {h : Half} {c b : Nat} {v : Word} (hp : s.flag (TXB.addr h c b) TXB.PENDING = true)
    (hv : bitOf v.toNat 9 = false) : txCtrl s h c b (v.toNat ||| 256) false = s.setFld (CAN.addr h c) CAN.PARAM_ERR 1 := by
  obtain ⟨-, -, h9⟩ := txCtrl_word v
  exact (if_pos hp).trans (if_neg (by rw [h9, hv]; decide))

theorem txPut_mode (s : State) (h : Half) (c b : Nat) (v : Word) : canMode (txPut s h c b v) h c = canMode s h c := by
  refine State.fld_of_words fun a h1 h2 => State.word_setWordN_other _ _ ?_
  have : CAN.MODE_REQ.off + CAN.MODE_REQ.span = 4 := by decide
  unfold CAN.addr at h2
  unfold TXB.addr
  omega

theorem txCtrl_idle {s : State} {h : Half} {c b : Nat} (v : Word) (hp : s.flag (TXB.addr h c b) TXB.PENDING = false) :
    txCtrl s h c b (v.toNat ||| 256) false =
      if canMode s h c = 2 then (txPut s h c b v).setFlag (CAN.addr h c) CAN.PARAM_ERR
      else if txPast (txRequested s h c b v) h c b then canEvent (txEnd (txRequested s h c b v) h c b TXB.DL_ABORT) h c 2
      else txRequested s h c b v := by
  obtain ⟨hw, h8, -⟩ := txCtrl_word v
  have hcan : (s.setWordN (TXB.addr h c b + 4) (v.toNat % 256)).can h c = s.can h c := can_congr (State.setWordN_half ..) c
  unfold txCtrl
  dsimp only
  rw [if_neg (by exact Bool.eq_false_iff.mp hp), hw, h8, hcan, if_neg (by decide)]
  exact if_congr (by rw [← txPut_mode s h c b v]; exact Iff.rfl) rfl rfl

theorem txAbort_idle {s : State} {h : Half} {c b : Nat} (hp : s.flag (TXB.addr h c b) TXB.PENDING = false) (x : Bool) :
    txAbort s h c b x = s :=
  if_pos (by unfold txPending; rw [hp]; rfl)

theorem txAbort_pending {s : State} {h : Half} {c b : Nat} (hp : s.flag (TXB.addr h c b) TXB.PENDING = true) (x : Bool) :
    txAbort s h c b x =
      if x then s.setCan h c { s.can h c with abortReq := (s.can h c).abortReq.set b true } else txEnd s h c b TXB.ABORTED :=
  if_neg (by unfold txPending; rw [hp]; decide)

/-! Attempts (R381 to R384). -/

theorem confine_low {s : State} {h : Half} {c : Nat} (hst : canState s h c = 2) (ht : s.fld (CAN.addr h c) CAN.TEC < 96)
    (hr : s.fld (CAN.addr h c) CAN.REC < 96) : confine s h c = s.putFlag (CAN.addr h c) CAN.EWARN false := by
  have hst' : canState (s.putFlag (CAN.addr h c) CAN.EWARN false) h c = 2 :=
    (State.fld_putFlag_of_apart _ _ (by decide)).trans hst
  unfold confine
  dsimp only
  rw [decide_eq_false (by omega), hst', if_neg (by decide), if_neg (by omega)]
  exact if_pos (if_neg (by omega))

/-- A buffer whose frame has been sent: its end, its stamp and the count. -/
def txSent (s : State) (h : Half) (c b sof : Nat) : State :=
  ((txEnd s h c b TXB.DONE).setFld (TXB.addr h c b) TXB.TX_STAMP sof).count (CAN.addr h c) CAN.TX_OK

/-- A field of the channel's own registers reads as before after the end of a buffer. -/
theorem txEnd_can_fld (s : State) (h : Half) (c b : Nat) (f : Fld) {g : Fld} (hg : g.off + g.span ≤ 0x100) :
    (txEnd s h c b f).fld (CAN.addr h c) g = s.fld (CAN.addr h c) g := by
  unfold txEnd State.setFlag
  dsimp only
  rw [can_fld_setFld_txb _ _ _ _ _ hg, can_fld_setFld_txb _ _ _ _ _ hg, can_fld_setFld_txb _ _ _ _ _ hg]
  exact State.onHalf_fld ..

theorem txSent_can_fld (s : State) (h : Half) (c b sof : Nat) {g : Fld} (hg : g.off + g.span ≤ 0x100)
    (ha : CAN.TX_OK.apart g = true) : (txSent s h c b sof).fld (CAN.addr h c) g = s.fld (CAN.addr h c) g := by
  unfold txSent
  rw [State.fld_count_of_apart _ ha, can_fld_setFld_txb _ _ _ _ _ hg, txEnd_can_fld _ _ _ _ _ hg]

theorem txSent_reads (s : State) (h : Half) (c b sof : Nat) :
    let w := txSent s h c b sof
    let t := TXB.addr h c b
    w.fld t TXB.PENDING = 0 ∧ w.fld t TXB.DONE = 1 ∧ w.fld t TXB.TX_STAMP = sof % 2 ^ 32 ∧
      w.fld (CAN.addr h c) CAN.TX_OK = Nat.min 65535 (s.fld (CAN.addr h c) CAN.TX_OK + 1) ∧ w.mem = s.mem := by
  intro w t
  unfold w txSent
  refine ⟨?_, ?_, ?_, ?_, ?_⟩
  · unfold State.count State.countBy
    rw [txb_fld_setFld_can _ _ _ _ _ (by decide)]
    unfold txEnd State.setFlag
    simp (disch := decide) only [State.fld_setFld_of_apart, State.fld_setFld_eq, Nat.zero_mod]
  · unfold State.count State.countBy
    rw [txb_fld_setFld_can _ _ _ _ _ (by decide)]
    unfold txEnd State.setFlag
    simp (disch := decide) only [State.fld_setFld_of_apart, State.fld_setFld_eq]
    rfl
  · unfold State.count State.countBy
    rw [txb_fld_setFld_can _ _ _ _ _ (by decide)]
    exact State.fld_setFld_eq _ _ (by decide)
  · rw [State.fld_count_eq _ (by decide), can_fld_setFld_txb _ _ _ _ _ (by decide), txEnd_can_fld _ _ _ _ _ (by decide)]
    exact Nat.min_comm _ _
  · unfold txEnd
    simp only [State.count_mem, State.setFld_mem, State.setFlag_mem, State.setCan_mem]

/-- The channel's registers after a frame has been sent by a channel with low counters. -/
def txSettled (u : State) (h : Half) (c tec rec_ : Nat) : State :=
  (((((u.setFld (CAN.addr h c) CAN.TEC tec).setFld (CAN.addr h c) CAN.REC rec_).putFlag (CAN.addr h c) CAN.EWARN false).setCan h c
    { u.can h c with ackRun := 0 }).putFlag (CAN.addr h c) CAN.ALONE false)

theorem clearAlone_setErr_low {u : State} {h : Half} {c tec rec_ : Nat} (hst : canState u h c = 2) (ht : tec < 96) (hr : rec_ < 96) :
    clearAlone (setErr u h c tec rec_) h c = txSettled u h c tec rec_ := by
  have hlow : setErr u h c tec rec_ =
      ((u.setFld (CAN.addr h c) CAN.TEC tec).setFld (CAN.addr h c) CAN.REC rec_).putFlag (CAN.addr h c) CAN.EWARN false := by
    have h1 : Nat.min tec 511 = tec := Nat.min_eq_left (by omega)
    have h2 : Nat.min rec_ 255 = rec_ := Nat.min_eq_left (by omega)
    unfold setErr
    rw [h1, h2]
    refine confine_low ?_ ?_ ?_
    · exact ((State.fld_setFld_of_apart _ _ (by decide)).trans (State.fld_setFld_of_apart _ _ (by decide))).trans hst
    · rw [State.fld_setFld_of_apart _ _ (by decide), State.fld_setFld_eq _ _ (by decide)]
      exact lt_of_le_of_lt (Nat.mod_le _ _) ht
    · rw [State.fld_setFld_eq _ _ (by decide)]
      exact lt_of_le_of_lt (Nat.mod_le _ _) hr
  have hcan : (((u.setFld (CAN.addr h c) CAN.TEC tec).setFld (CAN.addr h c) CAN.REC rec_).putFlag (CAN.addr h c) CAN.EWARN false).can h c =
      u.can h c := can_congr (by simp only [State.putFlag_half, State.setFld_half]) c
  unfold clearAlone txSettled
  rw [hlow, hcan]

theorem txSettled_reads (u : State) (h : Half) (c b tec rec_ : Nat) (ht : tec < 96) (hr : rec_ < 96) :
    let w := txSettled u h c tec rec_
    (∀ g, w.fld (TXB.addr h c b) g = u.fld (TXB.addr h c b) g) ∧
      w.fld (CAN.addr h c) CAN.TX_OK = u.fld (CAN.addr h c) CAN.TX_OK ∧ w.fld (CAN.addr h c) CAN.TEC = tec ∧
      w.fld (CAN.addr h c) CAN.REC = rec_ ∧ (w.can h c).ackRun = 0 ∧ w.mem = u.mem := by
  intro w
  unfold w txSettled State.setCan
  refine ⟨fun g => ?_, ?_, ?_, ?_, ?_, ?_⟩
  · simp (disch := decide) only [State.putFlag, txb_fld_setFld_can, State.onHalf_fld]
  · simp (disch := decide) only [State.fld_putFlag_of_apart, State.fld_setFld_of_apart, State.onHalf_fld]
  · simp (disch := decide) only [State.fld_putFlag_of_apart, State.fld_setFld_of_apart, State.onHalf_fld, State.fld_setFld_eq]
    exact Nat.mod_eq_of_lt (lt_trans ht (by decide))
  · simp (disch := decide) only [State.fld_putFlag_of_apart, State.onHalf_fld, State.fld_setFld_eq]
    exact Nat.mod_eq_of_lt (lt_trans hr (by decide))
  · rw [can_congr (State.putFlag_half ..)]
    unfold State.can
    rw [State.half_onHalf_same]
    dsimp only
    unfold unitAt
    rw [List.getD_eq_getElem?_getD, List.getElem?_set]
    split
    · split <;> rfl
    · contradiction
  · simp only [State.putFlag_mem, State.onHalf_mem, State.setFld_mem]

theorem txAttemptEnd_not_chosen {s : State} {h : Half} {c b sof : Nat} (hc : txChosen s h c sof ≠ some b) (e : CanEnd) :
    txAttemptEnd s h c b sof e = s :=
  if_pos (Or.inr (Or.inr (Or.inr (Or.inl hc))))

section
variable {s : State} {h : Half} {c b sof : Nat} (hon : canFrameOn s h c sof = true) (hm : canMode s h c = 1 ∨ canMode s h c = 4)
  (hc : txChosen s h c sof = some b) (hd : s.flag (TXB.addr h c b) TXB.DL_EN = false)
include hon hm hc hd

/-- The attempt of the chosen buffer counts. -/
theorem txAttempt_counts : ¬((!canFrameOn s h c sof) = true ∨ canMode s h c = 2 ∨ canMode s h c = 3 ∨ txChosen s h c sof ≠ some b ∨
    (s.flag (TXB.addr h c b) TXB.DL_EN && serialAfter (sof % 2 ^ 32) (s.fld (TXB.addr h c b) TXB.DEADLINE)) = true) := by
  rw [hon, hc, hd]
  rintro (h1 | h1 | h1 | h1 | h1)
  · exact Bool.false_ne_true h1
  · omega
  · omega
  · exact h1 rfl
  · exact Bool.false_ne_true h1

theorem txAttemptEnd_failed {e : CanEnd} (he : e ≠ .sent) :
    txAttemptEnd s h c b sof e =
      if (s.can h c).abortReq.getD b false then txEnd s h c b TXB.ABORTED
      else if s.flag (TXB.addr h c b) TXB.SINGLE then txEnd s h c b TXB.SINGLE_FAIL
      else s := by
  have counts := txAttempt_counts hon hm hc hd
  have past : txPast s h c b = false := by
    unfold txPast
    dsimp only
    rw [hd]
    rfl
  have run : txAttemptEnd s h c b sof e =
      if (s.can h c).abortReq.getD b false then txEnd s h c b TXB.ABORTED
      else if s.flag (TXB.addr h c b) TXB.SINGLE then txEnd s h c b TXB.SINGLE_FAIL
      else if txPast s h c b then canEvent (txEnd s h c b TXB.DL_ABORT) h c 2
      else s := by
    cases e with
    | sent => exact absurd rfl he
    | _ => exact if_neg counts
  rw [run, past]
  rfl

theorem txAttemptEnd_sent (hself : s.flag (CAN.addr h c) CAN.SELF_RX = false) :
    txAttemptEnd s h c b sof .sent =
      canEvent (clearAlone (setErr (txSent s h c b sof) h c ((txSent s h c b sof).fld (CAN.addr h c) CAN.TEC - 1)
        ((txSent s h c b sof).fld (CAN.addr h c) CAN.REC)) h c) h c 1 := by
  have counts := txAttempt_counts hon hm hc hd
  exact (if_neg counts).trans (if_neg (by rw [hself]; decide))

end

/-- Settles O45: each clause is one branch of the buffer's command; a frame that is sent with low counters leaves the channel
error active. -/
theorem canTransmit : Obligations.CanTransmit := by
  unfold Obligations.CanTransmit
  intro via h c b v sof s hr a t u ends dlEnd put requested pend
  have request : exec (.txRequest via c b v) s = .next (txCtrl s h c.val b.val (v.toNat ||| 256) false) := next_reaches hr _ _ _
  have abort (x : Bool) : exec (.txAbort via c b x) s = .next (txAbort s h c.val b.val x) := next_reaches hr _ _ _
  refine ⟨fun hp hv => request.trans ?_, fun hp hm => request.trans ?_, fun hp hm => ⟨fun hpast => request.trans ?_, fun hpast =>
    request.trans ?_⟩, fun x hp => (abort x).trans ?_, fun hp => (abort false).trans ?_, fun hp => (abort true).trans ?_,
    fun hp hd => ⟨fun hs => ?_, fun hs => ?_⟩, fun hd => ?_, fun hon hm hc hd => ⟨fun hself hst ht hrec => ?_, fun e he =>
    ⟨fun ha => ?_, fun ha hs => ?_, fun ha hs => ?_⟩⟩, fun hc e => ?_⟩
  · exact congrArg Host.Outcome.next (txCtrl_pending hp hv)
  · exact congrArg Host.Outcome.next ((txCtrl_idle v hp).trans (if_pos hm))
  · exact congrArg Host.Outcome.next ((txCtrl_idle v hp).trans ((if_neg hm).trans (if_pos hpast)))
  · exact congrArg Host.Outcome.next ((txCtrl_idle v hp).trans ((if_neg hm).trans (if_neg (Bool.eq_false_iff.mp hpast))))
  · exact congrArg Host.Outcome.next (txAbort_idle hp x)
  · exact congrArg Host.Outcome.next ((txAbort_pending hp false).trans (if_neg Bool.false_ne_true))
  · exact congrArg Host.Outcome.next ((txAbort_pending hp true).trans (if_pos rfl))
  · exact congrArg Host.Outcome.next (if_pos (Bool.and_eq_true_iff.mpr ⟨hp, Bool.and_eq_true_iff.mpr ⟨hd, hs⟩⟩))
  · refine congrArg Host.Outcome.next (if_neg fun hx => ?_)
    exact Bool.false_ne_true (hs.symm.trans (Bool.and_eq_true_iff.mp (Bool.and_eq_true_iff.mp hx).2).2)
  · refine congrArg Host.Outcome.next (if_neg fun hx => ?_)
    exact Bool.false_ne_true (hd.symm.trans (Bool.and_eq_true_iff.mp (Bool.and_eq_true_iff.mp hx).2).1)
  · obtain ⟨hpend, hdone, hstamp, hok, hmem⟩ := txSent_reads s h c.val b.val sof
    have htec := txSent_can_fld s h c.val b.val sof (g := CAN.TEC) (by decide) (by decide)
    have hrec' := txSent_can_fld s h c.val b.val sof (g := CAN.REC) (by decide) (by decide)
    have hst' : canState (txSent s h c.val b.val sof) h c.val = 2 := (txSent_can_fld s h c.val b.val sof (by decide) (by decide)).trans hst
    have ht1 : s.fld a CAN.TEC - 1 < 96 := by omega
    have hr1 : s.fld a CAN.REC < 96 := by omega
    have run := txAttemptEnd_sent hon hm hc hd hself
    rw [htec, hrec', clearAlone_setErr_low hst' ht1 hr1] at run
    obtain ⟨wt, wok, wtec, wrec, wack, wmem⟩ := txSettled_reads (txSent s h c.val b.val sof) h c.val b.val
      (s.fld a CAN.TEC - 1) (s.fld a CAN.REC) ht1 hr1
    exact ⟨_, congrArg Host.Outcome.next run, (wt _).trans hpend, (wt _).trans hdone, (wt _).trans hstamp, wok.trans hok, wtec, wrec,
      wack, wmem.trans hmem⟩
  · exact congrArg Host.Outcome.next ((txAttemptEnd_failed hon hm hc hd he).trans (if_pos ha))
  · exact congrArg Host.Outcome.next ((txAttemptEnd_failed hon hm hc hd he).trans ((if_neg (Bool.eq_false_iff.mp ha)).trans (if_pos hs)))
  · exact congrArg Host.Outcome.next ((txAttemptEnd_failed hon hm hc hd he).trans ((if_neg (Bool.eq_false_iff.mp ha)).trans
      (if_neg (Bool.eq_false_iff.mp hs))))
  · exact congrArg Host.Outcome.next (txAttemptEnd_not_chosen hc e)

end Sys2Proof.Machine
end

section
/-! PROOFS. CAN channels: receive, mailboxes and the compatibility queue (R385 to R388). -/
namespace Sys2Proof.Machine

/-! An accepted frame (R385 to R388). -/

/-- A channel that has heard a valid frame. -/
def canHeard (s : State) (h : Half) (c : Nat) : State :=
  ((s.count (CAN.addr h c) CAN.RX_OK).setCan h c { s.can h c with ackRun := 0 }).setFld (CAN.addr h c) CAN.ALONE 0

theorem canReceive_off {s : State} {h : Half} {c stamp : Nat} (x : CanFrame) (ho : canFrameOn s h c stamp = false) :
    canReceive s h c x stamp = s :=
  if_pos (Or.inl (by rw [ho]; rfl))

theorem canReceive_on {s : State} {h : Half} {c stamp : Nat} {x : CanFrame} (ho : canFrameOn s h c stamp = true)
    (hm : canMode s h c ≠ 4) (hf : x.fdf = false) (hr : s.fld (CAN.addr h c) CAN.REC = 0) :
    canReceive s h c x stamp = canAccept (canHeard s h c) h c x stamp := by
  have hrec : recGood (s.count (CAN.addr h c) CAN.RX_OK) h c = s.count (CAN.addr h c) CAN.RX_OK :=
    if_pos ((State.fld_count_of_apart _ (by decide)).trans hr)
  have hcan : (s.count (CAN.addr h c) CAN.RX_OK).can h c = s.can h c := can_congr (State.count_half ..) c
  have hclear : clearAlone (s.count (CAN.addr h c) CAN.RX_OK) h c = canHeard s h c := by
    unfold clearAlone canHeard
    rw [hcan]
    rfl
  unfold canReceive
  rw [if_neg (by
    rw [ho, hf]
    rintro (h1 | h1 | h1)
    · exact Bool.false_ne_true h1
    · exact hm h1
    · exact Bool.false_ne_true h1.1), hrec, hclear]

/-- The registers of a channel that lie apart from the counter and ALONE read as before. -/
theorem canHeard_fld (s : State) (h : Half) (c : Nat) {g : Fld} (h1 : CAN.RX_OK.apart g = true) (h2 : CAN.ALONE.apart g = true) :
    (canHeard s h c).fld (CAN.addr h c) g = s.fld (CAN.addr h c) g := by
  unfold canHeard State.setCan
  rw [State.fld_setFld_of_apart _ _ h2, State.onHalf_fld, State.fld_count_of_apart _ h1]

theorem canHeard_flag (s : State) (h : Half) (c : Nat) {g : Fld} (h1 : CAN.RX_OK.apart g = true) (h2 : CAN.ALONE.apart g = true) :
    (canHeard s h c).flag (CAN.addr h c) g = s.flag (CAN.addr h c) g :=
  State.flag_of_fld (canHeard_fld s h c h1 h2)

/-- A mailbox lies behind the channel's own registers. -/
theorem canHeard_mb (s : State) (h : Half) (c m : Nat) (g : Fld) :
    (canHeard s h c).flag (MB.addr h c m) g = s.flag (MB.addr h c m) g := by
  have apart (u : State) {f : Fld} (v : Nat) (hf : f.off + f.span ≤ 0x400) :
      (u.setFld (CAN.addr h c) f v).fld (MB.addr h c m) g = u.fld (MB.addr h c m) g := by
    refine State.fld_setFld_of_outside _ _ (Or.inr ?_)
    unfold CAN.addr MB.addr
    omega
  refine State.flag_of_fld ?_
  unfold canHeard State.setCan State.count State.countBy
  rw [apart _ _ (by decide), State.onHalf_fld, apart _ _ (by decide)]

theorem canAccept_none {s : State} {h : Half} {c stamp : Nat} {x : CanFrame} (hn : ∀ j, j < 32 → fltAccepts s h c j x = false) :
    canAccept s h c x stamp = s.count (CAN.addr h c) CAN.NO_MATCH := by
  have hf : (List.range 32).find? (fun f => fltAccepts s h c f x) = none :=
    List.find?_eq_none.mpr fun j hj => Bool.eq_false_iff.mp (hn j (List.mem_range.mp hj))
  unfold canAccept
  rw [hf]

theorem canAccept_some {s : State} {h : Half} {c m stamp : Nat} {x : CanFrame}
    (hf : (List.range 32).find? (fun f => fltAccepts s h c f x) = some m) :
    canAccept s h c x stamp =
      if s.flag (CAN.addr h c) CAN.RX_MODE then queueTake s h c x stamp else mailboxTake s h c m x stamp := by
  unfold canAccept
  rw [hf]

theorem mailboxTake_open {s : State} {h : Half} {c m : Nat} (hl : s.flag (MB.addr h c m) MB.LOCKED = false) (x : CanFrame) (stamp : Nat) :
    mailboxTake s h c m x stamp =
      if s.flag (MB.addr h c m) MB.FULL then
        setFull (storeFrame (s.count (CAN.addr h c) CAN.LOST) (MB.addr h c m) x stamp 0) h c m true
      else canEvent (setFull (storeFrame s (MB.addr h c m) x stamp 0) h c m true) h c 0 :=
  if_neg (Bool.eq_false_iff.mp hl)

theorem mailboxTake_locked {s : State} {h : Half} {c m : Nat} (hl : s.flag (MB.addr h c m) MB.LOCKED = true)
    (ho : s.flag (MB.addr h c m) MB.OVF_HELD = false) (x : CanFrame) (stamp : Nat) :
    mailboxTake s h c m x stamp =
      canEvent ((s.setCan h c { s.can h c with ovf := (s.can h c).ovf.set m (some x), ovfAt := (s.can h c).ovfAt.set m stamp }).setFlag
        (MB.addr h c m) MB.OVF_HELD) h c 6 := by
  unfold mailboxTake
  dsimp only
  rw [if_pos hl, ho]
  rfl

theorem queueTake_owned {s : State} {h : Half} {c w : Nat} (hw : s.fld (CAN.addr h c) CAN.CQ_WR = w)
    (ho : bitOf (s.can h c).owned w = true) (x : CanFrame) (stamp : Nat) :
    queueTake s h c x stamp = canEvent (s.count (CAN.addr h c) CAN.CQ_OVF) h c 6 := by
  subst hw
  exact if_pos ho

theorem queueTake_free {s : State} {h : Half} {c w : Nat} (hw : s.fld (CAN.addr h c) CAN.CQ_WR = w)
    (ho : bitOf (s.can h c).owned w = false) (x : CanFrame) (stamp : Nat) :
    queueTake s h c x stamp =
      canEvent (((storeFrame (s.setCan h c { s.can h c with owned := setBit (s.can h c).owned w true }) (CQE.addr h c w) x stamp 0).setFld
        (CAN.addr h c) CAN.CQ_WR ((w + 1) % 64)).setFld (CAN.addr h c) CAN.CQ_OWNED (cqCount (setBit (s.can h c).owned w true))) h c 0 := by
  subst hw
  exact if_neg (Bool.eq_false_iff.mp ho)

/-! Reads and releases of a mailbox (R386, R387). -/

theorem mailboxRelease_open {s : State} {h : Half} {c m : Nat} (hl : s.flag (MB.addr h c m) MB.LOCKED = false) :
    mailboxRelease s h c m = s :=
  if_pos (by rw [hl]; rfl)

theorem mailboxRelease_empty {s : State} {h : Half} {c m : Nat} (hl : s.flag (MB.addr h c m) MB.LOCKED = true)
    (ho : (s.can h c).ovf.getD m none = none) :
    mailboxRelease s h c m = setFull (s.setFld (MB.addr h c m) MB.LOCKED 0) h c m false := by
  unfold mailboxRelease
  dsimp only
  rw [hl, ho]
  rfl

theorem mailboxRelease_held {s : State} {h : Half} {c m : Nat} {g : CanFrame} (hl : s.flag (MB.addr h c m) MB.LOCKED = true)
    (ho : (s.can h c).ovf.getD m none = some g) :
    mailboxRelease s h c m =
      setFull (storeFrame ((s.setFld (MB.addr h c m) MB.LOCKED 0).setCan h c { s.can h c with ovf := (s.can h c).ovf.set m none })
        (MB.addr h c m) g ((s.can h c).ovfAt.getD m 0) 0) h c m true := by
  unfold mailboxRelease
  dsimp only
  rw [hl, ho]
  rfl

theorem canCmd_release (s : State) (h : Half) (c : Nat) (m : Fin 32) : canCmd s h c (2 + m.val * 256) = mailboxRelease s h c m.val := by
  have hbits : ∀ m : Fin 32, bitOf (2 + m.val * 256) 0 = false ∧ bitOf (2 + m.val * 256) 1 = true ∧ bitOf (2 + m.val * 256) 2 = false ∧
      bitsOf (2 + m.val * 256) 12 8 = m.val := by decide
  obtain ⟨h0, h1, h2, hm⟩ := hbits m
  unfold canCmd
  simp only [h0, h1, h2, hm, Bool.false_eq_true, if_false, if_true]

theorem mailboxRead_head (s : State) (h : Half) (c m : Nat) :
    mailboxRead s h c m 0 = (s.wordN (MB.addr h c m), if s.flag (MB.addr h c m) MB.FULL then s.setFlag (MB.addr h c m) MB.LOCKED else s) :=
  rfl

theorem mailboxRead_middle {s : State} {h : Half} {c m off : Nat} (h0 : off ≠ 0) (hl : off ≠ mailboxLast s h c m) :
    mailboxRead s h c m off = (s.wordN (MB.addr h c m + off), s) := by
  unfold mailboxRead
  dsimp only
  rw [if_neg h0, if_neg hl]

theorem mailboxLast_pos (s : State) (h : Half) (c m : Nat) : mailboxLast s h c m ≠ 0 := by
  unfold mailboxLast
  dsimp only
  split <;> omega

theorem mailboxRead_last {s : State} {h : Half} {c m off : Nat} (hl : off = mailboxLast s h c m) :
    mailboxRead s h c m off = (s.wordN (MB.addr h c m + off), mailboxRelease s h c m) := by
  unfold mailboxRead
  dsimp only
  rw [if_neg (by rw [hl]; exact mailboxLast_pos _ _ _ _), if_pos hl]

/-! The compatibility queue's entries (R388). -/

theorem cqAck_free {s : State} {h : Half} {c i : Nat} (hi : i < 64) (ho : bitOf (s.can h c).owned i = false) :
    cqAck s h c i = s.count (CAN.addr h c) CAN.ACK_ERR := by
  unfold cqAck
  dsimp only
  rw [Nat.mod_eq_of_lt hi, ho]
  rfl

/-- An owned entry that is given back. -/
def cqGiven (s : State) (h : Half) (c i : Nat) : State :=
  ((s.setCan h c { s.can h c with owned := setBit (s.can h c).owned i false }).setFld (CAN.addr h c) CAN.CQ_OWNED
    (cqCount (setBit (s.can h c).owned i false))).setFld (CQE.addr h c i) CQE.FULL 0

theorem cqAck_owned {s : State} {h : Half} {c i : Nat} (hi : i < 64) (ho : bitOf (s.can h c).owned i = true) :
    cqAck s h c i = cqGiven s h c i := by
  unfold cqAck
  dsimp only
  rw [Nat.mod_eq_of_lt hi, ho]
  rfl

theorem cqGiven_reads (s : State) (h : Half) {c : Nat} (hc : c < 4) (i : Nat) :
    (cqGiven s h c i).fld (CAN.addr h c) CAN.CQ_OWNED = popCount (setBit (s.can h c).owned i false) 64 % 128 ∧
      (cqGiven s h c i).fld (CQE.addr h c i) CQE.FULL = 0 ∧ (cqGiven s h c i).mem = s.mem := by
  unfold cqGiven
  refine ⟨?_, ?_, ?_⟩
  · rw [State.fld_setFld_of_outside, State.fld_setFld_eq _ _ (by decide)]
    · rfl
    · refine Or.inl ?_
      have : CAN.CQ_OWNED.off + CAN.CQ_OWNED.span = 0x2C := by decide
      unfold CAN.addr CQE.addr
      omega
  · rw [State.fld_setFld_eq _ _ (by decide)]
    exact Nat.zero_mod _
  · simp only [State.setFld_mem, State.setCan_mem]

/-- Settles O46: each clause is one branch of the frame's or the read's command. -/
theorem canReceive_holds : Obligations.CanReceive := by
  unfold Obligations.CanReceive
  intro via h c m i f stamp s hr a mb u ev x y z w rx rel
  have release : rel = .next (mailboxRelease s h c.val m.val) :=
    (next_reaches hr _ _ (fun s h => canCmd s h c.val (2 + m.val * 256))).trans (congrArg _ (canCmd_release ..))
  have ack : exec (.cqAck via c i) s = .next (cqAck s h c.val i.val) := next_reaches hr _ _ _
  have read (off : Fin 76) : exec (.mailboxLastWordRead via c m off) s = .next ((mailboxRead s h c.val m.val (off.val / 4 * 4)).2.answer
      via.m (BitVec.ofNat 64 (mailboxRead s h c.val m.val (off.val / 4 * 4)).1)) := congrArg Host.Outcome.next (viaRead_reaches _ _ hr)
  refine ⟨fun ho => congrArg Host.Outcome.next (canReceive_off f ho), fun ho hm hf hrec => ?_, ?_, fun off h0 hl => (read off).trans ?_,
    fun off hl hlock hovf => (read off).trans ?_, fun hl => release.trans (congrArg _ (mailboxRelease_open hl)), fun hl hovf =>
    release.trans (congrArg _ (mailboxRelease_empty hl hovf)), fun g hl hovf => release.trans (congrArg _ (mailboxRelease_held hl hovf)),
    fun hown => ack.trans (congrArg _ (cqAck_free i.isLt hown)), fun hown =>
    ⟨_, ack.trans (congrArg _ (cqAck_owned i.isLt hown)), cqGiven_reads s h c.isLt i.val⟩⟩
  · have run : canReceive s h c.val f stamp.toNat = canAccept y h c.val f stamp.toNat := canReceive_on ho hm hf hrec
    have hmode : y.flag a CAN.RX_MODE = s.flag a CAN.RX_MODE := canHeard_flag s h c.val (by decide) (by decide)
    have hwr : y.fld a CAN.CQ_WR = w := canHeard_fld s h c.val (by decide) (by decide)
    have hbox (g : Fld) : y.flag mb g = s.flag mb g := canHeard_mb s h c.val m.val g
    refine ⟨fun hn => congrArg Host.Outcome.next (run.trans (canAccept_none hn)), fun hfind hq => ?_, fun hfind hq => ?_⟩
    · have boxed := run.trans ((canAccept_some hfind).trans (if_neg (by rw [hmode, hq]; decide)))
      refine ⟨fun hl hfull => ?_, fun hl hfull => ?_, fun hl hovf => ?_⟩
      · exact congrArg Host.Outcome.next (boxed.trans ((mailboxTake_open ((hbox _).trans hl) f _).trans
          (if_neg (Bool.eq_false_iff.mp ((hbox _).trans hfull)))))
      · exact congrArg Host.Outcome.next (boxed.trans ((mailboxTake_open ((hbox _).trans hl) f _).trans (if_pos ((hbox _).trans hfull))))
      · exact congrArg Host.Outcome.next (boxed.trans (mailboxTake_locked ((hbox _).trans hl) ((hbox _).trans hovf) f _))
    · have queued := run.trans ((canAccept_some hfind).trans (if_pos (hmode.trans hq)))
      exact ⟨fun hown => congrArg Host.Outcome.next (queued.trans (queueTake_owned hwr hown f _)),
        fun hown => congrArg Host.Outcome.next (queued.trans (queueTake_free hwr hown f _))⟩
  · exact congrArg Host.Outcome.next (viaRead_reaches _ (fun s h => mailboxHead s h c.val m.val) hr)
  · rw [mailboxRead_middle (by omega) hl]
  · rw [mailboxRead_last hl, mailboxRelease_empty hlock hovf]

end Sys2Proof.Machine
end

section
/-! PROOFS. Records of the acquisition unit and its trigger sources (R397 to R403, R425). -/
namespace Sys2Proof.Machine

/-! Live records. -/

theorem setAcq_acq_same (s : State) (h : Half) (u : AcqUnit) : (s.setAcq h u).acq h = u := by
  unfold State.acq State.setAcq
  rw [State.half_onHalf_same]

theorem acq_congr {s t : State} {h : Half} (e : t.half h = s.half h) : t.acq h = s.acq h := by
  unfold State.acq
  rw [e]

theorem find_filter_other {l : List AcqRec} {r n : Nat} (hn : n ≠ r) :
    (l.filter (fun y => y.num != r)).find? (fun x => x.num == n) = l.find? (fun x => x.num == n) := by
  rw [List.find?_filter]
  congr 1
  funext x
  by_cases hx : x.num = n
  · simp [hx, hn]
  · simp [hx]

theorem find_filter_same (l : List AcqRec) (r : Nat) : (l.filter (fun y => y.num != r)).find? (fun x => x.num == r) = none := by
  refine List.find?_eq_none.mpr fun x hx => ?_
  have := (List.mem_filter.mp hx).2
  simp_all

theorem acqFind_num {s : State} {h : Half} {r : Nat} {x : AcqRec} (hf : acqFind s h r = some x) : x.num = r := by
  have := List.find?_some hf
  simpa using this

theorem acqDrop_acq (s : State) (h : Half) (r st : Nat) :
    (acqDrop s h r st).acq h = { s.acq h with recs := (s.acq h).recs.filter (fun y => y.num != r) } := by
  unfold acqDrop
  rw [acq_congr (State.setFld_half ..), setAcq_acq_same]

theorem acqCount_acq (s : State) (h : Half) : (acqCount s h).acq h = s.acq h := acq_congr (State.setFld_half ..)

theorem acqCount_mem (s : State) (h : Half) : (acqCount s h).mem = s.mem := State.setFld_mem ..

/-- The count of armed records lies below the records' registers. -/
theorem acqCount_fld (s : State) (h : Half) (r : Nat) (f : Fld) : (acqCount s h).fld (REC.addr h r) f = s.fld (REC.addr h r) f := by
  refine State.fld_setFld_of_outside _ _ (Or.inr ?_)
  have : ACQ.ARMED.off + ACQ.ARMED.span ≤ 0x4000 := by decide
  unfold ACQ.addr REC.addr
  omega

theorem acqDrop_mem (s : State) (h : Half) (r st : Nat) : (acqDrop s h r st).mem = s.mem := by
  unfold acqDrop
  rw [State.setFld_mem, State.setAcq_mem]

theorem acqDrop_state (s : State) (h : Half) (r st : Nat) : (acqDrop s h r st).fld (REC.addr h r) REC.R_STATE = st % 8 := by
  unfold acqDrop
  exact State.fld_setFld_eq _ _ (by decide)

/-! Arming and disarming (R398, R402, R403). -/

/-- A record as it is armed. -/
def freshRecord (r a : Nat) (after : Option Nat) : AcqRec :=
  { num := r, a := a, disarm := none, held := [], trig := none, row := 0, oldest := 0, done := 0, vals := [], prev := none,
    upArmed := true, downArmed := true, extra := 0, gap := false, exceeds := false, hdr := false, after := after }

theorem armAt_refused {s : State} {h : Half} {r : Nat} (hc : armRefusal s h r ≠ 0) :
    armAt s h r none = acqCount (raiseIf (s.setFld (REC.addr h r) REC.ARM_RESULT (armRefusal s h r))
      (decide (2 ≤ armRefusal s h r ∧ armRefusal s h r ≤ 4)) h 13) h :=
  if_pos hc

/-- A record that is armed, before the count of armed records. -/
def armedState (s : State) (h : Half) (r : Nat) : State :=
  let u := s.setFld (REC.addr h r) REC.ARM_RESULT 0
  let d := acqDrop u h r (if u.fld (REC.addr h r) REC.PRE = 0 then 2 else 1)
  d.setAcq h { d.acq h with recs := (d.acq h).recs ++ [freshRecord r (u.periodNum h + 1) none] }

theorem armAt_armed {s : State} {h : Half} {r : Nat} (hc : armRefusal s h r = 0) :
    armAt s h r none = acqCount (armedState s h r) h := by
  unfold armAt
  dsimp only
  rw [hc]
  rfl

theorem armedState_reads (s : State) (h : Half) (r : Nat) :
    (armedState s h r).fld (REC.addr h r) REC.ARM_RESULT = 0 ∧
      (armedState s h r).fld (REC.addr h r) REC.R_STATE = (if s.fld (REC.addr h r) REC.PRE = 0 then 2 else 1) ∧
      ((armedState s h r).acq h).recs =
        (s.acq h).recs.filter (fun y => y.num != r) ++ [freshRecord r (s.periodNum h + 1) none] ∧ (armedState s h r).mem = s.mem := by
  have hpre : (s.setFld (REC.addr h r) REC.ARM_RESULT 0).fld (REC.addr h r) REC.PRE = s.fld (REC.addr h r) REC.PRE :=
    State.fld_setFld_of_apart _ _ (by decide)
  have hper : (s.setFld (REC.addr h r) REC.ARM_RESULT 0).periodNum h = s.periodNum h := by
    refine State.quad_setFld_outside _ _ (Or.inl ?_)
    unfold SYS.addr REC.addr
    omega
  have hacq : (s.setFld (REC.addr h r) REC.ARM_RESULT 0).acq h = s.acq h := acq_congr (State.setFld_half ..)
  unfold armedState
  dsimp only
  rw [hpre, hper]
  refine ⟨?_, ?_, ?_, ?_⟩
  · rw [State.setAcq, State.onHalf_fld, acqDrop, State.fld_setFld_of_apart _ _ (by decide), State.setAcq, State.onHalf_fld,
      State.fld_setFld_eq _ _ (by decide)]
    exact Nat.zero_mod _
  · rw [State.setAcq, State.onHalf_fld, acqDrop_state]
    split <;> rfl
  · rw [setAcq_acq_same, acqDrop_acq, hacq]
  · rw [State.setAcq_mem, acqDrop_mem, State.setFld_mem]

theorem acqFind_armed (s : State) (h : Half) (r n : Nat) :
    acqFind (acqCount (armedState s h r) h) h n = if n = r then some (freshRecord r (s.periodNum h + 1) none) else acqFind s h n := by
  obtain ⟨-, -, hrecs, -⟩ := armedState_reads s h r
  unfold acqFind
  rw [acqCount_acq, hrecs, List.find?_append]
  by_cases hn : n = r
  · subst hn
    rw [find_filter_same, if_pos rfl]
    simp [freshRecord]
  · rw [find_filter_other hn, if_neg hn]
    have : ([freshRecord r (s.periodNum h + 1) none]).find? (fun x => x.num == n) = none := by
      simp [freshRecord, Ne.symm hn]
    rw [this, Option.or_none]

/-- The command word of a record, one bit at a time. -/
theorem recCmd_bits (s : State) (h : Half) (r : Nat) :
    recCmd s h r 1 = armRecord s h r ∧ recCmd s h r 2 = disarmRecord s h r ∧ recCmd s h r 4 = forceRecord s h r ∧
      recCmd s h r 8 = clearRecord s h r := ⟨rfl, rfl, rfl, rfl⟩

theorem disarmRecord_live {s : State} {h : Half} {r : Nat} {x : AcqRec} (hf : acqFind s h r = some x) :
    disarmRecord s h r = acqPut s h { x with disarm := some ((s.periodNum h + 1) * s.periodNs h) } := by
  unfold disarmRecord
  rw [hf]

theorem disarmNow_live {s : State} {h : Half} {r : Nat} {x : AcqRec} (hf : acqFind s h r = some x) :
    disarmNow s h r = if x.disarm = none then s
      else if s.fld (REC.addr h r) REC.R_STATE = 3 then acqPut s h { x with disarm := none }
      else acqCount (acqDrop s h r 0) h := by
  unfold disarmNow
  rw [hf]

theorem recordRearm_live {s : State} {h : Half} {r : Nat} {x : AcqRec} (hf : acqFind s h r = some x) :
    recordRearm s h r = if s.fld (REC.addr h r) REC.R_STATE = 5 then armAt s h r x.after else s := by
  unfold recordRearm
  rw [hf]

theorem record_none {s : State} {h : Half} {r : Nat} (hf : acqFind s h r = none) :
    disarmRecord s h r = s ∧ disarmNow s h r = s ∧ recordRearm s h r = s := by
  unfold disarmRecord disarmNow recordRearm
  rw [hf]
  exact ⟨rfl, rfl, rfl⟩

theorem acqFind_dropped (s : State) (h : Half) (r st n : Nat) :
    acqFind (acqCount (acqDrop s h r st) h) h n = if n = r then none else acqFind s h n := by
  unfold acqFind
  rw [acqCount_acq, acqDrop_acq]
  by_cases hn : n = r
  · rw [if_pos hn, hn]
    exact find_filter_same _ _
  · rw [if_neg hn]
    exact find_filter_other hn

/-! A forced trigger (R399). -/

theorem acqDeliver_captures {s : State} {h : Half} {x : AcqRec} {t src : Nat} {forced : Bool}
    (hst : s.fld (REC.addr h x.num) REC.R_STATE = 1 ∨ s.fld (REC.addr h x.num) REC.R_STATE = 2) (ha : x.a * s.periodNs h ≤ t)
    (hd : x.disarm = none) (hp : t / s.periodNs h ≤ s.periodNum h) :
    acqDeliver s h x t src forced = acqCapture s h x t src forced := by
  unfold acqDeliver
  dsimp only
  rw [if_neg (by omega), if_neg (by omega), hd, if_neg Bool.false_ne_true, if_neg (by omega)]

theorem hlDriveOn_fld (s : State) (m b : Nat) (f : Fld) : (hlDriveOn s m).fld b f = s.fld b f := State.fld_congr rfl rfl rfl b f

theorem captureDriven_state (s : State) (h : Half) (r : Nat) : (captureDriven s h r).fld (REC.addr h r) REC.R_STATE = 3 := by
  have hset : (s.setFld (REC.addr h r) REC.R_STATE 3).fld (REC.addr h r) REC.R_STATE = 3 := State.fld_setFld_eq _ _ (by decide)
  unfold captureDriven
  dsimp only
  split
  · exact (hlDriveOn_fld ..).trans hset
  · exact hset

theorem captureDriven_acq (s : State) (h : Half) (r : Nat) : (captureDriven s h r).acq h = s.acq h := by
  unfold captureDriven
  dsimp only
  split
  · exact (acq_congr (by cases h <;> rfl)).trans (acq_congr (State.setFld_half ..))
  · exact acq_congr (State.setFld_half ..)

theorem acqCapture_reads (s : State) (h : Half) (x : AcqRec) (t src : Nat) (forced : Bool) :
    (acqCapture s h x t src forced).2.fld (REC.addr h x.num) REC.R_STATE = 3 ∧
      ((acqCapture s h x t src forced).2.acq h).miss = (s.acq h).miss ∧
      (acqCapture s h x t src forced).1.trig = some (t, src, forced) ∧
      (acqCapture s h x t src forced).1.row = (t / s.periodNs h - x.a) / recDecim s h x.num := by
  have hacq := captureDriven_acq s h x.num
  refine ⟨?_, ?_, rfl, rfl⟩
  · rw [acqCapture_state]
    dsimp only
    split
    · unfold State.setAcq
      rw [State.onHalf_fld, captureDriven_state]
    · exact captureDriven_state ..
  · rw [acqCapture_state]
    dsimp only
    split
    · rw [setAcq_acq_same]
      dsimp only
      rw [hacq]
    · exact congrArg AcqUnit.miss hacq

theorem acqFire_single {s : State} {h : Half} {x : AcqRec} (hr : (s.acq h).recs = [x]) {sel : Nat → Bool} (hs : sel x.num = true)
    (t src : Nat) (forced : Bool) :
    acqFire s h sel t src forced = (acqDeliver s h x t src forced).2.setAcq h
      { (acqDeliver s h x t src forced).2.acq h with recs := [(acqDeliver s h x t src forced).1] } := by
  unfold acqFire
  rw [hr]
  unfold acqFireL
  rw [if_pos hs]
  rfl

theorem forceRecord_single {s : State} {h : Half} {x : AcqRec} (hr : (s.acq h).recs = [x]) (hm : (s.acq h).miss = false)
    (hst : s.fld (REC.addr h x.num) REC.R_STATE = 1 ∨ s.fld (REC.addr h x.num) REC.R_STATE = 2) (hd : x.disarm = none)
    (ha : x.a * s.periodNs h ≤ s.servoNow h) (hp : s.servoNow h / s.periodNs h ≤ s.periodNum h) :
    forceRecord s h x.num =
      let d := acqCapture s h x (s.servoNow h) 0 true
      d.2.setAcq h { d.2.acq h with recs := [d.1] } := by
  obtain ⟨-, hmiss, -, -⟩ := acqCapture_reads s h x (s.servoNow h) 0 true
  have fired := acqFire_single hr (sel := fun n => n == x.num) (beq_self_eq_true _) (s.servoNow h) 0 true
  rw [acqDeliver_captures hst ha hd hp] at fired
  unfold forceRecord acqTrigger
  rw [fired]
  refine if_neg ?_
  rw [setAcq_acq_same, hmiss, hm]
  decide

/-! The log and the counters (R403). -/

theorem setWords_word_above {a x : Nat} (l : List Word) (h : a + 4 * l.length ≤ x) (s : State) :
    (s.setWords a l).word x = s.word x := by
  induction l generalizing a s with
  | nil => rfl
  | cons w l ih =>
    rw [List.length_cons] at h
    exact (ih (by omega) _).trans (State.word_setWord_other _ _ (by omega))

theorem setWords_word_at (a : Nat) (l : List Word) (s : State) {i : Nat} (hi : i < l.length) :
    (s.setWords a l).word (a + 4 * i) = l[i] := by
  induction l generalizing a s i with
  | nil => exact absurd hi (Nat.not_lt_zero _)
  | cons w l ih =>
    cases i with
    | zero => exact (setWords_word_below l (Nat.lt_add_of_pos_right (by decide)) (s.setWord a w)).trans (State.word_setWord_same ..)
    | succ i =>
      have := ih (a + 4) (s.setWord a w) (Nat.lt_of_succ_lt_succ hi)
      rwa [show a + 4 + 4 * i = a + 4 * (i + 1) by omega] at this

/-- Settles O48: each clause is one branch of the record's command. -/
theorem recordCommands : Obligations.RecordCommands := by
  unfold Obligations.RecordCommands
  intro via h r s hr b st code arm
  have cmd (v : Nat) := next_reaches hr (halfOff (REC.addr .a r.val) + 0x30) v (fun s h => recCmd s h r.val v)
  have ctrl (v : Nat) := next_reaches hr (halfOff (ACQ.addr .a)) v (fun s h => acqCtrl s h v)
  obtain ⟨c1, c2, c4, c8⟩ := recCmd_bits s h r.val
  have armRun : arm = .next (armRecord s h r.val) := (cmd 1).trans (congrArg _ c1)
  have disarmRun : exec (.disarm via r) s = .next (disarmRecord s h r.val) := (cmd 2).trans (congrArg _ c2)
  have clearRun : exec (.clear via r) s = .next (clearRecord s h r.val) := (cmd 8).trans (congrArg _ c8)
  refine ⟨fun h0 h4 => armRun.trans ?_, fun h04 hc => armRun.trans ?_, fun h04 hc => ?_, fun hn => ?_, fun x hx => ?_,
    fun h4 => clearRun.trans ?_, fun h4 => clearRun.trans ?_, ?_, ?_⟩
  · exact congrArg Host.Outcome.next (if_neg (not_or.mpr ⟨h0, h4⟩))
  · exact congrArg Host.Outcome.next ((if_pos h04).trans (armAt_refused hc))
  · obtain ⟨hres, hst, -, hmem⟩ := armedState_reads s h r.val
    refine ⟨_, freshRecord r.val (s.periodNum h + 1) none, armRun.trans (congrArg Host.Outcome.next ((if_pos h04).trans (armAt_armed hc))),
      (acqCount_fld ..).trans hres, (acqCount_fld ..).trans hst, (acqFind_armed ..).trans (if_pos rfl), rfl, rfl, rfl, rfl,
      fun n hn => (acqFind_armed ..).trans (if_neg hn), (acqCount_mem ..).trans hmem⟩
  · obtain ⟨h1, h2, h3⟩ := record_none hn
    exact ⟨disarmRun.trans (congrArg _ h1), congrArg Host.Outcome.next h2, congrArg Host.Outcome.next h3⟩
  · have hnum : x.num = r.val := acqFind_num hx
    have now := disarmNow_live hx
    refine ⟨disarmRun.trans (congrArg _ (disarmRecord_live hx)), fun hd => congrArg Host.Outcome.next (now.trans (if_pos hd)),
      fun hd h3 => congrArg Host.Outcome.next (now.trans ((if_neg hd).trans (if_pos h3))), fun hd h3 => ?_,
      fun h5 => congrArg Host.Outcome.next ((recordRearm_live hx).trans (if_pos h5)),
      fun h5 => congrArg Host.Outcome.next ((recordRearm_live hx).trans (if_neg h5)), fun hrecs hmiss h12 hd ha hp => ?_⟩
    · refine ⟨_, congrArg Host.Outcome.next (now.trans ((if_neg hd).trans (if_neg h3))), (acqCount_fld ..).trans (acqDrop_state ..),
        (acqFind_dropped ..).trans (if_pos rfl), fun n hn => (acqFind_dropped ..).trans (if_neg hn), (acqCount_mem ..).trans (acqDrop_mem ..)⟩
    · obtain ⟨hstate, -, htrig, hrow⟩ := acqCapture_reads s h x (s.servoNow h) 0 true
      have hmem := (acqCapture_raiseKeeps s h x (s.servoNow h) 0 true).mem
      have run := forceRecord_single hrecs hmiss (by rw [hnum]; exact h12) hd ha hp
      rw [hnum] at run hstate hrow
      refine ⟨_, _, (cmd 4).trans (congrArg Host.Outcome.next (c4.trans run)), ?_, congrArg AcqUnit.recs (setAcq_acq_same ..), htrig, hrow,
        (State.setAcq_mem ..).trans hmem⟩
      unfold State.setAcq
      rw [State.onHalf_fld]
      exact hstate
  · exact congrArg Host.Outcome.next (if_pos h4)
  · exact congrArg Host.Outcome.next (if_neg h4)
  · have run : acqCtrl s h 1 = s.setWords (ACQ.addr h + 0x40) (List.replicate 64 0) := rfl
    refine ⟨_, (ctrl 1).trans (congrArg _ run), fun i hi => ?_, fun a ha => ?_, (setWords_rest ..).1⟩
    · exact (setWords_word_at _ _ _ (by rw [List.length_replicate]; exact hi)).trans (List.getElem_replicate ..)
    · rcases ha with ha | ha
      · exact setWords_word_below _ ha _
      · exact setWords_word_above _ (by rw [List.length_replicate]; exact ha) _
  · have run : acqCtrl s h 2 = s.setWordN (ACQ.addr h + 8) 0 := rfl
    exact ⟨_, (ctrl 2).trans (congrArg _ run), State.word_setWordN_same .., fun a ha => State.word_setWordN_other _ _ ha,
      State.setWordN_mem ..⟩

/-! Trigger sources and the HL lines (R399, R401, R425). -/

theorem servoNow_congr {s t : State} {h : Half} (e : t.half h = s.half h) : t.servoNow h = s.servoNow h := by
  unfold State.servoNow
  rw [State.time_congr e]

/-- A record that a remote trigger with its own selector selects has source 7. -/
theorem acqSelects_remote (s : State) (h : Half) (r : Nat) :
    acqSelects s h 7 (s.fld (REC.addr h r) REC.SEL) r = decide (s.fld (REC.addr h r) REC.SRC = 7) := by
  unfold acqSelects
  dsimp only
  rw [decide_eq_true (rfl : s.fld (REC.addr h r) REC.SEL = _), Bool.or_true, Bool.and_true]

theorem remoteReceive_new {s : State} {h : Half} {m : List Byte} (hl : m.length = 24) (hv : bytesAt m 0 1 = 1)
    (hn : (s.acq h).seen.contains (bytesAt m 2 2 % 1024, bytesAt m 6 2) = false) :
    remoteReceive s h m =
      let u := s.setAcq h { s.acq h with seen := ((bytesAt m 2 2 % 1024, bytesAt m 6 2) :: (s.acq h).seen).take 256 }
      raiseAt (acqTrigger u h (fun r => acqSelects u h 7 (u.fld (REC.addr h r) REC.SEL) r &&
        decide (u.fld (REC.addr h r) REC.REMOTE_ID = bytesAt m 4 2)) (bytesAt m 8 8) 7 false) h 199 (bytesAt m 8 8) := by
  unfold remoteReceive
  rw [if_neg (by rintro (h1 | h1); exacts [h1 hl, h1 hv])]
  dsimp only
  rw [hn]
  rfl

/-- Settles O49: each clause is the edge's or the message's one branch. -/
theorem triggerSources : Obligations.TriggerSources := by
  unfold Obligations.TriggerSources
  intro h t line up mask msg s trig l
  refine ⟨rfl, ?_, rfl, rfl, fun hbad => congrArg Host.Outcome.next (if_pos hbad), fun hl hv => ⟨fun hk => ?_, fun hk => ?_⟩⟩
  · have hA : l.servoNow .a = s.servoNow .a := servoNow_congr (State.setFld_half ..)
    have hB : l.servoNow .b = s.servoNow .b := servoNow_congr (State.setFld_half ..)
    have run : exec (.halyardEdge line (!up)) s =
        .next (halyardEdge (halyardEdge l .a line.val (!(!up)) (l.servoNow .a)) .b line.val (!(!up)) (l.servoNow .b)) := rfl
    rw [run, Bool.not_not, hA, hB]
    rfl
  · refine congrArg Host.Outcome.next ((if_neg (by rintro (h1 | h1); exacts [h1 hl, h1 hv])).trans (if_pos ?_))
    exact List.contains_iff_mem.mpr hk
  · have hn : (s.acq h).seen.contains (bytesAt msg 2 2 % 1024, bytesAt msg 6 2) = false :=
      Bool.eq_false_iff.mpr fun hc => hk (List.contains_iff_mem.mp hc)
    refine congrArg Host.Outcome.next ((remoteReceive_new hl hv hn).trans ?_)
    dsimp only
    simp only [acqSelects_remote]
    unfold State.setAcq
    simp only [State.onHalf_fld]


end Sys2Proof.Machine
end

section
/-! PROOFS. The start of a drive ring (R271, R274, R281 to R283). -/
namespace Sys2Proof.Machine

theorem ring_congr {s t : State} {h : Half} (e : t.half h = s.half h) (r : Nat) : t.ring h r = s.ring h r := by
  unfold State.ring
  rw [e]

@[simp] theorem setFld_ring (s : State) (b : Nat) (f : Fld) (v : Nat) (h : Half) (r : Nat) : (s.setFld b f v).ring h r = s.ring h r :=
  ring_congr (State.setFld_half ..) r

@[simp] theorem putFlag_ring (s : State) (b : Nat) (f : Fld) (v : Bool) (h : Half) (r : Nat) : (s.putFlag b f v).ring h r = s.ring h r :=
  ring_congr (State.putFlag_half ..) r

theorem ringNodes_congr {s t : State} (e : t.cfg = s.cfg) (r : Nat) : ringNodes t r = ringNodes s r := by
  unfold ringNodes
  rw [e]

@[simp] theorem setFld_ringNodes (s : State) (b : Nat) (f : Fld) (v r : Nat) : ringNodes (s.setFld b f v) r = ringNodes s r :=
  ringNodes_congr (State.setFld_cfg ..) r

@[simp] theorem setRing_ringNodes (s : State) (h : Half) (q : Nat) (u : RingUnit) (r : Nat) :
    ringNodes (s.setRing h q u) r = ringNodes s r :=
  ringNodes_congr (State.onHalf_cfg ..) r

@[simp] theorem setRing_fld (s : State) (h : Half) (r : Nat) (u : RingUnit) (b : Nat) (f : Fld) :
    (s.setRing h r u).fld b f = s.fld b f := State.onHalf_fld ..

/-! Writes of RING.CTRL (R277, R281, R288). -/

/-- A written AUTO_RESTART. -/
def autoPut (s : State) (h : Half) (r : Nat) (auto : Bool) : State := s.setFld (RING.addr h r) RING.AUTO_RESTART (b2n auto)

theorem autoPut_state (s : State) (h : Half) (r : Nat) (auto : Bool) : ringState (autoPut s h r auto) h r = ringState s h r :=
  State.fld_setFld_of_apart _ _ (by decide)

theorem ringCtrl_bits (s : State) (h : Half) (r : Nat) (auto : Bool) :
    let w := autoPut s h r auto
    ringCtrl s h r (2 ^ 0 + 256 * b2n auto) = ringStart w h r ∧ ringCtrl s h r (2 ^ 1 + 256 * b2n auto) = ringStop w h r ∧
      ringCtrl s h r (2 ^ 2 + 256 * b2n auto) = ringRestart (ringStop w h r) h r ∧
      ringCtrl s h r (2 ^ 3 + 256 * b2n auto) = ringClrCnt w h r ∧ ringCtrl s h r (2 ^ 4 + 256 * b2n auto) = chClr w h r := by
  cases auto <;> exact ⟨rfl, rfl, rfl, rfl, rfl⟩

theorem ringStart_idle {s : State} {h : Half} {r : Nat} (h1 : ringState s h r ≠ 1) (h2 : ringState s h r ≠ 2) :
    ringStart s h r = ringBegin (s.setRing h r { s.ring h r with retryAt := none }) h r :=
  if_neg (not_or.mpr ⟨h1, h2⟩)

theorem ringStart_busy {s : State} {h : Half} {r : Nat} (h12 : ringState s h r = 1 ∨ ringState s h r = 2) : ringStart s h r = s :=
  if_pos h12

theorem ringStop_eq (s : State) (h : Half) (r : Nat) :
    ringStop s h r = (((s.setFld (RING.addr h r) RING.STATE 0).setFld (RING.addr h r) RING.CH_A_OK 0).setFld (RING.addr h r)
      RING.CH_B_OK 0).setRing h r { s.ring h r with step := 0, backoff := false, last := none, retryAt := none } := by
  unfold ringStop channelsIdle
  simp only [putFlag_ring, setFld_ring]
  rfl

/-! The counters and smallest margins of a ring (R277). -/

/-- The margin and the counters of node i cleared. -/
def nodeCleared (s : State) (h : Half) (r i : Nat) : State :=
  (s.setFld (NODE.addr h r i) NODE.MARGIN_MIN 1000).setWordN (NODE.addr h r i + 12) 0

theorem nodeCleared_word (s : State) (h : Half) (r i : Nat) {a : Nat} (ha : a ≠ NODE.addr h r i + 8) (hb : a ≠ NODE.addr h r i + 12) :
    (nodeCleared s h r i).word a = s.word a :=
  (State.word_setWordN_other _ _ hb).trans (State.word_setFld_other _ _ (show NODE.MARGIN_MIN.hi < 32 by decide) ha)

theorem nodeCleared_rest (s : State) (h : Half) (r i : Nat) :
    (nodeCleared s h r i).mem = s.mem ∧ (nodeCleared s h r i).halfA = s.halfA ∧ (nodeCleared s h r i).halfB = s.halfB := by
  unfold nodeCleared
  simp only [State.setWordN_mem, State.setFld_mem, State.setWordN_halfA, State.setFld_halfA, State.setWordN_halfB, State.setFld_halfB,
    and_self]

/-- The nodes of a list, cleared one after another. -/
theorem nodesCleared_reads (h : Half) (r : Nat) (l : List Nat) (s : State) :
    let t := l.foldl (fun s i => nodeCleared s h r i) s
    (∀ a, (∀ i, a ≠ NODE.addr h r i + 8 ∧ a ≠ NODE.addr h r i + 12) → t.word a = s.word a) ∧
      (∀ i, i ∈ l ∨ (s.fld (NODE.addr h r i) NODE.MARGIN_MIN = 1000 ∧ s.word (NODE.addr h r i + 12) = 0) →
        t.fld (NODE.addr h r i) NODE.MARGIN_MIN = 1000 ∧ t.word (NODE.addr h r i + 12) = 0) ∧
      t.mem = s.mem ∧ t.halfA = s.halfA ∧ t.halfB = s.halfB := by
  induction l generalizing s with
  | nil => exact ⟨fun _ _ => rfl, fun i hi => hi.resolve_left (by simp), rfl, rfl, rfl⟩
  | cons j l ih =>
    obtain ⟨hw, hn, hm, hA, hB⟩ := ih (nodeCleared s h r j)
    obtain ⟨m1, a1, b1⟩ := nodeCleared_rest s h r j
    refine ⟨fun a ha => (hw a ha).trans (nodeCleared_word _ _ _ _ (ha j).1 (ha j).2), fun i hi => hn i ?_, hm.trans m1, hA.trans a1,
      hB.trans b1⟩
    have own : (nodeCleared s h r j).fld (NODE.addr h r j) NODE.MARGIN_MIN = 1000 ∧
        (nodeCleared s h r j).word (NODE.addr h r j + 12) = 0 := by
      refine ⟨?_, State.word_setWordN_same ..⟩
      refine (State.fld_of_words fun a h1 h2 => State.word_setWordN_other _ _ ?_).trans (State.fld_setFld_eq _ _ (by decide))
      have : NODE.MARGIN_MIN.off + NODE.MARGIN_MIN.span = 12 := by decide
      omega
    by_cases hij : i = j
    · subst hij
      exact Or.inr own
    · have apart : NODE.addr h r i + 16 ≤ NODE.addr h r j ∨ NODE.addr h r j + 16 ≤ NODE.addr h r i := by
        unfold NODE.addr
        omega
      refine hi.imp (fun hm => (List.mem_cons.mp hm).resolve_left hij) fun hv => ⟨?_, ?_⟩
      · refine (State.fld_of_words fun a h1 h2 => nodeCleared_word _ _ _ _ ?_ ?_).trans hv.1
        · have : NODE.MARGIN_MIN.off = 8 ∧ NODE.MARGIN_MIN.span = 4 := by decide
          omega
        · have : NODE.MARGIN_MIN.off = 8 ∧ NODE.MARGIN_MIN.span = 4 := by decide
          omega
      · exact (nodeCleared_word _ _ _ _ (by omega) (by omega)).trans hv.2

theorem ringClrCnt_eq (s : State) (h : Half) (r : Nat) :
    ringClrCnt s h r = (List.range 24).foldl (fun s i => nodeCleared s h r i)
      ((s.resetRegs (RING.addr h r + 0x10) 12).resetRegs (RING.addr h r + 0x20) 4) := rfl

/-! Registers put back to reset: what stays unlisted, and a STATE that is listed. -/

/-- A register back at reset stays so when others go back to reset. -/
theorem word_resetRegs_twice (s : State) {lo n lo2 n2 a : Nat} (h : lo ≤ a ∧ a < lo + n) :
    ((s.resetRegs lo n).resetRegs lo2 n2).word a = s.regReset a := by
  have hf : storeFind (storeClear (storeClear s.regs lo n) lo2 n2) a = none := by
    refine storeFind_none_of_not_mem fun c hc hca => ?_
    have := (List.mem_filter.mp (List.mem_filter.mp hc).1).2
    rw [hca] at this
    simp [h.1, h.2] at this
  unfold State.word State.resetRegs
  simp only [hf]
  rfl

/-- A listed register keeps its value when others go back to reset. -/
theorem word_resetRegs_listed {s : State} {lo n a : Nat} {w : Word} (hw : storeFind s.regs a = some w) (h : ¬(lo ≤ a ∧ a < lo + n)) :
    (s.resetRegs lo n).word a = s.word a := by
  have hf : storeFind (storeClear s.regs lo n) a = some w := by
    refine storeFind_filter_of_some _ hw ?_
    simp only [Bool.not_eq_true', Bool.and_eq_false_iff, decide_eq_false_iff_not]
    omega
  unfold State.word State.resetRegs
  simp only [hf, hw]

theorem ringStatusRow (h : Half) (r : Fin 8) :
    regRowAt (RING.addr h r.val + 4) = some ⟨0x4, 4, 1, 0x0, 0x0, 0x0, 0x0, 0x0, 0x0, 0x20, 0x0, 0⟩ := by
  cases h
  · exact (by decide +kernel : ∀ r : Fin 8, regRowAt (RING.addr .a r.val + 4) = _) r
  · exact (by decide +kernel : ∀ r : Fin 8, regRowAt (RING.addr .b r.val + 4) = _) r

/-- Low bits that a register's reset column and its key bits leave 0 are 0 at reset, whatever the image. -/
theorem regReset_low_bits {s : State} {a n : Nat} {row : RegRow} (hr : regRowAt a = some row) (hs : row.sect = 0)
    (h0 : BitVec.toNat (BitVec.ofNat 32 row.reset) % 2 ^ n = 0) (hk : BitVec.toNat (BitVec.ofNat 32 row.key) % 2 ^ n = 0) :
    (s.regReset a).toNat % 2 ^ n = 0 := by
  unfold State.regReset
  simp only [hr, hs, if_true, BitVec.toNat_or, Nat.or_mod_two_pow, h0]
  by_cases hk0 : row.key = 0
  · simp [hk0]
  · cases s.image with
    | none => simp
    | some img =>
      simp only [hk0, if_false, BitVec.toNat_and, Nat.and_mod_two_pow, hk, Nat.and_zero, Nat.or_zero]
      simp

/-- No image gives a ring another STATE than 0 at reset (R277). -/
theorem ringState_regReset (s : State) (h : Half) (r : Fin 8) : (s.regReset (RING.addr h r.val + 4)).toNat % 2 ^ 3 = 0 :=
  regReset_low_bits (ringStatusRow h r) rfl (by decide) (by decide)

/-- A ring that starts or runs has its STATE listed. -/
theorem ringState_listed {s : State} {h : Half} {r : Fin 8} (h0 : ringState s h r.val ≠ 0) :
    ∃ w, storeFind s.regs (RING.addr h r.val + 4) = some w := by
  cases hw : storeFind s.regs (RING.addr h r.val + 4) with
  | some w => exact ⟨w, rfl⟩
  | none =>
    refine absurd ?_ h0
    have word : s.word (RING.addr h r.val + 4) = s.regReset (RING.addr h r.val + 4) := by
      unfold State.word
      rw [hw]
    show (s.word (RING.addr h r.val + 4)).toNat / 2 ^ 0 % 2 ^ 3 = 0
    rw [word, pow_zero, Nat.div_one, ringState_regReset]

theorem ringState_resetUnusable {s : State} {h : Half} {r : Fin 8} (h0 : ringState s h r.val ≠ 0) :
    ringState (s.resetRegs (RING.addr h r.val + 0x1C) 4) h r.val = ringState s h r.val := by
  obtain ⟨w, hw⟩ := ringState_listed h0
  exact State.fld_of_word (by decide) (word_resetRegs_listed hw (show ¬(_ ≤ RING.addr h r.val + 4 ∧ _) by omega))

theorem ringClrCnt_reads (s : State) (h : Half) (r : Nat) :
    let b := RING.addr h r
    let t := ringClrCnt s h r
    (∀ a, a = b + 0x10 ∨ a = b + 0x14 ∨ a = b + 0x18 ∨ a = b + 0x20 → t.word a = s.regReset a) ∧
      (∀ n, n < 24 → t.fld (NODE.addr h r n) NODE.MARGIN_MIN = 1000 ∧ t.word (NODE.addr h r n + 12) = 0) ∧
      t.mem = s.mem ∧ t.halfA = s.halfA ∧ t.halfB = s.halfB := by
  rw [ringClrCnt_eq]
  obtain ⟨hw, hn, hm, hA, hB⟩ := nodesCleared_reads h r (List.range 24)
    ((s.resetRegs (RING.addr h r + 0x10) 12).resetRegs (RING.addr h r + 0x20) 4)
  refine ⟨fun a ha => (hw a fun i => ?_).trans ?_, fun n hn24 => hn n (.inl (List.mem_range.mpr hn24)), hm, hA, hB⟩
  · have : NODE.addr h r i = RING.addr h r + 0x100 + i * 0x10 := by
      unfold NODE.addr RING.addr
      omega
    omega
  · by_cases h20 : a = RING.addr h r + 0x20
    · refine (State.word_resetRegs_inside _ (by omega)).trans (State.regReset_congr rfl rfl a)
    · exact word_resetRegs_twice _ (by omega)

/-- The channels of a ring returned to use, its unusable channels cleared. -/
def chCleared (s : State) (h : Half) (r : Nat) : State :=
  (s.resetRegs (RING.addr h r + 0x1C) 4).setRing h r { s.ring h r with violA := [], violB := [], cleanA := none, cleanB := none }

theorem chClr_eq (s : State) (h : Half) (r : Nat) :
    chClr s h r = if ringState (chCleared s h r) h r = 1 ∨ ringState (chCleared s h r) h r = 2 then
      ((chCleared s h r).setFlag (RING.addr h r) RING.CH_A_OK).setFlag (RING.addr h r) RING.CH_B_OK else chCleared s h r := rfl

theorem chCleared_state {s : State} {h : Half} {r : Fin 8} (h0 : ringState s h r.val ≠ 0) :
    ringState (chCleared s h r.val) h r.val = ringState s h r.val :=
  (setRing_fld ..).trans (ringState_resetUnusable h0)

theorem chClr_reads (s : State) (h : Half) (r : Fin 8) :
    let b := RING.addr h r.val
    let t := chClr s h r.val
    t.fld b RING.A_UNUSABLE = (s.resetRegs (b + 0x1C) 4).fld b RING.A_UNUSABLE ∧
      (ringState s h r.val = 1 ∨ ringState s h r.val = 2 → t.flag b RING.CH_A_OK = true ∧ t.flag b RING.CH_B_OK = true) ∧
      t.mem = s.mem ∧
      t.half h = (s.setRing h r.val { s.ring h r.val with violA := [], violB := [], cleanA := none, cleanB := none }).half h := by
  dsimp only
  have hm : (chCleared s h r.val).mem = s.mem := State.setRing_mem ..
  have hh : (chCleared s h r.val).half h =
      (s.setRing h r.val { s.ring h r.val with violA := [], violB := [], cleanA := none, cleanB := none }).half h := by
    unfold chCleared State.setRing
    rw [State.half_onHalf_same, State.half_onHalf_same, State.resetRegs_half]
  rw [chClr_eq]
  by_cases hs : ringState (chCleared s h r.val) h r.val = 1 ∨ ringState (chCleared s h r.val) h r.val = 2
  · rw [if_pos hs]
    refine ⟨?_, fun _ => ⟨?_, State.flag_setFld_eq _ _ (by decide) rfl⟩, ?_, ?_⟩
    · exact ((State.fld_setFld_of_apart _ _ (by decide)).trans (State.fld_setFld_of_apart _ _ (by decide))).trans (setRing_fld ..)
    · exact (State.flag_setFld_of_apart _ _ (by decide)).trans (State.flag_setFld_eq _ _ (by decide) rfl)
    · exact hm
    · exact ((State.setFlag_half ..).trans (State.setFlag_half ..)).trans hh
  · rw [if_neg hs]
    refine ⟨setRing_fld .., fun h12 => absurd ?_ hs, hm, hh⟩
    rw [chCleared_state (by omega)]
    exact h12

theorem autoPut_clear (s : State) (h : Half) (r : Nat) (auto : Bool) :
    (autoPut s h r auto).mem = s.mem ∧ (autoPut s h r auto).halfA = s.halfA ∧ (autoPut s h r auto).halfB = s.halfB ∧
      (∀ a, (autoPut s h r auto).regReset a = s.regReset a) ∧ (∀ g, (autoPut s h r auto).half g = s.half g) :=
  ⟨State.setFld_mem .., State.setFld_halfA .., State.setFld_halfB .., State.regReset_congr (State.setFld_image ..) (State.setFld_sect ..),
    fun _ => State.setFld_half ..⟩


/-! The steps of a start (R274, R281 to R283). -/

theorem sendEnum_eq {s : State} {h : Half} {r : Nat} {u : RingUnit} (hu : s.ring h r = u) :
    sendEnum s h r =
      let v := s.setRing h r { u with step := 3, backoff := false }
      launch v h r 1 (masterFrame v h r 6 2 31 [0, 0]) := by
  subst hu
  rfl

theorem claimReceive_own {s : State} {h : Half} {r : Nat} (h2 : (s.ring h r).step = 2) (hb : (s.ring h r).backoff = false)
    (pen : Bool) (ep : Nat) : claimReceive s h r true true pen ep = sendEnum s h r := by
  unfold claimReceive
  simp [h2, hb]

theorem claimReceive_foreign {s : State} {h : Half} {r : Nat} (h2 : (s.ring h r).step = 2) (hb : (s.ring h r).backoff = false)
    (hs : s.flag (RING.addr h r) RING.SPLIT = false) (hc : s.inCharge h = false) (ep : Nat) :
    claimReceive s h r false true true ep = ringStop s h r := by
  unfold claimReceive claimPennant ringWithdraw
  simp [h2, hb, hs, hc]

theorem claimReceive_corrupt {s : State} {h : Half} {r : Nat} (h2 : (s.ring h r).step = 2) (pen : Bool) (ep : Nat) :
    claimReceive s h r false false pen ep = s.setRing h r { s.ring h r with backoff := true } := by
  unfold claimReceive
  simp [h2]

theorem enumReturn_eq {s : State} {h : Half} {r hops : Nat} (h3 : (s.ring h r).step = 3) :
    enumReturn s h r hops =
      if hops = (ringNodes s r).length then
        sendProbe ((s.setFld (RING.addr h r) RING.NODES hops).setRing h r { s.ring h r with step := 4 }) h r 1 2 31 [1]
      else ringFail (s.setFld (RING.addr h r) RING.NODES hops) h r 4 0 := by
  unfold enumReturn
  rw [if_neg (not_not.mpr h3)]
  dsimp only
  rw [setFld_ring, setFld_ringNodes]

theorem reportReceive_acked {s : State} {h : Half} {r : Nat} {fr : List Byte} {f : RFrame} {x : NodeReport}
    (hf : parseFrame fr = some f) (hx : reportOf f = some x) (he : f.epoch = ringEpoch s r)
    (hn : ∃ n ∈ ringNodes s r, n.addr = f.node) (h7 : (s.ring h r).step = 7) :
    reportReceive s h r fr =
      let v := setRingNode s h r f.node (fun n => { n with acked := true })
      if allNodes v h r (fun n => n.acked) then v.setRing h r { v.ring h r with step := 8 } else v := by
  have listed : (ringNodes s r).any (fun n => decide (n.addr = f.node)) = true := by
    obtain ⟨n, hn, ha⟩ := hn
    exact List.any_eq_true.mpr ⟨n, hn, decide_eq_true ha⟩
  unfold reportReceive
  simp only [hf, hx, he, listed, h7, ne_eq, not_true_eq_false, Bool.not_true, Bool.false_eq_true, or_self, if_false,
    Nat.reduceEqDiff, if_true]

theorem ringFail_eq (s : State) (h : Half) (r : Nat) {c : Nat} (hc : c ≠ 6) :
    let b := RING.addr h r
    let d := satU 16 (Nat.max (s.fld b RING.D_A) (s.fld b RING.D_B))
    let v := raiseEvt ((((((s.setFld b RING.STATE 4).setFld b RING.FAIL_CODE c).setFld b RING.FOUND_RING 0).setFld b RING.CH_A_OK 0).setFld b
      RING.CH_B_OK 0).setRing h r { s.ring h r with step := 0, backoff := false, last := none }) h (64 + 4 * r)
    ringFail s h r c 0 = faultLog v (64 + 4 * r) (some h) (some c) (some (d + 2 ^ 16 * v.fld b RING.D_MAX)) := by
  unfold ringFail channelsIdle ringEvt
  dsimp only
  simp only [putFlag_ring, setFld_ring, if_neg hc, Nat.mul_zero, Nat.add_zero]
  rfl

theorem stepCode_of_step {k c : Nat} (h : (k, c) ∈ [(1, 1), (2, 3), (3, 4), (4, 4), (5, 4), (6, 10), (7, 10), (8, 9)]) :
    stepCode k = c ∧ k ≠ 0 ∧ c ≠ 6 := by
  simp only [List.mem_cons, Prod.mk.injEq, List.not_mem_nil, or_false] at h
  obtain ⟨rfl, rfl⟩ | ⟨rfl, rfl⟩ | ⟨rfl, rfl⟩ | ⟨rfl, rfl⟩ | ⟨rfl, rfl⟩ | ⟨rfl, rfl⟩ | ⟨rfl, rfl⟩ | ⟨rfl, rfl⟩ := h <;>
    exact ⟨rfl, by decide, by decide⟩

theorem ringRunning_good {s : State} {h : Half} {r : Nat} (h1 : ringState s h r = 1) (h9 : (s.ring h r).step = 9)
    (hg : 16 ≤ (s.ring h r).goodRun) : ringRunning s h r =
      raiseEvt ((ringNodes s r).foldl (fun s n => s.setFld (NODE.addr h r (n.addr - 1)) NODE.N_STATE 2)
        ((s.setFld (RING.addr h r) RING.STATE 2).setRing h r { s.ring h r with retryAt := none })) h (64 + 4 * r) := by
  have cyc : ringCyclic s h r = true := decide_eq_true h9
  unfold ringRunning ringEvt
  rw [if_pos ⟨h1, cyc, hg⟩]
  dsimp only
  rw [setFld_ring, setRing_ringNodes, setFld_ringNodes]

theorem measureReturn_B {s : State} {h : Half} {r : Nat} (h5 : (s.ring h r).step = 5) (lt dl : Nat) :
    measureReturn s h r true lt dl =
      let b := RING.addr h r
      let m := (s.setFld b RING.D_B (satU 16 dl)).setRing h r { s.ring h r with step := 6, tB := lt }
      (ringNodes s r).foldl (fun s n => sendNode s h r n [2])
        (m.setFld b RING.ASYM (b2n (decide (100 < m.fld b RING.D_A - m.fld b RING.D_B ∨ 100 < m.fld b RING.D_B - m.fld b RING.D_A)))) := by
  have h4 : ¬((s.ring h r).step = 4 ∧ (!true) = true) := by
    rw [h5]
    decide
  unfold measureReturn
  dsimp only
  rw [if_neg h4, if_pos ⟨h5, rfl⟩, State.putFlag, setFld_ringNodes, setRing_ringNodes, setFld_ringNodes]

theorem measureReturn_A {s : State} {h : Half} {r : Nat} (h4 : (s.ring h r).step = 4) (lt dl : Nat) :
    measureReturn s h r false lt dl =
      sendProbe ((s.setFld (RING.addr h r) RING.D_A (satU 16 dl)).setRing h r { s.ring h r with step := 5, tA := lt }) h r 2 2 31 [1] := by
  unfold measureReturn
  exact if_pos ⟨h4, rfl⟩

/-- Settles O50: a START, STOP, RESTART, CLR_CNT or CH_CLR is the write of RING.CTRL with its one bit; each frame of the start
acts in its own step, and a step's code is `stepCode` of the step that ran out. -/
theorem ringStart_holds : Obligations.RingStart := by
  unfold Obligations.RingStart
  intro via h r auto chB pen ep hops lt dl fr s hr
  dsimp only
  obtain ⟨bStart, bStop, bRestart, bClr, bCh⟩ := ringCtrl_bits s h r.val auto
  obtain ⟨putMem, putA, putB, putReset, putHalf⟩ := autoPut_clear s h r.val auto
  have putRing : (autoPut s h r.val auto).ring h r.val = s.ring h r.val := setFld_ring ..
  have putState := autoPut_state s h r.val auto
  have stop : exec (.ringStop via r auto) s = .next (ringCtrl s h r.val (2 ^ 1 + 256 * b2n auto)) := next_reaches hr _ _ _
  have start : exec (.ringStart via r auto) s = .next (ringCtrl s h r.val (2 ^ 0 + 256 * b2n auto)) := next_reaches hr _ _ _
  have restart : exec (.restart via r auto) s = .next (ringCtrl s h r.val (2 ^ 2 + 256 * b2n auto)) := next_reaches hr _ _ _
  have clr : exec (.ringClrCnt via r auto) s = .next (ringCtrl s h r.val (2 ^ 3 + 256 * b2n auto)) := next_reaches hr _ _ _
  have ch : exec (.chClr via r auto) s = .next (ringCtrl s h r.val (2 ^ 4 + 256 * b2n auto)) := next_reaches hr _ _ _
  have stopped := ringStop_eq (autoPut s h r.val auto) h r.val
  rw [putRing] at stopped
  refine ⟨fun h12 => ?_, fun h1 h2 => ?_, ?_, ?_, ⟨_, clr, ?_⟩, ⟨_, ch, ?_⟩, fun h2 hb => ⟨?_, ?_, ?_, fun hs hc => ?_, fun hs => ?_⟩,
    fun h2 hb => ?_, fun h2 => ⟨?_, ?_⟩, fun h3 hh => ?_, fun h3 hh => ?_, fun h4 => ?_, fun h5 => ?_, fun hf => ?_,
    fun f x hf hx he hn h7 => ⟨fun ha => ?_, fun ha => ?_⟩, fun c hc h1 => ?_, fun h1 => ⟨?_, ?_⟩, fun h1 h9 hg => ?_⟩
  · rw [start, bStart, ringStart_busy (putState ▸ h12)]
    rfl
  · rw [start, bStart, ringStart_idle (putState ▸ h1) (putState ▸ h2), putRing]
    rfl
  · rw [stop, bStop, stopped]
    rfl
  · rw [restart, bRestart, stopped]
    rfl
  · rw [bClr]
    obtain ⟨hw, hn, hm, hA, hB⟩ := ringClrCnt_reads (autoPut s h r.val auto) h r.val
    exact ⟨fun a ha => (hw a ha).trans (putReset a), hn, hm.trans putMem, hA.trans putA, hB.trans putB⟩
  · rw [bCh]
    obtain ⟨hu, hok, hm, hh⟩ := chClr_reads (autoPut s h r.val auto) h r
    refine ⟨hu.trans (State.fld_of_word (by decide) ?_), fun h12 => hok (putState.symm ▸ h12), hm.trans putMem, hh.trans ?_⟩
    · exact (State.word_resetRegs_inside _ ⟨le_refl _, Nat.lt_add_of_pos_right (by decide)⟩).trans ((putReset _).trans
        (State.word_resetRegs_inside _ ⟨le_refl _, Nat.lt_add_of_pos_right (by decide)⟩).symm)
    · rw [putRing]
      unfold State.setRing
      rw [State.half_onHalf_same, State.half_onHalf_same, putHalf]
  · exact congrArg Host.Outcome.next ((claimReceive_own h2 hb pen _).trans (sendEnum_eq rfl))
  · exact congrArg Host.Outcome.next (if_pos h2)
  · refine congrArg Host.Outcome.next (if_neg fun hx => ?_)
    rw [hb] at hx
    exact Bool.false_ne_true hx.2
  · exact congrArg Host.Outcome.next ((claimReceive_foreign h2 hb hs hc _).trans (ringStop_eq s h r.val))
  · exact congrArg Host.Outcome.next (claimReceive_corrupt h2 pen _)
  · exact congrArg Host.Outcome.next (if_pos ⟨h2, hb⟩)
  · exact congrArg Host.Outcome.next (if_pos h2)
  · exact congrArg Host.Outcome.next (if_neg h2)
  · exact congrArg Host.Outcome.next ((enumReturn_eq h3).trans (if_pos hh))
  · exact congrArg Host.Outcome.next ((enumReturn_eq h3).trans (if_neg hh))
  · exact congrArg Host.Outcome.next (measureReturn_A h4 lt dl)
  · exact congrArg Host.Outcome.next (measureReturn_B h5 lt dl)
  · refine congrArg Host.Outcome.next ?_
    unfold reportReceive
    rw [hf]
  · exact congrArg Host.Outcome.next ((reportReceive_acked hf hx he hn h7).trans (if_pos ha))
  · refine congrArg Host.Outcome.next ((reportReceive_acked hf hx he hn h7).trans (if_neg ?_))
    rw [ha]
    exact Bool.false_ne_true
  · obtain ⟨code, h0, h6⟩ := stepCode_of_step hc
    refine congrArg Host.Outcome.next ((if_pos ⟨h1, h0⟩).trans ?_)
    rw [code]
    exact ringFail_eq s h r.val h6
  · exact congrArg Host.Outcome.next (if_neg fun hx => h1 hx.1)
  · exact congrArg Host.Outcome.next (if_neg fun hx => h1 hx.1)
  · exact congrArg Host.Outcome.next (ringRunning_good h1 h9 hg)


end Sys2Proof.Machine
end

section
/-! PROOFS. A cyclic ring whose half has just handed the pennant over (R19, R367). -/
namespace Sys2Proof.Machine

/-- A cyclic ring in a half that held the pennant until an instant ahead of the running period's start: the command pennant has
left the half, as after a move of the pennant (R367). -/
def handedOverState : State :=
  let s := State.reset.setRing .a 0 { RingUnit.reset with step := 9 }
  s.setPen { s.pen with moved := some (.a, 0, 1000) }

theorem handedOverState_counts :
    (replyReceive handedOverState .a 0 false 0 []).fld (RING.addr .a 0) RING.CRC_ERR_A = 1 := by decide +kernel

theorem handedOverState_crcErr : handedOverState.fld (RING.addr .a 0) RING.CRC_ERR_A = 0 := by decide +kernel

/-- Refutes O51: a half without the pennant still takes a REPLY copy that passed its receiver before the pennant moved (R19,
R367). In `handedOverState` a corrupt copy of that kind is counted, where the statement says that nothing changes. -/
theorem not_ringOperation : ¬ Obligations.RingOperation := by
  unfold Obligations.RingOperation
  intro hall
  obtain ⟨-, -, unheld, -⟩ := hall .a 0 0 false false false 0 0 0 [] 0 none handedOverState
  have run : Host.Outcome.next (replyReceive handedOverState .a 0 false 0 []) = .next handedOverState :=
    unheld (.inr (by decide +kernel))
  have counted := congrArg (fun t : State => t.fld (RING.addr .a 0) RING.CRC_ERR_A) (Host.Outcome.next.inj run)
  exact absurd (handedOverState_counts.symm.trans (counted.trans handedOverState_crcErr)) (by decide)

end Sys2Proof.Machine
end

section
/-! PROOFS. The mailbox of a drive ring (R270). -/
namespace Sys2Proof.Machine

theorem mbxCtrl_fields (node : BitVec 5) (len : BitVec 8) :
    let v := 1 + 256 * node.toNat + 2 ^ 16 * len.toNat
    bitOf v 0 = true ∧ bitOf v 1 = false ∧ bitsOf v 12 8 = node.toNat ∧ bitsOf v 23 16 = len.toNat := by
  have hn := node.isLt
  have hl := len.isLt
  unfold bitOf bitsOf
  simp only [decide_eq_true_eq, decide_eq_false_iff_not]
  omega

theorem mbxCtrl_send (s : State) (h : Half) (r : Nat) (node : BitVec 5) (len : BitVec 8) :
    let b := RING.addr h r
    let w := setRingNode ((s.setFld b RING.TX_FAIL 0).setFld b RING.TX_BUSY 1) h r node.toNat (fun n => { n with txTog := !n.txTog })
    mbxCtrl s h r (1 + 256 * node.toNat + 2 ^ 16 * len.toNat) =
      if len.toNat ≤ 254 ∧ s.flag b RING.TX_BUSY = false then
        w.setRing h r { w.ring h r with mbx := some ⟨node.toNat, txBytes w h r len.toNat, 0, 0⟩ }
      else s := by
  obtain ⟨send, ack, toNode, length⟩ := mbxCtrl_fields node len
  unfold mbxCtrl
  simp only [send, ack, toNode, length, Bool.false_eq_true, if_false, true_and, Bool.not_eq_true']
  rfl

/-- What an uplink frame with a message does where no message of the master waits. -/
theorem mbxReceive_uplink {s : State} {h : Half} {r : Nat} {fr : List Byte} {f : RFrame} (h9 : (s.ring h r).step = 9)
    (hf : parseFrame fr = some f) (h4 : f.typ = 4) (he : f.epoch = ringEpoch s r) (h2 : 2 ≤ f.body.length)
    (h256 : f.body.length ≤ 256) (hn : (nodeAt s r f.node).isSome = true) (hm : (s.ring h r).mbx = none) :
    let b := RING.addr h r
    let tog := bitOf (bytesAt f.body 0 1) 0
    mbxReceive s h r fr =
      if (f.body.drop 2).isEmpty = true ∨ tog = ((s.ring h r).nodes.getD (f.node - 1) .reset).rxTog ∨ s.flag b RING.RX_READY = true then s
      else ((((setRingNode s h r f.node (fun n => { n with rxTog := tog })).setWords (b + 0x600) (wordsOf 64 (f.body.drop 2))).setFld
        b RING.RX_READY 1).setFld b RING.RX_NODE f.node).setFld b RING.RX_LEN (f.body.drop 2).length := by
  have cyc : ringCyclic s h r = true := decide_eq_true h9
  have known : (nodeAt s r f.node).isNone = false := by
    rw [Option.isNone_eq_false_iff]
    exact hn
  have taken : ¬(f.typ ≠ 4 ∨ f.epoch ≠ ringEpoch s r ∨ f.body.length < 2 ∨ 256 < f.body.length ∨ (nodeAt s r f.node).isNone = true) := by
    rw [known]
    rintro (h | h | h | h | h)
    · exact h h4
    · exact h he
    · omega
    · omega
    · cases h
  unfold mbxReceive
  simp only [cyc, Bool.not_true, Bool.false_eq_true, if_false, hf, if_neg taken, hm]
  rfl

theorem mbxReceive_stopped {s : State} {h : Half} {r : Nat} (h9 : (s.ring h r).step ≠ 9) (fr : List Byte) : mbxReceive s h r fr = s := by
  have cyc : ringCyclic s h r = false := decide_eq_false h9
  unfold mbxReceive
  simp only [cyc, Bool.not_false, if_true]

theorem mbxReceive_corrupt {s : State} {h : Half} {r : Nat} {fr : List Byte} (h9 : (s.ring h r).step = 9) (hf : parseFrame fr = none) :
    mbxReceive s h r fr = s.count (RING.addr h r) RING.CRC_ERR_A := by
  have cyc : ringCyclic s h r = true := decide_eq_true h9
  unfold mbxReceive
  simp only [cyc, Bool.not_true, Bool.false_eq_true, if_false, hf]

theorem mbxFail_none {s : State} {h : Half} {r : Nat} (hm : (s.ring h r).mbx = none) : mbxFail s h r = s := by
  unfold mbxFail
  rw [hm]

theorem mbxFail_some {s : State} {h : Half} {r : Nat} {m : MbxTx} (hm : (s.ring h r).mbx = some m) :
    mbxFail s h r = if 65 ≤ m.sends then
      ((s.setRing h r { s.ring h r with mbx := none }).setFld (RING.addr h r) RING.TX_BUSY 0).setFld (RING.addr h r) RING.TX_FAIL 1
      else s := by
  unfold mbxFail
  simp only [hm]
  rfl

/-- Settles O52: a SEND acts where the message fits and TX_BUSY is clear; an uplink message is stored where it is not empty, its
toggle is new and RX_READY is clear. -/
theorem ringMailbox : Obligations.RingMailbox := by
  unfold Obligations.RingMailbox
  intro via h r node len fr s hr
  dsimp only
  have send : exec (.mbxSend via r node len) s = .next (mbxCtrl s h r.val (1 + 256 * node.toNat + 2 ^ 16 * len.toNat)) :=
    next_reaches hr _ _ _
  have ack : exec (.rxAck via r) s = .next (mbxCtrl s h r.val 2) := next_reaches hr _ _ _
  refine ⟨fun hbad => ?_, fun hbusy hlen => ?_, ack.trans rfl, fun h9 => ?_, fun h9 hf => ?_, fun f h9 hf h4 he h2 h256 hn hm =>
    ⟨fun hno => ?_, fun hlen htog hrdy => ?_⟩, fun hm => ?_, fun m hm => ⟨fun hs => ?_, fun hs => ?_⟩⟩
  · refine send.trans (congrArg Host.Outcome.next ((mbxCtrl_send ..).trans (if_neg fun hok => ?_)))
    obtain ⟨h254, hfree⟩ := hok
    rcases hbad with hbusy | hlen
    · exact Bool.false_ne_true (hfree.symm.trans hbusy)
    · rw [hlen] at h254
      exact absurd h254 (by decide)
  · refine send.trans (congrArg Host.Outcome.next ((mbxCtrl_send ..).trans (if_pos ⟨?_, hbusy⟩)))
    have : len.toNat ≠ 255 := fun h255 => hlen (BitVec.eq_of_toNat_eq h255)
    have := len.isLt
    omega
  · exact congrArg Host.Outcome.next (mbxReceive_stopped h9 fr)
  · exact congrArg Host.Outcome.next (mbxReceive_corrupt h9 hf)
  · refine congrArg Host.Outcome.next ((mbxReceive_uplink h9 hf h4 he h2 h256 hn hm).trans (if_pos ?_))
    refine hno.imp_left fun hlen => ?_
    rw [List.isEmpty_iff_length_eq_zero, List.length_drop, hlen]
  · refine congrArg Host.Outcome.next ((mbxReceive_uplink h9 hf h4 he h2 h256 hn hm).trans ((if_neg ?_).trans ?_))
    · rintro (he | ht | hr)
      · rw [List.isEmpty_iff_length_eq_zero, List.length_drop] at he
        omega
      · exact htog ht
      · exact Bool.false_ne_true (hrdy.symm.trans hr)
    · rw [List.length_drop]
  · exact congrArg Host.Outcome.next (mbxFail_none hm)
  · exact congrArg Host.Outcome.next ((mbxFail_some hm).trans (if_neg (by omega)))
  · exact congrArg Host.Outcome.next ((mbxFail_some hm).trans (if_pos hs))

end Sys2Proof.Machine
end

section
/-! PROOFS. Safety inputs, output tests, resets and the island's self-test (R193, R197, R198, R200, R206). -/
namespace Sys2Proof.Machine

theorem setIsl_setFld (s : State) (x : IslandUnit) (b : Nat) (f : Fld) (v : Nat) :
    (s.setIsl x).setFld b f v = (s.setFld b f v).setIsl x := by
  unfold State.setFld
  split <;> rfl

@[simp] theorem setIsl_fld (s : State) (x : IslandUnit) (b : Nat) (f : Fld) : (s.setIsl x).fld b f = s.fld b f :=
  State.fld_congr rfl rfl rfl b f

/-! Contacts and pairs (R197, R198). -/

theorem contactQualify_same {s : State} {ch : IslCh} {c : Nat} {lv : Bool} (h : (contactOf s ch c).level = lv) :
    contactQualify s ch c lv = s := if_pos h

theorem contactQualify_single_x {s : State} {c : Nat} {lv : Bool} (h : (contactOf s .x c).level ≠ lv) (hk : (pairCfg s (c / 2)).kind = 2) :
    contactQualify s .x c lv = s.setIsl { s.isl with contactsX := s.isl.contactsX.set c ⟨lv, s.isl.clk⟩ } :=
  (if_neg h).trans (if_pos hk)

theorem contactQualify_single_y {s : State} {c : Nat} {lv : Bool} (h : (contactOf s .y c).level ≠ lv) (hk : (pairCfg s (c / 2)).kind = 2) :
    contactQualify s .y c lv = (s.setIsl { s.isl with contactsY := s.isl.contactsY.set c ⟨lv, s.isl.clk⟩ }).setFld ISL.addr ISL.LEVEL
      (setBit (s.fld ISL.addr ISL.LEVEL) c lv) := by
  refine (if_neg h).trans ((if_pos ?_).trans ?_)
  · unfold pairCfg
    rw [State.setFld_sectCfg]
    exact hk
  · unfold setContact
    dsimp only
    rw [setIsl_fld]

/-- A digit of a field of 24 bits after a number was added there to a digit 0. -/
theorem digit_add {v k p : Nat} (hp : p < 12) (h0 : v / 4 ^ p % 4 = 0) (hk : k < 4) : (v + k * 4 ^ p) % 2 ^ 24 / 4 ^ p % 4 = k := by
  have split : (2 : Nat) ^ 24 = 4 ^ p * (4 * 4 ^ (11 - p)) := by
    rw [← pow_succ', ← pow_add, show p + (11 - p + 1) = 12 by omega]
    rfl
  rw [split, Nat.mod_mul_right_div_self, Nat.mod_mul_right_mod, Nat.add_mul_div_right _ _ (by positivity)]
  omega

/-- A pair with its fault latched. -/
def pairLatched (s : State) (p kind : Nat) : State :=
  setPair (s.setFld ISL.addr ISL.PAIR_FAULT (s.fld ISL.addr ISL.PAIR_FAULT + kind * 4 ^ p)) p
    { pairRun s p with demX := true, demY := true, seenA := false, seenB := false, due := 0 }

theorem pairRun_congr {s t : State} (e : t.isl = s.isl) (p : Nat) : pairRun t p = pairRun s p := by
  unfold pairRun
  rw [e]

theorem pairFail_free {s : State} {p : Nat} (h0 : pairFault s p = 0) (kind : Nat) :
    pairFail s p kind = raiseBoth (pairLatched s p kind) 226 := by
  unfold pairFail pairLatched
  rw [if_neg (not_not.mpr h0)]
  dsimp only
  rw [pairRun_congr (State.setFld_isl ..)]

theorem pairLatched_reads {s : State} {p kind : Nat} (hp : p < 12) (h0 : pairFault s p = 0) (hk : kind < 4) :
    pairFault (pairLatched s p kind) p = kind ∧ (pairLatched s p kind).mem = s.mem ∧
      (pairLatched s p kind).isl = { s.isl with pairs := s.isl.pairs.set p { pairRun s p with
        demX := true, demY := true, seenA := false, seenB := false, due := 0 } } := by
  refine ⟨?_, State.setFld_mem .., ?_⟩
  · unfold pairFault pairLatched setPair
    rw [setIsl_fld, State.fld_setFld_eq _ _ (by decide)]
    exact digit_add hp h0 hk
  · unfold pairLatched setPair
    simp only [State.setFld_isl]
    rfl

theorem discrepancy_none {s : State} {p : Nat} (h : (pairRun s p).differs = none) : discrepancy s p = s := by
  unfold discrepancy
  rw [h]

theorem discrepancy_some {s : State} {p t : Nat} (h : (pairRun s p).differs = some t) :
    discrepancy s p = if (pairCfg s p).kind ≠ 2 ∧ (pairCfg s p).disc * 1000000 < s.isl.clk - t then pairFail s p 2 else s := by
  unfold discrepancy
  simp only [h]

/-! Output tests (R200). -/

/-- The outputs that another's pulse pulls low with it. -/
def crossed (s : State) (o rd : Nat) : List Nat :=
  (List.range 24).filter (fun p => decide (p ≠ o ∧ s.isl.outs.getD p false = true ∧ (!bitOf rd p) = true))

theorem outputTest_off {s : State} {o : Nat} (h : s.sectCfg.outTest.getD (o / 2) true = false ∨ s.isl.outs.getD o false = false)
    (rd : Nat) : outputTest s o rd = s := by
  refine if_pos ?_
  rcases h with h | h <;> rw [h]
  · rfl
  · exact Bool.or_true _

theorem outputTest_on {s : State} {o : Nat} (ht : s.sectCfg.outTest.getD (o / 2) true = true) (ho : s.isl.outs.getD o false = true)
    (rd : Nat) : outputTest s o rd =
      (crossed s o rd).foldl (fun u p => outputFault (outputFault u o 3) p 3) (if bitOf rd o then outputFault s o 1 else s) := by
  unfold outputTest crossed
  rw [List.foldl_filter]
  simp only [ht, ho, Bool.not_true, Bool.or_self, Bool.false_eq_true, if_false, decide_eq_true_eq]

theorem crossed_none {s : State} {o rd : Nat}
    (h : ∀ p, p < 24 → p ≠ o → s.isl.outs.getD p false = true → bitOf rd p = true) : crossed s o rd = [] := by
  refine List.filter_eq_nil_iff.mpr fun p hp hd => ?_
  obtain ⟨hne, hout, hlow⟩ := of_decide_eq_true hd
  rw [h p (List.mem_range.mp hp) hne hout] at hlow
  exact Bool.false_ne_true hlow

theorem crossed_one {s : State} {o rd q : Nat} (hq : q < 24) (hqo : q ≠ o) (hout : s.isl.outs.getD q false = true) (hlow : bitOf rd q = false)
    (h : ∀ p, p < 24 → p ≠ o → p ≠ q → s.isl.outs.getD p false = true → bitOf rd p = true) : crossed s o rd = [q] := by
  have only : ∀ p ∈ List.range 24, decide (p ≠ o ∧ s.isl.outs.getD p false = true ∧ (!bitOf rd p) = true) = (p == q) := by
    intro p hp
    by_cases hpq : p = q
    · subst hpq
      rw [hout, hlow]
      simp [hqo]
    · rw [beq_false_of_ne hpq]
      refine decide_eq_false fun hd => ?_
      obtain ⟨hne, ho, hl⟩ := hd
      rw [h p (List.mem_range.mp hp) hne hpq ho] at hl
      exact Bool.false_ne_true hl
  unfold crossed
  rw [List.filter_congr only, List.filter_beq, List.count_eq_one_of_mem List.nodup_range (List.mem_range.mpr hq)]
  rfl

/-! Resets and the self-test (R193, R206). -/

/-- The state in which a reset input has been released in both channels. -/
def released (s : State) (c : Nat) : State := contactQualify (contactQualify s .x c false) .y c false

/-- A demand of what reset input c serves is present. -/
def demandPresent (s : State) (c : Nat) : Bool :=
  (resetFuncs s c).any (fun f => s.flag (ISL.addr + 4 * f) ISL.DEMAND) || (resetArms s c).any (fun a => (ssmRun s a).stop)

theorem resetRelease_pressed {s : State} {c : Nat} (h : (contactOf s .y c).level = true) :
    let d := s.isl.clk - (contactOf s .y c).at_
    let rel := released s c
    resetRelease s c =
      if demandPresent rel c = true ∨ d < 100000000 ∨ 5000000000 < d then raiseBoth (rel.count ISL.addr ISL.RESET_REJ_CNT) 231
      else connReset ((resetArms rel c).foldl (fun s a => setSsm s a { ssmRun s a with wait := false })
        ((resetFuncs rel c).foldl (fun s f => s.setFld (ISL.addr + 4 * f) ISL.F_WAIT_RESET 0) rel)) (resetFuncs rel c) (resetArms rel c) := by
  refine (if_neg ?_).trans rfl
  rw [h]
  exact Bool.false_ne_true

theorem resetRelease_open {s : State} {c : Nat} (h : (contactOf s .y c).level = false) : resetRelease s c = s := by
  refine if_pos ?_
  rw [h]
  rfl

/-- Reset input c serves as an island reset. -/
def servesIsland (s : State) (c : Nat) : Bool :=
  (List.range 32).any (fun f => decide (funcKind s f = 7) && (funcCfg s f).islandReset && decide ((funcCfg s f).pairs.contains (c / 2)))

theorem islandReset_eq (s : State) (c : Nat) :
    islandReset s c = if servesIsland s c = true ∧ (islState s = 3 ∨ s.fld ISL.addr ISL.OUT_FAULT ≠ 0) then
      driveOutputs ((List.range 16).foldl (fun s g => updateGroup s g)
        ((s.setFld ISL.addr ISL.STATE 0).setIsl { s.isl with testing := true })) else s := by
  unfold islandReset
  simp only [decide_eq_true_eq, State.setFld_isl]
  rfl

theorem selfTestDone_idle {s : State} (h : s.isl.testing = false) (pass : Bool) : selfTestDone s pass = s := by
  unfold selfTestDone
  rw [h]
  rfl

theorem selfTestDone_failed {s : State} (h : s.isl.testing = true) :
    selfTestDone s false = islandFault (s.setIsl { s.isl with testing := false }) 5 0 := by
  unfold selfTestDone
  rw [h]
  rfl

theorem selfTestDone_passed {s : State} (h : s.isl.testing = true) :
    selfTestDone s true = waitAll (takeMode2 (((s.setFld ISL.addr ISL.OUT_FAULT 0).setIsl
      { s.isl with testing := false, heldOff := List.replicate 24 false }).setFld ISL.addr ISL.STATE 0)) := by
  unfold selfTestDone
  rw [h]
  dsimp only
  rw [setIsl_setFld]
  rfl

theorem islandOverTemp_eq (s : State) : islandOverTemp s =
    if islState s = 3 then s
    else islandFault { s with freeIdx := s.freeIdx + 1 } ((Config.freeValue s.freeIdx).toNat % 256) 0 := rfl

/-- Settles O53: each input command is one equation of the island's operation, cut at the conditions the statement names. -/
theorem islandInputsAndResets : Obligations.IslandInputsAndResets := by
  unfold Obligations.IslandInputsAndResets
  intro ch c lv p src m pass s
  dsimp only
  refine ⟨fun h => ?_, fun h hk => ?_, fun h hk => ⟨_, congrArg Host.Outcome.next (contactQualify_single_y h hk), ?_, ?_, ?_⟩, fun h => ?_,
    fun t ht hk => ⟨fun hd => ?_, fun hd h0 => ⟨pairLatched s p.val 2, ?_, ?_⟩⟩, rfl, fun h => ?_, fun ht ho hc hall => ?_,
    fun ht ho hc hall => ?_, fun q hq hqc ht ho hoq hc hlow hall => ?_, fun h => ?_, fun h hlo hhi hp => ?_, fun h hbad => ?_,
    fun h => ?_, fun hs h => ?_, fun h => ?_, fun h => ?_, fun h => ?_, fun h => ?_, fun h => ?_⟩
  · exact congrArg Host.Outcome.next (contactQualify_same h)
  · exact congrArg Host.Outcome.next (contactQualify_single_x h hk)
  · exact State.setFld_isl ..
  · exact State.fld_setFld_eq _ _ (by decide)
  · exact State.setFld_mem ..
  · exact congrArg Host.Outcome.next (discrepancy_none h)
  · exact congrArg Host.Outcome.next ((discrepancy_some ht).trans (if_neg fun hx => absurd hx.2 (Nat.not_lt.mpr hd)))
  · exact congrArg Host.Outcome.next (((discrepancy_some ht).trans (if_pos ⟨hk, hd⟩)).trans (pairFail_free h0 2))
  · obtain ⟨hf, hm, hi⟩ := pairLatched_reads p.isLt h0 (by decide : 2 < 4)
    exact ⟨hf, hi, hm⟩
  · exact congrArg Host.Outcome.next (outputTest_off h _)
  · refine congrArg Host.Outcome.next ((outputTest_on ht ho _).trans ?_)
    rw [crossed_none hall, hc]
    rfl
  · refine congrArg Host.Outcome.next ((outputTest_on ht ho _).trans ?_)
    rw [crossed_none hall, hc]
    rfl
  · refine congrArg Host.Outcome.next ((outputTest_on ht ho _).trans ?_)
    rw [crossed_one hq hqc hoq hlow hall, hc]
    rfl
  · exact congrArg Host.Outcome.next (resetRelease_open h)
  · refine congrArg Host.Outcome.next ((resetRelease_pressed h).trans (if_neg ?_))
    rintro (hx | hx | hx)
    · exact Bool.false_ne_true (Eq.trans (Eq.symm hp) hx)
    · exact absurd hx (Nat.not_lt.mpr hlo)
    · exact absurd hx (Nat.not_lt.mpr hhi)
  · refine congrArg Host.Outcome.next ((resetRelease_pressed h).trans (if_pos ?_))
    rcases hbad with hx | hx | hx
    · exact .inr (.inl hx)
    · exact .inr (.inr hx)
    · exact .inl hx
  · refine congrArg Host.Outcome.next ((islandReset_eq s c.val).trans (if_neg fun hx => ?_))
    rcases h with h | ⟨h3, h0⟩
    · exact Bool.false_ne_true (Eq.trans (Eq.symm h) hx.1)
    · exact hx.2.elim h3 fun hn => hn h0
  · exact congrArg Host.Outcome.next ((islandReset_eq s c.val).trans (if_pos ⟨hs, h⟩))
  · exact congrArg Host.Outcome.next (selfTestDone_idle h pass)
  · exact congrArg Host.Outcome.next (selfTestDone_failed h)
  · exact congrArg Host.Outcome.next (selfTestDone_passed h)
  · exact congrArg Host.Outcome.next ((islandOverTemp_eq s).trans (if_pos h))
  · exact congrArg Host.Outcome.next ((islandOverTemp_eq s).trans (if_neg h))

end Sys2Proof.Machine
end

section
/-! PROOFS. The safety cycle and the safety timers (R191, R192, R203, R207, R208, R238). -/
namespace Sys2Proof.Machine

theorem ss1Expire_running {s : State} {g : Nat} (hc : (groupRun s g).cat = some 1 ∨ (groupRun s g).cat = some 2)
    (ho : (groupRun s g).off = false) :
    ss1Expire s g = if (groupCfg s g).tSs1 * 1000000 ≤ s.isl.clk - (groupRun s g).since then groupOff s g else s := by
  unfold ss1Expire
  simp only [hc, ho, Bool.not_false, true_and]

theorem dwellExpire_none {s : State} {a : Nat} (h : (ssmRun s a).dwell = none) : dwellExpire s a = s := by
  unfold dwellExpire
  simp only [h]

theorem dwellExpire_stopped {s : State} {a t : Nat} (h : (ssmRun s a).dwell = some t) (hs : (ssmRun s a).stop = true) :
    dwellExpire s a = if (ssmCfg s a).dwell * 1000000 ≤ s.isl.clk - t then
      (setSsm s a { ssmRun s a with stop := false, dwell := none, ceil := 9, wait := !(ssmCfg s a).auto || (ssmRun s a).testStop,
                                    testStop := false }).setFld (SSMARM.addr a) SSMARM.DWELL_RUN 0
      else s := by
  unfold dwellExpire
  simp only [h, hs, true_and]
  rfl

theorem unlock_none {s : State} {f : Nat} (h : (funcRun s f).safeSince = none) : unlock s f = s := by
  unfold unlock
  simp only [h]

theorem unlock_safe {s : State} {f t : Nat} (h : (funcRun s f).safeSince = some t) (hk : funcKind s f = 2) (hs : lockSafe s f = true) :
    unlock s f = if lockAsked s f = true ∧ (funcCfg s f).unlockDelay * 1000000 ≤ s.isl.clk - t then
      driveOutputs (setFunc s f { funcRun s f with lockOpen := true }) else s := by
  unfold unlock
  simp only [h, hk, hs, true_and]

theorem twoHandExpire_other {s : State} {f : Nat} (hk : funcKind s f ≠ 3) : twoHandExpire s f = s := if_neg fun hx => hk hx.1

theorem twoHandExpire_two {s : State} {f : Nat} (hk : funcKind s f = 3) :
    let p := (funcCfg s f).pairs.getD 0 0
    let q := (funcCfg s f).pairs.getD 1 0
    let t := if pairDemands s .y p then pairStamp s q else pairStamp s p
    twoHandExpire s f = if pairDemands s .y p ≠ pairDemands s .y q ∧ 500000000 < s.isl.clk - t then
      setFunc s f { funcRun s f with blocked := true } else s := by
  unfold twoHandExpire
  dsimp only
  simp only [hk, true_and]
  cases pairDemands s .y ((funcCfg s f).pairs.getD 0 0) <;> cases pairDemands s .y ((funcCfg s f).pairs.getD 1 0) <;> simp

/-- Settles O54: the cycle is the model's own sequence outside start-up and the self-test; each timer acts at its time. -/
theorem safetyCycleAndTimers : Obligations.SafetyCycleAndTimers := by
  unfold Obligations.SafetyCycleAndTimers
  intro xNs errX errY rd g a f s s0 places s1 s2 s3 s4 s5 fd sx sy s6 s7 s8 s9 gr ar fr
  have state0 : islState s0 = islState s := setIsl_fld ..
  refine ⟨fun h => ?_, fun ht h0 => ?_, fun hc ho => ⟨fun hd => ?_, fun hd => ?_⟩, fun h => ?_, fun t ht hs => ⟨fun hd => ?_, fun hd => ?_⟩,
    fun h => ?_, fun t ht hk hs => ⟨fun hq hd => ?_, fun hq => ?_⟩, fun hk => ?_, fun hk => ⟨fun hne hd => ?_, fun hbad => ?_⟩⟩
  · exact congrArg Host.Outcome.next (if_pos (h.imp_right fun h0 => state0.trans h0))
  · refine congrArg Host.Outcome.next (if_neg ?_)
    rintro (hx | hx)
    · exact Bool.false_ne_true (ht.symm.trans hx)
    · exact h0 (state0.symm.trans hx)
  · exact congrArg (fun t => Host.Outcome.next (driveOutputs t)) ((ss1Expire_running hc ho).trans (if_pos hd))
  · exact congrArg (fun t => Host.Outcome.next (driveOutputs t)) ((ss1Expire_running hc ho).trans (if_neg (Nat.not_le.mpr hd)))
  · exact congrArg Host.Outcome.next (dwellExpire_none h)
  · exact congrArg Host.Outcome.next ((dwellExpire_stopped ht hs).trans (if_pos hd))
  · exact congrArg Host.Outcome.next ((dwellExpire_stopped ht hs).trans (if_neg (Nat.not_le.mpr hd)))
  · exact congrArg Host.Outcome.next (unlock_none h)
  · exact congrArg Host.Outcome.next ((unlock_safe ht hk hs).trans (if_pos ⟨hq, hd⟩))
  · refine congrArg Host.Outcome.next ((unlock_safe ht hk hs).trans (if_neg fun hx => ?_))
    exact hq.elim (fun hn => Bool.false_ne_true (hn.symm.trans hx.1)) fun hd => absurd hx.2 (Nat.not_le.mpr hd)
  · exact congrArg Host.Outcome.next (twoHandExpire_other hk)
  · exact congrArg Host.Outcome.next ((twoHandExpire_two hk).trans (if_pos ⟨hne, hd⟩))
  · refine congrArg Host.Outcome.next ((twoHandExpire_two hk).trans (if_neg fun hx => ?_))
    exact hbad.elim (fun he => hx.1 he) fun hd => absurd hx.2 (Nat.not_lt.mpr hd)

end Sys2Proof.Machine
end

section
/-! PROOFS. The sealed registers and the safety section of the island (R8, R213, R215, R217, R230). -/
namespace Sys2Proof.Machine

/-! Sealed writes (R8, R215). -/

theorem rwsBy_closed {s : State} (h : s.flag ISL.addr ISL.SEAL_WE = false) (m : Master) (off : Nat) (f : State → State) :
    rwsBy s m off f = failMaster (raiseBoth (((s.setFld ISL.addr ISL.WR_REFUSED 1).count ISL.addr ISL.WR_REFUSED_CNT).setFld ISL.addr
      ISL.REFUSED_ADDR off) 229) m := by
  unfold rwsBy rwsWrite
  simp only [h, Bool.false_eq_true, if_false]
  rfl

theorem rwsBy_open {s : State} (h : s.flag ISL.addr ISL.SEAL_WE = true) (m : Master) (off : Nat) (f : State → State) :
    rwsBy s m off f = f s := if_pos h

theorem ssmTest_reads (s : State) {a : Nat} (ha : a < 16) :
    let t := ssmTest s a
    t.fld SSM.addr SSM.TEST_ARM = a ∧ t.fld SSM.addr SSM.MEAS_ARM = a ∧ t.flag SSM.addr SSM.MEAS_VALID = false ∧
      t.flag SSM.addr SSM.TEST_BUSY = true ∧ t.isl = { s.isl with test := some ⟨a, false, 0, 0, 0, none⟩ } ∧ t.mem = s.mem := by
  have valid : ∀ (u : State) (v : IslandUnit) (b : Nat) (f : Fld), (u.setIsl v).flag b f = u.flag b f := fun u v b f => by
    unfold State.flag
    rw [setIsl_fld]
  unfold ssmTest State.putFlag State.setFlag
  dsimp only
  refine ⟨?_, ?_, ?_, ?_, ?_, ?_⟩
  · rw [setIsl_fld]
    simp (disch := decide) only [State.fld_setFld_of_apart, State.fld_setFld_eq]
    exact Nat.mod_eq_of_lt ha
  · rw [setIsl_fld]
    simp (disch := decide) only [State.fld_setFld_of_apart, State.fld_setFld_eq]
    exact Nat.mod_eq_of_lt ha
  · rw [valid, State.flag_setFld_of_apart _ _ (by decide), State.flag_setFld_eq _ _ (by decide) rfl]
    rfl
  · rw [valid, State.flag_setFld_eq _ _ (by decide) rfl]
    rfl
  · simp only [State.setFld_isl]
    rfl
  · simp only [State.setIsl_mem, State.setFld_mem]

/-- The counters of one connection cleared. -/
def connCleared (s : State) (c : Nat) : State := (s.setWordN (CONN.addr c + 8) 0).setWordN (CONN.addr c + 12) 0xFFFF0000

theorem connsCleared_reads (l : List Nat) (s : State) :
    let t := l.foldl connCleared s
    (∀ c, c ∈ l ∨ (s.word (CONN.addr c + 8) = 0 ∧ s.word (CONN.addr c + 12) = 0xFFFF0000) →
      t.word (CONN.addr c + 8) = 0 ∧ t.word (CONN.addr c + 12) = 0xFFFF0000) ∧ t.isl = s.isl ∧ t.mem = s.mem := by
  induction l generalizing s with
  | nil => exact ⟨fun c hc => hc.resolve_left (by simp), rfl, rfl⟩
  | cons d l ih =>
    obtain ⟨hw, hi, hm⟩ := ih (connCleared s d)
    refine ⟨fun c hc => hw c ?_, hi.trans ((State.setWordN_isl ..).trans (State.setWordN_isl ..)),
      hm.trans ((State.setWordN_mem ..).trans (State.setWordN_mem ..))⟩
    have last : (connCleared s d).word (CONN.addr d + 12) = 0xFFFF0000 := State.word_setWordN_same ..
    have first : (connCleared s d).word (CONN.addr d + 8) = 0 :=
      (State.word_setWordN_other _ _ (by omega)).trans (State.word_setWordN_same ..)
    by_cases hcd : c = d
    · subst hcd
      exact .inr ⟨first, last⟩
    · have apart : CONN.addr c + 16 ≤ CONN.addr d ∨ CONN.addr d + 16 ≤ CONN.addr c := by
        unfold CONN.addr
        omega
      have keeps (a : Nat) (h8 : a ≠ CONN.addr d + 8) (h12 : a ≠ CONN.addr d + 12) : (connCleared s d).word a = s.word a :=
        (State.word_setWordN_other _ _ h12).trans (State.word_setWordN_other _ _ h8)
      refine hc.imp (fun hm => (List.mem_cons.mp hm).resolve_left hcd) fun hv => ?_
      rw [keeps _ (by omega) (by omega), keeps _ (by omega) (by omega)]
      exact hv

/-- The staged bytes after k bytes of a word were stored at an offset. -/
def stagedWith (m : List (Nat × Byte)) (off : Nat) (w : Word) : Nat → List (Nat × Byte)
  | 0 => m
  | k + 1 => storeSet 0 (stagedWith m off w k) (off + k) (w.extractLsb' (8 * k) 8)

theorem stagingWrite_eq (s : State) (off : Nat) (w : Word) :
    stagingWrite s off w = s.setIsl { s.isl with staged := stagedWith s.isl.staged off w 4 } := rfl

theorem stagedWith_wf {m : List (Nat × Byte)} (hm : storeWf 0 m = true) (off : Nat) (w : Word) (k : Nat) :
    storeWf 0 (stagedWith m off w k) = true := by
  induction k with
  | zero => exact hm
  | succ k ih => exact storeWf_set _ _ ih

theorem stagedWith_reads {m : List (Nat × Byte)} (hm : storeWf 0 m = true) (off : Nat) (w : Word) (k : Nat) :
    (∀ i, i < k → storeGet 0 (stagedWith m off w k) (off + i) = w.extractLsb' (8 * i) 8) ∧
      ∀ o, o < off ∨ off + k ≤ o → storeGet 0 (stagedWith m off w k) o = storeGet 0 m o := by
  induction k with
  | zero => exact ⟨fun i hi => absurd hi (Nat.not_lt_zero i), fun _ _ => rfl⟩
  | succ k ih =>
    obtain ⟨inside, outside⟩ := ih
    have sorted := storeWf_sorted (stagedWith_wf hm off w k)
    refine ⟨fun i hi => ?_, fun o ho => ?_⟩
    · by_cases hik : i = k
      · subst hik
        exact storeGet_set_same _ _ sorted
      · exact (storeGet_set_other _ (by omega) sorted).trans (inside i (by omega))
    · exact (storeGet_set_other _ (by omega) sorted).trans (outside o (by omega))

/-! The end of a load, the switches, and the status (R213, R215). -/

theorem loadComplete_idle {s : State} (h : s.flag ISL.addr ISL.LOADING = false) : loadComplete s = s := by
  refine if_pos ?_
  rw [h]
  rfl

theorem loadComplete_loading {s : State} (h : s.flag ISL.addr ISL.LOADING = true) :
    let w := s.setFld ISL.addr ISL.LOADING 0
    let cfg := sectionCfgOf s.isl.staged
    loadComplete s = if cfg.valid then waitAll (takeMode2 (placeSection (w.setFld ISL.addr ISL.LOAD_FAIL 0) s.isl.staged cfg
      (crc32c (cellBytes s.isl.staged cfg.length)))) else w.setFld ISL.addr ISL.LOAD_FAIL 1 := by
  have cells (b : Nat) (f : Fld) (v : Nat) (u : State) : stagedCells (u.setFld b f v) = stagedCells u :=
    congrArg IslandUnit.staged (State.setFld_isl ..)
  unfold loadComplete takeSection State.putFlag State.setFlag
  simp only [h, Bool.not_true, Bool.false_eq_true, if_false, cells]
  rfl

theorem switchChange_eq (s : State) (x y : Nat) :
    let w := (s.setIsl { s.isl with swX := x, swY := y }).setFld ISL.addr ISL.ADDR_NOW (y % 1024)
    switchChange s x y = raiseBoth (if y % 1024 = s.fld ISL.addr ISL.ADDR then w else w.setFld ISL.addr ISL.ADDR_CHANGED 1) 230 := by
  unfold switchChange
  dsimp only
  rw [setIsl_fld]
  by_cases h : y % 1024 = s.fld ISL.addr ISL.ADDR
  · rw [if_pos h, decide_eq_false (not_not.mpr h)]
    rfl
  · rw [if_neg h, decide_eq_true h]
    rfl

/-- Settles O55: a sealed write is `rwsBy`, which refuses it while SEAL_WE is closed. -/
theorem islandSection : Obligations.IslandSection := by
  unfold Obligations.IslandSection
  intro m v off a x y s
  dsimp only
  refine ⟨fun h => ?_, fun h => ⟨fun hl => ?_, fun hl => ?_, fun hv => ?_, fun hv => ?_, ⟨_, congrArg Host.Outcome.next (rwsBy_open h m _ _), ssmTest_reads s a.isLt⟩,
    ⟨_, congrArg Host.Outcome.next (rwsBy_open h m _ _), ?_⟩,
    ⟨_, congrArg Host.Outcome.next ((rwsBy_open h m _ _).trans (stagingWrite_eq ..)), ?_⟩⟩, fun h => ?_, fun h => ?_, ?_, ⟨_, rfl, ?_⟩⟩
  · have refuse (o : Nat) (f : State → State) := congrArg (Host.Outcome.next (φ := Fault) (ρ := Refusal)) (rwsBy_closed h m o f)
    exact ⟨refuse _ _, refuse _ _, refuse _ _, refuse _ _, refuse _ _⟩
  · exact congrArg Host.Outcome.next ((rwsBy_open h m _ _).trans (if_pos hl))
  · refine congrArg Host.Outcome.next ((rwsBy_open h m _ _).trans (if_neg ?_))
    rw [hl]
    exact Bool.false_ne_true
  · exact congrArg Host.Outcome.next ((rwsBy_open h m _ _).trans (if_pos hv))
  · exact congrArg Host.Outcome.next ((rwsBy_open h m _ _).trans (if_neg hv))
  · obtain ⟨hw, hi, hm⟩ := connsCleared_reads (List.range 64) s
    exact ⟨fun c hc => hw c (.inl (List.mem_range.mpr hc)), hi, hm⟩
  · refine ⟨rfl, rfl, fun hwf => ?_⟩
    obtain ⟨inside, outside⟩ := stagedWith_reads hwf (4 * off.val) v 4
    exact ⟨inside, fun o ho => outside o (by omega)⟩
  · exact congrArg Host.Outcome.next (loadComplete_idle h)
  · exact congrArg Host.Outcome.next (loadComplete_loading h)
  · exact congrArg Host.Outcome.next (switchChange_eq s x.toNat y.toNat)
  · exact ⟨State.setFld_readData .., (State.flag_setFld_eq _ _ (by decide) rfl).trans rfl, State.setFld_mem .., State.setFld_isl ..⟩

end Sys2Proof.Machine
end

section
/-! PROOFS. Safe connections (R241, R244, R245, R252, R253). -/
namespace Sys2Proof.Machine

/-- The registers of the connections lie above those of the message block. -/
theorem conn_above_smsg (c : Nat) : SMSG.addr + 0x100 ≤ CONN.addr c := Nat.le_add_right _ _

/-- Of a connection's registers, a change of its state writes C_STATE alone. -/
theorem putConnState_own (s : State) {c : Nat} (hc : c < 64) (st : Nat) (f : Fld) :
    (putConnState s c st).fld (CONN.addr c) f = (s.setFld (CONN.addr c) CONN.C_STATE st).fld (CONN.addr c) f := by
  have above := conn_above_smsg c
  unfold putConnState State.setMapBit
  dsimp only
  rw [State.fld_setFld_of_outside _ _ (.inr ?_)]
  · exact State.fld_of_words fun a h1 h2 => State.word_setWordN_other _ _ (by omega)
  · exact le_trans (Nat.add_le_add_left (by decide : SMSG.RUN_COUNT.off + SMSG.RUN_COUNT.span ≤ 0x100) SMSG.addr)
      (le_trans above (Nat.le_add_right _ _))

theorem putConnState_fld (s : State) {c : Nat} (hc : c < 64) (st : Nat) {f : Fld} (ha : CONN.C_STATE.apart f = true) :
    (putConnState s c st).fld (CONN.addr c) f = s.fld (CONN.addr c) f :=
  (putConnState_own s hc st f).trans (State.fld_setFld_of_apart _ _ ha)

theorem putConnState_state (s : State) {c : Nat} (hc : c < 64) (st : Nat) :
    (putConnState s c st).fld (CONN.addr c) CONN.C_STATE = st % 4 :=
  (putConnState_own s hc st _).trans (State.fld_setFld_eq _ _ (by decide))

theorem putConnState_isl (s : State) (c st : Nat) : (putConnState s c st).isl = s.isl := by
  unfold putConnState
  simp only [State.setFld_isl, State.setMapBit_isl]

@[simp] theorem setConn_fld (s : State) (c : Nat) (x : ConnRun) (b : Nat) (f : Fld) : (s.setConn c x).fld b f = s.fld b f :=
  setIsl_fld ..

theorem conn_congr {s t : State} (e : t.isl = s.isl) (c : Nat) : t.conn c = s.conn c := by
  unfold State.conn
  rw [e]

theorem waitGroups_congr {s t : State} {c : Nat} (hi : t.isl = s.isl) (hg : t.sectCfg = s.sectCfg)
    (hf : ∀ f, f = CONN.TYPE ∨ f = CONN.C_STATE → t.fld (CONN.addr c) f = s.fld (CONN.addr c) f) : waitGroups t c = waitGroups s c := by
  unfold waitGroups connType connRuns groupCfg
  rw [hi, hg, hf _ (.inl rfl), hf _ (.inr rfl)]

/-! The safe state of a connection (R253). -/

/-- Connection c in its safe state: what the receiver keeps of it. -/
def safeConn (s : State) (c : Nat) : ConnRun :=
  { s.conn c with rxX := { (s.conn c).rxX with st := 1 }, rxY := { (s.conn c).rxY with st := 1 }, data := zeros (s.connCfg c).lenRx }

/-- The state in which connection c has gone safe, before event 235. -/
def wentSafe (s : State) (c cause : Nat) : State :=
  (putConnState ((s.setIsl { s.isl with groups := waitGroups s c }).setConn c (safeConn s c)) c 1).setFld (CONN.addr c) CONN.CAUSE cause

theorem enterSafe_eq (s : State) (c cause : Nat) :
    enterSafe s c cause = if 2 ≤ s.fld (CONN.addr c) CONN.C_STATE then raiseBoth (wentSafe s c cause) 235 else wentSafe s c cause := rfl

theorem wentSafe_fld (s : State) {c : Nat} (hc : c < 64) (cause : Nat) {f : Fld} (h1 : CONN.CAUSE.apart f = true)
    (h2 : CONN.C_STATE.apart f = true) : (wentSafe s c cause).fld (CONN.addr c) f = s.fld (CONN.addr c) f := by
  unfold wentSafe
  rw [State.fld_setFld_of_apart _ _ h1, putConnState_fld _ hc _ h2, setConn_fld, setIsl_fld]

theorem wentSafe_isl (s : State) (c cause : Nat) :
    (wentSafe s c cause).isl = { s.isl with conns := s.isl.conns.set c (safeConn s c), groups := waitGroups s c } := by
  unfold wentSafe
  rw [State.setFld_isl, putConnState_isl]
  rfl

/-- A connection that is counted and goes safe. -/
theorem enterSafe_counted (s : State) {c : Nat} (hc : c < 64) {cnt : Fld} {cause : Nat} (hcause : cause < 8)
    (hn : cnt.hi + 1 - cnt.lo = 16) (hhi : cnt.hi < 64) (a1 : CONN.CAUSE.apart cnt = true) (a2 : CONN.C_STATE.apart cnt = true)
    (b1 : cnt.apart CONN.TYPE = true) (b2 : cnt.apart CONN.C_STATE = true) :
    let n := CONN.addr c
    ∃ u, enterSafe (s.count n cnt) c cause = (if 2 ≤ s.fld n CONN.C_STATE then raiseBoth u 235 else u) ∧ u.fld n CONN.C_STATE = 1 ∧
      u.fld n CONN.CAUSE = cause ∧ u.fld n cnt = Nat.min 65535 (s.fld n cnt + 1) ∧
      u.isl = { s.isl with conns := s.isl.conns.set c (safeConn s c), groups := waitGroups s c } := by
  have hisl : (s.count (CONN.addr c) cnt).isl = s.isl := State.count_isl ..
  refine ⟨wentSafe (s.count (CONN.addr c) cnt) c cause, ?_, ?_, ?_, ?_, ?_⟩
  · rw [enterSafe_eq, State.fld_count_of_apart _ b2]
  · exact (State.fld_setFld_of_apart _ _ (by decide)).trans (putConnState_state _ hc 1)
  · exact (State.fld_setFld_eq _ _ (by decide)).trans (Nat.mod_eq_of_lt hcause)
  · rw [wentSafe_fld _ hc _ a1 a2, State.fld_count_eq _ hhi, hn]
    exact Nat.min_comm ..
  · rw [wentSafe_isl, hisl, waitGroups_congr (s := s) hisl (State.count_sectCfg ..)]
    · unfold safeConn
      rw [conn_congr hisl]
      unfold State.connCfg
      rw [State.count_sectCfg]
    · rintro f (rfl | rfl)
      · exact State.fld_count_of_apart _ b1
      · exact State.fld_count_of_apart _ b2

/-! The receiver (R253). -/

theorem pduArrive_unused {s : State} {c : Nat} {b : List Byte} (h : connType s c = 0 ∨ b.length < 6) : pduArrive s c b = s :=
  if_pos (h.imp_right .inl)

theorem pduArrive_length {s : State} {c : Nat} {b : List Byte} (h1 : connType s c = 1) (hn : b.length - 6 ≠ 6) : pduArrive s c b = s := by
  refine if_pos (.inr (.inr (.inl ?_)))
  rw [if_pos h1, decide_eq_false hn]
  rfl

theorem pduArrive_held {s : State} (h2 : islState s = 2) (c : Nat) (b : List Byte) : pduArrive s c b = s :=
  if_pos (.inr (.inr (.inr (.inr (decide_eq_true (.inl h2))))))

/-- A PDU of a peer connection in time reaches the receiver. -/
theorem pduArrive_peer {s : State} {c : Nat} {b : List Byte} (h2 : islState s ≠ 2) (h3 : islState s ≠ 3) (ht : connType s c = 3)
    (h6 : 6 ≤ b.length) (hlen : b.length - 6 ≤ (s.connCfg c).lenRx) (hboth : (s.connCfg c).both = false) (hcopy : (s.conn c).copy = none)
    (hd : (s.conn c).rxY.st = 1 ∨ s.isl.clk ≤ (s.conn c).rxY.deadline) : pduArrive s c b = receivePdu s c s.isl.clk b := by
  have late : ¬((s.conn c).rxY.st ≠ 1 ∧ (s.conn c).rxY.deadline < s.isl.clk) := fun hx =>
    hd.elim hx.1 fun hle => absurd hx.2 (Nat.not_lt.mpr hle)
  have free : connHeld s c = false := decide_eq_false fun hx => hx.elim h2 fun hx => h3 hx.1
  have short : ¬b.length < 6 := Nat.not_lt.mpr h6
  unfold pduArrive
  simp [ht, short, hlen, hcopy, hboth, free, late]

/-- The first good PDU of a connection in the safe state. -/
theorem receivePdu_sync {s : State} {c : Nat} {b : List Byte} {t : Nat} (ht : connType s c = 3)
    (good : bytesAt b (2 + (b.length - 6)) 4 = safeCrc (rxIdentity s c) (bytesAt b 0 2) ((b.drop 2).take (b.length - 6)))
    (h1 : (s.conn c).rxY.st = 1) :
    let seq := bytesAt b 0 2
    let k := s.connCfg c
    receivePdu s c t b = (putConnState (s.setConn c { s.conn c with
      rxX := ⟨2, seq, t + k.watchdog * 11 / 10⟩, rxY := ⟨2, seq, t + k.watchdog⟩ }) c 2).setFld (CONN.addr c) CONN.SEQ_RX seq := by
  unfold receivePdu
  dsimp only
  rw [if_neg (not_not.mpr good), if_neg fun hx => absurd (ht.symm.trans hx.1) (by decide), if_pos h1]

theorem receivePdu_checked {s : State} {c : Nat} {b : List Byte} {t : Nat} (ht : connType s c = 3)
    (good : bytesAt b (2 + (b.length - 6)) 4 = safeCrc (rxIdentity s c) (bytesAt b 0 2) ((b.drop 2).take (b.length - 6)))
    (h1 : (s.conn c).rxY.st ≠ 1) (hs : bytesAt b 0 2 ≠ ((s.conn c).rxY.last + 1) % 65536) :
    receivePdu s c t b = enterSafe (s.count (CONN.addr c) CONN.SEQ_FAIL_CNT) c 3 := by
  unfold receivePdu
  dsimp only
  rw [if_neg (not_not.mpr good), if_neg fun hx => absurd (ht.symm.trans hx.1) (by decide), if_neg h1, if_pos hs]

/-- The registers in which a PDU accepted in time leaves its least margin. -/
def marginNoted (s : State) (c t : Nat) : State :=
  s.setFld (CONN.addr c) CONN.WD_MIN (Nat.min (s.fld (CONN.addr c) CONN.WD_MIN) (satU 16 (((s.conn c).rxY.deadline - t) / 10000)))

theorem receivePdu_run {s : State} {c : Nat} {b : List Byte} {t : Nat} (ht : connType s c = 3)
    (good : bytesAt b (2 + (b.length - 6)) 4 = safeCrc (rxIdentity s c) (bytesAt b 0 2) ((b.drop 2).take (b.length - 6)))
    (h1 : (s.conn c).rxY.st ≠ 1) (hs : bytesAt b 0 2 = ((s.conn c).rxY.last + 1) % 65536) :
    let seq := bytesAt b 0 2
    let k := s.connCfg c
    receivePdu s c t b = (putConnState ((marginNoted s c t).setConn c { s.conn c with
      rxX := ⟨3, seq, t + k.watchdog * 11 / 10⟩, rxY := ⟨3, seq, t + k.watchdog⟩, data := (b.drop 2).take (b.length - 6), accAt := t }) c 3).setFld (CONN.addr c) CONN.SEQ_RX seq := by
  unfold receivePdu
  dsimp only
  rw [if_neg (not_not.mpr good), if_neg fun hx => absurd (ht.symm.trans hx.1) (by decide), if_neg h1, if_neg (not_not.mpr hs)]
  rfl

/-- A connection's state, number and unit after an accepted PDU. -/
theorem accepted_reads (s : State) {c : Nat} (hc : c < 64) (y : ConnRun) {st : Nat} (hst : st < 4) (seq : Nat) :
    let n := CONN.addr c
    let t := (putConnState (s.setConn c y) c st).setFld n CONN.SEQ_RX seq
    t.fld n CONN.C_STATE = st ∧ t.fld n CONN.SEQ_RX = seq % 65536 ∧ t.isl = { s.isl with conns := s.isl.conns.set c y } := by
  refine ⟨?_, State.fld_setFld_eq _ _ (by decide), (State.setFld_isl ..).trans ((putConnState_isl ..).trans rfl)⟩
  exact (State.fld_setFld_of_apart _ _ (by decide)).trans ((putConnState_state _ hc st).trans (Nat.mod_eq_of_lt hst))

theorem marginNoted_isl (s : State) (c t : Nat) : (marginNoted s c t).isl = s.isl := State.setFld_isl ..

/-! Sending (R245). -/

theorem pduSend_drive {s : State} {c : Nat} (h1 : connType s c = 1) (ho : (s.conn c).out = none) :
    pduSend s c = (s.setConn c { s.conn c with
      out := some (safePdu (txIdentity s c) (s.conn c).seqNext (driveCommand s c)), seqNext := ((s.conn c).seqNext + 1) % 65536 }).setFld (CONN.addr c) CONN.SEQ_TX (s.conn c).seqNext := by
  unfold pduSend
  simp only [h1, Nat.one_ne_zero, if_false, if_true, ho, Option.isSome_none, Bool.and_false, Bool.false_eq_true]

/-- Settles O56: every refusal of the receiver is a counted `enterSafe`, an accepted PDU is `accepted_reads`. -/
theorem safeConnections : Obligations.SafeConnections := by
  unfold Obligations.SafeConnections
  intro c ch b s
  dsimp only
  have hc : c.val < 64 := c.isLt
  have fails (cnt : Fld) (cause : Nat) {f : State} (hu : ∃ u, f =
      (if 2 ≤ s.fld (CONN.addr c.val) CONN.C_STATE then raiseBoth u 235 else u) ∧ u.fld (CONN.addr c.val) CONN.C_STATE = 1 ∧
      u.fld (CONN.addr c.val) CONN.CAUSE = cause ∧ u.fld (CONN.addr c.val) cnt = Nat.min 65535 (s.fld (CONN.addr c.val) cnt + 1) ∧
      u.isl = { s.isl with conns := s.isl.conns.set c.val (safeConn s c.val), groups := waitGroups s c.val }) :
      ∃ u, Host.Outcome.next (φ := Fault) (ρ := Refusal) f =
        (if 2 ≤ s.fld (CONN.addr c.val) CONN.C_STATE then .next (raiseBoth u 235) else .next u) ∧
        u.fld (CONN.addr c.val) CONN.C_STATE = 1 ∧ u.fld (CONN.addr c.val) CONN.CAUSE = cause ∧
        u.fld (CONN.addr c.val) cnt = Nat.min 65535 (s.fld (CONN.addr c.val) cnt + 1) ∧
        u.isl = { s.isl with conns := s.isl.conns.set c.val (safeConn s c.val), groups := waitGroups s c.val } := by
    obtain ⟨u, hf, rest⟩ := hu
    refine ⟨u, ?_, rest⟩
    rw [hf]
    split <;> rfl
  refine ⟨fun h => congrArg Host.Outcome.next (pduArrive_unused h), fun h1 hn => congrArg Host.Outcome.next (pduArrive_length h1 hn),
    fun h2 => congrArg Host.Outcome.next (pduArrive_held h2 _ _), fun h2 h3 ht h6 hlen hboth hcopy hd => ?_, fun h0 => ?_,
    fun h0 h1 hd => ?_, fun h => ?_, fun h0 => ?_, fun h1 _ ho => ?_⟩
  · have got : exec (.safePduReceive c b) s = .next (receivePdu s c.val s.isl.clk b) :=
      congrArg Host.Outcome.next (pduArrive_peer h2 h3 ht h6 hlen hboth hcopy hd)
    rw [got]
    refine ⟨fun bad => ?_, fun good h1 => ?_, fun good h1 hs => ?_, fun good h1 hs => ?_⟩
    · have run : receivePdu s c.val s.isl.clk b = enterSafe (s.count (CONN.addr c.val) CONN.CRC_FAIL_CNT) c.val 2 := if_pos bad
      rw [run]
      exact fails _ _ (enterSafe_counted s hc (by decide) (by decide) (by decide) (by decide) (by decide) (by decide) (by decide))
    · rw [receivePdu_sync ht good h1]
      exact ⟨_, rfl, accepted_reads s hc _ (by decide) _⟩
    · rw [receivePdu_checked ht good h1 hs]
      exact fails _ _ (enterSafe_counted s hc (by decide) (by decide) (by decide) (by decide) (by decide) (by decide) (by decide))
    · rw [receivePdu_run ht good h1 hs]
      obtain ⟨hst, hseq, hisl⟩ := accepted_reads (marginNoted s c.val s.isl.clk) hc { s.conn c.val with
        rxX := ⟨3, bytesAt b 0 2, s.isl.clk + (s.connCfg c.val).watchdog * 11 / 10⟩,
        rxY := ⟨3, bytesAt b 0 2, s.isl.clk + (s.connCfg c.val).watchdog⟩, data := (b.drop 2).take (b.length - 6), accAt := s.isl.clk }
        (by decide : 3 < 4) (bytesAt b 0 2)
      rw [marginNoted_isl] at hisl
      exact ⟨_, rfl, hst, hseq, hisl⟩
  · exact congrArg Host.Outcome.next (if_neg fun hx => hx.1 h0)
  · have run : watchdogCheck s c.val .y = enterSafe (s.count (CONN.addr c.val) CONN.WD_CNT) c.val 1 := if_pos ⟨h0, h1, hd⟩
    have got : exec (.safeWatchdogExpiry c .y) s = .next (enterSafe (s.count (CONN.addr c.val) CONN.WD_CNT) c.val 1) :=
      congrArg Host.Outcome.next run
    rw [got]
    exact fails _ _ (enterSafe_counted s hc (by decide) (by decide) (by decide) (by decide) (by decide) (by decide) (by decide))
  · exact congrArg Host.Outcome.next (if_neg fun hx => h.elim hx.2.1 fun hle => absurd hx.2.2 (Nat.not_lt.mpr hle))
  · exact congrArg Host.Outcome.next (if_pos h0)
  · exact congrArg Host.Outcome.next (pduSend_drive h1 ho)

end Sys2Proof.Machine
end

section
/-! PROOFS. The backplane interface: arbitration, errors, interrupts, acknowledges and SYSRST (R415, R418 to R424). -/
namespace Sys2Proof.Machine

@[simp] theorem setBus_fld (s : State) (x : BusUnit) (b : Nat) (f : Fld) : (s.setBus x).fld b f = s.fld b f :=
  State.fld_congr rfl rfl rfl b f

@[simp] theorem setBus_flag (s : State) (x : BusUnit) (b : Nat) (f : Fld) : (s.setBus x).flag b f = s.flag b f :=
  State.flag_of_fld (setBus_fld ..)

/-! Arbitration and the bus timer (R419 to R421). -/

theorem arbitrates_iff (s : State) : arbitrates s = true ↔ s.flag BPI.addr BPI.SYSCTL = true ∧ s.flag BPI.addr BPI.SC_CONFLICT = false := by
  unfold arbitrates sysctl
  rw [Bool.and_eq_true, Bool.not_eq_true']

theorem busRequest_arbiter {s : State} (h : arbitrates s = true) (breq bbsy : Bool) :
    busRequest s breq bbsy = if bbsy then s.setBus { s.bus with grant := none }
      else if breq then s.setBus { s.bus with grant := some (s.bus.grant.getD s.tb0) } else s := by
  refine if_neg ?_
  rw [h]
  exact Bool.false_ne_true

theorem not_arbiter {s : State} (h : arbitrates s = false) (breq bbsy k32 io w : Bool) (a : Nat) :
    busRequest s breq bbsy = s ∧ busTimer s k32 io w a = s ∧ foreignArbiter s = s := by
  have off : (!arbitrates s) = true := by
    rw [h]
    rfl
  refine ⟨if_pos off, if_pos off, if_neg ?_⟩
  rw [h]
  exact Bool.false_ne_true

/-- A backplane error recorded in the registers, before its event. -/
def errNoted (s : State) (kind master core a : Nat) (io w : Bool) : State :=
  (s.setFld BPI.addr BPI.ERR_ADDR a).setWordN (BPI.addr + 0x14) (kind + master * 16 + core * 256 + b2n io * 2 ^ 13 + b2n w * 2 ^ 14)

theorem busError_eq (s : State) (k32 : Bool) (kind master core a : Nat) (io w : Bool) :
    busError s k32 kind master core a io w = raiseBoth (errNoted s kind master core a io w) (if k32 then 241 else 240) := rfl

theorem fld_setWordN_own (s : State) (b : Nat) (f : Fld) (hf : f.hi < 32) (v : Nat) :
    (s.setWordN (b + f.off) v).fld b f = bitsOf (v % 2 ^ 32) f.hi f.lo := by
  unfold State.fld
  rw [if_pos hf, State.wordN_setWordN_same]

theorem b2n_lt_two (b : Bool) : b2n b < 2 := by cases b <;> decide

theorem errNoted_reads (s : State) {kind a : Nat} (hk : kind < 16) (ha : a < 2 ^ 32) (io w : Bool) :
    let t := errNoted s kind 6 0 a io w
    t.fld BPI.addr BPI.ERR_ADDR = a ∧ t.fld BPI.addr BPI.KIND = kind ∧ t.fld BPI.addr BPI.ERR_IOSP = b2n io ∧
      t.fld BPI.addr BPI.ERR_WRT = b2n w ∧ t.bus = s.bus ∧ t.mem = s.mem := by
  have hio : b2n io < 2 := b2n_lt_two io
  have hw : b2n w < 2 := b2n_lt_two w
  refine ⟨?_, ?_, ?_, ?_, State.setFld_bus .., State.setFld_mem ..⟩
  · refine (State.fld_of_words fun x h1 h2 => State.word_setWordN_other _ _ ?_).trans ((State.fld_setFld_eq _ _ (by decide)).trans
      (Nat.mod_eq_of_lt (lt_trans ha (by decide))))
    have : BPI.ERR_ADDR.off + BPI.ERR_ADDR.span = 0x14 := by decide
    omega
  · refine (fld_setWordN_own _ BPI.addr BPI.KIND (by decide) _).trans ?_
    unfold bitsOf BPI.KIND
    dsimp only
    omega
  · refine (fld_setWordN_own _ BPI.addr BPI.ERR_IOSP (by decide) _).trans ?_
    unfold bitsOf BPI.ERR_IOSP
    dsimp only
    omega
  · refine (fld_setWordN_own _ BPI.addr BPI.ERR_WRT (by decide) _).trans ?_
    unfold bitsOf BPI.ERR_WRT
    dsimp only
    omega

theorem busTimer_arbiter {s : State} (h : arbitrates s = true) (k32 io w : Bool) (a : Nat) :
    busTimer s k32 io w a = raiseBoth (errNoted (s.setBus { s.bus with berr := true }) (if k32 then 5 else 4) 6 0 a io w)
      (if k32 then 241 else 240) := by
  refine (if_neg ?_).trans (busError_eq ..)
  rw [h]
  exact Bool.false_ne_true

theorem foreignArbiter_early {s : State} (h : arbitrates s = true) (ht : s.tb0 ≤ s.boot.startAt + 10000000) :
    foreignArbiter s = faultLog ((s.setFld BPI.addr BPI.SC_CONFLICT 1).setBus { s.bus with grant := none }) 0xFF none none none := by
  unfold foreignArbiter State.setFlag
  rw [h, decide_eq_true ht]
  simp only [Bool.and_self, if_true]

theorem grantLost_given {s : State} {t : Nat} (h : s.bus.grant = some t) :
    grantLost s = if s.tb0 < t + 2000 then s
      else (s.count BPI.addr BPI.GRANT_LOST).setBus { s.bus with grant := some s.tb0 } := by
  unfold grantLost
  simp only [h]

/-! Interrupt lines and acknowledges (R422, R424). -/

theorem interruptAsserted_eq (s : State) (k32 : Bool) (i : Nat) (on : Bool) :
    let f := if k32 then BPI.ASSERTED32 else BPI.ASSERTED16
    let t := s.setFld BPI.addr f (setBit (s.fld BPI.addr f) i on)
    interruptAsserted s k32 i on =
      if on && !bitOf (s.fld BPI.addr f) i && busHandles t k32 i then raiseBoth t (if k32 then 243 else 242) else t := rfl

/-- The selector of an acknowledge, with its answer cleared. -/
def iackSet (s : State) (sel : Nat) : State :=
  ((s.setFld BPI.addr BPI.IACK_SEL sel).setFld BPI.addr BPI.IACK_DONE 0).setFld BPI.addr BPI.IACK_ERR 0

/-- The registers of an acknowledge that the interrupter answered. -/
def iackRegs (s : State) (vec ga : Nat) : State :=
  ((s.setFld BPI.addr BPI.IACK_VEC vec).setFld BPI.addr BPI.IACK_GA ga).setFld BPI.addr BPI.IACK_DONE 1

/-- An acknowledge that the interrupter answered. -/
def iackGot (s : State) (sel v : Nat) : State :=
  (iackRegs s (if 8 ≤ sel then bitsOf v 15 8 else bitsOf v 7 0) (if 8 ≤ sel then bitsOf v 4 0 else 0)).setBus
    { s.bus with acked := some (sel, s.tb0) }

/-- The acknowledge cycle on a level or line, by its selector. -/
theorem iackWrite_eq (s : State) {sel : Nat} (hsel : (1 ≤ sel ∧ sel ≤ 4) ∨ 8 ≤ sel) (h16 : sel < 16) (ans : Option Nat) :
    let i := if 8 ≤ sel then sel - 8 else sel - 1
    let k := decide (8 ≤ sel)
    let t := iackSet s sel
    iackWrite s sel ans = if busHandles t k i then (match ans with
      | none => busError (t.setFld BPI.addr BPI.IACK_ERR 1) k (if k then 5 else 4) 6 0 (if k then i else i + 1) false false
      | some v => iackGot t sel v) else t := by
  have known : ¬(sel = 0 ∨ (4 < sel ∧ sel < 8) ∨ 15 < sel) := by omega
  unfold iackWrite
  dsimp only
  rw [if_neg known]
  cases hh : busHandles (iackSet s sel) (decide (8 ≤ sel)) (if 8 ≤ sel then sel - 8 else sel - 1) with
  | false =>
    refine (if_pos ?_).trans (if_neg Bool.false_ne_true).symm
    simp only [decide_eq_true_eq]
    exact congrArg (! ·) hh
  | true =>
    refine (if_neg ?_).trans ((?_ : _ = _).trans (if_pos rfl).symm)
    · simp only [decide_eq_true_eq]
      exact fun hx => Bool.false_ne_true ((congrArg (! ·) hh).symm.trans hx)
    · cases ans with
      | none => simp only [decide_eq_true_eq, iackSet, State.putFlag, State.setFlag, b2n, Bool.false_eq_true, if_false]
      | some v =>
        simp only [decide_eq_true_eq, iackSet, iackGot, iackRegs, State.putFlag, State.setFlag, b2n, Bool.false_eq_true, if_false,
          State.setFld_bus, State.setFld_tb0]

theorem iack_vector (sel : Nat) {v : Nat} (hv : v < 2 ^ 16) :
    (if 8 ≤ sel then bitsOf v 15 8 else bitsOf v 7 0) % 2 ^ 8 = if 8 ≤ sel then v / 256 else v % 256 := by
  unfold bitsOf
  split <;> omega

theorem iack_slot (sel v : Nat) : (if 8 ≤ sel then bitsOf v 4 0 else 0) % 2 ^ 5 = if 8 ≤ sel then v % 32 else 0 := by
  unfold bitsOf
  split <;> omega

theorem iackRegs_reads (s : State) (vec ga : Nat) :
    let t := iackRegs s vec ga
    t.flag BPI.addr BPI.IACK_DONE = true ∧ t.flag BPI.addr BPI.IACK_ERR = s.flag BPI.addr BPI.IACK_ERR ∧
      t.fld BPI.addr BPI.IACK_VEC = vec % 2 ^ 8 ∧ t.fld BPI.addr BPI.IACK_GA = ga % 2 ^ 5 ∧
      t.mem = s.mem ∧ t.halfA = s.halfA ∧ t.halfB = s.halfB := by
  unfold iackRegs
  refine ⟨State.flag_setFld_eq _ _ (by decide) rfl, ?_, ?_, ?_, ?_, ?_, ?_⟩
  · rw [State.flag_setFld_of_apart _ _ (by decide), State.flag_setFld_of_apart _ _ (by decide), State.flag_setFld_of_apart _ _ (by decide)]
  · rw [State.fld_setFld_of_apart _ _ (by decide), State.fld_setFld_of_apart _ _ (by decide), State.fld_setFld_eq _ _ (by decide)]
    rfl
  · rw [State.fld_setFld_of_apart _ _ (by decide), State.fld_setFld_eq _ _ (by decide)]
    rfl
  · simp only [State.setFld_mem]
  · simp only [State.setFld_halfA]
  · simp only [State.setFld_halfB]

theorem iackGot_reads (s : State) (sel : Nat) {v : Nat} (hv : v < 2 ^ 16) (he : s.flag BPI.addr BPI.IACK_ERR = false) :
    let t := iackGot s sel v
    t.flag BPI.addr BPI.IACK_DONE = true ∧ t.flag BPI.addr BPI.IACK_ERR = false ∧
      t.fld BPI.addr BPI.IACK_VEC = (if 8 ≤ sel then v / 256 else v % 256) ∧
      t.fld BPI.addr BPI.IACK_GA = (if 8 ≤ sel then v % 32 else 0) ∧ t.bus = { s.bus with acked := some (sel, s.tb0) } ∧
      t.mem = s.mem ∧ t.halfA = s.halfA ∧ t.halfB = s.halfB := by
  obtain ⟨done, err, vec, ga, mem, hA, hB⟩ := iackRegs_reads s (if 8 ≤ sel then bitsOf v 15 8 else bitsOf v 7 0)
    (if 8 ≤ sel then bitsOf v 4 0 else 0)
  exact ⟨(setBus_flag ..).trans done, (setBus_flag ..).trans (err.trans he), (setBus_fld ..).trans (vec.trans (iack_vector sel hv)),
    (setBus_fld ..).trans (ga.trans (iack_slot sel v)), State.setBus_bus .., (State.setBus_mem ..).trans mem,
    (State.setBus_halfA ..).trans hA, (State.setBus_halfB ..).trans hB⟩

theorem iackSet_reads (s : State) (sel : Nat) :
    let t := iackSet s sel
    t.flag BPI.addr BPI.IACK_ERR = false ∧ t.flag BPI.addr BPI.IACK_DONE = false ∧ t.bus = s.bus ∧ t.tb0 = s.tb0 ∧ t.mem = s.mem ∧
      t.halfA = s.halfA ∧ t.halfB = s.halfB := by
  unfold iackSet
  simp only [State.setFld_bus, State.setFld_tb0, State.setFld_mem, State.setFld_halfA, State.setFld_halfB, and_self, and_true]
  refine ⟨?_, ?_⟩
  · rw [State.flag_setFld_eq _ _ (by decide) rfl]
    rfl
  · rw [State.flag_setFld_of_apart _ _ (by decide), State.flag_setFld_eq _ _ (by decide) rfl]
    rfl

/-- The registers of an acknowledge survive the record of a backplane error. -/
theorem errNoted_flag (s : State) (kind master core a : Nat) (io w : Bool) {f : Fld} (hf : f.off = 0x94) :
    (errNoted s kind master core a io w).flag BPI.addr f = s.flag BPI.addr f := by
  have err : BPI.ERR_ADDR.off + BPI.ERR_ADDR.span = 0x14 := by decide
  refine State.flag_of_fld ((State.fld_of_words fun x h1 h2 => State.word_setWordN_other _ _ (by omega)).trans
    (State.fld_of_words fun x h1 h2 => State.word_setFld_outside _ _ (by omega)))

theorem iackReassert_level {s : State} {l t : Nat} (h : s.bus.acked = some (l, t)) :
    iackReassert s = if s.tb0 < t + 10000 then s
      else if bitOf (s.fld BPI.addr (if 8 ≤ l then BPI.ASSERTED32 else BPI.ASSERTED16)) (if 8 ≤ l then l - 8 else l - 1) then
        raiseBoth (s.setBus { s.bus with acked := none }) (if 8 ≤ l then 243 else 242)
      else s.setBus { s.bus with acked := none } := by
  unfold iackReassert
  simp only [h, decide_eq_true_eq, setBus_fld]

theorem iackCycle_none {s : State} {k32 : Bool} {i : Nat} (h : vecLowest s k32 i = none) :
    iackCycle s k32 i = s.setBus { s.bus with passed := true } := by
  unfold iackCycle
  rw [h]

theorem iackCycle_k16 {s : State} {i v : Nat} (h : vecLowest s false i = some v) :
    iackCycle s false i = (s.setBus { s.bus with passed := false }).answer .k16
      (BitVec.ofNat 64 (s.fld BPI.addr BPI.K16_IVEC / 256 ^ i % 256)) := by
  unfold iackCycle
  rw [h]
  dsimp only
  rw [if_neg Bool.false_ne_true, setBus_fld]

theorem iackCycle_k32 {s : State} {i v : Nat} (h : vecLowest s true i = some v) :
    iackCycle s true i = (s.setBus { s.bus with passed := false }).answer .k32
      (BitVec.ofNat 64 (s.fld MOD.addr MOD.STRAPS % 32 + v * 256)) := by
  unfold iackCycle
  rw [h]
  dsimp only
  rw [if_pos rfl, setBus_fld]

/-! SYSRST, counters and the doorbell (R418, R423, R424). -/

theorem sysrstReceive_other {s : State} (h : s.flag BPI.addr BPI.SYSCTL = false) (pa pb : Bool) :
    sysrstReceive s pa pb = if s.flag BPI.addr BPI.SYSRST_ACT then faultLog (moduleReset s pa pb) 0xFF none none none
      else raiseBoth s 245 := by
  refine if_neg ?_
  unfold sysctl
  rw [h]
  exact Bool.false_ne_true

theorem bpiClrCnt_reads (s : State) : (bpiClrCnt s).fld BPI.addr BPI.GRANT_LOST = 0 ∧ (bpiClrCnt s).fld BPI.addr BPI.STAGE_DROP = 0 ∧
    (bpiClrCnt s).mem = s.mem ∧ ∀ a, a ≠ BPI.addr + 0x1C → (bpiClrCnt s).word a = s.word a := by
  have zero : (bpiClrCnt s).wordN (BPI.addr + 0x1C) = 0 := congrArg BitVec.toNat (State.word_setWord_same ..)
  refine ⟨?_, ?_, State.setWord_mem .., fun a ha => State.word_setWord_other _ _ ha⟩
  · show bitsOf ((bpiClrCnt s).wordN (BPI.addr + 0x1C)) 15 0 = 0
    rw [zero]
    rfl
  · show bitsOf ((bpiClrCnt s).wordN (BPI.addr + 0x1C)) 31 16 = 0
    rw [zero]
    rfl

theorem doorbell_reads (s : State) {v : Nat} (hv : v < 2 ^ 32) :
    let t := s.setWordN (BPI.addr + 0x18) v
    t.fld BPI.addr BPI.DOORBELL = v ∧ (∀ a, a ≠ BPI.addr + 0x18 → t.word a = s.word a) ∧ t.mem = s.mem := by
  refine ⟨(fld_setWordN_own _ BPI.addr BPI.DOORBELL (by decide) _).trans ?_, fun a ha => State.word_setWordN_other _ _ ha,
    State.setWordN_mem ..⟩
  unfold bitsOf BPI.DOORBELL
  dsimp only
  omega

/-! The vector pending bits (R424). -/

/-- A map bit of the backplane interface leaves the registers below it as they are. -/
theorem word_setMapBit_below (s : State) {a : Nat} (v : Nat) (b : Bool) (ha : a < BPI.addr) :
    (s.setMapBit (BPI.addr + 0x200) v b).word a = s.word a :=
  State.word_setWordN_other _ _ (by omega)

/-- The registers of a half's view lie below the backplane interface. -/
theorem viewBase_below (h : Half) : viewBase h + 0x10000000 ≤ BPI.addr := by cases h <;> decide

/-- A field of the registers below the backplane interface. -/
theorem fld_below {s t : State} (hw : ∀ a, a < BPI.addr → t.word a = s.word a) {b : Nat} {f : Fld}
    (h : b + f.off + f.span ≤ BPI.addr) : t.fld b f = s.fld b f :=
  State.fld_of_words fun a _ h2 => hw a (by omega)

/-- An entry of a table of events of a half lies in its view. -/
theorem evt_nth_below (h : Half) {e : Nat} (he : e < 256) {f : Fld} (hf : f.off = 0x400) (hs : f.span = 4) :
    EVT.addr h + (f.nth e).off + (f.nth e).span ≤ BPI.addr := by
  have below := viewBase_below h
  have span : (f.nth e).span = 4 := hs
  have off : (f.nth e).off = 0x400 + e * 4 := congrArg (· + e * 4) hf
  have addr : EVT.addr h = viewBase h + 0x100000 := rfl
  omega

theorem vecLater_congr {s t : State} (hw : ∀ a, a < BPI.addr → t.word a = s.word a) (hh : ∀ h, t.half h = s.half h) (x : Nat) :
    vecLater t x = vecLater s x := by
  have active : t.activeHalf = s.activeHalf := State.activeHalf_congr (fld_below hw (by decide)) (fld_below hw (by decide))
  unfold vecLater
  rw [active]
  cases s.activeHalf with
  | none => rfl
  | some h =>
    have now : t.servoNow h = s.servoNow h := by
      unfold State.servoNow
      rw [State.time_congr (hh h)]
    refine Bool.eq_iff_iff.mpr ?_
    dsimp only
    rw [List.any_eq_true, List.any_eq_true]
    refine exists_congr fun e => and_congr_right fun he => ?_
    have he := List.mem_range.mp he
    have stamp : t.quad (EVTST.addr h e) = s.quad (EVTST.addr h e) := by
      have below := viewBase_below h
      have addr : EVTST.addr h e = viewBase h + 0x101000 + e * 8 := rfl
      unfold State.quad State.wordN
      rw [hw _ (by omega), hw _ (by omega)]
    unfold State.flag
    rw [now, stamp, fld_below hw (evt_nth_below h he (f := EVT.VEC) rfl rfl), fld_below hw (evt_nth_below h he (f := EVT.HOST) rfl rfl),
      fld_below hw (evt_nth_below h he (f := EVT.ACTION) rfl rfl)]

theorem vecLater_setMapBit (s : State) (v : Nat) (b : Bool) (x : Nat) :
    vecLater (s.setMapBit (BPI.addr + 0x200) v b) x = vecLater s x :=
  vecLater_congr (fun _ ha => word_setMapBit_below s v b ha) (fun h => State.setMapBit_half s _ _ _ h) x

theorem mapBit_setMapBit_other (s : State) (a : Nat) {v x : Nat} (b : Bool) (h : x ≠ v) : (s.setMapBit a v b).mapBit a x = s.mapBit a x := by
  by_cases hw : a + x / 32 * 4 = a + v / 32 * 4
  · have hlt : setBit (s.wordN (a + v / 32 * 4)) (v % 32) b < 2 ^ 32 := setBits_lt (s.wordN_lt _) (Nat.mod_lt _ (by decide))
    unfold State.mapBit State.setMapBit
    rw [hw, State.wordN_setWordN_same, Nat.mod_eq_of_lt hlt, bitOf_setBit, if_neg (by omega)]
  · exact State.mapBit_of_word (State.word_setWordN_other _ _ hw)

/-- One pending vector, cleared by a mask where no later event raises it. -/
def vecCleared (mask : Nat) (s : State) (v : Nat) : State :=
  if bitOf mask v && !vecLater s v then s.setMapBit (BPI.addr + 0x200) v false else s

theorem vecCleared_later (mask : Nat) (s : State) (v x : Nat) : vecLater (vecCleared mask s v) x = vecLater s x := by
  unfold vecCleared
  split
  · exact vecLater_setMapBit ..
  · rfl

theorem vecsCleared_reads (mask : Nat) (l : List Nat) (s : State) :
    let t := l.foldl (vecCleared mask) s
    t.mem = s.mem ∧ (∀ x, t.mapBit (BPI.addr + 0x200) x =
      (s.mapBit (BPI.addr + 0x200) x && !(decide (x ∈ l) && (bitOf mask x && !vecLater s x)))) := by
  induction l generalizing s with
  | nil => exact ⟨rfl, fun x => by simp⟩
  | cons v l ih =>
    obtain ⟨hm, hb⟩ := ih (vecCleared mask s v)
    refine ⟨hm.trans ?_, fun x => (hb x).trans ?_⟩
    · unfold vecCleared
      split <;> rfl
    · rw [vecCleared_later]
      by_cases hxv : x = v
      · subst hxv
        cases hc : (bitOf mask x && !vecLater s x) with
        | true =>
          have off : (vecCleared mask s x).mapBit (BPI.addr + 0x200) x = false := by
            unfold vecCleared
            rw [hc]
            exact State.mapBit_setMapBit_same ..
          simp [off]
        | false =>
          have on : vecCleared mask s x = s := by
            unfold vecCleared
            rw [hc]
            rfl
          simp [on]
      · have keep : (vecCleared mask s v).mapBit (BPI.addr + 0x200) x = s.mapBit (BPI.addr + 0x200) x := by
          unfold vecCleared
          split
          · exact mapBit_setMapBit_other _ _ _ hxv
          · rfl
        rw [keep]
        simp [hxv]

theorem vecPendClear_reads (s : State) (mask : BitVec 64) :
    let t := vecPendClear s mask.toNat
    t.mem = s.mem ∧ ∀ x, x < 64 → t.mapBit (BPI.addr + 0x200) x =
      (s.mapBit (BPI.addr + 0x200) x && !(mask.getLsbD x && !vecLater s x)) := by
  obtain ⟨hm, hb⟩ := vecsCleared_reads mask.toNat (List.range 64) s
  refine ⟨hm, fun x hx => (hb x).trans ?_⟩
  have bit : bitOf mask.toNat x = mask.getLsbD x := by
    unfold bitOf
    rw [← BitVec.testBit_toNat, Nat.testBit_eq_decide_div_mod_eq]
  rw [decide_eq_true (List.mem_range.mpr hx), bit, Bool.true_and]

end Sys2Proof.Machine
end

section
/-! PROOFS. Accesses of the masters to the module's address space (R25, R406 to R417). -/
namespace Sys2Proof.Machine

/-! Places and quantities of the address space (R409, R430). -/

theorem inActive_of_place {a : Nat} (h : placeOf a ≠ .nothing) : inActive a = false := by
  refine decide_eq_false fun hx => h ?_
  obtain ⟨hlo, hhi⟩ := hx
  unfold activeBase at hlo
  unfold placeOf
  rw [if_neg (by omega), if_pos hhi]

theorem place_below {a : Nat} (h : placeOf a ≠ .nothing) : a < 2 ^ 40 := by
  by_contra hx
  refine h ?_
  unfold placeOf
  rw [if_neg (by omega), if_neg (by omega), if_neg (by omega), if_neg (by omega)]

/-- A writer reaches an aligned word alone or as a part of a two-word quantity. -/
theorem quantityAt_write {a : Nat} (ha : a % 4 = 0) : quantityAt a false = (a, 4) ∨ (quantityAt a false).2 = 8 := by
  have hw : a / 4 * 4 = a := by omega
  unfold quantityAt
  dsimp only
  rw [hw]
  by_cases hb : inTbValue a = true
  · rw [if_pos hb]
    exact .inl rfl
  · rw [if_neg hb]
    cases regRowAt a with
    | none => exact .inl rfl
    | some r =>
      dsimp only
      split
      · exact .inr rfl
      · split
        · exact .inr rfl
        · exact .inl rfl

theorem quantityAt_word {a : Nat} (ha : a % 4 = 0) (h4 : (quantityAt a false).2 = 4) : (quantityAt a false).1 = a := by
  rcases quantityAt_write ha with h | h
  · rw [h]
  · omega

/-! One access. -/

theorem access_direct {s : State} {a : Nat} (h : inActive a = false) (m : Master) (n : Nat) (w : Option Nat) :
    access s m a n w = accessAt s m a a n w := by
  refine if_neg ?_
  rw [h]
  exact Bool.false_ne_true

theorem accessAt_bytes {s : State} {a : Nat} (h : placeOf a = .bytes) (m : Master) (shown n : Nat) :
    accessAt s m shown a n none = (.data (bytesRead s a n), s) ∧ ∀ v, accessAt s m shown a n (some v) = (.data 0, bytesWrite s a n v) := by
  unfold accessAt
  simp only [h, implies_true, and_self]

theorem accessAt_words_read {s : State} {a : Nat} (h : placeOf a = .words) (m : Master) (shown n : Nat) :
    accessAt s m shown a n none = (.data (portRead s m a n).1, (portRead s m a n).2) := by
  unfold accessAt
  simp only [h]

/-- A write of a register or window ends, as done or refused by the seal. -/
theorem accessAt_words_write {s : State} {a : Nat} (h : placeOf a = .words) (m : Master) (shown n v : Nat) :
    ∃ r, (r = .data 0 ∨ r = .lost 2) ∧ accessAt s m shown a n (some v) = (r, portWrite s m a n v) := by
  unfold accessAt
  simp only [h]
  refine ⟨_, ?_, rfl⟩
  split
  · exact .inr rfl
  · exact .inl rfl

theorem accessAt_nothing {s : State} {a : Nat} (h : placeOf a = .nothing) (m : Master) (shown n : Nat) (w : Option Nat) :
    accessAt s m shown a n w = (.lost 1, undecoded s m shown 1) := by
  unfold accessAt
  simp only [h]

theorem accessAt_outbound {s : State} {a : Nat} (h : placeOf a = .outbound) {m : Master} (hm : byBackplane m = false) (shown n : Nat)
    (w : Option Nat) : accessAt s m shown a n w =
      (.wait, s.setBus { s.bus with outs := s.bus.outs ++ [⟨m, a, w.map (BitVec.ofNat 32), s.tb0⟩] }) := by
  unfold accessAt
  simp only [h, hm, Bool.false_eq_true, if_false]

/-- An access that ends with data. -/
theorem masterAccess_data {s t : State} {m : Master} {a n v : Nat} {w : Option Nat} (h : access s m a n w = (.data v, t)) :
    masterAccess s m a n w = if w.isNone then t.answer m (BitVec.ofNat 64 v) else t := by
  unfold masterAccess
  rw [h]

/-- An access that is lost, by a master that does not fault. -/
theorem masterAccess_lost {s t : State} {m : Master} {a n k : Nat} {w : Option Nat} (hm : ∀ u, failMaster u m = u)
    (h : access s m a n w = (.lost k, t)) : masterAccess s m a n w = if w.isNone then t.answer m 0 else t := by
  unfold masterAccess
  rw [h]
  exact hm _

theorem masterAccess_wait {s t : State} {m : Master} {a n : Nat} {w : Option Nat} (h : access s m a n w = (.wait, t)) :
    masterAccess s m a n w = t := by
  unfold masterAccess
  rw [h]

theorem masterAccess_bytes {s : State} {a : Nat} (h : placeOf a = .bytes) (m : Master) (n : Nat) :
    masterAccess s m a n none = s.answer m (BitVec.ofNat 64 (bytesRead s a n)) ∧
      ∀ v, masterAccess s m a n (some v) = bytesWrite s a n v := by
  have act := inActive_of_place (a := a) (by rw [h]; decide)
  obtain ⟨rd, wr⟩ := accessAt_bytes (s := s) h m a n
  exact ⟨masterAccess_data ((access_direct act m n none).trans rd), fun v => masterAccess_data ((access_direct act m n _).trans (wr v))⟩

theorem masterAccess_words {s : State} {a : Nat} (h : placeOf a = .words) {m : Master} (hm : ∀ u, failMaster u m = u) (n : Nat) :
    masterAccess s m a n none = (portRead s m a n).2.answer m (BitVec.ofNat 64 (portRead s m a n).1) ∧
      ∀ v, masterAccess s m a n (some v) = portWrite s m a n v := by
  have act := inActive_of_place (a := a) (by rw [h]; decide)
  refine ⟨masterAccess_data ((access_direct act m n none).trans (accessAt_words_read h m a n)), fun v => ?_⟩
  obtain ⟨r, hr, wr⟩ := accessAt_words_write (s := s) h m a n v
  have run := (access_direct act m n (some v)).trans wr
  rcases hr with rfl | rfl
  · exact masterAccess_data run
  · exact masterAccess_lost hm run

theorem masterAccess_nothing {s : State} {a : Nat} (h : placeOf a = .nothing) (act : inActive a = false) {m : Master}
    (hm : ∀ u, failMaster u m = u) (n : Nat) :
    masterAccess s m a n none = (undecoded s m a 1).answer m 0 ∧ ∀ v, masterAccess s m a n (some v) = undecoded s m a 1 :=
  ⟨masterAccess_lost hm ((access_direct act m n none).trans (accessAt_nothing h m a n none)),
    fun _ => masterAccess_lost hm ((access_direct act m n _).trans (accessAt_nothing h m a n _))⟩

/-! The port of a master (R409). -/

theorem portRead_whole {s : State} {m : Master} {a n : Nat} (h : (quantityAt a true).2 = n) :
    portRead s m a n = readWords s (quantityAt a true).1 ((quantityAt a true).2 / 4) := if_pos h

theorem portRead_first {s : State} {m : Master} {a : Nat} (h4 : (quantityAt a true).2 ≠ 4) (ha : a = (quantityAt a true).1) :
    let q := quantityAt a true
    let r := readWords s q.1 (q.2 / 4)
    portRead s m a 4 = (r.1 % 2 ^ 32, r.2.setPort m { r.2.port m with snap := some (q.1, q.2, r.1) }) := by
  refine (if_neg h4).trans ((if_pos ha).trans ?_)
  unfold getPart
  dsimp only
  rw [Nat.mul_zero, pow_zero, Nat.div_one]

theorem portRead_later {s : State} {m : Master} {a n v : Nat} (h4 : (quantityAt a true).2 ≠ 4) (ha : a ≠ (quantityAt a true).1)
    (hs : (s.port m).snap = some ((quantityAt a true).1, n, v)) :
    portRead s m a 4 = (v / 2 ^ (8 * (a - (quantityAt a true).1)) % 2 ^ 32, s) := by
  refine (if_neg h4).trans ((if_neg ha).trans ?_)
  rw [hs]
  exact if_pos rfl

theorem dropStage_none {s : State} {m : Master} (h : (s.port m).stage = none) (b : Nat) : dropStage s m b = s := by
  unfold dropStage
  rw [h]

theorem dropStage_own {s : State} {m : Master} {b : Nat} {l : List (Nat × Nat × Nat)} (h : (s.port m).stage = some (b, l)) :
    dropStage s m b = s := by
  unfold dropStage
  rw [h]
  exact if_pos rfl

theorem stagedParts_none {s : State} {m : Master} (h : (s.port m).stage = none) (b : Nat) : stagedParts s m b = [] := by
  unfold stagedParts
  rw [h]

theorem stagedParts_own {s : State} {m : Master} {b : Nat} {l : List (Nat × Nat × Nat)} (h : (s.port m).stage = some (b, l)) :
    stagedParts s m b = l := by
  unfold stagedParts
  rw [h]
  exact if_pos rfl

/-- The port of a master without a staged write. -/
def unstaged (s : State) (m : Master) : State := s.setPort m { s.port m with stage := none }

theorem portWrite_word {s : State} {m : Master} {a v : Nat} (ha : a % 4 = 0) (h4 : (quantityAt a false).2 = 4)
    (hs : (s.port m).stage = none) : portWrite s m a 4 v = regWrite (unstaged s m) a (putPart (keptQuantity s a 4) 0 4 v) := by
  have own := quantityAt_word ha h4
  unfold portWrite
  dsimp only
  rw [own, h4, dropStage_none hs, stagedParts_none hs, Nat.sub_self, if_neg (Nat.lt_irrefl _), if_neg (by decide)]
  rfl

theorem portWrite_low {s : State} {m : Master} {a v : Nat} (h8 : (quantityAt a false).2 = 8) (ha : a = (quantityAt a false).1)
    (hs : (s.port m).stage = none) :
    portWrite s m a 4 v = s.setPort m { s.port m with stage := some ((quantityAt a false).1, [(0, 4, v)]) } := by
  unfold portWrite
  dsimp only
  rw [h8, dropStage_none hs, stagedParts_none hs, ← ha, Nat.sub_self, if_pos (by omega)]
  rfl

theorem portWrite_high {s : State} {m : Master} {a v : Nat} {l : List (Nat × Nat × Nat)} (h8 : (quantityAt a false).2 = 8)
    (ha : a = (quantityAt a false).1 + 4) (hs : (s.port m).stage = some ((quantityAt a false).1, l)) :
    portWrite s m a 4 v = regWriteQuad (unstaged s m) (quantityAt a false).1
      (mergeParts (keptQuantity s (quantityAt a false).1 8) (l ++ [(4, 4, v)])) := by
  have part : a - (quantityAt a false).1 = 4 := by omega
  unfold portWrite
  dsimp only
  rw [h8, dropStage_own hs, stagedParts_own hs, part, if_neg (by omega), if_pos rfl]
  rfl

end Sys2Proof.Machine
end

section
/-! PROOFS. Slave cycles, outbound accesses and held accesses of the backplane (R25, R410 to R417). -/
namespace Sys2Proof.Machine

/-! Slave cycles (R410 to R414). -/

theorem slaveAccess_bytes {s : State} {a : Nat} (h : placeOf a = .bytes) (m : Master) (n : Nat) :
    slaveAccess s m a n none = (answered s).answer m (BitVec.ofNat 64 (bytesRead s a n)) ∧
      ∀ v, slaveAccess s m a n (some v) = bytesWrite (answered s) a n v := by
  obtain ⟨rd, wr⟩ := masterAccess_bytes (s := answered s) h m n
  refine ⟨rd.trans ?_, wr⟩
  rw [bytesRead_congr (s := s) (t := answered s) (State.setBus_mem ..)]

/-- The module address that a K16 memory word at an offset of the window reaches (R411). -/
def k16Place (s : State) (off : Nat) : Nat := s.fld BPI.addr (BPI.PAGE.nth (off / 0x800)) * 4096 + 2 * (off % 0x800)

theorem k16Cycle_mem (s : State) (a : Nat) (w : Option Nat) :
    k16Cycle s false a w =
      if s.flag BPI.addr BPI.K16_EN && decide (s.fld BPI.addr BPI.K16_BASE * 0x8000 ≤ a ∧ a < s.fld BPI.addr BPI.K16_BASE * 0x8000 + 0x8000) then
        slaveAccess s .k16 (k16Place s (a - s.fld BPI.addr BPI.K16_BASE * 0x8000)) 2 w
      else notAnswered s := rfl

theorem k16Cycle_io (s : State) (a : Nat) (w : Option Nat) :
    k16Cycle s true a w = if s.fld BPI.addr BPI.K16_IO * 64 ≤ a ∧ a ≤ s.fld BPI.addr BPI.K16_IO * 64 + 0x21 then
      k16Io s (a - s.fld BPI.addr BPI.K16_IO * 64) w else notAnswered s := rfl

theorem k16Cycle_window {s : State} {a : Nat} (en : s.flag BPI.addr BPI.K16_EN = true) (h1 : s.fld BPI.addr BPI.K16_BASE * 0x8000 ≤ a)
    (h2 : a < s.fld BPI.addr BPI.K16_BASE * 0x8000 + 0x8000) (w : Option Nat) :
    k16Cycle s false a w = slaveAccess s .k16 (k16Place s (a - s.fld BPI.addr BPI.K16_BASE * 0x8000)) 2 w := by
  refine (k16Cycle_mem ..).trans (if_pos ?_)
  rw [en, decide_eq_true ⟨h1, h2⟩]
  rfl

theorem k16Cycle_outside {s : State} {a : Nat} (h : s.flag BPI.addr BPI.K16_EN = false ∨ a < s.fld BPI.addr BPI.K16_BASE * 0x8000 ∨
    s.fld BPI.addr BPI.K16_BASE * 0x8000 + 0x8000 ≤ a) (w : Option Nat) : k16Cycle s false a w = notAnswered s := by
  refine (k16Cycle_mem ..).trans (if_neg fun hx => ?_)
  obtain ⟨en, inside⟩ := Bool.and_eq_true_iff.mp hx
  have inside := of_decide_eq_true inside
  rcases h with h | h | h
  · exact Bool.false_ne_true (h.symm.trans en)
  · omega
  · omega

theorem k16Cycle_noIo {s : State} {a : Nat} (h : a < s.fld BPI.addr BPI.K16_IO * 64 ∨ s.fld BPI.addr BPI.K16_IO * 64 + 0x21 < a)
    (w : Option Nat) : k16Cycle s true a w = notAnswered s :=
  (k16Cycle_io ..).trans (if_neg fun hx => by omega)

theorem k16Io_number (s : State) :
    k16Io s 0x21 none = (answered s).answer .k16 (BitVec.ofNat 64 (s.fld MOD.addr MOD.NUM)) := by
  unfold k16Io
  rw [if_neg (by decide : ¬0x21 < 0x20)]
  dsimp only
  rw [if_neg (by decide : ¬0x21 = 0x20)]
  unfold answered
  rw [setBus_fld]

theorem k16Cycle_number {s : State} {a : Nat} (h : a = s.fld BPI.addr BPI.K16_IO * 64 + 0x21) :
    k16Cycle s true a none = (answered s).answer .k16 (BitVec.ofNat 64 (s.fld MOD.addr MOD.NUM)) := by
  subst h
  refine (k16Cycle_io ..).trans ((if_pos ⟨Nat.le_add_right .., le_refl _⟩).trans ?_)
  rw [Nat.add_sub_cancel_left]
  exact k16Io_number s

theorem k32Target_absent {s : State} (h : s.flag BPI.addr BPI.K32_PRESENT = false) (a : Nat) : k32Target s a = .none := by
  refine if_pos ?_
  rw [h]
  rfl

/-- The module address that a K32 word in the module's window reaches (R413). -/
def k32Place (s : State) (a : Nat) : Nat := s.fld BPI.addr BPI.K32_MOD_BASE * 0x1000000 + a / 4 * 4 % 0x1000000

theorem k32Target_window {s : State} {a : Nat} (hp : s.flag BPI.addr BPI.K32_PRESENT = true) (en : s.flag BPI.addr BPI.K32_EN = true)
    (hb : a / 0x1000000 = s.fld BPI.addr BPI.K32_BUS) (ha : a < 0xFF000000) : k32Target s a = .addr (k32Place s a) := by
  have bus : a / 4 * 4 / 0x1000000 = s.fld BPI.addr BPI.K32_BUS := by omega
  unfold k32Target
  dsimp only
  rw [hp, en, decide_eq_true bus, if_neg (by decide), if_neg (by omega), Bool.and_self, if_pos rfl]
  rfl

theorem k32Target_geo {s : State} {a : Nat} (hp : s.flag BPI.addr BPI.K32_PRESENT = true)
    (ha : a / 4 * 4 = 0xFF000000 + s.fld MOD.addr MOD.STRAPS % 32 * 0x10000 + 4) : k32Target s a = .geo 4 := by
  unfold k32Target
  dsimp only
  rw [hp, if_neg (by decide), if_pos ⟨by omega, by omega⟩, ha, Nat.add_sub_cancel_left]

theorem geoAccess_number (s : State) :
    geoAccess s 4 none = (answered s).answer .k32 (BitVec.ofNat 64 (s.fld MOD.addr MOD.NUM)) := by
  unfold geoAccess
  rw [if_neg (by decide : ¬4 = 8), if_neg (by decide : ¬(4 = 0xC ∨ 4 = 0x10))]
  dsimp only [Option.isSome_none]
  rw [if_neg Bool.false_ne_true, if_neg (by decide : ¬4 = 0), if_pos rfl]
  unfold answered
  rw [setBus_fld]

theorem blockBeat_absent {s : State} (h : s.flag BPI.addr BPI.K32_PRESENT = false) (a : Nat) (w : Option Nat) :
    blockBeat s true a w = notAnswered (s.setBus { s.bus with block := none }) := by
  unfold blockBeat
  rw [k32Target_absent h]
  rfl

/-- The first beat of a block in the module's window. -/
theorem blockBeat_first {s : State} {a p : Nat} (ht : k32Target s a = .addr p) (hp : p < 2 ^ 40) (w : Option Nat) :
    blockBeat s true a w = slaveAccess (s.setBus { s.bus with block := some (p, 1) }) .k32 p 4 w := by
  have at0 : k32TargetAt (p + 4 * 0) = .addr p := if_neg (Nat.not_le.mpr hp)
  have run : blockBeat s true a w = if 64 ≤ 0 ∨ (p + 4 * 0) / 256 ≠ p / 256 then
        s.setBus { s.bus with berr := true, silent := false, block := none }
      else k32Access (s.setBus { s.bus with block := some (p, 1) }) (k32TargetAt (p + 4 * 0)) w := by
    unfold blockBeat
    rw [ht]
    rfl
  rw [run, if_neg (by omega), at0]
  rfl

theorem blockBeat_last {s : State} {p : Nat} (hb : s.bus.block = some (p, 64)) (a : Nat) (w : Option Nat) :
    blockBeat s false a w = s.setBus { s.bus with berr := true, silent := false, block := none } := by
  unfold blockBeat
  simp only [Bool.false_eq_true, if_false, hb, le_refl, true_or, if_true]

/-! Outbound and held accesses (R25, R416, R417). -/

theorem placeOf_outbound {o : Nat} (h28 : o < 2 ^ 28) (h : outboundOff o = true) : placeOf (commonBase + o) = .outbound := by
  have off : commonBase + o - commonBase = o := Nat.add_sub_cancel_left ..
  have base : commonBase = 0x1030000000 := rfl
  unfold placeOf
  rw [if_neg (by omega), if_neg (by omega), if_neg (by omega), if_pos (by omega)]
  dsimp only
  rw [off, if_pos h]

theorem outboundAccess_waits {s : State} {m : Master} {o : Nat} (h28 : o < 2 ^ 28) (h : outboundOff o = true) (h4 : o % 4 = 0)
    (hm : byBackplane m = false) (x : Option Word) :
    outboundAccess s m o x = s.setBus { s.bus with outs := s.bus.outs ++ [⟨m, commonBase + o, x, s.tb0⟩] } := by
  have place := placeOf_outbound h28 h
  have word : o / 4 * 4 = o := by omega
  have back : (x.map BitVec.toNat).map (BitVec.ofNat 32) = x := by
    cases x with
    | none => rfl
    | some v => simp
  refine (if_pos h).trans ?_
  rw [word]
  refine masterAccess_wait ((access_direct (inActive_of_place (by rw [place]; decide)) m 4 _).trans ((accessAt_outbound place hm _ 4 _).trans ?_))
  rw [back]

theorem grantTimeout_none {s : State} (h : s.bus.outs = []) : grantTimeout s = s := by
  unfold grantTimeout
  rw [h]

theorem grantArrives_none {s : State} (h : s.bus.outs = []) (v : Option Word) : grantArrives s v = s.setBus { s.bus with passed := true } := by
  unfold grantArrives
  rw [h]

/-- The failed access of a master that is no core. -/
theorem outLost_host (s : State) {x : OutAcc} (hm : x.m = .pcie ∨ x.m = .service) (kind : Nat) :
    outLost s x kind = accessEnded (outFail s x.m x.addr kind x.write.isSome) x.m x.addr x.write.isNone (.data 0xFFFFFFFF) := by
  unfold outLost
  rcases hm with h | h <;> rw [h]

theorem grantTimeout_some {s : State} {x : OutAcc} {l : List OutAcc} (h : s.bus.outs = x :: l) :
    grantTimeout s = if s.tb0 < x.at_ + 100000 then s else outLost (s.setBus { s.bus with outs := l }) x 7 := by
  unfold grantTimeout
  rw [h]

/-- The module takes the bus for its oldest access. -/
def grantTaken (s : State) (x : OutAcc) (l : List OutAcc) : State :=
  s.setBus { s.bus with outs := l, grant := none, passed := false, cycles := outCycles s x.addr x.write }

theorem grantArrives_some {s : State} {x : OutAcc} {l : List OutAcc} (h : s.bus.outs = x :: l) (v : Option Word) :
    grantArrives s v = (match v with
      | none => outLost (grantTaken s x l) x 6
      | some v => accessEnded (grantTaken s x l) x.m x.addr x.write.isNone (.data (if x.write.isNone then v.toNat else 0))) := by
  unfold grantArrives grantTaken
  rw [h] <;> rfl

theorem accessEnded_pcie (s : State) (a : Nat) (read : Bool) (v : Nat) :
    accessEnded s .pcie a read (.data v) = if read then { s with pci := { s.pci with reply := s.pci.reply ++ leBytes 4 v } } else s :=
  if_neg Bool.false_ne_true

theorem holdRelease_none {s : State} (h : s.held = []) : holdRelease s = { s with hold := false } := by
  unfold holdRelease takeHeld
  simp only [h, List.foldl_nil]

/-- A read through the active view of a register or window of the half in charge. -/
theorem access_active {s : State} {h : Half} (hs : s.hold = false) (hh : s.activeHalf = some h) {a : Nat} (ha : inActive a = true)
    (hp : placeOf (viewBase h + (a - activeBase)) = .words) (m : Master) (n : Nat) :
    access s m a n none = (.data (portRead s m (viewBase h + (a - activeBase)) n).1, (portRead s m (viewBase h + (a - activeBase)) n).2) := by
  unfold access
  rw [if_pos ha, hs, if_neg Bool.false_ne_true, hh]
  exact accessAt_words_read hp m a n

/-- The accesses held are taken off. -/
def heldTaken (s : State) : State := { s with hold := false, held := [] }

theorem holdRelease_one {s : State} {x : Held} (hx : s.held = [x]) :
    holdRelease s = accessEnded (access (heldTaken s) x.m x.addr x.bytes (x.write.map BitVec.toNat)).2 x.m x.addr x.write.isNone
      (access (heldTaken s) x.m x.addr x.bytes (x.write.map BitVec.toNat)).1 := by
  unfold holdRelease takeHeld heldTaken
  dsimp only
  rw [hx]
  rfl

theorem heldTaken_active (s : State) : (heldTaken s).activeHalf = s.activeHalf :=
  State.activeHalf_congr (State.fld_congr rfl rfl rfl _ _) (State.fld_congr rfl rfl rfl _ _)

/-- One held read of the host's endpoint runs on the new active half. -/
theorem holdRelease_read {s : State} {h : Half} {x : Held} (hx : s.held = [x]) (hm : x.m = .pcie) (hw : x.write = none)
    (hh : s.activeHalf = some h) (ha : inActive x.addr = true) (hp : placeOf (viewBase h + (x.addr - activeBase)) = .words)
    {v : Nat} {t : State} (hq : portRead (heldTaken s) x.m (viewBase h + (x.addr - activeBase)) x.bytes = (v, t)) :
    holdRelease s = { t with pci := { t.pci with reply := t.pci.reply ++ leBytes 4 v } } := by
  have run : access (heldTaken s) x.m x.addr x.bytes none = (.data v, t) := by
    rw [access_active rfl ((heldTaken_active s).trans hh) ha hp, hq]
  have all : access (heldTaken s) x.m x.addr x.bytes (x.write.map BitVec.toNat) = (.data v, t) := by
    rw [hw]
    exact run
  rw [holdRelease_one hx, all, hm, hw]
  exact (accessEnded_pcie t x.addr true v).trans (if_pos rfl)

end Sys2Proof.Machine
end

section
/-! PROOFS. The backplane obligation, from the equations of its unit and of one access (R25, R406 to R424). -/
namespace Sys2Proof.Machine

/-- The masters whose accesses never fault. -/
theorem failMaster_host {m : Master} (hm : m = .pcie ∨ m = .service ∨ m = .k32) (s : State) : failMaster s m = s ∧ partBytes m = 4 := by
  rcases hm with rfl | rfl | rfl <;> exact ⟨rfl, rfl⟩

/-- A host's word access reaches its aligned address. -/
theorem exec_snapshotRead_host {m : Master} (hm : m = .pcie ∨ m = .service ∨ m = .k32) {a : BitVec 40} (ha : a.toNat % 4 = 0) (s : State) :
    exec (.snapshotRead m a) s = .next (masterAccess s m a.toNat 4 none) := by
  have at4 : a.toNat / 4 * 4 = a.toNat := by omega
  show Host.Outcome.next (masterAccess s m (a.toNat / partBytes m * partBytes m) (partBytes m) none) = _
  rw [(failMaster_host hm s).2, at4]

theorem exec_registerWrite_host {m : Master} (hm : m = .pcie ∨ m = .service ∨ m = .k32) {a : BitVec 40} (ha : a.toNat % 4 = 0) (v : Word)
    (s : State) : exec (.registerWrite m a v) s = .next (masterAccess s m a.toNat 4 (some v.toNat)) := by
  have at4 : a.toNat / 4 * 4 = a.toNat := by omega
  have small : v.toNat % 256 ^ 4 = v.toNat := Nat.mod_eq_of_lt v.isLt
  show Host.Outcome.next (masterAccess s m (a.toNat / partBytes m * partBytes m) (partBytes m)
    (some (v.toNat % 256 ^ partBytes m))) = _
  rw [(failMaster_host hm s).2, at4, small]

/-- Accesses of a host to words of the module. -/
theorem hostAccess_words {m : Master} (hm : m = .pcie ∨ m = .service ∨ m = .k32) {a : BitVec 40} (ha : a.toNat % 4 = 0)
    (hp : placeOf a.toNat = .words) (v : Word) (s : State) :
    exec (.snapshotRead m a) s = .next ((portRead s m a.toNat 4).2.answer m (BitVec.ofNat 64 (portRead s m a.toNat 4).1)) ∧
      exec (.registerWrite m a v) s = .next (portWrite s m a.toNat 4 v.toNat) := by
  obtain ⟨rd, wr⟩ := masterAccess_words (s := s) hp (fun u => (failMaster_host hm u).1) 4
  exact ⟨(exec_snapshotRead_host hm ha s).trans (congrArg Host.Outcome.next rd),
    (exec_registerWrite_host hm ha v s).trans (congrArg Host.Outcome.next (wr _))⟩

/-- A read that ends with a known value and state. -/
theorem snapshotRead_of {m : Master} {a : BitVec 40} {s t : State} {v : Nat}
    (run : exec (.snapshotRead m a) s = .next ((portRead s m a.toNat 4).2.answer m (BitVec.ofNat 64 (portRead s m a.toNat 4).1)))
    (h : portRead s m a.toNat 4 = (v, t)) : exec (.snapshotRead m a) s = .next (t.answer m (BitVec.ofNat 64 v)) := by
  rw [run, h]

/-! The unit's own commands. -/

theorem arbiter_commands {s : State} (arb : arbitrates s = true) (k32 io w : Bool) (a : Word) :
    exec (.busRequest io true) s = .next (s.setBus { s.bus with grant := none }) ∧
      (s.bus.grant = none → exec (.busRequest true false) s = .next (s.setBus { s.bus with grant := some s.tb0 })) ∧
      (∃ u, exec (.busTimerExpiry k32 io w a) s = .next (raiseBoth u (if k32 then 241 else 240)) ∧ u.fld BPI.addr BPI.ERR_ADDR = a.toNat ∧
        u.fld BPI.addr BPI.KIND = (if k32 then 5 else 4) ∧ u.fld BPI.addr BPI.ERR_IOSP = b2n io ∧ u.fld BPI.addr BPI.ERR_WRT = b2n w ∧
        u.bus = { s.bus with berr := true } ∧ u.mem = s.mem) ∧
      (s.tb0 ≤ s.boot.startAt + 10000000 → exec .foreignArbiterDetected s =
        .next (faultLog ((s.setFld BPI.addr BPI.SC_CONFLICT 1).setBus { s.bus with grant := none }) 0xFF none none none)) := by
  refine ⟨congrArg Host.Outcome.next ((busRequest_arbiter arb io true).trans (if_pos rfl)), fun h => ?_,
    ⟨errNoted (s.setBus { s.bus with berr := true }) (if k32 then 5 else 4) 6 0 a.toNat io w,
      congrArg Host.Outcome.next (busTimer_arbiter arb k32 io w _), ?_⟩, fun h => congrArg Host.Outcome.next (foreignArbiter_early arb h)⟩
  · refine congrArg Host.Outcome.next ((busRequest_arbiter arb true false).trans ((if_neg Bool.false_ne_true).trans ?_))
    rw [if_pos rfl, h]
    rfl
  · obtain ⟨ha, hk, hi, hw, hb, hm⟩ := errNoted_reads (s.setBus { s.bus with berr := true }) (kind := if k32 then 5 else 4)
      (by split <;> decide) a.isLt io w
    exact ⟨ha, hk, hi, hw, hb.trans (State.setBus_bus ..), hm.trans (State.setBus_mem ..)⟩

theorem lineAsserted_commands (s : State) {k32 : Bool} {ln : Fin 8} (hln : k32 = true ∨ ln.val < 4) (on : Bool) :
    let f := if k32 then BPI.ASSERTED32 else BPI.ASSERTED16
    let t := s.setFld BPI.addr f (setBit (s.fld BPI.addr f) ln.val on)
    (busHandles t k32 ln.val = true → on = true → bitOf (s.fld BPI.addr f) ln.val = false →
      exec (.interruptAsserted k32 ln on) s = .next (raiseBoth t (if k32 then 243 else 242))) ∧
    (on = false ∨ bitOf (s.fld BPI.addr f) ln.val = true ∨ busHandles t k32 ln.val = false →
      exec (.interruptAsserted k32 ln on) s = .next t) := by
  have known : ¬(!k32 && decide (3 < ln.val)) = true := by
    rcases hln with h | h
    · rw [h]
      exact Bool.false_ne_true
    · rw [decide_eq_false (by omega), Bool.and_false]
      exact Bool.false_ne_true
  have run : exec (.interruptAsserted k32 ln on) s = .next (interruptAsserted s k32 ln.val on) :=
    congrArg Host.Outcome.next (if_neg known)
  rw [run, interruptAsserted_eq]
  refine ⟨fun hh ho hw => congrArg Host.Outcome.next (if_pos ?_), fun hq => congrArg Host.Outcome.next (if_neg ?_)⟩
  · rw [hh, ho, hw]
    rfl
  · rcases hq with h | h | h <;> rw [h]
    · exact Bool.false_ne_true
    · rw [Bool.not_true, Bool.and_false]
      exact Bool.false_ne_true
    · rw [Bool.and_false]
      exact Bool.false_ne_true

theorem iack_answered {s : State} {sel : BitVec 4} (hsel : (1 ≤ sel.toNat ∧ sel.toNat ≤ 4) ∨ 8 ≤ sel.toNat) (a : BitVec 16)
    (hh : busHandles (iackSet s sel.toNat) (decide (8 ≤ sel.toNat)) (if 8 ≤ sel.toNat then sel.toNat - 8 else sel.toNat - 1) = true) :
    ∃ u, exec (.iack sel (some a)) s = .next u ∧ u.flag BPI.addr BPI.IACK_DONE = true ∧ u.flag BPI.addr BPI.IACK_ERR = false ∧
      u.fld BPI.addr BPI.IACK_VEC = (if 8 ≤ sel.toNat then a.toNat / 256 else a.toNat % 256) ∧
      u.fld BPI.addr BPI.IACK_GA = (if 8 ≤ sel.toNat then a.toNat % 32 else 0) ∧ u.bus = { s.bus with acked := some (sel.toNat, s.tb0) } ∧
      u.mem = s.mem ∧ u.halfA = s.halfA ∧ u.halfB = s.halfB := by
  obtain ⟨err, -, hbus, ht0, hmem, hA, hB⟩ := iackSet_reads s sel.toNat
  obtain ⟨gDone, gErr, gVec, gGa, gBus, gMem, gA, gB⟩ := iackGot_reads (iackSet s sel.toNat) sel.toNat a.isLt err
  rw [hbus, ht0] at gBus
  exact ⟨_, congrArg Host.Outcome.next ((iackWrite_eq s hsel sel.isLt (some a.toNat)).trans (if_pos hh)), gDone, gErr, gVec, gGa, gBus,
    gMem.trans hmem, gA.trans hA, gB.trans hB⟩

theorem iack_unanswered {s : State} {sel : BitVec 4} (hsel : (1 ≤ sel.toNat ∧ sel.toNat ≤ 4) ∨ 8 ≤ sel.toNat)
    (hh : busHandles (iackSet s sel.toNat) (decide (8 ≤ sel.toNat)) (if 8 ≤ sel.toNat then sel.toNat - 8 else sel.toNat - 1) = true) :
    ∃ u, exec (.iack sel none) s = .next (raiseBoth u (if 8 ≤ sel.toNat then 241 else 240)) ∧ u.flag BPI.addr BPI.IACK_ERR = true ∧
      u.flag BPI.addr BPI.IACK_DONE = false ∧ u.mem = s.mem := by
  obtain ⟨-, done, -, -, hmem, -, -⟩ := iackSet_reads s sel.toNat
  have run := (iackWrite_eq s hsel sel.isLt none).trans (if_pos hh)
  dsimp only at run
  rw [busError_eq] at run
  simp only [decide_eq_true_eq] at run
  refine ⟨_, congrArg Host.Outcome.next run, ?_, ?_, ?_⟩
  · rw [errNoted_flag _ _ _ _ _ _ _ rfl, State.flag_setFld_eq _ _ (by decide) rfl]
    rfl
  · rw [errNoted_flag _ _ _ _ _ _ _ rfl, State.flag_setFld_of_apart _ _ (by decide)]
    exact done
  · exact (State.setWordN_mem ..).trans ((State.setFld_mem ..).trans ((State.setFld_mem ..).trans hmem))

theorem iack_other {s : State} {sel : BitVec 4} (hsel : (1 ≤ sel.toNat ∧ sel.toNat ≤ 4) ∨ 8 ≤ sel.toNat) (x : Option (BitVec 16))
    (hh : busHandles (iackSet s sel.toNat) (decide (8 ≤ sel.toNat)) (if 8 ≤ sel.toNat then sel.toNat - 8 else sel.toNat - 1) = false) :
    exec (.iack sel x) s = .next (iackSet s sel.toNat) := by
  refine congrArg Host.Outcome.next ((iackWrite_eq s hsel sel.isLt (x.map BitVec.toNat)).trans (if_neg fun hx => ?_))
  exact Bool.false_ne_true (hh.symm.trans hx)

theorem iackReassert_commands {s : State} {l t : Nat} (hl : s.bus.acked = some (l, t)) :
    (s.tb0 < t + 10000 → exec .iackReassert s = .next s) ∧
      (t + 10000 ≤ s.tb0 → l ≤ 4 → bitOf (s.fld BPI.addr BPI.ASSERTED16) (l - 1) = true →
        exec .iackReassert s = .next (raiseBoth (s.setBus { s.bus with acked := none }) 242)) ∧
      (t + 10000 ≤ s.tb0 → l ≤ 4 → bitOf (s.fld BPI.addr BPI.ASSERTED16) (l - 1) = false →
        exec .iackReassert s = .next (s.setBus { s.bus with acked := none })) := by
  refine ⟨fun h => congrArg Host.Outcome.next ((iackReassert_level hl).trans (if_pos h)), fun h h4 hb => ?_, fun h h4 hb => ?_⟩
  · refine congrArg Host.Outcome.next ((iackReassert_level hl).trans ((if_neg (Nat.not_lt.mpr h)).trans ?_))
    have low : ¬8 ≤ l := by omega
    simp only [low, if_false, hb, if_true]
  · refine congrArg Host.Outcome.next ((iackReassert_level hl).trans ((if_neg (Nat.not_lt.mpr h)).trans ?_))
    have low : ¬8 ≤ l := by omega
    simp only [low, if_false, hb, Bool.false_eq_true]

theorem sysrst_commands (s : State) (pa pb : Bool) :
    (s.flag BPI.addr BPI.SYSCTL = true → exec (.sysrstReceive pa pb) s = .next s ∧
      exec .sysrstOut s = .next (s.setBus { s.bus with sysrst := some (s.tb0 + 100000000) })) ∧
    (s.flag BPI.addr BPI.SYSCTL = false → exec .sysrstOut s = .next s ∧
      (s.flag BPI.addr BPI.SYSRST_ACT = false → exec (.sysrstReceive pa pb) s = .next (raiseBoth s 245)) ∧
      (s.flag BPI.addr BPI.SYSRST_ACT = true →
        exec (.sysrstReceive pa pb) s = .next (faultLog (moduleReset s pa pb) 0xFF none none none))) := by
  refine ⟨fun h => ⟨congrArg Host.Outcome.next (if_pos h), congrArg Host.Outcome.next (if_pos h)⟩, fun h => ⟨?_, fun h2 => ?_, fun h2 => ?_⟩⟩
  · refine congrArg Host.Outcome.next (if_neg fun hx => ?_)
    exact Bool.false_ne_true (h.symm.trans hx)
  · refine congrArg Host.Outcome.next ((sysrstReceive_other h pa pb).trans (if_neg fun hx => ?_))
    exact Bool.false_ne_true (h2.symm.trans hx)
  · exact congrArg Host.Outcome.next ((sysrstReceive_other h pa pb).trans (if_pos h2))

end Sys2Proof.Machine
end

section
/-! PROOFS. The backplane obligation (R25, R406 to R424). -/
namespace Sys2Proof.Machine

theorem iack_commands (s : State) {sel : BitVec 4} (hsel : (1 ≤ sel.toNat ∧ sel.toNat ≤ 4) ∨ 8 ≤ sel.toNat) (a : BitVec 16) :
    let i := if 8 ≤ sel.toNat then sel.toNat - 8 else sel.toNat - 1
    let k := decide (8 ≤ sel.toNat)
    let t := iackSet s sel.toNat
    (busHandles t k i = true →
      (∃ u, exec (.iack sel (some a)) s = .next u ∧ u.flag BPI.addr BPI.IACK_DONE = true ∧ u.flag BPI.addr BPI.IACK_ERR = false ∧
        u.fld BPI.addr BPI.IACK_VEC = (if k then a.toNat / 256 else a.toNat % 256) ∧
        u.fld BPI.addr BPI.IACK_GA = (if k then a.toNat % 32 else 0) ∧ u.bus = { s.bus with acked := some (sel.toNat, s.tb0) } ∧
        u.mem = s.mem ∧ u.halfA = s.halfA ∧ u.halfB = s.halfB) ∧
      ∃ u, exec (.iack sel none) s = .next (raiseBoth u (if k then 241 else 240)) ∧ u.flag BPI.addr BPI.IACK_ERR = true ∧
        u.flag BPI.addr BPI.IACK_DONE = false ∧ u.mem = s.mem) ∧
    (busHandles t k i = false → ∀ x, exec (.iack sel x) s = .next t) := by
  have ans := iack_answered (s := s) hsel a
  have un := iack_unanswered (s := s) hsel
  simp only [decide_eq_true_eq]
  exact ⟨fun hh => ⟨ans hh, un hh⟩, fun hh x => iack_other hsel x hh⟩

theorem k16_commands (s : State) (a16 : BitVec 16) :
    let win := s.fld BPI.addr BPI.K16_BASE * 0x8000
    let p := k16Place s (a16.toNat - win)
    (s.flag BPI.addr BPI.K16_EN = true → win ≤ a16.toNat → a16.toNat < win + 0x8000 → placeOf p = .bytes →
      exec (.k16SlaveCycle false a16 none) s = .next ((answered s).answer .k16 (BitVec.ofNat 64 (bytesRead s p 2))) ∧
      ∀ x, exec (.k16SlaveCycle false a16 (some x)) s = .next (bytesWrite (answered s) p 2 x.toNat)) ∧
    (s.flag BPI.addr BPI.K16_EN = false ∨ a16.toNat < win ∨ win + 0x8000 ≤ a16.toNat →
      ∀ x, exec (.k16SlaveCycle false a16 x) s = .next (notAnswered s)) ∧
    (let base := s.fld BPI.addr BPI.K16_IO * 64
     (a16.toNat < base ∨ base + 0x21 < a16.toNat → ∀ x, exec (.k16SlaveCycle true a16 x) s = .next (notAnswered s)) ∧
     (a16.toNat = base + 0x21 → exec (.k16SlaveCycle true a16 none) s =
       .next ((answered s).answer .k16 (BitVec.ofNat 64 (s.fld MOD.addr MOD.NUM))))) := by
  refine ⟨fun en h1 h2 hp => ?_, fun h x => congrArg Host.Outcome.next (k16Cycle_outside h _),
    fun h x => congrArg Host.Outcome.next (k16Cycle_noIo h _), fun h => congrArg Host.Outcome.next (k16Cycle_number h)⟩
  obtain ⟨rd, wr⟩ := slaveAccess_bytes (s := s) hp .k16 2
  exact ⟨congrArg Host.Outcome.next ((k16Cycle_window en h1 h2 none).trans rd),
    fun x => congrArg Host.Outcome.next ((k16Cycle_window en h1 h2 (some x.toNat)).trans (wr _))⟩

theorem k32_commands (s : State) (a32 : Word) :
    let p := k32Place s a32.toNat
    (s.flag BPI.addr BPI.K32_PRESENT = false → ∀ x, exec (.k32SlaveCycle a32 x) s = .next (notAnswered s) ∧
      exec (.k32BlockBeat true a32 x) s = .next (notAnswered (s.setBus { s.bus with block := none }))) ∧
    (s.flag BPI.addr BPI.K32_PRESENT = true → s.flag BPI.addr BPI.K32_EN = true → a32.toNat / 0x1000000 = s.fld BPI.addr BPI.K32_BUS →
      a32.toNat < 0xFF000000 → placeOf p = .bytes →
      exec (.k32SlaveCycle a32 none) s = .next ((answered s).answer .k32 (BitVec.ofNat 64 (bytesRead s p 4))) ∧
      (∀ x, exec (.k32SlaveCycle a32 (some x)) s = .next (bytesWrite (answered s) p 4 x.toNat)) ∧
      ∀ x, exec (.k32BlockBeat true a32 (some x)) s =
        .next (bytesWrite (answered (s.setBus { s.bus with block := some (p, 1) })) p 4 x.toNat)) ∧
    (s.flag BPI.addr BPI.K32_PRESENT = true → a32.toNat / 4 * 4 = 0xFF000000 + s.fld MOD.addr MOD.STRAPS % 32 * 0x10000 + 4 →
      exec (.k32SlaveCycle a32 none) s = .next ((answered s).answer .k32 (BitVec.ofNat 64 (s.fld MOD.addr MOD.NUM)))) := by
  have run {t : K32Target} (ht : k32Target s a32.toNat = t) (x : Option Word) :
      exec (.k32SlaveCycle a32 x) s = .next (k32Access s t (x.map BitVec.toNat)) := by
    rw [← ht]
    rfl
  refine ⟨fun h x => ⟨run (k32Target_absent h _) x, congrArg Host.Outcome.next (blockBeat_absent h _ _)⟩, fun hp en hb ha hpl => ?_,
    fun hp ha => (run (k32Target_geo hp ha) none).trans (congrArg Host.Outcome.next (geoAccess_number s))⟩
  have target := k32Target_window hp en hb ha
  have below := place_below (a := k32Place s a32.toNat) (by rw [hpl]; decide)
  obtain ⟨rd, wr⟩ := slaveAccess_bytes (s := s) hpl .k32 4
  obtain ⟨-, beat⟩ := slaveAccess_bytes (s := s.setBus { s.bus with block := some (k32Place s a32.toNat, 1) }) hpl .k32 4
  exact ⟨(run target none).trans (congrArg Host.Outcome.next rd), fun x => (run target (some x)).trans (congrArg Host.Outcome.next (wr _)),
    fun x => congrArg Host.Outcome.next ((blockBeat_first target below _).trans (beat _))⟩

/-- A host's reads of a register or window. -/
theorem host_reads {m : Master} (hm : m = .pcie ∨ m = .service ∨ m = .k32) {a : BitVec 40} (ha : a.toNat % 4 = 0)
    (hp : placeOf a.toNat = .words) (s : State) :
    let q := quantityAt a.toNat true
    let r := readWords s q.1 (q.2 / 4)
    (q.2 = 4 → exec (.snapshotRead m a) s = .next (r.2.answer m (BitVec.ofNat 64 r.1))) ∧
    (q.2 ≠ 4 → a.toNat = q.1 → exec (.snapshotRead m a) s =
      .next ((r.2.setPort m { r.2.port m with snap := some (q.1, q.2, r.1) }).answer m (BitVec.ofNat 64 (r.1 % 2 ^ 32)))) ∧
    (∀ n v, q.2 ≠ 4 → a.toNat ≠ q.1 → (s.port m).snap = some (q.1, n, v) → exec (.snapshotRead m a) s =
      .next (s.answer m (BitVec.ofNat 64 (v / 2 ^ (8 * (a.toNat - q.1)) % 2 ^ 32)))) := by
  have run := (hostAccess_words hm ha hp 0 s).1
  exact ⟨fun h4 => snapshotRead_of run (portRead_whole h4), fun h4 he => snapshotRead_of run (portRead_first h4 he),
    fun n v h4 he hs => snapshotRead_of run (portRead_later h4 he hs)⟩

/-- A host's writes of a register or window. -/
theorem host_writes {m : Master} (hm : m = .pcie ∨ m = .service ∨ m = .k32) {a : BitVec 40} (ha : a.toNat % 4 = 0)
    (hp : placeOf a.toNat = .words) (val : Word) (s : State) :
    let e := quantityAt a.toNat false
    let w := unstaged s m
    (e.2 = 4 → (s.port m).stage = none → exec (.registerWrite m a val) s =
      .next (regWrite w a.toNat (putPart (keptQuantity s a.toNat 4) 0 4 val.toNat))) ∧
    (e.2 = 8 → a.toNat = e.1 → (s.port m).stage = none → exec (.registerWrite m a val) s =
      .next (s.setPort m { s.port m with stage := some (e.1, [(0, 4, val.toNat)]) })) ∧
    (∀ l, e.2 = 8 → a.toNat = e.1 + 4 → (s.port m).stage = some (e.1, l) → exec (.registerWrite m a val) s =
      .next (regWriteQuad w e.1 (mergeParts (keptQuantity s e.1 8) (l ++ [(4, 4, val.toNat)])))) := by
  have run := (hostAccess_words hm ha hp val s).2
  exact ⟨fun h4 hs => run.trans (congrArg Host.Outcome.next (portWrite_word ha h4 hs)),
    fun h8 he hs => run.trans (congrArg Host.Outcome.next (portWrite_low h8 he hs)),
    fun l h8 he hs => run.trans (congrArg Host.Outcome.next (portWrite_high h8 he hs))⟩

theorem host_memory {m : Master} (hm : m = .pcie ∨ m = .service ∨ m = .k32) {a : BitVec 40} (ha : a.toNat % 4 = 0)
    (hp : placeOf a.toNat = .bytes) (val : Word) (s : State) :
    exec (.snapshotRead m a) s = .next (s.answer m (BitVec.ofNat 64 (bytesRead s a.toNat 4))) ∧
      exec (.registerWrite m a val) s = .next (bytesWrite s a.toNat 4 val.toNat) := by
  obtain ⟨rd, wr⟩ := masterAccess_bytes (s := s) hp m 4
  exact ⟨(exec_snapshotRead_host hm ha s).trans (congrArg Host.Outcome.next rd),
    (exec_registerWrite_host hm ha val s).trans (congrArg Host.Outcome.next (wr _))⟩

theorem host_undecoded {m : Master} (hm : m = .pcie ∨ m = .service ∨ m = .k32) {a : BitVec 40} (ha : a.toNat % 4 = 0)
    (act : inActive a.toNat = false) (hp : placeOf a.toNat = .nothing) (val : Word) (s : State) :
    exec (.snapshotRead m a) s = .next ((undecoded s m a.toNat 1).answer m 0) ∧
      exec (.registerWrite m a val) s = .next (undecoded s m a.toNat 1) := by
  obtain ⟨rd, wr⟩ := masterAccess_nothing (s := s) hp act (fun u => (failMaster_host hm u).1) 4
  exact ⟨(exec_snapshotRead_host hm ha s).trans (congrArg Host.Outcome.next rd),
    (exec_registerWrite_host hm ha val s).trans (congrArg Host.Outcome.next (wr _))⟩

/-- The oldest outbound access of a host, as the bus answers it. -/
theorem outbound_ends {s : State} {x : OutAcc} {l : List OutAcc} (h : s.bus.outs = x :: l) (hm : x.m = .pcie ∨ x.m = .service) (val : Word) :
    let t := s.setBus { s.bus with outs := l }
    let g := grantTaken s x l
    (s.tb0 < x.at_ + 100000 → exec .busGrantTimeout s = .next s) ∧
    (x.at_ + 100000 ≤ s.tb0 → exec .busGrantTimeout s =
      .next (accessEnded (outFail t x.m x.addr 7 x.write.isSome) x.m x.addr x.write.isNone (.data 0xFFFFFFFF))) ∧
    exec (.busGrantAtBgin none) s =
      .next (accessEnded (outFail g x.m x.addr 6 x.write.isSome) x.m x.addr x.write.isNone (.data 0xFFFFFFFF)) ∧
    (x.m = .pcie → x.write = none → exec (.busGrantAtBgin (some val)) s =
      .next { g with pci := { g.pci with reply := g.pci.reply ++ leBytes 4 val.toNat } }) ∧
    (x.m = .pcie → x.write ≠ none → exec (.busGrantAtBgin (some val)) s = .next g) := by
  refine ⟨fun ht => congrArg Host.Outcome.next ((grantTimeout_some h).trans (if_pos ht)),
    fun ht => congrArg Host.Outcome.next (((grantTimeout_some h).trans (if_neg (Nat.not_lt.mpr ht))).trans (outLost_host _ hm 7)),
    congrArg Host.Outcome.next ((grantArrives_some h none).trans (outLost_host _ hm 6)), fun hp hw => ?_, fun hp hw => ?_⟩
  · have run := grantArrives_some h (some val)
    dsimp only at run
    rw [hp, hw] at run
    exact congrArg Host.Outcome.next (run.trans ((accessEnded_pcie _ _ true _).trans (if_pos rfl)))
  · have writes : x.write.isNone = false := Option.isNone_eq_false_iff.mpr (Option.isSome_iff_ne_none.mpr hw)
    have run := grantArrives_some h (some val)
    dsimp only at run
    rw [hp, writes] at run
    exact congrArg Host.Outcome.next (run.trans ((accessEnded_pcie _ _ false _).trans (if_neg Bool.false_ne_true)))

/-- Settles O57: the unit's own commands are the equations of its registers, and an access is decoded, resolved and then read or
written at its place. -/
theorem backplane : Obligations.Backplane := by
  unfold Obligations.Backplane
  refine ⟨fun k32 io w pa pb addr v mask lv ln s => ?_, fun m a16 a32 val s => ?_⟩
  · intro b arb ev
    refine ⟨fun h => arbiter_commands ((arbitrates_iff s).mpr h) k32 io w addr, fun h => ?_, fun t ht => ⟨fun h => ?_, fun h => ?_⟩,
      fun on hln => lineAsserted_commands s hln on, fun sel a hsel => iack_commands s hsel a,
      fun l t hl => iackReassert_commands hl, (sysrst_commands s pa pb).1, (sysrst_commands s pa pb).2, ⟨_, rfl, bpiClrCnt_reads s⟩,
      ⟨_, rfl, doorbell_reads s v.isLt⟩, ⟨_, rfl, vecPendClear_reads s mask⟩, fun h => congrArg Host.Outcome.next (iackCycle_none h),
      fun x h => congrArg Host.Outcome.next (iackCycle_k16 h), fun h => congrArg Host.Outcome.next (iackCycle_none h),
      fun x h => congrArg Host.Outcome.next (iackCycle_k32 h)⟩
    · have off : arbitrates s = false := Bool.eq_false_iff.mpr fun hx => h ((arbitrates_iff s).mp hx)
      obtain ⟨hreq, htim, hfor⟩ := not_arbiter off io w k32 io w addr.toNat
      exact ⟨congrArg Host.Outcome.next hreq, congrArg Host.Outcome.next htim, congrArg Host.Outcome.next hfor⟩
    · exact congrArg Host.Outcome.next ((grantLost_given ht).trans (if_neg (Nat.not_lt.mpr h)))
    · exact congrArg Host.Outcome.next ((grantLost_given ht).trans (if_pos h))
  · intro b ans dumb
    have k32 := k32_commands s a32
    refine ⟨k16_commands s a16, ⟨fun h => k32.1 h, fun hp en hb ha hpl => k32.2.1 hp en hb ha hpl, fun hp ha => k32.2.2 hp ha⟩,
      fun p hb x => congrArg Host.Outcome.next (blockBeat_last hb _ _),
      fun a hm ha act => ⟨fun hp => host_memory hm ha hp val s, fun hp => ?_, fun hp => host_undecoded hm ha act hp val s⟩,
      fun o x ho h4 hm => congrArg Host.Outcome.next (outboundAccess_waits o.isLt ho h4 hm x),
      fun h => ⟨congrArg Host.Outcome.next (grantTimeout_none h), congrArg Host.Outcome.next (grantArrives_none h _)⟩,
      fun x l h hm => outbound_ends h hm val, fun h => congrArg Host.Outcome.next (holdRelease_none h),
      fun h x hx hm hw hh ha hp => ?_⟩
    case' refine_2 =>
      intro t q
      exact congrArg Host.Outcome.next (holdRelease_read hx hm hw hh ha hp (Prod.mk.eta (p := q)).symm)
    obtain ⟨whole, first, later⟩ := host_reads hm ha hp s
    obtain ⟨word, low, high⟩ := host_writes hm ha hp val s
    exact ⟨whole, first, later, word, low, high⟩

end Sys2Proof.Machine
end

section
/-! PROOFS. PCI Express and the service port (R424, R426 to R429). -/
namespace Sys2Proof.Machine

/-! Requests of the endpoint. -/

theorem setPci_fld (s : State) (p : PciUnit) (b : Nat) (f : Fld) : ({ s with pci := p } : State).fld b f = s.fld b f := rfl

theorem setPci_flag (s : State) (p : PciUnit) (b : Nat) (f : Fld) : ({ s with pci := p } : State).flag b f = s.flag b f := rfl

theorem pcieOpen_iff (s : State) :
    pcieOpen s = true ↔ s.flag BPI.addr BPI.PCIE_UP = true ∧ s.pci.bars = true ∧ s.pci.d3hot = false := by
  unfold pcieOpen
  rw [Bool.and_eq_true, Bool.and_eq_true, Bool.not_eq_true', and_assoc]

/-- The state in which a read request gathers its reply. -/
def replyBegun (s : State) : State := { s with pci := { s.pci with reply := [] } }

theorem pcieOpen_replyBegun (s : State) : pcieOpen (replyBegun s) = pcieOpen s := by
  unfold pcieOpen replyBegun
  rw [setPci_flag]

/-- What a request does, with the reply of a read emptied first. -/
theorem pcieRequest_eq (s : State) (bar off : Nat) (en : List Bool) (data : Option (List Byte)) (p : Bool) :
    pcieRequest s bar off en data p =
      if !pcieOpen (if data.isNone then replyBegun s else s) || (data.isSome && p) then (if data.isNone then replyBegun s else s)
      else if bar = 1 then
        en.zipIdx.foldl (fun s p => bar2Byte s (off / 4 * 4 + p.2) p.1 (data.map (fun l => bytesAt l p.2 1)))
          (if data.isNone then replyBegun s else s)
      else (List.range (divCeil en.length 4)).foldl (fun s i =>
        if bar = 0 then
          bar0Dword s (activeBase + (off / 4 * 4 + 4 * i) % 0x40000000) (dwordEn en i) (data.map (fun l => bytesAt l (4 * i) 4))
        else bar4Dword s ((off / 4 * 4 + 4 * i) % 0x10000) (dwordEn en i) (data.map (fun l => bytesAt l (4 * i) 4)))
          (if data.isNone then replyBegun s else s) := rfl

/-- A request that the endpoint does not take only empties the reply of a read. -/
theorem pcieRequest_closed {s : State} (h : pcieOpen s = false) (bar off : Nat) (en : List Bool) (p : Bool) :
    pcieRequest s bar off en none p = replyBegun s ∧ ∀ d, pcieRequest s bar off en (some d) p = s := by
  refine ⟨?_, fun d => ?_⟩
  · rw [pcieRequest_eq, Option.isNone_none, if_pos rfl, pcieOpen_replyBegun, h, Bool.not_false, Bool.true_or, if_pos rfl]
  · rw [pcieRequest_eq, Option.isNone_some, if_neg Bool.false_ne_true, h, Bool.not_false, Bool.true_or, if_pos rfl]

theorem pcieRequest_poisoned (s : State) (bar off : Nat) (en : List Bool) (d : List Byte) :
    pcieRequest s bar off en (some d) true = s := by
  rw [pcieRequest_eq, Option.isNone_some, if_neg Bool.false_ne_true, Option.isSome_some, Bool.and_self, Bool.or_true, if_pos rfl]

/-- A read that the endpoint takes runs on the emptied reply. -/
theorem pcieRequest_read {s : State} (h : pcieOpen s = true) (bar off : Nat) (en : List Bool) :
    pcieRequest s bar off en none false =
      if bar = 1 then en.zipIdx.foldl (fun s p => bar2Byte s (off / 4 * 4 + p.2) p.1 none) (replyBegun s)
      else (List.range (divCeil en.length 4)).foldl (fun s i =>
        if bar = 0 then bar0Dword s (activeBase + (off / 4 * 4 + 4 * i) % 0x40000000) (dwordEn en i) none
        else bar4Dword s ((off / 4 * 4 + 4 * i) % 0x10000) (dwordEn en i) none) (replyBegun s) := by
  rw [pcieRequest_eq, Option.isNone_none, if_pos rfl, pcieOpen_replyBegun, h, Bool.and_false, Bool.not_true, Bool.or_self,
    if_neg Bool.false_ne_true]
  rfl

theorem pcieRequest_bar2_write {s : State} (h : pcieOpen s = true) (off : Nat) (en : List Bool) (d : List Byte) :
    pcieRequest s 1 off en (some d) false =
      en.zipIdx.foldl (fun s p => bar2Byte s (off / 4 * 4 + p.2) p.1 (some (bytesAt d p.2 1))) s := by
  rw [pcieRequest_eq, Option.isNone_some, if_neg Bool.false_ne_true, h, Bool.and_false, Bool.not_true, Bool.or_self,
    if_neg Bool.false_ne_true, if_pos rfl]
  rfl

theorem memBytes_four (s : State) (a : Nat) : s.memBytes a 4 = [s.byte a, s.byte (a + 1), s.byte (a + 2), s.byte (a + 3)] := rfl

theorem bar2_read {s : State} (h : pcieOpen s = true) {off : Nat} (h4 : off % 4 = 0) (hle : off + 4 ≤ 2 ^ 32) :
    pcieRequest s 1 off [true, true, true, true] none false =
      { s with pci := { s.pci with reply := s.memBytes off 4 } } := by
  rw [pcieRequest_read h, if_pos rfl, show off / 4 * 4 = off by omega, memBytes_four]
  have low (i : Nat) (hi : i < 4) : (off + i) % 0x100000000 = off + i := Nat.mod_eq_of_lt (by omega)
  simp only [List.zipIdx_cons, List.zipIdx_nil, List.foldl_cons, List.foldl_nil, bar2Byte, pcieReply, replyBegun, if_true]
  rw [low 0 (by decide), low (0 + 1) (by decide), low (0 + 1 + 1) (by decide), low (0 + 1 + 1 + 1) (by decide)]
  rfl

theorem bytesAt_head (x : Byte) (l : List Byte) : bytesAt (x :: l) 0 1 = x.toNat := by
  simp [bytesAt, leVal]

theorem bar2_write {s : State} (h : pcieOpen s = true) {off : Nat} (h4 : off % 4 = 0) (hlt : off < 2 ^ 32) :
    (∀ (x : Byte) l, pcieRequest s 1 off [true] (some (x :: l)) false = s.setByte off x) ∧
      ∀ l, pcieRequest s 1 off [false] (some l) false = s := by
  refine ⟨fun x l => ?_, fun l => pcieRequest_bar2_write h ..⟩
  rw [pcieRequest_bar2_write h, show off / 4 * 4 = off by omega]
  simp only [List.zipIdx_cons, List.zipIdx_nil, List.foldl_cons, List.foldl_nil, bar2Byte, if_true, Nat.add_zero]
  rw [bytesAt_head, show off % 0x100000000 = off from Nat.mod_eq_of_lt hlt, BitVec.ofNat_toNat, BitVec.setWidth_eq]

theorem bar4_read {s : State} (h : pcieOpen s = true) {off : Nat} (h4 : off % 4 = 0) (hlt : off < 0x10000) :
    pcieRequest s 2 off [true, true, true, true] none false =
      { s with pci := { s.pci with reply := leBytes 4 (bar4Read s off) } } := by
  rw [pcieRequest_read h, if_neg (by decide), show off / 4 * 4 = off by omega]
  have one : List.range (divCeil [true, true, true, true].length 4) = [0] := by decide
  rw [one, List.foldl_cons, List.foldl_nil, if_neg (by decide), Nat.mul_zero, Nat.add_zero, Nat.mod_eq_of_lt hlt]
  rfl

/-! Resets and link changes of the endpoint. -/

/-- The endpoint after a reset, before its event. -/
def endpointCleared (s : State) (perst d3 : Bool) : State :=
  let s : State := { s with pci := { PciUnit.reset with
    d3hot := d3, sent := s.pci.sent, last := s.pci.last, dma := s.pci.dma } }
  let s := (s.setFld BPI.addr BPI.MSIX_ON 0).setFld BPI.addr BPI.BME 0
  if perst then ((s.setFld BPI.addr BPI.PCIE_UP 0).setFld BPI.addr BPI.WIDTH 0).setFld BPI.addr BPI.SPEED 0 else s

theorem pcieReset_eq (s : State) (perst d3 : Bool) : pcieReset s perst d3 = raiseBoth (endpointCleared s perst d3) 244 := rfl

theorem endpointCleared_reads (s : State) (perst d3 : Bool) :
    let b := BPI.addr
    let u := endpointCleared s perst d3
    u.pci.bars = false ∧ u.pci.d3hot = d3 ∧ u.pci.pba = 0 ∧ u.pci.table = List.replicate 64 ⟨0, 0, true⟩ ∧
      u.flag b BPI.MSIX_ON = false ∧ u.flag b BPI.BME = false ∧ (perst = true → u.flag b BPI.PCIE_UP = false) ∧
      (perst = false → u.flag b BPI.PCIE_UP = s.flag b BPI.PCIE_UP) ∧ u.mem = s.mem ∧
      ∀ a, a = b + 0x200 ∨ a = b + 0x204 → u.word a = s.word a := by
  have far (t : State) (f : Fld) (hf : f.off + f.span ≤ 0x200) (v : Nat) {a : Nat} (ha : a = BPI.addr + 0x200 ∨ a = BPI.addr + 0x204) :
      (t.setFld BPI.addr f v).word a = t.word a := State.word_setFld_outside _ _ (by omega)
  cases perst
  · refine ⟨rfl, rfl, rfl, rfl, ?_, ?_, nofun, fun _ => ?_, rfl, fun a ha => ?_⟩
    · unfold endpointCleared
      simp (disch := decide) only [Bool.false_eq_true, if_false, State.flag_setFld_of_apart, State.flag_setFld_eq, Nat.zero_mod,
        ne_eq, not_true, decide_false]
    · unfold endpointCleared
      simp (disch := decide) only [Bool.false_eq_true, if_false, State.flag_setFld_eq, Nat.zero_mod,
        ne_eq, not_true, decide_false]
    · unfold endpointCleared
      simp (disch := decide) only [Bool.false_eq_true, if_false, State.flag_setFld_of_apart]
      exact setPci_flag ..
    · unfold endpointCleared
      simp only [Bool.false_eq_true, if_false]
      rw [far _ BPI.BME (by decide) _ ha, far _ BPI.MSIX_ON (by decide) _ ha]
      rfl
  · refine ⟨rfl, rfl, rfl, rfl, ?_, ?_, fun _ => ?_, nofun, rfl, fun a ha => ?_⟩
    · unfold endpointCleared
      simp (disch := decide) only [if_true, State.flag_setFld_of_apart, State.flag_setFld_eq, Nat.zero_mod,
        ne_eq, not_true, decide_false]
    · unfold endpointCleared
      simp (disch := decide) only [if_true, State.flag_setFld_of_apart, State.flag_setFld_eq, Nat.zero_mod,
        ne_eq, not_true, decide_false]
    · unfold endpointCleared
      simp (disch := decide) only [if_true, State.flag_setFld_of_apart, State.flag_setFld_eq, Nat.zero_mod,
        ne_eq, not_true, decide_false]
    · unfold endpointCleared
      simp only [if_true]
      rw [far _ BPI.SPEED (by decide) _ ha, far _ BPI.WIDTH (by decide) _ ha, far _ BPI.PCIE_UP (by decide) _ ha,
        far _ BPI.BME (by decide) _ ha, far _ BPI.MSIX_ON (by decide) _ ha]
      rfl

/-- The link fields and the host's configuration after a change of the link, before pending messages go out. -/
def pcieLinkNoted (s : State) (up : Bool) (width speed : Nat) (c : PcieSetup) : State :=
  let b := BPI.addr
  let s := s.putFlag b BPI.PCIE_UP up
  let s := (s.setFld b BPI.WIDTH (if up then width else 0)).setFld b BPI.SPEED (if up then speed else 0)
  let s := (s.putFlag b BPI.BME (up && c.bme)).putFlag b BPI.MSIX_ON (up && c.msix)
  { s with pci := { s.pci with bars := up && c.bars, d3hot := false, fnMask := up && c.fnMask } }

theorem pcieLink_legacy {s : State} (h : strapLegacy s = true) (up : Bool) (w sp : Nat) (c : PcieSetup) :
    pcieLink s up w sp c = s := if_pos h

theorem pcieLink_change {s : State} (h : strapLegacy s = false) {up : Bool} (hu : s.flag BPI.addr BPI.PCIE_UP ≠ up) (w sp : Nat)
    (c : PcieSetup) : pcieLink s up w sp c =
      raiseBoth (if up then msixFlush (pcieLinkNoted s up w sp c) else pcieLinkNoted s up w sp c) 244 :=
  (if_neg (by rw [h]; decide)).trans (if_pos (decide_eq_true hu))

theorem pcieLinkNoted_reads (s : State) (up : Bool) {w sp : Nat} (hw : w < 8) (hs : sp < 8) (c : PcieSetup) :
    let b := BPI.addr
    let u := pcieLinkNoted s up w sp c
    u.flag b BPI.PCIE_UP = up ∧ u.fld b BPI.WIDTH = (if up then w else 0) ∧ u.fld b BPI.SPEED = (if up then sp else 0) ∧
      u.pci.bars = (up && c.bars) ∧ u.flag b BPI.BME = (up && c.bme) ∧ u.mem = s.mem := by
  have width : (if up then w else 0) % 2 ^ (BPI.WIDTH.hi - BPI.WIDTH.lo + 1) = if up then w else 0 :=
    Nat.mod_eq_of_lt (by cases up; exacts [Nat.two_pow_pos _, hw])
  have speed : (if up then sp else 0) % 2 ^ (BPI.SPEED.hi - BPI.SPEED.lo + 1) = if up then sp else 0 :=
    Nat.mod_eq_of_lt (by cases up; exacts [Nat.two_pow_pos _, hs])
  refine ⟨?_, ?_, ?_, rfl, ?_, rfl⟩
  · refine (setPci_flag ..).trans ?_
    rw [State.flag_putFlag_of_apart _ _ (by decide), State.flag_putFlag_of_apart _ _ (by decide),
      State.flag_setFld_of_apart _ _ (by decide), State.flag_setFld_of_apart _ _ (by decide),
      State.flag_putFlag_eq _ _ (by decide) rfl]
  · refine (setPci_fld ..).trans ?_
    rw [State.fld_putFlag_of_apart _ _ (by decide), State.fld_putFlag_of_apart _ _ (by decide),
      State.fld_setFld_of_apart _ _ (by decide), State.fld_setFld_eq _ _ (by decide)]
    exact width
  · refine (setPci_fld ..).trans ?_
    rw [State.fld_putFlag_of_apart _ _ (by decide), State.fld_putFlag_of_apart _ _ (by decide),
      State.fld_setFld_eq _ _ (by decide)]
    exact speed
  · refine (setPci_flag ..).trans ?_
    rw [State.flag_putFlag_of_apart _ _ (by decide), State.flag_putFlag_eq _ _ (by decide) rfl]

theorem PciUnit.message_bars (p : PciUnit) (on : Bool) (v : Nat) : (p.message on v).bars = p.bars := by
  unfold PciUnit.message
  cases on
  · rfl
  · cases p.table[v]? with
    | none => rfl
    | some t =>
      rw [if_neg (by decide)]
      dsimp only
      split <;> rfl

/-- Pending messages that go out change no register, no memory and leave the BARs as they are. -/
theorem msixFlush_reads (s : State) :
    (msixFlush s).regs = s.regs ∧ (msixFlush s).mem = s.mem ∧ (msixFlush s).pci.bars = s.pci.bars := by
  refine ⟨rfl, rfl, ?_⟩
  have keep (l : List Nat) (goes : PciUnit → Nat → Bool) (p : PciUnit) : (l.foldl (fun p v =>
      if goes p v then PciUnit.message { p with pba := setBit p.pba v false } true v else p) p).bars = p.bars := by
    induction l generalizing p with
    | nil => rfl
    | cons v l ih =>
      rw [List.foldl_cons, ih]
      split
      · exact PciUnit.message_bars ..
      · rfl
  exact keep _ _ _

theorem msixFlush_regs (s : State) (b : Nat) :
    (∀ f, (msixFlush s).fld b f = s.fld b f) ∧ ∀ f, (msixFlush s).flag b f = s.flag b f :=
  have fld (f : Fld) : (msixFlush s).fld b f = s.fld b f := State.fld_congr (msixFlush_reads s).1 rfl rfl b f
  ⟨fld, fun f => congrArg (fun n => decide (n ≠ 0)) (fld f)⟩

/-! The service port. -/

/-- The running request a service datagram asks for. -/
def svcOf (src : Nat) (d : List Byte) : SvcRun := ⟨src, bytesAt d 4 2, bytesAt d 1 1 % 4, 0, []⟩

theorem serviceRequest_closed {s : State} (h : serviceOpen s = false) (src : Nat) (d : List Byte) : serviceRequest s src d = s :=
  if_pos (congrArg not h)

theorem serviceRequest_busy {s : State} (h : serviceOpen s = true) (hb : s.bus.svcBusy = true) (src : Nat) (d : List Byte) :
    serviceRequest s src d = s.setBus { s.bus with svcReply := some { svcOf src d with status := 4 } } :=
  (if_neg (by rw [h]; decide)).trans (if_pos hb)

/-- A datagram repeats the source and the number of the request kept. -/
def svcSame (s : State) (src : Nat) (d : List Byte) : Bool :=
  match s.bus.svc with | none => false | some x => decide (x.src = src ∧ x.seq = (svcOf src d).seq)

theorem serviceRequest_idle {s : State} (h : serviceOpen s = true) (hb : s.bus.svcBusy = false) (src : Nat) (d : List Byte) :
    serviceRequest s src d =
      if svcSame s src d then s.setBus { s.bus with svcReply := s.bus.svc }
      else if svcFormOk d then svcRun (s.setBus { s.bus with svc := some (svcOf src d), svcBusy := true }) (svcWords d)
      else s.setBus { s.bus with svc := some { svcOf src d with status := 3 }, svcReply := some { svcOf src d with status := 3 } } :=
  (if_neg (by rw [h]; decide)).trans (if_neg (by rw [hb]; decide))

theorem svcSame_true {s : State} {src : Nat} {d : List Byte} {x : SvcRun} (hx : s.bus.svc = some x) (h1 : x.src = (svcOf src d).src)
    (h2 : x.seq = (svcOf src d).seq) : svcSame s src d = true := by
  unfold svcSame
  rw [hx]
  exact decide_eq_true ⟨h1, h2⟩

theorem svcSame_false {s : State} {src : Nat} {d : List Byte}
    (h : ∀ x, s.bus.svc = some x → x.src ≠ (svcOf src d).src ∨ x.seq ≠ (svcOf src d).seq) : svcSame s src d = false := by
  unfold svcSame
  cases hx : s.bus.svc with
  | none => rfl
  | some x => exact decide_eq_false fun ⟨h1, h2⟩ => (h x hx).elim (· h1) (· h2)

/-- A request of one word of memory to read ends with that word. -/
theorem svcRun_read_word (s : State) (r : SvcRun) {a : Nat} (ha : placeOf a = .bytes) (h0 : r.status = 0) (hd : r.data = []) :
    svcRun (s.setBus { s.bus with svc := some r, svcBusy := true }) [(a, none)] =
      s.setBus { s.bus with
        svc := some { r with data := [BitVec.ofNat 32 (bytesRead s a 4)] },
        svcReply := some { r with data := [BitVec.ofNat 32 (bytesRead s a 4)] }, svcBusy := false, svcTodo := [] } := by
  have act := inActive_of_place (a := a) (by rw [ha]; decide)
  have acc : access (s.setBus { s.bus with svc := some r, svcBusy := true }) .service a 4 none =
      (.data (bytesRead s a 4), s.setBus { s.bus with svc := some r, svcBusy := true }) := by
    rw [access_direct act, (accessAt_bytes ha .service a 4).1]
    rfl
  obtain ⟨src, seq, op, st, data⟩ := r
  subst h0 hd
  unfold svcRun
  rw [Option.map_none, acc]
  rfl

theorem svcWords_read_one {d : List Byte} (h1 : bytesAt d 1 1 = 1) (h2 : bytesAt d 2 2 = 1) :
    svcWords d = [(bytesAt d 8 8, none)] := by
  unfold svcWords
  rw [h1, h2]
  rfl

theorem service_commands (s : State) (src : BitVec 48) (d : List Byte) :
      let r : SvcRun := ⟨src.toNat, bytesAt d 4 2, bytesAt d 1 1 % 4, 0, []⟩
      (serviceOpen s = false → exec (.serviceRequest src d) s = .next s) ∧
      (serviceOpen s = true → s.bus.svcBusy = true →
        exec (.serviceRequest src d) s = .next (s.setBus { s.bus with svcReply := some { r with status := 4 } })) ∧
      (serviceOpen s = true → s.bus.svcBusy = false →
        (∀ x, s.bus.svc = some x → x.src = r.src → x.seq = r.seq →
          exec (.serviceRequest src d) s = .next (s.setBus { s.bus with svcReply := some x })) ∧
        ((∀ x, s.bus.svc = some x → x.src ≠ r.src ∨ x.seq ≠ r.seq) → svcFormOk d = false →
          exec (.serviceRequest src d) s = .next (s.setBus { s.bus with
            svc := some { r with status := 3 }, svcReply := some { r with status := 3 } })) ∧
        ((∀ x, s.bus.svc = some x → x.src ≠ r.src ∨ x.seq ≠ r.seq) → svcFormOk d = true → bytesAt d 1 1 = 1 →
          bytesAt d 2 2 = 1 → placeOf (bytesAt d 8 8) = .bytes →
          let x := { r with data := [BitVec.ofNat 32 (bytesRead s (bytesAt d 8 8) 4)] }
          exec (.serviceRequest src d) s = .next (s.setBus { s.bus with
            svc := some x, svcReply := some x, svcBusy := false, svcTodo := [] }))) := by
  intro r
  refine ⟨fun h => congrArg Host.Outcome.next (serviceRequest_closed h ..),
    fun h hb => congrArg Host.Outcome.next (serviceRequest_busy h hb ..), fun h hb => ⟨fun x hx h1 h2 => ?_, fun hx hf => ?_,
      fun hx hf h1 h2 hp => ?_⟩⟩
  · refine congrArg Host.Outcome.next (((serviceRequest_idle h hb ..).trans (if_pos (svcSame_true hx h1 h2))).trans ?_)
    rw [hx]
  · exact congrArg Host.Outcome.next (((serviceRequest_idle h hb ..).trans
      (if_neg (Bool.eq_false_iff.mp (svcSame_false hx)))).trans (if_neg (Bool.eq_false_iff.mp hf)))
  · refine congrArg Host.Outcome.next (((serviceRequest_idle h hb ..).trans
      (if_neg (Bool.eq_false_iff.mp (svcSame_false hx)))).trans ((if_pos hf).trans ?_))
    rw [svcWords_read_one h1 h2]
    exact svcRun_read_word s (svcOf src.toNat d) hp rfl rfl

/-! The obligation. -/

theorem pcieLink_commands (s : State) (width speed : BitVec 3) (setup : PcieSetup) (h : strapLegacy s = false) :
    let b := BPI.addr
    (s.flag b BPI.PCIE_UP = true →
      ∃ u, exec (.pcieLinkStateChange false width speed setup) s = .next (raiseBoth u 244) ∧ u.flag b BPI.PCIE_UP = false ∧
        u.fld b BPI.WIDTH = 0 ∧ u.fld b BPI.SPEED = 0 ∧ u.pci.bars = false ∧ u.mem = s.mem) ∧
    (s.flag b BPI.PCIE_UP = false →
      ∃ u, exec (.pcieLinkStateChange true width speed setup) s = .next (raiseBoth u 244) ∧ u.flag b BPI.PCIE_UP = true ∧
        u.fld b BPI.WIDTH = width.toNat ∧ u.fld b BPI.SPEED = speed.toNat ∧ u.pci.bars = setup.bars ∧
        u.flag b BPI.BME = setup.bme ∧ u.mem = s.mem) := by
  intro b
  refine ⟨fun up => ?_, fun up => ?_⟩
  · obtain ⟨hup, hw, hs, hb, -, hm⟩ := pcieLinkNoted_reads s false width.isLt speed.isLt setup
    exact ⟨_, congrArg Host.Outcome.next (pcieLink_change h (by rw [up]; decide) ..), hup, hw, hs, hb, hm⟩
  · obtain ⟨hup, hw, hs, hb, hbme, hm⟩ := pcieLinkNoted_reads s true width.isLt speed.isLt setup
    obtain ⟨regs, mem, bars⟩ := msixFlush_reads (pcieLinkNoted s true width.toNat speed.toNat setup)
    obtain ⟨fld, flag⟩ := msixFlush_regs (pcieLinkNoted s true width.toNat speed.toNat setup) b
    exact ⟨_, congrArg Host.Outcome.next (pcieLink_change h (by rw [up]; decide) ..), (flag _).trans hup, (fld _).trans hw,
      (fld _).trans hs, bars.trans hb, (flag _).trans hbme, mem.trans hm⟩

/-- Settles O58, from the equations of the endpoint, its link and the service port. -/
theorem hostPorts : Obligations.HostPorts := by
  intro off s b empty openEp
  have closed (h : ¬ openEp) : pcieOpen s = false := Bool.eq_false_iff.mpr fun hx => h ((pcieOpen_iff s).mp hx)
  refine ⟨fun h bar en p => ?_, fun bar en d => congrArg Host.Outcome.next (pcieRequest_poisoned ..), fun h h4 hle => ?_,
    fun perst d3 => ⟨_, congrArg Host.Outcome.next (pcieReset_eq ..), endpointCleared_reads s perst d3⟩,
    fun w sp c h up => congrArg Host.Outcome.next (pcieLink_legacy h ..), fun w sp c h => (pcieLink_commands s w sp c h).1,
    fun w sp c h => (pcieLink_commands s w sp c h).2, service_commands s⟩
  · obtain ⟨rd, wr⟩ := pcieRequest_closed (closed h) bar.val off.toNat en p
    exact ⟨congrArg Host.Outcome.next rd, fun d => congrArg Host.Outcome.next (wr d)⟩
  · have op := (pcieOpen_iff s).mpr h
    obtain ⟨one, none⟩ := bar2_write op h4 off.isLt
    exact ⟨congrArg Host.Outcome.next (bar2_read op h4 hle), fun x l => congrArg Host.Outcome.next (one x l),
      fun l => congrArg Host.Outcome.next (none l), fun hlt => congrArg Host.Outcome.next (bar4_read op h4 hlt)⟩


end Sys2Proof.Machine
end

section
/-! PROOFS. The start sequence up to the read of an image (R9, R14, R431 to R434, R445, R446). -/
namespace Sys2Proof.Machine

/-! Registers of different blocks. -/

theorem State.fld_putFlag_of_outside (s : State) {b c : Nat} {f g : Fld} (x : Bool)
    (h : c + g.off + g.span ≤ b + f.off ∨ b + f.off + f.span ≤ c + g.off) : (s.putFlag b f x).fld c g = s.fld c g :=
  State.fld_setFld_of_outside _ _ h

theorem State.flag_setFld_of_outside (s : State) {b c : Nat} {f g : Fld} (v : Nat)
    (h : c + g.off + g.span ≤ b + f.off ∨ b + f.off + f.span ≤ c + g.off) : (s.setFld b f v).flag c g = s.flag c g :=
  congrArg (fun n => decide (n ≠ 0)) (State.fld_setFld_of_outside _ _ h)

theorem State.flag_putFlag_of_outside (s : State) {b c : Nat} {f g : Fld} (x : Bool)
    (h : c + g.off + g.span ≤ b + f.off ∨ b + f.off + f.span ≤ c + g.off) : (s.putFlag b f x).flag c g = s.flag c g :=
  State.flag_setFld_of_outside _ _ h

theorem State.flag_congr_regs {s t : State} (hr : t.regs = s.regs) (hi : t.image = s.image) (hs : t.sect = s.sect) (b : Nat) (f : Fld) :
    t.flag b f = s.flag b f :=
  congrArg (fun n => decide (n ≠ 0)) (State.fld_congr hr hi hs b f)

/-! What the sequence has set when it looks for an image. -/

/-- The straps are latched as x, the sequence stands at step 4, and nothing runs yet. -/
def Begun (x now : Nat) (u : State) : Prop :=
  u.fld MOD.addr MOD.STRAPS = x ∧ u.fld MOD.addr MOD.STEP = 4 ∧ u.fld MOD.addr MOD.NUM = x / 32 % 32 * 32 + x % 32 ∧
    u.flag BPI.addr BPI.SYSCTL = (bitOf x 10 || decide (x % 32 = 1)) ∧ u.tb0 = now ∧ u.image = none ∧
    u.halfA = .reset ∧ u.halfB = .reset

/-- The straps are latched as x and their defaults in force, before the sequence begins. -/
def Strapped (x now : Nat) (u : State) : Prop :=
  u.fld MOD.addr MOD.STRAPS = x ∧ u.fld MOD.addr MOD.NUM = x / 32 % 32 * 32 + x % 32 ∧
    u.flag BPI.addr BPI.SYSCTL = (bitOf x 10 || decide (x % 32 = 1)) ∧ u.tb0 = now ∧ u.image = none ∧
    u.halfA = .reset ∧ u.halfB = .reset

theorem applyStraps_rest (s : State) : (applyStraps s).mem = s.mem ∧ (applyStraps s).tb0 = s.tb0 ∧ (applyStraps s).image = s.image ∧
    (applyStraps s).halfA = s.halfA ∧ (applyStraps s).halfB = s.halfB ∧ (applyStraps s).boot = s.boot ∧ (applyStraps s).sect = s.sect := by
  unfold applyStraps
  dsimp only
  simp only [State.putFlag_mem, State.setFlag_mem, State.setFld_mem, State.putFlag_tb0, State.setFlag_tb0, State.setFld_tb0,
    State.putFlag_image, State.setFlag_image, State.setFld_image, State.putFlag_halfA, State.setFlag_halfA, State.setFld_halfA,
    State.putFlag_halfB, State.setFlag_halfB, State.setFld_halfB, State.putFlag_boot, State.setFlag_boot, State.setFld_boot,
    State.putFlag_sect, State.setFlag_sect, State.setFld_sect, and_self]

theorem applyStraps_strapped {s : State} {x now : Nat} (hx : s.fld MOD.addr MOD.STRAPS = x) (ht : s.tb0 = now) (hi : s.image = none)
    (ha : s.halfA = .reset) (hb : s.halfB = .reset) : Strapped x now (applyStraps s) := by
  obtain ⟨-, tb0, image, halfA, halfB, -⟩ := applyStraps_rest s
  refine ⟨?_, ?_, ?_, tb0.trans ht, image.trans hi, halfA.trans ha, halfB.trans hb⟩
  · subst hx
    unfold applyStraps
    simp (disch := decide) only [State.setFlag_eq_putFlag, State.fld_putFlag_of_outside, State.fld_setFld_of_apart]
  · subst hx
    unfold applyStraps
    simp (disch := decide) only [State.setFlag_eq_putFlag, State.fld_putFlag_of_outside, State.fld_setFld_eq]
    refine (Nat.mod_eq_of_lt ?_).trans rfl
    unfold strapRack strapGa
    show _ < 1024
    omega
  · subst hx
    unfold applyStraps
    simp (disch := decide) only [State.setFlag_eq_putFlag, State.flag_putFlag_of_apart]
    rw [State.flag_putFlag_eq _ _ (by decide) rfl]
    unfold straps strapGa straps
    rw [State.fld_setFld_of_apart _ _ (by decide)]

/-- The state in which the sequence looks for an image. -/
def startLooks (s : State) (pa pb : Bool) : State :=
  ((s.setBoot { s.boot with passA := pa, passB := pb }).setFld MOD.addr MOD.STEP 3).setFld MOD.addr MOD.STEP 4

theorem startLooks_boot (s : State) (pa pb : Bool) : (startLooks s pa pb).boot = { s.boot with passA := pa, passB := pb } := by
  unfold startLooks
  rw [State.setFld_boot, State.setFld_boot]
  rfl

theorem startLooks_begun {s : State} {x now : Nat} (h : Strapped x now s) (pa pb : Bool) :
    Begun x now (startLooks s pa pb) ∧ (startLooks s pa pb).mem = s.mem := by
  obtain ⟨hx, hn, hs, ht, hi, ha, hb⟩ := h
  unfold startLooks
  refine ⟨⟨?_, State.fld_setFld_eq _ _ (by decide), ?_, ?_, ?_, ?_, ?_, ?_⟩, ?_⟩
  · rw [State.fld_setFld_of_apart _ _ (by decide), State.fld_setFld_of_apart _ _ (by decide)]
    exact hx
  · rw [State.fld_setFld_of_apart _ _ (by decide), State.fld_setFld_of_apart _ _ (by decide)]
    exact hn
  · rw [State.flag_setFld_of_outside _ _ (by decide), State.flag_setFld_of_outside _ _ (by decide)]
    exact hs
  · rw [State.setFld_tb0, State.setFld_tb0]
    exact ht
  · rw [State.setFld_image, State.setFld_image]
    exact hi
  · rw [State.setFld_halfA, State.setFld_halfA]
    exact ha
  · rw [State.setFld_halfB, State.setFld_halfB]
    exact hb
  · rw [State.setFld_mem, State.setFld_mem]
    rfl

/-- What a start that waits shows: its state, and what stood before. -/
theorem Begun.waits {x now : Nat} {u : State} (h : Begun x now u) (v : Nat) :
    Begun x now (u.setFld MOD.addr MOD.STATE v) ∧ (u.setFld MOD.addr MOD.STATE v).mem = u.mem := by
  obtain ⟨hx, h4, hn, hs, ht, hi, ha, hb⟩ := h
  refine ⟨⟨?_, ?_, ?_, ?_, (State.setFld_tb0 ..).trans ht, (State.setFld_image ..).trans hi, (State.setFld_halfA ..).trans ha,
    (State.setFld_halfB ..).trans hb⟩, State.setFld_mem ..⟩
  · rw [State.fld_setFld_of_apart _ _ (by decide), hx]
  · rw [State.fld_setFld_of_apart _ _ (by decide), h4]
  · rw [State.fld_setFld_of_apart _ _ (by decide), hn]
  · rw [State.flag_setFld_of_outside _ _ (by decide), hs]

theorem Begun.keyKnown {x now : Nat} {u : State} (h : Begun x now u) (v : Nat) :
    Begun x now (u.setFld KEY.addr KEY.KEY_ID v) ∧ (u.setFld KEY.addr KEY.KEY_ID v).mem = u.mem := by
  obtain ⟨hx, h4, hn, hs, ht, hi, ha, hb⟩ := h
  refine ⟨⟨?_, ?_, ?_, ?_, (State.setFld_tb0 ..).trans ht, (State.setFld_image ..).trans hi, (State.setFld_halfA ..).trans ha,
    (State.setFld_halfB ..).trans hb⟩, State.setFld_mem ..⟩
  · rw [State.fld_setFld_of_outside _ _ (by decide), hx]
  · rw [State.fld_setFld_of_outside _ _ (by decide), h4]
  · rw [State.fld_setFld_of_outside _ _ (by decide), hn]
  · rw [State.flag_setFld_of_outside _ _ (by decide), hs]

theorem startSequence_eq (s : State) (pa pb : Bool) : startSequence s pa pb =
    if strapBoot (startLooks s pa pb) then
      (match (startLooks s pa pb).boot.key with
      | some id => (startLooks s pa pb).setFld KEY.addr KEY.KEY_ID id
      | none => startLooks s pa pb).setFld MOD.addr MOD.STATE 4
    else
      match (startLooks s pa pb).boot.key with
      | none => (startLooks s pa pb).setFld MOD.addr MOD.STATE 3
      | some id => readKey (startLooks s pa pb) id := rfl

theorem startSequence_strapped {s : State} {x now : Nat} (h : Strapped x now s) (pa pb : Bool) :
    (x.testBit 12 = false → s.boot.key = none → Begun x now (startSequence s pa pb) ∧
      (startSequence s pa pb).fld MOD.addr MOD.STATE = 3 ∧ (startSequence s pa pb).mem = s.mem) ∧
    (x.testBit 12 = true → Begun x now (startSequence s pa pb) ∧
      (startSequence s pa pb).fld MOD.addr MOD.STATE = 4 ∧ (startSequence s pa pb).mem = s.mem) ∧
    ∀ i, x.testBit 12 = false → s.boot.key = some i → ∃ u, startSequence s pa pb = readKey u i ∧ Begun x now u ∧ u.mem = s.mem := by
  obtain ⟨beg, mem⟩ := startLooks_begun h pa pb
  have boot : strapBoot (startLooks s pa pb) = x.testBit 12 := by
    unfold strapBoot straps
    rw [beg.1, bitOf_eq_testBit]
  have key : (startLooks s pa pb).boot.key = s.boot.key := (congrArg BootUnit.key (startLooks_boot s pa pb)).trans rfl
  rw [startSequence_eq, boot, key]
  refine ⟨fun hx hk => ?_, fun hx => ?_, fun i hx hk => ?_⟩
  · rw [hx, hk, if_neg Bool.false_ne_true]
    exact ⟨(beg.waits 3).1, State.fld_setFld_eq _ _ (by decide), (beg.waits 3).2.trans mem⟩
  · rw [hx, if_pos rfl]
    cases s.boot.key with
    | none => exact ⟨(beg.waits 4).1, State.fld_setFld_eq _ _ (by decide), (beg.waits 4).2.trans mem⟩
    | some i =>
      obtain ⟨bk, mk⟩ := beg.keyKnown i
      exact ⟨(bk.waits 4).1, State.fld_setFld_eq _ _ (by decide), ((bk.waits 4).2.trans mk).trans mem⟩
  · rw [hx, hk, if_neg Bool.false_ne_true]
    exact ⟨_, rfl, beg, mem⟩

/-! A power-on reset (R9, R431, R457). -/

/-- The module after a power-on reset, with the supply shown and the straps latched. -/
def powerLatched (s : State) (latched vX vP : Nat) (rX rP : Bool) : State :=
  (putSupply (resetBase s true) ⟨vX, vP, rX, rP, (resetBase s true).boot.supply.ioLow⟩).setFld MOD.addr MOD.STRAPS latched

/-- The straps' defaults and the count of the start in retained MRAM. -/
def powerCounted (s : State) (latched vX vP : Nat) (rX rP : Bool) : State :=
  mramCount (((applyStraps (powerLatched s latched vX vP rX rP)).setMemN (mramAddr 0) 0x52544E4A).setMemN (mramAddr 4) 1) 0

/-- The module before its sequence: a system controller holds SYSRST. -/
def powerReady (s : State) (latched vX vP : Nat) (rX rP : Bool) : State :=
  let s := powerCounted s latched vX vP rX rP
  if s.flag BPI.addr BPI.SYSCTL then { s with bus := { s.bus with sysrst := some 200000000 } } else s

theorem powerOn_eq (s : State) (latched : Nat) (pa pb : Bool) (vX vP : Nat) (rX rP : Bool) :
    powerOn s latched pa pb vX vP rX rP = startSequence (powerReady s latched vX vP rX rP) pa pb := rfl

theorem putSupply_rest (s : State) (x : Supply) : (putSupply s x).mem = s.mem ∧ (putSupply s x).tb0 = s.tb0 ∧
    (putSupply s x).image = s.image ∧ (putSupply s x).halfA = s.halfA ∧ (putSupply s x).halfB = s.halfB ∧
    (putSupply s x).boot = { s.boot with supply := x } := by
  unfold putSupply
  dsimp only
  simp only [State.putFlag_mem, State.setFld_mem, State.putFlag_tb0, State.setFld_tb0, State.putFlag_image, State.setFld_image,
    State.putFlag_halfA, State.setFld_halfA, State.putFlag_halfB, State.setFld_halfB, State.putFlag_boot, State.setFld_boot,
    State.setBoot_mem, State.setBoot_tb0, State.setBoot_image, State.setBoot_halfA, State.setBoot_halfB, true_and]
  rfl

theorem resetBase_power_rest (s : State) : (resetBase s true).mem = retained s.mem ∧ (resetBase s true).tb0 = 0 ∧
    (resetBase s true).image = none ∧ (resetBase s true).halfA = .reset ∧ (resetBase s true).halfB = .reset ∧
    (resetBase s true).boot = (clearedBase s true).boot := by
  unfold resetBase
  dsimp only
  rw [if_pos rfl, Bool.not_true, Bool.false_and]
  simp only [State.setFld_mem, State.setFld_tb0, State.setFld_image, State.setFld_halfA, State.setFld_halfB, State.setFld_boot]
  exact ⟨rfl, rfl, rfl, rfl, rfl, rfl⟩

theorem powerReady_strapped (s : State) {latched : Nat} (hl : latched < 2 ^ 14) (vX vP : Nat) (rX rP : Bool) :
    Strapped latched 0 (powerReady s latched vX vP rX rP) ∧ (powerReady s latched vX vP rX rP).boot.key = s.boot.key := by
  obtain ⟨-, bt, bi, ba, bb, bk⟩ := resetBase_power_rest s
  obtain ⟨-, pt, pi, pa, pb, pk⟩ := putSupply_rest (resetBase s true) ⟨vX, vP, rX, rP, (resetBase s true).boot.supply.ioLow⟩
  have latchedHere : Strapped latched 0 (applyStraps (powerLatched s latched vX vP rX rP)) :=
    applyStraps_strapped ((State.fld_setFld_eq _ _ (by decide)).trans (Nat.mod_eq_of_lt hl))
      (((State.setFld_tb0 ..).trans pt).trans bt) (((State.setFld_image ..).trans pi).trans bi)
      (((State.setFld_halfA ..).trans pa).trans ba) (((State.setFld_halfB ..).trans pb).trans bb)
  obtain ⟨-, -, -, -, -, ak, -⟩ := applyStraps_rest (powerLatched s latched vX vP rX rP)
  have key : (applyStraps (powerLatched s latched vX vP rX rP)).boot.key = s.boot.key := by
    rw [ak]
    unfold powerLatched
    rw [State.setFld_boot, pk]
    exact (congrArg BootUnit.key bk).trans rfl
  have counted : Strapped latched 0 (powerCounted s latched vX vP rX rP) ∧
      (powerCounted s latched vX vP rX rP).boot.key = s.boot.key := by
    unfold powerCounted
    generalize applyStraps (powerLatched s latched vX vP rX rP) = t at latchedHere key
    obtain ⟨hx, hn, hs, ht, hi, ha, hb⟩ := latchedHere
    have regs (u : State) (a v : Nat) (f : Fld) (b : Nat) : (u.setMemN a v).fld b f = u.fld b f :=
      State.fld_congr (State.setMemN_regs ..) (State.setMemN_image ..) (State.setMemN_sect ..) b f
    have flags (u : State) (a v : Nat) (f : Fld) (b : Nat) : (u.setMemN a v).flag b f = u.flag b f :=
      State.flag_congr_regs (State.setMemN_regs ..) (State.setMemN_image ..) (State.setMemN_sect ..) b f
    unfold mramCount
    dsimp only
    refine ⟨⟨?_, ?_, ?_, ?_, ?_, ?_, ?_⟩, ?_⟩
    · rw [regs, regs, regs, hx]
    · rw [regs, regs, regs, hn]
    · rw [flags, flags, flags, hs]
    · rw [State.setMemN_tb0, State.setMemN_tb0, State.setMemN_tb0, ht]
    · rw [State.setMemN_image, State.setMemN_image, State.setMemN_image, hi]
    · rw [State.setMemN_halfA, State.setMemN_halfA, State.setMemN_halfA, ha]
    · rw [State.setMemN_halfB, State.setMemN_halfB, State.setMemN_halfB, hb]
    · rw [State.setMemN_boot, State.setMemN_boot, State.setMemN_boot, key]
  unfold powerReady
  dsimp only
  generalize powerCounted s latched vX vP rX rP = t at counted
  split
  · exact counted
  · exact counted

theorem powerOn_started (s : State) {latched : Nat} (hl : latched < 2 ^ 14) (pa pb : Bool) (vX vP : Nat) (rX rP : Bool) :
    let t := powerOn s latched pa pb vX vP rX rP
    (latched.testBit 12 = false → s.boot.key = none → Begun latched 0 t ∧ t.fld MOD.addr MOD.STATE = 3) ∧
    (latched.testBit 12 = true → Begun latched 0 t ∧ t.fld MOD.addr MOD.STATE = 4) ∧
    ∀ i, latched.testBit 12 = false → s.boot.key = some i → ∃ u, t = readKey u i ∧ Begun latched 0 u := by
  intro t
  obtain ⟨strapped, key⟩ := powerReady_strapped s hl vX vP rX rP
  obtain ⟨waits, host, reads⟩ := startSequence_strapped strapped pa pb
  rw [key] at waits reads
  refine ⟨fun h hk => ?_, fun h => ?_, fun i h hk => ?_⟩
  · obtain ⟨beg, st, -⟩ := waits h hk
    exact ⟨beg, st⟩
  · obtain ⟨beg, st, -⟩ := host h
    exact ⟨beg, st⟩
  · obtain ⟨u, run, beg, -⟩ := reads i h hk
    exact ⟨u, run, beg⟩


end Sys2Proof.Machine
end

section
/-! PROOFS. A module reset, the key's insertion and removal, the host's GO and the strap check (R9, R433, R438, R446, R447). -/
namespace Sys2Proof.Machine

/-! The island begins anew: what lies below its registers stays. -/

/-- A step of the island's start: the registers below the island's and every other unit stay. -/
structure IslandOnly (s t : State) : Prop where
  word : ∀ a, a < ISL.addr → t.word a = s.word a
  mem : t.mem = s.mem
  tb0 : t.tb0 = s.tb0
  image : t.image = s.image
  sectCfg : t.sectCfg = s.sectCfg
  halfA : t.halfA = s.halfA
  halfB : t.halfB = s.halfB
  boot : t.boot = s.boot

theorem IslandOnly.refl (s : State) : IslandOnly s s := ⟨fun _ _ => rfl, rfl, rfl, rfl, rfl, rfl, rfl, rfl⟩

theorem IslandOnly.trans {s t u : State} (h : IslandOnly s t) (k : IslandOnly t u) : IslandOnly s u :=
  ⟨fun a ha => (k.word a ha).trans (h.word a ha), k.mem.trans h.mem, k.tb0.trans h.tb0, k.image.trans h.image,
    k.sectCfg.trans h.sectCfg, k.halfA.trans h.halfA, k.halfB.trans h.halfB, k.boot.trans h.boot⟩

theorem IslandOnly.ite {c : Prop} [Decidable c] {s t u : State} (ht : IslandOnly s t) (hu : IslandOnly s u) :
    IslandOnly s (if c then t else u) := by
  split
  · exact ht
  · exact hu

theorem IslandOnly.setFld (s : State) {b : Nat} (f : Fld) (v : Nat) (hb : ISL.addr ≤ b) : IslandOnly s (s.setFld b f v) where
  word _ ha := State.word_setFld_outside _ _ (.inl (by omega))
  mem := State.setFld_mem ..
  tb0 := State.setFld_tb0 ..
  image := State.setFld_image ..
  sectCfg := State.setFld_sectCfg ..
  halfA := State.setFld_halfA ..
  halfB := State.setFld_halfB ..
  boot := State.setFld_boot ..

theorem IslandOnly.setIsl (s : State) (x : IslandUnit) : IslandOnly s (s.setIsl x) := ⟨fun _ _ => rfl, rfl, rfl, rfl, rfl, rfl, rfl, rfl⟩

theorem IslandOnly.setMapBit (s : State) {a : Nat} (i : Nat) (x : Bool) (ha : ISL.addr ≤ a) : IslandOnly s (s.setMapBit a i x) where
  word _ hb := State.word_setWordN_other _ _ (by omega)
  mem := rfl
  tb0 := rfl
  image := rfl
  sectCfg := rfl
  halfA := rfl
  halfB := rfl
  boot := rfl

/-- A fold of island steps over states whose section is none. -/
theorem IslandOnly.foldl {f : State → Nat → State} (hf : ∀ s x, s.sectCfg = .none → IslandOnly s (f s x)) (l : List Nat) {s : State}
    (hs : s.sectCfg = .none) : IslandOnly s (l.foldl f s) := by
  induction l generalizing s with
  | nil => exact .refl s
  | cons x l ih =>
    have one := hf s x hs
    exact one.trans (ih (one.sectCfg.trans hs))

theorem putConnState_islandOnly (s : State) (c st : Nat) : IslandOnly s (putConnState s c st) := by
  have conn : ISL.addr ≤ CONN.addr c := by
    unfold ISL.addr CONN.addr
    omega
  exact ((IslandOnly.setFld s CONN.C_STATE st conn).trans (.setMapBit _ _ _ (by decide))).trans (.setFld _ _ _ (by decide))

theorem putGroup_islandOnly (s : State) (g : Nat) (w : Bool) : IslandOnly s (putGroup s g w) := by
  have group : ISL.addr ≤ groupBase g := Nat.le_add_right ..
  unfold putGroup
  exact (IslandOnly.setFld s ISL.G_STATE _ group).trans (IslandOnly.setFld _ ISL.G_WAIT_RESET (b2n w) group)

/-- Without a section no arm belongs to a group. -/
theorem stopArms_none {s : State} (h : s.sectCfg = .none) (g : Nat) : stopArms s g = s := by
  unfold stopArms groupCfg
  rw [h]
  rfl

theorem updateGroup_islandOnly {s : State} (h : s.sectCfg = .none) (g : Nat) : IslandOnly s (updateGroup s g) := by
  unfold updateGroup
  dsimp only
  generalize worst _ = w
  cases w with
  | none => exact (IslandOnly.setIsl s _).trans (putGroup_islandOnly ..)
  | some c =>
    have stopped (x : GroupRun) : stopArms (setGroup s g x) g = setGroup s g x :=
      stopArms_none (s := setGroup s g x) h g
    dsimp only
    rw [stopped]
    exact .ite ((IslandOnly.setIsl s _).trans (putGroup_islandOnly ..)) (putGroup_islandOnly ..)

theorem driveOutputs_islandOnly (s : State) : IslandOnly s (driveOutputs s) :=
  ((IslandOnly.setIsl s _).trans (.setFld _ _ _ (Nat.le_refl _))).trans (.setFld _ _ _ (Nat.le_refl _))

theorem islandBegins_islandOnly {s : State} (h : s.sectCfg = .none) : IslandOnly s (islandBegins s) := by
  have first : IslandOnly s (if islState s = 3 then s else s.setFld ISL.addr ISL.STATE 0) := by
    split
    · exact .refl s
    · exact .setFld s _ _ (Nat.le_refl _)
  have shown := (first.trans (.setFld _ ISL.LOADING (b2n false) (Nat.le_refl _))).trans
    (IslandOnly.setFld _ SSM.TEST_BUSY (b2n false) (b := SSM.addr) (by decide))
  have conns := shown.trans (IslandOnly.foldl (fun s c _ => putConnState_islandOnly s c 0) (List.range 64) (shown.sectCfg.trans h))
  have groups := conns.trans (IslandOnly.foldl (fun _ g hg => updateGroup_islandOnly hg g) (List.range 16) (conns.sectCfg.trans h))
  exact groups.trans (driveOutputs_islandOnly _)

/-! The solver channels put back to reset: the straps, time and the start sequence stay (R166). -/

/-- What a reset of the solver channels leaves of the strap latches, time and the start. -/
structure StrapKeeps (s t : State) : Prop where
  canonical : s.canonical = true → t.canonical = true
  word : s.canonical = true → t.word (MOD.addr + 0xC) = s.word (MOD.addr + 0xC)
  tb0 : t.tb0 = s.tb0
  boot : t.boot = s.boot
  image : t.image = s.image
  sect : t.sect = s.sect

theorem StrapKeeps.refl (s : State) : StrapKeeps s s := ⟨id, fun _ => rfl, rfl, rfl, rfl, rfl⟩

theorem StrapKeeps.trans {s t u : State} (h : StrapKeeps s t) (k : StrapKeeps t u) : StrapKeeps s u :=
  ⟨k.canonical ∘ h.canonical, fun hc => (k.word (h.canonical hc)).trans (h.word hc), k.tb0.trans h.tb0, k.boot.trans h.boot,
    k.image.trans h.image, k.sect.trans h.sect⟩

theorem StrapKeeps.foldl {α : Type} {f : State → α → State} (hf : ∀ s x, StrapKeeps s (f s x)) (l : List α) (s : State) :
    StrapKeeps s (l.foldl f s) := by
  induction l generalizing s with
  | nil => exact .refl s
  | cons x l ih => exact (hf s x).trans (ih _)

theorem strapReg_quiet : quietReg (MOD.addr + 0xC) := by
  refine ⟨by decide, fun h => ?_, fun h => ?_, by decide⟩ <;> cases h <;> decide

theorem LogKeeps.strap {s t : State} (h : LogKeeps s t) (hc : s.canonical = true → t.canonical = true) : StrapKeeps s t :=
  ⟨hc, fun _ => h.word _ strapReg_quiet, h.tb0, h.boot, h.image, h.sect⟩

theorem StrapKeeps.setFld (s : State) {b : Nat} (f : Fld) (v : Nat) (hb : b + f.off + f.span ≤ MOD.addr) :
    StrapKeeps s (s.setFld b f v) where
  canonical := State.setFld_keeps canonical_closed s b f v
  word _ := State.word_setFld_outside _ _ (.inr (by omega))
  tb0 := State.setFld_tb0 ..
  boot := State.setFld_boot ..
  image := State.setFld_image ..
  sect := State.setFld_sect ..

theorem StrapKeeps.setMemN (s : State) (a v : Nat) : StrapKeeps s (s.setMemN a v) where
  canonical := State.setMemN_keeps canonical_closed s a v
  word _ := State.word_congr (State.setMemN_regs ..) (State.setMemN_image ..) (State.setMemN_sect ..) _
  tb0 := State.setMemN_tb0 ..
  boot := State.setMemN_boot ..
  image := State.setMemN_image ..
  sect := State.setMemN_sect ..

/-- In a canonical store a register outside the range keeps its value when the range goes back to reset. -/
theorem State.word_resetRegs_outside {s : State} (hc : s.canonical = true) {lo n a : Nat} (h : ¬(lo ≤ a ∧ a < lo + n)) :
    (s.resetRegs lo n).word a = s.word a := by
  have hs : storeSorted s.regs = true := (Bool.and_eq_true_iff.mp hc).1
  have hf : storeFind (storeClear s.regs lo n) a = storeFind s.regs a := by
    refine (storeFind_filter (fun b => !(decide (lo ≤ b) && decide (b < lo + n))) a hs).trans (if_pos ?_)
    rcases Nat.lt_or_ge a lo with h1 | h1
    · rw [decide_eq_false (Nat.not_le.mpr h1)]
      rfl
    · rw [decide_eq_false (p := a < lo + n) fun h2 => h ⟨h1, h2⟩, Bool.and_false]
      rfl
  unfold State.word
  rw [State.resetRegs_regs, hf]
  rfl

theorem chAddr_below (h : Half) {k : Nat} (hk : k < 18) : CH.addr h k + 0x100 ≤ MOD.addr := by
  have : CH.addr h k + 0x100 ≤ CH.addr h 18 := by
    unfold CH.addr
    omega
  exact this.trans (by cases h <;> decide)

theorem StrapKeeps.countIf (s : State) (c : Bool) (h : Half) {k : Nat} (hk : k < 18) {f : Fld} (hf : f.off + f.span ≤ 0x100) :
    StrapKeeps s (s.countIf c (CH.addr h k) f) := by
  have below := chAddr_below h hk
  cases c
  · exact .refl s
  · exact .setFld _ _ _ (by omega)

theorem noteProblem_strapKeeps (s : State) (h : Half) {k : Nat} (hk : k < 18) (st : Nat) : StrapKeeps s (noteProblem s h k st) := by
  have c (u : State) (x : Bool) {f : Fld} (hf : f.off + f.span ≤ 0x100) := StrapKeeps.countIf u x h hk hf
  have counted := (((((c s true (f := CH.DONE_CNT) (by decide)).trans (c _ (bitOf st 1) (f := CH.FLAG_CNT) (by decide))).trans
    (c _ (bitOf st 6) (f := CH.WARM_REJECT_CNT) (by decide))).trans
    (c _ (decide (bitsOf st 11 8 ≠ 0)) (f := CH.REFUSE_CNT) (by decide))).trans
    (c _ (bitOf st 5) (f := CH.REG_CNT) (by decide))).trans (c _ (bitOf st 3) (f := CH.OVF_CNT) (by decide))
  have flagged (u : State) (v : Nat) : StrapKeeps u (raiseEvt (u.setFld (SOLV.addr h) SOLV.FLAGGED v) h 146) :=
    (StrapKeeps.setFld u SOLV.FLAGGED v (b := SOLV.addr h) (by cases h <;> decide)).trans
      ((raiseEvt_raiseKeeps _ h (by decide)).toLogKeeps.strap (raiseEvt_keeps canonical_closed _ h _))
  unfold noteProblem
  dsimp only
  split
  · refine StrapKeeps.trans ?_ (flagged _ _)
    exact counted
  · exact counted

theorem flushDesc_strapKeeps (s : State) (h : Half) {k : Nat} (hk : k < 18) (x : SolverDesc) : StrapKeeps s (flushDesc s h k x) := by
  have problem (u : State) (j : Nat) : StrapKeeps u (flushProblem u h k x.words j) := by
    unfold flushProblem writeRecord
    exact ((((StrapKeeps.setMemN _ _ _).trans (.setMemN _ _ _)).trans (.setMemN _ _ _)).trans (.setMemN _ _ _)).trans
      (noteProblem_strapKeeps _ h hk _)
  have problems := StrapKeeps.foldl (fun u j => problem u (x.done + j)) (List.range (dBatch x.words - x.done)) s
  exact problems.trans ((raiseIf_raiseKeeps _ _ h (by omega)).toLogKeeps.strap (raiseIf_keeps canonical_closed _ _ h _))

theorem channelReset_strapKeeps (s : State) (h : Half) {k : Nat} (hk : k < 18) : StrapKeeps s (channelReset s h k) := by
  have flushed := StrapKeeps.foldl (fun u x => flushDesc_strapKeeps u h hk x) (solverCh s h k).queue s
  have emptied (u : State) (x : SolverUnit) : StrapKeeps u ((u.setSolver h x).resetRegs (CH.addr h k) 0x100) := by
    have below := chAddr_below h hk
    refine ⟨fun hc => ?_, fun hc => ?_, State.setSolver_tb0 .., State.setSolver_boot .., State.setSolver_image .., State.setSolver_sect ..⟩
    · exact State.resetRegs_keeps canonical_closed _ _ _ (State.setSolver_keeps canonical_closed _ _ _ hc)
    · rw [State.word_resetRegs_outside (State.setSolver_keeps canonical_closed _ _ _ hc) (by omega)]
      exact State.word_congr (State.setSolver_regs ..) (State.setSolver_image ..) (State.setSolver_sect ..) _
  exact flushed.trans (emptied _ _)

theorem solverReset_strapKeeps (s : State) (h : Half) : StrapKeeps s (solverReset s h) := by
  have each (l : List Nat) (hl : ∀ k ∈ l, k < 18) (u : State) : StrapKeeps u (l.foldl (fun s k => channelReset s h k) u) := by
    induction l generalizing u with
    | nil => exact .refl u
    | cons k l ih =>
      exact (channelReset_strapKeeps u h (hl k (List.mem_cons_self ..))).trans (ih (fun x hx => hl x (List.mem_cons_of_mem _ hx)) _)
  exact each _ (fun k hk => List.mem_range.mp hk) s


/-! A module reset (R9). -/

/-- The straps' register reads 0 where nothing is listed, whatever the image or the section. -/
theorem strapReg_regReset (s : State) : s.regReset (MOD.addr + 0xC) = 0 := by
  have row : regRowAt (MOD.addr + 0xC) = some ⟨0xC, 4, 1, 0x0, 0x0, 0x0, 0x0, 0x0, 0x0, 0x0, 0x0, 0⟩ := by decide +kernel
  unfold State.regReset
  simp only [row, if_true]
  rfl

/-- A module reset keeps the strap latches. -/
theorem clearedBase_straps {s : State} (hc : s.canonical = true) :
    (clearedBase s false).word (MOD.addr + 0xC) = s.word (MOD.addr + 0xC) := by
  have hs : storeSorted s.regs = true := (Bool.and_eq_true_iff.mp hc).1
  have found : storeFind (clearedBase s false).regs (MOD.addr + 0xC) = storeFind s.regs (MOD.addr + 0xC) :=
    (storeFind_filter (fun a => decide (a = ISL.addr + 0x14) || (!false && (decide (ISL.addr ≤ a ∧ a < ISL.addr + 0x3000) ||
      decide (a = MOD.addr + 0xC) || decide (a = BPI.addr + 0xB0)))) _ hs).trans (if_pos (by decide))
  unfold State.word
  rw [found, strapReg_regReset, strapReg_regReset]

/-- The module after a module reset, before the island begins anew. -/
def moduleCleared (s : State) : State :=
  ((clearedBase s false).flagIf (!false && s.flag BPI.addr BPI.PCIE_UP) BPI.addr BPI.PCIE_UP).setFld ISL.addr ISL.ADDR
    (s.isl.swY % 1024)

theorem resetBase_module (s : State) : resetBase s false = islandBegins (moduleCleared s) := rfl

theorem flagIf_outside (s : State) (c : Bool) {b : Nat} (f : Fld) : (s.flagIf c b f).mem = s.mem ∧ (s.flagIf c b f).tb0 = s.tb0 ∧
    (s.flagIf c b f).image = s.image ∧ (s.flagIf c b f).sectCfg = s.sectCfg ∧ (s.flagIf c b f).halfA = s.halfA ∧
    (s.flagIf c b f).halfB = s.halfB ∧ (s.flagIf c b f).boot = s.boot ∧ ∀ a, a < b + f.off → (s.flagIf c b f).word a = s.word a := by
  cases c
  · exact ⟨rfl, rfl, rfl, rfl, rfl, rfl, rfl, fun _ _ => rfl⟩
  · exact ⟨State.setFlag_mem .., State.setFlag_tb0 .., State.setFlag_image .., State.setFlag_sectCfg .., State.setFlag_halfA ..,
      State.setFlag_halfB .., State.setFlag_boot .., fun a ha => State.word_setFld_outside _ _ (.inl ha)⟩

theorem moduleCleared_reads {s : State} (hc : s.canonical = true) :
    let u := moduleCleared s
    u.word (MOD.addr + 0xC) = s.word (MOD.addr + 0xC) ∧ u.mem = s.mem ∧ u.tb0 = s.tb0 ∧ u.image = none ∧ u.sectCfg = .none ∧
      u.halfA = .reset ∧ u.halfB = .reset ∧ u.boot.key = s.boot.key := by
  obtain ⟨mem, tb0, image, sectCfg, halfA, halfB, boot, word⟩ :=
    flagIf_outside (clearedBase s false) (!false && s.flag BPI.addr BPI.PCIE_UP) (b := BPI.addr) BPI.PCIE_UP
  refine ⟨?_, (State.setFld_mem ..).trans mem, (State.setFld_tb0 ..).trans tb0, (State.setFld_image ..).trans image,
    (State.setFld_sectCfg ..).trans sectCfg, (State.setFld_halfA ..).trans halfA, (State.setFld_halfB ..).trans halfB,
    (congrArg BootUnit.key ((State.setFld_boot ..).trans boot)).trans rfl⟩
  exact (State.word_setFld_outside _ _ (by decide)).trans ((word _ (by decide)).trans (clearedBase_straps hc))

theorem resetBase_strapped {s : State} (hc : s.canonical = true) :
    Strapped (s.fld MOD.addr MOD.STRAPS) s.tb0 (applyStraps (resetBase s false)) ∧
      (applyStraps (resetBase s false)).mem = s.mem ∧ (applyStraps (resetBase s false)).boot.key = s.boot.key := by
  rw [resetBase_module]
  obtain ⟨cword, cmem, ctb0, cimage, csect, chA, chB, ckey⟩ := moduleCleared_reads hc
  have isl := islandBegins_islandOnly csect
  obtain ⟨amem, -, -, -, -, aboot, -⟩ := applyStraps_rest (islandBegins (moduleCleared s))
  have straps : (islandBegins (moduleCleared s)).fld MOD.addr MOD.STRAPS = s.fld MOD.addr MOD.STRAPS :=
    State.fld_of_word (by decide) ((isl.word _ (by decide)).trans cword)
  refine ⟨applyStraps_strapped straps (isl.tb0.trans ctb0) (isl.image.trans cimage) (isl.halfA.trans chA) (isl.halfB.trans chB),
    amem.trans (isl.mem.trans cmem), ?_⟩
  rw [aboot, isl.boot]
  exact ckey

theorem moduleReset_started {s : State} (hc : s.canonical = true) (pa pb : Bool) :
    let old := s.fld MOD.addr MOD.STRAPS
    let t := moduleReset s pa pb
    let m := (solverReset (solverReset s .a) .b).mem
    (old.testBit 12 = false → s.boot.key = none → Begun old s.tb0 t ∧ t.fld MOD.addr MOD.STATE = 3 ∧ t.mem = m) ∧
    (old.testBit 12 = true → Begun old s.tb0 t ∧ t.fld MOD.addr MOD.STATE = 4 ∧ t.mem = m) ∧
    ∀ i, old.testBit 12 = false → s.boot.key = some i → ∃ u, t = readKey u i ∧ Begun old s.tb0 u ∧ u.mem = m := by
  intro old t m
  have solv := (solverReset_strapKeeps s .a).trans (solverReset_strapKeeps (solverReset s .a) .b)
  obtain ⟨strapped, mem, key⟩ := resetBase_strapped (solv.canonical hc)
  have straps : (solverReset (solverReset s .a) .b).fld MOD.addr MOD.STRAPS = old := State.fld_of_word (by decide) (solv.word hc)
  rw [straps, solv.tb0] at strapped
  have boot : (applyStraps (resetBase (solverReset (solverReset s .a) .b) false)).boot.key = s.boot.key :=
    key.trans (congrArg BootUnit.key solv.boot)
  obtain ⟨waits, host, reads⟩ := startSequence_strapped strapped pa pb
  rw [boot] at waits reads
  rw [mem] at waits host reads
  exact ⟨waits, host, reads⟩

/-! The key, the host's GO and the strap check (R433, R438, R447). -/

/-- The key space emptied, with the bytes of a key. -/
def keyFilled (s : State) (cells : List Host.Cell) : State :=
  cells.foldl (fun s c => s.setByte (keyBase + c.1 % 0x10000000) c.2) { s with mem := storeClear s.mem keyBase 0x10000000 }

/-- A key in place, before its event. -/
def keyPlaced (s : State) (id : Nat) (cells : List Host.Cell) : State :=
  (keyFilled s cells).setBoot { (keyFilled s cells).boot with key := some id }

theorem setByte_foldl_rest (l : List Host.Cell) (at_ : Nat → Nat) (s : State) :
    let t := l.foldl (fun (s : State) c => s.setByte (at_ c.1) c.2) s
    t.regs = s.regs ∧ t.tb0 = s.tb0 ∧ t.boot = s.boot := by
  induction l generalizing s with
  | nil => exact ⟨rfl, rfl, rfl⟩
  | cons c l ih => exact ih _

theorem keyPlaced_rest (s : State) (id : Nat) (cells : List Host.Cell) :
    (keyPlaced s id cells).boot = { s.boot with key := some id } ∧ (keyPlaced s id cells).regs = s.regs ∧
      (keyPlaced s id cells).tb0 = s.tb0 := by
  obtain ⟨regs, tb0, boot⟩ := setByte_foldl_rest cells (fun a => keyBase + a % 0x10000000)
    { s with mem := storeClear s.mem keyBase 0x10000000 }
  refine ⟨?_, regs, tb0⟩
  show { (keyFilled s cells).boot with key := some id } = _
  rw [show (keyFilled s cells).boot = s.boot from boot]

theorem byte_storeClear {s : State} (hc : s.canonical = true) (lo len a : Nat) :
    storeGet 0 (storeClear s.mem lo len) a = if lo ≤ a ∧ a < lo + len then 0 else s.byte a :=
  storeGet_clear lo len a (storeWf_sorted (Bool.and_eq_true_iff.mp hc).2)

theorem keyInserted_eq (s : State) (id : Nat) (cells : List Host.Cell) :
    keyInserted s id cells =
      if (raiseBoth (keyPlaced s id cells) 11).fld MOD.addr MOD.STATE = 3 then readKey (raiseBoth (keyPlaced s id cells) 11) id
      else raiseBoth (keyPlaced s id cells) 11 := rfl

theorem key_commands (s : State) (id : BitVec 64) (cells : List (Nat × Byte)) :
    (∃ w, w.boot = { s.boot with key := some id.toNat } ∧ w.regs = s.regs ∧ w.tb0 = s.tb0 ∧
      (s.canonical = true → cells = [] → ∀ a, keyBase ≤ a → a < keyBase + 0x10000000 → w.byte a = 0) ∧
      ((raiseBoth w 11).fld MOD.addr MOD.STATE ≠ 3 → exec (.keyInserted id cells) s = .next (raiseBoth w 11)) ∧
      ((raiseBoth w 11).fld MOD.addr MOD.STATE = 3 → exec (.keyInserted id cells) s = .next (readKey (raiseBoth w 11) id.toNat))) ∧
    ∃ w, exec .keyRemoved s = .next (raiseBoth w 11) ∧ w.boot = { s.boot with key := none } ∧ w.regs = s.regs ∧
      (s.canonical = true → ∀ a, w.byte a = if keyBase ≤ a ∧ a < keyBase + 0x10000000 then 0 else s.byte a) := by
  obtain ⟨boot, regs, tb0⟩ := keyPlaced_rest s id.toNat cells
  refine ⟨⟨_, boot, regs, tb0, fun hc hn a h1 h2 => ?_,
    fun h => congrArg Host.Outcome.next ((keyInserted_eq ..).trans (if_neg h)),
    fun h => congrArg Host.Outcome.next ((keyInserted_eq ..).trans (if_pos h))⟩,
    ⟨_, congrArg Host.Outcome.next rfl, rfl, rfl, fun hc a => byte_storeClear hc ..⟩⟩
  subst hn
  exact (byte_storeClear hc keyBase 0x10000000 a).trans (if_pos ⟨h1, h2⟩)

/-! The strap check (R433). -/

/-- The contacts that differ and are not logged yet. -/
def newStraps (diff logged : Nat) : Nat :=
  (List.range 14).foldl (fun m i => if bitOf diff i && !bitOf logged i then setBit m i true else m) 0

theorem strapCheck_eq (s : State) (contacts : Nat) :
    strapCheck s contacts =
      if newStraps (straps s ^^^ contacts) s.boot.strapLogged = 0 then s
      else faultLog (s.setBoot { s.boot with strapLogged := s.boot.strapLogged ||| newStraps (straps s ^^^ contacts) s.boot.strapLogged })
        0xFF none none (some (newStraps (straps s ^^^ contacts) s.boot.strapLogged)) := rfl

theorem newStraps_none (logged : Nat) : newStraps 0 logged = 0 := by
  have none (l : List Nat) : l.foldl (fun m i => if bitOf 0 i && !bitOf logged i then setBit m i true else m) 0 = 0 := by
    induction l with
    | nil => rfl
    | cons i l ih => exact (congrArg (fun m => l.foldl _ m) (if_neg (by
      rw [bitOf_eq_testBit, Nat.zero_testBit]
      exact Bool.false_ne_true))).trans ih
  exact none _

/-- One contact that differs is logged unless it is logged already. -/
theorem newStraps_one (logged : Nat) {i : Nat} (hi : i < 14) : newStraps (2 ^ i) logged = if bitOf logged i then 0 else 2 ^ i := by
  have step (l : List Nat) (m : Nat) (hl : i ∉ l) :
      l.foldl (fun m j => if bitOf (2 ^ i) j && !bitOf logged j then setBit m j true else m) m = m := by
    induction l generalizing m with
    | nil => rfl
    | cons j l ih =>
      have hj : bitOf (2 ^ i) j = false := by
        rw [bitOf_eq_testBit, Nat.testBit_two_pow]
        exact decide_eq_false fun h => hl (h ▸ List.mem_cons_self ..)
      rw [List.foldl_cons, hj, Bool.false_and, if_neg Bool.false_ne_true]
      exact ih m fun h => hl (List.mem_cons_of_mem _ h)
  have split : List.range 14 = List.range i ++ i :: List.range' (i + 1) (13 - i) := by
    match i, hi with
    | 0, _ | 1, _ | 2, _ | 3, _ | 4, _ | 5, _ | 6, _ | 7, _ | 8, _ | 9, _ | 10, _ | 11, _ | 12, _ | 13, _ => rfl
  have self : bitOf (2 ^ i) i = true := by rw [bitOf_eq_testBit, Nat.testBit_two_pow_self]
  unfold newStraps
  rw [split, List.foldl_append, List.foldl_cons, step _ _ (by simp), step _ _ (by simp), self, Bool.true_and]
  cases bitOf logged i
  · refine (if_pos rfl).trans ?_
    simp [setBit, setBits]
  · rfl

theorem strapCheck_commands (s : State) (straps : BitVec 14) :
    let st := straps.toNat
    let old := s.fld MOD.addr MOD.STRAPS
    (old = st → exec (.strapCheck straps) s = .next s) ∧
    ∀ i, i < 14 → old = Nat.xor st (2 ^ i) →
      (bitOf s.boot.strapLogged i = true → exec (.strapCheck straps) s = .next s) ∧
      (bitOf s.boot.strapLogged i = false → exec (.strapCheck straps) s = .next (faultLog (s.setBoot
        { s.boot with strapLogged := Nat.lor s.boot.strapLogged (2 ^ i) }) 0xFF none none (some (2 ^ i)))) := by
  intro st old
  refine ⟨fun h => congrArg Host.Outcome.next ((strapCheck_eq ..).trans (if_pos ?_)), fun i hi h => ?_⟩
  · rw [show Machine.straps s = st from h, Nat.xor_self, newStraps_none]
  · have diff : Machine.straps s ^^^ st = 2 ^ i := by
      rw [show Machine.straps s = st ^^^ 2 ^ i from h, Nat.xor_comm st, Nat.xor_assoc, Nat.xor_self, Nat.xor_zero]
    have run := strapCheck_eq s st
    rw [diff, newStraps_one _ hi] at run
    refine ⟨fun hl => congrArg Host.Outcome.next (run.trans (if_pos (if_pos hl))), fun hl => congrArg Host.Outcome.next ?_⟩
    rw [hl, if_neg Bool.false_ne_true, if_neg (by positivity)] at run
    exact run

theorem hostGo_commands (s : State) :
    (s.fld MOD.addr MOD.STATE ≠ 4 → exec .hostGo s = .next s) ∧
    (s.fld MOD.addr MOD.STATE = 4 →
      let m := storeSlice s.mem (dramAddr .a 0x8000000) 0x8000000
      let t := s.setFld MOD.addr MOD.STATE 0
      exec .hostGo s = .next (if slotValid m && imageSound m then startImage t (m.filter (fun c => decide (c.1 < imgLen m))) true
        else unreadable t m)) :=
  ⟨fun h => congrArg Host.Outcome.next (if_pos h), fun h => congrArg Host.Outcome.next (if_neg (not_not.mpr h))⟩

/-- Settles O59: power good and a module reset reach the same sequence with the straps latched; the key, the host's GO and the
strap check follow their equations. -/
theorem startSequence_holds : Obligations.StartSequence := by
  unfold Obligations.StartSequence
  intro straps pa pb vx vp rx rp id cells s v st old begun
  have power := powerOn_started s straps.isLt pa pb vx.toNat vp.toNat rx rp
  obtain ⟨pWait, pHost, pRead⟩ := power
  obtain ⟨keyIn, keyOut⟩ := key_commands s id cells
  obtain ⟨goNot, go⟩ := hostGo_commands s
  obtain ⟨same, one⟩ := strapCheck_commands s straps
  refine ⟨fun h => congrArg Host.Outcome.next (if_pos h), fun h0 hv => ?_, fun hc => ?_, keyIn, keyOut, goNot, go, same, one⟩
  · have run : exec (.powerGood straps pa pb vx vp rx rp) s = .next (powerOn s st pa pb vx.toNat vp.toNat rx rp) :=
      congrArg Host.Outcome.next (if_neg (not_or.mpr ⟨not_not.mpr h0, Nat.not_le.mpr hv⟩))
    refine ⟨fun hx hk => ?_, fun hx => ?_, fun i hx hk => ?_⟩
    · obtain ⟨beg, state⟩ := pWait hx hk
      exact ⟨_, run, beg, state⟩
    · obtain ⟨beg, state⟩ := pHost hx
      exact ⟨_, run, beg, state⟩
    · obtain ⟨u, hu, beg⟩ := pRead i hx hk
      exact ⟨u, run.trans (congrArg Host.Outcome.next hu), beg⟩
  · intro m
    obtain ⟨mWait, mHost, mRead⟩ := moduleReset_started hc pa pb
    refine ⟨fun hx hk => ?_, fun hx => ?_, fun i hx hk => ?_⟩
    · obtain ⟨beg, state, mem⟩ := mWait hx hk
      exact ⟨_, congrArg Host.Outcome.next rfl, beg, state, mem⟩
    · obtain ⟨beg, state, mem⟩ := mHost hx
      exact ⟨_, congrArg Host.Outcome.next rfl, beg, state, mem⟩
    · obtain ⟨u, hu, beg, mem⟩ := mRead i hx hk
      exact ⟨u, congrArg Host.Outcome.next hu, beg, mem⟩

end Sys2Proof.Machine
end

section
/-! PROOFS. The key and the supply: the statement of BROWN_OUT puts the supply's former voltages back (R457, R458). -/
namespace Sys2Proof.Machine

/-- The supply at X17 that a next state shows. -/
def shownX17 : Host.Outcome State Fault Refusal → Nat
  | .next t => t.boot.supply.vX17
  | _ => 0

/-- At reset, with 0.25 V at X17 and nothing at P3, hold-up begins and the monitor keeps the voltage it was given. -/
theorem brownOut_reset_shows : shownX17 (exec (.brownOut 1 0) State.reset) = 1 := by decide +kernel

/-- Refutes O60: in the clause of BROWN_OUT the state in which hold-up begins is given the start unit of the state before the
command, with the voltages of before; the model keeps the new ones, so that at reset with 0.25 V at X17 the two differ. -/
theorem not_keyAndSupply : ¬ Obligations.KeyAndSupply := by
  unfold Obligations.KeyAndSupply
  intro h
  obtain ⟨-, brownOut, -⟩ := (h.2 1 0 0 false false false 0 0 State.reset)
  have shown := congrArg shownX17 (brownOut (by decide +kernel) (by decide +kernel) (by decide +kernel))
  rw [brownOut_reset_shows] at shown
  exact absurd shown (by decide +kernel)

end Sys2Proof.Machine
end

section
/-! PROOFS. Commands and deadlines of the time bases, alarms, and the end of the wait of a half (R345, R346, R350, R354, R359,
R466). -/
namespace Sys2Proof.Machine

/-! A base that unlocks (R345). -/

/-- A base that has lost its lock, before its event. -/
def baseUnlocked (s : State) (h : Half) (b : Nat) : State :=
  let s := s.putFlag (TB.addr h b) TB.LOCKED false
  let x := s.tb h b
  let s := s.setTb h b { x with goodRun := 0, badRun := 0 }
  let s := setRate s h b (clampPpm (s.fld (TB.addr h b) TB.RATE_LIM) (rateOf x.integ))
  if b = 1 then s.setTime h { s.time h with tb1LockedAt := none } else s

theorem setLock_unlocks {s : State} {h : Half} {b : Nat} (hl : s.flag (TB.addr h b) TB.LOCKED = true) :
    setLock s h b false = raiseEvt (baseUnlocked s h b) h (34 + b) :=
  if_neg (by rw [hl]; decide)

theorem setTime_tb1LockedAt_tb (s : State) (h : Half) (t : Option Nat) (b : Nat) :
    (s.setTime h { s.time h with tb1LockedAt := t }).tb h b = s.tb h b := by
  unfold State.tb
  rw [State.time_setTime_same]
  unfold TimeUnit.base
  split <;> rfl

theorem baseUnlocked_reads (s : State) (h : Half) (b : Nat) :
    let r := TB.addr h b
    let u := baseUnlocked s h b
    u.flag r TB.LOCKED = false ∧ (u.tb h b).rate = clampPpm (s.fld r TB.RATE_LIM) (rateOf (s.tb h b).integ) ∧
      (u.tb h b).integ = (s.tb h b).integ ∧ (u.tb h b).val = (s.tb h b).val ∧ u.mem = s.mem := by
  let v := s.putFlag (TB.addr h b) TB.LOCKED false
  let w := v.setTb h b { v.tb h b with goodRun := 0, badRun := 0 }
  let z := setRate w h b (clampPpm (w.fld (TB.addr h b) TB.RATE_LIM) (rateOf (v.tb h b).integ))
  have flag : z.flag (TB.addr h b) TB.LOCKED = false := by
    have rate : z.fld (TB.addr h b) TB.LOCKED = w.fld (TB.addr h b) TB.LOCKED := setRate_fld_of_apart _ _ _ _ (by decide)
    refine (congrArg (fun n => decide (n ≠ 0)) rate).trans ((State.setTb_flag ..).trans ?_)
    exact State.flag_putFlag_eq _ _ (by decide) rfl
  have lim : w.fld (TB.addr h b) TB.RATE_LIM = s.fld (TB.addr h b) TB.RATE_LIM :=
    (State.setTb_fld ..).trans (State.fld_putFlag_of_apart _ _ (by decide))
  have same : v.tb h b = s.tb h b := State.putFlag_tb ..
  have tb : z.tb h b = { s.tb h b with
      goodRun := 0, badRun := 0, rate := clampPpm (s.fld (TB.addr h b) TB.RATE_LIM) (rateOf (s.tb h b).integ) } := by
    rw [setRate_tb_same, State.tb_setTb_same, lim, same]
  have mem : z.mem = s.mem := (setRate_mem ..).trans ((State.setTb_mem ..).trans (State.putFlag_mem ..))
  have reads : z.flag (TB.addr h b) TB.LOCKED = false ∧
      (z.tb h b).rate = clampPpm (s.fld (TB.addr h b) TB.RATE_LIM) (rateOf (s.tb h b).integ) ∧
      (z.tb h b).integ = (s.tb h b).integ ∧ (z.tb h b).val = (s.tb h b).val ∧ z.mem = s.mem := by
    rw [tb]
    exact ⟨flag, rfl, rfl, rfl, mem⟩
  have two : baseUnlocked s h b = if b = 1 then z.setTime h { z.time h with tb1LockedAt := none } else z := rfl
  intro r u
  show (baseUnlocked s h b).flag _ _ = _ ∧ ((baseUnlocked s h b).tb h b).rate = _ ∧ ((baseUnlocked s h b).tb h b).integ = _ ∧
    ((baseUnlocked s h b).tb h b).val = _ ∧ (baseUnlocked s h b).mem = _
  rw [two]
  clear_value z
  split
  · rw [setTime_tb1LockedAt_tb, State.setTime_mem]
    refine ⟨?_, reads.2⟩
    rw [State.flag_congr_regs (State.setTime_regs ..) (State.setTime_image ..) (State.setTime_sect ..)]
    exact reads.1
  · exact reads

theorem lockLoss_eq {s : State} {h : Half} {dom t : Nat} (hd : lossDeadline s h (dom + 1) = some t) :
    lockLoss s h dom = if s.fld (TB.addr h (dom + 1)) TB.SRC = 0 ∧ t < s.tb0 then setLock s h (dom + 1) false else s := by
  unfold lockLoss
  dsimp only
  rw [hd]

theorem returnPrimary_eq {s : State} {h : Half} {t : Nat} (ht : (s.time h).tb1LockedAt = some t) :
    returnPrimary s h =
      if s.fld (TB3X.addr h) TB3X.STATE = 1 ∧ t + s.fld (TB3X.addr h) TB3X.RETURN_S * 10 ^ 9 ≤ s.tb0 then
        s.setTime h { s.time h with wantState := some 0 }
      else s := by
  unfold returnPrimary
  rw [ht]

/-! Alarms (R359). -/

/-- A fired alarm: a periodic one at its next instant, another disabled. -/
def alarmFired (s : State) (a per due : Nat) : State := if per = 0 then s.setFld a ALARM.EN 0 else s.setQuad a (due + per)

theorem fireAlarm_eq (s : State) (h : Half) (i stamp : Nat) :
    fireAlarm s h i stamp =
      raiseAt (alarmFired s (ALARM.addr h i) (s.fld (ALARM.addr h i) ALARM.ALARM_PER) (s.quad (ALARM.addr h i))) h (48 + i) stamp := rfl

theorem alarmDue_eq (s : State) (h : Half) (i : Nat) :
    alarmDue s h i =
      if s.flag (ALARM.addr h i) ALARM.EN &&
          decide (s.quad (ALARM.addr h i) ≤ baseNs s h (s.fld (ALARM.addr h i) ALARM.BASE)) then
        fireAlarm s h i (s.quad (ALARM.addr h i))
      else s := rfl

/-- An alarm with its base taken and enabled. -/
def alarmEnabled (s : State) (a base : Nat) : State := (s.setFld a ALARM.BASE base).setFld a ALARM.EN 1

theorem alarmWrite_enable (s : State) (h : Half) (i : Nat) (base : BitVec 2) :
    alarmWrite s h i (1 + 2 * base.toNat) =
      if !s.flag (ALARM.addr h i) ALARM.EN &&
          decide ((alarmEnabled s (ALARM.addr h i) base.toNat).quad (ALARM.addr h i) <
            baseNs (alarmEnabled s (ALARM.addr h i) base.toNat) h base.toNat) then
        fireAlarm ((alarmEnabled s (ALARM.addr h i) base.toNat).setFld (ALARM.addr h i) ALARM.LATE 1) h i
          ((alarmEnabled s (ALARM.addr h i) base.toNat).servoNow h)
      else alarmEnabled s (ALARM.addr h i) base.toNat := by
  have en : bitOf (1 + 2 * base.toNat) 0 = true := decide_eq_true (by omega)
  have late : bitOf (1 + 2 * base.toNat) 3 = false := decide_eq_false (by have := base.isLt; omega)
  have sel : bitsOf (1 + 2 * base.toNat) 2 1 = base.toNat := by
    have := base.isLt
    show (1 + 2 * base.toNat) / 2 ^ 1 % 2 ^ (2 + 1 - 1) = base.toNat
    omega
  unfold alarmWrite
  dsimp only
  rw [en, late, sel, if_neg Bool.false_ne_true, Bool.true_and]
  rfl

theorem alarmEnabled_reads (s : State) (h : Half) (i base : Nat) :
    let a := ALARM.addr h i
    (alarmEnabled s a base).quad a = s.quad a ∧ (∀ c, baseNs (alarmEnabled s a base) h c = baseNs s h c) ∧
      (alarmEnabled s a base).servoNow h = s.servoNow h ∧
      ((alarmEnabled s a base).setFld a ALARM.LATE 1).quad a = s.quad a ∧
      ((alarmEnabled s a base).setFld a ALARM.LATE 1).fld a ALARM.ALARM_PER = s.fld a ALARM.ALARM_PER := by
  intro a
  have quad (t : State) (f : Fld) (v : Nat) (hf : f.off = 0xC) : (t.setFld a f v).quad a = t.quad a :=
    State.quad_setFld_outside _ _ (.inl (by omega))
  have half : (alarmEnabled s a base).half h = s.half h := (State.setFld_half ..).trans (State.setFld_half ..)
  have enabled : (alarmEnabled s a base).quad a = s.quad a := (quad _ _ _ rfl).trans (quad _ _ _ rfl)
  refine ⟨enabled, fun c => ?_, congrArg (fun u => u.tb3.ns) (State.time_congr half), (quad _ _ _ rfl).trans enabled, ?_⟩
  · unfold baseNs
    rw [State.tb_congr half, show (alarmEnabled s a base).tb0 = s.tb0 from (State.setFld_tb0 ..).trans (State.setFld_tb0 ..)]
  · unfold alarmEnabled
    rw [State.fld_setFld_of_apart _ _ (by decide), State.fld_setFld_of_apart _ _ (by decide), State.fld_setFld_of_apart _ _ (by decide)]

theorem alarm_commands (via : Via) (h : Half) (i : Fin 16) (base : BitVec 2) (s : State) (hr : reaches s via h) :
      let a := ALARM.addr h i.val
      let per := s.fld a ALARM.ALARM_PER
      let due := s.quad a
      let en := (s.setFld a ALARM.BASE base.toNat).setFld a ALARM.EN 1
      let fired := fun (t : State) => if per = 0 then t.setFld a ALARM.EN 0 else t.setQuad a (due + per)
      (s.flag a ALARM.EN = true → due ≤ baseNs s h (s.fld a ALARM.BASE) →
        exec (.timeAlarm h i) s = .next (raiseAt (fired s) h (48 + i.val) due)) ∧
      (s.flag a ALARM.EN = false ∨ baseNs s h (s.fld a ALARM.BASE) < due → exec (.timeAlarm h i) s = .next s) ∧
      (s.flag a ALARM.EN = true ∨ baseNs s h base.toNat ≤ due → exec (.alarmEnable via i base) s = .next en) ∧
      (s.flag a ALARM.EN = false → due < baseNs s h base.toNat → exec (.alarmEnable via i base) s =
        .next (raiseAt (fired (en.setFld a ALARM.LATE 1)) h (48 + i.val) (s.servoNow h))) := by
  intro a per due en fired
  obtain ⟨quad, bases, servo, lateQuad, latePer⟩ := alarmEnabled_reads s h i.val base.toNat
  have enable : exec (.alarmEnable via i base) s = .next (alarmWrite s h i.val (1 + 2 * base.toNat)) := next_reaches hr _ _ _
  have written := alarmWrite_enable s h i.val base
  rw [quad, bases, servo, fireAlarm_eq, lateQuad, latePer] at written
  rw [enable, written]
  refine ⟨fun hen hd => congrArg Host.Outcome.next ((alarmDue_eq ..).trans (if_pos ?_)),
    fun hn => congrArg Host.Outcome.next ((alarmDue_eq ..).trans (if_neg ?_)),
    fun hn => congrArg Host.Outcome.next (if_neg ?_), fun hen hd => congrArg Host.Outcome.next (if_pos ?_)⟩
  · rw [hen]
    exact decide_eq_true hd
  · rw [Bool.and_eq_true, decide_eq_true_eq]
    rintro ⟨hen, hd⟩
    rcases hn with hn | hn
    · exact Bool.false_ne_true (hn.symm.trans hen)
    · exact Nat.not_le.mpr hn hd
  · rw [Bool.and_eq_true, decide_eq_true_eq, Bool.not_eq_true']
    rintro ⟨hen, hd⟩
    rcases hn with hn | hn
    · exact Bool.false_ne_true (hen.symm.trans hn)
    · exact Nat.not_lt.mpr hn hd
  · rw [hen]
    exact decide_eq_true hd

/-! The rings of a half start: time, and the listed state of its servo time, stay. -/

/-- The address of TB3X.STATE of a half. -/
def servoStateAddr (h : Half) : Nat := TB3X.addr h + TB3X.STATE.off

/-- What a step of a ring's start leaves: the half's time, TB0, and the listed state of its servo time. -/
structure TimeKept (h : Half) (s t : State) : Prop where
  time : t.time h = s.time h
  tb0 : t.tb0 = s.tb0
  listed : ∀ w, storeFind s.regs (servoStateAddr h) = some w → storeFind t.regs (servoStateAddr h) = some w

theorem TimeKept.refl (h : Half) (s : State) : TimeKept h s s := ⟨rfl, rfl, fun _ => id⟩

theorem TimeKept.trans {h : Half} {s t u : State} (a : TimeKept h s t) (b : TimeKept h t u) : TimeKept h s u :=
  ⟨b.time.trans a.time, b.tb0.trans a.tb0, fun w => b.listed w ∘ a.listed w⟩

theorem TimeKept.foldl {h : Half} {α : Type} {f : State → α → State} (hf : ∀ s x, TimeKept h s (f s x)) (l : List α) (s : State) :
    TimeKept h s (l.foldl f s) := by
  induction l generalizing s with
  | nil => exact .refl h s
  | cons x l ih => exact (hf s x).trans (ih _)

theorem servoState_quiet (h : Half) : quietReg (servoStateAddr h) := by
  refine ⟨by cases h <;> decide, fun g => ?_, fun g => ?_, by cases h <;> decide⟩ <;> cases h <;> cases g <;> decide

theorem LogKeeps.timeKept {s t : State} (k : LogKeeps s t) (h : Half) : TimeKept h s t :=
  ⟨k.time h, k.tb0, fun w => k.listed _ w (servoState_quiet h)⟩

theorem listed_setWord {s : State} {a x : Nat} {w : Word} (v : Word) (n : x ≠ a) (hw : storeFind s.regs x = some w) :
    storeFind (s.setWord a v).regs x = some w := (storeFind_put_other _ _ n).trans hw

/-- A register at or above the rings of a half. -/
theorem TimeKept.setFld (s : State) {h : Half} {b : Nat} (f : Fld) (v : Nat) (hb : RING.addr h 0 ≤ b) :
    TimeKept h s (s.setFld b f v) where
  time := State.time_congr (State.setFld_half ..)
  tb0 := State.setFld_tb0 ..
  listed w hw := by
    have below : servoStateAddr h < RING.addr h 0 := by cases h <;> decide
    unfold State.setFld
    split
    · exact listed_setWord _ (by omega) hw
    · exact listed_setWord _ (by omega) (listed_setWord _ (by omega) hw)

theorem TimeKept.resetRegs (s : State) {h : Half} {lo : Nat} (n : Nat) (hl : RING.addr h 0 ≤ lo) :
    TimeKept h s (s.resetRegs lo n) where
  time := State.time_congr (State.resetRegs_half ..)
  tb0 := rfl
  listed w hw := by
    have below : servoStateAddr h < RING.addr h 0 := by cases h <;> decide
    refine storeFind_filter_of_some _ hw ?_
    rw [decide_eq_false (p := lo ≤ servoStateAddr h) (by omega)]
    rfl

theorem TimeKept.setRing (s : State) (h : Half) (r : Nat) (x : RingUnit) : TimeKept h s (s.setRing h r x) where
  time := by
    unfold State.time State.setRing
    rw [State.half_onHalf_same]
  tb0 := State.setRing_tb0 ..
  listed w hw := by
    rw [State.setRing_regs]
    exact hw

theorem ringAddr_ge (h : Half) (r : Nat) : RING.addr h 0 ≤ RING.addr h r := by
  unfold RING.addr
  omega

theorem nodeAddr_ge (h : Half) (r i : Nat) : RING.addr h 0 ≤ NODE.addr h r i := by
  unfold RING.addr NODE.addr
  omega

theorem ringClear_timeKept (s : State) (h : Half) (r : Nat) : TimeKept h s (ringClear s h r) := by
  have ring := ringAddr_ge h r
  have clear (u : State) (o n : Nat) : TimeKept h u (u.resetRegs (RING.addr h r + o) n) := .resetRegs u n (by omega)
  unfold ringClear
  dsimp only
  refine TimeKept.trans ?_ (TimeKept.foldl (fun u i => .resetRegs u 8 (nodeAddr_ge h r i)) _ _)
  refine TimeKept.trans ?_ (clear _ 0x404 4)
  refine TimeKept.trans ?_ (clear _ 0x1C 4)
  exact TimeKept.trans (.setRing ..) (clear _ 4 8)

theorem ringFail_timeKept (s : State) (h : Half) {r : Nat} (hr : r < 8) (code found : Nat) : TimeKept h s (ringFail s h r code found) := by
  have ring (u : State) (f : Fld) (v : Nat) : TimeKept h u (u.setFld (RING.addr h r) f v) := .setFld u f v (ringAddr_ge h r)
  have shown := ((((ring s RING.STATE 4).trans (ring _ RING.FAIL_CODE code)).trans (ring _ RING.FOUND_RING found)).trans
    (ring _ RING.CH_A_OK (b2n false))).trans (ring _ RING.CH_B_OK (b2n false))
  have event : ringEvt r < 256 := by
    unfold ringEvt
    omega
  unfold ringFail
  dsimp only
  refine TimeKept.trans ?_ ((faultLog_logKeeps ..).timeKept h)
  refine TimeKept.trans ?_ ((raiseEvt_raiseKeeps _ h event).toLogKeeps.timeKept h)
  refine TimeKept.trans ?_ (.setRing ..)
  exact shown

theorem launch_timeKept (s : State) (h : Half) (r mask : Nat) (f : RFrame) : TimeKept h s (launch s h r mask f) := by
  unfold launch
  split
  · exact .setRing ..
  · exact .refl h s

theorem ringLinked_timeKept (s : State) (h : Half) {r : Nat} (hr : r < 8) : TimeKept h s (ringLinked s h r) := by
  unfold ringLinked
  dsimp only
  split
  · exact ringFail_timeKept s h hr 2 0
  · split
    · have epoch : TimeKept h s (takeEpoch s h r) := (logKeeps_setMemN ..).timeKept h
      exact (epoch.trans (.setRing ..)).trans (launch_timeKept ..)
    · exact .refl h s

theorem ringBegin_timeKept (s : State) (h : Half) {r : Nat} (hr : r < 8) : TimeKept h s (ringBegin s h r) := by
  have state := (ringClear_timeKept s h r).trans (.setFld _ RING.STATE 1 (ringAddr_ge h r))
  have nodes (u : State) (l : List NodeCfg) : TimeKept h u
      (l.foldl (fun s n => s.setFld (NODE.addr h r (n.addr - 1)) NODE.N_STATE 1) u) :=
    .foldl (fun u n => .setFld u NODE.N_STATE 1 (nodeAddr_ge h r _)) l u
  have configured (l : List NodeCfg) := state.trans (nodes _ l)
  unfold ringBegin
  dsimp only
  split
  · refine TimeKept.trans ?_ (ringLinked_timeKept _ h hr)
    refine TimeKept.trans ?_ (.setRing ..)
    exact ((configured _).trans (.setFld _ RING.CH_A_OK 1 (ringAddr_ge h r))).trans (.setFld _ RING.CH_B_OK 1 (ringAddr_ge h r))
  · exact (configured _).trans (ringFail_timeKept _ h hr 11 0)

theorem ringStart_timeKept (s : State) (h : Half) {r : Nat} (hr : r < 8) : TimeKept h s (ringStart s h r) := by
  unfold ringStart
  dsimp only
  split
  · exact .refl h s
  · exact (TimeKept.setRing s h r _).trans (ringBegin_timeKept _ h hr)

theorem startRings_timeKept (s : State) (h : Half) : TimeKept h s (startRings s h) := by
  have each (l : List Nat) (hl : ∀ r ∈ l, r < 8) (u : State) :
      TimeKept h u (l.foldl (fun s r => if ringConfigured s r then ringStart s h r else s) u) := by
    induction l generalizing u with
    | nil => exact .refl h u
    | cons r l ih =>
      refine TimeKept.trans ?_ (ih (fun x hx => hl x (List.mem_cons_of_mem _ hx)) _)
      dsimp only
      split
      · exact ringStart_timeKept u h (hl r (List.mem_cons_self ..))
      · exact .refl h u
  exact each _ (fun r hr => List.mem_range.mp hr) s

/-! The wait of a half ends (R354). -/

/-- The base of servo time set to its source: what stands in the half's wait, and the listed state. -/
theorem alignTb3_kept (s : State) (h : Half) :
    ((alignTb3 s h).time h).startWait = (s.time h).startWait ∧ (alignTb3 s h).tb0 = s.tb0 ∧
      ∃ w, storeFind (alignTb3 s h).regs (servoStateAddr h) = some w := by
  obtain ⟨half, -, tb0, -⟩ := skipAlarms_rest (s.setTb h 3 { s.tb h 3 with val := (sourceVal s h (alignState s h)).toNat }) h 3 16
  unfold alignTb3
  dsimp only
  refine ⟨?_, ?_, ⟨_, storeFind_put_same ..⟩⟩
  · rw [State.time_congr (State.setFld_half ..), State.time_setTime_same]
    exact (congrArg TimeUnit.startWait (State.time_congr (half h))).trans (State.setTb_startWait ..)
  · rw [State.setFld_tb0, State.setTime_tb0]
    exact tb0.trans (State.setTb_tb0 ..)

/-- A half whose wait has ended, before its rings start. -/
def waitEnded (s : State) (h : Half) : State :=
  let s := alignTb3 (s.setTime h { s.time h with startWait := none }) h
  s.setQuad (SYS.addr h + 0x108) (syncNow s h)

theorem waitEnd_eq (s : State) (h : Half) :
    waitEnd s h =
      if (waitEnded s h).activeHalf = some h then
        startRings ((waitEnded s h).setPen { (waitEnded s h).pen with ownedFrom := syncNow (waitEnded s h) h + 1 }) h
      else waitEnded s h := rfl

theorem waitEnd_timeKept (s : State) (h : Half) : TimeKept h (waitEnded s h) (waitEnd s h) := by
  rw [waitEnd_eq]
  split
  · have owned (u : State) (x : PenUnit) : TimeKept h u (u.setPen x) := ⟨rfl, rfl, fun _ => id⟩
    exact (owned _ _).trans (startRings_timeKept _ h)
  · exact .refl h _

theorem alignState_noWait (s : State) (h : Half) :
    alignState (s.setTime h { s.time h with startWait := none }) h = alignState s h := by
  have fld (b : Nat) (f : Fld) : (s.setTime h { s.time h with startWait := none }).fld b f = s.fld b f :=
    State.fld_congr (State.setTime_regs ..) (State.setTime_image ..) (State.setTime_sect ..) b f
  unfold alignState tbLocked State.flag
  simp only [fld]

theorem sourceVal_noWait (s : State) (h : Half) (st : Nat) :
    sourceVal (s.setTime h { s.time h with startWait := none }) h st = sourceVal s h st := by
  have base (b : Nat) (hb : b = 1 ∨ b = 2) : (s.setTime h { s.time h with startWait := none }).tb h b = s.tb h b := by
    unfold State.tb
    rw [State.time_setTime_same]
    rcases hb with rfl | rfl <;> rfl
  have d : (s.setTime h { s.time h with startWait := none }).fldS (TB3X.addr h) TB3X.D = s.fldS (TB3X.addr h) TB3X.D :=
    State.fldS_of_fld (State.fld_congr (State.setTime_regs ..) (State.setTime_image ..) (State.setTime_sect ..) _ _)
  unfold sourceVal dUnits
  rw [base 1 (.inl rfl), base 2 (.inr rfl), d]

theorem waitEnded_reads (s : State) (h : Half) :
    ((waitEnded s h).tb h 3).val = (sourceVal s h (alignState s h)).toNat ∧
      ((waitEnded s h).time h).startWait = none ∧ (waitEnded s h).tb0 = s.tb0 ∧
      (waitEnded s h).fld (TB3X.addr h) TB3X.STATE = alignState s h ∧
      ∃ w, storeFind (waitEnded s h).regs (servoStateAddr h) = some w := by
  obtain ⟨val, state, -⟩ := alignTb3_reads (s.setTime h { s.time h with startWait := none }) h
  obtain ⟨wait, tb0, w, listed⟩ := alignTb3_kept (s.setTime h { s.time h with startWait := none }) h
  rw [alignState_noWait] at val state
  rw [sourceVal_noWait] at val
  rw [State.time_setTime_same] at wait
  have ended : waitEnded s h = (alignTb3 (s.setTime h { s.time h with startWait := none }) h).setQuad (SYS.addr h + 0x108)
      (syncNow (alignTb3 (s.setTime h { s.time h with startWait := none }) h) h) := rfl
  rw [ended]
  generalize alignTb3 (s.setTime h { s.time h with startWait := none }) h = t at val wait tb0 state listed
  have far : servoStateAddr h ≠ SYS.addr h + 0x108 ∧ servoStateAddr h ≠ SYS.addr h + 0x108 + 4 := by cases h <;> decide
  refine ⟨?_, ?_, ?_, ?_, w, listed_setWord _ far.2 (listed_setWord _ far.1 listed)⟩
  · unfold State.tb at val ⊢
    rw [State.time_congr (State.setQuad_half ..)]
    exact val
  · rw [State.time_congr (State.setQuad_half ..)]
    exact wait
  · exact (State.setQuad_tb0 ..).trans (tb0.trans (State.setTime_tb0 ..))
  · refine (State.fld_of_words fun a h1 h2 => ?_).trans state
    have above : SYS.addr h + 0x110 ≤ TB3X.addr h + TB3X.STATE.off := by cases h <;> decide
    exact State.word_setQuad_other _ _ (by omega) (by omega)

/-- The end of the wait: servo time at its source, and the state that shows it, whatever the rings do. -/
theorem waitEnd_reads (s : State) (h : Half) :
    ((waitEnd s h).tb h 3).val = (sourceVal s h (alignState s h)).toNat ∧
      ((waitEnd s h).time h).startWait = none ∧ (waitEnd s h).tb0 = s.tb0 ∧
      (waitEnd s h).fld (TB3X.addr h) TB3X.STATE = alignState s h := by
  obtain ⟨val, wait, tb0, state, w, listed⟩ := waitEnded_reads s h
  have kept := waitEnd_timeKept s h
  refine ⟨?_, (congrArg TimeUnit.startWait kept.time).trans wait, kept.tb0.trans tb0, ?_⟩
  · unfold State.tb at val ⊢
    rw [kept.time]
    exact val
  · refine (State.fld_of_word (by decide) ?_).trans state
    show (waitEnd s h).word (servoStateAddr h) = (waitEnded s h).word (servoStateAddr h)
    unfold State.word
    rw [listed, kept.listed w listed]

theorem startWait_commands (s : State) (h : Half) :
      ((s.time h).startWait = none → exec (.startWaitExpiry h) s = .next s) ∧
      (∀ t, (s.time h).startWait = some t →
        let w := s.passTime (t - s.tb0)
        let st := if tbLocked s h 1 then 0 else if tbLocked s h 2 then 1 else 2
        ∃ u, exec (.startWaitExpiry h) s = .next u ∧ (u.time h).startWait = none ∧ u.tb0 = w.tb0 ∧
          u.fld (TB3X.addr h) TB3X.STATE = st ∧
          (u.tb h 3).val = (if st = 1 then (((w.tb h 2).val : Int) + dUnits w h).toNat else (w.tb h 1).val)) := by
  refine ⟨fun hn => congrArg Host.Outcome.next ?_, fun t ht => ?_⟩
  · unfold waitExpired
    rw [hn]
  · intro w st
    have run : waitExpired s h = waitEnd w h := by
      unfold waitExpired
      rw [ht]
    obtain ⟨val, wait, tb0, state⟩ := waitEnd_reads w h
    have same : alignState w h = st := by
      have fld (b : Nat) (f : Fld) : w.fld b f = s.fld b f := State.fld_congr rfl rfl rfl b f
      show alignState w h = alignState s h
      unfold alignState tbLocked State.flag
      simp only [fld]
    rw [same] at val state
    refine ⟨_, congrArg Host.Outcome.next run, wait, tb0, state, val.trans ?_⟩
    unfold sourceVal
    split
    · rfl
    · exact Int.toNat_natCast _

/-! SET and STAMP (R346, R466). -/

theorem tbCmd_set (s : State) (h : Half) (b : Nat) :
    tbCmd s h b 1 = skipAlarms (s.setTb h b { s.tb h b with
      val := ((s.tb h b).stSec * 10 ^ 9 + (s.tb h b).stNs) * 2 ^ 48 + (s.tb h b).stFrac * 2 ^ 32 }) h b 16 := by
  unfold tbCmd
  dsimp only
  rw [if_neg (by decide), if_pos (by decide)]
  unfold applySet stepBase tbUnit
  rfl

theorem tbCmd_stamp (s : State) (h : Half) (b : Nat) : tbCmd s h b 2 = s.setTb h b { s.tb h b with stamp := s.tb0 } := by
  unfold tbCmd
  dsimp only
  rw [if_pos (by decide), if_neg (by decide)]
  rfl

/-! The obligation. -/

/-- Settles O35: the commands of a base follow their equations, and an ended wait is read through what the rings' start keeps. -/
theorem timeBaseCommands : Obligations.TimeBaseCommands := by
  unfold Obligations.TimeBaseCommands
  refine ⟨fun via h dom v s hr => ?_, alarm_commands⟩
  intro b r x lim
  have set : exec (.tbSet via dom) s = .next (tbCmd s h (dom.val + 1) 1) := next_reaches hr _ _ _
  have stamp : exec (.tbStamp via dom) s = .next (tbCmd s h (dom.val + 1) 2) := next_reaches hr _ _ _
  have rate : exec (.tbRateWrite via dom v) s = .next (rateWrite s h (dom.val + 1) v.toNat) :=
    congrArg Host.Outcome.next (viaHalf2_reaches _ _ _ hr)
  obtain ⟨noWait, waits⟩ := startWait_commands s h
  refine ⟨set.trans (congrArg Host.Outcome.next (tbCmd_set ..)), stamp.trans (congrArg Host.Outcome.next (tbCmd_stamp ..)),
    fun hs => rate.trans (congrArg Host.Outcome.next (if_pos hs)),
    fun hs => rate.trans (congrArg Host.Outcome.next (if_neg hs)),
    fun t ht => ⟨fun hlt hs hl => ?_, fun hle => ?_⟩, fun t ht hst => ⟨fun hle => ?_, fun hlt => ?_⟩,
    noWait, waits⟩
  · have run : lockLoss s h dom.val = raiseEvt (baseUnlocked s h b) h (35 + dom.val) := by
      rw [lockLoss_eq ht, if_pos ⟨hs, hlt⟩, setLock_unlocks hl]
      exact congrArg (raiseEvt _ h) (by omega)
    obtain ⟨flag, hrate, integ, val, mem⟩ := baseUnlocked_reads s h b
    exact ⟨_, congrArg Host.Outcome.next run, flag, hrate, integ, val, mem⟩
  · exact congrArg Host.Outcome.next ((lockLoss_eq ht).trans (if_neg fun hx => Nat.not_lt.mpr hle hx.2))
  · exact congrArg Host.Outcome.next ((returnPrimary_eq ht).trans (if_pos ⟨hst, hle⟩))
  · exact congrArg Host.Outcome.next ((returnPrimary_eq ht).trans (if_neg fun hx => Nat.not_le.mpr hlt hx.2))


end Sys2Proof.Machine
end
